-- ==== Sys2Proof/Word.lean ====
section
/-! DEFINITION. The word types of the Z880 and their plainest arithmetic.
R2: bits are numbered from 0 at the least significant bit, and every multibyte field is little-endian. -/

/-- `x[lo + n - 1 : lo]` of a number read as bits (R2). -/
abbrev Nat.field (x lo n : Nat) : Nat := x / 2 ^ lo % 2 ^ n

/-- Bit `k` of a number (R2). -/
abbrev Nat.bitAt (x k : Nat) : Bool := x / 2 ^ k % 2 == 1

/-- A Boolean as a bit. -/
abbrev Bool.bit (b : Bool) : Nat := if b then 1 else 0

namespace Sys2Proof

/-- One byte of memory. -/
abbrev Byte := BitVec 8
/-- A lane's element of a vector register or latch (R6). -/
abbrev Word32 := BitVec 32
/-- A scalar register or handle (R6). -/
abbrev Word64 := BitVec 64
/-- A set of lanes, bit l for lane l (R33). -/
abbrev Mask := BitVec 32
/-- The 32 elements of a vector register or latch, lane 0 first. -/
abbrev Lanes := List Word32

/-- The lane positions 0 to 31 (R20). -/
def laneList : List Nat :=
  [0, 1, 2, 3, 4, 5, 6, 7, 8, 9, 10, 11, 12, 13, 14, 15,
   16, 17, 18, 19, 20, 21, 22, 23, 24, 25, 26, 27, 28, 29, 30, 31]

end Sys2Proof
end

