-- ==== Sys2Proof/Syntax.lean ====
section
/-! DEFINITION. The steps of the Z880: one constructor of `Instr` per row of the opcode table.
A slot operation carries the fields of its slot (R44); a token carries its bytes' fields (R67);
an event carries what the agent that makes it supplies. -/

namespace Sys2Proof

/-- The ten slots of a control word (R43), in the word's order. -/
inductive Slot where
  | S | P | A0 | A1 | V0 | V1 | X | M | T | C
  deriving DecidableEq, Repr, Inhabited

/-- The unit a slot operation runs on: A0 and A1 share one opcode map, and so do V0 and V1 (R262, R285). -/
inductive SlotKind where
  | S | P | A | V | X | M | T | C
  deriving DecidableEq, Repr, Inhabited

/-- Guard of a slot: negate bit and index (R44). -/
structure Guard where
  neg : Bool
  idx : Nat
  deriving DecidableEq, Repr, Inhabited

/-- Second source of an S operation: register or hole (R234). -/
inductive SSrc where
  | reg (r : Nat)
  | hole (h : Nat)
  deriving DecidableEq, Repr, Inhabited

/-- Value of `sli` (R236): the raw 46-bit immediate, or a hole. -/
inductive SImm where
  | imm (v : Nat)
  | hole (h : Nat)
  deriving DecidableEq, Repr, Inhabited

/-- Integer types (R234, R263, R299). -/
inductive ITy where
  | i64 | n64 | i32 | n32
  deriving DecidableEq, Repr, Inhabited

/-- Compare conditions (R234, R263); `un` only for `fcmp`. -/
inductive Cc where
  | eq | ne | lt | le | gt | ge | un
  deriving DecidableEq, Repr, Inhabited

/-- Rounding modes (R107). -/
inductive Rm where
  | rn | rz | ru | rd | ro
  deriving DecidableEq, Repr, Inhabited

/-- Vector source selector (R47). -/
inductive VSrc where
  | v (n : Nat)
  | s (n : Nat)
  | latch (n : Nat)
  | hole (n : Nat)
  deriving DecidableEq, Repr, Inhabited

/-- Vector destination (R49). -/
inductive VDst where
  | reg (n : Nat)
  | nw
  deriving DecidableEq, Repr, Inhabited

/-- Target of `btgt` (R239). -/
inductive Tgt where
  | imm (o : Nat)
  | sreg (r : Nat)
  | hole (h : Nat)
  deriving DecidableEq, Repr, Inhabited

/-- Destination of `srd` (R248). -/
inductive SrdDst where
  | s (n : Nat)
  | v (n : Nat)
  deriving DecidableEq, Repr, Inhabited

/-- Value of an A operation (R286). -/
inductive ASrc where
  | imm (v : Nat)
  | sreg (r : Nat)
  | hole (h : Nat)
  deriving DecidableEq, Repr, Inhabited

/-- Field read by `agget` (R286). -/
inductive AField where
  | c (k : Nat)
  | i (k : Nat)
  | lane
  | recIdx
  deriving DecidableEq, Repr, Inhabited

/-- Access width (R292). -/
inductive Width where
  | b8 | b16 | b32 | b64 | b128
  deriving DecidableEq, Repr, Inhabited

/-- Scope (R144). -/
inductive Scope where
  | warp | block | cluster | package | fabric
  deriving DecidableEq, Repr, Inhabited

/-- Order of an atomic (R145). -/
inductive MemOrder where
  | relaxed | acquire | release | acqRel
  deriving DecidableEq, Repr, Inhabited

/-- Operation of an atomic (R299). -/
inductive AtomOp where
  | add | min | max | and | or | xor | exch | cas | fadd
  deriving DecidableEq, Repr, Inhabited

/-- Combination of `xscan` and `xred` (R281). -/
inductive ScanOp where
  | addI32 | minI32 | maxI32 | minN32 | maxN32 | and | or | xor | fadd | fmin | fmax
  deriving DecidableEq, Repr, Inhabited

/-- Format pair of `mmac` (R113, R313). -/
inductive MPair where
  | bf16 | bf16w4 | f8 | i8 | i8sat | f32
  deriving DecidableEq, Repr, Inhabited

/-- Element formats (R99). -/
inductive Fmt where
  | byte | d8 | e4m3 | e5m2 | int8 | int4 | z4 | bf16 | fp32 | int32
  deriving DecidableEq, Repr, Inhabited

/-- Operation of `coll` (R327). -/
inductive CollOp where
  | sumF32 | sumBf16 | sumI32 | maxF32 | minF32
  deriving DecidableEq, Repr, Inhabited

/-- Time operand of `ftry` (R329). -/
inductive FTime where
  | imm (t : Nat)
  | sreg (r : Nat)
  deriving DecidableEq, Repr, Inhabited

/-- Selector of `fstat` (R331). -/
inductive FSel where
  | st | val | id
  deriving DecidableEq, Repr, Inhabited

/-- Where a temperature is sensed (R387). -/
inductive TempAt where
  | die (stack : Nat)
  | hbm (stack : Nat)
  deriving DecidableEq, Repr, Inhabited

/-- What the boot measures and finds (R220, R389, R181): for each physical stack, whether it is fused off,
whether it authenticated, whether its Groundsheet passed its self-test, its u_sync and its beat transit in ns, and the E_max
(mJ) firmware sets for each of its clusters from the coolant conditions (R193). -/
structure BootStack where
  fused    : Bool
  authOk   : Bool
  selfTest : Bool
  usync    : Nat
  transit  : Nat
  emax     : List Nat
  deriving DecidableEq, Repr, Inhabited

/-- What may be taken out of residence (R370): a frame of a tensor, or the stream copy of a code unit on a stack. -/
inductive OutFrame where
  | tensor (base tile : Nat)
  | stream (ctx image unit stack frame : Nat)
  deriving DecidableEq, Repr, Inhabited

/-- The steps of the Z880, one constructor per row of the opcode table. -/
inductive Instr where
  -- Host commands: firmware carries out the command at the head of function `fn`'s queue (R197, R198).
  | imgLoad (fn : Nat)
  | ctxOpen (fn : Nat)
  | tensorMap (fn : Nat)
  | meterGrant (fn : Nat)
  | counterAdvance (fn : Nat)
  | launch (fn : Nat)
  | taskLink (fn : Nat)
  | preempt (fn : Nat)
  | resume (fn : Nat)
  | vdieBind (fn : Nat)
  | timeRef (fn : Nat)
  | meterRead (fn : Nat)
  | meterCkpt (fn : Nat)
  | attest (fn : Nat)
  | queryPart (fn : Nat)
  | queryGround (fn : Nat)
  | queryTime (fn : Nat)
  | queryPower (fn : Nat)
  | queryVdie (fn : Nat)
  | queryPorts (fn : Nat)
  | ctxClose (fn : Nat)
  | imgUnload (fn : Nat)
  | tensorUnmap (fn : Nat)
  | peerMap (fn : Nat)
  | groundSet (fn : Nat)
  | unassignedCommand (fn : Nat)
  -- Host writes to the Lantern page, reset, and the world outside (R397, R373, R220 to R195).
  | lanternStop (fn value : Nat)
  | lanternRelease (fn value : Nat)
  | lanternBinsClear (fn engine bin : Nat)
  | lanternPageWrite (fn offset value : Nat)
  | functionLevelReset (fn : Nat)
  | powerUp (part : Nat) (found : List BootStack)
  | supplyLoss (bodies : Nat)
  | junctionTemperature (place : TempAt) (celsius : Nat)
  | hbmTemperature (hbm celsius : Nat)
  | stackSilence (stack : Nat)
  | ppsEdge
  | timeOfDayMessage (bytes : List Nat)
  | ptmDialogue (master : Option Nat)
  | syncBeat
  | beatArrival (stack : Nat)
  | bellowsPeriod (stack : Nat)
  | voltageSettled (stack : Nat)
  | currentSense (stack cluster draw : Nat)
  | heatIntegration (stack cluster energy : Nat)
  | droopDetect (stack cluster : Nat)
  | droopClear (stack cluster : Nat)
  | pitchCycle (stack cluster : Nat)
  | warpSample (stack core pitch fn : Nat)
  | trapEntry (block warp : Nat)
  -- Stream tokens (R67) and the empty word (R44).
  | shortIndex (entry : Nat) (holes : List Nat)
  | longIndex (entry : Nat) (holes : List Nat)
  | idle (n : Nat)
  | loop (c imm len : Nat)
  | ipf (off n : Nat)
  | unassignedToken (b : Nat)
  | emptyWord
  -- S slot (R233).
  | sadd (g : Guard) (d a : Nat) (b : SSrc) (ty : ITy)
  | ssub (g : Guard) (d a : Nat) (b : SSrc) (ty : ITy)
  | smul (g : Guard) (d a : Nat) (b : SSrc) (ty : ITy)
  | smulhi (g : Guard) (d a : Nat) (b : SSrc) (ty : ITy)
  | sand (g : Guard) (d a : Nat) (b : SSrc) (ty : ITy)
  | sor (g : Guard) (d a : Nat) (b : SSrc) (ty : ITy)
  | sxor (g : Guard) (d a : Nat) (b : SSrc) (ty : ITy)
  | sshl (g : Guard) (d a : Nat) (b : SSrc) (ty : ITy)
  | sshr (g : Guard) (d a : Nat) (b : SSrc) (ty : ITy)
  | ssar (g : Guard) (d a : Nat) (b : SSrc) (ty : ITy)
  | smin (g : Guard) (d a : Nat) (b : SSrc) (ty : ITy)
  | smax (g : Guard) (d a : Nat) (b : SSrc) (ty : ITy)
  | smov (g : Guard) (d : Nat) (b : SSrc) (ty : ITy)
  | sli (g : Guard) (d : Nat) (v : SImm)
  | ssel (g : Guard) (d a : Nat) (b : SSrc) (q : Nat) (qn : Bool)
  | scmp (g : Guard) (q a : Nat) (b : SSrc) (ty : ITy) (cc : Cc)
  | btgt (g : Guard) (bd : Nat) (t : Tgt)
  | bxfer (g : Guard) (b d : Nat)
  | bcall (g : Guard) (b d r : Nat)
  | lidx (g : Guard) (d n : Nat)
  | lbrk (g : Guard)
  | bar (g : Guard) (id : Nat)
  | exit (g : Guard)
  | trap (g : Guard) (n : Nat)
  | hret (g : Guard)
  | hretSkip (g : Guard)
  | srd (g : Guard) (d : SrdDst) (sr : Nat)
  | swr (g : Guard) (a sr : Nat)
  | clk (g : Guard) (d e : Nat)
  | dline (g : Guard) (a : Nat) (b : SSrc)
  | dtick (g : Guard) (b : SSrc)
  | dclose (g : Guard) (q : Nat)
  | pwacq (g : Guard) (a : Nat)
  | pwrel (g : Guard)
  | grantGiven (stack : Nat)
  | info (g : Guard) (d a kind : Nat)
  | vdhop (g : Guard) (d a : Nat) (b : SSrc)
  | mtrd (g : Guard) (v e l j : Nat)
  | mtck (g : Guard) (h j : Nat)
  | rainflyReply (id : Nat)
  | checkpointRecord
  -- P slot (R254).
  | pand (g : Guard) (d a : Nat) (na : Bool) (b : Nat) (nb : Bool)
  | por (g : Guard) (d a : Nat) (na : Bool) (b : Nat) (nb : Bool)
  | pxor (g : Guard) (d a : Nat) (na : Bool) (b : Nat) (nb : Bool)
  | pmov (g : Guard) (d a : Nat) (na : Bool)
  | pset (g : Guard) (d a : Nat) (na : Bool)
  | vany (g : Guard) (d a : Nat) (na : Bool)
  | vall (g : Guard) (d a : Nat) (na : Bool)
  | vcount (g : Guard) (d a : Nat) (na : Bool)
  | qand (g : Guard) (d a : Nat) (na : Bool) (b : Nat) (nb : Bool)
  | qor (g : Guard) (d a : Nat) (na : Bool) (b : Nat) (nb : Bool)
  | qxor (g : Guard) (d a : Nat) (na : Bool) (b : Nat) (nb : Bool)
  | mpush (g : Guard) (a : Nat) (na : Bool)
  | melse (g : Guard)
  | mpop (g : Guard)
  | regroup (g : Guard) (a : Nat) (na : Bool)
  | ungroup (g : Guard)
  | mspill (g : Guard) (n : Nat)
  | mfill (g : Guard) (n : Nat)
  -- A slots (R285).
  | agbind (g : Guard) (x : Nat) (v : ASrc)
  | agset (g : Guard) (x dim : Nat) (v : ASrc)
  | agadd (g : Guard) (x dim : Nat) (v : ASrc)
  | agstep (g : Guard) (x dim : Nat) (v : ASrc)
  | aglane (g : Guard) (x dim : Nat) (v : ASrc)
  | agget (g : Guard) (x : Nat) (f : AField) (d : Nat)
  -- V slots (R262).
  | vadd (g : Guard) (d : VDst) (a b : VSrc) (ty : ITy) (sat : Bool)
  | vsub (g : Guard) (d : VDst) (a b : VSrc) (ty : ITy) (sat : Bool)
  | vmul (g : Guard) (d : VDst) (a b : VSrc) (ty : ITy) (sat : Bool)
  | vmulhi (g : Guard) (d : VDst) (a b : VSrc) (ty : ITy)
  | vmad (g : Guard) (d : VDst) (a b c : VSrc) (ty : ITy) (sat : Bool)
  | vand (g : Guard) (d : VDst) (a b : VSrc) (ty : ITy)
  | vor (g : Guard) (d : VDst) (a b : VSrc) (ty : ITy)
  | vxor (g : Guard) (d : VDst) (a b : VSrc) (ty : ITy)
  | vshl (g : Guard) (d : VDst) (a b : VSrc) (ty : ITy)
  | vshr (g : Guard) (d : VDst) (a b : VSrc) (ty : ITy)
  | vsar (g : Guard) (d : VDst) (a b : VSrc) (ty : ITy)
  | vmin (g : Guard) (d : VDst) (a b : VSrc) (ty : ITy)
  | vmax (g : Guard) (d : VDst) (a b : VSrc) (ty : ITy)
  | vabs (g : Guard) (d : VDst) (a : VSrc) (ty : ITy) (sat : Bool)
  | vneg (g : Guard) (d : VDst) (a : VSrc) (ty : ITy) (sat : Bool)
  | vcmp (g : Guard) (pd : Nat) (a b : VSrc) (ty : ITy) (cc : Cc)
  | vsel (g : Guard) (d : VDst) (a b : VSrc) (ps : Nat) (pn : Bool)
  | vmov (g : Guard) (d : VDst) (a : VSrc) (ty : ITy)
  | vli (g : Guard) (d : VDst) (a b : VSrc)
  | vclz (g : Guard) (d : VDst) (a : VSrc) (ty : ITy)
  | vpopc (g : Guard) (d : VDst) (a : VSrc) (ty : ITy)
  | fadd (g : Guard) (d : VDst) (a b : VSrc) (rm : Rm)
  | fsub (g : Guard) (d : VDst) (a b : VSrc) (rm : Rm)
  | fmul (g : Guard) (d : VDst) (a b : VSrc) (rm : Rm)
  | fma (g : Guard) (d : VDst) (a b c : VSrc) (rm : Rm)
  | fmin (g : Guard) (d : VDst) (a b : VSrc)
  | fmax (g : Guard) (d : VDst) (a b : VSrc)
  | fabs (g : Guard) (d : VDst) (a : VSrc)
  | fneg (g : Guard) (d : VDst) (a : VSrc)
  | fcmp (g : Guard) (pd : Nat) (a b : VSrc) (cc : Cc)
  | fclass (g : Guard) (d : VDst) (a : VSrc)
  | hadd2 (g : Guard) (d : VDst) (a b : VSrc) (rm : Rm)
  | hmul2 (g : Guard) (d : VDst) (a b : VSrc) (rm : Rm)
  | hfma2 (g : Guard) (d : VDst) (a b c : VSrc) (rm : Rm)
  | cvt (g : Guard) (d : VDst) (a b : VSrc) (code : Nat) (rm : Rm)
  -- X slot (R278).
  | xchg (g : Guard) (d : VDst) (a : VSrc) (code : Nat)
  | xrot (g : Guard) (d : VDst) (a : VSrc) (r : Nat)
  | xbcast (g : Guard) (d : VDst) (a : VSrc) (l : Nat)
  | xidx (g : Guard) (d : VDst) (a b : VSrc)
  | xscan (g : Guard) (d : VDst) (a : VSrc) (op : ScanOp) (excl : Bool)
  | xred (g : Guard) (d : VDst) (a : VSrc) (op : ScanOp)
  | frcp (g : Guard) (d : VDst) (a : VSrc)
  | frsq (g : Guard) (d : VDst) (a : VSrc)
  | fexp2 (g : Guard) (d : VDst) (a : VSrc)
  | flog2 (g : Guard) (d : VDst) (a : VSrc)
  | fsin (g : Guard) (d : VDst) (a : VSrc)
  | fcos (g : Guard) (d : VDst) (a : VSrc)
  | ftanh (g : Guard) (d : VDst) (a : VSrc)
  -- M slot (R289) and the events of memory.
  | ld (g : Guard) (d : VDst) (x : Nat) (w : Width) (fe clr inc sx : Bool)
  | st (g : Guard) (a : VSrc) (x : Nat) (w : Width) (inc : Bool)
  | ldg (g : Guard) (d : VDst) (x : Nat) (w : Width) (gdim : Nat) (inc sx : Bool) (c : VSrc)
  | stg (g : Guard) (a : VSrc) (x : Nat) (w : Width) (gdim : Nat) (inc : Bool) (c : VSrc)
  | lblk (g : Guard) (h x n tag : Nat) (inc : Bool)
  | atom (g : Guard) (d : VDst) (x : Nat) (op : AtomOp) (ty : ITy) (order : MemOrder) (scope : Scope)
      (inc : Bool) (a b : VSrc)
  | fence (g : Guard) (scope : Scope)
  | drain (g : Guard) (scope : Scope)
  | probe (g : Guard) (d x a : Nat)
  | probeCompletion (block warp : Nat) (ok : Bool)
  | stc (g : Guard) (h x : Nat) (pair inc : Bool) (a : VSrc)
  | commitAcceptance (id : Nat)
  | commitVisibility (id : Nat)
  | ldas (g : Guard) (d : VDst) (x : Nat) (w : Width) (t : Nat) (inc sx : Bool) (pd : Nat)
  | ldasService (id lane : Nat)
  | qput (g : Guard) (q stage : Nat) (a : VSrc)
  | qget (g : Guard) (d : VDst) (q stage : Nat)
  | queueStep (id : Nat)
  | feset (g : Guard) (x : Nat) (w : Width) (inc : Bool)
  | feclr (g : Guard) (x : Nat) (w : Width) (inc : Bool)
  | longLoadReturn (id lane : Nat) (hit : Bool)
  | storePerformed (id lane : Nat)
  | lblkFill (id : Nat)
  -- T slot (R310) and the events of the matrix unit.
  | mmac (g : Guard) (h acc nf mf : Nat) (pair : MPair) (pro : Bool) (xa : Nat) (inca : Bool) (xb : Nat) (incb : Bool)
  | mmacStart (id : Nat)
  | mmacCompletion (id : Nat)
  | mzero (g : Guard) (acc nt : Nat)
  | mzeroDone (id : Nat)
  | mready (g : Guard)
  | mstore (g : Guard) (h acc nt mf : Nat) (fmt : Fmt) (rm : Rm) (src : Bool) (xd : Nat) (inc : Bool)
  | mstoreLanding (id : Nat)
  | mload (g : Guard) (h acc nt mf xs : Nat) (inc : Bool)
  | mloadCompletion (id : Nat)
  -- C slot (R322) and the events of the copy engine.
  | cpy (g : Guard) (h xd : Nat) (incd : Bool) (xs : Nat) (incs : Bool) (a : Nat)
  | cpym (g : Guard) (h xd : Nat) (incd : Bool) (xs : Nat) (incs : Bool) (a cmask : Nat)
  | coll (g : Guard) (h xd : Nat) (incd : Bool) (xs : Nat) (incs : Bool) (a xr : Nat) (incr : Bool) (op : CollOp)
  | copyStart (id : Nat)
  | copyCompletion (id : Nat)
  | fwait (g : Guard) (h : Nat)
  | ftry (g : Guard) (q h : Nat) (t : FTime)
  | ftryTimeout (block warp : Nat)
  | fcancel (g : Guard) (h : Nat)
  | fstat (g : Guard) (h d : Nat) (sel : FSel)
  | fmov (g : Guard) (h a : Nat)
  -- Events of fetch, firmware and the package.
  | decodeRefill (stack core : Nat)
  | streamFetch (stack core : Nat)
  | swapOut (block warp : Nat)
  | swapIn (block : Nat)
  | taskDispatch (ctx : Nat)
  | blockPlacement (ctx task stage num : Nat)
  | blockSave (block : Nat)
  | preemptionTimeout (block : Nat)
  | stageBalancer (ctx task : Nat)
  | taskCompletion (ctx task : Nat)
  | completionRingWrite (ctx : Nat)
  | migrationPeriod
  | migrationSwitch (base tile : Nat)
  -- Flits and packets of the peer ports (R16); `flit` is the 256-bit flit as a number.
  | hello (port flit : Nat)
  | idleFlit (port flit : Nat)
  | dataFlit (port flit : Nat)
  | ack (port flit : Nat)
  | unassignedFlit (port flit : Nat)
  | peerRead (port flit : Nat)
  | peerReadData (port flit : Nat)
  | peerWrite (port flit : Nat)
  | peerWriteDone (port flit : Nat)
  | peerAtomic (port flit : Nat)
  | peerAtomicResult (port flit : Nat)
  | peerDrain (port flit : Nat)
  | peerDrainDone (port flit : Nat)
  | portRetrain (port : Nat)
  | peerRouteLoss (id : Nat)
  | frameOutOfResidence (f : OutFrame)
  | mstoreReadDone (id : Nat)
  deriving DecidableEq, Repr, Inhabited

end Sys2Proof
end

