-- ==== Sys2Proof/WellFormed.lean ====
section
/-! DEFINITION. Which steps are well formed: every field inside the values the slot chapters give it
(R361 to R364 and R378 to R381, check 3 of R64) and every operand an event names inside the machine. -/

namespace Sys2Proof

/-- A `q` guard (R44). -/
def Guard.wfQ (g : Guard) : Bool := decide (g.idx < 16)
/-- A `p` guard (R45: 48 to 63 are unassigned). -/
def Guard.wfP (g : Guard) : Bool := decide (g.idx < 48)

/-- A second source of an S operation (R234). -/
def SSrc.wf : SSrc → Bool
  | .reg r => decide (r < 64)
  | .hole h => decide (h < 4)

/-- The value of `sli` (R236). -/
def SImm.wf : SImm → Bool
  | .imm v => decide (v < 2 ^ 46)
  | .hole h => decide (h < 4)

/-- A vector source (R47). -/
def VSrc.wf : VSrc → Bool
  | .v n => decide (n < 256)
  | .s n => decide (n < 64)
  | .latch n => decide (n < 8)
  | .hole n => decide (n < 4)

/-- A vector destination (R49). -/
def VDst.wf : VDst → Bool
  | .reg n => decide (n < 256)
  | .nw => true

/-- A 64-bit type (R234, R263). -/
def ITy.is64 : ITy → Bool
  | .i64 => true
  | .n64 => true
  | .i32 => false
  | .n32 => false

/-- A signed type (R235, R267). -/
def ITy.isSigned : ITy → Bool
  | .i64 => true
  | .n64 => false
  | .i32 => true
  | .n32 => false

/-- A source usable at 64 bits: an even pair, a scalar or a hole (R264). -/
def VSrc.wide : VSrc → Bool
  | .v n => decide (n % 2 = 0)
  | .s _ => true
  | .latch _ => false
  | .hole _ => true

/-- A destination usable at 64 bits (R264). -/
def VDst.wide : VDst → Bool
  | .reg n => decide (n % 2 = 0)
  | .nw => true

/-- A source of an operation of type `ty` (R264). -/
def VSrc.wfTy (ty : ITy) (a : VSrc) : Bool := a.wf && (!ty.is64 || a.wide)
/-- A destination of an operation of type `ty` (R264). -/
def VDst.wfTy (ty : ITy) (d : VDst) : Bool := d.wf && (!ty.is64 || d.wide)

/-- A destination of width `w` (R292). -/
def VDst.wfW (w : Width) : VDst → Bool
  | .nw => true
  | .reg n => decide (n < 256) &&
    match w with
    | .b8 => true
    | .b16 => true
    | .b32 => true
    | .b64 => decide (n % 2 = 0)
    | .b128 => decide (n % 4 = 0)

/-- A source of width `w` (R292). -/
def VSrc.wfW (w : Width) (a : VSrc) : Bool := a.wf &&
  match w with
  | .b8 => true
  | .b16 => true
  | .b32 => true
  | .b64 => a.wide
  | .b128 => match a with
    | .v n => decide (n % 4 = 0)
    | .s _ => false
    | .latch _ => false
    | .hole _ => false

/-- `.sx` only with `.b8` and `.b16` (R292). -/
def Width.sxOk (w : Width) (sx : Bool) : Bool := !sx || (w == .b8 || w == .b16)

/-- The system registers R249 lists. -/
def srListed (n : Nat) : Bool :=
  decide (n ≤ 0x00E) || decide (0x010 ≤ n ∧ n ≤ 0x018) || decide (0x040 ≤ n ∧ n ≤ 0x047) ||
  decide (0x080 ≤ n ∧ n ≤ 0x088) || decide (0x100 ≤ n ∧ n ≤ 0x13F) || decide (0x200 ≤ n ∧ n ≤ 0x2BF)

/-- The system registers R249 marks writable. -/
def srWritable (n : Nat) : Bool := n == 0x087 || n == 0x088

/-- The destination of `srd` (R248). -/
def SrdDst.wf : SrdDst → Bool
  | .s n => decide (n < 64)
  | .v n => decide (n < 256)

/-- The target of `btgt` (R239). -/
def Tgt.wf : Tgt → Bool
  | .imm o => decide (o < 2 ^ 32)
  | .sreg r => decide (r < 64)
  | .hole h => decide (h < 4)

/-- The value of an A operation (R286). -/
def ASrc.wf : ASrc → Bool
  | .imm v => decide (v < 2 ^ 32)
  | .sreg r => decide (r < 64)
  | .hole h => decide (h < 4)

/-- `agbind`'s immediate has [31:12] zero (R287). -/
def ASrc.bindOk : ASrc → Bool
  | .imm v => decide (v < 2 ^ 12)
  | .sreg _ => true
  | .hole _ => true

/-- `aglane`'s immediate has [31:16] equal to copies of bit 15 (R287). -/
def ASrc.laneOk : ASrc → Bool
  | .imm v => decide (v < 2 ^ 15) || decide (2 ^ 32 - 2 ^ 15 ≤ v ∧ v < 2 ^ 32)
  | .sreg _ => true
  | .hole _ => true

/-- The field of `agget` (R286). -/
def AField.wf : AField → Bool
  | .c k => decide (k < 4)
  | .i k => decide (k < 4)
  | .lane => true
  | .recIdx => true

/-- Rounding modes of a two-bit rm field (R263). -/
def Rm.two : Rm → Bool
  | .ro => false
  | .rn => true
  | .rz => true
  | .ru => true
  | .rd => true

/-- The six integer conditions (R234, R263); `un` is for `fcmp` alone. -/
def Cc.int : Cc → Bool
  | .un => false
  | .eq => true
  | .ne => true
  | .lt => true
  | .le => true
  | .gt => true
  | .ge => true

/-- The rounding modes a conversion code accepts (R276). -/
def cvtRmOk (code : Nat) (rm : Rm) : Bool :=
  decide (code < 16) && (rm == .rn || !(code == 5 || code == 9 || code == 11 || code == 15))

/-- The combinations of source, format and mode `mstore` accepts (R320). -/
def mstoreOk (src : Bool) (fmt : Fmt) (rm : Rm) : Bool :=
  match src, fmt with
  | false, .fp32 => rm == .rn
  | false, .bf16 => true
  | false, .d8 => true
  | false, .e4m3 => true
  | false, .e5m2 => true
  | false, .int32 => true
  | false, .int8 => true
  | true, .int32 => rm == .rn
  | true, .int8 => rm == .rn
  | true, .fp32 => true
  | true, .bf16 => true
  | _, _ => false

/-- A range of `n + 1` accumulator tiles from `acc` (R311). -/
def tilesOk (acc n : Nat) : Bool := decide (n < 64) && decide (acc + (n + 1) ≤ 256)

/-- The time of `ftry` (R329). -/
def FTime.wf : FTime → Bool
  | .imm t => decide (t ≤ 4096)
  | .sreg r => decide (r < 64)

/-- An integer S operation's fields (R234). -/
def sIntWf (g : Guard) (d a : Nat) (b : SSrc) : Bool := g.wfQ && decide (d < 64) && decide (a < 64) && b.wf

/-- A three-field P operation on `p` registers (R255, R256). -/
def pLaneWf (g : Guard) (d a b : Nat) : Bool := g.wfP && decide (d < 48) && decide (a < 48) && decide (b < 48)

/-- A `q` operation of the P slot (R255, R257). -/
def pQWf (g : Guard) (d a b : Nat) : Bool := g.wfQ && decide (d < 16) && decide (a < 16) && decide (b < 16)

/-- A typed two-source V operation (R266). -/
def vIntWf (g : Guard) (d : VDst) (a b : VSrc) (ty : ITy) : Bool := g.wfP && d.wfTy ty && a.wfTy ty && b.wfTy ty

/-- A 32-bit V or X operation with up to three sources. -/
def vWf (g : Guard) (d : VDst) (l : List VSrc) : Bool := g.wfP && d.wf && l.all VSrc.wf

/-- A coordinate operation of an A slot (R286). -/
def agWf (g : Guard) (x dim : Nat) (v : ASrc) : Bool := g.wfQ && decide (x < 8) && decide (dim < 4) && v.wf

/-- The places a temperature is sensed at (R387). -/
def TempAt.wf : TempAt → Bool
  | .die s => decide (s < 4)
  | .hbm s => decide (s < 8)

/-- A flit is 256 bits and arrives at one of the sixteen ports (R16). -/
def flitWf (port flit : Nat) : Bool := decide (port < 16) && decide (flit < 2 ^ 256)

/-- The four stacks of a part, each with its clusters' E_max: the Z860 (part 1) has one of them fused off, the Z880 (part 0) none (R1,
R18). -/
def partOk (part : Nat) (l : List BootStack) : Bool :=
  decide (part < 2) && l.length == 4 && (l.filter fun f => f.fused).length == part && l.all fun f => f.emax.length == 4

/-- A well-formed step: each field holds a value its chapter assigns. -/
def Instr.wf : Instr → Bool
  | .imgLoad fn => decide (fn < 16)
  | .ctxOpen fn => decide (fn < 16)
  | .tensorMap fn => decide (fn < 16)
  | .meterGrant fn => decide (fn < 16)
  | .counterAdvance fn => decide (fn < 16)
  | .launch fn => decide (fn < 16)
  | .taskLink fn => decide (fn < 16)
  | .preempt fn => decide (fn < 16)
  | .resume fn => decide (fn < 16)
  | .vdieBind fn => decide (fn < 16)
  | .timeRef fn => decide (fn < 16)
  | .meterRead fn => decide (fn < 16)
  | .meterCkpt fn => decide (fn < 16)
  | .attest fn => decide (fn < 16)
  | .queryPart fn => decide (fn < 16)
  | .queryGround fn => decide (fn < 16)
  | .queryTime fn => decide (fn < 16)
  | .queryPower fn => decide (fn < 16)
  | .queryVdie fn => decide (fn < 16)
  | .queryPorts fn => decide (fn < 16)
  | .ctxClose fn => decide (fn < 16)
  | .imgUnload fn => decide (fn < 16)
  | .tensorUnmap fn => decide (fn < 16)
  | .peerMap fn => decide (fn < 16)
  | .groundSet fn => decide (fn < 16)
  | .unassignedCommand fn => decide (fn < 16)
  | .lanternStop fn v => decide (fn < 16) && decide (v < 2 ^ 64)
  | .lanternRelease fn v => decide (fn < 16) && decide (v < 2 ^ 32)
  | .lanternBinsClear fn e b => decide (fn < 16) && decide (e < 4) && decide (b < 16)
  | .lanternPageWrite fn o v => decide (fn < 16) && decide (o < 4096) && decide (v < 2 ^ 64)
  | .functionLevelReset fn => decide (fn < 16)
  | .powerUp part l => partOk part l
  | .supplyLoss _ => true
  | .junctionTemperature p _ => p.wf
  | .hbmTemperature h _ => decide (h < 8)
  | .stackSilence s => decide (s < 4)
  | .ppsEdge => true
  | .timeOfDayMessage l => l.all (fun b => decide (b < 256))
  | .ptmDialogue _ => true
  | .syncBeat => true
  | .beatArrival s => decide (s < 4)
  | .bellowsPeriod s => decide (s < 4)
  | .voltageSettled s => decide (s < 4)
  | .currentSense s c _ => decide (s < 4) && decide (c < 4)
  | .heatIntegration s c _ => decide (s < 4) && decide (c < 4)
  | .droopDetect s c => decide (s < 4) && decide (c < 4)
  | .droopClear s c => decide (s < 4) && decide (c < 4)
  | .pitchCycle s c => decide (s < 4) && decide (c < 4)
  | .warpSample s k p fn => decide (s < 4) && decide (k < 32) && decide (p < 4) && decide (fn < 16)
  | .trapEntry _ _ => true
  | .shortIndex e hs => decide (e < 128) && decide (hs.length ≤ 4) && hs.all (fun h => decide (h < 2 ^ 64))
  | .longIndex e hs => decide (e < 16384) && decide (hs.length ≤ 4) && hs.all (fun h => decide (h < 2 ^ 64))
  | .idle n => decide (n < 256)
  | .loop c imm len => decide (c < 256) && decide (imm < 65536) && decide (len < 65536) && (c == 255 || imm == 0)
  | .ipf off n => decide (off < 2 ^ 32) && decide (n < 256)
  | .unassignedToken b => decide (0xC3 ≤ b ∧ b < 256)
  | .emptyWord => true
  | .sadd g d a b _ => sIntWf g d a b
  | .ssub g d a b _ => sIntWf g d a b
  | .smul g d a b _ => sIntWf g d a b
  | .smulhi g d a b _ => sIntWf g d a b
  | .sand g d a b _ => sIntWf g d a b
  | .sor g d a b _ => sIntWf g d a b
  | .sxor g d a b _ => sIntWf g d a b
  | .sshl g d a b _ => sIntWf g d a b
  | .sshr g d a b _ => sIntWf g d a b
  | .ssar g d a b _ => sIntWf g d a b
  | .smin g d a b _ => sIntWf g d a b
  | .smax g d a b _ => sIntWf g d a b
  | .smov g d b _ => g.wfQ && decide (d < 64) && b.wf
  | .sli g d v => g.wfQ && decide (d < 64) && v.wf
  | .ssel g d a b q _ => sIntWf g d a b && decide (q < 16)
  | .scmp g q a b _ cc => g.wfQ && decide (q < 16) && decide (a < 64) && b.wf && cc.int
  | .btgt g bd t => g.wfQ && decide (bd < 8) && t.wf
  | .bxfer g b d => g.wfQ && decide (b < 8) && decide (d < 4)
  | .bcall g b d r => g.wfQ && decide (b < 8) && decide (d < 4) && decide (r < 8)
  | .lidx g d n => g.wfQ && decide (d < 64) && decide (n < 6)
  | .lbrk g => g.wfQ
  | .bar g id => g.wfQ && decide (id < 16)
  | .exit g => g.wfQ
  | .trap g n => g.wfQ && decide (n < 256)
  | .hret g => g.wfQ
  | .hretSkip g => g.wfQ
  | .srd g d sr => g.wfQ && d.wf && srListed sr
  | .swr g a sr => g.wfQ && decide (a < 64) && srWritable sr
  | .clk g d e => g.wfQ && decide (d < 64) && decide (e < 64)
  | .dline g a b => g.wfQ && decide (a < 64) && b.wf
  | .dtick g b => g.wfQ && b.wf
  | .dclose g q => g.wfQ && decide (q < 16)
  | .pwacq g a => g.wfQ && decide (a < 64)
  | .pwrel g => g.wfQ
  | .grantGiven s => decide (s < 4)
  | .info g d a k => g.wfQ && decide (d < 64) && decide (a < 64) && decide (k < 4)
  | .vdhop g d a b => sIntWf g d a b
  | .mtrd g v e l j => g.wfQ && decide (v < 64) && decide (e < 64) && decide (l < 64) && decide (j < 64)
  | .mtck g h j => g.wfQ && decide (h < 16) && decide (j < 64)
  | .rainflyReply _ => true
  | .checkpointRecord => true
  | .pand g d a _ b _ => pLaneWf g d a b
  | .por g d a _ b _ => pLaneWf g d a b
  | .pxor g d a _ b _ => pLaneWf g d a b
  | .pmov g d a _ => g.wfP && decide (d < 48) && decide (a < 48)
  | .pset g d a _ => g.wfP && decide (d < 48) && decide (a < 16)
  | .vany g d a _ => g.wfP && decide (d < 16) && decide (a < 48)
  | .vall g d a _ => g.wfP && decide (d < 16) && decide (a < 48)
  | .vcount g d a _ => g.wfP && decide (d < 64) && decide (a < 48)
  | .qand g d a _ b _ => pQWf g d a b
  | .qor g d a _ b _ => pQWf g d a b
  | .qxor g d a _ b _ => pQWf g d a b
  | .mpush g a _ => g.wfQ && decide (a < 48)
  | .melse g => g.wfQ
  | .mpop g => g.wfQ
  | .regroup g a _ => g.wfQ && decide (a < 48)
  | .ungroup g => g.wfQ
  | .mspill g n => g.wfQ && decide (1 ≤ n ∧ n ≤ 16)
  | .mfill g n => g.wfQ && decide (1 ≤ n ∧ n ≤ 16)
  | .agbind g x v => agWf g x 0 v && v.bindOk
  | .agset g x dim v => agWf g x dim v
  | .agadd g x dim v => agWf g x dim v
  | .agstep g x dim v => agWf g x dim v
  | .aglane g x dim v => agWf g x dim v && v.laneOk
  | .agget g x f d => g.wfQ && decide (x < 8) && f.wf && decide (d < 64)
  | .vadd g d a b ty _ => vIntWf g d a b ty
  | .vsub g d a b ty _ => vIntWf g d a b ty
  | .vmul g d a b ty _ => vIntWf g d a b ty
  | .vmulhi g d a b ty => vIntWf g d a b ty && !ty.is64
  | .vmad g d a b c ty _ => vIntWf g d a b ty && c.wf && !ty.is64
  | .vand g d a b ty => vIntWf g d a b ty
  | .vor g d a b ty => vIntWf g d a b ty
  | .vxor g d a b ty => vIntWf g d a b ty
  | .vshl g d a b ty => vIntWf g d a b ty
  | .vshr g d a b ty => vIntWf g d a b ty
  | .vsar g d a b ty => vIntWf g d a b ty
  | .vmin g d a b ty => vIntWf g d a b ty
  | .vmax g d a b ty => vIntWf g d a b ty
  | .vabs g d a ty _ => g.wfP && d.wfTy ty && a.wfTy ty && ty.isSigned
  | .vneg g d a ty _ => g.wfP && d.wfTy ty && a.wfTy ty && ty.isSigned
  | .vcmp g pd a b ty cc => g.wfP && decide (pd < 48) && a.wfTy ty && b.wfTy ty && cc.int
  | .vsel g d a b ps _ => vWf g d [a, b] && decide (ps < 48)
  | .vmov g d a ty => g.wfP && d.wfTy ty && a.wfTy ty
  | .vli g d a b => vWf g d [a, b]
  | .vclz g d a ty => vWf g d [a] && !ty.is64
  | .vpopc g d a ty => vWf g d [a] && !ty.is64
  | .fadd g d a b rm => vWf g d [a, b] && rm.two
  | .fsub g d a b rm => vWf g d [a, b] && rm.two
  | .fmul g d a b rm => vWf g d [a, b] && rm.two
  | .fma g d a b c rm => vWf g d [a, b, c] && rm.two
  | .fmin g d a b => vWf g d [a, b]
  | .fmax g d a b => vWf g d [a, b]
  | .fabs g d a => vWf g d [a]
  | .fneg g d a => vWf g d [a]
  | .fcmp g pd a b _ => g.wfP && decide (pd < 48) && a.wf && b.wf
  | .fclass g d a => vWf g d [a]
  | .hadd2 g d a b rm => vWf g d [a, b] && rm.two
  | .hmul2 g d a b rm => vWf g d [a, b] && rm.two
  | .hfma2 g d a b c rm => vWf g d [a, b, c] && rm.two
  | .cvt g d a b code rm => vWf g d [a, b] && cvtRmOk code rm && (code == 14 || b == .v 0)
  | .xchg g d a code => vWf g d [a] && decide (code < 5)
  | .xrot g d a r => vWf g d [a] && decide (r < 32)
  | .xbcast g d a l => vWf g d [a] && decide (l < 32)
  | .xidx g d a b => vWf g d [a, b]
  | .xscan g d a _ _ => vWf g d [a]
  | .xred g d a _ => vWf g d [a]
  | .frcp g d a => vWf g d [a]
  | .frsq g d a => vWf g d [a]
  | .fexp2 g d a => vWf g d [a]
  | .flog2 g d a => vWf g d [a]
  | .fsin g d a => vWf g d [a]
  | .fcos g d a => vWf g d [a]
  | .ftanh g d a => vWf g d [a]
  | .ld g d x w _ _ _ sx => g.wfP && d.wfW w && decide (x < 8) && w.sxOk sx
  | .st g a x w _ => g.wfP && a.wfW w && decide (x < 8)
  | .ldg g d x w gd _ sx c => g.wfP && d.wfW w && decide (x < 8) && decide (gd < 4) && w.sxOk sx && c.wf
  | .stg g a x w gd _ c => g.wfP && a.wfW w && decide (x < 8) && decide (gd < 4) && c.wf
  | .lblk g h x n tag _ => g.wfP && decide (h < 16) && decide (x < 8) && decide (n < 64) && decide (tag < 256)
  | .atom g d x op ty _ _ _ a b => g.wfP && d.wfTy ty && decide (x < 8) && a.wfTy ty && b.wfTy ty &&
      (op == .cas || b == .v 0) && (op != .fadd || ty == .i32)
  | .fence g _ => g.wfP
  | .drain g _ => g.wfP
  | .probe g d x a => g.wfP && decide (d < 64) && decide (x < 8) && decide (a < 64)
  | .probeCompletion _ _ _ => true
  | .stc g h x _ _ a => g.wfP && decide (h < 16) && decide (x < 8) && a.wf
  | .commitAcceptance _ => true
  | .commitVisibility _ => true
  | .ldas g d x w t _ sx pd => g.wfP && d.wfW w && decide (x < 8) && decide (t < 64) && w.sxOk sx && decide (pd < 48)
  | .ldasService _ l => decide (l < 32)
  | .qput g q sg a => g.wfP && decide (q < 16) && decide (sg < 8) && a.wf
  | .qget g d q sg => g.wfP && d.wf && decide (q < 16) && decide (sg < 8)
  | .queueStep _ => true
  | .feset g x _ _ => g.wfP && decide (x < 8)
  | .feclr g x _ _ => g.wfP && decide (x < 8)
  | .longLoadReturn _ l _ => decide (l < 32)
  | .storePerformed _ l => decide (l < 32)
  | .lblkFill _ => true
  | .mmac g h acc nf mf _ _ xa _ xb _ => g.wfQ && decide (h < 16) && tilesOk acc nf && decide (mf < 3) &&
      decide (xa < 8) && decide (xb < 8)
  | .mmacStart _ => true
  | .mmacCompletion _ => true
  | .mzero g acc nt => g.wfQ && tilesOk acc nt
  | .mzeroDone _ => true
  | .mready g => g.wfQ
  | .mstore g h acc nt mf fmt rm src xd _ => g.wfQ && decide (h < 16) && tilesOk acc nt && decide (mf < 3) &&
      mstoreOk src fmt rm && decide (xd < 8)
  | .mstoreLanding _ => true
  | .mload g h acc nt mf xs _ => g.wfQ && decide (h < 16) && tilesOk acc nt && decide (mf < 3) && decide (xs < 8)
  | .mloadCompletion _ => true
  | .cpy g h xd _ xs _ a => g.wfQ && decide (h < 16) && decide (xd < 8) && decide (xs < 8) && decide (a < 64)
  | .cpym g h xd _ xs _ a m => g.wfQ && decide (h < 16) && decide (xd < 8) && decide (xs < 8) && decide (a < 64) &&
      decide (1 ≤ m ∧ m < 256)
  | .coll g h xd _ xs _ a xr _ _ => g.wfQ && decide (h < 16) && decide (xd < 8) && decide (xs < 8) &&
      decide (a < 64) && decide (xr < 8)
  | .copyStart _ => true
  | .copyCompletion _ => true
  | .fwait g h => g.wfQ && decide (h < 16)
  | .ftry g q h t => g.wfQ && decide (q < 16) && decide (h < 16) && t.wf
  | .ftryTimeout _ _ => true
  | .fcancel g h => g.wfQ && decide (h < 16)
  | .fstat g h d _ => g.wfQ && decide (h < 16) && decide (d < 64)
  | .fmov g h a => g.wfQ && decide (h < 16) && decide (a < 64)
  | .decodeRefill s k => decide (s < 4) && decide (k < 32)
  | .streamFetch s k => decide (s < 4) && decide (k < 32)
  | .swapOut _ _ => true
  | .swapIn _ => true
  | .taskDispatch c => decide (c < 64)
  | .blockPlacement _ _ stage _ => decide (stage < 8)
  | .blockSave _ => true
  | .preemptionTimeout _ => true
  | .stageBalancer c _ => decide (c < 64)
  | .taskCompletion c _ => decide (c < 64)
  | .completionRingWrite c => decide (c < 64)
  | .migrationPeriod => true
  | .migrationSwitch _ _ => true
  | .hello p f => flitWf p f
  | .idleFlit p f => flitWf p f
  | .dataFlit p f => flitWf p f
  | .ack p f => flitWf p f
  | .unassignedFlit p f => flitWf p f
  | .peerRead p f => flitWf p f
  | .peerReadData p f => flitWf p f
  | .peerWrite p f => flitWf p f
  | .peerWriteDone p f => flitWf p f
  | .peerAtomic p f => flitWf p f
  | .peerAtomicResult p f => flitWf p f
  | .peerDrain p f => flitWf p f
  | .peerDrainDone p f => flitWf p f
  | .portRetrain p => decide (p < 16)
  | .peerRouteLoss _ => true
  | .frameOutOfResidence _ => true
  | .mstoreReadDone _ => true

end Sys2Proof
end

