-- ==== Sys2Proof/Decode.lean ====
section
/-! DEFINITION. Decoding of slots and tokens, total on any bits, and the encoder.
A refused slot is refused with the number of the check of R64 it fails: 2 a reserved bit, 3 an unassigned value,
4 an unassigned opcode.  (Check 1 looks at the whole word and check 5 at the metadata: Machine/Operands.lean.) -/

namespace Sys2Proof

/-- A slot whose reserved bits are `zero` and whose fields read as `i`: refused by check 2, then by check 3. -/
def finish (zero : Bool) (i : Option Instr) : Except Nat Instr :=
  if zero then
    match i with
    | some i => if i.wf then .ok i else .error 3
    | none => .error 3
  else .error 2

-- Codes of the enumerated fields.

/-- R234, R263. -/
def ITy.ofCode : Nat → ITy
  | 0 => .i64
  | 1 => .n64
  | 2 => .i32
  | _ => .n32
def ITy.code : ITy → Nat
  | .i64 => 0
  | .n64 => 1
  | .i32 => 2
  | .n32 => 3

/-- R234, R263. -/
def Cc.ofCode : Nat → Option Cc
  | 0 => some .eq
  | 1 => some .ne
  | 2 => some .lt
  | 3 => some .le
  | 4 => some .gt
  | 5 => some .ge
  | 6 => some .un
  | _ => none
def Cc.code : Cc → Nat
  | .eq => 0
  | .ne => 1
  | .lt => 2
  | .le => 3
  | .gt => 4
  | .ge => 5
  | .un => 6

/-- R263, R320. -/
def Rm.ofCode : Nat → Option Rm
  | 0 => some .rn
  | 1 => some .rz
  | 2 => some .ru
  | 3 => some .rd
  | 4 => some .ro
  | _ => none
def Rm.code : Rm → Nat
  | .rn => 0
  | .rz => 1
  | .ru => 2
  | .rd => 3
  | .ro => 4

/-- R292. -/
def Width.ofCode : Nat → Option Width
  | 0 => some .b8
  | 1 => some .b16
  | 2 => some .b32
  | 3 => some .b64
  | 4 => some .b128
  | _ => none
def Width.code : Width → Nat
  | .b8 => 0
  | .b16 => 1
  | .b32 => 2
  | .b64 => 3
  | .b128 => 4

/-- R144. -/
def Scope.ofCode : Nat → Option Scope
  | 0 => some .warp
  | 1 => some .block
  | 2 => some .cluster
  | 3 => some .package
  | 4 => some .fabric
  | _ => none
def Scope.code : Scope → Nat
  | .warp => 0
  | .block => 1
  | .cluster => 2
  | .package => 3
  | .fabric => 4

/-- R145. -/
def MemOrder.ofCode : Nat → MemOrder
  | 0 => .relaxed
  | 1 => .acquire
  | 2 => .release
  | _ => .acqRel
def MemOrder.code : MemOrder → Nat
  | .relaxed => 0
  | .acquire => 1
  | .release => 2
  | .acqRel => 3

/-- R299. -/
def AtomOp.ofCode : Nat → Option AtomOp
  | 0 => some .add
  | 1 => some .min
  | 2 => some .max
  | 3 => some .and
  | 4 => some .or
  | 5 => some .xor
  | 6 => some .exch
  | 7 => some .cas
  | 8 => some .fadd
  | _ => none
def AtomOp.code : AtomOp → Nat
  | .add => 0
  | .min => 1
  | .max => 2
  | .and => 3
  | .or => 4
  | .xor => 5
  | .exch => 6
  | .cas => 7
  | .fadd => 8

/-- R281. -/
def ScanOp.ofCode : Nat → Option ScanOp
  | 0 => some .addI32
  | 1 => some .minI32
  | 2 => some .maxI32
  | 3 => some .minN32
  | 4 => some .maxN32
  | 5 => some .and
  | 6 => some .or
  | 7 => some .xor
  | 8 => some .fadd
  | 9 => some .fmin
  | 10 => some .fmax
  | _ => none
def ScanOp.code : ScanOp → Nat
  | .addI32 => 0
  | .minI32 => 1
  | .maxI32 => 2
  | .minN32 => 3
  | .maxN32 => 4
  | .and => 5
  | .or => 6
  | .xor => 7
  | .fadd => 8
  | .fmin => 9
  | .fmax => 10

/-- R313. -/
def MPair.ofCode : Nat → Option MPair
  | 0 => some .bf16
  | 1 => some .bf16w4
  | 2 => some .f8
  | 3 => some .i8
  | 4 => some .i8sat
  | 5 => some .f32
  | _ => none
def MPair.code : MPair → Nat
  | .bf16 => 0
  | .bf16w4 => 1
  | .f8 => 2
  | .i8 => 3
  | .i8sat => 4
  | .f32 => 5

/-- R99. -/
def Fmt.ofCode : Nat → Option Fmt
  | 0 => some .byte
  | 1 => some .d8
  | 2 => some .e4m3
  | 3 => some .e5m2
  | 4 => some .int8
  | 5 => some .int4
  | 6 => some .z4
  | 7 => some .bf16
  | 8 => some .fp32
  | 9 => some .int32
  | _ => none
def Fmt.code : Fmt → Nat
  | .byte => 0
  | .d8 => 1
  | .e4m3 => 2
  | .e5m2 => 3
  | .int8 => 4
  | .int4 => 5
  | .z4 => 6
  | .bf16 => 7
  | .fp32 => 8
  | .int32 => 9

/-- R327. -/
def CollOp.ofCode : Nat → Option CollOp
  | 0 => some .sumF32
  | 1 => some .sumBf16
  | 2 => some .sumI32
  | 3 => some .maxF32
  | 4 => some .minF32
  | _ => none
def CollOp.code : CollOp → Nat
  | .sumF32 => 0
  | .sumBf16 => 1
  | .sumI32 => 2
  | .maxF32 => 3
  | .minF32 => 4

/-- R331. -/
def FSel.ofCode : Nat → Option FSel
  | 0 => some .st
  | 1 => some .val
  | 2 => some .id
  | _ => none
def FSel.code : FSel → Nat
  | .st => 0
  | .val => 1
  | .id => 2

/-- A source selector (R47). -/
def VSrc.ofCode (c : Nat) : Option VSrc :=
  if c < 0x100 then some (.v c)
  else if c < 0x140 then some (.s (c - 0x100))
  else if c < 0x148 then some (.latch (c - 0x140))
  else if c < 0x160 then none
  else if c < 0x164 then some (.hole (c - 0x160))
  else none
def VSrc.code : VSrc → Nat
  | .v n => n
  | .s n => 0x100 + n
  | .latch n => 0x140 + n
  | .hole n => 0x160 + n

/-- A destination field (R49); its bits [7:0] are reserved when nw = 1. -/
def VDst.ofCode (c : Nat) : VDst := if c < 0x100 then .reg c else .nw
def VDst.zeroOk (c : Nat) : Bool := decide (c ≤ 0x100)
def VDst.code : VDst → Nat
  | .reg n => n
  | .nw => 0x100

-- The S slot (R233 to R253).

/-- Guard of the S slot (R44). -/
def guardS (x : Nat) : Guard := ⟨x.bitAt 57, x.field 53 4⟩
/-- Second source of R234. -/
def srcS (x : Nat) : SSrc := if x.bitAt 40 then .hole (x.field 34 2) else .reg (x.field 34 6)
/-- Bits [39:36] are 0 when the second source is a hole (R234). -/
def srcSZero (x : Nat) : Bool := !x.bitAt 40 || x.field 36 4 == 0

/-- The integer operations of R234. -/
def decodeSInt (x : Nat) (f : Guard → Nat → Nat → SSrc → ITy → Instr) : Except Nat Instr :=
  finish (srcSZero x && x.field 0 32 == 0)
    (some (f (guardS x) (x.field 47 6) (x.field 41 6) (srcS x) (ITy.ofCode (x.field 32 2))))

/-- The S slot; `x` holds the slot bits of a slot that is no `nop`.  A `btgt` of form 3 fails check 3 whatever its other fields hold (log
entry 136). -/
def decodeS (x : Nat) : Except Nat Instr :=
  let g := guardS x
  match x.field 58 6 with
  | 1 => decodeSInt x .sadd
  | 2 => decodeSInt x .ssub
  | 3 => decodeSInt x .smul
  | 4 => decodeSInt x .smulhi
  | 5 => decodeSInt x .sand
  | 6 => decodeSInt x .sor
  | 7 => decodeSInt x .sxor
  | 8 => decodeSInt x .sshl
  | 9 => decodeSInt x .sshr
  | 10 => decodeSInt x .ssar
  | 11 => decodeSInt x .smin
  | 12 => decodeSInt x .smax
  | 13 => finish (srcSZero x && x.field 0 32 == 0 && x.field 41 6 == 0)
      (some (.smov g (x.field 47 6) (srcS x) (ITy.ofCode (x.field 32 2))))
  | 14 => finish (!x.bitAt 46 || x.field 2 44 == 0)
      (some (.sli g (x.field 47 6) (if x.bitAt 46 then .hole (x.field 0 2) else .imm (x.field 0 46))))
  | 15 => finish (srcSZero x && x.field 32 2 == 0 && x.field 0 27 == 0)
      (some (.ssel g (x.field 47 6) (x.field 41 6) (srcS x) (x.field 28 4) (x.bitAt 27)))
  | 16 => finish (srcSZero x && x.field 51 2 == 0 && x.field 0 29 == 0)
      ((Cc.ofCode (x.field 29 3)).map
        (.scmp g (x.field 47 4) (x.field 41 6) (srcS x) (ITy.ofCode (x.field 32 2))))
  | 24 => match x.field 48 2 with
    | 0 => finish (x.field 0 16 == 0) (some (.btgt g (x.field 50 3) (.imm (x.field 16 32))))
    | 1 => finish (x.field 0 10 == 0 && x.field 16 32 == 0) (some (.btgt g (x.field 50 3) (.sreg (x.field 10 6))))
    | 2 => finish (x.field 2 46 == 0) (some (.btgt g (x.field 50 3) (.hole (x.field 0 2))))
    | _ => finish (x.field 2 8 == 0) none
  | 25 => finish (x.field 0 48 == 0) (some (.bxfer g (x.field 50 3) (x.field 48 2)))
  | 26 => finish (x.field 0 45 == 0) (some (.bcall g (x.field 50 3) (x.field 48 2) (x.field 45 3)))
  | 27 => finish (x.field 0 44 == 0) (some (.lidx g (x.field 47 6) (x.field 44 3)))
  | 28 => finish (x.field 0 53 == 0) (some (.lbrk g))
  | 29 => finish (x.field 0 49 == 0) (some (.bar g (x.field 49 4)))
  | 30 => finish (x.field 0 53 == 0) (some (.exit g))
  | 31 => finish (x.field 0 45 == 0) (some (.trap g (x.field 45 8)))
  | 32 => finish (x.field 0 52 == 0) (some (if x.bitAt 52 then .hretSkip g else .hret g))
  | 40 => finish (x.field 32 12 == 0 && x.field 0 20 == 0 && (x.bitAt 52 || x.field 44 2 == 0))
      (some (.srd g (if x.bitAt 52 then .v (x.field 44 8) else .s (x.field 46 6)) (x.field 20 12)))
  | 41 => finish (x.field 47 6 == 0 && x.field 32 9 == 0 && x.field 0 20 == 0)
      (some (.swr g (x.field 41 6) (x.field 20 12)))
  | 42 => finish (x.field 0 41 == 0) (some (.clk g (x.field 47 6) (x.field 41 6)))
  | 43 => finish (srcSZero x && x.field 47 6 == 0 && x.field 0 34 == 0) (some (.dline g (x.field 41 6) (srcS x)))
  | 44 => finish (srcSZero x && x.field 41 12 == 0 && x.field 0 34 == 0) (some (.dtick g (srcS x)))
  | 45 => finish (x.field 51 2 == 0 && x.field 0 47 == 0) (some (.dclose g (x.field 47 4)))
  | 46 => finish (x.field 47 6 == 0 && x.field 0 41 == 0) (some (.pwacq g (x.field 41 6)))
  | 47 => finish (x.field 0 53 == 0) (some (.pwrel g))
  | 48 => finish (x.field 0 37 == 0) (some (.info g (x.field 47 6) (x.field 41 6) (x.field 37 4)))
  | 49 => finish (srcSZero x && x.field 0 34 == 0) (some (.vdhop g (x.field 47 6) (x.field 41 6) (srcS x)))
  | 50 => finish (x.field 0 29 == 0)
      (some (.mtrd g (x.field 47 6) (x.field 41 6) (x.field 35 6) (x.field 29 6)))
  | 51 => finish (x.field 47 2 == 0 && x.field 0 41 == 0) (some (.mtck g (x.field 49 4) (x.field 41 6)))
  | _ => .error 4

-- The P slot (R254 to R260).

/-- The guard field of the P slot (R45). -/
def guardP (x : Nat) : Guard := ⟨x.bitAt 26, x.field 20 6⟩

/-- A three-operand lane-wise P operation (R255). -/
def decodePLane (x : Nat) (f : Guard → Nat → Nat → Bool → Nat → Bool → Instr) : Except Nat Instr :=
  finish true (some (f (guardP x) (x.field 14 6) (x.field 8 6) (x.bitAt 7) (x.field 1 6) (x.bitAt 0)))

/-- A `q` operation (R255, R257). -/
def decodePQ (x : Nat) (f : Guard → Nat → Nat → Bool → Nat → Bool → Instr) : Except Nat Instr :=
  finish (x.field 18 2 == 0 && x.field 12 2 == 0 && x.field 5 2 == 0)
    (some (f (guardP x) (x.field 14 4) (x.field 8 4) (x.bitAt 7) (x.field 1 4) (x.bitAt 0)))

/-- A vote (R256). -/
def decodePVote (x : Nat) (f : Guard → Nat → Nat → Bool → Instr) : Except Nat Instr :=
  finish (x.field 18 2 == 0 && x.field 0 7 == 0) (some (f (guardP x) (x.field 14 4) (x.field 8 6) (x.bitAt 7)))

/-- The P slot. -/
def decodeP (x : Nat) : Except Nat Instr :=
  let g := guardP x
  match x.field 27 5 with
  | 1 => decodePLane x .pand
  | 2 => decodePLane x .por
  | 3 => decodePLane x .pxor
  | 4 => finish (x.field 0 7 == 0) (some (.pmov g (x.field 14 6) (x.field 8 6) (x.bitAt 7)))
  | 5 => finish (x.field 0 7 == 0 && x.field 12 2 == 0) (some (.pset g (x.field 14 6) (x.field 8 4) (x.bitAt 7)))
  | 8 => decodePVote x .vany
  | 9 => decodePVote x .vall
  | 10 => finish (x.field 0 7 == 0) (some (.vcount g (x.field 14 6) (x.field 8 6) (x.bitAt 7)))
  | 12 => decodePQ x .qand
  | 13 => decodePQ x .qor
  | 14 => decodePQ x .qxor
  | 16 => finish (x.field 14 6 == 0 && x.field 0 7 == 0) (some (.mpush g (x.field 8 6) (x.bitAt 7)))
  | 17 => finish (x.field 0 20 == 0) (some (.melse g))
  | 18 => finish (x.field 0 20 == 0) (some (.mpop g))
  | 20 => finish (x.field 14 6 == 0 && x.field 0 7 == 0) (some (.regroup g (x.field 8 6) (x.bitAt 7)))
  | 21 => finish (x.field 0 20 == 0) (some (.ungroup g))
  | 24 => finish (x.field 0 15 == 0) (some (.mspill g (x.field 15 5)))
  | 25 => finish (x.field 0 15 == 0) (some (.mfill g (x.field 15 5)))
  | _ => .error 4

-- The A slots (R285 to R287).

/-- The guard of a 48-bit A or C slot (R44). -/
def guardA (x : Nat) : Guard := ⟨x.bitAt 43, x.field 39 4⟩

/-- An operation of R286, `f` applied to guard, stream, dimension and value. -/
def decodeAVal (x : Nat) (zero : Bool) (f : Guard → Nat → Nat → ASrc → Instr) : Except Nat Instr :=
  let k := f (guardA x) (x.field 36 3) (x.field 34 2)
  match x.field 32 2 with
  | 0 => finish zero (some (k (.imm (x.field 0 32))))
  | 1 => finish (zero && x.field 0 26 == 0) (some (k (.sreg (x.field 26 6))))
  | 2 => finish (zero && x.field 2 30 == 0) (some (k (.hole (x.field 0 2))))
  | _ => if zero then .error 3 else .error 2

/-- The field of `agget` (R286). -/
def AField.ofCode (c : Nat) : Option AField :=
  if c < 4 then some (.c c) else if c < 8 then some (.i (c - 4))
  else if c = 8 then some .lane else if c = 9 then some .recIdx else none
def AField.code : AField → Nat
  | .c k => k
  | .i k => 4 + k
  | .lane => 8
  | .recIdx => 9

/-- An A slot. -/
def decodeA (x : Nat) : Except Nat Instr :=
  match x.field 44 4 with
  | 1 => decodeAVal x (x.field 34 2 == 0) (fun g s _ v => .agbind g s v)
  | 2 => decodeAVal x true .agset
  | 3 => decodeAVal x true .agadd
  | 4 => decodeAVal x true .agstep
  | 5 => decodeAVal x true .aglane
  | 6 => finish (x.field 0 26 == 0)
      ((AField.ofCode (x.field 32 4)).map (fun f => .agget (guardA x) (x.field 36 3) f (x.field 26 6)))
  | _ => .error 4

/-- An unassigned opcode of a lane slot fails check 4, and check 3 before it when its guard index is unassigned too (R45, R64). -/
def noOp (index : Nat) : Except Nat Instr := if 48 ≤ index then .error 3 else .error 4

-- The V slots (R262 to R276).

/-- The guard of a V slot. -/
def guardV (x : Nat) : Guard := ⟨x.bitAt 49, x.field 43 6⟩
/-- The destination of a V slot (R46). -/
def dstV (x : Nat) : VDst := VDst.ofCode (x.field 34 9)
def dstVZero (x : Nat) : Bool := VDst.zeroOk (x.field 34 9)
/-- The sources of a V slot (R46). -/
def aV (x : Nat) : Option VSrc := VSrc.ofCode (x.field 25 9)
def bV (x : Nat) : Option VSrc := VSrc.ofCode (x.field 16 9)
def cV (x : Nat) : Option VSrc := VSrc.ofCode (x.field 7 9)
/-- Type, saturation and condition of R263. -/
def tyV (x : Nat) : ITy := ITy.ofCode (x.field 5 2)

/-- Integer operations with two sources, with or without `.sat` (R266). -/
def decodeVInt (x : Nat) (f : Guard → VDst → VSrc → VSrc → ITy → Bool → Option Instr) : Except Nat Instr :=
  finish (dstVZero x && x.field 7 9 == 0 && x.field 0 4 == 0)
    ((aV x).bind fun a => (bV x).bind fun b => f (guardV x) (dstV x) a b (tyV x) (x.bitAt 4))

/-- Integer operations with one source. -/
def decodeVInt1 (x : Nat) (f : Guard → VDst → VSrc → ITy → Bool → Option Instr) : Except Nat Instr :=
  finish (dstVZero x && x.field 7 18 == 0 && x.field 0 4 == 0)
    ((aV x).bind fun a => f (guardV x) (dstV x) a (tyV x) (x.bitAt 4))

/-- An operation that refuses `.sat` (check 3). -/
def noSat (sat : Bool) (i : Instr) : Option Instr := if sat then none else some i

/-- Operations of one, two or three sources whose mod field is wholly reserved or holds only a mode (R263). -/
def decodeV1 (x : Nat) (f : Guard → VDst → VSrc → Instr) : Except Nat Instr :=
  finish (dstVZero x && x.field 0 25 == 0) ((aV x).map fun a => f (guardV x) (dstV x) a)
def decodeV2 (x : Nat) (f : Guard → VDst → VSrc → VSrc → Instr) : Except Nat Instr :=
  finish (dstVZero x && x.field 0 16 == 0)
    ((aV x).bind fun a => (bV x).map fun b => f (guardV x) (dstV x) a b)
def decodeV2r (x : Nat) (f : Guard → VDst → VSrc → VSrc → Rm → Instr) : Except Nat Instr :=
  finish (dstVZero x && x.field 7 9 == 0 && x.field 0 5 == 0)
    ((aV x).bind fun a => (bV x).bind fun b => (Rm.ofCode (x.field 5 2)).map (f (guardV x) (dstV x) a b))
def decodeV3r (x : Nat) (f : Guard → VDst → VSrc → VSrc → VSrc → Rm → Instr) : Except Nat Instr :=
  finish (dstVZero x && x.field 0 5 == 0)
    ((aV x).bind fun a => (bV x).bind fun b => (cV x).bind fun c =>
      (Rm.ofCode (x.field 5 2)).map (f (guardV x) (dstV x) a b c))

/-- A V slot. -/
def decodeV (x : Nat) : Except Nat Instr :=
  match x.field 50 6 with
  | 1 => decodeVInt x (fun g d a b t s => some (.vadd g d a b t s))
  | 2 => decodeVInt x (fun g d a b t s => some (.vsub g d a b t s))
  | 3 => decodeVInt x (fun g d a b t s => some (.vmul g d a b t s))
  | 4 => decodeVInt x (fun g d a b t s => noSat s (.vmulhi g d a b t))
  | 5 => finish (dstVZero x && x.field 0 4 == 0)
      ((aV x).bind fun a => (bV x).bind fun b => (cV x).map fun c =>
        .vmad (guardV x) (dstV x) a b c (tyV x) (x.bitAt 4))
  | 6 => decodeVInt x (fun g d a b t s => noSat s (.vand g d a b t))
  | 7 => decodeVInt x (fun g d a b t s => noSat s (.vor g d a b t))
  | 8 => decodeVInt x (fun g d a b t s => noSat s (.vxor g d a b t))
  | 9 => decodeVInt x (fun g d a b t s => noSat s (.vshl g d a b t))
  | 10 => decodeVInt x (fun g d a b t s => noSat s (.vshr g d a b t))
  | 11 => decodeVInt x (fun g d a b t s => noSat s (.vsar g d a b t))
  | 12 => decodeVInt x (fun g d a b t s => noSat s (.vmin g d a b t))
  | 13 => decodeVInt x (fun g d a b t s => noSat s (.vmax g d a b t))
  | 14 => decodeVInt1 x (fun g d a t s => some (.vabs g d a t s))
  | 15 => decodeVInt1 x (fun g d a t s => some (.vneg g d a t s))
  | 16 => finish (x.field 40 3 == 0 && x.field 7 9 == 0 && x.field 0 1 == 0)
      ((aV x).bind fun a => (bV x).bind fun b => (Cc.ofCode (x.field 1 3)).bind fun cc =>
        noSat (x.bitAt 4) (.vcmp (guardV x) (x.field 34 6) a b (tyV x) cc))
  | 17 => finish (dstVZero x && x.field 7 9 == 0)
      ((aV x).bind fun a => (bV x).map fun b => .vsel (guardV x) (dstV x) a b (x.field 1 6) (x.bitAt 0))
  | 18 => decodeVInt1 x (fun g d a t s => noSat s (.vmov g d a t))
  | 19 => decodeV2 x .vli
  | 20 => decodeVInt1 x (fun g d a t s => noSat s (.vclz g d a t))
  | 21 => decodeVInt1 x (fun g d a t s => noSat s (.vpopc g d a t))
  | 32 => decodeV2r x .fadd
  | 33 => decodeV2r x .fsub
  | 34 => decodeV2r x .fmul
  | 35 => decodeV3r x .fma
  | 36 => decodeV2 x .fmin
  | 37 => decodeV2 x .fmax
  | 38 => decodeV1 x .fabs
  | 39 => decodeV1 x .fneg
  | 40 => finish (x.field 40 3 == 0 && x.field 7 9 == 0 && x.field 4 3 == 0 && x.field 0 1 == 0)
      ((aV x).bind fun a => (bV x).bind fun b => (Cc.ofCode (x.field 1 3)).map fun cc =>
        .fcmp (guardV x) (x.field 34 6) a b cc)
  | 41 => decodeV1 x .fclass
  | 48 => decodeV2r x .hadd2
  | 49 => decodeV2r x .hmul2
  | 50 => decodeV3r x .hfma2
  | 56 => finish (dstVZero x && x.field 7 9 == 0 && (x.field 0 4 == 14 || x.field 16 9 == 0))
      ((aV x).bind fun a => (bV x).bind fun b => (Rm.ofCode (x.field 4 3)).map fun rm =>
        .cvt (guardV x) (dstV x) a b (x.field 0 4) rm)
  | _ => noOp (x.field 43 6)

-- The X slot (R278).

/-- The guard of the X slot. -/
def guardX (x : Nat) : Guard := ⟨x.bitAt 42, x.field 36 6⟩

/-- An X operation of one source with mod bits other than `used` zero. -/
def decodeX1 (x : Nat) (zero : Bool) (f : Guard → VDst → VSrc → Option Instr) : Except Nat Instr :=
  finish (VDst.zeroOk (x.field 27 9) && x.field 9 9 == 0 && zero)
    ((VSrc.ofCode (x.field 18 9)).bind (f (guardX x) (VDst.ofCode (x.field 27 9))))

/-- The X slot. -/
def decodeX (x : Nat) : Except Nat Instr :=
  match x.field 43 5 with
  | 1 => decodeX1 x (x.field 0 6 == 0) (fun g d a => some (.xchg g d a (x.field 6 3)))
  | 2 => decodeX1 x (x.field 5 4 == 0) (fun g d a => some (.xrot g d a (x.field 0 5)))
  | 3 => decodeX1 x (x.field 5 4 == 0) (fun g d a => some (.xbcast g d a (x.field 0 5)))
  | 4 => finish (VDst.zeroOk (x.field 27 9) && x.field 0 9 == 0)
      ((VSrc.ofCode (x.field 18 9)).bind fun a => (VSrc.ofCode (x.field 9 9)).map fun b =>
        .xidx (guardX x) (VDst.ofCode (x.field 27 9)) a b)
  | 5 => decodeX1 x (x.field 0 4 == 0)
      (fun g d a => (ScanOp.ofCode (x.field 5 4)).map (fun op => .xscan g d a op (x.bitAt 4)))
  | 6 => decodeX1 x (x.field 0 5 == 0) (fun g d a => (ScanOp.ofCode (x.field 5 4)).map (.xred g d a))
  | 8 => decodeX1 x (x.field 0 9 == 0) (fun g d a => some (.frcp g d a))
  | 9 => decodeX1 x (x.field 0 9 == 0) (fun g d a => some (.frsq g d a))
  | 10 => decodeX1 x (x.field 0 9 == 0) (fun g d a => some (.fexp2 g d a))
  | 11 => decodeX1 x (x.field 0 9 == 0) (fun g d a => some (.flog2 g d a))
  | 12 => decodeX1 x (x.field 0 9 == 0) (fun g d a => some (.fsin g d a))
  | 13 => decodeX1 x (x.field 0 9 == 0) (fun g d a => some (.fcos g d a))
  | 14 => decodeX1 x (x.field 0 9 == 0) (fun g d a => some (.ftanh g d a))
  | _ => noOp (x.field 36 6)

-- The M slot (R289 to R307).

/-- The guard of the M slot. -/
def guardM (x : Nat) : Guard := ⟨x.bitAt 50, x.field 44 6⟩
/-- The destination of an M slot (R293). -/
def dstM (x : Nat) : VDst := VDst.ofCode (x.field 35 9)
def dstMZero (x : Nat) : Bool := VDst.zeroOk (x.field 35 9)

/-- The M slot. -/
def decodeM (x : Nat) : Except Nat Instr :=
  let g := guardM x
  let d := dstM x
  let w := Width.ofCode (x.field 29 3)
  match x.field 51 5 with
  | 1 => finish (dstMZero x && x.field 0 25 == 0)
      (w.map fun w => .ld g d (x.field 32 3) w (x.bitAt 28) (x.bitAt 27) (x.bitAt 26) (x.bitAt 25))
  | 2 => finish (x.field 27 2 == 0 && x.field 0 26 == 0)
      ((VSrc.ofCode (x.field 35 9)).bind fun a => w.map fun w => .st g a (x.field 32 3) w (x.bitAt 26))
  | 3 => finish (dstMZero x && x.field 0 16 == 0)
      ((VSrc.ofCode (x.field 16 9)).bind fun c => w.map fun w =>
        .ldg g d (x.field 32 3) w (x.field 27 2) (x.bitAt 26) (x.bitAt 25) c)
  | 4 => finish (x.field 25 1 == 0 && x.field 0 16 == 0)
      ((VSrc.ofCode (x.field 35 9)).bind fun a => (VSrc.ofCode (x.field 16 9)).bind fun c => w.map fun w =>
        .stg g a (x.field 32 3) w (x.field 27 2) (x.bitAt 26) c)
  | 5 => finish (x.field 0 22 == 0)
      (some (.lblk g (x.field 40 4) (x.field 37 3) (x.field 31 6) (x.field 23 8) (x.bitAt 22)))
  | 6 => finish (dstMZero x && x.field 0 2 == 0 && (x.field 28 4 == 7 || x.field 2 9 == 0))
      ((AtomOp.ofCode (x.field 28 4)).bind fun op => (Scope.ofCode (x.field 21 3)).bind fun sc =>
        (VSrc.ofCode (x.field 11 9)).bind fun a => (VSrc.ofCode (x.field 2 9)).map fun b =>
          .atom g d (x.field 32 3) op (ITy.ofCode (x.field 26 2)) (MemOrder.ofCode (x.field 24 2)) sc
            (x.bitAt 20) a b)
  | 7 => finish (x.field 0 41 == 0) ((Scope.ofCode (x.field 41 3)).map (.fence g))
  | 8 => finish (x.field 0 41 == 0) ((Scope.ofCode (x.field 41 3)).map (.drain g))
  | 9 => finish (x.field 0 29 == 0) (some (.probe g (x.field 38 6) (x.field 35 3) (x.field 29 6)))
  | 10 => finish (x.field 0 26 == 0)
      ((VSrc.ofCode (x.field 26 9)).map (.stc g (x.field 40 4) (x.field 37 3) (x.bitAt 36) (x.bitAt 35)))
  | 11 => finish (dstMZero x && x.field 0 15 == 0)
      (w.map fun w => .ldas g d (x.field 32 3) w (x.field 23 6) (x.bitAt 22) (x.bitAt 21) (x.field 15 6))
  | 12 => finish (x.field 0 28 == 0)
      ((VSrc.ofCode (x.field 28 9)).map (.qput g (x.field 40 4) (x.field 37 3)))
  | 13 => finish (dstMZero x && x.field 0 28 == 0) (some (.qget g d (x.field 31 4) (x.field 28 3)))
  | 14 => finish (x.field 35 9 == 0 && x.field 27 2 == 0 && x.field 0 26 == 0)
      (w.map fun w => .feset g (x.field 32 3) w (x.bitAt 26))
  | 15 => finish (x.field 35 9 == 0 && x.field 27 2 == 0 && x.field 0 26 == 0)
      (w.map fun w => .feclr g (x.field 32 3) w (x.bitAt 26))
  | _ => noOp (x.field 44 6)

-- The T slot (R310 to R321).

/-- The guard of the T slot. -/
def guardT (x : Nat) : Guard := ⟨x.bitAt 44, x.field 40 4⟩

/-- The T slot. -/
def decodeT (x : Nat) : Except Nat Instr :=
  let g := guardT x
  match x.field 45 3 with
  | 1 => finish (x.field 0 8 == 0)
      ((MPair.ofCode (x.field 17 3)).map fun p =>
        .mmac g (x.field 36 4) (x.field 28 8) (x.field 22 6) (x.field 20 2) p (x.bitAt 16) (x.field 13 3)
          (x.bitAt 12) (x.field 9 3) (x.bitAt 8))
  | 2 => finish (x.field 36 4 == 0 && x.field 0 22 == 0) (some (.mzero g (x.field 28 8) (x.field 22 6)))
  | 3 => finish (x.field 0 40 == 0) (some (.mready g))
  | 4 => finish (x.field 0 8 == 0)
      ((Fmt.ofCode (x.field 16 4)).bind fun f => (Rm.ofCode (x.field 13 3)).map fun rm =>
        .mstore g (x.field 36 4) (x.field 28 8) (x.field 22 6) (x.field 20 2) f rm (x.bitAt 12) (x.field 9 3)
          (x.bitAt 8))
  | 5 => finish (x.field 12 8 == 0 && x.field 0 8 == 0)
      (some (.mload g (x.field 36 4) (x.field 28 8) (x.field 22 6) (x.field 20 2) (x.field 9 3) (x.bitAt 8)))
  | _ => .error 4

-- The C slot (R322 to R332).

/-- The C slot. -/
def decodeC (x : Nat) : Except Nat Instr :=
  let g := guardA x
  match x.field 44 4 with
  | 1 => finish (x.field 0 21 == 0)
      (some (.cpy g (x.field 35 4) (x.field 32 3) (x.bitAt 31) (x.field 28 3) (x.bitAt 27) (x.field 21 6)))
  | 2 => finish (x.field 0 13 == 0)
      (some (.cpym g (x.field 35 4) (x.field 32 3) (x.bitAt 31) (x.field 28 3) (x.bitAt 27) (x.field 21 6)
        (x.field 13 8)))
  | 3 => finish (x.field 0 14 == 0)
      ((CollOp.ofCode (x.field 14 3)).map
        (.coll g (x.field 35 4) (x.field 32 3) (x.bitAt 31) (x.field 28 3) (x.bitAt 27) (x.field 21 6)
          (x.field 18 3) (x.bitAt 17)))
  | 4 => finish (x.field 0 35 == 0) (some (.fwait g (x.field 35 4)))
  | 5 => if x.bitAt 30
      then finish (x.field 0 24 == 0) (some (.ftry g (x.field 31 4) (x.field 35 4) (.sreg (x.field 24 6))))
      else finish (x.field 0 17 == 0) (some (.ftry g (x.field 31 4) (x.field 35 4) (.imm (x.field 17 13))))
  | 6 => finish (x.field 0 35 == 0) (some (.fcancel g (x.field 35 4)))
  | 7 => finish (x.field 0 27 == 0) ((FSel.ofCode (x.field 27 2)).map (.fstat g (x.field 35 4) (x.field 29 6)))
  | 8 => finish (x.field 0 29 == 0) (some (.fmov g (x.field 35 4) (x.field 29 6)))
  | _ => .error 4

/-- A slot's bits read by the opcode map of its unit. -/
def decodeKind : SlotKind → Nat → Except Nat Instr
  | .S => decodeS
  | .P => decodeP
  | .A => decodeA
  | .V => decodeV
  | .X => decodeX
  | .M => decodeM
  | .T => decodeT
  | .C => decodeC

/-- The unit of a slot. -/
def Slot.kind : Slot → SlotKind
  | .S => .S
  | .P => .P
  | .A0 => .A
  | .A1 => .A
  | .V0 => .V
  | .V1 => .V
  | .X => .X
  | .M => .M
  | .T => .T
  | .C => .C

/-- Lowest bit and width of a slot in the word (R43). -/
def Slot.lo : Slot → Nat
  | .S => 440
  | .P => 408
  | .A0 => 360
  | .A1 => 312
  | .V0 => 256
  | .V1 => 200
  | .X => 152
  | .M => 96
  | .T => 48
  | .C => 0
def Slot.width : Slot → Nat
  | .S => 64
  | .P => 32
  | .A0 => 48
  | .A1 => 48
  | .V0 => 56
  | .V1 => 56
  | .X => 48
  | .M => 56
  | .T => 48
  | .C => 48
/-- Lowest bit of the opcode inside a slot (R44). -/
def SlotKind.opLo : SlotKind → Nat
  | .S => 58
  | .P => 27
  | .A => 44
  | .V => 50
  | .X => 43
  | .M => 51
  | .T => 45
  | .C => 44

/-- The slots of a word in the order of R43. -/
def slotOrder : List Slot := [.S, .P, .A0, .A1, .V0, .V1, .X, .M, .T, .C]

/-- The bits of slot `sl` of word `w`. -/
def slotBits (w : Nat) (sl : Slot) : Nat := (w >>> sl.lo) % 2 ^ sl.width

/-- Opcode 0 is `nop` (R44). -/
def slotNop (w : Nat) (sl : Slot) : Bool := slotBits w sl / 2 ^ sl.kind.opLo == 0

/-- The operation in a slot of a word; a `nop` is none. -/
def decodeSlot (w : Nat) (sl : Slot) : Option Instr :=
  if slotNop w sl then none else (decodeKind sl.kind (slotBits w sl)).toOption

/-- The Y bit of a word (R43). -/
def wordY (w : Nat) : Bool := w.testBit 511

/-- The failing check of one slot, 2 to 4 (R64); a `nop` slot has every other bit zero. -/
def slotCheck (w : Nat) (sl : Slot) : Option Nat :=
  if slotNop w sl then (if slotBits w sl == 0 then none else some 2)
  else match decodeKind sl.kind (slotBits w sl) with
    | .ok _ => none
    | .error e => some e

-- Tokens (R67).

/-- Little-endian number of bytes (R2). -/
def leNat : List Byte → Nat
  | [] => 0
  | b :: bs => b.toNat + 256 * leNat bs

/-- Little-endian bytes of a number (R2). -/
def leBytes : Nat → Nat → List Byte
  | 0, _ => []
  | n + 1, x => BitVec.ofNat 8 x :: leBytes n (x / 256)

/-- Hole values of the given byte widths from the bytes that follow an index token (R68); `none` past the end. -/
def takeHoles : List Nat → List Byte → Option (List Nat)
  | [], _ => some []
  | w :: ws, bs => if bs.length < w then none
    else (takeHoles ws (bs.drop w)).map (leNat (bs.take w) :: ·)

/-- The byte widths of an entry's holes, from its metadata (R60). -/
def holeWidths (md : Nat) : List Nat :=
  ([md.field 5 2, md.field 7 2, md.field 9 2, md.field 11 2].map (2 ^ ·)).take (md.field 13 3)

/-- The token at the head of the bytes, with its length; `widths` gives the hole widths of an entry.
`none`: the token extends past the end of the stream (R74). -/
def decodeToken (widths : Nat → List Nat) : List Byte → Option (Instr × Nat)
  | [] => none
  | b0 :: r =>
    let b := b0.toNat
    if b < 0x80 then
      let ws := widths b
      (takeHoles ws r).map fun hs => (.shortIndex b hs, 1 + ws.sum)
    else if b < 0xC0 then
      match r with
      | [] => none
      | b1 :: r =>
        let e := (b - 0x80) * 256 + b1.toNat
        let ws := widths e
        (takeHoles ws r).map fun hs => (.longIndex e hs, 2 + ws.sum)
    else if b = 0xC0 then
      match r with
      | [] => none
      | n :: _ => some (.idle n.toNat, 2)
    else if b = 0xC1 then
      match r with
      | c :: r =>
        if c.toNat = 0xFF then
          match r with
          | i0 :: i1 :: l0 :: l1 :: _ =>
            some (.loop 0xFF (i0.toNat + 256 * i1.toNat) (l0.toNat + 256 * l1.toNat), 6)
          | _ => none
        else
          match r with
          | l0 :: l1 :: _ => some (.loop c.toNat 0 (l0.toNat + 256 * l1.toNat), 4)
          | _ => none
      | [] => none
    else if b = 0xC2 then
      if r.length < 5 then none else some (.ipf (leNat (r.take 4)) (leNat ((r.drop 4).take 1)), 6)
    else some (.unassignedToken b, 1)

/-- The instruction read from the table's bits: the table gives bits to the 32-bit P slot alone; a 64-bit row would be
an S slot. -/
def decodeTableWord (nbits w : Nat) : Option Instr :=
  if nbits = 32 then (decodeP w).toOption
  else if nbits = 64 then (decodeS w).toOption
  else none

-- The encoder.

/-- The S slot's guard and opcode. -/
def encS (op : Nat) (g : Guard) : Nat := op * 2 ^ 58 + g.neg.bit * 2 ^ 57 + g.idx * 2 ^ 53
/-- The second source of R234 with its kind bit. -/
def encSrcS : SSrc → Nat
  | .reg r => r * 2 ^ 34
  | .hole h => 2 ^ 40 + h * 2 ^ 34
def encSInt (op : Nat) (g : Guard) (d a : Nat) (b : SSrc) (ty : ITy) : Nat :=
  encS op g + d * 2 ^ 47 + a * 2 ^ 41 + encSrcS b + ty.code * 2 ^ 32
def encP (op : Nat) (g : Guard) : Nat := op * 2 ^ 27 + g.neg.bit * 2 ^ 26 + g.idx * 2 ^ 20
def encP3 (op : Nat) (g : Guard) (d a : Nat) (na : Bool) (b : Nat) (nb : Bool) : Nat :=
  encP op g + d * 2 ^ 14 + a * 2 ^ 8 + na.bit * 2 ^ 7 + b * 2 + nb.bit
def encP2 (op : Nat) (g : Guard) (d a : Nat) (na : Bool) : Nat := encP op g + d * 2 ^ 14 + a * 2 ^ 8 + na.bit * 2 ^ 7
def encA (op : Nat) (g : Guard) : Nat := op * 2 ^ 44 + g.neg.bit * 2 ^ 43 + g.idx * 2 ^ 39
def encASrc : ASrc → Nat
  | .imm v => v
  | .sreg r => 2 ^ 32 + r * 2 ^ 26
  | .hole h => 2 * 2 ^ 32 + h
def encAVal (op : Nat) (g : Guard) (x dim : Nat) (v : ASrc) : Nat :=
  encA op g + x * 2 ^ 36 + dim * 2 ^ 34 + encASrc v
def encV (op : Nat) (g : Guard) (d a b c md : Nat) : Nat :=
  op * 2 ^ 50 + g.neg.bit * 2 ^ 49 + g.idx * 2 ^ 43 + d * 2 ^ 34 + a * 2 ^ 25 + b * 2 ^ 16 + c * 2 ^ 7 + md
def encVInt (op : Nat) (g : Guard) (d : VDst) (a b : VSrc) (ty : ITy) (sat : Bool) : Nat :=
  encV op g d.code a.code b.code 0 (ty.code * 2 ^ 5 + sat.bit * 2 ^ 4)
def encVInt1 (op : Nat) (g : Guard) (d : VDst) (a : VSrc) (ty : ITy) (sat : Bool) : Nat :=
  encV op g d.code a.code 0 0 (ty.code * 2 ^ 5 + sat.bit * 2 ^ 4)
def encX (op : Nat) (g : Guard) (d : VDst) (a : VSrc) (b md : Nat) : Nat :=
  op * 2 ^ 43 + g.neg.bit * 2 ^ 42 + g.idx * 2 ^ 36 + d.code * 2 ^ 27 + a.code * 2 ^ 18 + b * 2 ^ 9 + md
def encM (op : Nat) (g : Guard) : Nat := op * 2 ^ 51 + g.neg.bit * 2 ^ 50 + g.idx * 2 ^ 44
def encT (op : Nat) (g : Guard) : Nat := op * 2 ^ 45 + g.neg.bit * 2 ^ 44 + g.idx * 2 ^ 40
def encCpy (op : Nat) (g : Guard) (h xd : Nat) (incd : Bool) (xs : Nat) (incs : Bool) (a : Nat) : Nat :=
  encA op g + h * 2 ^ 35 + xd * 2 ^ 32 + incd.bit * 2 ^ 31 + xs * 2 ^ 28 + incs.bit * 2 ^ 27 + a * 2 ^ 21

/-- The slot bits of an operation of the S unit (R233 to R253). -/
def encodeS : Instr → Option Nat
  | .sadd g d a b ty => some (encSInt 1 g d a b ty)
  | .ssub g d a b ty => some (encSInt 2 g d a b ty)
  | .smul g d a b ty => some (encSInt 3 g d a b ty)
  | .smulhi g d a b ty => some (encSInt 4 g d a b ty)
  | .sand g d a b ty => some (encSInt 5 g d a b ty)
  | .sor g d a b ty => some (encSInt 6 g d a b ty)
  | .sxor g d a b ty => some (encSInt 7 g d a b ty)
  | .sshl g d a b ty => some (encSInt 8 g d a b ty)
  | .sshr g d a b ty => some (encSInt 9 g d a b ty)
  | .ssar g d a b ty => some (encSInt 10 g d a b ty)
  | .smin g d a b ty => some (encSInt 11 g d a b ty)
  | .smax g d a b ty => some (encSInt 12 g d a b ty)
  | .smov g d b ty => some (encSInt 13 g d 0 b ty)
  | .sli g d (.imm v) => some (encS 14 g + d * 2 ^ 47 + v)
  | .sli g d (.hole h) => some (encS 14 g + d * 2 ^ 47 + 2 ^ 46 + h)
  | .ssel g d a b q qn => some (encS 15 g + d * 2 ^ 47 + a * 2 ^ 41 + encSrcS b + q * 2 ^ 28 + qn.bit * 2 ^ 27)
  | .scmp g q a b ty cc => some (encSInt 16 g q a b ty + cc.code * 2 ^ 29)
  | .btgt g bd (.imm o) => some (encS 24 g + bd * 2 ^ 50 + o * 2 ^ 16)
  | .btgt g bd (.sreg r) => some (encS 24 g + bd * 2 ^ 50 + 2 ^ 48 + r * 2 ^ 10)
  | .btgt g bd (.hole h) => some (encS 24 g + bd * 2 ^ 50 + 2 * 2 ^ 48 + h)
  | .bxfer g b d => some (encS 25 g + b * 2 ^ 50 + d * 2 ^ 48)
  | .bcall g b d r => some (encS 26 g + b * 2 ^ 50 + d * 2 ^ 48 + r * 2 ^ 45)
  | .lidx g d n => some (encS 27 g + d * 2 ^ 47 + n * 2 ^ 44)
  | .lbrk g => some (encS 28 g)
  | .bar g id => some (encS 29 g + id * 2 ^ 49)
  | .exit g => some (encS 30 g)
  | .trap g n => some (encS 31 g + n * 2 ^ 45)
  | .hret g => some (encS 32 g)
  | .hretSkip g => some (encS 32 g + 2 ^ 52)
  | .srd g (.s d) sr => some (encS 40 g + d * 2 ^ 46 + sr * 2 ^ 20)
  | .srd g (.v d) sr => some (encS 40 g + 2 ^ 52 + d * 2 ^ 44 + sr * 2 ^ 20)
  | .swr g a sr => some (encS 41 g + a * 2 ^ 41 + sr * 2 ^ 20)
  | .clk g d e => some (encS 42 g + d * 2 ^ 47 + e * 2 ^ 41)
  | .dline g a b => some (encS 43 g + a * 2 ^ 41 + encSrcS b)
  | .dtick g b => some (encS 44 g + encSrcS b)
  | .dclose g q => some (encS 45 g + q * 2 ^ 47)
  | .pwacq g a => some (encS 46 g + a * 2 ^ 41)
  | .pwrel g => some (encS 47 g)
  | .info g d a k => some (encS 48 g + d * 2 ^ 47 + a * 2 ^ 41 + k * 2 ^ 37)
  | .vdhop g d a b => some (encS 49 g + d * 2 ^ 47 + a * 2 ^ 41 + encSrcS b)
  | .mtrd g v e l j => some (encS 50 g + v * 2 ^ 47 + e * 2 ^ 41 + l * 2 ^ 35 + j * 2 ^ 29)
  | .mtck g h j => some (encS 51 g + h * 2 ^ 49 + j * 2 ^ 41)
  | _ => none

/-- The slot bits of an operation of the P unit (R254 to R260). -/
def encodeP : Instr → Option Nat
  | .pand g d a na b nb => some (encP3 1 g d a na b nb)
  | .por g d a na b nb => some (encP3 2 g d a na b nb)
  | .pxor g d a na b nb => some (encP3 3 g d a na b nb)
  | .pmov g d a na => some (encP2 4 g d a na)
  | .pset g d a na => some (encP2 5 g d a na)
  | .vany g d a na => some (encP2 8 g d a na)
  | .vall g d a na => some (encP2 9 g d a na)
  | .vcount g d a na => some (encP2 10 g d a na)
  | .qand g d a na b nb => some (encP3 12 g d a na b nb)
  | .qor g d a na b nb => some (encP3 13 g d a na b nb)
  | .qxor g d a na b nb => some (encP3 14 g d a na b nb)
  | .mpush g a na => some (encP2 16 g 0 a na)
  | .melse g => some (encP 17 g)
  | .mpop g => some (encP 18 g)
  | .regroup g a na => some (encP2 20 g 0 a na)
  | .ungroup g => some (encP 21 g)
  | .mspill g n => some (encP 24 g + n * 2 ^ 15)
  | .mfill g n => some (encP 25 g + n * 2 ^ 15)
  | _ => none

/-- The slot bits of an operation of the A unit (R285 to R287). -/
def encodeA : Instr → Option Nat
  | .agbind g x v => some (encAVal 1 g x 0 v)
  | .agset g x dim v => some (encAVal 2 g x dim v)
  | .agadd g x dim v => some (encAVal 3 g x dim v)
  | .agstep g x dim v => some (encAVal 4 g x dim v)
  | .aglane g x dim v => some (encAVal 5 g x dim v)
  | .agget g x f d => some (encA 6 g + x * 2 ^ 36 + f.code * 2 ^ 32 + d * 2 ^ 26)
  | _ => none

/-- The slot bits of an operation of the V unit (R262 to R276). -/
def encodeV : Instr → Option Nat
  | .vadd g d a b ty sat => some (encVInt 1 g d a b ty sat)
  | .vsub g d a b ty sat => some (encVInt 2 g d a b ty sat)
  | .vmul g d a b ty sat => some (encVInt 3 g d a b ty sat)
  | .vmulhi g d a b ty => some (encVInt 4 g d a b ty false)
  | .vmad g d a b c ty sat => some (encV 5 g d.code a.code b.code c.code (ty.code * 2 ^ 5 + sat.bit * 2 ^ 4))
  | .vand g d a b ty => some (encVInt 6 g d a b ty false)
  | .vor g d a b ty => some (encVInt 7 g d a b ty false)
  | .vxor g d a b ty => some (encVInt 8 g d a b ty false)
  | .vshl g d a b ty => some (encVInt 9 g d a b ty false)
  | .vshr g d a b ty => some (encVInt 10 g d a b ty false)
  | .vsar g d a b ty => some (encVInt 11 g d a b ty false)
  | .vmin g d a b ty => some (encVInt 12 g d a b ty false)
  | .vmax g d a b ty => some (encVInt 13 g d a b ty false)
  | .vabs g d a ty sat => some (encVInt1 14 g d a ty sat)
  | .vneg g d a ty sat => some (encVInt1 15 g d a ty sat)
  | .vcmp g pd a b ty cc => some (encV 16 g pd a.code b.code 0 (ty.code * 2 ^ 5 + cc.code * 2))
  | .vsel g d a b ps pn => some (encV 17 g d.code a.code b.code 0 (ps * 2 + pn.bit))
  | .vmov g d a ty => some (encVInt1 18 g d a ty false)
  | .vli g d a b => some (encV 19 g d.code a.code b.code 0 0)
  | .vclz g d a ty => some (encVInt1 20 g d a ty false)
  | .vpopc g d a ty => some (encVInt1 21 g d a ty false)
  | .fadd g d a b rm => some (encV 32 g d.code a.code b.code 0 (rm.code * 2 ^ 5))
  | .fsub g d a b rm => some (encV 33 g d.code a.code b.code 0 (rm.code * 2 ^ 5))
  | .fmul g d a b rm => some (encV 34 g d.code a.code b.code 0 (rm.code * 2 ^ 5))
  | .fma g d a b c rm => some (encV 35 g d.code a.code b.code c.code (rm.code * 2 ^ 5))
  | .fmin g d a b => some (encV 36 g d.code a.code b.code 0 0)
  | .fmax g d a b => some (encV 37 g d.code a.code b.code 0 0)
  | .fabs g d a => some (encV 38 g d.code a.code 0 0 0)
  | .fneg g d a => some (encV 39 g d.code a.code 0 0 0)
  | .fcmp g pd a b cc => some (encV 40 g pd a.code b.code 0 (cc.code * 2))
  | .fclass g d a => some (encV 41 g d.code a.code 0 0 0)
  | .hadd2 g d a b rm => some (encV 48 g d.code a.code b.code 0 (rm.code * 2 ^ 5))
  | .hmul2 g d a b rm => some (encV 49 g d.code a.code b.code 0 (rm.code * 2 ^ 5))
  | .hfma2 g d a b c rm => some (encV 50 g d.code a.code b.code c.code (rm.code * 2 ^ 5))
  | .cvt g d a b code rm => some (encV 56 g d.code a.code b.code 0 (rm.code * 2 ^ 4 + code))
  | _ => none

/-- The slot bits of an operation of the X unit (R278). -/
def encodeX : Instr → Option Nat
  | .xchg g d a code => some (encX 1 g d a 0 (code * 2 ^ 6))
  | .xrot g d a r => some (encX 2 g d a 0 r)
  | .xbcast g d a l => some (encX 3 g d a 0 l)
  | .xidx g d a b => some (encX 4 g d a b.code 0)
  | .xscan g d a op excl => some (encX 5 g d a 0 (op.code * 2 ^ 5 + excl.bit * 2 ^ 4))
  | .xred g d a op => some (encX 6 g d a 0 (op.code * 2 ^ 5))
  | .frcp g d a => some (encX 8 g d a 0 0)
  | .frsq g d a => some (encX 9 g d a 0 0)
  | .fexp2 g d a => some (encX 10 g d a 0 0)
  | .flog2 g d a => some (encX 11 g d a 0 0)
  | .fsin g d a => some (encX 12 g d a 0 0)
  | .fcos g d a => some (encX 13 g d a 0 0)
  | .ftanh g d a => some (encX 14 g d a 0 0)
  | _ => none

/-- The slot bits of an operation of the M unit (R289 to R307). -/
def encodeM : Instr → Option Nat
  | .ld g d x w fe clr inc sx => some (encM 1 g + d.code * 2 ^ 35 + x * 2 ^ 32 + w.code * 2 ^ 29 +
      fe.bit * 2 ^ 28 + clr.bit * 2 ^ 27 + inc.bit * 2 ^ 26 + sx.bit * 2 ^ 25)
  | .st g a x w inc => some (encM 2 g + a.code * 2 ^ 35 + x * 2 ^ 32 + w.code * 2 ^ 29 + inc.bit * 2 ^ 26)
  | .ldg g d x w gd inc sx c => some (encM 3 g + d.code * 2 ^ 35 + x * 2 ^ 32 + w.code * 2 ^ 29 +
      gd * 2 ^ 27 + inc.bit * 2 ^ 26 + sx.bit * 2 ^ 25 + c.code * 2 ^ 16)
  | .stg g a x w gd inc c => some (encM 4 g + a.code * 2 ^ 35 + x * 2 ^ 32 + w.code * 2 ^ 29 +
      gd * 2 ^ 27 + inc.bit * 2 ^ 26 + c.code * 2 ^ 16)
  | .lblk g h x n tag inc => some (encM 5 g + h * 2 ^ 40 + x * 2 ^ 37 + n * 2 ^ 31 + tag * 2 ^ 23 +
      inc.bit * 2 ^ 22)
  | .atom g d x op ty ord sc inc a b => some (encM 6 g + d.code * 2 ^ 35 + x * 2 ^ 32 + op.code * 2 ^ 28 +
      ty.code * 2 ^ 26 + ord.code * 2 ^ 24 + sc.code * 2 ^ 21 + inc.bit * 2 ^ 20 + a.code * 2 ^ 11 + b.code * 2 ^ 2)
  | .fence g sc => some (encM 7 g + sc.code * 2 ^ 41)
  | .drain g sc => some (encM 8 g + sc.code * 2 ^ 41)
  | .probe g d x a => some (encM 9 g + d * 2 ^ 38 + x * 2 ^ 35 + a * 2 ^ 29)
  | .stc g h x pair inc a => some (encM 10 g + h * 2 ^ 40 + x * 2 ^ 37 + pair.bit * 2 ^ 36 + inc.bit * 2 ^ 35 +
      a.code * 2 ^ 26)
  | .ldas g d x w t inc sx pd => some (encM 11 g + d.code * 2 ^ 35 + x * 2 ^ 32 + w.code * 2 ^ 29 + t * 2 ^ 23 +
      inc.bit * 2 ^ 22 + sx.bit * 2 ^ 21 + pd * 2 ^ 15)
  | .qput g q sg a => some (encM 12 g + q * 2 ^ 40 + sg * 2 ^ 37 + a.code * 2 ^ 28)
  | .qget g d q sg => some (encM 13 g + d.code * 2 ^ 35 + q * 2 ^ 31 + sg * 2 ^ 28)
  | .feset g x w inc => some (encM 14 g + x * 2 ^ 32 + w.code * 2 ^ 29 + inc.bit * 2 ^ 26)
  | .feclr g x w inc => some (encM 15 g + x * 2 ^ 32 + w.code * 2 ^ 29 + inc.bit * 2 ^ 26)
  | _ => none

/-- The slot bits of an operation of the T unit (R310 to R321). -/
def encodeT : Instr → Option Nat
  | .mmac g h acc nf mf p pro xa inca xb incb => some (encT 1 g + h * 2 ^ 36 + acc * 2 ^ 28 + nf * 2 ^ 22 +
      mf * 2 ^ 20 + p.code * 2 ^ 17 + pro.bit * 2 ^ 16 + xa * 2 ^ 13 + inca.bit * 2 ^ 12 + xb * 2 ^ 9 +
      incb.bit * 2 ^ 8)
  | .mzero g acc nt => some (encT 2 g + acc * 2 ^ 28 + nt * 2 ^ 22)
  | .mready g => some (encT 3 g)
  | .mstore g h acc nt mf f rm src xd inc => some (encT 4 g + h * 2 ^ 36 + acc * 2 ^ 28 + nt * 2 ^ 22 +
      mf * 2 ^ 20 + f.code * 2 ^ 16 + rm.code * 2 ^ 13 + src.bit * 2 ^ 12 + xd * 2 ^ 9 + inc.bit * 2 ^ 8)
  | .mload g h acc nt mf xs inc => some (encT 5 g + h * 2 ^ 36 + acc * 2 ^ 28 + nt * 2 ^ 22 + mf * 2 ^ 20 +
      xs * 2 ^ 9 + inc.bit * 2 ^ 8)
  | _ => none

/-- The slot bits of an operation of the C unit (R322 to R332). -/
def encodeC : Instr → Option Nat
  | .cpy g h xd incd xs incs a => some (encCpy 1 g h xd incd xs incs a)
  | .cpym g h xd incd xs incs a m => some (encCpy 2 g h xd incd xs incs a + m * 2 ^ 13)
  | .coll g h xd incd xs incs a xr incr op => some (encCpy 3 g h xd incd xs incs a + xr * 2 ^ 18 +
      incr.bit * 2 ^ 17 + op.code * 2 ^ 14)
  | .fwait g h => some (encA 4 g + h * 2 ^ 35)
  | .ftry g q h (.imm t) => some (encA 5 g + h * 2 ^ 35 + q * 2 ^ 31 + t * 2 ^ 17)
  | .ftry g q h (.sreg r) => some (encA 5 g + h * 2 ^ 35 + q * 2 ^ 31 + 2 ^ 30 + r * 2 ^ 24)
  | .fcancel g h => some (encA 6 g + h * 2 ^ 35)
  | .fstat g h d sel => some (encA 7 g + h * 2 ^ 35 + d * 2 ^ 29 + sel.code * 2 ^ 27)
  | .fmov g h a => some (encA 8 g + h * 2 ^ 35 + a * 2 ^ 29)
  | _ => none

/-- The unit and the slot bits of a slot operation; other steps have none. -/
def encode (i : Instr) : Option (SlotKind × Nat) :=
  match encodeS i, encodeP i, encodeA i, encodeV i, encodeX i, encodeM i, encodeT i, encodeC i with
  | some x, _, _, _, _, _, _, _ => some (.S, x)
  | _, some x, _, _, _, _, _, _ => some (.P, x)
  | _, _, some x, _, _, _, _, _ => some (.A, x)
  | _, _, _, some x, _, _, _, _ => some (.V, x)
  | _, _, _, _, some x, _, _, _ => some (.X, x)
  | _, _, _, _, _, some x, _, _ => some (.M, x)
  | _, _, _, _, _, _, some x, _ => some (.T, x)
  | _, _, _, _, _, _, _, some x => some (.C, x)
  | none, none, none, none, none, none, none, none => none

/-- The bytes of a token (R67), its hole values written in the given widths. -/
def encodeToken (ws : List Nat) : Instr → Option (List Byte)
  | .shortIndex e hs => some (leBytes 1 e ++ ((ws.zip hs).map fun p => leBytes p.1 p.2).flatten)
  | .longIndex e hs => some (leBytes 1 (0x80 + e / 256) ++ leBytes 1 e ++ ((ws.zip hs).map fun p => leBytes p.1 p.2).flatten)
  | .idle n => some (leBytes 1 0xC0 ++ leBytes 1 n)
  | .loop c imm len =>
    some (leBytes 1 0xC1 ++ leBytes 1 c ++ (if c = 255 then leBytes 2 imm else []) ++ leBytes 2 len)
  | .ipf off n => some (leBytes 1 0xC2 ++ leBytes 4 off ++ leBytes 1 n)
  | .unassignedToken b => some (leBytes 1 b)
  | _ => none

end Sys2Proof
end

