-- ==== Sys2Proof/Machine/Numbers.lean ====
section
/-! DEFINITION. Number formats (R99 to R108), operand images (R109 to R114) and the order of sums (R115 to R117).
A value is exact: a sign and a fraction, an infinity, or no number; a zero keeps its sign. -/

namespace Sys2Proof.Machine

/-- The exact value of an encoding. -/
inductive XVal where
  | fin (neg : Bool) (n d : Nat)
  | inf (neg : Bool)
  | nan
  deriving DecidableEq, Repr, Inhabited

/-- A binary format with an exponent of `exp` bits, a fraction of `man` bits and a bias (R100, R102, R103). -/
structure FF where
  exp  : Nat
  man  : Nat
  bias : Nat
  deriving DecidableEq, Repr

def ffp32 : FF := ⟨8, 23, 127⟩
def fbf16 : FF := ⟨8, 7, 127⟩
def fe4m3 : FF := ⟨4, 3, 7⟩
def fe5m2 : FF := ⟨5, 2, 15⟩

/-- `m × 2^e`, a magnitude. -/
def XVal.dyadic (neg : Bool) (m : Nat) (e : Int) : XVal :=
  if 0 ≤ e then .fin neg (m * 2 ^ e.toNat) 1 else .fin neg m (2 ^ (-e).toNat)

/-- The finite value of a sign, an exponent field and a fraction field (R100, R102, R103). -/
def FF.finite (f : FF) (c : Nat) : XVal :=
  let neg := c.bitAt (f.exp + f.man)
  let e := c.field f.man f.exp
  let m := c.field 0 f.man
  if e = 0 then .dyadic neg m (1 - (f.bias : Int) - f.man)
  else .dyadic neg (2 ^ f.man + m) ((e : Int) - f.bias - f.man)

/-- The value of an encoding of a format with infinities and NaNs (R100, R103). -/
def FF.value (f : FF) (c : Nat) : XVal :=
  if c.field f.man f.exp = 2 ^ f.exp - 1 then
    if c.field 0 f.man = 0 then .inf (c.bitAt (f.exp + f.man)) else .nan
  else f.finite c

/-- The value of an E4M3 code (R102): no infinities, NaN at E = 15, f = 7. -/
def e4m3Value (c : Nat) : XVal := if c % 128 = 127 then .nan else fe4m3.finite c

/-- The run length m of R105: equal bits of the body from bit 6 downward. -/
def d8Run (body : Nat) : Nat :=
  let lead := body.bitAt 6
  let rec go : Nat → Nat → Nat
    | 0, acc => acc
    | k + 1, acc => if body.bitAt k == lead then go k (acc + 1) else acc
  go 6 1

/-- The magnitude of a nonzero D8 body as a fraction (R105). -/
def d8Mag (body : Nat) : Nat × Nat :=
  let m := d8Run body
  let w := 6 - m
  let f := if w = 0 then 0 else body.field 0 w
  let sig := 2 ^ w + 9 * f
  if body.bitAt 6 then (10 ^ (m - 1) * sig, 2 ^ w) else (sig, 10 ^ m * 2 ^ w)

/-- The value of a D8 code (R105); NaR is no number. -/
def d8Value (c : Nat) : XVal :=
  let body := c % 128
  if body = 0 then (if c.bitAt 7 then .nan else .fin false 0 1)
  else .fin (c.bitAt 7) (d8Mag body).1 (d8Mag body).2

/-- A signed integer as a value. -/
def XVal.ofInt (i : Int) : XVal := .fin (decide (i < 0)) i.natAbs 1

/-- A 32-bit FP32 encoding's value (R100). -/
def fp32Value (w : Word32) : XVal := ffp32.value w.toNat

-- Rounding (R107, R108).

/-- Where a magnitude stands between a code and the next: on it, below the middle, on the middle, above it. -/
inductive Place where
  | exact | below | half | above
  deriving DecidableEq, Repr

def placeOf (r2 d : Nat) (exact : Bool) : Place :=
  if exact then .exact else if r2 < d then .below else if r2 = d then .half else .above

/-- The code chosen for a magnitude between code `c` and code `c + 1` (R107). -/
def pickCode (rm : Rm) (neg : Bool) (c : Nat) (p : Place) : Nat :=
  match p with
  | .exact => c
  | _ =>
    match rm with
    | .rz => c
    | .ru => if neg then c else c + 1
    | .rd => if neg then c + 1 else c
    | .ro => if c % 2 = 1 then c else c + 1
    | .rn =>
      match p with
      | .below => c
      | .above => c + 1
      | _ => if c % 2 = 0 then c else c + 1

/-- ⌊log2 (n/d)⌋ for n, d > 0. -/
def floorLog (n d : Nat) : Int :=
  let k : Int := (Nat.log2 n : Int) - Nat.log2 d
  let le := if 0 ≤ k then decide (d * 2 ^ k.toNat ≤ n) else decide (d ≤ n * 2 ^ (-k).toNat)
  if le then k else k - 1

/-- The largest code of the format at or below the magnitude n/d, its exponent unbounded above, and the place between. -/
def FF.codeOf (f : FF) (n d : Nat) : Nat × Place :=
  if n = 0 then (0, .exact) else
    let minE : Int := 1 - f.bias
    let e := max (floorLog n d) minE
    let sh : Int := f.man - e
    let num := if 0 ≤ sh then n * 2 ^ sh.toNat else n
    let den := if 0 ≤ sh then d else d * 2 ^ (-sh).toNat
    ((e - minE).toNat * 2 ^ f.man + num / den, placeOf (2 * (num % den)) den (num % den == 0))

/-- The sign bit of a format. -/
def FF.signed (f : FF) (neg : Bool) (c : Nat) : Nat := if neg then 2 ^ (f.exp + f.man) + c else c

/-- The code of infinity; every larger code is NaN. -/
def FF.infCode (f : FF) : Nat := (2 ^ f.exp - 1) * 2 ^ f.man

/-- The canonical NaN: FP32 and BF16 by R100, E5M2 by R103 (`0x7E`); each has the top fraction bit set. -/
def FF.nanCode (f : FF) : Nat := f.infCode + 2 ^ (f.man - 1)

/-- A value rounded into a format with infinities (R107, R108). -/
def FF.round (f : FF) (rm : Rm) : XVal → Nat
  | .nan => f.nanCode
  | .inf neg => f.signed neg f.infCode
  | .fin neg n d =>
    let p := f.codeOf n d
    let c := pickCode rm neg p.1 p.2
    if c < f.infCode then f.signed neg c
    else
      let inf : Bool := match rm with
        | .rn => true
        | .rz => false
        | .ru => !neg
        | .rd => neg
        | .ro => false
      f.signed neg (if inf then f.infCode else f.infCode - 1)

/-- A value rounded into FP32 (R101). -/
def roundFp32 (rm : Rm) (x : XVal) : Word32 := BitVec.ofNat 32 (ffp32.round rm x)
/-- A value rounded into BF16. -/
def roundBf16 (rm : Rm) (x : XVal) : Nat := fbf16.round rm x

/-- A value rounded into E4M3: saturating at 448 (R108). -/
def roundE4m3 (rm : Rm) : XVal → Nat
  | .nan => 0x7F
  | .inf neg => fe4m3.signed neg 0x7E
  | .fin neg n d =>
    let p := fe4m3.codeOf n d
    fe4m3.signed neg (min (pickCode rm neg p.1 p.2) 0x7E)

/-- E5M2 writes NaN as `0x7E` (R103). -/
def roundE5m2 (rm : Rm) (x : XVal) : Nat := fe5m2.round rm x

/-- How many of the codes from `c` down to 1 have a magnitude at or below n/d: the floor code, as magnitudes rise. -/
def d8Floor (n d : Nat) : Nat → Nat
  | 0 => 0
  | c + 1 => if (d8Mag (c + 1)).1 * d ≤ n * (d8Mag (c + 1)).2 then c + 1 else d8Floor n d c

/-- A value rounded into D8 (R107, R108): no negative zero, saturation at one million. -/
def roundD8 (rm : Rm) : XVal → Nat
  | .nan => 0x80
  | .inf neg => if neg then 0xFF else 0x7F
  | .fin neg n d =>
    let c := d8Floor n d 127
    let a := if c = 0 then (0, 1) else d8Mag c
    let b := d8Mag (c + 1)
    let exact := n * a.2 == a.1 * d
    -- twice the value against a + b, over the common denominator d × a.2 × b.2
    let p := placeOf (2 * n * a.2 * b.2) ((a.1 * b.2 + b.1 * a.2) * d) exact
    let r := if c = 127 then 127 else pickCode rm neg c p
    if r = 0 then 0 else if neg then 128 + r else r

/-- A value rounded into an integer between `lo` and `hi` (R107, R108); a NaN is 0 for N32 too (log entry 122). -/
def roundInt (rm : Rm) (lo hi : Int) : XVal → Int
  | .nan => 0
  | .inf neg => if neg then lo else hi
  | .fin neg n d =>
    let c := pickCode rm neg (n / d) (placeOf (2 * (n % d)) d (n % d == 0))
    max lo (min hi (if neg then -(c : Int) else c))

-- Exact arithmetic.

/-- The exact sum of two signed fractions, over a common denominator. -/
def addFrac (na : Bool) (n d : Nat) (nb : Bool) (m e : Nat) : Int × Nat :=
  let a : Int := if na then -(n : Int) else n
  let b : Int := if nb then -(m : Int) else m
  if d % e = 0 then (a + b * (d / e : Nat), d)
  else if e % d = 0 then (a * (e / d : Nat) + b, e)
  else (a * e + b * d, d * e)

/-- The exact sum; `rd` says the rounding mode is toward −∞, which gives an exact zero its sign (R101). -/
def XVal.add (rd : Bool) : XVal → XVal → XVal
  | .nan, _ => .nan
  | _, .nan => .nan
  | .inf a, .inf b => if a = b then .inf a else .nan
  | .inf a, .fin _ _ _ => .inf a
  | .fin _ _ _, .inf b => .inf b
  | .fin a n d, .fin b m e =>
    let s := addFrac a n d b m e
    if s.1 = 0 then
      if n = 0 ∧ m = 0 ∧ a = b then .fin a 0 1 else .fin rd 0 1
    else .fin (decide (s.1 < 0)) s.1.natAbs s.2

/-- The exact product (R101, R115). -/
def XVal.mul : XVal → XVal → XVal
  | .nan, _ => .nan
  | _, .nan => .nan
  | .inf a, .inf b => .inf (a != b)
  | .inf a, .fin b m _ => if m = 0 then .nan else .inf (a != b)
  | .fin a n _, .inf b => if n = 0 then .nan else .inf (a != b)
  | .fin a n d, .fin b m e => .fin (a != b) (n * m) (d * e)

def XVal.neg : XVal → XVal
  | .nan => .nan
  | .inf a => .inf (!a)
  | .fin a n d => .fin (!a) n d

/-- Order of two numbers with −0 below +0 (R272); false when either is no number. -/
def XVal.lt : XVal → XVal → Bool
  | .nan, _ => false
  | _, .nan => false
  | .inf a, .inf b => a && !b
  | .inf a, .fin _ _ _ => a
  | .fin _ _ _, .inf b => !b
  | .fin a n d, .fin b m e =>
    let x : Int := if a then -((n * e : Nat) : Int) else (n * e : Nat)
    let y : Int := if b then -((m * d : Nat) : Int) else (m * d : Nat)
    decide (x < y) || (decide (x = y) && a && !b)

/-- Order of two numbers with −0 equal to +0 (R273). -/
def XVal.ltNum (a b : XVal) : Bool :=
  match a, b with
  | .fin _ 0 _, .fin _ 0 _ => false
  | _, _ => a.lt b

def XVal.isNan : XVal → Bool
  | .nan => true
  | .inf _ => false
  | .fin _ _ _ => false

/-- FP32 sum, product and fused product and sum, one rounding each (R101, R271). -/
def fp32Add (rm : Rm) (a b : Word32) : Word32 := roundFp32 rm ((fp32Value a).add (rm == .rd) (fp32Value b))
def fp32Mul (rm : Rm) (a b : Word32) : Word32 := roundFp32 rm ((fp32Value a).mul (fp32Value b))
def fp32Fma (rm : Rm) (a b c : Word32) : Word32 :=
  roundFp32 rm (((fp32Value a).mul (fp32Value b)).add (rm == .rd) (fp32Value c))
def fp32Sub (rm : Rm) (a b : Word32) : Word32 := roundFp32 rm ((fp32Value a).add (rm == .rd) (fp32Value b).neg)

/-- The canonical NaN (R100). -/
def canonNan : Word32 := 0x7FC00000

/-- Minimum and maximum (R272). -/
def fp32Min (a b : Word32) : Word32 :=
  match (fp32Value a).isNan, (fp32Value b).isNan with
  | true, true => canonNan
  | true, false => b
  | false, true => a
  | false, false => if (fp32Value b).lt (fp32Value a) then b else a
def fp32Max (a b : Word32) : Word32 :=
  match (fp32Value a).isNan, (fp32Value b).isNan with
  | true, true => canonNan
  | true, false => b
  | false, true => a
  | false, false => if (fp32Value a).lt (fp32Value b) then b else a

/-- Magnitude and negation (R272). -/
def fp32Abs (a : Word32) : Word32 := if (fp32Value a).isNan then canonNan else a &&& 0x7FFFFFFF
def fp32Neg (a : Word32) : Word32 := if (fp32Value a).isNan then canonNan else a ^^^ 0x80000000

/-- The class bit of a number (R274). -/
def fp32Class (a : Word32) : Word32 :=
  let c := a.toNat
  let neg := c.bitAt 31
  let e := c.field 23 8
  let f := c.field 0 23
  let bit :=
    if e = 255 then (if f = 0 then (if neg then 0 else 7) else if f.bitAt 22 then 9 else 8)
    else if e = 0 then (if f = 0 then (if neg then 3 else 4) else (if neg then 2 else 5))
    else (if neg then 1 else 6)
  BitVec.ofNat 32 (2 ^ bit)

/-- The two BF16 elements of a register (R100), and an operation on both (R275). -/
def bf16Lo (a : Word32) : XVal := fbf16.value (a.toNat.field 0 16)
def bf16Hi (a : Word32) : XVal := fbf16.value (a.toNat.field 16 16)
def bf16Pair (rm : Rm) (lo hi : XVal) : Word32 := BitVec.ofNat 32 (roundBf16 rm lo + 65536 * roundBf16 rm hi)
def bf16Add (rm : Rm) (a b : Word32) : Word32 :=
  bf16Pair rm ((bf16Lo a).add (rm == .rd) (bf16Lo b)) ((bf16Hi a).add (rm == .rd) (bf16Hi b))
def bf16Mul (rm : Rm) (a b : Word32) : Word32 :=
  bf16Pair rm ((bf16Lo a).mul (bf16Lo b)) ((bf16Hi a).mul (bf16Hi b))
def bf16Fma (rm : Rm) (a b c : Word32) : Word32 :=
  bf16Pair rm (((bf16Lo a).mul (bf16Lo b)).add (rm == .rd) (bf16Lo c))
    (((bf16Hi a).mul (bf16Hi b)).add (rm == .rd) (bf16Hi c))

/-- An integer as its two's complement bits of `w` bits. -/
def intBits (w : Nat) (i : Int) : Nat := (i % (2 ^ w : Nat)).toNat

/-- A conversion by its code (R276, R277). -/
def convert (code : Nat) (rm : Rm) (a b : Word32) : Word32 :=
  let x := fp32Value a
  BitVec.ofNat 32 <|
    match code with
    | 0 => ffp32.round rm (.ofInt a.toInt)
    | 1 => ffp32.round rm (.ofInt a.toNat)
    | 2 => intBits 32 (roundInt rm (-2147483648) 2147483647 x)
    | 3 => intBits 32 (roundInt rm 0 4294967295 x)
    | 4 => roundBf16 rm x
    | 5 => ffp32.round rm (fbf16.value (a.toNat.field 0 16))
    | 6 => roundD8 rm x
    | 7 => ffp32.round rm (d8Value (a.toNat.field 0 8))
    | 8 => roundE4m3 rm x
    | 9 => ffp32.round rm (e4m3Value (a.toNat.field 0 8))
    | 10 => roundE5m2 rm x
    | 11 => ffp32.round rm (fe5m2.value (a.toNat.field 0 8))
    | 12 => intBits 8 (roundInt rm (-128) 127 x)
    | 13 => intBits 4 (roundInt rm (-8) 7 x)
    | 14 => roundBf16 rm x + 65536 * roundBf16 rm (fp32Value b)
    | _ => intBits 8 (max (-128) (min 127 a.toInt))

-- Elements, blocks and images (R109 to R114).

/-- Bits of an element (R99). -/
def fmtBits : Nat → Nat
  | 5 => 4
  | 6 => 4
  | 7 => 16
  | 8 => 32
  | 9 => 32
  | _ => 8

/-- Elements per described block by the format of the record (R110). -/
def blockElems (f : Nat) : Nat := if fmtBits f = 4 then 124 else if fmtBits f = 16 then 31 else 62

/-- A number scaled by 2^e. -/
def XVal.scale2 (e : Int) : XVal → XVal
  | .fin s n d => if 0 ≤ e then .fin s (n * 2 ^ e.toNat) d else .fin s n (d * 2 ^ (-e).toNat)
  | x => x
/-- A number scaled by 10^e. -/
def XVal.scale10 (e : Int) : XVal → XVal
  | .fin s n d => if 0 ≤ e then .fin s (n * 10 ^ e.toNat) d else .fin s n (d * 10 ^ (-e).toNat)
  | x => x

/-- A number read as two's complement of `w` bits. -/
def sextNat (w x : Nat) : Int := if x.bitAt (w - 1) then (x : Int) - (2 ^ w : Nat) else x

/-- The value of an element code of a format, zero point and scale (R105, R110, R112). -/
def elemValue (fmt z : Nat) (e : Int) (t : Nat) : XVal :=
  match fmt with
  | 1 => (d8Value t).scale10 e
  | 2 => (e4m3Value t).scale2 e
  | 3 => (fe5m2.value t).scale2 e
  | 4 => (XVal.ofInt (sextNat 8 t)).scale2 e
  | 5 => (XVal.ofInt (sextNat 4 t)).scale2 e
  | 6 => (XVal.ofInt ((t : Int) - z)).scale2 e
  | 7 => (fbf16.value t).scale2 e
  | 8 => fp32Value (BitVec.ofNat 32 t)
  | 9 => .ofInt (sextNat 32 t)
  | _ => .ofInt t

/-- Whether operand B of a pair (else A) accepts a format (R113). -/
def pairAccepts (p : MPair) (isB : Bool) (fmt : Nat) : Bool :=
  match p with
  | .bf16 => fmt == 7
  | .bf16w4 => if isB then fmt == 5 || fmt == 6 else fmt == 7
  | .f8 => fmt == 1 || fmt == 2 || fmt == 3
  | .i8 => fmt == 4
  | .i8sat => fmt == 4
  | .f32 => fmt == 8

/-- The integer pairs (R113). -/
def pairIsInt : MPair → Bool
  | .i8 => true
  | .i8sat => true
  | .bf16 => false
  | .bf16w4 => false
  | .f8 => false
  | .f32 => false

/-- The image of a value in a pair (R114), as its exact value again. -/
def imageOf (p : MPair) (x : XVal) : XVal :=
  match p with
  | .bf16 => fbf16.value (roundBf16 .rn x)
  | .bf16w4 => fbf16.value (roundBf16 .rn x)
  | .f8 => ffp32.value (ffp32.round .rn x)
  | .f32 => ffp32.value (ffp32.round .rn x)
  | .i8 => x
  | .i8sat => x

/-- A block is malformed for operand class (pair, side) under a record of format `fmt` (R111). -/
def malformed (p : MPair) (isB : Bool) (fmt code aux e : Nat) : Bool :=
  !(decide (1 ≤ code ∧ code ≤ 7)) || fmtBits code != fmtBits fmt || (aux != 0 && code != 6) ||
    !pairAccepts p isB code || (pairIsInt p && e != 0)

/-- The image of element `i` of a 64-byte block, and whether the block is malformed (R109 to R111, R114). -/
def blockImage (p : MPair) (isB : Bool) (fmt : Nat) (blk : List Byte) (i : Nat) : XVal × Bool :=
  let byte := fun k => (blk.getD k 0).toNat
  let code := byte 0 % 16
  let aux := byte 0 / 16
  if malformed p isB fmt code aux (byte 1) then
    (if pairIsInt p then .fin false 0 1 else .nan, true)
  else
    let t := if fmtBits code = 4 then byte (2 + i / 2) / 16 ^ (i % 2) % 16
      else if fmtBits code = 16 then byte (2 + 2 * i) + 256 * byte (3 + 2 * i)
      else byte (2 + i)
    (imageOf p (elemValue code aux (sextNat 8 (byte 1)) t), false)

/-- The exact sum of products of images over a group (R115): an exact zero is +0 unless every product is −0. -/
def groupSum (l : List XVal) : XVal :=
  let s := l.foldl (XVal.add false) (.fin true 0 1)
  match s with
  | .fin _ 0 _ => .fin (l.all fun x => match x with
      | .fin true 0 _ => true
      | _ => false) 0 1
  | s => s

/-- The products of two image lists. -/
def products (a b : List XVal) : List XVal := (a.zip b).map fun p => p.1.mul p.2

/-- One cell of a floating pair: groups of sixteen, each rounded, then added (R115). `fuel` bounds the groups. -/
def sumFloat : Nat → List XVal → Word32 → Word32
  | 0, _, acc => acc
  | fuel + 1, ps, acc =>
    if ps.isEmpty then acc
    else sumFloat fuel (ps.drop 16) (fp32Add .rn acc (roundFp32 .rn (groupSum (ps.take 16))))

/-- The integer of an integer image. -/
def XVal.toInt : XVal → Int
  | .fin neg n d => if neg then -((n / d : Nat) : Int) else (n / d : Nat)
  | .inf _ => 0
  | .nan => 0

/-- One cell of an integer pair (R116). -/
def sumInt (sat : Bool) : Nat → List Int → Int → Int
  | 0, _, acc => acc
  | fuel + 1, ps, acc =>
    if ps.isEmpty then acc
    else
      let s := acc + (ps.take 16).sum
      sumInt sat fuel (ps.drop 16)
        (if sat then max (-2147483648) (min 2147483647 s) else (BitVec.ofInt 32 s).toInt)

/-- A cell after an `mmac` over all its products (R115, R116). -/
def cellSum (p : MPair) (a b : List XVal) (acc : Word32) : Word32 :=
  if pairIsInt p then
    BitVec.ofInt 32 (sumInt (p == .i8sat) a.length ((a.zip b).map fun q => q.1.toInt * q.2.toInt) acc.toInt)
  else sumFloat a.length (products a b) acc

/-- A cell converted by `mstore` (R320): `src` says the cell is INT32. -/
def storeElem (src : Bool) (fmt : Fmt) (rm : Rm) (w : Word32) : Nat :=
  let x := if src then XVal.ofInt w.toInt else fp32Value w
  match fmt with
  | .fp32 => if src then ffp32.round rm x else w.toNat
  | .int32 => if src then w.toNat else intBits 32 (roundInt rm (-2147483648) 2147483647 x)
  | .bf16 => roundBf16 rm x
  | .d8 => roundD8 rm x
  | .e4m3 => roundE4m3 rm x
  | .e5m2 => roundE5m2 rm x
  | .int8 => intBits 8 (roundInt rm (-128) 127 x)
  | .byte => w.toNat % 256
  | .int4 => w.toNat % 16
  | .z4 => w.toNat % 16

/-- The numeric behaviour record of a pair code (R118). -/
def numericRecord : Nat → Nat
  | 0 => 0x0020001007030301
  | 1 => 0x0120001007030301
  | 2 => 0x0220001008030301
  | 3 => 0x0320011004000001
  | 4 => 0x0420021004000001
  | 5 => 0x0520001008030301
  | _ => 0

end Sys2Proof.Machine
end

