-- ==== Sys2Proof/Machine/Flags.lean ====
section
/-! DEFINITION. The integer arithmetic of the S and V slots and every comparison that writes a predicate
(R235, R238, R267, R268, R273). -/

namespace Sys2Proof

open Sys2Proof.Machine

/-- The width of a type (R235, R267). -/
def ITy.width (ty : ITy) : Nat := if ty.is64 then 64 else 32

/-- An operand of W bits read as an exact integer by the type's signedness (R235, R267). -/
def tyInt (ty : ITy) (x : Word64) : Int :=
  match ty with
  | .i64 => x.toInt
  | .n64 => x.toNat
  | .i32 => (x.setWidth 32).toInt
  | .n32 => (x.setWidth 32).toNat

/-- The lowest and the highest value of a type. -/
def tyMin : ITy → Int
  | .i64 => -(2 ^ 63)
  | .n64 => 0
  | .i32 => -(2 ^ 31)
  | .n32 => 0
def tyMax : ITy → Int
  | .i64 => 2 ^ 63 - 1
  | .n64 => 2 ^ 64 - 1
  | .i32 => 2 ^ 31 - 1
  | .n32 => 2 ^ 32 - 1

/-- Clamped to the range of the type (R267). -/
def tyClamp (ty : ITy) (x : Int) : Int := max (tyMin ty) (min (tyMax ty) x)

/-- An S result: modulo 2^W, sign-extended for `.i32`, zero-extended for `.n32` (R235). -/
def sResult (ty : ITy) (r : Int) : Word64 :=
  match ty with
  | .i64 => BitVec.ofInt 64 r
  | .n64 => BitVec.ofInt 64 r
  | .i32 => (BitVec.ofInt 32 r).signExtend 64
  | .n32 => (BitVec.ofInt 32 r).setWidth 64

/-- A shift amount is taken modulo W (R235, R267). -/
def shAmount (ty : ITy) (b : Word64) : Nat := b.toNat % ty.width

/-- The operand's W bits as an unsigned number. -/
def tyNat (ty : ITy) (x : Word64) : Nat := x.toNat % 2 ^ ty.width

/-- The operand's W bits as a two's complement number: bit W − 1 is the sign for every type (R267). -/
def tyTwos (ty : ITy) (x : Word64) : Int := if ty.is64 then x.toInt else (x.setWidth 32).toInt

/-- A condition on two exact integers (R238, R268). -/
def ccInt (cc : Cc) (a b : Int) : Bool :=
  match cc with
  | .eq => decide (a = b)
  | .ne => !decide (a = b)
  | .lt => decide (a < b)
  | .le => decide (a ≤ b)
  | .gt => decide (b < a)
  | .ge => decide (b ≤ a)
  | .un => false

/-- A condition on two FP32 values (R273): ordered but for `ne` and `un`, −0 equal to +0. -/
def ccFp (cc : Cc) (a b : Word32) : Bool :=
  let x := fp32Value a
  let y := fp32Value b
  let un := x.isNan || y.isNan
  match cc with
  | .eq => !un && !x.ltNum y && !y.ltNum x
  | .ne => un || x.ltNum y || y.ltNum x
  | .lt => !un && x.ltNum y
  | .le => !un && !y.ltNum x
  | .gt => !un && y.ltNum x
  | .ge => !un && !x.ltNum y
  | .un => un

/-- Exact integer of a typed S operation by name (R235). -/
def sAdd (ty : ITy) (a b : Word64) : Int := tyInt ty a + tyInt ty b
def sSub (ty : ITy) (a b : Word64) : Int := tyInt ty a - tyInt ty b
def sMul (ty : ITy) (a b : Word64) : Int := tyInt ty a * tyInt ty b
def sMulhi (ty : ITy) (a b : Word64) : Int := tyInt ty a * tyInt ty b / 2 ^ ty.width
def sAnd (ty : ITy) (a b : Word64) : Int := tyNat ty (a &&& b)
def sOr (ty : ITy) (a b : Word64) : Int := tyNat ty (a ||| b)
def sXor (ty : ITy) (a b : Word64) : Int := tyNat ty (a ^^^ b)
def sShl (ty : ITy) (a b : Word64) : Int := tyNat ty a * 2 ^ shAmount ty b
def sShr (ty : ITy) (a b : Word64) : Int := tyNat ty a / 2 ^ shAmount ty b
/-- Copies of bit W − 1 come in from the left (R235; for the unsigned types as R267 says of `vsar`: log entry 22). -/
def sSar (ty : ITy) (a b : Word64) : Int := tyTwos ty a / 2 ^ shAmount ty b
def sMin (ty : ITy) (a b : Word64) : Int := min (tyInt ty a) (tyInt ty b)
def sMax (ty : ITy) (a b : Word64) : Int := max (tyInt ty a) (tyInt ty b)

end Sys2Proof
end

