-- ==== Sys2Proof/Config.lean ====
section
/-! DEFINITION. What the module fixes and the free values.
An `opaque` constant has no body: nothing can be proved about the value it gives, so a claim holds whatever it is. -/

namespace Sys2Proof.Config

/-- FREE VALUE (log entry 7): a byte the manual leaves undefined (R4, R129, R142, R153, R154), drawn by a counter. -/
opaque freeByte : Nat → Byte

/-- FREE VALUE (log entry 7): a 32-bit element the manual leaves undefined or that the model cannot decide. -/
opaque freeWord : Nat → Word32

/-- Byte `n` of SHAKE256 of a message (R220, R221): the manual names the function and does not define it (log entry 8). -/
opaque shake256At : List Byte → Nat → Byte

/-- SHAKE256 with 64 bytes of output (R221). -/
def shake256 (m : List Byte) : List Byte := (List.range 64).map (shake256At m)

/-- XMSS^MT verification (R221) of key, message and signature: named by the manual, not defined (log entry 8). -/
opaque xmssVerify : List Byte → List Byte → List Byte → Bool

/-- Length of an XMSS^MT signature of the parameter set of R220 (R227). -/
def sigLen : Nat := 9893

/-- Byte `n` of the XMSS^MT signature made with a leaf of the device identity over a message (R220; log entry 8). -/
opaque xmssSignAt : Nat → List Byte → Nat → Byte

/-- The signature a leaf of the device identity makes over a message (R220). -/
def xmssSign (leaf : Nat) (m : List Byte) : List Byte := (List.range sigLen).map (xmssSignAt leaf m)

/-- The number of the parameter set of R220, which the manual does not give (log entry 8). -/
opaque xmssSet : Nat

/-- The oid of that parameter set as SIGN and grants carry it: 4 bytes (R221, R223). -/
def xmssOid : Nat := xmssSet % 2 ^ 32

/-- The bytes of the device identity's public key (log entry 8). -/
opaque identityAt : Nat → Byte

/-- The device identity's public key: root, then seed, 64 bytes (R220). -/
def identityKey : List Byte := (List.range 64).map identityAt

/-- The bytes of the vendor root's public key (log entry 8). -/
opaque vendorAt : Nat → Byte

/-- The vendor root's public key, 64 bytes (R220, R223). -/
def vendorKey : List Byte := (List.range 64).map vendorAt

/-- The ROM whose SHAKE256 an attestation carries (R232; log entry 8). -/
opaque rom : List Byte

/-- The element that coordinates name in a tiled record whose extents are no multiples of its block shape: from the block's shape, the
extents and the coordinates, a number without a bound (R123; log entry 76). -/
opaque oddIndex : Nat → Nat → List Nat → List Nat → Nat

/-- The 32 bits of a packet's tile field for a tile number that does not fit them (R16, R202; log entry 126). -/
opaque bigTile : Nat → Word32

/-- Frame size (R124). -/
def frameBytes : Nat := 65536

/-- Bytes of tile memory per core (R128). -/
def tmemBytes : Nat := 2097152

/-- `2^64 - 1`, the value at which meters saturate (R225) and which latest reads before time is known (R178). -/
def ones64 : Nat := 18446744073709551615

/-- Accumulator tiles per core (R6). -/
def accTiles : Nat := 256

/-- Most outstanding memory requests of a core (R141). -/
def maxRequests : Nat := 512

/-- Fixed 256 MiB / 64 KiB: the frames a stack's tier G can have at most (R10). -/
def framesPerMiB : Nat := 16

/-- HBM frames per stack: two HBM4E stacks of 48 GiB (R19). -/
def hbmFrames : Nat := 2 * 48 * 1024 * 16

/-- Far-tier frames: up to 4 TiB (R15). -/
def farFrames : Nat := 4 * 1024 * 1024 * 16

end Sys2Proof.Config
end

