-- ==== Sys2Proof/Machine/State.lean ====
section
/-! DEFINITION. The state of the Z880 as plain data, its faults and refusals, and the state after reset. -/

namespace Sys2Proof.Machine

/-- Why a step stops the model. -/
inductive Fault where
  /-- Raised by a slot operation or a stream token given to `exec` when no word of any warp is being issued:
  such a step never arises in the device (R56).  SAFE: the model stops where the device never is. -/
  | noWarpIssuing
  deriving DecidableEq, Repr

/-- Why a step has no meaning. -/
inductive Refusal where
  /-- The instruction named has no meaning in the model yet.  SAFE: nothing is claimed of it. -/
  | notModelled (mnemonic : String)
  deriving DecidableEq, Repr

/-- Memory: (address, byte) pairs, addresses strictly rising, no byte equal to what an unlisted address reads as. -/
abbrev Memory := List Host.Cell

/-- A level of the loop stack (R70). -/
structure LoopLevel where
  start : Nat
  len   : Nat
  count : Nat
  index : Nat
  deriving DecidableEq, Repr, Inhabited

/-- An entry of the mask stack (R23, R33). -/
structure MaskEntry where
  saved : Mask
  other : Mask
  deriving DecidableEq, Repr, Inhabited

/-- A delayed transfer (R240); `link` is the `b` register a `bcall` writes (R241). -/
structure Xfer where
  target    : Nat
  remaining : Nat
  link      : Option Nat
  deriving DecidableEq, Repr, Inhabited

/-- An address stream register (R122). -/
structure AStream where
  rcd  : Nat
  c    : List Word32
  i    : List Word32
  step : BitVec 16
  sdim : Nat
  deriving DecidableEq, Repr, Inhabited

/-- A lane fault record (R365). -/
structure LaneRec where
  lane   : Nat
  cause  : Nat
  slot   : Nat
  rcd    : Nat
  offset : Nat
  c0     : Word32
  c1     : Word32
  deriving DecidableEq, Repr, Inhabited

/-- A field of an address stream that a landing result writes (R287, R291). -/
inductive XEff where
  | bind (rcd : Nat)
  | setC (k : Nat) (v : Word32)
  | setI (k : Nat) (v : Word32)
  | setLane (step : BitVec 16) (sdim : Nat)
  deriving DecidableEq, Repr, Inhabited

/-- What a fixed-latency result writes when it lands (R52, R56). -/
inductive Effect where
  | sreg (d : Nat) (v : Word64)
  | vreg (d : Nat) (m : Mask) (v : Lanes)
  | preg (d : Nat) (m v : Mask)
  | qreg (d : Nat) (v : Bool)
  | breg (d : Nat) (v : Word32)
  | latch (l : Nat) (m : Mask) (v : Lanes)
  | xreg (x : Nat) (e : XEff)
  | spillRec (v : Nat)
  | spillOff (v : Word64)
  deriving DecidableEq, Repr, Inhabited

/-- An entry of F (R56): the effects of one slot, in flight. -/
structure Flight where
  landing : Nat
  issued  : Nat
  turn    : Nat
  effs    : List Effect
  deriving DecidableEq, Repr, Inhabited

/-- A register that can be pending (R54). -/
inductive PReg where
  | v (n : Nat)
  | s (n : Nat)
  | p (n : Nat)
  | q (n : Nat)
  | h (n : Nat)
  deriving DecidableEq, Repr, Inhabited

/-- An entry of P (R56): a pending register, the request it waits for, and the cycle its data returned in. -/
structure Pend where
  reg      : PReg
  req      : Nat
  returned : Option Nat
  deriving DecidableEq, Repr, Inhabited

/-- The synchronisation a warp waits at (R26, R30, R34, R35).  `ftry` and `pwacq` of the same word suspend it besides. -/
inductive Wait where
  | none
  | bar (id : Nat)
  | regroup (offset loops masks : Nat) (pred : Mask) (part : Bool)
  | ungroup
  deriving DecidableEq, Repr, Inhabited

/-- A suspension by `ftry` (R329): the predicate it writes, the handle, and the t-hat (ps) it ends at. -/
structure Trying where
  q        : Nat
  handle   : Word64
  deadline : Nat
  deriving DecidableEq, Repr, Inhabited

/-- Why a warp's next word is held after a word that orders memory (R147, R148, R300, R319, R260); `sync` at a `bar`, `regroup` or
`ungroup` until the warp's accesses have performed (R155). -/
inductive HoldKind where
  | fence (scope : Scope)
  | drain (scope : Scope)
  | atom (acquire : Bool) (scope : Scope)
  | mready (cycle : Nat)
  | spill
  | sync
  deriving DecidableEq, Repr, Inhabited

/-- A hold: the warp's next word waits for the warp's requests numbered below `upto`. -/
structure Hold where
  kind : HoldKind
  upto : Nat
  deriving DecidableEq, Repr, Inhabited

/-- A trap raised and not yet entered (R58, R246): code, `sys.trap_arg`, `sys.hpc`, `sys.hnext`, the loop stack and the
idle remainder that go with `sys.hnext`, the slot it is reported for, and the record, lane and coordinates of a fatal
record (R373). A code of 0x80 or above is a fatal context error; `arg` is then the trap code that led to it. -/
structure TrapInfo where
  code  : Nat
  arg   : Nat
  hpc   : Nat
  hnext : Nat
  loops : List LoopLevel
  idle  : Nat
  slot  : Nat
  rcd   : Nat
  lane  : Nat
  c0    : Word32
  c1    : Word32
  deriving DecidableEq, Repr, Inhabited

/-- The program bank set aside while a warp runs its handler (R246); `after` and `left` are the loop stack and the idle
remainder that go with `sys.hnext`. -/
structure Bank where
  pc     : Nat
  idle   : Nat
  after  : List LoopLevel
  left   : Nat
  loops  : List LoopLevel
  masks  : List MaskEntry
  active : Mask
  xfer   : Option Xfer
  b      : List Word32
  sHi    : List Word64
  qHi    : List Bool
  deriving DecidableEq, Repr, Inhabited

/-- A deadline step (R187); `isOpen` until `dclose`, whose pseudocode leaves the rest. -/
structure DStep where
  isOpen   : Bool
  deadline : Nat
  expected : Nat
  done     : Nat
  cycles   : Nat
  risk     : Bool
  due      : Bool
  deriving DecidableEq, Repr, Inhabited

/-- A warp (R23).  `probeIn` and `probeBad` hold what a probe's completion told (R139), `drains` the drain packets not yet
answered (R16), `unready` its stores and atomics since the last `mready`, fence, drain or acquire, each with the word that made
it, its address and the bytes it replaced (R154), `overdraw` an over-draw not yet taken (R385), `regrant` a grant level to
re-acquire (R191), `asking` the level it is suspended for in `pwacq`, `trying` its suspension by `ftry`, `gathers` the cycles in
which the data of its `ldg` through local windows returns with their requests (R141), `stopRec` the function whose Lantern has
yet to write the record of its precise stop (R401), `held` and `atPoint` its standing at a pre-emption point (R38, R39). -/
structure Warp where
  num       : Nat
  core      : Nat
  pitch     : Nat
  slot      : Nat
  pc        : Nat
  idle      : Nat
  loops     : List LoopLevel
  masks     : List MaskEntry
  active    : Mask
  b         : List Word32
  xfer      : Option Xfer
  region    : Option Nat
  bank      : Option Bank
  v         : List Lanes
  s         : List Word64
  p         : List Mask
  q         : List Bool
  h         : List Word64
  x         : List AStream
  parked    : Mask
  records   : List LaneRec
  lastIssue : Int
  flights   : List Flight
  pend      : List Pend
  wait      : Wait
  asking    : Option Nat
  trying    : Option Trying
  gathers   : List (Nat × Nat)
  hold      : List Hold
  held      : Bool
  stopped   : Bool
  stopRec   : Option Nat
  trap      : Option TrapInfo
  exited    : Bool
  hcause    : Nat
  hpc       : Nat
  hnext     : Nat
  trapArg   : Nat
  spillRec  : Nat
  spillOff  : Word64
  step      : Option DStep
  grant     : Option Nat
  regrant   : Option Nat
  probeIn   : Option Nat
  probeBad  : Bool
  drains    : Nat
  unready   : List (Nat × Nat × List Byte)
  overdraw  : Bool
  atPoint   : Bool
  deriving DecidableEq, Repr, Inhabited

/-- A dictionary entry: the 512-bit word and its metadata as numbers (R60). -/
structure Entry where
  word : Nat
  md   : Nat
  deriving DecidableEq, Repr, Inhabited

/-- A code unit (R79): dictionary, stream, highest `v` index (R65) and accumulator tiles named (R311). -/
structure CodeUnit where
  unit  : Nat
  dict  : List Entry
  code  : List Byte
  maxV  : Nat
  tiles : Nat
  deriving DecidableEq, Repr, Inhabited

/-- The handler section (R83). -/
structure Handler where
  dict  : List Entry
  code  : List Byte
  entry : List Nat
  maxV  : Nat
  tiles : Nat
  deriving DecidableEq, Repr, Inhabited

/-- A buffer record (R119). -/
structure Record where
  base      : Nat
  ext       : List Nat
  tb0       : Nat
  tb1       : Nat
  meter     : Nat
  mtag      : Nat
  core      : Nat
  rights    : Nat
  described : Bool
  format    : Nat
  layout    : Nat
  ndim      : Nat
  kind      : Nat
  peer      : Nat
  deriving DecidableEq, Repr, Inhabited

/-- A launch record (R82). -/
structure LaunchRec where
  meters : Nat
  stages : List (Nat × Nat)
  vdies  : Nat
  nstage : Nat
  entry  : Nat
  dsize  : Nat
  kernel : Nat
  unit   : Nat
  grid   : List Nat
  cores  : Nat
  warps  : Nat
  tmem   : Nat
  power  : Nat
  cls    : Nat
  regs   : Nat
  gen    : Nat
  deriving DecidableEq, Repr, Inhabited

/-- A DATA item (R84). -/
structure DataItem where
  kind    : Nat
  binding : Nat
  offset  : Nat
  bytes   : List Byte
  deriving DecidableEq, Repr, Inhabited

/-- An image held by a context with its verification record (R78 to R85, R221, R222). -/
structure Image where
  handle   : Nat
  ctx      : Nat
  valid    : Bool
  units    : List CodeUnit
  pool     : List Record
  launches : List LaunchRec
  handler  : Option Handler
  data     : List DataItem
  meters   : List Nat
  measure  : List Byte
  signer   : List Byte
  secver   : Nat
  deriving DecidableEq, Repr, Inhabited

/-- A verification record in Rainfly (R222). -/
structure Verified where
  ctx     : Nat
  measure : List Byte
  signer  : List Byte
  secver  : Nat
  deriving DecidableEq, Repr, Inhabited

/-- A tile-table entry (R126); `moving` holds the destination stack and frame of a move (R137). -/
structure TileEntry where
  resident : Bool
  writable : Bool
  metered  : Bool
  pins     : Nat
  tier     : Nat
  die      : Nat
  frame    : Nat
  moving   : Option (Nat × Nat)
  deriving DecidableEq, Repr, Inhabited

/-- A tensor with its tile table (R205); `bound` while its binding number names it. -/
structure Tensor where
  base    : Nat
  ctx     : Nat
  image   : Nat
  binding : Nat
  bytes   : Nat
  tier    : Nat
  vdie    : Nat
  export_ : Bool
  pinned  : Bool
  bound   : Bool
  entries : List TileEntry
  deriving DecidableEq, Repr, Inhabited

/-- A slot of a block's handle ring (R323, R331). -/
structure RingSlot where
  slot      : Nat
  gen       : Nat
  kind      : Nat
  resolved  : Bool
  outcome   : Nat
  malformed : Bool
  val       : Nat
  deriving DecidableEq, Repr, Inhabited

/-- A block's tile-memory allocation and physical accumulator tiles on a core (R22, R130, R311). -/
structure Alloc where
  core  : Nat
  base  : Nat
  tiles : List Nat
  deriving DecidableEq, Repr, Inhabited

/-- A regroup region on a pitch (R34, R35). -/
structure Region where
  core    : Nat
  pitch   : Nat
  members : List Nat
  base    : Nat
  table   : List (List Nat)
  masks   : List Mask
  mstacks : List (List MaskEntry)
  deriving DecidableEq, Repr, Inhabited

/-- Where a block stands (R20, R217, R358): placed, saved by a pre-emption, or saved by a swap-out. -/
inductive BStatus where
  | placed | saved | swapped
  deriving DecidableEq, Repr, Inhabited

/-- Who asked for a block's pre-emption (R357), the stage a block of which takes the space (R215), and where a rotated block
goes (R194). -/
inductive PreemptBy where
  | command (fn : Nat)
  | balancer (stage : Nat)
  | heat (stack cluster : Nat)
  deriving DecidableEq, Repr, Inhabited

/-- A pre-emption request: requester and the t-hat (ps) it was made at (R357). -/
structure PreReq where
  by_   : PreemptBy
  since : Nat
  deriving DecidableEq, Repr, Inhabited

/-- A placement hint (R217). -/
structure Hint where
  vdie       : Nat
  cores      : List Nat
  mapVersion : Nat
  deriving DecidableEq, Repr, Inhabited

/-- What a save keeps of one core (R217): bytes and empty granules of its tile memory, cells of its tiles,
each relative to the allocation. -/
structure SavedCore where
  mem   : Memory
  empty : List Nat
  acc   : Memory
  deriving DecidableEq, Repr, Inhabited

/-- An entry of the fabric routing table (R202). -/
structure Route where
  peer   : Nat
  valid  : Bool
  mask   : Nat
  device : Nat
  deriving DecidableEq, Repr, Inhabited

/-- The route an access to a peer took at its submission (R202): mask and device id of the entry as it stood, and the
lowest-numbered port of it that was up. -/
structure Path where
  mask   : Nat
  device : Nat
  port   : Nat
  deriving DecidableEq, Repr, Inhabited

/-- A port a core has sent by since its last drain packet on it (R16): the peer, and mask and device id of the entry used. -/
structure UsedPort where
  core   : Nat
  port   : Nat
  peer   : Nat
  mask   : Nat
  device : Nat
  deriving DecidableEq, Repr, Inhabited

/-- A box of elements an engine reads or writes (R314, R325), with where its windows lie and the route to a peer's (R202). -/
structure Box where
  rcd   : Record
  rec_  : Nat
  stack : Nat
  core  : Nat
  alloc : Nat
  c     : List Nat
  e0    : Nat
  e1    : Nat
  route : Option Path
  deriving DecidableEq, Repr, Inhabited

/-- The engine operations (R323). -/
inductive EngKind where
  | cpy
  | cpym (mask : Nat)
  | coll (op : CollOp)
  | mstore (acc nt m : Nat) (fmt : Fmt) (rm : Rm) (src : Bool)
  | mload (acc nt m : Nat)
  | mmac (acc n m : Nat) (pair : MPair) (pro : Bool)
  | lblk (tag first lines : Nat)
  deriving DecidableEq, Repr, Inhabited

/-- Progress of an engine operation (R324, R316); `writing` while its writes to a peer are answered (R151). -/
inductive EngSt where
  | queued | started | writing
  deriving DecidableEq, Repr, Inhabited

/-- An engine operation not yet finished; `offset` is that of its word's token (R373), `waited` the cycles it waited before a save
kept it (R399).  `overr` holds bytes it reads as they were before stores it does not see (R142, R154), `own` the bytes that stores
of its own word wrote (R142), `taint` those any other party wrote (R129, R153); a save keeps the two as bytes of its boxes. -/
structure EngOp where
  id     : Nat
  block  : Nat
  warp   : Nat
  handle : Nat
  kind   : EngKind
  st     : EngSt
  stack  : Nat
  core   : Nat
  word   : Nat
  offset : Nat
  issue  : Nat
  waited : Nat
  last   : Nat
  dst    : Option Box
  srcA   : Option Box
  srcB   : Option Box
  pinned : List (Nat × Nat)
  overr  : List (Nat × Byte)
  own    : List Nat
  taint  : List Nat
  image  : List (Nat × Byte)
  doneRd : Bool
  deriving DecidableEq, Repr, Inhabited

/-- A block (R20, R22, R217).  `saved` and `savedOps` hold what a save keeps besides the warps, core by core as `hint` lists the
cores; `probed` the frames its probes covered (R370); a `draining` block issues no more until it is swapped out (R42), and one
away for a stream frame it `missed` is served before any new block (R358). -/
structure Block where
  bid      : Nat
  ctx      : Nat
  task     : Nat
  stage    : Nat
  num      : Nat
  rcd      : LaunchRec
  image    : Nat
  vdie     : Nat
  stack    : Nat
  status   : BStatus
  warps    : List Warp
  bars     : List Nat
  ring     : List RingSlot
  ringNext : Nat
  gen      : Nat
  allocs   : List Alloc
  regions  : List Region
  pre      : Option PreReq
  hint     : Option Hint
  saved    : List SavedCore
  savedOps : List EngOp
  probed   : List (Nat × Nat)
  draining : Bool
  missed   : Bool
  deriving DecidableEq, Repr, Inhabited

/-- A stage queue (R213, R214): capacity log2, counts, and the tier G frames that hold it. -/
structure StageQ where
  logCap : Nat
  head   : Nat
  tail   : Nat
  stack  : Nat
  frames : List Nat
  emptyFor : Nat
  deriving DecidableEq, Repr, Inhabited

/-- A task (R208 to R213): `recs` the launch record of each stage, `next` how many blocks of each stage's grid have been
placed, `drain` the number below which requests and operations must have ended before it completes (R157). -/
structure Task where
  ctx        : Nat
  num        : Nat
  tag        : Nat
  image      : Nat
  queue      : Nat
  recs       : List LaunchRec
  pool       : List Record
  held       : Bool
  links      : List Nat
  dispatched : Bool
  completed  : Bool
  suspended  : Bool
  next       : List Nat
  drain      : Option Nat
  queues     : List StageQ
  deriving DecidableEq, Repr, Inhabited

/-- A fatal record (R373). -/
structure Fatal where
  code   : Nat
  trap   : Nat
  slot   : Nat
  vdie   : Nat
  rcd    : Nat
  core   : Nat
  pitch  : Nat
  warp   : Nat
  lane   : Nat
  block  : Nat
  offset : Nat
  c0     : Nat
  c1     : Nat
  task   : Nat
  stamp  : Nat
  seq    : Nat
  deriving DecidableEq, Repr, Inhabited

/-- A completion record waiting for room in its ring, or written (R211). -/
structure Completion where
  task   : Nat
  tag    : Nat
  status : Nat
  stamp  : Nat
  deriving DecidableEq, Repr, Inhabited

/-- A context (R204); `copies` the stacks on which a `VDIE_BIND` has placed copies of its dictionaries and streams (R206),
`suspended` from a `PREEMPT` of all its tasks to a `RESUME` (R209, R216); `ckptDone` once the checkpoints of a fatal error have been
requested (R372). -/
structure Context where
  num      : Nat
  fn       : Nat
  vdies    : List Nat
  copies   : List Nat
  mapVer   : Nat
  bivouac  : Nat
  ringAddr : Nat
  ringSize : Nat
  readCnt  : Nat
  posted   : Nat
  queued   : List Completion
  nextTask : Nat
  suspended : Bool
  fatal    : Option Fatal
  ckptDone : Bool
  deriving DecidableEq, Repr, Inhabited

/-- A grant held by a context (R223, R224). -/
structure Grant where
  ctx     : Nat
  region  : Nat
  number  : Nat
  readers : List (List Byte)
  deriving DecidableEq, Repr, Inhabited

/-- The body of a checkpoint record (R227). -/
structure Ckpt where
  cause  : Nat
  region : Nat
  grant  : Nat
  value  : Nat
  stamp  : Nat
  seq    : Nat
  deriving DecidableEq, Repr, Inhabited

/-- Who waits for a requested checkpoint (R226, R228). -/
inductive CkptFor where
  | nobody
  | handle (block handle : Nat)
  | command (fn : Nat)
  deriving DecidableEq, Repr, Inhabited

/-- A requested checkpoint, not yet in the NV store (R227); `stamped` when its stamp was taken after the first reference
sample, so that it waits for every die's earliest. -/
structure CkptReq where
  body    : Ckpt
  stamped : Bool
  for_    : CkptFor
  deriving DecidableEq, Repr, Inhabited

/-- A meter (R225): region, value, the licensor key that bound it (R223), the newest grant number and newest record. -/
structure Meter where
  region : Nat
  value  : Nat
  key    : List Byte
  newest : Option Ckpt
  grant  : Nat
  deriving DecidableEq, Repr, Inhabited

/-- A pending `mtrd` (R226). -/
structure MeterReq where
  id     : Nat
  block  : Nat
  warp   : Nat
  region : Nat
  dv     : Nat
  de     : Nat
  dl     : Nat
  deriving DecidableEq, Repr, Inhabited

/-- An `mtck` that Rainfly has not answered (R226): the handle register it writes and the handle it took. -/
structure MeterAsk where
  id     : Nat
  block  : Nat
  warp   : Nat
  region : Nat
  reg    : Nat
  handle : Word64
  deriving DecidableEq, Repr, Inhabited

/-- Rainfly and its NV store (R220 to R231); `bootSeq` is the sequence number that stood when the last boot ended, above which
the records of the run lie (R229, R394). -/
structure Rainfly where
  meters   : List Meter
  ring     : List Ckpt
  signed   : List (Nat × List Byte)
  reqs     : List CkptReq
  readers  : List MeterReq
  asks     : List MeterAsk
  seq      : Nat
  stamp    : Nat
  leaf     : Nat
  bootSeq  : Nat
  fuses    : Nat
  verified : List Verified
  grants   : List Grant
  lastStop : Nat
  carve    : List Nat
  budget   : List Nat
  base     : List Nat
  emax     : List Nat
  deriving DecidableEq, Repr, Inhabited

/-- Where a lane's access goes: tile memory of a core, a byte of a tensor, or a byte of a peer's tensor. -/
inductive Loc where
  | tmem (stack core off : Nat)
  | tensor (base off : Nat)
  | peer (peer base off : Nat)
  deriving DecidableEq, Repr, Inhabited

/-- One lane's part of an outstanding request. -/
structure LaneAcc where
  lane  : Nat
  loc   : Loc
  bytes : Nat
  data  : List Byte
  cmp   : List Byte
  meter : Option Nat
  c0    : Word32
  c1    : Word32
  deriving DecidableEq, Repr, Inhabited

/-- What an outstanding request is (R141). -/
inductive ReqKind where
  | load (d : VDst) (w : Width) (sx : Bool)
  | store
  | atom (d : VDst) (op : AtomOp) (ty : ITy) (order : MemOrder) (scope : Scope)
  | ldas (d : VDst) (w : Width) (sx : Bool) (pd : Nat) (t latest : Nat)
  | qput (q stage : Nat) (data : List Byte)
  | qget (d : VDst) (q stage : Nat)
  deriving DecidableEq, Repr, Inhabited

/-- An outstanding memory request of a warp (R141); `route` is the route of a peer's record, taken at its issue (R202), `overr`
the bytes its own word stored with what they held before, and `undef` those a copy of its word has written meanwhile (R142);
`handler` when a handler's word issued it (R246). -/
structure Req where
  id    : Nat
  block : Nat
  warp  : Nat
  handler : Bool
  stack : Nat
  core  : Nat
  word  : Nat
  kind  : ReqKind
  lanes : List LaneAcc
  offset : Nat
  rec_  : Nat
  route : Option Path
  overr : List (Nat × Byte)
  undef : List Nat
  deriving DecidableEq, Repr, Inhabited

/-- A miss in a core's decode table (R63): the group missed, the cycle since when it stands, and the warp that met it first, whose
request the refill is (R399). -/
structure Miss where
  core  : Nat
  key   : Nat
  since : Nat
  block : Nat
  warp  : Nat
  deriving DecidableEq, Repr, Inhabited

/-- A stamped commit (R159): in the queue of `core` until accepted, then waiting for visibility, a request of that core all the while
(R141); `taken` is the home's t-hat (ps) at its acceptance (R399). -/
structure Commit where
  id     : Nat
  block  : Nat
  warp   : Nat
  core   : Nat
  handle : Nat
  ctx    : Nat
  base   : Nat
  off    : Nat
  data   : List Byte
  lines  : Nat
  stamp  : Option Nat
  taken  : Nat
  deriving DecidableEq, Repr, Inhabited

/-- A version of a stamped line (R161). -/
structure Version where
  stamp   : Nat
  visible : Bool
  data    : List Byte
  deriving DecidableEq, Repr, Inhabited

/-- A stamped line (R160): its physical line address and its versions, oldest first. -/
structure Stamped where
  line     : Nat
  versions : List Version
  deriving DecidableEq, Repr, Inhabited

/-- A checker tag (R158): scope and instance, the instance as context, block and cluster numbers. -/
structure ScopeTag where
  line  : Nat
  scope : Nat
  ctx   : Nat
  block : Nat
  warp  : Nat
  place : Nat
  deriving DecidableEq, Repr, Inhabited

/-- A line of a core's L1 (R132) with the data it was filled with; `tag` when it belongs to a load-block (R133). -/
structure L1Line where
  core : Nat
  base : Nat
  line : Nat
  data : List Byte
  tag  : Option (Nat × Nat)
  deriving DecidableEq, Repr, Inhabited

/-- A busy accumulator tile (R317): physical core, tile, who made it busy and whether for writing. -/
structure BusyTile where
  core  : Nat
  tile  : Nat
  op    : Nat
  mmac  : Bool
  write : Bool
  until_ : Nat
  deriving DecidableEq, Repr, Inhabited

/-- A pitch (R13): the warp that holds the turn, words issued in it, the number of the turn, the latches. -/
structure Pitch where
  core    : Nat
  pitch   : Nat
  holder  : Option (Nat × Nat)
  words   : Nat
  turn    : Nat
  latches : List Lanes
  deriving DecidableEq, Repr, Inhabited

/-- A cluster (R14, R182 to R193); `ptr` is the next of its 32 pitches to act in the pulse under way. -/
structure Cluster where
  cycle   : Nat
  ptr     : Nat
  nBell   : Nat
  capCur  : Nat
  capHeat : Nat
  droop   : Bool
  energy  : Nat
  deriving DecidableEq, Repr, Inhabited

/-- A compute stack (R8, R14, R177 to R183, R387).  `beats` are the sync beats on their way to it (t-hat and age of the
reference of the time base, u_host, u_ts, whether a sample has been accepted, every die's earliest); `floors` holds each
die's earliest from the last beat and the controller time elapsed since (R181); `hop` is the master clock and the level chosen
and not yet in force and `lower` the level the voltage falls to after the clock has (R183, R384), `queue` the warps that wait for
a grant in arrival order (R191). -/
structure Stack where
  fused    : Bool
  excluded : Bool
  powered  : Bool
  mclk     : Nat
  vlevel   : Nat
  raising  : Bool
  hop      : Option (Nat × Nat)
  lower    : Option Nat
  hotDie   : Bool
  that     : Nat
  beatAge  : Nat
  refAge   : Nat
  uHost    : Nat
  uTs      : Nat
  known    : Bool
  earliest : Nat
  latest   : Nat
  usync    : Nat
  transit  : Nat
  limit    : Nat
  beats    : List (List Nat)
  floors   : List (Nat × Nat)
  queue    : List (Nat × Nat)
  deriving DecidableEq, Repr, Inhabited

/-- An HBM stack (R195, R387): `hot` while it is at or above 85 °C (R186), `fast` while its refresh rate is doubled, `cap` while it
caps the heat of its compute stack. -/
structure Hbm where
  hot  : Bool
  fast : Bool
  cap  : Bool
  deriving DecidableEq, Repr, Inhabited

/-- A `TIME_REF` that waits for its first sample (R175). -/
structure TimeRefReq where
  source : Nat
  uHost  : Nat
  limit  : Nat
  deriving DecidableEq, Repr, Inhabited

/-- The package time base (R175 to R178, R382); `freshEdge` until the first PPS edge since source 1 was last selected, `message`
the seconds of the last good message and its age (ps), `dialogAge` the time since the last PTM dialogue (R176). -/
structure TimeBase where
  that      : Nat
  source    : Option Nat
  uHost     : Nat
  limit     : Nat
  awaited   : Option TimeRefReq
  refAge    : Nat
  accepted  : Bool
  rejected  : Nat
  lastRej   : Bool
  earliest  : Nat
  latest    : Nat
  uTs       : Nat
  edgeAge   : Option Nat
  freshEdge : Bool
  message   : Option (Nat × Nat)
  dialogAge : Option Nat
  deriving DecidableEq, Repr, Inhabited

/-- A command block in a slot that firmware owns (R196, R197); `running` once begun, `wants` what it then waits for: the blocks a
`PREEMPT` has saved (R216), the sequence numbers of the records of a `CTX_CLOSE` (R207). -/
structure CmdBlock where
  fn      : Nat
  slot    : Nat
  bytes   : List Byte
  running : Bool
  wants   : List Nat
  deriving DecidableEq, Repr, Inhabited

/-- The Lantern page of a function (R397) and the stop in force (R401); `marks` are the pitches that have written no sample
since a trigger with action 1 fired, `rotate` the resident slot each pitch sampled last (R398), `issuer` the block and warp a trigger
with action 2 stops, wherever that stands (R399). -/
structure Lantern where
  en      : Bool
  ctx     : Nat
  period  : Nat
  buf     : Nat
  size    : Nat
  widx    : Nat
  stop    : Nat
  pct     : List Nat
  action  : List Nat
  bins    : List (List Nat)
  stopped : List (Nat × Nat)
  marks   : List Nat
  rotate  : List (Nat × Nat)
  issuer  : Option (Nat × Nat)
  deriving DecidableEq, Repr, Inhabited

/-- Who waits for the answer to a peer request (R16): a lane of a request, `bytes` at offset `off` of box `box` of an engine
operation (0 destination, 1 and 2 the sources), or a warp's fence, drain or releasing atomic, whose word's token stands at `offset`
(R373). -/
inductive PeerWho where
  | lane (req lane : Nat)
  | engine (op box off bytes : Nat)
  | drain (block warp offset : Nat)
  deriving DecidableEq, Repr, Inhabited

/-- A peer request not yet answered (R16, R202): its tag, the port it left by (none while no port of its route is up, or while it
waits for a tag, when it bears a number that no packet can and its packet tag 0), the t-hat (ps) since which no port of its route
has been up, the core it comes from, its route, and its packet. -/
structure PeerReq where
  tag    : Nat
  port   : Option Nat
  since  : Nat
  core   : Nat
  peer   : Nat
  path   : Path
  who    : PeerWho
  head   : Nat
  body   : List Nat
  deriving DecidableEq, Repr, Inhabited

/-- A peer port (R16): link state 0 down, 1 training, 2 up (R201); `acked` is the last lseq the partner acknowledged, `gap`
stands while packets are discarded up to a replay, `waiting` holds packets without a credit, `out` the flits sent. -/
structure Port where
  state    : Nat
  partner  : Nat
  partnerDev : Nat
  hellosIn : Nat
  hellosOut : Nat
  credits  : Nat
  retrains : Nat
  naks     : Nat
  nakTimes : List Nat
  lastIn   : Nat
  txSeq    : Nat
  rxSeq    : Nat
  acked    : Nat
  gap      : Bool
  replay   : List (List Nat)
  waiting  : List (List Nat)
  header   : Option Nat
  payload  : List Nat
  errors   : Nat
  out      : List Nat
  deriving DecidableEq, Repr, Inhabited

/-- The contents of a tensor frame that is not resident (R127, R370), kept by firmware, with its scope tags and stamped
versions, lines counted from the frame's start. -/
structure Paged where
  base    : Nat
  tile    : Nat
  mem     : Memory
  tags    : List ScopeTag
  stamped : List Stamped
  deriving DecidableEq, Repr, Inhabited

/-- A saturating access counter of a frame on a stack (R137). -/
structure Access where
  base  : Nat
  tile  : Nat
  stack : Nat
  count : Nat
  deriving DecidableEq, Repr, Inhabited

/-- The word being issued (R56 step 3): the warp, the word, its hole values extended to 64 bits, the slots still to act,
the slot acting, the lanes that were active and not parked before the word, the offsets of its token and of the token
after it, its cycle, the number below which requests are earlier than the word, the tile-memory bytes it stored with what
they held before, the handle registers and the mask it will write, and how it ends.  `clear` once the traps of the word have been
decided, at its issue, and none holds (R58). -/
structure Issue where
  block   : Nat
  warp    : Nat
  word    : Nat
  holes   : List Word64
  slots   : List Slot
  cur     : Slot
  lanes   : Mask
  tok     : Nat
  next    : Nat
  cycle   : Nat
  uid     : Nat
  stores  : List (Nat × Byte)
  handles : List (Nat × Word64)
  newMask : Option (Mask × List MaskEntry)
  trapped : Bool
  clear   : Bool
  hret    : Option Bool
  deriving DecidableEq, Repr, Inhabited

/-- The warp selected in a pitch cycle, whose tokens are being decoded (R67), and that cycle. -/
structure Sel where
  block : Nat
  warp  : Nat
  cycle : Nat
  deriving DecidableEq, Repr, Inhabited

/-- An event of the agenda: how far the clocks of stacks 0 to 3 and of the I/O die advance (ps) before it, and the step. -/
structure Event where
  advance : List Nat
  step    : Instr
  deriving DecidableEq, Repr, Inhabited

/-- The state of the Z880. -/
structure State where
  -- the model's own: schedule, word in issue, free values
  agenda   : List Event
  issue    : Option Issue
  sel      : Option Sel
  freeCtr  : Nat
  uid      : Nat
  -- memory
  mem      : Memory
  empty    : List Nat
  tags     : List ScopeTag
  stamped  : List Stamped
  l1       : List L1Line
  busy     : List BusyTile
  -- cores, pitches, clusters, stacks
  pitches  : List Pitch
  clusters : List Cluster
  stks     : List Stack
  hbms     : List Hbm
  lastAcc  : List (Nat × Nat)
  decoded  : List (Nat × Nat)
  misses   : List Miss
  lines    : List (Nat × Nat)
  hints    : List (Nat × Nat)
  -- work
  blocks   : List Block
  reqs     : List Req
  ops      : List EngOp
  commits  : List Commit
  tasks    : List Task
  contexts : List Context
  images   : List Image
  tensors  : List Tensor
  paged    : List Paged
  access   : List Access
  lastCtx  : List Nat
  out      : List (Nat × Nat × Nat × Nat × Nat)
  -- package
  part     : Nat
  tb       : TimeBase
  rainfly  : Rainfly
  cmds     : List CmdBlock
  returned : List CmdBlock
  msix     : List (Nat × Nat)
  lantern  : List Lantern
  ports    : List Port
  routes   : List Route
  ownPeer  : Nat
  peerReqs : List PeerReq
  usedPorts : List UsedPort
  running  : Bool
  deriving DecidableEq, Repr, Inhabited

/-- A cluster after reset (log entry 5). -/
def Cluster.reset : Cluster :=
  { cycle := 0, ptr := 0, nBell := 16, capCur := 16, capHeat := 16, droop := false, energy := 0 }

/-- A compute stack after reset: earliest 0 and latest all ones (R178), limit 2,000 (R180); the rest log entry 5. -/
def Stack.reset : Stack :=
  { fused := false, excluded := false, powered := false, mclk := 800, vlevel := 0, raising := false, hop := none, lower := none,
    hotDie := false, that := 0, beatAge := 0, refAge := 0, uHost := 0, uTs := 0, known := false,
    earliest := 0, latest := Config.ones64, usync := 0, transit := 0, limit := 2000, beats := [], floors := [],
    queue := [] }

/-- The time base after reset: no source, interval [0, all ones], nothing rejected (R175, R178, R383). -/
def TimeBase.reset : TimeBase :=
  { that := 0, source := none, uHost := 0, limit := 2000, awaited := none, refAge := 0, accepted := false,
    rejected := 0, lastRej := false, earliest := 0, latest := Config.ones64, uTs := 0, edgeAge := none,
    freshEdge := false, message := none, dialogAge := none }

/-- The NV store as the module leaves the factory: 128 MiB carve-outs (R10), no meter, no record, fuse counter 0,
next leaf 0 (R220, R221, R227); the power configuration is log entry 5. -/
def Rainfly.reset : Rainfly :=
  { meters := [], ring := [], signed := [], reqs := [], readers := [], asks := [], seq := 0, stamp := 0, leaf := 0, bootSeq := 0,
    fuses := 0, verified := [], grants := [], lastStop := 0, carve := [128, 128, 128, 128], budget := [600, 600, 600, 600],
    base := [50, 50, 50, 50, 50, 50, 50, 50, 50, 50, 50, 50, 50, 50, 50, 50],
    emax := [20000, 20000, 20000, 20000, 20000, 20000, 20000, 20000, 20000, 20000, 20000, 20000, 20000, 20000, 20000,
      20000] }

/-- A Lantern page after reset (log entry 6). -/
def Lantern.reset : Lantern :=
  { en := false, ctx := 0, period := 0, buf := 0, size := 0, widx := 0, stop := 0, pct := [0, 0, 0, 0],
    action := [0, 0, 0, 0], bins := List.replicate 4 (List.replicate 16 0), stopped := [],
    marks := [], rotate := [], issuer := none }

/-- A peer port after reset: down, counters 0 since power-up (R201), 256 credits (R16).  The spec gives no first link sequence
number: lseq 0 is sent first and expected first (DESIGN CHOICE, log entry 91). -/
def Port.reset : Port :=
  { state := 0, partner := 0, partnerDev := 0, hellosIn := 0, hellosOut := 0, credits := 256, retrains := 0, naks := 0,
    nakTimes := [], lastIn := 0, txSeq := 0, rxSeq := 4095, acked := 4095, gap := false, replay := [], waiting := [],
    header := none, payload := [], errors := 0,
    out := [] }

/-- The machine right after reset, before the boot of `powerUp` has run: nothing in memory, no context, no work. -/
def State.reset : State :=
  { agenda := [], issue := none, sel := none, freeCtr := 0, uid := 1
    mem := [], empty := [], tags := [], stamped := [], l1 := [], busy := []
    pitches := [], clusters := List.replicate 16 Cluster.reset, stks := List.replicate 4 Stack.reset,
    hbms := List.replicate 8 { hot := false, fast := false, cap := false }, lastAcc := [], decoded := [],
    misses := [], lines := [], hints := []
    blocks := [], reqs := [], ops := [], commits := [], tasks := [], contexts := [], images := [], tensors := [],
    paged := [], access := [], lastCtx := [0, 0, 0, 0], out := []
    part := 0, tb := TimeBase.reset, rainfly := Rainfly.reset, cmds := [], returned := [], msix := [],
    lantern := List.replicate 16 Lantern.reset, ports := List.replicate 16 Port.reset, routes := [], ownPeer := 0,
    peerReqs := [], usedPorts := [], running := false }

end Sys2Proof.Machine
end

