-- ==== Sys2Proof/Machine/Mem.lean ====
section
/-! DEFINITION. Memory in one canonical form, and where each memory of the package lies in its one address space.
An unlisted byte reads as 0 (log entry 4). -/

namespace Sys2Proof.Machine

/-- The canonical form: addresses strictly rising and no byte that an unlisted address reads as. -/
def Memory.wf : Memory → Bool
  | [] => true
  | [c] => c.2 != 0
  | c :: d :: r => c.2 != 0 && decide (c.1 < d.1) && Memory.wf (d :: r)

/-- One byte. -/
def Memory.read : Memory → Nat → Byte
  | [], _ => 0
  | c :: r, a => if a = c.1 then c.2 else Memory.read r a

/-- A byte placed before cells of higher addresses; writing 0 places none. -/
def Memory.push (a : Nat) (v : Byte) (r : Memory) : Memory := if v = 0 then r else (a, v) :: r

/-- One byte written. -/
def Memory.write : Memory → Nat → Byte → Memory
  | [], a, v => Memory.push a v []
  | c :: r, a, v =>
    if a < c.1 then Memory.push a v (c :: r)
    else if a = c.1 then Memory.push a v r
    else c :: Memory.write r a v

/-- `n` bytes from `a` on. -/
def Memory.readBytes (m : Memory) (a : Nat) : Nat → List Byte
  | 0 => []
  | n + 1 => m.read a :: m.readBytes (a + 1) n

/-- Bytes written from `a` on, in ascending address. -/
def Memory.writeBytes (m : Memory) (a : Nat) : List Byte → Memory
  | [] => m
  | b :: bs => (m.write a b).writeBytes (a + 1) bs

/-- Bytes written at scattered addresses, in the order given. -/
def Memory.writeAll (m : Memory) : List (Nat × Byte) → Memory
  | [] => m
  | c :: r => (m.write c.1 c.2).writeAll r

/-- The cells in `[lo, lo + n)`, relative to `lo`. -/
def Memory.slice (m : Memory) (lo n : Nat) : Memory :=
  (m.filter fun c => lo ≤ c.1 && c.1 < lo + n).map fun c => (c.1 - lo, c.2)

/-- The cells outside `[lo, lo + n)`: that range then reads as 0. -/
def Memory.clear (m : Memory) (lo n : Nat) : Memory := m.filter fun c => !(decide (lo ≤ c.1) && decide (c.1 < lo + n))

-- The address space of the model (log entry 4): host memory, tile memories, accumulator stores, tiers G, H and F.

/-- Distance between the regions. -/
def regionSize : Nat := 2 ^ 80
/-- Byte `off` of the tile memory of core `core` (0 to 127: 32 × stack + logical core) (R128). -/
def tmemAddr (core off : Nat) : Nat := regionSize + core * 2 ^ 21 + off
/-- First byte of cell (row, column) of physical accumulator tile `tile` (R311). -/
def accAddr (core tile row col : Nat) : Nat := 2 * regionSize + ((core * 256 + tile) * 256 + row) * 64 + col * 4
/-- Byte `off` of a frame of tier 0 (G), 1 (H) or 2 (F) (R126). -/
def frameAddr (tier stack frame off : Nat) : Nat :=
  (3 + tier) * regionSize + (stack * 2 ^ 32 + frame) * 65536 + off

/-- The tile-memory address space starts here; granule g covers bytes 16 g to 16 g + 15 of it (R128). -/
def granuleOf (core off : Nat) : Nat := core * 2 ^ 17 + off / 16

end Sys2Proof.Machine
end

