-- ==== Sys2Proof/Machine/Ops.lean ====
section
/-! DEFINITION. The named operations over the state that the meanings share: finding and changing warps and blocks,
reading registers, results in flight (R52 to R56), latches (R50, R51), loops and transfers (R70, R72, R240), handles
(R323), parking (R37), traps and the return from them (R58, R246, R247). -/

namespace Sys2Proof.Machine

-- Masks and lanes.

/-- All 32 lanes. -/
def allLanes : Mask := BitVec.allOnes 32
/-- The lanes of a mask, ascending. -/
def lanesOf (m : Mask) : List Nat := laneList.filter fun l => m.getLsbD l
/-- The mask of the lanes that satisfy a test. -/
def maskOf (f : Nat → Bool) : Mask := BitVec.ofNat 32 ((laneList.map fun l => if f l then 2 ^ l else 0).sum)
/-- Elements all alike. -/
def splat (x : Word32) : Lanes := List.replicate 32 x
/-- The elements of `new` in the lanes of `m`, of `old` elsewhere. -/
def blend (m : Mask) (new old : Lanes) : Lanes :=
  laneList.map fun l => if m.getLsbD l then new.getD l 0 else old.getD l 0

/-- An element put into a list sorted by `le`, before the elements it may precede. -/
def insertBy {α : Type} (le : α → α → Bool) (x : α) : List α → List α
  | [] => [x]
  | y :: l => if le x y then x :: y :: l else y :: insertBy le x l
/-- The list sorted by `le`; elements that are equal under `le` keep their order. -/
def sortBy {α : Type} (le : α → α → Bool) (l : List α) : List α := l.foldr (insertBy le) []

-- Finding and changing.

def State.block? (s : State) (bid : Nat) : Option Block := s.blocks.find? fun b => b.bid == bid
def Block.warp? (b : Block) (n : Nat) : Option Warp := b.warps.find? fun w => w.num == n
def State.setBlock (s : State) (b : Block) : State :=
  { s with blocks := s.blocks.map fun x => if x.bid == b.bid then b else x }
def State.modBlock (s : State) (bid : Nat) (f : Block → Block) : State :=
  { s with blocks := s.blocks.map fun x => if x.bid == bid then f x else x }
def Block.modWarp (b : Block) (n : Nat) (f : Warp → Warp) : Block :=
  { b with warps := b.warps.map fun w => if w.num == n then f w else w }
def State.modWarp (s : State) (bid n : Nat) (f : Warp → Warp) : State := s.modBlock bid fun b => b.modWarp n f
def State.warp? (s : State) (bid n : Nat) : Option Warp := (s.block? bid).bind fun b => b.warp? n
def State.ctx? (s : State) (c : Nat) : Option Context := s.contexts.find? fun x => x.num == c
def State.modCtx (s : State) (c : Nat) (f : Context → Context) : State :=
  { s with contexts := s.contexts.map fun x => if x.num == c then f x else x }
def State.task? (s : State) (c t : Nat) : Option Task := s.tasks.find? fun x => x.ctx == c && x.num == t
def State.modTask (s : State) (c t : Nat) (f : Task → Task) : State :=
  { s with tasks := s.tasks.map fun x => if x.ctx == c && x.num == t then f x else x }
def State.image? (s : State) (c h : Nat) : Option Image := s.images.find? fun x => x.ctx == c && x.handle == h
def State.tensor? (s : State) (base : Nat) : Option Tensor := s.tensors.find? fun x => x.base == base
def State.modTensor (s : State) (base : Nat) (f : Tensor → Tensor) : State :=
  { s with tensors := s.tensors.map fun x => if x.base == base then f x else x }
def State.stack? (s : State) (k : Nat) : Stack := s.stks.getD k Stack.reset
def State.modStack (s : State) (k : Nat) (f : Stack → Stack) : State :=
  { s with stks := s.stks.modify k f }
/-- Cluster `c` of stack `k` (R11). -/
def State.cluster (s : State) (k c : Nat) : Cluster := s.clusters.getD (4 * k + c) Cluster.reset
def State.modCluster (s : State) (k c : Nat) (f : Cluster → Cluster) : State :=
  { s with clusters := s.clusters.modify (4 * k + c) f }

/-- A core of the package: 32 × stack + logical core (R11). -/
def coreId (b : Block) (w : Warp) : Nat := 32 * b.stack + w.core

/-- A pitch whose record is not listed: no turn has run, the latches read 0 (R25). -/
def Pitch.idle (core p : Nat) : Pitch :=
  { core := core, pitch := p, holder := none, words := 0, turn := 0, latches := List.replicate 8 (splat 0) }
def State.pitch (s : State) (core p : Nat) : Pitch :=
  (s.pitches.find? fun x => x.core == core && x.pitch == p).getD (Pitch.idle core p)
def State.setPitch (s : State) (x : Pitch) : State :=
  { s with pitches := x :: s.pitches.filter fun y => !(y.core == x.core && y.pitch == x.pitch) }

/-- The next name for a block, request or engine operation (log entry 2). -/
def State.fresh (s : State) : Nat × State := (s.uid, { s with uid := s.uid + 1 })

/-- A free 32-bit value (log entry 7). -/
def State.freeWord (s : State) : Word32 × State := (Config.freeWord s.freeCtr, { s with freeCtr := s.freeCtr + 1 })
/-- Free bytes (log entry 7). -/
def State.freeBytes (s : State) (n : Nat) : List Byte × State :=
  ((List.range n).map fun i => Config.freeByte (s.freeCtr + i), { s with freeCtr := s.freeCtr + n })

-- Floors.

/-- A floor exceeds T ns (R181): the earliest of the last beat plus (1 − 60 ppm) of the time elapsed since. -/
def floorAbove (f : Nat × Nat) (t : Nat) : Bool := decide (10 ^ 9 * t < 10 ^ 9 * f.1 + (10 ^ 6 - 60) * f.2)

/-- The usable stacks (R18, R389). -/
def State.usable (s : State) : List Nat :=
  (List.range 4).filter fun k => !(s.stack? k).fused && !(s.stack? k).excluded

/-- A controller of a stack knows that every die's earliest exceeds T (R181). -/
def State.allAbove (s : State) (stack t : Nat) : Bool :=
  let fs := (s.stack? stack).floors
  s.usable.all fun k => match fs[k]? with
    | some f => floorAbove f t
    | none => false

-- Registers.

/-- `s0` reads 0 (R6). -/
def Warp.sread (w : Warp) (r : Nat) : Word64 := if r = 0 then 0 else w.s.getD r 0
/-- `p0` reads true (R6). -/
def Warp.pread (w : Warp) (r : Nat) : Mask := if r = 0 then allLanes else w.p.getD r 0
/-- `q0` reads true (R6). -/
def Warp.qread (w : Warp) (r : Nat) : Bool := if r = 0 then true else w.q.getD r false
def Warp.vread (w : Warp) (r : Nat) : Lanes := w.v.getD r (splat 0)
def Warp.hread (w : Warp) (r : Nat) : Word64 := w.h.getD r 0
def Warp.xread (w : Warp) (r : Nat) : AStream := w.x.getD r default
def Warp.bread (w : Warp) (r : Nat) : Word32 := w.b.getD r 0

/-- A warp in handler mode (R246). -/
def Warp.handler (w : Warp) : Bool := w.bank.isSome

/-- What is left of a result in flight once a later word's result has landed on register `r` in the lanes of `m` (R53). -/
def Effect.behind (r : PReg) (m : Mask) (e : Effect) : Option Effect :=
  match e, r with
  | .vreg d k v, .v n => if d = n then some (.vreg d (k &&& ~~~m) v) else some e
  | .preg d k v, .p n => if d = n then some (.preg d (k &&& ~~~m) v) else some e
  | .sreg d _, .s n => if d = n then none else some e
  | .qreg d _, .q n => if d = n then none else some e
  | _, _ => some e

/-- Results of earlier words that would land on register `r` up to cycle `t` no longer do: the value of a later word has landed
there in that cycle (R53). -/
def Warp.settleOn (w : Warp) (r : PReg) (m : Mask) (t : Nat) : Warp :=
  { w with flights := w.flights.map fun f =>
      if f.landing ≤ t then { f with effs := f.effs.filterMap (Effect.behind r m) } else f }

/-- A field of an address stream written (R287, R291). -/
def AStream.set (x : AStream) : XEff → AStream
  | .bind r => { rcd := r, c := [0, 0, 0, 0], i := [0, 0, 0, 0], step := 0, sdim := 0 }
  | .setC k v => { x with c := x.c.set k v }
  | .setI k v => { x with i := x.i.set k v }
  | .setLane st d => { x with step := st, sdim := d }

/-- A result lands in its register (R53); `s0`, `p0` and `q0` discard it (R6).  A latch is the pitch's. -/
def Warp.land (w : Warp) : Effect → Warp
  | .sreg d v => if d = 0 then w else { w with s := w.s.set d v }
  | .vreg d m v => { w with v := w.v.set d (blend m v (w.vread d)) }
  | .preg d m v => if d = 0 then w else { w with p := w.p.set d ((v &&& m) ||| (w.pread d &&& ~~~m)) }
  | .qreg d v => if d = 0 then w else { w with q := w.q.set d v }
  | .breg d v => { w with b := w.b.set d v }
  | .latch _ _ _ => w
  | .xreg x e => { w with x := w.x.set x ((w.xread x).set e) }
  | .spillRec v => { w with spillRec := v }
  | .spillOff v => { w with spillOff := v }

def Warp.landAll (w : Warp) (l : List Effect) : Warp := l.foldl Warp.land w

/-- The latch writes among effects. -/
def latchWrites (latches : List Lanes) (l : List Effect) : List Lanes :=
  l.foldl (fun ls e => match e with
    | .latch k m v => ls.set k (blend m v (ls.getD k (splat 0)))
    | _ => ls) latches

/-- A slot's results enter F with landing at the word's cycle plus the latency (R52, R56). -/
def State.fly (s : State) (c : Issue) (latency : Nat) (effs : List Effect) : State :=
  match s.block? c.block with
  | none => s
  | some b =>
    match b.warp? c.warp with
    | none => s
    | some w =>
      let t := (s.pitch (coreId b w) w.pitch).turn
      s.modWarp c.block c.warp fun w =>
        { w with flights := w.flights ++
            [{ landing := c.cycle + latency, issued := c.cycle, turn := t, effs := effs }] }

/-- Results of the lanes `m`: with no lane the slot adds nothing to F (R55, R56). -/
def State.flyIn (s : State) (c : Issue) (m : Mask) (latency : Nat) (effs : List Effect) : State :=
  if m = 0 then s else s.fly c latency effs

/-- `s0`, `p0` and `q0` keep their values (R6), so nothing waits for them (log entry 26). -/
def PReg.fixed : PReg → Bool
  | .v _ => false
  | .s n => n == 0
  | .p n => n == 0
  | .q n => n == 0
  | .h _ => false

/-- Destinations marked pending on a request (R54). -/
def State.pend (s : State) (c : Issue) (req : Nat) (rs : List PReg) : State :=
  s.modWarp c.block c.warp fun w =>
    { w with pend := w.pend ++ (rs.filter fun r => !r.fixed).map fun r => { reg := r, req := req, returned := none } }

-- Loops and transfers.  The stack is kept outermost level first.

/-- End-of-token processing (R70) on levels innermost first: the levels, the PC, and whether an iteration ended. -/
def endTokenGo : List LoopLevel → Nat → List LoopLevel × Nat × Bool
  | [], pc => ([], pc, false)
  | v :: r, pc =>
    if pc = v.start + v.len then
      if v.index + 1 < v.count then ({ v with index := v.index + 1 } :: r, v.start, true)
      else
        let q := endTokenGo r pc
        (q.1, q.2.1, true)
    else (v :: r, pc, false)

def endToken (loops : List LoopLevel) (pc : Nat) : List LoopLevel × Nat × Bool :=
  let q := endTokenGo loops.reverse pc
  (q.1.reverse, q.2.1, q.2.2)

/-- A taken transfer removes the levels, innermost first, whose range does not hold the target (R72). -/
def dropLevels (loops : List LoopLevel) (t : Nat) : List LoopLevel :=
  (loops.reverse.dropWhile fun v => !(decide (v.start ≤ t) && decide (t < v.start + v.len))).reverse

-- Handles (R323).

/-- The handle value of a slot and a generation. -/
def handleOf (slot gen : Nat) : Word64 := BitVec.ofNat 64 (gen * 256 + slot)

/-- The ring entry a handle names: the null handle and another generation name none. -/
def Block.ringOf (b : Block) (h : Word64) : Option RingSlot :=
  if h = 0 then none
  else b.ring.find? fun r => r.slot == h.toNat % 256 && handleOf r.slot r.gen == h

/-- An unresolved future. -/
def Block.unresolved (b : Block) (h : Word64) : Bool :=
  match b.ringOf h with
  | some r => !r.resolved
  | none => false

/-- The next slot still holds an unresolved operation (R323). -/
def Block.ringFull (b : Block) : Bool :=
  match b.ring.find? fun r => r.slot == b.ringNext with
  | some r => !r.resolved
  | none => false

/-- The generation after `g`, skipping 0. -/
def nextGen (g : Nat) : Nat := if g + 1 < 2 ^ 24 then g + 1 else 1

/-- An operation of `kind` recorded in the next slot under the next generation. -/
def Block.alloc (b : Block) (kind : Nat) : Word64 × Block :=
  let e : RingSlot := { slot := b.ringNext, gen := b.gen, kind := kind, resolved := false, outcome := 0,
                        malformed := false, val := 0 }
  (handleOf b.ringNext b.gen,
   { b with ring := e :: b.ring.filter (fun r => r.slot != b.ringNext), ringNext := (b.ringNext + 1) % 256,
            gen := nextGen b.gen })

/-- A handle resolves with an outcome and a value (R331). -/
def Block.resolve (b : Block) (h : Nat) (outcome val : Nat) (mal : Bool) : Block :=
  { b with ring := b.ring.map fun r =>
      if handleOf r.slot r.gen == BitVec.ofNat 64 h && !r.resolved then
        { r with resolved := true, outcome := outcome, val := val, malformed := mal }
      else r }

def State.resolve (s : State) (bid h outcome val : Nat) (mal : Bool) : State :=
  s.modBlock bid fun b => b.resolve h outcome val mal

/-- A handle register written at the end of the word. -/
def State.setHandle (s : State) (r : Nat) (h : Word64) : State :=
  { s with issue := s.issue.map fun c => { c with handles := c.handles ++ [(r, h)] } }

-- Parking (R37, R365, R366).

/-- A lane is parked with its record; a lane already parked keeps its record (R366). -/
def Warp.park (w : Warp) (r : LaneRec) : Warp :=
  if w.parked.getLsbD r.lane then w
  else { w with parked := w.parked ||| BitVec.ofNat 32 (2 ^ r.lane), records := w.records ++ [r] }

/-- The trap a parked set leads to (R367): 0x30 when every record is of the scope checker, else 0x01. -/
def Warp.convergeCode (w : Warp) : Nat :=
  if w.records.all (fun r => r.cause == 0x30) then 0x30 else 0x01

/-- The mask depth stands at the stack base and the warp is outside a regroup region (R37): the boundary after a word
whose lanes parked traps. -/
def Warp.convergeDue (w : Warp) : Bool :=
  w.parked != 0 && !w.handler && w.region.isNone && w.masks.isEmpty

-- Traps (R58, R246).

/-- The offset of the word after the one at `next` by R70, with the loop stack and idle remainder that go with it.
In the middle of an idle token the next word is the next empty word of the same token. -/
def Warp.after (w : Warp) (c : Issue) : Nat × List LoopLevel × Nat :=
  if w.idle > 1 then (c.tok, w.loops, w.idle - 1)
  else
    let q := endToken w.loops c.next
    (q.2.1, q.1, 0)

/-- The trap of the word in issue: the word performs nothing further and the warp stops being ready. -/
def State.raise (s : State) (c : Issue) (code arg slot : Nat) : State :=
  match s.warp? c.block c.warp with
  | none => s
  | some w =>
    let a := w.after c
    let t : TrapInfo := { code := code, arg := arg, hpc := c.tok, hnext := a.1, loops := a.2.1, idle := a.2.2,
                          slot := slot, rcd := 0xFFFF, lane := 0xFF, c0 := 0, c1 := 0 }
    { s.modWarp c.block c.warp (fun w => { w with trap := some t }) with
      issue := some { c with slots := [], trapped := true } }

/-- The number of a slot in reports (R373). -/
def slotNum : Slot → Nat
  | .S => 0
  | .P => 1
  | .A0 => 2
  | .A1 => 3
  | .V0 => 4
  | .V1 => 5
  | .X => 6
  | .M => 7
  | .T => 8
  | .C => 9

/-- A stream-class trap outside any word: `sys.hnext` equals `sys.hpc` (R349). -/
def State.raiseStream (s : State) (bid wn code pc : Nat) : State :=
  s.modWarp bid wn fun w =>
    { w with trap := some { code := code, arg := 0, hpc := pc, hnext := pc, loops := w.loops, idle := w.idle,
                            slot := 0xFF, rcd := 0xFFFF, lane := 0xFF, c0 := 0, c1 := 0 } }

/-- A fault of a handler's access is a fatal context error (R246, R351); one that ends the context already stands. -/
def Warp.handlerFault (w : Warp) (r : LaneRec) (fatal : Nat) : Warp :=
  let ends := match w.trap with
    | some t => w.handler || decide (0x80 ≤ t.code)
    | none => false
  if ends then w
  else
    { w with trap := some { code := fatal, arg := if r.cause = 0x30 then 0x30 else 0x01, hpc := r.offset,
                            hnext := r.offset, loops := w.loops, idle := w.idle, slot := r.slot, rcd := r.rcd,
                            lane := r.lane, c0 := r.c0, c1 := r.c1 } }

/-- A faulting lane of an access: a handler's parks none (R246), a program's is parked. -/
def Warp.laneFault (w : Warp) (handler : Bool) (r : LaneRec) (fatal : Nat) : Warp :=
  if handler then w.handlerFault r fatal else w.park r

/-- A faulting lane is parked outside handler mode; in handler mode the fault is the fatal context error at the word
boundary (R246, R351). -/
def State.parkLane (s : State) (bid wn : Nat) (r : LaneRec) (fatal : Nat) : State :=
  s.modWarp bid wn fun w => w.laneFault w.handler r fatal

def State.parkAll (s : State) (bid wn : Nat) (rs : List LaneRec) (fatal : Nat) : State :=
  rs.foldl (fun s r => s.parkLane bid wn r fatal) s

/-- The trap of an engine operation refused with no lane active and unparked, for which every `sys.fault` reads 0 (R333, R367). -/
def refusalCode (code : Nat) : Bool := decide (0x20 ≤ code) && decide (code ≤ 0x2B) && code != 0x2A

/-- Entry to the handler at offset `entry` (R246): the program bank is set aside and the handler's state stands. -/
def Warp.enterHandler (w : Warp) (t : TrapInfo) (entry : Nat) : Warp :=
  { w with
    bank := some { pc := w.pc, idle := w.idle, after := t.loops, left := t.idle, loops := w.loops, masks := w.masks,
                   active := w.active, xfer := w.xfer, b := w.b, sHi := w.s.drop 48, qHi := w.q.drop 12 }
    hcause := t.code, hpc := t.hpc, hnext := t.hnext, trapArg := t.arg
    records := if refusalCode t.code then [] else w.records
    pc := entry, idle := 0, loops := [], masks := [], active := allLanes, xfer := none
    b := List.replicate 8 0
    s := w.s.take 48 ++ List.replicate 14 0 ++ [BitVec.ofNat 64 t.code, BitVec.ofNat 64 t.hpc]
    q := w.q.take 12 ++ [false, false, false, false]
    trap := none }

/-- Effects a handler leaves in flight for its own bank are discarded with it (R247). -/
def bankEffect : Effect → Bool
  | .sreg d _ => decide (48 ≤ d)
  | .qreg d _ => decide (12 ≤ d)
  | .breg _ _ => true
  | .vreg _ _ _ => false
  | .preg _ _ _ => false
  | .latch _ _ _ => false
  | .xreg _ _ => false
  | .spillRec _ => false
  | .spillOff _ => false

/-- Return from the handler (R247): the program bank stands again, the parked set and the records are cleared; mode 0
goes back to `sys.hpc`, mode 1 goes on at `sys.hnext`, past the skipped word's end-of-token processing. -/
def Warp.leaveHandler (w : Warp) (skip : Bool) : Warp :=
  match w.bank with
  | none => w
  | some k =>
    { w with
      bank := none
      pc := if skip then w.hnext else w.hpc
      idle := if skip then k.left else k.idle
      loops := dropLevels (if skip then k.after else k.loops) (if skip then w.hnext else w.hpc)
      masks := k.masks, active := k.active, xfer := k.xfer, b := k.b
      s := w.s.take 48 ++ k.sHi
      q := w.q.take 12 ++ k.qHi
      parked := 0, records := []
      flights := w.flights.map fun f => { f with effs := f.effs.filter fun e => !bankEffect e } }

/-- A register of the handler's own bank (R246). -/
def PReg.banked : PReg → Bool
  | .v _ => false
  | .s n => decide (48 ≤ n)
  | .p _ => false
  | .q n => decide (12 ≤ n)
  | .h _ => false

/-- A queue operation that replies to nobody any more: its predicate was the handler's own (R247). -/
def ReqKind.unbank : ReqKind → ReqKind
  | .qput q stage data => .qput (if 12 ≤ q then 0 else q) stage data
  | .qget d q stage => .qget d (if 12 ≤ q then 0 else q) stage
  | .load d w sx => .load d w sx
  | .store => .store
  | .atom d op ty order sc => .atom d op ty order sc
  | .ldas d w sx pd t latest => .ldas d w sx pd t latest

/-- The return from a handler (R247): the warp's own bank stands again, and replies still due to registers of the handler's bank, which
is discarded, reach none; nor does the outcome of an `ftry` of the word that returns (R329). -/
def State.handlerReturn (s : State) (bid wn : Nat) (skip : Bool) : State :=
  let keep := fun (d : Nat) => if 48 ≤ d then 0 else d
  let t : State :=
    { s with
      reqs := s.reqs.map fun (r : Req) => if r.block == bid && r.warp == wn then { r with kind := r.kind.unbank } else r
      rainfly := { s.rainfly with readers := s.rainfly.readers.map fun (m : MeterReq) =>
        if m.block == bid && m.warp == wn then { m with dv := keep m.dv, de := keep m.de, dl := keep m.dl } else m } }
  t.modWarp bid wn fun w =>
    { w.leaveHandler skip with pend := w.pend.filter fun p => !p.reg.banked
                               trying := w.trying.map fun k => { k with q := if 12 ≤ k.q then 0 else k.q } }

/-- What the trap becomes (R246, R350): the handler's entry, or the code and trap field of a fatal context error. -/
def trapTarget (h : Option Handler) (w : Warp) (t : TrapInfo) : Except (Nat × Nat) Nat :=
  if t.code ≥ 0x80 then .error (t.code, t.arg)
  else if w.handler then .error (0x81, t.code)
  else
    match h with
    | none => .error (0x80, t.code)
    | some h =>
      let e := h.entry.getD (t.code / 16) 0xFFFFFFFF
      if e = 0xFFFFFFFF then .error (0x80, t.code) else .ok e

/-- A load-block whose fill is under way is evicted: the fill brings nothing (R133, R298). -/
def EngOp.evict (o : EngOp) : EngOp :=
  match o.kind with
  | .lblk _ _ _ => { o with doneRd := true }
  | .cpy => o
  | .cpym _ => o
  | .coll _ => o
  | .mstore _ _ _ _ _ _ => o
  | .mload _ _ _ => o
  | .mmac _ _ _ _ _ => o

/-- The L1 of a core emptied by an acquire, its load-blocks with it (R132, R133, R150). -/
def State.invalidateL1 (s : State) (core : Nat) : State :=
  { s with l1 := s.l1.filter fun x => x.core != core
           ops := s.ops.map fun o => if 32 * o.stack + o.core == core then o.evict else o }

/-- The warps of a block stand on more than one core (R150). -/
def Block.manyCores (b : Block) : Bool :=
  match b.warps with
  | [] => false
  | w :: r => r.any fun x => x.core != w.core

/-- An acquire of a warp at a scope (R150). -/
def State.acquire (s : State) (b : Block) (w : Warp) (sc : Scope) : State :=
  if (match sc with
    | .warp => false
    | .block => b.manyCores
    | .cluster => true
    | .package => true
    | .fabric => true) then s.invalidateL1 (coreId b w) else s

/-- A warp that has issued `exit` and whose results have landed is gone; until then it occupies its slot. -/
def Warp.live (w : Warp) : Bool := !w.exited

/-- The turn of a pitch ended. -/
def State.endTurn (s : State) (core p : Nat) : State := s.setPitch { s.pitch core p with holder := none }

/-- The context of a block has met a fatal error (R372): its warps issue no more. -/
def State.dead (s : State) (c : Nat) : Bool :=
  match s.ctx? c with
  | some x => x.fatal.isSome
  | none => true

end Sys2Proof.Machine
end

