-- ==== Sys2Proof/Machine/Operands.lean ====
section
/-! DEFINITION. Operand forms: guards (R45), sources and destinations (R47 to R49, R234, R264, R286, R292), and the
registers and holes each operation names (R54, R64, R65). -/

namespace Sys2Proof

open Sys2Proof.Machine

/-- The guard of a uniform slot (R45). -/
def qGuard (w : Warp) (g : Guard) : Bool := w.qread g.idx != g.neg

/-- The guard of a lane slot, for every lane (R45). -/
def pGuard (w : Warp) (g : Guard) : Mask := if g.neg then ~~~(w.pread g.idx) else w.pread g.idx

/-- The lanes that take part in a lane slot (R45, R265, R290): active and not parked before the word, guard true. -/
def takers (c : Issue) (w : Warp) (g : Guard) : Mask := c.lanes &&& pGuard w g

/-- A hole's value, sign-extended to 64 bits (R48, R61, R234). -/
def holeVal (c : Issue) (h : Nat) : Word64 := c.holes.getD h 0

/-- The second source of an S operation (R234). -/
def SSrc.val (c : Issue) (w : Warp) : SSrc → Word64
  | .reg r => w.sread r
  | .hole h => holeVal c h

/-- The value of `sli` (R236). -/
def SImm.val (c : Issue) : SImm → Word64
  | .imm v => (BitVec.ofNat 46 v).signExtend 64
  | .hole h => holeVal c h

/-- The value of an A operation (R287). -/
def ASrc.val (c : Issue) (w : Warp) : ASrc → Word64
  | .imm v => BitVec.ofNat 64 v
  | .sreg r => w.sread r
  | .hole h => holeVal c h

/-- Bits [31:0]. -/
def low32 (x : Word64) : Word32 := x.setWidth 32

/-- A vector source: 32 bits per lane position (R48). -/
def VSrc.lanes (p : Pitch) (c : Issue) (w : Warp) : VSrc → Lanes
  | .v n => w.vread n
  | .s n => splat (low32 (w.sread n))
  | .latch n => p.latches.getD n (splat 0)
  | .hole h => splat (low32 (holeVal c h))

/-- Two 32-bit halves as one 64-bit value. -/
def join64 (lo hi : Word32) : Word64 := hi ++ lo

/-- A vector source of a 64-bit type (R264). -/
def VSrc.lanes64 (p : Pitch) (c : Issue) (w : Warp) : VSrc → List Word64
  | .v n => laneList.map fun l => join64 ((w.vread n).getD l 0) ((w.vread (n + 1)).getD l 0)
  | .s n => List.replicate 32 (w.sread n)
  | .latch n => (p.latches.getD n (splat 0)).map fun x => x.setWidth 64
  | .hole h => List.replicate 32 (holeVal c h)

/-- The bytes a source gives lane `l` at width `w` (R292). -/
def VSrc.bytes (p : Pitch) (c : Issue) (w : Warp) (a : VSrc) : Width → Nat → List Byte
  | .b8, l => leBytes 1 ((a.lanes p c w).getD l 0).toNat
  | .b16, l => leBytes 2 ((a.lanes p c w).getD l 0).toNat
  | .b32, l => leBytes 4 ((a.lanes p c w).getD l 0).toNat
  | .b64, l => leBytes 8 ((a.lanes64 p c w).getD l 0).toNat
  | .b128, l =>
    match a with
    | .v n => (List.range 4).flatMap fun i => leBytes 4 ((w.vread (n + i)).getD l 0).toNat
    | .s _ => []
    | .latch _ => []
    | .hole _ => []

/-- Bytes of a width (R292). -/
def Width.size : Width → Nat
  | .b8 => 1
  | .b16 => 2
  | .b32 => 4
  | .b64 => 8
  | .b128 => 16

/-- Registers of a group (R292). -/
def Width.regs : Width → Nat
  | .b8 => 1
  | .b16 => 1
  | .b32 => 1
  | .b64 => 2
  | .b128 => 4

/-- The words a load of width `w` delivers to the registers of its group (R292). -/
def loadWords (w : Width) (sx : Bool) (bs : List Byte) : List Word32 :=
  match w with
  | .b8 => [if sx then (BitVec.ofNat 8 (leNat bs)).signExtend 32 else BitVec.ofNat 32 (leNat (bs.take 1))]
  | .b16 => [if sx then (BitVec.ofNat 16 (leNat bs)).signExtend 32 else BitVec.ofNat 32 (leNat (bs.take 2))]
  | .b32 => [BitVec.ofNat 32 (leNat bs)]
  | .b64 => [BitVec.ofNat 32 (leNat (bs.take 4)), BitVec.ofNat 32 (leNat (bs.drop 4))]
  | .b128 => (List.range 4).map fun i => BitVec.ofNat 32 (leNat ((bs.drop (4 * i)).take 4))

/-- The latch of the unit a slot runs on (R50); M's latch is written by tile-memory loads alone. -/
def Slot.latch : Slot → Nat
  | .V0 => 0
  | .V1 => 1
  | .X => 2
  | .M => 3
  | .A0 => 4
  | .A1 => 5
  | .S => 6
  | .P => 7
  | .T => 8
  | .C => 8

/-- The effects of a 32-bit vector result (R49, R50, R265): the register when nw = 0, the unit's latch in either case. -/
def vecEffs (c : Issue) (d : VDst) (m : Mask) (r : Lanes) : List Effect :=
  (match d with
    | .reg n => [Effect.vreg n m r]
    | .nw => []) ++ [Effect.latch c.cur.latch m r]

/-- The effects of a 64-bit vector result: the pair, and bits [31:0] in the latch (R264). -/
def vecEffs64 (c : Issue) (d : VDst) (m : Mask) (r : List Word64) : List Effect :=
  let lo := r.map low32
  let hi := r.map fun x : Word64 => low32 (x >>> 32)
  (match d with
    | .reg n => [Effect.vreg n m lo, Effect.vreg (n + 1) m hi]
    | .nw => []) ++ [Effect.latch c.cur.latch m lo]

/-- The effects of an S result: the register, and bits [31:0] in `l6`, `s0` included (R50). -/
def sEffs (d : Nat) (r : Word64) : List Effect := [.sreg d r, .latch 6 allLanes (splat (low32 r))]

-- The registers an operation names.

/-- A register name, for interlocks (R54), the filter (R64) and the register count (R65, R311). -/
inductive RName where
  | v (n : Nat)
  | s (n : Nat)
  | p (n : Nat)
  | q (n : Nat)
  | b (n : Nat)
  | h (n : Nat)
  | x (n : Nat)
  | tile (n : Nat)
  deriving DecidableEq, Repr

/-- `k` vector registers from `n` on. -/
def vGroup (n k : Nat) : List RName := (List.range k).map fun i => .v (n + i)
def VSrc.names (k : Nat) : VSrc → List RName
  | .v n => vGroup n k
  | .s n => [.s n]
  | .latch _ => []
  | .hole _ => []
def VDst.names (k : Nat) : VDst → List RName
  | .reg n => vGroup n k
  | .nw => []
def SSrc.names : SSrc → List RName
  | .reg r => [.s r]
  | .hole _ => []
def ASrc.names : ASrc → List RName
  | .imm _ => []
  | .sreg r => [.s r]
  | .hole _ => []
/-- Registers per operand of a type (R264). -/
def ITy.regs (ty : ITy) : Nat := if ty.is64 then 2 else 1
/-- A post-incremented stream is written (R288). -/
def incName (inc : Bool) (x : Nat) : List RName := if inc then [.x x] else []
/-- The tiles from `acc` to `acc + n` (R311). -/
def tileNames (acc n : Nat) : List RName := (List.range (n + 1)).map fun i => .tile (acc + i)

/-- The guard of a slot operation, as the register it reads. -/
def Instr.guardName : Instr → List RName := fun i =>
  match encode i with
  | none => []
  | some (k, x) =>
    match k with
    | .S => [.q (guardS x).idx]
    | .P => if (x.field 27 5 ≤ 5 || (8 ≤ x.field 27 5 && x.field 27 5 ≤ 10)) then [.p (guardP x).idx]
            else [.q (guardP x).idx]
    | .A => [.q (guardA x).idx]
    | .V => [.p (guardV x).idx]
    | .X => [.p (guardX x).idx]
    | .M => [.p (guardM x).idx]
    | .T => [.q (guardT x).idx]
    | .C => [.q (guardA x).idx]

/-- The registers an operation reads. -/
def Instr.reads : Instr → List RName
  | .sadd _ _ a b _ => .s a :: b.names
  | .ssub _ _ a b _ => .s a :: b.names
  | .smul _ _ a b _ => .s a :: b.names
  | .smulhi _ _ a b _ => .s a :: b.names
  | .sand _ _ a b _ => .s a :: b.names
  | .sor _ _ a b _ => .s a :: b.names
  | .sxor _ _ a b _ => .s a :: b.names
  | .sshl _ _ a b _ => .s a :: b.names
  | .sshr _ _ a b _ => .s a :: b.names
  | .ssar _ _ a b _ => .s a :: b.names
  | .smin _ _ a b _ => .s a :: b.names
  | .smax _ _ a b _ => .s a :: b.names
  | .smov _ _ b _ => b.names
  | .ssel _ _ a b q _ => .s a :: .q q :: b.names
  | .scmp _ _ a b _ _ => .s a :: b.names
  | .btgt _ _ t => match t with
    | .imm _ => []
    | .sreg r => [.s r]
    | .hole _ => []
  | .bxfer _ b _ => [.b b]
  | .bcall _ b _ _ => [.b b]
  | .swr _ a _ => [.s a]
  | .dline _ a b => .s a :: b.names
  | .dtick _ b => b.names
  | .pwacq _ a => [.s a]
  | .info _ _ a _ => [.s a]
  | .vdhop _ _ a b => .s a :: b.names
  | .mtrd _ _ _ _ j => [.s j]
  | .mtck _ _ j => [.s j]
  | .pand _ _ a _ b _ => [.p a, .p b]
  | .por _ _ a _ b _ => [.p a, .p b]
  | .pxor _ _ a _ b _ => [.p a, .p b]
  | .pmov _ _ a _ => [.p a]
  | .pset _ _ a _ => [.q a]
  | .vany _ _ a _ => [.p a]
  | .vall _ _ a _ => [.p a]
  | .vcount _ _ a _ => [.p a]
  | .qand _ _ a _ b _ => [.q a, .q b]
  | .qor _ _ a _ b _ => [.q a, .q b]
  | .qxor _ _ a _ b _ => [.q a, .q b]
  | .mpush _ a _ => [.p a]
  | .regroup _ a _ => [.p a]
  | .agbind _ _ v => v.names
  | .agset _ x _ v => .x x :: v.names
  | .agadd _ x _ v => .x x :: v.names
  | .agstep _ _ _ v => v.names
  | .aglane _ _ _ v => v.names
  | .agget _ x _ _ => [.x x]
  | .vadd _ _ a b ty _ => a.names ty.regs ++ b.names ty.regs
  | .vsub _ _ a b ty _ => a.names ty.regs ++ b.names ty.regs
  | .vmul _ _ a b ty _ => a.names ty.regs ++ b.names ty.regs
  | .vmulhi _ _ a b ty => a.names ty.regs ++ b.names ty.regs
  | .vmad _ _ a b c ty _ => a.names ty.regs ++ b.names ty.regs ++ c.names ty.regs
  | .vand _ _ a b ty => a.names ty.regs ++ b.names ty.regs
  | .vor _ _ a b ty => a.names ty.regs ++ b.names ty.regs
  | .vxor _ _ a b ty => a.names ty.regs ++ b.names ty.regs
  | .vshl _ _ a b ty => a.names ty.regs ++ b.names ty.regs
  | .vshr _ _ a b ty => a.names ty.regs ++ b.names ty.regs
  | .vsar _ _ a b ty => a.names ty.regs ++ b.names ty.regs
  | .vmin _ _ a b ty => a.names ty.regs ++ b.names ty.regs
  | .vmax _ _ a b ty => a.names ty.regs ++ b.names ty.regs
  | .vabs _ _ a ty _ => a.names ty.regs
  | .vneg _ _ a ty _ => a.names ty.regs
  | .vcmp _ _ a b ty _ => a.names ty.regs ++ b.names ty.regs
  | .vsel _ _ a b ps _ => .p ps :: (a.names 1 ++ b.names 1)
  | .vmov _ _ a ty => a.names ty.regs
  | .vli _ _ a b => a.names 1 ++ b.names 1
  | .vclz _ _ a _ => a.names 1
  | .vpopc _ _ a _ => a.names 1
  | .fadd _ _ a b _ => a.names 1 ++ b.names 1
  | .fsub _ _ a b _ => a.names 1 ++ b.names 1
  | .fmul _ _ a b _ => a.names 1 ++ b.names 1
  | .fma _ _ a b c _ => a.names 1 ++ b.names 1 ++ c.names 1
  | .fmin _ _ a b => a.names 1 ++ b.names 1
  | .fmax _ _ a b => a.names 1 ++ b.names 1
  | .fabs _ _ a => a.names 1
  | .fneg _ _ a => a.names 1
  | .fcmp _ _ a b _ => a.names 1 ++ b.names 1
  | .fclass _ _ a => a.names 1
  | .hadd2 _ _ a b _ => a.names 1 ++ b.names 1
  | .hmul2 _ _ a b _ => a.names 1 ++ b.names 1
  | .hfma2 _ _ a b c _ => a.names 1 ++ b.names 1 ++ c.names 1
  | .cvt _ _ a b code _ => a.names 1 ++ (if code = 14 then b.names 1 else [])
  | .xchg _ _ a _ => a.names 1
  | .xrot _ _ a _ => a.names 1
  | .xbcast _ _ a _ => a.names 1
  | .xidx _ _ a b => a.names 1 ++ b.names 1
  | .xscan _ _ a _ _ => a.names 1
  | .xred _ _ a _ => a.names 1
  | .frcp _ _ a => a.names 1
  | .frsq _ _ a => a.names 1
  | .fexp2 _ _ a => a.names 1
  | .flog2 _ _ a => a.names 1
  | .fsin _ _ a => a.names 1
  | .fcos _ _ a => a.names 1
  | .ftanh _ _ a => a.names 1
  | .ld _ _ x _ _ _ _ _ => [.x x]
  | .st _ a x w _ => .x x :: a.names w.regs
  | .ldg _ _ x _ _ _ _ c => .x x :: c.names 1
  | .stg _ a x w _ _ c => .x x :: (a.names w.regs ++ c.names 1)
  | .lblk _ _ x _ _ _ => [.x x]
  | .atom _ _ x op ty _ _ _ a b => .x x :: (a.names ty.regs ++ (if op = .cas then b.names ty.regs else []))
  | .probe _ _ x a => [.x x, .s a]
  | .stc _ _ x _ _ a => .x x :: a.names 1
  | .ldas _ _ x _ t _ _ _ => [.x x, .s t]
  | .qput _ _ _ a => a.names 1
  | .feset _ x _ _ => [.x x]
  | .feclr _ x _ _ => [.x x]
  | .mmac _ _ _ _ _ _ _ xa _ xb _ => [.x xa, .x xb]
  | .mstore _ _ acc nt _ _ _ _ xd _ => .x xd :: tileNames acc nt
  | .mload _ _ _ _ _ xs _ => [.x xs]
  | .cpy _ _ xd _ xs _ a => [.x xd, .x xs, .s a]
  | .cpym _ _ xd _ xs _ a _ => [.x xd, .x xs, .s a]
  | .coll _ _ xd _ xs _ a xr _ _ => [.x xd, .x xs, .x xr, .s a]
  | .fwait _ h => [.h h]
  | .ftry _ _ h t => .h h :: match t with
    | .imm _ => []
    | .sreg r => [.s r]
  | .fcancel _ h => [.h h]
  | .fstat _ h _ _ => [.h h]
  | .fmov _ _ a => [.s a]
  | _ => []

/-- The registers an operation writes. -/
def Instr.writes : Instr → List RName
  | .sadd _ d _ _ _ => [.s d]
  | .ssub _ d _ _ _ => [.s d]
  | .smul _ d _ _ _ => [.s d]
  | .smulhi _ d _ _ _ => [.s d]
  | .sand _ d _ _ _ => [.s d]
  | .sor _ d _ _ _ => [.s d]
  | .sxor _ d _ _ _ => [.s d]
  | .sshl _ d _ _ _ => [.s d]
  | .sshr _ d _ _ _ => [.s d]
  | .ssar _ d _ _ _ => [.s d]
  | .smin _ d _ _ _ => [.s d]
  | .smax _ d _ _ _ => [.s d]
  | .smov _ d _ _ => [.s d]
  | .sli _ d _ => [.s d]
  | .ssel _ d _ _ _ _ => [.s d]
  | .scmp _ q _ _ _ _ => [.q q]
  | .btgt _ bd _ => [.b bd]
  | .bcall _ _ _ r => [.b r]
  | .lidx _ d _ => [.s d]
  | .srd _ d _ => match d with
    | .s n => [.s n]
    | .v n => [.v n]
  | .clk _ d e => [.s d, .s e]
  | .dclose _ q => [.q q]
  | .info _ d _ _ => [.s d]
  | .vdhop _ d _ _ => [.s d]
  | .mtrd _ v e l _ => [.s v, .s e, .s l]
  | .mtck _ h _ => [.h h]
  | .pand _ d _ _ _ _ => [.p d]
  | .por _ d _ _ _ _ => [.p d]
  | .pxor _ d _ _ _ _ => [.p d]
  | .pmov _ d _ _ => [.p d]
  | .pset _ d _ _ => [.p d]
  | .vany _ d _ _ => [.q d]
  | .vall _ d _ _ => [.q d]
  | .vcount _ d _ _ => [.s d]
  | .qand _ d _ _ _ _ => [.q d]
  | .qor _ d _ _ _ _ => [.q d]
  | .qxor _ d _ _ _ _ => [.q d]
  | .agbind _ x _ => [.x x]
  | .agset _ x _ _ => [.x x]
  | .agadd _ x _ _ => [.x x]
  | .agstep _ x _ _ => [.x x]
  | .aglane _ x _ _ => [.x x]
  | .agget _ _ _ d => [.s d]
  | .vadd _ d _ _ ty _ => d.names ty.regs
  | .vsub _ d _ _ ty _ => d.names ty.regs
  | .vmul _ d _ _ ty _ => d.names ty.regs
  | .vmulhi _ d _ _ ty => d.names ty.regs
  | .vmad _ d _ _ _ ty _ => d.names ty.regs
  | .vand _ d _ _ ty => d.names ty.regs
  | .vor _ d _ _ ty => d.names ty.regs
  | .vxor _ d _ _ ty => d.names ty.regs
  | .vshl _ d _ _ ty => d.names ty.regs
  | .vshr _ d _ _ ty => d.names ty.regs
  | .vsar _ d _ _ ty => d.names ty.regs
  | .vmin _ d _ _ ty => d.names ty.regs
  | .vmax _ d _ _ ty => d.names ty.regs
  | .vabs _ d _ ty _ => d.names ty.regs
  | .vneg _ d _ ty _ => d.names ty.regs
  | .vcmp _ pd _ _ _ _ => [.p pd]
  | .vsel _ d _ _ _ _ => d.names 1
  | .vmov _ d _ ty => d.names ty.regs
  | .vli _ d _ _ => d.names 1
  | .vclz _ d _ _ => d.names 1
  | .vpopc _ d _ _ => d.names 1
  | .fadd _ d _ _ _ => d.names 1
  | .fsub _ d _ _ _ => d.names 1
  | .fmul _ d _ _ _ => d.names 1
  | .fma _ d _ _ _ _ => d.names 1
  | .fmin _ d _ _ => d.names 1
  | .fmax _ d _ _ => d.names 1
  | .fabs _ d _ => d.names 1
  | .fneg _ d _ => d.names 1
  | .fcmp _ pd _ _ _ => [.p pd]
  | .fclass _ d _ => d.names 1
  | .hadd2 _ d _ _ _ => d.names 1
  | .hmul2 _ d _ _ _ => d.names 1
  | .hfma2 _ d _ _ _ _ => d.names 1
  | .cvt _ d _ _ _ _ => d.names 1
  | .xchg _ d _ _ => d.names 1
  | .xrot _ d _ _ => d.names 1
  | .xbcast _ d _ _ => d.names 1
  | .xidx _ d _ _ => d.names 1
  | .xscan _ d _ _ _ => d.names 1
  | .xred _ d _ _ => d.names 1
  | .frcp _ d _ => d.names 1
  | .frsq _ d _ => d.names 1
  | .fexp2 _ d _ => d.names 1
  | .flog2 _ d _ => d.names 1
  | .fsin _ d _ => d.names 1
  | .fcos _ d _ => d.names 1
  | .ftanh _ d _ => d.names 1
  | .ld _ d x w _ _ inc _ => d.names w.regs ++ incName inc x
  | .st _ _ x _ inc => incName inc x
  | .ldg _ d x w _ inc _ _ => d.names w.regs ++ incName inc x
  | .stg _ _ x _ _ inc _ => incName inc x
  | .lblk _ h x _ _ inc => .h h :: incName inc x
  | .atom _ d x _ ty _ _ inc _ _ => d.names ty.regs ++ incName inc x
  | .probe _ d _ _ => [.s d]
  | .stc _ h x _ inc _ => .h h :: incName inc x
  | .ldas _ d x w _ inc _ pd => .p pd :: (d.names w.regs ++ incName inc x)
  | .qput _ q _ _ => [.q q]
  | .qget _ d q _ => .q q :: d.names 1
  | .feset _ x _ inc => incName inc x
  | .feclr _ x _ inc => incName inc x
  | .mmac _ h acc nf _ _ _ xa inca xb incb => .h h :: (tileNames acc nf ++ incName inca xa ++ incName incb xb)
  | .mzero _ acc nt => tileNames acc nt
  | .mstore _ h _ _ _ _ _ _ xd inc => .h h :: incName inc xd
  | .mload _ h acc nt _ xs inc => .h h :: (tileNames acc nt ++ incName inc xs)
  | .cpy _ h xd incd xs incs _ => .h h :: (incName incd xd ++ incName incs xs)
  | .cpym _ h xd incd xs incs _ _ => .h h :: (incName incd xd ++ incName incs xs)
  | .coll _ h xd incd xs incs _ xr incr _ => .h h :: (incName incd xd ++ incName incs xs ++ incName incr xr)
  | .ftry _ q _ _ => [.q q]
  | .fstat _ _ d _ => [.s d]
  | .fmov _ h _ => [.h h]
  | _ => []

/-- The handle register an operation reads in the sense of R54 condition 3 (R328). -/
def Instr.awaits : Instr → List Nat
  | .fwait _ h => [h]
  | _ => []

/-- Holes of operands. -/
def SSrc.holes : SSrc → List Nat
  | .reg _ => []
  | .hole h => [h]
def VSrc.holes : VSrc → List Nat
  | .v _ => []
  | .s _ => []
  | .latch _ => []
  | .hole h => [h]
def ASrc.holes : ASrc → List Nat
  | .imm _ => []
  | .sreg _ => []
  | .hole h => [h]

/-- The holes an operation of an S or A slot names. -/
def Instr.holesSA : Instr → List Nat
  | .sadd _ _ _ b _ => b.holes
  | .ssub _ _ _ b _ => b.holes
  | .smul _ _ _ b _ => b.holes
  | .smulhi _ _ _ b _ => b.holes
  | .sand _ _ _ b _ => b.holes
  | .sor _ _ _ b _ => b.holes
  | .sxor _ _ _ b _ => b.holes
  | .sshl _ _ _ b _ => b.holes
  | .sshr _ _ _ b _ => b.holes
  | .ssar _ _ _ b _ => b.holes
  | .smin _ _ _ b _ => b.holes
  | .smax _ _ _ b _ => b.holes
  | .smov _ _ b _ => b.holes
  | .sli _ _ v => match v with
    | .imm _ => []
    | .hole h => [h]
  | .ssel _ _ _ b _ _ => b.holes
  | .scmp _ _ _ b _ _ => b.holes
  | .btgt _ _ t => match t with
    | .imm _ => []
    | .sreg _ => []
    | .hole h => [h]
  | .dline _ _ b => b.holes
  | .dtick _ b => b.holes
  | .vdhop _ _ _ b => b.holes
  | .agbind _ _ v => v.holes
  | .agset _ _ _ v => v.holes
  | .agadd _ _ _ v => v.holes
  | .agstep _ _ _ v => v.holes
  | .aglane _ _ _ v => v.holes
  | _ => []

/-- The vector sources an operation of a V, X or M slot names. -/
def Instr.vsrcs : Instr → List VSrc
  | .vadd _ _ a b _ _ => [a, b]
  | .vsub _ _ a b _ _ => [a, b]
  | .vmul _ _ a b _ _ => [a, b]
  | .vmulhi _ _ a b _ => [a, b]
  | .vmad _ _ a b c _ _ => [a, b, c]
  | .vand _ _ a b _ => [a, b]
  | .vor _ _ a b _ => [a, b]
  | .vxor _ _ a b _ => [a, b]
  | .vshl _ _ a b _ => [a, b]
  | .vshr _ _ a b _ => [a, b]
  | .vsar _ _ a b _ => [a, b]
  | .vmin _ _ a b _ => [a, b]
  | .vmax _ _ a b _ => [a, b]
  | .vabs _ _ a _ _ => [a]
  | .vneg _ _ a _ _ => [a]
  | .vcmp _ _ a b _ _ => [a, b]
  | .vsel _ _ a b _ _ => [a, b]
  | .vmov _ _ a _ => [a]
  | .vli _ _ a b => [a, b]
  | .vclz _ _ a _ => [a]
  | .vpopc _ _ a _ => [a]
  | .fadd _ _ a b _ => [a, b]
  | .fsub _ _ a b _ => [a, b]
  | .fmul _ _ a b _ => [a, b]
  | .fma _ _ a b c _ => [a, b, c]
  | .fmin _ _ a b => [a, b]
  | .fmax _ _ a b => [a, b]
  | .fabs _ _ a => [a]
  | .fneg _ _ a => [a]
  | .fcmp _ _ a b _ => [a, b]
  | .fclass _ _ a => [a]
  | .hadd2 _ _ a b _ => [a, b]
  | .hmul2 _ _ a b _ => [a, b]
  | .hfma2 _ _ a b c _ => [a, b, c]
  | .cvt _ _ a b _ _ => [a, b]
  | .xchg _ _ a _ => [a]
  | .xrot _ _ a _ => [a]
  | .xbcast _ _ a _ => [a]
  | .xidx _ _ a b => [a, b]
  | .xscan _ _ a _ _ => [a]
  | .xred _ _ a _ => [a]
  | .frcp _ _ a => [a]
  | .frsq _ _ a => [a]
  | .fexp2 _ _ a => [a]
  | .flog2 _ _ a => [a]
  | .fsin _ _ a => [a]
  | .fcos _ _ a => [a]
  | .ftanh _ _ a => [a]
  | .st _ a _ _ _ => [a]
  | .ldg _ _ _ _ _ _ _ c => [c]
  | .stg _ a _ _ _ _ c => [a, c]
  | .atom _ _ _ _ _ _ _ _ a b => [a, b]
  | .stc _ _ _ _ _ a => [a]
  | .qput _ _ _ a => [a]
  | _ => []

def Instr.holes (i : Instr) : List Nat := i.holesSA ++ i.vsrcs.flatMap VSrc.holes

/-- The operations of a word, in slot order. -/
def wordOps (w : Nat) : List (Slot × Instr) :=
  slotOrder.filterMap fun sl => (decodeSlot w sl).map fun i => (sl, i)

/-- No element twice. -/
def noDup : List RName → Bool
  | [] => true
  | a :: r => !r.contains a && noDup r

/-- The registers of a V, X or M destination field (R49), `k` of them. -/
def dstNames (x lo k : Nat) : List RName := (VDst.ofCode (x.field lo 9)).names k

/-- The registers an M slot writes, from its fields (R288 to R307).  A width the slot chapters leave unassigned counts as
one register (log entry 18). -/
def rawWritesM (x : Nat) : List RName :=
  let k := ((Width.ofCode (x.field 29 3)).map Width.regs).getD 1
  let inc (b lo : Nat) : List RName := incName (x.bitAt b) (x.field lo 3)
  match x.field 51 5 with
  | 1 => dstNames x 35 k ++ inc 26 32
  | 2 => inc 26 32
  | 3 => dstNames x 35 k ++ inc 26 32
  | 4 => inc 26 32
  | 5 => .h (x.field 40 4) :: inc 22 37
  | 6 => dstNames x 35 (ITy.ofCode (x.field 26 2)).regs ++ inc 20 32
  | 9 => [.s (x.field 38 6)]
  | 10 => .h (x.field 40 4) :: inc 35 37
  | 11 => .p (x.field 15 6) :: (dstNames x 35 k ++ inc 22 32)
  | 12 => [.q (x.field 40 4)]
  | 13 => .q (x.field 31 4) :: dstNames x 35 1
  | 14 => inc 26 32
  | 15 => inc 26 32
  | _ => []

/-- The registers a slot writes for check 1 of R64, read from its opcode and destination fields alone: check 1 comes before
the checks a slot's other bits may fail.  A stream counts as written by an A operation and by an M post-increment (R288). -/
def rawWrites (k : SlotKind) (x : Nat) : List RName :=
  match k with
  | .S => match x.field 58 6 with
    | 16 => [.q (x.field 47 4)]
    | 24 => [.b (x.field 50 3)]
    | 26 => [.b (x.field 45 3)]
    | 40 => [if x.bitAt 52 then .v (x.field 44 8) else .s (x.field 46 6)]
    | 42 => [.s (x.field 47 6), .s (x.field 41 6)]
    | 45 => [.q (x.field 47 4)]
    | 50 => [.s (x.field 47 6), .s (x.field 41 6), .s (x.field 35 6)]
    | 51 => [.h (x.field 49 4)]
    | op => if (1 ≤ op && op ≤ 15) || op == 27 || op == 48 || op == 49 then [.s (x.field 47 6)] else []
  | .P =>
    let op := x.field 27 5
    if 1 ≤ op && op ≤ 5 then [.p (x.field 14 6)]
    else if op == 10 then [.s (x.field 14 6)]
    else if op == 8 || op == 9 || (12 ≤ op && op ≤ 14) then [.q (x.field 14 4)]
    else []
  | .A =>
    let op := x.field 44 4
    if 1 ≤ op && op ≤ 5 then [.x (x.field 36 3)] else if op == 6 then [.s (x.field 26 6)] else []
  | .V =>
    let op := x.field 50 6
    if op == 16 || op == 40 then [.p (x.field 34 6)]
    else if (1 ≤ op && op ≤ 15) || op == 18 then dstNames x 34 (tyV x).regs
    else if op == 17 || (19 ≤ op && op ≤ 21) || (32 ≤ op && op ≤ 39) || op == 41 || (48 ≤ op && op ≤ 50) || op == 56
    then dstNames x 34 1
    else []
  | .X =>
    let op := x.field 43 5
    if (1 ≤ op && op ≤ 6) || (8 ≤ op && op ≤ 14) then dstNames x 27 1 else []
  | .M => rawWritesM x
  | .T => match x.field 45 3 with
    | 1 => .h (x.field 36 4) :: tileNames (x.field 28 8) (x.field 22 6)
    | 2 => tileNames (x.field 28 8) (x.field 22 6)
    | 4 => [.h (x.field 36 4)]
    | 5 => .h (x.field 36 4) :: tileNames (x.field 28 8) (x.field 22 6)
    | _ => []
  | .C => match x.field 44 4 with
    | 1 => [.h (x.field 35 4)]
    | 2 => [.h (x.field 35 4)]
    | 3 => [.h (x.field 35 4)]
    | 5 => [.q (x.field 31 4)]
    | 7 => [.s (x.field 29 6)]
    | 8 => [.h (x.field 35 4)]
    | _ => []

/-- The first failing check of a dictionary entry in the order of R64. -/
def entryCheck (e : Entry) : Option Nat :=
  let ops := (wordOps e.word).map (·.2)
  let nh := e.md.field 13 3
  let slots := slotOrder.filterMap (slotCheck e.word)
  let c1 := noDup (slotOrder.flatMap fun sl => rawWrites sl.kind (slotBits e.word sl))
  let c2 := e.word.field 504 7 == 0 && e.md.field 0 5 == 0 && !slots.contains 2 &&
    (decide (nh > 4) || e.md.field (5 + 2 * nh) (8 - 2 * nh) == 0)
  let c3 := !slots.contains 3
  let c4 := !slots.contains 4 && decide (nh ≤ 4)
  let c5 := (ops.flatMap Instr.holes).all fun h => decide (h < nh)
  if !c1 then some 1 else if !c2 then some 2 else if !c3 then some 3 else if !c4 then some 4
  else if !c5 then some 5 else none

/-- The highest `v` index an entry names, plus one (R65). -/
def entryMaxV (e : Entry) : Nat :=
  ((wordOps e.word).flatMap fun o => o.2.reads ++ o.2.writes).foldl (fun m r => match r with
    | .v n => max m (n + 1)
    | _ => m) 0

/-- The highest accumulator tile an entry names, plus one (R311). -/
def entryTiles (e : Entry) : Nat :=
  ((wordOps e.word).flatMap fun o => o.2.reads ++ o.2.writes).foldl (fun m r => match r with
    | .tile n => max m (n + 1)
    | _ => m) 0

end Sys2Proof
end

