-- ==== Sys2Proof/Machine/Layout.lean ====
section
/-! DEFINITION. The layout unit (R119 to R127): coordinates, element index, byte offset, the checks of an access in the
order of R366, and where an access goes. -/

namespace Sys2Proof.Machine

-- Records and coordinates.

/-- The patched pool of the block's task (R81). -/
def State.pool (s : State) (b : Block) : List Record :=
  match s.task? b.ctx b.task with
  | some t => t.pool
  | none => []

/-- The stream's coordinates as lane position `l` forms them (R122, R291). -/
def laneCoords (x : AStream) (l : Nat) : List Nat :=
  (List.range 4).map fun k =>
    let c := (x.c.getD k 0).toNat
    if k = x.sdim then ((c : Int) + l * x.step.toInt).emod (2 ^ 32) |>.toNat else c

/-- The coordinates of a gather or scatter: dimension `g` comes from the lane and takes no lane step (R297). -/
def gatherCoords (x : AStream) (g : Nat) (v : Word32) (l : Nat) : List Nat := (laneCoords x l).set g v.toNat

def Record.e (r : Record) (k : Nat) : Nat := r.ext.getD k 1

/-- Number of elements. -/
def Record.count (r : Record) : Nat := r.e 0 * r.e 1 * r.e 2 * r.e 3

/-- The linear element index (R123).  For a tiled record whose extents are no multiples of its block shape, which a program must not
use, the spec gives none: some element of the record, free (log entry 76). -/
def Record.index (r : Record) (c : List Nat) : Nat :=
  let k := fun i => c.getD i 0
  if r.layout = 0 then k 0 + r.e 0 * (k 1 + r.e 1 * (k 2 + r.e 2 * k 3))
  else if r.layout = 1 then k 1 + r.e 1 * (k 0 + r.e 0 * (k 2 + r.e 2 * k 3))
  else
    let t0 := 2 ^ r.tb0
    let t1 := 2 ^ r.tb1
    if r.e 0 % t0 = 0 ∧ r.e 1 % t1 = 0 then
      (((k 3 * r.e 2 + k 2) * (r.e 1 / t1) + k 1 / t1) * (r.e 0 / t0) + k 0 / t0) * (t0 * t1)
        + (k 1 % t1) * t0 + k 0 % t0
    else Config.oddIndex t0 t1 r.ext c % r.count

/-- Bytes of the tensor or window (R124). -/
def Record.size (r : Record) : Nat :=
  if r.described then 64 * ((r.count + blockElems r.format - 1) / blockElems r.format)
  else (r.count * fmtBits r.format + 7) / 8

/-- The byte offset of element `n` (R124, R109). -/
def Record.byteOf (r : Record) (n : Nat) : Nat :=
  if r.described then
    let e := blockElems r.format
    let i := n % e
    64 * (n / e) + 2 + (if fmtBits r.format = 4 then i / 2 else if fmtBits r.format = 16 then 2 * i else i)
  else n * fmtBits r.format / 8

/-- Element size in bytes for engines; half a byte counts as one (R124, R125). -/
def elemBytes (f : Nat) : Nat := if fmtBits f = 4 then 1 else fmtBits f / 8

/-- Coordinates inside the extents (R125). -/
def Record.inside (r : Record) (c : List Nat) : Bool :=
  (List.range 4).all fun k => decide (c.getD k 0 < r.e k)

/-- The rights bits of a record (R119). -/
def Record.right (r : Record) (k : Nat) : Bool := r.rights.bitAt k

-- Frames.

/-- The frame entry that holds byte `off` of a tensor (R124, R126). -/
def State.entryOf (s : State) (base off : Nat) : Option TileEntry :=
  (s.tensor? base).bind fun t => t.entries[off / 65536]?

/-- The address of byte `off` of a tensor at its home (R126); an absent frame has the address 0 of host memory, which no
access reaches. -/
def State.tensorAddr (s : State) (base off : Nat) : Nat :=
  match s.entryOf base off with
  | some e => frameAddr e.tier e.die e.frame (off % 65536)
  | none => 0

/-- A block's allocation on a logical core (R22). -/
def Block.allocOn (b : Block) (core : Nat) : Option Alloc := b.allocs.find? fun a => a.core == core

/-- Bytes [lo, lo + n) of the tile memory of a core of a stack lie in one allocation of a context (R130). -/
def State.ctxAlloc (s : State) (ctx stack core lo n : Nat) : Bool :=
  s.blocks.any fun b => b.ctx == ctx && b.stack == stack && b.status == .placed &&
    b.allocs.any fun a => a.core == core && decide (a.base ≤ lo) && decide (lo + n ≤ a.base + b.rcd.tmem)

/-- A port is up and its partner has a device id (R202). -/
def State.portUp (s : State) (device k : Nat) : Bool :=
  (s.ports.getD k Port.reset).state == 2 && (s.ports.getD k Port.reset).partnerDev == device

/-- The lowest-numbered port of an entry's mask that is up and whose partner has the entry's device id (R202). -/
def State.portFor (s : State) (mask device : Nat) : Option Nat :=
  (List.range 16).find? fun k => mask.bitAt k && s.portUp device k

/-- The port a packet of a route leaves by: the route's own, or while that is down another of its entry (R16, R202). -/
def State.pathPort (s : State) (r : Path) : Option Nat :=
  if s.portUp r.device r.port then some r.port else s.portFor r.mask r.device

/-- A peer can be reached: its routing entry is valid and has a port up (R202, R366 order 11). -/
def State.peerUp (s : State) (peer : Nat) : Bool :=
  match s.routes.find? fun r => r.peer == peer with
  | some r => r.valid && (s.portFor r.mask r.device).isSome
  | none => false

/-- Where byte `off` of a record's data lies for a warp of a block. -/
def Record.locate (r : Record) (b : Block) (w : Warp) (off : Nat) : Loc :=
  if r.kind = 0 then .tensor r.base off
  else if r.kind = 1 then
    .tmem b.stack w.core (((b.allocOn w.core).getD default).base + r.base + off)
  else if r.kind = 2 then .tmem b.stack r.core (r.base + off)
  else .peer r.peer r.base off

/-- The physical address of a byte of tile memory or of a tensor; a peer's byte has none here. -/
def State.addrOf (s : State) : Loc → Nat
  | .tmem k c off => tmemAddr (32 * k + c) off
  | .tensor base off => s.tensorAddr base off
  | .peer _ _ _ => 0

/-- The bytes at a location, from its home. -/
def State.readLoc (s : State) (l : Loc) (n : Nat) : List Byte := s.mem.readBytes (s.addrOf l) n

/-- A line is stamped (R160). -/
def State.isStamped (s : State) (addr n : Nat) : Bool :=
  s.stamped.any fun t => decide (t.line * 64 < addr + n) && decide (addr < t.line * 64 + 64)

-- Checks (R366).

/-- What an operation asks of a record: the kinds it accepts, its rights bits, whether it writes, whether its frame must
be of tier G, whether it is refused off kind 1. -/
structure Need where
  kinds   : List Nat
  rights  : List Nat
  writes  : Bool
  tierG   : Bool
  stampOk : Bool
  deriving DecidableEq, Repr

/-- A lane's access or the cause it faults with, in the order of R366. -/
def State.check (s : State) (b : Block) (w : Warp) (need : Need) (rcd : Nat) (c : List Nat) (wid align : Nat) :
    Except Nat Loc :=
  match (s.pool b)[rcd]? with
  | none => .error 0x26
  | some r =>
    let off := r.byteOf (r.index c)
    let blk := off % 64
    if !need.kinds.contains r.kind ||
        (need.tierG && (match s.tensor? r.base with
          | some t => t.tier != 0
          | none => true)) then .error 0x27
    else if !need.rights.all r.right then .error 0x22
    else if r.meter != 0xFF && !b.rcd.meters.bitAt r.meter then .error 0x25
    else if r.kind == 2 && !s.ctxAlloc b.ctx b.stack r.core (r.base + off) wid then .error 0x29
    else if !r.inside c || decide (r.size < off + wid) then .error 0x20
    else if off % align != 0 || (r.described && (blk < 2 || decide (64 < blk + wid))) then .error 0x21
    else if need.writes && r.kind == 0 && (match s.entryOf r.base off with
        | some e => e.resident && !e.writable
        | none => false) then .error 0x23
    else if need.writes && !need.stampOk && r.kind == 0 && s.isStamped (s.tensorAddr r.base off) wid then .error 0x24
    else if r.kind == 3 && !s.peerUp r.peer then .error 0x2B
    else .ok (r.locate b w off)

/-- The frame of a location is not resident (R127); a frame being moved is (R370). -/
def State.absent (s : State) : Loc → Bool
  | .tmem _ _ _ => false
  | .tensor base off =>
    match s.entryOf base off with
    | some e => !e.resident
    | none => true
  | .peer _ _ _ => false

/-- The meter region of a record on a metered frame (R136). -/
def State.meterOf (s : State) (b : Block) (r : Record) (off : Nat) : Option Nat :=
  if r.kind = 0 && r.meter != 0xFF then
    match s.entryOf r.base off, s.image? b.ctx b.image with
    | some e, some im => if e.metered then im.meters[r.meter]? else none
    | _, _ => none
  else none

/-- The value of a region's meter, 0 when it has none (R225). -/
def State.meterVal (s : State) (region : Nat) : Nat :=
  match s.rainfly.meters.find? fun m => m.region == region with
  | some m => m.value
  | none => 0

/-- Signatures are left (R220, R393). -/
def State.leafLeft (s : State) : Bool := decide (s.rainfly.leaf < 2 ^ 40)

/-- A checkpoint record is requested (R227): its value, stamp and sequence number are fixed now. -/
def State.requestCkpt (s : State) (region cause grant : Nat) (for_ : CkptFor) : State :=
  let r := s.rainfly
  let stamp := if s.tb.accepted then max s.tb.latest (r.stamp + 1) else 0
  let body : Ckpt := { cause := cause, region := region, grant := grant, value := s.meterVal region, stamp := stamp,
                       seq := r.seq + 1 }
  { s with rainfly := { r with seq := r.seq + 1, stamp := stamp,
                               reqs := r.reqs ++ [{ body := body, stamped := s.tb.accepted, for_ := for_ }] } }

/-- Bytes counted on a region's meter, saturating (R225); the first time it reaches a multiple of 2^30 a record of cause 1
is taken while signatures are left (R227, R393). -/
def State.countMeter (s : State) (region : Option Nat) (n : Nat) : State :=
  match region with
  | none => s
  | some g =>
    match s.rainfly.meters.find? fun m => m.region == g with
    | none => s
    | some m =>
      let v := min Config.ones64 (m.value + n)
      let s := { s with rainfly := { s.rainfly with
        meters := s.rainfly.meters.map fun k => if k.region == g then { k with value := v } else k } }
      if m.value / 2 ^ 30 < v / 2 ^ 30 && s.leafLeft then s.requestCkpt g 1 m.grant .nobody else s

-- Full and empty granules (R128, R129).

/-- The granules that bytes [off, off + n) of a core's tile memory touch. -/
def granules (core off n : Nat) : List Nat :=
  if n = 0 then [] else
    (List.range ((off + n - 1) / 16 - off / 16 + 1)).map fun i => granuleOf core off + i

/-- A granule made empty: inserted in the rising list. -/
def insertNat : List Nat → Nat → List Nat
  | [], g => [g]
  | x :: r, g => if g < x then g :: x :: r else if g = x then x :: r else x :: insertNat r g
def State.setEmpty (s : State) (gs : List Nat) : State := { s with empty := gs.foldl insertNat s.empty }
def State.setFull (s : State) (gs : List Nat) : State := { s with empty := s.empty.filter fun g => !gs.contains g }

-- Boxes of elements (R314, R325).

/-- The coordinates of element (u, v) of a box. -/
def Box.coords (x : Box) (u v : Nat) : List Nat :=
  [x.c.getD 0 0 + u, x.c.getD 1 0 + v, x.c.getD 2 0, x.c.getD 3 0]

/-- The byte offset of element (u, v). -/
def Box.off (x : Box) (u v : Nat) : Nat := x.rcd.byteOf (x.rcd.index (x.coords u v))

/-- The location of byte offset `off` of the box's record on the core the box is for. -/
def Box.loc (x : Box) (off : Nat) : Loc :=
  if x.rcd.kind = 0 then .tensor x.rcd.base off
  else if x.rcd.kind = 1 then .tmem x.stack x.core (x.alloc + x.rcd.base + off)
  else if x.rcd.kind = 2 then .tmem x.stack x.rcd.core (x.rcd.base + off)
  else .peer x.rcd.peer x.rcd.base off

/-- The elements of a box, row by row. -/
def Box.elems (x : Box) : List (Nat × Nat) :=
  (List.range x.e1).flatMap fun v => (List.range x.e0).map fun u => (u, v)

/-- The distinct byte offsets of a box: each element's bytes in turn; a described box takes whole blocks (R325, R110). -/
def Box.offsets (x : Box) : List Nat :=
  if x.rcd.described then
    ((x.elems.map fun p => x.rcd.index (x.coords p.1 p.2) / blockElems x.rcd.format).dedup).flatMap fun k =>
      (List.range 64).map fun i => 64 * k + i
  else
    (x.elems.flatMap fun p => (List.range (elemBytes x.rcd.format)).map fun i => x.off p.1 p.2 + i).dedup

/-- The frames of the tensor a box holds bytes of (R138, R139). -/
def Box.frames (x : Box) : List (Nat × Nat) :=
  if x.rcd.kind = 0 then ((x.offsets.map fun o => o / 65536).dedup).map fun t => (x.rcd.base, t) else []

-- Writes at a home.

/-- A write empties the scope tag of its 64-byte lines (R158). -/
def State.clearTags (s : State) (addr n : Nat) : State :=
  { s with tags := s.tags.filter fun t => !(decide (t.line * 64 < addr + n) && decide (addr < t.line * 64 + 64)) }

/-- Those of some bytes that lie in boxes of an operation that a save keeps, by the number of the box (sources first) and the offset in
it; its own core's tile memory is saved with it. -/
def EngOp.keptNames (o : EngOp) (s : State) (addrs : List Nat) : List Nat :=
  ((o.srcA.toList ++ o.srcB.toList ++ o.dst.toList).zipIdx).flatMap fun x =>
    if x.1.rcd.kind = 1 || x.1.rcd.kind = 3 then []
    else (x.1.offsets.filter fun off => addrs.contains (s.addrOf (x.1.loc off))).map (2 ^ 64 * x.2 + ·)

/-- Bytes have been written while a block with kept operations is away (R335). -/
def State.taintKept (s : State) (addrs : List Nat) : State :=
  { s with blocks := s.blocks.map fun (b : Block) =>
      if b.savedOps.isEmpty then b
      else { b with savedOps := b.savedOps.map fun (o : EngOp) => { o with taint := o.taint ++ o.keptNames s addrs } } }

/-- Bytes an engine operation still holds (R129, R142, R153, R154, R335): a write to them by another party leaves undefined
result values.  `who` is the operation that writes, 0 for a warp. -/
def State.taint (s : State) (who : Nat) (addrs : List Nat) : State :=
  ({ s with ops := s.ops.map fun (o : EngOp) => if o.id == who then o else { o with taint := o.taint ++ addrs } }).taintKept addrs

/-- Bytes written at an address by a warp's store, atomic or a firmware write, for every observer at the home. -/
def State.writeHome (s : State) (addr : Nat) (bs : List Byte) : State :=
  (({ s with mem := s.mem.writeBytes addr bs }).clearTags addr bs.length).taint 0
    ((List.range bs.length).map (addr + ·))

/-- A store updates a matching line of the issuing core's L1 (R132). -/
def State.updateL1 (s : State) (core base off : Nat) (bs : List Byte) : State :=
  { s with l1 := s.l1.map fun x =>
      if x.core == core && x.base == base then
        { x with data := x.data.mapIdx fun i v =>
            let a := x.line * 128 + i
            if off ≤ a ∧ a < off + bs.length then bs.getD (a - off) v else v }
      else x }

/-- A saturating access counter rises (R137). -/
def State.countAccess (s : State) (base off stack : Nat) : State :=
  let tile := off / 65536
  match s.access.find? fun a => a.base == base && a.tile == tile && a.stack == stack with
  | some _ =>
    { s with access := s.access.map fun a =>
        if a.base == base && a.tile == tile && a.stack == stack then { a with count := min 65535 (a.count + 1) } else a }
  | none => { s with access := s.access ++ [{ base := base, tile := tile, stack := stack, count := 1 }] }

/-- A pin count raised or lowered (R138). -/
def State.pin (s : State) (up : Bool) (fs : List (Nat × Nat)) : State :=
  fs.foldl (fun s f => s.modTensor f.1 fun t =>
    { t with entries := t.entries.modify f.2 fun e => { e with pins := if up then e.pins + 1 else e.pins - 1 } }) s

end Sys2Proof.Machine
end

