-- ==== Sys2Proof/Machine/Submit.lean ====
section
/-! DEFINITION. Submission of an engine operation (R314, R315, R320, R321, R325 to R327): its boxes, and the checks of
R366 in their order. -/

namespace Sys2Proof.Machine

/-- M of a matrix field (R312). -/
def mRows (mf : Nat) : Nat := if mf = 0 then 64 else if mf = 1 then 128 else 256
/-- K of a pair (R313). -/
def pairK : MPair → Nat
  | .bf16 => 128
  | .bf16w4 => 512
  | .f8 => 256
  | .i8 => 256
  | .i8sat => 256
  | .f32 => 64
/-- Multiply-accumulates per cycle of a pair (R313). -/
def pairRate : MPair → Nat
  | .bf16 => 32768
  | .bf16w4 => 32768
  | .f8 => 65536
  | .i8 => 65536
  | .i8sat => 65536
  | .f32 => 8192
/-- The format code of a destination format (R99, R320). -/
def collFormat : CollOp → Nat
  | .sumF32 => 8
  | .sumBf16 => 7
  | .sumI32 => 9
  | .maxF32 => 8
  | .minF32 => 8

/-- What a submission asks of one box. -/
structure BoxNeed where
  x      : Nat
  e0     : Nat
  e1     : Nat
  kinds  : List Nat
  right  : Nat
  writes : Bool
  copy   : Bool
  fmtOk  : Bool
  cores  : List Nat
  deriving DecidableEq, Repr

/-- The route an access to a peer's record takes now (R202): its routing entry, and the lowest-numbered port of that which is up. -/
def State.routeTo (s : State) (r : Record) : Option Path :=
  if r.kind = 3 then
    (s.routes.find? fun x => x.peer == r.peer).bind fun x =>
      (s.portFor x.mask x.device).map fun p => { mask := x.mask, device := x.device, port := p }
  else none

/-- The box of a stream at position 0 (R314, R325), with the route it takes (R202). -/
def State.boxOf (s : State) (b : Block) (w : Warp) (x e0 e1 : Nat) : Option Box :=
  let a := w.xread x
  ((s.pool b)[a.rcd]?).map fun r =>
    { rcd := r, rec_ := a.rcd, stack := b.stack, core := w.core, alloc := ((b.allocOn w.core).getD default).base,
      c := a.c.map BitVec.toNat, e0 := e0, e1 := e1, route := s.routeTo r }

/-- The first failing check of a box, in the order of R366.  An empty box has no element to breach a later check. -/
def State.boxCheck (s : State) (b : Block) (x : Box) (n : BoxNeed) : Option Nat :=
  let r := x.rcd
  let c := fun k => x.c.getD k 0
  if !n.kinds.contains r.kind then some 0x27
  else if !r.right n.right then some 0x22
  else if r.meter != 0xFF && !b.rcd.meters.bitAt r.meter then some 0x25
  else if !n.fmtOk then some 0x28
  else if !n.cores.all fun k => (b.allocOn k).isSome then some 0x29
  else if x.e0 = 0 || x.e1 = 0 then none
  else if r.kind = 2 && !x.offsets.all fun o => s.ctxAlloc b.ctx b.stack r.core (r.base + o) 1 then some 0x29
  else if decide (r.e 0 < c 0 + x.e0) || decide (r.e 1 < c 1 + x.e1) || decide (r.e 2 ≤ c 2) ||
      decide (r.e 3 ≤ c 3) then some 0x20
  else if n.copy && !r.described && fmtBits r.format = 4 && (c 0 % 2 != 0 || x.e0 % 2 != 0) then some 0x21
  else if n.copy && r.described && (r.e 0 % blockElems r.format != 0 || c 0 % blockElems r.format != 0 ||
      x.e0 % blockElems r.format != 0) then some 0x21
  else if n.writes && r.kind = 0 && !x.frames.all fun f => (match s.entryOf f.1 (f.2 * 65536) with
      | some e => !e.resident || e.writable
      | none => true) then some 0x23
  else if n.writes && r.kind = 0 && x.offsets.any fun o => s.isStamped (s.tensorAddr r.base o) 1 then some 0x24
  else if r.kind = 3 && !s.peerUp r.peer then some 0x2B
  else none

/-- A submission: refused for a cause at a record and coordinates, or its boxes. -/
inductive Plan where
  | refused (cause rcd : Nat) (c0 c1 : Word32)
  | boxes (l : List Box)
  deriving DecidableEq, Repr

/-- The boxes checked one after another: the first failing box gives the record and the cause (R365). -/
def State.planBoxes (s : State) (b : Block) (w : Warp) : List BoxNeed → Plan
  | [] => .boxes []
  | n :: r =>
    let a := w.xread n.x
    match s.boxOf b w n.x n.e0 n.e1 with
    | none => .refused 0x26 a.rcd (a.c.getD 0 0) (a.c.getD 1 0)
    | some x =>
      match s.boxCheck b x n with
      | some cause => .refused cause a.rcd (a.c.getD 0 0) (a.c.getD 1 0)
      | none =>
        match s.planBoxes b w r with
        | .refused k i c0 c1 => .refused k i c0 c1
        | .boxes l => .boxes (x :: l)

/-- The record of a stream, if the pool holds one. -/
def State.recordOf (s : State) (b : Block) (w : Warp) (x : Nat) : Option Record := (s.pool b)[(w.xread x).rcd]?

/-- The cores a `cpym` mask names (R326). -/
def maskCores (w : Warp) (cmask : Nat) : List Nat :=
  ((List.range 8).filter fun i => cmask.bitAt i).map fun i => 8 * (w.core / 8) + i

/-- Source and destination agree: equal element sizes, both described or neither (R325). -/
def sameShape (a b : Option Record) : Bool :=
  match a, b with
  | some a, some b => fmtBits a.format == fmtBits b.format && a.described == b.described
  | _, _ => true

/-- A record has a format of a test and is undescribed. -/
def plainFmt (a : Option Record) (f : Nat → Bool) : Bool :=
  match a with
  | some r => !r.described && f r.format
  | none => true

/-- Formats of a width class that operand (pair, side) takes (R110, R113). -/
def operandFmt (p : MPair) (isB : Bool) (a : Option Record) : Bool :=
  match a with
  | some r =>
    if r.described then
      (List.range 10).any fun f => pairAccepts p isB f && fmtBits f == fmtBits r.format
    else pairAccepts p isB r.format
  | none => true

/-- What each engine operation of the T and C slots asks of its boxes. -/
def State.boxNeeds (s : State) (b : Block) (w : Warp) (i : Instr) : List BoxNeed :=
  let copyNeeds := fun (xd xs a : Nat) (kd ks : List Nat) (cores : List Nat) =>
    let e0 := (w.sread a).toNat % 2 ^ 32
    let e1 := (w.sread a).toNat / 2 ^ 32
    let ok := sameShape (s.recordOf b w xd) (s.recordOf b w xs)
    [{ x := xd, e0 := e0, e1 := e1, kinds := kd, right := 1, writes := true, copy := true, fmtOk := ok, cores := cores },
     { x := xs, e0 := e0, e1 := e1, kinds := ks, right := 0, writes := false, copy := true, fmtOk := ok,
       cores := [] : BoxNeed }]
  match i with
  | .mmac _ _ _ nf mf pair _ xa _ xb _ =>
    [{ x := xa, e0 := pairK pair, e1 := mRows mf, kinds := [0, 1, 2], right := 0, writes := false, copy := false,
       fmtOk := operandFmt pair false (s.recordOf b w xa), cores := [] },
     { x := xb, e0 := 16 * (nf + 1), e1 := pairK pair, kinds := [0, 1, 2], right := 0, writes := false, copy := false,
       fmtOk := operandFmt pair true (s.recordOf b w xb), cores := [] }]
  | .mstore _ _ _ nt mf fmt _ _ xd _ =>
    [{ x := xd, e0 := 16 * (nt + 1), e1 := mRows mf, kinds := [1], right := 1, writes := true, copy := false,
       fmtOk := plainFmt (s.recordOf b w xd) (· == fmt.code), cores := [] }]
  | .mload _ _ _ nt mf xs _ =>
    [{ x := xs, e0 := 16 * (nt + 1), e1 := mRows mf, kinds := [1], right := 0, writes := false, copy := false,
       fmtOk := plainFmt (s.recordOf b w xs) (fun f => f == 8 || f == 9), cores := [] }]
  | .cpy _ _ xd _ xs _ a => copyNeeds xd xs a [0, 1, 2, 3] [0, 1, 2, 3] []
  | .cpym _ _ xd _ xs _ a m => copyNeeds xd xs a [1] [0, 1, 2] (maskCores w m)
  | .coll _ _ xd _ xs _ a xr _ op =>
    let e0 := (w.sread a).toNat % 2 ^ 32
    let e1 := (w.sread a).toNat / 2 ^ 32
    let one := fun (x right : Nat) (writes : Bool) =>
      { x := x, e0 := e0, e1 := e1, kinds := [0, 1, 2, 3], right := right, writes := writes, copy := true,
        fmtOk := plainFmt (s.recordOf b w x) (· == collFormat op), cores := [] : BoxNeed }
    [one xd 1 true, one xs 0 false, one xr 0 false]
  | _ => []

/-- The plan of an engine operation. -/
def State.planOf (s : State) (b : Block) (w : Warp) (i : Instr) : Plan := s.planBoxes b w (s.boxNeeds b w i)

/-- A frame of a plan that is not resident (R127): base and tile. -/
def State.absentFrame (s : State) (l : List Box) : Option (Nat × Nat) :=
  (l.flatMap fun x => if x.e0 = 0 || x.e1 = 0 then [] else x.frames).find? fun f =>
    s.absent (.tensor f.1 (f.2 * 65536))

/-- The frames of a plan, each once. -/
def planFrames (l : List Box) : List (Nat × Nat) :=
  (l.flatMap fun x => if x.e0 = 0 || x.e1 = 0 then [] else x.frames).dedup

/-- The frames that `lines` lines of a tensor from line `first` on lie in (R133, R138). -/
def lineFrames (base first lines : Nat) : List (Nat × Nat) :=
  ((List.range lines).map fun i => (base, (first + i) / 512)).dedup

/-- The pins that are asked for, one for each time a frame is listed, take the count of some frame above 255 (R138). -/
def State.pinsFull (s : State) (fs : List (Nat × Nat)) : Bool :=
  fs.any fun f =>
    match s.entryOf f.1 (f.2 * 65536) with
    | some e => decide (255 < e.pins + fs.count f)
    | none => false

-- The kinds of engine operations (R316, R325, R331).

def EngKind.isMatrix : EngKind → Bool
  | .cpy => false
  | .cpym _ => false
  | .coll _ => false
  | .mstore _ _ _ _ _ _ => true
  | .mload _ _ _ => true
  | .mmac _ _ _ _ _ => true
  | .lblk _ _ _ => false
def EngKind.isMmac : EngKind → Bool
  | .cpy => false
  | .cpym _ => false
  | .coll _ => false
  | .mstore _ _ _ _ _ _ => false
  | .mload _ _ _ => false
  | .mmac _ _ _ _ _ => true
  | .lblk _ _ _ => false
def EngKind.isLblk : EngKind → Bool
  | .cpy => false
  | .cpym _ => false
  | .coll _ => false
  | .mstore _ _ _ _ _ _ => false
  | .mload _ _ _ => false
  | .mmac _ _ _ _ _ => false
  | .lblk _ _ _ => true
def EngKind.isCopy : EngKind → Bool
  | .cpy => true
  | .cpym _ => true
  | .coll _ => true
  | .mstore _ _ _ _ _ _ => false
  | .mload _ _ _ => false
  | .mmac _ _ _ _ _ => false
  | .lblk _ _ _ => false

end Sys2Proof.Machine
end

