-- ==== Sys2Proof/Machine/Access.lean ====
section
/-! DEFINITION. What an M operation asks of its record and where its lanes go (R290, R291, R297, R365, R366). -/

namespace Sys2Proof.Machine

/-- What an M operation asks of its record (R120, R294, R299, R303, R304, R307); `feset` and `feclr` ask for no right (log entry
123). -/
def needOf : Instr → Need
  | .ld _ _ _ _ fe clr _ _ =>
    { kinds := if fe || clr then [1] else [0, 1, 2, 3], rights := [0], writes := false, tierG := false, stampOk := true }
  | .ldg _ _ _ _ _ _ _ _ => { kinds := [0, 1, 2, 3], rights := [0], writes := false, tierG := false, stampOk := true }
  | .st _ _ _ _ _ => { kinds := [0, 1, 2, 3], rights := [1], writes := true, tierG := false, stampOk := false }
  | .stg _ _ _ _ _ _ _ => { kinds := [0, 1, 2, 3], rights := [1], writes := true, tierG := false, stampOk := false }
  | .lblk _ _ _ _ _ _ => { kinds := [0], rights := [0], writes := false, tierG := false, stampOk := true }
  | .atom _ _ _ _ _ _ _ _ _ _ => { kinds := [0, 3], rights := [2], writes := true, tierG := false, stampOk := false }
  | .stc _ _ _ _ _ _ => { kinds := [0], rights := [3], writes := false, tierG := true, stampOk := true }
  | .ldas _ _ _ _ _ _ _ _ => { kinds := [0], rights := [3], writes := false, tierG := true, stampOk := true }
  | _ => { kinds := [1], rights := [], writes := false, tierG := false, stampOk := true }

/-- The stream an M operation goes through. -/
def mStream : Instr → Option Nat
  | .ld _ _ x _ _ _ _ _ => some x
  | .st _ _ x _ _ => some x
  | .ldg _ _ x _ _ _ _ _ => some x
  | .stg _ _ x _ _ _ _ => some x
  | .lblk _ _ x _ _ _ => some x
  | .atom _ _ x _ _ _ _ _ _ _ => some x
  | .stc _ _ x _ _ _ => some x
  | .ldas _ _ x _ _ _ _ _ => some x
  | .feset _ x _ _ => some x
  | .feclr _ x _ _ => some x
  | _ => none

/-- The access width in bytes of an M operation (R292, R299, R303). -/
def mWidth : Instr → Nat
  | .ld _ _ _ w _ _ _ _ => w.size
  | .st _ _ _ w _ => w.size
  | .ldg _ _ _ w _ _ _ _ => w.size
  | .stg _ _ _ w _ _ _ => w.size
  | .atom _ _ _ _ ty _ _ _ _ _ => ty.width / 8
  | .stc _ _ _ pair _ _ => if pair then 128 else 64
  | .ldas _ _ _ w _ _ _ _ => w.size
  | .feset _ _ w _ => w.size
  | .feclr _ _ w _ => w.size
  | _ => 1

/-- The alignment an access needs: min(W, 16) for lanes, its own size for a commit (R125, R303). -/
def mAlign (i : Instr) : Nat :=
  match i with
  | .stc _ _ _ pair _ _ => if pair then 128 else 64
  | .lblk _ _ _ _ _ _ => 1
  | _ => min (mWidth i) 16

/-- The coordinates lane `l` forms (R291, R297); a warp-level operation takes those of position 0. -/
def mCoords (p : Pitch) (c : Issue) (w : Warp) (i : Instr) (l : Nat) : List Nat :=
  match i with
  | .ldg _ _ x _ g _ _ v => gatherCoords (w.xread x) g ((v.lanes p c w).getD l 0) l
  | .stg _ _ x _ g _ v => gatherCoords (w.xread x) g ((v.lanes p c w).getD l 0) l
  | .ld _ _ x _ _ _ _ _ => laneCoords (w.xread x) l
  | .st _ _ x _ _ => laneCoords (w.xread x) l
  | .atom _ _ x _ _ _ _ _ _ _ => laneCoords (w.xread x) l
  | .ldas _ _ x _ _ _ _ _ => laneCoords (w.xread x) l
  | .feset _ x _ _ => laneCoords (w.xread x) l
  | .feclr _ x _ _ => laneCoords (w.xread x) l
  | .lblk _ _ x _ _ _ => laneCoords (w.xread x) 0
  | .stc _ _ x _ _ _ => laneCoords (w.xread x) 0
  | _ => [0, 0, 0, 0]

/-- One lane's attempt: its coordinates, and where it goes or the cause it is parked for. -/
structure Try where
  lane   : Nat
  coords : List Nat
  res    : Except Nat Loc

/-- The attempts of the lanes that take part, ascending. -/
def State.tries (s : State) (c : Issue) (b : Block) (w : Warp) (i : Instr) (m : Mask) : List Try :=
  let p := s.pitch (coreId b w) w.pitch
  match mStream i with
  | none => []
  | some x =>
    (lanesOf m).map fun l =>
      let k := mCoords p c w i l
      { lane := l, coords := k, res := s.check b w (needOf i) (w.xread x).rcd k (mWidth i) (mAlign i) }

/-- The lanes that passed, with their locations. -/
def goodTries (l : List Try) : List (Nat × Loc) :=
  l.filterMap fun t => match t.res with
    | .ok loc => some (t.lane, loc)
    | .error _ => none

/-- The fault records of the lanes that did not (R365). -/
def badTries (c : Issue) (rcd slot : Nat) (l : List Try) : List LaneRec :=
  l.filterMap fun t => match t.res with
    | .ok _ => none
    | .error cause => some { lane := t.lane, cause := cause, slot := slot, rcd := rcd, offset := c.tok,
                             c0 := BitVec.ofNat 32 (t.coords.getD 0 0), c1 := BitVec.ofNat 32 (t.coords.getD 1 0) }

/-- The 128-byte lines of accesses (R141). -/
def lineOf : Loc → Nat × Nat × Nat
  | .tmem k c off => (0, 32 * k + c, off / 128)
  | .tensor base off => (1, base, off / 128)
  | .peer p base off => (2 + p, base, off / 128)

/-- Requests of lanes that touch lines. -/
def linesTouched (l : List (Loc × Nat)) : Nat :=
  ((l.flatMap fun a => (List.range ((a.2 + 255) / 128)).filterMap fun k =>
      let n := min (128 * k) (a.2 - 1)
      some (match a.1 with
        | .tmem s c off => lineOf (.tmem s c (off + n))
        | .tensor base off => lineOf (.tensor base (off + n))
        | .peer p base off => lineOf (.peer p base (off + n)))).dedup).length

/-- Requests of a request still outstanding (R141). -/
def Req.cost (r : Req) : Nat :=
  match r.kind with
  | .load _ _ _ => linesTouched (r.lanes.map fun a => (a.loc, a.bytes))
  | .store => linesTouched (r.lanes.map fun a => (a.loc, a.bytes))
  | .atom _ _ _ _ _ => r.lanes.length
  | .ldas _ _ _ _ _ _ => r.lanes.length
  | .qput _ _ _ => 1
  | .qget _ _ _ => 1

/-- Lines an unfinished load-block still waits for (R141). -/
def EngOp.lblkLines (o : EngOp) : Nat :=
  match o.kind with
  | .lblk _ _ n => n
  | .cpy => 0
  | .cpym _ => 0
  | .coll _ => 0
  | .mstore _ _ _ _ _ _ => 0
  | .mload _ _ _ => 0
  | .mmac _ _ _ _ _ => 0

/-- Requests of loads through local windows whose data has not returned in cycle `t` (R141, R297). -/
def Warp.gathering (w : Warp) (t : Nat) : Nat := ((w.gathers.filter fun g => decide (t < g.1)).map (·.2)).sum

/-- The requests outstanding on a core in cycle `t` of its cluster (R141): a commit from its issue until it is visible, even when its
block has ended before, but for the time in which a save keeps one not accepted. -/
def State.outstanding (s : State) (core t : Nat) : Nat :=
  ((s.blocks.flatMap fun b => (b.warps.filter fun w => coreId b w == core).map fun w => w.gathering t).sum) +
  ((s.reqs.filter fun r => 32 * r.stack + r.core == core).map Req.cost).sum +
  ((s.ops.filter fun o => 32 * o.stack + o.core == core).map EngOp.lblkLines).sum +
  (s.commits.filter fun k => k.core == core &&
    (k.stamp.isSome || s.blocks.any fun b => b.bid == k.block && b.status == .placed)).length

/-- The engine operations with their guards (R141). -/
def engineGuard : Instr → Option Guard
  | .mmac g _ _ _ _ _ _ _ _ _ _ => some g
  | .mstore g _ _ _ _ _ _ _ _ _ => some g
  | .mload g _ _ _ _ _ _ => some g
  | .cpy g _ _ _ _ _ _ => some g
  | .cpym g _ _ _ _ _ _ _ => some g
  | .coll g _ _ _ _ _ _ _ _ _ => some g
  | _ => none

/-- An engine operation that is submitted: its guard holds. -/
def submits (w : Warp) (i : Instr) : Bool :=
  match engineGuard i with
  | some g => qGuard w g
  | none => false

/-- The requests a word's own slots would add (R141).  An engine submission adds one, until it is accepted at its issue. -/
def State.ownRequests (s : State) (c : Issue) (b : Block) (w : Warp) : Instr → Nat
  | .ld g d x wd fe clr inc sx =>
    let i := Instr.ld g d x wd fe clr inc sx
    linesTouched (((goodTries (s.tries c b w i (takers c w g))).filter fun _ =>
      (match s.recordOf b w x with
        | some r => r.kind != 1
        | none => false)).map fun a => (a.2, mWidth i))
  | .ldg g d x wd gd inc sx v =>
    let i := Instr.ldg g d x wd gd inc sx v
    linesTouched ((goodTries (s.tries c b w i (takers c w g))).map fun a => (a.2, mWidth i))
  | .st g a x wd inc =>
    let i := Instr.st g a x wd inc
    linesTouched (((goodTries (s.tries c b w i (takers c w g))).filter fun _ =>
      (match s.recordOf b w x with
        | some r => r.kind != 1
        | none => false)).map fun a => (a.2, mWidth i))
  | .stg g a x wd gd inc v =>
    let i := Instr.stg g a x wd gd inc v
    linesTouched (((goodTries (s.tries c b w i (takers c w g))).filter fun _ =>
      (match s.recordOf b w x with
        | some r => r.kind != 1
        | none => false)).map fun a => (a.2, mWidth i))
  | .atom g d x op ty order scope inc a v =>
    (goodTries (s.tries c b w (.atom g d x op ty order scope inc a v) (takers c w g))).length
  | .ldas g d x wd t inc sx pd => (goodTries (s.tries c b w (.ldas g d x wd t inc sx pd) (takers c w g))).length
  | .stc g _ _ _ _ _ => if takers c w g = 0 then 0 else 1
  | .qput g _ _ _ => if takers c w g = 0 then 0 else 1
  | .qget g _ _ _ => if takers c w g = 0 then 0 else 1
  | .lblk g _ _ n _ _ => if takers c w g = 0 then 0 else n + 1
  | .mspill g n => if qGuard w g then n else 0
  | .mfill g n => if qGuard w g then n else 0
  | i => if submits w i then 1 else 0

/-- A location `n` bytes further. -/
def Loc.plus : Loc → Nat → Loc
  | .tmem k c off, n => .tmem k c (off + n)
  | .tensor base off, n => .tensor base (off + n)
  | .peer p base off, n => .peer p base (off + n)

/-- Two accesses share a byte. -/
def Loc.overlaps (a : Loc) (n : Nat) (b : Loc) (m : Nat) : Bool :=
  match a, b with
  | .tmem k c o, .tmem k' c' o' => k == k' && c == c' && decide (o < o' + m) && decide (o' < o + n)
  | .tensor t o, .tensor t' o' => t == t' && decide (o < o' + m) && decide (o' < o + n)
  | .peer p t o, .peer p' t' o' => p == p' && t == t' && decide (o < o' + m) && decide (o' < o + n)
  | _, _ => false

/-- A taken queue entry acquires at package scope (R156): later accesses of the warp wait for its reply. -/
def ReqKind.isGet : ReqKind → Bool
  | .qget _ _ _ => true
  | .load _ _ _ => false
  | .store => false
  | .atom _ _ _ _ _ => false
  | .ldas _ _ _ _ _ _ => false
  | .qput _ _ _ => false

/-- A stage put (R156). -/
def ReqKind.isPut : ReqKind → Bool
  | .qput _ _ _ => true
  | .load _ _ _ => false
  | .store => false
  | .atom _ _ _ _ _ => false
  | .ldas _ _ _ _ _ _ => false
  | .qget _ _ _ => false

/-- An atomic, whose lanes perform in ascending position (R300). -/
def ReqKind.isAtom : ReqKind → Bool
  | .atom _ _ _ _ _ => true
  | .load _ _ _ => false
  | .store => false
  | .ldas _ _ _ _ _ _ => false
  | .qput _ _ _ => false
  | .qget _ _ _ => false

/-- A load (R163). -/
def ReqKind.isLoad : ReqKind → Bool
  | .load _ _ _ => true
  | .store => false
  | .atom _ _ _ _ _ => false
  | .ldas _ _ _ _ _ _ => true
  | .qput _ _ _ => false
  | .qget _ _ _ => false

/-- A `qput` of a warp awaits its reply: a release that has not performed (R156). -/
def State.putWaits (s : State) (bid wn : Nat) : Bool :=
  s.reqs.any fun q => q.block == bid && q.warp == wn && q.kind.isPut

/-- A warp waits for the reply of a `qget` (R156). -/
def State.getWaits (s : State) (bid wn : Nat) : Bool :=
  s.reqs.any fun q => q.block == bid && q.warp == wn && q.kind.isGet

/-- A `qget` of a warp numbered below `id` awaits its reply (R156). -/
def State.getBefore (s : State) (bid wn id : Nat) : Bool :=
  s.reqs.any fun q => q.block == bid && q.warp == wn && decide (q.id < id) && q.kind.isGet

/-- A load-block of a warp numbered below `id` is still being filled; it is a load (R163). -/
def State.lblkBefore (s : State) (bid wn id : Nat) : Bool :=
  s.ops.any fun q => q.block == bid && q.warp == wn && decide (q.id < id) && (match q.kind with
    | .lblk _ _ _ => true
    | .cpy => false
    | .cpym _ => false
    | .coll _ => false
    | .mstore _ _ _ _ _ _ => false
    | .mload _ _ _ => false
    | .mmac _ _ _ _ _ => false)

/-- Earlier loads, stores and atomics of the same warp to overlapping bytes perform first (R143, R295), and an earlier `qget` replies
first (R156). -/
def State.behind (s : State) (r : Req) (a : LaneAcc) : Bool :=
  s.reqs.any fun q => q.block == r.block && q.warp == r.warp && decide (q.id < r.id) &&
    (q.kind.isGet || q.lanes.any fun k => k.loc.overlaps k.bytes a.loc a.bytes)

/-- Besides, the lower lanes of the same access to overlapping bytes perform before the higher (R295), those of an atomic whatever they
touch (R300). -/
def State.blocked (s : State) (r : Req) (a : LaneAcc) : Bool :=
  s.behind r a || s.reqs.any fun q => q.id == r.id &&
    q.lanes.any fun k => decide (k.lane < a.lane) && (q.kind.isAtom || k.loc.overlaps k.bytes a.loc a.bytes)

-- What engine operations hold.

/-- The boxes an engine operation writes: one, or one in each core of its block that a `cpym` names (R326). -/
def EngOp.dests (s : State) (o : EngOp) : List Box :=
  match o.dst with
  | none => []
  | some x =>
    match o.kind, s.block? o.block with
    | .cpym mask, some b =>
      ((List.range 8).filter fun i => mask.bitAt i).filterMap fun i =>
        let core := 8 * (o.core / 8) + i
        (b.allocOn core).map fun a => { x with core := core, alloc := a.base }
    | _, _ => [x]

/-- The addresses on this module of a box's bytes. -/
def State.boxAddrs (s : State) (x : Box) : List Nat :=
  if x.rcd.kind = 3 || x.e0 = 0 || x.e1 = 0 then [] else x.offsets.map fun o => s.addrOf (x.loc o)

/-- An address of tile memory. -/
def inTmem (a : Nat) : Bool := a / regionSize == 1

/-- The granules of tile memory that addresses touch. -/
def addrGranules (as : List Nat) : List Nat :=
  ((as.filter inTmem).map fun a => (a - regionSize) / 16).dedup

/-- A byte as it stood before the stores of the word in issue (R142). -/
def oldByte (stores : List (Nat × Byte)) (m : Memory) (a : Nat) : Byte :=
  match stores.find? fun x => x.1 == a with
  | some x => x.2
  | none => m.read a

/-- The bytes that an outstanding engine operation will write, and, once a store has gone to a granule of its destination, the rest of
that granule (R129). -/
def State.opHot (s : State) (o : EngOp) : List Nat :=
  let as := (o.dests s).flatMap s.boxAddrs
  let gs := addrGranules as
  as ++ ((addrGranules (o.taint ++ o.own)).filter gs.contains).flatMap fun g =>
    (List.range 16).map fun i => regionSize + 16 * g + i

/-- The bytes that outstanding engine operations concern so.  The read numbered `id` of warp `who` is not concerned by an operation
that the warp issued after it, which writes only when the read has performed (R153). -/
def State.hotBytes (s : State) (who : Option (Nat × Nat)) (id : Nat) : List Nat :=
  (s.ops.filter fun o => !(who == some (o.block, o.warp) && decide (id < o.id))).flatMap s.opHot

/-- Bytes from an address on as the read numbered `id` of a warp gets them: those that an outstanding engine operation writes are
undefined (R129, R153), wherever the read takes them from. -/
def State.fog (s : State) (who : Option (Nat × Nat)) (id addr : Nat) (bs : List Byte) : List Byte × State :=
  let hot := s.hotBytes who id
  (bs.mapIdx fun i v => if hot.contains (addr + i) then Config.freeByte (s.freeCtr + i) else v,
   if (List.range bs.length).any fun i => hot.contains (addr + i) then { s with freeCtr := s.freeCtr + bs.length } else s)

/-- Bytes read at an address: those of the word's own stores as they were before (R142). -/
def State.lookup (s : State) (who : Option (Nat × Nat)) (id : Nat) (stores : List (Nat × Byte)) (addr n : Nat) :
    List Byte × State :=
  s.fog who id addr ((List.range n).map fun i => oldByte stores s.mem (addr + i))

/-- Requests of an operation are with a peer. -/
def State.peerPending (s : State) (id : Nat) : Bool :=
  s.peerReqs.any fun q => match q.who with
    | .engine op _ _ _ => op == id
    | .lane _ _ => false
    | .drain _ _ _ => false

/-- A copy of a request's own word has yet to read bytes of a lane, which it reads as they are before the word's stores (R142). -/
def State.ownReads (s : State) (r : Req) (a : LaneAcc) : Bool :=
  s.ops.any fun o => o.block == r.block && o.warp == r.warp && o.word == r.word && o.kind.isCopy &&
    (o.st == .queued || (o.st == .started && s.peerPending o.id)) &&
    (o.srcA.toList ++ o.srcB.toList).any fun x => x.offsets.any fun off => (x.loc off).overlaps 1 a.loc a.bytes

end Sys2Proof.Machine
end

