-- ==== Sys2Proof/Machine/Stream.lean ====
section
/-! DEFINITION. The index stream and the pitch: tokens and their traps (R67 to R74), the word a warp issues next, the stalls
of R54, the traps decided at issue (R58, R352), the readiness and the choice of R26, and what ends a word. -/

namespace Sys2Proof.Machine

-- Streams and dictionaries.

/-- The dictionary, the stream and the dictionary size a warp runs (R68, R83); `unit` is 8 for the handler section. -/
structure Code where
  dict  : List Entry
  bytes : List Byte
  dsize : Nat
  unit  : Nat
  deriving DecidableEq, Repr, Inhabited

def State.code (s : State) (b : Block) (w : Warp) : Code :=
  match s.image? b.ctx b.image with
  | none => { dict := [], bytes := [], dsize := 0, unit := 0 }
  | some im =>
    if w.handler then
      match im.handler with
      | some h => { dict := h.dict, bytes := h.code, dsize := h.dict.length, unit := 8 }
      | none => { dict := [], bytes := [], dsize := 0, unit := 8 }
    else
      match im.units.find? fun u => u.unit == b.rcd.unit with
      | some u => { dict := u.dict, bytes := u.code, dsize := b.rcd.dsize, unit := u.unit }
      | none => { dict := [], bytes := [], dsize := 0, unit := 0 }

/-- The hole widths of an entry, as the sequencer takes them from the stream (R68). -/
def Code.widths (k : Code) (e : Nat) : List Nat := if e < k.dsize then holeWidths (k.dict.getD e default).md else []

/-- A hole's value extended from its width to 64 bits (R48, R61). -/
def extendHole (bytes v : Nat) : Word64 := (BitVec.ofNat (8 * bytes) v).signExtend 64

/-- The key of a group or line of a context's dictionary or stream copy (R62, R75). -/
def fetchKey (b : Block) (unit n : Nat) : Nat := ((b.image * 64 + b.ctx) * 16 + unit) * 2 ^ 32 + n
/-- The context a key belongs to. -/
def keyCtx (key : Nat) : Nat := key / 2 ^ 36 % 64
def State.hasLine (s : State) (b : Block) (w : Warp) (unit line : Nat) : Bool :=
  s.lines.contains (coreId b w, fetchKey b unit line)
def State.hasGroup (s : State) (b : Block) (w : Warp) (unit g : Nat) : Bool :=
  s.decoded.contains (coreId b w, fetchKey b unit g)

/-- The frame of a block's stream copy that holds a line is out of residence (R77, R370). -/
def State.lineOut (s : State) (b : Block) (unit line : Nat) : Bool := s.out.contains (b.ctx, b.image, unit, b.stack, line / 512)

/-- A prefetch hint for `n` lines from the one that holds byte `off` on (R73): lines outside the stream or out of residence are
dropped, the others come into the stream cache after what is needed. -/
def State.hintLines (s : State) (b : Block) (w : Warp) (off : Int) (n : Nat) : State :=
  let k := s.code b w
  let want := (List.range n).filterMap fun i =>
    let line := off / 128 + i
    let key := (coreId b w, fetchKey b k.unit line.toNat)
    if line < 0 || decide (k.bytes.length ≤ 128 * line.toNat) || s.lineOut b k.unit line.toNat ||
        s.lines.contains key || s.hints.contains key then none else some key
  { s with hints := s.hints ++ want }

-- Tokens.

/-- The body's start of a loop token at `pc` (R70). -/
def loopStart (pc c : Nat) : Nat := pc + (if c < 64 then 4 else 6)

/-- A token of `len` bytes at `pc` crosses the end of the innermost body it begins in (R71 bound 4). -/
def crosses (loops : List LoopLevel) (pc len : Nat) : Bool :=
  match loops.getLast? with
  | some v => decide (v.start ≤ pc) && decide (pc < v.start + v.len) && decide (v.start + v.len < pc + len)
  | none => false

/-- The stream-class trap of a token of `n` bytes (R74), with the stream length, the dictionary size and the loop stack. -/
def tokenTrap (k : Code) (w : Warp) (loops : List LoopLevel) (pc n : Nat) : Instr → Option Nat
  | .unassignedToken _ => some 0x10
  | .shortIndex e _ => if k.dsize ≤ e then some 0x11 else if crosses loops pc n then some 0x16 else none
  | .longIndex e _ => if k.dsize ≤ e then some 0x11 else if crosses loops pc n then some 0x16 else none
  | .loop c imm len =>
    let start := loopStart pc c
    let count := if c < 64 then (low32 (w.sread c)).toNat else imm
    if 64 ≤ c && c != 0xFF then some 0x14
    else if crosses loops pc n then some 0x16
    else if len = 0 || decide (k.bytes.length < start + len) || (match loops.getLast? with
        | some v => decide (v.start + v.len < start + len)
        | none => false) then some 0x15
    else if count != 0 && loops.length = 6 then some 0x17
    else none
  | _ => if crosses loops pc n then some 0x16 else none

/-- The loop stack and PC after a loop token (R70), before end-of-token processing. -/
def loopPush (w : Warp) (loops : List LoopLevel) (pc c imm len : Nat) : List LoopLevel × Nat :=
  let start := loopStart pc c
  let count := if c < 64 then (low32 (w.sread c)).toNat else imm
  if count = 0 then (loops, start + len)
  else (loops ++ [{ start := start, len := len, count := count, index := 0 }], start)

/-- What stands next in a warp's stream. -/
inductive Peek where
  | fetch
  | far
  | trap (regs : List RName)
  | word (entry : Option Nat) (holes : List Nat) (regs : List RName) (tok next : Nat)
  deriving DecidableEq, Repr

/-- The next word-issuing token, past loop and prefetch tokens (R67); it changes nothing.  A word is first held by its stalls
and only then can it trap (R352), so the look-ahead goes on past a loop or prefetch token that will trap. -/
def peekGo (k : Code) (has : Nat → Bool) (w : Warp) : Nat → Nat → List LoopLevel → List RName → Peek
  | 0, _, _, _ => .far
  | fuel + 1, pc, loops, regs =>
    if k.bytes.length ≤ pc then .trap regs
    else if !has (pc / 128) then .fetch
    else
      match decodeToken k.widths (k.bytes.drop pc) with
      | none => .trap regs
      | some (i, n) =>
        if !has ((pc + n - 1) / 128) then .fetch
        else
          match i with
          | .loop c imm len =>
            let regs := if c < 64 then .s c :: regs else regs
            if c < 64 && w.pend.any fun p => p.reg == .s c then .trap regs
            else if (tokenTrap k w loops pc n i).isSome then peekGo k has w fuel (pc + n) loops regs
            else
              let r := loopPush w loops pc c imm len
              let q := endToken r.1 r.2
              peekGo k has w fuel q.2.1 q.1 regs
          | .ipf _ _ =>
            if (tokenTrap k w loops pc n i).isSome then peekGo k has w fuel (pc + n) loops regs
            else
              let q := endToken loops (pc + n)
              peekGo k has w fuel q.2.1 q.1 regs
          | .shortIndex e hs => if k.dsize ≤ e then .trap regs else .word (some e) hs regs pc (pc + n)
          | .longIndex e hs => if k.dsize ≤ e then .trap regs else .word (some e) hs regs pc (pc + n)
          | .idle _ => .word none [] regs pc (pc + n)
          | _ => .trap regs

/-- Tokens the look-ahead follows: more than six nested loops of 2^32 iterations over a stream of 2^32 bytes hold (log entry 12). -/
def peekFuel : Nat := 2 ^ 255

def State.peek (s : State) (b : Block) (w : Warp) : Peek :=
  let k := s.code b w
  if w.idle ≠ 0 then .word none [] [] w.pc (w.pc + 2)
  else peekGo k (s.hasLine b w k.unit) w peekFuel w.pc w.loops []

/-- The issue record of a word of a warp (R56 step 3). -/
def mkIssue (s : State) (b : Block) (w : Warp) (word : Nat) (holes : List Word64) (tok next cycle : Nat) : Issue :=
  { block := b.bid, warp := w.num, word := word, holes := holes, slots := [], cur := .S,
    lanes := if w.handler then w.active else w.active &&& ~~~w.parked,
    tok := tok, next := next, cycle := cycle, uid := s.uid, stores := [], handles := [], newMask := none,
    trapped := false, clear := false, hret := none }

/-- The word of an entry with its holes extended. -/
def Code.issueOf (k : Code) (s : State) (b : Block) (w : Warp) (e : Nat) (hs : List Nat) (tok next cycle : Nat) : Issue :=
  mkIssue s b w (k.dict.getD e default).word ((k.widths e).zipWith extendHole hs) tok next cycle

-- Stalls (R54), as the reason codes of R398.

/-- The stack whose controller keeps a tensor's line (R159). -/
def State.homeStack (s : State) (base off : Nat) : Nat :=
  match s.entryOf base off with
  | some e => e.die
  | none => 0

/-- The T of an `ldas` lies too far ahead to be waited for: beyond the latest it was issued at by more than 1,000,000 ns (R161). -/
def ldasLate (t latest : Nat) : Bool := decide (latest + 1000000 < t)

/-- An `ldas` waits at a home until every die's earliest exceeds its T (R161). -/
def State.intervalWait (s : State) (r : Req) : Bool :=
  match r.kind with
  | .ldas _ _ _ _ t latest => !ldasLate t latest && r.lanes.any fun a => (match a.loc with
    | .tensor base off => !s.allAbove (s.homeStack base off) t
    | .tmem _ _ _ => false
    | .peer _ _ _ => false)
  | .load _ _ _ => false
  | .store => false
  | .atom _ _ _ _ _ => false
  | .qput _ _ _ => false
  | .qget _ _ _ => false

/-- A register named by a word is pending (R54 condition 1): 22 while Rainfly has not replied, 23 in the interval wait of an `ldas`,
else 7. -/
def State.pendStall (s : State) (w : Warp) (r : RName) : List Nat :=
  (w.pend.filter fun p => match r with
    | .v n => p.reg == .v n
    | .s n => p.reg == .s n
    | .p n => p.reg == .p n
    | .q n => p.reg == .q n
    | .b _ => false
    | .h n => p.reg == .h n
    | .x _ => false
    | .tile _ => false).map fun p =>
      if s.rainfly.readers.any (fun m => m.id == p.req) || s.rainfly.asks.any (fun m => m.id == p.req) then 22
      else if s.reqs.any fun q => q.id == p.req && s.intervalWait q then 23
      else 7

/-- A busy bit of a physical tile that stands in cycle `t` (R317). -/
def BusyTile.on (x : BusyTile) (core t cycle : Nat) : Bool :=
  x.core == core && x.tile == t && (x.until_ == 0 || decide (cycle < x.until_))

/-- The physical tiles of a range of a block on a core (R311). -/
def Block.tiles (b : Block) (core acc n : Nat) : List Nat :=
  match b.allocOn core with
  | some a => (List.range (n + 1)).filterMap fun i => a.tiles[acc + i]?
  | none => []

/-- Condition 2 of R54 for a T operation (R317). -/
def State.tileStall (s : State) (b : Block) (w : Warp) (cycle : Nat) (i : Instr) : Bool :=
  let core := coreId b w
  let test := fun (ts : List Nat) (f : BusyTile → Bool) =>
    ts.any fun t => s.busy.any fun x => x.on core t cycle && f x
  match i with
  | .mmac _ _ acc nf _ _ _ _ _ _ _ => test (b.tiles w.core acc nf) fun x => !x.write || !x.mmac
  | .mzero _ acc nt => test (b.tiles w.core acc nt) fun _ => true
  | .mstore _ _ acc nt _ _ _ _ _ _ => test (b.tiles w.core acc nt) fun x => x.write
  | .mload _ _ acc nt _ _ _ => test (b.tiles w.core acc nt) fun _ => true
  | _ => false

/-- An operation that allocates a handle, with its guard holding (R323). -/
def allocates (c : Issue) (w : Warp) : Instr → Bool
  | .lblk g _ _ _ _ _ => takers c w g != 0
  | .stc g _ _ _ _ _ => takers c w g != 0
  | .mtck g _ _ => qGuard w g
  | .mmac g _ _ _ _ _ _ _ _ _ _ => qGuard w g
  | .mstore g _ _ _ _ _ _ _ _ _ => qGuard w g
  | .mload g _ _ _ _ _ _ => qGuard w g
  | .cpy g _ _ _ _ _ _ => qGuard w g
  | .cpym g _ _ _ _ _ _ _ => qGuard w g
  | .coll g _ _ _ _ _ _ _ _ _ => qGuard w g
  | _ => false

/-- The next `n` slots of the ring hold no unresolved operation (R323). -/
def Block.ringRoom (b : Block) (n : Nat) : Bool :=
  (List.range n).all fun k => b.ring.all fun r => r.slot != (b.ringNext + k) % 256 || r.resolved

/-- The frames of a tensor, here or on a peer, that the clipped box of a `probe` holds bytes of (R302): base and tiles; none when the
box begins at or past an extent (log entry 132). -/
def State.probeTiles (s : State) (b : Block) (w : Warp) (x a : Nat) : List (Nat × Nat) :=
  match s.recordOf b w x with
  | none => []
  | some r =>
    if r.kind == 1 || r.kind == 2 then []
    else
      let st := w.xread x
      let lo := fun k => (st.c.getD k 0).toNat
      let n := fun k => min (max 1 ((w.sread a).toNat.field (16 * k) 16)) (r.e k - lo k)
      let offs := (List.range (n 3)).flatMap fun d => (List.range (n 2)).flatMap fun c =>
        (List.range (n 1)).flatMap fun v => (List.range (n 0)).flatMap fun u =>
          let o := r.byteOf (r.index [lo 0 + u, lo 1 + v, lo 2 + c, lo 3 + d])
          [o / 65536, (o + elemBytes r.format - 1) / 65536]
      (offs.dedup).map fun t => (r.base, t)

/-- A probe's record names a peer's tensor. -/
def State.probesPeer (s : State) (b : Block) (w : Warp) (x : Nat) : Bool :=
  match s.recordOf b w x with
  | some r => r.kind == 3
  | none => false

/-- The frames a `probe` box covers in a kind-0 record (R302). -/
def State.probeFrames (s : State) (b : Block) (w : Warp) (x a : Nat) : List (Nat × Nat) :=
  if s.probesPeer b w x then [] else s.probeTiles b w x a

/-- The frames of a probe that are not resident. -/
def State.probeMissing (s : State) (fs : List (Nat × Nat)) : List (Nat × Nat) :=
  fs.filter fun f => s.absent (.tensor f.1 (f.2 * 65536))

/-- A probe's box is not settled: a frame is missing, or a peer that holds frames of it has not answered (R139, R302). -/
def State.probeWaits (s : State) (b : Block) (w : Warp) (x a : Nat) : Bool :=
  w.probeIn.isNone && !w.probeBad && (s.probeMissing (s.probeFrames b w x a) != [] ||
    (s.probesPeer b w x && s.probeTiles b w x a != []))

/-- L1 lines of a core that load-blocks hold, filled or reserved, once block `bid` has declared `tag` anew: its earlier
load-block of the tag and fills whose load-block is gone hold none (R133, R298). -/
def State.lblkHeld (s : State) (core bid tag : Nat) : Nat :=
  (s.l1.filter fun x => x.core == core && (match x.tag with
    | some t => t != (bid, tag)
    | none => false)).length +
  ((s.ops.filter fun o => 32 * o.stack + o.core == core && !o.doneRd && (match o.kind with
    | .lblk tg _ _ => !(o.block == bid && tg == tag)
    | _ => false)).map EngOp.lblkLines).sum

/-- The frames a word's operation would pin (R138): those of an engine operation that is accepted, of a load-block in range. -/
def State.pinsOf (s : State) (c : Issue) (b : Block) (w : Warp) (i : Instr) : List (Nat × Nat) :=
  match i with
  | .lblk g h x n tag inc =>
    (match (s.tries c b w (.lblk g h x n tag inc) (takers c w g)).head?, s.recordOf b w x with
      | some t, some r =>
        (match t.res with
          | .ok (.tensor base off) =>
            if r.size < 128 * (off / 128 + n + 1) then [] else lineFrames base (off / 128) (n + 1)
          | _ => [])
      | _, _ => [])
  | _ =>
    if submits w i then
      match s.planOf b w i with
      | .refused _ _ _ _ => []
      | .boxes l => planFrames l
    else []

/-- An operation whose access acts at its issue, on the core's own tile memory. -/
def State.actsAtIssue (s : State) (b : Block) (w : Warp) (i : Instr) : Bool :=
  match mStream i with
  | some x => (match s.recordOf b w x with
    | some r => r.kind == 1
    | none => false)
  | none => false

/-- A load-block with a lane that takes part (R298). -/
def fills (c : Issue) (w : Warp) : Instr → Bool
  | .lblk g _ _ _ _ _ => takers c w g != 0
  | _ => false

/-- The stall of a full matrix queue (R54, R315) and of a full copy queue (R324) of a core. -/
def State.matrixFull (s : State) (core : Nat) : List Nat :=
  if 4 ≤ (s.ops.filter fun o => 32 * o.stack + o.core == core && o.kind.isMatrix).length then [13] else []
def State.copyFull (s : State) (core : Nat) : List Nat :=
  if 16 ≤ (s.ops.filter fun o => 32 * o.stack + o.core == core && o.kind.isCopy).length then [14] else []

/-- The stalls one operation of a word adds (R54 conditions 1, 2, 3 and 5; R129, R133, R302, R260).  An access that a warp makes
at its issue, and an engine operation, are held while a `qget` of it awaits its reply, which may be an acquire (R156, log entry 87); an
operation with a handle of its own, while a `qput` of it has not performed: what such an operation brings about follows the release, and
with it the counts of the warp's loads before that (R152, R346). -/
def State.opStalls (s : State) (c : Issue) (b : Block) (w : Warp) (i : Instr) : List Nat :=
  let core := coreId b w
  (i.reads ++ i.writes ++ i.guardName).flatMap (s.pendStall w) ++
  (if s.tileStall b w c.cycle i then [8] else []) ++
  (if i.writes.any (fun r => match r with
      | .h n => b.unresolved (w.hread n)
      | _ => false) || i.awaits.any (fun n => b.unresolved (w.hread n)) then [9] else []) ++
  (match i with
    | .ld g d x wd fe clr inc sx =>
      if fe && (goodTries (s.tries c b w (.ld g d x wd fe clr inc sx) (takers c w g))).any fun a =>
          (match a.2 with
            | .tmem k cr off => (granules (32 * k + cr) off wd.size).any fun gr => s.empty.contains gr
            | .tensor _ _ => false
            | .peer _ _ _ => false) then [10] else []
    | .lblk g _ _ n tag _ => if takers c w g != 0 && decide (4096 < s.lblkHeld core b.bid tag + n + 1) then [12] else []
    | .probe g _ x a =>
      if w.flights != [] || w.pend != [] then [21]
      else if takers c w g != 0 && s.probeWaits b w x a then [21] else []
    | .mspill g _ => if qGuard w g && s.reqs.any (fun r => r.block == b.bid && r.warp == w.num) then [16] else []
    | .mfill g _ => if qGuard w g && s.reqs.any (fun r => r.block == b.bid && r.warp == w.num) then [16] else []
    | _ => []) ++
  (if (s.actsAtIssue b w i || submits w i) && s.getWaits b.bid w.num then [16] else []) ++
  (if (submits w i || fills c w i) && s.putWaits b.bid w.num then [16] else []) ++
  (if submits w i then
    (match i with
      | .cpy _ _ _ _ _ _ _ => s.copyFull core
      | .cpym _ _ _ _ _ _ _ _ => s.copyFull core
      | .coll _ _ _ _ _ _ _ _ _ _ => s.copyFull core
      | _ => s.matrixFull core)
   else [])

/-- The stalls of a word (R54). -/
def State.wordStalls (s : State) (c : Issue) (b : Block) (w : Warp) : List Nat :=
  let ops := (wordOps c.word).map (·.2)
  ops.flatMap (s.opStalls c b w) ++
  (if b.ringRoom (ops.filter (allocates c w)).length then [] else [14]) ++
  (if s.pinsFull (ops.flatMap (s.pinsOf c b w)) then [15] else []) ++
  (let own := (ops.map (s.ownRequests c b w)).sum
   if own != 0 && decide (Config.maxRequests < s.outstanding (coreId b w) c.cycle + own) then [11] else [])

/-- The stalls of the word a warp issues next, fetch included (R54 condition 4), in cycle `t`. -/
def State.stalls (s : State) (b : Block) (w : Warp) (t : Nat) : List Nat :=
  match s.peek b w with
  | .fetch => [5]
  | .far => [5]
  | .trap regs => regs.flatMap (s.pendStall w)
  | .word e hs regs tok next =>
    regs.flatMap (s.pendStall w) ++
    (match e with
      | none => []
      | some e =>
        let k := s.code b w
        (if s.hasGroup b w k.unit (e / 16) then [] else [6]) ++ s.wordStalls (k.issueOf s b w e hs tok next t) b w)

-- Holding for pre-emption (R38, R39).

/-- A warp that may stand at a pre-emption point (R38): no transfer, region, handler, parked lane, trap or idle remainder. -/
def Warp.pointFree (w : Warp) : Bool :=
  w.xfer.isNone && w.region.isNone && !w.handler && w.parked == 0 && w.idle == 0 && w.trap.isNone

/-- Another warp waits at a synchronisation this warp has not yet reached (R39). -/
def Block.awaited (b : Block) (w : Warp) : Bool :=
  b.warps.any fun x => x.num != w.num && (match x.wait with
    | .bar id => w.wait != .bar id
    | .regroup _ _ _ _ _ => x.core == w.core && x.pitch == w.pitch && w.wait == .none
    | .ungroup => x.core == w.core && x.pitch == w.pitch && w.wait == .none
    | .none => false)

/-- A warp holds (R39): it stands at a pre-emption point, in `pwacq` being one (R38 case 4), and no synchronisation needs it.  A wait
for the grant it had or asked for before a save is such a wait (R191; log entry 104). -/
def Block.holds (b : Block) (w : Warp) : Bool :=
  (w.held || (b.pre.isSome && (w.asking.isSome || w.regrant.isSome))) && w.pointFree && !b.awaited w

/-- A warp's next word waits on a `probe` (R139): it holds only once that has completed (R38). -/
def State.probing (s : State) (b : Block) (w : Warp) (t : Nat) : Bool := (s.stalls b w t).contains 21

/-- Why a warp is not ready, as the reason codes of R398; empty when it is ready (R26). -/
def State.reasons (s : State) (b : Block) (w : Warp) (t : Nat) : List Nat :=
  let stalls := if w.exited || w.trap.isSome then [] else s.stalls b w t
  (if w.exited then [24] else []) ++
  (if (b.holds w && !stalls.contains 21) || b.status != .placed || b.draining || s.dead b.ctx then [2] else []) ++
  (if w.trap.isSome then [3] else []) ++
  (if w.stopped then [4] else []) ++
  (match w.wait with
    | .none => []
    | .bar _ => [17]
    | .regroup _ _ _ _ _ => [18]
    | .ungroup => [18]) ++
  (if w.trying.isSome then [19] else []) ++
  (if w.asking.isSome || w.regrant.isSome then [20] else []) ++
  (if w.hold.all fun h => h.kind == .sync then [] else [16]) ++ stalls

def State.ready (s : State) (b : Block) (w : Warp) (t : Nat) : Bool := (s.reasons b w t).isEmpty

-- Traps decided at issue (R58, R261, R352).

/-- The base of the open region of a warp's pitch (R33, R249): the depth of its program's mask stack at `regroup`. -/
def Block.baseDepth (b : Block) (w : Warp) : Nat :=
  if w.region.isSome then
    match b.regions.find? fun r => r.core == w.core && r.pitch == w.pitch with
    | some r => r.base
    | none => 0
  else 0

/-- `melse` and `mpop` find the mask stack empty (R33): at depth 0 or, for a region's program, at its base and at no depth to which a
spill has taken it below that (log entry 130). -/
def Block.masksOut (b : Block) (w : Warp) : Bool :=
  w.masks.isEmpty || (!w.handler && w.region.isSome && w.masks.length == b.baseDepth w)

/-- A system register that only a handler may name (R249). -/
def srHandler (sr : Nat) : Bool :=
  (decide (0x080 ≤ sr) && decide (sr ≤ 0x088)) || (decide (0x100 ≤ sr) && decide (sr ≤ 0x13F)) ||
  (decide (0x200 ≤ sr) && decide (sr ≤ 0x2BF))

/-- A grant of level `l` can never be given: with the base allowances of the die's other clusters it exceeds B (R250). -/
def State.pwNever (s : State) (b : Block) (w : Warp) (l : Nat) : Bool :=
  let k := b.stack
  let others := ((List.range 4).filter fun c => c != w.core / 8).map fun c => s.rainfly.base.getD (4 * k + c) 0
  decide (s.rainfly.budget.getD k 0 - others.sum < l + 1)

/-- The grant number by which a context holds a region, for an image's signer (R224, R226). -/
def State.readable (s : State) (b : Block) (j : Nat) : Bool :=
  b.rcd.meters.bitAt j && (match s.image? b.ctx b.image with
    | some im =>
      match im.meters[j]? with
      | some region => s.rainfly.grants.any fun g => g.ctx == b.ctx && g.region == region && g.readers.contains im.signer
      | none => false
    | none => false)

/-- The die's interval is wider than `sys.stamp_limit` (R180). -/
def State.tooWide (s : State) (k : Nat) : Bool :=
  let st := s.stack? k
  decide (st.earliest + st.limit < st.latest)

/-- The word holds `bar` or `exit`; it holds `regroup` or `ungroup` (R259). -/
def wordBar (word : Nat) : Bool :=
  match decodeSlot word .S with
  | some (.bar _ _) => true
  | some (.exit _) => true
  | _ => false
def wordRegroup (word : Nat) : Bool :=
  match decodeSlot word .P with
  | some (.regroup _ _ _) => true
  | some (.ungroup _) => true
  | _ => false

/-- Another participant waits at a `regroup` this arrival does not match (R36). -/
def Block.mismatch (b : Block) (w : Warp) (tok : Nat) : Bool :=
  b.warps.any fun x => x.core == w.core && x.pitch == w.pitch && x.num != w.num && !x.exited && (match x.wait with
    | .regroup off ls ms _ _ => off != tok || ls != w.loops.length || ms != w.masks.length
    | _ => false)

/-- A nonempty parked set at a convergence point (R37); in handler mode it is disregarded (R246). -/
def Warp.converges (w : Warp) : Option (Nat × Nat) :=
  if w.parked != 0 && !w.handler then some (w.convergeCode, 0) else none

/-- The trap of an operation, decided from the state before its word: code and argument.  A `regroup` whose guard is false raises
none (R55, R261); it only arrives (log entry 88). -/
def State.trapOf (s : State) (c : Issue) (b : Block) (w : Warp) : Instr → Option (Nat × Nat)
  | .srd g _ sr => if qGuard w g && srHandler sr && !w.handler then some (0x05, 0) else none
  | .swr g _ sr => if qGuard w g && srHandler sr && !w.handler then some (0x05, 0) else none
  | .bxfer g _ _ => if qGuard w g && w.xfer.isSome then some (0x04, 0) else none
  | .bcall g _ _ _ => if qGuard w g && w.xfer.isSome then some (0x04, 0) else none
  | .trap g n => if qGuard w g then some (0x00, n) else none
  | .hret g => if qGuard w g && !w.handler then some (0x05, 0) else none
  | .hretSkip g => if qGuard w g && !w.handler then some (0x05, 0) else none
  | .bar g _ =>
    if !qGuard w g then none
    else if w.handler then some (0x82, 0)
    else if w.region.isSome then some (0x08, 0)
    else if wordRegroup c.word then some (0x0B, 0)
    else w.converges
  | .exit g =>
    if !qGuard w g then none
    else if w.region.isSome && !w.handler then some (0x08, 0)
    else if wordRegroup c.word then some (0x0B, 0)
    else w.converges
  | .pwacq g a => if qGuard w g && s.pwNever b w ((w.sread a).toNat % 16) then some (0x60, 0) else none
  | .mtrd g _ _ _ j => if qGuard w g && !s.readable b ((w.sread j).toNat % 32) then some (0x70, 0) else none
  | .mtck g _ j => if qGuard w g && !s.readable b ((w.sread j).toNat % 32) then some (0x70, 0) else none
  | .mpush g _ _ => if qGuard w g && decide (16 ≤ w.masks.length) then some (0x02, 0) else none
  | .melse g => if qGuard w g && b.masksOut w then some (0x03, 0) else none
  | .mpop g =>
    if !qGuard w g then none
    else if b.masksOut w then some (0x03, 0)
    else w.converges
  | .regroup g _ _ =>
    if !qGuard w g then none
    else if w.handler then some (0x82, 0)
    else if w.region.isSome then some (0x07, 0)
    else if b.mismatch w c.tok then some (0x09, 0)
    else if wordBar c.word then some (0x0B, 0)
    else w.converges
  | .ungroup g =>
    if !qGuard w g then none
    else if w.handler then some (0x82, 0)
    else if w.region.isNone then some (0x0A, 0)
    else if wordBar c.word then some (0x0B, 0)
    else w.converges
  | .mspill g n =>
    if !qGuard w g then none
    else match w.bank with
      | none => some (0x05, 0)
      | some k => if k.masks.length < n then some (0x06, 0) else none
  | .mfill g n =>
    if !qGuard w g then none
    else match w.bank with
      | none => some (0x05, 0)
      | some k => if 16 < k.masks.length + n then some (0x06, 0) else none
  | .probe g _ _ _ => if takers c w g != 0 && w.probeBad then some (0x2A, 0) else none
  | .stc g _ _ _ _ _ => if takers c w g != 0 && s.tooWide b.stack then some (0x51, 0) else none
  | .ldas g _ _ _ _ _ _ _ => if takers c w g != 0 && s.tooWide b.stack then some (0x51, 0) else none
  | .mmac g h acc nf mf pair pro xa ia xb ib =>
    if qGuard w g && c.lanes == 0 then
      match s.planOf b w (.mmac g h acc nf mf pair pro xa ia xb ib) with
      | .refused k _ _ _ => some (k, 0)
      | .boxes _ => none
    else none
  | .mstore g h acc nt mf fmt rm src xd inc =>
    if qGuard w g && c.lanes == 0 then
      match s.planOf b w (.mstore g h acc nt mf fmt rm src xd inc) with
      | .refused k _ _ _ => some (k, 0)
      | .boxes _ => none
    else none
  | .mload g h acc nt mf xs inc =>
    if qGuard w g && c.lanes == 0 then
      match s.planOf b w (.mload g h acc nt mf xs inc) with
      | .refused k _ _ _ => some (k, 0)
      | .boxes _ => none
    else none
  | .cpy g h xd id_ xs is_ a =>
    if qGuard w g && c.lanes == 0 then
      match s.planOf b w (.cpy g h xd id_ xs is_ a) with
      | .refused k _ _ _ => some (k, 0)
      | .boxes _ => none
    else none
  | .cpym g h xd id_ xs is_ a m =>
    if qGuard w g && c.lanes == 0 then
      match s.planOf b w (.cpym g h xd id_ xs is_ a m) with
      | .refused k _ _ _ => some (k, 0)
      | .boxes _ => none
    else none
  | .coll g h xd id_ xs is_ a xr ir op =>
    if qGuard w g && c.lanes == 0 then
      match s.planOf b w (.coll g h xd id_ xs is_ a xr ir op) with
      | .refused k _ _ _ => some (k, 0)
      | .boxes _ => none
    else none
  | _ => none

/-- The first trapping slot of a word, in the order of R58. -/
def State.firstTrap (s : State) (c : Issue) (b : Block) (w : Warp) : Option Slot :=
  ((wordOps c.word).find? fun o => (s.trapOf c b w o.2).isSome).map (·.1)

end Sys2Proof.Machine
end

