-- ==== Sys2Proof/Machine/Pitch.lean ====
section
/-! DEFINITION. The pitch cycle (R56): results land, holds settle, barriers and regroups complete, a warp is chosen, its
word begins, and what happens after its last slot (R24, R34 to R38, R70, R72, R240, R401). -/

namespace Sys2Proof.Machine

/-- A ring size the page allows (R397): a power of two from 4 KiB to 1 GiB. -/
def Lantern.ringOk (l : Lantern) : Bool := (List.range 19).any fun k => l.size == 2 ^ (12 + k)

/-- Bytes written into a function's Lantern ring at its write index (R397, R398): a full ring overwrites its oldest. -/
def State.ringWrite (s : State) (fn : Nat) (bs : List Byte) : State :=
  let l := s.lantern.getD fn Lantern.reset
  if !l.ringOk then s
  else
    { s with
      mem := s.mem.writeAll (bs.mapIdx fun i v => (l.buf + (l.widx + i) % l.size, v))
      lantern := s.lantern.set fn { l with widx := (l.widx + bs.length) % 2 ^ 32 } }

/-- The stop field names a warp (R400). -/
def stopNames (stop : Nat) (b : Block) (w : Warp) : Bool :=
  stop.field 48 2 == b.vdie && stop.field 43 5 == w.core && stop.field 41 2 == w.pitch && stop.field 35 6 == w.slot

/-- The bin of a latency (R399). -/
def Lantern.bin (x : Nat) : Nat := if x < 32 then 0 else min 15 (Nat.log2 x - 4)

/-- The pitches of the package, four of each core. -/
def allPitches : List Nat := List.range 512

/-- A trigger is armed and a request in bin `i` fires it (R399); a percentile outside 1 to 99 arms none. -/
def fires (bins : List Nat) (pct i : Nat) : Bool :=
  let total := bins.sum
  decide (1 ≤ pct) && decide (pct ≤ 99) && decide (100 ≤ total) &&
  match (List.range 16).find? fun b => decide (pct * total ≤ 100 * (bins.take (b + 1)).sum) with
  | some b => decide (b < i)
  | none => false

/-- A stop of a warp, and of no other, at its next word boundary is armed where the warp stands (R399, R400); it replaces one that
waits (R401). -/
def Lantern.armStop (l : Lantern) (b : Block) (w : Warp) : Lantern :=
  { l with stop := 2 ^ 63 + 2 ^ 62 + b.vdie * 2 ^ 48 + w.core * 2 ^ 43 + w.pitch * 2 ^ 41 + w.slot * 2 ^ 35,
           issuer := some (b.bid, w.num) }

/-- Action 2 of a trigger stops the warp that issued the request: nothing once that has exited, and once it is placed again while
its block is away (R399; log entry 105). -/
def Lantern.stopIssuer (l : Lantern) (who : Option (Block × Warp)) : Lantern :=
  match who with
  | none => l
  | some (b, w) =>
    if w.exited then l
    else if b.status == .placed then l.armStop b w
    else { l with stop := l.stop % 2 ^ 63, issuer := some (b.bid, w.num) }

/-- The stop in force is meant for a warp: the one a trigger names (R399), or the one that stands where the stop field says (R400). -/
def Lantern.names (l : Lantern) (b : Block) (w : Warp) : Bool :=
  match l.issuer with
  | some k => k == (b.bid, w.num)
  | none => stopNames l.stop b w

/-- A request of latency `x` on engine `e`, as Lantern sees it (R399): its trigger first, then its bin. -/
def Lantern.count (l : Lantern) (e x : Nat) (who : Option (Block × Warp)) : Lantern :=
  let i := Lantern.bin x
  let bins := l.bins.getD e []
  let l :=
    if fires bins (l.pct.getD e 0) i then
      if l.action.getD e 0 = 1 then { l with marks := allPitches }
      else if l.action.getD e 0 = 2 then l.stopIssuer who
      else l
    else l
  { l with bins := l.bins.set e (bins.set i (min (2 ^ 32 - 1) (bins.getD i 0 + 1))) }

/-- The engines of the pages that observe a context count a request (R399). -/
def State.observeCtx (s : State) (e x ctx : Nat) (who : Option (Block × Warp)) : State :=
  { s with lantern := s.lantern.map fun (l : Lantern) => if l.en && l.ctx == ctx then l.count e x who else l }

/-- The engines of the pages that observe a warp's context count its request. -/
def State.observe (s : State) (e x bid wn : Nat) : State :=
  match s.block? bid with
  | none => s
  | some b => s.observeCtx e x b.ctx ((b.warp? wn).map fun w => (b, w))

/-- The image has a handler for time-class traps (R189, R83). -/
def State.hasTimeHandler (s : State) (b : Block) : Bool :=
  match s.image? b.ctx b.image with
  | some im =>
    match im.handler with
    | some h => h.entry.getD 5 0xFFFFFFFF != 0xFFFFFFFF
    | none => false
  | none => false

/-- A warp reaches a pre-emption point (R38, R39, R189): a due risk notice is taken there; else a block that is to be
pre-empted has it hold.  A warp in `pwacq` takes its notice at its next point of the other kinds (log entry 89). -/
def State.reachPoint (s : State) (bid wn : Nat) : State :=
  match s.block? bid with
  | none => s
  | some b =>
    match b.warp? wn with
    | none => s
    | some w =>
      let due := match w.step with
        | some d => d.due
        | none => false
      let s := s.modWarp bid wn fun w =>
        { w with atPoint := true, held := b.pre.isSome && !(due && s.hasTimeHandler b),
                 step := w.step.map fun d => { d with due := false } }
      if due && s.hasTimeHandler b then s.raiseStream bid wn 0x50 w.pc else s

-- Synchronisations (R30 to R36, R155, R354).

/-- Every arrived warp's accesses have performed. -/
def settledAll (l : List Warp) : Bool := l.all fun w => w.hold.isEmpty

/-- Nothing a warp's lanes wait for is outstanding, its arriving word's own accesses included, so that the lanes can move
(R259). -/
def State.calm (s : State) (b : Block) (l : List Warp) : Bool :=
  settledAll l && l.all fun w => w.pend.isEmpty && s.reqs.all fun r => !(r.block == b.bid && r.warp == w.num)

/-- The warps leave with an acquire at block scope (R32, R155). -/
def State.leave (s : State) (b : Block) (l : List Warp) : State := l.foldl (fun s w => s.acquire b w .block) s

/-- Barrier `id` completes when every warp that has not exited has arrived (R30, R31). -/
def State.barrierDone (s : State) (bid id : Nat) : State :=
  match s.block? bid with
  | none => s
  | some b =>
    let arrived := b.warps.filter fun w => w.wait == .bar id
    let expect := (b.warps.filter Warp.live).length
    if arrived != [] && b.bars.getD id 0 == expect && settledAll arrived then
      (s.leave b arrived).modBlock bid fun b =>
        { b with bars := b.bars.set id 0,
                 warps := b.warps.map fun w => if w.wait == .bar id then { w with wait := .none } else w }
    else s

/-- The warps of a block on a pitch that have not exited, by ascending number (R34). -/
def Block.participants (b : Block) (core pitch : Nat) : List Warp :=
  sortBy (fun (x y : Warp) => decide (x.num ≤ y.num))
    (b.warps.filter fun w => w.core == core && w.pitch == pitch && w.live)

/-- For one lane position, the home warps in the order active and true, active and false, inactive (R34). -/
def packOrder (ps : List Warp) (l : Nat) : List Nat :=
  let key := fun (w : Warp) => match w.wait with
    | .regroup _ _ _ p part =>
      if part && w.active.getLsbD l then (if p.getLsbD l then 0 else 1) else 2
    | _ => 2
  ((ps.filter fun w => key w == 0) ++ (ps.filter fun w => key w == 1) ++ (ps.filter fun w => key w == 2)).map (·.num)

/-- Lane position `l` of a warp counts as active at a regroup (R34). -/
def regroupActive (w : Warp) (l : Nat) : Bool :=
  match w.wait with
  | .regroup _ _ _ _ part => part && w.active.getLsbD l
  | _ => false

/-- The vector state of the lanes `owner l` gives, gathered into one warp: `v`, `p` and their results in flight
(log entry 20), and what is parked of them (R37); lanes that the word of the regroup parked trap at the region's next trap point (log
entry 118). -/
def gatherLanes (ws : List Warp) (w : Warp) (owner : Nat → Nat) : Warp :=
  let at_ := fun l => (ws.find? fun x => x.num == owner l).getD default
  let keep := fun (n : Nat) (m : Mask) => m &&& maskOf fun l => owner l == n
  let laneEff := fun (n : Nat) (e : Effect) => match e with
    | .vreg d m v => if keep n m = 0 then none else some (Effect.vreg d (keep n m) v)
    | .preg d m v => if keep n m = 0 then none else some (Effect.preg d (keep n m) v)
    | e => if n == w.num then some e else none
  { w with
    v := (List.range w.v.length).map fun r => laneList.map fun l => ((at_ l).vread r).getD l 0
    p := (List.range 48).map fun r => maskOf fun l => ((at_ l).p.getD r 0).getLsbD l
    parked := maskOf fun l => (at_ l).parked.getLsbD l
    records := laneList.flatMap fun l => (at_ l).records.filter fun r => r.lane == l
    flights := (sortBy (fun (a b : Flight) => decide (a.issued ≤ b.issued)) (ws.flatMap fun x => x.flights.map fun f =>
      { f with effs := f.effs.filterMap (laneEff x.num) })).filter fun f => !f.effs.isEmpty }

/-- A regroup of a pitch completes when every participant has arrived (R34, R354).  The regrouped warps take the last-issue
cycles up to the latest of the participants', in order of j (log entry 90). -/
def State.regroupDone (s : State) (bid core pitch : Nat) : State :=
  match s.block? bid with
  | none => s
  | some b =>
    let ps := b.participants core pitch
    let isIn := fun (w : Warp) => match w.wait with
      | .regroup _ _ _ _ _ => true
      | _ => false
    if ps != [] && ps.all isIn && s.calm b ps then
      let table := laneList.map (packOrder ps)
      let nums := ps.map (·.num)
      let region : Region :=
        { core := core, pitch := pitch, members := nums, base := ((ps.head?).getD default).masks.length,
          table := (List.range ps.length).map fun j => laneList.map fun l => (table.getD l []).getD j 0,
          masks := ps.map (·.active), mstacks := ps.map (·.masks) }
      let last := ps.foldl (fun m w => max m w.lastIssue) 0
      let new := ps.mapIdx fun j w =>
        let owner := fun l => (table.getD l []).getD j 0
        let w' := gatherLanes ps w owner
        { w' with region := some j, wait := .none, lastIssue := last - ps.length + j,
                  active := maskOf fun l => match ps.find? fun x => x.num == owner l with
                    | some x => regroupActive x l
                    | none => false }
      (s.leave b ps).modBlock bid fun b =>
        { b with regions := region :: b.regions.filter (fun r => !(r.core == core && r.pitch == pitch)),
                 warps := b.warps.map fun w => (new.find? fun x => x.num == w.num).getD w }
    else s

/-- An ungroup completes when every regrouped warp that has not exited has arrived (R35). -/
def State.ungroupDone (s : State) (bid core pitch : Nat) : State :=
  match s.block? bid with
  | none => s
  | some b =>
    match b.regions.find? fun r => r.core == core && r.pitch == pitch with
    | none => s
    | some r =>
      let all := b.warps.filter fun w => r.members.contains w.num
      let live := all.filter Warp.live
      if live != [] && live.all (fun w => w.wait == .ungroup) && s.calm b live then
        let back := fun (n l : Nat) =>
          (r.members.zip r.table).foldl (fun acc m => if m.2.getD l 0 == n then m.1 else acc) n
        let new := live.map fun w =>
          let j := r.members.idxOf w.num
          let w' := gatherLanes all w (back w.num)
          { w' with region := none, wait := .none, active := r.masks.getD j 0, masks := r.mstacks.getD j [] }
        (s.leave b live).modBlock bid fun b =>
          { b with regions := b.regions.filter (fun q => !(q.core == core && q.pitch == pitch)),
                   warps := b.warps.map fun w => (new.find? fun x => x.num == w.num).getD w }
      else s

/-- Every synchronisation of a block that can complete does. -/
def State.syncs (s : State) (bid : Nat) : State :=
  let s := (List.range 16).foldl (fun s id => s.barrierDone bid id) s
  match s.block? bid with
  | none => s
  | some b =>
    ((b.warps.map fun w => (w.core, w.pitch)).dedup).foldl
      (fun s k => (s.regroupDone bid k.1 k.2).ungroupDone bid k.1 k.2) s

-- Holds (R147, R148, R300, R319).

/-- A hold is over in cycle `t`. -/
def State.holdDone (s : State) (b : Block) (w : Warp) (t : Nat) (h : Hold) : Bool :=
  let mine := s.reqs.filter fun r => r.block == b.bid && r.warp == w.num && decide (r.id < h.upto)
  match h.kind with
  | .sync => mine.isEmpty && !s.lblkBefore b.bid w.num h.upto
  | .fence sc => mine.isEmpty && !s.lblkBefore b.bid w.num h.upto && (sc != .fabric || w.drains == 0)
  | .drain sc =>
    mine.isEmpty && (sc != .fabric || w.drains == 0) &&
    s.ops.all (fun o => !(o.block == b.bid && o.warp == w.num && decide (o.id < h.upto))) &&
    s.commits.all (fun k => !(k.block == b.bid && k.warp == w.num && decide (k.id < h.upto)))
  | .atom _ _ => mine.all fun r => r.id + 1 != h.upto
  | .mready c => decide (c ≤ t) && mine.all fun r => match r.kind with
      | .store => false
      | .atom _ _ _ _ _ => false
      | .load _ _ _ => true
      | .ldas _ _ _ _ _ _ => true
      | .qput _ _ _ => true
      | .qget _ _ _ => true
  | .spill => mine.isEmpty

/-- The stores and atomics a matrix operation need not see once a hold is over (R154): after `mready`, a fence, a drain or a
synchronisation, which releases and acquires (R155), none of those before it; after an acquire by an atomic none that was released
before or is the atomic's own, which bear number 0. -/
def Hold.unseen (h : Hold) (l : List (Nat × Nat × List Byte)) : List (Nat × Nat × List Byte) :=
  match h.kind with
  | .fence _ => l.filter fun e => decide (h.upto ≤ e.1)
  | .drain _ => l.filter fun e => decide (h.upto ≤ e.1)
  | .mready _ => l.filter fun e => decide (h.upto ≤ e.1)
  | .atom true sc => if sc = .warp then l else l.filter fun e => e.1 != 0
  | .atom false _ => l
  | .spill => l
  | .sync => l.filter fun e => decide (h.upto ≤ e.1)

/-- The acquire that ends a hold (R150). -/
def State.holdAcquire (s : State) (b : Block) (w : Warp) (h : Hold) : State :=
  match h.kind with
  | .fence sc => s.acquire b w sc
  | .drain sc => s.acquire b w sc
  | .atom true sc => s.acquire b w sc
  | .atom false _ => s
  | .mready _ => s
  | .spill => s
  | .sync => s.acquire b w .block

/-- The holds of a warp that are over are lifted, each with its acquire (R150) and with what it makes seen (R154). -/
def State.settleHold (s : State) (bid wn t : Nat) : State :=
  match s.block? bid with
  | none => s
  | some b =>
    match b.warp? wn with
    | none => s
    | some w =>
      let over_ := w.hold.filter (s.holdDone b w t)
      if over_.isEmpty then s
      else
        (over_.foldl (fun s h => s.holdAcquire b w h) s).modWarp bid wn fun w =>
          { w with hold := w.hold.filter fun h => !over_.contains h
                   unready := over_.foldl (fun l h => h.unseen l) w.unready }

-- The cycle.

/-- The warps resident on a pitch: block and warp (R26). -/
def State.residents (s : State) (stack core pitch : Nat) : List (Block × Warp) :=
  s.blocks.flatMap fun b =>
    if b.stack == stack && b.status == .placed then
      (b.warps.filter fun w => w.core == core && w.pitch == pitch).map fun w => (b, w)
    else []

/-- The record of a precise stop is written once its warp has drained (R401).  Its layout is not stated: its 256 bytes are free
(log entry 7). -/
def State.stopRecord (s : State) (bid wn : Nat) : State :=
  match s.warp? bid wn with
  | none => s
  | some w =>
    match w.stopRec with
    | none => s
    | some fn =>
      if w.flights != [] || w.pend != [] then s
      else
        let f := s.freeBytes 256
        (f.2.ringWrite fn f.1).modWarp bid wn fun w => { w with stopRec := none }

/-- Step 1 of R56 for one warp: results land, latches are written by words of the turn that stands (R51), registers whose
data returned in an earlier cycle are no longer pending (R54); a stop record that waited for this is written (R401). -/
def State.landWarp (s : State) (b : Block) (w : Warp) (t : Nat) : State :=
  let p := s.pitch (coreId b w) w.pitch
  let due := w.flights.filter fun f => decide (f.landing ≤ t)
  let inTurn := fun (f : Flight) => p.holder == some (b.bid, w.num) && f.turn == p.turn
  let latches := due.foldl (fun ls f => if inTurn f then latchWrites ls f.effs else ls) p.latches
  let s := s.modWarp b.bid w.num fun w =>
    { due.foldl (fun w f => w.landAll f.effs) w with
      flights := w.flights.filter fun f => !decide (f.landing ≤ t)
      pend := w.pend.filter fun p => match p.returned with
        | some c => !decide (c < t)
        | none => true
      gathers := w.gathers.filter fun g => decide (t < g.1) }
  (s.setPitch { p with latches := latches }).stopRecord b.bid w.num

/-- The turn of a pitch ends: its warp may stand at a pre-emption point (R38 case 2). -/
def State.turnEnds (s : State) (core p : Nat) : State :=
  let x := s.pitch core p
  match x.holder with
  | none => s
  | some (bid, wn) =>
    let s := s.endTurn core p
    match s.warp? bid wn with
    | none => s
    | some w => if w.loops.isEmpty && w.pointFree && !w.exited then s.reachPoint bid wn else s

/-- The boundary after a word, whose token stood at `tok` in the stream of the unit, 2^32 for one that stood elsewhere: an armed precise
stop of this warp takes effect (R401).  The warp's turn ends and it is ready no more; its record follows when it has drained. -/
def State.stopCheck (s : State) (b : Block) (w : Warp) (tok : Nat) : State :=
  match (List.range s.lantern.length).find? fun fn =>
      let l := s.lantern.getD fn Lantern.reset
      l.stop.bitAt 63 && l.ctx == b.ctx && l.names b w && (l.stop.bitAt 62 || l.stop.field 0 32 == tok) with
  | none => s
  | some fn =>
    if w.handler then s
    else
      let l := s.lantern.getD fn Lantern.reset
      let l := { l with stop := l.stop % 2 ^ 63, issuer := none, stopped := l.stopped ++ [(b.bid, w.num)] }
      let s := { s with lantern := s.lantern.set fn l }
      let s := s.modWarp b.bid w.num fun w => { w with stopped := true, stopRec := some fn }
      let s := if (s.pitch (coreId b w) w.pitch).holder == some (b.bid, w.num) then s.turnEnds (coreId b w) w.pitch else s
      s.stopRecord b.bid w.num

/-- A stream-class trap outside any word (R74): it ends the turn, and a stop can take effect at its boundary, the trapping token, at
`pc`, standing for the word (R58, R401; log entry 106). -/
def State.streamTrap (s : State) (bid wn code pc : Nat) : State :=
  let s := { s with sel := none }.raiseStream bid wn code pc
  match s.block? bid with
  | none => s
  | some b =>
    match b.warp? wn with
    | none => s
    | some w => (s.endTurn (coreId b w) w.pitch).stopCheck b w pc

/-- The dictionary group a warp's next word needs and the decode table does not hold (R62). -/
def State.needGroup (s : State) (b : Block) (w : Warp) : Option Nat :=
  match s.peek b w with
  | .word (some e) _ _ _ _ => if s.hasGroup b w (s.code b w).unit (e / 16) then none else some (e / 16)
  | _ => none

/-- A miss in the decode table stands from the cycle in which a warp first meets it (R63, R399). -/
def State.noteMiss (s : State) (t : Nat) (bw : Block × Warp) : State :=
  if bw.2.exited || bw.2.trap.isSome then s
  else
    match s.needGroup bw.1 bw.2 with
    | none => s
    | some g =>
      let core := coreId bw.1 bw.2
      let key := fetchKey bw.1 (s.code bw.1 bw.2).unit g
      if s.misses.any fun m => m.core == core && m.key == key then s
      else { s with misses := s.misses ++ [{ core := core, key := key, since := t, block := bw.1.bid, warp := bw.2.num }] }

/-- The priority of R26: class, last-issue cycle, slot. -/
def prior (a b : Block × Warp) : Bool :=
  let ca := a.1.rcd.cls
  let cb := b.1.rcd.cls
  decide (ca < cb) || (ca == cb && (decide (a.2.lastIssue < b.2.lastIssue) ||
    (a.2.lastIssue == b.2.lastIssue && decide (a.2.slot < b.2.slot))))

def pickWarp : List (Block × Warp) → Option (Block × Warp)
  | [] => none
  | a :: r =>
    match pickWarp r with
    | none => some a
    | some b => if prior b a then some b else some a

/-- Step 1 of R56 on one pitch in cycle `t`: results land, holds that are over are lifted, and synchronisations that can complete do. -/
def State.pitchLand (s : State) (stack core pitch t : Nat) : State :=
  let rs := s.residents stack core pitch
  let s := rs.foldl (fun s bw => match s.warp? bw.1.bid bw.2.num with
    | some w => (s.landWarp bw.1 w t).settleHold bw.1.bid bw.2.num t
    | none => s) s
  let s := ((rs.map fun bw => bw.1.bid).dedup).foldl State.syncs s
  (s.residents stack core pitch).foldl (fun s bw => s.noteMiss t bw) s

/-- Step 2 of R56 (R24 to R26): a turn goes on while its warp is ready; else it ends, and the best of the ready warps begins one. -/
def State.pitchSelect (s : State) (stack core pitch t : Nat) : State :=
  let id := 32 * stack + core
  let rs := s.residents stack core pitch
  let p := s.pitch id pitch
  let still := match p.holder with
    | some (bid, wn) => rs.any fun bw => bw.1.bid == bid && bw.2.num == wn && s.ready bw.1 bw.2 t
    | none => false
  if still then
    match p.holder with
    | some (bid, wn) => { s with sel := some { block := bid, warp := wn, cycle := t } }
    | none => s
  else
    let s := s.turnEnds id pitch
    let rs := s.residents stack core pitch
    match pickWarp (rs.filter fun bw => s.ready bw.1 bw.2 t) with
    | none => s
    | some bw =>
      let p := s.pitch id pitch
      { s.setPitch { p with holder := some (bw.1.bid, bw.2.num), words := 0, turn := p.turn + 1,
                            latches := List.replicate 8 (splat 0) } with
        sel := some { block := bw.1.bid, warp := bw.2.num, cycle := t } }

/-- Steps 1 and 2 of R56 on one pitch in cycle `t`: the warp chosen has its tokens decoded next. -/
def State.pitchStep (s : State) (stack core pitch t : Nat) : State :=
  (s.pitchLand stack core pitch t).pitchSelect stack core pitch t

/-- A delivered pulse of a cluster has passed its 32 pitches (R4, R182, R187); the next begins. -/
def State.pulseDone (s : State) (stack cluster : Nat) : State :=
  let s := s.modCluster stack cluster fun k => { k with cycle := k.cycle + 1, ptr := 0 }
  { s with blocks := s.blocks.map fun b =>
      if b.stack == stack && b.status == .placed then
        { b with warps := b.warps.map fun w =>
            if w.core / 8 == cluster then
              { w with step := w.step.map fun d => if d.isOpen then { d with cycles := d.cycles + 1 } else d }
            else w }
      else b }

-- The word.

/-- A word is taken up under a number of its own: an over-draw found on the cluster traps it (R385); a trap decided at its issue
leaves only the slot that raises it (R58, R352), and no other arises later in the word; a parked set held at the stack base
traps the word (R37, R258). -/
def State.beginWord (s : State) (c : Issue) : State :=
  match s.block? c.block with
  | none => s
  | some b =>
    match b.warp? c.warp with
    | none => s
    | some w =>
      let s := { s with issue := some c, sel := none, uid := s.uid + 1 }
      let s := s.modWarp c.block c.warp fun w => { w with held := false, atPoint := false }
      if w.overdraw then s.raise c 0x61 0 0xFF
      else match s.firstTrap c b w with
      | some sl => { s with issue := some { c with slots := [sl] } }
      | none =>
        if w.convergeDue then s.raise c w.convergeCode 0 0xFF
        else { s with issue := some { c with slots := (wordOps c.word).map (·.1), clear := true } }

/-- The delayed transfer of a warp after a word (R240, R241): PC, loop stack, transfer left, link write, which a `btgt` of the same
register in that word outlasts (log entry 131). -/
def Warp.transfer (w : Warp) : Warp :=
  match w.xfer with
  | none => w
  | some x =>
    if x.remaining = 0 then
      { w with pc := x.target, loops := dropLevels w.loops x.target, idle := 0, xfer := none,
               b := match x.link with
                 | some r => w.b.set r (BitVec.ofNat 32 w.pc)
                 | none => w.b }
    else { w with xfer := some { x with remaining := x.remaining - 1 } }

/-- The PC after a word (R69, R70): past the token, or still inside an idle token; and whether an iteration ended. -/
def Warp.advance (w : Warp) (c : Issue) : Warp × Bool :=
  if w.idle > 1 then ({ w with idle := w.idle - 1 }, false)
  else
    let q := endToken w.loops c.next
    ({ w with pc := q.2.1, loops := q.1, idle := 0 }, q.2.2)

/-- A link register of a taken transfer is the offset at which the next token would have been decoded (R241). -/
def Warp.afterWord (w : Warp) (c : Issue) : Warp × Bool :=
  let q := w.advance c
  match q.1.xfer with
  | some x =>
    if x.remaining = 0 then
      let pc := if w.idle > 1 then (endToken w.loops c.next).2.1 else q.1.pc
      ({ q.1 with pc := pc }.transfer, false)
    else (q.1.transfer, false)
  | none => q

/-- `stopCheck` for the warp of a word as it stands after it. -/
def State.stopAt (s : State) (c : Issue) (tok : Nat) : State :=
  match s.block? c.block with
  | none => s
  | some b =>
    match b.warp? c.warp with
    | none => s
    | some w => s.stopCheck b w tok

/-- A trap of the warp stands. -/
def State.trapped (s : State) (bid wn : Nat) : Bool :=
  match s.warp? bid wn with
  | some w => w.trap.isSome
  | none => false

/-- The word has performed its last slot.  A word that traps has issued, so that a stop can take effect after it too (R58, R401); an
`hret` ends the turn (R247), after which the warp may stand at a pre-emption point (R38 case 2); a notice taken at the end of an
iteration (R189) ends it as any trap does (R58). -/
def State.finishWord (s : State) : State :=
  match s.issue with
  | none => s
  | some c =>
    let s := { s with issue := none }
    match s.block? c.block with
    | none => s
    | some b =>
      match b.warp? c.warp with
      | none => s
      | some w =>
        let core := coreId b w
        let p := s.pitch core w.pitch
        let s := s.modWarp c.block c.warp fun w =>
          { w with lastIssue := c.cycle, probeIn := none, probeBad := false }
        let s := s.setPitch { p with words := p.words + 1 }
        if c.trapped then (s.endTurn core w.pitch).stopAt c c.tok
        else
          let s := s.modWarp c.block c.warp fun w =>
            { w with h := c.handles.foldl (fun h k => h.set k.1 k.2) w.h,
                     active := match c.newMask with
                       | some m => m.1
                       | none => w.active,
                     masks := match c.newMask with
                       | some m => m.2
                       | none => w.masks }
          match c.hret with
          | some skip => ((s.handlerReturn c.block c.warp skip).turnEnds core w.pitch).stopAt c (2 ^ 32)
          | none =>
            match s.warp? c.block c.warp with
            | none => s
            | some w =>
              let q := w.afterWord c
              let s := s.modWarp c.block c.warp fun _ => q.1
              let ends := wordY c.word || decide (32 ≤ p.words + 1)
              let s := if q.2 && q.1.pointFree && !q.1.exited then s.reachPoint c.block c.warp else s
              let s := if ends || s.trapped c.block c.warp then s.turnEnds core w.pitch else s
              (s.stopAt c c.tok).syncs c.block

end Sys2Proof.Machine
end

