-- ==== Sys2Proof/Machine/Time.lean ====
section
/-! DEFINITION. Clocks and intervals (R176 to R182): t-hat in ps, the half-width of R177, the bounds of R178, floors (R181). -/

namespace Sys2Proof.Machine

/-- The bounds t-hat − ε and t-hat + ε in whole ns (R178), ε given in units of 10⁻¹⁰ ns. -/
def lowBound (that eps : Nat) : Nat := (10 ^ 7 * that - eps) / 10 ^ 10
def highBound (that eps : Nat) : Nat := (10 ^ 7 * that + eps + 10 ^ 10 - 1) / 10 ^ 10

/-- ε of a die (R177): 0.1 ppm of the age of the reference and 20 ppm of the age of the beat. -/
def Stack.eps (k : Stack) : Nat := 10 ^ 10 * (k.uHost + k.uTs + k.usync) + k.refAge + 200 * k.beatAge

/-- ε of the I/O die: no u_sync and no beat term (R178). -/
def TimeBase.eps (t : TimeBase) : Nat := 10 ^ 10 * (t.uHost + t.uTs) + t.refAge

/-- The bounds of a die never decrease (R178); before the first reference sample they stand. -/
def Stack.refresh (k : Stack) : Stack :=
  if k.known then
    { k with earliest := max k.earliest (lowBound k.that k.eps), latest := max k.latest (highBound k.that k.eps) }
  else k
def TimeBase.refresh (t : TimeBase) : TimeBase :=
  if t.accepted then
    { t with earliest := max t.earliest (lowBound t.that t.eps), latest := max t.latest (highBound t.that t.eps) }
  else t

/-- A stack is silent (R390): a beat set out while an earlier one was still not acknowledged (log entry 55). -/
def Stack.silent (k : Stack) : Bool := decide (2 ≤ k.beats.length)

/-- A die's own oscillator runs on by `d` ps; the floors its controllers keep for silent stacks stand (R181, R390). -/
def Stack.run (k : Stack) (d : Nat) (silent : List Bool) : Stack :=
  Stack.refresh { k with that := k.that + d, beatAge := k.beatAge + d, refAge := k.refAge + d,
                         floors := k.floors.mapIdx fun i f => if silent.getD i false then f else (f.1, f.2 + d) }
def TimeBase.run (t : TimeBase) (d : Nat) : TimeBase :=
  TimeBase.refresh { t with that := t.that + d, refAge := t.refAge + d, edgeAge := t.edgeAge.map (· + d),
                            message := t.message.map fun m => (m.1, m.2 + d), dialogAge := t.dialogAge.map (· + d) }

/-- The clocks of the four dies and of the I/O die advance (ps). -/
def State.advance (s : State) (ds : List Nat) : State :=
  { s with stks := s.stks.mapIdx fun i k => k.run (ds.getD i 0) (s.stks.map Stack.silent), tb := s.tb.run (ds.getD 4 0) }

/-- Every die's earliest exceeds T (R227). -/
def State.diesAbove (s : State) (t : Nat) : Bool := s.usable.all fun k => decide (t < (s.stack? k).earliest)

end Sys2Proof.Machine
end

