-- ==== Sys2Proof/Machine/Scalar.lean ====
section
/-! DEFINITION. The S slot: integer operations, transfers, loops, barriers, ends, traps and system registers
(R233 to R253). -/

namespace Sys2Proof.Machine

/-- A slot operation of the word in issue: it raises its own trap, decided from the state before the word (R58): a word whose slots
raise none is `clear`, and then it acts on the state. -/
def slotOp (s : State) (i : Instr) (f : Issue → Block → Warp → State → State) : Host.Outcome State Fault Refusal :=
  match s.issue with
  | none => .fault .noWarpIssuing
  | some c =>
    match s.block? c.block with
    | none => .fault .noWarpIssuing
    | some b =>
      match b.warp? c.warp with
      | none => .fault .noWarpIssuing
      | some w =>
        match if c.clear then none else s.trapOf c b w i with
        | some t => .next (s.raise c t.1 t.2 (slotNum c.cur))
        | none => .next (f c b w s)

/-- A uniform slot that acts when its guard holds (R45, R55). -/
def uniOp (s : State) (i : Instr) (g : Guard) (f : Issue → Block → Warp → State → State) :
    Host.Outcome State Fault Refusal :=
  slotOp s i fun c b w s => if qGuard w g then f c b w s else s

/-- A uniform slot with fixed-latency results at latency 1. -/
def uniRes (s : State) (i : Instr) (g : Guard) (f : Issue → Warp → List Effect) : Host.Outcome State Fault Refusal :=
  uniOp s i g fun c _ w s => s.fly c 1 (f c w)

/-- A typed S operation of two sources (R235). -/
def sInt (s : State) (i : Instr) (g : Guard) (d a : Nat) (b : SSrc) (ty : ITy) (f : ITy → Word64 → Word64 → Int) :
    Host.Outcome State Fault Refusal :=
  uniRes s i g fun c w => sEffs d (sResult ty (f ty (w.sread a) (b.val c w)))

/-- `sadd` (R235). -/
def execSadd (g : Guard) (d a : Nat) (b : SSrc) (ty : ITy) (s : State) := sInt s (.sadd g d a b ty) g d a b ty sAdd
/-- `ssub` (R235). -/
def execSsub (g : Guard) (d a : Nat) (b : SSrc) (ty : ITy) (s : State) := sInt s (.ssub g d a b ty) g d a b ty sSub
/-- `smul` (R235). -/
def execSmul (g : Guard) (d a : Nat) (b : SSrc) (ty : ITy) (s : State) := sInt s (.smul g d a b ty) g d a b ty sMul
/-- `smulhi` (R235). -/
def execSmulhi (g : Guard) (d a : Nat) (b : SSrc) (ty : ITy) (s : State) :=
  sInt s (.smulhi g d a b ty) g d a b ty sMulhi
/-- `sand` (R235). -/
def execSand (g : Guard) (d a : Nat) (b : SSrc) (ty : ITy) (s : State) := sInt s (.sand g d a b ty) g d a b ty sAnd
/-- `sor` (R235). -/
def execSor (g : Guard) (d a : Nat) (b : SSrc) (ty : ITy) (s : State) := sInt s (.sor g d a b ty) g d a b ty sOr
/-- `sxor` (R235). -/
def execSxor (g : Guard) (d a : Nat) (b : SSrc) (ty : ITy) (s : State) := sInt s (.sxor g d a b ty) g d a b ty sXor
/-- `sshl` (R235). -/
def execSshl (g : Guard) (d a : Nat) (b : SSrc) (ty : ITy) (s : State) := sInt s (.sshl g d a b ty) g d a b ty sShl
/-- `sshr` (R235). -/
def execSshr (g : Guard) (d a : Nat) (b : SSrc) (ty : ITy) (s : State) := sInt s (.sshr g d a b ty) g d a b ty sShr
/-- `ssar` (R235). -/
def execSsar (g : Guard) (d a : Nat) (b : SSrc) (ty : ITy) (s : State) := sInt s (.ssar g d a b ty) g d a b ty sSar
/-- `smin` (R235). -/
def execSmin (g : Guard) (d a : Nat) (b : SSrc) (ty : ITy) (s : State) := sInt s (.smin g d a b ty) g d a b ty sMin
/-- `smax` (R235). -/
def execSmax (g : Guard) (d a : Nat) (b : SSrc) (ty : ITy) (s : State) := sInt s (.smax g d a b ty) g d a b ty sMax

/-- `smov` (R235): the second source through the type. -/
def execSmov (g : Guard) (d : Nat) (b : SSrc) (ty : ITy) (s : State) :=
  uniRes s (.smov g d b ty) g fun c w => sEffs d (sResult ty (tyInt ty (b.val c w)))

/-- `sli` (R236). -/
def execSli (g : Guard) (d : Nat) (v : SImm) (s : State) :=
  uniRes s (.sli g d v) g fun c _ => sEffs d (v.val c)

/-- `ssel` (R237). -/
def execSsel (g : Guard) (d a : Nat) (b : SSrc) (q : Nat) (qn : Bool) (s : State) :=
  uniRes s (.ssel g d a b q qn) g fun c w => sEffs d (if w.qread q != qn then w.sread a else b.val c w)

/-- `scmp` (R238): it writes no latch. -/
def execScmp (g : Guard) (q a : Nat) (b : SSrc) (ty : ITy) (cc : Cc) (s : State) :=
  uniRes s (.scmp g q a b ty cc) g fun c w => [.qreg q (ccInt cc (tyInt ty (w.sread a)) (tyInt ty (b.val c w)))]

/-- `btgt` (R239): the offset stands in `b` from the next cycle, and its line is hinted (R73). -/
def execBtgt (g : Guard) (bd : Nat) (t : Tgt) (s : State) :=
  uniOp s (.btgt g bd t) g fun c b w s =>
    let o := match t with
      | .imm o => BitVec.ofNat 32 o
      | .sreg r => low32 (w.sread r)
      | .hole h => low32 (holeVal c h)
    (s.fly c 1 [.breg bd o]).hintLines b w o.toNat 1

/-- A delayed transfer requested by the word in issue (R240). -/
def State.request (s : State) (c : Issue) (w : Warp) (b d : Nat) (link : Option Nat) : State :=
  s.modWarp c.block c.warp fun x =>
    { x with xfer := some { target := (w.bread b).toNat, remaining := d, link := link } }

/-- `bxfer` (R240). -/
def execBxfer (g : Guard) (b d : Nat) (s : State) :=
  uniOp s (.bxfer g b d) g fun c _ w s => s.request c w b d none

/-- `bcall` (R241). -/
def execBcall (g : Guard) (b d r : Nat) (s : State) :=
  uniOp s (.bcall g b d r) g fun c _ w s => s.request c w b d (some r)

/-- `lidx` (R242): the index of level `n`, 0 at or above the depth. -/
def execLidx (g : Guard) (d n : Nat) (s : State) :=
  uniRes s (.lidx g d n) g fun _ w => sEffs d (BitVec.ofNat 64 (match w.loops[n]? with
    | some v => v.index
    | none => 0))

/-- The innermost level's count set to its index + 1 (R242). -/
def breakLoop (l : List LoopLevel) : List LoopLevel :=
  match l.getLast? with
  | some v => l.dropLast ++ [{ v with count := v.index + 1 }]
  | none => l

/-- `lbrk` (R242). -/
def execLbrk (g : Guard) (s : State) :=
  uniOp s (.lbrk g) g fun c _ _ s => s.modWarp c.block c.warp fun w => { w with loops := breakLoop w.loops }

/-- A hold over the warp's requests before the word in issue. -/
def State.holdOn (s : State) (c : Issue) (k : HoldKind) (upto : Nat) : State :=
  s.modWarp c.block c.warp fun w => { w with hold := w.hold ++ [{ kind := k, upto := upto }] }

/-- `bar` (R30, R32, R243): the warp arrives; its earlier accesses perform before the barrier completes. -/
def execBar (g : Guard) (id : Nat) (s : State) :=
  uniOp s (.bar g id) g fun c _ _ s =>
    ((s.modWarp c.block c.warp fun w => { w with wait := .bar id }).holdOn c .sync c.uid).modBlock c.block
      fun b => { b with bars := b.bars.set id (b.bars.getD id 0 + 1) }

/-- `exit` (R244). -/
def execExit (g : Guard) (s : State) :=
  uniOp s (.exit g) g fun c _ _ s =>
    s.modWarp c.block c.warp fun w =>
      { w with exited := true, grant := none, regrant := none, step := none, xfer := none, loops := [], masks := [],
               parked := 0, records := [], asking := none, trying := none }

/-- `trap` (R245): with its guard true the word traps and this meaning is its trap. -/
def execTrap (g : Guard) (n : Nat) (s : State) := uniOp s (.trap g n) g fun _ _ _ s => s

/-- `hret` mode 0 (R247): it takes effect when its word has performed its slots. -/
def execHret (g : Guard) (s : State) :=
  uniOp s (.hret g) g fun _ _ _ s => { s with issue := s.issue.map fun c => { c with hret := some false } }

/-- `hret.skip` (R247). -/
def execHretSkip (g : Guard) (s : State) :=
  uniOp s (.hretSkip g) g fun _ _ _ s => { s with issue := s.issue.map fun c => { c with hret := some true } }

-- System registers (R248, R249).

/-- The delivered popcount of a cluster and the source that sets it (R185, R186, R387): 0 Bellows, 1 current, 2 heat,
3 droop. -/
def State.pulse (s : State) (k c : Nat) : Nat × Nat :=
  let x := s.cluster k c
  let st := s.stack? k
  let heat := if st.hotDie || (s.hbms.getD (2 * k) default).cap || (s.hbms.getD (2 * k + 1) default).cap then 1
    else x.capHeat
  let n := min x.nBell (min x.capCur heat)
  if x.droop then (min n 4, 3)
  else (n, if heat = n then 2 else if x.capCur = n then 1 else 0)

/-- The canonical mask of popcount `n` (R184). -/
def pulseMask (n : Nat) : Nat :=
  ((List.range 16).map fun i => if i * n / 16 < (i + 1) * n / 16 then 2 ^ i else 0).sum

/-- A lane's fault record as 128 bits (R365). -/
def LaneRec.bits (r : LaneRec) : Nat :=
  r.cause + r.slot * 2 ^ 8 + r.rcd * 2 ^ 16 + r.offset * 2 ^ 32 + r.c0.toNat * 2 ^ 64 + r.c1.toNat * 2 ^ 96

/-- The open region of a warp (R34). -/
def Block.regionOf (b : Block) (w : Warp) : Option Region :=
  if w.region.isSome then b.regions.find? fun r => r.core == w.core && r.pitch == w.pitch else none

/-- The home warp of the lane at position `l` (R34, R249). -/
def homeWarp (b : Block) (w : Warp) (l : Nat) : Nat :=
  match b.regionOf w, w.region with
  | some r, some j => (r.table.getD j []).getD l w.num
  | _, _ => w.num

/-- The value of system register `sr` for lane position `l` (R249). -/
def State.sysReg (s : State) (c : Issue) (b : Block) (w : Warp) (sr l : Nat) : Nat :=
  let k := b.stack
  let cl := w.core / 8
  let st := s.stack? k
  if sr = 0x000 then l
  else if sr = 0x001 then homeWarp b w l
  else if sr = 0x002 then w.num
  else if sr = 0x003 then b.num
  else if sr = 0x004 then w.pitch
  else if sr = 0x005 then w.core
  else if sr = 0x006 then b.vdie
  else if sr = 0x007 then b.rcd.cls
  else if sr = 0x008 then b.rcd.warps + 1
  else if sr = 0x009 then b.rcd.grid.getD 0 1
  else if sr = 0x00A then b.rcd.grid.getD 1 1
  else if sr = 0x00B then b.rcd.grid.getD 2 1
  else if sr = 0x00C then b.stage
  else if sr = 0x00D then b.task
  else if sr = 0x00E then b.ctx
  else if sr = 0x010 then c.cycle
  else if sr = 0x011 then st.mclk
  else if sr = 0x012 then st.vlevel
  else if sr = 0x013 then
    let p := s.pulse k cl
    p.1 + p.2 * 2 ^ 13 + pulseMask p.1 * 2 ^ 16
  else if sr = 0x014 then s.rainfly.emax.getD (4 * k + cl) 0 - (s.cluster k cl).energy
  else if sr = 0x015 then
    match s.ctx? b.ctx with
    | some x => (x.vdies.mapIdx fun v p =>
        (s.hbms.getD (2 * p) default).hot.bit * 2 ^ (2 * v) +
        (s.hbms.getD (2 * p + 1) default).hot.bit * 2 ^ (2 * v + 1)).sum
    | none => 0
  else if sr = 0x016 then
    match w.step with
    | some d => d.done + d.isOpen.bit * 2 ^ 32 + (d.risk && d.isOpen).bit * 2 ^ 33
    | none => 0
  else if sr = 0x017 then st.limit
  else if sr = 0x018 then
    match w.grant with
    | some n => 16 + n
    | none => 0
  else if 0x040 ≤ sr ∧ sr ≤ 0x047 then (w.bread (sr - 0x040)).toNat
  else if sr = 0x080 then w.hcause
  else if sr = 0x081 then w.hpc
  else if sr = 0x082 then w.hnext
  else if sr = 0x083 then w.parked.toNat
  else if sr = 0x084 then
    match w.bank with
    | some p => p.masks.length + b.baseDepth w * 2 ^ 5 + w.region.isSome.bit * 2 ^ 10 + p.active.toNat * 2 ^ 32
    | none => 0
  else if sr = 0x085 then w.trapArg
  else if sr = 0x086 then
    match b.regionOf w, w.region with
    | some r, some j => r.members.length + j * 2 ^ 8
    | _, _ => 0
  else if sr = 0x087 then w.spillRec
  else if sr = 0x088 then w.spillOff.toNat
  else if 0x100 ≤ sr ∧ sr ≤ 0x13F then
    match w.records.find? fun r => r.lane == (sr - 0x100) / 2 with
    | some r => if (sr - 0x100) % 2 = 0 then r.bits % 2 ^ 64 else r.bits / 2 ^ 64
    | none => 0
  else if 0x200 ≤ sr ∧ sr ≤ 0x2BF then
    let j := (sr - 0x200) / 4
    let q := (sr - 0x200) % 4
    match b.regionOf w with
    | some r =>
      match r.table[j]? with
      | some t => ((List.range 8).map fun i => t.getD (8 * q + i) 0 * 2 ^ (8 * i)).sum
      | none => 0
    | none => 0
  else 0

/-- `srd` (R248): a scalar takes the value of position 0; a vector each lane's own. -/
def execSrd (g : Guard) (d : SrdDst) (sr : Nat) (s : State) :=
  uniOp s (.srd g d sr) g fun c b w s =>
    match d with
    | .s n => s.fly c 1 (sEffs n (BitVec.ofNat 64 (s.sysReg c b w sr 0)))
    | .v n => s.fly c 1 [.vreg n c.lanes (laneList.map fun l => BitVec.ofNat 32 (s.sysReg c b w sr l))]

/-- `swr` (R248, R249): the two spill registers are the writable ones. -/
def execSwr (g : Guard) (a sr : Nat) (s : State) :=
  uniRes s (.swr g a sr) g fun _ w =>
    if sr = 0x087 then [.spillRec ((w.sread a).toNat % 2 ^ 12)]
    else if sr = 0x088 then [.spillOff (w.sread a)] else []

/-- `clk` (R179): the issuing die's interval; `l6` takes the low bits of earliest. -/
def execClk (g : Guard) (d e : Nat) (s : State) :=
  uniOp s (.clk g d e) g fun c b _ s =>
    let st := s.stack? b.stack
    s.fly c 1 (sEffs d (BitVec.ofNat 64 st.earliest) ++ [.sreg e (BitVec.ofNat 64 st.latest)])

/-- `dline` (R187): a step opens, replacing any open one. -/
def execDline (g : Guard) (a : Nat) (b : SSrc) (s : State) :=
  uniOp s (.dline g a b) g fun c _ w s =>
    let st : DStep := { isOpen := true, deadline := (w.sread a).toNat, expected := max (low32 (b.val c w)).toNat 1, done := 0,
                        cycles := 0, risk := false, due := false }
    s.modWarp c.block c.warp fun w => { w with step := some st }

/-- `dtick` (R187): units done, saturating. -/
def execDtick (g : Guard) (b : SSrc) (s : State) :=
  uniOp s (.dtick g b) g fun c _ w s =>
    let n := (low32 (b.val c w)).toNat
    s.modWarp c.block c.warp fun w =>
      { w with step := w.step.map fun d => if d.isOpen then { d with done := min (d.done + n) (2 ^ 32 - 1) } else d }

/-- `dclose` (R187): whether the step closed in time; what was done of it stays to be read (R186, log entry 78). -/
def execDclose (g : Guard) (q : Nat) (s : State) :=
  uniOp s (.dclose g q) g fun c b w s =>
    let ok := match w.step with
      | some d => d.isOpen && decide ((s.stack? b.stack).latest ≤ d.deadline)
      | none => false
    (s.fly c 1 [.qreg q ok]).modWarp c.block c.warp fun w =>
      { w with step := w.step.map fun d => { d with isOpen := false } }

/-- `info` (R251). -/
def execInfo (g : Guard) (d a kind : Nat) (s : State) :=
  uniOp s (.info g d a kind) g fun c b w s =>
    let v :=
      if kind = 0 then numericRecord (w.sread a).toNat
      else if kind = 1 then
        1 + s.part * 2 ^ 16 + (match s.ctx? b.ctx with
          | some x => x.vdies.length
          | none => 0) * 2 ^ 24 + 32 * 2 ^ 32
      else if kind = 2 then b.rcd.tmem + b.rcd.regs * 2 ^ 32 + b.rcd.dsize * 2 ^ 40
      else ((b.allocOn w.core).getD default).base
    s.fly c 1 (sEffs d (BitVec.ofNat 64 v))

/-- Hops between two physical stacks (R8). -/
def hops (a b : Nat) : Nat := min ((a + 4 - b) % 4) ((b + 4 - a) % 4)

/-- `vdhop` (R252): all ones for what is no virtual die of the context. -/
def execVdhop (g : Guard) (d a : Nat) (b : SSrc) (s : State) :=
  uniOp s (.vdhop g d a b) g fun c k w s =>
    let v := match s.ctx? k.ctx with
      | some x =>
        match x.vdies[(w.sread a).toNat]?, x.vdies[(b.val c w).toNat]? with
        | some p, some q => hops p q
        | _, _ => Config.ones64
      | none => Config.ones64
    s.fly c 1 (sEffs d (BitVec.ofNat 64 v))

end Sys2Proof.Machine
end

