-- ==== Sys2Proof/Machine/Pred.lean ====
section
/-! DEFINITION. The P slot: predicates, votes, the mask stack, regrouping and spills (R33 to R35, R254 to R260). -/

namespace Sys2Proof.Machine

/-- A lane-wise P operation: results of the lanes that take part land at latency 1 (R256). -/
def laneP (s : State) (i : Instr) (g : Guard) (f : Issue → Warp → Mask → List Effect) : Host.Outcome State Fault Refusal :=
  slotOp s i fun c _ w s => s.flyIn c (takers c w g) 1 (f c w (takers c w g))

/-- A vote over the lanes that take part: its one result lands also when there is none (R256). -/
def voteP (s : State) (i : Instr) (g : Guard) (f : Issue → Warp → Mask → List Effect) : Host.Outcome State Fault Refusal :=
  slotOp s i fun c _ w s => s.fly c 1 (f c w (takers c w g))

/-- A predicate with its negation. -/
def Warp.pneg (w : Warp) (a : Nat) (na : Bool) : Mask := if na then ~~~(w.pread a) else w.pread a
/-- A warp predicate with its negation. -/
def Warp.qneg (w : Warp) (a : Nat) (na : Bool) : Bool := w.qread a != na

/-- `pand` (R256). -/
def execPand (g : Guard) (d a : Nat) (na : Bool) (b : Nat) (nb : Bool) (s : State) :=
  laneP s (.pand g d a na b nb) g fun _ w m => [.preg d m (w.pneg a na &&& w.pneg b nb)]
/-- `por` (R256). -/
def execPor (g : Guard) (d a : Nat) (na : Bool) (b : Nat) (nb : Bool) (s : State) :=
  laneP s (.por g d a na b nb) g fun _ w m => [.preg d m (w.pneg a na ||| w.pneg b nb)]
/-- `pxor` (R256). -/
def execPxor (g : Guard) (d a : Nat) (na : Bool) (b : Nat) (nb : Bool) (s : State) :=
  laneP s (.pxor g d a na b nb) g fun _ w m => [.preg d m (w.pneg a na ^^^ w.pneg b nb)]
/-- `pmov` (R256). -/
def execPmov (g : Guard) (d a : Nat) (na : Bool) (s : State) :=
  laneP s (.pmov g d a na) g fun _ w m => [.preg d m (w.pneg a na)]
/-- `pset` (R256): a warp predicate into every lane that takes part. -/
def execPset (g : Guard) (d a : Nat) (na : Bool) (s : State) :=
  laneP s (.pset g d a na) g fun _ w m => [.preg d m (if w.qneg a na then allLanes else 0)]
/-- `vany` (R256): false when no lane takes part. -/
def execVany (g : Guard) (d a : Nat) (na : Bool) (s : State) :=
  voteP s (.vany g d a na) g fun _ w m => [.qreg d (m &&& w.pneg a na != 0)]
/-- `vall` (R256): true when no lane takes part. -/
def execVall (g : Guard) (d a : Nat) (na : Bool) (s : State) :=
  voteP s (.vall g d a na) g fun _ w m => [.qreg d (m &&& ~~~(w.pneg a na) == 0)]
/-- `vcount` (R256): the count also goes to `l7`. -/
def execVcount (g : Guard) (d a : Nat) (na : Bool) (s : State) :=
  voteP s (.vcount g d a na) g fun _ w m =>
    let n := (lanesOf (m &&& w.pneg a na)).length
    [.sreg d (BitVec.ofNat 64 n), .latch 7 allLanes (splat (BitVec.ofNat 32 n))]

/-- `qand` (R257). -/
def execQand (g : Guard) (d a : Nat) (na : Bool) (b : Nat) (nb : Bool) (s : State) :=
  uniRes s (.qand g d a na b nb) g fun _ w => [.qreg d (w.qneg a na && w.qneg b nb)]
/-- `qor` (R257). -/
def execQor (g : Guard) (d a : Nat) (na : Bool) (b : Nat) (nb : Bool) (s : State) :=
  uniRes s (.qor g d a na b nb) g fun _ w => [.qreg d (w.qneg a na || w.qneg b nb)]
/-- `qxor` (R257). -/
def execQxor (g : Guard) (d a : Nat) (na : Bool) (b : Nat) (nb : Bool) (s : State) :=
  uniRes s (.qxor g d a na b nb) g fun _ w => [.qreg d (w.qneg a na != w.qneg b nb)]

/-- The mask and the mask stack that stand from the next word on (R258). -/
def State.newMask (s : State) (m : Mask) (l : List MaskEntry) : State :=
  { s with issue := s.issue.map fun c => { c with newMask := some (m, l) } }

/-- `mpush` (R33). -/
def pushMask (w : Warp) (p : Mask) : Mask × List MaskEntry :=
  (w.active &&& p, w.masks ++ [{ saved := w.active, other := w.active &&& ~~~p }])
/-- `melse` (R33). -/
def elseMask (w : Warp) : Mask × List MaskEntry :=
  match w.masks.getLast? with
  | some e => (e.other, w.masks.dropLast ++ [{ e with other := 0 }])
  | none => (w.active, w.masks)
/-- `mpop` (R33). -/
def popMask (w : Warp) : Mask × List MaskEntry :=
  match w.masks.getLast? with
  | some e => (e.saved, w.masks.dropLast)
  | none => (w.active, w.masks)

/-- `mpush` (R33, R258). -/
def execMpush (g : Guard) (a : Nat) (na : Bool) (s : State) :=
  uniOp s (.mpush g a na) g fun _ _ w s => s.newMask (pushMask w (w.pneg a na)).1 (pushMask w (w.pneg a na)).2
/-- `melse` (R33, R258). -/
def execMelse (g : Guard) (s : State) := uniOp s (.melse g) g fun _ _ w s => s.newMask (elseMask w).1 (elseMask w).2
/-- `mpop` (R33, R258). -/
def execMpop (g : Guard) (s : State) := uniOp s (.mpop g) g fun _ _ w s => s.newMask (popMask w).1 (popMask w).2

/-- `regroup` (R34, R155): the warp arrives, also with its guard false, when all its lanes count as inactive.  Where only a regroup
whose guard holds would trap, one whose guard is false does nothing (log entry 88). -/
def execRegroup (g : Guard) (a : Nat) (na : Bool) (s : State) :=
  slotOp s (.regroup g a na) fun c b w s =>
    if !qGuard w g && (w.handler || w.region.isSome || b.mismatch w c.tok) then s
    else
      (s.modWarp c.block c.warp fun x =>
        { x with wait := .regroup c.tok w.loops.length w.masks.length (w.pneg a na) (qGuard w g) }).holdOn c
        .sync c.uid

/-- `ungroup` (R35, R155). -/
def execUngroup (g : Guard) (s : State) :=
  uniOp s (.ungroup g) g fun c _ _ s =>
    (s.modWarp c.block c.warp fun x => { x with wait := .ungroup }).holdOn c .sync c.uid

-- Spills (R260).

/-- Bytes the word in issue is about to store at an address: what they hold is kept for the reads of the same word (R142) and,
under the word's number, for matrix operations that need not see the store (R154). -/
def State.noteStore (s : State) (addr n : Nat) : State :=
  match s.issue with
  | none => s
  | some c =>
    let old := (List.range n).map fun i => (addr + i, s.mem.read (addr + i))
    { s with issue := some { c with stores := c.stores ++ old } }.modWarp c.block c.warp fun w =>
      { w with unready := w.unready ++ [(c.uid, addr, old.map fun (p : Nat × Byte) => p.2)] }

/-- Bytes stored in the tile memory of core `core` by the word in issue; the granules become full (R129). -/
def State.localStore (s : State) (core off : Nat) (bs : List Byte) : State :=
  let addr := tmemAddr core off
  ((s.noteStore addr bs.length).writeHome addr bs).setFull (granules core off bs.length)

/-- The cause a spill access at byte offset `off` faults with, in the order of R366, or where it goes. -/
def State.spillCheck (s : State) (b : Block) (w : Warp) (write : Bool) (off : Nat) : Except Nat Loc :=
  match (s.pool b)[w.spillRec]? with
  | none => .error 0x26
  | some r =>
    if r.kind ≥ 2 then .error 0x27
    else if !r.right (if write then 1 else 0) then .error 0x22
    else if r.meter != 0xFF && !b.rcd.meters.bitAt r.meter then .error 0x25
    else if r.format != 0 || r.described then .error 0x28
    else if r.size < off + 8 then .error 0x20
    else if off % 8 != 0 then .error 0x21
    else if write && r.kind == 0 && (match s.entryOf r.base off with
        | some e => e.resident && !e.writable
        | none => false) then .error 0x23
    else if write && r.kind == 0 && s.isStamped (s.tensorAddr r.base off) 8 then .error 0x24
    else .ok (r.locate b w off)

/-- The accesses of a spill: their locations, or the first cause. -/
def spillLocs : List (Except Nat Loc) → Except Nat (List Loc)
  | [] => .ok []
  | .error k :: _ => .error k
  | .ok l :: r =>
    match spillLocs r with
    | .error k => .error k
    | .ok ls => .ok (l :: ls)

/-- A fatal context error of the word in issue, at its boundary (R127, R246). -/
def State.fatalWord (s : State) (c : Issue) (code trap rcd lane : Nat) (c0 c1 : Word32) : State :=
  s.modWarp c.block c.warp fun w =>
    match w.trap with
    | some _ => w
    | none =>
      { w with trap := some { code := code, arg := trap, hpc := c.tok, hnext := c.tok, loops := w.loops, idle := w.idle,
                              slot := slotNum c.cur, rcd := rcd, lane := lane, c0 := c0, c1 := c1 } }

/-- The fatal error of a spill access: it names a byte and no coordinates, so c0 and c1 are free (log entry 7). -/
def State.spillFatal (s : State) (c : Issue) (code trap rcd : Nat) : State :=
  let c0 := s.freeWord
  let c1 := c0.2.freeWord
  c1.2.fatalWord c code trap rcd 0xFF c0.1 c1.1

/-- A spill access: a fault is fatal with 0x84, and no trap led to it (R260, R351), an absent frame with 0x85 (R127); else the locations. -/
def State.spill (s : State) (c : Issue) (b : Block) (w : Warp) (write : Bool) (offs : List Nat)
    (f : List Loc → State → State) : State :=
  match spillLocs (offs.map (s.spillCheck b w write)) with
  | .error _ => s.spillFatal c 0x84 0 w.spillRec
  | .ok ls => if ls.any s.absent then s.spillFatal c 0x85 0 w.spillRec else f ls s

/-- An access of a spill to a frame counts on its meter, 8 bytes, and as an access of the stack (R136, R137, R260). -/
def State.spillCount (s : State) (b : Block) (w : Warp) (l : Loc) : State :=
  match l, (s.pool b)[w.spillRec]? with
  | .tensor base off, some r => (s.countMeter (s.meterOf b r off) 8).countAccess base off b.stack
  | _, _ => s

/-- Eight bytes stored by a spill (R260): in tile memory like a store, else at the frame's home. -/
def State.spillStore (s : State) (b : Block) (w : Warp) (l : Loc) (bs : List Byte) : State :=
  match l with
  | .tmem k c off => s.localStore (32 * k + c) off bs
  | .tensor base off =>
    let addr := s.tensorAddr base off
    ((s.noteStore addr bs.length).writeHome addr bs).spillCount b w l
  | .peer _ _ _ => s

/-- The bytes of a mask-stack entry (R260). -/
def MaskEntry.bytes (e : MaskEntry) : List Byte := leBytes 4 e.saved.toNat ++ leBytes 4 e.other.toNat
def MaskEntry.ofBytes (bs : List Byte) : MaskEntry :=
  { saved := BitVec.ofNat 32 (leNat (bs.take 4)), other := BitVec.ofNat 32 (leNat (bs.drop 4)) }

/-- The program bank's mask stack and the spill offset changed (R260). -/
def State.setBankMasks (s : State) (c : Issue) (l : List MaskEntry) (off : Word64) : State :=
  s.modWarp c.block c.warp fun w => { w with bank := w.bank.map fun k => { k with masks := l }, spillOff := off }

/-- `mspill` (R260): the offset is written at issue, so a `swr` of it in the same word stands (log entry 121). -/
def execMspill (g : Guard) (n : Nat) (s : State) :=
  uniOp s (.mspill g n) g fun c b w s =>
    match w.bank with
    | none => s
    | some k =>
      s.spill c b w true ((List.range n).map fun i => (w.spillOff + BitVec.ofNat 64 (8 * i)).toNat) fun ls s =>
        ((ls.zip k.masks).foldl (fun s p => s.spillStore b w p.1 p.2.bytes) s).setBankMasks c (k.masks.drop n)
          (w.spillOff + BitVec.ofNat 64 (8 * n))

/-- `mfill` (R260). -/
def execMfill (g : Guard) (n : Nat) (s : State) :=
  uniOp s (.mfill g n) g fun c b w s =>
    match w.bank with
    | none => s
    | some k =>
      let o := w.spillOff - BitVec.ofNat 64 (8 * n)
      s.spill c b w false ((List.range n).map fun i => (o + BitVec.ofNat 64 (8 * i)).toNat) fun ls s =>
        let q := ls.foldl (fun (q : List MaskEntry × State) l =>
          let p := q.2.lookup (some (c.block, c.warp)) q.2.uid c.stores (q.2.addrOf l) 8
          (q.1 ++ [MaskEntry.ofBytes p.1], p.2.spillCount b w l)) ([], s)
        q.2.setBankMasks c (q.1 ++ k.masks) o

end Sys2Proof.Machine
end

