-- ==== Sys2Proof/Machine/Agen.lean ====
section
/-! DEFINITION. The A slots: address streams (R285 to R288). -/

namespace Sys2Proof.Machine

/-- The latch of the A unit the slot runs on: lane l's coordinate, with the lane step when the dimension is stepped
(R287). -/
def agLatch (c : Issue) (x : AStream) (dim : Nat) (v : Word32) : Effect :=
  .latch c.cur.latch allLanes (laneList.map fun (l : Nat) =>
    if dim = x.sdim then v + BitVec.ofInt 32 ((l : Int) * x.step.toInt) else v)

/-- `agbind` (R287). -/
def execAgbind (g : Guard) (x : Nat) (v : ASrc) (s : State) :=
  uniRes s (.agbind g x v) g fun c w => [.xreg x (.bind ((v.val c w).toNat % 2 ^ 12))]
/-- `agset` (R287). -/
def execAgset (g : Guard) (x dim : Nat) (v : ASrc) (s : State) :=
  uniRes s (.agset g x dim v) g fun c w =>
    let r := low32 (v.val c w)
    [.xreg x (.setC dim r), agLatch c (w.xread x) dim r]
/-- `agadd` (R287). -/
def execAgadd (g : Guard) (x dim : Nat) (v : ASrc) (s : State) :=
  uniRes s (.agadd g x dim v) g fun c w =>
    let r := (w.xread x).c.getD dim 0 + low32 (v.val c w)
    [.xreg x (.setC dim r), agLatch c (w.xread x) dim r]
/-- `agstep` (R287). -/
def execAgstep (g : Guard) (x dim : Nat) (v : ASrc) (s : State) :=
  uniRes s (.agstep g x dim v) g fun c w => [.xreg x (.setI dim (low32 (v.val c w)))]
/-- `aglane` (R287). -/
def execAglane (g : Guard) (x dim : Nat) (v : ASrc) (s : State) :=
  uniRes s (.aglane g x dim v) g fun c w => [.xreg x (.setLane ((v.val c w).setWidth 16) dim)]

/-- A field of a stream as `agget` gives it (R287). -/
def AStream.field (x : AStream) : AField → Word64
  | .c k => (x.c.getD k 0).setWidth 64
  | .i k => (x.i.getD k 0).signExtend 64
  | .lane => BitVec.ofNat 64 (x.step.toNat + x.sdim * 2 ^ 16)
  | .recIdx => BitVec.ofNat 64 x.rcd

/-- `agget` (R287). -/
def execAgget (g : Guard) (x : Nat) (f : AField) (d : Nat) (s : State) :=
  uniRes s (.agget g x f d) g fun c w =>
    let r := (w.xread x).field f
    [.sreg d r, .latch c.cur.latch allLanes (splat (low32 r))]

end Sys2Proof.Machine
end

