-- ==== Sys2Proof/Machine/Links.lean ====
section
/-! DEFINITION. The peer links (R16, R202): checksums, headers, credits and replay, the route of a request, drain packets. -/

namespace Sys2Proof.Machine

-- Checksums.

/-- Eight steps of the reflected CRC-32 of IEEE 802.3. -/
def crcStep (x : BitVec 32) : Nat → BitVec 32
  | 0 => x
  | n + 1 => crcStep (if x.getLsbD 0 then (x >>> 1) ^^^ 0xEDB88320#32 else x >>> 1) n

/-- CRC-32 over bytes in ascending order, preset and inverted as IEEE 802.3 does (log entry 23). -/
def crc32 (bs : List Byte) : Nat :=
  ((bs.foldl (fun x b => crcStep (x ^^^ b.setWidth 32) 8) (BitVec.allOnes 32)) ^^^ BitVec.allOnes 32).toNat

/-- The CRC of a flit with its bits [31:0] taken as 0, and of the data flits after it (R16). -/
def flitCrc (f : Nat) (body : List Nat) : Nat :=
  crc32 (leBytes 32 (f / 2 ^ 32 * 2 ^ 32) ++ body.flatMap (leBytes 32))

/-- A flit with its CRC in place. -/
def sealFlit (f : Nat) (body : List Nat) : Nat := f / 2 ^ 32 * 2 ^ 32 + flitCrc f body
def crcOk (f : Nat) (body : List Nat) : Bool := f.field 0 32 == flitCrc f body

-- Flits.

/-- The fields of a packet header but its lseq and CRC (R16). -/
structure Head where
  op     : Nat
  scope  : Nat
  order  : Nat
  src    : Nat
  dst    : Nat
  tag    : Nat
  count  : Nat
  aop    : Nat
  atype  : Nat
  table  : Nat
  tile   : Nat
  offset : Nat
  status : Nat
  deriving DecidableEq, Repr, Inhabited

/-- A header flit (R16). -/
def Head.flit (h : Head) (ndata lseq : Nat) : Nat :=
  2 * 2 ^ 252 + h.op * 2 ^ 248 + ndata * 2 ^ 245 + lseq * 2 ^ 232 + h.scope * 2 ^ 229 + h.order * 2 ^ 227 +
  h.src * 2 ^ 208 + h.dst * 2 ^ 192 + h.tag * 2 ^ 176 + h.count * 2 ^ 168 + h.aop * 2 ^ 164 + h.atype * 2 ^ 162 +
  h.table * 2 ^ 96 + h.tile * 2 ^ 64 + h.offset * 2 ^ 48 + h.status * 2 ^ 32

/-- The fields of a received header flit. -/
def Head.ofFlit (f : Nat) : Head :=
  { op := f.field 248 4, scope := f.field 229 3, order := f.field 227 2, src := f.field 208 16, dst := f.field 192 16,
    tag := f.field 176 16, count := f.field 168 8, aop := f.field 164 4, atype := f.field 162 2, table := f.field 96 64,
    tile := f.field 64 32, offset := f.field 48 16, status := f.field 32 16 }

/-- A payload as data flits of 32 bytes, the last one filled up with zeros. -/
def dataFlits (bs : List Byte) : List Nat :=
  (List.range ((bs.length + 31) / 32)).map fun i => leNat ((bs.drop (32 * i)).take 32)

/-- A module's device id (R220), the first 16 bytes of the SHAKE256 of its identity key. -/
def deviceId : Nat := leNat ((Config.shake256 Config.identityKey).take 16)

/-- The hello flit of a port. -/
def helloFlit (port : Nat) : Nat := sealFlit (2 ^ 252 + 2 ^ 248 + port * 2 ^ 244 + deviceId * 2 ^ 112) []

/-- An ack flit: last lseq received in order, nak, credits returned. -/
def ackFlit (lseq : Nat) (nak : Bool) (credits : Nat) : Nat :=
  sealFlit (4 * 2 ^ 252 + lseq * 2 ^ 232 + nak.bit * 2 ^ 231 + credits * 2 ^ 208) []

-- Ports.

def State.port (s : State) (p : Nat) : Port := s.ports.getD p Port.reset
def State.modPort (s : State) (p : Nat) (f : Port → Port) : State := { s with ports := s.ports.modify p f }

/-- Packets without a credit leave as credits come (R16); the last 512 are kept for a replay. -/
def Port.flushGo (x : Port) : List (List Nat) → Nat → Port
  | [], c => { x with waiting := [], credits := c }
  | pk :: r, 0 => { x with waiting := pk :: r, credits := 0 }
  | pk :: r, c + 1 =>
    Port.flushGo { x with out := x.out ++ pk, replay := (x.replay ++ [pk]).drop (x.replay.length - 511) } r c

def Port.flush (x : Port) : Port := if x.state = 2 then x.flushGo x.waiting x.credits else x

/-- A packet numbered and handed to a port. -/
def Port.send (x : Port) (h : Head) (body : List Nat) : Port :=
  let pk := sealFlit (h.flit body.length x.txSeq) body :: body
  Port.flush { x with txSeq := (x.txSeq + 1) % 4096, waiting := x.waiting ++ [pk] }

/-- The packets kept after `lseq`, in order. -/
def Port.after (x : Port) (lseq : Nat) : List (List Nat) :=
  x.replay.filter fun pk =>
    let d := ((pk.headD 0).field 232 12 + 4096 - lseq) % 4096
    0 < d && d ≤ 512

/-- A link that goes into training: its hellos leave (log entry 24); both sequence numbers stand (log entry 91). -/
def Port.train (x : Port) (p : Nat) : Port :=
  { x with state := 1, hellosIn := 0, hellosOut := 3, header := none, payload := [], nakTimes := [],
           out := x.out ++ [helloFlit p, helloFlit p, helloFlit p] }

/-- A link that comes up: with full credits the packets the partner has not acknowledged leave again, then those that waited,
each taking a credit. -/
def Port.up (x : Port) : Port :=
  let again := x.after x.acked
  Port.flush { x with state := 2, credits := 256, gap := false, waiting := again ++ x.waiting,
                      replay := x.replay.filter fun pk => !again.contains pk }

-- Requests.

/-- Tags a packet's header has (R16). -/
def tagCount : Nat := 65536

/-- The lowest tag no outstanding request bears; one that no packet can bear when all are taken. -/
def State.freeTag (s : State) : Nat :=
  ((List.range (s.peerReqs.length + 1)).find? fun t => s.peerReqs.all fun (r : PeerReq) => r.tag != t).getD 0

/-- A port a core sends by, to be drained at its next fence or drain (R16). -/
def State.usePort (s : State) (core port peer : Nat) (r : Path) : State :=
  let u : UsedPort := { core := core, port := port, peer := peer, mask := r.mask, device := r.device }
  { s with usedPorts := s.usedPorts.filter (fun v => !(v.core == core && v.port == port)) ++ [u] }

/-- A request of a peer has left by a port; what it asks for must be drained, a drain packet itself need not be (R16). -/
def State.sentBy (s : State) (q : PeerReq) (p : Nat) : State :=
  match q.who with
  | .drain _ _ _ => s
  | .lane _ _ => s.usePort q.core p q.peer q.path
  | .engine _ _ _ _ => s.usePort q.core p q.peer q.path

/-- The t-hat of the die of a core, which its timeouts count (R182). -/
def State.coreThat (s : State) (core : Nat) : Nat := (s.stack? (core / 32)).that

/-- A peer request is recorded and leaves by `port`; without a port, or while every tag is borne, it waits (R16; log entry 103). -/
def State.peerRequest (s : State) (core peer : Nat) (r : Path) (port : Option Nat) (who : PeerWho) (h : Head) (body : List Nat) :
    State :=
  let tag := s.freeTag
  let h : Head := { h with src := s.ownPeer, dst := peer, tag := if tag < tagCount then tag else 0 }
  let q : PeerReq := { tag := tag, port := if tag < tagCount then port else none, since := s.coreThat core, core := core, peer := peer,
                       path := r, who := who, head := h.flit 0 0, body := body }
  let s := { s with peerReqs := s.peerReqs ++ [q] }
  match q.port with
  | none => s
  | some p => (s.modPort p fun x => x.send h body).sentBy q p

/-- A peer request leaves by the route its access took at its submission (R202). -/
def State.submitPeer (s : State) (core peer : Nat) (route : Option Path) (who : PeerWho) (h : Head) (bs : List Byte) : State :=
  let r := route.getD default
  s.peerRequest core peer r (s.pathPort r) who h (dataFlits bs)

/-- A waiting request takes a tag, if it has none, and leaves by a port of its route that is up (R16). -/
def State.resendOne (s : State) (q : PeerReq) : State :=
  let tag := if q.tag < tagCount then q.tag else s.freeTag
  match s.pathPort q.path with
  | none => s
  | some p =>
    if q.port.isSome || decide (tagCount ≤ tag) then s
    else
      let h : Head := { Head.ofFlit q.head with tag := tag }
      ({ s with peerReqs := s.peerReqs.map fun (r : PeerReq) =>
          if r.tag == q.tag then { r with tag := tag, port := some p, head := h.flit 0 0 } else r
        }.modPort p fun x => x.send h q.body).sentBy q p

/-- Requests that wait leave, those that now can (R16). -/
def State.resend (s : State) : State := s.peerReqs.foldl State.resendOne s

/-- A peer request ends: its tag is free again, and a request that waits for one leaves (log entry 103). -/
def State.dropReq (s : State) (tag : Nat) : State :=
  let s := { s with peerReqs := s.peerReqs.filter fun (k : PeerReq) => k.tag != tag }
  if s.peerReqs.any fun (k : PeerReq) => decide (tagCount ≤ k.tag) then s.resend else s

/-- A drain packet on every port the core has used since its last one (R16), for a word whose token stands at `offset`. -/
def State.sendDrains (s : State) (core block warp offset : Nat) : State :=
  let mine := s.usedPorts.filter fun u => u.core == core
  let s := { s with usedPorts := s.usedPorts.filter fun u => u.core != core }
  mine.foldl (fun s u =>
    (s.peerRequest core u.peer { mask := u.mask, device := u.device, port := u.port } (some u.port) (.drain block warp offset)
      { (default : Head) with op := 7, scope := 4 } []).modWarp block warp fun w => { w with drains := w.drains + 1 }) s

/-- The tile field of a packet (R16), which has 32 bits: of a number beyond them it holds a free value (log entry 126). -/
def tileField (t : Nat) : Nat := if t < 2 ^ 32 then t else (Config.bigTile t).toNat

/-- The fields that name bytes [off, off + n) of a tile table on the peer (R16). -/
def Head.place (h : Head) (table off n : Nat) : Head :=
  { h with table := table, tile := tileField (off / 65536), offset := off % 65536, count := n - 1 }

end Sys2Proof.Machine
end

