-- ==== Sys2Proof/Machine/Frames.lean ====
section
/-! DEFINITION. Frames (R10, R19, R126, R137, R370): what a tier of a stack holds, free frames, frames being moved, and
frames brought in from where firmware keeps them. -/

namespace Sys2Proof.Machine

/-- Frames of a stack's HBM that a context's Bivouac takes (R204): its size spread evenly over the bound stacks. -/
def Context.bivouacOn (x : Context) (die : Nat) : Nat :=
  if x.vdies.contains die then (x.bivouac * Config.framesPerMiB + x.vdies.length - 1) / x.vdies.length else 0

/-- Frames that hold `n` bytes. -/
def framesFor (n : Nat) : Nat := (n + Config.frameBytes - 1) / Config.frameBytes

/-- Frames of the copies of an image's dictionaries, 66 bytes an entry, and of its streams on a stack (R63, R75), without the stream
frames out of residence there (R358). -/
def State.copyFrames (s : State) (im : Image) (die : Nat) : Nat :=
  let dicts := (im.units.map fun u => framesFor (66 * u.dict.length)).sum
  let streams := (im.units.map fun u => framesFor u.code.length).sum
  let own := match im.handler with
    | some h => framesFor (66 * h.dict.length) + framesFor h.code.length
    | none => 0
  dicts + streams + own - (s.out.filter fun k => k.1 == im.ctx && k.2.1 == im.handle && k.2.2.2.1 == die).length

/-- The copies of a context's images stand on a stack: it has a block there (R63, R75), or a `VDIE_BIND` has placed them (R206). -/
def State.copiesStand (s : State) (ctx die : Nat) : Bool :=
  (s.blocks.any fun b => b.ctx == ctx && b.stack == die && b.status == .placed) ||
  s.contexts.any fun x => x.num == ctx && x.copies.contains die

/-- The frames that copies of dictionaries and streams take on a stack (R63, R75). -/
def State.copyTotal (s : State) (die : Nat) : Nat :=
  ((s.images.filter fun im => s.copiesStand im.ctx die).map fun im => s.copyFrames im die).sum

/-- The frames of a tier on a stack (R10, R15, R19), the Bivouacs taken off and the copies of dictionaries and streams, which stand in
the HBM (R63, R75; log entry 25). -/
def State.tierFrames (s : State) (tier die : Nat) : Nat :=
  if tier = 0 then s.rainfly.carve.getD die 0 * Config.framesPerMiB
  else if tier = 1 then
    Config.hbmFrames - (s.contexts.map fun x => x.bivouacOn die).sum - s.copyTotal die
  else Config.farFrames

/-- The frames in use of a tier on a stack. -/
def State.usedFrames (s : State) (tier die : Nat) : List Nat :=
  (s.tensors.flatMap fun t => t.entries.flatMap fun e =>
    (if e.resident && e.tier == tier && e.die == die then [e.frame] else []) ++
    (match e.moving with
      | some (d, f) => if e.tier == tier && d == die then [f] else []
      | none => [])) ++
  (if tier = 0 then
    s.tasks.flatMap fun t => t.queues.flatMap fun q => if q.stack == die then q.frames else []
   else [])

/-- The lowest `n` free frames (log entry 25), if there are as many. -/
def State.freeFrames (s : State) (tier die n : Nat) : Option (List Nat) :=
  let used := s.usedFrames tier die
  if s.tierFrames tier die < used.length + n then none
  else some (((List.range (used.length + n)).filter fun f => !used.contains f).take n)

/-- A frame of a tensor is being moved (R137). -/
def State.moving (s : State) : Loc → Bool
  | .tmem _ _ _ => false
  | .tensor base off =>
    match s.entryOf base off with
    | some e => e.moving.isSome
    | none => false
  | .peer _ _ _ => false

/-- A frame set aside by firmware, or nothing when it was never written. -/
def State.pagedFrame (s : State) (base tile : Nat) : Paged :=
  (s.paged.find? fun p => p.base == base && p.tile == tile).getD
    { base := base, tile := tile, mem := [], tags := [], stamped := [] }

/-- A frame's cells written at a place that holds nothing. -/
def Memory.place (m : Memory) (at_ : Nat) (cells : Memory) : Memory := m.writeAll (cells.map fun c => (at_ + c.1, c.2))

/-- The lines of the frame at an address; a frame holds 1,024 lines of 64 bytes. -/
def inFrame (at_ line : Nat) : Bool := line / 1024 == at_ / 65536

/-- The frame at an address taken up: its bytes, scope tags and stamped versions, relative to its start. -/
def State.takeFrame (s : State) (at_ base tile : Nat) : Paged × State :=
  ({ base := base, tile := tile, mem := s.mem.slice at_ Config.frameBytes,
     tags := (s.tags.filter fun t => inFrame at_ t.line).map fun t => { t with line := t.line % 1024 },
     stamped := (s.stamped.filter fun t => inFrame at_ t.line).map fun t => { t with line := t.line % 1024 } },
   { s with mem := s.mem.clear at_ Config.frameBytes, tags := s.tags.filter fun t => !inFrame at_ t.line,
            stamped := s.stamped.filter fun t => !inFrame at_ t.line })

/-- A frame set down at an address whose own contents are gone. -/
def State.putFrame (s : State) (at_ : Nat) (p : Paged) : State :=
  let s := (s.takeFrame at_ 0 0).2
  { s with mem := s.mem.place at_ p.mem,
           tags := s.tags ++ p.tags.map fun t => { t with line := at_ / 64 + t.line },
           stamped := s.stamped ++ p.stamped.map fun t => { t with line := at_ / 64 + t.line } }

/-- A frame of a tensor brought in to a free frame of its tier on its stack (R139); unchanged when there is none. -/
def State.bringIn (s : State) (base tile : Nat) : State :=
  match s.entryOf base (tile * 65536) with
  | none => s
  | some e =>
    if e.resident then s
    else
      match s.freeFrames e.tier e.die 1 with
      | some [f] =>
        let s := { s.putFrame (frameAddr e.tier e.die f 0) (s.pagedFrame base tile) with
                   paged := s.paged.filter fun p => !(p.base == base && p.tile == tile) }
        s.modTensor base fun t => { t with entries := t.entries.modify tile fun e => { e with resident := true, frame := f } }
      | _ => s

/-- A probe of a placed block that has not exited covers a frame (R370). -/
def State.probedFrame (s : State) (base tile : Nat) : Bool :=
  s.blocks.any fun b => b.status == .placed && b.warps.any Warp.live && b.probed.contains (base, tile)

/-- A request, commit or engine operation still has business with a frame. -/
def State.frameBusy (s : State) (base tile : Nat) : Bool :=
  let hit := fun (l : Loc) => match l with
    | .tensor b o => b == base && o / 65536 == tile
    | .tmem _ _ _ => false
    | .peer _ _ _ => false
  s.reqs.any (fun r => r.lanes.any fun a => hit a.loc) || s.commits.any (fun k => k.base == base && k.off / 65536 == tile)

/-- A resident frame meets the conditions under which firmware may take it out of residence (R370). -/
def State.removable (s : State) (base tile : Nat) : Bool :=
  match s.tensor? base, s.entryOf base (tile * 65536) with
  | some t, some e => e.resident && e.pins == 0 && e.tier != 0 && !t.pinned && !s.probedFrame base tile
  | _, _ => false

/-- Firmware takes a frame out of residence: no access is under way to it and it is not being moved. -/
def State.evictable (s : State) (base tile : Nat) : Bool :=
  s.removable base tile && !s.moving (.tensor base (tile * 65536)) && !s.frameBusy base tile

/-- Some frame of a tier on a stack can be taken out of residence under R370. -/
def State.anyRemovable (s : State) (tier die : Nat) : Bool :=
  s.tensors.any fun t => (List.range t.entries.length).any fun i =>
    (match t.entries[i]? with
      | some e => e.tier == tier && e.die == die
      | none => false) && s.removable t.base i

end Sys2Proof.Machine
end

