-- ==== Sys2Proof/Machine/MemOps.lean ====
section
/-! DEFINITION. The M slot (R289 to R309) and the events of memory: loads, stores, load-blocks, atomics, fences, probes,
stamped commits, stage queues and full/empty operations. -/

namespace Sys2Proof.Machine

-- Shared operations.

/-- A memory operation acts when at least one lane takes part (R290). -/
def memOp (s : State) (i : Instr) (g : Guard) (f : Issue → Block → Warp → Mask → State → State) :
    Host.Outcome State Fault Refusal :=
  slotOp s i fun c b w s => if takers c w g = 0 then s else f c b w (takers c w g) s

/-- The post-increment of a stream (R291). -/
def State.bump (s : State) (c : Issue) (w : Warp) (inc : Bool) (x : Nat) : State :=
  if inc then
    let a := w.xread x
    s.fly c 1 ((List.range 4).map fun k => .xreg x (.setC k (a.c.getD k 0 + a.i.getD k 0)))
  else s

/-- One lane's coordinate in its attempt. -/
def Try.coord (t : Try) (k : Nat) : Word32 := BitVec.ofNat 32 (t.coords.getD k 0)

/-- A lane-wise access (R294, R295): an absent frame ends the context and nothing is performed (R127); else the lanes that
passed their checks act, the others are parked (R37), and the stream is incremented. -/
def State.memLanes (s : State) (c : Issue) (b : Block) (w : Warp) (i : Instr) (m : Mask) (x : Nat) (inc : Bool)
    (f : List Try → State → State) : State :=
  let rcd := (w.xread x).rcd
  let ts := s.tries c b w i m
  match ts.find? fun t => match t.res with
      | .ok l => s.absent l
      | .error _ => false with
  | some t => s.fatalWord c 0x85 0 rcd t.lane (t.coord 0) (t.coord 1)
  | none =>
    ((f ts s).parkAll b.bid w.num (badTries c rcd (slotNum c.cur) ts) 0x81).bump c w inc x

/-- The bytes each lane reads, lanes ascending. -/
def State.lookupAll (s : State) (c : Issue) (n : Nat) : List (Nat × Loc) → List (Nat × List Byte) × State
  | [] => ([], s)
  | a :: r =>
    let p := s.lookup (some (c.block, c.warp)) s.uid c.stores (s.addrOf a.2) n
    let q := p.2.lookupAll c n r
    ((a.1, p.1) :: q.1, q.2)

/-- The vector registers a load writes, from the bytes of each lane (R292). -/
def loadEffs (d : VDst) (w : Width) (sx : Bool) (vals : List (Nat × List Byte)) : List Effect :=
  let word := fun (i l : Nat) => match vals.find? fun v => v.1 == l with
    | some v => (loadWords w sx v.2).getD i 0
    | none => 0
  match d with
  | .nw => []
  | .reg n => (List.range w.regs).map fun i =>
      .vreg (n + i) (maskOf fun l => vals.any fun v => v.1 == l) (laneList.map (word i))

/-- The latch `l3` as a tile-memory load writes it (R50, R294). -/
def loadLatch (w : Width) (sx : Bool) (vals : List (Nat × List Byte)) : Effect :=
  .latch 3 (maskOf fun l => vals.any fun v => v.1 == l) (laneList.map fun l =>
    match vals.find? fun v => v.1 == l with
    | some v => (loadWords w sx v.2).getD 0 0
    | none => 0)

/-- The vector registers of a destination, as pending registers (R54). -/
def vregsOf (d : VDst) (k : Nat) : List PReg :=
  match d with
  | .nw => []
  | .reg n => (List.range k).map fun i => .v (n + i)

/-- The lane parts of a request. -/
def State.laneAccs (s : State) (b : Block) (r : Record) (n : Nat) (data cmp : Nat → List Byte) (ts : List Try) :
    List LaneAcc :=
  ts.filterMap fun t => match t.res with
    | .error _ => none
    | .ok loc =>
      some { lane := t.lane, loc := loc, bytes := n, data := data t.lane, cmp := cmp t.lane,
             meter := (match loc with
               | .tensor _ off => s.meterOf b r off
               | .tmem _ _ _ => none
               | .peer _ _ _ => none),
             c0 := t.coord 0, c1 := t.coord 1 }

/-- A request of the word in issue for the lanes that passed (R141), with its route (R202); none when no lane did. -/
def State.request_ (s : State) (c : Issue) (b : Block) (w : Warp) (rcd : Nat) (k : ReqKind) (ls : List LaneAcc)
    (regs : List PReg) : Nat × State :=
  let id := s.uid
  if ls.isEmpty then (id, s)
  else
    let r : Req := { id := id, block := b.bid, warp := w.num, handler := w.handler, stack := b.stack, core := w.core,
                     word := c.uid, kind := k, lanes := ls, offset := c.tok, rec_ := rcd, route := ((s.pool b)[rcd]?).bind s.routeTo,
                     overr := c.stores, undef := [] }
    let s : State := { s with uid := id + 1, reqs := s.reqs ++ [r] }
    (id, s.pend c id regs)

/-- A request of a peer's bytes uses the port of its route from its issue on (R16, R202). -/
def State.usePeer (s : State) (core : Nat) (r : Record) : State :=
  match s.routeTo r with
  | some p => s.usePort core p.port r.peer p
  | none => s

/-- A lane of a request leaves for a peer, once, by the route its access took at its issue (R16, R202). -/
def State.sendLane (s : State) (r : Req) (a : LaneAcc) (peer table off : Nat) (h : Head) (bs : List Byte) : State :=
  if s.peerReqs.any fun q => q.who == .lane r.id a.lane then s
  else s.submitPeer (32 * r.stack + r.core) peer r.route (.lane r.id a.lane) (Head.place h table off a.bytes) bs

-- What performs.

/-- Words delivered to a lane of a destination group. -/
def Warp.deliver (w : Warp) (d : VDst) (lane : Nat) (ws : List Word32) : Warp :=
  match d with
  | .nw => w
  | .reg n => (ws.zipIdx).foldl (fun w p => { w with v := w.v.set (n + p.2) ((w.vread (n + p.2)).set lane p.1) }) w

/-- Data of a request reaches lanes' registers in the cluster's cycle: a result of an earlier word that lands there in the same
cycle does not outlast it (R53). -/
def State.give (s : State) (r : Req) (d : VDst) (lane : Nat) (ws : List Word32) : State :=
  let t := (s.cluster r.stack (r.core / 8)).cycle
  s.modWarp r.block r.warp fun w =>
    let w := match d with
      | .nw => w
      | .reg n => (List.range ws.length).foldl (fun w i => w.settleOn (.v (n + i)) (BitVec.ofNat 32 (2 ^ lane)) t) w
    w.deliver d lane ws

/-- Lanes of a request have ended; with the last one the request ends and its registers' data has returned (R54, R141). -/
def State.endLanes (s : State) (r : Req) (done : List Nat) : State :=
  match s.reqs.find? fun q => q.id == r.id with
  | none => s
  | some q =>
    let left := q.lanes.filter fun a => !done.contains a.lane
    if left.isEmpty then
      let t := (s.cluster r.stack (r.core / 8)).cycle
      let s : State := { s with reqs := s.reqs.filter fun q => q.id != r.id }
      s.modWarp r.block r.warp fun w =>
        { w with pend := w.pend.map fun (p : Pend) => if p.req == r.id then { p with returned := some t } else p }
    else { s with reqs := s.reqs.map fun (q : Req) => if q.id == r.id then { q with lanes := left } else q }

/-- An engine operation reads after an earlier write of the same warp (R153). -/
def EngOp.follows (o : EngOp) (r : Req) : Bool :=
  o.block == r.block && o.warp == r.warp && decide (r.id < o.id) && (match o.kind with
    | .cpy => o.st == .queued
    | .cpym _ => o.st == .queued
    | .coll _ => o.st == .queued
    | .mload _ _ _ => true
    | .mstore _ _ _ _ _ _ => false
    | .mmac _ _ _ _ _ => false
    | .lblk _ _ _ => false)

/-- The 64-byte piece of an operand that holds a byte, which is read in one moment (R111): the operand's box and the number of the
piece, counted from an address that lies a multiple of 64 bytes before the operand's first. -/
def State.pieceOf (s : State) (o : EngOp) (a : Nat) : Nat × Nat :=
  match (o.srcA.toList ++ o.srcB.toList).zipIdx.find? fun x => (s.boxAddrs x.1).contains a with
  | some x => (x.2, (a + 64 - s.addrOf (x.1.loc 0) % 64) / 64)
  | none => (2, a / 64)

/-- Of the bytes of a store with their old contents, those that a matrix operation takes for one it need not see (R154): piece by
piece a free choice (log entry 7), but none is seen in a piece where an earlier one, or one of its own word, is not (R111, R142). -/
def State.pickOld (s : State) (o : EngOp) (old : List (Nat × Byte)) : List (Nat × Byte) :=
  let ps := (old.map fun p => s.pieceOf o p.1).dedup
  old.filter fun p =>
    let k := s.pieceOf o p.1
    (o.overr.any fun q => s.pieceOf o q.1 == k) ||
      (Config.freeByte (s.freeCtr + ps.idxOf k)).toNat % 2 == 0

/-- What a write of bytes (old contents given) means for an outstanding operation: one of its own word is not seen (R142), one of
an earlier word of its warp is (R153) or, by a matrix operation, may be (R154); any other leaves undefined bytes. -/
def State.meets (s : State) (r : Req) (old : List (Nat × Byte)) (o : EngOp) : EngOp :=
  let as := old.map (·.1)
  if o.block == r.block && o.warp == r.warp && o.word == r.word then { o with overr := o.overr ++ old, own := o.own ++ as }
  else if o.follows r then o
  else if o.block == r.block && o.warp == r.warp && decide (r.id < o.id) && o.kind.isMmac then
    { o with overr := o.overr ++ s.pickOld o old }
  else { o with taint := o.taint ++ as }

/-- Under which number a store or atomic that performs is kept from the matrix operations that need not see it (R154): its word's,
or 0 for an atomic that acquires. -/
def Req.unseenAs (r : Req) : Nat :=
  match r.kind with
  | .atom _ _ _ order sc => if (order == .acquire || order == .acqRel) && sc != .warp then 0 else r.word
  | .load _ _ _ => r.word
  | .store => r.word
  | .ldas _ _ _ _ _ _ => r.word
  | .qput _ _ _ => r.word
  | .qget _ _ _ => r.word

/-- A release of a warp performs: what it stored before word `word` is seen after its next acquire (R152, R154). -/
def State.released (s : State) (bid wn word : Nat) : State :=
  s.modWarp bid wn fun w => { w with unready := w.unready.map fun e => if e.1 < word then (0, e.2) else e }

/-- Bytes of a posted store or an atomic written at their home; those that a copy of the same word has written are undefined
(R142). -/
def State.writeReq (s : State) (r : Req) (addr : Nat) (bs : List Byte) : State :=
  let old := (List.range bs.length).map fun i => (addr + i, s.mem.read (addr + i))
  let bs := bs.mapIdx fun i v => if r.undef.contains (addr + i) then Config.freeByte (s.freeCtr + bs.length + i) else v
  let ops := s.ops.map (s.meets r old)
  let s : State :=
    { (({ s with mem := s.mem.writeBytes addr bs }).clearTags addr bs.length).taintKept (old.map fun (x : Nat × Byte) => x.1) with
      ops := ops, freeCtr := s.freeCtr + 2 * bs.length }
  s.modWarp r.block r.warp fun w => { w with unready := w.unready ++ [(r.unseenAs, addr, old.map (·.2))] }

/-- A lane of a load or store through a remote window performs at the tile memory it names (R130, R295), whoever holds it by then (log
entry 128). -/
def State.performTmem (s : State) (r : Req) (a : LaneAcc) : State :=
  match r.kind, a.loc with
  | .load d wd sx, .tmem _ _ _ =>
    let p := s.lookup (some (r.block, r.warp)) r.id r.overr (s.addrOf a.loc) a.bytes
    (p.2.give r d a.lane (loadWords wd sx p.1)).endLanes r [a.lane]
  | .store, .tmem k cr off =>
    ((s.writeReq r (s.addrOf a.loc) a.data).setFull (granules (32 * k + cr) off a.bytes)).endLanes r [a.lane]
  | _, _ => s

/-- What a warp still has outstanding through remote windows that name its own core performs before an access through a local
window, which acts at its issue: two accesses of a warp to common bytes perform in program order (R143). -/
def State.settleOwn (s : State) (b : Block) (w : Warp) : State :=
  (s.reqs.flatMap fun r => if r.block == b.bid && r.warp == w.num then r.lanes.map fun a => (r, a) else []).foldl (fun s p =>
    match p.2.loc with
    | .tmem k cr _ => if k = b.stack ∧ cr = w.core then s.performTmem p.1 p.2 else s
    | .tensor _ _ => s
    | .peer _ _ _ => s) s

-- Loads.

/-- A long load (R294): its destination is pending until the last lane's data has returned. -/
def State.longLoad (s : State) (c : Issue) (b : Block) (w : Warp) (x : Nat) (d : VDst) (wd : Width) (sx : Bool)
    (ts : List Try) : State :=
  let rcd := (w.xread x).rcd
  match (s.pool b)[rcd]? with
  | none => s
  | some r =>
    let ls := s.laneAccs b r wd.size (fun _ => []) (fun _ => []) ts
    let q := s.request_ c b w rcd (.load d wd sx) ls (vregsOf d wd.regs)
    if ls.isEmpty then q.2 else q.2.usePeer (coreId b w) r

/-- The granules the accesses of lanes touch. -/
def laneGranules (n : Nat) (l : List (Nat × Loc)) : List Nat :=
  l.flatMap fun a => match a.2 with
    | .tmem k cr off => granules (32 * k + cr) off n
    | .tensor _ _ => []
    | .peer _ _ _ => []

/-- A load through a local window (R294): fixed latency 4 and `l3`, or, for `ldg`, a pending destination whose data
returns in cycle c + 4, its requests outstanding until then (R141), and no latch (R297). -/
def State.localLoad (s : State) (c : Issue) (b : Block) (w : Warp) (d : VDst) (wd : Width) (sx clr gather : Bool)
    (ts : List Try) : State :=
  let good := goodTries ts
  if good.isEmpty then s
  else
    let p := (s.settleOwn b w).lookupAll c wd.size good
    let s := if clr then p.2.setEmpty (laneGranules wd.size good) else p.2
    let effs := loadEffs d wd sx p.1
    if gather then
      (s.fly c 4 effs).modWarp c.block c.warp fun w =>
        { w with pend := w.pend ++ (vregsOf d wd.regs).map fun r => { reg := r, req := 0, returned := some (c.cycle + 4) }
                 gathers := w.gathers ++ [(c.cycle + 4, linesTouched (good.map fun a => (a.2, wd.size)))] }
    else s.fly c 4 (effs ++ [loadLatch wd sx p.1])

/-- The record of a stream is a local window. -/
def State.isLocal (s : State) (b : Block) (w : Warp) (x : Nat) : Bool :=
  match s.recordOf b w x with
  | some r => r.kind == 1
  | none => false

/-- `ld` (R293, R294). -/
def execLd (g : Guard) (d : VDst) (x : Nat) (wd : Width) (fe clr inc sx : Bool) (s : State) :=
  memOp s (.ld g d x wd fe clr inc sx) g fun c b w m s =>
    s.memLanes c b w (.ld g d x wd fe clr inc sx) m x inc fun ts s =>
      if s.isLocal b w x then s.localLoad c b w d wd sx clr false ts else s.longLoad c b w x d wd sx ts

/-- `ldg` (R297). -/
def execLdg (g : Guard) (d : VDst) (x : Nat) (wd : Width) (gdim : Nat) (inc sx : Bool) (v : VSrc) (s : State) :=
  memOp s (.ldg g d x wd gdim inc sx v) g fun c b w m s =>
    s.memLanes c b w (.ldg g d x wd gdim inc sx v) m x inc fun ts s =>
      if s.isLocal b w x then s.localLoad c b w d wd sx false true ts else s.longLoad c b w x d wd sx ts

/-- A line enters a core's L1, which holds 8,192 lines (R132); of lines beyond that the oldest outside a load-block goes. -/
def State.fillL1 (s : State) (ln : L1Line) : State :=
  let rest := s.l1.filter fun x => !(x.core == ln.core && x.base == ln.base && x.line == ln.line &&
    (x.tag.isNone || x.tag == ln.tag))
  let rest := if (rest.filter fun x => x.core == ln.core).length < 8192 then rest
    else match rest.findIdx? fun x => x.core == ln.core && x.tag.isNone with
      | some i => rest.eraseIdx i
      | none => rest
  { s with l1 := rest ++ [ln] }

/-- The line of L1 a load of a block can hit: a line of a load-block of its own first, never one of another block's (log
entry 93). -/
def State.l1Line (s : State) (core bid base line : Nat) : Option L1Line :=
  let own := fun (x : L1Line) => match x.tag with
    | some t => t.1 == bid
    | none => false
  match s.l1.find? fun x => x.core == core && x.base == base && x.line == line && own x with
  | some x => some x
  | none => s.l1.find? fun x => x.core == core && x.base == base && x.line == line && x.tag.isNone

/-- A byte as it was before the stores of a request's own word (R142). -/
def Req.before (r : Req) (addr : Nat) (v : Byte) : Byte :=
  match r.overr.find? fun x => x.1 == addr with
  | some x => x.2
  | none => v

/-- Lanes of a load take their bytes from a line, but for what its own word stored (R142) and what an engine operation is writing
(R153). -/
def State.takeLine (s : State) (r : Req) (d : VDst) (wd : Width) (sx : Bool) (line : Nat) (data : List Byte)
    (ls : List LaneAcc) : State :=
  (ls.foldl (fun s a => match a.loc with
    | .tensor _ off =>
      let bs := ((data.drop (off - 128 * line)).take a.bytes).mapIdx fun i v => r.before (s.addrOf a.loc + i) v
      let p := s.fog (some (r.block, r.warp)) r.id (s.addrOf a.loc) bs
      p.2.give r d a.lane (loadWords wd sx p.1)
    | .tmem _ _ _ => s
    | .peer _ _ _ => s) s).endLanes r (ls.map (·.lane))

/-- `LONG_LOAD_RETURN` (R54, R132, R136): a lane of a peer's bytes leaves for the peer, whose answer returns it (R16); else data
returns to all lanes of one line that no earlier access holds back, from L1 when it is a hit, else from the home, filling the line and
counting it once.  A line of a load-block is always hit (R133). -/
def execLongLoadReturn (id lane : Nat) (hit : Bool) (s : State) : Host.Outcome State Fault Refusal :=
  .next <|
    match s.reqs.find? fun r => r.id == id with
    | none => s
    | some r =>
      match r.kind, r.lanes.find? fun a => a.lane == lane with
      | .load d wd sx, some a =>
        if s.behind r a then s
        else
          match a.loc with
          | .peer p table off => if s.blocked r a then s else s.sendLane r a p table off { (default : Head) with op := 1 } []
          | .tmem _ _ _ => if s.blocked r a then s else s.performTmem r a
          | .tensor base off =>
            let core := 32 * r.stack + r.core
            let line := off / 128
            let same := r.lanes.filter fun k => lineOf k.loc == lineOf a.loc && !s.behind r k
            match s.l1Line core r.block base line with
            | some ln =>
              if hit || ln.tag.isSome then s.takeLine r d wd sx line ln.data same
              else
                let p := s.lookup (some (r.block, r.warp)) r.id [] (s.tensorAddr base (128 * line)) 128
                (((p.2.fillL1 { core := core, base := base, line := line, data := p.1, tag := none }).countMeter a.meter
                  128).countAccess base off r.stack).takeLine r d wd sx line p.1 same
            | none =>
              if hit then s
              else
                let p := s.lookup (some (r.block, r.warp)) r.id [] (s.tensorAddr base (128 * line)) 128
                (((p.2.fillL1 { core := core, base := base, line := line, data := p.1, tag := none }).countMeter a.meter
                  128).countAccess base off r.stack).takeLine r d wd sx line p.1 same
      | _, _ => s

-- Stores.

/-- A store (R295): through a local window it performs at once, lanes ascending; else it is posted. -/
def State.storeLanes (s : State) (c : Issue) (b : Block) (w : Warp) (x : Nat) (wd : Width) (a : VSrc) (ts : List Try) :
    State :=
  let p := s.pitch (coreId b w) w.pitch
  let rcd := (w.xread x).rcd
  match (s.pool b)[rcd]? with
  | none => s
  | some r =>
    if r.kind = 1 then
      (goodTries ts).foldl (fun s t => match t.2 with
        | .tmem k cr off => s.localStore (32 * k + cr) off (a.bytes p c w wd t.1)
        | .tensor _ _ => s
        | .peer _ _ _ => s) (s.settleOwn b w)
    else
      let ls := s.laneAccs b r wd.size (a.bytes p c w wd) (fun _ => []) ts
      let q := s.request_ c b w rcd .store ls []
      if ls.isEmpty then q.2 else q.2.usePeer (coreId b w) r

/-- `st` (R293, R295). -/
def execSt (g : Guard) (a : VSrc) (x : Nat) (wd : Width) (inc : Bool) (s : State) :=
  memOp s (.st g a x wd inc) g fun c b w m s =>
    s.memLanes c b w (.st g a x wd inc) m x inc fun ts s => s.storeLanes c b w x wd a ts

/-- `stg` (R297). -/
def execStg (g : Guard) (a : VSrc) (x : Nat) (wd : Width) (gdim : Nat) (inc : Bool) (v : VSrc) (s : State) :=
  memOp s (.stg g a x wd gdim inc v) g fun c b w m s =>
    s.memLanes c b w (.stg g a x wd gdim inc v) m x inc fun ts s => s.storeLanes c b w x wd a ts

-- Atomics.

/-- The number of a scope (R144). -/
def scopeNum : Scope → Nat
  | .warp => 0
  | .block => 1
  | .cluster => 2
  | .package => 3
  | .fabric => 4

/-- The value of a location after an atomic (R299). -/
def atomNew (op : AtomOp) (ty : ITy) (m a b : Word64) : Word64 :=
  match op with
  | .add => m + a
  | .min => if tyInt ty m ≤ tyInt ty a then m else a
  | .max => if tyInt ty a ≤ tyInt ty m then m else a
  | .and => m &&& a
  | .or => m ||| a
  | .xor => m ^^^ a
  | .exch => a
  | .cas => if m = a then b else m
  | .fadd => (fp32Add .rn (low32 m) (low32 a)).setWidth 64

/-- The cluster a block or its stale tag stands on. -/
def State.placeOf (s : State) (t : ScopeTag) : Nat :=
  match s.block? t.block with
  | some b =>
    match b.warps with
    | w :: _ => if t.scope ≤ 1 then 4 * b.stack + w.core / 8 else t.place
    | [] => t.place
  | none => t.place

/-- The instance of a tag lies within another instance (R144, R158). -/
def State.tagWithin (s : State) (t i : ScopeTag) : Bool :=
  if i.scope = 4 then true
  else if i.scope = 3 then decide (t.scope ≤ 3) && t.ctx == i.ctx
  else if i.scope = 2 then decide (t.scope ≤ 2) && t.ctx == i.ctx && s.placeOf t == i.place
  else if i.scope = 1 then decide (t.scope ≤ 1) && t.ctx == i.ctx && t.block == i.block
  else t.scope == 0 && t.ctx == i.ctx && t.block == i.block && t.warp == i.warp

/-- An atomic at its home (R149, R158, R160, R299, R300), its read and its write adjacent, the write made by `write`: the old and
the new value, or the cause it faults with.  It reads what its own word stored as that was before (R142). -/
def State.atomAt (s : State) (who : Option (Nat × Nat)) (id : Nat) (stores : List (Nat × Byte)) (base off : Nat) (op : AtomOp)
    (ty : ITy) (a b : Word64) (inst : ScopeTag) (write : State → Nat → List Byte → State) : Except Nat (List Byte × List Byte × State) :=
  let n := ty.width / 8
  let addr := s.tensorAddr base off
  let line := addr / 64
  let tier := match s.entryOf base off with
    | some e => e.tier
    | none => 2
  if s.isStamped addr n then .error 0x24
  else if tier != 2 && (match s.tags.find? fun t => t.line == line with
      | some t => !s.tagWithin t inst
      | none => false) then .error 0x30
  else
    let p := s.lookup who id stores addr n
    let new := leBytes n (atomNew op ty (BitVec.ofNat 64 (leNat p.1)) a b).toNat
    let s := write p.2 addr new
    .ok (p.1, new, if tier = 2 then s else { s with tags := s.tags ++ [{ inst with line := line }] })

/-- `atom` (R299, R300): the warp's next word waits until every lane has been checked and performed. -/
def execAtom (g : Guard) (d : VDst) (x : Nat) (op : AtomOp) (ty : ITy) (order : MemOrder) (scope : Scope) (inc : Bool)
    (a b : VSrc) (s : State) :=
  memOp s (.atom g d x op ty order scope inc a b) g fun c k w m s =>
    s.memLanes c k w (.atom g d x op ty order scope inc a b) m x inc fun ts s =>
      let p := s.pitch (coreId k w) w.pitch
      let rcd := (w.xread x).rcd
      match (s.pool k)[rcd]? with
      | none => s
      | some r =>
        let wd := if ty.is64 then Width.b64 else Width.b32
        let ls := s.laneAccs k r wd.size (a.bytes p c w wd) (fun l => if op = .cas then b.bytes p c w wd l else []) ts
        if ls.isEmpty then s
        else
          let s := if scope = .fabric && (order == .release || order == .acqRel) then
            s.sendDrains (coreId k w) k.bid w.num c.tok else s
          let q := s.request_ c k w rcd (.atom d op ty order scope) ls []
          q.2.holdOn c (.atom (order == .acquire || order == .acqRel) scope) (q.1 + 1)

/-- The fault record of a lane of a request found at its home (R365). -/
def Req.fault (r : Req) (a : LaneAcc) (cause : Nat) : LaneRec :=
  { lane := a.lane, cause := cause, slot := 7, rcd := r.rec_, offset := r.offset, c0 := a.c0, c1 := a.c1 }

/-- A lane fault found at a home or by a peer: the mode of the word that issued the access decides what comes of it (R246, R351; log
entry 39). -/
def State.lateFault (s : State) (r : Req) (a : LaneAcc) (cause : Nat) : State :=
  s.modWarp r.block r.warp fun w => w.laneFault r.handler (r.fault a cause) 0x81

/-- A release waits for everything the warp did before (R149), its load-blocks too (R163 to R166). -/
def State.earlierDone (s : State) (r : Req) : Bool :=
  s.reqs.all (fun q => !(q.block == r.block && q.warp == r.warp && decide (q.id < r.id))) &&
  !s.lblkBefore r.block r.warp r.id

/-- An atomic may perform (R149). -/
def State.atomReady (s : State) (r : Req) (order : MemOrder) (scope : Scope) : Bool :=
  if order == .release || order == .acqRel then
    s.earlierDone r && (scope != .fabric || (match s.warp? r.block r.warp with
      | some w => w.drains == 0
      | none => true))
  else true

/-- The instance of a scope for a warp (R144). -/
def scopeOf (b : Block) (w : Warp) (scope : Scope) : ScopeTag :=
  { line := 0, scope := (scopeNum scope), ctx := b.ctx, block := b.bid, warp := w.num, place := 4 * b.stack + w.core / 8 }

/-- The operation and type codes of an atomic in a packet (R299). -/
def codeAtomOp : AtomOp → Nat
  | .add => 0
  | .min => 1
  | .max => 2
  | .and => 3
  | .or => 4
  | .xor => 5
  | .exch => 6
  | .cas => 7
  | .fadd => 8
def codeITy : ITy → Nat
  | .i64 => 0
  | .n64 => 1
  | .i32 => 2
  | .n32 => 3
def codeMemOrder : MemOrder → Nat
  | .relaxed => 0
  | .acquire => 1
  | .release => 2
  | .acqRel => 3

/-- A lane of a store through a global record performs (R132, R137, R160). -/
def State.performStore (s : State) (r : Req) (a : LaneAcc) (base off : Nat) : State :=
  if s.isStamped (s.addrOf a.loc) a.bytes then (s.lateFault r a 0x24).endLanes r [a.lane]
  else
    let t := s.writeReq r (s.addrOf a.loc) a.data
    ((t.updateL1 (32 * r.stack + r.core) base off (t.mem.readBytes (s.addrOf a.loc) a.bytes)).countAccess base off
      r.stack).endLanes r [a.lane]

/-- The bytes an atomic leaves at its location: where its own word stored too, what that stored, since its read comes before every
store of the word and its write goes with its read (R142, R299). -/
def State.atomBytes (s : State) (r : Req) (addr : Nat) (bs : List Byte) : List Byte :=
  bs.mapIdx fun i v => if r.overr.any fun x => x.1 == addr + i then s.mem.read (addr + i) else v

/-- A lane of an atomic performs at this module's home (R149, R299, R300): it releases first; a line of the issuing core's L1 takes
the new value (log entry 93). -/
def State.performAtom (s : State) (r : Req) (a : LaneAcc) (inst : ScopeTag) (d : VDst) (op : AtomOp) (ty : ITy)
    (order : MemOrder) (base off : Nat) : State :=
  let s := if order == .release || order == .acqRel then s.released r.block r.warp r.word else s
  match s.atomAt (some (r.block, r.warp)) r.id r.overr base off op ty (BitVec.ofNat 64 (leNat a.data))
      (BitVec.ofNat 64 (leNat a.cmp)) inst (fun s addr bs => s.writeReq r addr (s.atomBytes r addr bs)) with
  | .error cause => (s.lateFault r a cause).endLanes r [a.lane]
  | .ok p =>
    ((((p.2.2.updateL1 (32 * r.stack + r.core) base off (s.atomBytes r (s.addrOf a.loc) p.2.1)).countMeter a.meter
      (ty.width / 8)).countAccess base off r.stack).give r d a.lane (loadWords (if ty.is64 then .b64 else .b32) false p.1)).endLanes r
        [a.lane]

/-- An atomic of a peer's location leaves for the peer by the route it took at its issue (R202). -/
def State.sendAtom (s : State) (r : Req) (a : LaneAcc) (op : AtomOp) (ty : ITy) (order : MemOrder) (scope : Scope)
    (peer table off : Nat) : State :=
  (if order == .release || order == .acqRel then s.released r.block r.warp r.word else s).sendLane r a peer table off
    { (default : Head) with op := 5, scope := (scopeNum scope), order := codeMemOrder order, aop := codeAtomOp op,
                            atype := codeITy ty } (a.data ++ a.cmp)

/-- `STORE_PERFORMED` (R295, R300, R137): a lane of a store or atomic performs at its home; one of a peer's location leaves for the
peer, a copy of its word having read what it overwrites (R142), and an atomic at home also reaches the issuing core's L1 (log entry
93).  A store to a frame that is being moved waits for the switch. -/
def execStorePerformed (id lane : Nat) (s : State) : Host.Outcome State Fault Refusal :=
  .next <|
    match s.reqs.find? fun r => r.id == id with
    | none => s
    | some r =>
      match r.lanes.find? fun a => a.lane == lane, s.block? r.block, s.warp? r.block r.warp with
      | some a, some b, some w =>
        if s.blocked r a || s.moving a.loc then s
        else
          match r.kind with
          | .store =>
            (match a.loc with
              | .peer p table off =>
                if s.ownReads r a then s else s.sendLane r a p table off { (default : Head) with op := 3 } a.data
              | .tmem _ _ _ => s.performTmem r a
              | .tensor base off => s.performStore r a base off)
          | .atom d op ty order scope =>
            if !s.atomReady r order scope then s
            else
              (match a.loc with
                | .tmem _ _ _ => s
                | .peer p table off => if s.ownReads r a then s else s.sendAtom r a op ty order scope p table off
                | .tensor base off => s.performAtom r a (scopeOf b w scope) d op ty order base off)
          | .load _ _ _ => s
          | .ldas _ _ _ _ _ _ => s
          | .qput _ _ _ => s
          | .qget _ _ _ => s
      | _, _, _ => s

-- Fences and drains.

/-- `fence` (R147, R301). -/
def execFence (g : Guard) (scope : Scope) (s : State) :=
  memOp s (.fence g scope) g fun c b w _ s =>
    (if scope = .fabric then s.sendDrains (coreId b w) b.bid w.num c.tok else s).holdOn c (.fence scope) c.uid

/-- `drain` (R148, R301): it waits for the operations of earlier words, not for those of its own word (log entry 119). -/
def execDrain (g : Guard) (scope : Scope) (s : State) :=
  memOp s (.drain g scope) g fun c b w _ s =>
    (if scope = .fabric then s.sendDrains (coreId b w) b.bid w.num c.tok else s).holdOn c (.drain scope) c.uid

-- Load-blocks.

/-- Every lane that takes part is parked for one cause, with the coordinates of position 0 (R309, R365). -/
def State.parkTakers (s : State) (c : Issue) (b : Block) (w : Warp) (m : Mask) (rcd cause : Nat) (c0 c1 : Word32) :
    State :=
  s.parkAll b.bid w.num ((lanesOf m).map fun l =>
    { lane := l, cause := cause, slot := slotNum c.cur, rcd := rcd, offset := c.tok, c0 := c0, c1 := c1 }) 0x81

/-- A handle-writing operation of the M slot whose lanes were all parked (R308, R309, R323): it takes its slot of the ring, and the
handle reads as resolved, refused (log entry 71). -/
def State.parkHandle (s : State) (c : Issue) (b : Block) (w : Warp) (m : Mask) (h kindNo rcd cause : Nat) (c0 c1 : Word32) :
    State :=
  let p := b.alloc kindNo
  ((s.parkTakers c b w m rcd cause c0 c1).modBlock b.bid fun k => ((k.alloc kindNo).2).resolve p.1.toNat 4 0 false).setHandle
    h p.1

/-- The load-blocks of a block's tag on a core are evicted: lines filled go, fills under way bring nothing (R133, R298). -/
def State.evictTag (s : State) (b : Block) (w : Warp) (tag : Nat) : State :=
  let core := coreId b w
  { s with
    l1 := s.l1.filter fun y => !(y.core == core && y.tag == some (b.bid, tag))
    ops := s.ops.map fun (o : EngOp) => match o.kind with
      | .lblk tg _ _ =>
        if o.block == b.bid && 32 * o.stack + o.core == core && tg == tag then { o with doneRd := true } else o
      | _ => o }

/-- A load-block in range is accepted (R298): an absent frame ends the context (R127). -/
def State.acceptLblk (s : State) (c : Issue) (b : Block) (w : Warp) (h x n tag first base : Nat) (inc : Bool) (c0 c1 : Word32) :
    State :=
  let fs := lineFrames base first (n + 1)
  if fs.any fun f => s.absent (.tensor f.1 (f.2 * 65536)) then s.fatalWord c 0x85 0 (w.xread x).rcd 0xFF c0 c1
  else
    let p := b.alloc 4
    let op : EngOp :=
      { id := s.uid, block := b.bid, warp := w.num, handle := p.1.toNat, kind := .lblk tag first (n + 1),
        st := .started, stack := b.stack, core := w.core, word := c.uid, offset := c.tok, issue := c.cycle, waited := 0, last := 0,
        dst := none, srcA := s.boxOf b w x 1 1, srcB := none, pinned := fs, overr := c.stores, own := c.stores.map (·.1), taint := [],
        image := [], doneRd := false }
    let s := s.evictTag b w tag
    let s := { s with uid := s.uid + 1, ops := s.ops ++ [op] }
    (((s.modBlock b.bid fun k => (k.alloc 4).2).pin true fs).setHandle h p.1).bump c w inc x

/-- `lblk` (R133, R298). -/
def execLblk (g : Guard) (h x n tag : Nat) (inc : Bool) (s : State) :=
  memOp s (.lblk g h x n tag inc) g fun c b w m s =>
    let a := w.xread x
    match (s.tries c b w (.lblk g h x n tag inc) m).head?, s.recordOf b w x with
    | some t, some r =>
      (match t.res with
        | .error cause => (s.parkHandle c b w m h 4 a.rcd cause (t.coord 0) (t.coord 1)).bump c w inc x
        | .ok loc =>
          let off := match loc with
            | .tensor _ off => off
            | .tmem _ _ _ => 0
            | .peer _ _ _ => 0
          if r.size < 128 * (off / 128 + n + 1) then
            (s.parkHandle c b w m h 4 a.rcd 0x20 (t.coord 0) (t.coord 1)).bump c w inc x
          else s.acceptLblk c b w h x n tag (off / 128) r.base inc (t.coord 0) (t.coord 1))
    | _, _ => (s.parkHandle c b w m h 4 a.rcd 0x26 (a.c.getD 0 0) (a.c.getD 1 0)).bump c w inc x

/-- An earlier access of the warp to bytes of a tensor is still outstanding (R143, R153, R163). -/
def State.warpTouches (s : State) (bid wn id base off n : Nat) : Bool :=
  s.reqs.any fun q => q.block == bid && q.warp == wn && decide (q.id < id) &&
    (q.kind.isGet || q.lanes.any fun k => k.loc.overlaps k.bytes (.tensor base off) n)

/-- An earlier load, load-block or `ldas` of the warp is still outstanding (R163), or a `qget` awaits its reply (R156). -/
def State.loadsBefore (s : State) (bid wn id : Nat) : Bool :=
  s.reqs.any (fun q => q.block == bid && q.warp == wn && decide (q.id < id) && (q.kind.isLoad || q.kind.isGet)) ||
  s.lblkBefore bid wn id

/-- `LBLK_FILL` (R133, R136): the lines are filled, each counted once; the data of a load-block evicted meanwhile is
discarded; the handle resolves. -/
def execLblkFill (id : Nat) (s : State) : Host.Outcome State Fault Refusal :=
  .next <|
    match s.ops.find? fun o => o.id == id with
    | none => s
    | some o =>
      match o.kind, o.srcA, s.block? o.block with
      | .lblk tag first lines, some x, some b =>
        let base := x.rcd.base
        if s.warpTouches o.block o.warp o.id base (128 * first) (128 * lines) then s
        else
          let core := 32 * o.stack + o.core
          let s := (List.range lines).foldl (fun s i =>
            let line := first + i
            let p := s.lookup (some (o.block, o.warp)) id o.overr (s.tensorAddr base (128 * line)) 128
            let s := (p.2.countMeter (s.meterOf b x.rcd (128 * line)) 128).countAccess base (128 * line) o.stack
            if o.doneRd then s
            else s.fillL1 { core := core, base := base, line := line, data := p.1, tag := some (o.block, tag) }) s
          ({ s with ops := s.ops.filter fun k => k.id != id }.pin false o.pinned).resolve o.block o.handle 1 (128 * lines)
            false
      | _, _, _ => s

-- Probes.

/-- `probe` (R139, R302): it issues once its box is settled and writes how many frames were brought in; of its record the index alone is
checked (log entry 132). -/
def execProbe (g : Guard) (d x a : Nat) (s : State) :=
  memOp s (.probe g d x a) g fun c b w m s =>
    match s.recordOf b w x with
    | none =>
      let st := w.xread x
      s.parkTakers c b w m st.rcd 0x26 (st.c.getD 0 0) (st.c.getD 1 0)
    | some _ =>
      let fs := s.probeFrames b w x a
      (s.fly c 1 [.sreg d (BitVec.ofNat 64 (w.probeIn.getD 0))]).modBlock b.bid fun k =>
        { k with probed := (k.probed ++ fs).dedup }

/-- The probe a warp waits to issue, if its next word holds one (R302). -/
def State.nextProbe (s : State) (b : Block) (w : Warp) : Option (Nat × Nat) :=
  match s.peek b w with
  | .word (some e) hs _ tok next =>
    let c := (s.code b w).issueOf s b w e hs tok next 0
    match decodeSlot c.word .M with
    | some (.probe g _ x a) => if takers c w g = 0 then none else some (x, a)
    | _ => none
  | _ => none

/-- `PROBE_COMPLETION` (R139, R371): firmware has brought the frames of the warp's probe in, as many as there is room
for; it fails when a frame has no free frame of its tier and none can be taken out, or when a peer does not answer.  How many of
the box's frames a peer brings in is its own affair: a free number (log entry 7); the routing entry is not looked at (log entry 133). -/
def execProbeCompletion (block warp : Nat) (ok : Bool) (s : State) : Host.Outcome State Fault Refusal :=
  .next <|
    match s.block? block with
    | none => s
    | some b =>
      match b.warp? warp with
      | none => s
      | some w =>
        match s.nextProbe b w with
        | none => s
        | some (x, a) =>
          if b.status != .placed || w.flights != [] || w.pend != [] || !s.probeWaits b w x a then s
          else
            match s.recordOf b w x with
            | none => s
            | some r =>
              if r.kind = 3 then
                if ok then
                  let f := s.freeWord
                  f.2.modWarp block warp fun w =>
                    { w with probeIn := some (f.1.toNat % ((s.probeTiles b w x a).length + 1)) }
                else s.modWarp block warp fun w => { w with probeBad := true }
              else
                let fs := s.probeFrames b w x a
                let missing := s.probeMissing fs
                let t := missing.foldl (fun s f => s.bringIn f.1 f.2) s
                let left := t.probeMissing fs
                let t := t.modBlock block fun k =>
                  { k with probed := (k.probed ++ fs.filter fun f => !left.contains f).dedup }
                if ok then
                  if left.isEmpty then t.modWarp block warp fun w => { w with probeIn := some missing.length } else s
                else if left.any fun f => match t.entryOf f.1 (f.2 * 65536) with
                    | some e => !t.anyRemovable e.tier e.die
                    | none => true then
                  t.modWarp block warp fun w => { w with probeBad := true }
                else s

-- Stamped commits.

/-- `stc` (R303, R159): the commit enters the core's queue. -/
def execStc (g : Guard) (h x : Nat) (pair inc : Bool) (a : VSrc) (s : State) :=
  memOp s (.stc g h x pair inc a) g fun c b w m s =>
    let st := w.xread x
    match (s.tries c b w (.stc g h x pair inc a) m).head? with
    | none => s
    | some t =>
      match t.res with
      | .error cause => (s.parkHandle c b w m h 5 st.rcd cause (t.coord 0) (t.coord 1)).bump c w inc x
      | .ok loc =>
        if s.absent loc then s.fatalWord c 0x85 0 st.rcd 0xFF (t.coord 0) (t.coord 1)
        else
          match loc with
          | .tmem _ _ _ => s
          | .peer _ _ _ => s
          | .tensor base off =>
            let p := s.pitch (coreId b w) w.pitch
            let vals := a.lanes p c w
            let data := (List.range (if pair then 32 else 16)).flatMap fun l => leBytes 4 (vals.getD l 0).toNat
            let q := b.alloc 5
            let k : Commit :=
              { id := s.uid, block := b.bid, warp := w.num, core := coreId b w, handle := q.1.toNat, ctx := b.ctx, base := base, off := off,
                data := data, lines := if pair then 2 else 1, stamp := none, taken := 0 }
            ((({ s with uid := s.uid + 1, commits := s.commits ++ [k] }.modBlock b.bid fun y => (y.alloc 5).2).setHandle h
              q.1).bump c w inc x)

/-- The physical lines of a commit. -/
def State.commitLines (s : State) (k : Commit) : List Nat :=
  (List.range k.lines).map fun i => s.tensorAddr k.base (k.off + 64 * i) / 64

/-- A line's versions; a line that has received no commit holds its plain contents at stamp 0 (R160). -/
def State.versions (s : State) (line : Nat) : List Version :=
  match s.stamped.find? fun t => t.line == line with
  | some t => t.versions
  | none => [{ stamp := 0, visible := true, data := s.mem.readBytes (64 * line) 64 }]

def State.setVersions (s : State) (line : Nat) (vs : List Version) : State :=
  { s with stamped := { line := line, versions := vs } :: s.stamped.filter fun t => t.line != line }

/-- The oldest visible version discarded (R161). -/
def dropOldest : List Version → List Version
  | [] => []
  | v :: r => if v.visible then r else v :: dropOldest r

/-- What a commit waits for besides its version slots: an earlier commit of the warp to a line of its own (R167), the warp's earlier
accesses to its bytes, and every earlier load, load-block and `ldas` of the warp (R164, R174). -/
def State.commitWaits (s : State) (k : Commit) : Bool :=
  (s.commits.any fun q => q.block == k.block && q.warp == k.warp && decide (q.id < k.id) &&
    q.stamp.isNone && q.base == k.base && decide (q.off < k.off + 64 * k.lines) && decide (k.off < q.off + 64 * q.lines)) ||
  s.warpTouches k.block k.warp k.id k.base k.off (64 * k.lines) || s.loadsBefore k.block k.warp k.id

/-- `COMMIT_ACCEPTANCE` (R159 to R162): each line has a version slot; the commit takes its stamp. -/
def execCommitAcceptance (id : Nat) (s : State) : Host.Outcome State Fault Refusal :=
  .next <|
    match s.commits.find? fun k => k.id == id with
    | none => s
    | some k =>
      let lines := s.commitLines k
      let slot := fun (line : Nat) =>
        let vs := s.versions line
        decide (vs.length < 4) || vs.any (·.visible)
      match s.block? k.block with
      | none => s
      | some b =>
        if k.stamp.isSome || b.status != .placed || s.moving (.tensor k.base k.off) || !lines.all slot || s.commitWaits k then s
        else
          let top := (lines.flatMap s.versions).foldl (fun m v => max m v.stamp) 0
          let home := s.stack? (s.homeStack k.base k.off)
          let stamp := max home.latest (top + 1)
          let s := (lines.zipIdx).foldl (fun s p =>
            let vs := s.versions p.1
            let vs := if vs.length < 4 then vs else dropOldest vs
            s.setVersions p.1 (vs ++ [{ stamp := stamp, visible := false, data := (k.data.drop (64 * p.2)).take 64 }])) s
          { s with commits := s.commits.map fun (q : Commit) =>
              if q.id == id then { q with stamp := some stamp, taken := home.that } else q }.countAccess k.base k.off b.stack

/-- A commit becomes visible in both lines at once, if every die's earliest exceeds its stamp and no older version waits, and its
handle resolves (R159, R162); the issuing core's L1 takes it, other L1s stay as they are (log entry 93). -/
def State.showCommit (s : State) (k : Commit) : State :=
  match k.stamp with
  | none => s
  | some stamp =>
    let lines := s.commitLines k
    if !s.allAbove (s.homeStack k.base k.off) stamp ||
        lines.any fun l => (s.versions l).any fun v => !v.visible && decide (v.stamp < stamp) then s
    else
      let who := match s.block? k.block, s.warp? k.block k.warp with
        | some b, some w => some (b, w)
        | _, _ => none
      let core := match who with
        | some (b, w) => coreId b w
        | none => 128
      let s := (lines.zipIdx).foldl (fun s p =>
        let data := (k.data.drop (64 * p.2)).take 64
        let s := s.setVersions p.1 ((s.versions p.1).map fun v =>
          if v.stamp == stamp then { v with visible := true } else v)
        (({ s with mem := s.mem.writeBytes (64 * p.1) data }.taint 0 ((List.range 64).map (64 * p.1 + ·))).updateL1 core
          k.base (k.off + 64 * p.2) data)) s
      ({ s with commits := s.commits.filter fun (q : Commit) => q.id != k.id }.resolve k.block k.handle 1 stamp false).observeCtx 2
        (((s.stack? (s.homeStack k.base k.off)).that - k.taken) / 1000) k.ctx who

/-- Every commit whose moment has come becomes visible, in the order of stamps (R159 step 3). -/
def State.settleCommits (s : State) : State :=
  (sortBy (fun (a b : Commit) => decide (a.stamp.getD 0 ≤ b.stamp.getD 0)) (s.commits.filter fun k => k.stamp.isSome)).foldl
    State.showCommit s

/-- `COMMIT_VISIBILITY` (R159, R162): as at every event, a commit whose moment has come becomes visible (for the L1s, log entry
93). -/
def execCommitVisibility (id : Nat) (s : State) : Host.Outcome State Fault Refusal :=
  .next <|
    match s.commits.find? fun k => k.id == id with
    | none => s
    | some k => s.showCommit k

/-- `ldas` (R161, R304). -/
def execLdas (g : Guard) (d : VDst) (x : Nat) (wd : Width) (t : Nat) (inc sx : Bool) (pd : Nat) (s : State) :=
  memOp s (.ldas g d x wd t inc sx pd) g fun c b w m s =>
    s.memLanes c b w (.ldas g d x wd t inc sx pd) m x inc fun ts s =>
      let rcd := (w.xread x).rcd
      match (s.pool b)[rcd]? with
      | none => s
      | some r =>
        (s.request_ c b w rcd (.ldas d wd sx pd (w.sread t).toNat (s.stack? b.stack).latest)
          (s.laneAccs b r wd.size (fun _ => []) (fun _ => []) ts) (.p pd :: vregsOf d wd.regs)).2

/-- The newest visible version with a stamp at most `t` (R161, R167 note 4). -/
def newestAt (t : Nat) (vs : List Version) : Option Version :=
  vs.foldl (fun o v => if v.visible ∧ v.stamp ≤ t then
    match o with
    | none => some v
    | some u => if u.stamp ≤ v.stamp then some v else some u
    else o) none

/-- `LDAS_SERVICE` (R161, R304): a lane's reply; a line without a commit is read like any memory (R142, R153, R160). -/
def execLdasService (id lane : Nat) (s : State) : Host.Outcome State Fault Refusal :=
  .next <|
    match s.reqs.find? fun r => r.id == id with
    | none => s
    | some r =>
      match r.kind, r.lanes.find? fun a => a.lane == lane with
      | .ldas d wd sx pd t latest, some a =>
        (match a.loc with
          | .tmem _ _ _ => s
          | .peer _ _ _ => s
          | .tensor base off =>
            let late := ldasLate t latest
            if s.blocked r a || (!late && (s.moving a.loc || !s.allAbove (s.homeStack base off) t)) then s
            else
              let addr := s.tensorAddr base off
              let v := if late then none else newestAt t (s.versions (addr / 64))
              let p := match v with
                | some v =>
                  s.fog (some (r.block, r.warp)) r.id addr (((v.data.drop (addr % 64)).take a.bytes).mapIdx fun i x =>
                    if v.stamp = 0 then r.before (addr + i) x else x)
                | none => (List.replicate a.bytes 0, s)
              let bs := p.1
              let s := p.2
              let m := BitVec.ofNat 32 (2 ^ lane)
              let t := (s.cluster r.stack (r.core / 8)).cycle
              ((((s.countMeter a.meter a.bytes).countAccess base off r.stack).give r d lane (loadWords wd sx bs)).modWarp r.block
                r.warp fun w => (w.settleOn (.p pd) m t).land (.preg pd m (if v.isSome then allLanes else 0))).endLanes r [lane])
      | _, _ => s

-- Stage queues.

/-- The stage queue an operation names (R213). -/
def State.stageQ (s : State) (b : Block) (stage : Nat) : Option StageQ :=
  (s.task? b.ctx b.task).bind fun t => t.queues[stage]?

/-- A queue operation waits at the queue's home for its reply; without a queue its predicate is false (R306). -/
def State.queueOp (s : State) (c : Issue) (b : Block) (w : Warp) (q stage : Nat) (k : ReqKind) (regs : List PReg)
    (m : Mask) : State :=
  match s.stageQ b stage with
  | none => s.fly c 1 [.qreg q false]
  | some _ =>
    (s.request_ c b w 0 k ((lanesOf m).map fun l =>
      { lane := l, loc := .peer 0 0 0, bytes := 0, data := [], cmp := [], meter := none, c0 := 0, c1 := 0 })
      (.q q :: regs)).2

/-- `qput` (R156, R306). -/
def execQput (g : Guard) (q stage : Nat) (a : VSrc) (s : State) :=
  memOp s (.qput g q stage a) g fun c b w m s =>
    let vals := a.lanes (s.pitch (coreId b w) w.pitch) c w
    s.queueOp c b w q stage (.qput q stage ((List.range 16).flatMap fun l => leBytes 4 (vals.getD l 0).toNat)) [] m

/-- `qget` (R156, R306): the entry goes to positions 0 to 15 whose lanes are active and not parked. -/
def execQget (g : Guard) (d : VDst) (q stage : Nat) (s : State) :=
  memOp s (.qget g d q stage) g fun c b w _ s =>
    s.queueOp c b w q stage (.qget d q stage) (vregsOf d 1) c.lanes

/-- The address of entry `k` of a queue. -/
def StageQ.entry (q : StageQ) (k : Nat) : Nat :=
  let o := 64 * (k % 2 ^ q.logCap)
  frameAddr 0 q.stack (q.frames.getD (o / 65536) 0) (o % 65536)

/-- Entries in a queue (R214). -/
def StageQ.count (q : StageQ) : Nat := (q.tail + 2 ^ 32 - q.head) % 2 ^ 32

def State.modQueue (s : State) (b : Block) (stage : Nat) (f : StageQ → StageQ) : State :=
  s.modTask b.ctx b.task fun t => { t with queues := t.queues.modify stage f }

/-- The reply of a queue operation. -/
def State.queueReply (s : State) (r : Req) (q : Nat) (ok : Bool) : State :=
  let t := (s.cluster r.stack (r.core / 8)).cycle
  (s.modWarp r.block r.warp fun w => (w.settleOn (.q q) 0 t).land (.qreg q ok)).endLanes r laneList

/-- What a warp stored before a release of its own is seen by its matrix operations from an acquire on (R152, R154). -/
def State.acquired (s : State) (bid wn : Nat) : State :=
  s.modWarp bid wn fun w => { w with unready := w.unready.filter fun e => e.1 != 0 }

/-- `QUEUE_STEP` (R156, R214, R306): one step at the queue's home; a put waits for the warp's earlier accesses and releases, a get
that takes an entry acquires, and a later get waits for that. -/
def execQueueStep (id : Nat) (s : State) : Host.Outcome State Fault Refusal :=
  .next <|
    match s.reqs.find? fun r => r.id == id with
    | none => s
    | some r =>
      match s.block? r.block, s.warp? r.block r.warp with
      | some b, some w =>
        (match r.kind with
          | .qput q stage data =>
            if !s.earlierDone r then s
            else
              let s := s.released r.block r.warp r.word
              (match s.stageQ b stage with
                | none => s.queueReply r q false
                | some k =>
                  if k.count < 2 ^ k.logCap then
                    ({ s with mem := s.mem.writeBytes (k.entry k.tail) data }.modQueue b stage fun k =>
                      { k with tail := (k.tail + 1) % 2 ^ 32 }).queueReply r q true
                  else s.queueReply r q false)
          | .qget d q stage =>
            if s.getBefore r.block r.warp r.id then s
            else
            (match s.stageQ b stage with
              | none => s.queueReply r q false
              | some k =>
                if 0 < k.count then
                  let bs := s.mem.readBytes (k.entry k.head) 64
                  let s := s.modQueue b stage fun k => { k with head := (k.head + 1) % 2 ^ 32 }
                  let s := (r.lanes.filter fun a => decide (a.lane < 16)).foldl (fun s a =>
                    s.give r d a.lane [BitVec.ofNat 32 (leNat ((bs.drop (4 * a.lane)).take 4))]) s
                  ((s.queueReply r q true).acquire b w .package).acquired r.block r.warp
                else s.queueReply r q false)
          | .load _ _ _ => s
          | .store => s
          | .atom _ _ _ _ _ => s
          | .ldas _ _ _ _ _ _ => s)
      | _, _ => s

-- Full/empty operations.

/-- `feset` (R307). -/
def execFeset (g : Guard) (x : Nat) (wd : Width) (inc : Bool) (s : State) :=
  memOp s (.feset g x wd inc) g fun c b w m s =>
    s.memLanes c b w (.feset g x wd inc) m x inc fun ts s => s.setFull (laneGranules wd.size (goodTries ts))

/-- `feclr` (R307). -/
def execFeclr (g : Guard) (x : Nat) (wd : Width) (inc : Bool) (s : State) :=
  memOp s (.feclr g x wd inc) g fun c b w m s =>
    s.memLanes c b w (.feclr g x wd inc) m x inc fun ts s => s.setEmpty (laneGranules wd.size (goodTries ts))

end Sys2Proof.Machine
end

