-- ==== Sys2Proof/Machine/Engines.lean ====
section
/-! DEFINITION. What the matrix unit and the copy engine share (R138, R153, R154, R323 to R325, R333): submission, the
bytes an operation reads and writes, and its end. -/

namespace Sys2Proof.Machine

/-- Submission of an engine operation: refused (R333), fatal for an absent frame (R127), or accepted with a new handle and
its frames pinned (R138).  The streams' post-increments start from the coordinates before the word, and land in slot order where another
slot writes the same stream (R53; log entry 109). -/
def State.submit (s : State) (c : Issue) (b : Block) (w : Warp) (i : Instr) (h kindNo : Nat) (kind : EngKind) (st : EngSt)
    (bumps : List (Bool × Nat)) (f : EngOp → List Box → State → State) : State :=
  let bumpAll := fun (s : State) => bumps.foldl (fun s p => s.bump c w p.1 p.2) s
  let p := b.alloc kindNo
  match s.planOf b w i with
  | .refused cause rcd c0 c1 =>
    bumpAll (((s.modBlock b.bid fun k => ((k.alloc kindNo).2).resolve p.1.toNat 4 0 false).setHandle h p.1).parkTakers c b w
      c.lanes rcd cause c0 c1)
  | .boxes l =>
    match s.absentFrame l with
    | some fr =>
      let x := (l.find? fun x => x.frames.contains fr).getD default
      s.fatalWord c 0x85 0 x.rec_ 0xFF (BitVec.ofNat 32 (x.c.getD 0 0)) (BitVec.ofNat 32 (x.c.getD 1 0))
    | none =>
      let fs := planFrames l
      let o : EngOp :=
        { id := s.uid, block := b.bid, warp := w.num, handle := p.1.toNat, kind := kind, st := st, stack := b.stack,
          core := w.core, word := c.uid, offset := c.tok, issue := c.cycle, waited := 0, last := 0, dst := none,
          srcA := none, srcB := none, pinned := fs, overr := c.stores, own := c.stores.map (·.1), taint := [],
          image := [], doneRd := false }
      let s := { s with uid := s.uid + 1 }
      bumpAll (f o l (((s.modBlock b.bid fun k => (k.alloc kindNo).2).pin true fs).setHandle h p.1))

def State.modOp (s : State) (id : Nat) (f : EngOp → EngOp) : State :=
  { s with ops := s.ops.map fun o => if o.id == id then f o else o }

/-- A frame of an operation is being moved: its translation waits for the switch (R138). -/
def State.opMoving (s : State) (o : EngOp) : Bool := o.pinned.any fun f => s.moving (.tensor f.1 (f.2 * 65536))

/-- The bytes of a box, by offset, whose values are undefined for the operation: another party wrote them (R153, R154), or another
outstanding operation is to write them (R129, R153). -/
def State.boxDirty (s : State) (o : EngOp) (x : Box) : List Nat :=
  let hot := (s.ops.filter fun q => q.id != o.id).flatMap s.opHot
  x.offsets.filter fun off => o.taint.contains (s.addrOf (x.loc off)) || hot.contains (s.addrOf (x.loc off))

/-- The bytes of a box as the operation reads them, by byte offset: as they stood before its word's own stores (R142), and free
values where they are undefined (log entry 7). -/
def State.boxBytes (s : State) (o : EngOp) (x : Box) : List (Nat × Byte) × State :=
  let bad := s.boxDirty o x
  (x.offsets.mapIdx fun i off =>
     (off, if bad.contains off then Config.freeByte (s.freeCtr + i) else oldByte o.overr s.mem (s.addrOf (x.loc off))),
   if bad.isEmpty then s else { s with freeCtr := s.freeCtr + x.offsets.length })

/-- A byte of a box by its offset. -/
def byteAt (l : List (Nat × Byte)) (off : Nat) : Byte :=
  match l.find? fun p => p.1 == off with
  | some p => p.2
  | none => 0

/-- Bytes of a box read from its frames count on its meter and as accesses of the stack (R136, R137, R346): of the `n` bytes in
frame number `i`, `part i n`. -/
def State.countPart (s : State) (o : EngOp) (part : Nat → Nat → Nat) (x : Box) : State :=
  match s.block? o.block with
  | none => s
  | some b =>
    (x.frames.zipIdx).foldl (fun s f =>
      (s.countMeter (s.meterOf b x.rcd (f.1.2 * 65536))
        (part f.2 (x.offsets.filter fun off => off / 65536 == f.1.2).length)).countAccess f.1.1 (f.1.2 * 65536) o.stack) s

/-- Every byte of a box is read. -/
def State.countBox (s : State) (o : EngOp) (x : Box) : State := s.countPart o (fun _ n => n) x

/-- How much of a box had been read when its operation was stopped is not stated (R330): a free part (log entry 7). -/
def State.countSome (s : State) (o : EngOp) (x : Box) : State :=
  { s.countPart o (fun i n => (Config.freeWord (s.freeCtr + i)).toNat % (n + 1)) x with
    freeCtr := s.freeCtr + x.frames.length }

/-- The frames a destination is written in count an access (R137). -/
def State.countWrites (s : State) (o : EngOp) (x : Box) : State :=
  x.frames.foldl (fun s f => s.countAccess f.1 (f.2 * 65536) o.stack) s

/-- A store of an operation's own word that has not yet performed leaves undefined the bytes the operation has written (R142). -/
def State.markStores (s : State) (o : EngOp) (as : List Nat) : State :=
  { s with reqs := s.reqs.map fun (r : Req) =>
      if r.word == o.word && r.kind == .store then { r with undef := r.undef ++ as } else r }

/-- Bytes an operation lands at its destination (R151): those another party wrote meanwhile are undefined, in tile memory
the whole granule (R129), and so are those a store of its own word wrote or still writes (R142); granules become full. -/
def State.land (s : State) (o : EngOp) (cells : List (Nat × Byte)) : State :=
  let as := cells.map (·.1)
  let badG := (addrGranules (o.taint ++ o.own)).filter fun g => (addrGranules as).contains g
  let bad := fun (a : Nat) => o.taint.contains a || o.own.contains a || (inTmem a && badG.contains ((a - regionSize) / 16))
  let extra := (badG.flatMap fun g => (List.range 16).map fun i => regionSize + 16 * g + i).filter fun a => !as.contains a
  let all := cells ++ extra.map fun a => (a, (0 : Byte))
  let vals := all.mapIdx fun i p => (p.1, if bad p.1 then Config.freeByte (s.freeCtr + i) else p.2)
  let s : State := { s with mem := s.mem.writeAll vals,
                            freeCtr := if all.any (fun p => bad p.1) then s.freeCtr + all.length else s.freeCtr }
  (((as.foldl (fun s a => s.clearTags a 1) s).taint o.id as).markStores o as).setFull (addrGranules as)

/-- The issuing core's later loads see a destination in a frame: its L1 takes the new bytes (R151). -/
def State.freshenL1 (s : State) (o : EngOp) (x : Box) : State :=
  if x.rcd.kind = 0 then
    x.offsets.foldl (fun s off => s.updateL1 (32 * o.stack + o.core) x.rcd.base off [s.mem.read (s.addrOf (x.loc off))]) s
  else s

/-- The cycle in which the next word of a cluster issues: once all 32 pitches of a pulse have acted, the next one. -/
def State.nowCycle (s : State) (stack cluster : Nat) : Nat :=
  let k := s.cluster stack cluster
  if 32 ≤ k.ptr && s.issue.isNone && s.sel.isNone then k.cycle + 1 else k.cycle

/-- The cycle of the cluster an operation runs in. -/
def State.opCycle (s : State) (o : EngOp) : Nat := s.nowCycle o.stack (o.core / 8)

/-- The cycles since the issue of an operation, those its block was saved for apart (R399). -/
def State.opAge (s : State) (o : EngOp) : Nat := o.waited + (s.opCycle o - o.issue)

/-- An operation ends: pins fall and the handle resolves (R138, R151), which Lantern times for the copy engine (R399). -/
def State.finish (s : State) (o : EngOp) (outcome val : Nat) (mal : Bool) : State :=
  let s : State := { s with ops := s.ops.filter fun k => k.id != o.id,
                            busy := s.busy.filter fun k => k.op != o.id }
  let s := (s.pin false o.pinned).resolve o.block o.handle outcome val mal
  if o.kind.isCopy then s.observe 0 (s.opAge o) o.block o.warp else s

/-- A load-block's lines of a tensor hold a byte. -/
def EngOp.lblkHolds (o : EngOp) : Loc → Bool
  | .tensor base off => (match o.kind, o.srcA with
    | .lblk _ first lines, some y => y.rcd.base == base && decide (first ≤ off / 128) && decide (off / 128 < first + lines)
    | _, _ => false)
  | .tmem _ _ _ => false
  | .peer _ _ _ => false

/-- Accesses of the warp before an operation that overlap a box are outstanding (R153); `reads` counts loads and load-blocks too. -/
def State.boxWaits (s : State) (reads : Bool) (o : EngOp) (x : Box) : Bool :=
  s.reqs.any (fun q => q.block == o.block && q.warp == o.warp && decide (q.id < o.id) &&
    (if q.kind.isLoad then reads else q.word != o.word) &&
    (q.kind.isGet || q.lanes.any fun k => x.offsets.any fun off => k.loc.overlaps k.bytes (x.loc off) 1)) ||
  (reads && s.ops.any fun q => q.block == o.block && q.warp == o.warp && decide (q.id < o.id) && q.kind.isLblk &&
    x.offsets.any fun off => q.lblkHolds (x.loc off))

/-- An operation by its number. -/
def State.op? (s : State) (id : Nat) : Option EngOp := s.ops.find? fun o => o.id == id

end Sys2Proof.Machine
end

