-- ==== Sys2Proof/Machine/Matrix.lean ====
section
/-! DEFINITION. The T slot (R310 to R321) and the events of the matrix unit. -/

namespace Sys2Proof.Machine

/-- Array cycles of an `mmac` (R316). -/
def accCycles (n m : Nat) (pair : MPair) : Nat := (mRows m * (16 * (n + 1)) * pairK pair + pairRate pair - 1) / pairRate pair

/-- ⌈M × N / 1,024⌉ (R320, R321). -/
def moveCycles (nt m : Nat) : Nat := (mRows m * (16 * (nt + 1)) + 1023) / 1024

/-- The last accumulation of the newest `mmac` of a core (R316). -/
def State.lastOf (s : State) (core : Nat) : Nat :=
  match s.lastAcc.find? fun p => p.1 == core with
  | some p => p.2
  | none => 0
def State.setLast (s : State) (core n : Nat) : State :=
  { s with lastAcc := (core, n) :: s.lastAcc.filter fun p => p.1 != core }

/-- Tiles of the warp's core made busy. -/
def State.setBusy (s : State) (b : Block) (w : Warp) (acc n op : Nat) (mmac write : Bool) (until_ : Nat) : State :=
  { s with busy := s.busy ++ (b.tiles w.core acc n).map fun t =>
      { core := coreId b w, tile := t, op := op, mmac := mmac, write := write, until_ := until_ } }

/-- The bytes of its operands that a matrix operation sees as they were before stores and atomics it need not see (R154), its own
word's apart (R142): in each piece that is read in one moment (R111) those from a free moment on are not seen (log entry 7). -/
def State.pickOlder (s : State) (o : EngOp) (unready : List (Nat × Nat × List Byte)) : List (Nat × Byte) :=
  let writes := (unready.filter fun e => e.1 != o.word).zipIdx.flatMap fun e =>
    e.1.2.2.mapIdx fun i v => (e.2, e.1.2.1 + i, v)
  ((writes.map fun p => s.pieceOf o p.2.1).dedup).zipIdx.flatMap fun k =>
    let here := writes.filter fun p => s.pieceOf o p.2.1 == k.1
    let ids := (here.map (·.1)).dedup
    let from_ := (Config.freeWord (s.freeCtr + k.2)).toNat % (ids.length + 1)
    (here.filter fun p => decide (from_ ≤ ids.idxOf p.1)).map (·.2)

/-- `mmac` (R312 to R317). -/
def execMmac (g : Guard) (h acc nf mf : Nat) (pair : MPair) (pro : Bool) (xa : Nat) (inca : Bool) (xb : Nat) (incb : Bool)
    (s : State) :=
  let i := Instr.mmac g h acc nf mf pair pro xa inca xb incb
  uniOp s i g fun c b w s =>
    s.submit c b w i h 3 (.mmac acc nf mf pair pro) .queued [(inca, xa), (incb, xb)] fun o l s =>
      let core := coreId b w
      let last := max (c.cycle + 24) (s.lastOf core) + accCycles nf mf pair
      let o := { o with last := last, srcA := l[0]?, srcB := l[1]? }
      let o := { o with overr := s.pickOlder o w.unready ++ o.overr }
      let s := s.setBusy b w acc nf o.id true true 0
      { s.setLast core last with ops := s.ops ++ [o], freeCtr := s.freeCtr + (w.unready.map fun e => e.2.2.length).sum }

/-- Whether an `mmac`, and how many array cycles it takes. -/
def EngOp.mmacCycles (o : EngOp) : Option Nat :=
  match o.kind with
  | .mmac _ n m pair _ => some (accCycles n m pair)
  | .cpy => none
  | .cpym _ => none
  | .coll _ => none
  | .mstore _ _ _ _ _ _ => none
  | .mload _ _ _ => none
  | .lblk _ _ _ => none

/-- An earlier `mmac` of the core has not reached a point. -/
def State.mmacBefore (s : State) (o : EngOp) (f : EngOp → Bool) : Bool :=
  s.ops.any fun q => q.stack == o.stack && q.core == o.core && decide (q.id < o.id) && q.mmacCycles.isSome && f q

/-- `MMAC_START` (R316): the operand fetch begins at last − Acc − 24, once the warp's earlier loads have performed (R164 to
R166). -/
def execMmacStart (id : Nat) (s : State) : Host.Outcome State Fault Refusal :=
  .next <|
    match s.op? id with
    | none => s
    | some o =>
      match o.mmacCycles with
      | none => s
      | some n =>
        if o.st != .queued || decide (s.opCycle o + n + 24 < o.last) || s.opMoving o ||
            s.mmacBefore o (fun q => q.st == .queued) || s.loadsBefore o.block o.warp o.id then s
        else (s.modOp id fun o => { o with st := .started }).observe 1 (s.opAge o) o.block o.warp

/-- The image of element (u, v) of an operand box, and whether its block is malformed (R109 to R114). -/
def operandAt (p : MPair) (isB : Bool) (x : Box) (bs : List (Nat × Byte)) (u v : Nat) : XVal × Bool :=
  let n := x.rcd.index (x.coords u v)
  if x.rcd.described then
    let e := blockElems x.rcd.format
    blockImage p isB x.rcd.format ((List.range 64).map fun k => byteAt bs (64 * (n / e) + k)) (n % e)
  else
    let off := x.rcd.byteOf n
    let t := if fmtBits x.rcd.format = 4 then (byteAt bs off).toNat / 16 ^ (n % 2) % 16
      else leNat ((List.range (elemBytes x.rcd.format)).map fun k => byteAt bs (off + k))
    (imageOf p (elemValue x.rcd.format 8 0 t), false)

/-- Cell (i, j) of a run of tiles (R311). -/
def cellAddr (core : Nat) (tiles : List Nat) (i j : Nat) : Nat := accAddr core (tiles.getD (j / 16) 0) i (j % 16)
def State.cell (s : State) (addr : Nat) : Word32 := BitVec.ofNat 32 (leNat (s.mem.readBytes addr 4))

/-- `MMAC_COMPLETION` (R314, R316): six cycles after its last accumulation the cells stand, the tiles are free of it and
the handle resolves; the operand bytes count (R136, R346).  An operand with a byte of undefined value leaves
the whole destination undefined (R4, R111): free values (log entry 7). -/
def execMmacCompletion (id : Nat) (s : State) : Host.Outcome State Fault Refusal :=
  .next <|
    match s.op? id with
    | none => s
    | some o =>
      match o.kind, o.srcA, o.srcB, s.block? o.block with
      | .mmac acc nf mf pair pro, some xa, some xb, some b =>
        if o.st != .started || decide (s.opCycle o < o.last + 6) || s.mmacBefore o (fun _ => true) then s
        else
          let pa := s.boxBytes o xa
          let pb := pa.2.boxBytes o xb
          let s := pb.2
          let bad := !(s.boxDirty o xa).isEmpty || !(s.boxDirty o xb).isEmpty
          let m := mRows mf
          let n := 16 * (nf + 1)
          let k := pairK pair
          let rows := (List.range m).map fun i => (List.range k).map fun q => operandAt pair false xa pa.1 q i
          let cols := (List.range n).map fun j => (List.range k).map fun q => operandAt pair true xb pb.1 j q
          let mal := rows.any (fun r => r.any (·.2)) || cols.any fun r => r.any (·.2)
          let tiles := b.tiles o.core acc nf
          let core := 32 * o.stack + o.core
          let cells := (List.range m).flatMap fun i => (List.range n).flatMap fun j =>
            let at_ := cellAddr core tiles i j
            let old := if pro then 0 else s.cell at_
            let v := cellSum pair ((rows.getD i []).map (·.1)) ((cols.getD j []).map (·.1)) old
            (leBytes 4 v.toNat).mapIdx fun q x =>
              (at_ + q, if bad then Config.freeByte (s.freeCtr + (4 * (n * i + j) + q)) else x)
          ((({ s with mem := s.mem.writeAll cells,
                      freeCtr := if bad then s.freeCtr + 4 * (m * n) else s.freeCtr
            }).countBox o xa).countBox o xb).finish o 1 0 mal
      | _, _, _, _ => s

/-- `mzero` (R318). -/
def execMzero (g : Guard) (acc nt : Nat) (s : State) :=
  uniOp s (.mzero g acc nt) g fun c b w s =>
    let p := s.fresh
    let s := p.2.setBusy b w acc nt p.1 false true (c.cycle + 4 * (nt + 1))
    { s with mem := (b.tiles w.core acc nt).foldl (fun m t => m.clear (accAddr (coreId b w) t 0 0) 16384) s.mem }

/-- A busy bit of an `mzero` whose time has come. -/
def State.zeroDone (s : State) (id : Nat) (k : BusyTile) : Bool :=
  k.op == id && !k.mmac && k.write && k.until_ != 0 &&
    decide (k.until_ ≤ s.nowCycle (k.core / 32) (k.core % 32 / 8))

/-- `MZERO_DONE` (R318): the tiles are no longer write-busy. -/
def execMzeroDone (id : Nat) (s : State) : Host.Outcome State Fault Refusal :=
  .next { s with busy := s.busy.filter fun k => !s.zeroDone id k }

/-- `mready` (R154, R319). -/
def execMready (g : Guard) (s : State) :=
  uniOp s (.mready g) g fun c _ _ s => s.holdOn c (.mready c.cycle) c.uid

/-- `mstore` (R320): the cells are read and the destination granules empty at issue. -/
def execMstore (g : Guard) (h acc nt mf : Nat) (fmt : Fmt) (rm : Rm) (src : Bool) (xd : Nat) (inc : Bool) (s : State) :=
  let i := Instr.mstore g h acc nt mf fmt rm src xd inc
  uniOp s i g fun c b w s =>
    s.submit c b w i h 1 (.mstore acc nt mf fmt rm src) .started [(inc, xd)] fun o l s =>
      match l[0]? with
      | none => s
      | some x =>
        let tiles := b.tiles w.core acc nt
        let core := coreId b w
        let image := x.elems.flatMap fun p =>
          let v := storeElem src fmt rm (s.cell (cellAddr core tiles p.2 p.1))
          (leBytes (elemBytes x.rcd.format) v).mapIdx fun q y => (s.addrOf (x.loc (x.off p.1 p.2 + q)), y)
        let o := { o with dst := some x, image := image }
        let s := s.setBusy b w acc nt o.id false false (c.cycle + moveCycles nt mf + 4)
        { s.setEmpty (addrGranules (image.map (·.1))) with ops := s.ops ++ [o] }

/-- `MSTORE_READ_DONE` (R320): the tiles are no longer read-busy. -/
def execMstoreReadDone (id : Nat) (s : State) : Host.Outcome State Fault Refusal :=
  .next <|
    match s.op? id with
    | none => s
    | some o =>
      match o.kind with
      | .mstore _ nt mf _ _ _ =>
        if s.opCycle o < o.issue + moveCycles nt mf + 4 then s
        else { s.modOp id (fun o => { o with doneRd := true }) with busy := s.busy.filter fun k => k.op != id }
      | _ => s

/-- `MSTORE_LANDING` (R320): the bytes land, the granules become full and the handle resolves. -/
def execMstoreLanding (id : Nat) (s : State) : Host.Outcome State Fault Refusal :=
  .next <|
    match s.op? id with
    | none => s
    | some o =>
      match o.kind, o.dst with
      | .mstore _ nt mf _ _ _, some x =>
        if decide (s.opCycle o < o.issue + moveCycles nt mf + 12) || s.boxWaits true o x then s
        else (s.land o o.image).finish o 1 o.image.length false
      | _, _ => s

/-- `mload` (R321). -/
def execMload (g : Guard) (h acc nt mf xs : Nat) (inc : Bool) (s : State) :=
  let i := Instr.mload g h acc nt mf xs inc
  uniOp s i g fun c b w s =>
    s.submit c b w i h 1 (.mload acc nt mf) .started [(inc, xs)] fun o l s =>
      let o := { o with srcA := l[0]? }
      let s := s.setBusy b w acc nt o.id false true 0
      { s with ops := s.ops ++ [o] }

/-- `MLOAD_COMPLETION` (R321): the words stand raw in the cells, the tiles are free and the handle resolves. -/
def execMloadCompletion (id : Nat) (s : State) : Host.Outcome State Fault Refusal :=
  .next <|
    match s.op? id with
    | none => s
    | some o =>
      match o.kind, o.srcA, s.block? o.block with
      | .mload acc nt mf, some x, some b =>
        if decide (s.opCycle o < o.issue + moveCycles nt mf + 8) || s.boxWaits false o x then s
        else
          let p := s.boxBytes o x
          let tiles := b.tiles o.core acc nt
          let cells := x.elems.flatMap fun e => (List.range 4).map fun q =>
            (cellAddr (32 * o.stack + o.core) tiles e.2 e.1 + q, byteAt p.1 (x.off e.1 e.2 + q))
          ({ p.2 with mem := p.2.mem.writeAll cells }).finish o 1 cells.length false
      | _, _, _ => s

end Sys2Proof.Machine
end

