-- ==== Sys2Proof/Machine/Async.lean ====
section
/-! DEFINITION. The C slot (R322 to R334): copies, collective steps and handles, and the events of the copy engine. -/

namespace Sys2Proof.Machine

/-- A copy enters the queue of its core's engine (R324, R325): destination granules become empty, those of a `coll` too (log entry
127); a box without elements resolves at once, after 0 ns (R399). -/
def State.enqueue (s : State) (o : EngOp) (l : List Box) : State :=
  let o := { o with dst := l[0]?, srcA := l[1]?, srcB := l[2]? }
  match o.dst with
  | none => s
  | some x =>
    if x.e0 = 0 || x.e1 = 0 then (s.resolve o.block o.handle 1 0 false).observe 0 0 o.block o.warp
    else
      { s.setEmpty (addrGranules ((o.dests s).flatMap s.boxAddrs)) with ops := s.ops ++ [o] }

/-- `cpy` (R325). -/
def execCpy (g : Guard) (h xd : Nat) (incd : Bool) (xs : Nat) (incs : Bool) (a : Nat) (s : State) :=
  let i := Instr.cpy g h xd incd xs incs a
  uniOp s i g fun c b w s =>
    s.submit c b w i h 1 .cpy .queued [(incd, xd), (incs, xs)] fun o l s => s.enqueue o l

/-- `cpym` (R326). -/
def execCpym (g : Guard) (h xd : Nat) (incd : Bool) (xs : Nat) (incs : Bool) (a cmask : Nat) (s : State) :=
  let i := Instr.cpym g h xd incd xs incs a cmask
  uniOp s i g fun c b w s =>
    s.submit c b w i h 1 (.cpym cmask) .queued [(incd, xd), (incs, xs)] fun o l s => s.enqueue o l

/-- `coll` (R327). -/
def execColl (g : Guard) (h xd : Nat) (incd : Bool) (xs : Nat) (incs : Bool) (a xr : Nat) (incr : Bool) (op : CollOp)
    (s : State) :=
  let i := Instr.coll g h xd incd xs incs a xr incr op
  uniOp s i g fun c b w s =>
    s.submit c b w i h 2 (.coll op) .queued [(incd, xd), (incs, xs), (incr, xr)] fun o l s => s.enqueue o l

/-- Byte offsets cut into runs of consecutive bytes, at most 128 long, that stay in one frame (R16). -/
def runs : List Nat → List (Nat × Nat)
  | [] => []
  | o :: r =>
    match runs r with
    | (p, n) :: q => if p = o + 1 && n < 128 && p % 65536 != 0 then (o, n + 1) :: q else (o, 1) :: (p, n) :: q
    | [] => [(o, 1)]

/-- Reads of bytes of a box on a peer leave (R16). -/
def State.readPeer (s : State) (o : EngOp) (k : Nat) (x : Box) (offs : List Nat) : State :=
  if x.rcd.kind = 3 then
    (runs offs).foldl (fun s p =>
      s.submitPeer (32 * o.stack + o.core) x.rcd.peer x.route (.engine o.id k p.1 p.2)
        (Head.place { (default : Head) with op := 1 } x.rcd.base p.1 p.2) []) s
  else s

/-- The bytes of a box of 4-bit elements of which it holds one nibble only. -/
def Box.halfBytes (x : Box) : List Nat :=
  if x.rcd.described || fmtBits x.rcd.format != 4 then []
  else
    let nibs := x.elems.map fun p => x.rcd.index (x.coords p.1 p.2)
    x.offsets.filter fun o => !(nibs.contains (2 * o) && nibs.contains (2 * o + 1))

/-- `COPY_START` (R153, R324): the engine takes the oldest operation of its queue once the warp's earlier accesses to its
boxes have performed.  A peer's bytes are asked for: the sources', and those a destination of 4-bit elements shares with elements
outside its box. -/
def execCopyStart (id : Nat) (s : State) : Host.Outcome State Fault Refusal :=
  .next <|
    match s.op? id with
    | none => s
    | some o =>
      let boxes := o.dests s ++ o.srcA.toList ++ o.srcB.toList
      let front := s.ops.all fun q => !(q.stack == o.stack && q.core == o.core && decide (q.id < id) && q.kind.isCopy &&
        q.st == .queued)
      if !o.kind.isCopy || o.st != .queued || !front || s.opMoving o || boxes.any (s.boxWaits false o) then s
      else
        let s := s.modOp id fun o => { o with st := .started }
        let s := o.srcA.toList.foldl (fun s x => s.readPeer o 1 x x.offsets) s
        let s := o.srcB.toList.foldl (fun s x => s.readPeer o 2 x x.offsets) s
        o.dst.toList.foldl (fun s x => s.readPeer o 3 x x.halfBytes) s

/-- The bytes a peer's answers brought for a box, by offset. -/
def EngOp.answers (o : EngOp) (k : Nat) : List (Nat × Byte) :=
  (o.image.filter fun p => p.1 / 2 ^ 64 == k).map fun p => (p.1 % 2 ^ 64, p.2)

/-- A source box's bytes by offset; a peer's are those its answers brought. -/
def State.sourceData (s : State) (o : EngOp) (k : Nat) (x : Box) : List (Nat × Byte) × State :=
  if x.rcd.kind = 3 then (o.answers k, s) else s.boxBytes o x

/-- A nibble of a byte. -/
def nibble (b : Byte) (k : Nat) : Nat := b.toNat / 16 ^ k % 16

/-- The bytes of the destination by offset for a raw copy (R325): elements of one byte or more, whole blocks of a described
record, or nibbles, `old` giving the nibbles of the destination that the copy does not write. -/
def copyCells (d x : Box) (src : List (Nat × Byte)) (old : Nat → Byte) : List (Nat × Byte) :=
  if d.rcd.described then
    let e := blockElems d.rcd.format
    let blocks := (d.elems.map fun p =>
      (d.rcd.index (d.coords p.1 p.2) / e, x.rcd.index (x.coords p.1 p.2) / e)).dedup
    blocks.flatMap fun b => (List.range 64).map fun q => (64 * b.1 + q, byteAt src (64 * b.2 + q))
  else if fmtBits d.rcd.format = 4 then
    let nibs := d.elems.map fun p =>
      let n := d.rcd.index (d.coords p.1 p.2)
      let m := x.rcd.index (x.coords p.1 p.2)
      (n, nibble (byteAt src (m / 2)) (m % 2))
    let get := fun n => match nibs.find? fun q => q.1 == n with
      | some q => q.2
      | none => nibble (old (n / 2)) (n % 2)
    d.offsets.map fun o => (o, BitVec.ofNat 8 (get (2 * o) + 16 * get (2 * o + 1)))
  else
    d.elems.flatMap fun p => (List.range (elemBytes d.rcd.format)).map fun q =>
      (d.off p.1 p.2 + q, byteAt src (x.off p.1 p.2 + q))

/-- One element of a collective step (R327). -/
def collElem (op : CollOp) (a b : Word32) : Word32 :=
  match op with
  | .sumF32 => fp32Add .rn a b
  | .sumBf16 =>
    BitVec.ofNat 32 (roundBf16 .rn ((fbf16.value (a.toNat % 65536)).add false (fbf16.value (b.toNat % 65536))))
  | .sumI32 => a + b
  | .maxF32 => fp32Max a b
  | .minF32 => fp32Min a b

/-- The bytes of the destination of a collective step. -/
def collCells (op : CollOp) (d x y : Box) (a b : List (Nat × Byte)) : List (Nat × Byte) :=
  let n := elemBytes d.rcd.format
  let get := fun (z : Box) (l : List (Nat × Byte)) (p : Nat × Nat) =>
    BitVec.ofNat 32 (leNat ((List.range n).map fun q => byteAt l (z.off p.1 p.2 + q)))
  d.elems.flatMap fun p =>
    (leBytes n (collElem op (get x a p) (get y b p)).toNat).mapIdx fun q v => (d.off p.1 p.2 + q, v)

/-- The bytes of the sources of a started operation, by offset. -/
def State.copySources (s : State) (o : EngOp) (x : Box) : (List (Nat × Byte) × List (Nat × Byte)) × State :=
  let p := s.sourceData o 1 x
  match o.srcB with
  | some y =>
    let q := p.2.sourceData o 2 y
    ((p.1, q.1), q.2)
  | none => ((p.1, []), p.2)

/-- The bytes a started operation writes in one of its destinations, by offset. -/
def State.copyResult (s : State) (o : EngOp) (d x : Box) (src : List (Nat × Byte) × List (Nat × Byte)) : List (Nat × Byte) :=
  match o.kind, o.srcB with
  | .coll op, some y => collCells op d x y src.1 src.2
  | _, _ => copyCells d x src.1 fun off => if d.rcd.kind = 3 then byteAt (o.answers 3) off else s.mem.read (s.addrOf (d.loc off))

/-- Two boxes hold the same elements at the same places. -/
def sameBox (a b : Box) : Bool :=
  (a.elems.map fun p => a.loc (a.off p.1 p.2)) == (b.elems.map fun p => b.loc (b.off p.1 p.2))

/-- The sources a destination must not overlap (R325, R327): a collective step's first source may be the destination itself. -/
def EngOp.rivals (o : EngOp) (d : Box) : List Box :=
  (o.srcA.toList.filter fun x => match o.kind with
    | .coll _ => !sameBox d x
    | _ => true) ++ o.srcB.toList

/-- The bytes of a collective step's destination that come of source bytes of undefined value (R153). -/
def State.collDirty (s : State) (o : EngOp) (d : Box) : List Nat :=
  match o.kind with
  | .coll _ =>
    let n := elemBytes d.rcd.format
    let bytes := fun (x : Box) (p : Nat × Nat) => (List.range n).map (x.off p.1 p.2 + ·)
    let srcs := (o.srcA.toList ++ o.srcB.toList).map fun x => (x, s.boxDirty o x)
    if srcs.all fun x => x.2.isEmpty then []
    else (d.elems.filter fun p => srcs.any fun x => (bytes x.1 p).any x.2.contains).flatMap (bytes d)
  | .cpy => []
  | .cpym _ => []
  | .mstore _ _ _ _ _ _ => []
  | .mload _ _ _ => []
  | .mmac _ _ _ _ _ => []
  | .lblk _ _ _ => []

/-- Bytes of a destination that a source overlaps are undefined (R325, R327), and those of elements computed from undefined bytes:
free values (log entry 7). -/
def State.freeSelf (s : State) (o : EngOp) (d : Box) (cells : List (Nat × Byte)) : List (Nat × Byte) × State :=
  let src := (o.rivals d).flatMap fun x => x.offsets.map x.loc
  let bad := s.collDirty o d
  let free := fun (off : Nat) => src.contains (d.loc off) || bad.contains off
  (cells.mapIdx fun i c => if free c.1 then (c.1, Config.freeByte (s.freeCtr + i)) else c,
   if cells.any fun c => free c.1 then { s with freeCtr := s.freeCtr + cells.length } else s)

/-- What a started operation writes in each of its destinations, by offset. -/
def State.copyCellsAll (s : State) (o : EngOp) (x : Box) (src : List (Nat × Byte) × List (Nat × Byte)) :
    List Box → List (Box × List (Nat × Byte)) × State
  | [] => ([], s)
  | d :: r =>
    let p := s.freeSelf o d (s.copyResult o d x src)
    let q := p.2.copyCellsAll o x src r
    ((d, p.1) :: q.1, q.2)

/-- The sources of an operation have been read (R136, R346). -/
def State.countSources (s : State) (o : EngOp) : State :=
  (o.srcA.toList ++ o.srcB.toList).foldl (fun s x => s.countBox o x) s

/-- `COPY_COMPLETION` (R151, R153, R325 to R327): once the warp's earlier accesses to its destinations have performed, on every core
of a `cpym`, every destination byte stands and the handle resolves.  A destination on a
peer is first sent, and the operation ends with its answers. -/
def execCopyCompletion (id : Nat) (s : State) : Host.Outcome State Fault Refusal :=
  .next <|
    match s.op? id with
    | none => s
    | some o =>
      match o.dst, o.srcA with
      | some d, some x =>
        if !o.kind.isCopy || o.st == .queued || s.peerPending id || (o.dests s).any (s.boxWaits true o) then s
        else if o.st == .writing then s.finish o 1 d.offsets.length false
        else
          let p := (s.countSources o).copySources o x
          let q := p.2.copyCellsAll o x p.1 (o.dests s)
          if d.rcd.kind = 3 then
            let cells := q.1.flatMap (·.2)
            let s := q.2.modOp id fun o => { o with st := .writing }
            (runs d.offsets).foldl (fun s r =>
              s.submitPeer (32 * o.stack + o.core) d.rcd.peer d.route (.engine id 0 r.1 r.2)
                (Head.place { (default : Head) with op := 3 } d.rcd.base r.1 r.2)
                ((List.range r.2).map fun i => byteAt cells (r.1 + i))) s
          else
            let cells := q.1.flatMap fun y => y.2.map fun c => (s.addrOf (y.1.loc c.1), c.2)
            (((q.2.land o cells).freshenL1 o d).countWrites o d).finish o 1 cells.length false
      | _, _ => s

-- Handles.

/-- `fwait` (R328): the stall has waited; it does nothing more. -/
def execFwait (g : Guard) (h : Nat) (s : State) := uniOp s (.fwait g h) g fun _ _ _ s => s

/-- The nanoseconds of an `ftry` (R329). -/
def ftryNs (w : Warp) : FTime → Nat
  | .imm t => t
  | .sreg r => min (w.sread r).toNat 4096

/-- `ftry` (R329). -/
def execFtry (g : Guard) (q h : Nat) (t : FTime) (s : State) :=
  uniOp s (.ftry g q h t) g fun c b w s =>
    let v := w.hread h
    let n := ftryNs w t
    if !b.unresolved v then s.fly c 1 [.qreg q true]
    else if n = 0 then s.fly c 1 [.qreg q false]
    else s.modWarp c.block c.warp fun w =>
      { w with trying := some { q := q, handle := v, deadline := (s.stack? b.stack).that + 1000 * n } }

/-- `FTRY_TIMEOUT` (R329): the handle has resolved, the time has passed, or the block is to be pre-empted (R39). -/
def execFtryTimeout (block warp : Nat) (s : State) : Host.Outcome State Fault Refusal :=
  .next <|
    match s.block? block with
    | none => s
    | some b =>
      match b.warp? warp with
      | none => s
      | some w =>
        match w.trying with
        | some k =>
          let done := !b.unresolved k.handle
          if done || b.pre.isSome || decide (k.deadline ≤ (s.stack? b.stack).that) then
            s.modWarp block warp fun w =>
              { (w.settleOn (.q k.q) 0 (s.cluster b.stack (w.core / 8)).cycle).land (.qreg k.q done) with trying := none }
          else s
        | none => s

/-- The bytes of an operation's destinations that lie in an allocation of its context: a remote window's may do so no more (R130). -/
def State.heldAddrs (s : State) (o : EngOp) : List Nat :=
  match s.block? o.block with
  | none => []
  | some b => (o.dests s).flatMap fun x =>
    if x.rcd.kind = 2 && !x.offsets.all fun off => s.ctxAlloc b.ctx x.stack x.rcd.core (x.rcd.base + off) 1 then []
    else s.boxAddrs x

/-- Tile-memory bytes of an operation's destination become full again. -/
def State.refillDest (s : State) (o : EngOp) : State := s.setFull (addrGranules (s.heldAddrs o))

/-- Bytes left undefined: free values (log entry 7). -/
def State.scramble (s : State) (as : List Nat) : State :=
  let p := s.freeBytes as.length
  { p.2 with mem := p.2.mem.writeAll (as.zip p.1) }

/-- The cells an `mload` writes. -/
def EngOp.cellBytes (s : State) (o : EngOp) : List Nat :=
  match o.kind, s.block? o.block with
  | .mload acc nt mf, some b =>
    let tiles := b.tiles o.core acc nt
    (List.range (mRows mf)).flatMap fun i => (List.range (16 * (nt + 1))).flatMap fun j =>
      (List.range 4).map fun q => cellAddr (32 * o.stack + o.core) tiles i j + q
  | _, _ => []

/-- A dropped operation (R330): nothing is read or written, its granules are full again. -/
def State.dropOp (s : State) (o : EngOp) : State := (s.refillDest o).finish o 3 0 false

/-- What a stopped operation had read counts (R330): a free part of a copy's sources, a free choice of a load-block's lines
(log entry 7). -/
def State.countStopped (s : State) (o : EngOp) : State :=
  match o.kind, o.srcA, s.block? o.block with
  | .lblk _ first lines, some x, some b =>
    (List.range lines).foldl (fun s i =>
      let f := s.freeWord
      if f.1.getLsbD 0 then (f.2.countMeter (f.2.meterOf b x.rcd (128 * (first + i))) 128).countAccess x.rcd.base
        (128 * (first + i)) o.stack
      else f.2) s
  | _, _, _ =>
    if o.kind.isCopy && o.st == .started then (o.srcA.toList ++ o.srcB.toList).foldl (fun s x => s.countSome o x) s else s

/-- The bytes of an operation's destination (R331). -/
def EngOp.destBytes (s : State) (o : EngOp) : Nat :=
  ((o.dests s).map fun x => x.offsets.length).sum + (o.cellBytes s).length + 128 * o.lblkLines

/-- A stopped operation (R330): its box holds undefined values, its granules are full, what no port has taken is not sent, and how
many bytes it wrote is not said; they concern other operations like any write (R335). -/
def State.stopOp (s : State) (o : EngOp) : State :=
  let as := s.heldAddrs o ++ o.cellBytes s
  let s := (((s.countStopped o).scramble as).taint o.id as).refillDest o
  let s := match o.kind with
    | .lblk tag _ _ =>
      if o.doneRd then s
      else { s with l1 := s.l1.filter fun y => !(y.core == 32 * o.stack + o.core && y.tag == some (o.block, tag)) }
    | _ => s
  let s := { s with peerReqs := s.peerReqs.filter fun (q : PeerReq) => q.port.isSome || (match q.who with
    | .engine op _ _ _ => op != o.id
    | .lane _ _ => true
    | .drain _ _ _ => true) }
  let f := s.freeWord
  f.2.finish o 2 (f.1.toNat % (o.destBytes s + 1)) false

/-- The later `mmac` operations of a core move up (R330): each runs after the one now before it, and its operand fetch
begins no earlier than now. -/
def moveUp (now : Nat) : Nat → List EngOp → List EngOp
  | _, [] => []
  | prev, o :: r =>
    match o.mmacCycles with
    | none => o :: moveUp now prev r
    | some n =>
      let last := max (max (o.issue + 24) (now + 24)) prev + n
      { o with last := last } :: moveUp now last r

/-- The `mmac` operations after one that leaves its core's queue move up. -/
def State.moveUpAfter (s : State) (o : EngOp) : State :=
  let core := 32 * o.stack + o.core
  let mine := fun (q : EngOp) => q.stack == o.stack && q.core == o.core && q.mmacCycles.isSome
  let prev := (s.ops.filter fun q => mine q && decide (q.id < o.id)).foldl (fun m q => max m q.last) 0
  let later := moveUp (s.opCycle o) prev (s.ops.filter fun q => mine q && decide (o.id < q.id))
  let s := { s with ops := s.ops.map fun (q : EngOp) => (later.find? fun (k : EngOp) => k.id == q.id).getD q }
  s.setLast core (later.foldl (fun m q => max m q.last) prev)

/-- A queued `mmac` of `n` array cycles has not started (R316): its moment has not come, or it waits for earlier loads. -/
def State.mmacAhead (s : State) (o : EngOp) (n : Nat) : Bool :=
  o.st == .queued && (decide (s.opCycle o + n + 24 < o.last) || s.loadsBefore o.block o.warp o.id)

/-- An `mmac` that has not started dropped (R330). -/
def State.dropMmac (s : State) (o : EngOp) : State := (s.moveUpAfter o).finish o 3 0 false

/-- `fcancel` (R330). -/
def execFcancel (g : Guard) (h : Nat) (s : State) :=
  uniOp s (.fcancel g h) g fun _ b w s =>
    let v := (w.hread h).toNat
    if !b.unresolved (w.hread h) then s
    else
      match s.ops.find? fun o => o.block == b.bid && o.handle == v with
      | some o =>
        (match o.mmacCycles with
          | some n => if s.mmacAhead o n then s.dropMmac o else s
          | none => if o.st == .queued then s.dropOp o else s.stopOp o)
      | none =>
        match s.commits.find? fun k => k.block == b.bid && k.handle == v with
        | some k =>
          if k.stamp.isNone then { s with commits := s.commits.filter fun (q : Commit) => q.id != k.id }.resolve b.bid v 3 0 false
          else s
        | none => s

/-- The state word of a handle (R331). -/
def Block.stat (b : Block) (h : Word64) : Nat :=
  match b.ringOf h with
  | none => 128 + 5 * 16
  | some r => r.resolved.bit * 128 + r.outcome * 16 + r.malformed.bit * 8 + r.kind

/-- `fstat` (R331). -/
def execFstat (g : Guard) (h d : Nat) (sel : FSel) (s : State) :=
  uniRes s (.fstat g h d sel) g fun c w =>
    let v := w.hread h
    match s.block? c.block with
    | none => []
    | some b =>
      [.sreg d (match sel with
        | .st => BitVec.ofNat 64 (b.stat v)
        | .val => match b.ringOf v with
          | some r => BitVec.ofNat 64 (if r.resolved then r.val else 0)
          | none => 0
        | .id => v)]

/-- `fmov` (R332). -/
def execFmov (g : Guard) (h a : Nat) (s : State) :=
  uniOp s (.fmov g h a) g fun _ _ w s => s.setHandle h (w.sread a)

end Sys2Proof.Machine
end

