-- ==== Sys2Proof/Machine/Fatal.lean ====
section
/-! DEFINITION. Traps entered and fatal context errors (R246, R350, R351, R372, R373, R385), and stream fetches (R62, R75). -/

namespace Sys2Proof.Machine

/-- The blocks of a context. -/
def State.blockOf (s : State) (ctx bid : Nat) : Bool :=
  match s.block? bid with
  | some b => b.ctx == ctx
  | none => false

/-- The operations a save kept of a block are dropped (R372 step 2). -/
def Block.dropSaved (b : Block) : Block :=
  { b.savedOps.foldl (fun (b : Block) o => b.resolve o.handle 3 0 false) b with savedOps := [] }

/-- Operations of a context not yet started are dropped, and commits not yet accepted (R372 step 2). -/
def State.dropQueued (s : State) (ctx : Nat) : State :=
  let s := (s.ops.filter fun o => s.blockOf ctx o.block && o.st == .queued).foldl (fun s o =>
    match s.op? o.id with
    | some o =>
      (match o.mmacCycles with
        | some n => if s.mmacAhead o n then s.dropMmac o else s
        | none => s.dropOp o)
    | none => s) s
  let s := (s.commits.filter fun k => k.ctx == ctx && k.stamp.isNone).foldl (fun s k =>
    { s with commits := s.commits.filter fun (q : Commit) => q.id != k.id }.resolve k.block k.handle 3 0 false) s
  { s with blocks := s.blocks.map fun b => if b.ctx == ctx then b.dropSaved else b }

/-- The coordinates of a fatal record (R373): free where no access is concerned (log entry 7). -/
def State.fatalCoords (s : State) (f : Fatal) : Fatal × State :=
  if f.rcd = 0xFFFF then
    let c0 := s.freeWord
    let c1 := c0.2.freeWord
    ({ f with c0 := c0.1.toNat, c1 := c1.1.toNat }, c1.2)
  else (f, s)

/-- A fatal context error (R372): the context's warps issue no more, what has not started is dropped.  The first error of a
context stands. -/
def State.fatalCtx (s : State) (ctx : Nat) (f : Fatal) : State :=
  if s.dead ctx then s
  else
    let q := s.fatalCoords f
    (q.2.modCtx ctx fun x => { x with fatal := some { q.1 with stamp := s.tb.latest }, ckptDone := false }).dropQueued ctx

/-- The record of a warp's fatal error (R373). -/
def fatalOf (b : Block) (w : Warp) (code trap : Nat) (t : TrapInfo) : Fatal :=
  { code := code, trap := trap, slot := t.slot, vdie := b.vdie, rcd := t.rcd, core := w.core, pitch := w.pitch,
    warp := w.num, lane := t.lane, block := b.num, offset := t.hpc, c0 := t.c0.toNat, c1 := t.c1.toNat, task := b.task,
    stamp := 0, seq := 0 }

/-- The slot of an engine operation in reports (R373). -/
def EngKind.slotNo (k : EngKind) : Nat := if k.isLblk then 7 else if k.isMatrix then 8 else 9

/-- What a fatal record says of an engine operation at a box (R373). -/
def EngOp.info (o : EngOp) (x : Box) : TrapInfo :=
  { (default : TrapInfo) with slot := o.kind.slotNo, rcd := x.rec_, lane := 0xFF, hpc := o.offset, hnext := o.offset,
                              c0 := BitVec.ofNat 32 (x.c.getD 0 0), c1 := BitVec.ofNat 32 (x.c.getD 1 0) }

/-- The checkpoints of a fatal error are in the NV store (R372 step 3). -/
def State.fatalKept (s : State) (ctx : Nat) : Bool :=
  match s.ctx? ctx with
  | some x => x.ckptDone && (match x.fatal with
    | some f => s.rainfly.reqs.all fun r => r.body.cause != 3 || decide (f.seq < r.body.seq)
    | none => false)
  | none => false

/-- The cause-3 checkpoints of a context (R372): one for each grant, while signatures are left (R393). -/
def State.fatalCkpts (s : State) (ctx : Nat) : State :=
  let s := (s.rainfly.grants.filter fun g => g.ctx == ctx).foldl (fun s g =>
    if s.leafLeft then
      let s := s.requestCkpt g.region 3 g.number .nobody
      s.modCtx ctx fun x => { x with fatal := x.fatal.map fun f => { f with seq := s.rainfly.seq } }
    else s) s
  s.modCtx ctx fun x => { x with ckptDone := true }

/-- Firmware goes on with a fatal error (R372): once what has started has run to its end the meters are checkpointed. -/
def State.fatalStep (s : State) (ctx : Nat) : State :=
  match s.ctx? ctx with
  | some x =>
    if x.fatal.isNone || x.ckptDone || s.ops.any (fun o => s.blockOf ctx o.block) || s.reqs.any (fun r => s.blockOf ctx r.block)
    then s else s.fatalCkpts ctx
  | none => s

/-- A warp has no turn any more: a turn of its own has ended. -/
def State.leaveTurn (s : State) (b : Block) (w : Warp) : State :=
  if (s.pitch (coreId b w) w.pitch).holder == some (b.bid, w.num) then s.endTurn (coreId b w) w.pitch else s

/-- `TRAP_ENTRY` (R58, R246): once the warp's results have landed and its long loads have returned, in a cycle before the one
under way, it enters its handler, where it begins a new turn, or the context ends.  A warp that waits at a synchronisation or in `ftry`
can be selected for no word of the handler before that is over (R26); one that a precise stop holds enters once that has ended (R401; log
entry 106). -/
def execTrapEntry (block warp : Nat) (s : State) : Host.Outcome State Fault Refusal :=
  .next <|
    match s.block? block with
    | none => s
    | some b =>
      match b.warp? warp with
      | none => s
      | some w =>
        match w.trap with
        | none => s
        | some t =>
          if b.status != .placed || s.dead b.ctx || w.stopped || w.flights != [] || w.wait != .none || w.trying.isSome ||
              !w.pend.all (fun p => match p.returned with
                | some c => decide (c < s.nowCycle b.stack (w.core / 8))
                | none => false) then s
          else
            let s := s.modWarp block warp fun w => { w with pend := [] }
            let s := if t.code = 0x61 then s.modWarp block warp fun w => { w with grant := none, overdraw := false } else s
            let h := match s.image? b.ctx b.image with
              | some im => im.handler
              | none => none
            match trapTarget h w t with
            | .ok entry => (s.leaveTurn b w).modWarp block warp fun w => w.enterHandler t entry
            | .error (code, trap) => s.fatalCtx b.ctx (fatalOf b w code trap t)

-- Fetch.

/-- The stacks' warps on a core that wait for something, in the order of their blocks. -/
def State.coreWarps (s : State) (stack core : Nat) : List (Block × Warp) :=
  s.blocks.flatMap fun b =>
    if b.stack == stack && b.status == .placed then (b.warps.filter fun w => w.core == core).map fun w => (b, w) else []

/-- The first line a warp's stream still needs, along the look-ahead of `peekGo` (R67, R75), and where the token stands that needs
it: offset and loop stack, but those of an earlier token that will trap, `at_`, where there is one. -/
def needLine (k : Code) (has : Nat → Bool) (w : Warp) :
    Nat → Nat → List LoopLevel → Option (Nat × List LoopLevel) → Option (Nat × Nat × List LoopLevel)
  | 0, _, _, _ => none
  | fuel + 1, pc, loops, at_ =>
    let here := at_.getD (pc, loops)
    if k.bytes.length ≤ pc then none
    else if !has (pc / 128) then some (pc / 128, here)
    else
      match decodeToken k.widths (k.bytes.drop pc) with
      | none => none
      | some (i, n) =>
        if !has ((pc + n - 1) / 128) then
          (List.range (n + 1)).findSome? fun j =>
            if has ((pc + j) / 128) then none else some ((pc + j) / 128, here)
        else
          match i with
          | .loop c imm len =>
            if c < 64 && w.pend.any fun p => p.reg == .s c then none
            else if (tokenTrap k w loops pc n i).isSome then needLine k has w fuel (pc + n) loops (some here)
            else
              let r := loopPush w loops pc c imm len
              let q := endToken r.1 r.2
              needLine k has w fuel q.2.1 q.1 at_
          | .ipf _ _ =>
            if (tokenTrap k w loops pc n i).isSome then needLine k has w fuel (pc + n) loops (some here)
            else
              let q := endToken loops (pc + n)
              needLine k has w fuel q.2.1 q.1 at_
          | _ => none

def State.needLine (s : State) (b : Block) (w : Warp) : Option (Nat × Nat × List LoopLevel) :=
  let k := s.code b w
  if w.idle ≠ 0 then none else Machine.needLine k (s.hasLine b w k.unit) w peekFuel w.pc w.loops none

/-- A line a warp needs that is in residence, as a key of its core's stream cache. -/
def State.wantedLine (s : State) (p : Block × Warp) : Option Nat :=
  let unit := (s.code p.1 p.2).unit
  (s.needLine p.1 p.2).bind fun n => if s.lineOut p.1 unit n.1 then none else some (fetchKey p.1 unit n.1)

/-- The line of a hint is out of residence on a stack (R73). -/
def State.keyOut (s : State) (stack key : Nat) : Bool :=
  let o := key / 2 ^ 32
  s.out.contains (o / 16 % 64, o / 1024, o % 16, stack, key % 2 ^ 32 / 512)

/-- A line enters the stream cache of a core, which holds 512 (R75). -/
def State.fillLine (s : State) (id key : Nat) : State :=
  let mine := (s.lines.filter fun x => x.1 == id).take 511
  { s with lines := (id, key) :: (mine ++ s.lines.filter fun x => x.1 != id), hints := s.hints.filter (· != (id, key)) }

/-- `STREAM_FETCH` (R73, R75): the line the first waiting warp of a core needs arrives, or, when none waits, the first line of a
prefetch hint, which is dropped when it is out of residence. -/
def execStreamFetch (stack core : Nat) (s : State) : Host.Outcome State Fault Refusal :=
  .next <|
    let id := 32 * stack + core
    match (s.coreWarps stack core).findSome? s.wantedLine with
    | some key => s.fillLine id key
    | none =>
      match s.hints.find? fun h => h.1 == id with
      | none => s
      | some h =>
        if s.keyOut stack h.2 then { s with hints := s.hints.filter (· != h) } else s.fillLine id h.2

/-- A group of a core's decode table is the most recently used (R62). -/
def State.touchGroup (s : State) (id key : Nat) : State :=
  if s.decoded.contains (id, key) then { s with decoded := (id, key) :: s.decoded.filter (· != (id, key)) } else s

/-- The miss a refill of a core serves: the oldest, so that the four refills under way are those of the oldest four and a later one waits
(R63; log entry 15). -/
def State.firstMiss (s : State) (core : Nat) : Option Miss := s.misses.find? fun m => m.core == core

/-- The warp whose request a refill is: the one that met the miss first (R399). -/
def State.missedBy (s : State) (m : Miss) : Option (Block × Warp) :=
  (s.block? m.block).bind fun b => (b.warp? m.warp).map fun w => (b, w)

/-- `DECODE_REFILL` (R62, R63): the group a core has missed first arrives; the table holds 128 groups, of which the least recently used
goes.  Lantern counts the cycles since the miss (R399). -/
def execDecodeRefill (stack core : Nat) (s : State) : Host.Outcome State Fault Refusal :=
  .next <|
    let id := 32 * stack + core
    match s.firstMiss id with
    | none => s
    | some m =>
      let s := s.observeCtx 3 (s.nowCycle stack (core / 8) - m.since) (keyCtx m.key) (s.missedBy m)
      let mine := (s.decoded.filter fun x => x.1 == id).take 127
      { s with decoded := (id, m.key) :: (mine ++ s.decoded.filter fun x => x.1 != id)
               misses := s.misses.filter fun k => !(k.core == id && k.key == m.key) }

end Sys2Proof.Machine
end

