-- ==== Sys2Proof/Machine/Sequence.lean ====
section
/-! DEFINITION. The pitch cycle as an event (R56) and the tokens of the index stream (R67 to R74). -/

namespace Sys2Proof.Machine

/-- `PITCH_CYCLE` (R28, R56): in a delivered pulse the 32 pitches of a cluster act in turn, cores ascending and, within a
core, pitches 0 to 3 (R128); after the last the next pulse begins. -/
def execPitchCycle (stack cluster : Nat) (s : State) : Host.Outcome State Fault Refusal :=
  .next <|
    if !s.running || !(s.stack? stack).powered then s
    else
      let s := if 32 ≤ (s.cluster stack cluster).ptr then s.pulseDone stack cluster else s
      let k := s.cluster stack cluster
      (s.modCluster stack cluster fun k => { k with ptr := k.ptr + 1 }).pitchStep stack (8 * cluster + k.ptr / 4) (k.ptr % 4)
        k.cycle

/-- A token of the warp chosen: its warp must have been chosen by a pitch cycle. -/
def tokenOp (s : State) (f : Sel → Block → Warp → State → State) : Host.Outcome State Fault Refusal :=
  match s.sel with
  | none => .fault .noWarpIssuing
  | some x =>
    match s.block? x.block with
    | none => .fault .noWarpIssuing
    | some b =>
      match b.warp? x.warp with
      | none => .fault .noWarpIssuing
      | some w => .next (f x b w s)

/-- A token with a stream-class trap ends the turn (R74); otherwise it acts. -/
def State.unlessTrap (s : State) (x : Sel) (b : Block) (w : Warp) (i : Instr) (n : Nat) (f : State → State) : State :=
  match tokenTrap (s.code b w) w w.loops w.pc n i with
  | some code => s.streamTrap x.block x.warp code w.pc
  | none => f s

/-- A word of the dictionary is issued by a token of `n` bytes before its holes (R56, R68); its group is the core's most recently
used (R62). -/
def State.indexToken (s : State) (i : Instr) (n entry : Nat) (holes : List Nat) : Host.Outcome State Fault Refusal :=
  tokenOp s fun x b w s =>
    let k := s.code b w
    let len := n + (k.widths entry).sum
    s.unlessTrap x b w i len fun s =>
      (s.touchGroup (coreId b w) (fetchKey b k.unit (entry / 16))).beginWord
        (k.issueOf s b w entry holes w.pc (w.pc + len) x.cycle)

/-- A short index token (R67, R68). -/
def execShortIndex (entry : Nat) (holes : List Nat) (s : State) := s.indexToken (.shortIndex entry holes) 1 entry holes
/-- A long index token (R67, R68). -/
def execLongIndex (entry : Nat) (holes : List Nat) (s : State) := s.indexToken (.longIndex entry holes) 2 entry holes

/-- `idle` (R69): n + 1 empty words, the first of them now. -/
def execIdle (n : Nat) (s : State) : Host.Outcome State Fault Refusal :=
  tokenOp s fun x b w s =>
    s.unlessTrap x b w (.idle n) 2 fun s =>
      (s.modWarp x.block x.warp fun w => { w with idle := n + 1 }).beginWord
        (mkIssue s b w 0 [] w.pc (w.pc + 2) x.cycle)

/-- The next empty word of an idle token under way (R44, R69). -/
def execEmptyWord (s : State) : Host.Outcome State Fault Refusal :=
  tokenOp s fun x b w s => s.beginWord (mkIssue s b w 0 [] w.pc (w.pc + 2) x.cycle)

/-- A token that issues no word has been passed, with end-of-token processing (R70); a warp that then holds for pre-emption, or that a
notice traps, gives up the turn, and since such a token takes no issue cycle the pitch selects another in this one; a warp that
another of its block awaits goes on to its word in the same cycle (R39, R67). -/
def State.passToken (s : State) (x : Sel) (b : Block) (w : Warp) (loops : List LoopLevel) (pc : Nat) : State :=
  let q := endToken loops pc
  let s := s.modWarp x.block x.warp fun w => { w with loops := q.1, pc := q.2.1 }
  let s := if q.2.2 && w.pointFree then s.reachPoint x.block x.warp else s
  match s.block? x.block, s.warp? x.block x.warp with
  | some k, some v =>
    if k.holds v || v.trap.isSome then
      ({ s with sel := none }.turnEnds (coreId b w) w.pitch).pitchSelect b.stack w.core w.pitch x.cycle
    else s
  | _, _ => s

/-- `loop` (R70, R71). -/
def execLoop (c imm len : Nat) (s : State) : Host.Outcome State Fault Refusal :=
  tokenOp s fun x b w s =>
    s.unlessTrap x b w (.loop c imm len) (if c = 0xFF then 6 else 4) fun s =>
      let r := loopPush w w.loops w.pc c imm len
      s.passToken x b w r.1 r.2

/-- `ipf` (R73): a hint for n8 + 1 lines, without architectural effect. -/
def execIpf (off n : Nat) (s : State) : Host.Outcome State Fault Refusal :=
  tokenOp s fun x b w s =>
    s.unlessTrap x b w (.ipf off n) 6 fun s =>
      (s.hintLines b w (w.pc + (BitVec.ofNat 32 off).toInt) (n + 1)).passToken x b w w.loops (w.pc + 6)

/-- An unassigned token byte (R74): trap 0x10. -/
def execUnassignedToken (v : Nat) (s : State) : Host.Outcome State Fault Refusal :=
  tokenOp s fun x b w s => s.unlessTrap x b w (.unassignedToken v) 1 fun s => s

end Sys2Proof.Machine
end

