-- ==== Sys2Proof/Machine/Sched.lean ====
section
/-! DEFINITION. Firmware's work on blocks and tasks: command blocks returned (R197), dispatch and placement (R22, R87, R209,
R336, R337, R342), saves and swaps (R39 to R42, R216 to R218, R334, R344, R357, R358), the stage balancer (R215), completion
(R157, R211, R212), migration and residence (R137, R370). -/

namespace Sys2Proof.Machine

-- Command blocks.

/-- Bytes written into a block of bytes. -/
def setBytes (bs : List Byte) (off : Nat) (v : List Byte) : List Byte := bs.take off ++ v ++ bs.drop (off + v.length)

/-- The first command block of a function removed. -/
def eraseCmd (fn : Nat) : List CmdBlock → List CmdBlock
  | [] => []
  | k :: r => if k.fn = fn then r else k :: eraseCmd fn r

/-- The command a function's firmware carries out: the oldest it owns (R197). -/
def State.cmd? (s : State) (fn : Nat) : Option CmdBlock := s.cmds.find? fun k => k.fn == fn

/-- A command completes (R197, R212): results and status are written, the owner bit is cleared, and message 0 is sent. -/
def State.complete (s : State) (fn status : Nat) (res : List (Nat × List Byte)) : State :=
  match s.cmd? fn with
  | none => s
  | some k =>
    let bs := setBytes (res.foldl (fun b r => setBytes b r.1 r.2) k.bytes) 12 (leBytes 4 status)
    let bs := bs.set 2 (bs.getD 2 0 &&& 0xFE)
    { s with cmds := eraseCmd fn s.cmds
             returned := s.returned ++ [{ k with bytes := bs, running := false, wants := [] }]
             msix := s.msix ++ [(fn, 0)] }

/-- The fatal record (R373). -/
def Fatal.bytes (f : Fatal) : List Byte :=
  [BitVec.ofNat 8 f.code, BitVec.ofNat 8 f.trap, BitVec.ofNat 8 f.slot, BitVec.ofNat 8 f.vdie] ++ leBytes 2 f.rcd ++
  [BitVec.ofNat 8 f.core, BitVec.ofNat 8 f.pitch, BitVec.ofNat 8 f.warp, BitVec.ofNat 8 f.lane] ++ leBytes 2 0 ++
  leBytes 4 f.block ++ leBytes 4 f.offset ++ leBytes 4 f.c0 ++ leBytes 4 f.c1 ++ leBytes 4 0 ++ leBytes 8 f.task ++
  leBytes 8 f.stamp ++ leBytes 8 f.seq ++ leBytes 8 0

/-- A command that names a context with a fatal error completes with `CTX_FATAL` and its record (R373). -/
def State.completeFatal (s : State) (fn : Nat) (f : Fatal) : State := s.complete fn 11 [(64, f.bytes)]

/-- A field of a command block. -/
def CmdBlock.num (k : CmdBlock) (off n : Nat) : Nat := leNat ((k.bytes.drop off).take n)

-- Blocks that have ended.

/-- A warp that has ended: it issued `exit` and its results have landed (R244). -/
def Warp.gone (w : Warp) : Bool := w.exited && w.flights.isEmpty && w.pend.isEmpty

/-- No request of a block is outstanding. -/
def State.noReqs (s : State) (b : Block) : Bool := s.reqs.all fun r => r.block != b.bid

/-- A block that has ended: its warps, its accesses, its engine operations, its commits not yet accepted; no fatal error of a handler's
access is still to be taken (R246). -/
def State.ended (s : State) (b : Block) : Bool :=
  b.status == .placed && b.warps.all Warp.gone && (s.dead b.ctx || b.warps.all fun w => w.trap.isNone) && s.noReqs b &&
  (s.ops.all fun o => o.block != b.bid) && s.commits.all fun k => k.block != b.bid || k.stamp.isSome

/-- A command that waits for blocks to be saved waits no longer for any (R216). -/
def State.settled (s : State) (k : CmdBlock) : Bool :=
  k.wants.all fun bid => match s.block? bid with
    | some b => b.status != .placed
    | none => true

/-- `PREEMPT` commands complete once every block they named is saved or has ended (R216); with `CTX_FATAL` when the context
has met a fatal error (R357, R373), after its checkpoints (R372). -/
def State.settleCmds (s : State) : State :=
  (List.range 16).foldl (fun s fn => match s.cmd? fn with
    | none => s
    | some k =>
      if k.running && k.num 0 2 == 7 then
        match (s.ctx? (k.num 4 4)).bind fun x => x.fatal with
        | some f => if s.fatalKept (k.num 4 4) then s.completeFatal fn f else s
        | none => if s.settled k then s.complete fn 0 [] else s
      else s) s

/-- Blocks that have ended leave, and free what they held; their load-blocks stay until one of the cases of R133 evicts them. -/
def State.reap (s : State) : State :=
  { s with blocks := s.blocks.filter fun b => !s.ended b }.settleCmds

-- Dispatch.

/-- Blocks of a stage's grid. -/
def LaunchRec.blocks (r : LaunchRec) : Nat := r.grid.foldl (· * ·) 1

/-- The class of a task: of its own launch record. -/
def Task.cls (t : Task) : Nat := (t.recs.headD default).cls

/-- A context stands suspended (R209, R216). -/
def State.suspended (s : State) (ctx : Nat) : Bool :=
  match s.ctx? ctx with
  | some x => x.suspended
  | none => false

/-- A task eligible for dispatch (R209). -/
def State.eligible (s : State) (t : Task) : Bool :=
  !t.dispatched && !t.completed && !t.held && !t.suspended && !s.dead t.ctx && !s.suspended t.ctx &&
  (t.links.all fun n => match s.task? t.ctx n with
    | some q => q.completed
    | none => true) &&
  s.tasks.all fun q => q.ctx != t.ctx || q.queue != t.queue || decide (t.num ≤ q.num) || q.dispatched || q.completed

/-- The first of some tasks by class and number. -/
def firstTask : List Task → Option Task
  | [] => none
  | t :: r =>
    match firstTask r with
    | none => some t
    | some q => if decide (t.cls < q.cls) || (t.cls == q.cls && decide (t.num < q.num)) then some t else some q

/-- `TASK_DISPATCH` (R209): the first eligible task of a context, when no other context has one of a higher class. -/
def execTaskDispatch (ctx : Nat) (s : State) : Host.Outcome State Fault Refusal :=
  .next <|
    match firstTask (s.tasks.filter fun t => t.ctx == ctx && s.eligible t) with
    | none => s
    | some t =>
      if s.tasks.any fun q => s.eligible q && decide (q.cls < t.cls) then s
      else s.modTask t.ctx t.num fun t => { t with dispatched := true }

-- Room.

/-- Warps of a kernel of 8 × `regs` registers that a pitch still takes (R22); a warp that has ended takes no room (log entry 134). -/
def State.pitchRoom (s : State) (stack core p regs : Nat) : Nat :=
  let rs := (s.residents stack core p).filter fun x => !x.2.gone
  min (48 - rs.length) ((262144 - (rs.map fun x => 1024 * x.1.rcd.regs).sum) / (1024 * regs))

/-- The allocations on a core with the blocks that hold them. -/
def State.allocsOn (s : State) (stack core : Nat) : List (Block × Alloc) :=
  s.blocks.flatMap fun b =>
    if b.stack == stack && b.status == .placed then (b.allocs.filter fun a => a.core == core).map fun a => (b, a) else []

/-- The lowest base at which `n` bytes of a core's tile memory are free. -/
def State.gap (s : State) (stack core n : Nat) : Option Nat :=
  let used := (s.allocsOn stack core).map fun x => (x.2.base, x.2.base + x.1.rcd.tmem)
  (sortBy Nat.ble (0 :: used.map (·.2))).find? fun lo =>
    decide (lo + n ≤ Config.tmemBytes) && used.all fun u => decide (lo + n ≤ u.1) || decide (u.2 ≤ lo)

/-- The lowest `n` free accumulator tiles of a core (R311). -/
def State.freeTiles (s : State) (stack core n : Nat) : Option (List Nat) :=
  let used := (s.allocsOn stack core).flatMap fun x => x.2.tiles
  let free := ((List.range Config.accTiles).filter fun t => !used.contains t).take n
  if free.length = n then some free else none

/-- Accumulator tiles a block holds on each of its cores (R311). -/
def State.tilesOf (s : State) (b : Block) : Nat :=
  match s.image? b.ctx b.image with
  | none => 0
  | some im =>
    max (match im.units.find? fun u => u.unit == b.rcd.unit with
      | some u => u.tiles
      | none => 0) (match im.handler with
      | some h => h.tiles
      | none => 0)

/-- A core has the tile memory and the accumulator tiles a block needs. -/
def State.coreRoom (s : State) (b : Block) (stack core : Nat) : Bool :=
  (s.gap stack core b.rcd.tmem).isSome && (s.freeTiles stack core (s.tilesOf b)).isSome

/-- The pitches of a core that take warps of a block, with how many each takes. -/
def State.freePitches (s : State) (b : Block) (stack core : Nat) : List (Nat × Nat × Nat) :=
  if s.coreRoom b stack core then
    ((List.range 4).map fun p => (core, p, s.pitchRoom stack core p b.rcd.regs)).filter fun x => x.2.2 != 0
  else []

/-- Save space of a block on `n` cores (R209). -/
def State.saveSpace (s : State) (b : Block) (n : Nat) : Nat :=
  4096 + (b.rcd.warps + 1) * (1024 + 1024 * b.rcd.regs) + n * (b.rcd.tmem + 16384 * s.tilesOf b)

/-- Bivouac bytes a context's blocks have reserved (R209). -/
def State.reserved (s : State) (ctx : Nat) : Nat :=
  ((s.blocks.filter fun b => b.ctx == ctx).map fun b =>
    s.saveSpace b (if b.status == .placed then b.allocs.length else b.saved.length)).sum

-- Placement.

/-- The ways to take `n` members of a list in its order, the earliest first. -/
def choose : List Nat → Nat → List (List Nat)
  | _, 0 => [[]]
  | [], _ + 1 => []
  | x :: r, n + 1 => (choose r n).map (x :: ·) ++ choose r (n + 1)

/-- Where a block goes: the cores, ascending, and the core and pitch of each of its warps. -/
structure Spot where
  stack : Nat
  cores : List Nat
  seats : List (Nat × Nat × Nat)
  deriving DecidableEq, Repr

/-- Warps dealt in turn to pitches, a full pitch skipped (R22). -/
def deal : List (Nat × Nat × Nat) → List Nat → List (Nat × Nat × Nat)
  | _, [] => []
  | [], _ :: _ => []
  | x :: r, w :: ws => (w, x.1, x.2.1) :: deal (if x.2.2 ≤ 1 then r else r ++ [(x.1, x.2.1, x.2.2 - 1)]) ws

/-- The warps of a block that still need a pitch. -/
def Block.seated (b : Block) : List Nat := (b.warps.filter fun w => !w.gone).map (·.num)

/-- The `n` largest of some numbers added up. -/
def topSum (n : Nat) (l : List Nat) : Nat := ((sortBy (fun a b => decide (b ≤ a)) l).take n).sum

/-- The first `n` of some pitches, in their order, that together take `w` warps. -/
def pickPitches : Nat → Nat → List (Nat × Nat × Nat) → Option (List (Nat × Nat × Nat))
  | 0, 0, _ => some []
  | 0, _ + 1, _ => none
  | _ + 1, _, [] => none
  | n + 1, w, x :: r =>
    if n ≤ r.length ∧ w ≤ x.2.2 + topSum n (r.map fun y => y.2.2) then (pickPitches n (w - x.2.2) r).map (x :: ·)
    else pickPitches (n + 1) w r

/-- The cores a block was saved from. -/
def Block.oldCores (b : Block) : List Nat := (b.hint.getD { vdie := 0, cores := [], mapVersion := 0 }).cores

/-- The core a warp of a block stands on at a spot; one that has ended goes with its old core. -/
def Spot.coreOf (x : Spot) (b : Block) (n : Nat) : Nat :=
  match x.seats.find? fun k => k.1 == n with
  | some k => k.2.1
  | none => x.cores.getD (b.oldCores.idxOf ((b.warp? n).getD default).core) (x.cores.headD 0)

/-- A saved block's kept operations can be submitted again at a spot (R334): pin counts can rise (R138) and the matrix and copy queues
of each core have room (R317, R324); else it is not placed there (log entry 108). -/
def State.keptFits (s : State) (b : Block) (x : Spot) : Bool :=
  !s.pinsFull (b.savedOps.flatMap (·.pinned)) && x.cores.all fun c =>
    let l := (b.savedOps.filter fun o => x.coreOf b o.warp == c) ++ s.ops.filter fun o => o.stack == x.stack && o.core == c
    decide ((l.filter fun o => o.kind.isMatrix).length ≤ 4) && decide ((l.filter fun o => o.kind.isCopy).length ≤ 16)

/-- The dictionary and stream copies of an image stand on a stack before a block's first word there (R63, R66, R75). -/
def State.copiesOn (s : State) (b : Block) (stack : Nat) : State :=
  { s with out := s.out.filter fun k => !(k.1 == b.ctx && k.2.1 == b.image && k.2.2.2.1 == stack) }

/-- The frames of a stack hold the copies that a block needs there (R63, R66, R75); else it is not placed (log entry 25). -/
def State.copyRoom (s : State) (b : Block) (stack : Nat) : Bool :=
  let t := { s.copiesOn b stack with blocks := { b with stack := stack, status := .placed } :: s.blocks }
  decide ((s.usedFrames 1 stack).length ≤ t.tierFrames 1 stack)

/-- A spot takes a block with its kept operations and its copies. -/
def State.takes (s : State) (b : Block) (x : Spot) : Bool := s.keptFits b x && s.copyRoom b x.stack

/-- A set of cores takes a block: ⌈w / c⌉ pitches, w the block's warps, the lowest-numbered of each core that hold them
(R336). -/
def State.fitSet (s : State) (b : Block) (stack : Nat) (set : List Nat) : Option Spot :=
  let c := min 48 (256 / b.rcd.regs)
  match pickPitches ((b.warps.length + c - 1) / c) b.seated.length (set.flatMap (s.freePitches b stack)) with
  | none => none
  | some ps =>
    let x : Spot := { stack := stack, cores := set, seats := deal ps b.seated }
    if set.all (fun k => ps.any fun p => p.1 == k) && s.takes b x then some x else none

/-- The cores of some clusters in ascending order. -/
def clusterCores (c : Nat) : List Nat := (List.range 8).map (8 * c + ·)

/-- A core holds another block of the same grid (R342). -/
def State.sameGrid (s : State) (b : Block) (stack core : Nat) : Bool :=
  (s.allocsOn stack core).any fun x => x.1.bid != b.bid && x.1.ctx == b.ctx && x.1.task == b.task && x.1.stage == b.stage

/-- The sets of `n` cores of some clusters, the lowest first, those free of other blocks of the block's grid before the others
(R342). -/
def State.coreSets (s : State) (b : Block) (stack : Nat) (clusters : List Nat) (n : Nat) : List (List Nat) :=
  (clusters.flatMap fun c => choose ((clusterCores c).filter fun k => !s.sameGrid b stack k) n) ++
  clusters.flatMap fun c => choose (clusterCores c) n

/-- The place of a block that is dealt afresh on at most `most` cores (R22, R336, R342): on as few cores as can hold it, then away
from blocks of its own grid, the lowest cluster and the lowest cores (log entry 28). -/
def State.fit (s : State) (b : Block) (stack : Nat) (clusters : List Nat) (most : Nat) : Option Spot :=
  ((List.range (min 8 most)).flatMap fun k => s.coreSets b stack clusters (k + 1)).findSome? (s.fitSet b stack)

/-- Groups of warps that shared a pitch seated on free pitches, each on its own (log entry 28). -/
def seatGroups : List (List Nat) → List (Nat × Nat × Nat) → Option (List (Nat × Nat × Nat))
  | [], _ => some []
  | g :: r, ps => (ps.filter fun x => decide (g.length ≤ x.2.2)).findSome? fun x =>
    (seatGroups r (ps.filter fun y => y != x)).map fun l => (g.map fun w => (w, x.1, x.2.1)) ++ l

/-- The warps of a saved block that shared a core of the save, pitch by pitch. -/
def Block.groupsOn (b : Block) (core : Nat) : List (List Nat) :=
  ((List.range 4).map fun p =>
    (b.warps.filter fun w => !w.gone && w.core == core && w.pitch == p).map (·.num)).filter (· != [])

/-- A save holds contents of each core, so that the warps of a core stay together (log entry 28). -/
def State.tied (s : State) (b : Block) : Bool := b.rcd.tmem != 0 || s.tilesOf b != 0

/-- The least number of some pitches that together take `w` warps. -/
def leastPitches (w : Nat) (ps : List (Nat × Nat × Nat)) : Option Nat :=
  (List.range (ps.length + 1)).find? fun n => decide (w ≤ topSum n (ps.map fun x => x.2.2))

/-- Pitches granted core by core, the least that hold the core's warps and what is left of `spare`, and the warps dealt to them. -/
def grantParts : Nat → List (List Nat × List (Nat × Nat × Nat) × Nat) → Option (List (Nat × Nat × Nat))
  | spare, [] => if spare = 0 then some [] else none
  | spare, p :: r =>
    let more := min spare (p.2.1.length - p.2.2)
    (pickPitches (p.2.2 + more) p.1.length p.2.1).bind fun ps => (grantParts (spare - more) r).map (deal ps p.1 ++ ·)

/-- The warps of each old core dealt afresh on the core of a set that stands for it, ⌈w / c⌉ pitches in all (R22, R336); the
cores pair in ascending order (log entry 28). -/
def State.dealParts (s : State) (b : Block) (stack : Nat) (set : List Nat) : Option (List (Nat × Nat × Nat)) :=
  let c := min 48 (256 / b.rcd.regs)
  let n := (b.warps.length + c - 1) / c
  let parts := (b.oldCores.zip set).map fun p =>
    ((b.warps.filter fun w => !w.gone && w.core == p.1).map (·.num), s.freePitches b stack p.2)
  let least := parts.map fun p => leastPitches p.1.length p.2
  if least.any Option.isNone || decide (n < (least.map (·.getD 0)).sum) then none
  else grantParts (n - (least.map (·.getD 0)).sum) (parts.map fun p => (p.1, p.2, (leastPitches p.1.length p.2).getD 0))

/-- A saved block whose cores hold contents on a set of as many cores; in an open region the warps of a pitch stay together. -/
def State.fitParts (s : State) (b : Block) (stack : Nat) (set : List Nat) : Option Spot :=
  if !set.all (s.coreRoom b stack) then none
  else
    ((if b.regions.isEmpty then s.dealParts b stack set
     else (b.oldCores.zip set).foldr (fun p l => l.bind fun l =>
       (seatGroups (b.groupsOn p.1) (s.freePitches b stack p.2)).map (· ++ l)) (some [])).map fun seats =>
      { stack := stack, cores := set, seats := seats : Spot }).filter (s.takes b)

/-- A saved block with an open region on any set of cores, the warps of a pitch together. -/
def State.fitGroups (s : State) (b : Block) (stack : Nat) (set : List Nat) : Option Spot :=
  ((seatGroups (b.oldCores.flatMap b.groupsOn) (set.flatMap (s.freePitches b stack))).map fun seats =>
    { stack := stack, cores := set, seats := seats : Spot }).filter (s.takes b)

/-- The place of a saved block whose hint is discarded (R218), by R22 and R336: on any cores its launch record allows, but on as many
as it was saved from where these hold contents (log entry 28). -/
def State.refit (s : State) (b : Block) (stack : Nat) (clusters : List Nat) : Option Spot :=
  let most := if s.tied b then 1 else b.rcd.cores + 1
  if s.tied b && b.saved.length != 1 then (s.coreSets b stack clusters b.saved.length).findSome? (s.fitParts b stack)
  else if b.regions.isEmpty then s.fit b stack clusters most
  else ((List.range (min 8 most)).flatMap fun k => s.coreSets b stack clusters (k + 1)).findSome? (s.fitGroups b stack)

/-- A placed block as a save would leave it, for the test of room elsewhere (R194). -/
def Block.asSaved (b : Block) : Block :=
  { b with saved := b.allocs.map fun _ => { mem := [], empty := [], acc := [] }
           hint := some { vdie := b.vdie, cores := b.allocs.map (·.core), mapVersion := 0 } }

/-- The place a saved block had (R42, R218), if it is free: the hint's cores, and on them the pitches its warps stood on (log entry
117). -/
def State.oldPlace (s : State) (b : Block) (stack : Nat) : Option Spot :=
  let old := b.oldCores
  let live := b.warps.filter fun w => !w.gone
  let full := live.any fun w =>
    decide (s.pitchRoom stack w.core w.pitch b.rcd.regs <
      (live.filter fun x => x.core == w.core && x.pitch == w.pitch).length)
  let x : Spot := { stack := stack, cores := old, seats := live.map fun w => (w.num, w.core, w.pitch) }
  if old.all (s.coreRoom b stack) && !full && s.takes b x then some x else none

/-- The slots of a pitch that hold no warp, or one that has ended (log entry 134), ascending. -/
def State.freeSlots (s : State) (stack core p : Nat) : List Nat :=
  let used := ((s.residents stack core p).filter fun x => !x.2.gone).map fun x => x.2.slot
  (List.range 48).filter fun k => !used.contains k

/-- A last-issue cycle older than every resident warp's (R27, R337). -/
def State.oldest (s : State) (stack core p : Nat) : Int :=
  ((s.residents stack core p).map fun x => x.2.lastIssue).foldl min 0 - 1

/-- Warps take their seats: core, pitch, the lowest free slots in ascending warp number, one common last-issue cycle. -/
def State.seat (s : State) (x : Spot) (ws : List Warp) : List Warp :=
  ws.map fun w =>
    match x.seats.find? fun k => k.1 == w.num with
    | none => w
    | some k =>
      let before := (x.seats.filter fun q => q.2 == k.2 && decide (q.1 < w.num)).length
      { w with core := k.2.1, pitch := k.2.2, slot := (s.freeSlots x.stack k.2.1 k.2.2).getD before 0,
               lastIssue := s.oldest x.stack k.2.1 k.2.2 }

/-- The allocations of a block at a spot. -/
def State.newAllocs (s : State) (b : Block) (x : Spot) : List Alloc :=
  x.cores.map fun c =>
    { core := c, base := (s.gap x.stack c b.rcd.tmem).getD 0, tiles := (s.freeTiles x.stack c (s.tilesOf b)).getD [] }

/-- A warp before its first word (R87); `sys.mspill_rec` and `sys.mspill_off` read 0 (R355). -/
def Warp.fresh (r : LaunchRec) (num : Nat) : Warp :=
  { num := num, core := 0, pitch := 0, slot := 0, pc := r.entry, idle := 0, loops := [], masks := [], active := allLanes,
    b := List.replicate 8 0, xfer := none, region := none, bank := none, v := List.replicate (8 * r.regs) (splat 0),
    s := List.replicate 64 0, p := allLanes :: List.replicate 47 0, q := true :: List.replicate 15 false,
    h := List.replicate 16 0, x := List.replicate 8 { rcd := 0, c := [0, 0, 0, 0], i := [0, 0, 0, 0], step := 0, sdim := 0 },
    parked := 0, records := [], lastIssue := 0, flights := [], pend := [], wait := .none, asking := none,
    trying := none, gathers := [], hold := [], held := false, stopped := false, stopRec := none, trap := none, exited := false,
    hcause := 0, hpc := 0, hnext := 0, trapArg := 0, spillRec := 0, spillOff := 0, step := none, grant := none,
    regrant := none, probeIn := none, probeBad := false, drains := 0, unready := [], overdraw := false, atPoint := false }

/-- The granules of an allocation. -/
def allocGranules (stack core base n : Nat) : List Nat := granules (32 * stack + core) base n

/-- The memory of a block at its first placement (R87, R311): zeros, every granule full, the kind-1 DATA items over it on every
core, and accumulator cells 0. -/
def State.wipe (s : State) (b : Block) (items : List DataItem) : State :=
  b.allocs.foldl (fun s a =>
    let core := 32 * b.stack + a.core
    let lo := tmemAddr core a.base
    let m := items.foldl (fun m d => if d.kind = 1 then m.writeBytes (lo + d.offset) d.bytes else m)
      (s.mem.clear lo b.rcd.tmem)
    { s with mem := a.tiles.foldl (fun m t => m.clear (accAddr core t 0 0) 16384) m }.setFull
      (allocGranules b.stack a.core a.base b.rcd.tmem)) s

/-- The virtual die of a block (R342). -/
def blockVdie (r : LaunchRec) (num : Nat) : Nat := num * r.vdies / r.blocks

/-- A block not yet placed; the first slot of its handle ring is log entry 80's. -/
def State.newBlock (s : State) (t : Task) (stage num : Nat) : Block :=
  let r := t.recs.getD stage default
  { bid := s.uid, ctx := t.ctx, task := t.num, stage := stage, num := num, rcd := r, image := t.image,
    vdie := blockVdie r num, stack := 0, status := .placed, warps := (List.range (r.warps + 1)).map (Warp.fresh r),
    bars := List.replicate 16 0, ring := [], ringNext := 0, gen := 1, allocs := [], regions := [], pre := none,
    hint := none, saved := [], savedOps := [], probed := [], draining := false, missed := false }

/-- The stack a virtual die of a context is bound to (R204). -/
def State.stackOf (s : State) (ctx vdie : Nat) : Nat :=
  match s.ctx? ctx with
  | some x => x.vdies.getD vdie 0
  | none => 0

/-- The number of the virtual die of a context that a stack is, `v` when that is one (R204, R206). -/
def State.vdieOf (s : State) (ctx v stack : Nat) : Nat :=
  match s.ctx? ctx with
  | some x => if x.vdies[v]? = some stack then v else x.vdies.idxOf stack
  | none => v

/-- What a core's L1 holds outside load-blocks is older than what happened before a block's placement there (R152, R157; log
entry 93); load-blocks stay (R133). -/
def State.freshL1 (s : State) (stack : Nat) (cores : List Nat) : State :=
  { s with l1 := s.l1.filter fun x => x.tag.isSome || !cores.any fun c => x.core == 32 * stack + c }

/-- A new block stands where a spot gives. -/
def State.placeNew (s : State) (b : Block) (x : Spot) : State :=
  let b : Block := { b with stack := x.stack, vdie := s.vdieOf b.ctx b.vdie x.stack, allocs := s.newAllocs b x,
                            warps := s.seat x b.warps }
  let items := match s.image? b.ctx b.image with
    | some im => im.data
    | none => []
  let s := { (s.copiesOn b x.stack).freshL1 x.stack x.cores with blocks := s.blocks ++ [b], uid := s.uid + 1 }
  (s.wipe b items).modTask b.ctx b.task fun t => { t with next := t.next.set b.stage (b.num + 1) }

/-- The next block of a task by the rotation of its stages (R209). -/
def Task.nextBlock (t : Task) : Option (Nat × Nat) :=
  ((t.recs.zipIdx.filter fun r => decide (t.next.getD r.2 0 < r.1.blocks)).map fun r => (r.2, t.next.getD r.2 0)).foldl
    (fun best k => match best with
      | none => some k
      | some q => if k.2 < q.2 then some k else some q) none

-- Resume.

/-- The boxes of an operation, sources first. -/
def EngOp.boxes (o : EngOp) (s : State) : List Box := o.srcA.toList ++ o.srcB.toList ++ o.dests s

/-- Bytes of an operation's boxes named by box and offset, so that a move does not part them, and found again. -/
def EngOp.nameBytes (o : EngOp) (s : State) (as : List Nat) : List Nat :=
  ((o.boxes s).zipIdx).flatMap fun x =>
    if x.1.rcd.kind = 3 then []
    else (x.1.offsets.filter fun off => as.contains (s.addrOf (x.1.loc off))).map (2 ^ 64 * x.2 + ·)
def EngOp.findBytes (o : EngOp) (s : State) (ns : List Nat) : List Nat :=
  ns.filterMap fun n => ((o.boxes s)[n / 2 ^ 64]?).map fun x => s.addrOf (x.loc (n % 2 ^ 64))

/-- What a save keeps of the bytes other writes have met (R129, R142, R153): those of its boxes, its own word's undefined in the
sources too (log entry 29).  What it need not see is seen after the resume (R344). -/
def EngOp.keep (o : EngOp) (s : State) : EngOp :=
  let met := o.taint ++ o.own
  let gs := addrGranules met
  let ds := ((o.dests s).flatMap s.boxAddrs).filter fun a =>
    met.contains a || (inTmem a && gs.contains ((a - regionSize) / 16))
  { o with taint := o.nameBytes s met, own := o.nameBytes s ds, overr := [] }

/-- A box moved with its block; a peer's is reached by the route that stands now (R202, R334). -/
def Box.moveTo (x : Box) (s : State) (stack core alloc : Nat) : Box :=
  { x with stack := stack, core := core, alloc := alloc, route := s.routeTo x.rcd }

/-- The cores whose allocation a destination needs (R326). -/
def EngOp.destCores (o : EngOp) : List Nat :=
  match o.kind with
  | .cpym mask => ((List.range 8).filter fun i => mask.bitAt i).map fun i => 8 * (o.core / 8) + i
  | _ => []

/-- What a submission asks anew of a box (R334, R366): what the record fixes was asked at the first. -/
def EngOp.boxNeed (o : EngOp) (x : Box) (dest : Bool) : BoxNeed :=
  { x := 0, e0 := x.e0, e1 := x.e1, kinds := [0, 1, 2, 3], right := if dest then 1 else 0, writes := dest,
    copy := o.kind.isCopy, fmtOk := true, cores := if dest then o.destCores else [] }

/-- The first box of an operation that a submission refuses, with the cause. -/
def State.refusedBox (s : State) (b : Block) (o : EngOp) : Option (Box × Nat) :=
  ((o.dst.toList.map fun x => (x, true)) ++ (o.srcA.toList ++ o.srcB.toList).map fun x => (x, false)).findSome? fun p =>
    (s.boxCheck b p.1 (o.boxNeed p.1 p.2)).map fun cause => (p.1, cause)

/-- A kept operation that is not submitted again resolves, with its granules full (R330). -/
def State.endKept (s : State) (o : EngOp) (outcome : Nat) : State :=
  (s.refillDest o).resolve o.block o.handle outcome 0 false

/-- A kept operation moved with its block to a warp's core, under a new number. -/
def EngOp.moveTo (o : EngOp) (s : State) (b : Block) (w : Warp) (id : Nat) : EngOp :=
  let base := ((b.allocOn w.core).getD default).base
  let mv := fun (x : Option Box) => x.map fun (k : Box) => k.moveTo s b.stack w.core base
  { o with id := id, stack := b.stack, core := w.core, dst := mv o.dst, srcA := mv o.srcA, srcB := mv o.srcB }

/-- A kept operation is submitted again (R334), with new translations and pins.  A breach of R366 refuses it (R333); a frame that is
not resident is fatal and drops it and those after it (R372).  The bytes other writes had met are found again in its boxes. -/
def State.resubmit (s : State) (bid : Nat) (o : EngOp) : State :=
  match s.block? bid with
  | none => s
  | some b =>
    match b.warp? o.warp with
    | none => s
    | some w =>
      let o := o.moveTo s b w s.uid
      let boxes := o.dst.toList ++ o.srcA.toList ++ o.srcB.toList
      if s.dead b.ctx then s.endKept o 3
      else
        match s.refusedBox b o, s.absentFrame boxes with
        | some (x, cause), _ =>
          (s.endKept o 4).parkAll bid w.num ((lanesOf w.active).map fun l =>
            { lane := l, cause := cause, slot := o.kind.slotNo, rcd := x.rec_, offset := o.offset,
              c0 := BitVec.ofNat 32 (x.c.getD 0 0), c1 := BitVec.ofNat 32 (x.c.getD 1 0) }) 0x81
        | none, some fr =>
          let x := (boxes.find? fun x => x.frames.contains fr).getD default
          (s.fatalCtx b.ctx (fatalOf b w 0x86 0 (o.info x))).endKept o 3
        | none, none =>
          let fs := planFrames boxes
          let now := s.opCycle o
          let o := { o with pinned := fs, issue := now, taint := o.findBytes s o.taint, own := o.findBytes s o.own }
          let s := { s with uid := s.uid + 1 }.pin true fs
          match o.kind with
          | .mmac acc nf mf pair _ =>
            let last := max (now + 24) (s.lastOf (32 * o.stack + o.core)) + accCycles nf mf pair
            let s := s.setBusy b w acc nf o.id true true 0
            { s.setLast (32 * o.stack + o.core) last with ops := s.ops ++ [{ o with last := last }] }
          | _ => { s with ops := s.ops ++ [o] }

/-- What a save kept of a core stands again (R344). -/
def State.unsave (s : State) (b : Block) (a : Alloc) (k : SavedCore) : State :=
  let core := 32 * b.stack + a.core
  let lo := tmemAddr core a.base
  let m := (s.mem.clear lo b.rcd.tmem).place lo k.mem
  let m := a.tiles.zipIdx.foldl (fun m t =>
    (m.clear (accAddr core t.1 0 0) 16384).place (accAddr core t.1 0 0) (k.acc.slice (16384 * t.2) 16384)) m
  ({ s with mem := m }.setFull (allocGranules b.stack a.core a.base b.rcd.tmem)).setEmpty
    (k.empty.map (granuleOf core a.base + ·))

/-- A trigger's stop of a warp is armed where the warp stands once its block is placed again (R399; log entry 105). -/
def Lantern.follow (l : Lantern) (b : Block) : Lantern :=
  match l.issuer with
  | none => l
  | some k =>
    if k.1 != b.bid then l
    else match b.warp? k.2 with
      | some w => if w.exited then { l with issuer := none } else l.armStop b w
      | none => { l with issuer := none }

/-- A trigger's stop of a warp whose block leaves its place waits for the block (R399; log entry 105). -/
def Lantern.wait (l : Lantern) (bid : Nat) : Lantern :=
  match l.issuer with
  | some k => if k.1 == bid then { l with stop := l.stop % 2 ^ 63 } else l
  | none => l

/-- Commits of a block that have not been accepted are in the queues of the cores its warps now stand on (R141, R159). -/
def State.rehome (s : State) (b : Block) : State :=
  { s with commits := s.commits.map fun (k : Commit) =>
      if k.block == b.bid && k.stamp.isNone then
        match b.warp? k.warp with
        | some w => { k with core := coreId b w }
        | none => k
      else k }

/-- A saved block stands again where a spot gives (R41, R218, R344): its state exact, its grants to be acquired anew (R191), its
kept operations submitted again. -/
def State.placeSaved (s : State) (b : Block) (x : Spot) : State :=
  let ws := s.seat x b.warps
  let at_ := fun (n : Nat) => (ws.find? fun w => w.num == n).getD default
  let nb : Block :=
    { b with stack := x.stack, status := .placed, allocs := s.newAllocs b x, hint := none, saved := [], savedOps := [], missed := false,
             vdie := s.vdieOf b.ctx b.vdie x.stack,
             warps := ws.map fun w => if w.gone then { w with core := x.coreOf b w.num } else w,
             regions := b.regions.map fun r =>
               let w := at_ (r.members.headD 0)
               { r with core := w.core, pitch := w.pitch } }
  let s := (((s.copiesOn b x.stack).freshL1 x.stack x.cores).setBlock nb).rehome nb
  let s := (nb.allocs.zip b.saved).foldl (fun s p => s.unsave nb p.1 p.2) s
  let s := nb.warps.foldl (fun s w =>
    if w.regrant.isSome then
      s.modStack x.stack fun k => { k with queue := k.queue ++ [(b.bid, w.num)] }
    else s) s
  let s := { s with lantern := s.lantern.map fun (l : Lantern) => l.follow nb }
  b.savedOps.foldl (fun s o => s.resubmit b.bid o) s

/-- Where a saved block goes (R218): by its hint while the map version stands and the place is free, else anew. -/
def State.savedSpot (s : State) (b : Block) : Option Spot :=
  match s.ctx? b.ctx with
  | none => none
  | some k =>
    let h := b.hint.getD { vdie := 0, cores := [], mapVersion := 0 }
    let stack := k.vdies.getD h.vdie 0
    match (if h.mapVersion = k.mapVer then s.oldPlace b stack else none) with
    | some x => some x
    | none => s.refit b stack (List.range 4)

-- The order of placement (R209, R218).

/-- What firmware may place, in its order: saved blocks, then new ones (R218), whatever their classes (log entry 110); among each by
class, and within a class by context in rotation (R209). -/
def State.queueUp (s : State) : List (Block × Bool) :=
  let ctxs := fun (cls : Nat) =>
    let from_ := s.lastCtx.getD cls 0
    let ns := sortBy Nat.ble (s.contexts.map (·.num))
    (ns.filter fun n => decide (from_ ≤ n)) ++ ns.filter fun n => decide (n < from_)
  let tasks := fun (ctx : Nat) => sortBy (fun (a b : Task) => decide (a.num ≤ b.num)) (s.tasks.filter fun t =>
    t.ctx == ctx && t.dispatched && !t.completed && !t.suspended && !s.dead ctx)
  let saved := (List.range 3).flatMap fun cls => (ctxs cls).flatMap fun n => (tasks n).flatMap fun t =>
    (s.blocks.filter fun b => b.ctx == n && b.task == t.num && b.status == .saved && b.rcd.cls == cls).map fun b => (b, true)
  let fresh := (List.range 3).flatMap fun cls => (ctxs cls).flatMap fun n => (tasks n).flatMap fun t =>
    match t.nextBlock with
    | some k =>
      let b := s.newBlock t k.1 k.2
      if b.rcd.cls == cls then [(b, false)] else []
    | none => []
  saved ++ fresh

/-- The context's Bivouac has save space for a new block at a spot (R209). -/
def State.bivouacRoom (s : State) (b : Block) (x : Spot) : Bool :=
  match s.ctx? b.ctx with
  | some k => decide (s.reserved b.ctx + s.saveSpace b x.cores.length ≤ k.bivouac * 2 ^ 20)
  | none => false

/-- The spot of a block that may be placed: with Bivouac space for it when it is new (R209). -/
def State.spotOf (s : State) (b : Block) (old : Bool) : Option Spot :=
  if old then s.savedSpot b
  else
    match s.fit b (s.stackOf b.ctx b.vdie) (List.range 4) (b.rcd.cores + 1) with
    | some x => if s.bivouacRoom b x then some x else none
    | none => none

/-- A block swapped out, or suspended since, still misses its stream: its frame is served before any new block (R358). -/
def State.swapPending (s : State) : Bool :=
  s.blocks.any fun b => b.status != .placed && b.missed && !s.dead b.ctx && s.out.any fun k =>
    k.1 == b.ctx && k.2.1 == b.image && k.2.2.2.1 == b.stack

/-- `BLOCK_PLACEMENT` (R209): the block named is the first in firmware's order that fits, and takes its place. -/
def execBlockPlacement (ctx task stage num : Nat) (s : State) : Host.Outcome State Fault Refusal :=
  let s := s.reap
  .next <|
    match s.queueUp.findSome? fun b => (s.spotOf b.1 b.2).map fun x => (b.1, b.2, x) with
    | none => s
    | some (b, old, x) =>
      if b.ctx != ctx || b.task != task || b.stage != stage || b.num != num || (!old && s.swapPending) then s
      else
        let s := { s with lastCtx := s.lastCtx.set b.rcd.cls (ctx + 1) }
        if old then s.placeSaved b x else s.placeNew b x

-- Saving.

/-- An engine operation that has not started, which a save keeps (R39, R334). -/
def State.keepable (s : State) (o : EngOp) : Bool :=
  match o.mmacCycles with
  | some n => s.mmacAhead o n
  | none => o.st == .queued && o.kind.isCopy

/-- A kept operation taken out of its queue. -/
def State.detach (s : State) (o : EngOp) : State :=
  let s := if o.mmacCycles.isSome then s.moveUpAfter o else s
  { s with ops := s.ops.filter fun k => k.id != o.id, busy := s.busy.filter fun k => k.op != o.id }.pin false o.pinned

/-- The block's results have landed, its accesses have performed, and no started operation runs (R39, R42). -/
def State.drained (s : State) (b : Block) : Bool :=
  (b.warps.all fun w => w.flights.isEmpty && w.pend.isEmpty && w.hold.isEmpty) && s.noReqs b &&
  s.ops.all fun o => o.block != b.bid || s.keepable o

/-- What a save keeps of a core. -/
def State.saveCore (s : State) (b : Block) (a : Alloc) : SavedCore :=
  let core := 32 * b.stack + a.core
  let g := granuleOf core a.base
  { mem := s.mem.slice (tmemAddr core a.base) b.rcd.tmem
    empty := (s.empty.filter fun k => decide (g ≤ k) && decide (k < g + b.rcd.tmem / 16)).map (· - g)
    acc := a.tiles.zipIdx.flatMap fun t =>
      (s.mem.slice (accAddr core t.1 0 0) 16384).map fun c => (16384 * t.2 + c.1, c.2) }

/-- The warp as it is saved: its grant, or the one it asked for, is to be acquired anew (R191); what it stored is seen after the
resume (R344).  An over-draw not yet taken goes with the grant (log entry 94). -/
def Warp.park_ (w : Warp) : Warp :=
  { w with
    held := false, grant := none, overdraw := false, unready := [], gathers := [], asking := none
    regrant := match w.asking, w.grant with
      | some l, _ => some l
      | none, some l => some l
      | none, none => w.regrant }

/-- A drained block saved to Bivouac (R39, R217), or swapped out (R42, R358): it frees its pitches, registers, tile memory and
tiles; load-blocks are not saved (R133). -/
def State.saveBlock (s : State) (b : Block) (status : BStatus) : State :=
  let ops := s.ops.filter fun o => o.block == b.bid
  let s := ops.foldl State.detach s
  let ver := match s.ctx? b.ctx with
    | some x => x.mapVer
    | none => 0
  let nb : Block :=
    { b with
      status := status, warps := b.warps.map Warp.park_, allocs := [], pre := none, draining := false, missed := b.draining,
      probed := []
      saved := b.allocs.map (s.saveCore b)
      savedOps := ops.map fun o => { o.keep s with waited := s.opAge o }
      hint := some { vdie := b.vdie, cores := b.allocs.map (·.core), mapVersion := ver } }
  { s.setBlock nb with
    pitches := s.pitches.map fun p => match p.holder with
      | some h => if h.1 == b.bid then { p with holder := none } else p
      | none => p
    stks := s.stks.map fun k => { k with queue := k.queue.filter fun q => q.1 != b.bid }
    lantern := s.lantern.map fun (l : Lantern) => l.wait b.bid
    l1 := s.l1.filter fun x => match x.tag with
      | some t => t.1 != b.bid
      | none => true }

/-- A warp waits at a synchronisation (R39). -/
def Warp.atSync (w : Warp) : Bool :=
  match w.wait with
  | .bar _ => true
  | .regroup _ _ _ _ _ => true
  | .ungroup => true
  | .none => false

/-- A warp stands still for the save of its block (R38, R39): it has ended, or it holds, no `ftry` suspends it any more
(R329) and no `probe` is under way. -/
def State.still (s : State) (b : Block) (w : Warp) : Bool :=
  w.exited || (b.holds w && w.trying.isNone && !s.probing b w (s.nowCycle b.stack (w.core / 8)))

/-- A precise stop of a block's warp ends; it resumes its turn as a new one (R401, R25).  A record not yet written follows when the
warp has drained. -/
def State.endStop (s : State) (bid : Nat) : State :=
  let ls := s.lantern.map fun (l : Lantern) => { l with stopped := l.stopped.filter fun k => k.1 != bid }
  { s with lantern := ls }.modBlock bid fun (b : Block) =>
    { b with warps := b.warps.map fun (w : Warp) => { w with stopped := false } }

/-- Pre-emption of a placed block is requested (R39): a warp that stands at a point holds.  A command or a heat rotation ends a
precise stop (R401). -/
def State.requestSave (s : State) (bid : Nat) (by_ : PreemptBy) : State :=
  let s := match by_ with
    | .balancer _ => s
    | .command _ => s.endStop bid
    | .heat _ _ => s.endStop bid
  s.modBlock bid fun b =>
    { b with pre := some { by_ := by_, since := (s.stack? b.stack).that },
             warps := b.warps.map fun w => { w with held := w.held || w.atPoint } }

/-- The place on a freed cluster of a block of a stage that is away (R215): one that was swapped out has none but its own (R42). -/
def State.stageSpot (s : State) (b : Block) (stack : Nat) (clusters : List Nat) : Option Spot :=
  if b.status == .swapped then
    if b.stack = stack ∧ b.oldCores.all fun c => clusters.contains (c / 8) then s.oldPlace b stack else none
  else s.refit b stack clusters

/-- A block of a stage that is not placed takes its place on a freed cluster (R215): one that was saved or swapped out first, the
lowest of them, else the next new one, unless a swapped-out block still misses its stream (R358). -/
def State.placeStage (s : State) (ctx task stage stack : Nat) (clusters : List Nat) : State :=
  let away := sortBy (fun (a b : Block) => decide (a.num ≤ b.num)) (s.blocks.filter fun b =>
    b.ctx == ctx && b.task == task && b.stage == stage && b.status != .placed)
  match away.findSome? fun b => (s.stageSpot b stack clusters).map fun x => (b, x), s.task? ctx task with
  | some (b, x), _ => s.placeSaved b x
  | none, some t =>
    if t.next.getD stage 0 < (t.recs.getD stage default).blocks then
      let k := s.newBlock t stage (t.next.getD stage 0)
      match s.fit k stack clusters (k.rcd.cores + 1) with
      | some x => if s.bivouacRoom k x && !s.swapPending then s.placeNew k x else s
      | none => s
    else s
  | none, none => s

/-- `BLOCK_SAVE` (R39, R216): every warp of a block to be pre-empted holds and none waits at a synchronisation.  The block is
saved; a balancer's move places a block of the waiting stage on the cluster that frees (R215), a heat rotation the block itself
on its new cluster (R194, R343), where that still has room (log entry 135). -/
def execBlockSave (block : Nat) (s : State) : Host.Outcome State Fault Refusal :=
  let s := s.reap
  .next <|
    match s.block? block with
    | none => s
    | some b =>
      match b.pre with
      | none => s
      | some p =>
        if b.status != .placed || b.draining || s.dead b.ctx || !b.warps.all (s.still b) || b.warps.any Warp.atSync ||
            !s.drained b then s
        else
          let clusters := ((b.allocs.map fun a => a.core / 8).dedup)
          let s := s.saveBlock b .saved
          let s := match p.by_, s.block? block with
            | .balancer a, _ => s.placeStage b.ctx b.task a b.stack clusters
            | .heat stack cluster, some k =>
              (match s.refit k stack [cluster] with
                | some x => s.placeSaved k x
                | none => s)
            | _, _ => s
          s.settleCmds

/-- `PREEMPTION_TIMEOUT` (R357): 50 ms have passed since a block's save was requested. -/
def execPreemptionTimeout (block : Nat) (s : State) : Host.Outcome State Fault Refusal :=
  .next <|
    match s.block? block with
    | none => s
    | some b =>
      match b.pre with
      | none => s
      | some p =>
        if decide ((s.stack? b.stack).that < p.since + 50 * 10 ^ 9) || b.status != .placed then s
        else
          match p.by_ with
          | .command _ =>
            let w := ((b.warps.find? fun w => !s.still b w).getD (b.warps.headD default))
            let t : TrapInfo := { (default : TrapInfo) with slot := 0xFF, rcd := 0xFFFF, lane := 0xFF, hpc := w.pc }
            (s.fatalCtx b.ctx (fatalOf b w 0x83 0 t)).settleCmds
          | _ =>
            s.modBlock block fun b => { b with pre := none, warps := b.warps.map fun w => { w with held := false } }

/-- A warp's demand fetch needs a line whose frame is out of residence (R77): where the token stands that needs it, with the loop
stack. -/
def State.fetchOut (s : State) (b : Block) (w : Warp) : Option (Nat × List LoopLevel) :=
  if w.exited || w.trap.isSome || w.wait != .none || w.trying.isSome || b.holds w then none
  else
    match s.needLine b w with
    | some (line, p) => if s.lineOut b (s.code b w).unit line then some p else none
    | none => none

/-- A warp whose fetch met a frame out of residence is saved at the token that needed the bytes (R77). -/
def State.atToken (s : State) (b : Block) (w : Warp) : Warp :=
  match s.fetchOut b w with
  | some p => { w with pc := p.1, loops := p.2 }
  | none => w

/-- `SWAP_OUT` (R42, R77, R358): a warp's fetch meets a stream frame that is out of residence.  Its turn ends, the block issues
no more, and once its results have drained it is saved as it stands. -/
def execSwapOut (block warp : Nat) (s : State) : Host.Outcome State Fault Refusal :=
  .next <|
    match s.block? block with
    | none => s
    | some b =>
      match b.warp? warp with
      | none => s
      | some w =>
        if b.status != .placed || s.dead b.ctx then s
        else if b.draining then
          if s.drained b && b.warps.all (fun w => w.trap.isNone) then
            let by_ : Option PreemptBy := b.pre.map fun p => p.by_
            (s.saveBlock { b with warps := b.warps.map (s.atToken b) } (match by_ with
              | some (.command _) => .saved
              | _ => .swapped)).settleCmds
          else s
        else if (s.fetchOut b w).isSome then
          (if (s.pitch (coreId b w) w.pitch).holder == some (block, warp) then s.turnEnds (coreId b w) w.pitch else s).modBlock block
            fun b => { b with draining := true }
        else s

/-- `SWAP_IN` (R42, R358): firmware makes the stream frames resident, and the block returns to its pitches and cores; when a
pre-emption has meanwhile suspended it, it returns with `RESUME` (R218). -/
def execSwapIn (block : Nat) (s : State) : Host.Outcome State Fault Refusal :=
  let s := s.reap
  .next <|
    match s.block? block with
    | none => s
    | some b =>
      if b.status == .placed || s.dead b.ctx || !s.copyRoom b b.stack then s
      else
        let s := s.copiesOn b b.stack
        if b.status == .swapped then
          match s.oldPlace b b.stack with
          | some x => s.placeSaved b x
          | none => s
        else s

-- The stage balancer.

/-- `STAGE_BALANCER` (R215): the examination of one pipeline.  A queue counts as empty at every examination of the last 100 µs
when it was at this one and the one before (log entry 30). -/
def execStageBalancer (ctx task : Nat) (s : State) : Host.Outcome State Fault Refusal :=
  .next <|
    let s := s.modTask ctx task fun t =>
      { t with queues := t.queues.map fun q => { q with emptyFor := if q.head = q.tail then q.emptyFor + 1 else 0 } }
    match s.task? ctx task with
    | none => s
    | some t =>
      if !t.dispatched || t.completed || t.suspended || s.dead ctx then s
      else
        let stages := List.range t.queues.length
        let q := fun (i : Nat) => t.queues.getD i { logCap := 0, head := 0, tail := 0, stack := 0, frames := [], emptyFor := 0 }
        let short := stages.find? fun a =>
          (decide (t.next.getD a 0 < (t.recs.getD a default).blocks) ||
            s.blocks.any fun k => k.ctx == ctx && k.task == task && k.stage == a && k.status != .placed) &&
          decide (2 ^ (q a).logCap ≤ 2 * (((q a).tail + 2 ^ 32 - (q a).head) % 2 ^ 32))
        let mine := fun (i : Nat) => s.blocks.filter fun k => k.ctx == ctx && k.task == task && k.stage == i &&
          k.status == .placed && !k.draining
        let idle := stages.find? fun i => decide (2 ≤ (q i).emptyFor) && mine i != []
        match short, idle with
        | some a, some i =>
          let top := (mine i).foldl (fun best k => match best with
            | none => some k
            | some (c : Block) => if c.num < k.num then some k else some c) none
          (match top with
            | some k => if a = i || k.pre.isSome then s else s.requestSave k.bid (.balancer a)
            | none => s)
        | _, _ => s

-- Completion.

/-- Every block of a task has been placed and has ended (R211). -/
def State.allDone (s : State) (t : Task) : Bool :=
  (t.recs.zipIdx.all fun r => decide (r.1.blocks ≤ t.next.getD r.2 0)) &&
  s.blocks.all fun b => b.ctx != t.ctx || b.task != t.num

/-- A commit of a block that is away and not yet accepted is kept with the block (R162, R217). -/
def State.keptCommit (s : State) (k : Commit) : Bool :=
  k.stamp.isNone && (match s.block? k.block with
    | some b => b.status != .placed
    | none => false)

/-- The drain of R157 up to a number: every engine of the context at package scope, every access of its warps. -/
def State.drainedTo (s : State) (ctx upto : Nat) : Bool :=
  (s.reqs.all fun r => !s.blockOf ctx r.block || decide (upto ≤ r.id)) &&
  (s.ops.all fun o => !s.blockOf ctx o.block || decide (upto ≤ o.id)) &&
  s.commits.all fun k => k.ctx != ctx || decide (upto ≤ k.id) || s.keptCommit k

/-- A task that has not completed holds a tensor: it was patched with its table (R81, R205). -/
def State.heldBy (s : State) (x : Tensor) : Bool :=
  s.tasks.any fun t => t.ctx == x.ctx && !t.completed && t.pool.any fun r => r.kind == 0 && r.base == x.base

/-- The frame of a tensor freed: its bytes, tags and versions are gone. -/
def State.freeFrame (s : State) (e : TileEntry) : State :=
  if e.resident then (s.takeFrame (frameAddr e.tier e.die e.frame 0) 0 0).2 else s

/-- Tensors that no binding names, no unfinished task holds and no engine pins are freed (R205, R207). -/
def State.freeTensors (s : State) : State :=
  let dead := fun (x : Tensor) =>
    !x.bound && !s.heldBy x && (s.commits.all fun k => k.base != x.base) &&
    x.entries.all fun e => e.pins == (if x.pinned then 1 else 0)
  let gone := s.tensors.filter dead
  let t := gone.foldl (fun s x => x.entries.foldl State.freeFrame s) s
  { t with tensors := s.tensors.filter fun x => !dead x
           paged := s.paged.filter fun p => gone.all fun x => x.base != p.base
           access := s.access.filter fun p => gone.all fun x => x.base != p.base }

/-- A task completes with a status (R211): its record waits for room in the ring, its stage queues are freed. -/
def State.finishTask (s : State) (t : Task) (status : Nat) : State :=
  let s := s.modTask t.ctx t.num fun t => { t with completed := true, queues := [] }
  (s.modCtx t.ctx fun x =>
    { x with queued := x.queued ++ [{ task := t.num, tag := t.tag, status := status, stamp := s.tb.latest }] }).freeTensors

/-- `TASK_COMPLETION` (R157, R211, R372): a task whose blocks have all ended completes once its context's engines have
drained; a task of a context with a fatal error completes with `CTX_FATAL` once started operations have run to their end and
the meters' checkpoints stand. -/
def execTaskCompletion (ctx task : Nat) (s : State) : Host.Outcome State Fault Refusal :=
  let s := s.reap
  .next <|
    match s.task? ctx task, s.ctx? ctx with
    | some t, some x =>
      if t.completed then s
      else if x.fatal.isSome then
        if s.fatalKept ctx then s.finishTask t 11 else s.fatalStep ctx
      else if !t.dispatched || !s.allDone t then s
      else
        let upto := t.drain.getD s.uid
        if s.drainedTo ctx upto then s.finishTask t 0
        else s.modTask ctx task fun t => { t with drain := some upto }
    | _, _ => s

/-- `COMPLETION_RING_WRITE` (R211, R212): the oldest waiting record of a context is written once its ring has room, and message
1 is sent.  A read count below the highest seen is ignored, one above the records written is taken as their number. -/
def execCompletionRingWrite (ctx : Nat) (s : State) : Host.Outcome State Fault Refusal :=
  .next <|
    match s.ctx? ctx with
    | none => s
    | some x =>
      match x.queued with
      | [] => s
      | c :: r =>
        let read := max x.readCnt (min (leNat (s.mem.readBytes (x.ringAddr - 8) 8)) x.posted)
        if x.ringSize ≤ x.posted - read then s.modCtx ctx fun x => { x with readCnt := read }
        else
          let bytes := leBytes 8 c.task ++ leBytes 4 c.tag ++ leBytes 4 c.status ++ leBytes 8 c.stamp ++
            leBytes 8 (x.posted + 1)
          let s := { s with mem := s.mem.writeBytes (x.ringAddr + 32 * (x.posted % x.ringSize)) bytes
                            msix := s.msix ++ [(x.fn, 1)] }
          s.modCtx ctx fun x => { x with queued := r, posted := x.posted + 1, readCnt := read }

-- Migration and residence.

/-- The accesses a stack made to a frame (R137). -/
def State.accessCount (s : State) (base tile stack : Nat) : Nat :=
  match s.access.find? fun a => a.base == base && a.tile == tile && a.stack == stack with
  | some a => a.count
  | none => 0

/-- The stack a frame moves to (R137): the one with most accesses of those that qualify (log entry 31). -/
def State.moveGoal (s : State) (base tile : Nat) (e : TileEntry) : Option Nat :=
  let own := s.accessCount base tile e.die
  (s.usable.filter fun d => d != e.die && decide (1024 ≤ s.accessCount base tile d) &&
    decide (4 * own ≤ s.accessCount base tile d) && (s.freeFrames e.tier d 1).isSome).foldl
    (fun best d => match best with
      | none => some d
      | some q => if s.accessCount base tile q < s.accessCount base tile d then some d else some q) none

/-- `MIGRATION_PERIOD` (R137): frames of tiers G and H that another stack uses more begin to move, and the counters reset. -/
def execMigrationPeriod (s : State) : Host.Outcome State Fault Refusal :=
  let frames := s.tensors.flatMap fun t => (List.range t.entries.length).map fun i => (t.base, i)
  let t := frames.foldl (fun s f =>
    match s.entryOf f.1 (f.2 * 65536) with
    | none => s
    | some e =>
      if !e.resident || e.pins != 0 || e.tier == 2 || e.moving.isSome then s
      else
        match s.moveGoal f.1 f.2 e with
        | none => s
        | some d =>
          match s.freeFrames e.tier d 1 with
          | some [n] => s.modTensor f.1 fun t =>
              { t with entries := t.entries.modify f.2 fun e => { e with moving := some (d, n) } }
          | _ => s) s
  .next { t with access := [] }

/-- The frame a move goes to is still available (R374): its stack is usable and its tier has room for what is in use there. -/
def State.goalStands (s : State) (tier d : Nat) : Bool :=
  s.usable.contains d && decide ((s.usedFrames tier d).length ≤ s.tierFrames tier d)

/-- `MIGRATION_SWITCH` (R137, R162): the new copy stands, tags and versions with it, and the entry names it; a move whose
destination has become unavailable is abandoned, and the frame stays at its home (R374). -/
def execMigrationSwitch (base tile : Nat) (s : State) : Host.Outcome State Fault Refusal :=
  .next <|
    match s.entryOf base (tile * 65536) with
    | none => s
    | some e =>
      match e.moving with
      | none => s
      | some (d, n) =>
        if !s.goalStands e.tier d then
          s.modTensor base fun t => { t with entries := t.entries.modify tile fun e => { e with moving := none } }
        else
        let p := s.takeFrame (frameAddr e.tier e.die e.frame 0) base tile
        (p.2.putFrame (frameAddr e.tier d n 0) p.1).modTensor base fun t =>
          { t with entries := t.entries.modify tile fun e => { e with die := d, frame := n, moving := none } }

/-- `FRAME_OUT_OF_RESIDENCE` (R358, R370): a data frame that may go, or a frame of the stream copy of a code unit. -/
def execFrameOutOfResidence (f : OutFrame) (s : State) : Host.Outcome State Fault Refusal :=
  .next <|
    match f with
    | .tensor base tile =>
      (match s.entryOf base (tile * 65536) with
        | some e =>
          if s.evictable base tile then
            let p := s.takeFrame (frameAddr e.tier e.die e.frame 0) base tile
            { p.2 with paged := p.2.paged ++ [p.1] }.modTensor base fun t =>
              { t with entries := t.entries.modify tile fun e => { e with resident := false } }
          else s
        | none => s)
    | .stream ctx image unit stack frame =>
      if s.out.contains (ctx, image, unit, stack, frame) || (s.image? ctx image).isNone then s
      else { s with out := s.out ++ [(ctx, image, unit, stack, frame)] }

end Sys2Proof.Machine
end

