-- ==== Sys2Proof/Machine/Image.lean ====
section
/-! DEFINITION. The Zaltum image (R78 to R85, R119 to R121, R221) and what `IMG_LOAD` refuses it for, in the order of R359. -/

namespace Sys2Proof.Machine

/-- The detail of a refused image (R359). -/
structure Bad where
  reason : Nat
  sec    : Nat
  unit   : Nat
  check  : Nat
  item   : Nat
  offset : Nat
  deriving DecidableEq, Repr

def bad {α : Type} (reason sec unit check item offset : Nat) : Except Bad α := .error ⟨reason, sec, unit, check, item, offset⟩

/-- A part of a byte string. -/
def cut (bs : List Byte) (off n : Nat) : List Byte := (bs.drop off).take n
def num (bs : List Byte) (off n : Nat) : Nat := leNat (cut bs off n)
/-- Bytes that are present and 0. -/
def zeros (bs : List Byte) (off n : Nat) : Bool := cut bs off n == List.replicate n 0

/-- A row of the section table (R78). -/
structure Sec where
  kind : Nat
  unit : Nat
  off  : Nat
  size : Nat
  deriving DecidableEq, Repr

-- Header and section table.

/-- The header (R78). -/
def headerOk (bs : List Byte) : Bool :=
  decide (32 ≤ bs.length) && cut bs 0 4 == [0x5A, 0x4C, 0x54, 0x4D] && num bs 4 2 == 1 && decide (4 ≤ num bs 6 2) &&
  decide (num bs 6 2 ≤ 32) && num bs 8 8 == bs.length && decide (num bs 16 4 ≤ 63) && zeros bs 20 12

/-- The rows of the section table. -/
def sections (bs : List Byte) : List Sec :=
  (List.range (num bs 6 2)).map fun i =>
    let o := 32 + 16 * i
    { kind := num bs o 1, unit := num bs (o + 1) 1, off := num bs (o + 4) 4, size := num bs (o + 8) 4 }

/-- The first row that breaches R78 or R79, given where the section before it ends. -/
def badRow (bs : List Byte) : List Sec → Nat → Nat → Option Nat
  | [], _, _ => none
  | x :: r, i, prev =>
    let o := 32 + 16 * i
    if x.kind = 0 || decide (8 < x.kind) || decide (7 < x.unit) || (x.unit != 0 && decide (2 < x.kind)) ||
        !zeros bs (o + 2) 2 || !zeros bs (o + 12) 4 || x.off % 64 != 0 || decide (x.off < prev) ||
        decide (bs.length < x.off + x.size) then some o
    else badRow bs r (i + 1) (x.off + x.size)

/-- The counts of R79: a DICT and a STRM for each unit used, the others once or at most once, SIGN last. -/
def countsOk (l : List Sec) : Bool :=
  let of := fun (k : Nat) => l.filter fun x => x.kind == k
  let units := fun (k : Nat) => sortBy Nat.ble ((of k).map (·.unit))
  of 1 != [] && units 1 == units 2 && (units 1).dedup == units 1 && (of 4).length == 1 && (of 8).length == 1 &&
  (l.getLast?.map (·.kind)) == some 8 && ([3, 5, 6, 7] : List Nat).all fun k => decide ((of k).length ≤ 1)

-- Dictionaries.

/-- The layout of a dictionary at `off` that must end by `limit` (R80): its entries and its end. -/
def dictShape (bs : List Byte) (off limit : Nat) : Option (List Entry × Nat) :=
  let n := num bs off 4
  let stop := off + 64 + 66 * n
  if decide (limit < off + 64) || n = 0 || decide (16384 < n) || !zeros bs (off + 4) 60 || decide (limit < stop) then none
  else
    some ((List.range n).map fun e =>
      { word := num bs (off + 64 + 64 * e) 64, md := num bs (off + 64 + 64 * n + 2 * e) 2 }, stop)

/-- The entries of a dictionary at `off`, once its section is known to be laid out as it must: the first that fails a check of R64
refuses the image (R359). -/
def checkDict (es : List Entry) (off sec unit : Nat) : Except Bad (List Entry) :=
  match es.zipIdx.findSome? fun e => (entryCheck e.1).map fun k => (e.2, k) with
  | some (e, k) => bad 4 sec unit k e (off + 64 + 64 * e)
  | none => .ok es

/-- The highest `v` index and the tiles a dictionary names, each plus one (R65, R311). -/
def dictMaxV (es : List Entry) : Nat := es.foldl (fun m e => max m (entryMaxV e)) 0
def dictTiles (es : List Entry) : Nat := es.foldl (fun m e => max m (entryTiles e)) 0

-- Records.

/-- A buffer record's fields (R119). -/
def parseRecord (x : Nat) : Record :=
  { base := x.field 448 64, ext := [x.field 320 32, x.field 352 32, x.field 384 32, x.field 416 32], tb0 := x.field 304 8,
    tb1 := x.field 312 8, meter := x.field 296 8, mtag := x.field 288 8, core := x.field 280 8, rights := x.field 268 4,
    described := x.bitAt 267, format := x.field 263 4, layout := x.field 261 2, ndim := x.field 259 2,
    kind := x.field 256 3, peer := x.field 240 16 }

/-- What a buffer record shows of R119 to R121 and R81 on its own; what R123 asks of its extents binds programs (log entry 76). -/
def recordOk (x : Nat) : Bool :=
  let r := parseRecord x
  x.field 272 8 == 0 && x.field 0 240 == 0 && decide (r.kind ≤ 3) && decide (r.format ≤ 9) && decide (r.layout ≤ 2) &&
  decide (r.tb0 ≤ 8) && decide (r.tb1 ≤ 8) && (decide (r.meter ≤ 31) || r.meter == 0xFF) && r.ext.all (· != 0) &&
  (r.ext.drop (r.ndim + 1)).all (· == 1) && (r.layout == 2 || (r.tb0 == 0 && r.tb1 == 0)) &&
  (!r.described || (r.kind != 3 && decide (1 ≤ r.format) && decide (r.format ≤ 7))) && decide (r.core ≤ 31) &&
  (r.kind == 2 || r.core == 0) && (r.kind == 3 || r.peer == 0) &&
  (if r.kind = 0 then decide (r.base < 2 ^ 16)
   else if r.kind = 3 then true
   else decide (r.base < 2 ^ 21) && r.base % 16 == 0) &&
  (r.kind != 2 || decide (r.base + r.size ≤ Config.tmemBytes))

/-- A launch record's fields (R82). -/
def parseLaunch (x : Nat) : LaunchRec :=
  { meters := x.field 384 32, stages := (List.range 8).map fun i => (x.field (256 + 16 * i) 8, x.field (264 + 16 * i) 8),
    vdies := x.field 228 4, nstage := x.field 224 4, entry := x.field 192 32, dsize := x.field 176 16,
    kernel := x.field 168 8, unit := x.field 160 8, grid := [x.field 80 32, x.field 112 32, x.field 144 16],
    cores := x.field 72 3, warps := x.field 64 8, tmem := x.field 32 32, power := x.field 26 4, cls := x.field 24 2,
    regs := x.field 16 6, gen := x.field 0 16 }

/-- The limits of R82, with the counts of the image's dictionaries, the lengths of its streams and its declarations.  A record of a
generation other than 1 is none: `LAUNCH` passes it over (R86, log entry 95). -/
def launchOk (x : Nat) (dcount slen : List (Nat × Nat)) (nmeters : Nat) : Bool :=
  let r := parseLaunch x
  let used := r.stages.take r.nstage
  x.field 416 96 == 0 && x.field 232 24 == 0 && x.field 75 5 == 0 && x.field 30 2 == 0 && x.field 22 2 == 0 &&
  decide (1 ≤ r.vdies) && decide (r.vdies ≤ 4) && decide (r.nstage ≤ 8) && decide (r.cls ≤ 2) && decide (1 ≤ r.regs) &&
  decide (r.regs ≤ 32) && decide (r.tmem ≤ Config.tmemBytes) && r.tmem % 16 == 0 && decide (r.meters < 2 ^ nmeters) &&
  r.grid.all (· != 0) && decide (r.blocks ≤ 2 ^ 32) && used.all (fun s => decide (s.2 ≤ 12)) &&
  (r.stages.drop r.nstage).all (fun s => s == (0, 0)) && (r.nstage == 0 || (r.stages.headD (0, 0)).1 == r.kernel) &&
  (match dcount.find? (fun d => d.1 == r.unit), slen.find? (fun d => d.1 == r.unit) with
   | some d, some l => decide (1 ≤ r.dsize) && decide (r.dsize ≤ d.2) && decide (r.entry < l.2)
   | _, _ => false)

-- Sections.

/-- What the sections of an image have given so far. -/
structure Parts where
  dicts    : List (Nat × List Entry)
  streams  : List (Nat × List Byte)
  pool     : List Record
  launches : List LaunchRec
  handler  : Option Handler
  data     : List DataItem
  meters   : List Nat
  deriving DecidableEq, Repr

/-- The handler section (R83): its size and its offsets first, then its entries. -/
def parseHandler (bs : List Byte) (x : Sec) : Except Bad Handler :=
  match (if x.size < 128 || !zeros bs (x.off + 72) 56 then none else dictShape bs (x.off + 128) (x.off + x.size)) with
  | none => bad 7 5 0 0 0 x.off
  | some (es, stop) =>
    let len := num bs (x.off + 4) 4
    let entry := (List.range 16).map fun i => num bs (x.off + 8 + 4 * i) 4
    if num bs x.off 4 != es.length || stop + len != x.off + x.size ||
        entry.any (fun o => o != 0xFFFFFFFF && decide (len ≤ o)) then bad 7 5 0 0 0 x.off
    else
      match checkDict es (x.off + 128) 5 0 with
      | .error e => .error e
      | .ok es => .ok { dict := es, code := cut bs stop len, entry := entry, maxV := dictMaxV es, tiles := dictTiles es }

/-- The items of a DATA section from `p` on (R84). -/
def parseData (bs : List Byte) (stop : Nat) : Nat → Nat → Nat → Except Bad (List DataItem)
  | 0, _, _ => .ok []
  | fuel + 1, p, i =>
    if stop ≤ p then .ok []
    else
      let kind := num bs p 1
      let binding := num bs (p + 2) 2
      let offset := num bs (p + 4) 4
      let len := num bs (p + 8) 4
      let pad := (16 - len % 16) % 16
      if decide (stop < p + 16 + len + pad) || (kind != 1 && kind != 2) || !zeros bs (p + 1) 1 || !zeros bs (p + 12) 4 ||
          offset % 16 != 0 || (kind == 1 && binding != 0) || !zeros bs (p + 16 + len) pad then bad 7 6 0 0 i p
      else
        match parseData bs stop fuel (p + 16 + len + pad) (i + 1) with
        | .error e => .error e
        | .ok l => .ok ({ kind := kind, binding := binding, offset := offset, bytes := cut bs (p + 16) len } :: l)

/-- The first of `n` items that fails a test. -/
def firstBad (n : Nat) (ok : Nat → Bool) : Option Nat := (List.range n).find? fun i => !ok i

/-- One section, in the order of the table (R359): a failure of the section as a whole stands at its start (log entry 137), and a unit
above 7 of a launch record is reported modulo 8 (log entry 138). -/
def parseSection (bs : List Byte) (all : List Sec) (p : Parts) (x : Sec) : Except Bad Parts :=
  let item := fun (i : Nat) => num bs (x.off + 64 * i) 64
  if x.kind = 1 then
    match dictShape bs x.off (x.off + x.size) with
    | none => bad 3 1 x.unit 0 0 x.off
    | some (es, stop) =>
      if stop != x.off + x.size then bad 3 1 x.unit 0 0 x.off
      else
        match checkDict es x.off 1 x.unit with
        | .error e => .error e
        | .ok es => .ok { p with dicts := p.dicts ++ [(x.unit, es)] }
  else if x.kind = 2 then .ok { p with streams := p.streams ++ [(x.unit, cut bs x.off x.size)] }
  else if x.kind = 3 then
    if x.size % 64 != 0 || decide (64 * 4096 < x.size) then bad 5 3 0 0 0 x.off
    else
      match firstBad (x.size / 64) fun i => recordOk (item i) with
      | some i => bad 5 3 0 0 i (x.off + 64 * i)
      | none => .ok { p with pool := (List.range (x.size / 64)).map fun i => parseRecord (item i) }
  else if x.kind = 4 then
    let dcount := (all.filter fun s => s.kind == 1).map fun s => (s.unit, num bs s.off 4)
    let slen := (all.filter fun s => s.kind == 2).map fun s => (s.unit, s.size)
    let nm := ((all.filter fun s => s.kind == 7).map fun s => s.size / 16).sum
    if x.size % 64 != 0 || x.size = 0 || decide (64 * 64 < x.size) then bad 6 4 0 0 0 x.off
    else
      match firstBad (x.size / 64) fun i => launchOk (item i) dcount slen nm with
      | some i => bad 6 4 ((parseLaunch (item i)).unit % 8) 0 i (x.off + 64 * i)
      | none => .ok { p with launches := (List.range (x.size / 64)).map fun i => parseLaunch (item i) }
  else if x.kind = 5 then
    match parseHandler bs x with
    | .error e => .error e
    | .ok h => .ok { p with handler := some h }
  else if x.kind = 6 then
    match parseData bs (x.off + x.size) (x.size / 16 + 1) x.off 0 with
    | .error e => .error e
    | .ok l => .ok { p with data := l }
  else if x.kind = 7 then
    if x.size % 16 != 0 || decide (32 * 16 < x.size) then bad 7 7 0 0 0 x.off
    else
      match firstBad (x.size / 16) fun i => zeros bs (x.off + 16 * i + 4) 12 with
      | some i => bad 7 7 0 0 i (x.off + 16 * i)
      | none => .ok { p with meters := (List.range (x.size / 16)).map fun i => num bs (x.off + 16 * i) 4 }
  else .ok p

/-- The sections one after another. -/
def parseSections (bs : List Byte) (all : List Sec) : List Sec → Parts → Except Bad Parts
  | [], p => .ok p
  | x :: r, p =>
    match parseSection bs all p x with
    | .error e => .error e
    | .ok p => parseSections bs all r p

/-- The parts of an image and its SIGN section, or its first failure but those of the signature and the version (the offset of a
failure of header or section table: log entry 137). -/
def parseImage (bs : List Byte) : Except Bad (Parts × Sec) :=
  if !headerOk bs then bad 1 0 0 0 0 0
  else
    let l := sections bs
    if bs.length < 32 + 16 * num bs 6 2 then bad 2 0 0 0 0 32
    else
      match badRow bs l 0 (32 + 16 * num bs 6 2) with
      | some o => bad 2 0 0 0 0 o
      | none =>
        if !countsOk l then bad 2 0 0 0 0 32
        else
          match parseSections bs l l { dicts := [], streams := [], pool := [], launches := [], handler := none, data := [],
                                       meters := [] } with
          | .error e => .error e
          | .ok p => .ok (p, l.getLast?.getD ⟨0, 0, 0, 0⟩)

/-- The code units of the parts. -/
def Parts.units (p : Parts) : List CodeUnit :=
  p.dicts.map fun d =>
    { unit := d.1, dict := d.2, maxV := dictMaxV d.2, tiles := dictTiles d.2,
      code := match p.streams.find? fun x => x.1 == d.1 with
        | some x => x.2
        | none => [] }

/-- The image a context would hold, or why it is refused (R221, R222, R359); `known` tells that a record of its measurement and
signer stands, so that its signature is not checked again. -/
def loadImage (bs : List Byte) (ctx handle fuses : Nat) (known : List Byte → List Byte → Bool) : Except Bad Image :=
  match parseImage bs with
  | .error e => .error e
  | .ok (p, x) =>
    let body := bs.take x.off
    let key := cut bs (x.off + 4) 64
    let measure := Config.shake256 body
    let signer := (Config.shake256 key).take 16
    if decide (x.size < 68) || num bs x.off 4 != Config.xmssOid then bad 8 8 0 0 0 x.off
    else if !known measure signer && !Config.xmssVerify key body (cut bs (x.off + 68) (x.size - 68)) then bad 8 8 0 0 0 x.off
    else if num bs 16 4 < fuses then bad 9 0 0 0 0 16
    else
      .ok { handle := handle, ctx := ctx, valid := true, units := p.units, pool := p.pool, launches := p.launches,
            handler := p.handler, data := p.data, meters := p.meters, measure := measure, signer := signer,
            secver := num bs 16 4 }

end Sys2Proof.Machine
end

