-- ==== Sys2Proof/Machine/Host.lean ====
section
/-! DEFINITION. The host commands of contexts, images, tensors, tasks and queries (R196 to R219, R360, R383, R391). -/

namespace Sys2Proof.Machine

-- Taking up a command.

/-- Bytes 3 and [7:1] of byte 2 are 0, and so is every byte from 16 on that the command does not use (R196, R198). -/
def CmdBlock.clean (k : CmdBlock) (used : List (Nat × Nat)) : Bool :=
  decide (k.num 2 1 < 2) && k.num 3 1 == 0 &&
  (List.range 112).all fun j => (used.any fun u => decide (u.1 ≤ 16 + j) && decide (16 + j < u.2)) || k.num (16 + j) 1 == 0

/-- The command at the head of a function's queue is carried out if it bears a code and is not under way (R197). -/
def State.onCommand (s : State) (fn : Nat) (code : Nat → Bool) (f : CmdBlock → State) : Host.Outcome State Fault Refusal :=
  .next <|
    match s.cmd? fn with
    | none => s
    | some k => if s.running && !k.running && code (k.num 0 2) then f k else s

/-- A command that names a context with a fatal error completes with `CTX_FATAL` and its record (R373), after the checkpoints of
R372; firmware goes on with those first. -/
def State.reportFatal (s : State) (fn ctx : Nat) (f : Fatal) : State :=
  if s.fatalKept ctx then s.completeFatal fn f else s.fatalStep ctx

/-- The context a command names: open, of this function, without a fatal error (R197, R373). -/
def State.withCtx (s : State) (fn : Nat) (k : CmdBlock) (f : Context → State) : State :=
  match s.ctx? (k.num 4 4) with
  | none => s.complete fn (if k.num 4 4 < 64 then 2 else 1) []
  | some x =>
    if x.fn != fn then s.complete fn 2 []
    else
      match x.fatal with
      | some r => s.reportFatal fn x.num r
      | none => f x

/-- A context command whose reserved bytes are 0 and whose values are in range. -/
def State.ctxCommand (s : State) (fn code : Nat) (used : List (Nat × Nat)) (ok : CmdBlock → Bool)
    (f : CmdBlock → Context → State) : Host.Outcome State Fault Refusal :=
  s.onCommand fn (· == code) fun k => s.withCtx fn k fun x =>
    if k.clean used && ok k then f k x else s.complete fn 1 []

/-- A command of the physical function alone (R197). -/
def State.pfCommand (s : State) (fn code : Nat) (used : List (Nat × Nat)) (ok : CmdBlock → Bool) (f : CmdBlock → State) :
    Host.Outcome State Fault Refusal :=
  s.onCommand fn (· == code) fun k =>
    if fn != 0 then s.complete fn 2 [] else if k.clean used && ok k then f k else s.complete fn 1 []

/-- `UNASSIGNED_COMMAND` (R198, R200): codes 0 and 20 up, and a `QUERY` of an unassigned kind. -/
def execUnassignedCommand (fn : Nat) (s : State) : Host.Outcome State Fault Refusal :=
  .next <|
    match s.cmd? fn with
    | none => s
    | some k =>
      let code := k.num 0 2
      if s.running && !k.running && (code == 0 || decide (20 ≤ code) || (code == 14 && decide (5 < k.num 16 1))) then
        s.complete fn 1 []
      else s

-- Contexts.

/-- The lowest free context number. -/
def State.freeCtx (s : State) : Option Nat := (List.range 64).find? fun n => (s.ctx? n).isNone

/-- HBM frames are left on every stack for what the contexts have reserved, mapped and copied. -/
def State.hbmFits (s : State) : Bool :=
  (List.range 4).all fun d =>
    decide ((s.contexts.map fun x => x.bivouacOn d).sum + s.copyTotal d + (s.usedFrames 1 d).length ≤ Config.hbmFrames)

/-- `CTX_OPEN` (R204). -/
def execCtxOpen (fn : Nat) (s : State) : Host.Outcome State Fault Refusal :=
  s.onCommand fn (· == 2) fun k =>
    let n := k.num 16 1
    let ring := k.num 32 4
    if !k.clean [(16, 17), (20, 40)] || n = 0 || decide (4 < n) ||
        !((List.range 11).any fun i => ring == 2 ^ (6 + i)) then s.complete fn 1 []
    else
      match s.freeCtx with
      | none => s.complete fn 3 []
      | some c =>
        if s.usable.length < n then s.complete fn 3 []
        else
          let x : Context :=
            { num := c, fn := fn, vdies := s.usable.take n, mapVer := 1, bivouac := k.num 20 4, ringAddr := k.num 24 8,
              copies := [], ringSize := ring, readCnt := 0, posted := 0, queued := [], nextTask := 1, suspended := false,
              fatal := none, ckptDone := false }
          let t := { s with contexts := s.contexts ++ [x] }
          if t.hbmFits then t.complete fn 0 [(36, leBytes 4 c)] else s.complete fn 8 []

/-- A context bound anew, its map version raised (R206); its copies stand on the stacks `placed`, and on no stack that it has left. -/
def Context.rebind (x : Context) (vdies placed : List Nat) : Context :=
  { x with vdies := vdies, mapVer := x.mapVer + 1, copies := ((x.copies ++ placed).dedup).filter vdies.contains }

/-- Fresh copies of a context's streams stand on some stacks: no frame of them is out of residence there (R206, R358). -/
def State.placeCopies (s : State) (ctx : Nat) (placed : List Nat) : State :=
  { s with out := s.out.filter fun k => !(k.1 == ctx && placed.contains k.2.2.2.1) }

/-- A context's tensors unbound (R207). -/
def State.unbind (s : State) (f : Tensor → Bool) : State :=
  ({ s with tensors := s.tensors.map fun x => if f x then { x with bound := false } else x }).freeTensors

/-- Lantern stops observing a context (R207). -/
def Lantern.forget (l : Lantern) (ctx : Nat) : Lantern :=
  if l.ctx = ctx then { l with en := false, stop := l.stop % 2 ^ 63, stopped := [], issuer := none } else l

/-- What a context leaves when it ends (R207, R373): its work, frames, images and grants are gone; its verification records
stay in Rainfly, and completion records that still wait go too (log entry 120). -/
def State.endCtx (s : State) (c : Nat) : State :=
  let gone := s.tensors.filter fun x => x.ctx == c
  let t := gone.foldl (fun s x => x.entries.foldl State.freeFrame s) s
  let bids := (s.blocks.filter fun b => b.ctx == c).map (·.bid)
  { t with
    blocks := s.blocks.filter fun b => b.ctx != c
    commits := s.commits.filter fun k => k.ctx != c
    tasks := s.tasks.filter fun k => k.ctx != c
    contexts := s.contexts.filter fun x => x.num != c
    images := s.images.filter fun x => x.ctx != c
    tensors := s.tensors.filter fun x => x.ctx != c
    paged := s.paged.filter fun p => gone.all fun x => x.base != p.base
    access := s.access.filter fun p => gone.all fun x => x.base != p.base
    l1 := s.l1.filter fun y => gone.all fun x => x.base != y.base
    stks := s.stks.map fun k => { k with queue := k.queue.filter fun q => !bids.contains q.1 }
    out := s.out.filter fun k => k.1 != c
    hints := s.hints.filter fun k => keyCtx k.2 != c
    misses := s.misses.filter fun m => keyCtx m.key != c
    lantern := s.lantern.map fun l => l.forget c
    rainfly := { s.rainfly with
      grants := s.rainfly.grants.filter fun g => g.ctx != c
      verified := s.rainfly.verified.map fun v => if v.ctx = c then { v with ctx := 255 } else v } }

/-- Cause-2 checkpoints of the meters a context holds grants for (R207), while signatures are left, and their sequence numbers. -/
def State.closeCkpts (s : State) (c : Nat) : List Nat × State :=
  (s.rainfly.grants.filter fun g => g.ctx == c).foldl (fun p g =>
    if p.2.leafLeft then
      let s := p.2.requestCkpt g.region 2 g.number .nobody
      (p.1 ++ [s.rainfly.seq], s)
    else p) ([], s)

/-- The tasks of a context are discarded without completion records, with their blocks, the operations saved with those, and commits
that have not been accepted (R207). -/
def State.discardTasks (s : State) (c : Nat) : State :=
  { s with tasks := s.tasks.filter (fun t => t.ctx != c), blocks := s.blocks.filter (fun b => b.ctx != c)
           commits := s.commits.filter fun k => k.ctx != c }

/-- Something of a context still runs: an access, an engine operation, an accepted commit not yet visible (R207, R372). -/
def State.ctxBusy (s : State) (c : Nat) : Bool :=
  s.reqs.any (fun r => s.blockOf c r.block) || s.ops.any (fun o => s.blockOf c o.block) ||
  s.commits.any fun k => k.ctx == c && k.stamp.isSome

/-- A `CTX_CLOSE` under way: once the cause-2 records stand in the NV store the context is freed. -/
def State.closeGoesOn (s : State) (fn : Nat) : State :=
  match s.cmd? fn with
  | none => s
  | some k =>
    if s.rainfly.reqs.any fun r => k.wants.contains r.body.seq then s else (s.endCtx (k.num 4 4)).complete fn 0 []

/-- `CTX_CLOSE` (R207): it waits for what has started, and after a fatal error for the checkpoints of R372; tasks that have not
completed are discarded, the cause-2 checkpoints are made, then the context is freed.  A dispatched task none of whose blocks is placed
is discarded like the others (log entry 111). -/
def execCtxClose (fn : Nat) (s : State) : Host.Outcome State Fault Refusal :=
  let s := s.reap
  .next <|
    match s.cmd? fn with
    | none => s
    | some k =>
      if !s.running || k.num 0 2 != 15 then s
      else if k.running then s.closeGoesOn fn
      else
        match s.ctx? (k.num 4 4) with
        | none => s.complete fn (if k.num 4 4 < 64 then 2 else 1) []
        | some x =>
          if x.fn != fn then s.complete fn 2 []
          else if !k.clean [] then s.complete fn 1 []
          else if x.fatal.isNone && s.blocks.any (fun b => b.ctx == x.num && b.status == .placed) then s.complete fn 10 []
          else if s.ctxBusy x.num then s
          else if x.fatal.isSome && !s.fatalKept x.num then s.fatalStep x.num
          else
            let p := (s.discardTasks x.num).closeCkpts x.num
            { p.2 with cmds := p.2.cmds.map fun (c : CmdBlock) =>
                if c.fn == fn && c.slot == k.slot then { c with running := true, wants := p.1 } else c }.closeGoesOn fn

-- Images.

/-- `IMG_LOAD` (R198, R221, R222, R359). -/
def execImgLoad (fn : Nat) (s : State) : Host.Outcome State Fault Refusal :=
  s.ctxCommand fn 1 [(16, 36)] (fun _ => true) fun k x =>
    let bs := s.mem.readBytes (k.num 16 8) (k.num 24 8)
    let known := fun m g => s.rainfly.verified.any fun v => v.measure == m && v.signer == g
    match loadImage bs x.num s.uid s.rainfly.fuses known with
    | .error e =>
      s.complete fn 4 [(36, [BitVec.ofNat 8 e.reason, BitVec.ofNat 8 e.sec, BitVec.ofNat 8 e.unit, BitVec.ofNat 8 e.check] ++
        leBytes 4 e.item ++ leBytes 4 e.offset)]
    | .ok im =>
      let v : Verified := { ctx := x.num, measure := im.measure, signer := im.signer, secver := im.secver }
      let s := { s with uid := s.uid + 1, images := s.images ++ [im],
                        rainfly := if s.rainfly.verified.contains v then s.rainfly
                          else { s.rainfly with verified := s.rainfly.verified ++ [v] } }
      s.complete fn 0 [(32, leBytes 4 im.handle)]

/-- An image handle that names a valid image of a context. -/
def State.goodImage (s : State) (ctx h : Nat) : Option Image :=
  match s.image? ctx h with
  | some im => if im.valid then some im else none
  | none => none

/-- A task that has not completed uses an image. -/
def State.imageUsed (s : State) (ctx h : Nat) : Bool :=
  s.tasks.any fun t => t.ctx == ctx && t.image == h && !t.completed

/-- `IMG_UNLOAD` (R207). -/
def execImgUnload (fn : Nat) (s : State) : Host.Outcome State Fault Refusal :=
  s.ctxCommand fn 16 [(16, 20)] (fun _ => true) fun k x =>
    let h := k.num 16 4
    match s.goodImage x.num h with
    | none => s.complete fn 4 []
    | some _ =>
      if s.imageUsed x.num h then s.complete fn 10 []
      else
        ({ s with images := s.images.filter fun i => !(i.ctx == x.num && i.handle == h)
                  out := s.out.filter fun o => !(o.1 == x.num && o.2.1 == h)
          }.unbind fun t => t.ctx == x.num && t.image == h).complete fn 0 []

-- Tensors.

/-- The tensor bound to a number under an image handle. -/
def State.binding? (s : State) (ctx image b : Nat) : Option Tensor :=
  s.tensors.find? fun t => t.ctx == ctx && t.image == image && t.binding == b && t.bound

/-- Bytes a frame starts with: the host's from an address, or zeros. -/
def fillCells (m : Memory) (src : Option Nat) (tile bytes : Nat) : Memory :=
  match src with
  | none => []
  | some a => m.slice (a + tile * Config.frameBytes) (min Config.frameBytes (bytes - tile * Config.frameBytes))

/-- `TENSOR_MAP` (R202, R205): the tile-table base is a number never given before (log entry 32). -/
def execTensorMap (fn : Nat) (s : State) : Host.Outcome State Fault Refusal :=
  s.ctxCommand fn 3 [(16, 22), (24, 35), (40, 56)]
    (fun k => decide (k.num 32 1 ≤ 2) && decide (k.num 34 1 < 32) && !((k.num 34 1).bitAt 1 && (k.num 34 1).bitAt 4))
    fun k x =>
    let flags := k.num 34 1
    let tier := k.num 32 1
    let size := k.num 24 8
    let n := (size + Config.frameBytes - 1) / Config.frameBytes
    let die := if tier = 2 then 0 else x.vdies.getD (k.num 33 1) 0
    if x.vdies.length ≤ k.num 33 1 then s.complete fn 1 []
    else
      match s.goodImage x.num (k.num 16 4) with
      | none => s.complete fn 4 []
      | some _ =>
        match s.freeFrames tier die n with
        | none => s.complete fn 8 []
        | some fs =>
          let base := s.uid * Config.frameBytes
          let src := if flags.bitAt 3 then some (k.num 40 8) else none
          let entries : List TileEntry := fs.map fun f =>
            { resident := true, writable := flags.bitAt 0, metered := flags.bitAt 1, pins := (flags.bitAt 2).bit,
              tier := tier, die := die, frame := f, moving := none }
          let t : Tensor :=
            { base := base, ctx := x.num, image := k.num 16 4, binding := k.num 20 2, bytes := size, tier := tier,
              vdie := k.num 33 1, export_ := flags.bitAt 4, pinned := flags.bitAt 2, bound := true, entries := entries }
          let s := fs.zipIdx.foldl (fun s f => s.putFrame (frameAddr tier die f.1 0)
            { base := base, tile := f.2, mem := fillCells s.mem src f.2 size, tags := [], stamped := [] }) s
          let s := s.unbind fun o => o.ctx == x.num && o.image == t.image && o.binding == t.binding && o.bound
          { s with uid := s.uid + 1, tensors := s.tensors ++ [t] }.complete fn 0 [(48, leBytes 8 base)]

/-- `TENSOR_UNMAP` (R207). -/
def execTensorUnmap (fn : Nat) (s : State) : Host.Outcome State Fault Refusal :=
  s.ctxCommand fn 17 [(16, 22)] (fun _ => true) fun k x =>
    match s.goodImage x.num (k.num 16 4) with
    | none => s.complete fn 4 []
    | some _ =>
      match s.binding? x.num (k.num 16 4) (k.num 20 2) with
      | none => s.complete fn 1 []
      | some t => (s.unbind fun o => o.base == t.base).complete fn 0 []

/-- Bytes written into a tensor by firmware: at the frame, or where a frame out of residence is kept. -/
def State.writeTensor (s : State) (base off : Nat) (bs : List Byte) : State :=
  bs.zipIdx.foldl (fun s p =>
    let o := off + p.2
    match s.entryOf base o with
    | none => s
    | some e =>
      if e.resident then s.writeHome (frameAddr e.tier e.die e.frame (o % 65536)) [p.1]
      else
        let q := s.pagedFrame base (o / 65536)
        { s with paged := { q with mem := q.mem.write (o % 65536) p.1 } ::
            s.paged.filter fun k => !(k.base == base && k.tile == o / 65536) }) s

-- Launch.

/-- Conditions 1 to 4 and 6 of R86. -/
def fitsSelf (im : Image) (r : LaunchRec) : Bool :=
  let need := max (match im.units.find? fun u => u.unit == r.unit with
    | some u => u.maxV
    | none => 0) (match im.handler with
    | some h => h.maxV
    | none => 0)
  r.gen == 1 && decide (need ≤ 8 * r.regs) && decide (r.tmem ≤ Config.tmemBytes) &&
  decide (r.warps + 1 ≤ (r.cores + 1) * 4 * min 48 (256 / r.regs)) &&
  (im.pool.all fun p => p.kind != 1 || decide (p.base + p.size ≤ r.tmem)) &&
  im.data.all fun d => d.kind != 1 || decide (d.offset + d.bytes.length ≤ r.tmem)

/-- The launch records of a kernel, in order. -/
def Image.records (im : Image) (kernel : Nat) : List LaunchRec := im.launches.filter fun r => r.kernel == kernel

/-- The variant of a kernel (R86), or the status that refuses it: `LAUNCH_VDIE` only when condition 5 alone excludes every
record. -/
def variant (im : Image) (vdies kernel : Nat) : Except Nat LaunchRec :=
  match (im.records kernel).find? fun r => fitsSelf im r && decide (r.vdies ≤ vdies) with
  | some r => .ok r
  | none => .error (if im.records kernel != [] && (im.records kernel).all (fitsSelf im) then 6 else 5)

/-- The record whose stages are examined: the variant, or, where condition 5 alone excludes every record, the first (log
entry 75). -/
def leadRecord (im : Image) (vdies kernel : Nat) : LaunchRec :=
  match variant im vdies kernel with
  | .ok r => r
  | .error _ => (im.records kernel).headD default

/-- The records of the stages, stage 0 first (R82, R213); a resource refusal of the kernel or of any stage kernel comes before
one of virtual dies (R360). -/
def variants (im : Image) (vdies kernel : Nat) : Except Nat (List LaunchRec) :=
  let lead := leadRecord im vdies kernel
  let l := variant im vdies kernel :: ((lead.stages.take lead.nstage).drop 1).map fun g => variant im vdies g.1
  let fails := l.filterMap fun v => match v with
    | .error e => some e
    | .ok _ => none
  if fails.contains 5 then .error 5
  else if fails.contains 6 then .error 6
  else .ok (l.filterMap fun v => match v with
    | .ok r => some r
    | .error _ => none)

/-- The patched pool (R81), or none when a binding is unmapped. -/
def State.patch (s : State) (ctx image : Nat) : List Record → Option (List Record)
  | [] => some []
  | r :: rest =>
    match s.patch ctx image rest with
    | none => none
    | some l =>
      if r.kind = 0 then (s.binding? ctx image r.base).map fun t => { r with base := t.base } :: l
      else some (r :: l)

/-- Kind-2 DATA items lie in their tensors (R84). -/
def State.itemsOk (s : State) (ctx image : Nat) (l : List DataItem) : Bool :=
  l.all fun d => d.kind != 2 || (match s.binding? ctx image d.binding with
    | some t => decide (d.offset + d.bytes.length ≤ t.bytes)
    | none => false)

/-- The declarations a variant selects are granted to the context for the image's signer (R224). -/
def State.granted (s : State) (ctx : Nat) (im : Image) (r : LaunchRec) : Bool :=
  (List.range 32).all fun j => !r.meters.bitAt j || (match im.meters[j]? with
    | some region => s.rainfly.grants.any fun g => g.ctx == ctx && g.region == region && g.readers.contains im.signer
    | none => false)

/-- Save space a launch asks of the Bivouac for one block: with the greatest number of cores (R209). -/
def State.launchSpace (s : State) (ctx image : Nat) (r : LaunchRec) : Nat :=
  s.saveSpace { (default : Block) with ctx := ctx, image := image, rcd := r } (r.cores + 1)

/-- The stage queues of a task in ground memory of a stack (R213). -/
def State.makeQueues (s : State) (stack : Nat) (caps : List Nat) : Option (List StageQ) :=
  let sizes := caps.map fun j => (2 ^ j * 64 + Config.frameBytes - 1) / Config.frameBytes
  match s.freeFrames 0 stack sizes.sum with
  | none => none
  | some fs =>
    some ((caps.zip sizes).foldl (fun (acc : List StageQ × List Nat) c =>
      (acc.1 ++ [{ logCap := c.1, head := 0, tail := 0, stack := stack, frames := acc.2.take c.2, emptyFor := 0 }],
       acc.2.drop c.2)) ([], fs)).1

/-- `LAUNCH` (R81, R84, R86, R208, R213, R222, R360). -/
def execLaunch (fn : Nat) (s : State) : Host.Outcome State Fault Refusal :=
  s.ctxCommand fn 5 [(16, 23), (24, 36), (40, 48)] (fun k => decide (k.num 21 1 < 16) && decide (k.num 22 1 < 2)) fun k x =>
    let h := k.num 16 4
    let queue := k.num 21 1
    let count := k.num 32 4
    match s.goodImage x.num h with
    | none => s.complete fn 4 []
    | some im =>
      if im.secver < s.rainfly.fuses then
        { s with images := s.images.map (fun (i : Image) =>
                   if i.ctx == x.num && i.handle == h then { i with valid := false } else i)
                 rainfly := { s.rainfly with verified := s.rainfly.verified.filter fun v =>
                   !(v.ctx == x.num && v.measure == im.measure && v.signer == im.signer) } }.complete fn 4 []
      else if 1024 ≤ (s.tasks.filter fun t => t.ctx == x.num && t.queue == queue && !t.completed).length then
        s.complete fn 8 []
      else
        match variants im x.vdies.length (k.num 20 1) with
        | .error e => s.complete fn e []
        | .ok recs =>
          let r := recs.headD default
          if recs.any fun r => decide (x.bivouac * 2 ^ 20 < s.launchSpace x.num h r) then s.complete fn 5 []
          else if !s.itemsOk x.num h im.data || !recs.all (s.granted x.num im) then s.complete fn 7 []
          else
            match s.patch x.num h im.pool with
            | none => s.complete fn 7 []
            | some pool =>
              let caps := (r.stages.take r.nstage).map (·.2)
              if (match caps.head? with
                  | some j => 2 ^ j
                  | none => 0) < count then s.complete fn 1 []
              else
                match s.makeQueues (x.vdies.headD 0) caps with
                | none => s.complete fn 8 []
                | some qs =>
                  let qs := qs.modify 0 fun q => { q with tail := count }
                  let q0 := (qs.headD { logCap := 0, head := 0, tail := 0, stack := 0, frames := [], emptyFor := 0 })
                  let s := (qs.flatMap fun q => q.frames.map fun f => (q.stack, f)).foldl (fun s f =>
                    s.putFrame (frameAddr 0 f.1 f.2 0) { base := 0, tile := 0, mem := [], tags := [], stamped := [] }) s
                  let s := (s.mem.readBytes (k.num 24 8) (64 * count)).zipIdx.foldl (fun (s : State) p =>
                    { s with mem := s.mem.write (frameAddr 0 q0.stack (q0.frames.getD (p.2 / 65536) 0) (p.2 % 65536)) p.1 }) s
                  let s := im.data.foldl (fun s d =>
                    if d.kind = 2 then
                      match s.binding? x.num h d.binding with
                      | some t => s.writeTensor t.base d.offset d.bytes
                      | none => s
                    else s) s
                  let t : Task :=
                    { ctx := x.num, num := x.nextTask, tag := k.num 8 4, image := h, queue := queue, recs := recs,
                      pool := pool, held := k.num 22 1 == 1, links := [], dispatched := false, completed := false,
                      suspended := false, next := recs.map fun _ => 0, drain := none, queues := qs }
                  ({ s with tasks := s.tasks ++ [t] }.modCtx x.num fun x => { x with nextTask := x.nextTask + 1 }).complete
                    fn 0 [(40, leBytes 8 t.num)]

-- Tasks.

/-- `TASK_LINK` (R210). -/
def execTaskLink (fn : Nat) (s : State) : Host.Outcome State Fault Refusal :=
  s.ctxCommand fn 6 [(16, 33)] (fun k => decide (k.num 32 1 < 2)) fun k x =>
    let early := k.num 16 8
    let late := k.num 24 8
    match s.task? x.num late with
    | none => s.complete fn 9 []
    | some t =>
      let done := fun (n : Nat) => match s.task? x.num n with
        | some q => q.completed
        | none => true
      if t.completed || (early != 0 && (done early || t.dispatched)) then s.complete fn 9 []
      else
        (s.modTask x.num late fun t =>
          { t with links := if early = 0 then t.links else t.links ++ [early],
                   held := t.held && k.num 32 1 != 1 }).complete fn 0 []

/-- The tasks a `PREEMPT` or `RESUME` names: none when the one named is unknown or has completed (R219). -/
def State.named (s : State) (ctx n : Nat) : Option (List Task) :=
  if n = Config.ones64 then some (s.tasks.filter fun t => t.ctx == ctx && !t.completed)
  else
    match s.task? ctx n with
    | some t => if t.completed then none else some [t]
    | none => none

/-- A task suspended (R216): a block of it that was swapped out now waits for `RESUME` too (R218). -/
def State.suspend (s : State) (ctx task : Nat) : State :=
  let s := s.modTask ctx task fun t => { t with suspended := true }
  { s with blocks := s.blocks.map fun (b : Block) =>
      if b.ctx == ctx && b.task == task && b.status == .swapped then { b with status := .saved } else b }

/-- `PREEMPT` (R216, R219): the named tasks, or the context with all of them (R209), are suspended and their placed blocks
are to be saved; it completes when they are, which BLOCK_SAVE sees. -/
def execPreempt (fn : Nat) (s : State) : Host.Outcome State Fault Refusal :=
  let s := s.reap
  s.ctxCommand fn 7 [(16, 24)] (fun _ => true) fun k x =>
    match s.named x.num (k.num 16 8) with
    | none => s.complete fn 9 []
    | some ts =>
      let bids := (s.blocks.filter fun b => b.ctx == x.num && (ts.any fun t => t.num == b.task) && b.status == .placed).map
        Block.bid
      let s := ts.foldl (fun (s : State) t => (s.suspend x.num t.num)) s
      let s := if k.num 16 8 = Config.ones64 then s.modCtx x.num fun x => { x with suspended := true } else s
      let s : State := { s with cmds := s.cmds.map fun (c : CmdBlock) =>
        if c.fn == fn && c.slot == k.slot then { c with running := true, wants := bids } else c }
      (bids.foldl (fun (s : State) b => s.requestSave b (.command fn)) s).settleCmds

/-- `RESUME` (R218, R219): it ends the suspension of the tasks, and of their context (R209). -/
def execResume (fn : Nat) (s : State) : Host.Outcome State Fault Refusal :=
  s.ctxCommand fn 8 [(16, 24)] (fun _ => true) fun k x =>
    match s.named x.num (k.num 16 8) with
    | none => s.complete fn 9 []
    | some ts =>
      ({ s with tasks := s.tasks.map fun (t : Task) =>
          if t.ctx == x.num && (ts.any fun q => q.num == t.num) then { t with suspended := false } else t }.modCtx x.num fun x =>
        { x with suspended := false }).complete fn 0 []

-- Rebinding.

/-- A context is suspended: every task it holds is pre-empted or not yet dispatched (R206). -/
def State.allSuspended (s : State) (ctx : Nat) : Bool :=
  s.tasks.all (fun t => t.ctx != ctx || t.completed || t.suspended || !t.dispatched) &&
  s.blocks.all fun b => b.ctx != ctx || b.status != .placed

/-- The frames of a context on two stacks taken up, each with the stack it goes to. -/
def State.liftFrames (s : State) (ctx from_ dest : Nat) (swap : Bool) : List (Paged × Nat × Nat × Bool) × State :=
  let all := (s.tensors.filter fun t => t.ctx == ctx).flatMap fun t => t.entries.zipIdx.map fun e => (t.base, e.1, e.2)
  all.foldl (fun acc f =>
    let e := f.2.1
    let goal := if e.die = from_ then some dest else if swap && e.die = dest then some from_ else none
    match goal with
    | some d =>
      if e.tier = 2 then acc
      else
        let p := if e.resident then acc.2.takeFrame (frameAddr e.tier e.die e.frame 0) f.1 f.2.2
          else (acc.2.pagedFrame f.1 f.2.2, acc.2)
        (acc.1 ++ [(p.1, e.tier, d, e.resident)],
         p.2.modTensor f.1 fun t => { t with entries := t.entries.modify f.2.2 fun e =>
           { e with resident := false, die := d, moving := none } })
    | none => acc) ([], s)

/-- Frames set down one after another, or none when a stack has no frame left. -/
def setFrames : List (Paged × Nat × Nat × Bool) → State → Option State
  | [], s => some s
  | (p, tier, die, res) :: r, s =>
    if !res then setFrames r s
    else
      match s.freeFrames tier die 1 with
      | some [f] =>
        setFrames r ((s.putFrame (frameAddr tier die f 0) p).modTensor p.base fun t =>
          { t with entries := t.entries.modify p.tile fun e => { e with resident := true, frame := f } })
      | _ => none

/-- The stage queues of a context's tasks that stand on a stack taken up (R206, R213): task, number and frames of each. -/
def State.liftQueues (s : State) (ctx from_ : Nat) : List (Nat × Nat × List Paged) × State :=
  let qs := (s.tasks.filter fun t => t.ctx == ctx).flatMap fun t => t.queues.zipIdx.map fun q => (t.num, q.2, q.1)
  (qs.filter fun q => q.2.2.stack == from_).foldl (fun acc q =>
    let p := q.2.2.frames.foldl (fun (p : List Paged × State) f =>
      let x := p.2.takeFrame (frameAddr 0 from_ f 0) 0 0
      (p.1 ++ [x.1], x.2)) ([], acc.2)
    (acc.1 ++ [(q.1, q.2.1, p.1)],
     p.2.modTask ctx q.1 fun t => { t with queues := t.queues.modify q.2.1 fun k => { k with frames := [] } })) ([], s)

/-- Queues set down on a stack one after another, or none when it has too few frames left. -/
def setQueues (ctx dest : Nat) : List (Nat × Nat × List Paged) → State → Option State
  | [], s => some s
  | (task, q, ps) :: r, s =>
    match s.freeFrames 0 dest ps.length with
    | none => none
    | some fs =>
      let s := (ps.zip fs).foldl (fun s p => s.putFrame (frameAddr 0 dest p.2 0) p.1) s
      setQueues ctx dest r (s.modTask ctx task fun t =>
        { t with queues := t.queues.modify q fun k => { k with stack := dest, frames := fs } })

/-- The table of a context with virtual die `v` on a stack, exchanged with the die bound there (R206). -/
def swapDies (vdies : List Nat) (v dest : Nat) : List Nat :=
  let from_ := vdies.getD v 0
  (vdies.map fun d => if d = dest then from_ else d).set v dest

/-- The stacks to which a `VDIE_BIND` binds a virtual die anew (R206). -/
def newStacks (vdies : List Nat) (v dest : Nat) : List Nat := if vdies.contains dest then [dest, vdies.getD v 0] else [dest]

/-- `VDIE_BIND` (R206, R391): all or nothing.  Every frame that moves is taken up, those of the stage queues with virtual die 0 too,
before any is set down, and copies of the dictionaries and streams are placed.  That the context is not suspended comes before a bad die
or stack (log entry 46). -/
def execVdieBind (fn : Nat) (s : State) : Host.Outcome State Fault Refusal :=
  let s := s.reap
  s.ctxCommand fn 9 [(16, 18), (20, 24)] (fun _ => true) fun k x =>
    let v := k.num 16 1
    let dest := k.num 17 1
    let from_ := x.vdies.getD v 0
    if !s.allSuspended x.num then s.complete fn 10 []
    else if decide (x.vdies.length ≤ v) || !s.usable.contains dest then s.complete fn 1 []
    else
      let vdies := swapDies x.vdies v dest
      let ver := x.mapVer + 1
      let placed := newStacks x.vdies v dest
      let t := (s.modCtx x.num fun x => x.rebind vdies placed).placeCopies x.num placed
      if dest = from_ then if t.hbmFits then t.complete fn 0 [(20, leBytes 4 ver)] else s.complete fn 8 []
      else
        let up := t.liftFrames x.num from_ dest (x.vdies.contains dest)
        let home := vdies.headD 0
        let qs := if x.vdies.headD 0 = home then ([], up.2) else up.2.liftQueues x.num (x.vdies.headD 0)
        match (setFrames up.1 qs.2).bind (setQueues x.num home qs.1) with
        | some u => if u.hbmFits then u.complete fn 0 [(20, leBytes 4 ver)] else s.complete fn 8 []
        | none => s.complete fn 8 []

-- The fabric and the carve-outs.

/-- `PEER_MAP` (R202). -/
def execPeerMap (fn : Nat) (s : State) : Host.Outcome State Fault Refusal :=
  s.pfCommand fn 18 [(16, 21), (24, 40)] (fun k => decide (k.num 20 1 < 4)) fun k =>
    let peer := k.num 16 2
    if (k.num 20 1).bitAt 1 then { s with ownPeer := peer }.complete fn 0 []
    else
      let r : Route := { peer := peer, valid := (k.num 20 1).bitAt 0, mask := k.num 18 2, device := k.num 24 16 }
      { s with routes := r :: s.routes.filter fun q => q.peer != peer }.complete fn 0 []

/-- `GROUND_SET` (R203). -/
def execGroundSet (fn : Nat) (s : State) : Host.Outcome State Fault Refusal :=
  s.pfCommand fn 19 [(16, 24)]
    (fun k => (List.range 4).all fun i =>
      let v := k.num (16 + 2 * i) 2
      v == 0xFFFF || (v % 16 == 0 && decide (v ≤ 256)))
    fun k =>
    if s.contexts != [] then s.complete fn 10 []
    else
      { s with rainfly := { s.rainfly with carve := (List.range 4).map fun i =>
          let v := k.num (16 + 2 * i) 2
          if v = 0xFFFF then s.rainfly.carve.getD i 0 else v } }.complete fn 0 []

-- Time.

/-- `TIME_REF` (R175, R180, R200): recorded now, in force from the first sample of the source it selects; the next PPS edge is the
first since source 1 was selected (R176). -/
def execTimeRef (fn : Nat) (s : State) : Host.Outcome State Fault Refusal :=
  s.pfCommand fn 10 [(16, 17), (20, 28)]
    (fun k => decide (k.num 16 1 < 2) && decide (16 ≤ k.num 24 4) && decide (k.num 24 4 ≤ 1000000)) fun k =>
    { s with tb := { s.tb with awaited := some { source := k.num 16 1, uHost := k.num 20 4, limit := k.num 24 4 },
                               freshEdge := s.tb.freshEdge || k.num 16 1 == 1 } }.complete fn 0 []

-- Queries.

/-- A reply of `n` bytes written from its listed fields; every byte not listed reads 0 (R201). -/
def State.reply (s : State) (fn : Nat) (k : CmdBlock) (n : Nat) (fields : List (Nat × List Byte)) : State :=
  let bs := fields.foldl (fun b f => setBytes b f.1 f.2) (List.replicate n 0)
  { s with mem := s.mem.writeBytes (k.num 24 8) bs }.complete fn 0 []

/-- `QUERY` of a kind; only kind 4 names a context (R196, R200). -/
def State.onQuery (s : State) (fn kind : Nat) (f : CmdBlock → State) : Host.Outcome State Fault Refusal :=
  .next <|
    match s.cmd? fn with
    | none => s
    | some k =>
      if s.running && !k.running && k.num 0 2 == 14 && k.num 16 1 == kind then
        (if kind = 4 then s.withCtx fn k fun _ => if k.clean [(16, 17), (24, 32)] then f k else s.complete fn 1 []
         else if k.clean [(16, 17), (24, 32)] then f k else s.complete fn 1 [])
      else s

/-- Mask of the stacks that satisfy a test. -/
def stackMask (f : Nat → Bool) : Nat := ((List.range 4).map fun k => if f k then 2 ^ k else 0).sum

/-- `QUERY` kind 0 (R18, R201, R388). -/
def execQueryPart (fn : Nat) (s : State) : Host.Outcome State Fault Refusal :=
  s.onQuery fn 0 fun k =>
    s.reply fn k 256
      [(0, [BitVec.ofNat 8 s.part, BitVec.ofNat 8 s.rainfly.lastStop] ++ leBytes 2 1 ++
        [BitVec.ofNat 8 s.usable.length, BitVec.ofNat 8 (stackMask s.usable.contains),
         BitVec.ofNat 8 (stackMask fun k => (s.stack? k).fused),
         BitVec.ofNat 8 (stackMask fun k => (s.stack? k).excluded), BitVec.ofNat 8 s.rainfly.fuses]),
       (16, leBytes 16 deviceId), (32, leBytes 8 (2 ^ 40 - s.rainfly.leaf))]

/-- `QUERY` kind 1 (R10, R201). -/
def execQueryGround (fn : Nat) (s : State) : Host.Outcome State Fault Refusal :=
  s.onQuery fn 1 fun k =>
    s.reply fn k 256 [(0, (List.range 4).flatMap fun i =>
      leBytes 2 (if (s.stack? i).fused then 0xFFFF else s.rainfly.carve.getD i 0))]

/-- `QUERY` kind 2 (R200, R383): the source in force, `0xFF` while no sample has been accepted. -/
def execQueryTime (fn : Nat) (s : State) : Host.Outcome State Fault Refusal :=
  s.onQuery fn 2 fun k =>
    let t := s.tb
    let old := decide (10 ^ 12 ≤ t.refAge)
    let each := fun (f : Stack → Nat) => (List.range 4).flatMap fun i =>
      leBytes 4 (if s.usable.contains i then f (s.stack? i) else 0xFFFFFFFF)
    s.reply fn k 256
      [(0, [BitVec.ofNat 8 (if t.accepted then t.source.getD 0xFF else 0xFF), BitVec.ofNat 8 (t.lastRej.bit + 2 * old.bit)]),
       (4, leBytes 4 t.limit), (8, leBytes 8 (t.refAge / 1000)), (16, leBytes 4 (min t.rejected 0xFFFFFFFF)),
       (24, each (·.usync)), (40, each (·.transit))]

/-- `QUERY` kind 3 (R190, R193, R201). -/
def execQueryPower (fn : Nat) (s : State) : Host.Outcome State Fault Refusal :=
  s.onQuery fn 3 fun k =>
    let r := s.rainfly
    let on := s.usable.contains
    s.reply fn k 256
      [(0, (List.range 4).flatMap fun i => leBytes 2 (if on i then r.budget.getD i 0 else 0xFFFF)),
       (8, (List.range 16).flatMap fun i => leBytes 2 (if on (i / 4) then r.base.getD i 0 else 0xFFFF)),
       (40, (List.range 16).flatMap fun i => leBytes 4 (if on (i / 4) then r.emax.getD i 0 else 0xFFFFFFFF))]

/-- `QUERY` kind 4 (R201, R204, R206). -/
def execQueryVdie (fn : Nat) (s : State) : Host.Outcome State Fault Refusal :=
  s.onQuery fn 4 fun k =>
    match s.ctx? (k.num 4 4) with
    | none => s.complete fn 2 []
    | some x =>
      s.reply fn k 256
        [(0, leBytes 4 x.mapVer), (4, [BitVec.ofNat 8 x.vdies.length]),
         (8, (List.range 4).map fun v => BitVec.ofNat 8 (x.vdies.getD v 0xFF))]

/-- `QUERY` kind 5 (R16, R201). -/
def execQueryPorts (fn : Nat) (s : State) : Host.Outcome State Fault Refusal :=
  s.onQuery fn 5 fun k =>
    s.reply fn k 512 ((List.range 16).map fun i =>
      let p := s.port i
      (32 * i, [BitVec.ofNat 8 p.state, BitVec.ofNat 8 p.partner] ++ leBytes 2 (min p.retrains 0xFFFF) ++
        leBytes 4 (min p.naks 0xFFFFFFFF) ++ leBytes 16 (if p.state = 2 then p.partnerDev else 0)))

end Sys2Proof.Machine
end

