-- ==== Sys2Proof/Machine/Rainfly.lean ====
section
/-! DEFINITION. Rainfly (R220 to R232, R393): grants, the two meter operations, checkpoint records and their signatures,
`METER_READ`, `METER_CKPT` and `ATTEST`. -/

namespace Sys2Proof.Machine

-- Records.

/-- The 128-byte body of a checkpoint record (R227). -/
def Ckpt.bytes (k : Ckpt) : List Byte :=
  [BitVec.ofNat 8 1, BitVec.ofNat 8 k.cause] ++ leBytes 6 0 ++ leBytes 4 k.region ++ leBytes 8 k.grant ++
  leBytes 16 deviceId ++ leBytes 8 k.value ++ leBytes 8 k.stamp ++ leBytes 8 k.seq ++ leBytes 68 0

/-- The 16 newest records of the device (R228). -/
def Rainfly.latest (r : Rainfly) : List Ckpt := r.ring.drop (r.ring.length - 16)

/-- A body kept in the NV store (R228): the newest of its region and one of the 2,048 newest of the device; a signature of a record that
is no longer among the 16 newest leaves. -/
def Rainfly.keep (r : Rainfly) (k : Ckpt) : Rainfly :=
  let t : Rainfly :=
    { r with
      meters := r.meters.map fun m => if m.region = k.region then { m with newest := some k } else m
      ring := (r.ring ++ [k]).drop (r.ring.length - 2047) }
  { t with signed := t.signed.filter fun g => t.latest.any fun q => q.seq == g.1 }

/-- A signature made with the next leaf, which is spent first (R220); it is kept while its record is among the 16 newest (R228). -/
def Rainfly.sign (r : Rainfly) (k : Ckpt) : Rainfly :=
  { r with leaf := r.leaf + 1
           signed := if r.latest.contains k then r.signed ++ [(k.seq, Config.xmssSign r.leaf k.bytes)] else r.signed }

/-- A record that waits for nobody to sign it (R229): a body written at once, its stamp and sequence number the next. -/
def Rainfly.writeNow (r : Rainfly) (tb : TimeBase) (region cause grant value : Nat) : Rainfly :=
  let stamp := if tb.accepted then max tb.latest (r.stamp + 1) else 0
  { r with seq := r.seq + 1, stamp := stamp }.keep
    { cause := cause, region := region, grant := grant, value := value, stamp := stamp, seq := r.seq + 1 }

/-- `CHECKPOINT_RECORD` (R227): the oldest requested record is signed and enters the NV store, once every die's earliest exceeds
its stamp; its handle or its command then has its sequence number.  Without a leaf no record is made (R393). -/
def execCheckpointRecord (s : State) : Host.Outcome State Fault Refusal :=
  .next <|
    match s.rainfly.reqs with
    | [] => s
    | q :: rest =>
      if q.stamped && !s.diesAbove q.body.stamp then s
      else
        let s := { s with rainfly := { s.rainfly with reqs := rest } }
        if s.leafLeft then
          let s := { s with rainfly := (s.rainfly.keep q.body).sign q.body }
          match q.for_ with
          | .nobody => s
          | .handle block h => s.resolve block h 1 q.body.seq false
          | .command fn => s.complete fn 0 [(24, leBytes 8 q.body.seq)]
        else
          match q.for_ with
          | .nobody => s
          | .handle block h => s.resolve block h 4 0 false
          | .command fn => s.complete fn 8 []

-- The meter operations (R226, R253).

/-- The region a meter index names (R85). -/
def State.regionAt (s : State) (b : Block) (j : Nat) : Nat :=
  match s.image? b.ctx b.image with
  | some im => im.meters.getD j 0
  | none => 0

/-- The number of the grant by which a context holds a region. -/
def State.grantNo (s : State) (ctx region : Nat) : Nat :=
  match s.rainfly.grants.find? fun g => g.ctx == ctx && g.region == region with
  | some g => g.number
  | none => 0

/-- `mtrd` (R226, R253): the three destinations are pending until Rainfly replies. -/
def execMtrd (g : Guard) (v e l j : Nat) (s : State) :=
  uniOp s (.mtrd g v e l j) g fun c b w s =>
    let q : MeterReq := { id := s.uid, block := b.bid, warp := w.num, region := s.regionAt b ((w.sread j).toNat % 32),
                          dv := v, de := e, dl := l }
    { s with uid := s.uid + 1, rainfly := { s.rainfly with readers := s.rainfly.readers ++ [q] } }.pend c q.id
      [.s v, .s e, .s l]

/-- Earlier queue operations of a warp have not performed: puts, which release at package scope, so that the counts before them are
still to come, and gets, which may acquire (R156, R346). -/
def State.queueBefore (s : State) (bid wn id : Nat) : Bool :=
  s.reqs.any fun r => r.block == bid && r.warp == wn && decide (r.id < id) && (match r.kind with
    | .qput _ _ _ => true
    | .load _ _ _ => false
    | .store => false
    | .atom _ _ _ _ _ => false
    | .ldas _ _ _ _ _ _ => false
    | .qget _ _ _ => true)

/-- `mtck` (R226, R253): its handle takes a slot of the ring, and the handle register is pending until Rainfly replies. -/
def execMtck (g : Guard) (h j : Nat) (s : State) :=
  uniOp s (.mtck g h j) g fun c b w s =>
    let p := b.alloc 6
    let q : MeterAsk := { id := s.uid, block := b.bid, warp := w.num, region := s.regionAt b ((w.sread j).toNat % 32), reg := h,
                          handle := p.1 }
    ({ s with uid := s.uid + 1, rainfly := { s.rainfly with asks := s.rainfly.asks ++ [q] } }.modBlock b.bid fun k =>
      (k.alloc 6).2).pend c q.id [.h h]

/-- Rainfly takes an `mtck` up (R226): the checkpoint is requested, and the handle register has its handle; one for which no signature
is left resolves refused (R393). -/
def State.answerAsk (s : State) (q : MeterAsk) : State :=
  let s := { s with rainfly := { s.rainfly with asks := s.rainfly.asks.filter fun (k : MeterAsk) => k.id != q.id } }
  match s.block? q.block with
  | none => s
  | some b =>
    let s :=
      if s.leafLeft then s.requestCkpt q.region 0 (s.grantNo b.ctx q.region) (.handle b.bid q.handle.toNat)
      else s.resolve b.bid q.handle.toNat 4 0 false
    s.modWarp q.block q.warp fun w =>
      let now := (s.cluster b.stack (w.core / 8)).cycle
      { w with h := w.h.set q.reg q.handle
               pend := w.pend.map fun p => if p.req = q.id then { p with returned := some now } else p }

/-- `RAINFLY_REPLY` (R226, R346): the meter as it stands, between the bounds of Rainfly's interval, or an `mtck` taken up (log entry
66). -/
def execRainflyReply (id : Nat) (s : State) : Host.Outcome State Fault Refusal :=
  .next <|
    match s.rainfly.readers.find? fun q => q.id == id with
    | none =>
      (match s.rainfly.asks.find? fun q => q.id == id with
        | none => s
        | some q => if s.queueBefore q.block q.warp q.id then s else s.answerAsk q)
    | some q =>
      if s.queueBefore q.block q.warp q.id then s
      else
        let s := { s with rainfly := { s.rainfly with readers := s.rainfly.readers.filter fun k => k.id != id } }
        match s.block? q.block with
        | none => s
        | some b =>
          s.modWarp q.block q.warp fun w =>
            let now := (s.cluster b.stack (w.core / 8)).cycle
            let w := ((w.settleOn (.s q.dv) 0 now).settleOn (.s q.de) 0 now).settleOn (.s q.dl) 0 now
            { w.landAll [.sreg q.dv (BitVec.ofNat 64 (s.meterVal q.region)), .sreg q.de (BitVec.ofNat 64 s.tb.earliest),
                         .sreg q.dl (BitVec.ofNat 64 s.tb.latest)] with
              pend := w.pend.map fun p => if p.req = id then { p with returned := some now } else p }

-- Grants (R223).

/-- The blob a `GRANT` command delivers. -/
def State.grantBlob (s : State) (k : CmdBlock) : List Byte := s.mem.readBytes (k.num 16 8) (k.num 24 4)

/-- `GRANT` with a blob of one kind; a blob of no kind goes with kind 1. -/
def State.grantCommand (s : State) (fn : Nat) (counter : Bool) (f : List Byte → Context → State) :
    Host.Outcome State Fault Refusal :=
  .next <|
    match s.cmd? fn with
    | none => s
    | some k =>
      let bs := s.grantBlob k
      if s.running && !k.running && k.num 0 2 == 4 && (num bs 0 1 == 2) == counter then
        s.withCtx fn k fun x => if k.clean [(16, 28)] && decide (244 ≤ bs.length) then f bs x else s.complete fn 1 []
      else s

/-- The signature over bytes 0 to 243 of a blob verifies for its key, in the accepted parameter set (R221, R223). -/
def blobSigned (bs : List Byte) : Bool :=
  num bs 176 4 == Config.xmssOid && Config.xmssVerify (cut bs 180 64) (bs.take 244) (bs.drop 244)

/-- The readers a grant names. -/
def blobReaders (bs : List Byte) : List (List Byte) := (List.range (num bs 32 1)).map fun i => cut bs (48 + 16 * i) 16

/-- A meter grant's fields are in range (R223). -/
def meterBlobOk (bs : List Byte) : Bool :=
  let n := num bs 32 1
  num bs 0 1 == 1 && zeros bs 1 3 && decide (1 ≤ n) && decide (n ≤ 8) && zeros bs 33 15 &&
  zeros bs (48 + 16 * n) (16 * (8 - n)) && num bs 16 16 == deviceId && blobSigned bs

/-- `GRANT` of kind 1 (R223, R224): the region's meter becomes usable by the context; the first grant binds its licensor.
A second one of a region to a context takes the place of the first (log entry 112). -/
def execMeterGrant (fn : Nat) (s : State) : Host.Outcome State Fault Refusal :=
  s.grantCommand fn false fun bs x =>
    let region := num bs 4 4
    let number := num bs 8 8
    let key := cut bs 180 64
    let r := s.rainfly
    let give := fun (ms : List Meter) =>
      let g : Grant := { ctx := x.num, region := region, number := number, readers := blobReaders bs }
      { s with rainfly := { r with meters := ms,
                                   grants := r.grants.filter (fun (q : Grant) => !(q.ctx == x.num && q.region == region)) ++ [g] }
        }.complete fn 0 []
    if !meterBlobOk bs then s.complete fn 1 []
    else
      match r.meters.find? fun m => m.region == region with
      | some m =>
        if m.key != key then s.complete fn 1 []
        else give (r.meters.map fun m => if m.region = region then { m with grant := number } else m)
      | none =>
        if 4096 ≤ r.meters.length then s.complete fn 8 []
        else give (r.meters ++ [{ region := region, value := 0, key := key, newest := none, grant := number }])

/-- `GRANT` of kind 2 (R223, R392): signed by the vendor root, fuses are blown up to its value. -/
def execCounterAdvance (fn : Nat) (s : State) : Host.Outcome State Fault Refusal :=
  s.grantCommand fn true fun bs _ =>
    let n := num bs 4 4
    if zeros bs 1 3 && decide (1 ≤ n) && decide (n ≤ 64) && zeros bs 8 168 && cut bs 180 64 == Config.vendorKey &&
        blobSigned bs then
      { s with rainfly := { s.rainfly with fuses := max s.rainfly.fuses n } }.complete fn 0 []
    else s.complete fn 1 []

-- Reading meters (R228).

/-- `METER_CKPT` (R228, R393): it completes when its record is in the NV store. -/
def execMeterCkpt (fn : Nat) (s : State) : Host.Outcome State Fault Refusal :=
  s.ctxCommand fn 12 [(16, 20), (24, 32)] (fun _ => true) fun k x =>
    let region := k.num 16 4
    if !s.rainfly.grants.any fun g => g.ctx == x.num && g.region == region then s.complete fn 2 []
    else if !s.leafLeft then s.complete fn 8 []
    else
      { s with cmds := s.cmds.map fun (c : CmdBlock) => if c.fn == fn && c.slot == k.slot then { c with running := true } else c
        }.requestCkpt region 2 (s.grantNo x.num region) (.command fn)

/-- The records `METER_READ` returns, in sequence order; the lowest number wanted bounds the region's newest record too (log entry
114). -/
def Rainfly.wanted (r : Rainfly) (region low : Nat) : List Ckpt :=
  let l := if region = 0xFFFFFFFF then r.ring
    else
      let mine := r.ring.filter fun k => k.region == region
      match (r.meters.find? fun m => m.region == region).bind fun m => m.newest with
      | some k => if mine.contains k then mine else k :: mine
      | none => mine
  l.filter fun k => decide (low ≤ k.seq)

/-- A record as it is exported: its body, its signature, zeros to 10,240 bytes.  A signature no longer kept is made again with
the next leaf, and is zeros when none is left (R228). -/
def Rainfly.exportRec (r : Rainfly) (k : Ckpt) : List Byte × Rainfly :=
  let p := match r.signed.find? fun g => g.1 == k.seq with
    | some g => (g.2, r)
    | none => if r.leaf < 2 ^ 40 then (Config.xmssSign r.leaf k.bytes, r.sign k) else ([], r)
  ((k.bytes ++ p.1 ++ List.replicate 10240 0).take 10240, p.2)

/-- A record may be exported (R227): its stamp has been waited for before it entered the NV store, but for one of cause 5, which waits
until every die's earliest exceeds its stamp (log entry 113). -/
def State.mayExport (s : State) (k : Ckpt) : Bool := k.cause != 5 || k.stamp == 0 || s.diesAbove k.stamp

/-- `METER_READ` (R227, R228): it waits until every record it returns may be exported. -/
def execMeterRead (fn : Nat) (s : State) : Host.Outcome State Fault Refusal :=
  s.ctxCommand fn 11 [(16, 20), (24, 48)] (fun _ => true) fun k _ =>
    let l := (s.rainfly.wanted (k.num 16 4) (k.num 24 8)).take (k.num 40 4)
    if !l.all s.mayExport then s
    else
    let p := l.zipIdx.foldl (fun (p : Memory × Rainfly) q =>
      let e := p.2.exportRec q.1
      (p.1.writeBytes (k.num 32 8 + 10240 * q.2) e.1, e.2)) (s.mem, s.rainfly)
    { s with mem := p.1, rainfly := p.2 }.complete fn 0 [(44, leBytes 4 l.length)]

-- Attestation (R231, R232).

/-- The statement body (R232); for a region without a record the number of its newest one is 0 (log entry 116), and the highest number
of the device counts records asked for and not yet in the NV store (log entry 129). -/
def State.statement (s : State) (ctx : Option Nat) (nonce : List Byte) : List Byte :=
  let r := s.rainfly
  let images : List Verified := match ctx with
    | some c => r.verified.filter fun v => v.ctx == c
    | none => []
  let held : List Grant := match ctx with
    | some c => sortBy (fun (a b : Grant) => decide (a.region ≤ b.region)) (r.grants.filter fun g => g.ctx == c)
    | none => []
  let newest := fun (region : Nat) => match (r.meters.find? fun m => m.region == region).bind fun m => m.newest with
    | some k => k.seq
    | none => 0
  [BitVec.ofNat 8 1, BitVec.ofNat 8 (ctx.getD 0xFF)] ++ leBytes 2 images.length ++ leBytes 2 held.length ++ leBytes 2 0 ++
  leBytes 16 deviceId ++ cut (Config.shake256 Config.rom) 0 64 ++ [BitVec.ofNat 8 r.fuses] ++ leBytes 7 0 ++ nonce ++
  leBytes 8 s.tb.earliest ++ leBytes 8 s.tb.latest ++ leBytes 8 r.seq ++
  (images.flatMap fun (v : Verified) => v.measure ++ v.signer ++ leBytes 4 v.secver ++ leBytes 12 0) ++
  held.flatMap fun (g : Grant) => leBytes 4 g.region ++ leBytes 4 0 ++ leBytes 8 g.number ++ leBytes 8 (s.meterVal g.region) ++
    leBytes 8 (newest g.region)

/-- Length of a statement with its signature (R232). -/
def State.statementLen (s : State) (ctx : Option Nat) : Nat :=
  match ctx with
  | some c =>
    152 + 96 * (s.rainfly.verified.filter fun v => v.ctx == c).length +
      32 * (s.rainfly.grants.filter fun g => g.ctx == c).length + Config.sigLen
  | none => 152 + Config.sigLen

/-- `ATTEST` (R231, R232, R393): refused with the length it needs when the buffer is short. -/
def execAttest (fn : Nat) (s : State) : Host.Outcome State Fault Refusal :=
  s.onCommand fn (· == 13) fun k =>
    let c := k.num 56 1
    if !k.clean [(16, 57), (60, 72)] || (c != 0xFF && decide (64 ≤ c)) then s.complete fn 1 []
    else
      let who := if c = 0xFF then none else some c
      let go := fun (_ : Unit) =>
        let n := s.statementLen who
        if k.num 64 8 < n then s.complete fn 1 [(60, leBytes 4 n)]
        else if !s.leafLeft then s.complete fn 8 []
        else
          let body := s.statement who (cut k.bytes 16 32)
          { s with mem := s.mem.writeBytes (k.num 48 8) (body ++ Config.xmssSign s.rainfly.leaf body)
                   rainfly := { s.rainfly with leaf := s.rainfly.leaf + 1 } }.complete fn 0 [(60, leBytes 4 n)]
      match who with
      | none => go ()
      | some c =>
        match s.ctx? c with
        | none => s.complete fn 2 []
        | some x =>
          if x.fn != fn then s.complete fn 2 []
          else
            match x.fatal with
            | some f => s.reportFatal fn x.num f
            | none => go ()

end Sys2Proof.Machine
end

