-- ==== Sys2Proof/Machine/Boot.lean ====
section
/-! DEFINITION. Power: the boot (R220, R229, R389, R394), the loss of the supply, the emergency stop (R388) and what leads to
it (R387, R390), and the temperatures that bound the pulses (R195, R387). -/

namespace Sys2Proof.Machine

/-- The meters in ascending region number (R229). -/
def Rainfly.byRegion (r : Rainfly) : List Meter := sortBy (fun (a b : Meter) => decide (a.region ≤ b.region)) r.meters

/-- What the NV store and the fuses keep without power (R10, R190, R220, R221, R228). -/
def Rainfly.nv (r : Rainfly) : Rainfly := { r with reqs := [], readers := [], asks := [], verified := [], grants := [] }

/-- The module without power (R388): contexts do not survive; the host's memory, its commands not yet begun and what it has
been told stay the host's. -/
def State.off (s : State) : State :=
  { State.reset with
    agenda := s.agenda, freeCtr := s.freeCtr, uid := s.uid
    mem := s.mem.filter fun c => decide (c.1 < regionSize)
    rainfly := s.rainfly.nv
    cmds := s.cmds.filter fun k => !k.running
    returned := s.returned, msix := s.msix }

/-- Cause-5 bodies of the first `n` regions in ascending number (R229), none when no leaf is left (R393). -/
def State.lastRecords (s : State) (n : Nat) : Rainfly :=
  if s.leafLeft then
    (s.rainfly.byRegion.take n).foldl (fun r m => r.writeNow s.tb m.region 5 m.grant m.value) s.rainfly
  else s.rainfly

/-- A stop (R388): the records, the stop cause, then no power. -/
def State.stopWith (s : State) (cause bodies : Nat) : State :=
  if s.running then { s with rainfly := { s.lastRecords bodies with lastStop := cause } }.off else s

/-- An emergency stop writes a record for every region (R388). -/
def State.emergency (s : State) (cause : Nat) : State := s.stopWith cause s.rainfly.meters.length

/-- `SUPPLY_LOSS` (R229, R388): the hold-up energy lasts for `bodies / 2` records; an odd argument is an ordinary power-down,
whose stop cause is 0 (log entry 98). -/
def execSupplyLoss (bodies : Nat) (s : State) : Host.Outcome State Fault Refusal :=
  .next (s.stopWith (if bodies % 2 = 1 then 0 else 4) (bodies / 2))

/-- `STACK_SILENCE` (R390): a usable stack has not acknowledged beats for 10 µs. -/
def execStackSilence (stack : Nat) (s : State) : Host.Outcome State Fault Refusal :=
  .next (if s.usable.contains stack then s.emergency 3 else s)

-- The boot.

/-- A cause-4 record of a value (R229), signed while a leaf is left (R228). -/
def Rainfly.record4 (r : Rainfly) (m : Meter) (v : Nat) : Rainfly :=
  let t := r.writeNow TimeBase.reset m.region 4 m.grant v
  match t.ring.getLast? with
  | some k => if t.leaf < 2 ^ 40 then t.sign k else t
  | none => t

/-- A meter resumes (R229, R394): at the value of a cause-5 record of the run that has ended, else 2^30 above its newest
record, with a record of cause 4.  A region without a record has counted from 0 (log entry 40). -/
def Rainfly.resume (r : Rainfly) (m : Meter) : Rainfly :=
  let at_ := fun (v : Nat) =>
    { r with meters := r.meters.map fun (k : Meter) => if k.region = m.region then { k with value := v } else k }
  let lost := fun (v : Nat) =>
    let v := min Config.ones64 (v + 2 ^ 30)
    (at_ v).record4 m v
  match m.newest with
  | some k => if k.cause = 5 ∧ r.bootSeq < k.seq then at_ k.value else lost k.value
  | none => lost 0

/-- The meters resume, and what is recorded from now on belongs to the run that begins. -/
def Rainfly.boot (r : Rainfly) : Rainfly :=
  let t := r.byRegion.foldl Rainfly.resume r
  { t with bootSeq := t.seq }

/-- A stack as the boot finds it (R18, R389). -/
def Stack.boot (f : BootStack) : Stack :=
  let ok := f.authOk && f.selfTest && decide (f.usync ≤ 6)
  { Stack.reset with fused := f.fused, excluded := !f.fused && !ok, powered := !f.fused && ok, usync := f.usync,
                     transit := f.transit }

/-- `POWER_UP` (R188, R193, R220, R229, R389): the stacks found, four of which the Z880 and three the Z860 has (R1), are
authenticated, tested and measured; E_max is set from the coolant conditions; t-hat counts from now; meters resume before any
context opens; the ports train (R16). -/
def execPowerUp (part : Nat) (found : List BootStack) (s : State) : Host.Outcome State Fault Refusal :=
  .next <|
    if s.running || !partOk part found then s
    else
      { s with
        part := part
        tb := TimeBase.reset
        stks := found.map Stack.boot
        rainfly := { s.rainfly.boot with emax := found.flatMap fun f => (List.range 4).map fun c => f.emax.getD c 0 }
        ports := (List.range 16).map fun p => Port.reset.train p
        running := true }

-- Temperatures.

def State.modHbm (s : State) (i : Nat) (f : Hbm → Hbm) : State := { s with hbms := s.hbms.modify i f }

/-- A limit with hysteresis: set at `on` or above, lifted below `off`. -/
def latched (old : Bool) (t on off : Nat) : Bool := if on ≤ t then true else if t < off then false else old

/-- `JUNCTION_TEMPERATURE` (R387): the heat cap of a hot stack, or an emergency stop. -/
def execJunctionTemperature (place : TempAt) (celsius : Nat) (s : State) : Host.Outcome State Fault Refusal :=
  .next <|
    match place with
    | .die k =>
      if !s.usable.contains k then s
      else if 115 ≤ celsius then s.emergency 1
      else s.modStack k fun (x : Stack) => { x with hotDie := latched x.hotDie celsius 105 100 }
    | .hbm i =>
      if !s.usable.contains (i / 2) then s
      else if 105 ≤ celsius then s.emergency 2
      else s.modHbm i fun (x : Hbm) => { x with cap := latched x.cap celsius 100 95 }

/-- `HBM_TEMPERATURE` (R186, R195): at or above 85 °C the stack's bit is set, which its return below that clears; the refresh rate
doubles with it and stays so until below 83 °C. -/
def execHbmTemperature (hbm celsius : Nat) (s : State) : Host.Outcome State Fault Refusal :=
  .next <|
    if !s.usable.contains (hbm / 2) then s
    else s.modHbm hbm fun (x : Hbm) => { x with hot := decide (85 ≤ celsius), fast := latched x.fast celsius 85 83 }

end Sys2Proof.Machine
end

