-- ==== Sys2Proof/Machine/TimePower.lean ====
section
/-! DEFINITION. Reference samples, sync beats (R175 to R181, R382), Bellows, the clock and the voltage (R183 to R189, R384),
current and its grants (R190 to R192, R385), heat (R193, R194, R343). -/

namespace Sys2Proof.Machine

-- Reference samples.

/-- The time base takes its interval from a new t-hat; the first sample sets the bounds directly (R178). -/
def TimeBase.take_ (t : TimeBase) (v uTs : Nat) : TimeBase :=
  let first := !t.accepted
  let t := { t with that := 1000 * v, refAge := 0, uTs := uTs, lastRej := false, accepted := true }
  if first then { t with earliest := lowBound t.that t.eps, latest := highBound t.that t.eps } else t.refresh

/-- A sample (in ns) that does not meet the interval of the I/O die (R382). -/
def TimeBase.rejects (t : TimeBase) (v u : Nat) : Bool := decide (v + u < t.earliest) || decide (t.latest + u < v)

/-- A reference sample (R175, R382): a `TIME_REF` that awaits its source takes effect first; a sample of a source neither in
force nor awaited is none. -/
def State.sample (s : State) (source v uTs : Nat) : State :=
  let s := match s.tb.awaited with
    | some a =>
      if a.source = source then
        { s with tb := { s.tb with source := some source, uHost := a.uHost, limit := a.limit, awaited := none }
                 stks := s.stks.map fun (k : Stack) => { k with limit := a.limit } }
      else s
    | none => s
  if s.tb.source != some source then s
  else if s.tb.rejects v (s.tb.uHost + uTs) then
    { s with tb := { s.tb with rejected := s.tb.rejected + 1, lastRej := true } }
  else { s with tb := s.tb.take_ v uTs }

/-- A source is in force or awaited (R176). -/
def TimeBase.seeks (t : TimeBase) (source : Nat) : Bool :=
  t.source == some source || (match t.awaited with
    | some a => a.source == source
    | none => false)

/-- `PTM_DIALOGUE` (R176): at most one every 125 ms of t-hat; `none` is a dialogue that fails or is not enabled. -/
def execPtmDialogue (master : Option Nat) (s : State) : Host.Outcome State Fault Refusal :=
  .next <|
    let due := match s.tb.dialogAge with
      | some a => decide (125 * 10 ^ 9 ≤ a)
      | none => true
    if !s.running || !s.tb.seeks 0 || !due then s
    else
      let s := { s with tb := { s.tb with dialogAge := some 0 } }
      match master with
      | some v => s.sample 0 v 8
      | none => s

/-- `PPS_EDGE` (R176): a sample when a good message came after the previous edge and the edge stands in its window; each edge is
the previous edge of the next. -/
def execPpsEdge (s : State) : Host.Outcome State Fault Refusal :=
  .next <|
    let t := s.tb
    if !s.running || !t.seeks 1 then s
    else
      let window := t.freshEdge || (match t.edgeAge with
        | some a => decide (9 * 10 ^ 11 ≤ a) && decide (a ≤ 11 * 10 ^ 11)
        | none => true)
      let v := match t.message with
        | some m => if window && (!t.freshEdge || decide (m.2 ≤ 11 * 10 ^ 11)) then some (m.1 * 10 ^ 9) else none
        | none => none
      let s := { s with tb := { t with edgeAge := some 0, freshEdge := false, message := none } }
      match v with
      | some v => s.sample 1 v 4
      | none => s

/-- CRC-16 with polynomial 0x1021 and initial value 0xFFFF, most significant bit first (R176). -/
def crc16 (bs : List Nat) : Nat :=
  bs.foldl (fun c b => (List.range 8).foldl (fun c _ =>
    if 2 ^ 15 ≤ c then (2 * c % 2 ^ 16) ^^^ 0x1021 else 2 * c) (c ^^^ (b * 256))) 0xFFFF

/-- A good message of the time-of-day input (R176). -/
def goodMessage (bs : List Nat) : Bool :=
  bs.length == 16 && bs.getD 0 0 == 0x5A && bs.getD 1 0 == 0x54 && bs.getD 2 0 == 1 && (bs.getD 3 0).bitAt 0 &&
  bs.getD 14 0 + 256 * bs.getD 15 0 == crc16 (bs.take 14)

/-- `TIME_OF_DAY_MESSAGE` (R176): the seconds of a good message are kept for the next edge. -/
def execTimeOfDayMessage (bytes : List Nat) (s : State) : Host.Outcome State Fault Refusal :=
  .next <|
    if s.running && s.tb.seeks 1 && goodMessage bytes then
      let secs := ((List.range 8).map fun i => bytes.getD (4 + i) 0 * 256 ^ i).sum
      { s with tb := { s.tb with message := some (secs, 0) } }
    else s

-- Beats.

/-- What a beat carries (R177, R181, R390): t-hat, age of the reference, u_host, u_ts, whether a sample has been accepted, every
die's earliest, and for every die whether it has not acknowledged the beat before. -/
def State.beat (s : State) : List Nat :=
  [s.tb.that, s.tb.refAge, s.tb.uHost, s.tb.uTs, s.tb.accepted.bit] ++ ((List.range 4).map fun i => (s.stack? i).earliest) ++
  (List.range 4).map fun i => ((s.stack? i).beats != []).bit

/-- `SYNC_BEAT` (R177): a beat sets out to every die. -/
def execSyncBeat (s : State) : Host.Outcome State Fault Refusal :=
  .next <|
    if s.running then
      { s with stks := s.stks.mapIdx fun i (k : Stack) =>
          if s.usable.contains i then { k with beats := k.beats ++ [s.beat] } else k }
    else s

/-- A controller's floors from a beat (R181); the floor of a silent stack stands (R390). -/
def Stack.newFloors (k : Stack) (b : List Nat) : List (Nat × Nat) :=
  ((b.drop 5).take 4).mapIdx fun i e => if b.getD (9 + i) 0 = 0 then (e, 0) else k.floors.getD i (0, 0)

/-- A die takes its t-hat from a beat that is as old as its transit (R177, R181). -/
def Stack.takeBeat (k : Stack) (b : List Nat) : Stack :=
  let late := 1000 * k.transit
  let known := b.getD 4 0 == 1
  let t := { k with that := b.getD 0 0 + late, refAge := b.getD 1 0 + late, beatAge := 0, uHost := b.getD 2 0,
                    uTs := b.getD 3 0, known := known, floors := k.newFloors b }
  if known && !k.known then { t with earliest := lowBound t.that t.eps, latest := highBound t.that t.eps } else t.refresh

/-- `BEAT_ARRIVAL` (R177, R181): the oldest beat under way reaches a die and its controllers. -/
def execBeatArrival (stack : Nat) (s : State) : Host.Outcome State Fault Refusal :=
  .next <| s.modStack stack fun (k : Stack) =>
    match k.beats with
    | [] => k
    | b :: r => { k.takeBeat b with beats := r }

-- Clock and voltage.

/-- Highest master clock in MHz at a level (R183). -/
def fMax (v : Nat) : Nat := 800 + 25 * (52 * v / 15)

/-- The lowest level for a master clock (R188). -/
def levelFor (mhz : Nat) : Nat := ((List.range 16).find? fun v => decide (mhz ≤ fMax v)).getD 15

/-- A droop detector of the die is active. -/
def State.drooping (s : State) (stack : Nat) : Bool := (List.range 4).any fun c => (s.cluster stack c).droop

/-- The clock chosen comes into force unless the voltage still rises or a droop holds it (R183, R384); a voltage above its level
falls afterwards. -/
def State.switch (s : State) (stack : Nat) : State :=
  let held := s.drooping stack
  s.modStack stack fun (k : Stack) =>
    match k.hop with
    | none => k
    | some h =>
      if held || k.raising then k
      else { k with mclk := h.1, hop := none, lower := if h.2 < k.vlevel then some h.2 else none }

/-- A voltage that is to fall falls, unless a droop holds it (R183, R384). -/
def State.fall (s : State) (stack : Nat) : State :=
  let held := s.drooping stack
  s.modStack stack fun (k : Stack) =>
    match k.lower with
    | none => k
    | some v => if held then k else { k with vlevel := v, lower := none }

/-- Bellows' choice replaces a pending one (R384): the voltage rises before the clock and falls after it (R183).  While the voltage
rises its level already reads as the new one (log entry 96). -/
def State.setting (s : State) (stack mhz : Nat) : State :=
  let v := levelFor mhz
  (s.modStack stack fun (k : Stack) =>
    let k := { k with hop := some (mhz, v), lower := none }
    if k.mclk < mhz then if k.vlevel < v then { k with vlevel := v, raising := true } else k
    else { k with raising := false }).switch stack

/-- `VOLTAGE_SETTLED` (R183): a voltage raised has settled and the clock rises, or, once the clock is lowered, the voltage falls; a
droop holds either (R384). -/
def execVoltageSettled (stack : Nat) (s : State) : Host.Outcome State Fault Refusal :=
  .next (((s.fall stack).modStack stack fun (k : Stack) => { k with raising := false }).switch stack)

/-- `DROOP_DETECT` (R185): the popcount is at most 4, and a hop not yet switched waits. -/
def execDroopDetect (stack cluster : Nat) (s : State) : Host.Outcome State Fault Refusal :=
  .next (s.modCluster stack cluster fun (k : Cluster) => { k with droop := true })

/-- `DROOP_CLEAR` (R185, R384): the limit lifts; what was held goes on. -/
def execDroopClear (stack cluster : Nat) (s : State) : Host.Outcome State Fault Refusal :=
  .next (((s.modCluster stack cluster fun (k : Cluster) => { k with droop := false }).fall stack).switch stack)

-- Bellows.

/-- The need of a step as a fraction of GHz, and whether its risk is due (R188). -/
def DStep.need (d : DStep) (latest : Nat) : (Nat × Nat) × Bool :=
  let r := d.expected - d.done
  let t := d.deadline - latest - 4000
  if r = 0 then ((0, 1), false)
  else if t = 0 then ((21, 10), true)
  else if d.done = 0 then ((21, 10), false)
  else ((r * d.cycles, d.done * t), false)

/-- The larger of two fractions. -/
def fracMax (a b : Nat × Nat) : Nat × Nat := if a.1 * b.2 < b.1 * a.2 then b else a

/-- The warps of placed blocks of a die, with their blocks. -/
def State.dieWarps (s : State) (stack : Nat) : List (Block × Warp) :=
  s.blocks.flatMap fun b => if b.stack == stack && b.status == .placed then b.warps.map fun w => (b, w) else []

/-- The needs of the open steps of a cluster (R188). -/
def State.needs (s : State) (stack cluster : Nat) : List (Nat × Nat) :=
  (s.dieWarps stack).filterMap fun p =>
    if p.2.core / 8 = cluster then (p.2.step.filter (·.isOpen)).map fun d => (d.need (s.stack? stack).latest).1 else none

/-- The lowest 25 MHz step at or above a floor in MHz and the needs, at most 2.1 GHz (R188). -/
def masterFor (floor : Nat) (needs : List (Nat × Nat)) : Nat :=
  let ok := fun (m : Nat) => decide (floor ≤ m) && needs.all fun n => decide (1000 * n.1 ≤ m * n.2)
  (((List.range 53).map fun i => 800 + 25 * i).find? ok).getD 2100

/-- The floor of a die in MHz (R188). -/
def State.floorMhz (s : State) (stack : Nat) : Nat :=
  (s.blocks.filter fun b => b.stack == stack && b.status == .placed).foldl (fun m b => max m (fMax b.rcd.power)) 800

/-- n_Bellows of a cluster (R188). -/
def bellowsCount (needs : List (Nat × Nat)) (master : Nat) : Nat :=
  match needs with
  | [] => 16
  | a :: r =>
    let n := r.foldl fracMax a
    min 16 (max 1 ((16000 * n.1 + master * n.2 - 1) / (master * n.2)))

/-- The heat cap in force on a cluster (R193, R387). -/
def State.heatCap (s : State) (stack cluster : Nat) : Nat :=
  if (s.stack? stack).hotDie || (s.hbms.getD (2 * stack) default).cap || (s.hbms.getD (2 * stack + 1) default).cap then 1
  else (s.cluster stack cluster).capHeat

/-- A step whose risk notice is raised now (R188): once per step. -/
def DStep.risky (d : DStep) (latest cap : Nat) : Bool :=
  let q := d.need latest
  d.isOpen && decide (d.done < d.expected) && !d.risk && (q.2 || decide (21 * cap * q.1.2 < 160 * q.1.1))

/-- Risk notices of a die (R188, R189): the flag is set, and the notice is due at the next pre-emption point. -/
def State.notices (s : State) (stack : Nat) : State :=
  let latest := (s.stack? stack).latest
  let cap := fun (c : Nat) => min (s.cluster stack c).capCur (s.heatCap stack c)
  { s with blocks := s.blocks.map fun b =>
      if b.stack == stack && b.status == .placed then
        { b with warps := b.warps.map fun (w : Warp) =>
            { w with step := w.step.map fun (d : DStep) =>
                if d.risky latest (cap (w.core / 8)) then { d with risk := true, due := true } else d } }
      else b }

/-- The heat allowance of a cluster in mJ (R193). -/
def State.allowance (s : State) (stack cluster : Nat) : Nat :=
  s.rainfly.emax.getD (4 * stack + cluster) 0 - (s.cluster stack cluster).energy

/-- The blocks of a hot cluster in the order R343 chooses them; what that leaves equal stays in the order of the block list
(log entry 124). -/
def State.hotBlocks (s : State) (stack cluster : Nat) : List Block :=
  let key := fun (b : Block) => s.saveSpace b b.allocs.length
  sortBy (fun (a b : Block) =>
    decide (key a < key b) || (key a == key b && (decide (a.ctx < b.ctx) || (a.ctx == b.ctx && decide (b.num ≤ a.num)))))
    (s.blocks.filter fun b => b.stack == stack && b.status == .placed && !b.draining &&
      b.allocs.any (fun a => a.core / 8 == cluster) && (match b.pre with
        | none => true
        | some p => match p.by_ with
          | .balancer _ => true
          | .command _ => false
          | .heat _ _ => false))

/-- Where a block of a hot cluster can go (R194, R343): lowest virtual die, then lowest cluster, with more than half of its heat
allowance and the room. -/
def State.coolSpot (s : State) (b : Block) (stack cluster : Nat) : Option (Nat × Nat) :=
  match s.ctx? b.ctx with
  | none => none
  | some x =>
    ((x.vdies.flatMap fun k => (List.range 4).map fun c => (k, c)).find? fun p =>
      p != (stack, cluster) && decide (s.rainfly.emax.getD (4 * p.1 + p.2) 0 < 2 * s.allowance p.1 p.2) &&
      (s.refit b.asSaved p.1 [p.2]).isSome)

/-- The heat rotation of one cluster (R194): the first of its blocks that has a place elsewhere is pre-empted for it (log entry
125). -/
def State.rotateHeat (s : State) (stack cluster : Nat) : State :=
  if 4 * s.allowance stack cluster < s.rainfly.emax.getD (4 * stack + cluster) 0 then
    match (s.hotBlocks stack cluster).findSome? fun b => (s.coolSpot b stack cluster).map fun p => (b.bid, p) with
    | some q => s.requestSave q.1 (.heat q.2.1 q.2.2)
    | none => s
  else s

/-- `BELLOWS_PERIOD` (R188, R189, R194): the setting from the needs, the notices, then the heat rotation. -/
def execBellowsPeriod (stack : Nat) (s : State) : Host.Outcome State Fault Refusal :=
  .next <|
    if !(s.stack? stack).powered then s
    else
      let needs := (List.range 4).map (s.needs stack)
      let master := masterFor (s.floorMhz stack) needs.flatten
      let s := s.notices stack
      let s := (List.range 4).foldl (fun s c => s.modCluster stack c fun (k : Cluster) =>
        { k with nBell := bellowsCount (needs.getD c []) master }) (s.setting stack master)
      (List.range 4).foldl (fun s c => s.rotateHeat stack c) s

-- Current.

/-- The grants held on a cluster, as levels (R190). -/
def State.grantsOn (s : State) (stack cluster : Nat) : List Nat :=
  (s.dieWarps stack).filterMap fun p => if p.2.core / 8 = cluster then p.2.grant else none

/-- The limit of a cluster in units of 2.5 A (R190), with further grants. -/
def State.limitWith (s : State) (stack cluster : Nat) (more : List Nat) : Nat :=
  match s.grantsOn stack cluster ++ more with
  | [] => s.rainfly.base.getD (4 * stack + cluster) 0
  | l => (l.map (· + 1)).sum

/-- `CURRENT_SENSE` (R192, R385): `draw` in units of 2.5 A. -/
def execCurrentSense (stack cluster draw : Nat) (s : State) : Host.Outcome State Fault Refusal :=
  .next <|
    if !(s.stack? stack).powered then s
    else if s.grantsOn stack cluster = [] then
      let base := s.rainfly.base.getD (4 * stack + cluster) 0
      s.modCluster stack cluster fun (k : Cluster) =>
        if base < draw then { k with capCur := max 1 (k.capCur - 1) }
        else if 10 * draw < 9 * base then { k with capCur := min 16 (k.capCur + 1) }
        else k
    else if s.limitWith stack cluster [] < draw then
      { s with blocks := s.blocks.map fun b =>
          if b.stack == stack && b.status == .placed then
            { b with warps := b.warps.map fun (w : Warp) =>
                if w.core / 8 = cluster ∧ w.grant.isSome then { w with overdraw := true } else w }
          else b }
    else s

/-- `pwacq` (R191): the grant held is released and the warp waits in arrival order. -/
def execPwacq (g : Guard) (a : Nat) (s : State) :=
  uniOp s (.pwacq g a) g fun c b w s =>
    (s.modWarp c.block c.warp fun x => { x with grant := none, asking := some ((w.sread a).toNat % 16) }).modStack b.stack
      fun (k : Stack) => { k with queue := k.queue ++ [(b.bid, w.num)] }

/-- `pwrel` (R191). -/
def execPwrel (g : Guard) (s : State) :=
  uniOp s (.pwrel g) g fun c _ _ s => s.modWarp c.block c.warp fun w => { w with grant := none, overdraw := false }

/-- The level a warp waits for, in `pwacq` or after a resume (R191); a warp that holds for a pre-emption has withdrawn its request
(R38, R39). -/
def Block.asks (b : Block) (w : Warp) : Option Nat :=
  if b.holds w || b.status != .placed then none
  else
    match w.asking with
    | some l => some l
    | none => w.regrant

/-- What the limits of a die's clusters can come to with further grants on one of them (R190): a cluster whose grants are
released has its base allowance again.  The base allowances of a die sum to at most B, so a grant that R250 does not refuse
fits once no other warp of the die holds one. -/
def State.limitSum (s : State) (stack cluster : Nat) (more : List Nat) : Nat :=
  ((List.range 4).map fun c => max (s.rainfly.base.getD (4 * stack + c) 0)
    (s.limitWith stack c (if c = cluster then more else []))).sum

/-- `GRANT_GIVEN` (R190, R191): the first warp in arrival order is granted once the limits fit in B; cap_current is then 16
(R192). -/
def execGrantGiven (stack : Nat) (s : State) : Host.Outcome State Fault Refusal :=
  .next <|
    let asking := (s.stack? stack).queue.filterMap fun q =>
      match s.block? q.1 with
      | none => none
      | some b => match b.warp? q.2 with
        | none => none
        | some w => (b.asks w).map fun l => (b.bid, w.num, w.core / 8, l)
    match asking with
    | [] => s
    | (bid, wn, cluster, l) :: _ =>
      if s.rainfly.budget.getD stack 0 < s.limitSum stack cluster [l] then s
      else
        let s := s.modWarp bid wn fun w => { w with grant := some l, regrant := none, asking := none }
        let s := s.modStack stack fun (k : Stack) => { k with queue := k.queue.erase (bid, wn) }
        s.modCluster stack cluster fun (k : Cluster) => { k with capCur := 16 }

-- Heat.

/-- `HEAT_INTEGRATION` (R193): `energy` is the energy of the last 10 ms in mJ. -/
def execHeatIntegration (stack cluster energy : Nat) (s : State) : Host.Outcome State Fault Refusal :=
  .next <|
    let emax := s.rainfly.emax.getD (4 * stack + cluster) 0
    s.modCluster stack cluster fun (k : Cluster) =>
      { k with energy := energy, capHeat := min 16 (max 1 ((160 * (emax - energy) + emax - 1) / emax)) }

end Sys2Proof.Machine
end

