-- ==== Sys2Proof/Machine/Lantern.lean ====
section
/-! DEFINITION. Lantern (R397 to R401): the host's writes to a page, warp samples; and the function-level reset (R373). -/

namespace Sys2Proof.Machine

def State.page (s : State) (fn : Nat) : Lantern := s.lantern.getD fn Lantern.reset

/-- A context is owned by a function. -/
def State.owns (s : State) (fn ctx : Nat) : Bool :=
  match s.ctx? ctx with
  | some x => x.fn == fn
  | none => false

/-- A write to a function's page (R397): accepted only while the context it names is the function's. -/
def State.pageWrite (s : State) (fn ctx : Nat) (f : Lantern → Lantern) : State :=
  if s.owns fn ctx then { s with lantern := s.lantern.modify fn f } else s

/-- The stop field without its reserved bits (R400). -/
def stopMask (v : Nat) : Nat :=
  v.field 62 2 * 2 ^ 62 + v.field 35 15 * 2 ^ 35 + v.field 0 32

/-- A write of the stop field: it replaces a stop that waits (R401), one for a warp that is away too. -/
def State.writeStop (s : State) (fn value : Nat) : State :=
  s.pageWrite fn (s.page fn).ctx fun l => { l with stop := stopMask value, issuer := none }

/-- A write of the release field (R401): 1 ends the stops in force. -/
def State.writeRelease (s : State) (fn value : Nat) : State :=
  if value.bitAt 0 && s.owns fn (s.page fn).ctx then
    (s.page fn).stopped.foldl (fun s k => s.modWarp k.1 k.2 fun w => { w with stopped := false })
      (s.pageWrite fn (s.page fn).ctx fun l => { l with stopped := [] })
  else s

/-- A write of 0 to a bin clears it (R397). -/
def State.clearBin (s : State) (fn e i : Nat) : State :=
  s.pageWrite fn (s.page fn).ctx fun l => { l with bins := l.bins.set e ((l.bins.getD e []).set i 0) }

/-- `LANTERN_STOP` (R400, R401). -/
def execLanternStop (fn value : Nat) (s : State) : Host.Outcome State Fault Refusal := .next (s.writeStop fn value)

/-- `LANTERN_RELEASE` (R401). -/
def execLanternRelease (fn value : Nat) (s : State) : Host.Outcome State Fault Refusal := .next (s.writeRelease fn value)

/-- `LANTERN_BINS_CLEAR` (R397). -/
def execLanternBinsClear (fn engine bin : Nat) (s : State) : Host.Outcome State Fault Refusal :=
  .next (s.clearBin fn engine bin)

/-- `LANTERN_PAGE_WRITE` (R397): the field at an offset; what is not listed is discarded. -/
def execLanternPageWrite (fn offset value : Nat) (s : State) : Host.Outcome State Fault Refusal :=
  .next <|
    let set := s.pageWrite fn (s.page fn).ctx
    if offset = 0x000 then
      s.pageWrite fn (value.field 0 6) fun l => { l with en := value.bitAt 8, ctx := value.field 0 6 }
    else if offset = 0x008 then set fun l => { l with period := value.field 0 21 }
    else if offset = 0x010 then set fun l => { l with buf := value }
    else if offset = 0x018 then set fun l => { l with size := value.field 0 32 }
    else if offset = 0x028 then s.writeStop fn value
    else if offset = 0x030 then s.writeRelease fn value
    else if 0x040 ≤ offset ∧ offset < 0x080 ∧ offset % 16 = 0 then
      set fun l => { l with pct := l.pct.set ((offset - 0x040) / 16) (value.field 0 8),
                            action := l.action.set ((offset - 0x040) / 16) (value.field 8 2) }
    else if 0x100 ≤ offset ∧ offset < 0x200 ∧ offset % 4 = 0 ∧ value.field 0 32 = 0 then
      s.clearBin fn ((offset - 0x100) / 64) ((offset - 0x100) % 64 / 4)
    else s

-- Samples.

/-- The next warp in rotation by slot after the one sampled last (R398). -/
def rotation (last : Option Nat) (ws : List (Block × Warp)) : Option (Block × Warp) :=
  let low := fun (l : List (Block × Warp)) => l.foldl (fun (o : Option (Block × Warp)) p => match o with
    | none => some p
    | some q => if p.2.slot < q.2.slot then some p else some q) none
  match last with
  | none => low ws
  | some k =>
    match low (ws.filter fun p => decide (k < p.2.slot)) with
    | some p => some p
    | none => low ws

/-- The 16 bytes of a sample (R398) of cycle `t`. -/
def State.sampleBytes (s : State) (b : Block) (w : Warp) (t : Nat) (mark : Bool) : List Byte :=
  let issued := w.lastIssue == (t : Int)
  let why := s.reasons b w t
  let reason := if issued then 0 else match why with
    | [] => 1
    | a :: r => r.foldl min a
  leBytes 4 w.pc ++ leBytes 1 (reason + 32 * issued.bit + 64 * w.handler.bit + 128 * mark.bit) ++ leBytes 1 w.slot ++
  leBytes 1 w.core ++ leBytes 1 (w.pitch + 4 * b.vdie) ++ leBytes 8 t

/-- `WARP_SAMPLE` (R398): one sample of a pitch, of the cycle the pitch acted in last. -/
def execWarpSample (stack core pitch fn : Nat) (s : State) : Host.Outcome State Fault Refusal :=
  .next <|
    let l := s.page fn
    let id := 4 * (32 * stack + core) + pitch
    let k := s.cluster stack (core / 8)
    let t := if 4 * (core % 8) + pitch < k.ptr then k.cycle else k.cycle - 1
    let last := (l.rotate.find? fun p => p.1 == id).map (·.2)
    if !l.en || decide (l.period < 64) || decide (1048576 < l.period) then s
    else
      match rotation last ((s.residents stack core pitch).filter fun p => p.1.ctx == l.ctx && !p.2.gone) with
      | none => s
      | some p =>
        { s.ringWrite fn (s.sampleBytes p.1 p.2 t (l.marks.contains id)) with
          lantern := (s.ringWrite fn (s.sampleBytes p.1 p.2 t (l.marks.contains id))).lantern.modify fn fun (l : Lantern) =>
            { l with marks := l.marks.erase id, rotate := (id, p.2.slot) :: l.rotate.filter fun q => q.1 != id } }

-- Function-level reset.

/-- `FUNCTION_LEVEL_RESET` (R373): the contexts of a function kept after a fatal error are freed, once nothing of them runs and
their checkpoints stand (R372). -/
def execFunctionLevelReset (fn : Nat) (s : State) : Host.Outcome State Fault Refusal :=
  .next ((s.contexts.filter fun x => x.fn == fn && x.fatal.isSome).foldl (fun s x =>
    if s.ctxBusy x.num then s else if s.fatalKept x.num then s.endCtx x.num else s.fatalStep x.num) s)

end Sys2Proof.Machine
end

