-- ==== Sys2Proof/Machine/Fabric.lean ====
section
/-! DEFINITION. What a peer port receives (R16, R202): training, credits and replay, the service of a peer's requests, the
answers to this module's requests, retraining and the loss of a route. -/

namespace Sys2Proof.Machine

-- Flits.

/-- A flit that is of no use: a link error. -/
def Port.error (x : Port) : Port := { x with errors := x.errors + 1 }

/-- The last good packet named again, once, with a nak (R16). -/
def Port.nak (x : Port) (now : Nat) : Port :=
  { x with gap := true, errors := x.errors + 1, naks := x.naks + 1, nakTimes := x.nakTimes ++ [now],
           out := x.out ++ [ackFlit x.rxSeq true 0] }

/-- A flit of a kind has come to a port that is not down (R16).  After a header the next flits are its data, whatever their
bits; while a port trains, only hellos count, three in a row, and an unassigned kind is a link error as ever. -/
def State.arrives (s : State) (p flit : Nat) (mine : Bool) (data f : State → State) : Host.Outcome State Fault Refusal :=
  .next <|
    let x := s.port p
    if !s.running || decide (16 ≤ p) || x.state == 0 then s
    else
      let t := s.modPort p fun (x : Port) => { x with lastIn := s.tb.that }
      if x.header.isSome then data t
      else if !mine then s
      else if x.state == 2 then f t
      else if flit.field 252 4 == 1 then f t
      else t.modPort p fun (x : Port) =>
        { x with hellosIn := 0, errors := if 5 ≤ flit.field 252 4 then x.errors + 1 else x.errors }

-- Service of a peer's requests (R202).

/-- The frame entry a request names, or the status that refuses it: 5 not exported, 2 bounds, 1 rights, 3 not resident.  More than
128 bytes, which no request may ask (R16), are out of bounds (log entry 107). -/
def State.served (s : State) (h : Head) (n : Nat) (writes : Bool) : Except Nat Nat :=
  match s.tensor? h.table with
  | none => .error 5
  | some t =>
    if !t.export_ || !t.bound then .error 5
    else
      match t.entries[h.tile]? with
      | none => .error 2
      | some e =>
        if 65536 < h.offset + n || 128 < n then .error 2
        else if writes && !e.writable then .error 1
        else if !e.resident then .error 3
        else .ok (65536 * h.tile + h.offset)

/-- An answer leaves by the port its request came on. -/
def State.answer (s : State) (p : Nat) (h : Head) (op status : Nat) (bs : List Byte) : State :=
  let r : Head := { (default : Head) with op := op, src := s.ownPeer, dst := h.src, tag := h.tag, count := h.count,
                                          status := status }
  s.modPort p fun x => x.send r (dataFlits bs)

/-- The bytes of a payload. -/
def payloadBytes (body : List Nat) : List Byte := body.flatMap (leBytes 32)

/-- Types and operations of an atomic packet (R299). -/
def atomOfCode : Nat → Option AtomOp
  | 0 => some .add
  | 1 => some .min
  | 2 => some .max
  | 3 => some .and
  | 4 => some .or
  | 5 => some .xor
  | 6 => some .exch
  | 7 => some .cas
  | 8 => some .fadd
  | _ => none
def ityOfCode : Nat → ITy
  | 0 => .i64
  | 1 => .n64
  | 2 => .i32
  | _ => .n32

/-- A read served. -/
def State.serveRead (s : State) (p : Nat) (h : Head) : State :=
  let n := h.count + 1
  match s.served h n false with
  | .error e => s.answer p h 2 e []
  | .ok off =>
    let q := s.lookup none 0 [] (s.tensorAddr h.table off) n
    q.2.answer p h 2 0 q.1

/-- A write served; a stamped line refuses it (R160).  Of a payload shorter than its count asks, the bytes that came are written
(log entry 107). -/
def State.serveWrite (s : State) (p : Nat) (h : Head) (body : List Nat) : State :=
  let n := h.count + 1
  match s.served h n true with
  | .error e => s.answer p h 4 e []
  | .ok off =>
    if s.isStamped (s.tensorAddr h.table off) n then s.answer p h 4 1 []
    else (s.writeHome (s.tensorAddr h.table off) ((payloadBytes body).take n)).answer p h 4 0 []

/-- The instance of a scope of a peer (R144): another package is no context of this one. -/
def peerScope (h : Head) : ScopeTag :=
  { line := 0, scope := h.scope, ctx := 64 + h.src, block := 0, warp := 0, place := 0 }

/-- An atomic served (R158, R299, R300); operand bytes that did not come read 0 (log entry 107). -/
def State.serveAtomic (s : State) (p : Nat) (h : Head) (body : List Nat) : State :=
  match atomOfCode h.aop with
  | none => s.modPort p Port.error
  | some op =>
    let ty := ityOfCode h.atype
    let n := ty.width / 8
    match s.served h n true with
    | .error e => s.answer p h 6 e []
    | .ok off =>
      let bs := payloadBytes body
      match s.atomAt none 0 [] h.table off op ty (BitVec.ofNat 64 (leNat (bs.take n)))
          (BitVec.ofNat 64 (leNat ((bs.drop n).take n))) (peerScope h) State.writeHome with
      | .error cause => s.answer p h 6 (if cause = 0x24 then 1 else 4) []
      | .ok q => q.2.2.answer p h 6 0 q.1

-- Answers to this module's requests.

/-- The request an answer ends: its tag, and the answer's op follows from the request's. -/
def State.asked (s : State) (h : Head) : Option PeerReq :=
  s.peerReqs.find? fun q => q.tag == h.tag && (Head.ofFlit q.head).op + 1 == h.op

/-- The lane cause of a status (R202). -/
def statusCause (st : Nat) : Nat := if st = 2 then 0x20 else if st = 4 then 0x30 else 0x22

/-- A context ends for a lane of a request (R372, R373). -/
def State.fatalLane (s : State) (r : Req) (a : LaneAcc) (code : Nat) : State :=
  match s.block? r.block with
  | none => s
  | some b =>
    match b.warp? r.warp with
    | none => s
    | some w =>
      let t : TrapInfo := { (default : TrapInfo) with slot := 7, rcd := r.rec_, lane := a.lane, hpc := r.offset,
                                                      c0 := a.c0, c1 := a.c1 }
      s.fatalCtx b.ctx (fatalOf b w code 0 t)

/-- A context ends for a drain packet of a warp's fence, drain or releasing atomic, an M slot operation whose word's token stands at
`offset` (R372, R373); the packet belongs to no record and no lane (log entry 115). -/
def State.fatalWarp (s : State) (bid wn offset code : Nat) : State :=
  match s.block? bid with
  | none => s
  | some b =>
    match b.warp? wn with
    | none => s
    | some w =>
      let t : TrapInfo := { (default : TrapInfo) with slot := 7, rcd := 0xFFFF, lane := 0xFF, hpc := offset }
      s.fatalCtx b.ctx (fatalOf b w code 0 t)

/-- A context ends for an engine operation at a box (R372, R373): 0 and 3 its destination, 1 and 2 its sources. -/
def State.fatalOp (s : State) (o : EngOp) (box code : Nat) : State :=
  match s.block? o.block with
  | none => s
  | some b =>
    match b.warp? o.warp with
    | none => s
    | some w =>
      let x := (if box = 1 then o.srcA else if box = 2 then o.srcB else o.dst).getD default
      s.fatalCtx b.ctx (fatalOf b w code 0 (o.info x))

/-- An answer reaches a lane (R202). -/
def State.answerLane (s : State) (r : Req) (a : LaneAcc) (status : Nat) (bs : List Byte) : State :=
  let done := fun (s : State) => s.endLanes r [a.lane]
  if status = 0 then
    match r.kind with
    | .load d wd sx => done (s.give r d a.lane (loadWords wd sx (bs.take a.bytes)))
    | .atom d _ ty _ _ => done (s.give r d a.lane (loadWords (if ty.is64 then .b64 else .b32) false (bs.take a.bytes)))
    | .store => done s
    | .ldas _ _ _ _ _ _ => done s
    | .qput _ _ _ => done s
    | .qget _ _ _ => done s
  else if status = 3 then done (s.fatalLane r a 0x85)
  else done (s.lateFault r a (statusCause status))

/-- An answer reaches an engine operation: bytes it does not bring are free (log entry 7). -/
def State.answerEngine (s : State) (o : EngOp) (box off n status : Nat) (bs : List Byte) : State :=
  let s := if status = 3 then s.fatalOp o box 0x85 else s
  if box = 0 then s
  else
    let p := if status = 0 then (bs.take n, s) else s.freeBytes n
    p.2.modOp o.id fun (o : EngOp) => { o with image := o.image ++ p.1.mapIdx fun i v => (2 ^ 64 * box + off + i, v) }

/-- An answer (R16, R202): its request ends.  One whose status is not assigned, or that answers nothing, has no effect. -/
def State.answered (s : State) (h : Head) (bs : List Byte) : State :=
  if 5 < h.status then s
  else
    match s.asked h with
    | none => s
    | some q =>
      let s := s.dropReq q.tag
      match q.who with
      | .lane id lane =>
        (match s.reqs.find? fun r => r.id == id with
          | some r => (match r.lanes.find? fun a => a.lane == lane with
            | some a => s.answerLane r a h.status bs
            | none => s)
          | none => s)
      | .engine id box off n =>
        (match s.op? id with
          | some o => s.answerEngine o box off n h.status bs
          | none => s)
      | .drain block warp _ => s.modWarp block warp fun (w : Warp) => { w with drains := w.drains - 1 }

-- Packets.

/-- What an accepted packet does; an op that is not assigned is a link error.  Its dst is not looked at: a packet that arrives is
served whatever peer number it names (log entry 107). -/
def State.perform (s : State) (p : Nat) (h : Head) (body : List Nat) : State :=
  if h.op = 1 then s.serveRead p h
  else if h.op = 3 then s.serveWrite p h body
  else if h.op = 5 then s.serveAtomic p h body
  else if h.op = 7 then s.answer p h 8 0 []
  else if h.op = 2 ∨ h.op = 4 ∨ h.op = 6 ∨ h.op = 8 then s.answered h (payloadBytes body)
  else s.modPort p Port.error

/-- A whole packet (R16): accepted in sequence with a good checksum, acknowledged with its credit; else it and what follows is
discarded until the replay, of which a bad checksum is answered with a nak again.  A packet already received is naked as a gap
(log entry 91). -/
def State.packet (s : State) (p head : Nat) (body : List Nat) : State :=
  let x := s.port p
  let good := crcOk head body && head.field 232 12 == (x.rxSeq + 1) % 4096
  if good then
    (s.modPort p fun (x : Port) =>
      { x with rxSeq := head.field 232 12, gap := false, out := x.out ++ [ackFlit (head.field 232 12) false 1] }).perform p
        (Head.ofFlit head) body
  else if x.gap && crcOk head body then s
  else s.modPort p fun x => x.nak s.tb.that

/-- A header: its packet is whole, or its data flits follow.  Its reserved bits are not looked at (log entry 107). -/
def State.headerIn (s : State) (p flit : Nat) : State :=
  let n := flit.field 245 3
  if n = 0 then s.packet p flit []
  else if 4 < n then s.modPort p fun x => x.nak s.tb.that
  else s.modPort p fun (x : Port) => { x with header := some flit, payload := [] }

/-- A data flit of the packet under way. -/
def State.dataIn (s : State) (p flit : Nat) : State :=
  let x := s.port p
  match x.header with
  | none => s.modPort p Port.error
  | some h =>
    let body := x.payload ++ [flit % 2 ^ 256]
    if body.length < h.field 245 3 then s.modPort p fun (x : Port) => { x with payload := body }
    else (s.modPort p fun (x : Port) => { x with header := none, payload := [] }).packet p h body

/-- A header flit of an op. -/
def isHead (flit op : Nat) : Bool := flit.field 252 4 == 2 && flit.field 248 4 == op

-- The steps.

/-- A hello whose fields are as R16 gives them. -/
def helloOk (flit : Nat) : Bool :=
  flit.field 248 4 == 1 && flit.field 240 4 == 0 && flit.field 32 80 == 0 && crcOk flit []

/-- `HELLO` (R16): the third valid one in a row brings the port up. -/
def execHello (port flit : Nat) (s : State) : Host.Outcome State Fault Refusal :=
  s.arrives port flit (flit.field 252 4 == 1) (fun s => s.dataIn port flit) fun s =>
    let x := s.port port
    if x.state != 1 then s
    else if !helloOk flit then s.modPort port fun (x : Port) => { x with hellosIn := 0 }
    else
      let t := s.modPort port fun (x : Port) =>
        { x with hellosIn := x.hellosIn + 1, partner := flit.field 244 4, partnerDev := flit.field 112 128 }
      if 3 ≤ x.hellosIn + 1 ∧ 3 ≤ x.hellosOut then (t.modPort port Port.up).resend else t

/-- `IDLE_FLIT` (R16); its other bits are not looked at (log entry 107). -/
def execIdleFlit (port flit : Nat) (s : State) : Host.Outcome State Fault Refusal :=
  s.arrives port flit (flit.field 252 4 == 0) (fun s => s.dataIn port flit) fun s => s

/-- `DATA_FLIT` (R16): without a header before it, a link error. -/
def execDataFlit (port flit : Nat) (s : State) : Host.Outcome State Fault Refusal :=
  s.arrives port flit (flit.field 252 4 == 3) (fun s => s.dataIn port flit) fun s => s.modPort port Port.error

/-- `ACK` (R16): credits return, and a nak has the packets after the named one sent again.  One with a bad checksum is a link error
and is not answered; reserved bits are not looked at (log entry 107). -/
def execAck (port flit : Nat) (s : State) : Host.Outcome State Fault Refusal :=
  s.arrives port flit (flit.field 252 4 == 4) (fun s => s.dataIn port flit) fun s =>
    if !crcOk flit [] then s.modPort port Port.error
    else s.modPort port fun (x : Port) =>
      Port.flush { x with acked := flit.field 232 12, credits := x.credits + flit.field 208 12,
                          out := if flit.bitAt 231 then x.out ++ (x.after (flit.field 232 12)).flatten else x.out }

/-- `UNASSIGNED_FLIT` (R16): kinds 5 to 15 are discarded and counted; a header of an op not assigned is a packet without
effect, counted too. -/
def execUnassignedFlit (port flit : Nat) (s : State) : Host.Outcome State Fault Refusal :=
  let head := flit.field 252 4 == 2 && (flit.field 248 4 == 0 || decide (9 ≤ flit.field 248 4))
  s.arrives port flit (decide (5 ≤ flit.field 252 4) || head) (fun s => s.dataIn port flit) fun s =>
    if head then s.headerIn port flit else s.modPort port Port.error

/-- `PEER_READ` (R202): served and answered with read data. -/
def execPeerRead (port flit : Nat) (s : State) : Host.Outcome State Fault Refusal :=
  s.arrives port flit (isHead flit 1) (fun s => s.dataIn port flit) fun s => s.headerIn port flit

/-- `PEER_READ_DATA` (R202): the answer to a read, whole with its last data flit. -/
def execPeerReadData (port flit : Nat) (s : State) : Host.Outcome State Fault Refusal :=
  s.arrives port flit (isHead flit 2) (fun s => s.dataIn port flit) fun s => s.headerIn port flit

/-- `PEER_WRITE` (R202): served with its last data flit and answered with write done. -/
def execPeerWrite (port flit : Nat) (s : State) : Host.Outcome State Fault Refusal :=
  s.arrives port flit (isHead flit 3) (fun s => s.dataIn port flit) fun s => s.headerIn port flit

/-- `PEER_WRITE_DONE` (R202): the answer to a write. -/
def execPeerWriteDone (port flit : Nat) (s : State) : Host.Outcome State Fault Refusal :=
  s.arrives port flit (isHead flit 4) (fun s => s.dataIn port flit) fun s => s.headerIn port flit

/-- `PEER_ATOMIC` (R158, R202): checked, performed and answered with its last data flit. -/
def execPeerAtomic (port flit : Nat) (s : State) : Host.Outcome State Fault Refusal :=
  s.arrives port flit (isHead flit 5) (fun s => s.dataIn port flit) fun s => s.headerIn port flit

/-- `PEER_ATOMIC_RESULT` (R202): the answer to an atomic. -/
def execPeerAtomicResult (port flit : Nat) (s : State) : Host.Outcome State Fault Refusal :=
  s.arrives port flit (isHead flit 6) (fun s => s.dataIn port flit) fun s => s.headerIn port flit

/-- `PEER_DRAIN` (R16): every earlier request on the port has performed, so drain done is the answer. -/
def execPeerDrain (port flit : Nat) (s : State) : Host.Outcome State Fault Refusal :=
  s.arrives port flit (isHead flit 7) (fun s => s.dataIn port flit) fun s => s.headerIn port flit

/-- `PEER_DRAIN_DONE` (R16): the fabric part of a fence or drain. -/
def execPeerDrainDone (port flit : Nat) (s : State) : Host.Outcome State Fault Refusal :=
  s.arrives port flit (isHead flit 8) (fun s => s.dataIn port flit) fun s => s.headerIn port flit

/-- A port that must retrain (R16): 16 naks within 1 ms, or nothing received for 100 µs, both by the t-hat
of the I/O die (log entry 92). -/
def Port.sick (x : Port) (now : Nat) : Bool :=
  decide (16 ≤ (x.nakTimes.filter fun t => decide (now ≤ t + 10 ^ 9)).length) || decide (x.lastIn + 10 ^ 8 ≤ now)

/-- `PORT_RETRAIN` (R16): the port trains again; requests whose route has lost its last port begin to wait for one. -/
def execPortRetrain (port : Nat) (s : State) : Host.Outcome State Fault Refusal :=
  .next <|
    if (s.port port).state != 2 || decide (16 ≤ port) || !(s.port port).sick s.tb.that then s
    else
      let t := s.modPort port fun x => { x.train port with retrains := x.retrains + 1 }
      let up := fun (s : State) (q : PeerReq) => (s.portFor q.path.mask q.path.device).isSome
      { t with peerReqs := t.peerReqs.map fun (q : PeerReq) =>
          if up s q && !up t q then { q with since := s.coreThat q.core } else q }

/-- `PEER_ROUTE_LOSS` (R16, R372): no port of a request's entry has been up for 1 ms of the t-hat of its core's die
(R182); its context ends. -/
def execPeerRouteLoss (id : Nat) (s : State) : Host.Outcome State Fault Refusal :=
  .next <|
    match s.peerReqs.find? fun q => q.tag == id with
    | none => s
    | some q =>
      if (s.portFor q.path.mask q.path.device).isSome || decide (s.coreThat q.core < q.since + 10 ^ 9) then s
      else
        let s := s.dropReq id
        match q.who with
        | .lane rid lane =>
          (match s.reqs.find? fun r => r.id == rid with
            | some r => (match r.lanes.find? fun a => a.lane == lane with
              | some a => (s.fatalLane r a 0x87).endLanes r [lane]
              | none => s)
            | none => s)
        | .engine op box off n =>
          (match s.op? op with
            | some o => (s.fatalOp o box 0x87).answerEngine o box off n 1 []
            | none => s)
        | .drain block warp offset =>
          (s.fatalWarp block warp offset 0x87).modWarp block warp fun (w : Warp) => { w with drains := w.drains - 1 }

end Sys2Proof.Machine
end

