-- ==== Sys2Proof/Machine/Special.lean ====
section
/-! DEFINITION. The special functions of the X slot (R282): the exact result rounded once to nearest-even in FP32.
A reciprocal and a reciprocal root are decided exactly.  The others are enclosed between two fixed-point numbers of 256
fraction bits; when both round to one FP32 value, that is the correctly rounded result, and no result of an FP32 argument
lies so near a midpoint of two FP32 values, without being one, that they do not (log entry 86). -/

namespace Sys2Proof.Machine

/-- A real number between `lo` and `hi`, in units of 2^-256. -/
structure Iv where
  lo : Int
  hi : Int
  deriving DecidableEq, Repr

/-- Fraction bits. -/
def ivP : Nat := 256
def ivOne : Int := 2 ^ ivP

/-- An enclosure of a nonnegative fraction. -/
def Iv.ofFrac (n d : Nat) : Iv := ⟨(n * 2 ^ ivP / d : Nat), (n * 2 ^ ivP / d : Nat) + 1⟩
def Iv.sub (a b : Iv) : Iv := ⟨a.lo - b.hi, a.hi - b.lo⟩
def Iv.add (a b : Iv) : Iv := ⟨a.lo + b.lo, a.hi + b.hi⟩
/-- Product of nonnegative enclosures. -/
def Iv.mul (a b : Iv) : Iv := ⟨max 0 a.lo * max 0 b.lo / ivOne, a.hi * b.hi / ivOne + 1⟩
def Iv.divNat (a : Iv) (n : Nat) : Iv := ⟨a.lo / n, a.hi / n + 1⟩
/-- Quotient of nonnegative enclosures, the divisor positive. -/
def Iv.div (a b : Iv) : Iv := ⟨max 0 a.lo * ivOne / b.hi, a.hi * ivOne / b.lo + 1⟩
/-- An enclosure made wider by a bound on what was left out. -/
def Iv.widen (a : Iv) (e : Nat) : Iv := ⟨a.lo - e, a.hi + e⟩

/-- ln 2 = Σ 1/(k 2^k), k from 1 to n; the rest is below one unit for n ≥ 256. -/
def ln2Sum : Nat → Int
  | 0 => 0
  | k + 1 => ln2Sum k + ivOne / ((k + 1) * 2 ^ (k + 1) : Nat)
def ivLn2 : Iv := ⟨ln2Sum 260, ln2Sum 260 + 262⟩

/-- Σ (-1)^k / ((2k+1) q^(2k+1)), k below n. -/
def atanSum (q : Nat) : Nat → Int
  | 0 => 0
  | k + 1 =>
    let t : Int := ivOne / ((2 * k + 1) * q ^ (2 * k + 1) : Nat)
    if k % 2 = 0 then atanSum q k + t else atanSum q k - t
/-- π = 16 atan(1/5) − 4 atan(1/239). -/
def ivPi : Iv :=
  let a := 16 * atanSum 5 120 - 4 * atanSum 239 40
  ⟨a - 4000, a + 4000⟩

/-- e^y for 0 ≤ y ≤ 1: 1 + y/i (1 + y/(i+1) (…)), from the innermost of n factors outward. -/
def expHorner (y : Iv) : Nat → Nat → Iv
  | _, 0 => ⟨ivOne, ivOne⟩
  | i, n + 1 => Iv.add ⟨ivOne, ivOne⟩ (Iv.mul (y.divNat i) (expHorner y (i + 1) n))
def ivExp (y : Iv) : Iv := (expHorner y 1 80).widen 16

/-- sin y for 0 ≤ y ≤ 1.6: y (1 − y²/(2·3) (1 − y²/(4·5) (…))). -/
def sinHorner (y2 : Iv) : Nat → Nat → Iv
  | _, 0 => ⟨ivOne, ivOne⟩
  | i, n + 1 => Iv.sub ⟨ivOne, ivOne⟩ (Iv.mul (y2.divNat (2 * i * (2 * i + 1))) (sinHorner y2 (i + 1) n))
def ivSin (y : Iv) : Iv := (Iv.mul y (sinHorner (Iv.mul y y) 1 50)).widen 16

/-- atanh z = z (1 + z² (1/3 + z² (1/5 + …))) for 0 ≤ z ≤ 1/3. -/
def atanhHorner (z2 : Iv) : Nat → Nat → Iv
  | _, 0 => ⟨0, 0⟩
  | i, n + 1 => Iv.add (Iv.ofFrac 1 (2 * i + 1)) (Iv.mul z2 (atanhHorner z2 (i + 1) n))
def ivAtanh (z : Iv) : Iv := (Iv.mul z (atanhHorner (Iv.mul z z) 0 90)).widen 16

/-- The FP32 value both ends of a nonnegative enclosure times 2^k round to.  Ends on the two sides of a midpoint enclose the
midpoint, and of the two neighbours the even one is its rounding (log entry 86). -/
def roundIv (neg : Bool) (a : Iv) (k : Int) : Word32 :=
  let r := fun (x : Int) => roundFp32 .rn ((XVal.fin neg x.toNat (2 ^ ivP)).scale2 k)
  if r a.lo = r a.hi || (r a.lo).toNat % 2 = 0 then r a.lo else r a.hi

/-- An FP32 value of 0, 1 or −1. -/
def fpZero (neg : Bool) : Word32 := if neg then 0x80000000 else 0
def fpOne (neg : Bool) : Word32 := if neg then 0xBF800000 else 0x3F800000
def fpInf (neg : Bool) : Word32 := if neg then 0xFF800000 else 0x7F800000

/-- 1/A. -/
def fpRcp (a : Word32) : Word32 :=
  match fp32Value a with
  | .nan => canonNan
  | .inf neg => fpZero neg
  | .fin neg n d => if n = 0 then fpInf neg else roundFp32 .rn (.fin neg d n)

/-- 1/√A: the root of d/n to 200 fraction bits beyond the scale of the quotient, with a sticky half unit. -/
def fpRsq (a : Word32) : Word32 :=
  match fp32Value a with
  | .nan => canonNan
  | .inf neg => if neg then canonNan else 0
  | .fin neg n d =>
    if n = 0 then fpInf neg
    else if neg then canonNan
    else
      let q := d * 2 ^ 700 / n
      let r := Nat.sqrt q
      roundFp32 .rn (if r * r * n = d * 2 ^ 700 then .fin false r (2 ^ 350) else .fin false (2 * r + 1) (2 ^ 351))

/-- 2^A. -/
def fpExp2 (a : Word32) : Word32 :=
  match fp32Value a with
  | .nan => canonNan
  | .inf neg => (if neg then 0 else fpInf false)
  | .fin neg n d =>
    if 200 * d ≤ n then (if neg then 0 else fpInf false)
    else
      let x : Int := if neg then -(n : Int) else n
      let k := x / d
      let f := x % d
      if f = 0 then (roundFp32 .rn ((XVal.fin false 1 1).scale2 k))
      else roundIv false (ivExp (Iv.mul (Iv.ofFrac f.toNat d) ivLn2)) k

/-- log2 A. -/
def fpLog2 (a : Word32) : Word32 :=
  match fp32Value a with
  | .nan => canonNan
  | .inf neg => (if neg then canonNan else fpInf false)
  | .fin neg n d =>
    if n = 0 then (fpInf true)
    else if neg then canonNan
    else
      let k := floorLog n d
      let num := if 0 ≤ k then n else n * 2 ^ (-k).toNat
      let den := if 0 ≤ k then d * 2 ^ k.toNat else d
      if num = den then (roundFp32 .rn (.ofInt k))
      else
        -- log2 = k + 2 atanh((num − den)/(num + den)) / ln 2
        let l := Iv.div (Iv.mul ⟨2 * ivOne, 2 * ivOne⟩ (ivAtanh (Iv.ofFrac (num - den) (num + den)))) ivLn2
        let s := Iv.add ⟨k * ivOne, k * ivOne⟩ l
        if 0 ≤ k then roundIv false s 0 else roundIv true ⟨-s.hi, -s.lo⟩ 0

/-- sin(π n/d) for a magnitude n/d below 1, given as an enclosure. -/
def ivSinPi (n d : Nat) : Iv :=
  let m := if 2 * n ≤ d then n else d - n
  ivSin (Iv.mul ivPi (Iv.ofFrac m d))

/-- sin(π A). -/
def fpSin (a : Word32) : Word32 :=
  match fp32Value a with
  | .nan => canonNan
  | .inf _ => canonNan
  | .fin neg n d =>
    if n % d = 0 then (fpZero neg)
    else roundIv (neg != ((n / d) % 2 == 1)) (ivSinPi (n % d) d) 0

/-- cos(π A). -/
def fpCos (a : Word32) : Word32 :=
  match fp32Value a with
  | .nan => canonNan
  | .inf _ => canonNan
  | .fin _ n d =>
    let odd := (n / d) % 2 == 1
    let r := n % d
    if r = 0 then (fpOne odd)
    else if 2 * r = d then 0
    else if 2 * r < d then roundIv odd (ivSinPi (d - 2 * r) (2 * d)) 0
    else roundIv (!odd) (ivSinPi (2 * r - d) (2 * d)) 0

/-- tanh A = (1 − u)/(1 + u) with u = e^(−2|A|) = 1/(e^(|A|/32))^64. -/
def fpTanh (a : Word32) : Word32 :=
  match fp32Value a with
  | .nan => canonNan
  | .inf neg => (fpOne neg)
  | .fin neg n d =>
    if n = 0 then (fpZero neg)
    else if 16 * d ≤ n then (fpOne neg)
    else
      let e := ivExp (Iv.ofFrac n (32 * d))
      let e2 := Iv.mul e e
      let e4 := Iv.mul e2 e2
      let e8 := Iv.mul e4 e4
      let e16 := Iv.mul e8 e8
      let e32 := Iv.mul e16 e16
      let e64 := Iv.mul e32 e32
      let one : Iv := ⟨ivOne, ivOne⟩
      roundIv neg (Iv.div (Iv.sub e64 one) (Iv.add e64 one)) 0

end Sys2Proof.Machine
end

