-- ==== Sys2Proof/Machine/Vector.lean ====
section
/-! DEFINITION. The V and X slots: vector arithmetic, conversions, cross-lane exchange and special functions
(R262 to R284). -/

namespace Sys2Proof.Machine

/-- A lane slot with its pitch's latches and the lanes that take part (R265). -/
def laneOp (s : State) (i : Instr) (g : Guard) (f : Issue → Pitch → Warp → Mask → State → State) :
    Host.Outcome State Fault Refusal :=
  slotOp s i fun c b w s => f c (s.pitch (coreId b w) w.pitch) w (takers c w g) s

/-- A lane slot whose result lands at a latency in the lanes that take part; with none, nothing is written (R55, R56). -/
def laneRes (s : State) (i : Instr) (g : Guard) (lat : Nat) (f : Issue → Pitch → Warp → Mask → List Effect) :
    Host.Outcome State Fault Refusal :=
  laneOp s i g fun c p w m s => s.flyIn c m lat (f c p w m)

/-- The operands of a type as 64-bit values, one per lane position (R264). -/
def vOperand (p : Pitch) (c : Issue) (w : Warp) (ty : ITy) (a : VSrc) : List Word64 :=
  if ty.is64 then a.lanes64 p c w else (a.lanes p c w).map fun x => x.setWidth 64

/-- The result of a type: clamped with `.sat`, then modulo 2^W (R267). -/
def vResult (ty : ITy) (sat : Bool) (x : Int) : Word64 := BitVec.ofInt 64 (if sat then tyClamp ty x else x)

/-- The effects of results of a type. -/
def tyEffs (c : Issue) (d : VDst) (m : Mask) (ty : ITy) (r : List Word64) : List Effect :=
  if ty.is64 then vecEffs64 c d m r else vecEffs c d m (r.map low32)

/-- An integer operation of two sources (R267). -/
def vInt2 (s : State) (i : Instr) (g : Guard) (lat : Nat) (d : VDst) (a b : VSrc) (ty : ITy) (sat : Bool)
    (f : ITy → Word64 → Word64 → Int) : Host.Outcome State Fault Refusal :=
  laneRes s i g lat fun c p w m =>
    tyEffs c d m ty ((vOperand p c w ty a).zipWith (fun x y => vResult ty sat (f ty x y)) (vOperand p c w ty b))

/-- An integer operation of one source (R267). -/
def vInt1 (s : State) (i : Instr) (g : Guard) (d : VDst) (a : VSrc) (ty : ITy) (sat : Bool) (f : ITy → Word64 → Int) :
    Host.Outcome State Fault Refusal :=
  laneRes s i g 2 fun c p w m => tyEffs c d m ty ((vOperand p c w ty a).map fun x => vResult ty sat (f ty x))

/-- A 32-bit operation of one, two or three sources. -/
def v1 (s : State) (i : Instr) (g : Guard) (lat : Nat) (d : VDst) (a : VSrc) (f : Word32 → Word32) :
    Host.Outcome State Fault Refusal :=
  laneRes s i g lat fun c p w m => vecEffs c d m ((a.lanes p c w).map f)
def v2 (s : State) (i : Instr) (g : Guard) (lat : Nat) (d : VDst) (a b : VSrc) (f : Word32 → Word32 → Word32) :
    Host.Outcome State Fault Refusal :=
  laneRes s i g lat fun c p w m => vecEffs c d m ((a.lanes p c w).zipWith f (b.lanes p c w))
def v3 (s : State) (i : Instr) (g : Guard) (d : VDst) (a b e : VSrc) (f : Word32 → Word32 → Word32 → Word32) :
    Host.Outcome State Fault Refusal :=
  laneRes s i g 4 fun c p w m =>
    vecEffs c d m (List.zipWith (fun x q => f x q.1 q.2) (a.lanes p c w) ((b.lanes p c w).zip (e.lanes p c w)))

/-- A compare: the predicate, and 1 or 0 in the unit's latch (R268, R273). -/
def vCmp (s : State) (i : Instr) (g : Guard) (lat pd : Nat) (f : Issue → Pitch → Warp → List Bool) :
    Host.Outcome State Fault Refusal :=
  laneRes s i g lat fun c p w m =>
    let r := f c p w
    [.preg pd m (maskOf fun l => r.getD l false), .latch c.cur.latch m (r.map fun x => if x then 1 else 0)]

/-- `vadd` (R267). -/
def execVadd (g : Guard) (d : VDst) (a b : VSrc) (ty : ITy) (sat : Bool) (s : State) :=
  vInt2 s (.vadd g d a b ty sat) g 2 d a b ty sat sAdd
/-- `vsub` (R267). -/
def execVsub (g : Guard) (d : VDst) (a b : VSrc) (ty : ITy) (sat : Bool) (s : State) :=
  vInt2 s (.vsub g d a b ty sat) g 2 d a b ty sat sSub
/-- `vmul` (R267). -/
def execVmul (g : Guard) (d : VDst) (a b : VSrc) (ty : ITy) (sat : Bool) (s : State) :=
  vInt2 s (.vmul g d a b ty sat) g 3 d a b ty sat sMul
/-- `vmulhi` (R267). -/
def execVmulhi (g : Guard) (d : VDst) (a b : VSrc) (ty : ITy) (s : State) :=
  vInt2 s (.vmulhi g d a b ty) g 3 d a b ty false sMulhi
/-- `vand` (R267). -/
def execVand (g : Guard) (d : VDst) (a b : VSrc) (ty : ITy) (s : State) :=
  vInt2 s (.vand g d a b ty) g 2 d a b ty false sAnd
/-- `vor` (R267). -/
def execVor (g : Guard) (d : VDst) (a b : VSrc) (ty : ITy) (s : State) :=
  vInt2 s (.vor g d a b ty) g 2 d a b ty false sOr
/-- `vxor` (R267). -/
def execVxor (g : Guard) (d : VDst) (a b : VSrc) (ty : ITy) (s : State) :=
  vInt2 s (.vxor g d a b ty) g 2 d a b ty false sXor
/-- `vshl` (R267). -/
def execVshl (g : Guard) (d : VDst) (a b : VSrc) (ty : ITy) (s : State) :=
  vInt2 s (.vshl g d a b ty) g 2 d a b ty false sShl
/-- `vshr` (R267). -/
def execVshr (g : Guard) (d : VDst) (a b : VSrc) (ty : ITy) (s : State) :=
  vInt2 s (.vshr g d a b ty) g 2 d a b ty false sShr
/-- `vsar` (R267). -/
def execVsar (g : Guard) (d : VDst) (a b : VSrc) (ty : ITy) (s : State) :=
  vInt2 s (.vsar g d a b ty) g 2 d a b ty false sSar
/-- `vmin` (R267). -/
def execVmin (g : Guard) (d : VDst) (a b : VSrc) (ty : ITy) (s : State) :=
  vInt2 s (.vmin g d a b ty) g 2 d a b ty false sMin
/-- `vmax` (R267). -/
def execVmax (g : Guard) (d : VDst) (a b : VSrc) (ty : ITy) (s : State) :=
  vInt2 s (.vmax g d a b ty) g 2 d a b ty false sMax
/-- `vmad` (R267): one wrap or clamp at the end. -/
def execVmad (g : Guard) (d : VDst) (a b e : VSrc) (ty : ITy) (sat : Bool) (s : State) :=
  laneRes s (.vmad g d a b e ty sat) g 3 fun c p w m =>
    tyEffs c d m ty (List.zipWith (fun x q => vResult ty sat (tyInt ty x * tyInt ty q.1 + tyInt ty q.2))
      (vOperand p c w ty a) ((vOperand p c w ty b).zip (vOperand p c w ty e)))
/-- `vabs` (R267). -/
def execVabs (g : Guard) (d : VDst) (a : VSrc) (ty : ITy) (sat : Bool) (s : State) :=
  vInt1 s (.vabs g d a ty sat) g d a ty sat fun ty x => ((tyInt ty x).natAbs : Int)
/-- `vneg` (R267). -/
def execVneg (g : Guard) (d : VDst) (a : VSrc) (ty : ITy) (sat : Bool) (s : State) :=
  vInt1 s (.vneg g d a ty sat) g d a ty sat fun ty x => -tyInt ty x
/-- `vcmp` (R268). -/
def execVcmp (g : Guard) (pd : Nat) (a b : VSrc) (ty : ITy) (cc : Cc) (s : State) :=
  vCmp s (.vcmp g pd a b ty cc) g 2 pd fun c p w =>
    (vOperand p c w ty a).zipWith (fun x y => ccInt cc (tyInt ty x) (tyInt ty y)) (vOperand p c w ty b)
/-- `vsel` (R269). -/
def execVsel (g : Guard) (d : VDst) (a b : VSrc) (ps : Nat) (pn : Bool) (s : State) :=
  laneRes s (.vsel g d a b ps pn) g 2 fun c p w m =>
    let k := w.pneg ps pn
    vecEffs c d m (laneList.map fun l =>
      if k.getLsbD l then (a.lanes p c w).getD l 0 else (b.lanes p c w).getD l 0)
/-- `vmov` (R267). -/
def execVmov (g : Guard) (d : VDst) (a : VSrc) (ty : ITy) (s : State) :=
  vInt1 s (.vmov g d a ty) g d a ty false fun ty x => tyInt ty x
/-- `vli` (R270). -/
def execVli (g : Guard) (d : VDst) (a b : VSrc) (s : State) :=
  laneRes s (.vli g d a b) g 2 fun c p w m =>
    vecEffs c d m (laneList.map fun l =>
      (a.lanes p c w).getD l 0 + BitVec.ofNat 32 l * (b.lanes p c w).getD l 0)
/-- Leading zero bits of 32 (R267). -/
def clz32 (x : Word32) : Nat := if x = 0 then 32 else 31 - Nat.log2 x.toNat
/-- One bits of 32 (R267). -/
def popc32 (x : Word32) : Nat := (lanesOf x).length

/-- `vclz` (R267). -/
def execVclz (g : Guard) (d : VDst) (a : VSrc) (ty : ITy) (s : State) :=
  vInt1 s (.vclz g d a ty) g d a ty false fun _ x => (clz32 (low32 x) : Int)
/-- `vpopc` (R267). -/
def execVpopc (g : Guard) (d : VDst) (a : VSrc) (ty : ITy) (s : State) :=
  vInt1 s (.vpopc g d a ty) g d a ty false fun _ x => (popc32 (low32 x) : Int)
/-- `fadd` (R271). -/
def execFadd (g : Guard) (d : VDst) (a b : VSrc) (rm : Rm) (s : State) :=
  v2 s (.fadd g d a b rm) g 4 d a b (fp32Add rm)
/-- `fsub` (R271). -/
def execFsub (g : Guard) (d : VDst) (a b : VSrc) (rm : Rm) (s : State) :=
  v2 s (.fsub g d a b rm) g 4 d a b (fp32Sub rm)
/-- `fmul` (R271). -/
def execFmul (g : Guard) (d : VDst) (a b : VSrc) (rm : Rm) (s : State) :=
  v2 s (.fmul g d a b rm) g 4 d a b (fp32Mul rm)
/-- `hadd2` (R275). -/
def execHadd2 (g : Guard) (d : VDst) (a b : VSrc) (rm : Rm) (s : State) :=
  v2 s (.hadd2 g d a b rm) g 4 d a b (bf16Add rm)
/-- `hmul2` (R275). -/
def execHmul2 (g : Guard) (d : VDst) (a b : VSrc) (rm : Rm) (s : State) :=
  v2 s (.hmul2 g d a b rm) g 4 d a b (bf16Mul rm)
/-- `fma` (R271). -/
def execFma (g : Guard) (d : VDst) (a b e : VSrc) (rm : Rm) (s : State) :=
  v3 s (.fma g d a b e rm) g d a b e (fp32Fma rm)
/-- `hfma2` (R275). -/
def execHfma2 (g : Guard) (d : VDst) (a b e : VSrc) (rm : Rm) (s : State) :=
  v3 s (.hfma2 g d a b e rm) g d a b e (bf16Fma rm)
/-- `fmin` (R272). -/
def execFmin (g : Guard) (d : VDst) (a b : VSrc) (s : State) :=
  v2 s (.fmin g d a b) g 4 d a b fp32Min
/-- `fmax` (R272). -/
def execFmax (g : Guard) (d : VDst) (a b : VSrc) (s : State) :=
  v2 s (.fmax g d a b) g 4 d a b fp32Max
/-- `fabs` (R272). -/
def execFabs (g : Guard) (d : VDst) (a : VSrc) (s : State) :=
  v1 s (.fabs g d a) g 4 d a fp32Abs
/-- `fneg` (R272). -/
def execFneg (g : Guard) (d : VDst) (a : VSrc) (s : State) :=
  v1 s (.fneg g d a) g 4 d a fp32Neg
/-- `fclass` (R274). -/
def execFclass (g : Guard) (d : VDst) (a : VSrc) (s : State) :=
  v1 s (.fclass g d a) g 4 d a fp32Class
/-- `fcmp` (R273). -/
def execFcmp (g : Guard) (pd : Nat) (a b : VSrc) (cc : Cc) (s : State) :=
  vCmp s (.fcmp g pd a b cc) g 4 pd fun c p w => (a.lanes p c w).zipWith (ccFp cc) (b.lanes p c w)
/-- `cvt` (R276, R277). -/
def execCvt (g : Guard) (d : VDst) (a b : VSrc) (code : Nat) (rm : Rm) (s : State) :=
  v2 s (.cvt g d a b code rm) g 4 d a b (convert code rm)

-- The X slot.

/-- An exchange: the value at position `src l` of all 32 positions, whether or not their lanes take part (R279, R280). -/
def xMove (s : State) (i : Instr) (g : Guard) (d : VDst) (a : VSrc) (src : Issue → Pitch → Warp → Nat → Nat) :
    Host.Outcome State Fault Refusal :=
  laneRes s i g 2 fun c p w m =>
    vecEffs c d m (laneList.map fun l => (a.lanes p c w).getD (src c p w l) 0)

/-- `xchg` (R280). -/
def execXchg (g : Guard) (d : VDst) (a : VSrc) (code : Nat) (s : State) :=
  xMove s (.xchg g d a code) g d a fun _ _ _ l => l ^^^ 2 ^ code
/-- `xrot` (R280). -/
def execXrot (g : Guard) (d : VDst) (a : VSrc) (r : Nat) (s : State) :=
  xMove s (.xrot g d a r) g d a fun _ _ _ l => (l + r) % 32
/-- `xbcast` (R280). -/
def execXbcast (g : Guard) (d : VDst) (a : VSrc) (l : Nat) (s : State) :=
  xMove s (.xbcast g d a l) g d a fun _ _ _ _ => l
/-- `xidx` (R280). -/
def execXidx (g : Guard) (d : VDst) (a b : VSrc) (s : State) :=
  xMove s (.xidx g d a b) g d a fun c p w l => ((b.lanes p c w).getD l 0).toNat % 32

/-- The identity of a combination (R281). -/
def scanUnit : ScanOp → Word32
  | .addI32 => 0
  | .minI32 => 0x7FFFFFFF
  | .maxI32 => 0x80000000
  | .minN32 => 0xFFFFFFFF
  | .maxN32 => 0
  | .and => 0xFFFFFFFF
  | .or => 0
  | .xor => 0
  | .fadd => 0x80000000
  | .fmin => 0x7F800000
  | .fmax => 0xFF800000
/-- The combination of two values (R281). -/
def scanStep : ScanOp → Word32 → Word32 → Word32
  | .addI32, x, y => x + y
  | .minI32, x, y => if y.slt x then y else x
  | .maxI32, x, y => if x.slt y then y else x
  | .minN32, x, y => if y.ult x then y else x
  | .maxN32, x, y => if x.ult y then y else x
  | .and, x, y => x &&& y
  | .or, x, y => x ||| y
  | .xor, x, y => x ^^^ y
  | .fadd, x, y => fp32Add .rn x y
  | .fmin, x, y => fp32Min x y
  | .fmax, x, y => fp32Max x y

/-- The values with the identity where the lane does not take part (R281). -/
def scanVals (op : ScanOp) (m : Mask) (a : Lanes) : Lanes :=
  laneList.map fun l => if m.getLsbD l then a.getD l 0 else scanUnit op

/-- The outputs of a scan from `u` on: exclusive or inclusive (R281). -/
def scanOut (op : ScanOp) (excl : Bool) : Word32 → Lanes → Lanes
  | _, [] => []
  | u, t :: r =>
    let v := scanStep op u t
    (if excl then u else v) :: scanOut op excl v r

/-- One level of the `.fadd` tree: t(l) + t(l + dist) for l < dist (R281). -/
def treeStep (t : Lanes) (dist : Nat) : Lanes :=
  (List.range dist).map fun l => fp32Add .rn (t.getD l 0) (t.getD (l + dist) 0)

/-- The value of a reduction (R281). -/
def redOut (op : ScanOp) (t : Lanes) : Word32 :=
  match op with
  | .fadd => ([16, 8, 4, 2, 1].foldl treeStep t).getD 0 0
  | op => t.foldl (scanStep op) (scanUnit op)

/-- `xscan` (R281). -/
def execXscan (g : Guard) (d : VDst) (a : VSrc) (op : ScanOp) (excl : Bool) (s : State) :=
  laneRes s (.xscan g d a op excl) g 2 fun c p w m =>
    vecEffs c d m (scanOut op excl (scanUnit op) (scanVals op m (a.lanes p c w)))
/-- `xred` (R281). -/
def execXred (g : Guard) (d : VDst) (a : VSrc) (op : ScanOp) (s : State) :=
  laneRes s (.xred g d a op) g 2 fun c p w m =>
    vecEffs c d m (splat (redOut op (scanVals op m (a.lanes p c w))))

/-- `frcp` (R282). -/
def execFrcp (g : Guard) (d : VDst) (a : VSrc) (s : State) :=
  v1 s (.frcp g d a) g 8 d a fpRcp
/-- `frsq` (R282). -/
def execFrsq (g : Guard) (d : VDst) (a : VSrc) (s : State) :=
  v1 s (.frsq g d a) g 8 d a fpRsq
/-- `fexp2` (R282). -/
def execFexp2 (g : Guard) (d : VDst) (a : VSrc) (s : State) :=
  v1 s (.fexp2 g d a) g 8 d a fpExp2
/-- `flog2` (R282). -/
def execFlog2 (g : Guard) (d : VDst) (a : VSrc) (s : State) :=
  v1 s (.flog2 g d a) g 8 d a fpLog2
/-- `fsin` (R282). -/
def execFsin (g : Guard) (d : VDst) (a : VSrc) (s : State) :=
  v1 s (.fsin g d a) g 8 d a fpSin
/-- `fcos` (R282). -/
def execFcos (g : Guard) (d : VDst) (a : VSrc) (s : State) :=
  v1 s (.fcos g d a) g 8 d a fpCos
/-- `ftanh` (R282). -/
def execFtanh (g : Guard) (d : VDst) (a : VSrc) (s : State) :=
  v1 s (.ftanh g d a) g 8 d a fpTanh

end Sys2Proof.Machine
end

