-- ==== Sys2Proof/Machine/Dispatch.lean ====
section
/-! DEFINITION. One arm per step of the opcode table: each calls the meaning of its own instruction. -/

namespace Sys2Proof.Machine

def exec (i : Instr) (s : State) : Host.Outcome State Fault Refusal :=
  match i with
  | .imgLoad fn => Sys2Proof.Machine.execImgLoad fn s
  | .ctxOpen fn => Sys2Proof.Machine.execCtxOpen fn s
  | .tensorMap fn => Sys2Proof.Machine.execTensorMap fn s
  | .meterGrant fn => Sys2Proof.Machine.execMeterGrant fn s
  | .counterAdvance fn => Sys2Proof.Machine.execCounterAdvance fn s
  | .launch fn => Sys2Proof.Machine.execLaunch fn s
  | .taskLink fn => Sys2Proof.Machine.execTaskLink fn s
  | .preempt fn => Sys2Proof.Machine.execPreempt fn s
  | .resume fn => Sys2Proof.Machine.execResume fn s
  | .vdieBind fn => Sys2Proof.Machine.execVdieBind fn s
  | .timeRef fn => Sys2Proof.Machine.execTimeRef fn s
  | .meterRead fn => Sys2Proof.Machine.execMeterRead fn s
  | .meterCkpt fn => Sys2Proof.Machine.execMeterCkpt fn s
  | .attest fn => Sys2Proof.Machine.execAttest fn s
  | .queryPart fn => Sys2Proof.Machine.execQueryPart fn s
  | .queryGround fn => Sys2Proof.Machine.execQueryGround fn s
  | .queryTime fn => Sys2Proof.Machine.execQueryTime fn s
  | .queryPower fn => Sys2Proof.Machine.execQueryPower fn s
  | .queryVdie fn => Sys2Proof.Machine.execQueryVdie fn s
  | .queryPorts fn => Sys2Proof.Machine.execQueryPorts fn s
  | .ctxClose fn => Sys2Proof.Machine.execCtxClose fn s
  | .imgUnload fn => Sys2Proof.Machine.execImgUnload fn s
  | .tensorUnmap fn => Sys2Proof.Machine.execTensorUnmap fn s
  | .peerMap fn => Sys2Proof.Machine.execPeerMap fn s
  | .groundSet fn => Sys2Proof.Machine.execGroundSet fn s
  | .unassignedCommand fn => Sys2Proof.Machine.execUnassignedCommand fn s
  | .lanternStop fn value => Sys2Proof.Machine.execLanternStop fn value s
  | .lanternRelease fn value => Sys2Proof.Machine.execLanternRelease fn value s
  | .lanternBinsClear fn engine bin => Sys2Proof.Machine.execLanternBinsClear fn engine bin s
  | .lanternPageWrite fn offset value => Sys2Proof.Machine.execLanternPageWrite fn offset value s
  | .functionLevelReset fn => Sys2Proof.Machine.execFunctionLevelReset fn s
  | .powerUp part found => Sys2Proof.Machine.execPowerUp part found s
  | .supplyLoss bodies => Sys2Proof.Machine.execSupplyLoss bodies s
  | .junctionTemperature place celsius => Sys2Proof.Machine.execJunctionTemperature place celsius s
  | .hbmTemperature hbm celsius => Sys2Proof.Machine.execHbmTemperature hbm celsius s
  | .stackSilence stack => Sys2Proof.Machine.execStackSilence stack s
  | .ppsEdge => Sys2Proof.Machine.execPpsEdge s
  | .timeOfDayMessage bytes => Sys2Proof.Machine.execTimeOfDayMessage bytes s
  | .ptmDialogue master => Sys2Proof.Machine.execPtmDialogue master s
  | .syncBeat => Sys2Proof.Machine.execSyncBeat s
  | .beatArrival stack => Sys2Proof.Machine.execBeatArrival stack s
  | .bellowsPeriod stack => Sys2Proof.Machine.execBellowsPeriod stack s
  | .voltageSettled stack => Sys2Proof.Machine.execVoltageSettled stack s
  | .currentSense stack cluster draw => Sys2Proof.Machine.execCurrentSense stack cluster draw s
  | .heatIntegration stack cluster energy => Sys2Proof.Machine.execHeatIntegration stack cluster energy s
  | .droopDetect stack cluster => Sys2Proof.Machine.execDroopDetect stack cluster s
  | .droopClear stack cluster => Sys2Proof.Machine.execDroopClear stack cluster s
  | .pitchCycle stack cluster => Sys2Proof.Machine.execPitchCycle stack cluster s
  | .warpSample stack core pitch fn => Sys2Proof.Machine.execWarpSample stack core pitch fn s
  | .trapEntry block warp => Sys2Proof.Machine.execTrapEntry block warp s
  | .shortIndex entry holes => Sys2Proof.Machine.execShortIndex entry holes s
  | .longIndex entry holes => Sys2Proof.Machine.execLongIndex entry holes s
  | .idle n => Sys2Proof.Machine.execIdle n s
  | .loop c imm len => Sys2Proof.Machine.execLoop c imm len s
  | .ipf off n => Sys2Proof.Machine.execIpf off n s
  | .unassignedToken b => Sys2Proof.Machine.execUnassignedToken b s
  | .emptyWord => Sys2Proof.Machine.execEmptyWord s
  | .sadd g d a b ty => Sys2Proof.Machine.execSadd g d a b ty s
  | .ssub g d a b ty => Sys2Proof.Machine.execSsub g d a b ty s
  | .smul g d a b ty => Sys2Proof.Machine.execSmul g d a b ty s
  | .smulhi g d a b ty => Sys2Proof.Machine.execSmulhi g d a b ty s
  | .sand g d a b ty => Sys2Proof.Machine.execSand g d a b ty s
  | .sor g d a b ty => Sys2Proof.Machine.execSor g d a b ty s
  | .sxor g d a b ty => Sys2Proof.Machine.execSxor g d a b ty s
  | .sshl g d a b ty => Sys2Proof.Machine.execSshl g d a b ty s
  | .sshr g d a b ty => Sys2Proof.Machine.execSshr g d a b ty s
  | .ssar g d a b ty => Sys2Proof.Machine.execSsar g d a b ty s
  | .smin g d a b ty => Sys2Proof.Machine.execSmin g d a b ty s
  | .smax g d a b ty => Sys2Proof.Machine.execSmax g d a b ty s
  | .smov g d b ty => Sys2Proof.Machine.execSmov g d b ty s
  | .sli g d v => Sys2Proof.Machine.execSli g d v s
  | .ssel g d a b q qn => Sys2Proof.Machine.execSsel g d a b q qn s
  | .scmp g q a b ty cc => Sys2Proof.Machine.execScmp g q a b ty cc s
  | .btgt g bd t => Sys2Proof.Machine.execBtgt g bd t s
  | .bxfer g b d => Sys2Proof.Machine.execBxfer g b d s
  | .bcall g b d r => Sys2Proof.Machine.execBcall g b d r s
  | .lidx g d n => Sys2Proof.Machine.execLidx g d n s
  | .lbrk g => Sys2Proof.Machine.execLbrk g s
  | .bar g id => Sys2Proof.Machine.execBar g id s
  | .exit g => Sys2Proof.Machine.execExit g s
  | .trap g n => Sys2Proof.Machine.execTrap g n s
  | .hret g => Sys2Proof.Machine.execHret g s
  | .hretSkip g => Sys2Proof.Machine.execHretSkip g s
  | .srd g d sr => Sys2Proof.Machine.execSrd g d sr s
  | .swr g a sr => Sys2Proof.Machine.execSwr g a sr s
  | .clk g d e => Sys2Proof.Machine.execClk g d e s
  | .dline g a b => Sys2Proof.Machine.execDline g a b s
  | .dtick g b => Sys2Proof.Machine.execDtick g b s
  | .dclose g q => Sys2Proof.Machine.execDclose g q s
  | .pwacq g a => Sys2Proof.Machine.execPwacq g a s
  | .pwrel g => Sys2Proof.Machine.execPwrel g s
  | .grantGiven stack => Sys2Proof.Machine.execGrantGiven stack s
  | .info g d a kind => Sys2Proof.Machine.execInfo g d a kind s
  | .vdhop g d a b => Sys2Proof.Machine.execVdhop g d a b s
  | .mtrd g v e l j => Sys2Proof.Machine.execMtrd g v e l j s
  | .mtck g h j => Sys2Proof.Machine.execMtck g h j s
  | .rainflyReply id => Sys2Proof.Machine.execRainflyReply id s
  | .checkpointRecord => Sys2Proof.Machine.execCheckpointRecord s
  | .pand g d a na b nb => Sys2Proof.Machine.execPand g d a na b nb s
  | .por g d a na b nb => Sys2Proof.Machine.execPor g d a na b nb s
  | .pxor g d a na b nb => Sys2Proof.Machine.execPxor g d a na b nb s
  | .pmov g d a na => Sys2Proof.Machine.execPmov g d a na s
  | .pset g d a na => Sys2Proof.Machine.execPset g d a na s
  | .vany g d a na => Sys2Proof.Machine.execVany g d a na s
  | .vall g d a na => Sys2Proof.Machine.execVall g d a na s
  | .vcount g d a na => Sys2Proof.Machine.execVcount g d a na s
  | .qand g d a na b nb => Sys2Proof.Machine.execQand g d a na b nb s
  | .qor g d a na b nb => Sys2Proof.Machine.execQor g d a na b nb s
  | .qxor g d a na b nb => Sys2Proof.Machine.execQxor g d a na b nb s
  | .mpush g a na => Sys2Proof.Machine.execMpush g a na s
  | .melse g => Sys2Proof.Machine.execMelse g s
  | .mpop g => Sys2Proof.Machine.execMpop g s
  | .regroup g a na => Sys2Proof.Machine.execRegroup g a na s
  | .ungroup g => Sys2Proof.Machine.execUngroup g s
  | .mspill g n => Sys2Proof.Machine.execMspill g n s
  | .mfill g n => Sys2Proof.Machine.execMfill g n s
  | .agbind g x v => Sys2Proof.Machine.execAgbind g x v s
  | .agset g x dim v => Sys2Proof.Machine.execAgset g x dim v s
  | .agadd g x dim v => Sys2Proof.Machine.execAgadd g x dim v s
  | .agstep g x dim v => Sys2Proof.Machine.execAgstep g x dim v s
  | .aglane g x dim v => Sys2Proof.Machine.execAglane g x dim v s
  | .agget g x f d => Sys2Proof.Machine.execAgget g x f d s
  | .vadd g d a b ty sat => Sys2Proof.Machine.execVadd g d a b ty sat s
  | .vsub g d a b ty sat => Sys2Proof.Machine.execVsub g d a b ty sat s
  | .vmul g d a b ty sat => Sys2Proof.Machine.execVmul g d a b ty sat s
  | .vmulhi g d a b ty => Sys2Proof.Machine.execVmulhi g d a b ty s
  | .vmad g d a b c ty sat => Sys2Proof.Machine.execVmad g d a b c ty sat s
  | .vand g d a b ty => Sys2Proof.Machine.execVand g d a b ty s
  | .vor g d a b ty => Sys2Proof.Machine.execVor g d a b ty s
  | .vxor g d a b ty => Sys2Proof.Machine.execVxor g d a b ty s
  | .vshl g d a b ty => Sys2Proof.Machine.execVshl g d a b ty s
  | .vshr g d a b ty => Sys2Proof.Machine.execVshr g d a b ty s
  | .vsar g d a b ty => Sys2Proof.Machine.execVsar g d a b ty s
  | .vmin g d a b ty => Sys2Proof.Machine.execVmin g d a b ty s
  | .vmax g d a b ty => Sys2Proof.Machine.execVmax g d a b ty s
  | .vabs g d a ty sat => Sys2Proof.Machine.execVabs g d a ty sat s
  | .vneg g d a ty sat => Sys2Proof.Machine.execVneg g d a ty sat s
  | .vcmp g pd a b ty cc => Sys2Proof.Machine.execVcmp g pd a b ty cc s
  | .vsel g d a b ps pn => Sys2Proof.Machine.execVsel g d a b ps pn s
  | .vmov g d a ty => Sys2Proof.Machine.execVmov g d a ty s
  | .vli g d a b => Sys2Proof.Machine.execVli g d a b s
  | .vclz g d a ty => Sys2Proof.Machine.execVclz g d a ty s
  | .vpopc g d a ty => Sys2Proof.Machine.execVpopc g d a ty s
  | .fadd g d a b rm => Sys2Proof.Machine.execFadd g d a b rm s
  | .fsub g d a b rm => Sys2Proof.Machine.execFsub g d a b rm s
  | .fmul g d a b rm => Sys2Proof.Machine.execFmul g d a b rm s
  | .fma g d a b c rm => Sys2Proof.Machine.execFma g d a b c rm s
  | .fmin g d a b => Sys2Proof.Machine.execFmin g d a b s
  | .fmax g d a b => Sys2Proof.Machine.execFmax g d a b s
  | .fabs g d a => Sys2Proof.Machine.execFabs g d a s
  | .fneg g d a => Sys2Proof.Machine.execFneg g d a s
  | .fcmp g pd a b cc => Sys2Proof.Machine.execFcmp g pd a b cc s
  | .fclass g d a => Sys2Proof.Machine.execFclass g d a s
  | .hadd2 g d a b rm => Sys2Proof.Machine.execHadd2 g d a b rm s
  | .hmul2 g d a b rm => Sys2Proof.Machine.execHmul2 g d a b rm s
  | .hfma2 g d a b c rm => Sys2Proof.Machine.execHfma2 g d a b c rm s
  | .cvt g d a b code rm => Sys2Proof.Machine.execCvt g d a b code rm s
  | .xchg g d a code => Sys2Proof.Machine.execXchg g d a code s
  | .xrot g d a r => Sys2Proof.Machine.execXrot g d a r s
  | .xbcast g d a l => Sys2Proof.Machine.execXbcast g d a l s
  | .xidx g d a b => Sys2Proof.Machine.execXidx g d a b s
  | .xscan g d a op excl => Sys2Proof.Machine.execXscan g d a op excl s
  | .xred g d a op => Sys2Proof.Machine.execXred g d a op s
  | .frcp g d a => Sys2Proof.Machine.execFrcp g d a s
  | .frsq g d a => Sys2Proof.Machine.execFrsq g d a s
  | .fexp2 g d a => Sys2Proof.Machine.execFexp2 g d a s
  | .flog2 g d a => Sys2Proof.Machine.execFlog2 g d a s
  | .fsin g d a => Sys2Proof.Machine.execFsin g d a s
  | .fcos g d a => Sys2Proof.Machine.execFcos g d a s
  | .ftanh g d a => Sys2Proof.Machine.execFtanh g d a s
  | .ld g d x w fe clr inc sx => Sys2Proof.Machine.execLd g d x w fe clr inc sx s
  | .st g a x w inc => Sys2Proof.Machine.execSt g a x w inc s
  | .ldg g d x w gdim inc sx c => Sys2Proof.Machine.execLdg g d x w gdim inc sx c s
  | .stg g a x w gdim inc c => Sys2Proof.Machine.execStg g a x w gdim inc c s
  | .lblk g h x n tag inc => Sys2Proof.Machine.execLblk g h x n tag inc s
  | .atom g d x op ty order scope inc a b => Sys2Proof.Machine.execAtom g d x op ty order scope inc a b s
  | .fence g scope => Sys2Proof.Machine.execFence g scope s
  | .drain g scope => Sys2Proof.Machine.execDrain g scope s
  | .probe g d x a => Sys2Proof.Machine.execProbe g d x a s
  | .probeCompletion block warp ok => Sys2Proof.Machine.execProbeCompletion block warp ok s
  | .stc g h x pair inc a => Sys2Proof.Machine.execStc g h x pair inc a s
  | .commitAcceptance id => Sys2Proof.Machine.execCommitAcceptance id s
  | .commitVisibility id => Sys2Proof.Machine.execCommitVisibility id s
  | .ldas g d x w t inc sx pd => Sys2Proof.Machine.execLdas g d x w t inc sx pd s
  | .ldasService id lane => Sys2Proof.Machine.execLdasService id lane s
  | .qput g q stage a => Sys2Proof.Machine.execQput g q stage a s
  | .qget g d q stage => Sys2Proof.Machine.execQget g d q stage s
  | .queueStep id => Sys2Proof.Machine.execQueueStep id s
  | .feset g x w inc => Sys2Proof.Machine.execFeset g x w inc s
  | .feclr g x w inc => Sys2Proof.Machine.execFeclr g x w inc s
  | .longLoadReturn id lane hit => Sys2Proof.Machine.execLongLoadReturn id lane hit s
  | .storePerformed id lane => Sys2Proof.Machine.execStorePerformed id lane s
  | .lblkFill id => Sys2Proof.Machine.execLblkFill id s
  | .mmac g h acc nf mf pair pro xa inca xb incb => Sys2Proof.Machine.execMmac g h acc nf mf pair pro xa inca xb incb s
  | .mmacStart id => Sys2Proof.Machine.execMmacStart id s
  | .mmacCompletion id => Sys2Proof.Machine.execMmacCompletion id s
  | .mzero g acc nt => Sys2Proof.Machine.execMzero g acc nt s
  | .mzeroDone id => Sys2Proof.Machine.execMzeroDone id s
  | .mready g => Sys2Proof.Machine.execMready g s
  | .mstore g h acc nt mf fmt rm src xd inc => Sys2Proof.Machine.execMstore g h acc nt mf fmt rm src xd inc s
  | .mstoreLanding id => Sys2Proof.Machine.execMstoreLanding id s
  | .mload g h acc nt mf xs inc => Sys2Proof.Machine.execMload g h acc nt mf xs inc s
  | .mloadCompletion id => Sys2Proof.Machine.execMloadCompletion id s
  | .cpy g h xd incd xs incs a => Sys2Proof.Machine.execCpy g h xd incd xs incs a s
  | .cpym g h xd incd xs incs a cmask => Sys2Proof.Machine.execCpym g h xd incd xs incs a cmask s
  | .coll g h xd incd xs incs a xr incr op => Sys2Proof.Machine.execColl g h xd incd xs incs a xr incr op s
  | .copyStart id => Sys2Proof.Machine.execCopyStart id s
  | .copyCompletion id => Sys2Proof.Machine.execCopyCompletion id s
  | .fwait g h => Sys2Proof.Machine.execFwait g h s
  | .ftry g q h t => Sys2Proof.Machine.execFtry g q h t s
  | .ftryTimeout block warp => Sys2Proof.Machine.execFtryTimeout block warp s
  | .fcancel g h => Sys2Proof.Machine.execFcancel g h s
  | .fstat g h d sel => Sys2Proof.Machine.execFstat g h d sel s
  | .fmov g h a => Sys2Proof.Machine.execFmov g h a s
  | .decodeRefill stack core => Sys2Proof.Machine.execDecodeRefill stack core s
  | .streamFetch stack core => Sys2Proof.Machine.execStreamFetch stack core s
  | .swapOut block warp => Sys2Proof.Machine.execSwapOut block warp s
  | .swapIn block => Sys2Proof.Machine.execSwapIn block s
  | .taskDispatch ctx => Sys2Proof.Machine.execTaskDispatch ctx s
  | .blockPlacement ctx task stage num => Sys2Proof.Machine.execBlockPlacement ctx task stage num s
  | .blockSave block => Sys2Proof.Machine.execBlockSave block s
  | .preemptionTimeout block => Sys2Proof.Machine.execPreemptionTimeout block s
  | .stageBalancer ctx task => Sys2Proof.Machine.execStageBalancer ctx task s
  | .taskCompletion ctx task => Sys2Proof.Machine.execTaskCompletion ctx task s
  | .completionRingWrite ctx => Sys2Proof.Machine.execCompletionRingWrite ctx s
  | .migrationPeriod => Sys2Proof.Machine.execMigrationPeriod s
  | .migrationSwitch base tile => Sys2Proof.Machine.execMigrationSwitch base tile s
  | .hello port flit => Sys2Proof.Machine.execHello port flit s
  | .idleFlit port flit => Sys2Proof.Machine.execIdleFlit port flit s
  | .dataFlit port flit => Sys2Proof.Machine.execDataFlit port flit s
  | .ack port flit => Sys2Proof.Machine.execAck port flit s
  | .unassignedFlit port flit => Sys2Proof.Machine.execUnassignedFlit port flit s
  | .peerRead port flit => Sys2Proof.Machine.execPeerRead port flit s
  | .peerReadData port flit => Sys2Proof.Machine.execPeerReadData port flit s
  | .peerWrite port flit => Sys2Proof.Machine.execPeerWrite port flit s
  | .peerWriteDone port flit => Sys2Proof.Machine.execPeerWriteDone port flit s
  | .peerAtomic port flit => Sys2Proof.Machine.execPeerAtomic port flit s
  | .peerAtomicResult port flit => Sys2Proof.Machine.execPeerAtomicResult port flit s
  | .peerDrain port flit => Sys2Proof.Machine.execPeerDrain port flit s
  | .peerDrainDone port flit => Sys2Proof.Machine.execPeerDrainDone port flit s
  | .portRetrain port => Sys2Proof.Machine.execPortRetrain port s
  | .peerRouteLoss id => Sys2Proof.Machine.execPeerRouteLoss id s
  | .frameOutOfResidence f => Sys2Proof.Machine.execFrameOutOfResidence f s
  | .mstoreReadDone id => Sys2Proof.Machine.execMstoreReadDone id s

end Sys2Proof.Machine
end

