-- ==== Sys2Proof/Machine/Fetch.lean ====
section
/-! DEFINITION. What a step runs next: the next slot of the word in issue, else the next token of the warp chosen, else the
next event of the agenda (log entry 1), before which every commit whose moment has come becomes visible (R159). -/

namespace Sys2Proof.Machine

/-- The next instruction with the state it runs in; `error` holds the state after a step that runs none: an empty agenda,
or a stream-class trap of a token that cannot be read (R74). -/
def State.fetch (s : State) : Except State (Instr × State) :=
  match s.issue with
  | some c =>
    match c.slots with
    | [] => .error s.finishWord
    | sl :: rest =>
      let t := { s with issue := some { c with slots := rest, cur := sl } }
      match decodeSlot c.word sl with
      | some i => .ok (i, t)
      | none => .error t
  | none =>
    match s.sel with
    | some x =>
      match s.block? x.block with
      | none => .error { s with sel := none }
      | some b =>
        match b.warp? x.warp with
        | none => .error { s with sel := none }
        | some w =>
          if w.idle ≠ 0 then .ok (.emptyWord, s)
          else
            let k := s.code b w
            let bad := fun code => Except.error (s.streamTrap x.block x.warp code w.pc)
            if k.bytes.length ≤ w.pc then bad 0x13
            else
              match decodeToken k.widths (k.bytes.drop w.pc) with
              | some p => .ok (p.1, s)
              | none => bad 0x12
    | none =>
      match s.agenda with
      | [] => .error s
      | e :: r => .ok (e.step, ({ s with agenda := r }.advance e.advance).settleCommits)

/-- After an instruction: a word with no slot left to act is finished. -/
def State.retire (s : State) : State :=
  match s.issue with
  | some c => if c.slots.isEmpty then s.finishWord else s
  | none => s

/-- A block and a warp that stand ready to issue a word, and that word with one slot to act: the P slot holds the table's
bits (log entry 10). -/
def State.placeSlot (s : State) (word : Nat) (sl : Slot) : State :=
  let w : Warp :=
    { num := 0, core := 0, pitch := 0, slot := 0, pc := 0, idle := 0, loops := [], masks := [], active := allLanes,
      b := List.replicate 8 0, xfer := none, region := none, bank := none, v := List.replicate 8 (splat 0),
      s := List.replicate 64 0, p := allLanes :: List.replicate 47 0, q := true :: List.replicate 15 false,
      h := List.replicate 16 0,
      x := List.replicate 8 { rcd := 0, c := [0, 0, 0, 0], i := [0, 0, 0, 0], step := 0, sdim := 0 },
      parked := 0, records := [], lastIssue := 0, flights := [], pend := [], wait := .none, asking := none,
      trying := none, gathers := [], hold := [], held := false, stopped := false, stopRec := none, trap := none, exited := false,
      hcause := 0, hpc := 0, hnext := 0, trapArg := 0, spillRec := 0, spillOff := 0, step := none, grant := none,
      regrant := none, probeIn := none, probeBad := false, drains := 0, unready := [], overdraw := false,
      atPoint := false }
  let b : Block :=
    { (default : Block) with bid := s.uid, status := .placed, warps := [w], bars := List.replicate 16 0, gen := 1 }
  let c : Issue :=
    { block := s.uid, warp := 0, word := word, holes := [], slots := [sl], cur := sl, lanes := allLanes, tok := 0,
      next := 1, cycle := 0, uid := s.uid + 1, stores := [], handles := [], newMask := none, trapped := false,
      clear := false, hret := none }
  { s with uid := s.uid + 2, blocks := b :: s.blocks, sel := none, issue := some c }

end Sys2Proof.Machine
end

