-- ==== Sys2Proof/Machine/Step.lean ====
section
/-! DEFINITION. One step of the package. -/

namespace Sys2Proof.Machine

/-- One step: the next instruction runs, and a word whose slots have all acted is finished (R56). -/
def step (s : State) : Host.Outcome State Fault Refusal :=
  match s.fetch with
  | .error t => .next t
  | .ok (i, t) =>
    match exec i t with
    | .next u => .next u.retire
    | .fault f => .fault f
    | .refused r => .refused r

/-- The state in which the next step runs the table's word: a 32-bit word is the P slot at word bit 408, a 64-bit
word the S slot at word bit 440 (R43). -/
def State.withFetchWord (s : State) (nbits w : Nat) : State :=
  if nbits = 32 then s.placeSlot (w * 2 ^ 204 * 2 ^ 204) .P else s.placeSlot (w * 2 ^ 220 * 2 ^ 220) .S

end Sys2Proof.Machine
end

