-- ==== Sys2Proof/Safety.lean ====
section
/-! DEFINITION. What the claims call a sound state: every memory the state holds is in its one canonical form, and the
package has the units the spec gives it. -/

namespace Sys2Proof.Machine

/-- The memories a save keeps of a core are canonical (R217). -/
def SavedCore.wf (k : SavedCore) : Bool := k.mem.wf && k.acc.wf

/-- Every memory of the state is canonical: the package's own, those of saved blocks and those of frames out of residence. -/
def State.memWf (s : State) : Prop :=
  s.mem.wf = true ∧ (∀ b ∈ s.blocks, ∀ k ∈ b.saved, k.wf = true) ∧ ∀ p ∈ s.paged, p.mem.wf = true

/-- The package has its four stacks, sixteen clusters, eight HBM stacks, sixteen functions' Lantern pages and sixteen ports
(R8, R11, R16, R195, R397). -/
def State.shape (s : State) : Prop :=
  s.stks.length = 4 ∧ s.clusters.length = 16 ∧ s.hbms.length = 8 ∧ s.lantern.length = 16 ∧ s.ports.length = 16

/-- A step that ends the model's run: it answers no next state. -/
def State.stops (s : State) : Prop := ∀ t, step s ≠ .next t

end Sys2Proof.Machine
end

