-- ==== Sys2Proof/Certificates/Slice0/Obligations.lean ====
section
/-! DEFINITION. The statements for the provers, in the order of the spec: encodings, the step, the slots family by family,
memory and engines, host commands, firmware, time and power, the fabric.  A statement that an instruction completes has the
next state as its conclusion. -/

namespace Sys2Proof.Claims

open Sys2Proof.Machine

/-- The word `c` of warp `w` of block `b` is in issue. -/
def Issuing (s : State) (c : Issue) (b : Block) (w : Warp) : Prop :=
  s.issue = some c ∧ s.block? c.block = some b ∧ b.warp? c.warp = some w

/-- `i` sends `effs` into flight for `lat` cycles and does nothing else: `State.fly` appends one entry to the results in flight
of the issuing warp. -/
def Flies (s : State) (i : Instr) (c : Issue) (lat : Nat) (effs : List Effect) : Prop := exec i s = .next (s.fly c lat effs)

/-- `i` sends results of the lanes `m` into flight for `lat` cycles: with no lane nothing is sent (R55, R56). -/
def LanesFly (s : State) (i : Instr) (c : Issue) (m : Mask) (lat : Nat) (effs : List Effect) : Prop :=
  exec i s = .next (if m = 0 then s else s.fly c lat effs)

/-- The slot's trap `code` is raised and the slot has no other effect. -/
def Traps (s : State) (i : Instr) (c : Issue) (code arg : Nat) : Prop :=
  exec i s = .next (s.raise c code arg (slotNum c.cur))

/-- `t` differs from `s` in the issuing warp alone, which becomes `f w`. -/
def WarpBecomes (s : State) (i : Instr) (c : Issue) (f : Warp → Warp) : Prop :=
  exec i s = .next (s.modWarp c.block c.warp f)

/-- Every field of the state but the blocks is the same. -/
def OnlyBlocks (s t : State) : Prop := t = { s with blocks := t.blocks }

/-- Memory reads the same at every address. -/
def SameMemory (s t : State) : Prop := ∀ a, t.mem.read a = s.mem.read a

end Sys2Proof.Claims

open Sys2Proof Sys2Proof.Machine Sys2Proof.Claims

-- Encodings.

/-- R233 to R261: decoding an encoded S or P slot gives the operation back, with every operand at every value its field admits,
and the encoded bits fit the slot of R43. -/
def Sys2Proof.Claims.RoundTripScalar : Prop :=
  ∀ (i : Instr) (x : Nat), i.wf = true →
    (encodeS i = some x → x < 2 ^ 64 ∧ decodeS x = .ok i) ∧ (encodeP i = some x → x < 2 ^ 32 ∧ decodeP x = .ok i)

/-- R262 to R288: the same of the A, V and X slots. -/
def Sys2Proof.Claims.RoundTripVector : Prop :=
  ∀ (i : Instr) (x : Nat), i.wf = true →
    (encodeA i = some x → x < 2 ^ 48 ∧ decodeA x = .ok i) ∧ (encodeV i = some x → x < 2 ^ 56 ∧ decodeV x = .ok i) ∧
    (encodeX i = some x → x < 2 ^ 48 ∧ decodeX x = .ok i)

/-- R289 to R332: the same of the M, T and C slots. -/
def Sys2Proof.Claims.RoundTripMemory : Prop :=
  ∀ (i : Instr) (x : Nat), i.wf = true →
    (encodeM i = some x → x < 2 ^ 56 ∧ decodeM x = .ok i) ∧ (encodeT i = some x → x < 2 ^ 48 ∧ decodeT x = .ok i) ∧
    (encodeC i = some x → x < 2 ^ 48 ∧ decodeC x = .ok i)

/-- Decoding an encoded slot of any unit gives the operation back. -/
def Obligations.RoundTripSlots : Prop :=
  Claims.RoundTripScalar ∧ Claims.RoundTripVector ∧ Claims.RoundTripMemory

/-- R67, R68: decoding the bytes of a token, with anything behind them, gives the token back and its length; an index token's
hole values fit the widths its entry gives them. -/
def Obligations.RoundTripToken : Prop :=
  ∀ (i : Instr) (ws : List Nat) (bs rest : List Byte), i.wf = true → encodeToken ws i = some bs →
    (∀ e hs, i = .shortIndex e hs ∨ i = .longIndex e hs →
      hs.length = ws.length ∧ ∀ p ∈ ws.zip hs, p.2 < 256 ^ p.1) →
    decodeToken (fun _ => ws) (bs ++ rest) = some (i, bs.length)

/-- R43, R44: what a slot of a word decodes to depends on that slot's bits alone: two words that agree on them agree on it; the
ten slots and the bits above them do not overlap and cover bits 0 to 503. -/
def Sys2Proof.Claims.SlotsAreDisjoint : Prop :=
  (∀ w w' sl, slotBits w sl = slotBits w' sl → decodeSlot w sl = decodeSlot w' sl) ∧
  (∀ n, n < 504 → ∃ sl ∈ slotOrder, sl.lo ≤ n ∧ n < sl.lo + sl.width ∧
    ∀ sl' ∈ slotOrder, sl'.lo ≤ n → n < sl'.lo + sl'.width → sl' = sl)

/-- Words the spec writes out decode to the operations it writes them for (R234, R238, R240, R254, R286, R293, R318, R328, R329,
R331). -/
def Obligations.WrittenWordsDecode : Prop :=
  decodeS 0x04028C1C00000000 = .ok (.sadd ⟨false, 0⟩ 5 6 (.reg 7) .i64) ∧
  decodeS 0x4001882440000000 = .ok (.scmp ⟨false, 0⟩ 3 4 (.reg 9) .i64 .lt) ∧
  decodeS 0x6469000000000000 = .ok (.bxfer ⟨false, 3⟩ 2 1) ∧
  decodeP 0x80000500 = .ok (.mpush ⟨false, 0⟩ 5 false) ∧
  decodeP 0x40008700 = .ok (.vany ⟨false, 0⟩ 2 7 false) ∧
  decodeP 0x6440C105 = .ok (.qand ⟨true, 4⟩ 3 1 false 2 true) ∧
  decodeA 0x102000000009 = .ok (.agbind ⟨false, 0⟩ 2 (.imm 9)) ∧
  decodeA 0x20240000012C = .ok (.agset ⟨false, 0⟩ 2 1 (.imm 300)) ∧
  decodeA 0x602114000000 = .ok (.agget ⟨false, 0⟩ 2 (.c 1) 5) ∧
  decodeV 0x14000603600040 = .ok (.vmad ⟨false, 0⟩ (.reg 1) (.s 1) (.hole 0) (.v 0) .i32 false) ∧
  decodeM 0x08002200000000 = .ok (.ld ⟨false, 0⟩ (.reg 4) 2 .b8 false false false false) ∧
  decodeM 0x10002144000000 = .ok (.st ⟨false, 0⟩ (.v 4) 1 .b32 true) ∧
  decodeM 0x08080244000000 = .ok (.ld ⟨false, 0⟩ .nw 2 .b32 false false true false) ∧
  decodeT 0x400040C00000 = .ok (.mzero ⟨false, 0⟩ 4 3) ∧
  decodeC 0x400800000000 = .ok (.fwait ⟨false, 0⟩ 1) ∧
  decodeC 0x500907D00000 = .ok (.ftry ⟨false, 0⟩ 2 1 (.imm 1000)) ∧
  decodeC 0x7010C8000000 = .ok (.fstat ⟨false, 0⟩ 2 6 .val)

/-- R45, R64 checks 3 and 4, R361 to R364: an opcode of a slot's map that names no operation is refused, whatever the other bits: for
check 4, but in a lane slot whose guard index is unassigned for check 3, the first in the table's order. -/
def Sys2Proof.Claims.UnassignedOpcodesRefused : Prop :=
  ∀ x : Nat,
    (let o := x / 2 ^ 58
     17 ≤ o ∧ o ≤ 23 ∨ 33 ≤ o ∧ o ≤ 39 ∨ 52 ≤ o ∧ o ≤ 63 → decodeS x = .error 4) ∧
    (x / 2 ^ 27 ∈ [6, 7, 11, 15, 19, 22, 23, 26, 27, 28, 29, 30, 31] → decodeP x = .error 4) ∧
    (let o := x / 2 ^ 50
     22 ≤ o ∧ o ≤ 31 ∨ 42 ≤ o ∧ o ≤ 47 ∨ 51 ≤ o ∧ o ≤ 55 ∨ 57 ≤ o ∧ o ≤ 63 →
       decodeV x = .error (if x / 2 ^ 43 % 64 < 48 then 4 else 3)) ∧
    (x / 2 ^ 43 = 7 ∨ 15 ≤ x / 2 ^ 43 ∧ x / 2 ^ 43 ≤ 31 → decodeX x = .error (if x / 2 ^ 36 % 64 < 48 then 4 else 3)) ∧
    (7 ≤ x / 2 ^ 44 → x / 2 ^ 44 ≤ 15 → decodeA x = .error 4) ∧
    (16 ≤ x / 2 ^ 51 → x / 2 ^ 51 ≤ 31 → decodeM x = .error (if x / 2 ^ 44 % 64 < 48 then 4 else 3)) ∧
    (6 ≤ x / 2 ^ 45 → x / 2 ^ 45 ≤ 7 → decodeT x = .error 4) ∧
    (9 ≤ x / 2 ^ 44 → x / 2 ^ 44 ≤ 15 → decodeC x = .error 4)

/-- Slots decode from their own bits and unassigned opcodes are refused. -/
def Obligations.SlotsDecode : Prop :=
  Claims.SlotsAreDisjoint ∧ Claims.UnassignedOpcodesRefused

-- The step.

/-- R56: the word in issue runs its next slot: a step runs what the slot decodes to, and finishes the word when no slot is
left. -/
def Sys2Proof.Claims.StepRunsDecodedSlot : Prop :=
  ∀ (s : State) (c : Issue) (sl : Slot) (rest : List Slot) (i : Instr), s.issue = some c → c.slots = sl :: rest →
    decodeSlot c.word sl = some i →
    step s = match exec i { s with issue := some { c with slots := rest, cur := sl } } with
      | .next t => .next t.retire
      | .fault f => .fault f
      | .refused r => .refused r

/-- R67: with a warp chosen and no word in issue, a step runs the token its stream holds at its PC; inside an idle token it runs
the next empty word (R69). -/
def Sys2Proof.Claims.StepRunsDecodedToken : Prop :=
  ∀ (s : State) (x : Sel) (b : Block) (w : Warp), s.issue = none → s.sel = some x → s.block? x.block = some b →
    b.warp? x.warp = some w →
    (w.idle ≠ 0 → step s = match exec .emptyWord s with
      | .next t => .next t.retire
      | .fault f => .fault f
      | .refused r => .refused r) ∧
    (∀ i n, w.idle = 0 → w.pc < (s.code b w).bytes.length →
      decodeToken (s.code b w).widths ((s.code b w).bytes.drop w.pc) = some (i, n) →
      step s = match exec i s with
        | .next t => .next t.retire
        | .fault f => .fault f
        | .refused r => .refused r)

/-- With no word in issue and no warp chosen, a step runs the next event of the agenda after the clocks have advanced by what the
event says and every commit whose moment has come has become visible (the model's own schedule: log entry 1). -/
def Sys2Proof.Claims.StepRunsAgenda : Prop :=
  ∀ (s : State) (e : Event) (r : List Event), s.issue = none → s.sel = none → s.agenda = e :: r →
    step s = match exec e.step ({ s with agenda := r }.advance e.advance).settleCommits with
      | .next t => .next t.retire
      | .fault f => .fault f
      | .refused r => .refused r

/-- A step runs the next slot of the word in issue, the token at the PC, or the next event (agenda: log entry 1). -/
def Obligations.StepRunsWhatIsNext : Prop :=
  Claims.StepRunsDecodedSlot ∧ Claims.StepRunsDecodedToken ∧ Claims.StepRunsAgenda

/-- The one reason the machine stops (log entry 1): a slot operation or a token that no issuing warp carries; no step of a state
whose word in issue and whose chosen warp exist ever stops. -/
def Obligations.StepNeverStops : Prop :=
  ∀ s : State, (∀ c, s.issue = some c → ∃ b w, s.block? c.block = some b ∧ b.warp? c.warp = some w) →
    (s.issue = none → s.sel = none → ∀ e r, s.agenda = e :: r → encode e.step = none ∧ encodeToken [] e.step = none ∧
      e.step ≠ .emptyWord) →
    ∃ t, step s = .next t

/-- Every step keeps memory in its one canonical form, whatever the state it starts from. -/
def Obligations.StepKeepsMemoryCanonical : Prop :=
  ∀ s t : State, s.mem.wf = true → step s = .next t → t.mem.wf = true

/-- At reset memory is canonical, the state has its shape, and every address reads as 0 (the model's choice: log entry 4). -/
def Sys2Proof.Claims.ResetMemoryCanonical : Prop := State.reset.mem.wf = true ∧ State.reset.shape ∧ ∀ a, State.reset.mem.read a = 0

/-- R16, R175, R178, R180, R201: what reset leaves: no source and the interval [0, all ones] on every die, a stamp limit of 2,000 ns,
ports down with their counters at 0 and 256 credits.  That the NV store of a new module has fuse counter and next leaf at 0, no meter
and no checkpoint record is the model's choice (log entry 85, DESIGN CHOICE). -/
def Sys2Proof.Claims.ResetValues : Prop :=
  (∀ k, k < 4 → (State.reset.stack? k).earliest = 0 ∧ (State.reset.stack? k).latest = 2 ^ 64 - 1 ∧
    (State.reset.stack? k).limit = 2000 ∧ (State.reset.stack? k).known = false) ∧
  State.reset.tb.source = none ∧ State.reset.tb.accepted = false ∧ State.reset.tb.rejected = 0 ∧
  (∀ p ∈ State.reset.ports, p.state = 0 ∧ p.credits = 256 ∧ p.retrains = 0 ∧ p.naks = 0) ∧
  State.reset.rainfly.fuses = 0 ∧ State.reset.rainfly.leaf = 0 ∧ State.reset.rainfly.meters = [] ∧
  State.reset.rainfly.ring = [] ∧ State.reset.contexts = [] ∧ State.reset.running = false

/-- What reset leaves; memory reads as zeros (log entry 4) and the NV store of a new module is empty (log entry 85), the model's choices. -/
def Obligations.ResetState : Prop :=
  Claims.ResetMemoryCanonical ∧ Claims.ResetValues

-- Results in flight, guards, traps.

/-- R52, R56: a result in flight changes the results in flight of its own warp and nothing else: no register, no flag, no special
register, no byte of memory, and nothing of any other warp. -/
def Sys2Proof.Claims.ResultInFlightFrame : Prop :=
  ∀ (s : State) (c : Issue) (b : Block) (w : Warp) (lat : Nat) (effs : List Effect),
    s.block? c.block = some b → b.warp? c.warp = some w →
    s.fly c lat effs = s.modWarp c.block c.warp (fun v => { v with flights := v.flights ++
      [{ landing := c.cycle + lat, issued := c.cycle, turn := (s.pitch (coreId b w) w.pitch).turn, effs := effs }] }) ∧
    OnlyBlocks s (s.fly c lat effs) ∧ SameMemory s (s.fly c lat effs) ∧
    ∀ n k v, s.warp? n k = some v → ∃ v', (s.fly c lat effs).warp? n k = some v' ∧ v' = { v with flights := v'.flights } ∧
      ((n, k) ≠ (c.block, c.warp) → v' = v)

/-- R6, R50, R53: a result that lands writes its register and no other: a scalar, predicate or vector one, of which `s0`, `p0` and
`q0` discard it and a vector or lane predicate keeps the lanes outside its mask; a `b` register; a field of an address stream, or all of
it when the stream is bound anew (R287); a spill register; a latch of the pitch, in the lanes of its mask, which is no register of the
warp. -/
def Sys2Proof.Claims.LandingWrites : Prop :=
  (∀ (w : Warp) d v r, d < w.s.length →
    (w.land (.sreg d v)).sread r = (if r = d ∧ d ≠ 0 then v else w.sread r) ∧
    w.land (.sreg d v) = { w with s := (w.land (.sreg d v)).s }) ∧
  (∀ (w : Warp) d v r, d < w.q.length →
    (w.land (.qreg d v)).qread r = (if r = d ∧ d ≠ 0 then v else w.qread r) ∧
    w.land (.qreg d v) = { w with q := (w.land (.qreg d v)).q }) ∧
  (∀ (w : Warp) d m v r, d < w.p.length → ∀ l, l < 32 →
    ((w.land (.preg d m v)).pread r).getLsbD l =
      (if r = d ∧ d ≠ 0 ∧ m.getLsbD l = true then v.getLsbD l else (w.pread r).getLsbD l) ∧
    w.land (.preg d m v) = { w with p := (w.land (.preg d m v)).p }) ∧
  (∀ (w : Warp) d m v r, d < w.v.length → ∀ l, l < 32 →
    ((w.land (.vreg d m v)).vread r).getD l 0 =
      (if r = d ∧ m.getLsbD l = true then v.getD l 0 else (w.vread r).getD l 0) ∧
    w.land (.vreg d m v) = { w with v := (w.land (.vreg d m v)).v }) ∧
  (∀ (w : Warp) d v r, d < w.b.length →
    (w.land (.breg d v)).bread r = (if r = d then v else w.bread r) ∧
    w.land (.breg d v) = { w with b := (w.land (.breg d v)).b }) ∧
  (∀ (w : Warp) d e r, d < w.x.length →
    (w.land (.xreg d e)).xread r = (if r = d then (w.xread d).set e else w.xread r) ∧
    w.land (.xreg d e) = { w with x := (w.land (.xreg d e)).x }) ∧
  (∀ (a : AStream) n k v st d,
    a.set (.bind n) = { rcd := n, c := [0, 0, 0, 0], i := [0, 0, 0, 0], step := 0, sdim := 0 } ∧
    a.set (.setC k v) = { a with c := a.c.set k v } ∧ a.set (.setI k v) = { a with i := a.i.set k v } ∧
    a.set (.setLane st d) = { a with step := st, sdim := d }) ∧
  (∀ (w : Warp) n v, w.land (.spillRec n) = { w with spillRec := n } ∧ w.land (.spillOff v) = { w with spillOff := v }) ∧
  (∀ (w : Warp) (ls : List Lanes) k m v r, k < ls.length → w.land (.latch k m v) = w ∧ ∀ l, l < 32 →
    ((latchWrites ls [.latch k m v]).getD r (splat 0)).getD l 0 =
      (if r = k ∧ m.getLsbD l = true then v.getD l 0 else (ls.getD r (splat 0)).getD l 0)) ∧
  (∀ (ls : List Lanes) (e : Effect), (∀ k m v, e ≠ .latch k m v) → latchWrites ls [e] = ls)

/-- R25, R50, R51, R54, R56 step 1: at cycle `t` every result of a warp whose landing cycle has come lands, in the order of issue, and
leaves the results in flight; a register whose data returned before `t` is no longer pending.  The latches of its pitch take the writes
of words of the turn that stands, when the warp holds it, and drop those of an earlier turn.  A stop record that waited for the warp to
drain is written then (R401), and memory reads the same unless it is. -/
def Sys2Proof.Claims.LandingAtItsCycle : Prop :=
  ∀ (s : State) (b : Block) (w : Warp) (t : Nat), s.warp? b.bid w.num = some w →
    let due := w.flights.filter fun f => decide (f.landing ≤ t)
    let flights := w.flights.filter fun f => !decide (f.landing ≤ t)
    let pend := w.pend.filter fun p => match p.returned with
      | some c => !decide (c < t)
      | none => true
    let drained := flights = [] ∧ pend = []
    let p := s.pitch (coreId b w) w.pitch
    let q := (s.landWarp b w t).pitch (coreId b w) w.pitch
    (s.landWarp b w t).warp? b.bid w.num =
      some { due.foldl (fun v f => v.landAll f.effs) w with
             flights := flights, pend := pend, gathers := w.gathers.filter fun g => decide (t < g.1)
             stopRec := if drained then none else w.stopRec } ∧
    q = { p with latches := q.latches } ∧
    (p.holder = some (b.bid, w.num) → q.latches =
      (due.filter fun f => f.turn == p.turn).foldl (fun ls f => latchWrites ls f.effs) p.latches) ∧
    (p.holder ≠ some (b.bid, w.num) → q.latches = p.latches) ∧
    (w.stopRec = none ∨ ¬ drained → SameMemory s (s.landWarp b w t))

/-- A result in flight changes nothing until it lands, and then its own register alone. -/
def Obligations.ResultsLand : Prop :=
  Claims.ResultInFlightFrame ∧ Claims.LandingWrites ∧ Claims.LandingAtItsCycle

/-- R28, R56: in a powered stack a pitch cycle acts for the next of the cluster's 32 pitches; after the last, the cluster's next
pulse begins and its cycle count rises by one. -/
def Sys2Proof.Claims.PitchCycleActs : Prop :=
  ∀ (s : State) (k c : Nat), s.running = true → (s.stack? k).powered = true →
    ((s.cluster k c).ptr < 32 → exec (.pitchCycle k c) s =
      .next ((s.modCluster k c fun x => { x with ptr := x.ptr + 1 }).pitchStep k (8 * c + (s.cluster k c).ptr / 4)
        ((s.cluster k c).ptr % 4) (s.cluster k c).cycle)) ∧
    (32 ≤ (s.cluster k c).ptr → exec (.pitchCycle k c) s = exec (.pitchCycle k c) (s.pulseDone k c)) ∧
    (4 * k + c < s.clusters.length → ((s.pulseDone k c).cluster k c).ptr = 0 ∧
      ((s.pulseDone k c).cluster k c).cycle = (s.cluster k c).cycle + 1)

/-- R26: one ready warp goes before another: by class, then by the older last-issue cycle, then by the lower slot. -/
def Sys2Proof.Claims.goesBefore (x y : Block × Warp) : Prop :=
  x.1.rcd.cls < y.1.rcd.cls ∨ x.1.rcd.cls = y.1.rcd.cls ∧
    (x.2.lastIssue < y.2.lastIssue ∨ x.2.lastIssue = y.2.lastIssue ∧ x.2.slot < y.2.slot)

/-- R24 to R26, R28: a turn goes on while its warp is ready.  Otherwise it ends, and of the
warps ready then one before which none goes is chosen: its turn begins with no word issued, its own number and latches at 0.  With none ready no warp is chosen. -/
def Sys2Proof.Claims.PitchSelects : Prop :=
  ∀ (s : State) (stack core pitch t : Nat),
    let id := 32 * stack + core
    let p := s.pitch id pitch
    let goesOn := ∃ x ∈ s.residents stack core pitch, p.holder = some (x.1.bid, x.2.num) ∧ s.ready x.1 x.2 t = true
    let u := s.pitchSelect stack core pitch t
    let v := s.turnEnds id pitch
    s.pitchStep stack core pitch t = (s.pitchLand stack core pitch t).pitchSelect stack core pitch t ∧
    (goesOn → ∀ n k, p.holder = some (n, k) → u = { s with sel := some { block := n, warp := k, cycle := t } }) ∧
    v.pitch id pitch = { p with holder := none } ∧ (p.holder = none → v = s) ∧
    (¬ goesOn →
      ((∀ x ∈ v.residents stack core pitch, v.ready x.1 x.2 t = false) → u = v) ∧
      ((∃ x ∈ v.residents stack core pitch, v.ready x.1 x.2 t = true) →
        ∃ x ∈ v.residents stack core pitch, v.ready x.1 x.2 t = true ∧
          (∀ y ∈ v.residents stack core pitch, v.ready y.1 y.2 t = true → ¬ goesBefore y x) ∧
          u = { v.setPitch { p with holder := some (x.1.bid, x.2.num), words := 0, turn := p.turn + 1,
                                    latches := List.replicate 8 (splat 0) } with
            sel := some { block := x.1.bid, warp := x.2.num, cycle := t } }))

/-- R24, R26, R58, R247: a word that has performed counts in its turn and dates its warp's last issue.  The turn ends with a word whose Y
bit is 1, with its 32nd word, with a word that traps (log entry 19, DEDUCED) or
whose warp then stands with a trap, and with an `hret`; else, where no precise stop is armed, it goes on. -/
def Sys2Proof.Claims.TurnsEnd : Prop :=
  ∀ (s : State) (c : Issue) (b : Block) (w : Warp), Issuing s c b w →
    let core := coreId b w
    let p := s.pitch core w.pitch
    let q := s.finishWord.pitch core w.pitch
    let ends := wordY c.word = true ∨ 31 ≤ p.words
    q.turn = p.turn ∧ q.words = p.words + 1 ∧ q.latches = p.latches ∧
    (ends ∨ c.trapped = true ∨ c.hret.isSome = true ∨ w.trap.isSome = true → q.holder = none) ∧
    ((w.afterWord c).2 = true → (w.afterWord c).1.pointFree = true → w.exited = false → s.hasTimeHandler b = true →
      (∃ d, w.step = some d ∧ d.due = true) → q.holder = none) ∧
    (¬ ends → c.trapped = false → c.hret = none → w.trap = none → (∀ d, w.step = some d → d.due = false) → (∀ l ∈ s.lantern, l.stop.bitAt 63 = false) → q.holder = p.holder) ∧
    (w.wait = .none → (b.warps.map (·.num)).Nodup → ∃ v, s.finishWord.warp? c.block c.warp = some v ∧ v.lastIssue = c.cycle)

/-- R54, R156, R226, R253, R346: stalls of the word a warp would issue next.  While a register that one of its operations reads or writes is
one that an earlier operation of the warp is still to write, the warp is not ready, whatever the guards; `fwait`, `ftry`, `fcancel` and
`fstat` read their handle register, so that one that waits for an `mtck` holds them.  While a `qput` of the warp has not performed, an
operation with a handle of its own holds its word too. -/
def Sys2Proof.Claims.PendingStalls : Prop :=
  (∀ (g : Guard) (h q d n : Nat) (x : FSel), RName.h h ∈ (Instr.fwait g h).reads ∧ RName.h h ∈ (Instr.ftry g q h (.imm n)).reads ∧
    RName.h h ∈ (Instr.ftry g q h (.sreg n)).reads ∧ RName.h h ∈ (Instr.fcancel g h).reads ∧
    RName.h h ∈ (Instr.fstat g h d x).reads) ∧
  (∀ (s : State) (b : Block) (w : Warp) (t e next tok n : Nat) (hs : List Nat) (regs : List RName) (i : Instr),
    s.peek b w = .word (some e) hs regs tok next →
    let c := (s.code b w).issueOf s b w e hs tok next t
    i ∈ (wordOps c.word).map (·.2) →
    ((∃ p ∈ w.pend, (p.reg = .v n ∧ RName.v n ∈ i.reads ++ i.writes) ∨ (p.reg = .s n ∧ RName.s n ∈ i.reads ++ i.writes) ∨
        (p.reg = .p n ∧ RName.p n ∈ i.reads ++ i.writes) ∨ (p.reg = .q n ∧ RName.q n ∈ i.reads ++ i.writes) ∨
        (p.reg = .h n ∧ RName.h n ∈ i.reads ++ i.writes)) → s.ready b w t = false) ∧
    ((∃ q ∈ s.reqs, q.block = b.bid ∧ q.warp = w.num ∧ ∃ r k data, q.kind = .qput r k data) → submits w i = true ∨ fills c w i = true →
      s.ready b w t = false))

/-- R45, R55: the uniform operations (guarded by a `q` predicate), with their guards. -/
def Sys2Proof.Claims.uniformGuard : Instr → Option Guard
  | .sadd g _ _ _ _ => some g
  | .ssub g _ _ _ _ => some g
  | .smul g _ _ _ _ => some g
  | .smulhi g _ _ _ _ => some g
  | .sand g _ _ _ _ => some g
  | .sor g _ _ _ _ => some g
  | .sxor g _ _ _ _ => some g
  | .sshl g _ _ _ _ => some g
  | .sshr g _ _ _ _ => some g
  | .ssar g _ _ _ _ => some g
  | .smin g _ _ _ _ => some g
  | .smax g _ _ _ _ => some g
  | .smov g _ _ _ => some g
  | .sli g _ _ => some g
  | .ssel g _ _ _ _ _ => some g
  | .scmp g _ _ _ _ _ => some g
  | .btgt g _ _ => some g
  | .bxfer g _ _ => some g
  | .bcall g _ _ _ => some g
  | .lidx g _ _ => some g
  | .lbrk g => some g
  | .bar g _ => some g
  | .exit g => some g
  | .trap g _ => some g
  | .hret g => some g
  | .hretSkip g => some g
  | .srd g _ _ => some g
  | .swr g _ _ => some g
  | .clk g _ _ => some g
  | .dline g _ _ => some g
  | .dtick g _ => some g
  | .dclose g _ => some g
  | .pwacq g _ => some g
  | .pwrel g => some g
  | .info g _ _ _ => some g
  | .vdhop g _ _ _ => some g
  | .mtrd g _ _ _ _ => some g
  | .mtck g _ _ => some g
  | .qand g _ _ _ _ _ => some g
  | .qor g _ _ _ _ _ => some g
  | .qxor g _ _ _ _ _ => some g
  | .mpush g _ _ => some g
  | .melse g => some g
  | .mpop g => some g
  | .ungroup g => some g
  | .mspill g _ => some g
  | .mfill g _ => some g
  | .agbind g _ _ => some g
  | .agset g _ _ _ => some g
  | .agadd g _ _ _ => some g
  | .agstep g _ _ _ => some g
  | .aglane g _ _ _ => some g
  | .agget g _ _ _ => some g
  | .mmac g _ _ _ _ _ _ _ _ _ _ => some g
  | .mzero g _ _ => some g
  | .mready g => some g
  | .mstore g _ _ _ _ _ _ _ _ _ => some g
  | .mload g _ _ _ _ _ _ => some g
  | .cpy g _ _ _ _ _ _ => some g
  | .cpym g _ _ _ _ _ _ _ => some g
  | .coll g _ _ _ _ _ _ _ _ _ => some g
  | .fwait g _ => some g
  | .ftry g _ _ _ => some g
  | .fcancel g _ => some g
  | .fstat g _ _ _ => some g
  | .fmov g _ _ => some g
  | _ => none

/-- R55: a uniform operation whose guard is false has no effect and raises no trap. -/
def Sys2Proof.Claims.FalseGuardNoEffect : Prop :=
  ∀ (s : State) (c : Issue) (b : Block) (w : Warp) (i : Instr) (g : Guard), Issuing s c b w →
    uniformGuard i = some g → qGuard w g = false → exec i s = .next s

/-- R45, R256, R268, R273: the operations whose result is a lane predicate, with their guards. -/
def Sys2Proof.Claims.predGuard : Instr → Option Guard
  | .pand g _ _ _ _ _ => some g
  | .por g _ _ _ _ _ => some g
  | .pxor g _ _ _ _ _ => some g
  | .pmov g _ _ _ => some g
  | .pset g _ _ _ => some g
  | .vcmp g _ _ _ _ _ => some g
  | .fcmp g _ _ _ _ => some g
  | _ => none

/-- R55, R56: an operation in which no lane takes part writes no register and no latch: the results of no lane leave every register of
their warp as it is once they have landed, and an operation whose result is a lane predicate adds none to those in flight. -/
def Sys2Proof.Claims.NoLaneNoWrite : Prop :=
  (∀ (w : Warp) (c : Issue) (d : VDst) (r : Lanes), (∀ n, d = .reg n → n < w.v.length) → (∀ v ∈ w.v, v.length = 32) →
    w.landAll (vecEffs c d 0 r) = w) ∧
  (∀ (w : Warp) (d : Nat) (v : Mask), w.land (.preg d 0 v) = w) ∧
  (∀ (s : State) (c : Issue) (b : Block) (w : Warp) (i : Instr) (g : Guard), Issuing s c b w → predGuard i = some g →
    takers c w g = 0 → exec i s = .next s)

/-- R58, R246: a trap of the word in issue: the warp stands with the trap, the word performs nothing further, and nothing else
changes. -/
def Sys2Proof.Claims.TrapRaised : Prop :=
  ∀ (s : State) (c : Issue) (w : Warp) (code arg sl : Nat), s.warp? c.block c.warp = some w →
    (let t : TrapInfo := { code := code, arg := arg, hpc := c.tok, hnext := (w.after c).1, loops := (w.after c).2.1,
                           idle := (w.after c).2.2, slot := sl, rcd := 0xFFFF, lane := 0xFF, c0 := 0, c1 := 0 }
    s.raise c code arg sl = { s.modWarp c.block c.warp (fun v => { v with trap := some t }) with
      issue := some { c with slots := [], trapped := true } }) ∧ SameMemory s (s.raise c code arg sl)

-- The S slot.

/-- A scalar result `r` of width W in the form R235 gives it: whole at 64 bits, sign-extended for i32, zero-extended for n32. -/
def Sys2Proof.Claims.widened (ty : ITy) (r64 : Word64) (r32 : Word32) : Word64 :=
  match ty with
  | .i64 => r64
  | .n64 => r64
  | .i32 => r32.signExtend 64
  | .n32 => r32.setWidth 64

/-- An operation of R234 writes `r` to register `d` and its low half to every lane of `l6`, at latency 1, and nothing else. -/
def Sys2Proof.Claims.SWrites (s : State) (i : Instr) (c : Issue) (d : Nat) (r : Word64) : Prop :=
  Flies s i c 1 [.sreg d r, .latch 6 allLanes (splat (r.setWidth 32))]

/-- R235: `sadd`, `ssub` and `smul` give the sum, the difference and the product modulo 2^W; `smov` its source. -/
def Sys2Proof.Claims.ScalarArithmetic : Prop :=
  ∀ (s : State) (c : Issue) (bl : Block) (w : Warp) (g : Guard) (d a : Nat) (b : SSrc) (ty : ITy),
    Issuing s c bl w → qGuard w g = true →
    let x := w.sread a
    let y := b.val c w
    SWrites s (.sadd g d a b ty) c d (widened ty (x + y) (x.setWidth 32 + y.setWidth 32)) ∧
    SWrites s (.ssub g d a b ty) c d (widened ty (x - y) (x.setWidth 32 - y.setWidth 32)) ∧
    SWrites s (.smul g d a b ty) c d (widened ty (x * y) (x.setWidth 32 * y.setWidth 32)) ∧
    SWrites s (.smov g d b ty) c d (widened ty y (y.setWidth 32))

/-- R235: `sand`, `sor` and `sxor` act bit by bit; a shift takes its amount modulo W; `sshl` and `sshr` bring in zeros, `ssar`
copies of bit W − 1 (for the unsigned types by log entry 22). -/
def Sys2Proof.Claims.ScalarLogicShift : Prop :=
  ∀ (s : State) (c : Issue) (bl : Block) (w : Warp) (g : Guard) (d a : Nat) (b : SSrc) (ty : ITy),
    Issuing s c bl w → qGuard w g = true →
    let x := w.sread a
    let y := b.val c w
    let x' : Word32 := x.setWidth 32
    let y' : Word32 := y.setWidth 32
    SWrites s (.sand g d a b ty) c d (widened ty (x &&& y) (x' &&& y')) ∧
    SWrites s (.sor g d a b ty) c d (widened ty (x ||| y) (x' ||| y')) ∧
    SWrites s (.sxor g d a b ty) c d (widened ty (x ^^^ y) (x' ^^^ y')) ∧
    SWrites s (.sshl g d a b ty) c d (widened ty (x <<< (y.toNat % 64)) (x' <<< (y.toNat % 32))) ∧
    SWrites s (.sshr g d a b ty) c d (widened ty (x >>> (y.toNat % 64)) (x' >>> (y.toNat % 32))) ∧
    SWrites s (.ssar g d a b ty) c d (widened ty (x.sshiftRight (y.toNat % 64)) (x'.sshiftRight (y.toNat % 32)))

/-- R235 to R238: `smin` and `smax` choose by the type's order; `smulhi` gives the high half of the exact product; `sli` its
sign-extended immediate or hole; `ssel` chooses by a warp predicate; `scmp` writes the comparison of the exact values to its
predicate and no latch. -/
def Sys2Proof.Claims.ScalarSelect : Prop :=
  ∀ (s : State) (c : Issue) (bl : Block) (w : Warp) (g : Guard) (d a q : Nat) (b : SSrc) (v : SImm) (qn : Bool),
    Issuing s c bl w → qGuard w g = true →
    let x := w.sread a
    let y := b.val c w
    let x' : Word32 := x.setWidth 32
    let y' : Word32 := y.setWidth 32
    SWrites s (.smin g d a b .i64) c d (if y.slt x then y else x) ∧
    SWrites s (.smin g d a b .n64) c d (if y.ult x then y else x) ∧
    SWrites s (.smin g d a b .i32) c d ((if y'.slt x' then y' else x').signExtend 64) ∧
    SWrites s (.smin g d a b .n32) c d ((if y'.ult x' then y' else x').setWidth 64) ∧
    SWrites s (.smax g d a b .i64) c d (if x.slt y then y else x) ∧
    SWrites s (.smax g d a b .n64) c d (if x.ult y then y else x) ∧
    SWrites s (.smax g d a b .i32) c d ((if x'.slt y' then y' else x').signExtend 64) ∧
    SWrites s (.smax g d a b .n32) c d ((if x'.ult y' then y' else x').setWidth 64) ∧
    SWrites s (.smulhi g d a b .n64) c d (BitVec.ofNat 64 (x.toNat * y.toNat / 2 ^ 64)) ∧
    SWrites s (.smulhi g d a b .i64) c d (BitVec.ofInt 64 (x.toInt * y.toInt / 2 ^ 64)) ∧
    SWrites s (.smulhi g d a b .n32) c d (BitVec.ofNat 64 (x'.toNat * y'.toNat / 2 ^ 32)) ∧
    SWrites s (.smulhi g d a b .i32) c d ((BitVec.ofInt 32 (x'.toInt * y'.toInt / 2 ^ 32)).signExtend 64) ∧
    SWrites s (.sli g d v) c d (match v with
      | .imm n => (BitVec.ofNat 46 n).signExtend 64
      | .hole h => holeVal c h) ∧
    SWrites s (.ssel g d a b q qn) c d (if w.qread q = qn then y else x) ∧
    (∀ cc, Flies s (.scmp g q a b .i64 cc) c 1 [.qreg q (ccInt cc x.toInt y.toInt)]) ∧
    (∀ cc, Flies s (.scmp g q a b .n64 cc) c 1 [.qreg q (ccInt cc x.toNat y.toNat)]) ∧
    (∀ cc, Flies s (.scmp g q a b .i32 cc) c 1 [.qreg q (ccInt cc x'.toInt y'.toInt)]) ∧
    (∀ cc, Flies s (.scmp g q a b .n32 cc) c 1 [.qreg q (ccInt cc x'.toNat y'.toNat)])

/-- R238: the six conditions of a comparison. -/
def Sys2Proof.Claims.CompareConditions : Prop :=
  ∀ a b : Int, (ccInt .eq a b = true ↔ a = b) ∧ (ccInt .ne a b = true ↔ a ≠ b) ∧ (ccInt .lt a b = true ↔ a < b) ∧
    (ccInt .le a b = true ↔ a ≤ b) ∧ (ccInt .gt a b = true ↔ b < a) ∧ (ccInt .ge a b = true ↔ b ≤ a)

/-- The scalar integer operations write their results (ssar of an unsigned type: log entry 22, DEDUCED). -/
def Obligations.ScalarResults : Prop :=
  Claims.ScalarArithmetic ∧ Claims.ScalarLogicShift ∧ Claims.ScalarSelect ∧ Claims.CompareConditions

/-- R73, R239 to R242: `btgt` puts an offset into a `b` register and hints its line; `bxfer` and `bcall` request a transfer to the
offset their register holds, `bcall` with its link register; with a transfer already under way each traps 0x04; `lidx` reads a
level's index, 0 above the depth; `lbrk` sets the innermost level's count to its index + 1. -/
def Sys2Proof.Claims.Transfers : Prop :=
  ∀ (s : State) (c : Issue) (bl : Block) (w : Warp) (g : Guard) (bd b d r n k : Nat) (o : Nat),
    Issuing s c bl w → qGuard w g = true →
    let aims := fun (t : Tgt) (v : Word32) =>
      exec (.btgt g bd t) s = .next ((s.fly c 1 [.breg bd v]).hintLines bl w v.toNat 1)
    aims (.imm o) (BitVec.ofNat 32 o) ∧ aims (.sreg r) ((w.sread r).setWidth 32) ∧
    aims (.hole k) ((holeVal c k).setWidth 32) ∧
    (∀ (u : State) n, ∃ h, u.hintLines bl w n 1 = { u with hints := u.hints ++ h } ∧ h.length ≤ 1) ∧
    (w.xfer = none →
      WarpBecomes s (.bxfer g b d) c (fun x => { x with xfer := some ⟨(w.bread b).toNat, d, none⟩ }) ∧
      WarpBecomes s (.bcall g b d r) c (fun x => { x with xfer := some ⟨(w.bread b).toNat, d, some r⟩ })) ∧
    (w.xfer.isSome = true → c.clear = false → Traps s (.bxfer g b d) c 0x04 0 ∧ Traps s (.bcall g b d r) c 0x04 0) ∧
    (∀ v, w.loops[n]? = some v → SWrites s (.lidx g bd n) c bd (BitVec.ofNat 64 v.index)) ∧
    (w.loops.length ≤ n → SWrites s (.lidx g bd n) c bd 0) ∧
    WarpBecomes s (.lbrk g) c (fun x => { x with loops := breakLoop x.loops }) ∧
    (∀ l v, breakLoop (l ++ [v]) = l ++ [{ v with count := v.index + 1 }])

/-- R240, R241: after a word with a transfer that has no word left to delay it, the warp goes on at the transfer's target, the loop
levels that do not hold it removed, and a link register holds the offset of the token that would have been next. -/
def Sys2Proof.Claims.TransferTaken : Prop :=
  ∀ (w : Warp) (c : Issue) (x : Xfer), w.xfer = some x →
    (x.remaining = 0 → (w.afterWord c).1.pc = x.target ∧ (w.afterWord c).1.xfer = none ∧ (w.afterWord c).1.idle = 0 ∧
      (w.idle ≤ 1 → (w.afterWord c).1.loops = dropLevels (endToken w.loops c.next).1 x.target) ∧
      (1 < w.idle → (w.afterWord c).1.loops = dropLevels w.loops x.target) ∧
      (∀ r, x.link = some r → r < w.b.length →
        (w.afterWord c).1.b[r]? = some (BitVec.ofNat 32 (endToken w.loops c.next).2.1)) ∧
      (x.link = none → (w.afterWord c).1.b = w.b)) ∧
    (0 < x.remaining → (w.afterWord c).1.xfer = some { x with remaining := x.remaining - 1 } ∧ (w.afterWord c).1.b = w.b ∧
      (w.idle ≤ 1 → (w.afterWord c).1.pc = (endToken w.loops c.next).2.1 ∧ (w.afterWord c).1.loops = (endToken w.loops c.next).1) ∧
      (1 < w.idle → (w.afterWord c).1.pc = w.pc ∧ (w.afterWord c).1.idle = w.idle - 1 ∧ (w.afterWord c).1.loops = w.loops))

/-- R70: the end of a token at the end of a body begins the next iteration while iterations are left, and ends the level, testing
the next one out, when none is; a token elsewhere changes no level. -/
def Sys2Proof.Claims.LoopIterations : Prop :=
  ∀ (l : List LoopLevel) (v : LoopLevel) (pc : Nat),
    endToken [] pc = ([], pc, false) ∧
    (pc ≠ v.start + v.len → endToken (l ++ [v]) pc = (l ++ [v], pc, false)) ∧
    (pc = v.start + v.len → v.index + 1 < v.count →
      endToken (l ++ [v]) pc = (l ++ [{ v with index := v.index + 1 }], v.start, true)) ∧
    (pc = v.start + v.len → v.count ≤ v.index + 1 →
      endToken (l ++ [v]) pc = ((endToken l pc).1, (endToken l pc).2.1, true))

/-- R72: a taken transfer, and a return from the handler to its saved PC, removes levels from the innermost out until one holds
the target; the levels left are a prefix with their counts and indices, and the innermost of them holds the target. -/
def Sys2Proof.Claims.TransferDropsLoops : Prop :=
  ∀ (l : List LoopLevel) (t : Nat),
    (∃ r, l = dropLevels l t ++ r ∧ ∀ v ∈ r, ¬(v.start ≤ t ∧ t < v.start + v.len)) ∧
    (∀ v, (dropLevels l t).getLast? = some v → v.start ≤ t ∧ t < v.start + v.len) ∧
    (∀ (w : Warp) (k : Bank), w.bank = some k → (w.leaveHandler false).pc = w.hpc ∧
      (w.leaveHandler false).loops = dropLevels k.loops w.hpc)

/-- Transfers of control and the loop stack. -/
def Obligations.TransfersAndLoops : Prop :=
  Claims.Transfers ∧ Claims.TransferTaken ∧ Claims.LoopIterations ∧ Claims.TransferDropsLoops

-- The end of a warp, barriers, traps and their return.

/-- R243 to R247: with no synchronisation in its word, `bar` outside a regroup region with no lane parked puts its warp at the
barrier, raises that barrier's count by one and waits for the warp's earlier requests, and `exit`, there or in a handler, ends its
warp and gives up its grant, step, waits, transfer and stacks; `trap n` raises the software trap; `hret` and `hret.skip` of a handler take effect at the end
of their word.  Memory reads the same after each. -/
def Sys2Proof.Claims.WarpEndsAndBarriers : Prop :=
  ∀ (s : State) (c : Issue) (bl : Block) (w : Warp) (g : Guard) (n id : Nat),
    Issuing s c bl w → qGuard w g = true →
    (c.clear = false → Traps s (.trap g n) c 0x00 n) ∧
    (w.bank.isSome = true ∨ (w.region = none ∧ w.parked = 0) → wordRegroup c.word = false →
      WarpBecomes s (.exit g) c (fun x => { x with exited := true, grant := none, regrant := none, step := none, xfer := none,
                                                   loops := [], masks := [], parked := 0, records := [], asking := none,
                                                   trying := none })) ∧
    (w.region = none → w.bank = none → w.parked = 0 → wordRegroup c.word = false → id < bl.bars.length →
      ∃ t b', exec (.bar g id) s = .next t ∧ OnlyBlocks s t ∧ t.block? c.block = some b' ∧
        b'.bars[id]? = some (bl.bars.getD id 0 + 1) ∧ (∀ j, j ≠ id → b'.bars[j]? = bl.bars[j]?) ∧
        b'.warp? c.warp = some { w with wait := .bar id, hold := w.hold ++ [{ kind := .sync, upto := c.uid }] } ∧
        ∀ m, m ≠ c.warp → b'.warp? m = bl.warp? m) ∧
    (w.bank.isSome = true →
      exec (.hret g) s = .next { s with issue := some { c with hret := some false } } ∧
      exec (.hretSkip g) s = .next { s with issue := some { c with hret := some true } })

/-- R30, R31, R32, R155: a barrier at which warps have arrived is complete when its count is that of the block's warps that have not
exited and every arrived warp's accesses have performed (log entry 16, DEDUCED).  Then its count is 0 again and the arrived warps go on, no other warp and no
byte of memory changes; else nothing does. -/
def Sys2Proof.Claims.BarrierCompletes : Prop :=
  ∀ (s : State) (bid id : Nat) (b : Block), s.block? bid = some b → id < b.bars.length →
    let arrived := b.warps.filter fun w => w.wait == .bar id
    let complete := arrived ≠ [] ∧ b.bars[id]? = some (b.warps.filter fun w => !w.exited).length ∧ ∀ w ∈ arrived, w.hold = []
    (complete → ∃ b', (s.barrierDone bid id).block? bid = some b' ∧ b'.bars[id]? = some 0 ∧
      (∀ j, j ≠ id → b'.bars[j]? = b.bars[j]?) ∧
      (∀ n w, b.warp? n = some w → b'.warp? n = some (if w.wait = .bar id then { w with wait := .none } else w)) ∧
      SameMemory s (s.barrierDone bid id) ∧ ∀ n, n ≠ bid → (s.barrierDone bid id).block? n = s.block? n) ∧
    (¬ complete → s.barrierDone bid id = s)

/-- R246, R249, R261: what only a handler may do traps outside one, and what a handler may not do is the fatal error `0x82` in
one. -/
def Sys2Proof.Claims.HandlerOnly : Prop :=
  ∀ (s : State) (c : Issue) (bl : Block) (w : Warp) (g : Guard) (a id n sr : Nat) (na : Bool) (d : SrdDst),
    Issuing s c bl w → qGuard w g = true → c.clear = false →
    (w.bank = none →
      Traps s (.hret g) c 0x05 0 ∧ Traps s (.hretSkip g) c 0x05 0 ∧ Traps s (.mspill g n) c 0x05 0 ∧
      Traps s (.mfill g n) c 0x05 0 ∧
      ((0x080 ≤ sr ∧ sr ≤ 0x088) ∨ (0x100 ≤ sr ∧ sr ≤ 0x13F) ∨ (0x200 ≤ sr ∧ sr ≤ 0x2BF) →
        Traps s (.srd g d sr) c 0x05 0 ∧ Traps s (.swr g a sr) c 0x05 0)) ∧
    (w.bank.isSome = true →
      Traps s (.bar g id) c 0x82 0 ∧ Traps s (.regroup g a na) c 0x82 0 ∧ Traps s (.ungroup g) c 0x82 0)

/-- A warp at the moment its trap is taken: nothing is pending; an over-draw has cost it its grant (R192, R246). -/
def Sys2Proof.Claims.atTrap (t : TrapInfo) (v : Warp) : Warp :=
  if t.code = 0x61 then { v with pend := [], grant := none, overdraw := false } else { v with pend := [] }

/-- The trap of a placed warp of a live context is due: its results have landed and its long loads have returned before this
cycle (R58, R246), and it waits neither at a synchronisation nor in `ftry`; no precise stop holds it (log entry 106). -/
def Sys2Proof.Claims.TrapDue (s : State) (b : Block) (w : Warp) (t : TrapInfo) (x : Context) : Prop :=
  s.block? b.bid = some b ∧ b.warp? w.num = some w ∧ w.trap = some t ∧ b.status = .placed ∧ s.ctx? b.ctx = some x ∧
  x.fatal = none ∧ w.stopped = false ∧ w.flights = [] ∧ w.wait = .none ∧ w.trying = none ∧ ∀ p ∈ w.pend, ∃ k, p.returned = some k ∧ k < s.nowCycle b.stack (w.core / 8)

/-- R246: taking a trap.  A placed warp of a live context whose results have landed enters the handler its image gives the
trap's class: cause, `sys.hpc`, `sys.hnext` and argument are saved, the program bank is set aside, and the handler starts at its
entry with empty stacks, all lanes active, `b0`–`b7` and `s48`–`s61` at 0, `s62` the cause, `s63` = `sys.hpc` and `q12`–`q15`
false; a turn of the warp's own ends (R58).  No other warp and no byte of memory changes.  A trap that is not due yet is not taken. -/
def Sys2Proof.Claims.TrapEntered : Prop :=
  (∀ (s : State) (b : Block) (w : Warp), s.block? b.bid = some b → b.warp? w.num = some w →
    w.trap = none ∨ b.status ≠ .placed ∨ s.dead b.ctx = true ∨ w.stopped = true ∨ w.flights ≠ [] ∨ w.wait ≠ .none ∨ w.trying.isSome = true ∨
      (∃ p ∈ w.pend, ∀ k, p.returned = some k → s.nowCycle b.stack (w.core / 8) ≤ k) →
    exec (.trapEntry b.bid w.num) s = .next s) ∧
  ∀ (s : State) (b : Block) (w : Warp) (t : TrapInfo) (x : Context) (im : Image) (h : Handler) (e : Nat),
    TrapDue s b w t x → w.bank = none → t.code < 0x80 → s.image? b.ctx b.image = some im → im.handler = some h →
    h.entry.getD (t.code / 16) 0xFFFFFFFF = e → e ≠ 0xFFFFFFFF →
    let p := s.pitch (coreId b w) w.pitch
    let u := if p.holder = some (b.bid, w.num) then s.setPitch { p with holder := none } else s
    exec (.trapEntry b.bid w.num) s = .next (u.modWarp b.bid w.num fun v => (atTrap t v).enterHandler t e) ∧
    (let v := (atTrap t w).enterHandler t e
    v.hcause = t.code ∧ v.hpc = t.hpc ∧ v.hnext = t.hnext ∧ v.trapArg = t.arg ∧ v.pc = e ∧ v.idle = 0 ∧ v.loops = [] ∧
    v.masks = [] ∧ v.active = allLanes ∧ v.xfer = none ∧ v.trap = none ∧ v.pend = [] ∧ (∀ r, v.bread r = 0) ∧
    (w.s.length = 64 → (∀ r, r < 48 → v.sread r = w.sread r) ∧ (∀ r, 48 ≤ r → r < 62 → v.sread r = 0) ∧
      v.sread 62 = BitVec.ofNat 64 t.code ∧ v.sread 63 = BitVec.ofNat 64 t.hpc) ∧
    (w.q.length = 16 → (∀ r, r < 12 → v.qread r = w.qread r) ∧ ∀ r, 12 ≤ r → r < 16 → v.qread r = false) ∧
    v.v = w.v ∧ v.p = w.p ∧ v.h = w.h ∧ v.x = w.x ∧ v.parked = w.parked ∧
    (t.code = 0x61 → v.grant = none) ∧ (t.code ≠ 0x61 → v.grant = w.grant) ∧
    (t.code < 0x20 ∨ 0x2B < t.code → v.records = w.records) ∧
    v.bank = some { pc := w.pc, idle := w.idle, after := t.loops, left := t.idle, loops := w.loops, masks := w.masks,
                    active := w.active, xfer := w.xfer, b := w.b, sHi := w.s.drop 48, qHi := w.q.drop 12 })

/-- R246, R350, R372, R373: with no handler for the class, or in handler mode, a trap other than the deadline-risk notice, which R189
and R350 except, is a fatal context error: the context's
fatal record names its code, the trap, the word and the warp, and no warp of the context issues any more. -/
def Sys2Proof.Claims.TrapWithoutHandlerIsFatal : Prop :=
  ∀ (s : State) (b : Block) (w : Warp) (t : TrapInfo) (x : Context), TrapDue s b w t x → t.code < 0x80 → t.code ≠ 0x50 →
    (w.bank.isSome = true ∨ ∀ im h, s.image? b.ctx b.image = some im → im.handler = some h →
      h.entry.getD (t.code / 16) 0xFFFFFFFF = 0xFFFFFFFF) →
    ∃ u y f, exec (.trapEntry b.bid w.num) s = .next u ∧ u.ctx? b.ctx = some y ∧ y.fatal = some f ∧
      f.code = (if w.bank.isSome = true then 0x81 else 0x80) ∧ f.trap = t.code ∧ f.offset = t.hpc ∧ f.warp = w.num ∧
      f.block = b.num ∧ f.slot = t.slot ∧ f.rcd = t.rcd ∧ f.stamp = s.tb.latest ∧ u.mem = s.mem ∧
      ∀ (k : Block) (v : Warp) (n : Nat), k.ctx = b.ctx → u.ready k v n = false

/-- R247: the return from a handler.  The program bank stands again, the parked set and the fault records are cleared; `hret`
goes on at `sys.hpc` with the loop stack the word began with, `hret.skip` at `sys.hnext` past the word, with the loop stack that goes
with it (log entry 17, DEDUCED); registers outside the
bank keep what the handler left.  A reply still due to a register of the handler's own bank reaches none, nor does the outcome of an
`ftry` under way.  A handler entered and left at
once changes no register of the program. -/
def Sys2Proof.Claims.HandlerReturns : Prop :=
  (∀ (w : Warp) (k : Bank) (skip : Bool), w.bank = some k →
    let v := w.leaveHandler skip
    v.bank = none ∧ v.pc = (if skip then w.hnext else w.hpc) ∧ v.idle = (if skip then k.left else k.idle) ∧
    v.loops = dropLevels (if skip then k.after else k.loops) (if skip then w.hnext else w.hpc) ∧
    v.masks = k.masks ∧ v.active = k.active ∧ v.xfer = k.xfer ∧ v.b = k.b ∧ v.parked = 0 ∧ v.records = [] ∧
    (48 ≤ w.s.length → (∀ r, r < 48 → v.sread r = w.sread r) ∧ (∀ r, 48 ≤ r → v.sread r = k.sHi.getD (r - 48) 0)) ∧
    (12 ≤ w.q.length → (∀ r, r < 12 → v.qread r = w.qread r) ∧ (∀ r, 12 ≤ r → v.qread r = k.qHi.getD (r - 12) false)) ∧
    v.v = w.v ∧ v.p = w.p ∧ v.h = w.h ∧ v.x = w.x) ∧
  (∀ (w : Warp) (t : TrapInfo) (e : Nat), 48 ≤ w.s.length → 12 ≤ w.q.length → w.bank = none →
    let v := (w.enterHandler t e).leaveHandler false
    v.s = w.s ∧ v.q = w.q ∧ v.b = w.b ∧ v.masks = w.masks ∧ v.active = w.active ∧ v.xfer = w.xfer ∧ v.pc = t.hpc ∧
    v.bank = none) ∧
  (∀ (s : State) (n k : Nat) (skip : Bool) (w : Warp), s.warp? n k = some w →
    let t := s.handlerReturn n k skip
    (∃ v, t.warp? n k = some v ∧ v = { w.leaveHandler skip with pend := v.pend, trying := v.trying } ∧
      v.trying = w.trying.map (fun j => { j with q := if j.q < 12 then j.q else 0 }) ∧
      ∀ p, p ∈ v.pend ↔ p ∈ w.pend ∧ ∀ r, (p.reg = .s r → r < 48) ∧ (p.reg = .q r → r < 12)) ∧
    SameMemory s t ∧ (∀ i j, (i, j) ≠ (n, k) → t.warp? i j = s.warp? i j) ∧ t.reqs.length = s.reqs.length ∧
    (∀ r ∈ t.reqs, r.block = n → r.warp = k → ∀ q, (∃ g d, r.kind = .qput q g d) ∨ (∃ d g, r.kind = .qget d q g) → q < 12) ∧
    (∀ m ∈ t.rainfly.readers, m.block = n → m.warp = k → m.dv < 48 ∧ m.de < 48 ∧ m.dl < 48) ∧
    ∀ r ∈ s.reqs, r.block ≠ n ∨ r.warp ≠ k → r ∈ t.reqs) ∧
  (∀ (s : State) (c : Issue) (b : Block) (w : Warp) (skip : Bool), Issuing s c b w → w.bank.isSome = true → c.trapped = false →
    c.hret = some skip → ∃ v, s.finishWord.warp? c.block c.warp = some v ∧ v.bank = none ∧
      v.pc = if skip then w.hnext else w.hpc)

/-- Taking a trap and returning from its handler (a stop before it: log entry 106; the loop stack after hret.skip: log entry 17). -/
def Obligations.TrapsAndReturn : Prop :=
  Claims.TrapRaised ∧ Claims.TrapEntered ∧ Claims.TrapWithoutHandlerIsFatal ∧ Claims.HandlerReturns

/-- R247, R261: no slot operation by itself leaves or enters handler mode: it is left at the end of a word that carries an `hret`
and entered by taking a trap. -/
def Sys2Proof.Claims.SlotsKeepTheMode : Prop :=
  ∀ (s t : State) (i : Instr) (n k : Nat) (w v : Warp), (encode i).isSome = true → exec i s = .next t →
    s.warp? n k = some w → t.warp? n k = some v → v.handler = w.handler ∧ v.pc = w.pc ∧ v.hcause = w.hcause ∧ v.hpc = w.hpc ∧
      v.hnext = w.hnext

/-- Ends, barriers and their completion (it waits for accesses: log entry 16), software traps and the operations of handler mode. -/
def Obligations.WarpEndsAndHandlers : Prop :=
  Claims.WarpEndsAndBarriers ∧ Claims.BarrierCompletes ∧ Claims.HandlerOnly ∧ Claims.SlotsKeepTheMode

-- System registers and the operations of time, power and queries.

/-- R248, R249: `srd` gives a scalar its value for position 0 and a vector each lane's own, in the lanes taken; `swr` writes the
two spill registers; the values of the registers that name the warp's place and state. -/
def Sys2Proof.Claims.SystemRegisters : Prop :=
  ∀ (s : State) (c : Issue) (bl : Block) (w : Warp) (g : Guard) (n a sr l : Nat),
    Issuing s c bl w → qGuard w g = true →
    (w.bank.isSome = true ∨ srHandler sr = false →
      SWrites s (.srd g (.s n) sr) c n (BitVec.ofNat 64 (s.sysReg c bl w sr 0)) ∧
      Flies s (.srd g (.v n) sr) c 1 [.vreg n c.lanes (laneList.map fun l => BitVec.ofNat 32 (s.sysReg c bl w sr l))]) ∧
    (w.bank.isSome = true →
      Flies s (.swr g a 0x087) c 1 [.spillRec ((w.sread a).toNat % 2 ^ 12)] ∧
      Flies s (.swr g a 0x088) c 1 [.spillOff (w.sread a)]) ∧
    s.sysReg c bl w 0x000 l = l ∧ (w.region = none → s.sysReg c bl w 0x001 l = w.num) ∧
    s.sysReg c bl w 0x002 l = w.num ∧ s.sysReg c bl w 0x003 l = bl.num ∧ s.sysReg c bl w 0x004 l = w.pitch ∧
    s.sysReg c bl w 0x005 l = w.core ∧ s.sysReg c bl w 0x006 l = bl.vdie ∧ s.sysReg c bl w 0x007 l = bl.rcd.cls ∧
    s.sysReg c bl w 0x008 l = bl.rcd.warps + 1 ∧ s.sysReg c bl w 0x00C l = bl.stage ∧ s.sysReg c bl w 0x00D l = bl.task ∧
    s.sysReg c bl w 0x00E l = bl.ctx ∧ s.sysReg c bl w 0x010 l = c.cycle ∧
    s.sysReg c bl w 0x017 l = (s.stack? bl.stack).limit ∧
    (w.grant = none → s.sysReg c bl w 0x018 l = 0) ∧ (∀ x, w.grant = some x → s.sysReg c bl w 0x018 l = 16 + x) ∧
    (∀ r, r < 8 → s.sysReg c bl w (0x040 + r) l = (w.bread r).toNat) ∧
    s.sysReg c bl w 0x080 l = w.hcause ∧ s.sysReg c bl w 0x081 l = w.hpc ∧ s.sysReg c bl w 0x082 l = w.hnext ∧
    s.sysReg c bl w 0x083 l = w.parked.toNat ∧ s.sysReg c bl w 0x085 l = w.trapArg ∧
    s.sysReg c bl w 0x087 l = w.spillRec ∧ s.sysReg c bl w 0x088 l = w.spillOff.toNat

/-- R179, R251, R252: `clk` gives the bounds of the issuing die's interval; `info` its records; `vdhop` the hops between two
virtual dies of the context, all ones where one is none.  Hops are symmetric, at most 2, 0 between a
die and itself and 1 between neighbours. -/
def Sys2Proof.Claims.ClockAndQueries : Prop :=
  (∀ (s : State) (c : Issue) (bl : Block) (w : Warp) (x : Context) (g : Guard) (d e a : Nat) (b : SSrc),
    Issuing s c bl w → qGuard w g = true → s.ctx? bl.ctx = some x →
    Flies s (.clk g d e) c 1 [.sreg d (BitVec.ofNat 64 (s.stack? bl.stack).earliest),
      .latch 6 allLanes (splat (BitVec.ofNat 32 (s.stack? bl.stack).earliest)),
      .sreg e (BitVec.ofNat 64 (s.stack? bl.stack).latest)] ∧
    SWrites s (.info g d a 0) c d (BitVec.ofNat 64 (numericRecord (w.sread a).toNat)) ∧
    (∀ n, 5 < n → numericRecord n = 0) ∧
    SWrites s (.info g d a 1) c d (BitVec.ofNat 64 (1 + s.part * 2 ^ 16 + x.vdies.length * 2 ^ 24 + 32 * 2 ^ 32)) ∧
    SWrites s (.info g d a 2) c d (BitVec.ofNat 64 (bl.rcd.tmem + bl.rcd.regs * 2 ^ 32 + bl.rcd.dsize * 2 ^ 40)) ∧
    (∀ k, bl.allocOn w.core = some k → SWrites s (.info g d a 3) c d (BitVec.ofNat 64 k.base)) ∧
    (∀ p q, x.vdies[(w.sread a).toNat]? = some p → x.vdies[(b.val c w).toNat]? = some q →
      SWrites s (.vdhop g d a b) c d (BitVec.ofNat 64 (hops p q))) ∧
    (x.vdies[(w.sread a).toNat]? = none ∨ x.vdies[(b.val c w).toNat]? = none →
      SWrites s (.vdhop g d a b) c d (BitVec.allOnes 64))) ∧
  (∀ p q, p < 4 → q < 4 → hops p q = hops q p ∧ hops p q ≤ 2 ∧ (hops p q = 0 ↔ p = q) ∧
    (hops p q = 1 ↔ q = (p + 1) % 4 ∨ q = (p + 3) % 4))

/-- R187: `dline` opens a step in place of any open one; `dtick` adds units done to the open step, saturating at 2^32 − 1; `dclose`
tells whether the step ends by its deadline and closes it: without an open step `dtick` does nothing and `dclose` writes false. -/
def Sys2Proof.Claims.DeadlineSteps : Prop :=
  ∀ (s : State) (c : Issue) (bl : Block) (w : Warp) (g : Guard) (a q : Nat) (b : SSrc),
    Issuing s c bl w → qGuard w g = true →
    let closes := fun (ok : Bool) => exec (.dclose g q) s = .next ((s.fly c 1 [.qreg q ok]).modWarp c.block c.warp
      fun x => { x with step := x.step.map fun d => { d with isOpen := false } })
    (let d : DStep := { isOpen := true, deadline := (w.sread a).toNat, expected := max ((b.val c w).toNat % 2 ^ 32) 1, done := 0,
                        cycles := 0, risk := false, due := false }
    WarpBecomes s (.dline g a b) c (fun x => { x with step := some d })) ∧
    WarpBecomes s (.dtick g b) c (fun x => { x with step := x.step.map fun d =>
      if d.isOpen then { d with done := min (d.done + (b.val c w).toNat % 2 ^ 32) (2 ^ 32 - 1) } else d }) ∧
    (∀ d, w.step = some d → d.isOpen = true → closes (decide ((s.stack? bl.stack).latest ≤ d.deadline))) ∧
    (w.step = none ∨ (∃ d, w.step = some d ∧ d.isOpen = false) → closes false)

/-- System registers, clocks, queries and deadline steps. -/
def Obligations.SystemAndTime : Prop :=
  Claims.SystemRegisters ∧ Claims.ClockAndQueries ∧ Claims.DeadlineSteps

-- The P slot.

/-- R55, R256: the lane-wise predicate operations act in the lanes that take part, and do nothing when there is none; `vany` and `vall` write their `q` also when no lane
does, and `vcount` counts the lanes into its register and `l7`. -/
def Sys2Proof.Claims.LanePredicates : Prop :=
  ∀ (s : State) (c : Issue) (bl : Block) (w : Warp) (g : Guard) (d a b : Nat) (na nb : Bool), Issuing s c bl w →
    let m := takers c w g
    let x := fun l => (w.pread a).getLsbD l != na
    let y := fun l => (w.pread b).getLsbD l != nb
    (∀ l, l < 32 → m.getLsbD l = (c.lanes.getLsbD l && ((w.pread g.idx).getLsbD l != g.neg))) ∧
    (∃ r, LanesFly s (.pand g d a na b nb) c m 1 [.preg d m r] ∧ ∀ l, l < 32 → r.getLsbD l = (x l && y l)) ∧
    (∃ r, LanesFly s (.por g d a na b nb) c m 1 [.preg d m r] ∧ ∀ l, l < 32 → r.getLsbD l = (x l || y l)) ∧
    (∃ r, LanesFly s (.pxor g d a na b nb) c m 1 [.preg d m r] ∧ ∀ l, l < 32 → r.getLsbD l = (x l != y l)) ∧
    (∃ r, LanesFly s (.pmov g d a na) c m 1 [.preg d m r] ∧ ∀ l, l < 32 → r.getLsbD l = x l) ∧
    (∃ r, LanesFly s (.pset g d a na) c m 1 [.preg d m r] ∧ ∀ l, l < 32 → r.getLsbD l = (w.qread a != na)) ∧
    (∃ q, Flies s (.vany g d a na) c 1 [.qreg d q] ∧ (q = true ↔ ∃ l, l < 32 ∧ m.getLsbD l = true ∧ x l = true)) ∧
    (∃ q, Flies s (.vall g d a na) c 1 [.qreg d q] ∧ (q = true ↔ ∀ l, l < 32 → m.getLsbD l = true → x l = true)) ∧
    (∃ n, Flies s (.vcount g d a na) c 1 [.sreg d (BitVec.ofNat 64 n), .latch 7 allLanes (splat (BitVec.ofNat 32 n))] ∧
      n = ((List.range 32).filter fun l => m.getLsbD l && x l).length)

/-- R257: `qand`, `qor` and `qxor`, and the copy of a `q` by `qand` with `q0`. -/
def Sys2Proof.Claims.WarpPredicates : Prop :=
  ∀ (s : State) (c : Issue) (bl : Block) (w : Warp) (g : Guard) (d a b : Nat) (na nb : Bool), Issuing s c bl w →
    qGuard w g = true →
    Flies s (.qand g d a na b nb) c 1 [.qreg d ((w.qread a != na) && (w.qread b != nb))] ∧
    Flies s (.qor g d a na b nb) c 1 [.qreg d ((w.qread a != na) || (w.qread b != nb))] ∧
    Flies s (.qxor g d a na b nb) c 1 [.qreg d ((w.qread a != na) != (w.qread b != nb))] ∧
    Flies s (.qand g d a na 0 false) c 1 [.qreg d (w.qread a != na)]

/-- The predicate operations of the P slot. -/
def Obligations.Predicates : Prop :=
  Claims.LanePredicates ∧ Claims.WarpPredicates

/-- R33, R258: the mask a `mpush`, `melse` or `mpop` sets stands from the next word on.  At depth 16 `mpush` traps 0x02; at depth 0, and
at a region's base in its program, `melse` and `mpop` trap 0x03; a `mpop` with lanes parked is a convergence point.  A `mpop` after a
`mpush` gives the mask and the stack back. -/
def Sys2Proof.Claims.MaskStack : Prop :=
  (∀ (s : State) (c : Issue) (bl : Block) (w : Warp) (g : Guard) (a : Nat) (na : Bool), Issuing s c bl w →
    qGuard w g = true →
    let sets := fun (i : Instr) (m : Mask) (l : List MaskEntry) =>
      exec i s = .next { s with issue := some { c with newMask := some (m, l) } }
    let p := if na then ~~~(w.pread a) else w.pread a
    (w.masks.length < 16 →
      sets (.mpush g a na) (w.active &&& p) (w.masks ++ [{ saved := w.active, other := w.active &&& ~~~p }])) ∧
    (∀ l e, w.masks = l ++ [e] → bl.masksOut w = false →
      sets (.melse g) e.other (l ++ [{ e with other := 0 }]) ∧
      (w.parked = 0 ∨ w.bank.isSome = true → sets (.mpop g) e.saved l)) ∧
    (bl.masksOut w = true ↔ w.masks = [] ∨
      w.bank = none ∧ w.region.isSome = true ∧ w.masks.length = bl.baseDepth w) ∧
    (c.clear = false →
      (16 ≤ w.masks.length → Traps s (.mpush g a na) c 0x02 0) ∧
      (bl.masksOut w = true → Traps s (.melse g) c 0x03 0 ∧ Traps s (.mpop g) c 0x03 0) ∧
      (bl.masksOut w = false → w.parked ≠ 0 → w.bank = none →
        Traps s (.mpop g) c (if w.records.all fun r => r.cause == 0x30 then 0x30 else 0x01) 0))) ∧
  (∀ (w : Warp) (p : Mask),
    popMask { w with active := (pushMask w p).1, masks := (pushMask w p).2 } = (w.active, w.masks))

/-- R34 to R36, R55, R155, R259, R261: `regroup` arrives whatever its guard, which tells whether its lanes count as active;
`ungroup` of a regrouped warp arrives; both wait for the warp's earlier requests (log entry 16, DEDUCED).  With its guard true, in a region `regroup` traps
0x07, at a regroup that does not match it 0x09, outside a region `ungroup` traps 0x0A, in a word with `bar` or `exit` both trap
0x0B, and in a region `bar` and `exit` trap 0x08; a `regroup` whose guard is false raises none of these (log entry 88). -/
def Sys2Proof.Claims.Regrouping : Prop :=
  ∀ (s : State) (c : Issue) (bl : Block) (w : Warp) (g : Guard) (a id : Nat) (na : Bool), Issuing s c bl w → w.bank = none →
    let waits := fun (i : Instr) (k : Wait) => exec i s = .next (s.modWarp c.block c.warp fun x =>
      { x with wait := k, hold := x.hold ++ [{ kind := .sync, upto := c.uid }] })
    (w.region = none → bl.mismatch w c.tok = false → qGuard w g = false ∨ (wordBar c.word = false ∧ w.parked = 0) →
      waits (.regroup g a na)
        (.regroup c.tok w.loops.length w.masks.length (if na then ~~~(w.pread a) else w.pread a) (qGuard w g))) ∧
    (qGuard w g = false → w.region.isSome = true ∨ bl.mismatch w c.tok = true → exec (.regroup g a na) s = .next s) ∧
    (qGuard w g = true → w.region.isSome = true → wordBar c.word = false → w.parked = 0 → waits (.ungroup g) .ungroup) ∧
    (qGuard w g = true → c.clear = false →
      (w.region.isSome = true → Traps s (.regroup g a na) c 0x07 0) ∧
      (w.region = none → bl.mismatch w c.tok = true → Traps s (.regroup g a na) c 0x09 0) ∧
      (w.region = none → bl.mismatch w c.tok = false → wordBar c.word = true → Traps s (.regroup g a na) c 0x0B 0) ∧
      (w.region = none → Traps s (.ungroup g) c 0x0A 0) ∧
      (w.region.isSome = true → wordBar c.word = true → Traps s (.ungroup g) c 0x0B 0) ∧
      (w.region.isSome = true → Traps s (.bar g id) c 0x08 0 ∧ Traps s (.exit g) c 0x08 0))

/-- R34: lane position l of `x` comes before that of `y` in the order of a regroup: active with p true, active with p false, inactive,
each by ascending warp number. -/
def Sys2Proof.Claims.packsBefore (l : Nat) (x y : Warp) : Prop :=
  let key := fun (w : Warp) => match w.wait with
    | .regroup _ _ _ p _ => if regroupActive w l then (if p.getLsbD l then 0 else 1) else 2
    | _ => 2
  key x < key y ∨ (key x = key y ∧ x.num < y.num)

/-- What a warp keeps when its lanes change: its sequencer and its scalar state. -/
def Sys2Proof.Claims.sameScalars (v w : Warp) : Prop :=
  v.num = w.num ∧ v.pc = w.pc ∧ v.loops = w.loops ∧ v.s = w.s ∧ v.q = w.q ∧ v.b = w.b ∧ v.h = w.h ∧ v.x = w.x ∧ v.exited = w.exited

/-- Lane `l` of `v` is lane `l` of `x`: its vector and predicate registers and whether it is parked. -/
def Sys2Proof.Claims.sameLane (v x : Warp) (l : Nat) : Prop :=
  (∀ r, r < v.v.length → (v.vread r).getD l 0 = (x.vread r).getD l 0) ∧
  (∀ r, r < 48 → (v.p.getD r 0).getLsbD l = (x.p.getD r 0).getLsbD l) ∧ v.parked.getLsbD l = x.parked.getLsbD l

/-- R34: the participants of a regroup are the warps of the block on the pitch that have not exited.  When all have arrived and nothing
of theirs is outstanding (log entries 16, DEDUCED, and 118), regrouped warp j, with the scalar state of the j-th participant, receives at
each position the j-th lane of the order of R34, active ones active; a region records members, masks and homes.  No other warp and no
byte of memory changes. -/
def Sys2Proof.Claims.RegroupCompletes : Prop :=
  ∀ (s : State) (bid core pitch : Nat) (b : Block), s.block? bid = some b → (b.warps.map (·.num)).Nodup →
    let ps := b.participants core pitch
    let home := fun (j l : Nat) => ((packOrder ps l)[j]?).getD 0
    let t := s.regroupDone bid core pitch
    let complete := ps ≠ [] ∧ (∀ w ∈ ps, ∃ o d m p g, w.wait = .regroup o d m p g) ∧ s.calm b ps = true
    (∀ w, w ∈ ps ↔ w ∈ b.warps ∧ w.core = core ∧ w.pitch = pitch ∧ w.exited = false) ∧
    (ps.map (·.num)).Pairwise (· < ·) ∧
    (∀ l, (packOrder ps l).Perm (ps.map (·.num)) ∧
      ∀ x ∈ ps, ∀ y ∈ ps, packsBefore l x y → (packOrder ps l).idxOf x.num < (packOrder ps l).idxOf y.num) ∧
    SameMemory s t ∧ (¬ complete → t = s) ∧
    (complete →
      (∀ (j : Nat) (w : Warp), ps[j]? = some w → ∃ v, t.warp? bid w.num = some v ∧ v.region = some j ∧ v.wait = .none ∧
        sameScalars v w ∧ v.masks = w.masks ∧ v.v.length = w.v.length ∧
        ∀ l, l < 32 → ∀ x ∈ ps, x.num = home j l → sameLane v x l ∧ v.active.getLsbD l = regroupActive x l) ∧
      (∀ w ∈ b.warps, w ∉ ps → t.warp? bid w.num = some w) ∧
      ∃ b' r, t.block? bid = some b' ∧ b'.regions.find? (fun r => r.core == core && r.pitch == pitch) = some r ∧
        r.members = ps.map (·.num) ∧ r.masks = ps.map (·.active) ∧ r.mstacks = ps.map (·.masks) ∧
        r.table.length = ps.length ∧ ∀ j l, j < ps.length → l < 32 → (r.table.getD j []).getD l 0 = home j l)

/-- R35: when every member of a region that has not exited has arrived at its `ungroup` and nothing of theirs is outstanding (log entry
16, DEDUCED), each lane
returns to its home warp, which keeps the scalar state it has and takes the mask and the mask stack it had at the regroup; the region
is gone.  No other warp and no byte of memory changes.  Until then nothing does. -/
def Sys2Proof.Claims.UngroupCompletes : Prop :=
  ∀ (s : State) (bid core pitch : Nat) (b : Block) (r : Region), s.block? bid = some b → (b.warps.map (·.num)).Nodup →
    b.regions.find? (fun q => q.core == core && q.pitch == pitch) = some r → r.members.Nodup → r.table.length = r.members.length →
    let live := b.warps.filter fun w => r.members.contains w.num && !w.exited
    let home := fun (i l : Nat) => (r.table.getD i []).getD l 0
    let t := s.ungroupDone bid core pitch
    let complete := live ≠ [] ∧ (∀ w ∈ live, w.wait = .ungroup) ∧ s.calm b live = true
    SameMemory s t ∧ (¬ complete → t = s) ∧
    (complete →
      (∀ (j : Nat), ∀ w ∈ live, r.members[j]? = some w.num → ∃ v, t.warp? bid w.num = some v ∧ v.region = none ∧ v.wait = .none ∧
        v.active = r.masks.getD j 0 ∧ v.masks = r.mstacks.getD j [] ∧ sameScalars v w ∧ v.v.length = w.v.length ∧
        ∀ (l i : Nat), ∀ x ∈ b.warps, l < 32 → r.members[i]? = some x.num → home i l = w.num →
          (∀ k, k < r.members.length → home k l = w.num → k = i) → sameLane v x l) ∧
      (∀ w ∈ b.warps, w ∉ live → t.warp? bid w.num = some w) ∧
      ∃ b', t.block? bid = some b' ∧ b'.regions.find? (fun q => q.core == core && q.pitch == pitch) = none)

/-- R136, R260: in a handler, at their issue (log entry 35, DEDUCED), `mspill n` stores the n oldest entries of the program's mask stack, eight bytes each, and drops them;
`mfill n` puts n entries back below the others; `sys.mspill_off` moves by 8 n; an access of a metered frame counts 8 bytes.  No
other byte changes. -/
def Sys2Proof.Claims.MaskSpills : Prop :=
  ∀ (s : State) (c : Issue) (bl : Block) (w : Warp) (k : Bank) (g : Guard) (n : Nat) (ls : List Loc), Issuing s c bl w →
    qGuard w g = true → w.bank = some k →
    let counts := fun (t : State) => ∀ r base off j m, ls = [.tensor base off] → (s.pool bl)[w.spillRec]? = some r →
      s.meterOf bl r off = some j → s.rainfly.meters.find? (fun m => m.region == j) = some m →
      t.meterVal j = min (2 ^ 64 - 1) (m.value + 8)
    (n ≤ k.masks.length →
      spillLocs ((List.range n).map fun i => s.spillCheck bl w true (w.spillOff + BitVec.ofNat 64 (8 * i)).toNat) = .ok ls →
      ls.any s.absent = false →
      (ls.map s.addrOf).Pairwise (fun x y => x + 8 ≤ y ∨ y + 8 ≤ x) → s.mem.wf = true →
      ∃ t v, exec (.mspill g n) s = .next t ∧ t.warp? c.block c.warp = some v ∧
        v.bank = some { k with masks := k.masks.drop n } ∧ v.spillOff = w.spillOff + BitVec.ofNat 64 (8 * n) ∧ counts t ∧
        (∀ (i : Nat) (l : Loc) (e : MaskEntry), ls[i]? = some l → k.masks[i]? = some e → t.mem.readBytes (s.addrOf l) 8 = e.bytes) ∧
        ∀ a, (∀ l ∈ ls, a < s.addrOf l ∨ s.addrOf l + 8 ≤ a) → t.mem.read a = s.mem.read a) ∧
    (k.masks.length + n ≤ 16 →
      spillLocs ((List.range n).map fun i =>
        s.spillCheck bl w false (w.spillOff - BitVec.ofNat 64 (8 * n) + BitVec.ofNat 64 (8 * i)).toNat) = .ok ls →
      ls.any s.absent = false → c.stores = [] →
      (∀ l ∈ ls, ∀ j, j < 8 → s.addrOf l + j ∉ s.hotBytes (some (c.block, c.warp)) s.uid) →
      ∃ t v, exec (.mfill g n) s = .next t ∧ t.warp? c.block c.warp = some v ∧
        v.bank = some { k with masks := (ls.map fun l => MaskEntry.ofBytes (s.mem.readBytes (s.addrOf l) 8)) ++ k.masks } ∧
        v.spillOff = w.spillOff - BitVec.ofNat 64 (8 * n) ∧ counts t ∧ SameMemory s t) ∧
    (c.clear = false → (k.masks.length < n → Traps s (.mspill g n) c 0x06 0) ∧
      (16 < k.masks.length + n → Traps s (.mfill g n) c 0x06 0)) ∧
    (∀ e : MaskEntry, MaskEntry.ofBytes e.bytes = e)

/-- The mask stack, its spills (at issue: log entry 35), and regroups from arrival to return (waits: log entry 16; a false guard: log entry 88). -/
def Obligations.MasksAndRegroups : Prop :=
  Claims.MaskStack ∧ Claims.Regrouping ∧ Claims.RegroupCompletes ∧ Claims.UngroupCompletes ∧ Claims.MaskSpills

-- The A slots.

/-- R287: the address-stream operations: `agbind` names a record and clears the stream, `agset`, `agadd`, `agstep` and `aglane`
write one field, `agget` reads one; the latch of the unit takes each lane's coordinate. -/
def Obligations.AddressStreams : Prop :=
  (∀ (s : State) (c : Issue) (bl : Block) (w : Warp) (g : Guard) (x dim d : Nat) (v : ASrc) (f : AField), Issuing s c bl w →
    qGuard w g = true →
    let y : Word32 := (v.val c w).setWidth 32
    let st := w.xread x
    let lanes := fun (r : Word32) => laneList.map fun l =>
      if dim = st.sdim then r + BitVec.ofNat 32 l * st.step.signExtend 32 else r
    Flies s (.agbind g x v) c 1 [.xreg x (.bind ((v.val c w).toNat % 4096))] ∧
    Flies s (.agset g x dim v) c 1 [.xreg x (.setC dim y), .latch c.cur.latch allLanes (lanes y)] ∧
    Flies s (.agadd g x dim v) c 1 [.xreg x (.setC dim (st.c.getD dim 0 + y)),
      .latch c.cur.latch allLanes (lanes (st.c.getD dim 0 + y))] ∧
    Flies s (.agstep g x dim v) c 1 [.xreg x (.setI dim y)] ∧
    Flies s (.aglane g x dim v) c 1 [.xreg x (.setLane ((v.val c w).setWidth 16) dim)] ∧
    Flies s (.agget g x f d) c 1 [.sreg d (st.field f), .latch c.cur.latch allLanes (splat ((st.field f).setWidth 32))]) ∧
  (∀ (st : AStream) (k n : Nat) (v : Word32), k < st.c.length → k < st.i.length →
    st.set (.bind n) = { rcd := n, c := [0, 0, 0, 0], i := [0, 0, 0, 0], step := 0, sdim := 0 } ∧
    (st.set (.setC k v)).field (.c k) = v.setWidth 64 ∧ (st.set (.setI k v)).field (.i k) = v.signExtend 64 ∧
    (st.set (.setC k v)).field .recIdx = BitVec.ofNat 64 st.rcd ∧
    (∀ j, j ≠ k → (st.set (.setC k v)).c[j]? = st.c[j]? ∧ (st.set (.setI k v)).i[j]? = st.i[j]?) ∧
    (st.set (.setC k v)).i = st.i ∧ (st.set (.setI k v)).c = st.c)

-- The V and X slots.

/-- A vector result of 32 bits: at latency `lat`, in the lanes of `m`, `r` goes to the destination register, if there is one, and
to the latch of the unit the slot runs on (R49, R50); with no lane nothing is sent (R55, R56). -/
def Sys2Proof.Claims.VWrites (s : State) (i : Instr) (c : Issue) (d : VDst) (m : Mask) (lat : Nat) (r : Lanes) : Prop :=
  LanesFly s i c m lat ((match d with
    | .reg n => [Effect.vreg n m r]
    | .nw => []) ++ [.latch c.cur.latch m r])

/-- A vector result of 64 bits: the low halves to the even register and the latch, the high halves to the odd one (R264). -/
def Sys2Proof.Claims.VWrites64 (s : State) (i : Instr) (c : Issue) (d : VDst) (m : Mask) (lat : Nat) (r : List Word64) : Prop :=
  LanesFly s i c m lat ((match d with
    | .reg n => [Effect.vreg n m (r.map fun x : Word64 => x.setWidth 32),
               .vreg (n + 1) m (r.map fun x : Word64 => (x >>> 32).setWidth 32)]
    | .nw => []) ++ [.latch c.cur.latch m (r.map fun x : Word64 => x.setWidth 32)])

/-- Every lane's result is `f` of its operands. -/
def Sys2Proof.Claims.Gives1 (s : State) (i : Instr) (c : Issue) (d : VDst) (m : Mask) (lat : Nat) (a : Lanes)
    (f : Word32 → Word32) : Prop :=
  ∃ r, VWrites s i c d m lat r ∧ ∀ (l : Nat) (x : Word32), a[l]? = some x → r[l]? = some (f x)
def Sys2Proof.Claims.Gives2 (s : State) (i : Instr) (c : Issue) (d : VDst) (m : Mask) (lat : Nat) (a b : Lanes)
    (f : Word32 → Word32 → Word32) : Prop :=
  ∃ r, VWrites s i c d m lat r ∧ ∀ (l : Nat) (x y : Word32), a[l]? = some x → b[l]? = some y → r[l]? = some (f x y)
def Sys2Proof.Claims.Gives3 (s : State) (i : Instr) (c : Issue) (d : VDst) (m : Mask) (lat : Nat) (a b e : Lanes)
    (f : Word32 → Word32 → Word32 → Word32) : Prop :=
  ∃ r, VWrites s i c d m lat r ∧ ∀ (l : Nat) (x y z : Word32), a[l]? = some x → b[l]? = some y → e[l]? = some z →
    r[l]? = some (f x y z)
def Sys2Proof.Claims.Gives64 (s : State) (i : Instr) (c : Issue) (d : VDst) (m : Mask) (lat : Nat) (a b : List Word64)
    (f : Word64 → Word64 → Word64) : Prop :=
  ∃ r, VWrites64 s i c d m lat r ∧ ∀ (l : Nat) (x y : Word64), a[l]? = some x → b[l]? = some y → r[l]? = some (f x y)
def Sys2Proof.Claims.Gives64One (s : State) (i : Instr) (c : Issue) (d : VDst) (m : Mask) (a : List Word64) (f : Word64 → Word64) :
    Prop :=
  ∃ r, VWrites64 s i c d m 2 r ∧ ∀ (l : Nat) (x : Word64), a[l]? = some x → r[l]? = some (f x)
/-- A compare writes its predicate in the lanes that take part, and 1 or 0 to the latch (R268). -/
def Sys2Proof.Claims.GivesPred (s : State) (i : Instr) (c : Issue) (pd : Nat) (m : Mask) (lat : Nat) (f : Nat → Option Bool) :
    Prop :=
  ∃ p r, LanesFly s i c m lat [.preg pd m p, .latch c.cur.latch m r] ∧
    ∀ l q, l < 32 → f l = some q → p.getLsbD l = q ∧ r[l]? = some (if q then 1 else 0)

/-- The effects of a lane slot: registers, predicates and latches in the lanes `m`. -/
def Sys2Proof.Claims.laneEffect (m : Mask) : Effect → Prop
  | .vreg _ k _ => k = m
  | .preg _ k _ => k = m
  | .latch _ k _ => k = m
  | _ => False

/-- R45, R265: the V and X operations, with their guards. -/
def Sys2Proof.Claims.laneGuard : Instr → Option Guard
  | .vadd g _ _ _ _ _ => some g
  | .vsub g _ _ _ _ _ => some g
  | .vmul g _ _ _ _ _ => some g
  | .vmulhi g _ _ _ _ => some g
  | .vmad g _ _ _ _ _ _ => some g
  | .vand g _ _ _ _ => some g
  | .vor g _ _ _ _ => some g
  | .vxor g _ _ _ _ => some g
  | .vshl g _ _ _ _ => some g
  | .vshr g _ _ _ _ => some g
  | .vsar g _ _ _ _ => some g
  | .vmin g _ _ _ _ => some g
  | .vmax g _ _ _ _ => some g
  | .vabs g _ _ _ _ => some g
  | .vneg g _ _ _ _ => some g
  | .vcmp g _ _ _ _ _ => some g
  | .vsel g _ _ _ _ _ => some g
  | .vmov g _ _ _ => some g
  | .vli g _ _ _ => some g
  | .vclz g _ _ _ => some g
  | .vpopc g _ _ _ => some g
  | .fadd g _ _ _ _ => some g
  | .fsub g _ _ _ _ => some g
  | .fmul g _ _ _ _ => some g
  | .fma g _ _ _ _ _ => some g
  | .fmin g _ _ _ => some g
  | .fmax g _ _ _ => some g
  | .fabs g _ _ => some g
  | .fneg g _ _ => some g
  | .fcmp g _ _ _ _ => some g
  | .fclass g _ _ => some g
  | .hadd2 g _ _ _ _ => some g
  | .hmul2 g _ _ _ _ => some g
  | .hfma2 g _ _ _ _ _ => some g
  | .cvt g _ _ _ _ _ => some g
  | .xchg g _ _ _ => some g
  | .xrot g _ _ _ => some g
  | .xbcast g _ _ _ => some g
  | .xidx g _ _ _ => some g
  | .xscan g _ _ _ _ => some g
  | .xred g _ _ _ => some g
  | .frcp g _ _ => some g
  | .frsq g _ _ => some g
  | .fexp2 g _ _ => some g
  | .flog2 g _ _ => some g
  | .fsin g _ _ => some g
  | .fcos g _ _ => some g
  | .ftanh g _ _ => some g
  | _ => none

/-- R55, R265, R283, R284: no V or X operation traps, and each writes only registers, predicates and latches, in the lanes that take
part, at one of the latencies 2, 3, 4 and 8; with no lane it does nothing. -/
def Sys2Proof.Claims.VectorsOnlyWriteLanes : Prop :=
  ∀ (s : State) (c : Issue) (bl : Block) (w : Warp) (i : Instr) (g : Guard), Issuing s c bl w → laneGuard i = some g →
    ∃ lat effs, LanesFly s i c (takers c w g) lat effs ∧ (lat = 2 ∨ lat = 3 ∨ lat = 4 ∨ lat = 8) ∧ ∀ e ∈ effs, laneEffect (takers c w g) e

/-- R264, R267: the integer operations on 32-bit lanes, wrapping. -/
def Sys2Proof.Claims.VectorInteger32 : Prop :=
  ∀ (s : State) (c : Issue) (bl : Block) (w : Warp) (g : Guard) (d : VDst) (a b e : VSrc) (ty : ITy), Issuing s c bl w →
    ty.is64 = false →
    let m := takers c w g
    let p := s.pitch (coreId bl w) w.pitch
    let x := a.lanes p c w
    let y := b.lanes p c w
    let z := e.lanes p c w
    let signed := decide (ty = .i32)
    Gives2 s (.vadd g d a b ty false) c d m 2 x y (fun x y => x + y) ∧
    Gives2 s (.vsub g d a b ty false) c d m 2 x y (fun x y => x - y) ∧
    Gives2 s (.vmul g d a b ty false) c d m 3 x y (fun x y => x * y) ∧
    Gives2 s (.vmulhi g d a b .i32) c d m 3 x y (fun x y => BitVec.ofInt 32 (x.toInt * y.toInt / 2 ^ 32)) ∧
    Gives2 s (.vmulhi g d a b .n32) c d m 3 x y (fun x y => BitVec.ofNat 32 (x.toNat * y.toNat / 2 ^ 32)) ∧
    Gives3 s (.vmad g d a b e ty false) c d m 3 x y z (fun x y z => x * y + z) ∧
    Gives2 s (.vand g d a b ty) c d m 2 x y (fun x y => x &&& y) ∧
    Gives2 s (.vor g d a b ty) c d m 2 x y (fun x y => x ||| y) ∧
    Gives2 s (.vxor g d a b ty) c d m 2 x y (fun x y => x ^^^ y) ∧
    Gives2 s (.vshl g d a b ty) c d m 2 x y (fun x y => x <<< (y.toNat % 32)) ∧
    Gives2 s (.vshr g d a b ty) c d m 2 x y (fun x y => x >>> (y.toNat % 32)) ∧
    Gives2 s (.vsar g d a b ty) c d m 2 x y (fun x y => x.sshiftRight (y.toNat % 32)) ∧
    Gives2 s (.vmin g d a b ty) c d m 2 x y (fun x y => if (if signed then y.slt x else y.ult x) then y else x) ∧
    Gives2 s (.vmax g d a b ty) c d m 2 x y (fun x y => if (if signed then x.slt y else x.ult y) then y else x) ∧
    Gives1 s (.vabs g d a .i32 false) c d m 2 x (fun x => if x.slt 0 then -x else x) ∧
    Gives1 s (.vneg g d a ty false) c d m 2 x (fun x => -x) ∧
    Gives1 s (.vmov g d a ty) c d m 2 x (fun x => x) ∧
    Gives1 s (.vpopc g d a ty) c d m 2 x (fun x => BitVec.ofNat 32 ((List.range 32).filter fun l => x.getLsbD l).length) ∧
    ∃ f : Word32 → Nat, Gives1 s (.vclz g d a ty) c d m 2 x (fun x => BitVec.ofNat 32 (f x)) ∧
      ∀ v : Word32, f v ≤ 32 ∧ v.toNat < 2 ^ (32 - f v) ∧ (f v < 32 → 2 ^ (31 - f v) ≤ v.toNat)

/-- R267: `.sat` clamps the exact result to the range of its type, at 32 bits and at 64. -/
def Sys2Proof.Claims.VectorSaturates : Prop :=
  ∀ (s : State) (c : Issue) (bl : Block) (w : Warp) (g : Guard) (d : VDst) (a b e : VSrc), Issuing s c bl w →
    let m := takers c w g
    let p := s.pitch (coreId bl w) w.pitch
    let x := a.lanes p c w
    let y := b.lanes p c w
    let z := e.lanes p c w
    let clamp := fun (v : Int) => BitVec.ofInt 32 (if v < -2147483648 then -2147483648 else if 2147483647 < v then 2147483647 else v)
    let clampN := fun (v : Int) => BitVec.ofInt 32 (if v < 0 then 0 else if 4294967295 < v then 4294967295 else v)
    let x6 := a.lanes64 p c w
    let y6 := b.lanes64 p c w
    let clamp6 := fun (v : Int) => BitVec.ofInt 64 (if v < -2 ^ 63 then -2 ^ 63 else if 2 ^ 63 - 1 < v then 2 ^ 63 - 1 else v)
    let clampN6 := fun (v : Int) => BitVec.ofInt 64 (if v < 0 then 0 else if 2 ^ 64 - 1 < v then 2 ^ 64 - 1 else v)
    Gives2 s (.vadd g d a b .i32 true) c d m 2 x y (fun x y => clamp (x.toInt + y.toInt)) ∧
    Gives2 s (.vadd g d a b .n32 true) c d m 2 x y (fun x y => clampN (x.toNat + y.toNat)) ∧
    Gives2 s (.vsub g d a b .i32 true) c d m 2 x y (fun x y => clamp (x.toInt - y.toInt)) ∧
    Gives2 s (.vsub g d a b .n32 true) c d m 2 x y (fun x y => clampN (x.toNat - y.toNat)) ∧
    Gives2 s (.vmul g d a b .i32 true) c d m 3 x y (fun x y => clamp (x.toInt * y.toInt)) ∧
    Gives2 s (.vmul g d a b .n32 true) c d m 3 x y (fun x y => clampN (x.toNat * y.toNat)) ∧
    Gives3 s (.vmad g d a b e .i32 true) c d m 3 x y z (fun x y z => clamp (x.toInt * y.toInt + z.toInt)) ∧
    Gives1 s (.vabs g d a .i32 true) c d m 2 x (fun x => clamp x.toInt.natAbs) ∧
    Gives1 s (.vneg g d a .i32 true) c d m 2 x (fun x => clamp (-x.toInt)) ∧
    Gives3 s (.vmad g d a b e .n32 true) c d m 3 x y z (fun x y z => clampN (x.toNat * y.toNat + z.toNat)) ∧
    Gives64 s (.vadd g d a b .i64 true) c d m 2 x6 y6 (fun x y => clamp6 (x.toInt + y.toInt)) ∧
    Gives64 s (.vadd g d a b .n64 true) c d m 2 x6 y6 (fun x y => clampN6 (x.toNat + y.toNat)) ∧
    Gives64 s (.vsub g d a b .i64 true) c d m 2 x6 y6 (fun x y => clamp6 (x.toInt - y.toInt)) ∧
    Gives64 s (.vsub g d a b .n64 true) c d m 2 x6 y6 (fun x y => clampN6 (x.toNat - y.toNat)) ∧
    Gives64 s (.vmul g d a b .i64 true) c d m 3 x6 y6 (fun x y => clamp6 (x.toInt * y.toInt)) ∧
    Gives64 s (.vmul g d a b .n64 true) c d m 3 x6 y6 (fun x y => clampN6 (x.toNat * y.toNat)) ∧
    Gives64One s (.vabs g d a .i64 true) c d m x6 (fun x => clamp6 x.toInt.natAbs) ∧
    Gives64One s (.vneg g d a .i64 true) c d m x6 (fun x => clamp6 (-x.toInt))

/-- R264, R267: the integer operations on register pairs of 64 bits. -/
def Sys2Proof.Claims.VectorInteger64 : Prop :=
  ∀ (s : State) (c : Issue) (bl : Block) (w : Warp) (g : Guard) (d : VDst) (a b : VSrc) (ty : ITy), Issuing s c bl w →
    ty.is64 = true →
    let m := takers c w g
    let p := s.pitch (coreId bl w) w.pitch
    let x := a.lanes64 p c w
    let y := b.lanes64 p c w
    let signed := decide (ty = .i64)
    Gives64 s (.vadd g d a b ty false) c d m 2 x y (fun x y => x + y) ∧
    Gives64 s (.vsub g d a b ty false) c d m 2 x y (fun x y => x - y) ∧
    Gives64 s (.vmul g d a b ty false) c d m 3 x y (fun x y => x * y) ∧
    Gives64 s (.vand g d a b ty) c d m 2 x y (fun x y => x &&& y) ∧
    Gives64 s (.vor g d a b ty) c d m 2 x y (fun x y => x ||| y) ∧
    Gives64 s (.vxor g d a b ty) c d m 2 x y (fun x y => x ^^^ y) ∧
    Gives64 s (.vshl g d a b ty) c d m 2 x y (fun x y => x <<< (y.toNat % 64)) ∧
    Gives64 s (.vshr g d a b ty) c d m 2 x y (fun x y => x >>> (y.toNat % 64)) ∧
    Gives64 s (.vsar g d a b ty) c d m 2 x y (fun x y => x.sshiftRight (y.toNat % 64)) ∧
    Gives64 s (.vmin g d a b ty) c d m 2 x y (fun x y => if (if signed then y.slt x else y.ult x) then y else x) ∧
    Gives64 s (.vmax g d a b ty) c d m 2 x y (fun x y => if (if signed then x.slt y else x.ult y) then y else x) ∧
    Gives64One s (.vmov g d a ty) c d m x (fun x => x) ∧
    Gives64One s (.vabs g d a .i64 false) c d m x (fun x => if x.slt 0 then -x else x) ∧
    Gives64One s (.vneg g d a .i64 false) c d m x (fun x => -x) ∧
    (∀ n l, l < 32 → ((VSrc.v n).lanes64 p c w)[l]? = some ((w.vread (n + 1)).getD l 0 ++ (w.vread n).getD l 0))

/-- R268 to R270, R273: compares write a predicate and 1 or 0 to the latch, with −0 equal to +0 and NaN unordered in `fcmp`;
`vsel` chooses by a predicate; `vli` gives A + l × B. -/
def Sys2Proof.Claims.VectorSelects : Prop :=
  ∀ (s : State) (c : Issue) (bl : Block) (w : Warp) (g : Guard) (d : VDst) (a b : VSrc) (pd ps : Nat) (pn : Bool) (cc : Cc),
    Issuing s c bl w →
    let m := takers c w g
    let p := s.pitch (coreId bl w) w.pitch
    let x := a.lanes p c w
    let y := b.lanes p c w
    let both := fun (f : Word32 → Word32 → Bool) (l : Nat) => (x[l]?).bind fun u => (y[l]?).map fun v => f u v
    GivesPred s (.vcmp g pd a b .i32 cc) c pd m 2 (both fun u v => ccInt cc u.toInt v.toInt) ∧
    GivesPred s (.vcmp g pd a b .n32 cc) c pd m 2 (both fun u v => ccInt cc u.toNat v.toNat) ∧
    GivesPred s (.vcmp g pd a b .i64 cc) c pd m 2 (fun l => ((a.lanes64 p c w)[l]?).bind fun u =>
      ((b.lanes64 p c w)[l]?).map fun v => ccInt cc u.toInt v.toInt) ∧
    GivesPred s (.vcmp g pd a b .n64 cc) c pd m 2 (fun l => ((a.lanes64 p c w)[l]?).bind fun u =>
      ((b.lanes64 p c w)[l]?).map fun v => ccInt cc u.toNat v.toNat) ∧
    GivesPred s (.fcmp g pd a b cc) c pd m 4 (both (ccFp cc)) ∧
    (∀ u v : Word32, (fp32Value u).isNan = true ∨ (fp32Value v).isNan = true →
      ccFp .eq u v = false ∧ ccFp .lt u v = false ∧ ccFp .le u v = false ∧ ccFp .gt u v = false ∧ ccFp .ge u v = false ∧
      ccFp .ne u v = true ∧ ccFp .un u v = true) ∧
    (∃ r, VWrites s (.vsel g d a b ps pn) c d m 2 r ∧ ∀ (l : Nat) (u v : Word32), l < 32 → x[l]? = some u → y[l]? = some v →
      r[l]? = some (if (w.pread ps).getLsbD l != pn then u else v)) ∧
    (∃ r, VWrites s (.vli g d a b) c d m 2 r ∧ ∀ (l : Nat) (u v : Word32), l < 32 → x[l]? = some u → y[l]? = some v →
      r[l]? = some (u + BitVec.ofNat 32 l * v))

/-- The vector integer operations, compares, selects and vli. -/
def Obligations.VectorIntegers : Prop :=
  Claims.VectorsOnlyWriteLanes ∧ Claims.VectorInteger32 ∧ Claims.VectorSaturates ∧ Claims.VectorInteger64 ∧
  Claims.VectorSelects

/-- R271, R272, R274 to R277: the FP32, BF16-pair and conversion operations, at latency 4, each lane on its own (their values:
FloatValues); NaN results are
canonical, `fabs` and `fneg` touch the sign bit alone, `fclass` sets exactly one of ten bits. -/
def Sys2Proof.Claims.VectorFloat : Prop :=
  (∀ (s : State) (c : Issue) (bl : Block) (w : Warp) (g : Guard) (d : VDst) (a b e : VSrc) (rm : Rm) (code : Nat),
    Issuing s c bl w →
    let m := takers c w g
    let p := s.pitch (coreId bl w) w.pitch
    let x := a.lanes p c w
    let y := b.lanes p c w
    let z := e.lanes p c w
    Gives2 s (.fadd g d a b rm) c d m 4 x y (fp32Add rm) ∧ Gives2 s (.fsub g d a b rm) c d m 4 x y (fp32Sub rm) ∧
    Gives2 s (.fmul g d a b rm) c d m 4 x y (fp32Mul rm) ∧ Gives3 s (.fma g d a b e rm) c d m 4 x y z (fp32Fma rm) ∧
    Gives2 s (.fmin g d a b) c d m 4 x y fp32Min ∧ Gives2 s (.fmax g d a b) c d m 4 x y fp32Max ∧
    Gives1 s (.fabs g d a) c d m 4 x fp32Abs ∧ Gives1 s (.fneg g d a) c d m 4 x fp32Neg ∧
    Gives1 s (.fclass g d a) c d m 4 x fp32Class ∧
    Gives2 s (.hadd2 g d a b rm) c d m 4 x y (bf16Add rm) ∧ Gives2 s (.hmul2 g d a b rm) c d m 4 x y (bf16Mul rm) ∧
    Gives3 s (.hfma2 g d a b e rm) c d m 4 x y z (bf16Fma rm) ∧
    Gives2 s (.cvt g d a b code rm) c d m 4 x y (convert code rm)) ∧
  (∀ (rm : Rm) (u v : Word32), (fp32Value u).isNan = true →
    fp32Add rm u v = canonNan ∧ fp32Add rm v u = canonNan ∧ fp32Mul rm u v = canonNan ∧ fp32Mul rm v u = canonNan ∧
    fp32Sub rm u v = canonNan ∧ fp32Abs u = canonNan ∧ fp32Neg u = canonNan ∧
    ((fp32Value v).isNan = false → fp32Min u v = v ∧ fp32Min v u = v ∧ fp32Max u v = v ∧ fp32Max v u = v)) ∧
  (∀ u : Word32, (fp32Value u).isNan = false → (fp32Abs u).toNat = u.toNat % 2 ^ 31 ∧ fp32Neg (fp32Neg u) = u ∧
    (fp32Neg u).toNat % 2 ^ 31 = u.toNat % 2 ^ 31 ∧ fp32Neg u ≠ u) ∧
  (∀ u : Word32, ∃ k, k < 10 ∧ fp32Class u = BitVec.ofNat 32 (2 ^ k) ∧ ((fp32Value u).isNan = true ↔ 8 ≤ k))

/-- The order of FP32 numbers by their bits, −0 below +0 (R272), and with −0 equal to +0 (R273). -/
def Sys2Proof.Claims.numberKey (u : Word32) : Int := if u.getLsbD 31 then -((u.toNat % 2 ^ 31 : Nat) : Int) - 1 else u.toNat
def Sys2Proof.Claims.valueKey (u : Word32) : Int := if u.getLsbD 31 then -((u.toNat % 2 ^ 31 : Nat) : Int) else u.toNat

/-- R101, R271 to R277: what the operations deliver: a sum, a difference, a product and a fused product and sum are the exact value
rounded once, in BF16 each half on its own; a conversion is the exact value of its source rounded into its destination by code; the
smaller and the larger of two numbers, comparisons, and the class of a number by its bits.  That `cvt.n32.f32` gives 0 for a NaN is
log entry 122. -/
def Sys2Proof.Claims.FloatValues : Prop :=
  (∀ (rm : Rm) (u v z : Word32),
    let down := rm == .rd
    let a := fp32Value u
    let b := fp32Value v
    fp32Add rm u v = roundFp32 rm (a.add down b) ∧ fp32Sub rm u v = roundFp32 rm (a.add down b.neg) ∧
    fp32Mul rm u v = roundFp32 rm (a.mul b) ∧ fp32Fma rm u v z = roundFp32 rm ((a.mul b).add down (fp32Value z)) ∧
    ∀ h : Bool,
      let half := fun (x : Word32) => if h then x.toNat / 2 ^ 16 else x.toNat % 2 ^ 16
      let x := fbf16.value (half u)
      let y := fbf16.value (half v)
      half (bf16Add rm u v) = roundBf16 rm (x.add down y) ∧ half (bf16Mul rm u v) = roundBf16 rm (x.mul y) ∧
      half (bf16Fma rm u v z) = roundBf16 rm ((x.mul y).add down (fbf16.value (half z)))) ∧
  (∀ (rm : Rm) (u v : Word32),
    let x := fp32Value u
    let byte := u.toNat % 2 ^ 8
    convert 0 rm u v = roundFp32 rm (.ofInt u.toInt) ∧ convert 1 rm u v = roundFp32 rm (.ofInt u.toNat) ∧
    convert 2 rm u v = BitVec.ofInt 32 (roundInt rm (-2 ^ 31) (2 ^ 31 - 1) x) ∧
    convert 3 rm u v = BitVec.ofInt 32 (roundInt rm 0 (2 ^ 32 - 1) x) ∧
    (convert 4 rm u v).toNat = roundBf16 rm x ∧ convert 5 rm u v = roundFp32 rm (fbf16.value (u.toNat % 2 ^ 16)) ∧
    (convert 6 rm u v).toNat = roundD8 rm x ∧ convert 7 rm u v = roundFp32 rm (d8Value byte) ∧
    (convert 8 rm u v).toNat = roundE4m3 rm x ∧ convert 9 rm u v = roundFp32 rm (e4m3Value byte) ∧
    (convert 10 rm u v).toNat = roundE5m2 rm x ∧ convert 11 rm u v = roundFp32 rm (fe5m2.value byte) ∧
    convert 12 rm u v = (BitVec.ofInt 8 (roundInt rm (-128) 127 x)).setWidth 32 ∧
    convert 13 rm u v = (BitVec.ofInt 4 (roundInt rm (-8) 7 x)).setWidth 32 ∧
    (convert 14 rm u v).toNat % 2 ^ 16 = roundBf16 rm x ∧ (convert 14 rm u v).toNat / 2 ^ 16 = roundBf16 rm (fp32Value v) ∧
    convert 15 rm u v = (BitVec.ofInt 8 (max (-128) (min 127 u.toInt))).setWidth 32) ∧
  (∀ u v : Word32, (fp32Value u).isNan = false → (fp32Value v).isNan = false →
    fp32Min u v = (if numberKey v < numberKey u then v else u) ∧ fp32Max u v = (if numberKey u < numberKey v then v else u) ∧
    ccFp .un u v = false ∧ ccFp .eq u v = decide (valueKey u = valueKey v) ∧ ccFp .ne u v = decide (valueKey u ≠ valueKey v) ∧
    ccFp .lt u v = decide (valueKey u < valueKey v) ∧ ccFp .le u v = decide (valueKey u ≤ valueKey v) ∧
    ccFp .gt u v = decide (valueKey v < valueKey u) ∧ ccFp .ge u v = decide (valueKey v ≤ valueKey u)) ∧
  (∀ u v : Word32, (fp32Value u).isNan = true → (fp32Value v).isNan = true →
    fp32Min u v = canonNan ∧ fp32Max u v = canonNan) ∧
  (∀ u : Word32,
    let e := u.toNat / 2 ^ 23 % 2 ^ 8
    let f := u.toNat % 2 ^ 23
    fp32Class u = BitVec.ofNat 32 (2 ^
      (if e = 255 ∧ f ≠ 0 then (if f < 2 ^ 22 then 8 else 9)
       else
         let k := if e = 255 then 0 else if e = 0 then (if f = 0 then 3 else 2) else 1
         if u.getLsbD 31 then k else 7 - k)))

/-- `x` is a number of sign `neg` and of magnitude `q`. -/
def Sys2Proof.Claims.HasValue (x : XVal) (neg : Bool) (q : ℚ) : Prop := ∃ n d : Nat, 0 < d ∧ x = .fin neg n d ∧ (n : ℚ) / d = q

/-- The magnitude of an encoding without its sign (R100, R102, R103), of a format with a fraction of `man` bits and a bias: a fraction
field times the least step at exponent field 0, else 1 and the fraction times a power of two, the exponent without an upper limit. -/
def Sys2Proof.Claims.floatMag (man bias c : Nat) : ℚ :=
  if c < 2 ^ man then (c : ℚ) / 2 ^ man * (2 : ℚ) ^ (1 - bias : ℤ)
  else (1 + (c % 2 ^ man : Nat) / 2 ^ man) * (2 : ℚ) ^ ((c / 2 ^ man : Nat) - bias : ℤ)

/-- The rows of R106: first code, k and w. -/
def Sys2Proof.Claims.d8Rows : List (Nat × Int × Nat) :=
  [(0x7F, 6, 0), (0x7E, 5, 0), (0x7C, 4, 1), (0x78, 3, 2), (0x70, 2, 3), (0x60, 1, 4), (0x40, 0, 5), (0x20, -1, 5), (0x10, -2, 4),
   (0x08, -3, 3), (0x04, -4, 2), (0x02, -5, 1), (0x01, -6, 0)]

/-- R100, R102, R103, R105, R106: the value of every encoding of FP32, BF16, E5M2, E4M3 and D8. -/
def Sys2Proof.Claims.ValuesOfCodes : Prop :=
  (∀ u : Word32,
    let c := u.toNat % 2 ^ 31
    (c < 0x7F800000 → HasValue (fp32Value u) (u.getLsbD 31) (floatMag 23 127 c)) ∧
    (c = 0x7F800000 → fp32Value u = .inf (u.getLsbD 31)) ∧ (0x7F800000 < c → fp32Value u = .nan)) ∧
  (∀ (c : Nat) (neg : Bool),
    let bf := c + (if neg then 2 ^ 15 else 0)
    let by_ := c + (if neg then 2 ^ 7 else 0)
    (c < 0x7F80 → HasValue (fbf16.value bf) neg (floatMag 7 127 c)) ∧ (c = 0x7F80 → fbf16.value bf = .inf neg) ∧
    (0x7F80 < c → c < 2 ^ 15 → fbf16.value bf = .nan) ∧
    (c < 0x7C → HasValue (fe5m2.value by_) neg (floatMag 2 15 c)) ∧ (c = 0x7C → fe5m2.value by_ = .inf neg) ∧
    (0x7C < c → c < 2 ^ 7 → fe5m2.value by_ = .nan) ∧
    (c < 0x7F → HasValue (e4m3Value by_) neg (floatMag 3 7 c)) ∧ (c = 0x7F → e4m3Value by_ = .nan) ∧
    ∀ r ∈ d8Rows, ∀ f : Nat, f < 2 ^ r.2.2 → c = r.1 + f →
      HasValue (d8Value by_) neg ((10 : ℚ) ^ r.2.1 * (1 + 9 * f / 2 ^ r.2.2))) ∧
  HasValue (d8Value 0) false 0 ∧ d8Value 0x80 = .nan

/-- R101: the exact sum and product of two numbers, with the sign of a zero by IEEE 754 (`down`: rounding toward −∞), of infinities,
and of what is no number. -/
def Sys2Proof.Claims.ExactArithmetic : Prop :=
  (∀ (a b : XVal) (na nb down : Bool) (p q : ℚ), HasValue a na p → HasValue b nb q →
    let v : ℚ := (if na then -p else p) + (if nb then -q else q)
    (v ≠ 0 → HasValue (a.add down b) (decide (v < 0)) |v|) ∧
    (v = 0 → HasValue (a.add down b) (if p = 0 ∧ na = nb then na else down) 0) ∧
    HasValue (a.mul b) (na != nb) (p * q) ∧ HasValue a.neg (!na) p ∧
    (∀ s, (XVal.inf s).add down b = .inf s ∧ a.add down (.inf s) = .inf s ∧
      (p ≠ 0 → a.mul (.inf s) = .inf (na != s) ∧ (XVal.inf s).mul a = .inf (s != na)) ∧
      (p = 0 → a.mul (.inf s) = .nan ∧ (XVal.inf s).mul a = .nan))) ∧
  (∀ s t down : Bool, (XVal.inf s).add down (.inf t) = (if s = t then .inf s else .nan) ∧
    (XVal.inf s).mul (.inf t) = .inf (s != t) ∧ (XVal.inf s).neg = .inf (!s)) ∧
  (∀ (x : XVal) (down : Bool), XVal.nan.add down x = .nan ∧ x.add down .nan = .nan ∧ XVal.nan.mul x = .nan ∧ x.mul .nan = .nan ∧
    XVal.nan.neg = .nan)

/-- The magnitude of a number. -/
def Sys2Proof.Claims.magnitude : XVal → ℚ
  | .fin _ n d => (n : ℚ) / d
  | _ => 0

/-- R107: of the codes with magnitudes `mag`, rising, `c` is the one a mode chooses for a number of sign `neg` and magnitude `x`: the
one that stands for it, else of its two neighbours the nearer or, at a tie, the one whose bit 0 is clear; the one nearer to zero; the
larger; the smaller; the one whose bit 0 is set. -/
def Sys2Proof.Claims.Chooses (mag : Nat → ℚ) (rm : Rm) (neg : Bool) (x : ℚ) (c : Nat) : Prop :=
  ∃ a, mag a ≤ x ∧ x < mag (a + 1) ∧
    c = if mag a = x then a else match rm with
      | .rn => if x - mag a < mag (a + 1) - x then a else if mag (a + 1) - x < x - mag a then a + 1 else a + a % 2
      | .rz => a
      | .ru => if neg then a else a + 1
      | .rd => if neg then a + 1 else a
      | .ro => a + 1 - a % 2

/-- R108: an overflow in a format with infinities gives the infinity, else the largest number. -/
def Sys2Proof.Claims.overflows (rm : Rm) (neg : Bool) : Bool :=
  match rm with
  | .rn => true
  | .ru => !neg
  | .rd => neg
  | _ => false

/-- R107, R108, R277: what a conversion delivers for a number of sign `neg` and magnitude `n / d`: the code its mode chooses, as if
exponents had no upper limit, and the range rule of the destination; infinities, and what is no number. -/
def Sys2Proof.Claims.RoundsOnce : Prop :=
  (∀ (rm : Rm) (neg : Bool) (n d : Nat), 0 < d →
    let x := XVal.fin neg n d
    let q : ℚ := n / d
    let rounds := fun (man bias inf top r : Nat) => ∃ c, Chooses (floatMag man bias) rm neg q c ∧
      r = (if neg then top else 0) + (if c < inf then c else if overflows rm neg then inf else inf - 1)
    rounds 23 127 0x7F800000 (2 ^ 31) (roundFp32 rm x).toNat ∧ rounds 7 127 0x7F80 (2 ^ 15) (roundBf16 rm x) ∧
    rounds 2 15 0x7C (2 ^ 7) (roundE5m2 rm x) ∧
    (∃ c, Chooses (floatMag 3 7) rm neg q c ∧ roundE4m3 rm x = (if neg then 2 ^ 7 else 0) + min c 0x7E) ∧
    (10 ^ 6 ≤ q → roundD8 rm x = if neg then 0xFF else 0x7F) ∧
    (q < 10 ^ 6 → ∃ c, c ≤ 0x7F ∧ Chooses (fun k => magnitude (d8Value k)) rm neg q c ∧
      roundD8 rm x = if c = 0 then 0 else if neg then 2 ^ 7 + c else c) ∧
    ∀ lo hi : Int, ∃ c, Chooses (fun k => (k : ℚ)) rm neg q c ∧
      roundInt rm lo hi x = max lo (min hi (if neg then -(c : Int) else c))) ∧
  (∀ (rm : Rm) (neg : Bool) (lo hi : Int), roundFp32 rm (.inf neg) = (if neg then 0xFF800000 else 0x7F800000) ∧
    roundBf16 rm (.inf neg) = (if neg then 0xFF80 else 0x7F80) ∧ roundE5m2 rm (.inf neg) = (if neg then 0xFC else 0x7C) ∧
    roundE4m3 rm (.inf neg) = (if neg then 0xFE else 0x7E) ∧ roundD8 rm (.inf neg) = (if neg then 0xFF else 0x7F) ∧
    roundInt rm lo hi (.inf neg) = (if neg then lo else hi)) ∧
  (∀ (rm : Rm) (lo hi : Int), roundFp32 rm .nan = 0x7FC00000 ∧ roundBf16 rm .nan = 0x7FC0 ∧ roundE5m2 rm .nan = 0x7E ∧
    roundE4m3 rm .nan = 0x7F ∧ roundD8 rm .nan = 0x80 ∧ roundInt rm lo hi .nan = 0)

/-- The value of every code, exact arithmetic, and one rounding into each format. -/
def Obligations.ExactValuesRoundedOnce : Prop :=
  Claims.ValuesOfCodes ∧ Claims.ExactArithmetic ∧ Claims.RoundsOnce

/-- R100 to R107: rounding an exact value that the format holds gives that value, in every mode: FP32, BF16, E4M3, E5M2 and D8. -/
def Sys2Proof.Claims.RoundingKeepsExactValues : Prop :=
  (∀ (rm : Rm) (u : Word32), (fp32Value u).isNan = false → roundFp32 rm (fp32Value u) = u) ∧
  (∀ (rm : Rm) (u : Nat), u < 65536 → (fbf16.value u).isNan = false → roundBf16 rm (fbf16.value u) = u) ∧
  (∀ (rm : Rm) (u : Nat), u < 256 → (e4m3Value u).isNan = false → roundE4m3 rm (e4m3Value u) = u) ∧
  (∀ (rm : Rm) (u : Nat), u < 256 → (fe5m2.value u).isNan = false → roundE5m2 rm (fe5m2.value u) = u) ∧
  (∀ (rm : Rm) (u : Nat), u < 256 → (d8Value u).isNan = false → roundD8 rm (d8Value u) = u)

/-- R107: the directed modes never pass the exact value: rounded up it is no smaller, rounded down no larger, rounded to zero no
larger in magnitude. -/
def Sys2Proof.Claims.DirectedRounding : Prop :=
  ∀ (neg : Bool) (n d : Nat), 0 < d →
    let x := XVal.fin neg n d
    (fp32Value (roundFp32 .ru x)).ltNum x = false ∧ x.ltNum (fp32Value (roundFp32 .rd x)) = false ∧
    (if neg then (fp32Value (roundFp32 .rz x)).ltNum x = false else x.ltNum (fp32Value (roundFp32 .rz x)) = false)

/-- The FP32, BF16 and conversion operations, and rounding (cvt.n32.f32 of a NaN: log entry 122). -/
def Obligations.VectorFloats : Prop :=
  Claims.VectorFloat ∧ Claims.FloatValues ∧ Claims.RoundingKeepsExactValues ∧ Claims.DirectedRounding

/-- R281: the `.fadd` tree, `k` levels deep at position `l`. -/
def Sys2Proof.Claims.treeSum (t : Lanes) : Nat → Nat → Word32
  | 0, l => t.getD l 0
  | k + 1, l => fp32Add .rn (Sys2Proof.Claims.treeSum t k l) (Sys2Proof.Claims.treeSum t k (l + 16 / 2 ^ k))

/-- R279 to R281: an exchange reads its source at all 32 positions, whether their lanes take part or not; a scan gives each lane
the combination of the lanes before it (its own too, if inclusive), lanes that do not take part giving the identity; `xred`
combines all 32, `.fadd` by its fixed tree. -/
def Sys2Proof.Claims.CrossLane : Prop :=
  ∀ (s : State) (c : Issue) (bl : Block) (w : Warp) (g : Guard) (d : VDst) (a b : VSrc) (n : Nat) (op : ScanOp),
    Issuing s c bl w →
    let m := takers c w g
    let p := s.pitch (coreId bl w) w.pitch
    let x := fun l => (a.lanes p c w).getD l 0
    let t := laneList.map fun l => if m.getLsbD l then x l else scanUnit op
    let gives := fun (i : Instr) (f : Nat → Word32) => ∃ r, VWrites s i c d m 2 r ∧ ∀ l, l < 32 → r[l]? = some (f l)
    gives (.xchg g d a n) (fun l => x (l ^^^ 2 ^ n)) ∧ gives (.xrot g d a n) (fun l => x ((l + n) % 32)) ∧
    gives (.xbcast g d a n) (fun _ => x n) ∧
    gives (.xidx g d a b) (fun l => x (((b.lanes p c w).getD l 0).toNat % 32)) ∧
    gives (.xscan g d a op true) (fun l => (t.take l).foldl (scanStep op) (scanUnit op)) ∧
    gives (.xscan g d a op false) (fun l => (t.take (l + 1)).foldl (scanStep op) (scanUnit op)) ∧
    gives (.xred g d a op) (fun _ => if op = .fadd then treeSum t 5 0 else t.foldl (scanStep op) (scanUnit op)) ∧
    (op ≠ .fmin → op ≠ .fmax → op ≠ .fadd → ∀ v, scanStep op (scanUnit op) v = v)

/-- R282: the special functions, at latency 8, each lane on its own; the special values and the exact cases (log entry 86 for the
rounding of the others). -/
def Sys2Proof.Claims.SpecialFunctions : Prop :=
  (∀ (s : State) (c : Issue) (bl : Block) (w : Warp) (g : Guard) (d : VDst) (a : VSrc), Issuing s c bl w →
    let gives := fun (i : Instr) (f : Word32 → Word32) =>
      Gives1 s i c d (takers c w g) 8 (a.lanes (s.pitch (coreId bl w) w.pitch) c w) f
    gives (.frcp g d a) fpRcp ∧ gives (.frsq g d a) fpRsq ∧ gives (.fexp2 g d a) fpExp2 ∧ gives (.flog2 g d a) fpLog2 ∧
    gives (.fsin g d a) fpSin ∧ gives (.fcos g d a) fpCos ∧ gives (.ftanh g d a) fpTanh) ∧
  (∀ u : Word32, (fp32Value u).isNan = true → fpRcp u = canonNan ∧ fpRsq u = canonNan ∧ fpExp2 u = canonNan ∧
    fpLog2 u = canonNan ∧ fpSin u = canonNan ∧ fpCos u = canonNan ∧ fpTanh u = canonNan) ∧
  (∀ (u : Word32) (neg : Bool), fp32Value u = .inf neg →
    fpRcp u = (if neg then 0x80000000 else 0) ∧ fpRsq u = (if neg then canonNan else 0) ∧
    fpExp2 u = (if neg then 0 else 0x7F800000) ∧ fpLog2 u = (if neg then canonNan else 0x7F800000) ∧ fpSin u = canonNan ∧
    fpCos u = canonNan ∧ fpTanh u = (if neg then 0xBF800000 else 0x3F800000)) ∧
  (∀ (u : Word32) (neg : Bool) (n d : Nat), fp32Value u = .fin neg n d →
    (n % d = 0 → fpSin u = (if neg then 0x80000000 else 0) ∧
      fpCos u = (if n / d % 2 = 0 then 0x3F800000 else 0xBF800000)) ∧
    (2 * (n % d) = d → fpCos u = 0) ∧
    (n = 0 → fpRcp u = (if neg then 0xFF800000 else 0x7F800000) ∧ fpRsq u = (if neg then 0xFF800000 else 0x7F800000) ∧
      fpLog2 u = 0xFF800000 ∧ fpTanh u = (if neg then 0x80000000 else 0)) ∧
    (neg = true → n ≠ 0 → fpRsq u = canonNan ∧ fpLog2 u = canonNan))
-- The M slot.

/-- Exchanges, scans, reductions and special functions (the rounding of inexact special results: log entry 86). -/
def Obligations.CrossLaneAndSpecial : Prop :=
  Claims.CrossLane ∧ Claims.SpecialFunctions

/-- R45, R290: the lane slots of M, with their guards. -/
def Sys2Proof.Claims.memGuard : Instr → Option Guard
  | .ld g _ _ _ _ _ _ _ => some g
  | .st g _ _ _ _ => some g
  | .ldg g _ _ _ _ _ _ _ => some g
  | .stg g _ _ _ _ _ _ => some g
  | .lblk g _ _ _ _ _ => some g
  | .atom g _ _ _ _ _ _ _ _ _ => some g
  | .fence g _ => some g
  | .drain g _ => some g
  | .probe g _ _ _ => some g
  | .stc g _ _ _ _ _ => some g
  | .ldas g _ _ _ _ _ _ _ => some g
  | .qput g _ _ _ => some g
  | .qget g _ _ _ => some g
  | .feset g _ _ _ => some g
  | .feclr g _ _ _ => some g
  | _ => none

/-- R55, R290: an M operation in which no lane takes part has no effect and raises no trap. -/
def Sys2Proof.Claims.MemoryNoLaneNoEffect : Prop :=
  ∀ (s : State) (c : Issue) (b : Block) (w : Warp) (i : Instr) (g : Guard), Issuing s c b w →
    memGuard i = some g → takers c w g = 0 → exec i s = .next s

/-- A guarded-off operation has no effect and raises no trap. -/
def Obligations.GuardedOff : Prop :=
  Claims.FalseGuardNoEffect ∧ Claims.NoLaneNoWrite ∧ Claims.MemoryNoLaneNoEffect

/-- R119 to R125, R130, R160, R202, R366: the checks of a lane's access in their order; the first that fails gives the cause. -/
def Sys2Proof.Claims.AccessChecks : Prop :=
  ∀ (s : State) (b : Block) (w : Warp) (n : Need) (i : Nat) (k : List Nat) (size align : Nat),
    ((s.pool b)[i]? = none → s.check b w n i k size align = .error 0x26) ∧
    (∀ r, (s.pool b)[i]? = some r →
      let off := r.byteOf (r.index k)
      let kind := n.kinds.contains r.kind = true ∧ (n.tierG = true → ∃ t, s.tensor? r.base = some t ∧ t.tier = 0)
      let rights := ∀ x ∈ n.rights, r.rights.testBit x = true
      let meter := r.meter = 0xFF ∨ b.rcd.meters.testBit r.meter = true
      let window := r.kind = 2 → ∃ q ∈ s.blocks, q.ctx = b.ctx ∧ q.stack = b.stack ∧ q.status = .placed ∧ ∃ a ∈ q.allocs,
        a.core = r.core ∧ a.base ≤ r.base + off ∧ r.base + off + size ≤ a.base + q.rcd.tmem
      let bounds := (∀ j, j < 4 → k.getD j 0 < r.ext.getD j 1) ∧ off + size ≤ r.size
      let aligned := off % align = 0 ∧ (r.described = true → 2 ≤ off % 64 ∧ off % 64 + size ≤ 64)
      let writable := n.writes = true → r.kind = 0 → ∀ e, s.entryOf r.base off = some e → e.resident = true → e.writable = true
      let plain := n.writes = true → n.stampOk = false → r.kind = 0 → s.isStamped (s.tensorAddr r.base off) size = false
      let peer := r.kind = 3 → s.peerUp r.peer = true
      (¬kind → s.check b w n i k size align = .error 0x27) ∧
      (kind → ¬rights → s.check b w n i k size align = .error 0x22) ∧
      (kind → rights → ¬meter → s.check b w n i k size align = .error 0x25) ∧
      (kind → rights → meter → ¬window → s.check b w n i k size align = .error 0x29) ∧
      (kind → rights → meter → window → ¬bounds → s.check b w n i k size align = .error 0x20) ∧
      (kind → rights → meter → window → bounds → ¬aligned → s.check b w n i k size align = .error 0x21) ∧
      (kind → rights → meter → window → bounds → aligned → ¬writable → s.check b w n i k size align = .error 0x23) ∧
      (kind → rights → meter → window → bounds → aligned → writable → ¬plain →
        s.check b w n i k size align = .error 0x24) ∧
      (kind → rights → meter → window → bounds → aligned → writable → plain → ¬peer →
        s.check b w n i k size align = .error 0x2B) ∧
      (kind → rights → meter → window → bounds → aligned → writable → plain → peer →
        s.check b w n i k size align = .ok (r.locate b w off)))

/-- The lane-wise operation `i` through stream `x` acts: `t` is the state after the access of the lanes that passed their checks,
the lanes that did not are parked with their records, and the stream is post-incremented (R290, R291, R294). -/
def Sys2Proof.Claims.Accesses (s : State) (c : Issue) (b : Block) (w : Warp) (i : Instr) (g : Guard) (x : Nat) (inc : Bool)
    (t : State) : Prop :=
  exec i s = .next ((t.parkAll b.bid w.num (badTries c (w.xread x).rcd (slotNum c.cur) (s.tries c b w i (takers c w g)))
    0x81).bump c w inc x)

/-- No lane that passed its checks meets an absent frame (R127). -/
def Sys2Proof.Claims.Present (s : State) (c : Issue) (b : Block) (w : Warp) (i : Instr) (g : Guard) : Prop :=
  takers c w g ≠ 0 ∧ ∀ p ∈ goodTries (s.tries c b w i (takers c w g)), s.absent p.2 = false

/-- Nothing of the warp is outstanding, so no access through a remote window has to perform first (R143). -/
def Sys2Proof.Claims.NoneOut (s : State) (b : Block) (w : Warp) : Prop :=
  ∀ q ∈ s.reqs, q.block = b.bid → q.warp ≠ w.num

/-- R141, R142, R294, R297: a load through a local window has fixed latency 4 and, for `ld`, writes `l3`; with `.clr` it empties
the granules it read; `ldg` leaves its destination pending until cycle c + 4, its requests outstanding until then.  Bytes come from
the lanes' own addresses, as they were before the word's stores, where no engine operation is to write them. -/
def Sys2Proof.Claims.LocalLoads : Prop :=
  ∀ (s : State) (c : Issue) (b : Block) (w : Warp) (r : Record) (g : Guard) (d : VDst) (x gd : Nat) (wd : Width)
    (fe clr inc sx : Bool) (v : VSrc), Issuing s c b w → s.recordOf b w x = some r → r.kind = 1 →
    let i := Instr.ld g d x wd fe clr inc sx
    let j := Instr.ldg g d x wd gd inc sx v
    let good := fun (i : Instr) => goodTries (s.tries c b w i (takers c w g))
    let vals := fun (i : Instr) => (good i).map fun p =>
      (p.1, (List.range wd.size).map fun k => oldByte c.stores s.mem (s.addrOf p.2 + k))
    let calm := fun (i : Instr) => Present s c b w i g ∧ NoneOut s b w ∧ good i ≠ [] ∧
      ∀ p ∈ good i, ∀ k, k < wd.size → s.addrOf p.2 + k ∉ s.hotBytes (some (c.block, c.warp)) s.uid
    (calm i → Accesses s c b w i g x inc
      ((if clr then s.setEmpty (laneGranules wd.size (good i)) else s).fly c 4
        (loadEffs d wd sx (vals i) ++ [loadLatch wd sx (vals i)]))) ∧
    (calm j → Accesses s c b w j g x inc
      ((s.fly c 4 (loadEffs d wd sx (vals j))).modWarp c.block c.warp fun y =>
        { y with pend := y.pend ++ (vregsOf d wd.regs).map fun r => { reg := r, req := 0, returned := some (c.cycle + 4) }
                 gathers := y.gathers ++ [(c.cycle + 4, linesTouched ((good j).map fun p => (p.2, wd.size)))] }))

/-- R292: the words a load of each width delivers: little-endian, `.sx` extending the sign, else zeros. -/
def Sys2Proof.Claims.LoadedWords : Prop :=
  (∀ (x : Byte) (sx : Bool), loadWords .b8 sx [x] = [if sx then x.signExtend 32 else x.setWidth 32]) ∧
  (∀ (x y : Byte) (sx : Bool), loadWords .b16 sx [x, y] = [if sx then (y ++ x).signExtend 32 else (y ++ x).setWidth 32]) ∧
  (∀ (x y z t : Byte) (sx : Bool), loadWords .b32 sx [x, y, z, t] = [t ++ z ++ y ++ x]) ∧
  (∀ (l k : List Byte) (sx : Bool), l.length = 4 → k.length = 4 →
    loadWords .b64 sx (l ++ k) = loadWords .b32 sx l ++ loadWords .b32 sx k) ∧
  (∀ (l k : List Byte) (sx : Bool), l.length = 8 → k.length = 8 →
    loadWords .b128 sx (l ++ k) = loadWords .b64 sx l ++ loadWords .b64 sx k) ∧
  (∀ x : Word32, loadWords .b32 false (leBytes 4 x.toNat) = [x])

/-- Loads from tile memory. -/
def Obligations.LoadsFromTile : Prop :=
  Claims.LocalLoads ∧ Claims.LoadedWords

/-- R295, R297: a store through a local window performs at once: outside the bytes its lanes store memory reads as before, each
lane's bytes hold its source, the granules it writes are full. -/
def Sys2Proof.Claims.LocalStores : Prop :=
  ∀ (s : State) (c : Issue) (b : Block) (w : Warp) (r : Record) (g : Guard) (a v : VSrc) (x gd : Nat) (wd : Width) (inc : Bool)
    (i : Instr), Issuing s c b w → s.recordOf b w x = some r → r.kind = 1 → (wd = .b128 → ∃ n, a = .v n) →
    (i = .st g a x wd inc ∨ i = .stg g a x wd gd inc v) → Present s c b w i g → NoneOut s b w → s.mem.wf = true →
    let good := goodTries (s.tries c b w i (takers c w g))
    ∃ t, Accesses s c b w i g x inc t ∧
      (∀ k, (∀ p ∈ good, k < s.addrOf p.2 ∨ s.addrOf p.2 + wd.size ≤ k) → t.mem.read k = s.mem.read k) ∧
      ((good.map fun p => s.addrOf p.2).Pairwise (fun k j => k + wd.size ≤ j ∨ j + wd.size ≤ k) →
        ∀ p ∈ good, t.mem.readBytes (s.addrOf p.2) wd.size = a.bytes (s.pitch (coreId b w) w.pitch) c w wd p.1) ∧
      (∀ n, n ∈ t.empty ↔ n ∈ s.empty ∧ n ∉ laneGranules wd.size good) ∧ t.reqs = s.reqs

/-- R141, R152, R294, R295, R299, R304: a long access is a request of its warp: no byte of memory changes at issue, the destination
of a load is pending until its data has returned, a store holds the bytes of its lanes, and an atomic holds the warp's next word
until it has performed, as an acquire of its scope if its order acquires. -/
def Sys2Proof.Claims.LongAccesses : Prop :=
  ∀ (s : State) (c : Issue) (b : Block) (w : Warp) (r : Record) (g : Guard) (d : VDst) (a v : VSrc) (x gd tr pd : Nat)
    (wd : Width) (inc sx : Bool) (op : AtomOp) (ty : ITy) (order : MemOrder) (scope : Scope),
    Issuing s c b w → s.recordOf b w x = some r →
    let good := fun (i : Instr) => goodTries (s.tries c b w i (takers c w g))
    let asks := fun (i : Instr) (k : ReqKind) (data : Nat → List Byte) (regs : List PReg) (hold : List Hold) =>
      Present s c b w i g → good i ≠ [] →
      ∃ t q u, Accesses s c b w i g x inc t ∧ t.reqs = s.reqs ++ [q] ∧ q.id = s.uid ∧ q.block = b.bid ∧ q.warp = w.num ∧
        q.word = c.uid ∧ q.kind = k ∧ q.lanes.map (fun l => (l.lane, l.loc)) = good i ∧
        (∀ l ∈ q.lanes, l.data = data l.lane) ∧ SameMemory s t ∧ t.warp? c.block c.warp = some u ∧ u.hold = w.hold ++ hold ∧
        u.pend = w.pend ++ regs.map fun p => { reg := p, req := s.uid, returned := none }
    let dest := fun (n : Nat) => match d with
      | .reg k => (List.range n).map fun j => PReg.v (k + j)
      | .nw => []
    let p := s.pitch (coreId b w) w.pitch
    (r.kind ≠ 1 →
      asks (.ld g d x wd false false inc sx) (.load d wd sx) (fun _ => []) (dest wd.regs) [] ∧
      asks (.ldg g d x wd gd inc sx v) (.load d wd sx) (fun _ => []) (dest wd.regs) [] ∧
      asks (.st g a x wd inc) .store (a.bytes p c w wd) [] [] ∧ asks (.stg g a x wd gd inc v) .store (a.bytes p c w wd) [] []) ∧
    (s.tooWide b.stack = false → pd ≠ 0 →
      asks (.ldas g d x wd tr inc sx pd) (.ldas d wd sx pd (w.sread tr).toNat (s.stack? b.stack).latest) (fun _ => [])
        (.p pd :: dest wd.regs) []) ∧
    asks (.atom g d x op ty order scope inc a v) (.atom d op ty order scope) (a.bytes p c w (if ty.is64 then .b64 else .b32)) []
      [{ kind := .atom (order == .acquire || order == .acqRel) scope, upto := s.uid + 1 }] ∧
    (s.tooWide b.stack = true → takers c w g ≠ 0 → c.clear = false → Traps s (.ldas g d x wd tr inc sx pd) c 0x51 0 ∧
      ∀ h pair, Traps s (.stc g h x pair inc a) c 0x51 0)

/-- R37, R127, R291, R365: a lane that fails its checks outside a handler is parked with its record, a lane already parked keeps
its own; a post-increment adds i0–i3 to c0–c3; an access to an absent frame is the fatal error 0x85 of its warp and performs
nothing. -/
def Sys2Proof.Claims.LanesPark : Prop :=
  (∀ (s : State) (bid n code : Nat) (w v : Warp) (rs : List LaneRec), s.warp? bid n = some w → w.bank = none →
    (∀ r ∈ rs, r.lane < 32) → (s.parkAll bid n rs code).warp? bid n = some v →
    (∀ l, l < 32 → v.parked.getLsbD l = (w.parked.getLsbD l || rs.any fun r => r.lane == l)) ∧
    (∀ r ∈ rs, w.parked.getLsbD r.lane = false → (rs.filter fun q => q.lane == r.lane) = [r] → r ∈ v.records) ∧
    (∀ r ∈ w.records, r ∈ v.records) ∧ v = { w with parked := v.parked, records := v.records } ∧
    SameMemory s (s.parkAll bid n rs code) ∧ (s.parkAll bid n rs code).reqs = s.reqs) ∧
  (∀ (s : State) (bid n code : Nat) (w : Warp) (r : LaneRec), s.warp? bid n = some w → w.bank.isSome = true → w.trap = none →
    ∃ v t, (s.parkLane bid n r code).warp? bid n = some v ∧ v.trap = some t ∧ t.code = code ∧ t.lane = r.lane ∧
      t.rcd = r.rcd ∧ t.arg = (if r.cause = 0x30 then 0x30 else 0x01) ∧ v.parked = w.parked) ∧
  (∀ (s : State) (c : Issue) (w : Warp) (x : Nat), s.bump c w false x = s ∧
    s.bump c w true x = s.fly c 1 ((List.range 4).map fun k =>
      .xreg x (.setC k ((w.xread x).c.getD k 0 + (w.xread x).i.getD k 0)))) ∧
  (∀ (s : State) (c : Issue) (b : Block) (w : Warp) (i : Instr) (g : Guard) (x : Nat) (p : Nat × Loc), Issuing s c b w →
    memGuard i = some g → mStream i = some x → (∀ h y n tag inc, i ≠ .lblk g h y n tag inc) →
    (∀ h y pair inc a, i ≠ .stc g h y pair inc a) → s.tooWide b.stack = false → w.trap = none →
    p ∈ goodTries (s.tries c b w i (takers c w g)) → s.absent p.2 = true →
    ∃ t v tr, exec i s = .next t ∧ t.warp? c.block c.warp = some v ∧ v.trap = some tr ∧ tr.code = 0x85 ∧ tr.hpc = c.tok ∧
      v = { w with trap := some tr } ∧ SameMemory s t ∧ t.reqs = s.reqs)

/-- The checks of an access in their order, and how a faulting lane parks. -/
def Obligations.ChecksAndParking : Prop :=
  Claims.AccessChecks ∧ Claims.LanesPark

/-- R129, R307: `feset` fills and `feclr` empties the granules its lanes cover; no byte changes. -/
def Sys2Proof.Claims.FullEmpty : Prop :=
  ∀ (s : State) (c : Issue) (b : Block) (w : Warp) (g : Guard) (x : Nat) (wd : Width) (inc : Bool), Issuing s c b w →
    let gs := fun (i : Instr) => laneGranules wd.size (goodTries (s.tries c b w i (takers c w g)))
    (Present s c b w (.feset g x wd inc) g → ∃ t, Accesses s c b w (.feset g x wd inc) g x inc t ∧
      (∀ n, n ∈ t.empty ↔ n ∈ s.empty ∧ n ∉ gs (.feset g x wd inc)) ∧ SameMemory s t ∧ OnlyBlocks { s with empty := t.empty } t) ∧
    (Present s c b w (.feclr g x wd inc) g → ∃ t, Accesses s c b w (.feclr g x wd inc) g x inc t ∧
      (∀ n, n ∈ t.empty ↔ n ∈ s.empty ∨ n ∈ gs (.feclr g x wd inc)) ∧ SameMemory s t ∧ OnlyBlocks { s with empty := t.empty } t) ∧
    (∀ core off n k, 0 < n → (k ∈ granules core off n ↔ ∃ j, j < n ∧ k = core * 2 ^ 17 + (off + j) / 16))

/-- Stores to tile memory and full-empty words. -/
def Obligations.StoresToTile : Prop :=
  Claims.LocalStores ∧ Claims.FullEmpty

/-- R133, R139, R147, R148, R156, R159, R298, R301 to R306, R309: the warp-level operations.  A load-block becomes an engine
operation with a new handle; a commit enters the queue with its data; of either that fails its checks every lane that takes part is
parked (the handle: log entry 71), and an absent frame is the fatal error 0x85; a fence or drain holds the warp's next word; `probe`
writes how many frames were brought in; a queue operation waits for its reply, and without a queue its predicate is false. -/
def Sys2Proof.Claims.WarpMemoryOperations : Prop :=
  ∀ (s : State) (c : Issue) (b : Block) (w : Warp) (r : Record) (g : Guard) (h x n tag d e q stage : Nat) (inc pair : Bool)
    (a : VSrc) (scope : Scope), Issuing s c b w → takers c w g ≠ 0 →
    let holds := fun (i : Instr) (k : HoldKind) => ∃ t v, exec i s = .next t ∧ t.warp? c.block c.warp = some v ∧
      v.hold = w.hold ++ [{ kind := k, upto := c.uid }] ∧ SameMemory s t ∧ t.reqs = s.reqs
    let parks := fun (i : Instr) (kind : Nat) => w.bank = none → ∀ p cause,
      (s.tries c b w i (takers c w g)).head? = some p → p.res = .error cause →
      ∃ t v, exec i s = .next t ∧ t.warp? c.block c.warp = some v ∧ v.parked = (w.parked ||| takers c w g) ∧
        t.issue = some { c with handles := c.handles ++ [(h, (b.alloc kind).1)] } ∧ t.ops = s.ops ∧ t.commits = s.commits ∧
        SameMemory s t
    holds (.fence g scope) (.fence scope) ∧ holds (.drain g scope) (.drain scope) ∧
    (s.recordOf b w x = some r → w.probeBad = false →
      exec (.probe g d x e) s = .next ((s.fly c 1 [.sreg d (BitVec.ofNat 64 (w.probeIn.getD 0))]).modBlock b.bid fun k =>
        { k with probed := (k.probed ++ s.probeFrames b w x e).dedup })) ∧
    (w.probeBad = true → c.clear = false → Traps s (.probe g d x e) c 0x2A 0) ∧
    (s.stageQ b stage = none → Flies s (.qput g q stage a) c 1 [.qreg q false] ∧
      ∀ dst, Flies s (.qget g dst q stage) c 1 [.qreg q false]) ∧
    (∀ k, s.stageQ b stage = some k → q ≠ 0 →
      (∃ t y v, exec (.qput g q stage a) s = .next t ∧ t.reqs = s.reqs ++ [y] ∧
        y.kind = .qput q stage ((List.range 16).flatMap fun l =>
          leBytes 4 ((a.lanes (s.pitch (coreId b w) w.pitch) c w).getD l 0).toNat) ∧ SameMemory s t ∧
        t.warp? c.block c.warp = some v ∧ v.pend = w.pend ++ [{ reg := .q q, req := s.uid, returned := none }]) ∧
      ∀ k, ∃ t y v, exec (.qget g (.reg k) q stage) s = .next t ∧ t.reqs = s.reqs ++ [y] ∧ y.kind = .qget (.reg k) q stage ∧
        SameMemory s t ∧ t.warp? c.block c.warp = some v ∧
        v.pend = w.pend ++ [{ reg := .q q, req := s.uid, returned := none }, { reg := .v k, req := s.uid, returned := none }]) ∧
    parks (.lblk g h x n tag inc) 4 ∧ (s.tooWide b.stack = false → parks (.stc g h x pair inc a) 5) ∧
    (∀ p base off, (s.tries c b w (.lblk g h x n tag inc) (takers c w g)).head? = some p → p.res = .ok (.tensor base off) →
      s.recordOf b w x = some r → 128 * (off / 128 + n + 1) ≤ r.size →
      (∀ k, k ≤ n → s.absent (.tensor r.base ((off / 128 + k) / 512 * 65536)) = false) →
      ∃ t o b', exec (.lblk g h x n tag inc) s = .next t ∧ t.ops.getLast? = some o ∧ o.id = s.uid ∧ o.kind = .lblk tag (off / 128) (n + 1) ∧
        o.handle = (b.alloc 4).1.toNat ∧ t.block? c.block = some b' ∧ b'.ring = (b.alloc 4).2.ring ∧
        t.issue = some { c with handles := c.handles ++ [(h, (b.alloc 4).1)] } ∧ SameMemory s t) ∧
    (∀ p base off, s.tooWide b.stack = false →
      (s.tries c b w (.stc g h x pair inc a) (takers c w g)).head? = some p → p.res = .ok (.tensor base off) →
      s.absent (.tensor base off) = false →
      ∃ t k, exec (.stc g h x pair inc a) s = .next t ∧ t.commits = s.commits ++ [k] ∧ k.base = base ∧ k.off = off ∧
        k.stamp = none ∧ k.lines = (if pair then 2 else 1) ∧
        k.data = ((List.range (if pair then 32 else 16)).flatMap fun l =>
          leBytes 4 ((a.lanes (s.pitch (coreId b w) w.pitch) c w).getD l 0).toNat) ∧ k.handle = (b.alloc 5).1.toNat ∧
        k.core = coreId b w ∧
        t.issue = some { c with handles := c.handles ++ [(h, (b.alloc 5).1)] } ∧ SameMemory s t)

/-- Issue of long accesses, futures and the memory operations of a warp. -/
def Obligations.LongAndWarpOps : Prop :=
  Claims.LongAccesses ∧ Claims.WarpMemoryOperations

-- The events of memory.

/-- A load's destination in lane `l` holds the words `ws`. -/
def Sys2Proof.Claims.Delivered (w v : Warp) (d : VDst) (l : Nat) (ws : List Word32) : Prop :=
  ∀ (n j : Nat) (x : Word32), d = .reg n → n + j < w.v.length → l < (w.vread (n + j)).length → ws[j]? = some x →
    (v.vread (n + j))[l]? = some x

/-- The lane of the request has ended, and no other request is touched. -/
def Sys2Proof.Claims.LaneEnded (s t : State) (id lane : Nat) : Prop :=
  (∀ q ∈ t.reqs, q.id = id → ∀ k ∈ q.lanes, k.lane ≠ lane) ∧ (∀ q : Req, q.id ≠ id → (q ∈ t.reqs ↔ q ∈ s.reqs))

/-- Between `w` and `v` a handler's access, whose lane `a` faults when it performs, has become the warp's fatal error 0x81 (R246, R351), and
no lane is parked. -/
def Sys2Proof.Claims.HandlerFails (w v : Warp) (r : Req) (a : LaneAcc) (cause : Nat) : Prop :=
  v.parked = w.parked ∧ v.records = w.records ∧ ∃ t, v.trap = some t ∧ t.code = 0x81 ∧ t.arg = (if cause = 0x30 then 0x30 else 0x01) ∧ t.hpc = r.offset ∧
    t.rcd = r.rec_ ∧ t.lane = a.lane ∧ t.c0 = a.c0 ∧ t.c1 = a.c1

/-- R54, R132, R136, R141, R143: the return of a long load.  While an earlier access of its warp to its bytes is outstanding nothing
happens.  On a miss the line comes from its home, fills the core's L1 and counts 128 bytes on the frame's meter, and the lane takes
its bytes, as does every lane of the load to that line that nothing earlier holds back, so that the line is counted once; on a hit they
take them from L1 and nothing is counted; bytes the load's own word stored come as they were before
it (R142), and none is one that an engine operation is to write (R153).  With its last lane the request ends and its registers' data has returned. -/
def Sys2Proof.Claims.LoadReturns : Prop :=
  ∀ (s : State) (id lane : Nat) (hit : Bool) (r : Req) (a : LaneAcc) (d : VDst) (wd : Width) (sx : Bool) (w : Warp)
    (base off : Nat), s.reqs.find? (fun q => q.id == id) = some r → r.kind = .load d wd sx →
    r.lanes.find? (fun k => k.lane == lane) = some a → (r.lanes.map (·.lane)).Nodup → s.warp? r.block r.warp = some w →
    a.loc = .tensor base off → off % 128 + a.bytes ≤ 128 → s.absent a.loc = false →
    let core := 32 * r.stack + r.core
    let home := s.tensorAddr base (128 * (off / 128))
    let seen := fun (bs : List Byte) =>
      bs.mapIdx fun i v => ((r.overr.find? fun x => x.1 == s.tensorAddr base off + i).map (·.2)).getD v
    let taken := fun (t : State) => ∀ k ∈ r.lanes, (∃ o, k.loc = .tensor base o ∧ o / 128 = off / 128) → s.behind r k = false →
      LaneEnded s t id k.lane
    (s.behind r a = true ↔ ∃ q ∈ s.reqs, q.block = r.block ∧ q.warp = r.warp ∧ q.id < r.id ∧
      ((∃ d n k, q.kind = .qget d n k) ∨ ∃ k ∈ q.lanes, k.loc.overlaps k.bytes a.loc a.bytes = true)) ∧
    (s.behind r a = true → exec (.longLoadReturn id lane hit) s = .next s) ∧
    (s.behind r a = false → (∀ ln, s.l1Line core r.block base (off / 128) = some ln → ln.tag = none) →
      (∀ k, k < 128 → home + k ∉ s.hotBytes (some (r.block, r.warp)) r.id) →
      ∃ t v ln, exec (.longLoadReturn id lane false) s = .next t ∧ SameMemory s t ∧ LaneEnded s t id lane ∧ taken t ∧
        t.warp? r.block r.warp = some v ∧
        Delivered w v d lane (loadWords wd sx (seen (s.mem.readBytes (s.tensorAddr base off) a.bytes))) ∧
        ln ∈ t.l1 ∧ ln.core = core ∧ ln.base = base ∧ ln.line = off / 128 ∧ ln.data = s.mem.readBytes home 128 ∧
        (∀ g m, a.meter = some g → s.rainfly.meters.find? (fun m => m.region == g) = some m →
          t.meterVal g = min (2 ^ 64 - 1) (m.value + 128)) ∧
        (r.lanes = [a] → (∀ q ∈ t.reqs, q.id ≠ id) ∧
          ∀ p ∈ v.pend, p.req = id → p.returned = some (s.cluster r.stack (r.core / 8)).cycle)) ∧
    (s.behind r a = false → ∀ ln, s.l1Line core r.block base (off / 128) = some ln → (hit = true ∨ ln.tag.isSome = true) →
      (∀ k, k < a.bytes → s.tensorAddr base off + k ∉ s.hotBytes (some (r.block, r.warp)) r.id) →
      ∃ t v, exec (.longLoadReturn id lane hit) s = .next t ∧ SameMemory s t ∧ LaneEnded s t id lane ∧ taken t ∧ t.l1 = s.l1 ∧
        t.rainfly = s.rainfly ∧ t.warp? r.block r.warp = some v ∧
        Delivered w v d lane (loadWords wd sx (seen ((ln.data.drop (off % 128)).take a.bytes))))

/-- R16, R142, R143, R149, R164 to R166, R202: a lane of a load, store or atomic of a peer's bytes leaves for the peer, by the route its
access took at its issue, once the earlier accesses of its warp to those bytes have performed, for a store or an atomic once the copies
of its word have read them, and for a release once all before it has performed; it leaves once, and its request bears a tag that no
other outstanding request bears.  A tile number
beyond 32 bits leaves its own field alone open (log entry 126).  No byte of memory changes. -/
def Sys2Proof.Claims.PeerLanesLeave : Prop :=
  ∀ (s : State) (id lane p table off : Nat) (hit : Bool) (r : Req) (a : LaneAcc) (b : Block) (w : Warp),
    s.reqs.find? (fun q => q.id == id) = some r → r.lanes.find? (fun k => k.lane == lane) = some a → s.block? r.block = some b →
    b.warp? r.warp = some w → a.loc = .peer p table off →
    let away := ∃ q ∈ s.peerReqs, q.who = .lane r.id a.lane
    let leaves := fun (i : Instr) (f : Warp → Warp) (op : Nat) (bs : List Byte) (free : Prop) =>
      (away ∨ ¬ free → ∃ t, exec i s = .next t ∧ SameMemory s t ∧ t.peerReqs = s.peerReqs ∧ t.reqs = s.reqs) ∧
      (¬ away → free → ∃ t q h, exec i s = .next t ∧ SameMemory s t ∧ t.reqs = s.reqs ∧ t.peerReqs = s.peerReqs ++ [q] ∧
        (∀ x ∈ s.peerReqs, x.tag ≠ q.tag) ∧ q.peer = p ∧ q.who = .lane r.id a.lane ∧ q.path = r.route.getD default ∧
        q.core = 32 * r.stack + r.core ∧ q.since = (s.stack? (q.core / 32)).that ∧ q.body = dataFlits bs ∧ q.head = Head.flit h 0 0 ∧ h.op = op ∧ h.dst = p ∧
        h.table = table ∧ (off / 65536 < 2 ^ 32 → h.tile = off / 65536) ∧ h.tile < 2 ^ 32 ∧ h.offset = off % 65536 ∧ h.count = a.bytes - 1 ∧
        (q.tag < 65536 → q.port = s.pathPort q.path ∧ h.tag = q.tag) ∧ (65536 ≤ q.tag → q.port = none ∧ h.tag = 0) ∧
        t.blocks = (s.modWarp r.block r.warp f).blocks)
    (∀ d wd sx, r.kind = .load d wd sx → leaves (.longLoadReturn id lane hit) (fun x => x) 1 [] (s.blocked r a = false)) ∧
    (r.kind = .store → leaves (.storePerformed id lane) (fun x => x) 3 a.data (s.blocked r a = false ∧ s.ownReads r a = false)) ∧
    (∀ d op ty order scope, r.kind = .atom d op ty order scope →
      leaves (.storePerformed id lane)
        (fun x => if order = .release ∨ order = .acqRel then
          { x with unready := x.unready.map fun e => if e.1 < r.word then (0, e.2) else e } else x) 5 (a.data ++ a.cmp)
        (s.blocked r a = false ∧ s.atomReady r order scope = true ∧ s.ownReads r a = false))

/-- R132, R141, R143, R160, R295: a lane of a posted store performs at its home: its bytes stand (but for those a copy of its own
word has written, R142), no other byte changes, the lane ends; on a stamped line the lane faults with 0x24 and no byte changes: the lane
of a program's store is parked, and a handler's, whatever its mode by then, is the fatal error 0x81 (R246, R351; log entry 39). -/
def Sys2Proof.Claims.StoresPerform : Prop :=
  ∀ (s : State) (id lane : Nat) (r : Req) (a : LaneAcc) (b : Block) (w : Warp), s.reqs.find? (fun q => q.id == id) = some r →
    r.kind = .store → r.lanes.find? (fun k => k.lane == lane) = some a → s.block? r.block = some b →
    b.warp? r.warp = some w → s.moving a.loc = false → s.mem.wf = true →
    (s.blocked r a = true → exec (.storePerformed id lane) s = .next s) ∧
    (s.blocked r a = false → (∀ p base off, a.loc ≠ .peer p base off) →
      (∀ base off, a.loc = .tensor base off → s.isStamped (s.addrOf a.loc) a.bytes = false) →
      (∀ k ∈ r.undef, k < s.addrOf a.loc ∨ s.addrOf a.loc + a.data.length ≤ k) →
      ∃ t, exec (.storePerformed id lane) s = .next t ∧ t.mem.readBytes (s.addrOf a.loc) a.data.length = a.data ∧
        (∀ k, k < s.addrOf a.loc ∨ s.addrOf a.loc + a.data.length ≤ k → t.mem.read k = s.mem.read k) ∧
        LaneEnded s t id lane ∧
        (∀ x ∈ t.tags, x ∈ s.tags ∧ ¬(x.line * 64 < s.addrOf a.loc + a.data.length ∧ s.addrOf a.loc < x.line * 64 + 64)) ∧
        (∀ k cr off, a.loc = .tmem k cr off → ∀ n, n ∈ t.empty ↔ n ∈ s.empty ∧ n ∉ granules (32 * k + cr) off a.bytes)) ∧
    (s.blocked r a = false → ∀ base off, a.loc = .tensor base off → s.isStamped (s.addrOf a.loc) a.bytes = true →
      ∃ t v, exec (.storePerformed id lane) s = .next t ∧ SameMemory s t ∧ LaneEnded s t id lane ∧
        t.warp? r.block r.warp = some v ∧
        (r.handler = false → w.parked.getLsbD a.lane = false → a.lane < 32 → v.trap = w.trap ∧ v.parked.getLsbD a.lane = true ∧
          { lane := a.lane, cause := 0x24, slot := 7, rcd := r.rec_, offset := r.offset, c0 := a.c0, c1 := a.c1 } ∈ v.records) ∧
        (r.handler = true → w.trap = none → HandlerFails w v r a 0x24))

/-- R142, R149, R158, R299, R300: a lane of an atomic performs at its home: the location takes the new value, no other byte changes, the
lane's register the old one; of bytes that its own word stored the old value is the one before the store, which they keep.  A line tagged by an instance that the atomic's own does not hold refuses it
with 0x30: a program's lane is parked, a handler's is the fatal error 0x81 (log entry 39). -/
def Sys2Proof.Claims.AtomicsPerform : Prop :=
  ∀ (s : State) (id lane : Nat) (r : Req) (a : LaneAcc) (b : Block) (w : Warp) (d : VDst) (op : AtomOp) (ty : ITy)
    (order : MemOrder) (scope : Scope) (base off : Nat) (e : TileEntry), s.reqs.find? (fun q => q.id == id) = some r →
    r.kind = .atom d op ty order scope → r.lanes.find? (fun k => k.lane == lane) = some a → s.block? r.block = some b →
    b.warp? r.warp = some w → a.loc = .tensor base off → s.entryOf base off = some e → e.moving = none →
    s.blocked r a = false → s.atomReady r order scope = true →
    let n := if ty.is64 then 8 else 4
    let addr := s.tensorAddr base off
    let fits := ∀ x, s.tags.find? (fun t => t.line == addr / 64) = some x → s.tagWithin x (scopeOf b w scope) = true
    let stored := fun (k : Nat) => r.overr.find? fun x => x.1 == addr + k
    let old := (List.range n).map fun k => ((stored k).map (·.2)).getD (s.mem.read (addr + k))
    s.isStamped addr n = false → s.mem.wf = true →
    ((e.tier = 2 ∨ fits) → (∀ k, k < n → addr + k ∉ s.hotBytes (some (r.block, r.warp)) r.id ∧ addr + k ∉ r.undef) →
      ∃ t v, exec (.storePerformed id lane) s = .next t ∧ LaneEnded s t id lane ∧
        t.mem.readBytes addr n = (leBytes n (atomNew op ty (BitVec.ofNat 64 (leNat old)) (BitVec.ofNat 64 (leNat a.data))
          (BitVec.ofNat 64 (leNat a.cmp))).toNat).mapIdx
            (fun k v => if (stored k).isSome then s.mem.read (addr + k) else v) ∧
        (∀ k, k < addr ∨ addr + n ≤ k → t.mem.read k = s.mem.read k) ∧ t.warp? r.block r.warp = some v ∧
        Delivered w v d lane (loadWords (if ty.is64 then .b64 else .b32) false old)) ∧
    (e.tier ≠ 2 → ¬fits →
      ∃ t v, exec (.storePerformed id lane) s = .next t ∧ SameMemory s t ∧ LaneEnded s t id lane ∧
        t.warp? r.block r.warp = some v ∧
        (r.handler = false → w.parked.getLsbD a.lane = false → a.lane < 32 → v.trap = w.trap ∧ v.parked.getLsbD a.lane = true ∧
          { lane := a.lane, cause := 0x30, slot := 7, rcd := r.rec_, offset := r.offset, c0 := a.c0, c1 := a.c1 } ∈ v.records) ∧
        (r.handler = true → w.trap = none → HandlerFails w v r a 0x30))

/-- Long loads, stores and atomics perform (faults found late: log entry 39; a tile number too large: log entry 126). -/
def Obligations.LongAccessesPerform : Prop :=
  Claims.LoadReturns ∧ Claims.StoresPerform ∧ Claims.AtomicsPerform ∧ Claims.PeerLanesLeave

/-- R159 to R164, R174: a commit is accepted when every line of it has room and its warp's earlier loads have returned; its stamp is at least the home's latest and above every
stamp of its lines; no byte of memory changes.  It becomes visible, in all its lines at once, when every usable die's earliest is
known at its home to exceed its stamp: memory holds its data and its handle resolves with its stamp. -/
def Sys2Proof.Claims.CommitsOrder : Prop :=
  ∀ (s : State) (id : Nat) (k : Commit) (b : Block), s.commits.find? (fun q => q.id == id) = some k →
    s.block? k.block = some b →
    let home := s.homeStack k.base k.off
    (k.stamp = none → b.status = .placed → s.moving (.tensor k.base k.off) = false →
      (∀ l ∈ s.commitLines k, (s.versions l).length < 4 ∨ ∃ v ∈ s.versions l, v.visible = true) →
      (∀ q ∈ s.commits, q.block = k.block → q.warp = k.warp → q.id < id → q.base = k.base → q.stamp = none →
        k.off + 64 * k.lines ≤ q.off ∨ q.off + 64 * q.lines ≤ k.off) →
      s.warpTouches k.block k.warp id k.base k.off (64 * k.lines) = false → s.loadsBefore k.block k.warp id = false →
      ∃ t st, exec (.commitAcceptance id) s = .next t ∧ SameMemory s t ∧ (s.stack? home).latest ≤ st ∧
        (∀ l ∈ s.commitLines k, ∀ v ∈ s.versions l, v.stamp < st) ∧
        t.commits.find? (fun q => q.id == id) = some { k with stamp := some st, taken := (s.stack? home).that } ∧
        ((s.commitLines k).Nodup → ∀ i l, (s.commitLines k)[i]? = some l →
          (t.versions l).getLast? = some { stamp := st, visible := false, data := (k.data.drop (64 * i)).take 64 } ∧
          (t.versions l).length ≤ max 4 (s.versions l).length)) ∧
    (∀ st, k.stamp = some st → s.allAbove home st = false → exec (.commitVisibility id) s = .next s) ∧
    (∀ st, k.stamp = some st → s.allAbove home st = true → (s.commitLines k).Nodup → k.data.length = 64 * k.lines →
      s.mem.wf = true →
      (∀ l ∈ s.commitLines k, ∀ v ∈ s.versions l, v.visible = false → st ≤ v.stamp) →
      ∃ t b', exec (.commitVisibility id) s = .next t ∧ (∀ q ∈ t.commits, q.id ≠ id) ∧
        (∀ i l, (s.commitLines k)[i]? = some l → t.mem.readBytes (64 * l) 64 = (k.data.drop (64 * i)).take 64 ∧
          t.versions l = (s.versions l).map fun v => if v.stamp = st then { v with visible := true } else v) ∧
        (∀ a, a / 64 ∉ s.commitLines k → t.mem.read a = s.mem.read a) ∧ t.block? k.block = some b' ∧
        b'.ring = (b.resolve k.handle 1 st false).ring)

/-- R161, R167, R304: a lane of an `ldas` is answered by the newest visible version with a stamp at most T, in its register and its predicate;
with none, or with T more than a millisecond beyond the issuing die's latest, by zeros and false; before every die's earliest
exceeds T it waits.  Bytes of a line without a commit come as they were before the stores of the load's own word (R142), and none is one
that an engine operation is to write (R153). -/
def Sys2Proof.Claims.TimedLoads : Prop :=
  (∀ (t : Nat) (vs : List Version), (newestAt t vs = none ↔ ∀ u ∈ vs, u.visible = true → t < u.stamp) ∧
    ∀ v, newestAt t vs = some v → v ∈ vs ∧ v.visible = true ∧ v.stamp ≤ t ∧
      ∀ u ∈ vs, u.visible = true → u.stamp ≤ t → u.stamp ≤ v.stamp) ∧
  (∀ (s : State) (id lane pd t latest base off : Nat) (r : Req) (a : LaneAcc) (d : VDst) (wd : Width) (sx : Bool) (w : Warp),
    s.reqs.find? (fun q => q.id == id) = some r → r.kind = .ldas d wd sx pd t latest →
    r.lanes.find? (fun k => k.lane == lane) = some a → s.warp? r.block r.warp = some w → a.loc = .tensor base off →
    s.blocked r a = false → s.moving a.loc = false → lane < 32 → 0 < pd → pd < w.p.length →
    let answer := fun (bs : List Byte) (q : Bool) => ∃ u v, exec (.ldasService id lane) s = .next u ∧ SameMemory s u ∧
      LaneEnded s u id lane ∧ u.warp? r.block r.warp = some v ∧ Delivered w v d lane (loadWords wd sx bs) ∧
      (v.pread pd).getLsbD lane = q ∧ ∀ l, l < 32 → l ≠ lane → (v.pread pd).getLsbD l = (w.pread pd).getLsbD l
    (latest + 1000000 < t → answer (List.replicate a.bytes 0) false) ∧
    (t ≤ latest + 1000000 → s.allAbove (s.homeStack base off) t = false → exec (.ldasService id lane) s = .next s) ∧
    (t ≤ latest + 1000000 → s.allAbove (s.homeStack base off) t = true →
      (newestAt t (s.versions (s.tensorAddr base off / 64)) = none → answer (List.replicate a.bytes 0) false) ∧
      ∀ v, newestAt t (s.versions (s.tensorAddr base off / 64)) = some v →
        (∀ k, k < a.bytes → s.tensorAddr base off + k ∉ s.hotBytes (some (r.block, r.warp)) r.id) →
        answer (((v.data.drop (s.tensorAddr base off % 64)).take a.bytes).mapIdx fun i x =>
          if v.stamp = 0 then ((r.overr.find? fun y => y.1 == s.tensorAddr base off + i).map (·.2)).getD x else x) true))

/-- Stamped commits order and become visible; timed loads. -/
def Obligations.CommitsAndTimedLoads : Prop :=
  Claims.CommitsOrder ∧ Claims.TimedLoads

/-- R156, R214, R306: a stage queue takes an entry at its tail while it is not full, once the warp's earlier accesses have performed,
and gives the one at its head while it is not empty, once the warp's earlier gets have been answered (log entry 87, DEDUCED); otherwise the reply is false and
nothing changes in the queue or in memory. -/
def Sys2Proof.Claims.QueueSteps : Prop :=
  ∀ (s : State) (id : Nat) (r : Req) (b : Block) (w : Warp) (tk : Task) (k : StageQ) (d : VDst) (q stage : Nat)
    (data : List Byte), s.reqs.find? (fun r => r.id == id) = some r → s.block? r.block = some b → b.warp? r.warp = some w →
    s.task? b.ctx b.task = some tk → tk.queues[stage]? = some k → 0 < q → q < w.q.length → data.length = 64 →
    s.mem.wf = true →
    let after := fun (t : State) (j : StageQ) (ok : Bool) => ∃ v tk', t.warp? r.block r.warp = some v ∧ v.qread q = ok ∧
      t.task? b.ctx b.task = some tk' ∧ tk'.queues[stage]? = some j ∧ ∀ n, n ≠ stage → tk'.queues[n]? = tk.queues[n]?
    (r.kind = .qput q stage data → s.earlierDone r = false → exec (.queueStep id) s = .next s) ∧
    (r.kind = .qput q stage data → s.earlierDone r = true → k.count < 2 ^ k.logCap →
      ∃ t, exec (.queueStep id) s = .next t ∧ after t { k with tail := (k.tail + 1) % 2 ^ 32 } true ∧
        t.mem.readBytes (k.entry k.tail) 64 = data ∧
        ∀ a, a < k.entry k.tail ∨ k.entry k.tail + 64 ≤ a → t.mem.read a = s.mem.read a) ∧
    (r.kind = .qput q stage data → s.earlierDone r = true → 2 ^ k.logCap ≤ k.count →
      ∃ t, exec (.queueStep id) s = .next t ∧ after t k false ∧ SameMemory s t) ∧
    (r.kind = .qget d q stage → s.getBefore r.block r.warp r.id = true → exec (.queueStep id) s = .next s) ∧
    (r.kind = .qget d q stage → s.getBefore r.block r.warp r.id = false → 0 < k.count →
      ∃ t v, exec (.queueStep id) s = .next t ∧ after t { k with head := (k.head + 1) % 2 ^ 32 } true ∧ SameMemory s t ∧
        t.warp? r.block r.warp = some v ∧ ∀ a ∈ r.lanes, a.lane < 16 →
          Delivered w v d a.lane [BitVec.ofNat 32 (leNat (s.mem.readBytes (k.entry k.head + 4 * a.lane) 4))]) ∧
    (r.kind = .qget d q stage → s.getBefore r.block r.warp r.id = false → k.count = 0 → ∃ t, exec (.queueStep id) s = .next t ∧ after t k false ∧ SameMemory s t)

/-- R133, R139, R302, R371: a load-block's lines fill the L1 under its tag and its handle resolves with the bytes it brought; a
probe whose frames firmware has brought in may issue, on a peer with any number of the frames of its box (log entry 7), and one that cannot
have them traps at its issue. -/
def Sys2Proof.Claims.FillsAndProbes : Prop :=
  (∀ (s : State) (id tag first n : Nat) (o : EngOp) (x : Box) (b : Block), s.ops.find? (fun o => o.id == id) = some o →
    o.kind = .lblk tag first n → o.srcA = some x → s.block? o.block = some b → o.doneRd = false →
    s.warpTouches o.block o.warp o.id x.rcd.base (128 * first) (128 * n) = false → n ≤ 4096 →
    (∀ i k, i < n → k < 128 → s.tensorAddr x.rcd.base (128 * (first + i)) + k ∉
      s.hotBytes (some (o.block, o.warp)) id) →
    ∃ t b', exec (.lblkFill id) s = .next t ∧ SameMemory s t ∧ (∀ q ∈ t.ops, q.id ≠ id) ∧ t.block? o.block = some b' ∧
      b'.ring = (b.resolve o.handle 1 (128 * n) false).ring ∧
      ∀ i, i < n → { core := 32 * o.stack + o.core, base := x.rcd.base, line := first + i,
                     data := (List.range 128).map fun k => oldByte o.overr s.mem (s.tensorAddr x.rcd.base (128 * (first + i)) + k),
                     tag := some (o.block, tag) } ∈ t.l1) ∧
  (∀ (s : State) (b : Block) (w : Warp) (r : Record) (x a : Nat), s.block? b.bid = some b → b.warp? w.num = some w →
    s.nextProbe b w = some (x, a) → b.status = .placed → w.flights = [] → w.pend = [] → s.probeWaits b w x a = true →
    s.recordOf b w x = some r → r.kind = 3 →
    (∃ t v n, exec (.probeCompletion b.bid w.num true) s = .next t ∧ t.warp? b.bid w.num = some v ∧
      v = { w with probeIn := some n } ∧ n ≤ (s.probeTiles b w x a).length ∧ SameMemory s t) ∧
    exec (.probeCompletion b.bid w.num false) s = .next (s.modWarp b.bid w.num fun v => { v with probeBad := true })) ∧
  (∀ (s : State) (b : Block) (w : Warp) (r : Record) (x a : Nat), s.block? b.bid = some b → b.warp? w.num = some w →
    s.nextProbe b w = some (x, a) → b.status = .placed → w.flights = [] → w.pend = [] → s.probeWaits b w x a = true →
    s.recordOf b w x = some r → r.kind ≠ 3 →
    ((s.probeMissing (s.probeFrames b w x a)).foldl (fun s f => s.bringIn f.1 f.2) s).probeMissing (s.probeFrames b w x a) = [] →
    ∃ t v, exec (.probeCompletion b.bid w.num true) s = .next t ∧ t.warp? b.bid w.num = some v ∧
      v = { w with probeIn := some (s.probeMissing (s.probeFrames b w x a)).length } ∧
      (∀ f ∈ s.probeFrames b w x a, t.absent (.tensor f.1 (f.2 * 65536)) = false))

/-- Warp queues step by step (a get waits for earlier gets: log entry 87); fills and probes (of a peer: log entry 7). -/
def Obligations.QueuesAndFills : Prop :=
  Claims.QueueSteps ∧ Claims.FillsAndProbes

-- The T and C slots and their engines.

/-- An engine operation of `kind` is submitted: it is the last of the operations under the model's next number, its handle is the
next of its block's ring and stands in `h` at the end of the word, and no byte of memory changes. -/
def Sys2Proof.Claims.Submitted (s : State) (i : Instr) (c : Issue) (b : Block) (w : Warp) (h kindNo : Nat) (kind : EngKind)
    (f : EngOp → Prop) : Prop :=
  ∃ t o b', exec i s = .next t ∧ t.ops.getLast? = some o ∧ o.id = s.uid ∧ o.kind = kind ∧ o.block = b.bid ∧ o.warp = w.num ∧
    o.handle = (b.alloc kindNo).1.toNat ∧ o.issue = c.cycle ∧ o.stack = b.stack ∧ o.core = w.core ∧ f o ∧
    t.block? c.block = some b' ∧ b'.ring = (b.alloc kindNo).2.ring ∧ b'.ringNext = (b.alloc kindNo).2.ringNext ∧
    t.issue = some { c with handles := c.handles ++ [(h, (b.alloc kindNo).1)] } ∧ SameMemory s t

/-- R312 to R327: the engine operations, accepted when their boxes pass the checks and no frame of them is absent: `mmac`, copies
and collective steps wait in their queue, `mstore` and `mload` have started.  An `mmac` ends Acc cycles after the last one of its
core, and no sooner than 24 cycles after its issue; an `mstore` holds the bytes of its tiles' cells as they are at its issue, each
converted (StoredElements), for the elements of its box. -/
def Sys2Proof.Claims.EngineSubmits : Prop :=
  ∀ (s : State) (c : Issue) (b : Block) (w : Warp) (g : Guard) (h acc nf nt mf xa xb xr a m : Nat) (pair : MPair)
    (pro ia ib ir src : Bool) (fmt : Fmt) (rm : Rm) (op : CollOp) (l : List Box),
    Issuing s c b w → qGuard w g = true →
    let fits := fun (i : Instr) => s.planOf b w i = .boxes l ∧ s.absentFrame l = none
    let full := ∀ x, l.head? = some x → x.e0 ≠ 0 ∧ x.e1 ≠ 0
    (fits (.mmac g h acc nf mf pair pro xa ia xb ib) →
      Submitted s (.mmac g h acc nf mf pair pro xa ia xb ib) c b w h 3 (.mmac acc nf mf pair pro) fun o =>
        o.st = .queued ∧ o.srcA = l[0]? ∧ o.srcB = l[1]? ∧
        o.last = max (c.cycle + 24) (s.lastOf (coreId b w)) + accCycles nf mf pair) ∧
    (fits (.mload g h acc nt mf xa ia) →
      Submitted s (.mload g h acc nt mf xa ia) c b w h 1 (.mload acc nt mf) fun o => o.st = .started ∧ o.srcA = l[0]?) ∧
    (fits (.mstore g h acc nt mf fmt rm src xa ia) → l ≠ [] →
      Submitted s (.mstore g h acc nt mf fmt rm src xa ia) c b w h 1 (.mstore acc nt mf fmt rm src) fun o =>
        o.st = .started ∧ o.dst = l[0]? ∧ ∀ x, l[0]? = some x →
          o.image = x.elems.flatMap fun p => (List.range (elemBytes x.rcd.format)).map fun q =>
            (s.addrOf (x.loc (x.off p.1 p.2 + q)), BitVec.ofNat 8 (storeElem src fmt rm
              (s.cell (cellAddr (coreId b w) (b.tiles w.core acc nt) p.2 p.1)) / 256 ^ q))) ∧
    (fits (.cpy g h xa ia xb ib a) → l ≠ [] → full →
      Submitted s (.cpy g h xa ia xb ib a) c b w h 1 .cpy fun o => o.st = .queued ∧ o.dst = l[0]? ∧ o.srcA = l[1]?) ∧
    (fits (.cpym g h xa ia xb ib a m) → l ≠ [] → full →
      Submitted s (.cpym g h xa ia xb ib a m) c b w h 1 (.cpym m) fun o =>
        o.st = .queued ∧ o.dst = l[0]? ∧ o.srcA = l[1]?) ∧
    (fits (.coll g h xa ia xb ib a xr ir op) → l ≠ [] → full →
      Submitted s (.coll g h xa ia xb ib a xr ir op) c b w h 2 (.coll op) fun o =>
        o.st = .queued ∧ o.dst = l[0]? ∧ o.srcA = l[1]? ∧ o.srcB = l[2]?) ∧
    (fits (.cpy g h xa ia xb ib a) → (∃ x, l.head? = some x ∧ (x.e0 = 0 ∨ x.e1 = 0)) →
      ∃ t b', exec (.cpy g h xa ia xb ib a) s = .next t ∧ t.ops = s.ops ∧ t.block? c.block = some b' ∧ SameMemory s t ∧
        b'.ring = ((b.alloc 1).2.resolve (b.alloc 1).1.toNat 1 0 false).ring)

/-- R333: a submission refused while lanes are active resolves its handle as refused, parks those not yet parked, each with a record of its cause, its slot,
the record and the coordinates refused, and reads, writes and pins nothing; while none is active the word traps with the cause. -/
def Sys2Proof.Claims.EngineRefusals : Prop :=
  ∀ (s : State) (c : Issue) (b : Block) (w : Warp) (i : Instr) (g : Guard) (cause rcd : Nat) (c0 c1 : Word32),
    Issuing s c b w → engineGuard i = some g → qGuard w g = true →
    s.planOf b w i = .refused cause rcd c0 c1 →
    (c.lanes = 0 → c.clear = false → Traps s i c cause 0) ∧
    (c.lanes ≠ 0 → w.bank = none →
      ∃ t v k, exec i s = .next t ∧ t.ops = s.ops ∧ t.tensors = s.tensors ∧ SameMemory s t ∧ t.warp? c.block c.warp = some v ∧
        (∃ b' n, t.block? c.block = some b' ∧ b'.ring = ((b.alloc n).2.resolve k 4 0 false).ring ∧ k = (b.alloc n).1.toNat) ∧
        (∀ l, l < 32 → v.parked.getLsbD l = (w.parked.getLsbD l || c.lanes.getLsbD l)) ∧
        v.records = w.records ++ ((List.range 32).filter fun l => c.lanes.getLsbD l && !w.parked.getLsbD l).map fun l =>
          { lane := l, cause := cause, slot := slotNum c.cur, rcd := rcd, offset := c.tok, c0 := c0, c1 := c1 })

/-- Submitting an engine operation, and the refusals of the engines. -/
def Obligations.EngineSubmissions : Prop :=
  Claims.EngineSubmits ∧ Claims.EngineRefusals

/-- R154, R318, R319: `mzero` clears its tiles' cells, touches no other byte and leaves the tiles write-busy for
4 × (number of tiles) cycles; `mready` holds the next word until the warp's earlier stores have performed. -/
def Sys2Proof.Claims.TilesCleared : Prop :=
  ∀ (s : State) (c : Issue) (b : Block) (w : Warp) (g : Guard) (acc nt id : Nat), Issuing s c b w → qGuard w g = true →
    (∃ t, exec (.mzero g acc nt) s = .next t ∧
      (∀ k ∈ b.tiles w.core acc nt, ∀ j, j < 16384 → t.mem.read (accAddr (coreId b w) k 0 0 + j) = 0) ∧
      (∀ a, (∀ k ∈ b.tiles w.core acc nt, a < accAddr (coreId b w) k 0 0 ∨ accAddr (coreId b w) k 0 0 + 16384 ≤ a) →
        t.mem.read a = s.mem.read a) ∧
      (∀ k ∈ b.tiles w.core acc nt, BusyTile.mk (coreId b w) k s.uid false true (c.cycle + 4 * (nt + 1)) ∈ t.busy) ∧ t.blocks = s.blocks) ∧
    (let k : Hold := { kind := .mready c.cycle, upto := c.uid }
    WarpBecomes s (.mready g) c (fun x => { x with hold := x.hold ++ [k] })) ∧
    (∃ t, exec (.mzeroDone id) s = .next t ∧ t = { s with busy := t.busy } ∧ ∀ k, k ∈ t.busy ↔ k ∈ s.busy ∧ ¬(k.op = id ∧
      k.mmac = false ∧ k.write = true ∧ k.until_ ≠ 0 ∧ k.until_ ≤ s.nowCycle (k.core / 32) (k.core % 32 / 8)))

/-- R129, R142, R153: the bytes of a box that are undefined for an operation: those another party wrote since it was submitted, and
those another outstanding operation is to write or whose granule, one of its destination's, a store has met; reading them gives free
values (log entry 7).  All others are read as memory holds them, but for the bytes of stores the operation does not see. -/
def Sys2Proof.Claims.OperandBytes : Prop :=
  ∀ (s : State) (o : EngOp) (x : Box),
    (∀ off, off ∈ s.boxDirty o x ↔ off ∈ x.offsets ∧ (s.addrOf (x.loc off) ∈ o.taint ∨
      ∃ q ∈ s.ops, q.id ≠ o.id ∧ s.addrOf (x.loc off) ∈ s.opHot q)) ∧
    (∀ (q : EngOp) (a : Nat), a ∈ s.opHot q ↔ a ∈ (q.dests s).flatMap s.boxAddrs ∨
      ∃ g k, g ∈ addrGranules ((q.dests s).flatMap s.boxAddrs) ∧ g ∈ addrGranules (q.taint ++ q.own) ∧ k < 16 ∧
        a = regionSize + 16 * g + k) ∧
    ((s.boxBytes o x).1.map (·.1) = x.offsets) ∧
    (∀ off v, (off, v) ∈ (s.boxBytes o x).1 → off ∉ s.boxDirty o x → v =
      ((o.overr.find? fun e => e.1 == s.addrOf (x.loc off)).map (·.2)).getD (s.mem.read (s.addrOf (x.loc off)))) ∧
    (s.boxDirty o x = [] → (s.boxBytes o x).2 = s)

/-- The bytes of a box as memory holds them. -/
def Sys2Proof.Claims.boxData (s : State) (x : Box) : List (Nat × Byte) := x.offsets.map fun o => (o, s.mem.read (s.addrOf (x.loc o)))

/-- The operation has ended: it and its busy tiles are gone, its handle has resolved with the outcome and value given. -/
def Sys2Proof.Claims.Ended (s t : State) (o : EngOp) (b : Block) (outcome val : Nat) (mal : Bool) : Prop :=
  (∀ q ∈ t.ops, q.id ≠ o.id) ∧ (∀ k ∈ t.busy, k.op ≠ o.id) ∧ (∀ q : EngOp, q.id ≠ o.id → q ∈ s.ops → ∃ q' ∈ t.ops, q'.id = q.id) ∧
  ∃ b', t.block? o.block = some b' ∧ b'.ring = (b.resolve o.handle outcome val mal).ring

/-- R109 to R118, R164, R312 to R316: an `mmac` starts Acc + 24 cycles before its last accumulation and not before, nor while an
earlier load of its warp is outstanding (log entry 99, DEDUCED); six cycles after it, when its operands are read (log entry 9, DEDUCED),
where no byte of them is undefined, each cell (i, j) holds the exact sum of its row and its column's products with the old cell, or
without it, rounded as its pair says; where one is, every byte of every cell of the destination is a free value (R4, R111; log entry 7).
No other byte changes. -/
def Sys2Proof.Claims.MatrixMultiply : Prop :=
  ∀ (s : State) (id acc nf mf : Nat) (pair : MPair) (pro : Bool) (o : EngOp) (xa xb : Box) (b : Block),
    s.op? id = some o → o.kind = .mmac acc nf mf pair pro → s.block? o.block = some b → o.srcA = some xa → o.srcB = some xb →
    (o.st = .queued → s.opCycle o + accCycles nf mf pair + 24 < o.last → exec (.mmacStart id) s = .next s) ∧
    (o.st = .queued → o.last ≤ s.opCycle o + accCycles nf mf pair + 24 → s.opMoving o = false →
      s.mmacBefore o (fun q => q.st == .queued) = false → s.loadsBefore o.block o.warp o.id = false →
      ∃ t, exec (.mmacStart id) s = .next t ∧ SameMemory s t ∧ t.op? id = some { o with st := .started }) ∧
    (s.loadsBefore o.block o.warp o.id = true → exec (.mmacStart id) s = .next s) ∧
    (s.opCycle o < o.last + 6 → exec (.mmacCompletion id) s = .next s) ∧
    (let tiles := b.tiles o.core acc nf
    let core := 32 * o.stack + o.core
    let row := fun i => (List.range (pairK pair)).map fun q => operandAt pair false xa (boxData s xa) q i
    let col := fun j => (List.range (pairK pair)).map fun q => operandAt pair true xb (boxData s xb) j q
    o.st = .started → o.last + 6 ≤ s.opCycle o → s.mmacBefore o (fun _ => true) = false →
      s.boxDirty o xa = [] → s.boxDirty o xb = [] → o.overr = [] →
      tiles.Nodup → tiles.length = nf + 1 → s.mem.wf = true →
      ∃ t mal, exec (.mmacCompletion id) s = .next t ∧ Ended s t o b 1 0 mal ∧
        (∀ i j, i < mRows mf → j < 16 * (nf + 1) → t.cell (cellAddr core tiles i j) =
          cellSum pair ((row i).map (·.1)) ((col j).map (·.1)) (if pro then 0 else s.cell (cellAddr core tiles i j))) ∧
        (∀ a, (∀ i j, i < mRows mf → j < 16 * (nf + 1) →
            a < cellAddr core tiles i j ∨ cellAddr core tiles i j + 4 ≤ a) → t.mem.read a = s.mem.read a) ∧
        (mal = true ↔ ∃ i q, q < pairK pair ∧ ((i < mRows mf ∧ ((row i).map (·.2))[q]? = some true) ∨
          (i < 16 * (nf + 1) ∧ ((col i).map (·.2))[q]? = some true)))) ∧
    (let tiles := b.tiles o.core acc nf
    let at_ := fun i j => cellAddr (32 * o.stack + o.core) tiles i j
    o.st = .started → o.last + 6 ≤ s.opCycle o → s.mmacBefore o (fun _ => true) = false →
      s.boxDirty o xa ≠ [] ∨ s.boxDirty o xb ≠ [] → tiles.Nodup → tiles.length = nf + 1 → s.mem.wf = true →
      ∃ t mal, exec (.mmacCompletion id) s = .next t ∧ Ended s t o b 1 0 mal ∧
        (∀ i j q, i < mRows mf → j < 16 * (nf + 1) → q < 4 → ∃ n, t.mem.read (at_ i j + q) = Config.freeByte n) ∧
        ∀ a, (∀ i j, i < mRows mf → j < 16 * (nf + 1) → a < at_ i j ∨ at_ i j + 4 ≤ a) → t.mem.read a = s.mem.read a)

/-- R320: the code of the element a cell is stored as, by destination format, of an FP32 cell and of an INT32 cell. -/
def Sys2Proof.Claims.StoredElements : Prop :=
  ∀ (rm : Rm) (w : Word32),
    let x := fp32Value w
    let n := XVal.ofInt w.toInt
    storeElem false .fp32 rm w = w.toNat ∧ storeElem false .bf16 rm w = roundBf16 rm x ∧
    storeElem false .d8 rm w = roundD8 rm x ∧ storeElem false .e4m3 rm w = roundE4m3 rm x ∧
    storeElem false .e5m2 rm w = roundE5m2 rm x ∧
    storeElem false .int32 rm w = (BitVec.ofInt 32 (roundInt rm (-2 ^ 31) (2 ^ 31 - 1) x)).toNat ∧
    storeElem false .int8 rm w = (BitVec.ofInt 8 (roundInt rm (-128) 127 x)).toNat ∧
    storeElem true .int32 rm w = w.toNat ∧ storeElem true .int8 rm w = (BitVec.ofInt 8 (max (-128) (min 127 w.toInt))).toNat ∧
    storeElem true .fp32 rm w = (roundFp32 rm n).toNat ∧ storeElem true .bf16 rm w = roundBf16 rm n

/-- R320, R321: `mstore` frees its tiles ⌈M × N / 1024⌉ + 4 cycles after its issue and lands at 12 the bytes it has held since its issue
(EngineSubmissions);
`mload` puts the raw words of its box into the cells at 8.  No other byte changes. -/
def Sys2Proof.Claims.MatrixMoves : Prop :=
  ∀ (s : State) (id acc nt mf : Nat) (fmt : Fmt) (rm : Rm) (src : Bool) (o : EngOp) (x : Box) (b : Block),
    s.op? id = some o → s.block? o.block = some b →
    (o.kind = .mstore acc nt mf fmt rm src →
      (s.opCycle o < o.issue + moveCycles nt mf + 4 → exec (.mstoreReadDone id) s = .next s) ∧
      (o.issue + moveCycles nt mf + 4 ≤ s.opCycle o → ∃ t, exec (.mstoreReadDone id) s = .next t ∧ SameMemory s t ∧
        (∀ k ∈ t.busy, k.op ≠ id) ∧ t.op? id = some { o with doneRd := true }) ∧
      (s.opCycle o < o.issue + moveCycles nt mf + 12 → exec (.mstoreLanding id) s = .next s) ∧
      (o.issue + moveCycles nt mf + 12 ≤ s.opCycle o → o.dst = some x → s.boxWaits true o x = false → o.taint = [] → o.own = [] →
        ∃ t, exec (.mstoreLanding id) s = .next t ∧ Ended s t o b 1 o.image.length false ∧
          t.mem = s.mem.writeAll o.image ∧ ∀ n, n ∈ t.empty ↔ n ∈ s.empty ∧ n ∉ addrGranules (o.image.map (·.1)))) ∧
    (o.kind = .mload acc nt mf → o.srcA = some x →
      (s.opCycle o < o.issue + moveCycles nt mf + 8 → exec (.mloadCompletion id) s = .next s) ∧
      (o.issue + moveCycles nt mf + 8 ≤ s.opCycle o → s.boxWaits false o x = false → s.boxDirty o x = [] → o.overr = [] →
        ∃ t, exec (.mloadCompletion id) s = .next t ∧ Ended s t o b 1 (4 * x.elems.length) false ∧
          t.mem = s.mem.writeAll (x.elems.flatMap fun e => (List.range 4).map fun q =>
            (cellAddr (32 * o.stack + o.core) (b.tiles o.core acc nt) e.2 e.1 + q,
              byteAt (boxData s x) (x.off e.1 e.2 + q)))))

/-- The matrix unit clears, multiplies, converts and moves tiles (start after loads: log entry 99; operands read at completion: log entry 9). -/
def Obligations.MatrixUnit : Prop :=
  Claims.TilesCleared ∧ Claims.OperandBytes ∧ Claims.MatrixMultiply ∧ Claims.StoredElements ∧ Claims.MatrixMoves

/-- R151, R153, R164 to R166, R324 to R327: a copy or collective step starts in the order of its engine's queue, once its warp's
earlier accesses to its boxes, on every core it names, have performed, and completes once its warp's earlier reads of its destinations
have; its bytes are read and written in that event (log entry 9, DEDUCED); then its destination, in every core it names, holds the source's bytes, or the combination of its sources, where no source
overlaps it and no byte is undefined, and its handle resolves with the bytes written. -/
def Obligations.CopiesComplete : Prop :=
  (∀ (s : State) (id : Nat) (o : EngOp) (d x : Box) (b : Block), s.op? id = some o → s.block? o.block = some b →
    o.kind.isCopy = true → o.dst = some d → o.srcA = some x →
    (o.st = .queued → s.opMoving o = false → (∀ y, y ∈ o.dests s ++ o.srcA.toList ++ o.srcB.toList → s.boxWaits false o y = false) →
      ((∀ q ∈ s.ops, q.stack = o.stack → q.core = o.core → q.id < id → q.kind.isCopy = true → q.st ≠ .queued) →
        ∃ t, exec (.copyStart id) s = .next t ∧ SameMemory s t ∧ t.op? id = some { o with st := .started }) ∧
      ((∃ q ∈ s.ops, q.stack = o.stack ∧ q.core = o.core ∧ q.id < id ∧ q.kind.isCopy = true ∧ q.st = .queued) →
        exec (.copyStart id) s = .next s)) ∧
    (o.st = .queued ∨ (∃ y ∈ o.dests s, s.boxWaits true o y = true) → exec (.copyCompletion id) s = .next s) ∧
    (∀ y, y ∈ o.dests s ++ o.srcA.toList ++ o.srcB.toList → s.boxWaits false o y = true → exec (.copyStart id) s = .next s) ∧
    (o.st = .started → s.peerPending id = false → (∀ y ∈ o.dests s, s.boxWaits true o y = false) → d.rcd.kind ≠ 3 → x.rcd.kind ≠ 3 →
      (∀ y, o.srcB = some y → y.rcd.kind ≠ 3 ∧ s.boxDirty o y = []) → s.boxDirty o x = [] → o.taint = [] → o.own = [] → o.overr = [] →
      let data := fun (y : Box) => match o.kind, o.srcB with
        | .coll op, some z => collCells op y x z (boxData s x) (boxData s z)
        | _, _ => copyCells y x (boxData s x) fun off => s.mem.read (s.addrOf (y.loc off))
      let cells := (o.dests s).flatMap fun y => (data y).map fun p => (s.addrOf (y.loc p.1), p.2)
      (∀ y ∈ o.dests s, ∀ z ∈ o.rivals y, ∀ p ∈ data y, ∀ k ∈ z.offsets, y.loc p.1 ≠ z.loc k) →
      ∃ t, exec (.copyCompletion id) s = .next t ∧ t.mem = s.mem.writeAll cells ∧ Ended s t o b 1 cells.length false ∧
        ∀ n, n ∈ t.empty ↔ n ∈ s.empty ∧ n ∉ addrGranules (cells.map (·.1)))) ∧
  (∀ (d x : Box) (src : List (Nat × Byte)) (old : Nat → Byte), d.rcd.described = false → fmtBits d.rcd.format ≠ 4 →
    copyCells d x src old = d.elems.flatMap fun p => (List.range (elemBytes d.rcd.format)).map fun q =>
      (d.off p.1 p.2 + q, byteAt src (x.off p.1 p.2 + q))) ∧
  (∀ a b : Word32, collElem .sumI32 a b = a + b ∧ collElem .sumF32 a b = fp32Add .rn a b ∧
    collElem .maxF32 a b = fp32Max a b ∧ collElem .minF32 a b = fp32Min a b)

/-- R323, R328 to R332: `fwait` does nothing more once it issues; `ftry` answers a resolved handle or a time of 0 at once and else
suspends its warp, which goes on when the handle has resolved, its time has passed or its block is to be pre-empted; `fstat` reads
a handle's state; `fmov` puts a value into a handle register at the end of the word. -/
def Sys2Proof.Claims.Futures : Prop :=
  (∀ (s : State) (c : Issue) (b : Block) (w : Warp) (g : Guard) (h q d a n r : Nat), Issuing s c b w → qGuard w g = true →
    let v := w.hread h
    exec (.fwait g h) s = .next s ∧
    (b.unresolved v = false → Flies s (.ftry g q h (.imm n)) c 1 [.qreg q true] ∧
      Flies s (.ftry g q h (.sreg r)) c 1 [.qreg q true]) ∧
    (b.unresolved v = true → Flies s (.ftry g q h (.imm 0)) c 1 [.qreg q false] ∧
      (n ≠ 0 → WarpBecomes s (.ftry g q h (.imm n)) c (fun x =>
        { x with trying := some { q := q, handle := v, deadline := (s.stack? b.stack).that + 1000 * n } })) ∧
      (w.sread r ≠ 0 → WarpBecomes s (.ftry g q h (.sreg r)) c (fun x =>
        { x with trying := some { q := q, handle := v,
                                  deadline := (s.stack? b.stack).that + 1000 * min (w.sread r).toNat 4096 } }))) ∧
    (b.ringOf v = none → Flies s (.fstat g h d .st) c 1 [.sreg d 0xD0]) ∧
    (∀ x, b.ringOf v = some x →
      Flies s (.fstat g h d .st) c 1 [.sreg d (BitVec.ofNat 64
        ((if x.resolved then 128 else 0) + x.outcome * 16 + (if x.malformed then 8 else 0) + x.kind))] ∧
      Flies s (.fstat g h d .val) c 1 [.sreg d (BitVec.ofNat 64 (if x.resolved then x.val else 0))]) ∧
    Flies s (.fstat g h d .id) c 1 [.sreg d v] ∧
    exec (.fmov g h a) s = .next { s with issue := some { c with handles := c.handles ++ [(h, w.sread a)] } }) ∧
  (∀ (s : State) (b : Block) (w : Warp) (q deadline : Nat) (h : Word64), s.block? b.bid = some b → b.warp? w.num = some w →
    w.trying = some { q := q, handle := h, deadline := deadline } →
    (b.unresolved h = false ∨ b.pre.isSome = true ∨ deadline ≤ (s.stack? b.stack).that →
      exec (.ftryTimeout b.bid w.num) s = .next (s.modWarp b.bid w.num fun x =>
        { (x.settleOn (.q q) 0 (s.cluster b.stack (w.core / 8)).cycle).land (.qreg q (!b.unresolved h)) with trying := none })) ∧
    (b.unresolved h = true → b.pre = none → (s.stack? b.stack).that < deadline →
      exec (.ftryTimeout b.bid w.num) s = .next s)) ∧
  (∀ (b : Block) (k : Nat), 0 < b.gen → b.gen < 2 ^ 24 → b.ringNext < 256 →
    let p := b.alloc k
    p.2.ringOf p.1 = some { slot := b.ringNext, gen := b.gen, kind := k, resolved := false, outcome := 0, malformed := false,
                            val := 0 } ∧
    p.1.toNat = b.gen * 256 + b.ringNext ∧ 0 < p.2.gen ∧ p.2.gen < 2 ^ 24 ∧ p.2.gen ≠ b.gen ∧
    p.2.ringNext = (b.ringNext + 1) % 256 ∧ b.ringOf 0 = none ∧
    ∀ oc val mal, (p.2.resolve p.1.toNat oc val mal).unresolved p.1 = false)

/-- R316, R330: `fcancel` drops a copy that has not started and an `mmac` that has not (its moment has not come, or it waits for earlier
loads: log entry 99, DEDUCED), stops a copy that has, drops a commit not yet accepted, and does nothing to what has resolved.  What is
dropped reads and writes nothing. -/
def Sys2Proof.Claims.Cancelling : Prop :=
  ∀ (s : State) (c : Issue) (b : Block) (w : Warp) (g : Guard) (h : Nat), Issuing s c b w → qGuard w g = true →
    let v := w.hread h
    let found := fun (o : EngOp) => s.ops.find? (fun o => o.block == b.bid && o.handle == v.toNat) = some o
    (b.unresolved v = false → exec (.fcancel g h) s = .next s) ∧
    (∀ o, b.unresolved v = true → found o → o.mmacCycles = none → o.st = .queued →
      ∃ t, exec (.fcancel g h) s = .next t ∧ SameMemory s t ∧ Ended s t o b 3 0 false) ∧
    (∀ o, b.unresolved v = true → found o → o.mmacCycles = none → o.st ≠ .queued →
      ∃ t n, exec (.fcancel g h) s = .next t ∧ Ended s t o b 2 n false ∧
        ∀ a, a ∉ (o.dests s).flatMap s.boxAddrs → a ∉ o.cellBytes s → t.mem.read a = s.mem.read a) ∧
    (∀ o n, b.unresolved v = true → found o → o.mmacCycles = some n → o.st = .queued →
      s.opCycle o + n + 24 < o.last ∨ s.loadsBefore o.block o.warp o.id = true →
      ∃ t, exec (.fcancel g h) s = .next t ∧ SameMemory s t ∧ Ended s t o b 3 0 false) ∧
    (∀ o n, b.unresolved v = true → found o → o.mmacCycles = some n →
      o.st ≠ .queued ∨ (o.last ≤ s.opCycle o + n + 24 ∧ s.loadsBefore o.block o.warp o.id = false) →
      exec (.fcancel g h) s = .next s) ∧
    (∀ k, b.unresolved v = true → (∀ o ∈ s.ops, ¬(o.block = b.bid ∧ o.handle = v.toNat)) →
      s.commits.find? (fun k => k.block == b.bid && k.handle == v.toNat) = some k →
      (k.stamp.isSome = true → exec (.fcancel g h) s = .next s) ∧
      (k.stamp = none → ∃ t, exec (.fcancel g h) s = .next t ∧ SameMemory s t ∧ ∀ q, q ∈ t.commits ↔ q ∈ s.commits ∧ q.id ≠ k.id))

/-- Waiting on, querying, moving and cancelling futures, and stalls for what is pending (an mmac that waits for loads: log entry 99). -/
def Obligations.FuturesAndCancelling : Prop :=
  Claims.Futures ∧ Claims.Cancelling ∧ Claims.PendingStalls


-- Tokens (R67 to R74).

/-- A pitch cycle has chosen warp `w` of block `b` in cycle `x.cycle`. -/
def Sys2Proof.Claims.Chosen (s : State) (x : Sel) (b : Block) (w : Warp) : Prop :=
  s.sel = some x ∧ s.block? x.block = some b ∧ b.warp? x.warp = some w

/-- The issue record of a word taken up from the token at the PC of `w` (R56 step 3). -/
def Sys2Proof.Claims.taken (s : State) (x : Sel) (b : Block) (w : Warp) (word : Nat) (hs : List Word64) (next : Nat) : Issue :=
  { block := b.bid, warp := w.num, word := word, holes := hs, slots := (wordOps word).map (·.1), cur := .S,
    lanes := if w.handler then w.active else w.active &&& ~~~w.parked, tok := w.pc, next := next, cycle := x.cycle, uid := s.uid,
    stores := [], handles := [], newMask := none, trapped := false, clear := true, hret := none }

/-- R62, R67 to R69, R73: tokens.  An index token takes up its dictionary entry's word with its holes extended, every named slot to
act, and its group is the core's most recently used; an over-draw found (before the word's own trap: log entry 33, DEDUCED), the first
trapping slot, or a parked set at the stack base stands before that, in this order (R37, R58, R385).
`idle n` takes up the first of n + 1 empty words; the others follow, and the PC passes the token with the last.  `loop` pushes a
level and enters its body, or with count 0 passes the body; `ipf` passes and hints its lines; then a warp that holds or
takes a notice gives up its turn and the pitch selects another in that cycle (R39, R67, R189); any other goes on to its word in it. -/
def Sys2Proof.Claims.TokensIssue : Prop :=
  ∀ (s : State) (x : Sel) (b : Block) (w : Warp), Chosen s x b w →
    let gives := fun (u : State) =>
      (({ u with sel := none } : State).turnEnds (coreId b w) w.pitch).pitchSelect b.stack w.core w.pitch x.cycle
    let passed := fun (u : State) => if b.holds w = true then gives u else u
    (∀ (e : Nat) (hs : List Nat) (long : Bool),
      let k := s.code b w
      let i : Instr := if long then .longIndex e hs else .shortIndex e hs
      let n := (if long then 2 else 1) + (k.widths e).sum
      let c := taken s x b w (k.dict.getD e default).word ((k.widths e).zipWith extendHole hs) (w.pc + n)
      let t : State := (s.touchGroup (coreId b w) (fetchKey b k.unit (e / 16))).modWarp x.block x.warp fun v =>
        { v with held := false, atPoint := false }
      let early : Issue := { c with slots := [], clear := false }
      let u : State := { t with issue := some early, sel := none, uid := s.uid + 1 }
      e < k.dsize → crosses w.loops w.pc n = false →
      (w.overdraw = true → exec i s = .next (u.raise early 0x61 0 0xFF)) ∧
      (w.overdraw = false → ∀ sl, u.firstTrap early b w = some sl →
        exec i s = .next { u with issue := some { early with slots := [sl] } }) ∧
      (w.overdraw = false → u.firstTrap early b w = none →
        (w.convergeDue = true → exec i s = .next (u.raise early w.convergeCode 0 0xFF)) ∧
        (w.convergeDue = false → exec i s = .next { u with issue := some c }))) ∧
    (∀ n, crosses w.loops w.pc 2 = false → w.overdraw = false → w.convergeDue = false →
      exec (.idle n) s = .next { s.modWarp x.block x.warp (fun v => { v with idle := n + 1, held := false, atPoint := false }) with
        issue := some (taken s x b w 0 [] (w.pc + 2)), sel := none, uid := s.uid + 1 }) ∧
    (w.overdraw = false → w.convergeDue = false →
      exec .emptyWord s = .next { s.modWarp x.block x.warp (fun v => { v with held := false, atPoint := false }) with
        issue := some (taken s x b w 0 [] (w.pc + 2)), sel := none, uid := s.uid + 1 }) ∧
    (∀ c : Issue, (1 < w.idle → w.advance c = ({ w with idle := w.idle - 1 }, false)) ∧
      (w.idle = 1 → w.loops = [] → w.advance c = ({ w with idle := 0, pc := c.next }, false))) ∧
    (w.trap = none → ∀ (c imm len : Nat),
      let start := w.pc + (if c < 64 then 4 else 6)
      let count := if c < 64 then (w.sread c).toNat % 2 ^ 32 else imm
      crosses w.loops w.pc (if c < 64 then 4 else 6) = false → (c < 64 ∨ c = 0xFF) → 0 < len →
      start + len ≤ (s.code b w).bytes.length → (∀ v, w.loops.getLast? = some v → start + len ≤ v.start + v.len) →
      (0 < count → w.loops.length < 6 → exec (.loop c imm len) s =
        .next (passed (s.modWarp x.block x.warp fun v =>
          { v with loops := w.loops ++ [{ start := start, len := len, count := count, index := 0 }], pc := start }))) ∧
      (count = 0 → (∀ v, w.loops.getLast? = some v → start + len ≠ v.start + v.len) → exec (.loop c imm len) s =
        .next (passed (s.modWarp x.block x.warp fun v => { v with loops := w.loops, pc := start + len })))) ∧
    (w.trap = none → ∀ off n, crosses w.loops w.pc 6 = false →
      (∀ v, w.loops.getLast? = some v → w.pc + 6 ≠ v.start + v.len) →
      exec (.ipf off n) s =
        .next (passed ((s.hintLines b w (w.pc + (BitVec.ofNat 32 off).toInt) (n + 1)).modWarp x.block x.warp fun v =>
          { v with loops := w.loops, pc := w.pc + 6 }))) ∧
    (w.trap = none → ∀ off n, crosses w.loops w.pc 6 = false →
      let q := endToken w.loops (w.pc + 6)
      let u0 := (s.hintLines b w (w.pc + (BitVec.ofNat 32 off).toInt) (n + 1)).modWarp x.block x.warp fun v =>
        { v with loops := q.1, pc := q.2.1 }
      let u := if q.2.2 = true ∧ w.pointFree = true then u0.reachPoint x.block x.warp else u0
      ∀ k v, u.block? x.block = some k → k.warp? x.warp = some v →
        (k.holds v = true ∨ v.trap.isSome = true → exec (.ipf off n) s = .next (gives u)) ∧
        (k.holds v = false → v.trap = none → exec (.ipf off n) s = .next u))

/-- R74: the stream-class traps.  An unassigned byte is 0x10 whatever stands around it; an index of the dictionary size or more is
0x11; a count byte of 64 to 254 is 0x14; another token that crosses the end of its body is 0x16; a body of no byte, past the stream or
past the enclosing body is 0x15; a seventh level is 0x17; where several hold, the first in this order stands (log entry 34, DEDUCED).
The token's offset is saved and the turn ends;
then a stop due at this boundary takes effect (R401; log entry 106). -/
def Sys2Proof.Claims.StreamTraps : Prop :=
  ∀ (s : State) (x : Sel) (b : Block) (w : Warp), Chosen s x b w →
    let traps := fun (i : Instr) (code : Nat) =>
      let t : TrapInfo := { code := code, arg := 0, hpc := w.pc, hnext := w.pc, loops := w.loops, idle := w.idle, slot := 0xFF,
                            rcd := 0xFFFF, lane := 0xFF, c0 := 0, c1 := 0 }
      let u := (({ s with sel := none } : State).modWarp x.block x.warp fun v =>
        { v with trap := some { t with loops := v.loops, idle := v.idle } }).endTurn (coreId b w) w.pitch
      (∃ k, u.block? x.block = some k ∧ k.warp? x.warp = some { w with trap := some t } ∧
        exec i s = .next (u.stopCheck k { w with trap := some t } w.pc)) ∧
      ((∀ l ∈ s.lantern, l.stop.bitAt 63 = false) → exec i s = .next u)
    (∀ v, traps (.unassignedToken v) 0x10) ∧
    (∀ e hs, (s.code b w).dsize ≤ e → traps (.shortIndex e hs) 0x11 ∧ traps (.longIndex e hs) 0x11) ∧
    (∀ e hs, e < (s.code b w).dsize →
      (crosses w.loops w.pc (1 + ((s.code b w).widths e).sum) = true → traps (.shortIndex e hs) 0x16) ∧
      (crosses w.loops w.pc (2 + ((s.code b w).widths e).sum) = true → traps (.longIndex e hs) 0x16)) ∧
    (∀ n, crosses w.loops w.pc 2 = true → traps (.idle n) 0x16) ∧
    (∀ off n, crosses w.loops w.pc 6 = true → traps (.ipf off n) 0x16) ∧
    ∀ c imm len,
      let n := if c < 64 then 4 else 6
      let count := if c < 64 then (w.sread c).toNat % 2 ^ 32 else imm
      (64 ≤ c → c ≠ 0xFF → traps (.loop c imm len) 0x14) ∧
      (c < 64 ∨ c = 0xFF →
        (crosses w.loops w.pc n = true → traps (.loop c imm len) 0x16) ∧
        (crosses w.loops w.pc n = false →
          (len = 0 ∨ (s.code b w).bytes.length < w.pc + n + len ∨
              (∃ v, w.loops.getLast? = some v ∧ v.start + v.len < w.pc + n + len) → traps (.loop c imm len) 0x15) ∧
          (0 < len → w.pc + n + len ≤ (s.code b w).bytes.length →
            (∀ v, w.loops.getLast? = some v → w.pc + n + len ≤ v.start + v.len) → 0 < count → w.loops.length = 6 →
            traps (.loop c imm len) 0x17)))

/-- A pitch's cycle, the choice of a warp, the end of a turn, tokens, stream traps (a trapping word: log entry 19; orders: log entries 33, 34; a stop: 106). -/
def Obligations.PitchAndTokens : Prop :=
  Claims.PitchCycleActs ∧ Claims.PitchSelects ∧ Claims.TurnsEnd ∧ Claims.TokensIssue ∧ Claims.StreamTraps

-- Power grants and meters.

/-- R190 to R192, R250: `pwacq` gives up the grant held and waits in arrival order, and traps with 0x60 when its grant can never be
given; `pwrel` gives the grant up; the first warp in arrival order is granted once the limits of its die, none taken below its base
allowance (log entry 101, DEDUCED), fit in B, and its cluster is no longer throttled for current; else it goes on waiting. -/
def Obligations.PowerGrants : Prop :=
  (∀ (s : State) (c : Issue) (bl : Block) (w : Warp) (g : Guard) (a : Nat),
    Issuing s c bl w → qGuard w g = true →
    (s.pwNever bl w ((w.sread a).toNat % 16) = true → c.clear = false → Traps s (.pwacq g a) c 0x60 0) ∧
    (s.pwNever bl w ((w.sread a).toNat % 16) = false → exec (.pwacq g a) s =
      .next ((s.modWarp c.block c.warp fun x => { x with grant := none, asking := some ((w.sread a).toNat % 16) }).modStack
        bl.stack fun k => { k with queue := k.queue ++ [(bl.bid, w.num)] })) ∧
    WarpBecomes s (.pwrel g) c (fun x => { x with grant := none, overdraw := false })) ∧
  (∀ (s : State) (k bid wn l : Nat) (rest : List (Nat × Nat)) (b : Block) (w : Warp),
    (s.stack? k).queue = (bid, wn) :: rest → s.block? bid = some b → b.warp? wn = some w → w.asking = some l → b.pre = none →
    w.held = false → b.status = .placed →
    let total := ((List.range 4).map fun c => max (s.rainfly.base.getD (4 * k + c) 0)
      (s.limitWith k c (if c = w.core / 8 then [l] else []))).sum
    (total ≤ s.rainfly.budget.getD k 0 →
      ∃ t, exec (.grantGiven k) s = .next t ∧
        t.warp? bid wn = some { w with grant := some l, regrant := none, asking := none } ∧ (t.stack? k).queue = rest ∧
        (4 * k + w.core / 8 < s.clusters.length → (t.cluster k (w.core / 8)).capCur = 16) ∧ t.mem = s.mem ∧
        ∀ n m, (n, m) ≠ (bid, wn) → t.warp? n m = s.warp? n m) ∧
    (s.rainfly.budget.getD k 0 < total → exec (.grantGiven k) s = .next s)) ∧
  (∀ (s : State) (k c : Nat) (more : List Nat), s.grantsOn k c ++ more ≠ [] →
    s.limitWith k c more = ((s.grantsOn k c ++ more).map (· + 1)).sum)

/-- R226 to R229, R253, R393: the meters.  `mtrd` asks Rainfly and its three destinations are pending until the reply, which brings
the meter's value and the bounds of Rainfly's own interval; the reply waits for the warp's queue operations before it (log entry 87, DEDUCED);
`mtck` asks Rainfly and its handle register is pending until the reply, which requests a record whose value, number and stamp are fixed
then (log entry 66, DEDUCED) and whose handle resolves with it; without the right to the region both trap with 0x70, and without a signature left the handle is refused.  A record enters the
NV store signed with the next leaf once every die's earliest exceeds its stamp; the `METER_CKPT` that asked for it completes with its
sequence number. -/
def Obligations.MeterOperations : Prop :=
  (∀ (s : State) (c : Issue) (bl : Block) (w : Warp) (g : Guard) (v e l h j : Nat),
    Issuing s c bl w → qGuard w g = true →
    let region := s.regionAt bl ((w.sread j).toNat % 32)
    (s.readable bl ((w.sread j).toNat % 32) = false → c.clear = false →
      Traps s (.mtrd g v e l j) c 0x70 0 ∧ Traps s (.mtck g h j) c 0x70 0) ∧
    (s.readable bl ((w.sread j).toNat % 32) = true →
      (let q : MeterReq := { id := s.uid, block := bl.bid, warp := w.num, region := region, dv := v, de := e, dl := l }
      exec (.mtrd g v e l j) s =
        .next (({ s with uid := s.uid + 1, rainfly := { s.rainfly with readers := s.rainfly.readers ++ [q] } } : State).pend c
          s.uid [.s v, .s e, .s l])) ∧
      (let q : MeterAsk := { id := s.uid, block := bl.bid, warp := w.num, region := region, reg := h, handle := (bl.alloc 6).1 }
      exec (.mtck g h j) s =
        .next ((({ s with uid := s.uid + 1, rainfly := { s.rainfly with asks := s.rainfly.asks ++ [q] } } : State).modBlock bl.bid
          fun k => (k.alloc 6).2).pend c s.uid [.h h])))) ∧
  (∀ (s : State) (q : MeterAsk) (b : Block) (w : Warp), s.rainfly.readers.find? (fun k => k.id == q.id) = none →
    s.rainfly.asks.find? (fun k => k.id == q.id) = some q → s.block? q.block = some b → b.warp? q.warp = some w →
    (s.queueBefore q.block q.warp q.id = true → exec (.rainflyReply q.id) s = .next s) ∧
    (s.queueBefore q.block q.warp q.id = false →
      let asks := s.rainfly.asks.filter (fun k => k.id != q.id)
      let body : Ckpt := { cause := 0, region := q.region, grant := s.grantNo b.ctx q.region, value := s.meterVal q.region,
                           stamp := if s.tb.accepted then max s.tb.latest (s.rainfly.stamp + 1) else 0,
                           seq := s.rainfly.seq + 1 }
      let r : CkptReq := { body := body, stamped := s.tb.accepted, for_ := .handle b.bid q.handle.toNat }
      ∃ t b' u, exec (.rainflyReply q.id) s = .next t ∧ t.block? q.block = some b' ∧ b'.warp? q.warp = some u ∧
        u = { w with h := w.h.set q.reg q.handle, pend := u.pend } ∧ (∀ p ∈ u.pend, p.req = q.id → p.returned.isSome = true) ∧
        t.mem = s.mem ∧
        (s.leafLeft = true → b'.ring = b.ring ∧ t.rainfly =
          { s.rainfly with asks := asks, seq := s.rainfly.seq + 1, stamp := body.stamp, reqs := s.rainfly.reqs ++ [r] }) ∧
        (s.leafLeft = false → b'.ring = (b.resolve q.handle.toNat 4 0 false).ring ∧ t.rainfly = { s.rainfly with asks := asks }))) ∧
  (∀ (s : State) (q : MeterReq) (b : Block) (w : Warp), s.rainfly.readers.find? (fun k => k.id == q.id) = some q →
    s.block? q.block = some b → b.warp? q.warp = some w →
    (s.queueBefore q.block q.warp q.id = true → exec (.rainflyReply q.id) s = .next s) ∧
    (s.queueBefore q.block q.warp q.id = false →
    let now := (s.cluster b.stack (w.core / 8)).cycle
    ∃ t u, exec (.rainflyReply q.id) s = .next t ∧ t.warp? q.block q.warp = some u ∧
      u = { (((w.settleOn (.s q.dv) 0 now).settleOn (.s q.de) 0 now).settleOn (.s q.dl) 0 now).landAll [
                       .sreg q.dv (BitVec.ofNat 64 (s.meterVal q.region)), .sreg q.de (BitVec.ofNat 64 s.tb.earliest),
                       .sreg q.dl (BitVec.ofNat 64 s.tb.latest)] with pend := u.pend } ∧
      t.rainfly.readers = s.rainfly.readers.filter (fun k => k.id != q.id) ∧ t.rainfly.meters = s.rainfly.meters ∧
      t.mem = s.mem ∧ ∀ p ∈ u.pend, p.req = q.id → p.returned.isSome = true)) ∧
  (∀ (s : State) (q : CkptReq) (rest : List CkptReq), s.rainfly.reqs = q :: rest →
    (q.stamped = true → s.diesAbove q.body.stamp = false → exec .checkpointRecord s = .next s) ∧
    (q.stamped = false ∨ s.diesAbove q.body.stamp = true → s.leafLeft = true →
      ∃ t, exec .checkpointRecord s = .next t ∧ t.rainfly.reqs = rest ∧ t.rainfly.leaf = s.rainfly.leaf + 1 ∧
        q.body ∈ t.rainfly.ring ∧ t.rainfly.ring.length ≤ max 2048 s.rainfly.ring.length ∧
        (q.body.seq, Config.xmssSign s.rainfly.leaf q.body.bytes) ∈ t.rainfly.signed ∧ t.mem = s.mem ∧
        (q.for_ = .nobody → t.blocks = s.blocks ∧ t.cmds = s.cmds) ∧
        (∀ n h, q.for_ = .handle n h → t.blocks = (s.resolve n h 1 q.body.seq false).blocks ∧ t.cmds = s.cmds) ∧
        (∀ fn k, q.for_ = .command fn → s.cmd? fn = some k → t.blocks = s.blocks ∧ t.cmd? fn = none ∧
          ∃ r, t.returned = s.returned ++ [r] ∧ r.fn = fn ∧ r.slot = k.slot ∧
            (32 ≤ k.bytes.length → r.num 12 4 = 0 ∧ (q.body.seq < 2 ^ 64 → r.num 24 8 = q.body.seq)))) ∧
    (q.stamped = false ∨ s.diesAbove q.body.stamp = true → s.leafLeft = false →
      ∃ t, exec .checkpointRecord s = .next t ∧ t.rainfly = { s.rainfly with reqs := rest } ∧
        (∀ n h, q.for_ = .handle n h → t.blocks = (s.resolve n h 4 0 false).blocks) ∧
        (∀ fn, q.for_ = .command fn → t.returned = (s.complete fn 8 []).returned)))

-- Host commands.

/-- Command block `k`, of a code, is at the head of a function's queue (R197). -/
def Sys2Proof.Claims.Command (s : State) (fn code : Nat) (k : CmdBlock) : Prop :=
  s.running = true ∧ s.cmd? fn = some k ∧ k.running = false ∧ k.num 0 2 = code

/-- It names context `x`, open, of this function and without a fatal error, and its reserved bytes are 0. -/
def Sys2Proof.Claims.InContext (s : State) (fn code : Nat) (k : CmdBlock) (x : Context) (used : List (Nat × Nat)) : Prop :=
  Command s fn code k ∧ s.ctx? (k.num 4 4) = some x ∧ x.fn = fn ∧ x.fatal = none ∧ k.clean used = true

/-- The bytes a completed command block holds: results, then the status, then the owner bit cleared (R197). -/
def Sys2Proof.Claims.answer (k : CmdBlock) (status : Nat) (res : List (Nat × List Byte)) : List Byte :=
  let bs := setBytes (res.foldl (fun b r => setBytes b r.1 r.2) k.bytes) 12 (leBytes 4 status)
  bs.set 2 (bs.getD 2 0 &&& 0xFE)

/-- From `s` to `t` the command `k` has left its queue and gone back to the host with a status and results, and message 0 has been
sent. -/
def Sys2Proof.Claims.Answered (s t : State) (fn : Nat) (k : CmdBlock) (status : Nat) (res : List (Nat × List Byte)) : Prop :=
  t.cmds = eraseCmd fn s.cmds ∧ t.msix = s.msix ++ [(fn, 0)] ∧
  t.returned = s.returned ++ [{ k with bytes := answer k status res, running := false, wants := [] }]

/-- The command completes with a status that is no success: from `r`, the state it is taken up in, nothing but the command queue
changes. -/
def Sys2Proof.Claims.RefusesFrom (s r : State) (i : Instr) (fn : Nat) (k : CmdBlock) (status : Nat) : Prop :=
  ∃ t, exec i s = .next t ∧ (∃ res, Answered r t fn k status res) ∧
    t = { r with cmds := t.cmds, returned := t.returned, msix := t.msix }

/-- The same of a command taken up in the state it finds. -/
def Sys2Proof.Claims.Refuses (s : State) (i : Instr) (fn : Nat) (k : CmdBlock) (status : Nat) : Prop :=
  RefusesFrom s s i fn k status

/-- R197, R198, R201, R373: how a command is answered.  In the 128 bytes of its block the status stands at offset 12 and a result at
its offset, the owner bit is clear and every other bit is as the host wrote it.  A context command that names a context that is
not open completes with CTX_DENIED, or CMD_BAD for a number that is none; one of another function with CTX_DENIED; one with a
fatal error with CTX_FATAL and its record, once the checkpoints of that error are made (log entry 82, DEDUCED); a command of the physical
function alone is denied to a virtual one; a code or a query kind that is not assigned is CMD_BAD; the order of these checks is log entry
46 (DEDUCED). -/
def Obligations.CommandsAnswered : Prop :=
  (∀ (k : CmdBlock) (status off : Nat) (v : List Byte), k.bytes.length = 128 → status < 2 ^ 32 → 16 ≤ off →
    off + v.length ≤ 128 →
    let bs := answer k status [(off, v)]
    bs.length = 128 ∧ leNat ((bs.drop 12).take 4) = status ∧ (bs.drop off).take v.length = v ∧
    (bs.getD 2 0).getLsbD 0 = false ∧ (∀ j, 0 < j → (bs.getD 2 0).getLsbD j = (k.bytes.getD 2 0).getLsbD j) ∧
    ∀ j, j ≠ 2 → j < 12 ∨ (16 ≤ j ∧ (j < off ∨ off + v.length ≤ j)) → bs.getD j 0 = k.bytes.getD j 0) ∧
  (∀ (s : State) (fn code : Nat) (k : CmdBlock) (i : Instr), Command s fn code k →
    (code, i) ∈ ([(1, .imgLoad fn), (3, .tensorMap fn), (5, .launch fn), (6, .taskLink fn), (8, .resume fn), (11, .meterRead fn),
                  (12, .meterCkpt fn), (16, .imgUnload fn), (17, .tensorUnmap fn)] : List (Nat × Instr)) →
    (s.ctx? (k.num 4 4) = none → Refuses s i fn k (if k.num 4 4 < 64 then 2 else 1)) ∧
    (∀ x, s.ctx? (k.num 4 4) = some x → x.fn ≠ fn → Refuses s i fn k 2) ∧
    (∀ x f, s.ctx? (k.num 4 4) = some x → x.fn = fn → x.fatal = some f →
      (s.fatalKept x.num = true → ∃ t, exec i s = .next t ∧ Answered s t fn k 11 [(64, f.bytes)] ∧ t.mem = s.mem) ∧
      (s.fatalKept x.num = false → exec i s = .next (s.fatalStep x.num)))) ∧
  (∀ (s : State) (fn code : Nat) (k : CmdBlock) (i : Instr), Command s fn code k → fn ≠ 0 →
    (code, i) ∈ ([(10, .timeRef fn), (18, .peerMap fn), (19, .groundSet fn)] : List (Nat × Instr)) → Refuses s i fn k 2) ∧
  (∀ (s : State) (fn code : Nat) (k : CmdBlock), Command s fn code k →
    code = 0 ∨ 20 ≤ code ∨ (code = 14 ∧ 5 < k.num 16 1) → Refuses s (.unassignedCommand fn) fn k 1)

/-- Nothing of context `c` is left. -/
def Sys2Proof.Claims.Freed (t : State) (c : Nat) : Prop :=
  t.ctx? c = none ∧ (∀ b ∈ t.blocks, b.ctx ≠ c) ∧ (∀ y ∈ t.tasks, y.ctx ≠ c) ∧ (∀ y ∈ t.images, y.ctx ≠ c) ∧
  (∀ y ∈ t.tensors, y.ctx ≠ c) ∧ (∀ y ∈ t.rainfly.grants, y.ctx ≠ c) ∧ ∀ m ∈ t.misses, keyCtx m.key ≠ c

/-- R199, R204, R207, R372, R373: contexts.  `CTX_OPEN` gives the lowest free number the first usable stacks, one for each virtual die,
at map version 1; too few stacks or no number is CTX_LIMIT (3), no room for its Bivouac 8.  `CTX_CLOSE` is refused while a block stands
placed, waits for what has started (log entry 69), discards the tasks (log entry 111), requests a record of cause 2 for every grant and,
when those stand in the NV store, leaves nothing of the context behind; a function-level reset frees those of the function's contexts that
ended by a fatal error, once nothing of them runs and their checkpoints are made, and leaves the others (log entry 60, DEDUCED). -/
def Obligations.ContextsOpenAndClose : Prop :=
  (∀ (s : State) (fn n c j : Nat) (k : CmdBlock), Command s fn 2 k → k.clean [(16, 17), (20, 40)] = true →
    k.num 16 1 = n → 1 ≤ n → n ≤ 4 → j < 11 → k.num 32 4 = 2 ^ (6 + j) →
    let x : Context := { num := c, fn := fn, vdies := s.usable.take n, mapVer := 1, bivouac := k.num 20 4, ringAddr := k.num 24 8,
                         copies := [], ringSize := 2 ^ (6 + j), readCnt := 0, posted := 0, queued := [], nextTask := 1, suspended := false,
                         fatal := none, ckptDone := false }
    let u : State := { s with contexts := s.contexts ++ [x] }
    (s.freeCtx = some c → n ≤ s.usable.length → u.hbmFits = true →
      ∃ t, exec (.ctxOpen fn) s = .next t ∧ Answered s t fn k 0 [(36, leBytes 4 c)] ∧
        t = { u with cmds := t.cmds, returned := t.returned, msix := t.msix } ∧ c < 64 ∧ s.ctx? c = none ∧
        ∀ d, d < c → (s.ctx? d).isSome = true) ∧
    (s.freeCtx = none ∨ s.usable.length < n → Refuses s (.ctxOpen fn) fn k 3) ∧
    (s.freeCtx = some c → n ≤ s.usable.length → u.hbmFits = false → Refuses s (.ctxOpen fn) fn k 8)) ∧
  (∀ (s : State) (fn : Nat) (k : CmdBlock) (x : Context), Command s.reap fn 15 k → k.clean [] = true →
    s.reap.ctx? (k.num 4 4) = some x → x.fn = fn →
    (x.fatal = none → (∃ b ∈ s.reap.blocks, b.ctx = x.num ∧ b.status = .placed) → RefusesFrom s s.reap (.ctxClose fn) fn k 10) ∧
    (x.fatal ≠ none ∨ (∀ b ∈ s.reap.blocks, b.ctx = x.num → b.status ≠ .placed) → s.reap.ctxBusy x.num = true →
      exec (.ctxClose fn) s = .next s.reap) ∧
    (s.reap.ctxBusy x.num = true ↔ (∃ r ∈ s.reap.reqs, s.reap.blockOf x.num r.block = true) ∨
      (∃ o ∈ s.reap.ops, s.reap.blockOf x.num o.block = true) ∨ ∃ k ∈ s.reap.commits, k.ctx = x.num ∧ k.stamp.isSome = true) ∧
    (x.fatal ≠ none ∨ (∀ b ∈ s.reap.blocks, b.ctx = x.num → b.status ≠ .placed) → s.reap.ctxBusy x.num = false →
      (x.fatal ≠ none → s.reap.fatalKept x.num = true) →
      let held := s.reap.rainfly.grants.filter fun g => g.ctx == x.num
      (held = [] ∨ s.reap.leafLeft = false →
        ∃ t, exec (.ctxClose fn) s = .next t ∧ t.msix = s.reap.msix ++ [(fn, 0)] ∧
          t.returned = s.reap.returned ++ [{ k with bytes := answer k 0 [], running := false, wants := [] }] ∧
          Freed t x.num) ∧
      (held ≠ [] → s.reap.leafLeft = true →
        ∃ t new, exec (.ctxClose fn) s = .next t ∧ t.rainfly.reqs = s.reap.rainfly.reqs ++ new ∧
          new.map (·.body.region) = held.map (·.region) ∧ (∀ r ∈ new, r.body.cause = 2 ∧ r.body.value = s.reap.meterVal r.body.region) ∧
          t.cmd? fn = some { k with running := true, wants := new.map (·.body.seq) } ∧ t.returned = s.reap.returned ∧
          (∀ y ∈ t.tasks, y.ctx ≠ x.num) ∧ ∀ b ∈ t.blocks, b.ctx ≠ x.num))) ∧
  (∀ (s : State) (fn : Nat) (k : CmdBlock), s.reap.running = true → s.reap.cmd? fn = some k → k.num 0 2 = 15 → k.running = true →
    ((∃ r ∈ s.reap.rainfly.reqs, r.body.seq ∈ k.wants) → exec (.ctxClose fn) s = .next s.reap) ∧
    ((∀ r ∈ s.reap.rainfly.reqs, r.body.seq ∉ k.wants) →
      ∃ t, exec (.ctxClose fn) s = .next t ∧ Answered s.reap t fn k 0 [] ∧ Freed t (k.num 4 4))) ∧
  (∀ (s : State) (fn : Nat),
    let ended := s.contexts.filter fun x => x.fn == fn && x.fatal.isSome
    ∃ t, exec (.functionLevelReset fn) s = .next t ∧ t.cmds = s.cmds ∧
      (∀ y ∈ s.contexts, (∀ x ∈ ended, x.num ≠ y.num) → y ∈ t.contexts) ∧
      ((∀ x ∈ ended, s.ctxBusy x.num = true ∨ s.fatalKept x.num = true) →
        ∀ x ∈ ended, (s.ctxBusy x.num = false → Freed t x.num) ∧ (s.ctxBusy x.num = true → x ∈ t.contexts)) ∧
      ∀ x, ended = [x] → s.ctxBusy x.num = false → s.fatalKept x.num = false → t = s.fatalStep x.num)

/-- R205, R207, R221, R222, R359: images and tensors.  `IMG_LOAD` gives an image that passes its checks the next handle, or returns
the reason, section, unit, check, item and offset of the first check it fails; no image below the fuse counter, and none whose
signature does not verify, is loaded.  `IMG_UNLOAD` is refused while an unfinished task uses the image and unbinds its tensors.
`TENSOR_MAP` binds a new table, its base and an image's handle numbered as log entry 32 chooses (DESIGN CHOICE), whose frames stand on the stack of its virtual die, each resident and with the rights and the pin its
flags give, holding the host's bytes or zeros; `TENSOR_UNMAP` unbinds. -/
def Obligations.ImagesAndTensors : Prop :=
  (∀ (s : State) (fn : Nat) (k : CmdBlock) (x : Context), InContext s fn 1 k x [(16, 36)] →
    let bs := s.mem.readBytes (k.num 16 8) (k.num 24 8)
    let known := fun (m g : List Byte) => s.rainfly.verified.any fun v => v.measure == m && v.signer == g
    (∀ im, loadImage bs x.num s.uid s.rainfly.fuses known = .ok im →
      ∃ t, exec (.imgLoad fn) s = .next t ∧ Answered s t fn k 0 [(32, leBytes 4 s.uid)] ∧ t.images = s.images ++ [im] ∧
        t.uid = s.uid + 1 ∧ t.mem = s.mem ∧
        ({ ctx := x.num, measure := im.measure, signer := im.signer, secver := im.secver } : Verified) ∈ t.rainfly.verified) ∧
    (∀ e, loadImage bs x.num s.uid s.rainfly.fuses known = .error e →
      ∃ t, exec (.imgLoad fn) s = .next t ∧ t.images = s.images ∧ t.uid = s.uid ∧ t.mem = s.mem ∧
        Answered s t fn k 4 [(36, [BitVec.ofNat 8 e.reason, BitVec.ofNat 8 e.sec, BitVec.ofNat 8 e.unit,
          BitVec.ofNat 8 e.check] ++ leBytes 4 e.item ++ leBytes 4 e.offset)])) ∧
  (∀ (bs : List Byte) (c h fuses : Nat) (known : List Byte → List Byte → Bool) (im : Image),
    loadImage bs c h fuses known = .ok im →
    fuses ≤ im.secver ∧ im.secver = leNat ((bs.drop 16).take 4) ∧ im.handle = h ∧ im.ctx = c ∧ im.valid = true ∧
    ∃ n body sig, body = bs.take n ∧ im.measure = Config.shake256 body ∧
      im.signer = (Config.shake256 ((bs.drop (n + 4)).take 64)).take 16 ∧
      (known im.measure im.signer = true ∨ Config.xmssVerify ((bs.drop (n + 4)).take 64) body sig = true)) ∧
  (∀ (s : State) (fn h : Nat) (k : CmdBlock) (x : Context) (im : Image), InContext s fn 16 k x [(16, 20)] → k.num 16 4 = h →
    (s.goodImage x.num h = none → Refuses s (.imgUnload fn) fn k 4) ∧
    (s.goodImage x.num h = some im → s.imageUsed x.num h = true → Refuses s (.imgUnload fn) fn k 10) ∧
    (s.goodImage x.num h = some im → s.imageUsed x.num h = false →
      ∃ t, exec (.imgUnload fn) s = .next t ∧ Answered s t fn k 0 [] ∧
        t.images = s.images.filter (fun i => !(i.ctx == x.num && i.handle == h)) ∧
        ∀ y ∈ t.tensors, y.ctx = x.num → y.image = h → y.bound = false)) ∧
  (∀ (s : State) (fn h : Nat) (k : CmdBlock) (x : Context) (im : Image) (fs : List Nat),
    InContext s fn 3 k x [(16, 22), (24, 35), (40, 56)] → k.num 16 4 = h → k.num 32 1 ≤ 2 → k.num 34 1 < 32 →
    ¬((k.num 34 1).bitAt 1 = true ∧ (k.num 34 1).bitAt 4 = true) → k.num 33 1 < x.vdies.length →
    let die := if k.num 32 1 = 2 then 0 else x.vdies.getD (k.num 33 1) 0
    let n := (k.num 24 8 + 65535) / 65536
    (s.goodImage x.num h = none → Refuses s (.tensorMap fn) fn k 4) ∧
    (s.goodImage x.num h = some im → s.freeFrames (k.num 32 1) die n = none → Refuses s (.tensorMap fn) fn k 8) ∧
    (s.goodImage x.num h = some im → s.freeFrames (k.num 32 1) die n = some fs →
      ∃ t y, exec (.tensorMap fn) s = .next t ∧ Answered s t fn k 0 [(48, leBytes 8 (s.uid * 65536))] ∧ y ∈ t.tensors ∧
        y.base = s.uid * 65536 ∧ y.tier = k.num 32 1 ∧ y.pinned = (k.num 34 1).bitAt 2 ∧ t.uid = s.uid + 1 ∧ y.ctx = x.num ∧ y.image = h ∧ y.binding = k.num 20 2 ∧
        y.bytes = k.num 24 8 ∧ y.bound = true ∧ y.export_ = (k.num 34 1).bitAt 4 ∧ y.entries.map (·.frame) = fs ∧
        (∀ e ∈ y.entries, e.resident = true ∧ e.writable = (k.num 34 1).bitAt 0 ∧ e.metered = (k.num 34 1).bitAt 1 ∧
          e.tier = k.num 32 1 ∧ e.die = die ∧ e.moving = none ∧ e.pins = if (k.num 34 1).bitAt 2 then 1 else 0) ∧
        (s.mem.wf = true → k.num 40 8 + k.num 24 8 ≤ 2 ^ 64 → die < 4 → (∀ f ∈ fs, f < 2 ^ 32) →
          ∀ i f o, fs[i]? = some f → o < 65536 → t.mem.read (frameAddr (k.num 32 1) die f o) =
            if (k.num 34 1).bitAt 3 ∧ 65536 * i + o < k.num 24 8 then s.mem.read (k.num 40 8 + 65536 * i + o) else 0) ∧
        ∀ z ∈ t.tensors, z.ctx = x.num → z.image = h → z.binding = k.num 20 2 → z.bound = true → z.base = s.uid * 65536)) ∧
  (∀ (s : State) (fn h : Nat) (k : CmdBlock) (x : Context) (im : Image), InContext s fn 17 k x [(16, 22)] → k.num 16 4 = h →
    (s.goodImage x.num h = none → Refuses s (.tensorUnmap fn) fn k 4) ∧
    (s.goodImage x.num h = some im → s.binding? x.num h (k.num 20 2) = none → Refuses s (.tensorUnmap fn) fn k 1) ∧
    (∀ y, s.goodImage x.num h = some im → s.binding? x.num h (k.num 20 2) = some y →
      ∃ t, exec (.tensorUnmap fn) s = .next t ∧ Answered s t fn k 0 [] ∧ ∀ z ∈ t.tensors, z.base = y.base → z.bound = false))

/-- R81, R86, R208, R210, R216, R218, R219: tasks.  A `LAUNCH` that meets every condition makes the context's next task, held if it
says so, with the variants chosen and the pool patched; a `TASK_LINK` adds an earlier task to wait for, or releases a held one;
`PREEMPT` suspends the tasks it names, or all with their context, and asks for the save of their placed blocks, and completes at
once when there is none; `RESUME` lifts the suspension of the tasks, and that of their context (log entry 47, DEDUCED). -/
def Sys2Proof.Claims.LaunchAndPreempt : Prop :=
  (∀ (s : State) (fn h : Nat) (k : CmdBlock) (x : Context) (im : Image) (recs : List LaunchRec) (pool : List Record)
    (qs : List StageQ),
    InContext s fn 5 k x [(16, 23), (24, 36), (40, 48)] → k.num 16 4 = h → k.num 21 1 < 16 → k.num 22 1 < 2 →
    (s.goodImage x.num h = none → Refuses s (.launch fn) fn k 4) ∧
    (s.goodImage x.num h = some im → s.rainfly.fuses ≤ im.secver →
      (1024 ≤ (s.tasks.filter fun t => t.ctx == x.num && t.queue == k.num 21 1 && !t.completed).length →
        Refuses s (.launch fn) fn k 8) ∧
      ((s.tasks.filter fun t => t.ctx == x.num && t.queue == k.num 21 1 && !t.completed).length < 1024 →
        (∀ e, variants im x.vdies.length (k.num 20 1) = .error e → Refuses s (.launch fn) fn k e) ∧
        (variants im x.vdies.length (k.num 20 1) = .ok recs →
          (∀ r ∈ recs, s.launchSpace x.num h r ≤ x.bivouac * 2 ^ 20) → s.itemsOk x.num h im.data = true →
          (∀ r ∈ recs, s.granted x.num im r = true) → s.patch x.num h im.pool = some pool →
          let caps := ((recs.headD default).stages.take (recs.headD default).nstage).map (·.2)
          k.num 32 4 ≤ (match caps.head? with
            | some j => 2 ^ j
            | none => 0) →
          s.makeQueues (x.vdies.headD 0) caps = some qs →
          ∃ t y, exec (.launch fn) s = .next t ∧ Answered s t fn k 0 [(40, leBytes 8 x.nextTask)] ∧
            t.tasks = s.tasks ++ [y] ∧ y.ctx = x.num ∧ y.num = x.nextTask ∧ y.tag = k.num 8 4 ∧ y.image = h ∧
            y.queue = k.num 21 1 ∧ y.recs = recs ∧ y.pool = pool ∧ y.held = (k.num 22 1 == 1) ∧ y.links = [] ∧
            y.dispatched = false ∧ y.completed = false ∧ y.suspended = false ∧
            t.contexts = s.contexts.map fun z => if z.num == x.num then { z with nextTask := z.nextTask + 1 } else z)))) ∧
  (∀ (s : State) (fn : Nat) (k : CmdBlock) (x : Context) (y : Task), InContext s fn 6 k x [(16, 33)] → k.num 32 1 < 2 →
    s.task? x.num (k.num 24 8) = some y → y.completed = false →
    (k.num 16 8 = 0 ∨ (y.dispatched = false ∧ ∃ z, s.task? x.num (k.num 16 8) = some z ∧ z.completed = false)) →
    ∃ t, exec (.taskLink fn) s = .next t ∧ Answered s t fn k 0 [] ∧
      t.task? x.num (k.num 24 8) =
        some { y with links := if k.num 16 8 = 0 then y.links else y.links ++ [k.num 16 8],
                      held := y.held && k.num 32 1 != 1 }) ∧
  (∀ (s : State) (fn : Nat) (k : CmdBlock) (x : Context) (ts : List Task), InContext s.reap fn 7 k x [(16, 24)] → fn < 16 →
    s.reap.named x.num (k.num 16 8) = some ts →
    ∃ t, exec (.preempt fn) s = .next t ∧
      (∀ y ∈ s.reap.tasks, y.ctx = x.num → (∃ z ∈ ts, z.num = y.num) → { y with suspended := true } ∈ t.tasks) ∧
      (k.num 16 8 = 2 ^ 64 - 1 → t.ctx? x.num = some { x with suspended := true }) ∧
      (∀ b ∈ s.reap.blocks, b.ctx = x.num → b.status = .placed → (∃ z ∈ ts, z.num = b.task) →
        ∃ b' ∈ t.blocks, b'.bid = b.bid ∧
          b'.pre = some { by_ := .command fn, since := (s.reap.stack? b.stack).that }) ∧
      ((∀ b ∈ s.reap.blocks, b.ctx = x.num → b.status = .placed → ∀ z ∈ ts, z.num ≠ b.task) →
        ∃ r ∈ t.returned, r = { k with bytes := answer k 0 [], running := false, wants := [] })) ∧
  (∀ (s : State) (fn : Nat) (k : CmdBlock) (x : Context) (ts : List Task), InContext s fn 8 k x [(16, 24)] →
    s.named x.num (k.num 16 8) = some ts →
    ∃ t, exec (.resume fn) s = .next t ∧ Answered s t fn k 0 [] ∧ t.blocks = s.blocks ∧
      t.ctx? x.num = some { x with suspended := false } ∧
      t.tasks = s.tasks.map fun y => if y.ctx == x.num && (ts.any fun z => z.num == y.num) then { y with suspended := false } else y)

/-- R216: a `PREEMPT` under way completes when none of the blocks it waits for stands placed any more, and not before; the save of a
block a command asked for ends with that test. -/
def Sys2Proof.Claims.PreemptCompletes : Prop :=
  (∀ (s : State) (fn : Nat) (k : CmdBlock) (x : Context), fn < 16 → s.cmd? fn = some k → k.running = true → k.num 0 2 = 7 →
    s.ctx? (k.num 4 4) = some x → x.fatal = none →
    (∀ n m, n ≠ fn → s.cmd? n = some m → m.running = false ∨ m.num 0 2 ≠ 7) →
    ((∀ n ∈ k.wants, ∀ b, s.block? n = some b → b.status ≠ .placed) →
      Answered s s.settleCmds fn k 0 [] ∧ s.settleCmds.blocks = s.blocks ∧ s.settleCmds.mem = s.mem) ∧
    ((∃ n ∈ k.wants, ∃ b, s.block? n = some b ∧ b.status = .placed) → s.settleCmds = s)) ∧
  (∀ (s : State) (n fn : Nat) (b : Block) (p : PreReq), s.reap.block? n = some b → b.pre = some p → p.by_ = .command fn →
    b.status = .placed → b.draining = false → s.reap.dead b.ctx = false → (∀ w ∈ b.warps, s.reap.still b w = true) →
    (∀ w ∈ b.warps, w.atSync = false) → s.reap.drained b = true →
    exec (.blockSave n) s = .next (s.reap.saveBlock b .saved).settleCmds ∧
    ∃ b', (s.reap.saveBlock b .saved).block? n = some b' ∧ b'.status = .saved)

/-- Launching, linking, pre-empting and resuming tasks (the suspension of a context: log entry 47). -/
def Obligations.TaskCommands : Prop :=
  Claims.LaunchAndPreempt ∧ Claims.PreemptCompletes

/-- R180, R202, R203, R206, R223: commands that set what a context or the module stands on.  `VDIE_BIND` of a suspended context
exchanges two virtual dies' stacks, places copies of its dictionaries and streams on those bound anew and raises the map version, or answers NO_SPACE and changes nothing when some frame finds no room
once all that move have been taken up (R391); that the context is not suspended comes before a bad die or stack (log entry 46);
`TIME_REF` names the source that the next sample of it brings into force, and of source 1 awaits a fresh edge (log entry 51, DEDUCED); `PEER_MAP` sets a route or the module's own number; `GROUND_SET` sets the carve-outs while no context is open; `GRANT` of
kind 2 raises the fuse counter and never lowers it. -/
def Obligations.BindingCommands : Prop :=
  (∀ (s : State) (fn v dest : Nat) (k : CmdBlock) (x : Context), InContext s.reap fn 9 k x [(16, 18), (20, 24)] →
    k.num 16 1 = v → k.num 17 1 = dest →
    (s.reap.allSuspended x.num = false → RefusesFrom s s.reap (.vdieBind fn) fn k 10) ∧
    (s.reap.allSuspended x.num = true → x.vdies.length ≤ v ∨ dest ∉ s.reap.usable → RefusesFrom s s.reap (.vdieBind fn) fn k 1) ∧
    (s.reap.allSuspended x.num = true → v < x.vdies.length → dest ∈ s.reap.usable →
      let l := swapDies x.vdies v dest
      let placed := if x.vdies.contains dest then [dest, x.vdies.getD v 0] else [dest]
      let bound := (s.reap.modCtx x.num fun y => y.rebind l placed).placeCopies x.num placed
      let done := fun (t : State) =>
        (∃ y, t.ctx? x.num = some y ∧ y = { x with vdies := l, mapVer := x.mapVer + 1, copies := y.copies } ∧
          ∀ d, d ∈ y.copies ↔ d ∈ l ∧ (d ∈ x.copies ∨ d ∈ placed)) ∧
        (∀ d ∈ placed, t.copiesStand x.num d = true) ∧ ∀ q ∈ t.out, q.1 = x.num → q.2.2.2.1 ∉ placed
      (x.vdies.getD v 0 = dest → (bound.hbmFits = false → RefusesFrom s s.reap (.vdieBind fn) fn k 8) ∧
        (bound.hbmFits = true → ∃ t, exec (.vdieBind fn) s = .next t ∧
          Answered s.reap t fn k 0 [(20, leBytes 4 (x.mapVer + 1))] ∧ done t ∧ t.mem = s.reap.mem)) ∧
      (x.vdies.getD v 0 ≠ dest →
        let home := l.headD 0
        let up := bound.liftFrames x.num (x.vdies.getD v 0) dest (x.vdies.contains dest)
        let qs := if x.vdies.headD 0 = home then ([], up.2) else up.2.liftQueues x.num (x.vdies.headD 0)
        let set := (setFrames up.1 qs.2).bind (setQueues x.num home qs.1)
        ((∀ u, set = some u → u.hbmFits = false) → RefusesFrom s s.reap (.vdieBind fn) fn k 8) ∧
        ∀ u, set = some u → u.hbmFits = true → ∃ t, exec (.vdieBind fn) s = .next t ∧
          Answered s.reap t fn k 0 [(20, leBytes 4 (x.mapVer + 1))] ∧ done t))) ∧
  (∀ (vdies : List Nat) (v dest : Nat), v < vdies.length → vdies.Nodup →
    let l := swapDies vdies v dest
    l.length = vdies.length ∧ l.getD v 0 = dest ∧ l.Nodup ∧
    (∀ i, i ≠ v → i < vdies.length → vdies.getD i 0 ≠ dest → l.getD i 0 = vdies.getD i 0) ∧
    ∀ i, i ≠ v → i < vdies.length → vdies.getD i 0 = dest → l.getD i 0 = vdies.getD v 0) ∧
  (∀ (s : State) (k : CmdBlock), Command s 0 10 k → k.clean [(16, 17), (20, 28)] = true → k.num 16 1 < 2 → 16 ≤ k.num 24 4 →
    k.num 24 4 ≤ 1000000 →
    ∃ t, exec (.timeRef 0) s = .next t ∧ Answered s t 0 k 0 [] ∧
      t.tb = { s.tb with awaited := some { source := k.num 16 1, uHost := k.num 20 4, limit := k.num 24 4 },
                         freshEdge := s.tb.freshEdge || k.num 16 1 == 1 } ∧ t.stks = s.stks ∧ t.mem = s.mem) ∧
  (∀ (s : State) (k : CmdBlock), Command s 0 18 k → k.clean [(16, 21), (24, 40)] = true → k.num 20 1 < 4 →
    ∃ t, exec (.peerMap 0) s = .next t ∧ Answered s t 0 k 0 [] ∧
      ((k.num 20 1).bitAt 1 = true → t.ownPeer = k.num 16 2 ∧ t.routes = s.routes) ∧
      ((k.num 20 1).bitAt 1 = false → t.ownPeer = s.ownPeer ∧
        t.routes.find? (fun r => r.peer == k.num 16 2) =
          some { peer := k.num 16 2, valid := (k.num 20 1).bitAt 0, mask := k.num 18 2, device := k.num 24 16 } ∧
        ∀ p, p ≠ k.num 16 2 → t.routes.find? (fun r => r.peer == p) = s.routes.find? (fun r => r.peer == p))) ∧
  (∀ (s : State) (k : CmdBlock), Command s 0 19 k → k.clean [(16, 24)] = true →
    (∀ i, i < 4 → k.num (16 + 2 * i) 2 = 0xFFFF ∨ (k.num (16 + 2 * i) 2 % 16 = 0 ∧ k.num (16 + 2 * i) 2 ≤ 256)) →
    (s.contexts ≠ [] → Refuses s (.groundSet 0) 0 k 10) ∧
    (s.contexts = [] → ∃ t, exec (.groundSet 0) s = .next t ∧ Answered s t 0 k 0 [] ∧
      ∀ i, i < 4 → t.rainfly.carve.getD i 0 = if k.num (16 + 2 * i) 2 = 0xFFFF then s.rainfly.carve.getD i 0
        else k.num (16 + 2 * i) 2)) ∧
  (∀ (s : State) (fn : Nat) (k : CmdBlock) (x : Context), InContext s fn 4 k x [(16, 28)] → 244 ≤ (s.grantBlob k).length →
    num (s.grantBlob k) 0 1 = 2 → (∀ j, 1 ≤ j → j < 4 → (s.grantBlob k).getD j 0 = 0) →
    (∀ j, 8 ≤ j → j < 176 → (s.grantBlob k).getD j 0 = 0) → cut (s.grantBlob k) 180 64 = Config.vendorKey →
    blobSigned (s.grantBlob k) = true →
    let n := num (s.grantBlob k) 4 4
    1 ≤ n → n ≤ 64 →
    ∃ t, exec (.counterAdvance fn) s = .next t ∧ Answered s t fn k 0 [] ∧
      t.rainfly = { s.rainfly with fuses := max s.rainfly.fuses n } ∧ t.mem = s.mem)

/-- R223, R224, R228, R231, R232, R393: Rainfly's commands.  `GRANT` of kind 1 gives the context the region for the readers it
names, in place of an earlier grant of it (log entry 112): a new region's meter starts at 0 under the licensor's key, a known one keeps
its count and its key.  `METER_READ` writes the records asked for (log entry 114), 10,240 bytes each, body first, once every die's earliest exceeds their stamps
(R227; log entry 113).  `METER_CKPT` requests a record of cause 2 and goes on until that stands in the NV
store, when it completes with its sequence number.  `ATTEST` writes its statement and a signature made with the next leaf, or tells how
long a buffer it needs. -/
def Obligations.RainflyCommands : Prop :=
  (∀ (s : State) (fn : Nat) (k : CmdBlock) (x : Context), InContext s fn 4 k x [(16, 28)] → 244 ≤ (s.grantBlob k).length →
    num (s.grantBlob k) 0 1 ≠ 2 →
    let bs := s.grantBlob k
    let region := num bs 4 4
    let g : Grant := { ctx := x.num, region := region, number := num bs 8 8, readers := blobReaders bs }
    let kept := s.rainfly.grants.filter fun q => !(q.ctx == x.num && q.region == region)
    (meterBlobOk bs = false → Refuses s (.meterGrant fn) fn k 1) ∧
    (meterBlobOk bs = true →
      (∀ m, s.rainfly.meters.find? (fun m => m.region == region) = some m →
        (m.key ≠ cut bs 180 64 → Refuses s (.meterGrant fn) fn k 1) ∧
        (m.key = cut bs 180 64 → ∃ t, exec (.meterGrant fn) s = .next t ∧ Answered s t fn k 0 [] ∧
          t.rainfly.grants = kept ++ [g] ∧
          t.rainfly.meters.find? (fun m => m.region == region) = some { m with grant := num bs 8 8 })) ∧
      (s.rainfly.meters.find? (fun m => m.region == region) = none →
        (4096 ≤ s.rainfly.meters.length → Refuses s (.meterGrant fn) fn k 8) ∧
        (s.rainfly.meters.length < 4096 → ∃ t, exec (.meterGrant fn) s = .next t ∧ Answered s t fn k 0 [] ∧
          t.rainfly.grants = kept ++ [g] ∧
          t.rainfly.meters = s.rainfly.meters ++
            [{ region := region, value := 0, key := cut bs 180 64, newest := none, grant := num bs 8 8 }])))) ∧
  (∀ (s : State) (fn : Nat) (k : CmdBlock) (x : Context), InContext s fn 11 k x [(16, 20), (24, 48)] → s.mem.wf = true →
    let l := (s.rainfly.wanted (k.num 16 4) (k.num 24 8)).take (k.num 40 4)
    let waits := ∃ r ∈ l, r.cause = 5 ∧ r.stamp ≠ 0 ∧ s.diesAbove r.stamp = false
    (waits → exec (.meterRead fn) s = .next s) ∧
    (¬ waits → ∃ t, exec (.meterRead fn) s = .next t ∧ Answered s t fn k 0 [(44, leBytes 4 l.length)] ∧
      (∀ (i : Nat) (r : Ckpt), l[i]? = some r → ∀ j, j < 128 →
        t.mem.read (k.num 32 8 + 10240 * i + j) = r.bytes.getD j 0) ∧
      (∀ a, a < k.num 32 8 ∨ k.num 32 8 + 10240 * l.length ≤ a → t.mem.read a = s.mem.read a) ∧
      s.rainfly.leaf ≤ t.rainfly.leaf)) ∧
  (∀ (s : State) (fn : Nat) (k : CmdBlock) (x : Context), InContext s fn 12 k x [(16, 20), (24, 32)] →
    let region := k.num 16 4
    ((∀ g ∈ s.rainfly.grants, g.ctx = x.num → g.region ≠ region) → Refuses s (.meterCkpt fn) fn k 2) ∧
    ((∃ g ∈ s.rainfly.grants, g.ctx = x.num ∧ g.region = region) →
      (s.leafLeft = false → Refuses s (.meterCkpt fn) fn k 8) ∧
      (s.leafLeft = true → ∃ t q, exec (.meterCkpt fn) s = .next t ∧ t.rainfly.reqs = s.rainfly.reqs ++ [q] ∧
        q.body.cause = 2 ∧ q.body.region = region ∧ q.body.value = s.meterVal region ∧ q.body.seq = s.rainfly.seq + 1 ∧
        q.for_ = .command fn ∧ t.mem = s.mem ∧ t.returned = s.returned ∧
        t.cmd? fn = some { k with running := true }))) ∧
  (∀ (s : State) (q : CkptReq) (rest : List CkptReq) (fn : Nat) (k : CmdBlock), s.rainfly.reqs = q :: rest → q.for_ = .command fn →
    s.cmd? fn = some k → s.leafLeft = true →
    (q.stamped = false ∨ s.diesAbove q.body.stamp = true) →
    ∃ t, exec .checkpointRecord s = .next t ∧ Answered s t fn k 0 [(24, leBytes 8 q.body.seq)] ∧ q.body ∈ t.rainfly.ring) ∧
  (∀ (s : State) (fn : Nat) (k : CmdBlock) (who : Option Nat), Command s fn 13 k → k.clean [(16, 57), (60, 72)] = true →
    (k.num 56 1 = 0xFF ∧ who = none ∨ k.num 56 1 < 64 ∧ who = some (k.num 56 1) ∧
      ∃ x, s.ctx? (k.num 56 1) = some x ∧ x.fn = fn ∧ x.fatal = none) →
    let n := s.statementLen who
    let body := s.statement who (cut k.bytes 16 32)
    (k.num 64 8 < n → Refuses s (.attest fn) fn k 1) ∧
    (n ≤ k.num 64 8 →
      (s.leafLeft = false → Refuses s (.attest fn) fn k 8) ∧
      (s.leafLeft = true → ∃ t, exec (.attest fn) s = .next t ∧ Answered s t fn k 0 [(60, leBytes 4 n)] ∧
        t.mem = s.mem.writeBytes (k.num 48 8) (body ++ Config.xmssSign s.rainfly.leaf body) ∧
        t.rainfly = { s.rainfly with leaf := s.rainfly.leaf + 1 })))

/-- A query's reply stands at the address it names, byte for byte, every byte not listed 0, and nothing else of memory changes. -/
def Sys2Proof.Claims.Replies (s : State) (i : Instr) (fn : Nat) (k : CmdBlock) (bs : List Byte) : Prop :=
  ∃ t, exec i s = .next t ∧ Answered s t fn k 0 [] ∧ (∀ j, j < bs.length → t.mem.read (k.num 24 8 + j) = bs.getD j 0) ∧
    (∀ a, a < k.num 24 8 ∨ k.num 24 8 + bs.length ≤ a → t.mem.read a = s.mem.read a)

/-- R200, R201, R383: the queries and what each reply holds. -/
def Obligations.Queries : Prop :=
  ∀ (s : State) (fn kind : Nat) (k : CmdBlock), Command s fn 14 k → k.num 16 1 = kind → k.clean [(16, 17), (24, 32)] = true →
    s.mem.wf = true →
    let on := fun i : Nat => s.usable.contains i
    let each := fun (f : Nat → List Byte) (n : Nat) => (List.range n).flatMap f
    (kind = 0 → Replies s (.queryPart fn) fn k
      ([BitVec.ofNat 8 s.part, BitVec.ofNat 8 s.rainfly.lastStop, 1, 0, BitVec.ofNat 8 s.usable.length,
        BitVec.ofNat 8 (stackMask on), BitVec.ofNat 8 (stackMask fun i => (s.stack? i).fused),
        BitVec.ofNat 8 (stackMask fun i => (s.stack? i).excluded), BitVec.ofNat 8 s.rainfly.fuses] ++ List.replicate 7 0 ++
       leBytes 16 deviceId ++ leBytes 8 (2 ^ 40 - s.rainfly.leaf) ++ List.replicate 216 0)) ∧
    (kind = 1 → Replies s (.queryGround fn) fn k
      (each (fun i => leBytes 2 (if (s.stack? i).fused then 0xFFFF else s.rainfly.carve.getD i 0)) 4 ++ List.replicate 248 0)) ∧
    (kind = 2 → Replies s (.queryTime fn) fn k
      ([BitVec.ofNat 8 (if s.tb.accepted then s.tb.source.getD 0xFF else 0xFF),
        BitVec.ofNat 8 (s.tb.lastRej.bit + 2 * (decide (10 ^ 12 ≤ s.tb.refAge)).bit), 0, 0] ++ leBytes 4 s.tb.limit ++
       leBytes 8 (s.tb.refAge / 1000) ++ leBytes 4 (min s.tb.rejected 0xFFFFFFFF) ++ List.replicate 4 0 ++
       each (fun i => leBytes 4 (if on i then (s.stack? i).usync else 0xFFFFFFFF)) 4 ++
       each (fun i => leBytes 4 (if on i then (s.stack? i).transit else 0xFFFFFFFF)) 4 ++ List.replicate 200 0)) ∧
    (kind = 3 → Replies s (.queryPower fn) fn k
      (each (fun i => leBytes 2 (if on i then s.rainfly.budget.getD i 0 else 0xFFFF)) 4 ++
       each (fun i => leBytes 2 (if on (i / 4) then s.rainfly.base.getD i 0 else 0xFFFF)) 16 ++
       each (fun i => leBytes 4 (if on (i / 4) then s.rainfly.emax.getD i 0 else 0xFFFFFFFF)) 16 ++ List.replicate 152 0)) ∧
    (∀ x, kind = 4 → s.ctx? (k.num 4 4) = some x → x.fn = fn → x.fatal = none → Replies s (.queryVdie fn) fn k
      (leBytes 4 x.mapVer ++ [BitVec.ofNat 8 x.vdies.length, 0, 0, 0] ++
       each (fun v => [BitVec.ofNat 8 (x.vdies.getD v 0xFF)]) 4 ++ List.replicate 244 0)) ∧
    (kind = 5 → Replies s (.queryPorts fn) fn k
      (each (fun i => [BitVec.ofNat 8 (s.port i).state, BitVec.ofNat 8 (s.port i).partner] ++
        leBytes 2 (min (s.port i).retrains 0xFFFF) ++ leBytes 4 (min (s.port i).naks 0xFFFFFFFF) ++
        leBytes 16 (if (s.port i).state = 2 then (s.port i).partnerDev else 0) ++ List.replicate 8 0) 16))

-- Lantern, the boot, time and power.

/-- The bits a stop field keeps (R400). -/
def Sys2Proof.Claims.stopBit (b : Nat) : Bool := decide (b < 32) || (decide (35 ≤ b) && decide (b < 50)) || b == 62 || b == 63

/-- R397 to R401: Lantern.  A write to a function's page has its effect only while the context the page names (the written one, for
the field that names it) is the function's; every field keeps the bits the page lists; a stop written replaces one that waits, for a warp that is
away too (log entry 105); a release ends the stops in force; a bin
takes only 0; what is not listed is discarded. -/
def Sys2Proof.Claims.LanternPage : Prop :=
  (∀ (s : State) (fn v e i : Nat) (l : Lantern), s.lantern[fn]? = some l →
    let page := fun (x : Lantern) => Host.Outcome.next (φ := Fault) (ρ := Refusal) { s with lantern := s.lantern.set fn x }
    let write := fun (o : Nat) => exec (.lanternPageWrite fn o v) s
    (s.owns fn l.ctx = true →
      exec (.lanternStop fn v) s = page { l with stop := stopMask v, issuer := none } ∧
      exec (.lanternBinsClear fn e i) s = page { l with bins := l.bins.set e ((l.bins.getD e []).set i 0) } ∧
      (v % 2 = 1 → ∃ t, exec (.lanternRelease fn v) s = .next t ∧ t.lantern = s.lantern.set fn { l with stopped := [] } ∧
        SameMemory s t ∧ ∀ n m w, s.warp? n m = some w →
          t.warp? n m = some (if (n, m) ∈ l.stopped then { w with stopped := false } else w)) ∧
      write 0x008 = page { l with period := v % 2 ^ 21 } ∧ write 0x010 = page { l with buf := v } ∧
      write 0x018 = page { l with size := v % 2 ^ 32 } ∧ write 0x028 = page { l with stop := stopMask v, issuer := none } ∧
      write 0x030 = exec (.lanternRelease fn v) s ∧
      (e < 4 → write (0x040 + 16 * e) =
        page { l with pct := l.pct.set e (v % 256), action := l.action.set e (v / 256 % 4) }) ∧
      (e < 4 → i < 16 → v % 2 ^ 32 = 0 → write (0x100 + 64 * e + 4 * i) = exec (.lanternBinsClear fn e i) s) ∧
      (e < 4 → i < 16 → v % 2 ^ 32 ≠ 0 → write (0x100 + 64 * e + 4 * i) = .next s)) ∧
    (s.owns fn l.ctx = false → exec (.lanternStop fn v) s = .next s ∧ exec (.lanternRelease fn v) s = .next s ∧
      exec (.lanternBinsClear fn e i) s = .next s ∧ ∀ o, o ≠ 0 → write o = .next s) ∧
    (v % 2 = 0 → exec (.lanternRelease fn v) s = .next s) ∧
    (s.owns fn (v % 64) = true → write 0 = page { l with en := v.testBit 8, ctx := v % 64 }) ∧
    (s.owns fn (v % 64) = false → write 0 = .next s) ∧
    (∀ o, o ∉ [0, 8, 0x10, 0x18, 0x28, 0x30] → ¬(0x40 ≤ o ∧ o < 0x80 ∧ o % 16 = 0) → ¬(0x100 ≤ o ∧ o < 0x200 ∧ o % 4 = 0) →
      write o = .next s)) ∧
  (∀ v b, (stopMask v).testBit b = (v.testBit b && stopBit b))

/-- R399 to R401: a precise stop.  At the boundary after a word, whose token stood at `tok`, the first page whose stop is armed for the
warp's context, the warp and the word stops the warp, unless that is in a handler: a trigger's stop is for the warp that issued the
request, any other for the one that stands where the stop field says.  The stop is armed no more and is in force on that page, the warp
holds its pitch no longer and is ready in no cycle, and nothing else of any warp changes. -/
def Sys2Proof.Claims.PreciseStops : Prop :=
  ∀ (s : State) (b : Block) (w : Warp) (tok : Nat), s.block? b.bid = some b → b.warp? w.num = some w →
    let hits := fun (l : Lantern) => l.stop.testBit 63 = true ∧ l.ctx = b.ctx ∧
      (l.issuer = some (b.bid, w.num) ∨ (l.issuer = none ∧ l.stop / 2 ^ 48 % 4 = b.vdie ∧ l.stop / 2 ^ 43 % 32 = w.core ∧
        l.stop / 2 ^ 41 % 4 = w.pitch ∧ l.stop / 2 ^ 35 % 64 = w.slot)) ∧
      (l.stop.testBit 62 = true ∨ l.stop % 2 ^ 32 = tok)
    (w.handler = true ∨ (∀ l ∈ s.lantern, ¬ hits l) → s.stopCheck b w tok = s) ∧
    ∀ (pre post : List Lantern) (l : Lantern), w.handler = false → s.lantern = pre ++ l :: post → (∀ x ∈ pre, ¬ hits x) → hits l →
      let t := s.stopCheck b w tok
      ∃ v l', t.warp? b.bid w.num = some v ∧ v = { w with stopped := true, stopRec := v.stopRec, held := v.held, atPoint := v.atPoint,
                                                          step := v.step, trap := v.trap } ∧
        t.lantern[pre.length]? = some l' ∧ l'.stop = l.stop % 2 ^ 63 ∧ l'.issuer = none ∧
        l'.stopped = l.stopped ++ [(b.bid, w.num)] ∧
        (t.pitch (coreId b w) w.pitch).holder ≠ some (b.bid, w.num) ∧
        (∀ k n, t.ready k v n = false) ∧
        ∀ n m, (n, m) ≠ (b.bid, w.num) → t.warp? n m = s.warp? n m

/-- R398: a sample of an enabled page with a valid period goes to the next warp of the observed context on the pitch by rotation;
its 16 bytes enter the ring at the write index, which moves on by 16.  A page that is not enabled, a period outside 64 to
1,048,576, or a pitch without such a warp samples nothing. -/
def Sys2Proof.Claims.LanternSamples : Prop :=
  ∀ (s : State) (k core pitch fn : Nat) (l : Lantern), s.lantern[fn]? = some l →
    let id := 4 * (32 * k + core) + pitch
    let mine := (s.residents k core pitch).filter fun p => p.1.ctx == l.ctx && !p.2.gone
    let next := rotation ((l.rotate.find? fun p => p.1 == id).map (·.2)) mine
    (l.en = false ∨ l.period < 64 ∨ 1048576 < l.period ∨ mine = [] → exec (.warpSample k core pitch fn) s = .next s) ∧
    (l.en = true → 64 ≤ l.period → l.period ≤ 1048576 → l.ringOk = true → s.mem.wf = true → ∀ p, next = some p →
      ∃ (t : State) (x : Lantern) (bs : List Byte), exec (.warpSample k core pitch fn) s = .next t ∧ t.lantern[fn]? = some x ∧
        x.widx = (l.widx + 16) % 2 ^ 32 ∧ x.stop = l.stop ∧ x.bins = l.bins ∧ bs.length = 16 ∧
        leNat (bs.take 4) = p.2.pc % 2 ^ 32 ∧ bs.getD 5 0 = BitVec.ofNat 8 p.2.slot ∧ bs.getD 6 0 = BitVec.ofNat 8 p.2.core ∧
        bs.getD 7 0 = BitVec.ofNat 8 (p.2.pitch + 4 * p.1.vdie) ∧ ((bs.getD 4 0).getLsbD 6 = p.2.handler) ∧
        ((bs.getD 4 0).getLsbD 7 = l.marks.contains id) ∧
        (∀ j, j < 16 → t.mem.read (l.buf + (l.widx + j) % l.size) = bs.getD j 0) ∧
        (∀ a, (∀ j, j < 16 → a ≠ l.buf + (l.widx + j) % l.size) → t.mem.read a = s.mem.read a) ∧ t.blocks = s.blocks) ∧
    (∀ p, next = some p → p ∈ mine ∧
      ∀ n, (l.rotate.find? fun p => p.1 == id).map (·.2) = some n → (∃ q ∈ mine, n < q.2.slot) →
        n < p.2.slot ∧ ∀ q ∈ mine, n < q.2.slot → p.2.slot ≤ q.2.slot)

/-- The Lantern unit: its commands, precise stops and samples (a stop for a warp that is away: log entry 105). -/
def Obligations.LanternUnit : Prop :=
  Claims.LanternPage ∧ Claims.PreciseStops ∧ Claims.LanternSamples

/-- The module has lost its power for a cause: nothing of its work is left, the NV store and the host's own memory stand. -/
def Sys2Proof.Claims.Stopped (s t : State) (cause : Nat) : Prop :=
  t.running = false ∧ t.rainfly.lastStop = cause ∧ t.contexts = [] ∧ t.tasks = [] ∧ t.blocks = [] ∧ t.images = [] ∧
  t.tensors = [] ∧ t.reqs = [] ∧ t.ops = [] ∧ t.commits = [] ∧ t.rainfly.grants = [] ∧ t.rainfly.fuses = s.rainfly.fuses ∧
  t.rainfly.leaf = s.rainfly.leaf ∧ t.rainfly.meters.map (fun m => (m.region, m.value)) = s.rainfly.meters.map (fun m => (m.region, m.value)) ∧
  t.tb = TimeBase.reset ∧ ∀ a, a < regionSize → t.mem.read a = s.mem.read a

/-- R1, R18, R188, R193, R195, R220, R229, R387 to R390, R394: power. The boot takes up the stacks it finds, four on a Z880 and
three on a Z860, with their energy limits, starts the time base, trains the ports, whose three hellos leave at once (log entry 24,
DEDUCED), and resumes every meter at the cause-5
record of the run that has ended, 2^30 above its newest, or, without a record, at 2^30 (log entry 40, DEDUCED); the loss of the supply (an odd argument: an ordinary power-down,
log entry 98) and the emergency stops (a die at 115 °C, an HBM stack at 105 °C, a silent stack) leave a module without power, which
keeps its NV store and the host its memory and nothing else (log entry 54), with a cause-5 record of every region for which time and leaves were left, written in the
step of the stop (log entry 52, DEDUCED); below those limits a temperature sets or lifts a
cap with hysteresis. -/
def Obligations.PowerOnAndOff : Prop :=
  (∀ (s : State) (part : Nat) (found : List BootStack), s.running = true ∨ partOk part found = false →
    exec (.powerUp part found) s = .next s) ∧
  (∀ (s : State) (part : Nat) (found : List BootStack), s.running = false → partOk part found = true →
    ∃ t, exec (.powerUp part found) s = .next t ∧ t.running = true ∧ t.part = part ∧ t.mem = s.mem ∧
      (∀ i f, i < 4 → found[i]? = some f →
        (i ∈ t.usable ↔ f.fused = false ∧ f.authOk = true ∧ f.selfTest = true ∧ f.usync ≤ 6) ∧
        ((t.stack? i).powered = t.usable.contains i) ∧ (t.stack? i).usync = f.usync ∧ (t.stack? i).transit = f.transit ∧
        (t.stack? i).fused = f.fused ∧ ∀ c, c < 4 → t.rainfly.emax.getD (4 * i + c) 0 = f.emax.getD c 0) ∧
      (∀ p, p < 16 → (t.port p).state = 1 ∧ (t.port p).credits = 256 ∧ (t.port p).hellosOut = 3) ∧
      t.rainfly.fuses = s.rainfly.fuses ∧ s.rainfly.leaf ≤ t.rainfly.leaf ∧ t.rainfly.bootSeq = t.rainfly.seq ∧
      t.tb = TimeBase.reset ∧
      ((s.rainfly.meters.map (·.region)).Nodup → ∀ m ∈ s.rainfly.meters, ∃ m' ∈ t.rainfly.meters, m'.region = m.region ∧
        m'.key = m.key ∧ m'.value = match m.newest with
          | some k => if k.cause = 5 ∧ s.rainfly.bootSeq < k.seq then k.value else min (2 ^ 64 - 1) (k.value + 2 ^ 30)
          | none => 2 ^ 30)) ∧
  (∀ (s : State) (n : Nat), (s.running = false → exec (.supplyLoss n) s = .next s) ∧
    (s.running = true → ∃ t, exec (.supplyLoss n) s = .next t ∧ Stopped s t (if n % 2 = 1 then 0 else 4) ∧
      (s.leafLeft = true → t.rainfly.seq = s.rainfly.seq + min (n / 2) s.rainfly.meters.length) ∧
      (s.leafLeft = false → t.rainfly.seq = s.rainfly.seq))) ∧
  (∀ (s : State) (k : Nat), (k ∉ s.usable → exec (.stackSilence k) s = .next s) ∧
    (k ∈ s.usable → s.running = true → ∃ t, exec (.stackSilence k) s = .next t ∧ Stopped s t 3 ∧
      (s.leafLeft = true → t.rainfly.seq = s.rainfly.seq + s.rainfly.meters.length))) ∧
  (∀ (s : State) (k c : Nat),
    (k ∉ s.usable → exec (.junctionTemperature (.die k) c) s = .next s) ∧
    (k ∈ s.usable → s.running = true → 115 ≤ c → ∃ t, exec (.junctionTemperature (.die k) c) s = .next t ∧ Stopped s t 1) ∧
    (k ∈ s.usable → c < 115 → exec (.junctionTemperature (.die k) c) s = .next (s.modStack k fun x =>
      { x with hotDie := if 105 ≤ c then true else if c < 100 then false else x.hotDie })) ∧
    (k / 2 ∉ s.usable → exec (.junctionTemperature (.hbm k) c) s = .next s ∧ exec (.hbmTemperature k c) s = .next s) ∧
    (k / 2 ∈ s.usable → s.running = true → 105 ≤ c → ∃ t, exec (.junctionTemperature (.hbm k) c) s = .next t ∧ Stopped s t 2) ∧
    (k / 2 ∈ s.usable → c < 105 → exec (.junctionTemperature (.hbm k) c) s = .next { s with hbms := s.hbms.modify k fun x =>
      { x with cap := if 100 ≤ c then true else if c < 95 then false else x.cap } }) ∧
    (k / 2 ∈ s.usable → exec (.hbmTemperature k c) s = .next { s with hbms := s.hbms.modify k fun x =>
      { x with hot := decide (85 ≤ c), fast := if 85 ≤ c then true else if c < 83 then false else x.fast } }))

/-- From `s` to `t` the I/O die has accepted a reference sample of `v` ns with uncertainty `u` from a source (R175, R177, R178). -/
def Sys2Proof.Claims.Sampled (s t : State) (v u source : Nat) : Prop :=
  t.tb.that = 1000 * v ∧ t.tb.refAge = 0 ∧ t.tb.uTs = u ∧ t.tb.lastRej = false ∧
  t.tb.accepted = true ∧ t.tb.rejected = s.tb.rejected ∧ t.tb.source = some source ∧
  t.tb.earliest = (if s.tb.accepted then max s.tb.earliest (v - (t.tb.uHost + u)) else v - (t.tb.uHost + u)) ∧
  t.tb.latest = (if s.tb.accepted then max s.tb.latest (v + (t.tb.uHost + u)) else v + (t.tb.uHost + u)) ∧ t.mem = s.mem

/-- R175, R176, R178, R382: reference samples.  A PTM dialogue (at most one every 125 ms) or a PPS edge in its window after a good
message is a sample of the source in force, or of one awaited, which it brings into force; a sample whose interval does not meet
the I/O die's is rejected and counted, and changes neither bound. -/
def Sys2Proof.Claims.ReferenceSamples : Prop :=
  (∀ (s : State) (v : Nat), s.running = true → (∀ a, s.tb.dialogAge = some a → 125 * 10 ^ 9 ≤ a) →
    (s.tb.source = some 0 → s.tb.awaited = none →
      exec (.ptmDialogue none) s = .next { s with tb := { s.tb with dialogAge := some 0 } } ∧
      (s.tb.earliest ≤ v + (s.tb.uHost + 8) → v ≤ s.tb.latest + (s.tb.uHost + 8) →
        ∃ t, exec (.ptmDialogue (some v)) s = .next t ∧ Sampled s t v 8 0 ∧ t.tb.uHost = s.tb.uHost ∧
          t.tb.dialogAge = some 0 ∧ t.stks = s.stks) ∧
      (v + (s.tb.uHost + 8) < s.tb.earliest ∨ s.tb.latest + (s.tb.uHost + 8) < v →
        exec (.ptmDialogue (some v)) s =
          .next { s with tb := { s.tb with dialogAge := some 0, rejected := s.tb.rejected + 1, lastRej := true } })) ∧
    (∀ a, s.tb.awaited = some a → a.source = 0 → s.tb.earliest ≤ v + (a.uHost + 8) → v ≤ s.tb.latest + (a.uHost + 8) →
      ∃ t, exec (.ptmDialogue (some v)) s = .next t ∧ Sampled s t v 8 0 ∧ t.tb.uHost = a.uHost ∧ t.tb.limit = a.limit ∧
        t.tb.awaited = none ∧ ∀ k, k < s.stks.length → (t.stack? k).limit = a.limit)) ∧
  (∀ (s : State) (d : Option Nat), (∃ a, s.tb.dialogAge = some a ∧ a < 125 * 10 ^ 9) ∨ s.tb.seeks 0 = false →
    exec (.ptmDialogue d) s = .next s) ∧
  (∀ (s : State) (m age a : Nat), s.running = true → s.tb.source = some 1 → s.tb.awaited = none →
    s.tb.message = some (m, age) → s.tb.freshEdge = false → s.tb.edgeAge = some a →
    (9 * 10 ^ 11 ≤ a → a ≤ 11 * 10 ^ 11 → s.tb.earliest ≤ m * 10 ^ 9 + (s.tb.uHost + 4) →
      m * 10 ^ 9 ≤ s.tb.latest + (s.tb.uHost + 4) →
      ∃ t, exec .ppsEdge s = .next t ∧ Sampled s t (m * 10 ^ 9) 4 1 ∧ t.tb.edgeAge = some 0 ∧ t.tb.message = none) ∧
    (a < 9 * 10 ^ 11 ∨ 11 * 10 ^ 11 < a →
      exec .ppsEdge s = .next { s with tb := { s.tb with edgeAge := some 0, freshEdge := false, message := none } })) ∧
  (∀ (s : State) (bs : List Nat), s.running = true → s.tb.seeks 1 = true →
    (goodMessage bs = true → exec (.timeOfDayMessage bs) s =
      .next { s with tb := { s.tb with message := some (((List.range 8).map fun i => bs.getD (4 + i) 0 * 256 ^ i).sum, 0) } }) ∧
    (goodMessage bs = false → exec (.timeOfDayMessage bs) s = .next s))

/-- R177, R178, R181, R390: beats.  Every beat sets out to every usable die; a die takes from the oldest one t-hat, aged by its
transit (log entry 79, DEDUCED), the reference, whether time is known and the earliest of every die that is not silent; the floor of a
silent one, which has left a beat unacknowledged (log entry 55, DEDUCED), stands, and does not run on either.  The bounds of a die whose time is known never decrease, whatever
beat arrives and however its clock runs on. -/
def Sys2Proof.Claims.SyncBeats : Prop :=
  (∀ s : State, s.running = true → ∃ t, exec .syncBeat s = .next t ∧ t = { s with stks := t.stks } ∧
    ∀ k, k < s.stks.length → t.stack? k =
      if k ∈ s.usable then { s.stack? k with beats := (s.stack? k).beats ++ [[s.tb.that, s.tb.refAge, s.tb.uHost, s.tb.uTs,
        if s.tb.accepted then 1 else 0, (s.stack? 0).earliest, (s.stack? 1).earliest, (s.stack? 2).earliest,
        (s.stack? 3).earliest] ++ (List.range 4).map fun i => if (s.stack? i).beats = [] then 0 else 1] } else s.stack? k) ∧
  (∀ (s : State) (k that ref uh ut ok : Nat) (es mute : List Nat) (r : List (List Nat)), k < s.stks.length → es.length = 4 →
    (s.stack? k).beats = (that :: ref :: uh :: ut :: ok :: (es ++ mute)) :: r →
    ∃ t, exec (.beatArrival k) s = .next t ∧ t = { s with stks := t.stks } ∧ (∀ j, j ≠ k → t.stack? j = s.stack? j) ∧
      (t.stack? k).beats = r ∧ (t.stack? k).that = that + 1000 * (s.stack? k).transit ∧ (t.stack? k).beatAge = 0 ∧
      (t.stack? k).refAge = ref + 1000 * (s.stack? k).transit ∧ (t.stack? k).uHost = uh ∧ (t.stack? k).uTs = ut ∧
      (t.stack? k).known = (ok == 1) ∧ (t.stack? k).floors.length = 4 ∧
      (∀ i e, es[i]? = some e → (t.stack? k).floors[i]? =
        some (if mute.getD i 0 = 0 then (e, 0) else (s.stack? k).floors.getD i (0, 0))) ∧
      (ok = 1 → (s.stack? k).known = true →
        (t.stack? k).earliest = max (s.stack? k).earliest (lowBound (t.stack? k).that (t.stack? k).eps) ∧
        (t.stack? k).latest = max (s.stack? k).latest (highBound (t.stack? k).that (t.stack? k).eps)) ∧
      (ok ≠ 1 → (t.stack? k).earliest = (s.stack? k).earliest ∧ (t.stack? k).latest = (s.stack? k).latest)) ∧
  (∀ (s : State) (ds : List Nat) (k : Nat), (s.stack? k).earliest ≤ ((s.advance ds).stack? k).earliest ∧
    (s.stack? k).latest ≤ ((s.advance ds).stack? k).latest ∧ s.tb.earliest ≤ (s.advance ds).tb.earliest ∧
    s.tb.latest ≤ (s.advance ds).tb.latest ∧ SameMemory s (s.advance ds)) ∧
  (∀ (k : Stack) (d : Nat) (silent : List Bool),
    let t := k.run d silent
    (∀ i f, k.floors[i]? = some f → t.floors[i]? = some (if silent.getD i false then f else (f.1, f.2 + d))) ∧
    (k.known = true → t.that = k.that + d ∧ k.eps ≤ t.eps ∧ lowBound t.that t.eps ≤ t.earliest ∧
      highBound t.that t.eps ≤ t.latest))

/-- Reference samples are accepted or rejected, and beats between the dies (transit: log entry 79; silence: log entry 55). -/
def Obligations.ReferenceAndBeats : Prop :=
  Claims.ReferenceSamples ∧ Claims.SyncBeats

/-- A clock chosen has come into force, with the voltage to fall after it where its level is lower; or, with none chosen, a voltage
that was to fall has fallen (R183, R384). -/
def Sys2Proof.Claims.Switched (x y : Stack) : Prop :=
  (x.hop = none → y.mclk = x.mclk ∧ y.lower = none ∧ y.vlevel = match x.lower with
    | some v => v
    | none => x.vlevel) ∧
  (∀ h, x.hop = some h → y.mclk = h.1 ∧ y.hop = none ∧
    (x.lower = none → y.vlevel = x.vlevel ∧ y.lower = if h.2 < x.vlevel then some h.2 else none))

/-- R183 to R188, R384: clock and voltage.  Each 2,000 ns a die's master clock is the lowest 25 MHz step that meets its floor and the
needs of its open steps, at most 2.1 GHz; a rise of the clock waits for the voltage, whose level reads as the new one from then on
(log entry 96), a fall takes effect at once (log entry 65, DEDUCED) and the voltage falls after it, and while a droop detector of the die is active nothing
switches; a cluster's count is between 1 and 16, and 16 without an open step. -/
def Obligations.ClockAndVoltage : Prop :=
  (∀ (s : State) (k : Nat),
    let needs := (List.range 4).map (s.needs k)
    let m := masterFor (s.floorMhz k) needs.flatten
    ((s.stack? k).powered = false → exec (.bellowsPeriod k) s = .next s) ∧
    ((s.stack? k).powered = true → k < s.stks.length → ∃ t, exec (.bellowsPeriod k) s = .next t ∧ t.mem = s.mem ∧
      (∀ c, c < 4 → 4 * k + c < s.clusters.length → (t.cluster k c).nBell = bellowsCount (s.needs k c) m) ∧
      ((s.stack? k).mclk < m → (s.stack? k).vlevel < levelFor m → (t.stack? k).mclk = (s.stack? k).mclk ∧
        (t.stack? k).vlevel = levelFor m ∧ (t.stack? k).raising = true ∧ (t.stack? k).hop = some (m, levelFor m)) ∧
      (m ≤ (s.stack? k).mclk → s.drooping k = false → (t.stack? k).mclk = m ∧
        (t.stack? k).vlevel = (s.stack? k).vlevel ∧ (t.stack? k).hop = none ∧
        (t.stack? k).lower = if levelFor m < (s.stack? k).vlevel then some (levelFor m) else none) ∧
      (m ≤ (s.stack? k).mclk → s.drooping k = true → (t.stack? k).mclk = (s.stack? k).mclk ∧
        (t.stack? k).hop = some (m, levelFor m)))) ∧
  (∀ (floor : Nat) (needs : List (Nat × Nat)),
    let m := masterFor floor needs
    let meets := fun (n : Nat) => floor ≤ n ∧ ∀ x ∈ needs, 1000 * x.1 ≤ n * x.2
    800 ≤ m ∧ m ≤ 2100 ∧ m % 25 = 0 ∧ ((∃ i, i < 53 ∧ meets (800 + 25 * i)) → meets m) ∧
    (∀ i, i < 53 → 800 + 25 * i < m → ¬meets (800 + 25 * i))) ∧
  (∀ m, m ≤ 2100 → m ≤ fMax (levelFor m) ∧ levelFor m ≤ 15 ∧ ∀ v, v < levelFor m → fMax v < m) ∧
  (∀ (needs : List (Nat × Nat)) (m : Nat), 1 ≤ bellowsCount needs m ∧ bellowsCount needs m ≤ 16 ∧ bellowsCount [] m = 16) ∧
  (∀ (s : State) (k : Nat), k < s.stks.length →
    ∃ t, exec (.voltageSettled k) s = .next t ∧ (t.stack? k).raising = false ∧ t.mem = s.mem ∧
      (s.drooping k = true → (t.stack? k).mclk = (s.stack? k).mclk ∧ (t.stack? k).vlevel = (s.stack? k).vlevel ∧
        (t.stack? k).hop = (s.stack? k).hop ∧ (t.stack? k).lower = (s.stack? k).lower) ∧
      (s.drooping k = false → Switched (s.stack? k) (t.stack? k))) ∧
  (∀ (s : State) (k c : Nat), c < 4 → 4 * k + c < s.clusters.length →
    (∃ t, exec (.droopDetect k c) s = .next t ∧ t = { s with clusters := t.clusters } ∧ (t.cluster k c).droop = true ∧
      t.drooping k = true ∧ ∀ j, j ≠ c → t.cluster k j = s.cluster k j) ∧
    ∃ t, exec (.droopClear k c) s = .next t ∧ (t.cluster k c).droop = false ∧ (∀ j, j ≠ c → t.cluster k j = s.cluster k j) ∧
      ((s.stack? k).hop = none → (s.stack? k).lower = none → t.stks = s.stks) ∧
      (k < s.stks.length → (s.stack? k).raising = false → (∀ j, j < 4 → j ≠ c → (s.cluster k j).droop = false) →
        Switched (s.stack? k) (t.stack? k)))

/-- R190, R192, R193, R385: current and heat.  Without a grant on it a cluster's current cap falls by one while its draw is above
its base, rises by one while it is under nine tenths of it, and stays between; with a grant, a draw above the cluster's limit
marks every warp of it that holds one.  The heat cap is what is left of the allowance, in sixteenths of it on ten, between 1 and
16. -/
def Obligations.CurrentAndHeat : Prop :=
  (∀ (s : State) (k c draw : Nat),
    let base := s.rainfly.base.getD (4 * k + c) 0
    let cap := fun (f : Nat → Nat) => Host.Outcome.next (φ := Fault) (ρ := Refusal) (s.modCluster k c fun x => { x with capCur := f x.capCur })
    ((s.stack? k).powered = false → exec (.currentSense k c draw) s = .next s) ∧
    ((s.stack? k).powered = true → s.grantsOn k c = [] →
      (base < draw → exec (.currentSense k c draw) s = cap fun x => max 1 (x - 1)) ∧
      (draw ≤ base → 10 * draw < 9 * base → exec (.currentSense k c draw) s = cap fun x => min 16 (x + 1)) ∧
      (draw ≤ base → 9 * base ≤ 10 * draw → exec (.currentSense k c draw) s = cap fun x => x)) ∧
    ((s.stack? k).powered = true → s.grantsOn k c ≠ [] →
      (draw ≤ s.limitWith k c [] → exec (.currentSense k c draw) s = .next s) ∧
      (s.limitWith k c [] < draw → ∃ t, exec (.currentSense k c draw) s = .next t ∧ OnlyBlocks s t ∧
        ∀ n m b w, s.block? n = some b → b.warp? m = some w → t.warp? n m = some
          (if b.stack = k ∧ b.status = .placed ∧ w.core / 8 = c ∧ w.grant.isSome = true then { w with overdraw := true } else w)))) ∧
  (∀ (s : State) (k c e : Nat), 4 * k + c < s.clusters.length →
    let emax := s.rainfly.emax.getD (4 * k + c) 0
    ∃ t, exec (.heatIntegration k c e) s = .next t ∧ t = { s with clusters := t.clusters } ∧ (t.cluster k c).energy = e ∧
      1 ≤ (t.cluster k c).capHeat ∧ (t.cluster k c).capHeat ≤ 16 ∧
      (0 < emax → (t.cluster k c).capHeat < 16 → 160 * (emax - e) ≤ emax * (t.cluster k c).capHeat) ∧
      (0 < emax → 1 < (t.cluster k c).capHeat → emax * ((t.cluster k c).capHeat - 1) < 160 * (emax - e)) ∧
      ∀ j, j ≠ c → t.cluster k j = s.cluster k j)

-- Firmware.

/-- R62, R63, R73, R75: the first warp of a core that waits for a line of its stream that is in residence gets it; when no warp
waits for one, the first line of a prefetch hint comes instead, or is dropped when it is out of residence.  Of the dictionary groups a
core has missed the one missed first arrives first (log entry 15, DEDUCED), and is seen by Lantern as the request of the warp that missed
it (R399).  A core's fetch cache holds at most 512 lines and its decode table 128 groups, the least
recently used of which goes; nothing else of any core changes. -/
def Obligations.Fetches : Prop :=
  ∀ (s : State) (k core : Nat),
    let id := 32 * k + core
    let fetch := exec (.streamFetch k core) s
    let filled := fun (key : Nat) => ∃ t, fetch = .next t ∧ t = { s with lines := t.lines, hints := t.hints } ∧
      (id, key) ∈ t.lines ∧ (t.lines.filter fun x => x.1 == id).length ≤ 512 ∧
      (∀ x : Nat × Nat, x.1 ≠ id → (x ∈ t.lines ↔ x ∈ s.lines)) ∧ ∀ h, h ∈ t.hints ↔ h ∈ s.hints ∧ h ≠ (id, key)
    (∀ (pre post : List (Block × Warp)) (b : Block) (w : Warp) (line pc : Nat) (loops : List LoopLevel),
      s.coreWarps k core = pre ++ (b, w) :: post → (∀ p ∈ pre, s.wantedLine p = none) →
      s.needLine b w = some (line, pc, loops) → s.lineOut b (s.code b w).unit line = false →
      filled (fetchKey b (s.code b w).unit line)) ∧
    ((∀ p ∈ s.coreWarps k core, s.wantedLine p = none) →
      ((∀ h ∈ s.hints, h.1 ≠ id) → fetch = .next s) ∧
      (∀ pre post key, s.hints = pre ++ (id, key) :: post → (∀ h ∈ pre, h.1 ≠ id) →
        (s.keyOut k key = false → filled key) ∧
        (s.keyOut k key = true → ∃ t, fetch = .next t ∧ t = { s with hints := t.hints } ∧
          ∀ h, h ∈ t.hints ↔ h ∈ s.hints ∧ h ≠ (id, key)))) ∧
    ((∀ m ∈ s.misses, m.core ≠ id) → exec (.decodeRefill k core) s = .next s) ∧
    (∀ (pre post : List Miss) (m : Miss), s.misses = pre ++ m :: post → m.core = id → (∀ j ∈ pre, j.core ≠ id) →
      ∃ t, exec (.decodeRefill k core) s = .next t ∧
        t = { s with decoded := t.decoded, misses := t.misses, lantern := t.lantern } ∧
        t.lantern = (s.observeCtx 3 (s.nowCycle k (core / 8) - m.since) (keyCtx m.key) (s.missedBy m)).lantern ∧
        (∀ b w, s.block? m.block = some b → b.warp? m.warp = some w → s.missedBy m = some (b, w)) ∧
        (∀ b w g, coreId b w = id → fetchKey b (s.code b w).unit g = m.key → t.hasGroup b w (s.code b w).unit g = true) ∧
        (∀ j, j ∈ t.misses ↔ j ∈ s.misses ∧ ¬(j.core = id ∧ j.key = m.key)) ∧
        (t.decoded.filter fun x => x.1 == id).map (·.2) =
          m.key :: ((s.decoded.filter fun x => x.1 == id).map (·.2)).take 127 ∧
        ∀ x : Nat × Nat, x.1 ≠ id → (x ∈ t.decoded ↔ x ∈ s.decoded))

/-- R209: a task is eligible when it is not held, suspended, dispatched or complete, its context lives and is not suspended, every
task it is linked to has completed and every earlier task of its queue has been dispatched; of a context's eligible tasks the one of the highest class
and lowest number is dispatched, unless another context has one of a higher class. -/
def Obligations.TasksDispatched : Prop :=
  (∀ (s : State) (y : Task), s.eligible y = true ↔
    y.dispatched = false ∧ y.completed = false ∧ y.held = false ∧ y.suspended = false ∧ s.dead y.ctx = false ∧
    s.suspended y.ctx = false ∧ (∀ n ∈ y.links, ∀ z, s.task? y.ctx n = some z → z.completed = true) ∧
    ∀ z ∈ s.tasks, z.ctx = y.ctx → z.queue = y.queue → z.num < y.num → z.dispatched = true ∨ z.completed = true) ∧
  (∀ (s : State) (y : Task), y ∈ s.tasks → s.eligible y = true →
    (∀ z ∈ s.tasks, z.ctx = y.ctx → s.eligible z = true → y.cls < z.cls ∨ (y.cls = z.cls ∧ y.num ≤ z.num)) →
    ((∀ z ∈ s.tasks, s.eligible z = true → y.cls ≤ z.cls) →
      exec (.taskDispatch y.ctx) s = .next (s.modTask y.ctx y.num fun x => { x with dispatched := true })) ∧
    ((∃ z ∈ s.tasks, s.eligible z = true ∧ z.cls < y.cls) → exec (.taskDispatch y.ctx) s = .next s)) ∧
  (∀ (s : State) (c : Nat), (∀ z ∈ s.tasks, z.ctx = c → s.eligible z = false) → exec (.taskDispatch c) s = .next s)

/-- A warp of a block that has moved is the warp it was, but for its place; only an operation kept with the block and refused anew
parks lanes of it (R334). -/
def Sys2Proof.Claims.MovedWarps (b b' : Block) : Prop :=
  ∀ w ∈ b.warps, ∃ w' ∈ b'.warps,
    w' = { w with core := w'.core, pitch := w'.pitch, slot := w'.slot, lastIssue := w'.lastIssue,
                  parked := w'.parked, records := w'.records, trap := w'.trap } ∧
    (b.savedOps = [] → w'.parked = w.parked ∧ w'.records = w.records ∧ w'.trap = w.trap)

/-- R22, R87, R209, R218, R311, R342, R344, R358: placement.  The first block in firmware's order that fits takes its place, and no
other is placed by that step; no new one is while a block that misses its stream is away and the stream not in.  A new block starts at its kernel's entry with its registers at 0, its tile memory all zeros but for its
DATA items, every granule full; a saved one goes on with every warp as it was. -/
def Obligations.BlocksPlaced : Prop :=
  ∀ (s : State) (b : Block) (old : Bool) (x : Spot) (pre post : List (Block × Bool)),
    let r := s.reap
    let place := exec (.blockPlacement b.ctx b.task b.stage b.num) s
    r.queueUp = pre ++ (b, old) :: post → (∀ p ∈ pre, r.spotOf p.1 p.2 = none) →
    (r.spotOf b old = some x →
      (old = false → r.swapPending = false → ∃ t b', place = .next t ∧ b' ∈ t.blocks ∧ b'.bid = r.uid ∧ b'.ctx = b.ctx ∧
        b'.task = b.task ∧ b'.stage = b.stage ∧ b'.num = b.num ∧ b'.status = .placed ∧ b'.stack = x.stack ∧
        b'.allocs.map (·.core) = x.cores ∧ b'.warps.length = b.rcd.warps + 1 ∧
        (∀ w ∈ b'.warps, w.pc = b.rcd.entry ∧ w.s = List.replicate 64 0 ∧ (∀ n, w.vread n = splat 0) ∧ w.active = allLanes ∧
          w.loops = [] ∧ w.masks = [] ∧ w.bank = none ∧ w.exited = false) ∧
        (∀ a ∈ b'.allocs, ∀ n ∈ allocGranules x.stack a.core a.base b.rcd.tmem, n ∉ t.empty) ∧
        ((∀ im, r.image? b.ctx b.image = some im → ∀ d ∈ im.data, d.kind ≠ 1) → ∀ a ∈ b'.allocs, ∀ o, o < b.rcd.tmem →
          t.mem.read (tmemAddr (32 * x.stack + a.core) a.base + o) = 0) ∧
        t.tasks = r.tasks.map (fun y => if y.ctx == b.ctx && y.num == b.task then { y with next := y.next.set b.stage (b.num + 1) }
          else y) ∧
        t.lastCtx = r.lastCtx.set b.rcd.cls (b.ctx + 1)) ∧
      (old = true → ∃ t b', place = .next t ∧ b' ∈ t.blocks ∧ b'.bid = b.bid ∧ b'.status = .placed ∧ b'.stack = x.stack ∧
        b'.saved = [] ∧ b'.savedOps = [] ∧ b'.bars = b.bars ∧ MovedWarps b b') ∧
      (old = false → r.swapPending = true → place = .next r) ∧
      (∀ c t g n, (c, t, g, n) ≠ (b.ctx, b.task, b.stage, b.num) → exec (.blockPlacement c t g n) s = .next r)) ∧
    (∀ c t g n, (∀ p ∈ r.queueUp, r.spotOf p.1 p.2 = none) → exec (.blockPlacement c t g n) s = .next r) ∧
    (r.swapPending = true ↔ ∃ k ∈ r.blocks, k.status ≠ .placed ∧ k.missed = true ∧ r.dead k.ctx = false ∧
      ∃ f ∈ r.out, f.1 = k.ctx ∧ f.2.1 = k.image ∧ f.2.2.2.1 = k.stack)

/-- R38, R39, R191, R216, R217, R334, R344: a block to be pre-empted is saved once every warp of it stands still, none waits at a
synchronisation and what it started has drained, and not before; the save keeps its warps, its tile memory, its tiles and its
operations not yet started, frees its pitches, and a place with the same sizes gets every byte back.  A warp saved asks anew for the
grant it held or asked for; an over-draw not yet taken goes with that (log entry 94, DESIGN CHOICE). -/
def Obligations.BlocksSaved : Prop :=
  (∀ (s : State) (n : Nat) (b : Block) (p : PreReq) (x : Context),
    let r := s.reap
    r.block? n = some b → b.pre = some p → r.ctx? b.ctx = some x →
    (b.status ≠ .placed ∨ b.draining = true ∨ r.dead b.ctx = true ∨ (∃ w ∈ b.warps, r.still b w = false ∨ w.atSync = true) ∨
      r.drained b = false → exec (.blockSave n) s = .next r) ∧
    (b.status = .placed → b.draining = false → r.dead b.ctx = false → (∀ w ∈ b.warps, r.still b w = true ∧ w.atSync = false) →
      r.drained b = true → (∃ fn, p.by_ = .command fn) →
      ∃ t b', exec (.blockSave n) s = .next t ∧ t.block? n = some b' ∧ b'.status = .saved ∧ b'.allocs = [] ∧ b'.pre = none ∧ b'.missed = false ∧
        b'.hint = some { vdie := b.vdie, cores := b.allocs.map (·.core), mapVersion := x.mapVer } ∧
        b'.saved = b.allocs.map (r.saveCore b) ∧ t.mem = r.mem ∧ (∀ q ∈ t.pitches, ∀ h, q.holder = some h → h.1 ≠ n) ∧
        b'.warps = b.warps.map Warp.park_ ∧
        b'.savedOps.map (·.id) = (r.ops.filter fun o => o.block == n).map (·.id) ∧ ∀ o ∈ t.ops, o.block ≠ n)) ∧
  (∀ w : Warp, w.park_ = { w with held := false, grant := none, overdraw := false, unready := [], gathers := [], asking := none,
                                  regrant := w.park_.regrant } ∧
    (∀ l, w.asking = some l → w.park_.regrant = some l) ∧
    (w.asking = none → ∀ l, w.grant = some l → w.park_.regrant = some l) ∧
    (w.asking = none → w.grant = none → w.park_.regrant = w.regrant)) ∧
  (∀ (s u : State) (b b' : Block) (a a' : Alloc), s.mem.wf = true → u.mem.wf = true → b'.rcd = b.rcd → a.tiles.length = a'.tiles.length →
    a'.tiles.Nodup → (∀ k ∈ a'.tiles, k < 256) → 32 * b'.stack + a'.core < 128 → a'.base + b.rcd.tmem ≤ 2 ^ 21 →
    let t := u.unsave b' a' (s.saveCore b a)
    (∀ o, o < b.rcd.tmem → t.mem.read (tmemAddr (32 * b'.stack + a'.core) a'.base + o) =
      s.mem.read (tmemAddr (32 * b.stack + a.core) a.base + o)) ∧
    (∀ (i k k' : Nat), a.tiles[i]? = some k → a'.tiles[i]? = some k' → ∀ j, j < 16384 →
      t.mem.read (accAddr (32 * b'.stack + a'.core) k' 0 0 + j) = s.mem.read (accAddr (32 * b.stack + a.core) k 0 0 + j)) ∧
    t.blocks = u.blocks)

/-- R42, R77, R357, R358: swaps and the limit of a save.  A warp whose fetch meets a stream frame that is out of residence ends its
turn, when it holds one, and its block issues no more; drained, the block is saved as it stands, that warp at the token whose bytes
were missing, as swapped out, or as saved when a command pre-empts it; it returns to its place, and to none other, whoever places it, with its warps as they were, once the frames of its copies have room
(log entry 25).  With the end of a turn a warp outside loops that may stand at a pre-emption point does (R38).  A command's save not done after 50 ms ends the context, another's request is withdrawn. -/
def Obligations.SwapsAndTimeouts : Prop :=
  (∀ (s : State) (n m : Nat) (b : Block) (w : Warp), s.block? n = some b → b.warp? m = some w → b.status = .placed →
    s.dead b.ctx = false →
    (b.draining = false → (s.fetchOut b w).isSome = true →
      ((s.pitch (coreId b w) w.pitch).holder = some (n, m) → exec (.swapOut n m) s =
        .next ((s.turnEnds (coreId b w) w.pitch).modBlock n fun x => { x with draining := true })) ∧
      ((s.pitch (coreId b w) w.pitch).holder ≠ some (n, m) → exec (.swapOut n m) s =
        .next (s.modBlock n fun x => { x with draining := true }))) ∧
    (b.draining = false → s.fetchOut b w = none → exec (.swapOut n m) s = .next s) ∧
    (b.draining = true → s.drained b = true → (∀ v ∈ b.warps, v.trap = none) →
      ∃ t b', exec (.swapOut n m) s = .next t ∧ t.block? n = some b' ∧ b'.draining = false ∧ b'.missed = true ∧ b'.allocs = [] ∧
        b'.warps = b.warps.map (fun v => (s.atToken b v).park_) ∧ t.mem = s.mem ∧
        ((∃ p fn, b.pre = some p ∧ p.by_ = .command fn) → b'.status = .saved) ∧
        ((∀ p fn, b.pre = some p → p.by_ ≠ .command fn) → b'.status = .swapped))) ∧
  (∀ (s : State) (b : Block) (w : Warp),
    (∀ pc loops, s.fetchOut b w = some (pc, loops) → s.atToken b w = { w with pc := pc, loops := loops } ∧
      ∃ line, s.needLine b w = some (line, pc, loops) ∧ s.lineOut b (s.code b w).unit line = true) ∧
    (s.fetchOut b w = none → s.atToken b w = w)) ∧
  (∀ (s : State) (n : Nat) (b : Block) (x : Spot), s.reap.block? n = some b → b.status = .swapped → s.reap.dead b.ctx = false →
    (s.reap.oldPlace b b.stack = some x →
      ∃ t b', exec (.swapIn n) s = .next t ∧ b' ∈ t.blocks ∧ b'.bid = n ∧ b'.status = .placed ∧ b'.stack = b.stack ∧
        MovedWarps b b') ∧
    (s.reap.copyRoom b b.stack = true → s.reap.oldPlace b b.stack = none →
      ∃ t, exec (.swapIn n) s = .next t ∧ t = { s.reap with out := t.out } ∧
        ∀ k, k ∈ t.out ↔ k ∈ s.reap.out ∧ ¬(k.1 = b.ctx ∧ k.2.1 = b.image ∧ k.2.2.2.1 = b.stack)) ∧
    (s.reap.copyRoom b b.stack = false → exec (.swapIn n) s = .next s.reap)) ∧
  (∀ (s : State) (b : Block) (k : Nat) (clusters : List Nat) (x : Spot), b.status = .swapped → s.stageSpot b k clusters = some x →
    x.stack = b.stack ∧ b.stack = k ∧ x.cores = b.oldCores ∧ (∀ c ∈ x.cores, c / 8 ∈ clusters) ∧
    x.seats = (b.warps.filter fun w => !w.gone).map fun w => (w.num, w.core, w.pitch)) ∧
  (∀ (s : State) (core p n m : Nat) (w : Warp), (s.pitch core p).holder = some (n, m) → s.warp? n m = some w →
    ((s.turnEnds core p).pitch core p).holder = none ∧ (s.turnEnds core p).mem = s.mem ∧
    (w.loops = [] → w.pointFree = true → w.exited = false →
      ∃ v, (s.turnEnds core p).warp? n m = some v ∧ v.atPoint = true) ∧
    (w.loops ≠ [] ∨ w.pointFree = false ∨ w.exited = true → s.turnEnds core p = s.endTurn core p)) ∧
  (∀ (s : State) (n : Nat) (b : Block) (p : PreReq) (x : Context), s.block? n = some b → b.pre = some p → b.status = .placed →
    ((s.stack? b.stack).that < p.since + 50 * 10 ^ 9 → exec (.preemptionTimeout n) s = .next s) ∧
    (p.since + 50 * 10 ^ 9 ≤ (s.stack? b.stack).that →
      ((∃ fn, p.by_ = .command fn) → s.ctx? b.ctx = some x → x.fatal = none →
        ∃ t y f, exec (.preemptionTimeout n) s = .next t ∧ t.ctx? b.ctx = some y ∧ y.fatal = some f ∧ f.code = 0x83 ∧
          f.block = b.num) ∧
      ((∀ fn, p.by_ ≠ .command fn) → exec (.preemptionTimeout n) s =
        .next (s.modBlock n fun k => { k with pre := none, warps := k.warps.map fun w => { w with held := false } }))))

/-- R215: the stage balancer.  When a stage with blocks that are not placed has its queue half full or more, and another stage's queue
has been empty at this examination and the one before, the highest-numbered placed block of the latter is asked for; otherwise an
examination only notes which queues are empty. -/
def Obligations.StagesBalanced : Prop :=
  ∀ (s : State) (c n : Nat) (y : Task), s.task? c n = some y → y.dispatched = true → y.completed = false → y.suspended = false →
    s.dead c = false →
    let u := s.modTask c n fun t =>
      { t with queues := t.queues.map fun q => { q with emptyFor := if q.head = q.tail then q.emptyFor + 1 else 0 } }
    let short := fun (a : Nat) => ∃ q, y.queues[a]? = some q ∧ (y.next.getD a 0 < (y.recs.getD a default).blocks ∨
      ∃ k ∈ s.blocks, k.ctx = c ∧ k.task = n ∧ k.stage = a ∧ k.status ≠ .placed) ∧
      2 ^ q.logCap ≤ 2 * ((q.tail + 2 ^ 32 - q.head) % 2 ^ 32)
    let mine := fun (i : Nat) (b : Block) => b ∈ s.blocks ∧ b.ctx = c ∧ b.task = n ∧ b.stage = i ∧ b.status = .placed ∧
      b.draining = false
    let idle := fun (i : Nat) => (∃ q, y.queues[i]? = some q ∧ q.head = q.tail ∧ 1 ≤ q.emptyFor) ∧ ∃ b, mine i b
    ((∀ a, ¬short a) ∨ (∀ i, ¬idle i) → exec (.stageBalancer c n) s = .next u) ∧
    (∀ a i b, short a → (∀ j, j < a → ¬short j) → idle i → (∀ j, j < i → ¬idle j) → mine i b →
      (∀ k, mine i k → k.num < b.num ∨ k = b) → a ≠ i → b.pre = none → s.block? b.bid = some b →
      ∃ t b', exec (.stageBalancer c n) s = .next t ∧ t.block? b.bid = some b' ∧
        b'.pre = some { by_ := .balancer a, since := (s.stack? b.stack).that } ∧ t.tasks = u.tasks ∧ t.mem = s.mem ∧
        ∀ k, k ≠ b.bid → t.block? k = s.block? k)

/-- R157, R211, R212, R372: completion.  A task whose blocks have all been placed and have ended completes when its context's
engines have drained of what was submitted by then, and its record waits; a task of a context with a fatal error completes with
CTX_FATAL once the context's checkpoints stand in the NV store, and until then the steps to them are taken (log entry 82, DEDUCED).  A waiting record is written when its ring has room by the
host's count, with its sequence number, and message 1 is sent. -/
def Obligations.TasksComplete : Prop :=
  (∀ (s : State) (c n : Nat) (y : Task) (x : Context),
    let r := s.reap
    let upto := y.drain.getD r.uid
    let completes := fun (status : Nat) => ∃ t z x', exec (.taskCompletion c n) s = .next t ∧ t.task? c n = some z ∧
      z.completed = true ∧ z.queues = [] ∧ t.ctx? c = some x' ∧ t.cmds = r.cmds ∧
      x'.queued = x.queued ++ [{ task := n, tag := y.tag, status := status, stamp := r.tb.latest }]
    r.task? c n = some y → r.ctx? c = some x →
    (y.completed = true → exec (.taskCompletion c n) s = .next r) ∧
    (y.completed = false → x.fatal = none →
      (y.dispatched = false ∨ r.allDone y = false → exec (.taskCompletion c n) s = .next r) ∧
      (y.dispatched = true → r.allDone y = true → r.drainedTo c upto = true → completes 0) ∧
      (y.dispatched = true → r.allDone y = true → r.drainedTo c upto = false →
        exec (.taskCompletion c n) s = .next (r.modTask c n fun t => { t with drain := some upto }))) ∧
    (y.completed = false → x.fatal.isSome = true →
      (r.fatalKept c = true → completes 11) ∧
      (r.fatalKept c = false → exec (.taskCompletion c n) s = .next (r.fatalStep c)))) ∧
  (∀ (s : State) (c : Nat) (x : Context) (k : Completion) (rest : List Completion), s.ctx? c = some x → x.queued = k :: rest →
    let host := leNat (s.mem.readBytes (x.ringAddr - 8) 8)
    let read := max x.readCnt (min host x.posted)
    (x.ringSize ≤ x.posted - read → exec (.completionRingWrite c) s = .next (s.modCtx c fun y => { y with readCnt := read })) ∧
    (x.posted - read < x.ringSize → s.mem.wf = true → ∃ t y, exec (.completionRingWrite c) s = .next t ∧ t.ctx? c = some y ∧
      y = { x with queued := rest, posted := x.posted + 1, readCnt := read } ∧ t.msix = s.msix ++ [(x.fn, 1)] ∧
      t.mem.readBytes (x.ringAddr + 32 * (x.posted % x.ringSize)) 32 =
        leBytes 8 k.task ++ leBytes 4 k.tag ++ leBytes 4 k.status ++ leBytes 8 k.stamp ++ leBytes 8 (x.posted + 1) ∧
      ∀ a, a < x.ringAddr + 32 * (x.posted % x.ringSize) ∨ x.ringAddr + 32 * (x.posted % x.ringSize) + 32 ≤ a →
        t.mem.read a = s.mem.read a))

/-- R137, R139, R162, R358, R370: where frames are.  At each period a frame begins to move only when it is resident, unpinned, of
tier G or H, and another stack has made at least 1,024 accesses to it and four times those of its own; a move that is done leaves
every byte, and the entry names the new place; one whose destination is no longer available is abandoned, and the frame stays; a frame that may go is set aside with its bytes, and comes back with them. -/
def Obligations.FramesMove : Prop :=
  (∀ (s : State), ∃ t, exec .migrationPeriod s = .next t ∧ t.access = [] ∧ t.mem = s.mem ∧
    (∀ base tile e, s.entryOf base (tile * 65536) = some e → ∃ e', t.entryOf base (tile * 65536) = some e' ∧
      e' = { e with moving := e'.moving } ∧
      (e'.moving ≠ e.moving → e.resident = true ∧ e.pins = 0 ∧ e.tier ≠ 2 ∧ e.moving = none ∧
        ∃ d n, e'.moving = some (d, n) ∧ d ≠ e.die ∧ d ∈ s.usable ∧ 1024 ≤ s.accessCount base tile d ∧
          4 * s.accessCount base tile e.die ≤ s.accessCount base tile d) ∧
      (e.resident = true → e.pins = 0 → e.tier ≠ 2 → (∃ d ∈ s.usable, d ≠ e.die ∧ 1024 ≤ s.accessCount base tile d ∧
          4 * s.accessCount base tile e.die ≤ s.accessCount base tile d ∧ (t.freeFrames e.tier d 1).isSome = true) →
        e'.moving.isSome = true))) ∧
  (∀ (s : State) (base tile : Nat) (e : TileEntry), s.entryOf base (tile * 65536) = some e →
    (e.moving = none → exec (.migrationSwitch base tile) s = .next s) ∧
    (∀ d n, e.moving = some (d, n) → s.goalStands e.tier d = false → ∃ t, exec (.migrationSwitch base tile) s = .next t ∧
      t.entryOf base (tile * 65536) = some { e with moving := none } ∧ t.mem = s.mem) ∧
    (∀ d n, e.moving = some (d, n) → s.goalStands e.tier d = true → s.mem.wf = true → ∃ t, exec (.migrationSwitch base tile) s = .next t ∧
      t.entryOf base (tile * 65536) = some { e with die := d, frame := n, moving := none } ∧
      (∀ o, o < 65536 → t.mem.read (frameAddr e.tier d n o) = s.mem.read (frameAddr e.tier e.die e.frame o)) ∧
      ∀ a, (∀ o, o < 65536 → a ≠ frameAddr e.tier d n o ∧ a ≠ frameAddr e.tier e.die e.frame o) →
        t.mem.read a = s.mem.read a)) ∧
  (∀ (s : State) (base tile : Nat) (e : TileEntry), s.entryOf base (tile * 65536) = some e →
    (s.evictable base tile = false → exec (.frameOutOfResidence (.tensor base tile)) s = .next s) ∧
    (s.evictable base tile = true → (∀ p ∈ s.paged, ¬(p.base = base ∧ p.tile = tile)) →
      ∃ t, exec (.frameOutOfResidence (.tensor base tile)) s = .next t ∧
        t.entryOf base (tile * 65536) = some { e with resident := false } ∧
        (s.mem.wf = true → ∀ f, t.freeFrames e.tier e.die 1 = some [f] → ∃ e', (t.bringIn base tile).entryOf base (tile * 65536) = some e' ∧
          e' = { e with frame := f } ∧
          ∀ o, o < 65536 → (t.bringIn base tile).mem.read (frameAddr e.tier e.die f o) =
            s.mem.read (frameAddr e.tier e.die e.frame o)))) ∧
  (∀ (s : State) (c h u k f : Nat), (s.image? c h).isSome = true → (c, h, u, k, f) ∉ s.out →
    exec (.frameOutOfResidence (.stream c h u k f)) s = .next { s with out := s.out ++ [(c, h, u, k, f)] }) ∧
  (∀ (s : State) (c h u k f : Nat), (c, h, u, k, f) ∈ s.out → exec (.frameOutOfResidence (.stream c h u k f)) s = .next s)

-- The fabric.

/-- Port `p` of a running module trains (1) or is up (2), with no packet under way. -/
def Sys2Proof.Claims.AtPort (s : State) (p state : Nat) : Prop :=
  s.running = true ∧ p < 16 ∧ p < s.ports.length ∧ (s.port p).state = state ∧ (s.port p).header = none

/-- The state after a flit has come to a port: the time of the last arrival is noted. -/
def Sys2Proof.Claims.heard (s : State) (p : Nat) : State := s.modPort p fun x => { x with lastIn := s.tb.that }

/-- A header with its data is good: its checksum holds and it is the next in sequence (R16). -/
def Sys2Proof.Claims.good (s : State) (p head : Nat) (body : List Nat) : Prop :=
  crcOk head body = true ∧ head / 2 ^ 232 % 4096 = ((s.port p).rxSeq + 1) % 4096

/-- R16: a link.  Three valid hellos in a row, with three sent, bring a port up with its credits, its sequence numbers as they were
(log entry 91, DESIGN CHOICE), and what the partner has not acknowledged leaves again, a credit each; any other hello or flit, a header, a data
flit and an ack among them, starts the count anew and has no other effect on a training port but that a flit of no kind is an error.  An idle flit has no effect; an ack returns credits and a nak has the packets after the one it names sent again; an ack with
a bad checksum (log entry 107), a flit of no kind or a data flit without a header is a link error.  Sixteen naks in a millisecond, or
nothing heard for 100 µs, put a port back into training. -/
def Obligations.LinksTrain : Prop :=
  (∀ (s : State) (p f : Nat), AtPort s p 1 → f / 2 ^ 252 % 16 = 1 →
    (helloOk f = false → ∃ t, exec (.hello p f) s = .next t ∧ (t.port p).hellosIn = 0 ∧ (t.port p).state = 1) ∧
    (helloOk f = true → (s.port p).hellosIn < 2 → ∃ t, exec (.hello p f) s = .next t ∧
      (t.port p).hellosIn = (s.port p).hellosIn + 1 ∧ (t.port p).state = 1 ∧ (t.port p).partnerDev = f / 2 ^ 112 % 2 ^ 128) ∧
    (helloOk f = true → 2 ≤ (s.port p).hellosIn → 3 ≤ (s.port p).hellosOut → s.peerReqs = [] → (s.port p).waiting = [] →
      let again := (s.port p).after (s.port p).acked
      again.length ≤ 256 → ∃ t, exec (.hello p f) s = .next t ∧ (t.port p).state = 2 ∧
        (t.port p).credits = 256 - again.length ∧ (t.port p).out = (s.port p).out ++ again.flatten ∧ (t.port p).gap = false ∧
        (t.port p).txSeq = (s.port p).txSeq ∧ (t.port p).rxSeq = (s.port p).rxSeq ∧ (t.port p).partner = f / 2 ^ 244 % 16 ∧ (t.port p).partnerDev = f / 2 ^ 112 % 2 ^ 128 ∧ t.mem = s.mem)) ∧
  (∀ (s : State) (p f : Nat), AtPort s p 1 →
    (f / 2 ^ 252 % 16 = 0 → exec (.idleFlit p f) s = .next ((heard s p).modPort p fun x => { x with hellosIn := 0 })) ∧
    (5 ≤ f / 2 ^ 252 % 16 → exec (.unassignedFlit p f) s =
      .next ((heard s p).modPort p fun x => { x with hellosIn := 0, errors := x.errors + 1 })) ∧
    (∀ i, (f / 2 ^ 252 % 16 = 3 ∧ i = .dataFlit p f) ∨ (f / 2 ^ 252 % 16 = 4 ∧ i = .ack p f) ∨
        (f / 2 ^ 252 % 16 = 2 ∧ (f / 2 ^ 248 % 16, i) ∈ ([(0, .unassignedFlit p f), (1, .peerRead p f), (2, .peerReadData p f),
          (3, .peerWrite p f), (4, .peerWriteDone p f), (5, .peerAtomic p f), (6, .peerAtomicResult p f), (7, .peerDrain p f),
          (8, .peerDrainDone p f)] : List (Nat × Instr))) →
      exec i s = .next ((heard s p).modPort p fun x => { x with hellosIn := 0 }))) ∧
  (∀ (s : State) (p f : Nat), AtPort s p 2 →
    (f / 2 ^ 252 % 16 = 0 → exec (.idleFlit p f) s = .next (heard s p)) ∧
    (f / 2 ^ 252 % 16 = 3 → exec (.dataFlit p f) s = .next ((heard s p).modPort p fun x => { x with errors := x.errors + 1 })) ∧
    (5 ≤ f / 2 ^ 252 % 16 →
      exec (.unassignedFlit p f) s = .next ((heard s p).modPort p fun x => { x with errors := x.errors + 1 })) ∧
    (f / 2 ^ 252 % 16 = 4 →
      (crcOk f [] = false → exec (.ack p f) s = .next ((heard s p).modPort p fun x => { x with errors := x.errors + 1 })) ∧
      (crcOk f [] = true → (s.port p).waiting = [] → ∃ t, exec (.ack p f) s = .next t ∧
        (t.port p).credits = (s.port p).credits + f / 2 ^ 208 % 4096 ∧ (t.port p).acked = f / 2 ^ 232 % 4096 ∧
        (t.port p).out = (s.port p).out ++
          (if f / 2 ^ 231 % 2 = 1 then ((s.port p).after (f / 2 ^ 232 % 4096)).flatten else []) ∧
        (∀ q, q ≠ p → t.port q = s.port q) ∧ t.mem = s.mem))) ∧
  (∀ (s : State) (p : Nat), p < 16 → p < s.ports.length → (s.port p).state = 2 →
    let naks := ((s.port p).nakTimes.filter fun t => decide (s.tb.that ≤ t + 10 ^ 9)).length
    (naks < 16 → s.tb.that < (s.port p).lastIn + 10 ^ 8 → exec (.portRetrain p) s = .next s) ∧
    (16 ≤ naks ∨ (s.port p).lastIn + 10 ^ 8 ≤ s.tb.that → ∃ t, exec (.portRetrain p) s = .next t ∧ (t.port p).state = 1 ∧
      (t.port p).retrains = (s.port p).retrains + 1 ∧ (∀ q, q ≠ p → t.port q = s.port q) ∧ t.mem = s.mem ∧
      t.peerReqs.map (·.tag) = s.peerReqs.map (·.tag)))

/-- R16: packets.  A header announces its data flits, and with the last of them, or at once when it announces none, a good packet
is acknowledged with one credit and performed; a bad one, a packet received before among them (log entry 91), is discarded and answered
by a nak that names the last good packet; while the gap stands a packet out of sequence is only discarded.  The flits after a header are
its data whatever their kind, and a header of more than four data flits is answered by a nak (log entry 41, DEDUCED).  An op that is not
assigned is performed as nothing and counted. -/
def Obligations.PacketsArrive : Prop :=
  ∀ (s : State) (p f : Nat),
    let took := fun (u : State) (h : Nat) => u.modPort p fun x =>
      { x with rxSeq := h / 2 ^ 232 % 4096, gap := false, out := x.out ++ [ackFlit (h / 2 ^ 232 % 4096) false 1] }
    let naked := fun (u : State) => u.modPort p fun x =>
      { x with gap := true, errors := x.errors + 1, naks := x.naks + 1, nakTimes := x.nakTimes ++ [s.tb.that],
               out := x.out ++ [ackFlit x.rxSeq true 0] }
    let n := f / 2 ^ 245 % 8
    (AtPort s p 2 → f / 2 ^ 252 % 16 = 2 → ∀ op i,
      (op, i) ∈ ([(1, .peerRead p f), (2, .peerReadData p f), (3, .peerWrite p f), (4, .peerWriteDone p f), (5, .peerAtomic p f),
                  (6, .peerAtomicResult p f), (7, .peerDrain p f), (8, .peerDrainDone p f)] : List (Nat × Instr)) →
      f / 2 ^ 248 % 16 = op →
      (1 ≤ n → n ≤ 4 → exec i s = .next ((heard s p).modPort p fun x => { x with header := some f, payload := [] })) ∧
      (n = 0 → good s p f [] → exec i s = .next ((took (heard s p) f).perform p (Head.ofFlit f) [])) ∧
      (4 < n → exec i s = .next (naked (heard s p))) ∧
      (n = 0 → ¬good s p f [] → exec i s =
        .next (if (s.port p).gap = true ∧ crcOk f [] = true then heard s p else naked (heard s p)))) ∧
    (AtPort s p 2 → f / 2 ^ 252 % 16 = 2 → f / 2 ^ 248 % 16 = 0 ∨ 9 ≤ f / 2 ^ 248 % 16 → n = 0 → good s p f [] →
      exec (.unassignedFlit p f) s = .next ((took (heard s p) f).modPort p fun x => { x with errors := x.errors + 1 })) ∧
    (s.running = true → p < 16 → p < s.ports.length → (s.port p).state = 2 → ∀ h, (s.port p).header = some h →
      let body := (s.port p).payload ++ [f % 2 ^ 256]
      let ended := (heard s p).modPort p fun x => { x with header := none, payload := [] }
      (body.length < h / 2 ^ 245 % 8 → exec (.dataFlit p f) s = .next ((heard s p).modPort p fun x => { x with payload := body })) ∧
      (body.length = h / 2 ^ 245 % 8 → good s p h body →
        exec (.dataFlit p f) s = .next ((took ended h).perform p (Head.ofFlit h) body)) ∧
      (body.length = h / 2 ^ 245 % 8 → ¬good s p h body →
        exec (.dataFlit p f) s = .next (if (s.port p).gap = true ∧ crcOk h body = true then ended else naked ended)))

/-- R160, R202: the service of a peer's request.  A table that is not exported is refused with 5, a tile or bytes outside it with 2, a
write without the right with 1, one to a stamped line with 1 too (log entry 58, DEDUCED), a frame that is not resident with 3, more than
128 bytes with 2 (log entry 107); a read brings the bytes of its home, a write stores its payload and no other byte, an atomic, whose
comparison value comes first (log entry 59, DEDUCED) and whose scope names another package (log entry 38, DEDUCED), stores its result
and brings the old value, a drain is done; each is answered on its port with its tag.  An atomic that is not assigned, as an op that is
not, is a link error (log entry 57, DEDUCED). -/
def Obligations.PeersServed : Prop :=
  (∀ (s : State) (h : Head) (n : Nat) (wr : Bool),
    (s.tensor? h.table = none → s.served h n wr = .error 5) ∧
    (∀ t, s.tensor? h.table = some t →
      (t.export_ = false ∨ t.bound = false → s.served h n wr = .error 5) ∧
      (t.export_ = true → t.bound = true →
        (t.entries.length ≤ h.tile → s.served h n wr = .error 2) ∧
        (∀ e, t.entries[h.tile]? = some e →
          (65536 < h.offset + n ∨ 128 < n → s.served h n wr = .error 2) ∧
          (h.offset + n ≤ 65536 → n ≤ 128 → wr = true → e.writable = false → s.served h n wr = .error 1) ∧
          (h.offset + n ≤ 65536 → n ≤ 128 → wr = false ∨ e.writable = true →
            (e.resident = false → s.served h n wr = .error 3) ∧
            (e.resident = true → s.served h n wr = .ok (65536 * h.tile + h.offset))))))) ∧
  (∀ (s : State) (p op : Nat) (h : Head) (body : List Nat), h.op = op →
    let n := h.count + 1
    let reply := fun (u : State) (o st : Nat) (bs : List Byte) => u.modPort p fun x =>
      x.send { (default : Head) with op := o, src := u.ownPeer, dst := h.src, tag := h.tag, count := h.count, status := st }
        (dataFlits bs)
    (op = 1 → (∀ e, s.served h n false = .error e → s.perform p h body = reply s 2 e []) ∧
      (∀ off, s.served h n false = .ok off → (∀ k, k < n → s.tensorAddr h.table off + k ∉ s.hotBytes none 0) →
        s.perform p h body = reply s 2 0 (s.mem.readBytes (s.tensorAddr h.table off) n))) ∧
    (op = 3 → (∀ e, s.served h n true = .error e → s.perform p h body = reply s 4 e []) ∧
      (∀ off, s.served h n true = .ok off → s.isStamped (s.tensorAddr h.table off) n = true → s.perform p h body = reply s 4 1 []) ∧
      (∀ off, s.served h n true = .ok off → s.isStamped (s.tensorAddr h.table off) n = false → n ≤ 32 * body.length →
        s.mem.wf = true →
        ∃ u, s.perform p h body = reply u 4 0 [] ∧ u.ports = s.ports ∧
          u.mem.readBytes (s.tensorAddr h.table off) n = (payloadBytes body).take n ∧
          ∀ a, a < s.tensorAddr h.table off ∨ s.tensorAddr h.table off + n ≤ a → u.mem.read a = s.mem.read a)) ∧
    (op = 5 → 8 < h.aop → s.perform p h body = s.modPort p fun x => { x with errors := x.errors + 1 }) ∧
    (op = 5 → ∀ o, atomOfCode h.aop = some o →
      let ty := ityOfCode h.atype
      let m := ty.width / 8
      let done := fun (off : Nat) => s.atomAt none 0 [] h.table off o ty (BitVec.ofNat 64 (leNat ((payloadBytes body).take m)))
        (BitVec.ofNat 64 (leNat (((payloadBytes body).drop m).take m))) (peerScope h) State.writeHome
      (∀ e, s.served h m true = .error e → s.perform p h body = reply s 6 e []) ∧
      (∀ off, s.served h m true = .ok off → s.isStamped (s.tensorAddr h.table off) m = true →
        s.perform p h body = reply s 6 1 []) ∧
      (∀ off e, s.served h m true = .ok off → s.isStamped (s.tensorAddr h.table off) m = false → done off = .error e →
        s.perform p h body = reply s 6 4 []) ∧
      (∀ off old new u, s.served h m true = .ok off → done off = .ok (old, new, u) → s.perform p h body = reply u 6 0 old)) ∧
    (op = 7 → s.perform p h body = reply s 8 0 []) ∧
    (op = 0 ∨ 9 ≤ op → s.perform p h body = s.modPort p fun x => { x with errors := x.errors + 1 }))

/-- R16, R202, R372, R373: the answers to this module's own requests.  An answer ends the request that bears its tag, for which one that
waits for a tag may then leave (log entry 103): done delivers a load's bytes to its lane, and an engine operation's to its image;
rights, bounds, scope and export park the lane with their cause, or are a handler's fatal error 0x81 (log entry 39); a frame not resident, or no port of the routing entry up for a
millisecond of the t-hat of its core's die (R182), ends the context, for a drain packet with the token of its word and slot M;
drain done counts towards its warp's fence.  An answer to nothing, or with a status above 5 (log entry 57, DEDUCED), has no effect. -/
def Obligations.PeersAnswer : Prop :=
  (∀ (s : State) (h : Head) (bs : List Byte), 5 < h.status ∨ s.asked h = none → s.answered h bs = s) ∧
  (∀ (s : State) (p : Nat) (h : Head) (body : List Nat), h.op = 2 ∨ h.op = 4 ∨ h.op = 6 ∨ h.op = 8 →
    s.perform p h body = s.answered h (payloadBytes body)) ∧
  (∀ (s : State) (h : Head) (bs : List Byte) (q : PeerReq), s.asked h = some q → h.status ≤ 5 →
    let u := s.dropReq q.tag
    ((∀ k ∈ s.peerReqs, k.tag < tagCount) → u = { s with peerReqs := s.peerReqs.filter fun k => k.tag != q.tag }) ∧
    (∀ b w off, q.who = .drain b w off → s.answered h bs = u.modWarp b w fun x => { x with drains := x.drains - 1 }) ∧
    (∀ id lane r a w, q.who = .lane id lane → s.reqs.find? (fun r => r.id == id) = some r →
      r.lanes.find? (fun a => a.lane == lane) = some a → s.warp? r.block r.warp = some w →
      (∀ d wd sx, h.status = 0 → r.kind = .load d wd sx → ∃ v, (s.answered h bs).warp? r.block r.warp = some v ∧
        Delivered w v d lane (loadWords wd sx (bs.take a.bytes)) ∧ LaneEnded s (s.answered h bs) id lane ∧
        SameMemory s (s.answered h bs)) ∧
      (h.status = 1 ∨ h.status = 2 ∨ h.status = 4 ∨ h.status = 5 →
        let cause := if h.status = 2 then 0x20 else if h.status = 4 then 0x30 else 0x22
        ∃ v, (s.answered h bs).warp? r.block r.warp = some v ∧ LaneEnded s (s.answered h bs) id lane ∧
          (r.handler = false → w.parked.getLsbD lane = false → lane < 32 → v.trap = w.trap ∧ v.parked.getLsbD lane = true ∧
            { lane := lane, cause := cause, slot := 7, rcd := r.rec_, offset := r.offset, c0 := a.c0, c1 := a.c1 } ∈ v.records) ∧
          (r.handler = true → w.trap = none → HandlerFails w v r a cause)) ∧
      (∀ x, h.status = 3 → s.ctx? ((s.block? r.block).getD default).ctx = some x → x.fatal = none →
        ∃ y f, (s.answered h bs).ctx? x.num = some y ∧ y.fatal = some f ∧ f.code = 0x85)) ∧
    (∀ id box off n o, q.who = .engine id box off n → s.op? id = some o →
      (box = 0 → h.status ≠ 3 → s.answered h bs = u) ∧
      (box ≠ 0 → h.status = 0 → s.answered h bs = u.modOp o.id fun k =>
        { k with image := k.image ++ (bs.take n).mapIdx fun i v => (2 ^ 64 * box + off + i, v) }) ∧
      (∀ b w x, h.status = 3 → s.block? o.block = some b → b.warp? o.warp = some w → s.ctx? b.ctx = some x → x.fatal = none →
        ∃ y f, (s.answered h bs).ctx? b.ctx = some y ∧ y.fatal = some f ∧ f.code = 0x85 ∧ f.slot = o.kind.slotNo))) ∧
  (∀ (s : State) (id : Nat) (q : PeerReq), s.peerReqs.find? (fun k => k.tag == id) = some q →
    ((s.portFor q.path.mask q.path.device).isSome = true ∨ (s.stack? (q.core / 32)).that < q.since + 10 ^ 9 → exec (.peerRouteLoss id) s = .next s) ∧
    (s.portFor q.path.mask q.path.device = none → q.since + 10 ^ 9 ≤ (s.stack? (q.core / 32)).that → (∀ k ∈ s.peerReqs, k.tag < tagCount) →
      (∀ n m off b w x, q.who = .drain n m off → s.block? n = some b → b.warp? m = some w → s.ctx? b.ctx = some x → x.fatal = none →
        ∃ t y f, exec (.peerRouteLoss id) s = .next t ∧ (∀ k ∈ t.peerReqs, k.tag ≠ id) ∧ t.ctx? b.ctx = some y ∧
          y.fatal = some f ∧ f.code = 0x87 ∧ f.slot = 7 ∧ f.offset = off ∧ f.warp = m ∧ t.mem = s.mem) ∧
      (∀ op box off n o b w x, q.who = .engine op box off n →
        s.op? op = some o → s.block? o.block = some b → b.warp? o.warp = some w → s.ctx? b.ctx = some x → x.fatal = none →
        ∃ t y f, exec (.peerRouteLoss id) s = .next t ∧ (∀ k ∈ t.peerReqs, k.tag ≠ id) ∧ t.ctx? b.ctx = some y ∧
          y.fatal = some f ∧ f.code = 0x87 ∧ f.slot = o.kind.slotNo)))
end

