-- ==== Sys2Proof/Laws/State.lean ====
section
/-! SUPPORT. One lemma per field per update of the state: what an update leaves alone. -/

namespace Sys2Proof.Machine

variable (s : State)

@[simp] theorem State.modBlock_agenda (n : Nat) (f : Block → Block) : (s.modBlock n f).agenda = s.agenda := rfl
@[simp] theorem State.modBlock_issue (n : Nat) (f : Block → Block) : (s.modBlock n f).issue = s.issue := rfl
@[simp] theorem State.modBlock_sel (n : Nat) (f : Block → Block) : (s.modBlock n f).sel = s.sel := rfl
@[simp] theorem State.modBlock_freeCtr (n : Nat) (f : Block → Block) : (s.modBlock n f).freeCtr = s.freeCtr := rfl
@[simp] theorem State.modBlock_uid (n : Nat) (f : Block → Block) : (s.modBlock n f).uid = s.uid := rfl
@[simp] theorem State.modBlock_mem (n : Nat) (f : Block → Block) : (s.modBlock n f).mem = s.mem := rfl
@[simp] theorem State.modBlock_empty (n : Nat) (f : Block → Block) : (s.modBlock n f).empty = s.empty := rfl
@[simp] theorem State.modBlock_tags (n : Nat) (f : Block → Block) : (s.modBlock n f).tags = s.tags := rfl
@[simp] theorem State.modBlock_stamped (n : Nat) (f : Block → Block) : (s.modBlock n f).stamped = s.stamped := rfl
@[simp] theorem State.modBlock_l1 (n : Nat) (f : Block → Block) : (s.modBlock n f).l1 = s.l1 := rfl
@[simp] theorem State.modBlock_busy (n : Nat) (f : Block → Block) : (s.modBlock n f).busy = s.busy := rfl
@[simp] theorem State.modBlock_pitches (n : Nat) (f : Block → Block) : (s.modBlock n f).pitches = s.pitches := rfl
@[simp] theorem State.modBlock_clusters (n : Nat) (f : Block → Block) : (s.modBlock n f).clusters = s.clusters := rfl
@[simp] theorem State.modBlock_stks (n : Nat) (f : Block → Block) : (s.modBlock n f).stks = s.stks := rfl
@[simp] theorem State.modBlock_hbms (n : Nat) (f : Block → Block) : (s.modBlock n f).hbms = s.hbms := rfl
@[simp] theorem State.modBlock_lastAcc (n : Nat) (f : Block → Block) : (s.modBlock n f).lastAcc = s.lastAcc := rfl
@[simp] theorem State.modBlock_decoded (n : Nat) (f : Block → Block) : (s.modBlock n f).decoded = s.decoded := rfl
@[simp] theorem State.modBlock_misses (n : Nat) (f : Block → Block) : (s.modBlock n f).misses = s.misses := rfl
@[simp] theorem State.modBlock_lines (n : Nat) (f : Block → Block) : (s.modBlock n f).lines = s.lines := rfl
@[simp] theorem State.modBlock_hints (n : Nat) (f : Block → Block) : (s.modBlock n f).hints = s.hints := rfl
@[simp] theorem State.modBlock_reqs (n : Nat) (f : Block → Block) : (s.modBlock n f).reqs = s.reqs := rfl
@[simp] theorem State.modBlock_ops (n : Nat) (f : Block → Block) : (s.modBlock n f).ops = s.ops := rfl
@[simp] theorem State.modBlock_commits (n : Nat) (f : Block → Block) : (s.modBlock n f).commits = s.commits := rfl
@[simp] theorem State.modBlock_tasks (n : Nat) (f : Block → Block) : (s.modBlock n f).tasks = s.tasks := rfl
@[simp] theorem State.modBlock_contexts (n : Nat) (f : Block → Block) : (s.modBlock n f).contexts = s.contexts := rfl
@[simp] theorem State.modBlock_images (n : Nat) (f : Block → Block) : (s.modBlock n f).images = s.images := rfl
@[simp] theorem State.modBlock_tensors (n : Nat) (f : Block → Block) : (s.modBlock n f).tensors = s.tensors := rfl
@[simp] theorem State.modBlock_paged (n : Nat) (f : Block → Block) : (s.modBlock n f).paged = s.paged := rfl
@[simp] theorem State.modBlock_access (n : Nat) (f : Block → Block) : (s.modBlock n f).access = s.access := rfl
@[simp] theorem State.modBlock_lastCtx (n : Nat) (f : Block → Block) : (s.modBlock n f).lastCtx = s.lastCtx := rfl
@[simp] theorem State.modBlock_out (n : Nat) (f : Block → Block) : (s.modBlock n f).out = s.out := rfl
@[simp] theorem State.modBlock_part (n : Nat) (f : Block → Block) : (s.modBlock n f).part = s.part := rfl
@[simp] theorem State.modBlock_tb (n : Nat) (f : Block → Block) : (s.modBlock n f).tb = s.tb := rfl
@[simp] theorem State.modBlock_rainfly (n : Nat) (f : Block → Block) : (s.modBlock n f).rainfly = s.rainfly := rfl
@[simp] theorem State.modBlock_cmds (n : Nat) (f : Block → Block) : (s.modBlock n f).cmds = s.cmds := rfl
@[simp] theorem State.modBlock_returned (n : Nat) (f : Block → Block) : (s.modBlock n f).returned = s.returned := rfl
@[simp] theorem State.modBlock_msix (n : Nat) (f : Block → Block) : (s.modBlock n f).msix = s.msix := rfl
@[simp] theorem State.modBlock_lantern (n : Nat) (f : Block → Block) : (s.modBlock n f).lantern = s.lantern := rfl
@[simp] theorem State.modBlock_ports (n : Nat) (f : Block → Block) : (s.modBlock n f).ports = s.ports := rfl
@[simp] theorem State.modBlock_routes (n : Nat) (f : Block → Block) : (s.modBlock n f).routes = s.routes := rfl
@[simp] theorem State.modBlock_ownPeer (n : Nat) (f : Block → Block) : (s.modBlock n f).ownPeer = s.ownPeer := rfl
@[simp] theorem State.modBlock_peerReqs (n : Nat) (f : Block → Block) : (s.modBlock n f).peerReqs = s.peerReqs := rfl
@[simp] theorem State.modBlock_usedPorts (n : Nat) (f : Block → Block) : (s.modBlock n f).usedPorts = s.usedPorts := rfl
@[simp] theorem State.modBlock_running (n : Nat) (f : Block → Block) : (s.modBlock n f).running = s.running := rfl

@[simp] theorem State.modWarp_agenda (n k : Nat) (f : Warp → Warp) : (s.modWarp n k f).agenda = s.agenda := rfl
@[simp] theorem State.modWarp_issue (n k : Nat) (f : Warp → Warp) : (s.modWarp n k f).issue = s.issue := rfl
@[simp] theorem State.modWarp_sel (n k : Nat) (f : Warp → Warp) : (s.modWarp n k f).sel = s.sel := rfl
@[simp] theorem State.modWarp_freeCtr (n k : Nat) (f : Warp → Warp) : (s.modWarp n k f).freeCtr = s.freeCtr := rfl
@[simp] theorem State.modWarp_uid (n k : Nat) (f : Warp → Warp) : (s.modWarp n k f).uid = s.uid := rfl
@[simp] theorem State.modWarp_mem (n k : Nat) (f : Warp → Warp) : (s.modWarp n k f).mem = s.mem := rfl
@[simp] theorem State.modWarp_empty (n k : Nat) (f : Warp → Warp) : (s.modWarp n k f).empty = s.empty := rfl
@[simp] theorem State.modWarp_tags (n k : Nat) (f : Warp → Warp) : (s.modWarp n k f).tags = s.tags := rfl
@[simp] theorem State.modWarp_stamped (n k : Nat) (f : Warp → Warp) : (s.modWarp n k f).stamped = s.stamped := rfl
@[simp] theorem State.modWarp_l1 (n k : Nat) (f : Warp → Warp) : (s.modWarp n k f).l1 = s.l1 := rfl
@[simp] theorem State.modWarp_busy (n k : Nat) (f : Warp → Warp) : (s.modWarp n k f).busy = s.busy := rfl
@[simp] theorem State.modWarp_pitches (n k : Nat) (f : Warp → Warp) : (s.modWarp n k f).pitches = s.pitches := rfl
@[simp] theorem State.modWarp_clusters (n k : Nat) (f : Warp → Warp) : (s.modWarp n k f).clusters = s.clusters := rfl
@[simp] theorem State.modWarp_stks (n k : Nat) (f : Warp → Warp) : (s.modWarp n k f).stks = s.stks := rfl
@[simp] theorem State.modWarp_hbms (n k : Nat) (f : Warp → Warp) : (s.modWarp n k f).hbms = s.hbms := rfl
@[simp] theorem State.modWarp_lastAcc (n k : Nat) (f : Warp → Warp) : (s.modWarp n k f).lastAcc = s.lastAcc := rfl
@[simp] theorem State.modWarp_decoded (n k : Nat) (f : Warp → Warp) : (s.modWarp n k f).decoded = s.decoded := rfl
@[simp] theorem State.modWarp_misses (n k : Nat) (f : Warp → Warp) : (s.modWarp n k f).misses = s.misses := rfl
@[simp] theorem State.modWarp_lines (n k : Nat) (f : Warp → Warp) : (s.modWarp n k f).lines = s.lines := rfl
@[simp] theorem State.modWarp_hints (n k : Nat) (f : Warp → Warp) : (s.modWarp n k f).hints = s.hints := rfl
@[simp] theorem State.modWarp_reqs (n k : Nat) (f : Warp → Warp) : (s.modWarp n k f).reqs = s.reqs := rfl
@[simp] theorem State.modWarp_ops (n k : Nat) (f : Warp → Warp) : (s.modWarp n k f).ops = s.ops := rfl
@[simp] theorem State.modWarp_commits (n k : Nat) (f : Warp → Warp) : (s.modWarp n k f).commits = s.commits := rfl
@[simp] theorem State.modWarp_tasks (n k : Nat) (f : Warp → Warp) : (s.modWarp n k f).tasks = s.tasks := rfl
@[simp] theorem State.modWarp_contexts (n k : Nat) (f : Warp → Warp) : (s.modWarp n k f).contexts = s.contexts := rfl
@[simp] theorem State.modWarp_images (n k : Nat) (f : Warp → Warp) : (s.modWarp n k f).images = s.images := rfl
@[simp] theorem State.modWarp_tensors (n k : Nat) (f : Warp → Warp) : (s.modWarp n k f).tensors = s.tensors := rfl
@[simp] theorem State.modWarp_paged (n k : Nat) (f : Warp → Warp) : (s.modWarp n k f).paged = s.paged := rfl
@[simp] theorem State.modWarp_access (n k : Nat) (f : Warp → Warp) : (s.modWarp n k f).access = s.access := rfl
@[simp] theorem State.modWarp_lastCtx (n k : Nat) (f : Warp → Warp) : (s.modWarp n k f).lastCtx = s.lastCtx := rfl
@[simp] theorem State.modWarp_out (n k : Nat) (f : Warp → Warp) : (s.modWarp n k f).out = s.out := rfl
@[simp] theorem State.modWarp_part (n k : Nat) (f : Warp → Warp) : (s.modWarp n k f).part = s.part := rfl
@[simp] theorem State.modWarp_tb (n k : Nat) (f : Warp → Warp) : (s.modWarp n k f).tb = s.tb := rfl
@[simp] theorem State.modWarp_rainfly (n k : Nat) (f : Warp → Warp) : (s.modWarp n k f).rainfly = s.rainfly := rfl
@[simp] theorem State.modWarp_cmds (n k : Nat) (f : Warp → Warp) : (s.modWarp n k f).cmds = s.cmds := rfl
@[simp] theorem State.modWarp_returned (n k : Nat) (f : Warp → Warp) : (s.modWarp n k f).returned = s.returned := rfl
@[simp] theorem State.modWarp_msix (n k : Nat) (f : Warp → Warp) : (s.modWarp n k f).msix = s.msix := rfl
@[simp] theorem State.modWarp_lantern (n k : Nat) (f : Warp → Warp) : (s.modWarp n k f).lantern = s.lantern := rfl
@[simp] theorem State.modWarp_ports (n k : Nat) (f : Warp → Warp) : (s.modWarp n k f).ports = s.ports := rfl
@[simp] theorem State.modWarp_routes (n k : Nat) (f : Warp → Warp) : (s.modWarp n k f).routes = s.routes := rfl
@[simp] theorem State.modWarp_ownPeer (n k : Nat) (f : Warp → Warp) : (s.modWarp n k f).ownPeer = s.ownPeer := rfl
@[simp] theorem State.modWarp_peerReqs (n k : Nat) (f : Warp → Warp) : (s.modWarp n k f).peerReqs = s.peerReqs := rfl
@[simp] theorem State.modWarp_usedPorts (n k : Nat) (f : Warp → Warp) : (s.modWarp n k f).usedPorts = s.usedPorts := rfl
@[simp] theorem State.modWarp_running (n k : Nat) (f : Warp → Warp) : (s.modWarp n k f).running = s.running := rfl

@[simp] theorem State.setBlock_agenda (b : Block) : (s.setBlock b).agenda = s.agenda := rfl
@[simp] theorem State.setBlock_issue (b : Block) : (s.setBlock b).issue = s.issue := rfl
@[simp] theorem State.setBlock_sel (b : Block) : (s.setBlock b).sel = s.sel := rfl
@[simp] theorem State.setBlock_freeCtr (b : Block) : (s.setBlock b).freeCtr = s.freeCtr := rfl
@[simp] theorem State.setBlock_uid (b : Block) : (s.setBlock b).uid = s.uid := rfl
@[simp] theorem State.setBlock_mem (b : Block) : (s.setBlock b).mem = s.mem := rfl
@[simp] theorem State.setBlock_empty (b : Block) : (s.setBlock b).empty = s.empty := rfl
@[simp] theorem State.setBlock_tags (b : Block) : (s.setBlock b).tags = s.tags := rfl
@[simp] theorem State.setBlock_stamped (b : Block) : (s.setBlock b).stamped = s.stamped := rfl
@[simp] theorem State.setBlock_l1 (b : Block) : (s.setBlock b).l1 = s.l1 := rfl
@[simp] theorem State.setBlock_busy (b : Block) : (s.setBlock b).busy = s.busy := rfl
@[simp] theorem State.setBlock_pitches (b : Block) : (s.setBlock b).pitches = s.pitches := rfl
@[simp] theorem State.setBlock_clusters (b : Block) : (s.setBlock b).clusters = s.clusters := rfl
@[simp] theorem State.setBlock_stks (b : Block) : (s.setBlock b).stks = s.stks := rfl
@[simp] theorem State.setBlock_hbms (b : Block) : (s.setBlock b).hbms = s.hbms := rfl
@[simp] theorem State.setBlock_lastAcc (b : Block) : (s.setBlock b).lastAcc = s.lastAcc := rfl
@[simp] theorem State.setBlock_decoded (b : Block) : (s.setBlock b).decoded = s.decoded := rfl
@[simp] theorem State.setBlock_misses (b : Block) : (s.setBlock b).misses = s.misses := rfl
@[simp] theorem State.setBlock_lines (b : Block) : (s.setBlock b).lines = s.lines := rfl
@[simp] theorem State.setBlock_hints (b : Block) : (s.setBlock b).hints = s.hints := rfl
@[simp] theorem State.setBlock_reqs (b : Block) : (s.setBlock b).reqs = s.reqs := rfl
@[simp] theorem State.setBlock_ops (b : Block) : (s.setBlock b).ops = s.ops := rfl
@[simp] theorem State.setBlock_commits (b : Block) : (s.setBlock b).commits = s.commits := rfl
@[simp] theorem State.setBlock_tasks (b : Block) : (s.setBlock b).tasks = s.tasks := rfl
@[simp] theorem State.setBlock_contexts (b : Block) : (s.setBlock b).contexts = s.contexts := rfl
@[simp] theorem State.setBlock_images (b : Block) : (s.setBlock b).images = s.images := rfl
@[simp] theorem State.setBlock_tensors (b : Block) : (s.setBlock b).tensors = s.tensors := rfl
@[simp] theorem State.setBlock_paged (b : Block) : (s.setBlock b).paged = s.paged := rfl
@[simp] theorem State.setBlock_access (b : Block) : (s.setBlock b).access = s.access := rfl
@[simp] theorem State.setBlock_lastCtx (b : Block) : (s.setBlock b).lastCtx = s.lastCtx := rfl
@[simp] theorem State.setBlock_out (b : Block) : (s.setBlock b).out = s.out := rfl
@[simp] theorem State.setBlock_part (b : Block) : (s.setBlock b).part = s.part := rfl
@[simp] theorem State.setBlock_tb (b : Block) : (s.setBlock b).tb = s.tb := rfl
@[simp] theorem State.setBlock_rainfly (b : Block) : (s.setBlock b).rainfly = s.rainfly := rfl
@[simp] theorem State.setBlock_cmds (b : Block) : (s.setBlock b).cmds = s.cmds := rfl
@[simp] theorem State.setBlock_returned (b : Block) : (s.setBlock b).returned = s.returned := rfl
@[simp] theorem State.setBlock_msix (b : Block) : (s.setBlock b).msix = s.msix := rfl
@[simp] theorem State.setBlock_lantern (b : Block) : (s.setBlock b).lantern = s.lantern := rfl
@[simp] theorem State.setBlock_ports (b : Block) : (s.setBlock b).ports = s.ports := rfl
@[simp] theorem State.setBlock_routes (b : Block) : (s.setBlock b).routes = s.routes := rfl
@[simp] theorem State.setBlock_ownPeer (b : Block) : (s.setBlock b).ownPeer = s.ownPeer := rfl
@[simp] theorem State.setBlock_peerReqs (b : Block) : (s.setBlock b).peerReqs = s.peerReqs := rfl
@[simp] theorem State.setBlock_usedPorts (b : Block) : (s.setBlock b).usedPorts = s.usedPorts := rfl
@[simp] theorem State.setBlock_running (b : Block) : (s.setBlock b).running = s.running := rfl

@[simp] theorem State.modCtx_agenda (n : Nat) (f : Context → Context) : (s.modCtx n f).agenda = s.agenda := rfl
@[simp] theorem State.modCtx_issue (n : Nat) (f : Context → Context) : (s.modCtx n f).issue = s.issue := rfl
@[simp] theorem State.modCtx_sel (n : Nat) (f : Context → Context) : (s.modCtx n f).sel = s.sel := rfl
@[simp] theorem State.modCtx_freeCtr (n : Nat) (f : Context → Context) : (s.modCtx n f).freeCtr = s.freeCtr := rfl
@[simp] theorem State.modCtx_uid (n : Nat) (f : Context → Context) : (s.modCtx n f).uid = s.uid := rfl
@[simp] theorem State.modCtx_mem (n : Nat) (f : Context → Context) : (s.modCtx n f).mem = s.mem := rfl
@[simp] theorem State.modCtx_empty (n : Nat) (f : Context → Context) : (s.modCtx n f).empty = s.empty := rfl
@[simp] theorem State.modCtx_tags (n : Nat) (f : Context → Context) : (s.modCtx n f).tags = s.tags := rfl
@[simp] theorem State.modCtx_stamped (n : Nat) (f : Context → Context) : (s.modCtx n f).stamped = s.stamped := rfl
@[simp] theorem State.modCtx_l1 (n : Nat) (f : Context → Context) : (s.modCtx n f).l1 = s.l1 := rfl
@[simp] theorem State.modCtx_busy (n : Nat) (f : Context → Context) : (s.modCtx n f).busy = s.busy := rfl
@[simp] theorem State.modCtx_pitches (n : Nat) (f : Context → Context) : (s.modCtx n f).pitches = s.pitches := rfl
@[simp] theorem State.modCtx_clusters (n : Nat) (f : Context → Context) : (s.modCtx n f).clusters = s.clusters := rfl
@[simp] theorem State.modCtx_stks (n : Nat) (f : Context → Context) : (s.modCtx n f).stks = s.stks := rfl
@[simp] theorem State.modCtx_hbms (n : Nat) (f : Context → Context) : (s.modCtx n f).hbms = s.hbms := rfl
@[simp] theorem State.modCtx_lastAcc (n : Nat) (f : Context → Context) : (s.modCtx n f).lastAcc = s.lastAcc := rfl
@[simp] theorem State.modCtx_decoded (n : Nat) (f : Context → Context) : (s.modCtx n f).decoded = s.decoded := rfl
@[simp] theorem State.modCtx_misses (n : Nat) (f : Context → Context) : (s.modCtx n f).misses = s.misses := rfl
@[simp] theorem State.modCtx_lines (n : Nat) (f : Context → Context) : (s.modCtx n f).lines = s.lines := rfl
@[simp] theorem State.modCtx_hints (n : Nat) (f : Context → Context) : (s.modCtx n f).hints = s.hints := rfl
@[simp] theorem State.modCtx_blocks (n : Nat) (f : Context → Context) : (s.modCtx n f).blocks = s.blocks := rfl
@[simp] theorem State.modCtx_reqs (n : Nat) (f : Context → Context) : (s.modCtx n f).reqs = s.reqs := rfl
@[simp] theorem State.modCtx_ops (n : Nat) (f : Context → Context) : (s.modCtx n f).ops = s.ops := rfl
@[simp] theorem State.modCtx_commits (n : Nat) (f : Context → Context) : (s.modCtx n f).commits = s.commits := rfl
@[simp] theorem State.modCtx_tasks (n : Nat) (f : Context → Context) : (s.modCtx n f).tasks = s.tasks := rfl
@[simp] theorem State.modCtx_images (n : Nat) (f : Context → Context) : (s.modCtx n f).images = s.images := rfl
@[simp] theorem State.modCtx_tensors (n : Nat) (f : Context → Context) : (s.modCtx n f).tensors = s.tensors := rfl
@[simp] theorem State.modCtx_paged (n : Nat) (f : Context → Context) : (s.modCtx n f).paged = s.paged := rfl
@[simp] theorem State.modCtx_access (n : Nat) (f : Context → Context) : (s.modCtx n f).access = s.access := rfl
@[simp] theorem State.modCtx_lastCtx (n : Nat) (f : Context → Context) : (s.modCtx n f).lastCtx = s.lastCtx := rfl
@[simp] theorem State.modCtx_out (n : Nat) (f : Context → Context) : (s.modCtx n f).out = s.out := rfl
@[simp] theorem State.modCtx_part (n : Nat) (f : Context → Context) : (s.modCtx n f).part = s.part := rfl
@[simp] theorem State.modCtx_tb (n : Nat) (f : Context → Context) : (s.modCtx n f).tb = s.tb := rfl
@[simp] theorem State.modCtx_rainfly (n : Nat) (f : Context → Context) : (s.modCtx n f).rainfly = s.rainfly := rfl
@[simp] theorem State.modCtx_cmds (n : Nat) (f : Context → Context) : (s.modCtx n f).cmds = s.cmds := rfl
@[simp] theorem State.modCtx_returned (n : Nat) (f : Context → Context) : (s.modCtx n f).returned = s.returned := rfl
@[simp] theorem State.modCtx_msix (n : Nat) (f : Context → Context) : (s.modCtx n f).msix = s.msix := rfl
@[simp] theorem State.modCtx_lantern (n : Nat) (f : Context → Context) : (s.modCtx n f).lantern = s.lantern := rfl
@[simp] theorem State.modCtx_ports (n : Nat) (f : Context → Context) : (s.modCtx n f).ports = s.ports := rfl
@[simp] theorem State.modCtx_routes (n : Nat) (f : Context → Context) : (s.modCtx n f).routes = s.routes := rfl
@[simp] theorem State.modCtx_ownPeer (n : Nat) (f : Context → Context) : (s.modCtx n f).ownPeer = s.ownPeer := rfl
@[simp] theorem State.modCtx_peerReqs (n : Nat) (f : Context → Context) : (s.modCtx n f).peerReqs = s.peerReqs := rfl
@[simp] theorem State.modCtx_usedPorts (n : Nat) (f : Context → Context) : (s.modCtx n f).usedPorts = s.usedPorts := rfl
@[simp] theorem State.modCtx_running (n : Nat) (f : Context → Context) : (s.modCtx n f).running = s.running := rfl

@[simp] theorem State.modTask_agenda (n k : Nat) (f : Task → Task) : (s.modTask n k f).agenda = s.agenda := rfl
@[simp] theorem State.modTask_issue (n k : Nat) (f : Task → Task) : (s.modTask n k f).issue = s.issue := rfl
@[simp] theorem State.modTask_sel (n k : Nat) (f : Task → Task) : (s.modTask n k f).sel = s.sel := rfl
@[simp] theorem State.modTask_freeCtr (n k : Nat) (f : Task → Task) : (s.modTask n k f).freeCtr = s.freeCtr := rfl
@[simp] theorem State.modTask_uid (n k : Nat) (f : Task → Task) : (s.modTask n k f).uid = s.uid := rfl
@[simp] theorem State.modTask_mem (n k : Nat) (f : Task → Task) : (s.modTask n k f).mem = s.mem := rfl
@[simp] theorem State.modTask_empty (n k : Nat) (f : Task → Task) : (s.modTask n k f).empty = s.empty := rfl
@[simp] theorem State.modTask_tags (n k : Nat) (f : Task → Task) : (s.modTask n k f).tags = s.tags := rfl
@[simp] theorem State.modTask_stamped (n k : Nat) (f : Task → Task) : (s.modTask n k f).stamped = s.stamped := rfl
@[simp] theorem State.modTask_l1 (n k : Nat) (f : Task → Task) : (s.modTask n k f).l1 = s.l1 := rfl
@[simp] theorem State.modTask_busy (n k : Nat) (f : Task → Task) : (s.modTask n k f).busy = s.busy := rfl
@[simp] theorem State.modTask_pitches (n k : Nat) (f : Task → Task) : (s.modTask n k f).pitches = s.pitches := rfl
@[simp] theorem State.modTask_clusters (n k : Nat) (f : Task → Task) : (s.modTask n k f).clusters = s.clusters := rfl
@[simp] theorem State.modTask_stks (n k : Nat) (f : Task → Task) : (s.modTask n k f).stks = s.stks := rfl
@[simp] theorem State.modTask_hbms (n k : Nat) (f : Task → Task) : (s.modTask n k f).hbms = s.hbms := rfl
@[simp] theorem State.modTask_lastAcc (n k : Nat) (f : Task → Task) : (s.modTask n k f).lastAcc = s.lastAcc := rfl
@[simp] theorem State.modTask_decoded (n k : Nat) (f : Task → Task) : (s.modTask n k f).decoded = s.decoded := rfl
@[simp] theorem State.modTask_misses (n k : Nat) (f : Task → Task) : (s.modTask n k f).misses = s.misses := rfl
@[simp] theorem State.modTask_lines (n k : Nat) (f : Task → Task) : (s.modTask n k f).lines = s.lines := rfl
@[simp] theorem State.modTask_hints (n k : Nat) (f : Task → Task) : (s.modTask n k f).hints = s.hints := rfl
@[simp] theorem State.modTask_blocks (n k : Nat) (f : Task → Task) : (s.modTask n k f).blocks = s.blocks := rfl
@[simp] theorem State.modTask_reqs (n k : Nat) (f : Task → Task) : (s.modTask n k f).reqs = s.reqs := rfl
@[simp] theorem State.modTask_ops (n k : Nat) (f : Task → Task) : (s.modTask n k f).ops = s.ops := rfl
@[simp] theorem State.modTask_commits (n k : Nat) (f : Task → Task) : (s.modTask n k f).commits = s.commits := rfl
@[simp] theorem State.modTask_contexts (n k : Nat) (f : Task → Task) : (s.modTask n k f).contexts = s.contexts := rfl
@[simp] theorem State.modTask_images (n k : Nat) (f : Task → Task) : (s.modTask n k f).images = s.images := rfl
@[simp] theorem State.modTask_tensors (n k : Nat) (f : Task → Task) : (s.modTask n k f).tensors = s.tensors := rfl
@[simp] theorem State.modTask_paged (n k : Nat) (f : Task → Task) : (s.modTask n k f).paged = s.paged := rfl
@[simp] theorem State.modTask_access (n k : Nat) (f : Task → Task) : (s.modTask n k f).access = s.access := rfl
@[simp] theorem State.modTask_lastCtx (n k : Nat) (f : Task → Task) : (s.modTask n k f).lastCtx = s.lastCtx := rfl
@[simp] theorem State.modTask_out (n k : Nat) (f : Task → Task) : (s.modTask n k f).out = s.out := rfl
@[simp] theorem State.modTask_part (n k : Nat) (f : Task → Task) : (s.modTask n k f).part = s.part := rfl
@[simp] theorem State.modTask_tb (n k : Nat) (f : Task → Task) : (s.modTask n k f).tb = s.tb := rfl
@[simp] theorem State.modTask_rainfly (n k : Nat) (f : Task → Task) : (s.modTask n k f).rainfly = s.rainfly := rfl
@[simp] theorem State.modTask_cmds (n k : Nat) (f : Task → Task) : (s.modTask n k f).cmds = s.cmds := rfl
@[simp] theorem State.modTask_returned (n k : Nat) (f : Task → Task) : (s.modTask n k f).returned = s.returned := rfl
@[simp] theorem State.modTask_msix (n k : Nat) (f : Task → Task) : (s.modTask n k f).msix = s.msix := rfl
@[simp] theorem State.modTask_lantern (n k : Nat) (f : Task → Task) : (s.modTask n k f).lantern = s.lantern := rfl
@[simp] theorem State.modTask_ports (n k : Nat) (f : Task → Task) : (s.modTask n k f).ports = s.ports := rfl
@[simp] theorem State.modTask_routes (n k : Nat) (f : Task → Task) : (s.modTask n k f).routes = s.routes := rfl
@[simp] theorem State.modTask_ownPeer (n k : Nat) (f : Task → Task) : (s.modTask n k f).ownPeer = s.ownPeer := rfl
@[simp] theorem State.modTask_peerReqs (n k : Nat) (f : Task → Task) : (s.modTask n k f).peerReqs = s.peerReqs := rfl
@[simp] theorem State.modTask_usedPorts (n k : Nat) (f : Task → Task) : (s.modTask n k f).usedPorts = s.usedPorts := rfl
@[simp] theorem State.modTask_running (n k : Nat) (f : Task → Task) : (s.modTask n k f).running = s.running := rfl

@[simp] theorem State.modTensor_agenda (n : Nat) (f : Tensor → Tensor) : (s.modTensor n f).agenda = s.agenda := rfl
@[simp] theorem State.modTensor_issue (n : Nat) (f : Tensor → Tensor) : (s.modTensor n f).issue = s.issue := rfl
@[simp] theorem State.modTensor_sel (n : Nat) (f : Tensor → Tensor) : (s.modTensor n f).sel = s.sel := rfl
@[simp] theorem State.modTensor_freeCtr (n : Nat) (f : Tensor → Tensor) : (s.modTensor n f).freeCtr = s.freeCtr := rfl
@[simp] theorem State.modTensor_uid (n : Nat) (f : Tensor → Tensor) : (s.modTensor n f).uid = s.uid := rfl
@[simp] theorem State.modTensor_mem (n : Nat) (f : Tensor → Tensor) : (s.modTensor n f).mem = s.mem := rfl
@[simp] theorem State.modTensor_empty (n : Nat) (f : Tensor → Tensor) : (s.modTensor n f).empty = s.empty := rfl
@[simp] theorem State.modTensor_tags (n : Nat) (f : Tensor → Tensor) : (s.modTensor n f).tags = s.tags := rfl
@[simp] theorem State.modTensor_stamped (n : Nat) (f : Tensor → Tensor) : (s.modTensor n f).stamped = s.stamped := rfl
@[simp] theorem State.modTensor_l1 (n : Nat) (f : Tensor → Tensor) : (s.modTensor n f).l1 = s.l1 := rfl
@[simp] theorem State.modTensor_busy (n : Nat) (f : Tensor → Tensor) : (s.modTensor n f).busy = s.busy := rfl
@[simp] theorem State.modTensor_pitches (n : Nat) (f : Tensor → Tensor) : (s.modTensor n f).pitches = s.pitches := rfl
@[simp] theorem State.modTensor_clusters (n : Nat) (f : Tensor → Tensor) : (s.modTensor n f).clusters = s.clusters := rfl
@[simp] theorem State.modTensor_stks (n : Nat) (f : Tensor → Tensor) : (s.modTensor n f).stks = s.stks := rfl
@[simp] theorem State.modTensor_hbms (n : Nat) (f : Tensor → Tensor) : (s.modTensor n f).hbms = s.hbms := rfl
@[simp] theorem State.modTensor_lastAcc (n : Nat) (f : Tensor → Tensor) : (s.modTensor n f).lastAcc = s.lastAcc := rfl
@[simp] theorem State.modTensor_decoded (n : Nat) (f : Tensor → Tensor) : (s.modTensor n f).decoded = s.decoded := rfl
@[simp] theorem State.modTensor_misses (n : Nat) (f : Tensor → Tensor) : (s.modTensor n f).misses = s.misses := rfl
@[simp] theorem State.modTensor_lines (n : Nat) (f : Tensor → Tensor) : (s.modTensor n f).lines = s.lines := rfl
@[simp] theorem State.modTensor_hints (n : Nat) (f : Tensor → Tensor) : (s.modTensor n f).hints = s.hints := rfl
@[simp] theorem State.modTensor_blocks (n : Nat) (f : Tensor → Tensor) : (s.modTensor n f).blocks = s.blocks := rfl
@[simp] theorem State.modTensor_reqs (n : Nat) (f : Tensor → Tensor) : (s.modTensor n f).reqs = s.reqs := rfl
@[simp] theorem State.modTensor_ops (n : Nat) (f : Tensor → Tensor) : (s.modTensor n f).ops = s.ops := rfl
@[simp] theorem State.modTensor_commits (n : Nat) (f : Tensor → Tensor) : (s.modTensor n f).commits = s.commits := rfl
@[simp] theorem State.modTensor_tasks (n : Nat) (f : Tensor → Tensor) : (s.modTensor n f).tasks = s.tasks := rfl
@[simp] theorem State.modTensor_contexts (n : Nat) (f : Tensor → Tensor) : (s.modTensor n f).contexts = s.contexts := rfl
@[simp] theorem State.modTensor_images (n : Nat) (f : Tensor → Tensor) : (s.modTensor n f).images = s.images := rfl
@[simp] theorem State.modTensor_paged (n : Nat) (f : Tensor → Tensor) : (s.modTensor n f).paged = s.paged := rfl
@[simp] theorem State.modTensor_access (n : Nat) (f : Tensor → Tensor) : (s.modTensor n f).access = s.access := rfl
@[simp] theorem State.modTensor_lastCtx (n : Nat) (f : Tensor → Tensor) : (s.modTensor n f).lastCtx = s.lastCtx := rfl
@[simp] theorem State.modTensor_out (n : Nat) (f : Tensor → Tensor) : (s.modTensor n f).out = s.out := rfl
@[simp] theorem State.modTensor_part (n : Nat) (f : Tensor → Tensor) : (s.modTensor n f).part = s.part := rfl
@[simp] theorem State.modTensor_tb (n : Nat) (f : Tensor → Tensor) : (s.modTensor n f).tb = s.tb := rfl
@[simp] theorem State.modTensor_rainfly (n : Nat) (f : Tensor → Tensor) : (s.modTensor n f).rainfly = s.rainfly := rfl
@[simp] theorem State.modTensor_cmds (n : Nat) (f : Tensor → Tensor) : (s.modTensor n f).cmds = s.cmds := rfl
@[simp] theorem State.modTensor_returned (n : Nat) (f : Tensor → Tensor) : (s.modTensor n f).returned = s.returned := rfl
@[simp] theorem State.modTensor_msix (n : Nat) (f : Tensor → Tensor) : (s.modTensor n f).msix = s.msix := rfl
@[simp] theorem State.modTensor_lantern (n : Nat) (f : Tensor → Tensor) : (s.modTensor n f).lantern = s.lantern := rfl
@[simp] theorem State.modTensor_ports (n : Nat) (f : Tensor → Tensor) : (s.modTensor n f).ports = s.ports := rfl
@[simp] theorem State.modTensor_routes (n : Nat) (f : Tensor → Tensor) : (s.modTensor n f).routes = s.routes := rfl
@[simp] theorem State.modTensor_ownPeer (n : Nat) (f : Tensor → Tensor) : (s.modTensor n f).ownPeer = s.ownPeer := rfl
@[simp] theorem State.modTensor_peerReqs (n : Nat) (f : Tensor → Tensor) : (s.modTensor n f).peerReqs = s.peerReqs := rfl
@[simp] theorem State.modTensor_usedPorts (n : Nat) (f : Tensor → Tensor) : (s.modTensor n f).usedPorts = s.usedPorts := rfl
@[simp] theorem State.modTensor_running (n : Nat) (f : Tensor → Tensor) : (s.modTensor n f).running = s.running := rfl

@[simp] theorem State.modStack_agenda (n : Nat) (f : Stack → Stack) : (s.modStack n f).agenda = s.agenda := rfl
@[simp] theorem State.modStack_issue (n : Nat) (f : Stack → Stack) : (s.modStack n f).issue = s.issue := rfl
@[simp] theorem State.modStack_sel (n : Nat) (f : Stack → Stack) : (s.modStack n f).sel = s.sel := rfl
@[simp] theorem State.modStack_freeCtr (n : Nat) (f : Stack → Stack) : (s.modStack n f).freeCtr = s.freeCtr := rfl
@[simp] theorem State.modStack_uid (n : Nat) (f : Stack → Stack) : (s.modStack n f).uid = s.uid := rfl
@[simp] theorem State.modStack_mem (n : Nat) (f : Stack → Stack) : (s.modStack n f).mem = s.mem := rfl
@[simp] theorem State.modStack_empty (n : Nat) (f : Stack → Stack) : (s.modStack n f).empty = s.empty := rfl
@[simp] theorem State.modStack_tags (n : Nat) (f : Stack → Stack) : (s.modStack n f).tags = s.tags := rfl
@[simp] theorem State.modStack_stamped (n : Nat) (f : Stack → Stack) : (s.modStack n f).stamped = s.stamped := rfl
@[simp] theorem State.modStack_l1 (n : Nat) (f : Stack → Stack) : (s.modStack n f).l1 = s.l1 := rfl
@[simp] theorem State.modStack_busy (n : Nat) (f : Stack → Stack) : (s.modStack n f).busy = s.busy := rfl
@[simp] theorem State.modStack_pitches (n : Nat) (f : Stack → Stack) : (s.modStack n f).pitches = s.pitches := rfl
@[simp] theorem State.modStack_clusters (n : Nat) (f : Stack → Stack) : (s.modStack n f).clusters = s.clusters := rfl
@[simp] theorem State.modStack_hbms (n : Nat) (f : Stack → Stack) : (s.modStack n f).hbms = s.hbms := rfl
@[simp] theorem State.modStack_lastAcc (n : Nat) (f : Stack → Stack) : (s.modStack n f).lastAcc = s.lastAcc := rfl
@[simp] theorem State.modStack_decoded (n : Nat) (f : Stack → Stack) : (s.modStack n f).decoded = s.decoded := rfl
@[simp] theorem State.modStack_misses (n : Nat) (f : Stack → Stack) : (s.modStack n f).misses = s.misses := rfl
@[simp] theorem State.modStack_lines (n : Nat) (f : Stack → Stack) : (s.modStack n f).lines = s.lines := rfl
@[simp] theorem State.modStack_hints (n : Nat) (f : Stack → Stack) : (s.modStack n f).hints = s.hints := rfl
@[simp] theorem State.modStack_blocks (n : Nat) (f : Stack → Stack) : (s.modStack n f).blocks = s.blocks := rfl
@[simp] theorem State.modStack_reqs (n : Nat) (f : Stack → Stack) : (s.modStack n f).reqs = s.reqs := rfl
@[simp] theorem State.modStack_ops (n : Nat) (f : Stack → Stack) : (s.modStack n f).ops = s.ops := rfl
@[simp] theorem State.modStack_commits (n : Nat) (f : Stack → Stack) : (s.modStack n f).commits = s.commits := rfl
@[simp] theorem State.modStack_tasks (n : Nat) (f : Stack → Stack) : (s.modStack n f).tasks = s.tasks := rfl
@[simp] theorem State.modStack_contexts (n : Nat) (f : Stack → Stack) : (s.modStack n f).contexts = s.contexts := rfl
@[simp] theorem State.modStack_images (n : Nat) (f : Stack → Stack) : (s.modStack n f).images = s.images := rfl
@[simp] theorem State.modStack_tensors (n : Nat) (f : Stack → Stack) : (s.modStack n f).tensors = s.tensors := rfl
@[simp] theorem State.modStack_paged (n : Nat) (f : Stack → Stack) : (s.modStack n f).paged = s.paged := rfl
@[simp] theorem State.modStack_access (n : Nat) (f : Stack → Stack) : (s.modStack n f).access = s.access := rfl
@[simp] theorem State.modStack_lastCtx (n : Nat) (f : Stack → Stack) : (s.modStack n f).lastCtx = s.lastCtx := rfl
@[simp] theorem State.modStack_out (n : Nat) (f : Stack → Stack) : (s.modStack n f).out = s.out := rfl
@[simp] theorem State.modStack_part (n : Nat) (f : Stack → Stack) : (s.modStack n f).part = s.part := rfl
@[simp] theorem State.modStack_tb (n : Nat) (f : Stack → Stack) : (s.modStack n f).tb = s.tb := rfl
@[simp] theorem State.modStack_rainfly (n : Nat) (f : Stack → Stack) : (s.modStack n f).rainfly = s.rainfly := rfl
@[simp] theorem State.modStack_cmds (n : Nat) (f : Stack → Stack) : (s.modStack n f).cmds = s.cmds := rfl
@[simp] theorem State.modStack_returned (n : Nat) (f : Stack → Stack) : (s.modStack n f).returned = s.returned := rfl
@[simp] theorem State.modStack_msix (n : Nat) (f : Stack → Stack) : (s.modStack n f).msix = s.msix := rfl
@[simp] theorem State.modStack_lantern (n : Nat) (f : Stack → Stack) : (s.modStack n f).lantern = s.lantern := rfl
@[simp] theorem State.modStack_ports (n : Nat) (f : Stack → Stack) : (s.modStack n f).ports = s.ports := rfl
@[simp] theorem State.modStack_routes (n : Nat) (f : Stack → Stack) : (s.modStack n f).routes = s.routes := rfl
@[simp] theorem State.modStack_ownPeer (n : Nat) (f : Stack → Stack) : (s.modStack n f).ownPeer = s.ownPeer := rfl
@[simp] theorem State.modStack_peerReqs (n : Nat) (f : Stack → Stack) : (s.modStack n f).peerReqs = s.peerReqs := rfl
@[simp] theorem State.modStack_usedPorts (n : Nat) (f : Stack → Stack) : (s.modStack n f).usedPorts = s.usedPorts := rfl
@[simp] theorem State.modStack_running (n : Nat) (f : Stack → Stack) : (s.modStack n f).running = s.running := rfl

@[simp] theorem State.modCluster_agenda (n k : Nat) (f : Cluster → Cluster) : (s.modCluster n k f).agenda = s.agenda := rfl
@[simp] theorem State.modCluster_issue (n k : Nat) (f : Cluster → Cluster) : (s.modCluster n k f).issue = s.issue := rfl
@[simp] theorem State.modCluster_sel (n k : Nat) (f : Cluster → Cluster) : (s.modCluster n k f).sel = s.sel := rfl
@[simp] theorem State.modCluster_freeCtr (n k : Nat) (f : Cluster → Cluster) : (s.modCluster n k f).freeCtr = s.freeCtr := rfl
@[simp] theorem State.modCluster_uid (n k : Nat) (f : Cluster → Cluster) : (s.modCluster n k f).uid = s.uid := rfl
@[simp] theorem State.modCluster_mem (n k : Nat) (f : Cluster → Cluster) : (s.modCluster n k f).mem = s.mem := rfl
@[simp] theorem State.modCluster_empty (n k : Nat) (f : Cluster → Cluster) : (s.modCluster n k f).empty = s.empty := rfl
@[simp] theorem State.modCluster_tags (n k : Nat) (f : Cluster → Cluster) : (s.modCluster n k f).tags = s.tags := rfl
@[simp] theorem State.modCluster_stamped (n k : Nat) (f : Cluster → Cluster) : (s.modCluster n k f).stamped = s.stamped := rfl
@[simp] theorem State.modCluster_l1 (n k : Nat) (f : Cluster → Cluster) : (s.modCluster n k f).l1 = s.l1 := rfl
@[simp] theorem State.modCluster_busy (n k : Nat) (f : Cluster → Cluster) : (s.modCluster n k f).busy = s.busy := rfl
@[simp] theorem State.modCluster_pitches (n k : Nat) (f : Cluster → Cluster) : (s.modCluster n k f).pitches = s.pitches := rfl
@[simp] theorem State.modCluster_stks (n k : Nat) (f : Cluster → Cluster) : (s.modCluster n k f).stks = s.stks := rfl
@[simp] theorem State.modCluster_hbms (n k : Nat) (f : Cluster → Cluster) : (s.modCluster n k f).hbms = s.hbms := rfl
@[simp] theorem State.modCluster_lastAcc (n k : Nat) (f : Cluster → Cluster) : (s.modCluster n k f).lastAcc = s.lastAcc := rfl
@[simp] theorem State.modCluster_decoded (n k : Nat) (f : Cluster → Cluster) : (s.modCluster n k f).decoded = s.decoded := rfl
@[simp] theorem State.modCluster_misses (n k : Nat) (f : Cluster → Cluster) : (s.modCluster n k f).misses = s.misses := rfl
@[simp] theorem State.modCluster_lines (n k : Nat) (f : Cluster → Cluster) : (s.modCluster n k f).lines = s.lines := rfl
@[simp] theorem State.modCluster_hints (n k : Nat) (f : Cluster → Cluster) : (s.modCluster n k f).hints = s.hints := rfl
@[simp] theorem State.modCluster_blocks (n k : Nat) (f : Cluster → Cluster) : (s.modCluster n k f).blocks = s.blocks := rfl
@[simp] theorem State.modCluster_reqs (n k : Nat) (f : Cluster → Cluster) : (s.modCluster n k f).reqs = s.reqs := rfl
@[simp] theorem State.modCluster_ops (n k : Nat) (f : Cluster → Cluster) : (s.modCluster n k f).ops = s.ops := rfl
@[simp] theorem State.modCluster_commits (n k : Nat) (f : Cluster → Cluster) : (s.modCluster n k f).commits = s.commits := rfl
@[simp] theorem State.modCluster_tasks (n k : Nat) (f : Cluster → Cluster) : (s.modCluster n k f).tasks = s.tasks := rfl
@[simp] theorem State.modCluster_contexts (n k : Nat) (f : Cluster → Cluster) : (s.modCluster n k f).contexts = s.contexts := rfl
@[simp] theorem State.modCluster_images (n k : Nat) (f : Cluster → Cluster) : (s.modCluster n k f).images = s.images := rfl
@[simp] theorem State.modCluster_tensors (n k : Nat) (f : Cluster → Cluster) : (s.modCluster n k f).tensors = s.tensors := rfl
@[simp] theorem State.modCluster_paged (n k : Nat) (f : Cluster → Cluster) : (s.modCluster n k f).paged = s.paged := rfl
@[simp] theorem State.modCluster_access (n k : Nat) (f : Cluster → Cluster) : (s.modCluster n k f).access = s.access := rfl
@[simp] theorem State.modCluster_lastCtx (n k : Nat) (f : Cluster → Cluster) : (s.modCluster n k f).lastCtx = s.lastCtx := rfl
@[simp] theorem State.modCluster_out (n k : Nat) (f : Cluster → Cluster) : (s.modCluster n k f).out = s.out := rfl
@[simp] theorem State.modCluster_part (n k : Nat) (f : Cluster → Cluster) : (s.modCluster n k f).part = s.part := rfl
@[simp] theorem State.modCluster_tb (n k : Nat) (f : Cluster → Cluster) : (s.modCluster n k f).tb = s.tb := rfl
@[simp] theorem State.modCluster_rainfly (n k : Nat) (f : Cluster → Cluster) : (s.modCluster n k f).rainfly = s.rainfly := rfl
@[simp] theorem State.modCluster_cmds (n k : Nat) (f : Cluster → Cluster) : (s.modCluster n k f).cmds = s.cmds := rfl
@[simp] theorem State.modCluster_returned (n k : Nat) (f : Cluster → Cluster) : (s.modCluster n k f).returned = s.returned := rfl
@[simp] theorem State.modCluster_msix (n k : Nat) (f : Cluster → Cluster) : (s.modCluster n k f).msix = s.msix := rfl
@[simp] theorem State.modCluster_lantern (n k : Nat) (f : Cluster → Cluster) : (s.modCluster n k f).lantern = s.lantern := rfl
@[simp] theorem State.modCluster_ports (n k : Nat) (f : Cluster → Cluster) : (s.modCluster n k f).ports = s.ports := rfl
@[simp] theorem State.modCluster_routes (n k : Nat) (f : Cluster → Cluster) : (s.modCluster n k f).routes = s.routes := rfl
@[simp] theorem State.modCluster_ownPeer (n k : Nat) (f : Cluster → Cluster) : (s.modCluster n k f).ownPeer = s.ownPeer := rfl
@[simp] theorem State.modCluster_peerReqs (n k : Nat) (f : Cluster → Cluster) : (s.modCluster n k f).peerReqs = s.peerReqs := rfl
@[simp] theorem State.modCluster_usedPorts (n k : Nat) (f : Cluster → Cluster) : (s.modCluster n k f).usedPorts = s.usedPorts := rfl
@[simp] theorem State.modCluster_running (n k : Nat) (f : Cluster → Cluster) : (s.modCluster n k f).running = s.running := rfl

@[simp] theorem State.setPitch_agenda (p : Pitch) : (s.setPitch p).agenda = s.agenda := rfl
@[simp] theorem State.setPitch_issue (p : Pitch) : (s.setPitch p).issue = s.issue := rfl
@[simp] theorem State.setPitch_sel (p : Pitch) : (s.setPitch p).sel = s.sel := rfl
@[simp] theorem State.setPitch_freeCtr (p : Pitch) : (s.setPitch p).freeCtr = s.freeCtr := rfl
@[simp] theorem State.setPitch_uid (p : Pitch) : (s.setPitch p).uid = s.uid := rfl
@[simp] theorem State.setPitch_mem (p : Pitch) : (s.setPitch p).mem = s.mem := rfl
@[simp] theorem State.setPitch_empty (p : Pitch) : (s.setPitch p).empty = s.empty := rfl
@[simp] theorem State.setPitch_tags (p : Pitch) : (s.setPitch p).tags = s.tags := rfl
@[simp] theorem State.setPitch_stamped (p : Pitch) : (s.setPitch p).stamped = s.stamped := rfl
@[simp] theorem State.setPitch_l1 (p : Pitch) : (s.setPitch p).l1 = s.l1 := rfl
@[simp] theorem State.setPitch_busy (p : Pitch) : (s.setPitch p).busy = s.busy := rfl
@[simp] theorem State.setPitch_clusters (p : Pitch) : (s.setPitch p).clusters = s.clusters := rfl
@[simp] theorem State.setPitch_stks (p : Pitch) : (s.setPitch p).stks = s.stks := rfl
@[simp] theorem State.setPitch_hbms (p : Pitch) : (s.setPitch p).hbms = s.hbms := rfl
@[simp] theorem State.setPitch_lastAcc (p : Pitch) : (s.setPitch p).lastAcc = s.lastAcc := rfl
@[simp] theorem State.setPitch_decoded (p : Pitch) : (s.setPitch p).decoded = s.decoded := rfl
@[simp] theorem State.setPitch_misses (p : Pitch) : (s.setPitch p).misses = s.misses := rfl
@[simp] theorem State.setPitch_lines (p : Pitch) : (s.setPitch p).lines = s.lines := rfl
@[simp] theorem State.setPitch_hints (p : Pitch) : (s.setPitch p).hints = s.hints := rfl
@[simp] theorem State.setPitch_blocks (p : Pitch) : (s.setPitch p).blocks = s.blocks := rfl
@[simp] theorem State.setPitch_reqs (p : Pitch) : (s.setPitch p).reqs = s.reqs := rfl
@[simp] theorem State.setPitch_ops (p : Pitch) : (s.setPitch p).ops = s.ops := rfl
@[simp] theorem State.setPitch_commits (p : Pitch) : (s.setPitch p).commits = s.commits := rfl
@[simp] theorem State.setPitch_tasks (p : Pitch) : (s.setPitch p).tasks = s.tasks := rfl
@[simp] theorem State.setPitch_contexts (p : Pitch) : (s.setPitch p).contexts = s.contexts := rfl
@[simp] theorem State.setPitch_images (p : Pitch) : (s.setPitch p).images = s.images := rfl
@[simp] theorem State.setPitch_tensors (p : Pitch) : (s.setPitch p).tensors = s.tensors := rfl
@[simp] theorem State.setPitch_paged (p : Pitch) : (s.setPitch p).paged = s.paged := rfl
@[simp] theorem State.setPitch_access (p : Pitch) : (s.setPitch p).access = s.access := rfl
@[simp] theorem State.setPitch_lastCtx (p : Pitch) : (s.setPitch p).lastCtx = s.lastCtx := rfl
@[simp] theorem State.setPitch_out (p : Pitch) : (s.setPitch p).out = s.out := rfl
@[simp] theorem State.setPitch_part (p : Pitch) : (s.setPitch p).part = s.part := rfl
@[simp] theorem State.setPitch_tb (p : Pitch) : (s.setPitch p).tb = s.tb := rfl
@[simp] theorem State.setPitch_rainfly (p : Pitch) : (s.setPitch p).rainfly = s.rainfly := rfl
@[simp] theorem State.setPitch_cmds (p : Pitch) : (s.setPitch p).cmds = s.cmds := rfl
@[simp] theorem State.setPitch_returned (p : Pitch) : (s.setPitch p).returned = s.returned := rfl
@[simp] theorem State.setPitch_msix (p : Pitch) : (s.setPitch p).msix = s.msix := rfl
@[simp] theorem State.setPitch_lantern (p : Pitch) : (s.setPitch p).lantern = s.lantern := rfl
@[simp] theorem State.setPitch_ports (p : Pitch) : (s.setPitch p).ports = s.ports := rfl
@[simp] theorem State.setPitch_routes (p : Pitch) : (s.setPitch p).routes = s.routes := rfl
@[simp] theorem State.setPitch_ownPeer (p : Pitch) : (s.setPitch p).ownPeer = s.ownPeer := rfl
@[simp] theorem State.setPitch_peerReqs (p : Pitch) : (s.setPitch p).peerReqs = s.peerReqs := rfl
@[simp] theorem State.setPitch_usedPorts (p : Pitch) : (s.setPitch p).usedPorts = s.usedPorts := rfl
@[simp] theorem State.setPitch_running (p : Pitch) : (s.setPitch p).running = s.running := rfl

@[simp] theorem State.endTurn_agenda (n k : Nat) : (s.endTurn n k).agenda = s.agenda := rfl
@[simp] theorem State.endTurn_issue (n k : Nat) : (s.endTurn n k).issue = s.issue := rfl
@[simp] theorem State.endTurn_sel (n k : Nat) : (s.endTurn n k).sel = s.sel := rfl
@[simp] theorem State.endTurn_freeCtr (n k : Nat) : (s.endTurn n k).freeCtr = s.freeCtr := rfl
@[simp] theorem State.endTurn_uid (n k : Nat) : (s.endTurn n k).uid = s.uid := rfl
@[simp] theorem State.endTurn_mem (n k : Nat) : (s.endTurn n k).mem = s.mem := rfl
@[simp] theorem State.endTurn_empty (n k : Nat) : (s.endTurn n k).empty = s.empty := rfl
@[simp] theorem State.endTurn_tags (n k : Nat) : (s.endTurn n k).tags = s.tags := rfl
@[simp] theorem State.endTurn_stamped (n k : Nat) : (s.endTurn n k).stamped = s.stamped := rfl
@[simp] theorem State.endTurn_l1 (n k : Nat) : (s.endTurn n k).l1 = s.l1 := rfl
@[simp] theorem State.endTurn_busy (n k : Nat) : (s.endTurn n k).busy = s.busy := rfl
@[simp] theorem State.endTurn_clusters (n k : Nat) : (s.endTurn n k).clusters = s.clusters := rfl
@[simp] theorem State.endTurn_stks (n k : Nat) : (s.endTurn n k).stks = s.stks := rfl
@[simp] theorem State.endTurn_hbms (n k : Nat) : (s.endTurn n k).hbms = s.hbms := rfl
@[simp] theorem State.endTurn_lastAcc (n k : Nat) : (s.endTurn n k).lastAcc = s.lastAcc := rfl
@[simp] theorem State.endTurn_decoded (n k : Nat) : (s.endTurn n k).decoded = s.decoded := rfl
@[simp] theorem State.endTurn_misses (n k : Nat) : (s.endTurn n k).misses = s.misses := rfl
@[simp] theorem State.endTurn_lines (n k : Nat) : (s.endTurn n k).lines = s.lines := rfl
@[simp] theorem State.endTurn_hints (n k : Nat) : (s.endTurn n k).hints = s.hints := rfl
@[simp] theorem State.endTurn_blocks (n k : Nat) : (s.endTurn n k).blocks = s.blocks := rfl
@[simp] theorem State.endTurn_reqs (n k : Nat) : (s.endTurn n k).reqs = s.reqs := rfl
@[simp] theorem State.endTurn_ops (n k : Nat) : (s.endTurn n k).ops = s.ops := rfl
@[simp] theorem State.endTurn_commits (n k : Nat) : (s.endTurn n k).commits = s.commits := rfl
@[simp] theorem State.endTurn_tasks (n k : Nat) : (s.endTurn n k).tasks = s.tasks := rfl
@[simp] theorem State.endTurn_contexts (n k : Nat) : (s.endTurn n k).contexts = s.contexts := rfl
@[simp] theorem State.endTurn_images (n k : Nat) : (s.endTurn n k).images = s.images := rfl
@[simp] theorem State.endTurn_tensors (n k : Nat) : (s.endTurn n k).tensors = s.tensors := rfl
@[simp] theorem State.endTurn_paged (n k : Nat) : (s.endTurn n k).paged = s.paged := rfl
@[simp] theorem State.endTurn_access (n k : Nat) : (s.endTurn n k).access = s.access := rfl
@[simp] theorem State.endTurn_lastCtx (n k : Nat) : (s.endTurn n k).lastCtx = s.lastCtx := rfl
@[simp] theorem State.endTurn_out (n k : Nat) : (s.endTurn n k).out = s.out := rfl
@[simp] theorem State.endTurn_part (n k : Nat) : (s.endTurn n k).part = s.part := rfl
@[simp] theorem State.endTurn_tb (n k : Nat) : (s.endTurn n k).tb = s.tb := rfl
@[simp] theorem State.endTurn_rainfly (n k : Nat) : (s.endTurn n k).rainfly = s.rainfly := rfl
@[simp] theorem State.endTurn_cmds (n k : Nat) : (s.endTurn n k).cmds = s.cmds := rfl
@[simp] theorem State.endTurn_returned (n k : Nat) : (s.endTurn n k).returned = s.returned := rfl
@[simp] theorem State.endTurn_msix (n k : Nat) : (s.endTurn n k).msix = s.msix := rfl
@[simp] theorem State.endTurn_lantern (n k : Nat) : (s.endTurn n k).lantern = s.lantern := rfl
@[simp] theorem State.endTurn_ports (n k : Nat) : (s.endTurn n k).ports = s.ports := rfl
@[simp] theorem State.endTurn_routes (n k : Nat) : (s.endTurn n k).routes = s.routes := rfl
@[simp] theorem State.endTurn_ownPeer (n k : Nat) : (s.endTurn n k).ownPeer = s.ownPeer := rfl
@[simp] theorem State.endTurn_peerReqs (n k : Nat) : (s.endTurn n k).peerReqs = s.peerReqs := rfl
@[simp] theorem State.endTurn_usedPorts (n k : Nat) : (s.endTurn n k).usedPorts = s.usedPorts := rfl
@[simp] theorem State.endTurn_running (n k : Nat) : (s.endTurn n k).running = s.running := rfl

@[simp] theorem State.resolve_agenda (n h o v : Nat) (m : Bool) : (s.resolve n h o v m).agenda = s.agenda := rfl
@[simp] theorem State.resolve_issue (n h o v : Nat) (m : Bool) : (s.resolve n h o v m).issue = s.issue := rfl
@[simp] theorem State.resolve_sel (n h o v : Nat) (m : Bool) : (s.resolve n h o v m).sel = s.sel := rfl
@[simp] theorem State.resolve_freeCtr (n h o v : Nat) (m : Bool) : (s.resolve n h o v m).freeCtr = s.freeCtr := rfl
@[simp] theorem State.resolve_uid (n h o v : Nat) (m : Bool) : (s.resolve n h o v m).uid = s.uid := rfl
@[simp] theorem State.resolve_mem (n h o v : Nat) (m : Bool) : (s.resolve n h o v m).mem = s.mem := rfl
@[simp] theorem State.resolve_empty (n h o v : Nat) (m : Bool) : (s.resolve n h o v m).empty = s.empty := rfl
@[simp] theorem State.resolve_tags (n h o v : Nat) (m : Bool) : (s.resolve n h o v m).tags = s.tags := rfl
@[simp] theorem State.resolve_stamped (n h o v : Nat) (m : Bool) : (s.resolve n h o v m).stamped = s.stamped := rfl
@[simp] theorem State.resolve_l1 (n h o v : Nat) (m : Bool) : (s.resolve n h o v m).l1 = s.l1 := rfl
@[simp] theorem State.resolve_busy (n h o v : Nat) (m : Bool) : (s.resolve n h o v m).busy = s.busy := rfl
@[simp] theorem State.resolve_pitches (n h o v : Nat) (m : Bool) : (s.resolve n h o v m).pitches = s.pitches := rfl
@[simp] theorem State.resolve_clusters (n h o v : Nat) (m : Bool) : (s.resolve n h o v m).clusters = s.clusters := rfl
@[simp] theorem State.resolve_stks (n h o v : Nat) (m : Bool) : (s.resolve n h o v m).stks = s.stks := rfl
@[simp] theorem State.resolve_hbms (n h o v : Nat) (m : Bool) : (s.resolve n h o v m).hbms = s.hbms := rfl
@[simp] theorem State.resolve_lastAcc (n h o v : Nat) (m : Bool) : (s.resolve n h o v m).lastAcc = s.lastAcc := rfl
@[simp] theorem State.resolve_decoded (n h o v : Nat) (m : Bool) : (s.resolve n h o v m).decoded = s.decoded := rfl
@[simp] theorem State.resolve_misses (n h o v : Nat) (m : Bool) : (s.resolve n h o v m).misses = s.misses := rfl
@[simp] theorem State.resolve_lines (n h o v : Nat) (m : Bool) : (s.resolve n h o v m).lines = s.lines := rfl
@[simp] theorem State.resolve_hints (n h o v : Nat) (m : Bool) : (s.resolve n h o v m).hints = s.hints := rfl
@[simp] theorem State.resolve_reqs (n h o v : Nat) (m : Bool) : (s.resolve n h o v m).reqs = s.reqs := rfl
@[simp] theorem State.resolve_ops (n h o v : Nat) (m : Bool) : (s.resolve n h o v m).ops = s.ops := rfl
@[simp] theorem State.resolve_commits (n h o v : Nat) (m : Bool) : (s.resolve n h o v m).commits = s.commits := rfl
@[simp] theorem State.resolve_tasks (n h o v : Nat) (m : Bool) : (s.resolve n h o v m).tasks = s.tasks := rfl
@[simp] theorem State.resolve_contexts (n h o v : Nat) (m : Bool) : (s.resolve n h o v m).contexts = s.contexts := rfl
@[simp] theorem State.resolve_images (n h o v : Nat) (m : Bool) : (s.resolve n h o v m).images = s.images := rfl
@[simp] theorem State.resolve_tensors (n h o v : Nat) (m : Bool) : (s.resolve n h o v m).tensors = s.tensors := rfl
@[simp] theorem State.resolve_paged (n h o v : Nat) (m : Bool) : (s.resolve n h o v m).paged = s.paged := rfl
@[simp] theorem State.resolve_access (n h o v : Nat) (m : Bool) : (s.resolve n h o v m).access = s.access := rfl
@[simp] theorem State.resolve_lastCtx (n h o v : Nat) (m : Bool) : (s.resolve n h o v m).lastCtx = s.lastCtx := rfl
@[simp] theorem State.resolve_out (n h o v : Nat) (m : Bool) : (s.resolve n h o v m).out = s.out := rfl
@[simp] theorem State.resolve_part (n h o v : Nat) (m : Bool) : (s.resolve n h o v m).part = s.part := rfl
@[simp] theorem State.resolve_tb (n h o v : Nat) (m : Bool) : (s.resolve n h o v m).tb = s.tb := rfl
@[simp] theorem State.resolve_rainfly (n h o v : Nat) (m : Bool) : (s.resolve n h o v m).rainfly = s.rainfly := rfl
@[simp] theorem State.resolve_cmds (n h o v : Nat) (m : Bool) : (s.resolve n h o v m).cmds = s.cmds := rfl
@[simp] theorem State.resolve_returned (n h o v : Nat) (m : Bool) : (s.resolve n h o v m).returned = s.returned := rfl
@[simp] theorem State.resolve_msix (n h o v : Nat) (m : Bool) : (s.resolve n h o v m).msix = s.msix := rfl
@[simp] theorem State.resolve_lantern (n h o v : Nat) (m : Bool) : (s.resolve n h o v m).lantern = s.lantern := rfl
@[simp] theorem State.resolve_ports (n h o v : Nat) (m : Bool) : (s.resolve n h o v m).ports = s.ports := rfl
@[simp] theorem State.resolve_routes (n h o v : Nat) (m : Bool) : (s.resolve n h o v m).routes = s.routes := rfl
@[simp] theorem State.resolve_ownPeer (n h o v : Nat) (m : Bool) : (s.resolve n h o v m).ownPeer = s.ownPeer := rfl
@[simp] theorem State.resolve_peerReqs (n h o v : Nat) (m : Bool) : (s.resolve n h o v m).peerReqs = s.peerReqs := rfl
@[simp] theorem State.resolve_usedPorts (n h o v : Nat) (m : Bool) : (s.resolve n h o v m).usedPorts = s.usedPorts := rfl
@[simp] theorem State.resolve_running (n h o v : Nat) (m : Bool) : (s.resolve n h o v m).running = s.running := rfl

@[simp] theorem State.setHandle_agenda (r : Nat) (h : Word64) : (s.setHandle r h).agenda = s.agenda := rfl
@[simp] theorem State.setHandle_sel (r : Nat) (h : Word64) : (s.setHandle r h).sel = s.sel := rfl
@[simp] theorem State.setHandle_freeCtr (r : Nat) (h : Word64) : (s.setHandle r h).freeCtr = s.freeCtr := rfl
@[simp] theorem State.setHandle_uid (r : Nat) (h : Word64) : (s.setHandle r h).uid = s.uid := rfl
@[simp] theorem State.setHandle_mem (r : Nat) (h : Word64) : (s.setHandle r h).mem = s.mem := rfl
@[simp] theorem State.setHandle_empty (r : Nat) (h : Word64) : (s.setHandle r h).empty = s.empty := rfl
@[simp] theorem State.setHandle_tags (r : Nat) (h : Word64) : (s.setHandle r h).tags = s.tags := rfl
@[simp] theorem State.setHandle_stamped (r : Nat) (h : Word64) : (s.setHandle r h).stamped = s.stamped := rfl
@[simp] theorem State.setHandle_l1 (r : Nat) (h : Word64) : (s.setHandle r h).l1 = s.l1 := rfl
@[simp] theorem State.setHandle_busy (r : Nat) (h : Word64) : (s.setHandle r h).busy = s.busy := rfl
@[simp] theorem State.setHandle_pitches (r : Nat) (h : Word64) : (s.setHandle r h).pitches = s.pitches := rfl
@[simp] theorem State.setHandle_clusters (r : Nat) (h : Word64) : (s.setHandle r h).clusters = s.clusters := rfl
@[simp] theorem State.setHandle_stks (r : Nat) (h : Word64) : (s.setHandle r h).stks = s.stks := rfl
@[simp] theorem State.setHandle_hbms (r : Nat) (h : Word64) : (s.setHandle r h).hbms = s.hbms := rfl
@[simp] theorem State.setHandle_lastAcc (r : Nat) (h : Word64) : (s.setHandle r h).lastAcc = s.lastAcc := rfl
@[simp] theorem State.setHandle_decoded (r : Nat) (h : Word64) : (s.setHandle r h).decoded = s.decoded := rfl
@[simp] theorem State.setHandle_misses (r : Nat) (h : Word64) : (s.setHandle r h).misses = s.misses := rfl
@[simp] theorem State.setHandle_lines (r : Nat) (h : Word64) : (s.setHandle r h).lines = s.lines := rfl
@[simp] theorem State.setHandle_hints (r : Nat) (h : Word64) : (s.setHandle r h).hints = s.hints := rfl
@[simp] theorem State.setHandle_blocks (r : Nat) (h : Word64) : (s.setHandle r h).blocks = s.blocks := rfl
@[simp] theorem State.setHandle_reqs (r : Nat) (h : Word64) : (s.setHandle r h).reqs = s.reqs := rfl
@[simp] theorem State.setHandle_ops (r : Nat) (h : Word64) : (s.setHandle r h).ops = s.ops := rfl
@[simp] theorem State.setHandle_commits (r : Nat) (h : Word64) : (s.setHandle r h).commits = s.commits := rfl
@[simp] theorem State.setHandle_tasks (r : Nat) (h : Word64) : (s.setHandle r h).tasks = s.tasks := rfl
@[simp] theorem State.setHandle_contexts (r : Nat) (h : Word64) : (s.setHandle r h).contexts = s.contexts := rfl
@[simp] theorem State.setHandle_images (r : Nat) (h : Word64) : (s.setHandle r h).images = s.images := rfl
@[simp] theorem State.setHandle_tensors (r : Nat) (h : Word64) : (s.setHandle r h).tensors = s.tensors := rfl
@[simp] theorem State.setHandle_paged (r : Nat) (h : Word64) : (s.setHandle r h).paged = s.paged := rfl
@[simp] theorem State.setHandle_access (r : Nat) (h : Word64) : (s.setHandle r h).access = s.access := rfl
@[simp] theorem State.setHandle_lastCtx (r : Nat) (h : Word64) : (s.setHandle r h).lastCtx = s.lastCtx := rfl
@[simp] theorem State.setHandle_out (r : Nat) (h : Word64) : (s.setHandle r h).out = s.out := rfl
@[simp] theorem State.setHandle_part (r : Nat) (h : Word64) : (s.setHandle r h).part = s.part := rfl
@[simp] theorem State.setHandle_tb (r : Nat) (h : Word64) : (s.setHandle r h).tb = s.tb := rfl
@[simp] theorem State.setHandle_rainfly (r : Nat) (h : Word64) : (s.setHandle r h).rainfly = s.rainfly := rfl
@[simp] theorem State.setHandle_cmds (r : Nat) (h : Word64) : (s.setHandle r h).cmds = s.cmds := rfl
@[simp] theorem State.setHandle_returned (r : Nat) (h : Word64) : (s.setHandle r h).returned = s.returned := rfl
@[simp] theorem State.setHandle_msix (r : Nat) (h : Word64) : (s.setHandle r h).msix = s.msix := rfl
@[simp] theorem State.setHandle_lantern (r : Nat) (h : Word64) : (s.setHandle r h).lantern = s.lantern := rfl
@[simp] theorem State.setHandle_ports (r : Nat) (h : Word64) : (s.setHandle r h).ports = s.ports := rfl
@[simp] theorem State.setHandle_routes (r : Nat) (h : Word64) : (s.setHandle r h).routes = s.routes := rfl
@[simp] theorem State.setHandle_ownPeer (r : Nat) (h : Word64) : (s.setHandle r h).ownPeer = s.ownPeer := rfl
@[simp] theorem State.setHandle_peerReqs (r : Nat) (h : Word64) : (s.setHandle r h).peerReqs = s.peerReqs := rfl
@[simp] theorem State.setHandle_usedPorts (r : Nat) (h : Word64) : (s.setHandle r h).usedPorts = s.usedPorts := rfl
@[simp] theorem State.setHandle_running (r : Nat) (h : Word64) : (s.setHandle r h).running = s.running := rfl

@[simp] theorem State.invalidateL1_agenda (n : Nat) : (s.invalidateL1 n).agenda = s.agenda := rfl
@[simp] theorem State.invalidateL1_issue (n : Nat) : (s.invalidateL1 n).issue = s.issue := rfl
@[simp] theorem State.invalidateL1_sel (n : Nat) : (s.invalidateL1 n).sel = s.sel := rfl
@[simp] theorem State.invalidateL1_freeCtr (n : Nat) : (s.invalidateL1 n).freeCtr = s.freeCtr := rfl
@[simp] theorem State.invalidateL1_uid (n : Nat) : (s.invalidateL1 n).uid = s.uid := rfl
@[simp] theorem State.invalidateL1_mem (n : Nat) : (s.invalidateL1 n).mem = s.mem := rfl
@[simp] theorem State.invalidateL1_empty (n : Nat) : (s.invalidateL1 n).empty = s.empty := rfl
@[simp] theorem State.invalidateL1_tags (n : Nat) : (s.invalidateL1 n).tags = s.tags := rfl
@[simp] theorem State.invalidateL1_stamped (n : Nat) : (s.invalidateL1 n).stamped = s.stamped := rfl
@[simp] theorem State.invalidateL1_busy (n : Nat) : (s.invalidateL1 n).busy = s.busy := rfl
@[simp] theorem State.invalidateL1_pitches (n : Nat) : (s.invalidateL1 n).pitches = s.pitches := rfl
@[simp] theorem State.invalidateL1_clusters (n : Nat) : (s.invalidateL1 n).clusters = s.clusters := rfl
@[simp] theorem State.invalidateL1_stks (n : Nat) : (s.invalidateL1 n).stks = s.stks := rfl
@[simp] theorem State.invalidateL1_hbms (n : Nat) : (s.invalidateL1 n).hbms = s.hbms := rfl
@[simp] theorem State.invalidateL1_lastAcc (n : Nat) : (s.invalidateL1 n).lastAcc = s.lastAcc := rfl
@[simp] theorem State.invalidateL1_decoded (n : Nat) : (s.invalidateL1 n).decoded = s.decoded := rfl
@[simp] theorem State.invalidateL1_misses (n : Nat) : (s.invalidateL1 n).misses = s.misses := rfl
@[simp] theorem State.invalidateL1_lines (n : Nat) : (s.invalidateL1 n).lines = s.lines := rfl
@[simp] theorem State.invalidateL1_hints (n : Nat) : (s.invalidateL1 n).hints = s.hints := rfl
@[simp] theorem State.invalidateL1_blocks (n : Nat) : (s.invalidateL1 n).blocks = s.blocks := rfl
@[simp] theorem State.invalidateL1_reqs (n : Nat) : (s.invalidateL1 n).reqs = s.reqs := rfl
@[simp] theorem State.invalidateL1_commits (n : Nat) : (s.invalidateL1 n).commits = s.commits := rfl
@[simp] theorem State.invalidateL1_tasks (n : Nat) : (s.invalidateL1 n).tasks = s.tasks := rfl
@[simp] theorem State.invalidateL1_contexts (n : Nat) : (s.invalidateL1 n).contexts = s.contexts := rfl
@[simp] theorem State.invalidateL1_images (n : Nat) : (s.invalidateL1 n).images = s.images := rfl
@[simp] theorem State.invalidateL1_tensors (n : Nat) : (s.invalidateL1 n).tensors = s.tensors := rfl
@[simp] theorem State.invalidateL1_paged (n : Nat) : (s.invalidateL1 n).paged = s.paged := rfl
@[simp] theorem State.invalidateL1_access (n : Nat) : (s.invalidateL1 n).access = s.access := rfl
@[simp] theorem State.invalidateL1_lastCtx (n : Nat) : (s.invalidateL1 n).lastCtx = s.lastCtx := rfl
@[simp] theorem State.invalidateL1_out (n : Nat) : (s.invalidateL1 n).out = s.out := rfl
@[simp] theorem State.invalidateL1_part (n : Nat) : (s.invalidateL1 n).part = s.part := rfl
@[simp] theorem State.invalidateL1_tb (n : Nat) : (s.invalidateL1 n).tb = s.tb := rfl
@[simp] theorem State.invalidateL1_rainfly (n : Nat) : (s.invalidateL1 n).rainfly = s.rainfly := rfl
@[simp] theorem State.invalidateL1_cmds (n : Nat) : (s.invalidateL1 n).cmds = s.cmds := rfl
@[simp] theorem State.invalidateL1_returned (n : Nat) : (s.invalidateL1 n).returned = s.returned := rfl
@[simp] theorem State.invalidateL1_msix (n : Nat) : (s.invalidateL1 n).msix = s.msix := rfl
@[simp] theorem State.invalidateL1_lantern (n : Nat) : (s.invalidateL1 n).lantern = s.lantern := rfl
@[simp] theorem State.invalidateL1_ports (n : Nat) : (s.invalidateL1 n).ports = s.ports := rfl
@[simp] theorem State.invalidateL1_routes (n : Nat) : (s.invalidateL1 n).routes = s.routes := rfl
@[simp] theorem State.invalidateL1_ownPeer (n : Nat) : (s.invalidateL1 n).ownPeer = s.ownPeer := rfl
@[simp] theorem State.invalidateL1_peerReqs (n : Nat) : (s.invalidateL1 n).peerReqs = s.peerReqs := rfl
@[simp] theorem State.invalidateL1_usedPorts (n : Nat) : (s.invalidateL1 n).usedPorts = s.usedPorts := rfl
@[simp] theorem State.invalidateL1_running (n : Nat) : (s.invalidateL1 n).running = s.running := rfl

@[simp] theorem State.pend_agenda (c : Issue) (r : Nat) (l : List PReg) : (s.pend c r l).agenda = s.agenda := rfl
@[simp] theorem State.pend_issue (c : Issue) (r : Nat) (l : List PReg) : (s.pend c r l).issue = s.issue := rfl
@[simp] theorem State.pend_sel (c : Issue) (r : Nat) (l : List PReg) : (s.pend c r l).sel = s.sel := rfl
@[simp] theorem State.pend_freeCtr (c : Issue) (r : Nat) (l : List PReg) : (s.pend c r l).freeCtr = s.freeCtr := rfl
@[simp] theorem State.pend_uid (c : Issue) (r : Nat) (l : List PReg) : (s.pend c r l).uid = s.uid := rfl
@[simp] theorem State.pend_mem (c : Issue) (r : Nat) (l : List PReg) : (s.pend c r l).mem = s.mem := rfl
@[simp] theorem State.pend_empty (c : Issue) (r : Nat) (l : List PReg) : (s.pend c r l).empty = s.empty := rfl
@[simp] theorem State.pend_tags (c : Issue) (r : Nat) (l : List PReg) : (s.pend c r l).tags = s.tags := rfl
@[simp] theorem State.pend_stamped (c : Issue) (r : Nat) (l : List PReg) : (s.pend c r l).stamped = s.stamped := rfl
@[simp] theorem State.pend_l1 (c : Issue) (r : Nat) (l : List PReg) : (s.pend c r l).l1 = s.l1 := rfl
@[simp] theorem State.pend_busy (c : Issue) (r : Nat) (l : List PReg) : (s.pend c r l).busy = s.busy := rfl
@[simp] theorem State.pend_pitches (c : Issue) (r : Nat) (l : List PReg) : (s.pend c r l).pitches = s.pitches := rfl
@[simp] theorem State.pend_clusters (c : Issue) (r : Nat) (l : List PReg) : (s.pend c r l).clusters = s.clusters := rfl
@[simp] theorem State.pend_stks (c : Issue) (r : Nat) (l : List PReg) : (s.pend c r l).stks = s.stks := rfl
@[simp] theorem State.pend_hbms (c : Issue) (r : Nat) (l : List PReg) : (s.pend c r l).hbms = s.hbms := rfl
@[simp] theorem State.pend_lastAcc (c : Issue) (r : Nat) (l : List PReg) : (s.pend c r l).lastAcc = s.lastAcc := rfl
@[simp] theorem State.pend_decoded (c : Issue) (r : Nat) (l : List PReg) : (s.pend c r l).decoded = s.decoded := rfl
@[simp] theorem State.pend_misses (c : Issue) (r : Nat) (l : List PReg) : (s.pend c r l).misses = s.misses := rfl
@[simp] theorem State.pend_lines (c : Issue) (r : Nat) (l : List PReg) : (s.pend c r l).lines = s.lines := rfl
@[simp] theorem State.pend_hints (c : Issue) (r : Nat) (l : List PReg) : (s.pend c r l).hints = s.hints := rfl
@[simp] theorem State.pend_reqs (c : Issue) (r : Nat) (l : List PReg) : (s.pend c r l).reqs = s.reqs := rfl
@[simp] theorem State.pend_ops (c : Issue) (r : Nat) (l : List PReg) : (s.pend c r l).ops = s.ops := rfl
@[simp] theorem State.pend_commits (c : Issue) (r : Nat) (l : List PReg) : (s.pend c r l).commits = s.commits := rfl
@[simp] theorem State.pend_tasks (c : Issue) (r : Nat) (l : List PReg) : (s.pend c r l).tasks = s.tasks := rfl
@[simp] theorem State.pend_contexts (c : Issue) (r : Nat) (l : List PReg) : (s.pend c r l).contexts = s.contexts := rfl
@[simp] theorem State.pend_images (c : Issue) (r : Nat) (l : List PReg) : (s.pend c r l).images = s.images := rfl
@[simp] theorem State.pend_tensors (c : Issue) (r : Nat) (l : List PReg) : (s.pend c r l).tensors = s.tensors := rfl
@[simp] theorem State.pend_paged (c : Issue) (r : Nat) (l : List PReg) : (s.pend c r l).paged = s.paged := rfl
@[simp] theorem State.pend_access (c : Issue) (r : Nat) (l : List PReg) : (s.pend c r l).access = s.access := rfl
@[simp] theorem State.pend_lastCtx (c : Issue) (r : Nat) (l : List PReg) : (s.pend c r l).lastCtx = s.lastCtx := rfl
@[simp] theorem State.pend_out (c : Issue) (r : Nat) (l : List PReg) : (s.pend c r l).out = s.out := rfl
@[simp] theorem State.pend_part (c : Issue) (r : Nat) (l : List PReg) : (s.pend c r l).part = s.part := rfl
@[simp] theorem State.pend_tb (c : Issue) (r : Nat) (l : List PReg) : (s.pend c r l).tb = s.tb := rfl
@[simp] theorem State.pend_rainfly (c : Issue) (r : Nat) (l : List PReg) : (s.pend c r l).rainfly = s.rainfly := rfl
@[simp] theorem State.pend_cmds (c : Issue) (r : Nat) (l : List PReg) : (s.pend c r l).cmds = s.cmds := rfl
@[simp] theorem State.pend_returned (c : Issue) (r : Nat) (l : List PReg) : (s.pend c r l).returned = s.returned := rfl
@[simp] theorem State.pend_msix (c : Issue) (r : Nat) (l : List PReg) : (s.pend c r l).msix = s.msix := rfl
@[simp] theorem State.pend_lantern (c : Issue) (r : Nat) (l : List PReg) : (s.pend c r l).lantern = s.lantern := rfl
@[simp] theorem State.pend_ports (c : Issue) (r : Nat) (l : List PReg) : (s.pend c r l).ports = s.ports := rfl
@[simp] theorem State.pend_routes (c : Issue) (r : Nat) (l : List PReg) : (s.pend c r l).routes = s.routes := rfl
@[simp] theorem State.pend_ownPeer (c : Issue) (r : Nat) (l : List PReg) : (s.pend c r l).ownPeer = s.ownPeer := rfl
@[simp] theorem State.pend_peerReqs (c : Issue) (r : Nat) (l : List PReg) : (s.pend c r l).peerReqs = s.peerReqs := rfl
@[simp] theorem State.pend_usedPorts (c : Issue) (r : Nat) (l : List PReg) : (s.pend c r l).usedPorts = s.usedPorts := rfl
@[simp] theorem State.pend_running (c : Issue) (r : Nat) (l : List PReg) : (s.pend c r l).running = s.running := rfl

@[simp] theorem State.raiseStream_agenda (n k a p : Nat) : (s.raiseStream n k a p).agenda = s.agenda := rfl
@[simp] theorem State.raiseStream_issue (n k a p : Nat) : (s.raiseStream n k a p).issue = s.issue := rfl
@[simp] theorem State.raiseStream_sel (n k a p : Nat) : (s.raiseStream n k a p).sel = s.sel := rfl
@[simp] theorem State.raiseStream_freeCtr (n k a p : Nat) : (s.raiseStream n k a p).freeCtr = s.freeCtr := rfl
@[simp] theorem State.raiseStream_uid (n k a p : Nat) : (s.raiseStream n k a p).uid = s.uid := rfl
@[simp] theorem State.raiseStream_mem (n k a p : Nat) : (s.raiseStream n k a p).mem = s.mem := rfl
@[simp] theorem State.raiseStream_empty (n k a p : Nat) : (s.raiseStream n k a p).empty = s.empty := rfl
@[simp] theorem State.raiseStream_tags (n k a p : Nat) : (s.raiseStream n k a p).tags = s.tags := rfl
@[simp] theorem State.raiseStream_stamped (n k a p : Nat) : (s.raiseStream n k a p).stamped = s.stamped := rfl
@[simp] theorem State.raiseStream_l1 (n k a p : Nat) : (s.raiseStream n k a p).l1 = s.l1 := rfl
@[simp] theorem State.raiseStream_busy (n k a p : Nat) : (s.raiseStream n k a p).busy = s.busy := rfl
@[simp] theorem State.raiseStream_pitches (n k a p : Nat) : (s.raiseStream n k a p).pitches = s.pitches := rfl
@[simp] theorem State.raiseStream_clusters (n k a p : Nat) : (s.raiseStream n k a p).clusters = s.clusters := rfl
@[simp] theorem State.raiseStream_stks (n k a p : Nat) : (s.raiseStream n k a p).stks = s.stks := rfl
@[simp] theorem State.raiseStream_hbms (n k a p : Nat) : (s.raiseStream n k a p).hbms = s.hbms := rfl
@[simp] theorem State.raiseStream_lastAcc (n k a p : Nat) : (s.raiseStream n k a p).lastAcc = s.lastAcc := rfl
@[simp] theorem State.raiseStream_decoded (n k a p : Nat) : (s.raiseStream n k a p).decoded = s.decoded := rfl
@[simp] theorem State.raiseStream_misses (n k a p : Nat) : (s.raiseStream n k a p).misses = s.misses := rfl
@[simp] theorem State.raiseStream_lines (n k a p : Nat) : (s.raiseStream n k a p).lines = s.lines := rfl
@[simp] theorem State.raiseStream_hints (n k a p : Nat) : (s.raiseStream n k a p).hints = s.hints := rfl
@[simp] theorem State.raiseStream_reqs (n k a p : Nat) : (s.raiseStream n k a p).reqs = s.reqs := rfl
@[simp] theorem State.raiseStream_ops (n k a p : Nat) : (s.raiseStream n k a p).ops = s.ops := rfl
@[simp] theorem State.raiseStream_commits (n k a p : Nat) : (s.raiseStream n k a p).commits = s.commits := rfl
@[simp] theorem State.raiseStream_tasks (n k a p : Nat) : (s.raiseStream n k a p).tasks = s.tasks := rfl
@[simp] theorem State.raiseStream_contexts (n k a p : Nat) : (s.raiseStream n k a p).contexts = s.contexts := rfl
@[simp] theorem State.raiseStream_images (n k a p : Nat) : (s.raiseStream n k a p).images = s.images := rfl
@[simp] theorem State.raiseStream_tensors (n k a p : Nat) : (s.raiseStream n k a p).tensors = s.tensors := rfl
@[simp] theorem State.raiseStream_paged (n k a p : Nat) : (s.raiseStream n k a p).paged = s.paged := rfl
@[simp] theorem State.raiseStream_access (n k a p : Nat) : (s.raiseStream n k a p).access = s.access := rfl
@[simp] theorem State.raiseStream_lastCtx (n k a p : Nat) : (s.raiseStream n k a p).lastCtx = s.lastCtx := rfl
@[simp] theorem State.raiseStream_out (n k a p : Nat) : (s.raiseStream n k a p).out = s.out := rfl
@[simp] theorem State.raiseStream_part (n k a p : Nat) : (s.raiseStream n k a p).part = s.part := rfl
@[simp] theorem State.raiseStream_tb (n k a p : Nat) : (s.raiseStream n k a p).tb = s.tb := rfl
@[simp] theorem State.raiseStream_rainfly (n k a p : Nat) : (s.raiseStream n k a p).rainfly = s.rainfly := rfl
@[simp] theorem State.raiseStream_cmds (n k a p : Nat) : (s.raiseStream n k a p).cmds = s.cmds := rfl
@[simp] theorem State.raiseStream_returned (n k a p : Nat) : (s.raiseStream n k a p).returned = s.returned := rfl
@[simp] theorem State.raiseStream_msix (n k a p : Nat) : (s.raiseStream n k a p).msix = s.msix := rfl
@[simp] theorem State.raiseStream_lantern (n k a p : Nat) : (s.raiseStream n k a p).lantern = s.lantern := rfl
@[simp] theorem State.raiseStream_ports (n k a p : Nat) : (s.raiseStream n k a p).ports = s.ports := rfl
@[simp] theorem State.raiseStream_routes (n k a p : Nat) : (s.raiseStream n k a p).routes = s.routes := rfl
@[simp] theorem State.raiseStream_ownPeer (n k a p : Nat) : (s.raiseStream n k a p).ownPeer = s.ownPeer := rfl
@[simp] theorem State.raiseStream_peerReqs (n k a p : Nat) : (s.raiseStream n k a p).peerReqs = s.peerReqs := rfl
@[simp] theorem State.raiseStream_usedPorts (n k a p : Nat) : (s.raiseStream n k a p).usedPorts = s.usedPorts := rfl
@[simp] theorem State.raiseStream_running (n k a p : Nat) : (s.raiseStream n k a p).running = s.running := rfl

@[simp] theorem State.parkLane_agenda (n k : Nat) (r : LaneRec) (a : Nat) : (s.parkLane n k r a).agenda = s.agenda := rfl
@[simp] theorem State.parkLane_issue (n k : Nat) (r : LaneRec) (a : Nat) : (s.parkLane n k r a).issue = s.issue := rfl
@[simp] theorem State.parkLane_sel (n k : Nat) (r : LaneRec) (a : Nat) : (s.parkLane n k r a).sel = s.sel := rfl
@[simp] theorem State.parkLane_freeCtr (n k : Nat) (r : LaneRec) (a : Nat) : (s.parkLane n k r a).freeCtr = s.freeCtr := rfl
@[simp] theorem State.parkLane_uid (n k : Nat) (r : LaneRec) (a : Nat) : (s.parkLane n k r a).uid = s.uid := rfl
@[simp] theorem State.parkLane_mem (n k : Nat) (r : LaneRec) (a : Nat) : (s.parkLane n k r a).mem = s.mem := rfl
@[simp] theorem State.parkLane_empty (n k : Nat) (r : LaneRec) (a : Nat) : (s.parkLane n k r a).empty = s.empty := rfl
@[simp] theorem State.parkLane_tags (n k : Nat) (r : LaneRec) (a : Nat) : (s.parkLane n k r a).tags = s.tags := rfl
@[simp] theorem State.parkLane_stamped (n k : Nat) (r : LaneRec) (a : Nat) : (s.parkLane n k r a).stamped = s.stamped := rfl
@[simp] theorem State.parkLane_l1 (n k : Nat) (r : LaneRec) (a : Nat) : (s.parkLane n k r a).l1 = s.l1 := rfl
@[simp] theorem State.parkLane_busy (n k : Nat) (r : LaneRec) (a : Nat) : (s.parkLane n k r a).busy = s.busy := rfl
@[simp] theorem State.parkLane_pitches (n k : Nat) (r : LaneRec) (a : Nat) : (s.parkLane n k r a).pitches = s.pitches := rfl
@[simp] theorem State.parkLane_clusters (n k : Nat) (r : LaneRec) (a : Nat) : (s.parkLane n k r a).clusters = s.clusters := rfl
@[simp] theorem State.parkLane_stks (n k : Nat) (r : LaneRec) (a : Nat) : (s.parkLane n k r a).stks = s.stks := rfl
@[simp] theorem State.parkLane_hbms (n k : Nat) (r : LaneRec) (a : Nat) : (s.parkLane n k r a).hbms = s.hbms := rfl
@[simp] theorem State.parkLane_lastAcc (n k : Nat) (r : LaneRec) (a : Nat) : (s.parkLane n k r a).lastAcc = s.lastAcc := rfl
@[simp] theorem State.parkLane_decoded (n k : Nat) (r : LaneRec) (a : Nat) : (s.parkLane n k r a).decoded = s.decoded := rfl
@[simp] theorem State.parkLane_misses (n k : Nat) (r : LaneRec) (a : Nat) : (s.parkLane n k r a).misses = s.misses := rfl
@[simp] theorem State.parkLane_lines (n k : Nat) (r : LaneRec) (a : Nat) : (s.parkLane n k r a).lines = s.lines := rfl
@[simp] theorem State.parkLane_hints (n k : Nat) (r : LaneRec) (a : Nat) : (s.parkLane n k r a).hints = s.hints := rfl
@[simp] theorem State.parkLane_reqs (n k : Nat) (r : LaneRec) (a : Nat) : (s.parkLane n k r a).reqs = s.reqs := rfl
@[simp] theorem State.parkLane_ops (n k : Nat) (r : LaneRec) (a : Nat) : (s.parkLane n k r a).ops = s.ops := rfl
@[simp] theorem State.parkLane_commits (n k : Nat) (r : LaneRec) (a : Nat) : (s.parkLane n k r a).commits = s.commits := rfl
@[simp] theorem State.parkLane_tasks (n k : Nat) (r : LaneRec) (a : Nat) : (s.parkLane n k r a).tasks = s.tasks := rfl
@[simp] theorem State.parkLane_contexts (n k : Nat) (r : LaneRec) (a : Nat) : (s.parkLane n k r a).contexts = s.contexts := rfl
@[simp] theorem State.parkLane_images (n k : Nat) (r : LaneRec) (a : Nat) : (s.parkLane n k r a).images = s.images := rfl
@[simp] theorem State.parkLane_tensors (n k : Nat) (r : LaneRec) (a : Nat) : (s.parkLane n k r a).tensors = s.tensors := rfl
@[simp] theorem State.parkLane_paged (n k : Nat) (r : LaneRec) (a : Nat) : (s.parkLane n k r a).paged = s.paged := rfl
@[simp] theorem State.parkLane_access (n k : Nat) (r : LaneRec) (a : Nat) : (s.parkLane n k r a).access = s.access := rfl
@[simp] theorem State.parkLane_lastCtx (n k : Nat) (r : LaneRec) (a : Nat) : (s.parkLane n k r a).lastCtx = s.lastCtx := rfl
@[simp] theorem State.parkLane_out (n k : Nat) (r : LaneRec) (a : Nat) : (s.parkLane n k r a).out = s.out := rfl
@[simp] theorem State.parkLane_part (n k : Nat) (r : LaneRec) (a : Nat) : (s.parkLane n k r a).part = s.part := rfl
@[simp] theorem State.parkLane_tb (n k : Nat) (r : LaneRec) (a : Nat) : (s.parkLane n k r a).tb = s.tb := rfl
@[simp] theorem State.parkLane_rainfly (n k : Nat) (r : LaneRec) (a : Nat) : (s.parkLane n k r a).rainfly = s.rainfly := rfl
@[simp] theorem State.parkLane_cmds (n k : Nat) (r : LaneRec) (a : Nat) : (s.parkLane n k r a).cmds = s.cmds := rfl
@[simp] theorem State.parkLane_returned (n k : Nat) (r : LaneRec) (a : Nat) : (s.parkLane n k r a).returned = s.returned := rfl
@[simp] theorem State.parkLane_msix (n k : Nat) (r : LaneRec) (a : Nat) : (s.parkLane n k r a).msix = s.msix := rfl
@[simp] theorem State.parkLane_lantern (n k : Nat) (r : LaneRec) (a : Nat) : (s.parkLane n k r a).lantern = s.lantern := rfl
@[simp] theorem State.parkLane_ports (n k : Nat) (r : LaneRec) (a : Nat) : (s.parkLane n k r a).ports = s.ports := rfl
@[simp] theorem State.parkLane_routes (n k : Nat) (r : LaneRec) (a : Nat) : (s.parkLane n k r a).routes = s.routes := rfl
@[simp] theorem State.parkLane_ownPeer (n k : Nat) (r : LaneRec) (a : Nat) : (s.parkLane n k r a).ownPeer = s.ownPeer := rfl
@[simp] theorem State.parkLane_peerReqs (n k : Nat) (r : LaneRec) (a : Nat) : (s.parkLane n k r a).peerReqs = s.peerReqs := rfl
@[simp] theorem State.parkLane_usedPorts (n k : Nat) (r : LaneRec) (a : Nat) : (s.parkLane n k r a).usedPorts = s.usedPorts := rfl
@[simp] theorem State.parkLane_running (n k : Nat) (r : LaneRec) (a : Nat) : (s.parkLane n k r a).running = s.running := rfl

@[simp] theorem State.fly_agenda (c : Issue) (l : Nat) (e : List Effect) : (s.fly c l e).agenda = s.agenda := by
  unfold State.fly; split <;> [rfl; (split <;> rfl)]
@[simp] theorem State.fly_issue (c : Issue) (l : Nat) (e : List Effect) : (s.fly c l e).issue = s.issue := by
  unfold State.fly; split <;> [rfl; (split <;> rfl)]
@[simp] theorem State.fly_sel (c : Issue) (l : Nat) (e : List Effect) : (s.fly c l e).sel = s.sel := by
  unfold State.fly; split <;> [rfl; (split <;> rfl)]
@[simp] theorem State.fly_freeCtr (c : Issue) (l : Nat) (e : List Effect) : (s.fly c l e).freeCtr = s.freeCtr := by
  unfold State.fly; split <;> [rfl; (split <;> rfl)]
@[simp] theorem State.fly_uid (c : Issue) (l : Nat) (e : List Effect) : (s.fly c l e).uid = s.uid := by
  unfold State.fly; split <;> [rfl; (split <;> rfl)]
@[simp] theorem State.fly_mem (c : Issue) (l : Nat) (e : List Effect) : (s.fly c l e).mem = s.mem := by
  unfold State.fly; split <;> [rfl; (split <;> rfl)]
@[simp] theorem State.fly_empty (c : Issue) (l : Nat) (e : List Effect) : (s.fly c l e).empty = s.empty := by
  unfold State.fly; split <;> [rfl; (split <;> rfl)]
@[simp] theorem State.fly_tags (c : Issue) (l : Nat) (e : List Effect) : (s.fly c l e).tags = s.tags := by
  unfold State.fly; split <;> [rfl; (split <;> rfl)]
@[simp] theorem State.fly_stamped (c : Issue) (l : Nat) (e : List Effect) : (s.fly c l e).stamped = s.stamped := by
  unfold State.fly; split <;> [rfl; (split <;> rfl)]
@[simp] theorem State.fly_l1 (c : Issue) (l : Nat) (e : List Effect) : (s.fly c l e).l1 = s.l1 := by
  unfold State.fly; split <;> [rfl; (split <;> rfl)]
@[simp] theorem State.fly_busy (c : Issue) (l : Nat) (e : List Effect) : (s.fly c l e).busy = s.busy := by
  unfold State.fly; split <;> [rfl; (split <;> rfl)]
@[simp] theorem State.fly_pitches (c : Issue) (l : Nat) (e : List Effect) : (s.fly c l e).pitches = s.pitches := by
  unfold State.fly; split <;> [rfl; (split <;> rfl)]
@[simp] theorem State.fly_clusters (c : Issue) (l : Nat) (e : List Effect) : (s.fly c l e).clusters = s.clusters := by
  unfold State.fly; split <;> [rfl; (split <;> rfl)]
@[simp] theorem State.fly_stks (c : Issue) (l : Nat) (e : List Effect) : (s.fly c l e).stks = s.stks := by
  unfold State.fly; split <;> [rfl; (split <;> rfl)]
@[simp] theorem State.fly_hbms (c : Issue) (l : Nat) (e : List Effect) : (s.fly c l e).hbms = s.hbms := by
  unfold State.fly; split <;> [rfl; (split <;> rfl)]
@[simp] theorem State.fly_lastAcc (c : Issue) (l : Nat) (e : List Effect) : (s.fly c l e).lastAcc = s.lastAcc := by
  unfold State.fly; split <;> [rfl; (split <;> rfl)]
@[simp] theorem State.fly_decoded (c : Issue) (l : Nat) (e : List Effect) : (s.fly c l e).decoded = s.decoded := by
  unfold State.fly; split <;> [rfl; (split <;> rfl)]
@[simp] theorem State.fly_misses (c : Issue) (l : Nat) (e : List Effect) : (s.fly c l e).misses = s.misses := by
  unfold State.fly; split <;> [rfl; (split <;> rfl)]
@[simp] theorem State.fly_lines (c : Issue) (l : Nat) (e : List Effect) : (s.fly c l e).lines = s.lines := by
  unfold State.fly; split <;> [rfl; (split <;> rfl)]
@[simp] theorem State.fly_hints (c : Issue) (l : Nat) (e : List Effect) : (s.fly c l e).hints = s.hints := by
  unfold State.fly; split <;> [rfl; (split <;> rfl)]
@[simp] theorem State.fly_reqs (c : Issue) (l : Nat) (e : List Effect) : (s.fly c l e).reqs = s.reqs := by
  unfold State.fly; split <;> [rfl; (split <;> rfl)]
@[simp] theorem State.fly_ops (c : Issue) (l : Nat) (e : List Effect) : (s.fly c l e).ops = s.ops := by
  unfold State.fly; split <;> [rfl; (split <;> rfl)]
@[simp] theorem State.fly_commits (c : Issue) (l : Nat) (e : List Effect) : (s.fly c l e).commits = s.commits := by
  unfold State.fly; split <;> [rfl; (split <;> rfl)]
@[simp] theorem State.fly_tasks (c : Issue) (l : Nat) (e : List Effect) : (s.fly c l e).tasks = s.tasks := by
  unfold State.fly; split <;> [rfl; (split <;> rfl)]
@[simp] theorem State.fly_contexts (c : Issue) (l : Nat) (e : List Effect) : (s.fly c l e).contexts = s.contexts := by
  unfold State.fly; split <;> [rfl; (split <;> rfl)]
@[simp] theorem State.fly_images (c : Issue) (l : Nat) (e : List Effect) : (s.fly c l e).images = s.images := by
  unfold State.fly; split <;> [rfl; (split <;> rfl)]
@[simp] theorem State.fly_tensors (c : Issue) (l : Nat) (e : List Effect) : (s.fly c l e).tensors = s.tensors := by
  unfold State.fly; split <;> [rfl; (split <;> rfl)]
@[simp] theorem State.fly_paged (c : Issue) (l : Nat) (e : List Effect) : (s.fly c l e).paged = s.paged := by
  unfold State.fly; split <;> [rfl; (split <;> rfl)]
@[simp] theorem State.fly_access (c : Issue) (l : Nat) (e : List Effect) : (s.fly c l e).access = s.access := by
  unfold State.fly; split <;> [rfl; (split <;> rfl)]
@[simp] theorem State.fly_lastCtx (c : Issue) (l : Nat) (e : List Effect) : (s.fly c l e).lastCtx = s.lastCtx := by
  unfold State.fly; split <;> [rfl; (split <;> rfl)]
@[simp] theorem State.fly_out (c : Issue) (l : Nat) (e : List Effect) : (s.fly c l e).out = s.out := by
  unfold State.fly; split <;> [rfl; (split <;> rfl)]
@[simp] theorem State.fly_part (c : Issue) (l : Nat) (e : List Effect) : (s.fly c l e).part = s.part := by
  unfold State.fly; split <;> [rfl; (split <;> rfl)]
@[simp] theorem State.fly_tb (c : Issue) (l : Nat) (e : List Effect) : (s.fly c l e).tb = s.tb := by
  unfold State.fly; split <;> [rfl; (split <;> rfl)]
@[simp] theorem State.fly_rainfly (c : Issue) (l : Nat) (e : List Effect) : (s.fly c l e).rainfly = s.rainfly := by
  unfold State.fly; split <;> [rfl; (split <;> rfl)]
@[simp] theorem State.fly_cmds (c : Issue) (l : Nat) (e : List Effect) : (s.fly c l e).cmds = s.cmds := by
  unfold State.fly; split <;> [rfl; (split <;> rfl)]
@[simp] theorem State.fly_returned (c : Issue) (l : Nat) (e : List Effect) : (s.fly c l e).returned = s.returned := by
  unfold State.fly; split <;> [rfl; (split <;> rfl)]
@[simp] theorem State.fly_msix (c : Issue) (l : Nat) (e : List Effect) : (s.fly c l e).msix = s.msix := by
  unfold State.fly; split <;> [rfl; (split <;> rfl)]
@[simp] theorem State.fly_lantern (c : Issue) (l : Nat) (e : List Effect) : (s.fly c l e).lantern = s.lantern := by
  unfold State.fly; split <;> [rfl; (split <;> rfl)]
@[simp] theorem State.fly_ports (c : Issue) (l : Nat) (e : List Effect) : (s.fly c l e).ports = s.ports := by
  unfold State.fly; split <;> [rfl; (split <;> rfl)]
@[simp] theorem State.fly_routes (c : Issue) (l : Nat) (e : List Effect) : (s.fly c l e).routes = s.routes := by
  unfold State.fly; split <;> [rfl; (split <;> rfl)]
@[simp] theorem State.fly_ownPeer (c : Issue) (l : Nat) (e : List Effect) : (s.fly c l e).ownPeer = s.ownPeer := by
  unfold State.fly; split <;> [rfl; (split <;> rfl)]
@[simp] theorem State.fly_peerReqs (c : Issue) (l : Nat) (e : List Effect) : (s.fly c l e).peerReqs = s.peerReqs := by
  unfold State.fly; split <;> [rfl; (split <;> rfl)]
@[simp] theorem State.fly_usedPorts (c : Issue) (l : Nat) (e : List Effect) : (s.fly c l e).usedPorts = s.usedPorts := by
  unfold State.fly; split <;> [rfl; (split <;> rfl)]
@[simp] theorem State.fly_running (c : Issue) (l : Nat) (e : List Effect) : (s.fly c l e).running = s.running := by
  unfold State.fly; split <;> [rfl; (split <;> rfl)]

@[simp] theorem State.raise_agenda (c : Issue) (k a l : Nat) : (s.raise c k a l).agenda = s.agenda := by
  unfold State.raise; split <;> rfl
@[simp] theorem State.raise_sel (c : Issue) (k a l : Nat) : (s.raise c k a l).sel = s.sel := by
  unfold State.raise; split <;> rfl
@[simp] theorem State.raise_freeCtr (c : Issue) (k a l : Nat) : (s.raise c k a l).freeCtr = s.freeCtr := by
  unfold State.raise; split <;> rfl
@[simp] theorem State.raise_uid (c : Issue) (k a l : Nat) : (s.raise c k a l).uid = s.uid := by
  unfold State.raise; split <;> rfl
@[simp] theorem State.raise_mem (c : Issue) (k a l : Nat) : (s.raise c k a l).mem = s.mem := by
  unfold State.raise; split <;> rfl
@[simp] theorem State.raise_empty (c : Issue) (k a l : Nat) : (s.raise c k a l).empty = s.empty := by
  unfold State.raise; split <;> rfl
@[simp] theorem State.raise_tags (c : Issue) (k a l : Nat) : (s.raise c k a l).tags = s.tags := by
  unfold State.raise; split <;> rfl
@[simp] theorem State.raise_stamped (c : Issue) (k a l : Nat) : (s.raise c k a l).stamped = s.stamped := by
  unfold State.raise; split <;> rfl
@[simp] theorem State.raise_l1 (c : Issue) (k a l : Nat) : (s.raise c k a l).l1 = s.l1 := by
  unfold State.raise; split <;> rfl
@[simp] theorem State.raise_busy (c : Issue) (k a l : Nat) : (s.raise c k a l).busy = s.busy := by
  unfold State.raise; split <;> rfl
@[simp] theorem State.raise_pitches (c : Issue) (k a l : Nat) : (s.raise c k a l).pitches = s.pitches := by
  unfold State.raise; split <;> rfl
@[simp] theorem State.raise_clusters (c : Issue) (k a l : Nat) : (s.raise c k a l).clusters = s.clusters := by
  unfold State.raise; split <;> rfl
@[simp] theorem State.raise_stks (c : Issue) (k a l : Nat) : (s.raise c k a l).stks = s.stks := by
  unfold State.raise; split <;> rfl
@[simp] theorem State.raise_hbms (c : Issue) (k a l : Nat) : (s.raise c k a l).hbms = s.hbms := by
  unfold State.raise; split <;> rfl
@[simp] theorem State.raise_lastAcc (c : Issue) (k a l : Nat) : (s.raise c k a l).lastAcc = s.lastAcc := by
  unfold State.raise; split <;> rfl
@[simp] theorem State.raise_decoded (c : Issue) (k a l : Nat) : (s.raise c k a l).decoded = s.decoded := by
  unfold State.raise; split <;> rfl
@[simp] theorem State.raise_misses (c : Issue) (k a l : Nat) : (s.raise c k a l).misses = s.misses := by
  unfold State.raise; split <;> rfl
@[simp] theorem State.raise_lines (c : Issue) (k a l : Nat) : (s.raise c k a l).lines = s.lines := by
  unfold State.raise; split <;> rfl
@[simp] theorem State.raise_hints (c : Issue) (k a l : Nat) : (s.raise c k a l).hints = s.hints := by
  unfold State.raise; split <;> rfl
@[simp] theorem State.raise_reqs (c : Issue) (k a l : Nat) : (s.raise c k a l).reqs = s.reqs := by
  unfold State.raise; split <;> rfl
@[simp] theorem State.raise_ops (c : Issue) (k a l : Nat) : (s.raise c k a l).ops = s.ops := by
  unfold State.raise; split <;> rfl
@[simp] theorem State.raise_commits (c : Issue) (k a l : Nat) : (s.raise c k a l).commits = s.commits := by
  unfold State.raise; split <;> rfl
@[simp] theorem State.raise_tasks (c : Issue) (k a l : Nat) : (s.raise c k a l).tasks = s.tasks := by
  unfold State.raise; split <;> rfl
@[simp] theorem State.raise_contexts (c : Issue) (k a l : Nat) : (s.raise c k a l).contexts = s.contexts := by
  unfold State.raise; split <;> rfl
@[simp] theorem State.raise_images (c : Issue) (k a l : Nat) : (s.raise c k a l).images = s.images := by
  unfold State.raise; split <;> rfl
@[simp] theorem State.raise_tensors (c : Issue) (k a l : Nat) : (s.raise c k a l).tensors = s.tensors := by
  unfold State.raise; split <;> rfl
@[simp] theorem State.raise_paged (c : Issue) (k a l : Nat) : (s.raise c k a l).paged = s.paged := by
  unfold State.raise; split <;> rfl
@[simp] theorem State.raise_access (c : Issue) (k a l : Nat) : (s.raise c k a l).access = s.access := by
  unfold State.raise; split <;> rfl
@[simp] theorem State.raise_lastCtx (c : Issue) (k a l : Nat) : (s.raise c k a l).lastCtx = s.lastCtx := by
  unfold State.raise; split <;> rfl
@[simp] theorem State.raise_out (c : Issue) (k a l : Nat) : (s.raise c k a l).out = s.out := by
  unfold State.raise; split <;> rfl
@[simp] theorem State.raise_part (c : Issue) (k a l : Nat) : (s.raise c k a l).part = s.part := by
  unfold State.raise; split <;> rfl
@[simp] theorem State.raise_tb (c : Issue) (k a l : Nat) : (s.raise c k a l).tb = s.tb := by
  unfold State.raise; split <;> rfl
@[simp] theorem State.raise_rainfly (c : Issue) (k a l : Nat) : (s.raise c k a l).rainfly = s.rainfly := by
  unfold State.raise; split <;> rfl
@[simp] theorem State.raise_cmds (c : Issue) (k a l : Nat) : (s.raise c k a l).cmds = s.cmds := by
  unfold State.raise; split <;> rfl
@[simp] theorem State.raise_returned (c : Issue) (k a l : Nat) : (s.raise c k a l).returned = s.returned := by
  unfold State.raise; split <;> rfl
@[simp] theorem State.raise_msix (c : Issue) (k a l : Nat) : (s.raise c k a l).msix = s.msix := by
  unfold State.raise; split <;> rfl
@[simp] theorem State.raise_lantern (c : Issue) (k a l : Nat) : (s.raise c k a l).lantern = s.lantern := by
  unfold State.raise; split <;> rfl
@[simp] theorem State.raise_ports (c : Issue) (k a l : Nat) : (s.raise c k a l).ports = s.ports := by
  unfold State.raise; split <;> rfl
@[simp] theorem State.raise_routes (c : Issue) (k a l : Nat) : (s.raise c k a l).routes = s.routes := by
  unfold State.raise; split <;> rfl
@[simp] theorem State.raise_ownPeer (c : Issue) (k a l : Nat) : (s.raise c k a l).ownPeer = s.ownPeer := by
  unfold State.raise; split <;> rfl
@[simp] theorem State.raise_peerReqs (c : Issue) (k a l : Nat) : (s.raise c k a l).peerReqs = s.peerReqs := by
  unfold State.raise; split <;> rfl
@[simp] theorem State.raise_usedPorts (c : Issue) (k a l : Nat) : (s.raise c k a l).usedPorts = s.usedPorts := by
  unfold State.raise; split <;> rfl
@[simp] theorem State.raise_running (c : Issue) (k a l : Nat) : (s.raise c k a l).running = s.running := by
  unfold State.raise; split <;> rfl

end Sys2Proof.Machine
end

