-- ==== Sys2Proof/Laws/Ops.lean ====
section
/-! SUPPORT. What the shared operations can do: a lookup after a change, a slot operation's three outcomes, results sent into
flight, traps raised. -/

namespace Sys2Proof.Machine

/-- A lookup by key after the entries of one key have changed. -/
theorem find?_map_key {α : Type} (key : α → Nat) (f : α → α) (hf : ∀ x, key (f x) = key x) (l : List α) (n m : Nat) :
    (l.map fun x => if key x == n then f x else x).find? (fun x => key x == m) =
      (l.find? fun x => key x == m).map fun x => if m = n then f x else x := by
  induction l with
  | nil => rfl
  | cons a r ih =>
    have e : key (if key a == n then f a else a) = key a := by split <;> simp [hf]
    rw [List.map_cons, List.find?_cons, List.find?_cons, e, ih]
    by_cases hm : key a = m
    · subst hm; simp
    · have hm' : (key a == m) = false := by simpa using hm
      simp only [hm']

theorem State.block?_modBlock (s : State) (n m : Nat) (f : Block → Block) (hf : ∀ b, (f b).bid = b.bid) :
    (s.modBlock n f).block? m = (s.block? m).map fun b => if m = n then f b else b :=
  find?_map_key Block.bid f hf s.blocks n m

theorem Block.warp?_modWarp (b : Block) (n m : Nat) (f : Warp → Warp) (hf : ∀ w, (f w).num = w.num) :
    (b.modWarp n f).warp? m = (b.warp? m).map fun w => if m = n then f w else w :=
  find?_map_key Warp.num f hf b.warps n m

theorem State.ctx?_modCtx (s : State) (n m : Nat) (f : Context → Context) (hf : ∀ x, (f x).num = x.num) :
    (s.modCtx n f).ctx? m = (s.ctx? m).map fun x => if m = n then f x else x :=
  find?_map_key Context.num f hf s.contexts n m

theorem State.tensor?_modTensor (s : State) (n m : Nat) (f : Tensor → Tensor) (hf : ∀ x, (f x).base = x.base) :
    (s.modTensor n f).tensor? m = (s.tensor? m).map fun x => if m = n then f x else x :=
  find?_map_key Tensor.base f hf s.tensors n m

/-- A block found by its number has it. -/
theorem State.block?_bid {s : State} {n : Nat} {b : Block} (h : s.block? n = some b) : b.bid = n := by
  simpa using List.find?_some h

theorem Block.warp?_num {b : Block} {n : Nat} {w : Warp} (h : b.warp? n = some w) : w.num = n := by
  simpa using List.find?_some h

theorem State.ctx?_num {s : State} {n : Nat} {x : Context} (h : s.ctx? n = some x) : x.num = n := by
  simpa using List.find?_some h

theorem State.tensor?_base {s : State} {n : Nat} {x : Tensor} (h : s.tensor? n = some x) : x.base = n := by
  simpa using List.find?_some h

/-- A block after a change of one warp. -/
theorem State.block?_modWarp (s : State) (n k m : Nat) (f : Warp → Warp) :
    (s.modWarp n k f).block? m = (s.block? m).map fun b => if m = n then b.modWarp k f else b :=
  s.block?_modBlock n m _ fun _ => rfl

/-- A warp after a change of one warp. -/
theorem State.warp?_modWarp (s : State) (n k m j : Nat) (f : Warp → Warp) (hf : ∀ w, (f w).num = w.num) :
    (s.modWarp n k f).warp? m j = (s.warp? m j).map fun w => if m = n ∧ j = k then f w else w := by
  unfold State.warp?
  rw [State.block?_modWarp]
  cases s.block? m with
  | none => rfl
  | some b =>
    by_cases h : m = n
    · simp [h, Block.warp?_modWarp _ _ _ _ hf]
    · simp [h]

theorem State.warp?_of {s : State} {n k : Nat} {b : Block} {w : Warp} (hb : s.block? n = some b)
    (hw : b.warp? k = some w) : s.warp? n k = some w := by
  simp [State.warp?, hb, hw]

/-- A slot operation with no word in issue stops. -/
theorem slotOp_idle {s : State} (i : Instr) (f : Issue → Block → Warp → State → State) (h : s.issue = none) :
    slotOp s i f = .fault .noWarpIssuing := by
  simp [slotOp, h]

/-- A slot operation without a trap acts. -/
theorem slotOp_act {s : State} {c : Issue} {b : Block} {w : Warp} (i : Instr) (f : Issue → Block → Warp → State → State)
    (h1 : s.issue = some c) (h2 : s.block? c.block = some b) (h3 : b.warp? c.warp = some w) (ht : s.trapOf c b w i = none) :
    slotOp s i f = .next (f c b w s) := by
  simp [slotOp, h1, h2, h3, ht]

/-- A slot operation of a word already known to trap nowhere acts (R58). -/
theorem slotOp_clear {s : State} {c : Issue} {b : Block} {w : Warp} (i : Instr) (f : Issue → Block → Warp → State → State)
    (h1 : s.issue = some c) (h2 : s.block? c.block = some b) (h3 : b.warp? c.warp = some w) (hc : c.clear = true) :
    slotOp s i f = .next (f c b w s) := by
  simp [slotOp, h1, h2, h3, hc]

/-- A slot operation with a trap raises it and has no other effect (R58). -/
theorem slotOp_trap {s : State} {c : Issue} {b : Block} {w : Warp} {t : Nat × Nat} (i : Instr)
    (f : Issue → Block → Warp → State → State) (h1 : s.issue = some c) (h2 : s.block? c.block = some b)
    (h3 : b.warp? c.warp = some w) (hc : c.clear = false) (ht : s.trapOf c b w i = some t) :
    slotOp s i f = .next (s.raise c t.1 t.2 (slotNum c.cur)) := by
  simp [slotOp, h1, h2, h3, hc, ht]

/-- Whatever a slot operation answers: its fault, its trap, or its effect. -/
theorem slotOp_cases (s : State) (i : Instr) (f : Issue → Block → Warp → State → State) :
    slotOp s i f = .fault .noWarpIssuing ∨
    ∃ c b w, s.issue = some c ∧ s.block? c.block = some b ∧ b.warp? c.warp = some w ∧
      ((∃ t, c.clear = false ∧ s.trapOf c b w i = some t ∧ slotOp s i f = .next (s.raise c t.1 t.2 (slotNum c.cur))) ∨
       ((c.clear = true ∨ s.trapOf c b w i = none) ∧ slotOp s i f = .next (f c b w s))) := by
  cases h1 : s.issue with
  | none => exact .inl (slotOp_idle i f h1)
  | some c =>
    cases h2 : s.block? c.block with
    | none => left; simp [slotOp, h1, h2]
    | some b =>
      cases h3 : b.warp? c.warp with
      | none => left; simp [slotOp, h1, h2, h3]
      | some w =>
        refine .inr ⟨c, b, w, rfl, h2, h3, ?_⟩
        cases hc : c.clear with
        | true => exact .inr ⟨.inl rfl, slotOp_clear i f h1 h2 h3 hc⟩
        | false =>
          cases ht : s.trapOf c b w i with
          | none => exact .inr ⟨.inr rfl, slotOp_act i f h1 h2 h3 ht⟩
          | some t => exact .inl ⟨t, rfl, rfl, slotOp_trap i f h1 h2 h3 hc ht⟩

/-- A uniform operation whose guard holds acts. -/
theorem uniOp_act {s : State} {c : Issue} {b : Block} {w : Warp} {g : Guard} (i : Instr)
    (f : Issue → Block → Warp → State → State) (h1 : s.issue = some c) (h2 : s.block? c.block = some b)
    (h3 : b.warp? c.warp = some w) (hg : qGuard w g = true) (ht : s.trapOf c b w i = none) :
    uniOp s i g f = .next (f c b w s) := by
  rw [uniOp, slotOp_act i _ h1 h2 h3 ht]; simp [hg]

/-- A uniform operation whose guard is false does nothing. -/
theorem uniOp_skip {s : State} {c : Issue} {b : Block} {w : Warp} {g : Guard} (i : Instr)
    (f : Issue → Block → Warp → State → State) (h1 : s.issue = some c) (h2 : s.block? c.block = some b)
    (h3 : b.warp? c.warp = some w) (hg : qGuard w g = false) (ht : s.trapOf c b w i = none) :
    uniOp s i g f = .next s := by
  rw [uniOp, slotOp_act i _ h1 h2 h3 ht]; simp [hg]

theorem uniOp_trap {s : State} {c : Issue} {b : Block} {w : Warp} {g : Guard} {t : Nat × Nat} (i : Instr)
    (f : Issue → Block → Warp → State → State) (h1 : s.issue = some c) (h2 : s.block? c.block = some b)
    (h3 : b.warp? c.warp = some w) (hc : c.clear = false) (ht : s.trapOf c b w i = some t) :
    uniOp s i g f = .next (s.raise c t.1 t.2 (slotNum c.cur)) :=
  slotOp_trap i _ h1 h2 h3 hc ht

theorem uniRes_act {s : State} {c : Issue} {b : Block} {w : Warp} {g : Guard} (i : Instr) (f : Issue → Warp → List Effect)
    (h1 : s.issue = some c) (h2 : s.block? c.block = some b) (h3 : b.warp? c.warp = some w) (hg : qGuard w g = true)
    (ht : s.trapOf c b w i = none) : uniRes s i g f = .next (s.fly c 1 (f c w)) :=
  uniOp_act i _ h1 h2 h3 hg ht

/-- Results in flight are one entry more of the issuing warp's (R52). -/
theorem State.fly_eq {s : State} {c : Issue} {b : Block} {w : Warp} (lat : Nat) (effs : List Effect)
    (h2 : s.block? c.block = some b) (h3 : b.warp? c.warp = some w) :
    s.fly c lat effs = s.modWarp c.block c.warp fun v => { v with flights := v.flights ++
      [{ landing := c.cycle + lat, issued := c.cycle, turn := (s.pitch (coreId b w) w.pitch).turn, effs := effs }] } := by
  simp [State.fly, h2, h3]

/-- Results of no lane are none (R55); of some lane they are those of the slot. -/
@[simp] theorem State.flyIn_zero (s : State) (c : Issue) (lat : Nat) (effs : List Effect) : s.flyIn c 0 lat effs = s := rfl
theorem State.flyIn_some (s : State) (c : Issue) {m : Mask} (lat : Nat) (effs : List Effect) (h : m ≠ 0) :
    s.flyIn c m lat effs = s.fly c lat effs := if_neg h

/-- A trap raised is the trap of the issuing warp, and ends the word (R58). -/
theorem State.raise_eq {s : State} {c : Issue} {w : Warp} (code arg sl : Nat) (h : s.warp? c.block c.warp = some w) :
    s.raise c code arg sl =
      { s.modWarp c.block c.warp (fun v => { v with
          trap := some { code := code, arg := arg, hpc := c.tok, hnext := (w.after c).1, loops := (w.after c).2.1,
                         idle := (w.after c).2.2, slot := sl, rcd := 0xFFFF, lane := 0xFF, c0 := 0, c1 := 0 } }) with
        issue := some { c with slots := [], trapped := true } } := by
  simp [State.raise, h]

@[simp] theorem State.pitch_setPitch (s : State) (x : Pitch) : (s.setPitch x).pitch x.core x.pitch = x := by
  simp [State.pitch, State.setPitch]

theorem State.stack?_modStack (s : State) (k j : Nat) (f : Stack → Stack) (hk : k < s.stks.length) :
    (s.modStack k f).stack? j = if j = k then f (s.stack? k) else s.stack? j := by
  unfold State.stack? State.modStack
  by_cases h : j = k
  · subst h; simp [List.getD, hk]
  · simp [List.getD, h, Ne.symm h]

theorem State.cluster_modCluster (s : State) (k c j d : Nat) (f : Cluster → Cluster) (hk : 4 * k + c < s.clusters.length) :
    (s.modCluster k c f).cluster j d = if 4 * j + d = 4 * k + c then f (s.cluster k c) else s.cluster j d := by
  unfold State.cluster State.modCluster
  by_cases h : 4 * j + d = 4 * k + c
  · simp [List.getD, h, hk]
  · simp [List.getD, h, Ne.symm h]

-- Lane faults (R246, R351).

@[simp] theorem Warp.laneFault_program (w : Warp) (r : LaneRec) (n : Nat) : w.laneFault false r n = w.park r := rfl
@[simp] theorem Warp.laneFault_handler (w : Warp) (r : LaneRec) (n : Nat) : w.laneFault true r n = w.handlerFault r n := rfl

@[simp] theorem Warp.park_num (w : Warp) (r : LaneRec) : (w.park r).num = w.num := by
  unfold Warp.park; split <;> rfl

/-- A handler's fault changes the trap alone. -/
theorem Warp.handlerFault_frame (w : Warp) (r : LaneRec) (n : Nat) : w.handlerFault r n = { w with trap := (w.handlerFault r n).trap } := by
  unfold Warp.handlerFault; extract_lets; split <;> rfl

/-- With no trap standing it is the fatal error, at the token and in the lane of the fault. -/
theorem Warp.handlerFault_trap {w : Warp} (r : LaneRec) (n : Nat) (h : w.trap = none) :
    (w.handlerFault r n).trap = some { code := n, arg := if r.cause = 0x30 then 0x30 else 0x01, hpc := r.offset, hnext := r.offset,
                                       loops := w.loops, idle := w.idle, slot := r.slot, rcd := r.rcd, lane := r.lane,
                                       c0 := r.c0, c1 := r.c1 } := by
  simp [Warp.handlerFault, h]

@[simp] theorem Warp.laneFault_num (w : Warp) (m : Bool) (r : LaneRec) (n : Nat) : (w.laneFault m r n).num = w.num := by
  cases m
  · simp
  · rw [laneFault_handler, Warp.handlerFault_frame]

/-- A warp after the fault of a lane, found while it runs in the mode `w.handler`. -/
theorem State.warp?_parkLane {s : State} {b n : Nat} {w : Warp} (r : LaneRec) (code : Nat) (h : s.warp? b n = some w) :
    (s.parkLane b n r code).warp? b n = some (w.laneFault w.handler r code) := by
  rw [State.parkLane, State.warp?_modWarp _ _ _ _ _ _ fun v => v.laneFault_num _ _ _, h]
  simp

end Sys2Proof.Machine
end

