-- ==== Sys2Proof/Laws/Commands.lean ====
section
/-! SUPPORT. Host commands: what a command that completes changes, and when a command is taken up. -/

namespace Sys2Proof.Machine

/-- A command that completes goes back to the host with its results, its status and a message, and nothing else changes (R197). -/
theorem State.complete_eq {s : State} {fn : Nat} {k : CmdBlock} (h : s.cmd? fn = some k) (st : Nat)
    (res : List (Nat × List Byte)) :
    s.complete fn st res = { s with
      cmds := eraseCmd fn s.cmds
      returned := s.returned ++ [{ k with
        bytes := (setBytes (res.foldl (fun b r => setBytes b r.1 r.2) k.bytes) 12 (leBytes 4 st)).set 2
          ((setBytes (res.foldl (fun b r => setBytes b r.1 r.2) k.bytes) 12 (leBytes 4 st)).getD 2 0 &&& 0xFE)
        running := false, wants := [] }]
      msix := s.msix ++ [(fn, 0)] } := by
  simp only [State.complete, h]

/-- Completing a command changes no field but the three of the command queue. -/
theorem State.complete_frame (s : State) (fn st : Nat) (res : List (Nat × List Byte)) :
    s.complete fn st res = { s with cmds := (s.complete fn st res).cmds, returned := (s.complete fn st res).returned,
                                    msix := (s.complete fn st res).msix } := by
  unfold State.complete; split <;> rfl

/-- A command at the head of its queue, of a code the operation takes and not under way, is carried out. -/
theorem State.onCommand_run {s : State} {fn : Nat} {k : CmdBlock} {code : Nat → Bool} (f : CmdBlock → State)
    (h1 : s.running = true) (h2 : s.cmd? fn = some k) (h3 : k.running = false) (h4 : code (k.num 0 2) = true) :
    s.onCommand fn code f = .next (f k) := by
  simp [State.onCommand, h1, h2, h3, h4]

theorem State.withCtx_run {s : State} {fn : Nat} {k : CmdBlock} {x : Context} (f : Context → State)
    (h1 : s.ctx? (k.num 4 4) = some x) (h2 : x.fn = fn) (h3 : x.fatal = none) : s.withCtx fn k f = f x := by
  simp [State.withCtx, h1, h2, h3]

/-- A context command whose block is in order is carried out. -/
theorem State.ctxCommand_run {s : State} {fn code : Nat} {used : List (Nat × Nat)} {ok : CmdBlock → Bool} {k : CmdBlock}
    {x : Context} (f : CmdBlock → Context → State) (h1 : s.running = true) (h2 : s.cmd? fn = some k)
    (h3 : k.running = false) (h4 : k.num 0 2 = code) (h5 : s.ctx? (k.num 4 4) = some x) (h6 : x.fn = fn)
    (h7 : x.fatal = none) (h8 : k.clean used = true) (h9 : ok k = true) :
    s.ctxCommand fn code used ok f = .next (f k x) := by
  rw [State.ctxCommand, State.onCommand_run _ h1 h2 h3 (by simp [h4]), State.withCtx_run _ h5 h6 h7]
  simp [h8, h9]

end Sys2Proof.Machine
end

