-- ==== Sys2Proof/Laws/Frames.lean ====
section
/-! SUPPORT. What the shared operations leave unchanged, and when a memory, lane or token operation acts. -/

namespace Sys2Proof.Machine

-- Memory, lane and token operations.

/-- A memory operation acts on the lanes that take part (R290). -/
theorem memOp_act {s : State} {c : Issue} {b : Block} {w : Warp} {g : Guard} (i : Instr)
    (f : Issue → Block → Warp → Mask → State → State) (h1 : s.issue = some c) (h2 : s.block? c.block = some b)
    (h3 : b.warp? c.warp = some w) (hl : takers c w g ≠ 0) (ht : s.trapOf c b w i = none) :
    memOp s i g f = .next (f c b w (takers c w g) s) := by
  rw [memOp, slotOp_act i _ h1 h2 h3 ht, if_neg hl]

/-- A memory operation in which no lane takes part does nothing (R290). -/
theorem memOp_skip {s : State} {c : Issue} {b : Block} {w : Warp} {g : Guard} (i : Instr)
    (f : Issue → Block → Warp → Mask → State → State) (h1 : s.issue = some c) (h2 : s.block? c.block = some b)
    (h3 : b.warp? c.warp = some w) (hl : takers c w g = 0) (ht : s.trapOf c b w i = none) :
    memOp s i g f = .next s := by
  rw [memOp, slotOp_act i _ h1 h2 h3 ht, if_pos hl]

/-- A memory operation with a trap raises it. -/
theorem memOp_trap {s : State} {c : Issue} {b : Block} {w : Warp} {g : Guard} {t : Nat × Nat} (i : Instr)
    (f : Issue → Block → Warp → Mask → State → State) (h1 : s.issue = some c) (h2 : s.block? c.block = some b)
    (h3 : b.warp? c.warp = some w) (hc : c.clear = false) (ht : s.trapOf c b w i = some t) :
    memOp s i g f = .next (s.raise c t.1 t.2 (slotNum c.cur)) :=
  slotOp_trap i _ h1 h2 h3 hc ht

/-- A lane slot sends its results into flight (R265). -/
theorem laneRes_act {s : State} {c : Issue} {b : Block} {w : Warp} {g : Guard} (i : Instr) (lat : Nat)
    (f : Issue → Pitch → Warp → Mask → List Effect) (h1 : s.issue = some c) (h2 : s.block? c.block = some b)
    (h3 : b.warp? c.warp = some w) (ht : s.trapOf c b w i = none) :
    laneRes s i g lat f = .next (s.flyIn c (takers c w g) lat (f c (s.pitch (coreId b w) w.pitch) w (takers c w g))) :=
  slotOp_act i _ h1 h2 h3 ht

/-- A lane-wise P operation does the same at latency 1; a vote sends its result whatever lanes take part (R256). -/
theorem laneP_act {s : State} {c : Issue} {b : Block} {w : Warp} {g : Guard} (i : Instr) (f : Issue → Warp → Mask → List Effect)
    (h1 : s.issue = some c) (h2 : s.block? c.block = some b) (h3 : b.warp? c.warp = some w) (ht : s.trapOf c b w i = none) :
    laneP s i g f = .next (s.flyIn c (takers c w g) 1 (f c w (takers c w g))) :=
  slotOp_act i _ h1 h2 h3 ht
theorem voteP_act {s : State} {c : Issue} {b : Block} {w : Warp} {g : Guard} (i : Instr) (f : Issue → Warp → Mask → List Effect)
    (h1 : s.issue = some c) (h2 : s.block? c.block = some b) (h3 : b.warp? c.warp = some w) (ht : s.trapOf c b w i = none) :
    voteP s i g f = .next (s.fly c 1 (f c w (takers c w g))) :=
  slotOp_act i _ h1 h2 h3 ht

/-- A token of the warp chosen acts. -/
theorem tokenOp_act {s : State} {x : Sel} {b : Block} {w : Warp} (f : Sel → Block → Warp → State → State)
    (h1 : s.sel = some x) (h2 : s.block? x.block = some b) (h3 : b.warp? x.warp = some w) :
    tokenOp s f = .next (f x b w s) := by
  simp [tokenOp, h1, h2, h3]

/-- With every frame present, the lanes that passed act, the others are parked and the stream is incremented (R37, R127, R291). -/
theorem State.memLanes_present {s : State} {c : Issue} {b : Block} {w : Warp} {i : Instr} {m : Mask} {x : Nat} {inc : Bool}
    (f : List Try → State → State) (h : ∀ p ∈ goodTries (s.tries c b w i m), s.absent p.2 = false) :
    s.memLanes c b w i m x inc f = ((f (s.tries c b w i m) s).parkAll b.bid w.num
      (badTries c (w.xread x).rcd (slotNum c.cur) (s.tries c b w i m)) 0x81).bump c w inc x := by
  unfold State.memLanes
  simp only
  split
  · rename_i t ht
    have hs := List.find?_some ht
    cases e : t.res with
    | error k => rw [e] at hs; cases hs
    | ok l =>
      rw [e] at hs
      have := h (t.lane, l) (List.mem_filterMap.2 ⟨t, List.mem_of_find?_eq_some ht, by simp [e]⟩)
      simp_all
  · rfl

-- Results that land.

theorem Warp.landAll_num (w : Warp) (l : List Effect) : (w.landAll l).num = w.num := by
  unfold Warp.landAll
  induction l generalizing w with
  | nil => rfl
  | cons e r ih =>
    rw [List.foldl_cons, ih]
    cases e <;> simp only [Warp.land] <;> (try split) <;> rfl

theorem Warp.foldLand_num (fs : List Flight) (w : Warp) : (fs.foldl (fun v f => v.landAll f.effs) w).num = w.num := by
  induction fs generalizing w with
  | nil => rfl
  | cons f r ih => rw [List.foldl_cons, ih, Warp.landAll_num]

-- Frames of the operations over memory and tensors.

/-- A frame set down changes memory, scope tags and stamped lines. -/
theorem State.putFrame_frame (s : State) (a : Nat) (p : Paged) :
    s.putFrame a p = { s with mem := (s.putFrame a p).mem, tags := (s.putFrame a p).tags,
                              stamped := (s.putFrame a p).stamped } := rfl

/-- A frame freed changes memory, scope tags and stamped lines. -/
theorem State.freeFrame_frame (s : State) (e : TileEntry) :
    s.freeFrame e = { s with mem := (s.freeFrame e).mem, tags := (s.freeFrame e).tags,
                             stamped := (s.freeFrame e).stamped } := by
  unfold State.freeFrame; split <;> rfl

theorem State.foldFrames_frame (l : List TileEntry) (s : State) :
    l.foldl State.freeFrame s = { s with mem := (l.foldl State.freeFrame s).mem, tags := (l.foldl State.freeFrame s).tags,
                                         stamped := (l.foldl State.freeFrame s).stamped } := by
  induction l generalizing s with
  | nil => rfl
  | cons e r ih => rw [List.foldl_cons, ih, State.freeFrame_frame]

theorem State.foldTensors_frame (l : List Tensor) (s : State) :
    let t := l.foldl (fun s x => x.entries.foldl State.freeFrame s) s
    t = { s with mem := t.mem, tags := t.tags, stamped := t.stamped } := by
  induction l generalizing s with
  | nil => rfl
  | cons e r ih => simp only [List.foldl_cons] at *; rw [ih, State.foldFrames_frame]

/-- Tensors freed: nothing but memory's own tables and the list of tensors changes. -/
theorem State.freeTensors_frame (s : State) :
    let t := s.freeTensors
    t = { s with mem := t.mem, tags := t.tags, stamped := t.stamped, tensors := t.tensors, paged := t.paged,
                 access := t.access } := by
  intro t
  have := State.foldTensors_frame (s.tensors.filter fun (x : Tensor) => !x.bound && !s.heldBy x &&
    (s.commits.all fun k => k.base != x.base) && x.entries.all fun e => e.pins == (if x.pinned then 1 else 0)) s
  simp only at this
  have ht : t = s.freeTensors := rfl
  rw [ht]; unfold State.freeTensors; simp only
  rw [this]

theorem State.freeTensors_sub (s : State) : ∀ x ∈ s.freeTensors.tensors, x ∈ s.tensors := by
  intro x hx; simp only [State.freeTensors] at hx; exact (List.mem_filter.1 hx).1

/-- Tensors unbound: the same frame. -/
theorem State.unbind_frame (s : State) (f : Tensor → Bool) :
    let t := s.unbind f
    t = { s with mem := t.mem, tags := t.tags, stamped := t.stamped, tensors := t.tensors, paged := t.paged,
                 access := t.access } := by
  intro t
  exact State.freeTensors_frame { s with tensors := s.tensors.map fun x => if f x then { x with bound := false } else x }

/-- Rainfly's closing requests for a context. -/
theorem State.closeCkpts_frame (s : State) (c : Nat) :
    (s.closeCkpts c).2 = { s with rainfly := { s.rainfly with seq := (s.closeCkpts c).2.rainfly.seq,
                                                              stamp := (s.closeCkpts c).2.rainfly.stamp,
                                                              reqs := (s.closeCkpts c).2.rainfly.reqs } } := by
  suffices h : ∀ (l : List Grant) (p : List Nat × State),
      let t := (l.foldl (fun (p : List Nat × State) (g : Grant) =>
        if p.2.leafLeft then
          let s := p.2.requestCkpt g.region 2 g.number .nobody
          (p.1 ++ [s.rainfly.seq], s)
        else p) p).2
      t = { p.2 with rainfly := { p.2.rainfly with seq := t.rainfly.seq, stamp := t.rainfly.stamp, reqs := t.rainfly.reqs } } from
    h _ ([], s)
  intro l
  induction l with
  | nil => intro p; rfl
  | cons e r ih =>
    intro p
    dsimp only [List.foldl_cons] at ih ⊢
    rw [ih]
    split <;> rfl

/-- The end of a context completes no command. -/
theorem State.endCtx_cmds (s : State) (c : Nat) :
    (s.endCtx c).cmds = s.cmds ∧ (s.endCtx c).returned = s.returned ∧ (s.endCtx c).msix = s.msix := by
  have := State.foldTensors_frame (s.tensors.filter fun x => x.ctx == c) s
  simp only at this
  unfold State.endCtx
  simp only
  rw [this]; exact ⟨rfl, rfl, rfl⟩

/-- Lantern's counting of a request changes Lantern alone. -/
theorem State.observe_frame (s : State) (e x bid wn : Nat) :
    s.observe e x bid wn = { s with lantern := (s.observe e x bid wn).lantern } := by
  unfold State.observe; split <;> rfl

/-- Pins change tensors alone. -/
theorem State.pin_frame (up : Bool) (fs : List (Nat × Nat)) (s : State) :
    s.pin up fs = { s with tensors := (s.pin up fs).tensors } := by
  unfold State.pin
  induction fs generalizing s with
  | nil => rfl
  | cons f r ih => rw [List.foldl_cons, ih]; rfl

/-- An operation that ends (R138, R151): the operations, their busy tiles, pins, its handle and Lantern. -/
theorem State.finish_frame (s : State) (o : EngOp) (outcome val : Nat) (mal : Bool) :
    let t := s.finish o outcome val mal
    t = { s with ops := s.ops.filter fun k => k.id != o.id, busy := s.busy.filter fun k => k.op != o.id,
                 tensors := t.tensors, blocks := (s.resolve o.block o.handle outcome val mal).blocks, lantern := t.lantern } := by
  intro t
  have ht : t = s.finish o outcome val mal := rfl
  rw [ht]; unfold State.finish; simp only
  rw [State.pin_frame]
  split
  · rw [State.observe_frame]; rfl
  · rfl

/-- Bytes counted on a meter change Rainfly alone (R225). -/
theorem State.countMeter_frame (s : State) (region : Option Nat) (n : Nat) :
    s.countMeter region n = { s with rainfly := (s.countMeter region n).rainfly } := by
  unfold State.countMeter; split
  · rfl
  · split
    · rfl
    · simp only; split <;> rfl

-- Long accesses.

/-- A warp after a fault of one of its lanes that a home or a peer found: the mode of its word decides (R246, R351). -/
theorem State.warp?_lateFault {s : State} {r : Req} {w : Warp} (a : LaneAcc) (cause : Nat) (h : s.warp? r.block r.warp = some w) :
    (s.lateFault r a cause).warp? r.block r.warp = some (w.laneFault r.handler (r.fault a cause) 0x81) := by
  rw [State.lateFault, State.warp?_modWarp _ _ _ _ _ _ fun v => v.laneFault_num _ _ _, h]
  simp

/-- What holds a lane back holds it back from performing too. -/
theorem State.blocked_of_behind {s : State} {r : Req} {a : LaneAcc} (h : s.behind r a = true) : s.blocked r a = true := by
  simp [State.blocked, h]

/-- The tile field of a packet fits it (R16), and holds every tile number that does. -/
theorem tileField_lt (t : Nat) : tileField t < 2 ^ 32 := by
  unfold tileField; split
  · assumption
  · exact (Config.bigTile t).isLt
theorem tileField_of_lt {t : Nat} (h : t < 2 ^ 32) : tileField t = t := if_pos h

-- Turns.

theorem State.trapped_of {s : State} {b n : Nat} {w : Warp} (h : s.warp? b n = some w) : s.trapped b n = w.trap.isSome := by
  simp [State.trapped, h]

/-- A warp gives up no turn but its own; nothing but its pitch changes (R58). -/
theorem State.leaveTurn_of {s : State} {b : Block} {w : Warp} (h : (s.pitch (coreId b w) w.pitch).holder ≠ some (b.bid, w.num)) :
    s.leaveTurn b w = s := by
  simp [State.leaveTurn, h]
theorem State.leaveTurn_own {s : State} {b : Block} {w : Warp} (h : (s.pitch (coreId b w) w.pitch).holder = some (b.bid, w.num)) :
    s.leaveTurn b w = s.setPitch { s.pitch (coreId b w) w.pitch with holder := none } := by
  simp [State.leaveTurn, h, State.endTurn]
theorem State.leaveTurn_frame (s : State) (b : Block) (w : Warp) : s.leaveTurn b w = { s with pitches := (s.leaveTurn b w).pitches } := by
  unfold State.leaveTurn; split <;> rfl

-- A `VDIE_BIND` (R206).

@[simp] theorem Context.rebind_num (x : Context) (l p : List Nat) : (x.rebind l p).num = x.num := rfl

/-- After a binding the copies that stand are those that stood or were placed, on stacks the context still has. -/
theorem Context.rebind_copies (x : Context) (l p : List Nat) (d : Nat) :
    d ∈ (x.rebind l p).copies ↔ d ∈ l ∧ (d ∈ x.copies ∨ d ∈ p) := by
  simp [Context.rebind, and_comm]

/-- Placing copies takes frames back into residence, and changes nothing else. -/
theorem State.placeCopies_frame (s : State) (c : Nat) (p : List Nat) : s.placeCopies c p = { s with out := (s.placeCopies c p).out } := rfl
theorem State.mem_placeCopies {s : State} {c : Nat} {p : List Nat} {k : Nat × Nat × Nat × Nat × Nat} :
    k ∈ (s.placeCopies c p).out ↔ k ∈ s.out ∧ (k.1 = c → k.2.2.2.1 ∉ p) := by
  simp [State.placeCopies, imp_iff_not_or]

/-- A block that has moved changes, of what is outstanding, the core of its commits not yet accepted alone (R141). -/
theorem State.rehome_frame (s : State) (b : Block) : s.rehome b = { s with commits := (s.rehome b).commits } := rfl

end Sys2Proof.Machine
end

