-- ==== Sys2Proof/Laws/Memory.lean ====
section
/-! SUPPORT. Memory: every operation keeps the canonical form, and what reads after writes give. -/

namespace Sys2Proof.Machine

/-- Every address of a memory lies at or above `a`. -/
def Memory.above (m : Memory) (a : Nat) : Prop := ∀ c ∈ m, a ≤ c.1

theorem Memory.wf_tail {c : Host.Cell} {m : Memory} (h : Memory.wf (c :: m) = true) : m.wf = true := by
  cases m with
  | nil => rfl
  | cons d r => simp [Memory.wf] at h; exact h.2

theorem Memory.wf_head {c : Host.Cell} {m : Memory} (h : Memory.wf (c :: m) = true) : c.2 ≠ 0 := by
  cases m with
  | nil => simpa [Memory.wf] using h
  | cons d r => simp [Memory.wf] at h; exact h.1.1

theorem Memory.wf_above {c : Host.Cell} {m : Memory} (h : Memory.wf (c :: m) = true) : m.above (c.1 + 1) := by
  induction m generalizing c with
  | nil => intro d hd; cases hd
  | cons d r ih =>
    simp [Memory.wf] at h
    intro e he
    rcases List.mem_cons.1 he with rfl | he
    · omega
    · have := ih h.2 e he; omega

theorem Memory.wf_cons {c : Host.Cell} {m : Memory} (h0 : c.2 ≠ 0) (h : m.wf = true) (ha : m.above (c.1 + 1)) :
    Memory.wf (c :: m) = true := by
  cases m with
  | nil => simpa [Memory.wf] using h0
  | cons d r =>
    have := ha d (List.mem_cons_self ..)
    simp [Memory.wf, h]
    exact ⟨h0, by omega⟩

theorem Memory.wf_filter {m : Memory} (f : Host.Cell → Bool) (h : m.wf = true) : Memory.wf (m.filter f) = true := by
  induction m with
  | nil => rfl
  | cons c r ih =>
    have hr := ih (Memory.wf_tail h)
    rw [List.filter_cons]
    split
    · refine Memory.wf_cons (Memory.wf_head h) hr ?_
      intro d hd
      exact Memory.wf_above h d (List.mem_filter.1 hd).1
    · exact hr

theorem Memory.push_wf {a : Nat} {v : Byte} {r : Memory} (h : r.wf = true) (ha : r.above (a + 1)) :
    (Memory.push a v r).wf = true := by
  unfold Memory.push
  split
  · exact h
  · exact Memory.wf_cons ‹_› h ha

theorem Memory.push_above {a k : Nat} {v : Byte} {r : Memory} (hk : k ≤ a) (h : r.above k) :
    (Memory.push a v r).above k := by
  unfold Memory.push
  split
  · exact h
  · intro c hc
    rcases List.mem_cons.1 hc with rfl | hc
    · exact hk
    · exact h c hc

theorem Memory.write_above {m : Memory} {a k : Nat} {v : Byte} (hk : k ≤ a) (h : m.above k) : (m.write a v).above k := by
  induction m with
  | nil => exact Memory.push_above hk h
  | cons c r ih =>
    have hr : Memory.above r k := fun d hd => h d (List.mem_cons_of_mem _ hd)
    unfold Memory.write
    split
    · exact Memory.push_above hk h
    · split
      · exact Memory.push_above hk hr
      · intro d hd
        rcases List.mem_cons.1 hd with rfl | hd
        · exact h _ (List.mem_cons_self ..)
        · exact ih hr d hd

/-- One byte written keeps the form. -/
theorem Memory.write_wf {m : Memory} (a : Nat) (v : Byte) (h : m.wf = true) : (m.write a v).wf = true := by
  induction m with
  | nil => exact Memory.push_wf rfl (fun d hd => by cases hd)
  | cons c r ih =>
    have hr := Memory.wf_tail h
    have ha := Memory.wf_above h
    unfold Memory.write
    split
    · rename_i hlt
      refine Memory.push_wf h ?_
      intro d hd
      rcases List.mem_cons.1 hd with rfl | hd
      · omega
      · have := ha d hd; omega
    · split
      · rename_i heq
        exact Memory.push_wf hr (fun d hd => by have := ha d hd; omega)
      · exact Memory.wf_cons (Memory.wf_head h) (ih hr) (Memory.write_above (by omega) ha)

@[simp] theorem Memory.writeBytes_wf {m : Memory} (a : Nat) (bs : List Byte) (h : m.wf = true) :
    (m.writeBytes a bs).wf = true := by
  induction bs generalizing m a with
  | nil => exact h
  | cons b r ih => exact ih (a + 1) (Memory.write_wf a b h)

@[simp] theorem Memory.writeAll_wf {m : Memory} (l : List (Nat × Byte)) (h : m.wf = true) : (m.writeAll l).wf = true := by
  induction l generalizing m with
  | nil => exact h
  | cons c r ih => exact ih (Memory.write_wf c.1 c.2 h)

@[simp] theorem Memory.clear_wf {m : Memory} (lo n : Nat) (h : m.wf = true) : (m.clear lo n).wf = true :=
  Memory.wf_filter _ h

@[simp] theorem Memory.place_wf {m : Memory} (a : Nat) (l : Memory) (h : m.wf = true) : (m.place a l).wf = true :=
  Memory.writeAll_wf _ h

theorem Memory.map_sub_wf {m : Memory} (lo : Nat) (h : m.wf = true) (ha : m.above lo) :
    Memory.wf (m.map fun c => (c.1 - lo, c.2)) = true := by
  induction m with
  | nil => rfl
  | cons c r ih =>
    have hr : Memory.above r lo := fun d hd => ha d (List.mem_cons_of_mem _ hd)
    rw [List.map_cons]
    refine Memory.wf_cons (c := (c.1 - lo, c.2)) (show c.2 ≠ 0 from Memory.wf_head (c := c) (m := r) h) (ih (Memory.wf_tail h) hr) ?_
    intro d hd
    obtain ⟨e, he, rfl⟩ := List.mem_map.1 hd
    have h1 := Memory.wf_above h e he
    have h2 := ha c (List.mem_cons_self ..)
    show c.1 - lo + 1 ≤ e.1 - lo
    omega

@[simp] theorem Memory.slice_wf {m : Memory} (lo n : Nat) (h : m.wf = true) : (m.slice lo n).wf = true := by
  refine Memory.map_sub_wf lo (Memory.wf_filter _ h) ?_
  intro c hc
  have := (List.mem_filter.1 hc).2
  simp at this
  exact this.1

/-- An address below every cell reads as 0. -/
theorem Memory.read_above {m : Memory} {a : Nat} (h : m.above (a + 1)) : m.read a = 0 := by
  induction m with
  | nil => rfl
  | cons c r ih =>
    have := h c (List.mem_cons_self ..)
    unfold Memory.read
    rw [if_neg (by omega)]
    exact ih (fun d hd => h d (List.mem_cons_of_mem _ hd))

theorem Memory.read_push {a b : Nat} {v : Byte} {r : Memory} (ha : r.above (a + 1)) :
    (Memory.push a v r).read b = if b = a then v else r.read b := by
  unfold Memory.push
  split
  · split
    · subst_vars; exact Memory.read_above ha
    · rfl
  · rfl

/-- A byte read after a byte written, in a memory of the canonical form. -/
theorem Memory.read_write {m : Memory} (a b : Nat) (v : Byte) (h : m.wf = true) :
    (m.write a v).read b = if b = a then v else m.read b := by
  induction m with
  | nil => exact Memory.read_push (fun d hd => by cases hd)
  | cons c r ih =>
    have ha := Memory.wf_above h
    unfold Memory.write
    split
    · rw [Memory.read_push]
      intro d hd
      rcases List.mem_cons.1 hd with rfl | hd
      · omega
      · have := ha d hd; omega
    · split
      · rename_i heq
        rw [Memory.read_push (fun d hd => by have := ha d hd; omega)]
        subst heq
        by_cases hb : b = c.1 <;> simp [Memory.read, hb]
      · rename_i hne
        have := ih (Memory.wf_tail h)
        by_cases hb : b = c.1
        · have hba : b ≠ a := by omega
          simp [Memory.read, hb, Ne.symm hne]
        · simp [Memory.read, hb, this]

/-- A byte outside the written range reads as before. -/
theorem Memory.read_writeBytes_other {m : Memory} (a b : Nat) (bs : List Byte) (h : m.wf = true)
    (hb : b < a ∨ a + bs.length ≤ b) : (m.writeBytes a bs).read b = m.read b := by
  induction bs generalizing m a with
  | nil => rfl
  | cons v r ih =>
    show ((m.write a v).writeBytes (a + 1) r).read b = m.read b
    rw [ih (a + 1) (Memory.write_wf a v h) (by simp at hb; omega), Memory.read_write a b v h]
    rw [if_neg (by simp at hb; omega)]

/-- A byte inside the written range reads as written. -/
theorem Memory.read_writeBytes_at {m : Memory} (a i : Nat) (bs : List Byte) (h : m.wf = true) (hi : i < bs.length) :
    (m.writeBytes a bs).read (a + i) = bs[i] := by
  induction bs generalizing m a i with
  | nil => simp at hi
  | cons v r ih =>
    show ((m.write a v).writeBytes (a + 1) r).read (a + i) = _
    cases i with
    | zero =>
      rw [Memory.read_writeBytes_other (a + 1) (a + 0) r (Memory.write_wf a v h) (by omega), Memory.read_write _ _ _ h]
      simp
    | succ k =>
      have := ih (a + 1) k (Memory.write_wf a v h) (by simpa using hi)
      rw [show a + (k + 1) = a + 1 + k by omega, this]
      simp

end Sys2Proof.Machine
end

