-- ==== Sys2Proof/Tests/Slice0.lean ====
section
/-! SUPPORT. Tests: the well-formedness smoke, words written out from the encodings of the spec, small one-step tests and the
witnesses of the statements' hypotheses. -/

namespace Sys2Proof.Tests

open Sys2Proof Sys2Proof.Machine Sys2Proof.Claims

-- Small states.

/-- A warp with every register at 0 and all lanes active. -/
def bw : Warp :=
  { (default : Warp) with s := List.replicate 64 0, q := List.replicate 16 false, p := List.replicate 48 0,
                          v := List.replicate 8 (splat 0), b := List.replicate 8 0, h := List.replicate 16 0,
                          x := List.replicate 8 { (default : AStream) with c := [0, 0, 0, 0], i := [0, 0, 0, 0] },
                          active := allLanes }
/-- A block of that one warp. -/
def bb (w : Warp) : Block := { (default : Block) with bid := 1, warps := [w], bars := List.replicate 16 0, ring := [] }
/-- Its word in issue. -/
def bc : Issue := { (default : Issue) with block := 1, lanes := allLanes }
/-- A state in which `c` is in issue from the one warp `w` of block `b`. -/
def st (c : Issue) (b : Block) : State := { State.reset with blocks := [b], issue := some c, running := true }
/-- The guard that is always true. -/
def g0 : Guard := ⟨false, 0⟩

/-- The word of `st` is in issue. -/
theorem issuing_st (c : Issue) (b : Block) (w : Warp) (r : List Warp) (h : c.block = b.bid) (h' : c.warp = w.num)
    (hb : b.warps = w :: r) : Issuing (st c b) c b w := by
  refine ⟨rfl, ?_, ?_⟩
  · simp [st, State.block?, h]
  · simp [Block.warp?, hb, h']

/-- The same for the small block. -/
theorem issuing_bb (c : Issue) (w : Warp) (h : c.block = 1) (h' : c.warp = w.num) : Issuing (st c (bb w)) c (bb w) w :=
  issuing_st c (bb w) w [] h h' rfl

/-- `q0` guards nothing off. -/
theorem guard_g0 (w : Warp) : qGuard w g0 = true := rfl

-- Decoding: one word or more per slot operation (test source: the encoding tables of the spec).

/-- R234 to R253: words put together field by field from the tables of the spec. -/
theorem test_decodeS1 : ∀ p ∈ ([
    (0x622903500000000, .sadd ⟨true, 1⟩ 5 8 (.reg 13) .n64),
    (0x8451E6200000000, .ssub ⟨false, 2⟩ 10 15 (.reg 24) .i32),
    (0xE67AD0F00000000, .smul ⟨true, 3⟩ 15 22 (.hole 3) .n32),
    (0x108A3AB800000000, .smulhi ⟨false, 4⟩ 20 29 (.reg 46) .i64),
    (0x16ACC8E500000000, .sand ⟨true, 5⟩ 25 36 (.reg 57) .n64),
    (0x18CF570200000000, .sor ⟨false, 6⟩ 30 43 (.hole 0) .i32),
    (0x1EF1E43F00000000, .sxor ⟨true, 7⟩ 35 50 (.reg 15) .n32),
    (0x2114726800000000, .sshl ⟨false, 8⟩ 40 57 (.reg 26) .i64),
    (0x2736810500000000, .sshr ⟨true, 9⟩ 45 0 (.hole 1) .n64),
    (0x29590EC200000000, .ssar ⟨false, 10⟩ 50 7 (.reg 48) .i32),
    (0x2F7B9CEF00000000, .smin ⟨true, 11⟩ 55 14 (.reg 59) .n32),
    (0x319E2B0800000000, .smax ⟨false, 12⟩ 60 21 (.hole 2) .i64),
    (0x36A2802500000000, .smov ⟨true, 5⟩ 5 (.reg 9) .n64),
    (0x3AA23FFFFFFFFFFD, .sli ⟨true, 5⟩ 4 (.imm 70368744177661))] : List (Nat × Instr)), decodeS p.1 = .ok p.2 := by decide

/-- R234 to R253: words put together field by field from the tables of the spec. -/
theorem test_decodeS2 : ∀ p ∈ ([
    (0x3802400000000003, .sli ⟨false, 0⟩ 4 (.hole 3)),
    (0x3EA1881428000000, .ssel ⟨true, 5⟩ 3 4 (.reg 5) 2 true),
    (0x42A18827A0000000, .scmp ⟨true, 5⟩ 3 4 (.reg 9) .n32 .ge),
    (0x62A489ABCDEF0000, .btgt ⟨true, 5⟩ 1 (.imm 0x89ABCDEF)),
    (0x6019000000002000, .btgt ⟨false, 0⟩ 6 (.sreg 8)),
    (0x601A000000000002, .btgt ⟨false, 0⟩ 6 (.hole 2)),
    (0x6469000000000000, .bxfer ⟨false, 3⟩ 2 1),
    (0x6AABC00000000000, .bcall ⟨true, 5⟩ 2 3 6),
    (0x6EBFD00000000000, .lidx ⟨true, 5⟩ 63 5),
    (0x72A0000000000000, .lbrk ⟨true, 5⟩),
    (0x76BE000000000000, .bar ⟨true, 5⟩ 15),
    (0x7AA0000000000000, .exit ⟨true, 5⟩),
    (0x7EB4A00000000000, .trap ⟨true, 5⟩ 0xA5),
    (0x82A0000000000000, .hret ⟨true, 5⟩)] : List (Nat × Instr)), decodeS p.1 = .ok p.2 := by decide

/-- R234 to R253: words put together field by field from the tables of the spec. -/
theorem test_decodeS3 : ∀ p ∈ ([
    (0x82B0000000000000, .hretSkip ⟨true, 5⟩),
    (0xA2A1000001000000, .srd ⟨true, 5⟩ (.s 4) 0x010),
    (0xA01C80002BF00000, .srd ⟨false, 0⟩ (.v 200) 0x2BF),
    (0xA6A0060008800000, .swr ⟨true, 5⟩ 3 0x088),
    (0xAAA20A0000000000, .clk ⟨true, 5⟩ 4 5),
    (0xAEA00C1C00000000, .dline ⟨true, 5⟩ 6 (.reg 7)),
    (0xB2A0010400000000, .dtick ⟨true, 5⟩ (.hole 1)),
    (0xB6A2800000000000, .dclose ⟨true, 5⟩ 5),
    (0xBAA0060000000000, .pwacq ⟨true, 5⟩ 3),
    (0xBEA0000000000000, .pwrel ⟨true, 5⟩),
    (0xC2A1026000000000, .info ⟨true, 5⟩ 2 1 3),
    (0xC6A102F000000000, .vdhop ⟨true, 5⟩ 2 1 (.reg 60)),
    (0xCAA103E420000000, .mtrd ⟨true, 5⟩ 2 1 60 33),
    (0xCEB2420000000000, .mtck ⟨true, 5⟩ 9 33)] : List (Nat × Instr)), decodeS p.1 = .ok p.2 := by decide

/-- R254 to R260: words put together field by field from the tables of the spec. -/
theorem test_decodeP1 : ∀ p ∈ ([
    (0xE8A5FAA, .pand ⟨true, 40⟩ 41 31 true 21 false),
    (0x168AA02D, .por ⟨true, 40⟩ 42 32 false 22 true),
    (0x1E8AE1AE, .pxor ⟨true, 40⟩ 43 33 true 23 false),
    (0x26810280, .pmov ⟨true, 40⟩ 4 2 true),
    (0x2E810300, .pset ⟨true, 40⟩ 4 3 false),
    (0x46808780, .vany ⟨true, 40⟩ 2 7 true),
    (0x4E83EF00, .vall ⟨true, 40⟩ 15 47 false),
    (0x568FC700, .vcount ⟨true, 40⟩ 63 7 false),
    (0x6453031F, .qand ⟨true, 5⟩ 12 3 false 15 true),
    (0x6C53439E, .qor ⟨true, 5⟩ 13 3 true 15 false),
    (0x7453831F, .qxor ⟨true, 5⟩ 14 3 false 15 true),
    (0x84502F80, .mpush ⟨true, 5⟩ 47 true),
    (0x8C500000, .melse ⟨true, 5⟩),
    (0x94500000, .mpop ⟨true, 5⟩)] : List (Nat × Instr)), decodeP p.1 = .ok p.2 := by decide

/-- R254 to R260: words put together field by field from the tables of the spec. -/
theorem test_decodeP2 : ∀ p ∈ ([
    (0xA4502E00, .regroup ⟨true, 5⟩ 46 false),
    (0xAC500000, .ungroup ⟨true, 5⟩),
    (0xC4580000, .mspill ⟨true, 5⟩ 16),
    (0xCC508000, .mfill ⟨true, 5⟩ 1)] : List (Nat × Instr)), decodeP p.1 = .ok p.2 := by decide

/-- R285 to R287: words put together field by field from the tables of the spec. -/
theorem test_decodeA1 : ∀ p ∈ ([
    (0x1AA114000000, .agbind ⟨true, 5⟩ 2 (.sreg 5)),
    (0x2AFCFFFFFFFF, .agset ⟨true, 5⟩ 7 3 (.imm 0xFFFFFFFF)),
    (0x3AA11C000000, .agadd ⟨true, 5⟩ 2 0 (.sreg 7)),
    (0x4A9600000003, .agstep ⟨true, 5⟩ 1 1 (.hole 3)),
    (0x5A98FFFF8000, .aglane ⟨true, 5⟩ 1 2 (.imm 0xFFFF8000)),
    (0x6AA3F0000000, .agget ⟨true, 5⟩ 2 (.c 3) 60),
    (0x6AA4F0000000, .agget ⟨true, 5⟩ 2 (.i 0) 60),
    (0x6AA8F0000000, .agget ⟨true, 5⟩ 2 (.lane) 60),
    (0x6AA9F0000000, .agget ⟨true, 5⟩ 2 (.recIdx) 60)] : List (Nat × Instr)), decodeA p.1 = .ok p.2 := by decide

/-- R262 to R277: words put together field by field from the tables of the spec. -/
theorem test_decodeV1 : ∀ p ∈ ([
    (0x7400603410070, .vadd ⟨true, 40⟩ (.reg 1) (.s 1) (.latch 1) .n32 true),
    (0xB400A05420070, .vsub ⟨true, 40⟩ (.reg 2) (.s 2) (.latch 2) .n32 true),
    (0xF400E07430070, .vmul ⟨true, 40⟩ (.reg 3) (.s 3) (.latch 3) .n32 true),
    (0x13401407600060, .vmulhi ⟨true, 40⟩ (.reg 5) (.v 3) (.hole 0) .n32),
    (0x17401406047FD0, .vmad ⟨true, 40⟩ (.reg 5) (.v 3) (.v 4) (.v 255) .i32 true),
    (0x1B400081000000, .vand ⟨true, 40⟩ (.reg 0) (.v 64) (.s 0) .i64),
    (0x1F400885010020, .vor ⟨true, 40⟩ (.reg 2) (.v 66) (.s 1) .n64),
    (0x23401089020000, .vxor ⟨true, 40⟩ (.reg 4) (.v 68) (.s 2) .i64),
    (0x2740188D030020, .vshl ⟨true, 40⟩ (.reg 6) (.v 70) (.s 3) .n64),
    (0x2B402091040000, .vshr ⟨true, 40⟩ (.reg 8) (.v 72) (.s 4) .i64),
    (0x2F402895050020, .vsar ⟨true, 40⟩ (.reg 10) (.v 74) (.s 5) .n64),
    (0x33403099060000, .vmin ⟨true, 40⟩ (.reg 12) (.v 76) (.s 6) .i64),
    (0x3740389D070020, .vmax ⟨true, 40⟩ (.reg 14) (.v 78) (.s 7) .n64),
    (0x3B440006000040, .vabs ⟨true, 40⟩ .nw (.v 3) .i32 false)] : List (Nat × Instr)), decodeV p.1 = .ok p.2 := by decide

/-- R262 to R277: words put together field by field from the tables of the spec. -/
theorem test_decodeV2 : ∀ p ∈ ([
    (0x3F40100C000010, .vneg ⟨true, 40⟩ (.reg 4) (.v 6) .i64 true),
    (0x4340BC0C080026, .vcmp ⟨true, 40⟩ 47 (.v 6) (.v 8) .n64 .le),
    (0x47400C0202005D, .vsel ⟨true, 40⟩ (.reg 3) (.v 1) (.v 2) 46 true),
    (0x4B40220A000020, .vmov ⟨true, 40⟩ (.reg 8) (.s 5) .n64),
    (0x4F400A09630000, .vli ⟨true, 40⟩ (.reg 2) (.s 4) (.hole 3)),
    (0x53400802000060, .vclz ⟨true, 40⟩ (.reg 2) (.v 1) .n32),
    (0x57400802000040, .vpopc ⟨true, 40⟩ (.reg 2) (.v 1) .i32),
    (0x834024000A0020, .fadd ⟨true, 40⟩ (.reg 9) (.v 0) (.v 10) .rz),
    (0x874024020B0040, .fsub ⟨true, 40⟩ (.reg 9) (.v 1) (.v 11) .ru),
    (0x8B4024040C0060, .fmul ⟨true, 40⟩ (.reg 9) (.v 2) (.v 12) .rd),
    (0x8C00100202A3C0, .fma ⟨false, 0⟩ (.reg 4) (.v 1) (.v 2) (.latch 7) .ru),
    (0x934024000A0000, .fmin ⟨true, 40⟩ (.reg 9) (.v 0) (.v 10)),
    (0x974024020B0000, .fmax ⟨true, 40⟩ (.reg 9) (.v 1) (.v 11)),
    (0x9B40244C000000, .fabs ⟨true, 40⟩ (.reg 9) (.v 38))] : List (Nat × Instr)), decodeV p.1 = .ok p.2 := by decide

/-- R262 to R277: words put together field by field from the tables of the spec. -/
theorem test_decodeV3 : ∀ p ∈ ([
    (0x9F40244E000000, .fneg ⟨true, 40⟩ (.reg 9) (.v 39)),
    (0xA7402452000000, .fclass ⟨true, 40⟩ (.reg 9) (.v 41)),
    (0xA340000202000C, .fcmp ⟨true, 40⟩ 0 (.v 1) (.v 2) .un),
    (0xC34024000A0060, .hadd2 ⟨true, 40⟩ (.reg 9) (.v 0) (.v 10) .rd),
    (0xC74024020B0040, .hmul2 ⟨true, 40⟩ (.reg 9) (.v 1) (.v 11) .ru),
    (0xC80010020201A0, .hfma2 ⟨false, 0⟩ (.reg 4) (.v 1) (.v 2) (.v 3) .rz),
    (0xE0001C06000046, .cvt ⟨false, 0⟩ (.reg 7) (.v 3) (.v 0) 6 .ro),
    (0xE0001C0605000E, .cvt ⟨false, 0⟩ (.reg 7) (.v 3) (.v 5) 14 .rn)] : List (Nat × Instr)), decodeV p.1 = .ok p.2 := by decide

/-- R278 to R281: words put together field by field from the tables of the spec. -/
theorem test_decodeX1 : ∀ p ∈ ([
    (0xE8030080100, .xchg ⟨true, 40⟩ (.reg 6) (.v 2) 4),
    (0x16803008001F, .xrot ⟨true, 40⟩ (.reg 6) (.v 2) 31),
    (0x1E8034080011, .xbcast ⟨true, 40⟩ (.reg 6) (.s 2) 17),
    (0x268030081200, .xidx ⟨true, 40⟩ (.reg 6) (.v 2) (.v 9)),
    (0x2E8800080010, .xscan ⟨true, 40⟩ .nw (.v 2) .addI32 true),
    (0x3680200C0140, .xred ⟨true, 40⟩ (.reg 4) (.v 3) .fmax),
    (0x468040240000, .frcp ⟨true, 40⟩ (.reg 8) (.v 9)),
    (0x4E8048280000, .frsq ⟨true, 40⟩ (.reg 9) (.v 10)),
    (0x5680502C0000, .fexp2 ⟨true, 40⟩ (.reg 10) (.v 11)),
    (0x5E8058300000, .flog2 ⟨true, 40⟩ (.reg 11) (.v 12)),
    (0x668060340000, .fsin ⟨true, 40⟩ (.reg 12) (.v 13)),
    (0x6E8068380000, .fcos ⟨true, 40⟩ (.reg 13) (.v 14)),
    (0x7680703C0000, .ftanh ⟨true, 40⟩ (.reg 14) (.v 15))] : List (Nat × Instr)), decodeX p.1 = .ok p.2 := by decide

/-- R289 to R307: words put together field by field from the tables of the spec. -/
theorem test_decodeM1 : ∀ p ∈ ([
    (0xE80223E000000, .ld ⟨true, 40⟩ (.reg 4) 2 .b16 true true true true),
    (0x16802784000000, .st ⟨true, 40⟩ (.v 4) 7 .b128 true),
    (0x1E802775050000, .ldg ⟨true, 40⟩ (.reg 4) 7 .b64 2 true false (.s 5)),
    (0x26802E58090000, .stg ⟨true, 40⟩ (.v 5) 6 .b32 3 false (.v 9)),
    (0x2C5FDFD2C00000, .lblk ⟨true, 5⟩ 15 6 63 0xA5 true),
    (0x3680237E904024, .atom ⟨true, 40⟩ (.reg 4) 3 .cas .n32 .release .fabric true (.v 8) (.v 9)),
    (0x3C560000000000, .fence ⟨true, 5⟩ .package),
    (0x44580000000000, .drain ⟨true, 5⟩ .fabric),
    (0x4C5A2D20000000, .probe ⟨true, 5⟩ 40 5 41),
    (0x5459B820000000, .stc ⟨true, 5⟩ 9 5 true true (.v 8)),
    (0x5E804379578000, .ldas ⟨true, 40⟩ (.reg 8) 3 .b64 50 true false 47),
    (0x6459A080000000, .qput ⟨true, 5⟩ 9 5 (.v 8)),
    (0x6C5044E0000000, .qget ⟨true, 5⟩ (.reg 8) 9 6),
    (0x76800344000000, .feset ⟨true, 40⟩ 3 .b32 true)] : List (Nat × Instr)), decodeM p.1 = .ok p.2 := by decide

/-- R289 to R307: words put together field by field from the tables of the spec. -/
theorem test_decodeM2 : ∀ p ∈ ([
    (0x7E800300000000, .feclr ⟨true, 40⟩ 3 .b8 false)] : List (Nat × Instr)), decodeM p.1 = .ok p.2 := by decide

/-- R310 to R321: words put together field by field from the tables of the spec. -/
theorem test_decodeT1 : ∀ p ∈ ([
    (0x359A5099BC00, .mmac ⟨true, 5⟩ 9 0xA5 2 1 .i8sat true 5 true 6 false),
    (0x550040C00000, .mzero ⟨true, 5⟩ 4 3),
    (0x750000000000, .mready ⟨true, 5⟩),
    (0x959080E79D00, .mstore ⟨true, 5⟩ 9 8 3 2 .bf16 .ro true 6 true),
    (0xB59080E00D00, .mload ⟨true, 5⟩ 9 8 3 2 6 true)] : List (Nat × Instr)), decodeT p.1 = .ok p.2 := by decide

/-- R322 to R332: words put together field by field from the tables of the spec. -/
theorem test_decodeC1 : ∀ p ∈ ([
    (0x1ACDE6400000, .cpy ⟨true, 5⟩ 9 5 true 6 false 50),
    (0x2ACD6E54A000, .cpym ⟨true, 5⟩ 9 5 false 6 true 50 0xA5),
    (0x3ACD6E5F0000, .coll ⟨true, 5⟩ 9 5 false 6 true 50 7 true .minF32),
    (0x4AC800000000, .fwait ⟨true, 5⟩ 9),
    (0x5A8920000000, .ftry ⟨true, 5⟩ 2 1 (.imm 4096)),
    (0x5A8972000000, .ftry ⟨true, 5⟩ 2 1 (.sreg 50)),
    (0x6AC800000000, .fcancel ⟨true, 5⟩ 9),
    (0x7ACE50000000, .fstat ⟨true, 5⟩ 9 50 .id),
    (0x8ACE40000000, .fmov ⟨true, 5⟩ 9 50)] : List (Nat × Instr)), decodeC p.1 = .ok p.2 := by decide

-- Tokens, tables and well-formedness.

/-- R67, R68: the tokens of the spec's stream tables, each with its length. -/
theorem test_tokens : ∀ p ∈ ([([0x00], .shortIndex 0 [], 1), ([0x04, 0x10, 0x18], .shortIndex 4 [0x10, 0x18], 3),
    ([0x82, 0x05], .longIndex 0x205 [], 2), ([0xC0, 0x01], .idle 1, 2), ([0xC1, 0x20, 0x01, 0x00], .loop 0x20 0 1, 4),
    ([0xC1, 0xFF, 0x20, 0x00, 0x01, 0x00], .loop 0xFF 0x20 1, 6), ([0xC2, 0xFC, 0xFF, 0xFF, 0xFF, 0x07], .ipf 0xFFFFFFFC 7, 6),
    ([0xC3], .unassignedToken 0xC3, 1)] : List (List Byte × Instr × Nat)),
    decodeToken (fun e => if e = 4 then [1, 1] else []) p.1 = some p.2 := by decide

/-- A token that the end of its stream cuts off is none (R74). -/
theorem test_cut_tokens : ∀ l ∈ ([[], [0x80], [0xC0], [0xC1, 0xFF, 0x20], [0xC2, 0, 0, 0, 0], [0x04, 0x10]] : List (List Byte)),
    decodeToken (fun e => if e = 4 then [1, 1] else []) l = none := by decide

/-- The table's 32 bits are a P slot; its word runs as the first instruction after reset. -/
theorem test_table_word : decodeTableWord 32 0x80000500 = some (.mpush g0 5 false) ∧
    decodeTableWord 64 0x04028C1C00000000 = some (.sadd g0 5 6 (.reg 7) .i64) ∧ decodeTableWord 32 0x30000000 = none := by decide

/-- Ill-formed terms, one for each check of each field, are refused. -/
theorem test_wf_slots : ∀ i ∈ ([.sadd ⟨false, 16⟩ 0 0 (.reg 0) .i64, .sadd g0 64 0 (.reg 0) .i64, .sadd g0 0 64 (.reg 0) .i64,
    .sadd g0 0 0 (.reg 64) .i64, .sadd g0 0 0 (.hole 4) .i64, .smov g0 64 (.reg 0) .i64, .sli g0 0 (.imm (2 ^ 46)),
    .sli g0 0 (.hole 4), .ssel g0 0 0 (.reg 0) 16 false, .scmp g0 16 0 (.reg 0) .i64 .eq, .scmp g0 0 0 (.reg 0) .i64 .un,
    .btgt g0 8 (.imm 0), .btgt g0 0 (.imm (2 ^ 32)), .btgt g0 0 (.sreg 64), .btgt g0 0 (.hole 4), .bxfer g0 8 0, .bxfer g0 0 4,
    .bcall g0 0 0 8, .lidx g0 0 6, .bar g0 16, .trap g0 256, .srd g0 (.s 64) 0, .srd g0 (.v 256) 0, .srd g0 (.s 0) 0x00F,
    .srd g0 (.s 0) 0x019, .srd g0 (.s 0) 0x048, .srd g0 (.s 0) 0x089, .srd g0 (.s 0) 0x140, .srd g0 (.s 0) 0x2C0,
    .swr g0 0 0x086, .swr g0 64 0x087, .clk g0 64 0, .dline g0 64 (.reg 0), .dtick g0 (.reg 64), .dclose g0 16, .pwacq g0 64,
    .info g0 0 0 4, .vdhop g0 0 0 (.reg 64), .mtrd g0 0 0 0 64, .mtck g0 16 0,
    .pand ⟨false, 48⟩ 0 0 false 0 false, .pand g0 48 0 false 0 false, .por g0 0 48 false 0 false, .pxor g0 0 0 false 48 false,
    .pmov g0 48 0 false, .pset g0 0 16 false, .vany g0 16 0 false, .vall g0 0 48 false, .vcount g0 64 0 false,
    .qand ⟨false, 16⟩ 0 0 false 0 false, .qor g0 16 0 false 0 false, .qxor g0 0 0 false 16 false, .mpush g0 48 false,
    .melse ⟨false, 16⟩, .mpop ⟨false, 16⟩, .regroup g0 48 false, .ungroup ⟨false, 16⟩, .mspill g0 0, .mspill g0 17, .mfill g0 0,
    .agbind g0 0 (.imm 4096), .agset g0 8 0 (.imm 0), .agadd g0 0 4 (.imm 0), .agstep g0 0 0 (.imm (2 ^ 32)),
    .aglane g0 0 0 (.imm 32768), .agget g0 0 (.c 4) 0, .agget g0 0 (.i 4) 0, .agget g0 0 .lane 64] : List Instr),
    i.wf = false := by decide

/-- The same of the vector, memory, matrix and copy slots, and of tokens and commands. -/
theorem test_wf_lanes : ∀ i ∈ ([.vadd ⟨false, 48⟩ (.reg 0) (.v 0) (.v 0) .i32 false, .vadd g0 (.reg 256) (.v 0) (.v 0) .i32 false,
    .vadd g0 (.reg 1) (.v 0) (.v 0) .i64 false, .vsub g0 (.reg 0) (.v 1) (.v 0) .i64 false,
    .vmul g0 (.reg 0) (.latch 0) (.v 0) .n64 false, .vadd g0 .nw (.v 256) (.v 0) .i32 false, .vadd g0 .nw (.s 64) (.v 0) .i32 false,
    .vadd g0 .nw (.latch 8) (.v 0) .i32 false, .vadd g0 .nw (.hole 4) (.v 0) .i32 false, .vmulhi g0 .nw (.v 0) (.v 0) .i64,
    .vmad g0 .nw (.v 0) (.v 0) (.v 0) .n64 false, .vabs g0 .nw (.v 0) .n32 false, .vneg g0 .nw (.v 0) .n64 false,
    .vcmp g0 48 (.v 0) (.v 0) .i32 .eq, .vcmp g0 0 (.v 0) (.v 0) .i32 .un, .vsel g0 .nw (.v 0) (.v 0) 48 false,
    .vclz g0 .nw (.v 0) .i64, .vpopc g0 .nw (.v 0) .n64, .fadd g0 .nw (.v 0) (.v 0) .ro, .fma g0 .nw (.v 0) (.v 0) (.v 256) .rn,
    .fcmp g0 48 (.v 0) (.v 0) .eq, .hadd2 g0 .nw (.v 0) (.v 0) .ro, .cvt g0 .nw (.v 0) (.v 0) 16 .rn,
    .cvt g0 .nw (.v 0) (.v 0) 5 .rz, .cvt g0 .nw (.v 0) (.v 1) 0 .rn, .xchg g0 .nw (.v 0) 5, .xrot g0 .nw (.v 0) 32,
    .xbcast g0 .nw (.v 0) 32, .ld g0 (.reg 1) 0 .b64 false false false false, .ld g0 (.reg 2) 0 .b128 false false false false,
    .ld g0 .nw 8 .b32 false false false false, .ld g0 .nw 0 .b32 false false false true, .st g0 (.s 0) 0 .b128 false,
    .st g0 (.latch 0) 0 .b64 false, .ldg g0 .nw 0 .b32 4 false false (.v 0), .stg g0 (.v 0) 0 .b32 0 false (.v 256),
    .lblk g0 16 0 0 0 false, .lblk g0 0 0 64 0 false, .lblk g0 0 0 0 256 false,
    .atom g0 .nw 0 .add .i32 .relaxed .warp false (.v 0) (.v 1), .atom g0 .nw 0 .fadd .n32 .relaxed .warp false (.v 0) (.v 0),
    .atom g0 (.reg 1) 0 .add .i64 .relaxed .warp false (.v 0) (.v 0), .fence ⟨false, 48⟩ .warp, .probe g0 64 0 0, .stc g0 16 0 false false (.v 0),
    .ldas g0 .nw 0 .b32 64 false false 0, .ldas g0 .nw 0 .b32 0 false false 48, .qput g0 16 0 (.v 0), .qget g0 .nw 0 8,
    .feset g0 8 .b32 false, .feclr g0 8 .b32 false, .mmac g0 16 0 0 0 .f8 false 0 false 0 false,
    .mmac g0 0 0 0 3 .f8 false 0 false 0 false, .mmac g0 0 255 1 0 .f8 false 0 false 0 false, .mzero g0 255 1,
    .mstore g0 0 0 0 0 .fp32 .rz false 0 false, .mstore g0 0 0 0 0 .byte .rn false 0 false, .mload g0 0 255 1 0 0 false,
    .cpy g0 16 0 false 0 false 0, .cpy g0 0 0 false 0 false 64, .cpym g0 0 0 false 0 false 0 256, .coll g0 0 0 false 0 false 0 8 false .sumF32,
    .fwait g0 16, .ftry g0 16 0 (.imm 0), .ftry g0 0 0 (.imm 4097), .ftry g0 0 0 (.sreg 64), .fcancel g0 16, .fstat g0 0 64 .st,
    .fmov g0 0 64, .shortIndex 128 [], .shortIndex 0 [0, 0, 0, 0, 0], .longIndex 16384 [], .idle 256, .loop 256 0 0, .loop 0 1 0,
    .loop 255 0 65536, .ipf (2 ^ 32) 0, .ipf 0 256, .unassignedToken 0xC2, .launch 16, .lanternBinsClear 0 4 0, .powerUp 2 [],
    .pitchCycle 4 0, .pitchCycle 0 4, .warpSample 0 32 0 0, .hello 16 0, .ack 0 (2 ^ 256), .ldasService 0 32, .junctionTemperature (.hbm 8) 0] :
    List Instr), i.wf = false := by decide

/-- A P word placed where the machine fetches runs as the very first instruction after reset: `qxor` sends its result into
flight. -/
theorem test_fetch_word : (match step (State.reset.withFetchWord 32 0x70004087) with
    | .next t => t.blocks.map fun b => b.warps.map fun w => w.flights.map fun f => f.effs
    | .fault _ => []
    | .refused _ => []) = [[[[.qreg 1 true]]]] := by decide

-- Witnesses: states and operands that meet the hypotheses of the statements, clause by clause.

/-- A stream byte and an image that holds it: unit 0 with one empty entry and the bytes of an `idle 0` token; a handler for every
class. -/
def img : Image :=
  { (default : Image) with valid := true, units := [{ unit := 0, dict := [default], code := [0xC0, 0], maxV := 0, tiles := 0 }],
                           handler := some { dict := [default], code := [0], entry := List.replicate 8 0, maxV := 0, tiles := 0 } }

theorem witness_RoundTripScalar : (Instr.sadd g0 63 63 (.reg 63) .n32).wf = true ∧
    encodeS (.sadd g0 63 63 (.reg 63) .n32) = some 0x041FFEFF00000000 ∧ (Instr.qand g0 15 15 true 15 true).wf = true ∧
    encodeP (.qand g0 15 15 true 15 true) = some 0x6003CF9F := by decide
theorem witness_RoundTripVector : (Instr.agset g0 7 3 (.imm 0xFFFFFFFF)).wf = true ∧
    encodeA (.agset g0 7 3 (.imm 0xFFFFFFFF)) = some 0x207CFFFFFFFF ∧ (Instr.vmov g0 (.reg 255) (.v 255) .i32).wf = true ∧
    encodeV (.vmov g0 (.reg 255) (.v 255) .i32) = some 0x4803FDFE000040 ∧ (Instr.fcos g0 (.reg 255) (.v 0)).wf = true ∧
    encodeX (.fcos g0 (.reg 255) (.v 0)) = some 0x6807F8000000 := by decide
theorem witness_RoundTripMemory : (Instr.drain g0 .fabric).wf = true ∧ encodeM (.drain g0 .fabric) = some 0x40080000000000 ∧
    (Instr.mzero g0 192 63).wf = true ∧ encodeT (.mzero g0 192 63) = some 0x400C0FC00000 ∧ (Instr.fwait g0 15).wf = true ∧
    encodeC (.fwait g0 15) = some 0x407800000000 := by decide
theorem witness_RoundTripToken : (Instr.longIndex 16383 [255]).wf = true ∧
    encodeToken [1] (.longIndex 16383 [255]) = some [0xBF, 0xFF, 0xFF] ∧ encodeToken [1] (.shortIndex 127 [0]) = some [0x7F, 0] ∧
    (∀ e hs, Instr.longIndex 16383 [255] = .shortIndex e hs ∨ Instr.longIndex 16383 [255] = .longIndex e hs →
      hs.length = [1].length ∧ ∀ p ∈ [1].zip hs, p.2 < 256 ^ p.1) := by
  refine ⟨by decide, by decide, by decide, ?_⟩
  rintro e hs (h | h)
  · cases h
  · cases h; exact ⟨rfl, by decide⟩
theorem witness_SlotsAreDisjoint : slotBits 0 .S = slotBits (2 ^ 511) .S ∧ (0 : Nat) < 504 ∧ (503 : Nat) < 504 := by decide +kernel
theorem witness_UnassignedOpcodesRefused :
    (∀ o ∈ [17, 23, 33, 39, 52, 63], let q := o * 2 ^ 58 / 2 ^ 58
     17 ≤ q ∧ q ≤ 23 ∨ 33 ≤ q ∧ q ≤ 39 ∨ 52 ≤ q ∧ q ≤ 63) ∧
    31 * 2 ^ 27 / 2 ^ 27 ∈ [6, 7, 11, 15, 19, 22, 23, 26, 27, 28, 29, 30, 31] ∧
    (∀ o ∈ [22, 31, 42, 47, 51, 55, 57, 63], let q := o * 2 ^ 50 / 2 ^ 50
     22 ≤ q ∧ q ≤ 31 ∨ 42 ≤ q ∧ q ≤ 47 ∨ 51 ≤ q ∧ q ≤ 55 ∨ 57 ≤ q ∧ q ≤ 63) ∧
    (∀ o ∈ [7, 15, 31], o * 2 ^ 43 / 2 ^ 43 = 7 ∨ 15 ≤ o * 2 ^ 43 / 2 ^ 43 ∧ o * 2 ^ 43 / 2 ^ 43 ≤ 31) ∧
    7 ≤ 15 * 2 ^ 44 / 2 ^ 44 ∧ 15 * 2 ^ 44 / 2 ^ 44 ≤ 15 ∧ 16 ≤ 31 * 2 ^ 51 / 2 ^ 51 ∧ 31 * 2 ^ 51 / 2 ^ 51 ≤ 31 ∧
    6 ≤ 7 * 2 ^ 45 / 2 ^ 45 ∧ 7 * 2 ^ 45 / 2 ^ 45 ≤ 7 ∧ 9 ≤ 15 * 2 ^ 44 / 2 ^ 44 := by decide
theorem witness_StepRunsDecodedSlot : let c := { bc with word := 0x80000500 * 2 ^ 204 * 2 ^ 204, slots := [.P] }
    (st c (bb bw)).issue = some c ∧ c.slots = .P :: [] ∧ decodeSlot c.word .P = some (.mpush g0 5 false) := by
  refine ⟨rfl, rfl, by decide⟩
theorem witness_StepRunsDecodedToken : let s := { st bc (bb bw) with issue := none, sel := some ⟨1, 0, 0⟩, images := [img] }
    s.issue = none ∧ s.sel = some ⟨1, 0, 0⟩ ∧ s.block? 1 = some (bb bw) ∧ (bb bw).warp? 0 = some bw ∧ bw.idle = 0 ∧
    bw.pc < (s.code (bb bw) bw).bytes.length ∧
    decodeToken (s.code (bb bw) bw).widths ((s.code (bb bw) bw).bytes.drop bw.pc) = some (.idle 0, 2) ∧
    (bb { bw with idle := 1 }).warp? 0 = some { bw with idle := 1 } := by
  refine ⟨rfl, rfl, rfl, rfl, rfl, by decide, by decide, rfl⟩
theorem witness_StepRunsAgenda : let s := { State.reset with agenda := [⟨[0, 0, 0, 0, 0], .syncBeat⟩] }
    s.issue = none ∧ s.sel = none ∧ s.agenda = ⟨[0, 0, 0, 0, 0], .syncBeat⟩ :: [] := ⟨rfl, rfl, rfl⟩
theorem witness_StepNeverStops : (∀ c, State.reset.issue = some c → False) ∧
    (∀ c, (st bc (bb bw)).issue = some c → ∃ b w, (st bc (bb bw)).block? c.block = some b ∧ b.warp? c.warp = some w) ∧
    (let s := { State.reset with agenda := [⟨[0, 0, 0, 0, 0], .syncBeat⟩] }
     ∀ e r, s.agenda = e :: r → encode e.step = none ∧ encodeToken [] e.step = none ∧ e.step ≠ .emptyWord) := by
  refine ⟨(by intro c h; cases h), ?_, ?_⟩
  · intro c h; cases h; exact ⟨_, _, rfl, rfl⟩
  · intro s e r h; cases h; exact ⟨rfl, rfl, by decide⟩
theorem witness_StepKeepsMemoryCanonical : State.reset.mem.wf = true ∧ step State.reset = .next State.reset := by
  refine ⟨by decide, rfl⟩
theorem witness_ResetValues : (3 : Nat) < 4 ∧ Port.reset ∈ State.reset.ports := ⟨by decide, by simp [State.reset]⟩
theorem witness_ResultInFlightFrame : (st bc (bb bw)).block? bc.block = some (bb bw) ∧ (bb bw).warp? bc.warp = some bw ∧
    (st bc (bb bw)).warp? 1 0 = some bw := ⟨rfl, rfl, rfl⟩
theorem witness_LandingWrites : 63 < bw.s.length ∧ 15 < bw.q.length ∧ 47 < bw.p.length ∧ 7 < bw.v.length ∧ (31 : Nat) < 32 := by
  decide
/-- A warp whose turn a latch write is of, with a precise stop's record to write once it has drained. -/
def bwL : Warp := { bw with flights := [{ landing := 0, issued := 0, turn := 0, effs := [.latch 7 1 (splat 5)] }], stopRec := some default }
theorem witness_LandingAtItsCycle : (st bc (bb bwL)).warp? (bb bwL).bid bwL.num = some bwL ∧ bwL.stopRec ≠ none ∧
    ((st bc (bb bwL)).pitch (coreId (bb bwL) bwL) bwL.pitch).holder ≠ some ((bb bwL).bid, bwL.num) ∧ bw.stopRec = none ∧
    (let s := (st bc (bb bwL)).setPitch { (st bc (bb bwL)).pitch 0 0 with holder := some (1, 0) }
     s.warp? 1 0 = some bwL ∧ (s.pitch (coreId (bb bwL) bwL) bwL.pitch).holder = some (1, 0) ∧
     (s.landWarp (bb bwL) bwL 0).pitch 0 0 ≠ s.pitch 0 0) := by decide +kernel
/-- A powered state: stack 0 runs. -/
def pw (c : Issue) (b : Block) : State := { st c b with stks := List.replicate 4 { Stack.reset with powered := true } }
/-- A warp whose trap stands. -/
def bwT0 : Warp := { bw with trap := some default }
theorem witness_PitchCycleActs : (pw bc (bb bw)).running = true ∧ ((pw bc (bb bw)).stack? 0).powered = true ∧
    ((pw bc (bb bw)).cluster 0 0).ptr < 32 ∧
    (let s := (pw bc (bb bw)).modCluster 0 0 fun x => { x with ptr := 32 }
     s.running = true ∧ (s.stack? 0).powered = true ∧ ¬ (s.cluster 0 0).ptr < 32) := by decide
/-- Two ready warps on pitch 0, each in an idle token, the second with the older issue; a turn that goes on, one that has ended, and no ready warp. -/
def rdB : Block :=
  { (bb bw) with warps := [{ bw with idle := 2, lastIssue := 1 }, { bw with idle := 2, num := 1, slot := 1 }] }
def rdS (h : Option (Nat × Nat)) (b : Block) : State :=
  let s : State := { pw bc b with images := [img], contexts := [default], issue := none }
  s.setPitch { s.pitch 0 0 with holder := h }
theorem witness_PitchSelects :
    (∃ x ∈ (rdS (some (1, 0)) rdB).residents 0 0 0, ((rdS (some (1, 0)) rdB).pitch 0 0).holder = some (x.1.bid, x.2.num) ∧
      (rdS (some (1, 0)) rdB).ready x.1 x.2 1 = true) ∧
    (let s := rdS none rdB
     ¬ (∃ x ∈ s.residents 0 0 0, (s.pitch 0 0).holder = some (x.1.bid, x.2.num) ∧ s.ready x.1 x.2 1 = true) ∧
     (s.pitch 0 0).holder = none ∧
     (s.pitchSelect 0 0 0 1).sel = some ⟨1, 1, 1⟩ ∧ ∃ x ∈ (s.turnEnds 0 0).residents 0 0 0, (s.turnEnds 0 0).ready x.1 x.2 1 = true) ∧
    (let s := rdS (some (1, 0)) (bb bwT0)
     ∀ x ∈ (s.turnEnds 0 0).residents 0 0 0, (s.turnEnds 0 0).ready x.1 x.2 1 = false) := by
  decide +kernel
/-- The Y bit, the 32nd word, a trap, and neither. -/
theorem witness_TurnsEnd : Issuing (st bc (bb bw)) bc (bb bw) bw ∧ bc.trapped = false ∧ bc.hret = none ∧
    ¬ (wordY bc.word = true ∨ 31 ≤ ((st bc (bb bw)).pitch 0 0).words) ∧ (∀ l ∈ (st bc (bb bw)).lantern, l.stop.bitAt 63 = false) ∧
    bw.wait = .none ∧ ((bb bw).warps.map (·.num)).Nodup ∧
    (let c := { bc with word := 2 ^ 512 - 1 }
     Issuing (st c (bb bw)) c (bb bw) bw ∧ wordY c.word = true) ∧
    (let c := { bc with trapped := true }
     Issuing (st c (bb bw)) c (bb bw) bw ∧ c.trapped = true) ∧ bw.trap = none ∧ bw.step = none ∧
    (let w := { bw with trap := some default }
     Issuing (st bc (bb w)) bc (bb w) w ∧ w.trap.isSome = true) ∧
    (let d := { (default : DStep) with due := true }
     let w := { bw with step := some d, loops := [⟨0, 1, 2, 0⟩] }
     let c := { bc with next := 1 }
     let s := { st c (bb w) with images := [img] }
     Issuing s c (bb w) w ∧ (w.afterWord c).2 = true ∧ (w.afterWord c).1.pointFree = true ∧ w.exited = false ∧
     s.hasTimeHandler (bb w) = true ∧ d.due = true) :=
  ⟨issuing_bb bc bw rfl rfl, rfl, rfl, by decide, by decide, rfl, by decide, ⟨issuing_bb _ bw rfl rfl, by decide +kernel⟩,
    ⟨issuing_bb _ bw rfl rfl, rfl⟩, rfl, rfl, ⟨issuing_bb _ _ rfl rfl, rfl⟩,
    ⟨rfl, rfl, rfl⟩, by decide, by decide, rfl, by decide, rfl⟩
/-- A guard that is false in `bw`. -/
def gF : Guard := ⟨false, 1⟩
theorem witness_FalseGuardNoEffect : Issuing (st bc (bb bw)) bc (bb bw) bw ∧ uniformGuard (.lbrk gF) = some gF ∧
    qGuard bw gF = false := ⟨issuing_bb bc bw rfl rfl, rfl, by decide⟩
theorem witness_NoLaneNoWrite : (∀ n, VDst.reg 7 = .reg n → n < bw.v.length) ∧ (∀ v ∈ bw.v, v.length = 32) ∧
    Issuing (st bc (bb bw)) bc (bb bw) bw ∧ predGuard (.vcmp gF 5 (.v 0) (.v 1) .i32 .lt) = some gF ∧ takers bc bw gF = 0 := by
  refine ⟨by intro n h; cases h; decide, by decide, issuing_bb bc bw rfl rfl, rfl, by decide⟩
theorem witness_TrapRaised : (st bc (bb bw)).warp? bc.block bc.warp = some bw := rfl

/-- The state of the S statements: every one has the hypotheses of this theorem. -/
theorem witness_ScalarArithmetic : Issuing (st bc (bb bw)) bc (bb bw) bw ∧ qGuard bw g0 = true :=
  ⟨issuing_bb bc bw rfl rfl, rfl⟩
theorem witness_ScalarLogicShift : Issuing (st bc (bb bw)) bc (bb bw) bw ∧ qGuard bw g0 = true := witness_ScalarArithmetic
theorem witness_ScalarSelect : Issuing (st bc (bb bw)) bc (bb bw) bw ∧ qGuard bw g0 = true := witness_ScalarArithmetic
/-- A warp in a loop with a transfer under way. -/
def bwX : Warp := { bw with xfer := some ⟨2, 1, none⟩, loops := [⟨0, 2, 5, 1⟩] }
theorem witness_Transfers : Issuing (st bc (bb bw)) bc (bb bw) bw ∧ bw.xfer = none ∧ bw.loops.length ≤ 0 ∧
    Issuing (st bc (bb bwX)) bc (bb bwX) bwX ∧ bwX.xfer.isSome = true ∧ bc.clear = false ∧ bwX.loops[0]? = some ⟨0, 2, 5, 1⟩ :=
  ⟨issuing_bb bc bw rfl rfl, rfl, by decide, issuing_bb bc bwX rfl rfl, rfl, rfl, rfl⟩
theorem witness_TransferTaken : bw.idle ≤ 1 ∧ bwX.idle ≤ 1 ∧ bwX.xfer = some ⟨2, 1, none⟩ ∧ 0 < (⟨2, 1, none⟩ : Xfer).remaining ∧
    (let v := { bw with xfer := some ⟨2, 0, some 7⟩ }
     v.idle ≤ 1 ∧ v.xfer = some ⟨2, 0, some 7⟩ ∧ 7 < v.b.length) ∧
    (let v := { bw with xfer := some ⟨2, 0, none⟩, idle := 2 }
     1 < v.idle ∧ v.xfer = some ⟨2, 0, none⟩) ∧ 1 < ({ bwX with idle := 2 } : Warp).idle :=
  ⟨by decide, by decide, rfl, by decide, ⟨by decide, rfl, by decide⟩, ⟨by decide, rfl⟩, by decide⟩
theorem witness_LoopIterations : (3 : Nat) ≠ (⟨0, 2, 5, 1⟩ : LoopLevel).start + (⟨0, 2, 5, 1⟩ : LoopLevel).len ∧
    (2 : Nat) = (⟨0, 2, 5, 1⟩ : LoopLevel).start + (⟨0, 2, 5, 1⟩ : LoopLevel).len ∧ (⟨0, 2, 5, 3⟩ : LoopLevel).index + 1 < 5 ∧
    (5 : Nat) ≤ (⟨0, 2, 5, 4⟩ : LoopLevel).index + 1 := by decide
theorem witness_TransferDropsLoops : (dropLevels [⟨0, 9, 5, 1⟩, ⟨4, 2, 5, 1⟩] 8).getLast? = some ⟨0, 9, 5, 1⟩ ∧
    ({ bw with bank := some default } : Warp).bank = some default := ⟨by decide, rfl⟩
/-- A warp in its handler. -/
def bwH : Warp := { bw with bank := some default }
theorem witness_WarpEndsAndBarriers : Issuing (st bc (bb bw)) bc (bb bw) bw ∧ bw.region = none ∧ bw.bank = none ∧ bw.parked = 0 ∧
    wordRegroup bc.word = false ∧ 15 < (bb bw).bars.length ∧ Issuing (st bc (bb bwH)) bc (bb bwH) bwH ∧ bwH.bank.isSome = true ∧
    qGuard bwH g0 = true ∧ bc.clear = false :=
  ⟨issuing_bb bc bw rfl rfl, rfl, rfl, rfl, by decide, by decide, issuing_bb bc bwH rfl rfl, rfl, rfl, rfl⟩
/-- Two warps at barrier 3, the second's accesses performed or not. -/
def baB (h : List Hold) : Block :=
  { bb bw with warps := [{ bw with wait := .bar 3 }, { bw with num := 1, wait := .bar 3, hold := h }],
               bars := (List.replicate 16 0).set 3 2 }
theorem witness_BarrierCompletes : (st bc (baB [])).block? 1 = some (baB []) ∧ 3 < (baB []).bars.length ∧
    ((baB []).warps.filter fun w => w.wait == .bar 3) ≠ [] ∧
    (baB []).bars[3]? = some ((baB []).warps.filter fun w => !w.exited).length ∧
    (∀ w ∈ (baB []).warps.filter fun w => w.wait == .bar 3, w.hold = []) ∧
    (st bc (baB [⟨.sync, 1⟩])).block? 1 = some (baB [⟨.sync, 1⟩]) ∧
    ¬ (∀ w ∈ (baB [⟨.sync, 1⟩]).warps.filter fun w => w.wait == .bar 3, w.hold = []) := by
  decide +kernel
theorem witness_HandlerOnly : Issuing (st bc (bb bw)) bc (bb bw) bw ∧ bw.bank = none ∧ (0x088 : Nat) ≤ 0x088 ∧ (0x13F : Nat) ≤ 0x13F ∧
    (0x2BF : Nat) ≤ 0x2BF ∧ Issuing (st bc (bb bwH)) bc (bb bwH) bwH ∧ bwH.bank.isSome = true ∧ bc.clear = false :=
  ⟨issuing_bb bc bw rfl rfl, rfl, by decide, by decide, by decide, issuing_bb bc bwH rfl rfl, rfl, rfl⟩
/-- A context, a trap that stands, and a state with both. -/
def ctx0 : Context := default
def trap0 : TrapInfo := { (default : TrapInfo) with code := 0x7F }
def bwT : Warp := { bw with trap := some trap0 }
def sT : State := { st bc (bb bwT) with contexts := [ctx0], images := [img] }
theorem witness_TrapEntered : TrapDue sT (bb bwT) bwT trap0 ctx0 ∧ bwT.bank = none ∧ trap0.code < 0x80 ∧ trap0.code ≠ 0x61 ∧
    0x2B < trap0.code ∧ sT.image? (bb bwT).ctx (bb bwT).image = some img ∧
    (∃ h, img.handler = some h ∧ h.entry.getD (trap0.code / 16) 0xFFFFFFFF = 0) ∧ bwT.s.length = 64 ∧ bwT.q.length = 16 ∧
    bw.trap = none ∧ ({ bwT with trying := some default } : Warp).trying.isSome = true ∧ (sT.pitch 0 0).holder = none ∧
    (let s := sT.setPitch { sT.pitch 0 0 with holder := some (1, 0) }
     TrapDue s (bb bwT) bwT trap0 ctx0 ∧ (s.pitch (coreId (bb bwT) bwT) bwT.pitch).holder = some ((bb bwT).bid, bwT.num)) :=
  ⟨⟨rfl, rfl, rfl, rfl, rfl, rfl, rfl, rfl, rfl, rfl, by intro p h; cases h⟩, rfl, by decide, by decide, by decide, rfl,
    ⟨_, rfl, by decide⟩, by decide, by decide, rfl, rfl, by decide,
    ⟨rfl, rfl, rfl, rfl, rfl, rfl, rfl, rfl, rfl, rfl, by intro p h; cases h⟩, by decide⟩
theorem witness_TrapWithoutHandlerIsFatal : TrapDue { sT with images := [] } (bb bwT) bwT trap0 ctx0 ∧ trap0.code < 0x80 ∧ trap0.code ≠ 0x50 ∧
    (∀ im h, ({ sT with images := [] } : State).image? 0 0 = some im → im.handler = some h →
      h.entry.getD (trap0.code / 16) 0xFFFFFFFF = 0xFFFFFFFF) ∧
    (let w := { bwT with bank := some default }
     TrapDue { st bc (bb w) with contexts := [ctx0] } (bb w) w trap0 ctx0 ∧ w.bank.isSome = true) :=
  ⟨⟨rfl, rfl, rfl, rfl, rfl, rfl, rfl, rfl, rfl, rfl, by intro p h; cases h⟩, by decide, by decide, (by intro im h e; cases e),
    ⟨rfl, rfl, rfl, rfl, rfl, rfl, rfl, rfl, rfl, rfl, by intro p h; cases h⟩, rfl⟩
/-- An `ftry` of `q12` under way at the return from a handler reaches no predicate of the program; one of `q11` reaches its own. -/
theorem test_hret_ftry : let s := fun (q : Nat) => st bc (bb { bwH with trying := some ⟨q, 0x100, 9⟩ })
    (((s 12).handlerReturn 1 0 false).warp? 1 0).map (·.trying) = some (some ⟨0, 0x100, 9⟩) ∧
    (((s 11).handlerReturn 1 0 false).warp? 1 0).map (·.trying) = some (some ⟨11, 0x100, 9⟩) := by decide
/-- A word with an `hret`, and a handler that waits for replies, one to `s48` and one to `s47`. -/
def bcR : Issue := { bc with hret := some true }
def bwP : Warp := { bwH with pend := [{ reg := .s 48, req := 5, returned := none }, { reg := .s 47, req := 5, returned := none }] }
theorem witness_HandlerReturns : bwH.bank = some default ∧ 48 ≤ bw.s.length ∧ 12 ≤ bw.q.length ∧ bw.bank = none ∧
    (st bc (bb bwP)).warp? 1 0 = some bwP ∧ ((bwP.pend.map (·.reg)).filter fun r => r == .s 48) ≠ [] ∧
    Issuing (st bcR (bb bwH)) bcR (bb bwH) bwH ∧ bwH.bank.isSome = true ∧ bcR.trapped = false ∧ bcR.hret = some true :=
  ⟨rfl, by decide, by decide, rfl, rfl, by decide, issuing_bb bcR bwH rfl rfl, rfl, rfl, rfl⟩
theorem witness_SlotsKeepTheMode : (encode (.lbrk gF)).isSome = true ∧ exec (.lbrk gF) (st bc (bb bw)) = .next (st bc (bb bw)) ∧
    (st bc (bb bw)).warp? 1 0 = some bw := ⟨by decide, rfl, rfl⟩
theorem witness_SystemRegisters : Issuing (st bc (bb bwH)) bc (bb bwH) bwH ∧ qGuard bwH g0 = true ∧ bwH.bank.isSome = true ∧
    srHandler 0x018 = false ∧ bwH.region = none ∧ bwH.grant = none ∧ ({ bwH with grant := some 15 } : Warp).grant = some 15 :=
  ⟨issuing_bb bc bwH rfl rfl, rfl, rfl, by decide, rfl, rfl, rfl⟩
/-- A context of two virtual dies. -/
def ctx2 : Context := { ctx0 with vdies := [0, 2] }
def sC : State := { st bc { bb bw with allocs := [default] } with contexts := [ctx2] }
theorem witness_ClockAndQueries : Issuing sC bc { bb bw with allocs := [default] } bw ∧ sC.ctx? 0 = some ctx2 ∧ (5 : Nat) < 6 ∧
    Block.allocOn { bb bw with allocs := [default] } bw.core = some default ∧ ctx2.vdies[(bw.sread 0).toNat]? = some 0 ∧
    ctx2.vdies[((SSrc.hole 0).val { bc with holes := [1] } bw).toNat]? = some 2 ∧
    ctx2.vdies[((SSrc.hole 0).val { bc with holes := [2] } bw).toNat]? = none ∧ (3 : Nat) < 4 :=
  ⟨⟨rfl, rfl, rfl⟩, rfl, by decide, rfl, rfl, by decide, by decide, by decide⟩
theorem witness_DeadlineSteps : Issuing (st bc (bb bw)) bc (bb bw) bw ∧ bw.step = none ∧
    (let d := { (default : DStep) with isOpen := true }
     ({ bw with step := some d } : Warp).step = some d ∧ d.isOpen = true) ∧
    ({ bw with step := some default } : Warp).step = some default ∧ (default : DStep).isOpen = false :=
  ⟨issuing_bb bc bw rfl rfl, rfl, ⟨rfl, rfl⟩, rfl, rfl⟩
theorem witness_LanePredicates : Issuing (st bc (bb bw)) bc (bb bw) bw ∧ (31 : Nat) < 32 := ⟨issuing_bb bc bw rfl rfl, by decide⟩
theorem witness_WarpPredicates : Issuing (st bc (bb bw)) bc (bb bw) bw ∧ qGuard bw g0 = true := witness_ScalarArithmetic
/-- A mask stack of one entry, and a full one. -/
def bwM : Warp := { bw with masks := [⟨allLanes, 0⟩] }
def bwF : Warp := { bw with masks := List.replicate 16 ⟨allLanes, 0⟩ }
theorem witness_MaskStack : Issuing (st bc (bb bw)) bc (bb bw) bw ∧ bw.masks.length < 16 ∧ (bb bw).masksOut bw = true ∧
    Issuing (st bc (bb bwF)) bc (bb bwF) bwF ∧ 16 ≤ bwF.masks.length ∧ Issuing (st bc (bb bwM)) bc (bb bwM) bwM ∧
    bwM.masks = [] ++ [⟨allLanes, 0⟩] ∧ (bb bwM).masksOut bwM = false ∧ bwM.parked = 0 ∧
    ({ bwM with parked := 1 } : Warp).parked ≠ 0 ∧ bwM.bank = none ∧ bc.clear = false :=
  ⟨issuing_bb bc bw rfl rfl, by decide, by decide, issuing_bb bc bwF rfl rfl, by decide, issuing_bb bc bwM rfl rfl, rfl, by decide,
    rfl, by decide, rfl, rfl⟩
/-- A word with a barrier in it, and a regrouped warp. -/
def bcB : Issue := { bc with word := 0x7400000000000000 * 2 ^ 220 * 2 ^ 220 }
def bwR : Warp := { bw with region := some 0 }
theorem witness_Regrouping : Issuing (st bc (bb bw)) bc (bb bw) bw ∧ qGuard bw gF = false ∧ bc.clear = false ∧ bw.bank = none ∧ bw.region = none ∧
    (bb bw).mismatch bw bc.tok = false ∧ wordBar bc.word = false ∧ wordBar bcB.word = true ∧ bw.parked = 0 ∧
    Issuing (st bcB (bb bw)) bcB (bb bw) bw ∧ Issuing (st bc (bb bwR)) bc (bb bwR) bwR ∧ bwR.region.isSome = true ∧
    Issuing (st bcB (bb bwR)) bcB (bb bwR) bwR ∧
    (let b := { bb bw with warps := [bw, { bw with num := 1, wait := .regroup 7 0 0 0 true }] }
     b.mismatch bw bc.tok = true) :=
  ⟨issuing_bb bc bw rfl rfl, by decide, rfl, rfl, rfl, by decide, by decide, by decide, rfl, issuing_bb bcB bw rfl rfl, issuing_bb bc bwR rfl rfl, rfl,
    issuing_bb bcB bwR rfl rfl, by decide⟩
/-- Two warps at one regroup, the second true in lane 0 and the first not; the same two regrouped and at their ungroup. -/
def rgW (n : Nat) (p : Mask) (k : Wait) : Warp := { bw with num := n, wait := k, s := List.replicate 64 (BitVec.ofNat 64 n), p := List.replicate 48 p }
def rgB : Block :=
  { bb bw with warps := [rgW 0 2 (.regroup 7 0 0 2 true), rgW 1 1 (.regroup 7 0 0 1 true)] }
def rg1 : Region :=
  { core := 0, pitch := 0, members := [0, 1], base := 0, table := [List.replicate 32 1, List.replicate 32 0],
    masks := [allLanes, 1], mstacks := [[], []] }
def ugB (k : Wait) : Block :=
  { bb bw with regions := [rg1],
               warps := [{ rgW 0 2 .ungroup with region := some 0 }, { rgW 1 1 k with region := some 1 }] }
theorem witness_RegroupCompletes : (st bc rgB).block? 1 = some rgB ∧ (rgB.warps.map (·.num)).Nodup ∧
    rgB.participants 0 0 ≠ [] ∧ (rgB.participants 0 0).map (·.wait) = [.regroup 7 0 0 2 true, .regroup 7 0 0 1 true] ∧
    (st bc rgB).calm rgB (rgB.participants 0 0) = true ∧ (packOrder (rgB.participants 0 0) 0) = [1, 0] ∧
    (packOrder (rgB.participants 0 0) 1) = [0, 1] ∧ (packOrder (rgB.participants 0 0) 2) = [0, 1] ∧
    (st bc (bb bw)).calm (bb bw) [{ bw with hold := [⟨.sync, 1⟩] }] = false := by decide +kernel
theorem witness_UngroupCompletes : (st bc (ugB .ungroup)).block? 1 = some (ugB .ungroup) ∧ ((ugB .ungroup).warps.map (·.num)).Nodup ∧
    (ugB .ungroup).regions.find? (fun q => q.core == 0 && q.pitch == 0) = some rg1 ∧ rg1.members.Nodup ∧
    rg1.table.length = rg1.members.length ∧
    (let live := (ugB .ungroup).warps.filter fun w => rg1.members.contains w.num && !w.exited
     live ≠ [] ∧ (∀ w ∈ live, w.wait = .ungroup) ∧ (st bc (ugB .ungroup)).calm (ugB .ungroup) live = true ∧
     rg1.members[0]? = some 0 ∧ (rg1.table.getD 1 []).getD 31 0 = 0 ∧
     ∀ k, k < rg1.members.length → (rg1.table.getD k []).getD 31 0 = 0 → k = 1) ∧
    (let live := (ugB .none).warps.filter fun w => rg1.members.contains w.num && !w.exited
     ¬ ∀ w ∈ live, w.wait = .ungroup) := by decide +kernel
theorem witness_AddressStreams : Issuing (st bc (bb bw)) bc (bb bw) bw ∧ 3 < (bw.xread 7).c.length ∧ 3 < (bw.xread 7).i.length ∧
    (2 : Nat) ≠ 3 := ⟨issuing_bb bc bw rfl rfl, by decide, by decide, by decide⟩

/-- A window of tile memory, a tensor of bytes with all rights, one of one frame that is absent, and a record none may write. -/
def rW : Record := { (default : Record) with ext := [4096, 1, 1, 1], rights := 15, meter := 0xFF, ndim := 1, kind := 1 }
def rT : Record := { rW with kind := 0, base := 65536 }
def rA : Record := { rW with kind := 0, base := 131072 }
def ten (base : Nat) (here : Bool) : Tensor :=
  { (default : Tensor) with base := base, bytes := 65536, bound := true,
                            entries := [{ (default : TileEntry) with resident := here, writable := true, frame := base / 65536 }] }
/-- A state whose block's task has those records as its pool; stream k of a warp `wm k` names record k. -/
def sm (c : Issue) (b : Block) : State :=
  { st c b with tasks := [{ (default : Task) with pool := [rW, rT, rA] }], tensors := [ten 65536 true, ten 131072 false],
                contexts := [ctx0] }
def xs (k : Nat) : List AStream := [{ rcd := k, c := [0, 0, 0, 0], i := [64, 0, 0, 0], step := 4, sdim := 0 }]
def wm (k : Nat) : Warp := { bw with x := xs k }
def bm (w : Warp) : Block := { bb w with rcd := { (default : LaunchRec) with tmem := 65536 }, allocs := [⟨0, 0, []⟩] }
/-- Lane 0 alone takes part. -/
def c1 : Issue := { bc with lanes := 1 }

theorem issuing_sm (c : Issue) (w : Warp) (h : c.block = 1) (h' : c.warp = w.num) : Issuing (sm c (bm w)) c (bm w) w := by
  have := issuing_st c (bm w) w [] h h' rfl
  exact ⟨this.1, this.2.1, this.2.2⟩

theorem witness_MaskSpills :
    let w := { wm 0 with bank := some { (default : Bank) with masks := [⟨3, 4⟩] }, spillRec := 1 }
    let s := sm bc (bm w)
    Issuing s bc (bm w) w ∧ w.bank = some { (default : Bank) with masks := [⟨3, 4⟩] } ∧
    spillLocs ((List.range 1).map fun i => s.spillCheck (bm w) w true (w.spillOff + BitVec.ofNat 64 (8 * i)).toNat) =
      .ok [.tensor 65536 0] ∧ [Loc.tensor 65536 0].any s.absent = false ∧ bc.stores = [] ∧ s.hotBytes (some (1, 0)) s.uid = [] ∧
    bc.clear = false ∧
    (let u : State := { s with images := [{ img with meters := [7] }],
                               tensors := [{ ten 65536 true with entries := [{ (default : TileEntry) with resident := true, metered := true }] }] }
     u.meterOf (bm w) { rT with meter := 0 } 0 = some 7) ∧
    ([Loc.tensor 65536 0].map s.addrOf).Pairwise (fun x y => x + 8 ≤ y ∨ y + 8 ≤ x) ∧ s.mem.wf = true ∧
    (let v := { w with spillOff := 8 }
     spillLocs ((List.range 1).map fun i => s.spillCheck (bm v) v false
       (v.spillOff - BitVec.ofNat 64 (8 * 1) + BitVec.ofNat 64 (8 * i)).toNat) = .ok [.tensor 65536 0]) ∧
    ([⟨3, 4⟩] : List MaskEntry).length < 2 ∧ 16 < ([⟨3, 4⟩] : List MaskEntry).length + 16 := by
  refine ⟨issuing_sm _ _ rfl rfl, rfl, by decide, by decide, rfl, by decide, rfl, by decide, by decide, by decide, by decide,
    by decide, by decide⟩
theorem witness_VectorsOnlyWriteLanes : Issuing (st bc (bb bw)) bc (bb bw) bw ∧ laneGuard (.vli g0 .nw (.v 0) (.v 1)) = some g0 :=
  ⟨issuing_bb bc bw rfl rfl, rfl⟩
theorem witness_VectorInteger32 : Issuing (st bc (bb bw)) bc (bb bw) bw ∧ ITy.i32.is64 = false ∧ ITy.n32.is64 = false ∧
    ((VSrc.v 7).lanes ((st bc (bb bw)).pitch 0 0) bc bw)[31]? = some 0 := ⟨issuing_bb bc bw rfl rfl, rfl, rfl, by decide⟩
theorem witness_VectorSaturates : Issuing (st bc (bb bw)) bc (bb bw) bw := issuing_bb bc bw rfl rfl
theorem witness_VectorInteger64 : Issuing (st bc (bb bw)) bc (bb bw) bw ∧ ITy.i64.is64 = true ∧ ITy.n64.is64 = true ∧
    ((VSrc.v 6).lanes64 ((st bc (bb bw)).pitch 0 0) bc bw)[31]? = some 0 := ⟨issuing_bb bc bw rfl rfl, rfl, rfl, by decide⟩
theorem witness_VectorSelects : Issuing (st bc (bb bw)) bc (bb bw) bw ∧ (fp32Value 0x7F800001).isNan = true ∧ (31 : Nat) < 32 ∧
    ((VSrc.s 0).lanes ((st bc (bb bw)).pitch 0 0) bc bw)[31]? = some 0 := ⟨issuing_bb bc bw rfl rfl, by decide, by decide, by decide⟩
theorem witness_VectorFloat : Issuing (st bc (bb bw)) bc (bb bw) bw ∧ (fp32Value 0xFFC00000).isNan = true ∧
    (fp32Value 0x80000000).isNan = false := ⟨issuing_bb bc bw rfl rfl, by decide, by decide⟩
/-- Two numbers, a number and a NaN, two NaNs; codes at the bounds of every format; sums that are a number, that cancel, of zeros. -/
theorem witness_FloatValues : (fp32Value 0x7F800000).isNan = false ∧ (fp32Value 0x80000000).isNan = false ∧
    (fp32Value 0x7F800001).isNan = true ∧ (fp32Value 0xFFFFFFFF).isNan = true := by decide
theorem witness_ValuesOfCodes : (0xFF7FFFFF : Word32).toNat % 2 ^ 31 < 0x7F800000 ∧ (0xFF800000 : Word32).toNat % 2 ^ 31 = 0x7F800000 ∧
    0x7F800000 < (0xFF800001 : Word32).toNat % 2 ^ 31 ∧ 0x7F7F < 0x7F80 ∧ 0x7F80 < 0x7F81 ∧ 0x7FFF < 2 ^ 15 ∧ 0x7B < 0x7C ∧ 0x7C < 0x7D ∧
    0x7F < 2 ^ 7 ∧ 0x7E < 0x7F ∧ (0x20, -1, 5) ∈ d8Rows ∧ 31 < 2 ^ 5 ∧ 0x3F = 0x20 + 31 := by decide
theorem witness_ExactArithmetic : HasValue (.fin false 1 2) false (1 / 2) ∧ HasValue (.fin true 1 2) true (1 / 2) ∧
    HasValue (.fin true 0 1) true 0 ∧ ((1 : ℚ) / 2 + 1 / 2 ≠ 0) ∧ ((1 : ℚ) / 2 + -(1 / 2) = 0) ∧ (1 : ℚ) / 2 ≠ 0 :=
  ⟨⟨1, 2, by decide, rfl, by norm_num⟩, ⟨1, 2, by decide, rfl, by norm_num⟩, ⟨0, 1, by decide, rfl, by norm_num⟩, by norm_num,
    by norm_num, by norm_num⟩
theorem witness_RoundsOnce : 0 < 1 ∧ (10 ^ 6 : ℚ) ≤ (10 ^ 6 : Nat) / (1 : Nat) ∧ ((999999 : Nat) : ℚ) / (1 : Nat) < 10 ^ 6 := by
  refine ⟨by decide, by norm_num, by norm_num⟩
theorem witness_RoundingKeepsExactValues : (fp32Value 0xFF800000).isNan = false ∧ 65535 < 65536 ∧ (fbf16.value 0xFF80).isNan = false ∧
    255 < 256 ∧ (e4m3Value 0xFE).isNan = false ∧ (fe5m2.value 0xFC).isNan = false ∧ (d8Value 0xFF).isNan = false := by decide
theorem witness_DirectedRounding : (0 : Nat) < 3 := by decide
theorem witness_CrossLane : Issuing (st bc (bb bw)) bc (bb bw) bw ∧ ScanOp.xor ≠ .fmin ∧ ScanOp.xor ≠ .fmax ∧ ScanOp.xor ≠ .fadd :=
  ⟨issuing_bb bc bw rfl rfl, by decide, by decide, by decide⟩
theorem witness_SpecialFunctions : Issuing (st bc (bb bw)) bc (bb bw) bw ∧ (fp32Value 0x7FC00000).isNan = true ∧
    fp32Value 0xFF800000 = .inf true ∧ fp32Value 0xBFC00000 = .fin true 12582912 8388608 ∧ 2 * (12582912 % 8388608) = 8388608 ∧
    fp32Value 0x80000000 = .fin true 0 (2 ^ 149) ∧ 0 % 2 ^ 149 = 0 :=
  ⟨issuing_bb bc bw rfl rfl, by decide, by decide, by decide, by decide, by decide, by decide⟩

theorem witness_MemoryNoLaneNoEffect : Issuing (sm bc (bm (wm 0))) bc (bm (wm 0)) (wm 0) ∧
    memGuard (.st ⟨true, 0⟩ (.v 0) 0 .b32 false) = some ⟨true, 0⟩ ∧ takers bc (wm 0) ⟨true, 0⟩ = 0 :=
  ⟨issuing_sm _ _ rfl rfl, rfl, by decide⟩
/-- The pool of a task that holds one record. -/
def sr (r : Record) : State := { sm bc (bm (wm 0)) with tasks := [{ (default : Task) with pool := [r] }] }
/-- What a store asks. -/
def nSt : Need := needOf (.st g0 (.v 0) 0 .b32 false)
/-- Every failing check of R366 is met, each with the ones before it passed, and so is none. -/
theorem witness_AccessChecks :
    let b := bm (wm 0)
    let k := fun (s : State) (n : Need) => s.check b (wm 0) n 0 [0, 0, 0, 0] 4 4
    let r3 := { rT with kind := 3, peer := 9 }
    ((sr rT).pool b)[1]? = none ∧ ((sr rT).pool b)[0]? = some rT ∧
    k (sr { rT with kind := 4 }) nSt = .error 0x27 ∧ k (sr { rT with rights := 0 }) nSt = .error 0x22 ∧
    k (sr { rT with meter := 0 }) nSt = .error 0x25 ∧ k (sr { rT with kind := 2, base := 70000 }) nSt = .error 0x29 ∧
    k (sr { rT with ext := [3, 1, 1, 1] }) nSt = .error 0x20 ∧ k (sr { rT with described := true, format := 1 }) nSt = .error 0x21 ∧
    k { sr rT with tensors := [{ ten 65536 true with entries := [{ (default : TileEntry) with resident := true }] }] } nSt = .error 0x23 ∧
    k { sr rT with stamped := [⟨(sr rT).tensorAddr 65536 0 / 64, []⟩] } nSt = .error 0x24 ∧
    k (sr r3) nSt = .error 0x2B ∧ k (sr rT) nSt = .ok (.tensor 65536 0) := by decide
theorem witness_LocalLoads : let w := wm 0
    let s := sm bc (bm w)
    let i := Instr.ld g0 (.reg 0) 0 .b32 false true true false
    let j := Instr.ldg g0 (.reg 0) 0 .b32 1 true false (.v 0)
    Issuing s bc (bm w) w ∧ s.recordOf (bm w) w 0 = some rW ∧ rW.kind = 1 ∧ s.reqs = [] ∧
    (takers bc w g0 ≠ 0 ∧ goodTries (s.tries bc (bm w) w i (takers bc w g0)) ≠ [] ∧ s.hotBytes (some (1, 0)) s.uid = [] ∧
      goodTries (s.tries bc (bm w) w j (takers bc w g0)) ≠ [] ∧
      (∀ p ∈ goodTries (s.tries bc (bm w) w i (takers bc w g0)), s.absent p.2 = false) ∧
      (∀ p ∈ goodTries (s.tries bc (bm w) w j (takers bc w g0)), s.absent p.2 = false)) :=
  ⟨issuing_sm _ _ rfl rfl, by decide, rfl, rfl, by decide +kernel⟩
theorem witness_LocalStores : let w := wm 0
    let s := sm bc (bm w)
    let i := Instr.st g0 (.v 0) 0 .b32 true
    Issuing s bc (bm w) w ∧ s.recordOf (bm w) w 0 = some rW ∧ rW.kind = 1 ∧ (Width.b32 = .b128 → ∃ n, VSrc.v 0 = .v n) ∧
    Present s bc (bm w) w i g0 ∧ s.reqs = [] ∧ s.mem.wf = true ∧
    ((goodTries (s.tries bc (bm w) w i (takers bc w g0))).map fun p => s.addrOf p.2).Pairwise (fun k j => k + 4 ≤ j ∨ j + 4 ≤ k) :=
  ⟨issuing_sm _ _ rfl rfl, by decide, rfl, fun _ => ⟨0, rfl⟩, by unfold Present; decide +kernel, rfl, by decide, by decide +kernel⟩
theorem witness_LongAccesses : let w := wm 1
    let s := sm c1 (bm w)
    let i := Instr.ld g0 (.reg 0) 0 .b32 false false true false
    Issuing s c1 (bm w) w ∧ s.recordOf (bm w) w 0 = some rT ∧ rT.kind ≠ 1 ∧ Present s c1 (bm w) w i g0 ∧
    goodTries (s.tries c1 (bm w) w i (takers c1 w g0)) ≠ [] ∧ (47 : Nat) ≠ 0 ∧
    (let a := Instr.atom g0 (.reg 0) 0 .add .i32 .relaxed .package true (.v 1) (.v 0)
     Present s c1 (bm w) w a g0 ∧ goodTries (s.tries c1 (bm w) w a (takers c1 w g0)) ≠ []) ∧ s.tooWide 0 = true ∧
    takers c1 w g0 ≠ 0 ∧ c1.clear = false ∧
    ({ s with stks := List.replicate 4 { Stack.reset with earliest := 0, latest := 0 } } : State).tooWide 0 = false :=
  ⟨issuing_sm _ _ rfl rfl, by decide, by decide, by unfold Present; decide, by decide, by decide,
    ⟨by unfold Present; decide, by decide⟩, by decide, by decide, rfl, by decide⟩
theorem witness_LanesPark : (sm bc (bm (wm 2))).warp? 1 0 = some (wm 2) ∧ (wm 2).bank = none ∧
    (∀ r ∈ [{ (default : LaneRec) with lane := 31 }], r.lane < 32) ∧
    (let w := { wm 2 with bank := some default }
     (sm bc (bm w)).warp? 1 0 = some w ∧ w.bank.isSome = true ∧ w.trap = none) ∧
    (let s := { sm c1 (bm (wm 2)) with stks := List.replicate 4 { Stack.reset with latest := 0 } }
     Issuing s c1 (bm (wm 2)) (wm 2) ∧ memGuard (.ld g0 .nw 0 .b32 false false false false) = some g0 ∧
     s.tooWide (bm (wm 2)).stack = false ∧ (wm 2).trap = none ∧
     (0, Loc.tensor 131072 0) ∈ goodTries (s.tries c1 (bm (wm 2)) (wm 2) (.ld g0 .nw 0 .b32 false false false false) (takers c1 (wm 2) g0)) ∧
     s.absent (.tensor 131072 0) = true) :=
  ⟨rfl, rfl, by decide, ⟨rfl, rfl, rfl⟩, ⟨rfl, rfl, rfl⟩, rfl, by decide, rfl, by decide, by decide⟩
theorem witness_FullEmpty : Issuing (sm c1 (bm (wm 0))) c1 (bm (wm 0)) (wm 0) ∧
    Present (sm c1 (bm (wm 0))) c1 (bm (wm 0)) (wm 0) (.feset g0 0 .b32 true) g0 ∧
    Present (sm c1 (bm (wm 0))) c1 (bm (wm 0)) (wm 0) (.feclr g0 0 .b128 true) g0 ∧ (0 : Nat) < 16 :=
  ⟨issuing_sm _ _ rfl rfl, by unfold Present; decide, by unfold Present; decide, by decide⟩
theorem witness_WarpMemoryOperations : let w := wm 1
    let s := sm c1 (bm w)
    Issuing s c1 (bm w) w ∧ takers c1 w g0 ≠ 0 ∧ s.recordOf (bm w) w 0 = some rT ∧ w.probeBad = false ∧
    ({ w with probeBad := true } : Warp).probeBad = true ∧ c1.clear = false ∧ s.stageQ (bm w) 0 = none ∧
    (let v := wm 3
     Issuing (sm c1 (bm v)) c1 (bm v) v ∧ v.bank = none ∧ takers c1 v g0 ≠ 0 ∧
     (((sm c1 (bm v)).tries c1 (bm v) v (.lblk g0 0 0 0 0 true) (takers c1 v g0)).head?).map (·.res) = some (.error 0x26) ∧
     (let s := { sm c1 (bm v) with stks := List.replicate 4 { Stack.reset with latest := 0 } }
      s.tooWide (bm v).stack = false ∧
      ((s.tries c1 (bm v) v (.stc g0 0 0 true true (.v 0)) (takers c1 v g0)).head?).map (·.res) = some (.error 0x26))) ∧
    (let s := { s with tasks := [{ (default : Task) with queues := [{ (default : StageQ) with logCap := 4 }] }] }
     (s.stageQ (bm w) 0).isSome = true) ∧
    ((s.tries c1 (bm w) w (.lblk g0 0 0 0 0 true) (takers c1 w g0)).head?).map (·.res) = some (.ok (.tensor 65536 0)) ∧
    128 * (0 / 128 + 0 + 1) ≤ rT.size ∧ s.absent (.tensor 65536 0) = false ∧
    (let s := { s with stks := List.replicate 4 { Stack.reset with latest := 0 } }
     s.tooWide 0 = false ∧
     ((s.tries c1 (bm w) w (.stc g0 0 0 true true (.v 0)) (takers c1 w g0)).head?).map (·.res) = some (.ok (.tensor 65536 0))) :=
  ⟨issuing_sm _ _ rfl rfl, by decide, by decide, rfl, rfl, rfl, by decide,
    ⟨issuing_sm _ _ rfl rfl, rfl, by decide, by decide, by decide, by decide⟩, by decide, by decide, by decide, by decide, by decide⟩

/-- An outstanding request of the small warp: one lane at byte 0 of the tensor. -/
def acc0 : LaneAcc := { (default : LaneAcc) with lane := 31, loc := .tensor 65536 0, bytes := 4, data := [1, 2, 3, 4] }
def rq (k : ReqKind) (a : LaneAcc) : Req := { (default : Req) with id := 5, block := 1, kind := k, lanes := [a] }
/-- A state with that request. -/
def sq (k : ReqKind) (a : LaneAcc) : State := { sm bc (bm (wm 1)) with reqs := [rq k a] }
/-- The request before it of the same warp to the same bytes. -/
def older : Req := { rq .store acc0 with id := 4 }
def ld5 : ReqKind := .load (.reg 7) .b32 false

theorem witness_LoadReturns : let s := sq ld5 acc0
    s.reqs.find? (fun q => q.id == 5) = some (rq ld5 acc0) ∧ (rq ld5 acc0).lanes.find? (fun k => k.lane == 31) = some acc0 ∧
    ((rq ld5 acc0).lanes.map (·.lane)).Nodup ∧ s.warp? 1 0 = some (wm 1) ∧ 0 % 128 + acc0.bytes ≤ 128 ∧ 124 % 128 + 4 ≤ 128 ∧
    s.absent acc0.loc = false ∧ s.behind (rq ld5 acc0) acc0 = false ∧ s.l1Line 0 1 65536 0 = none ∧ s.hotBytes (some (1, 0)) 5 = [] ∧
    ({ s with reqs := [older, rq ld5 acc0] } : State).behind (rq ld5 acc0) acc0 = true ∧
    (let r := { rq ld5 acc0 with lanes := [{ acc0 with lane := 0 }, acc0] }
     ({ s with reqs := [r] } : State).behind r acc0 = false ∧ ({ s with reqs := [r] } : State).blocked r acc0 = true) ∧
    (let ln := { (default : L1Line) with base := 65536 }
     ({ s with l1 := [ln] } : State).l1Line 0 1 65536 0 = some ln ∧ ln.tag = none ∧
     (let ln := { ln with tag := some (1, 7) }
      ({ s with l1 := [ln] } : State).l1Line 0 1 65536 0 = some ln ∧ ln.tag.isSome = true)) := by decide
/-- A load of one word in two lanes returns in one event, so that its line is counted once (R136, R141). -/
theorem test_broadcast_returns :
    let r := { rq ld5 acc0 with lanes := [{ acc0 with lane := 0, meter := some 3 }, { acc0 with meter := some 3 }] }
    let s := { sm bc (bm (wm 1)) with reqs := [r], rainfly := { Rainfly.reset with meters := [{ (default : Meter) with region := 3 }] } }
    (match exec (.longLoadReturn 5 31 false) s with
     | .next t => decide (t.reqs = []) && t.meterVal 3 == 128
     | _ => false) = true := by decide +kernel
/-- A late fault goes by the mode of its word, not by that of the warp when it is found (R246, R351). -/
theorem test_late_faults : let bad := fun (h : Bool) (w : Warp) =>
      (((sm bc (bm w)).lateFault { rq .store acc0 with handler := h } acc0 0x24).warp? 1 0).map fun v => (v.parked != 0, v.trap.map (·.code))
    let inH := { wm 1 with bank := some default }
    bad true (wm 1) = some (false, some 0x81) ∧ bad false inH = some (true, none) := by decide +kernel
/-- A lane that waits to leave for a peer: free, away already, behind an earlier access to those bytes, a store that a copy of its own
word has still to read, and a release behind a store. -/
def pa : LaneAcc := { acc0 with loc := .peer 9 65536 0 }
theorem witness_PeerLanesLeave : let s := fun (k : ReqKind) => sq k pa
    let rel : ReqKind := .atom (.reg 7) .add .i32 .release .package
    ((s ld5).reqs.find? (fun q => q.id == 5) = some (rq ld5 pa) ∧ (rq ld5 pa).lanes.find? (fun k => k.lane == 31) = some pa ∧
      (s ld5).block? 1 = some (bm (wm 1)) ∧ (bm (wm 1)).warp? 0 = some (wm 1) ∧ (s ld5).peerReqs = [] ∧
      (s ld5).blocked (rq ld5 pa) pa = false) ∧
    (let u := { s ld5 with peerReqs := [{ (default : PeerReq) with who := .lane 5 31 }] }
     ∃ q ∈ u.peerReqs, q.who = .lane (rq ld5 pa).id pa.lane) ∧ 0 / 65536 < 2 ^ 32 ∧ ¬ 2 ^ 48 / 65536 < 2 ^ 32 ∧
    ({ s ld5 with reqs := [{ rq .store pa with id := 4 }, rq ld5 pa] } : State).blocked (rq ld5 pa) pa = true ∧
    (s .store).ownReads (rq .store pa) pa = false ∧ (s rel).atomReady (rq rel pa) .release .package = true ∧
    ({ s rel with reqs := [{ older with word := 0 }, { rq rel pa with word := 1 }] } : State).atomReady { rq rel pa with word := 1 }
      .release .package = false := by decide
theorem witness_StoresPerform : let s := sq .store acc0
    s.reqs.find? (fun q => q.id == 5) = some (rq .store acc0) ∧ (rq .store acc0).lanes.find? (fun k => k.lane == 31) = some acc0 ∧
    s.block? 1 = some (bm (wm 1)) ∧ (bm (wm 1)).warp? 0 = some (wm 1) ∧ s.moving acc0.loc = false ∧ s.mem.wf = true ∧
    (rq .store acc0).undef = [] ∧ s.blocked (rq .store acc0) acc0 = false ∧ s.isStamped (s.addrOf acc0.loc) 4 = false ∧
    ({ s with reqs := [older, rq .store acc0] } : State).blocked (rq .store acc0) acc0 = true ∧
    ({ s with stamped := [⟨s.tensorAddr 65536 0 / 64, []⟩] } : State).isStamped (s.addrOf acc0.loc) 4 = true ∧
    (rq .store acc0).handler = false ∧ ({ rq .store acc0 with handler := true } : Req).handler = true ∧ (wm 1).trap = none ∧
    (wm 1).parked.getLsbD 31 = false := by
  refine ⟨by decide, by decide, rfl, rfl, by decide, by decide, rfl, by decide, by decide, by decide, by decide, rfl, rfl, rfl, by decide⟩
def at5 : ReqKind := .atom (.reg 7) .add .i32 .acqRel .package
theorem witness_AtomicsPerform : let s := sq at5 acc0
    let addr := s.tensorAddr 65536 0
    s.reqs.find? (fun q => q.id == 5) = some (rq at5 acc0) ∧ (rq at5 acc0).lanes.find? (fun k => k.lane == 31) = some acc0 ∧
    s.block? 1 = some (bm (wm 1)) ∧ (bm (wm 1)).warp? 0 = some (wm 1) ∧ (∃ e, s.entryOf 65536 0 = some e ∧ e.moving = none ∧ e.tier ≠ 2) ∧
    s.blocked (rq at5 acc0) acc0 = false ∧ s.atomReady (rq at5 acc0) .acqRel .package = true ∧ s.isStamped addr 4 = false ∧
    s.mem.wf = true ∧ s.tags.find? (fun t => t.line == addr / 64) = none ∧ s.hotBytes (some (1, 0)) 5 = [] ∧
    (rq at5 acc0).undef = [] ∧ (rq at5 acc0).overr = [] ∧
    (({ rq at5 acc0 with overr := [(addr + 3, 7)] } : Req).overr.find? fun x => x.1 == addr + 3) = some (addr + 3, 7) ∧
    (let x : ScopeTag := { (default : ScopeTag) with line := addr / 64, scope := 1, block := 9 }
     let u := { s with tags := [x] }
     u.tags.find? (fun t => t.line == addr / 64) = some x ∧ u.tagWithin x (scopeOf (bm (wm 1)) (wm 1) .block) = false ∧
     (rq at5 acc0).handler = false ∧ (wm 1).trap = none ∧ (wm 1).parked.getLsbD acc0.lane = false) := by
  refine ⟨by decide, by decide, rfl, rfl, ⟨_, rfl, rfl, by decide⟩, by decide, by decide, by decide, by decide, by decide, by decide,
    rfl, rfl, by decide, by decide, by decide, rfl, rfl, by decide⟩
/-- A commit of one line, waiting and stamped. -/
def cm (st : Option Nat) : Commit :=
  { (default : Commit) with id := 5, block := 1, handle := 0x101, base := 65536, data := List.replicate 64 1, lines := 1, stamp := st }
def skStk : Stack := { Stack.reset with latest := 7, powered := true, floors := List.replicate 4 (9, 0) }
def sk (st : Option Nat) : State := { sm bc (bm (wm 1)) with commits := [cm st], stks := List.replicate 4 skStk }
theorem witness_CommitsOrder : (sk none).commits.find? (fun q => q.id == 5) = some (cm none) ∧ (sk none).block? 1 = some (bm (wm 1)) ∧
    (cm none).stamp = none ∧ (bm (wm 1)).status = .placed ∧ (sk none).moving (.tensor 65536 0) = false ∧
    (∀ l ∈ (sk none).commitLines (cm none), ((sk none).versions l).length < 4) ∧
    (sk none).warpTouches 1 0 5 65536 0 64 = false ∧ (sk none).loadsBefore 1 0 5 = false ∧ ((sk none).commitLines (cm none)).Nodup ∧
    (sk (some 8)).commits.find? (fun q => q.id == 5) = some (cm (some 8)) ∧ (sk (some 8)).allAbove 0 8 = true ∧
    (sk (some 8)).allAbove 0 10 = false ∧ (cm (some 8)).data.length = 64 * (cm (some 8)).lines ∧ (sk (some 8)).mem.wf = true ∧
    (∀ l ∈ (sk (some 8)).commitLines (cm (some 8)), ∀ v ∈ (sk (some 8)).versions l, v.visible = false → 8 ≤ v.stamp) := by
  refine ⟨by decide, rfl, rfl, rfl, by decide, by decide, by decide, by decide, by decide, by decide, by decide, by decide, by decide,
    by decide⟩
def ls5 (t : Nat) : ReqKind := .ldas (.reg 7) .b32 false 47 t 7
theorem witness_TimedLoads : let s := { sq (ls5 8) acc0 with stks := (sk none).stks }
    s.reqs.find? (fun q => q.id == 5) = some (rq (ls5 8) acc0) ∧ (rq (ls5 8) acc0).lanes.find? (fun k => k.lane == 31) = some acc0 ∧
    s.warp? 1 0 = some (wm 1) ∧ s.blocked (rq (ls5 8) acc0) acc0 = false ∧ s.moving acc0.loc = false ∧ (31 : Nat) < 32 ∧ 0 < 47 ∧
    47 < (wm 1).p.length ∧ 7 + 1000000 < 1000008 ∧ 8 ≤ 7 + 1000000 ∧ s.allAbove (s.homeStack 65536 0) 8 = true ∧
    s.allAbove (s.homeStack 65536 0) 10 = false ∧ (newestAt 8 (s.versions (s.tensorAddr 65536 0 / 64))).isSome = true ∧
    newestAt 8 [⟨9, true, []⟩] = none ∧ s.hotBytes (some (1, 0)) 5 = [] := by
  exact ⟨by decide, by decide, rfl, by decide +kernel⟩
def q5 (head tail : Nat) : StageQ := { (default : StageQ) with logCap := 1, head := head, tail := tail, frames := [3] }
def put5 : ReqKind := .qput 15 0 (List.replicate 64 9)
def get5 : ReqKind := .qget (.reg 7) 15 0
theorem witness_QueueSteps : let s := fun (k : ReqKind) (h t : Nat) =>
      { sq k { acc0 with lane := 15 } with tasks := [{ (default : Task) with queues := [q5 h t] }] }
    ((s put5 0 0).reqs.find? (fun r => r.id == 5)).map (·.kind) = some put5 ∧ (s put5 0 0).block? 1 = some (bm (wm 1)) ∧
    (bm (wm 1)).warp? 0 = some (wm 1) ∧ ((s put5 0 0).task? 0 0).map (fun t => t.queues[0]?) = some (some (q5 0 0)) ∧ 0 < 15 ∧
    15 < (wm 1).q.length ∧ (List.replicate 64 (9 : Byte)).length = 64 ∧ (s put5 0 0).mem.wf = true ∧
    (s put5 0 0).earlierDone (rq put5 acc0) = true ∧
    ({ s put5 0 0 with reqs := [older, rq put5 acc0] } : State).earlierDone (rq put5 acc0) = false ∧
    (s get5 0 1).getBefore 1 0 5 = false ∧
    ({ s get5 0 1 with reqs := [{ rq get5 acc0 with id := 4 }, rq get5 acc0] } : State).getBefore 1 0 5 = true ∧
    (q5 0 1).count < 2 ^ 1 ∧ 2 ^ 1 ≤ (q5 0 2).count ∧ 0 < (q5 (2 ^ 32 - 1) 0).count ∧ (q5 3 3).count = 0 := by
  exact ⟨by decide, rfl, rfl, by decide +kernel⟩
/-- A box of one element at the head of the tensor or the window, and an operation on them. -/
def bxOf (r : Record) : Box := { (default : Box) with rcd := r, c := [0, 0, 0, 0], e0 := 1, e1 := 1 }
def op5 (k : EngKind) (st : EngSt) : EngOp :=
  { (default : EngOp) with id := 5, block := 1, handle := 0x100, kind := k, st := st, dst := some (bxOf rW), srcA := some (bxOf rT) }
/-- A word that probes, in the dictionary of unit 0. -/
def img9 : Image :=
  { img with units := [{ unit := 0, dict := [{ word := (9 * 2 ^ 51 + 2 * 2 ^ 38) * 2 ^ 96, md := 0 }], code := [0], maxV := 0, tiles := 0 }] }
def bp (w : Warp) : Block := { bm w with rcd := { (default : LaunchRec) with tmem := 65536, dsize := 1 } }
def sp (b : Block) (p : Record) : State :=
  { sm bc b with images := [img9], lines := [(0, fetchKey b 0 0)], tasks := [{ (default : Task) with pool := [rW, rT, p] }], issue := none }
theorem witness_FillsAndProbes :
    (let o := { op5 (.lblk 7 0 1) .queued with dst := none }
     let s := { sm bc (bm (wm 1)) with ops := [o] }
     s.ops.find? (fun o => o.id == 5) = some o ∧ o.srcA = some (bxOf rT) ∧ s.block? o.block = some (bm (wm 1)) ∧ o.doneRd = false ∧
     s.warpTouches 1 0 5 65536 0 128 = false ∧ 1 ≤ 4096 ∧ s.hotBytes (some (1, 0)) 5 = [] ∧ o.overr = []) ∧
    (let w := wm 2
     let s := sp (bp w) { rA with kind := 3 }
     s.block? 1 = some (bp w) ∧ (bp w).warp? 0 = some w ∧ s.nextProbe (bp w) w = some (0, 0) ∧ (bp w).status = .placed ∧
     w.flights = [] ∧ w.pend = [] ∧ s.probeWaits (bp w) w 0 0 = true ∧ s.recordOf (bp w) w 0 = some { rA with kind := 3 }) ∧
    (let w := wm 2
     let s := sp (bp w) rA
     s.nextProbe (bp w) w = some (0, 0) ∧ s.probeWaits (bp w) w 0 0 = true ∧ s.recordOf (bp w) w 0 = some rA ∧ rA.kind ≠ 3 ∧
     ((s.probeMissing (s.probeFrames (bp w) w 0 0)).foldl (fun s f => s.bringIn f.1 f.2) s).probeMissing
       (s.probeFrames (bp w) w 0 0) = []) := by
  refine ⟨⟨by decide, rfl, rfl, rfl, by decide, by decide, by decide⟩,
    ⟨rfl, rfl, by decide, rfl, rfl, rfl, by decide, by decide⟩, by decide, by decide, by decide, by decide, by decide⟩

/-- Matrix states: a window of FP32 elements, wide enough for one tile. -/
def rF : Record := { rW with ext := [64, 64, 1, 1], format := 8 }
def sF (c : Issue) (b : Block) : State := { sm c b with tasks := [{ (default : Task) with pool := [rF, rT, rA] }] }
/-- A warp whose every stream names record k at its head; s1 holds the extents 1 × 1. -/
def wF (k : Nat) : Warp :=
  { bw with x := List.replicate 8 { (default : AStream) with rcd := k, c := [0, 0, 0, 0], i := [0, 0, 0, 0] },
            s := [0, 0x100000001] ++ List.replicate 62 0 }
def bF (w : Warp) : Block := { bm w with allocs := [⟨0, 0, [0, 1]⟩] }
theorem issuing_sF (w : Warp) (h : bc.warp = w.num) : Issuing (sF bc (bF w)) bc (bF w) w := by
  have := issuing_st bc (bF w) w [] rfl h rfl
  exact ⟨this.1, this.2.1, this.2.2⟩
/-- The plan of an operation of the small warp fits, and its frames are there. -/
def fits (k : Nat) (i : Instr) : Bool :=
  match (sF bc (bF (wF k))).planOf (bF (wF k)) (wF k) i with
  | .boxes l => (sF bc (bF (wF k))).absentFrame l == none && l != [] && l.head?.isSome
  | .refused _ _ _ _ => false
theorem witness_EngineSubmits : Issuing (sF bc (bF (wF 0))) bc (bF (wF 0)) (wF 0) ∧ qGuard (wF 0) g0 = true ∧
    fits 0 (.mmac g0 0 0 0 0 .f32 true 0 false 0 false) = true ∧ fits 0 (.mload g0 0 0 0 0 0 false) = true ∧
    fits 0 (.mstore g0 0 0 0 0 .fp32 .rn false 0 false) = true ∧ fits 1 (.cpy g0 0 0 false 0 false 1) = true ∧
    fits 0 (.cpym g0 0 0 false 0 false 1 1) = true ∧ fits 0 (.coll g0 0 0 false 0 false 1 0 false .sumF32) = true ∧
    fits 1 (.cpy g0 0 0 false 0 false 0) = true :=
  ⟨issuing_sF _ rfl, rfl, by decide, by decide, by decide, by decide, by decide, by decide, by decide⟩
theorem witness_EngineRefusals : let i := Instr.mload g0 0 0 0 0 0 false
    Issuing (sF bc (bF (wF 1))) bc (bF (wF 1)) (wF 1) ∧ engineGuard i = some g0 ∧
    (sF bc (bF (wF 1))).planOf (bF (wF 1)) (wF 1) i = .refused 0x27 1 0 0 ∧ bc.lanes ≠ 0 ∧ ({ bc with lanes := 0 } : Issue).lanes = 0 ∧
    bc.clear = false ∧ (wF 1).bank = none := ⟨issuing_sF _ rfl, rfl, by decide, by decide, rfl, rfl, rfl⟩
theorem witness_TilesCleared : Issuing (sF bc (bF (wF 0))) bc (bF (wF 0)) (wF 0) ∧ (bF (wF 0)).tiles 0 0 1 = [0, 1] :=
  ⟨issuing_sF _ rfl, by decide⟩
/-- A state with one engine operation, at cycle n of its cluster. -/
def so (o : EngOp) (n : Nat) : State :=
  { sF bc (bF (wF 0)) with ops := [o], clusters := List.replicate 16 { Cluster.reset with cycle := n } }
def mm5 (st : EngSt) : EngOp := { op5 (.mmac 0 0 0 .f32 false) st with last := 40, dst := none, srcA := some (bxOf rF), srcB := some (bxOf rF) }
/-- A byte of the source that another operation is to write, one that a store has hit, and a source with neither. -/
theorem witness_OperandBytes : let o := mm5 .queued
    (so o 0).boxDirty o (bxOf rF) = [] ∧
    (so { o with taint := [(so o 0).addrOf ((bxOf rF).loc ((bxOf rF).offsets.headD 0))] } 0).boxDirty
      { o with taint := [(so o 0).addrOf ((bxOf rF).loc ((bxOf rF).offsets.headD 0))] } (bxOf rF) ≠ [] ∧
    (let q := { op5 .cpy .queued with id := 6, dst := some (bxOf rF) }
     ({ so o 0 with ops := [o, q] } : State).boxDirty o (bxOf rF) = (bxOf rF).offsets ∧ (bxOf rF).offsets ≠ []) := by
  decide +kernel
theorem witness_MatrixMultiply : (so (mm5 .queued) 0).op? 5 = some (mm5 .queued) ∧ (so (mm5 .queued) 0).block? 1 = some (bF (wF 0)) ∧
    (so (mm5 .queued) 0).opCycle (mm5 .queued) + accCycles 0 0 .f32 + 24 < 40 ∧
    40 ≤ (so (mm5 .queued) 8).opCycle (mm5 .queued) + accCycles 0 0 .f32 + 24 ∧ (so (mm5 .queued) 8).opMoving (mm5 .queued) = false ∧
    (so (mm5 .queued) 8).mmacBefore (mm5 .queued) (fun q => q.st == .queued) = false ∧ (so (mm5 .queued) 8).loadsBefore 1 0 5 = false ∧
    ({ so (mm5 .queued) 8 with reqs := [{ rq ld5 acc0 with id := 4 }] } : State).loadsBefore 1 0 5 = true ∧
    (so (mm5 .started) 45).opCycle (mm5 .started) < 40 + 6 ∧ 40 + 6 ≤ (so (mm5 .started) 46).opCycle (mm5 .started) ∧
    (so (mm5 .started) 46).mmacBefore (mm5 .started) (fun _ => true) = false ∧ (mm5 .started).taint = [] ∧ (mm5 .started).overr = [] ∧
    (let o := { mm5 .started with taint := [(so (mm5 .started) 46).addrOf ((bxOf rF).loc ((bxOf rF).offsets.headD 0))] }
     (so o 46).op? 5 = some o ∧ 40 + 6 ≤ (so o 46).opCycle o ∧ (so o 46).boxDirty o (bxOf rF) ≠ []) ∧
    ((bF (wF 0)).tiles 0 0 0).Nodup ∧ ((bF (wF 0)).tiles 0 0 0).length = 0 + 1 ∧ (so (mm5 .started) 46).mem.wf = true := by
  refine ⟨by decide, rfl, by decide, by decide, by decide, by decide, by decide, by decide, by decide, by decide, by decide, rfl, rfl,
    by decide +kernel, by decide, by decide, by decide⟩
def ms5 : EngOp := { op5 (.mstore 0 0 0 .fp32 .rn false) .started with dst := some (bxOf rF) }
def ml5 : EngOp := { op5 (.mload 0 0 0) .started with srcA := some (bxOf rF), dst := none }
theorem witness_MatrixMoves : (so ms5 0).op? 5 = some ms5 ∧ (so ms5 0).block? 1 = some (bF (wF 0)) ∧ moveCycles 0 0 = 1 ∧
    (so ms5 4).opCycle ms5 < ms5.issue + 1 + 4 ∧ ms5.issue + 1 + 4 ≤ (so ms5 5).opCycle ms5 ∧
    (so ms5 12).opCycle ms5 < ms5.issue + 1 + 12 ∧ ms5.issue + 1 + 12 ≤ (so ms5 13).opCycle ms5 ∧
    (so ms5 13).boxWaits true ms5 (bxOf rF) = false ∧ ms5.taint = [] ∧ (so ml5 8).opCycle ml5 < ml5.issue + 1 + 8 ∧
    ml5.issue + 1 + 8 ≤ (so ml5 9).opCycle ml5 ∧ (so ml5 9).boxWaits false ml5 (bxOf rF) = false ∧ ml5.overr = [] := by
  refine ⟨by decide, rfl, by decide, by decide, by decide, by decide, by decide, by decide, rfl, by decide, by decide, by decide, rfl⟩
theorem witness_CopiesComplete : (so (op5 .cpy .queued) 0).op? 5 = some (op5 .cpy .queued) ∧ EngKind.cpy.isCopy = true ∧
    (so (op5 .cpy .queued) 0).opMoving (op5 .cpy .queued) = false ∧
    (∀ y ∈ [bxOf rW, bxOf rT], (so (op5 .cpy .queued) 0).boxWaits false (op5 .cpy .queued) y = false) ∧
    (∀ q ∈ (so (op5 .cpy .queued) 0).ops, ¬ q.id < 5) ∧
    (let e := { op5 .cpy .queued with id := 4 }
     e.id < 5 ∧ e.kind.isCopy = true ∧ e.st = .queued) ∧
    (so (op5 .cpy .started) 0).peerPending 5 = false ∧ (so (op5 .cpy .started) 0).boxWaits true (op5 .cpy .started) (bxOf rW) = false ∧
    (op5 .cpy .started).rivals (bxOf rW) = [bxOf rT] ∧ (∀ i j, (bxOf rW).loc i ≠ (bxOf rT).loc j) ∧
    bxOf rW ∈ (op5 .cpy .started).dests (so (op5 .cpy .started) 0) ∧ (so (op5 .cpy .started) 0).boxDirty (op5 .cpy .started) (bxOf rT) = [] ∧
    (let s := { so (op5 .cpy .started) 0 with reqs := [{ rq ld5 { acc0 with loc := (bxOf rW).loc ((bxOf rW).offsets.headD 0) } with id := 4 }] }
     s.boxWaits true (op5 .cpy .started) (bxOf rW) = true) ∧
    (let s := { so (op5 .cpy .queued) 0 with reqs := [{ rq .store { acc0 with loc := (bxOf rT).loc 0 } with id := 4, word := 9 }] }
     s.boxWaits false (op5 .cpy .queued) (bxOf rT) = true) ∧
    (bxOf rW).rcd.kind ≠ 3 ∧ (bxOf rT).rcd.kind ≠ 3 ∧ (bxOf rT).rcd.described = false ∧ fmtBits (bxOf rT).rcd.format ≠ 4 := by
  refine ⟨by decide, rfl, by decide, by decide, by decide, ⟨by decide, rfl, rfl⟩, by decide, by decide, by decide,
    (by intro i j h; simp [bxOf, Box.loc, rW, rT] at h), by decide, by decide +kernel, by decide, by decide, by decide, by decide, rfl,
    by decide⟩
/-- A block whose ring holds an unresolved handle 0x100 and a resolved one 0x101; the warp's handle registers hold them. -/
def slot5 (k : Nat) (r : Bool) : RingSlot := { (default : RingSlot) with slot := k, gen := 1, kind := 1, resolved := r }
def wH : Warp := { bw with h := [0x100, 0x101] ++ List.replicate 14 0 }
def bH (w : Warp) : Block := { bm w with ring := [slot5 0 false, slot5 1 true], gen := 1 }
def sH (w : Warp) : State := { sm bc (bH w) with ops := [op5 .cpy .queued] }
theorem witness_Futures : Issuing (sH wH) bc (bH wH) wH ∧ (bH wH).unresolved (wH.hread 0) = true ∧
    (bH wH).unresolved (wH.hread 1) = false ∧ 4096 ≠ 0 ∧ ({ wH with s := List.replicate 64 5 } : Warp).sread 63 ≠ 0 ∧
    (bH wH).ringOf (wH.hread 2) = none ∧ (bH wH).ringOf (wH.hread 0) = some (slot5 0 false) ∧
    (let v := { wH with trying := some ⟨1, 0x100, 0⟩ }
     (sH v).block? 1 = some (bH v) ∧ (bH v).warp? 0 = some v ∧ v.trying = some ⟨1, 0x100, 0⟩ ∧ 0 ≤ ((sH v).stack? 0).that ∧
     (bH v).unresolved 0x100 = true ∧ (bH v).pre = none ∧ ((sH v).stack? 0).that < 1) ∧ 0 < (bH wH).gen ∧
    (bH wH).gen < 2 ^ 24 ∧ (bH wH).ringNext < 256 := by
  refine ⟨⟨rfl, rfl, rfl⟩, by decide, by decide, by decide, by decide, by decide, by decide,
    ⟨rfl, rfl, rfl, by decide, by decide, rfl, by decide⟩, by decide, by decide, by decide⟩
theorem witness_Cancelling : Issuing (sH wH) bc (bH wH) wH ∧ qGuard wH g0 = true ∧ (bH wH).unresolved (wH.hread 1) = false ∧
    (bH wH).unresolved (wH.hread 0) = true ∧
    (sH wH).ops.find? (fun o => o.block == 1 && o.handle == (wH.hread 0).toNat) = some (op5 .cpy .queued) ∧
    (op5 .cpy .queued).mmacCycles = none ∧ (op5 .cpy .started).st ≠ .queued ∧ (mm5 .queued).mmacCycles = some 8 ∧
    (so (mm5 .queued) 7).opCycle (mm5 .queued) + 8 + 24 < 40 ∧ 40 ≤ (so (mm5 .queued) 8).opCycle (mm5 .queued) + 8 + 24 ∧
    (so (mm5 .queued) 8).loadsBefore 1 0 5 = false ∧
    (let s := { sH wH with ops := [], commits := [{ cm none with handle := 0x100 }] }
     (s.commits.find? (fun k => k.block == 1 && k.handle == (wH.hread 0).toNat)).isSome = true) := by
  refine ⟨⟨rfl, rfl, rfl⟩, rfl, by decide, by decide, by decide, by decide, by decide, by decide, by decide, by decide, by decide,
    by decide⟩


/-- A state whose pitch cycle has chosen warp `w`; its stream is `img`'s, in a dictionary of one entry. -/
def bt (w : Warp) : Block := { bb w with rcd := { (default : LaunchRec) with dsize := 1 } }
def tk (w : Warp) : State := { st bc (bt w) with issue := none, sel := some ⟨1, 0, 7⟩, images := [img] }
/-- A stream whose one word adds nothing in slot S and has no hole. -/
def imgP (word : Nat) (code : List Byte) : Image :=
  { img with units := [{ unit := 0, dict := [{ word := word, md := 0 }], code := code, maxV := 0, tiles := 0 }] }
/-- A loop level whose body is its token's first byte alone. -/
def lv : LoopLevel := { start := 0, len := 1, count := 2, index := 0 }
def six : List LoopLevel := List.replicate 6 { start := 0, len := 4, count := 2, index := 0 }
/-- A token stream of 8 bytes. -/
def tk8 (w : Warp) : State := { tk w with images := [imgP 0 (List.replicate 8 0)] }
theorem witness_TokensIssue : Chosen (tk bw) ⟨1, 0, 7⟩ (bt bw) bw ∧ 0 < ((tk bw).code (bt bw) bw).dsize ∧
    crosses bw.loops bw.pc (2 + (((tk bw).code (bt bw) bw).widths 0).sum) = false ∧
    (let w := { bw with overdraw := true }
     Chosen (tk w) ⟨1, 0, 7⟩ (bt w) w ∧ w.overdraw = true) ∧
    ((tk bw).firstTrap { taken (tk bw) ⟨1, 0, 7⟩ (bt bw) bw 0 [] 1 with slots := [], clear := false } (bt bw) bw = none ∧ bw.convergeDue = false) ∧
    (let w := { bw with masks := List.replicate 16 default }
     -- the word of slot P `mpush q0, p5`: a mask stack of 16 entries traps
     ({ tk w with images := [imgP (0x80000500 * 2 ^ 204 * 2 ^ 204) [0]] } : State).firstTrap
       { taken (tk w) ⟨1, 0, 7⟩ (bt w) w (0x80000500 * 2 ^ 204 * 2 ^ 204) [] 1 with slots := [], clear := false } (bt w) w = some .P) ∧
    (let w := { bw with parked := 1, active := 1 }
     Chosen (tk w) ⟨1, 0, 7⟩ (bt w) w ∧ w.overdraw = false ∧ w.convergeDue = true) ∧
    1 < ({ bw with idle := 2 } : Warp).idle ∧ ({ bw with idle := 1 } : Warp).idle = 1 ∧ bw.loops = [] ∧
    Chosen (tk8 bw) ⟨1, 0, 7⟩ (bt bw) bw ∧ (bt bw).holds bw = false ∧
    (let w := { bw with held := true }
     Chosen (tk8 w) ⟨1, 0, 7⟩ (bt w) w ∧ (bt w).holds w = true ∧ w.trap = none) ∧ bw.trap = none ∧ crosses bw.loops bw.pc 6 = false ∧
    bw.pc + 6 + 2 ≤ ((tk8 bw).code (bt bw) bw).bytes.length ∧ (∀ v, bw.loops.getLast? = some v → False) ∧
    (let w := { bw with loops := List.replicate 5 { lv with len := 8 } }
     Chosen (tk8 w) ⟨1, 0, 7⟩ (bt w) w ∧ w.loops.length < 6 ∧ crosses w.loops w.pc 6 = false ∧
     (∀ v, w.loops.getLast? = some v → w.pc + 6 + 2 ≤ v.start + v.len) ∧
     (∀ v, w.loops.getLast? = some v → w.pc + 6 + 1 ≠ v.start + v.len)) ∧
    (let w := { bw with loops := [{ lv with len := 6 }] }
     Chosen (tk8 w) ⟨1, 0, 7⟩ (bt w) w ∧ w.trap = none ∧ crosses w.loops w.pc 6 = false ∧ (endToken w.loops (w.pc + 6)).2.2 = true ∧
     w.pointFree = true) ∧
    (let w := { bw with s := List.replicate 64 1 }
     0 < (w.sread 63).toNat % 2 ^ 32) ∧ (bw.sread 63).toNat % 2 ^ 32 = 0 := by
  refine ⟨⟨rfl, rfl, rfl⟩, by decide, by decide, ⟨⟨rfl, rfl, rfl⟩, rfl⟩, ⟨by decide, by decide⟩, by decide +kernel,
    ⟨⟨rfl, rfl, rfl⟩, rfl, by decide⟩, by decide, rfl, rfl, ⟨rfl, rfl, rfl⟩, by decide, ⟨⟨rfl, rfl, rfl⟩, by decide, rfl⟩, rfl, by decide, by decide, (by intro v h; cases h),
    ⟨⟨rfl, rfl, rfl⟩, by decide, by decide, (by intro v h; cases h; decide), (by intro v h; cases h; decide)⟩,
    ⟨⟨rfl, rfl, rfl⟩, rfl, by decide, by decide, by decide⟩, by decide, by decide⟩
/-- A word whose one operation is `i`, its line and its group at hand; a handle register that waits for a reply, and a `qput` under way. -/
def stall5 (i : Instr) (w : Warp) : State :=
  { tk w with images := [imgP ((encodeC i).getD 0) [0]], lines := [(0, fetchKey (bt w) 0 0)], decoded := [(0, fetchKey (bt w) 0 0)],
              contexts := [ctx0] }
def wPend : Warp := { bw with pend := [{ reg := .h 3, req := 5, returned := none }] }
theorem witness_PendingStalls : (stall5 (.fwait g0 3) wPend).peek (bt wPend) wPend = .word (some 0) [] [] 0 1 ∧
    (∃ p ∈ wPend.pend, p.reg = .h 3 ∧ RName.h 3 ∈ (Instr.fwait g0 3).reads ++ (Instr.fwait g0 3).writes) ∧
    Instr.fwait g0 3 ∈ (wordOps (((stall5 (.fwait g0 3) wPend).code (bt wPend) wPend).issueOf (stall5 (.fwait g0 3) wPend) (bt wPend) wPend
      0 [] 0 1 7).word).map (·.2) ∧
    (let i := Instr.cpy g0 9 5 true 6 false 50
     (stall5 i bw).peek (bt bw) bw = .word (some 0) [] [] 0 1 ∧
     i ∈ (wordOps (((stall5 i bw).code (bt bw) bw).issueOf (stall5 i bw) (bt bw) bw 0 [] 0 1 7).word).map (·.2) ∧
     (∃ q ∈ [rq put5 acc0], q.block = (bt bw).bid ∧ q.warp = bw.num ∧ ∃ r k data, q.kind = .qput r k data) ∧ submits bw i = true) := by
  refine ⟨by decide +kernel, ⟨_, .head _, rfl, by decide⟩, by decide +kernel, by decide +kernel, by decide +kernel,
    ⟨_, .head _, rfl, rfl, _, _, _, rfl⟩, by decide⟩
/-- What the pending handle or the `qput` holds is ready without it. -/
theorem test_pending_stalls : (stall5 (.fwait g0 3) wPend).ready (bt wPend) wPend 7 = false ∧
    (stall5 (.fwait g0 3) bw).ready (bt bw) bw 7 = true ∧
    (let i := Instr.cpy g0 9 5 true 6 false 50
     ({ stall5 i bw with reqs := [rq put5 acc0] } : State).ready (bt bw) bw 7 = false ∧ (stall5 i bw).ready (bt bw) bw 7 = true) := by
  decide +kernel
theorem witness_StreamTraps : Chosen (tk bw) ⟨1, 0, 7⟩ (bt bw) bw ∧ (∀ l ∈ (tk bw).lantern, l.stop.bitAt 63 = false) ∧ ((tk bw).code (bt bw) bw).dsize ≤ 1 ∧
    0 < ((tk bw).code (bt bw) bw).dsize ∧ crosses bw.loops bw.pc 6 = false ∧
    ((tk bw).code (bt bw) bw).bytes.length < bw.pc + 4 + 1 ∧
    (let w := { bw with loops := [lv] }
     Chosen (tk8 w) ⟨1, 0, 7⟩ (bt w) w ∧ crosses w.loops w.pc 2 = true ∧ crosses w.loops w.pc 6 = true) ∧
    (let w := { bw with loops := [{ lv with len := 6 }] }
     Chosen (tk8 w) ⟨1, 0, 7⟩ (bt w) w ∧ crosses w.loops w.pc 6 = false ∧
     ∃ v, w.loops.getLast? = some v ∧ v.start + v.len < w.pc + 6 + 1) ∧
    (let w := { bw with loops := List.replicate 6 { lv with len := 8 } }
     Chosen (tk8 w) ⟨1, 0, 7⟩ (bt w) w ∧ crosses w.loops w.pc 6 = false ∧ w.pc + 6 + 2 ≤ ((tk8 w).code (bt w) w).bytes.length ∧
     (∀ v, w.loops.getLast? = some v → w.pc + 6 + 2 ≤ v.start + v.len) ∧ w.loops.length = 6) := by
  refine ⟨⟨rfl, rfl, rfl⟩, by decide, by decide, by decide, by decide, by decide, ⟨⟨rfl, rfl, rfl⟩, by decide, by decide⟩,
    ⟨⟨rfl, rfl, rfl⟩, by decide, ⟨_, rfl, by decide⟩⟩, ⟨⟨rfl, rfl, rfl⟩, by decide, by decide, (by intro v h; cases h; decide), rfl⟩⟩

/-- A warp that asks for a grant, alone in its die's queue, with the budget `n` units. -/
def pwW (l : Nat) : Warp := { bw with asking := some l }
def pwS (w : Warp) (n : Nat) : State :=
  { st bc (bb w) with stks := List.replicate 4 { Stack.reset with powered := true, queue := [(1, 0)] },
                      rainfly := { Rainfly.reset with budget := [n, n, n, n] } }
theorem witness_PowerGrants : Issuing (pwS bw 600) bc (bb bw) bw ∧ qGuard bw g0 = true ∧
    (pwS bw 165).pwNever (bb bw) { bw with s := List.replicate 64 15 } 15 = true ∧
    (pwS bw 166).pwNever (bb bw) { bw with s := List.replicate 64 15 } 15 = false ∧
    ((pwS (pwW 15) 200).stack? 0).queue = [(1, 0)] ∧ (pwS (pwW 15) 200).block? 1 = some (bb (pwW 15)) ∧
    (bb (pwW 15)).warp? 0 = some (pwW 15) ∧ (pwW 15).asking = some 15 ∧ (bb (pwW 15)).pre = none ∧
    (pwW 15).held = false ∧ (bb (pwW 15)).status = .placed ∧ bc.clear = false ∧
    ((List.range 4).map fun c => max ((pwS (pwW 15) 200).rainfly.base.getD c 0)
      ((pwS (pwW 15) 200).limitWith 0 c (if c = 0 then [15] else []))).sum = 200 ∧
    4 * 0 + (pwW 15).core / 8 < (pwS (pwW 15) 200).clusters.length ∧ (pwS (pwW 15) 199).rainfly.budget.getD 0 0 < 200 ∧
    (pwS (pwW 15) 200).grantsOn 0 0 ++ [15] ≠ [] := by
  refine ⟨⟨rfl, rfl, rfl⟩, rfl, by decide, by decide, by decide, rfl, rfl, rfl, rfl, rfl, rfl, rfl, by decide, by decide, by decide, by decide⟩

/-- An image that declares region 7 and a context that may read it, with `n` leaves spent. -/
def imgM : Image := { img with meters := [7] }
def rfM (n : Nat) : Rainfly :=
  { Rainfly.reset with leaf := n, grants := [{ ctx := 0, region := 7, number := 3, readers := [[]] }],
                       meters := [{ (default : Meter) with region := 7, value := 5 }] }
def bmt (w : Warp) : Block := { bb w with rcd := { (default : LaunchRec) with meters := 1 } }
def mt (w : Warp) (n : Nat) : State := { st bc (bmt w) with images := [imgM], rainfly := rfM n }
def mq : MeterReq := { id := 9, block := 1, warp := 0, region := 7, dv := 1, de := 2, dl := 3 }
def mka : MeterAsk := { id := 9, block := 1, warp := 0, region := 7, reg := 2, handle := 0x100 }
def ck (stamped : Bool) (w : CkptFor) : CkptReq :=
  { body := { cause := 0, region := 7, grant := 3, value := 5, stamp := 6, seq := 1 }, stamped := stamped, for_ := w }
def mr (n e : Nat) (q : CkptReq) : State :=
  { mt bw n with rainfly := { rfM n with reqs := [q], readers := [mq] },
                 stks := List.replicate 4 { Stack.reset with powered := true, earliest := e } }
theorem witness_MeterOperations : Issuing (mt bw 0) bc (bmt bw) bw ∧ qGuard bw g0 = true ∧
    (mt bw 0).readable (bmt bw) ((bw.sread 5).toNat % 32) = true ∧ (mt bw 0).readable (bmt bw) 1 = false ∧
    (mt bw (2 ^ 40 - 1)).leafLeft = true ∧ (mt bw (2 ^ 40)).leafLeft = false ∧
    (mr 0 0 (ck true .nobody)).rainfly.readers.find? (fun k => k.id == 9) = some mq ∧
    (mr 0 0 (ck true .nobody)).block? 1 = some (bmt bw) ∧ (bmt bw).warp? 0 = some bw ∧ bc.clear = false ∧
    (mr 0 0 (ck true .nobody)).queueBefore 1 0 9 = false ∧
    ({ mr 0 0 (ck true .nobody) with reqs := [rq put5 acc0] } : State).queueBefore 1 0 9 = true ∧
    ({ mr 0 0 (ck true .nobody) with reqs := [rq get5 acc0] } : State).queueBefore 1 0 9 = true ∧
    (let s := { mt bw 0 with rainfly := { rfM 0 with asks := [mka] } }
     s.rainfly.readers.find? (fun k => k.id == 9) = none ∧ s.rainfly.asks.find? (fun k => k.id == 9) = some mka ∧
     s.queueBefore 1 0 9 = false ∧ ({ s with reqs := [rq get5 acc0] } : State).queueBefore 1 0 9 = true) ∧
    (let k : CmdBlock := { (default : CmdBlock) with fn := 1, bytes := List.replicate 128 0 }
     let s := { mr 0 7 (ck true (.command 1)) with cmds := [k] }
     s.rainfly.reqs = [ck true (.command 1)] ∧ s.cmd? 1 = some k ∧ 32 ≤ k.bytes.length ∧ s.leafLeft = true ∧ s.diesAbove 6 = true ∧ 1 < 2 ^ 64) ∧
    (mr 0 6 (ck true .nobody)).rainfly.reqs = [ck true .nobody] ∧ (mr 0 6 (ck true .nobody)).diesAbove 6 = false ∧
    (mr 0 7 (ck true .nobody)).diesAbove 6 = true ∧ (ck false (.handle 1 0x100)).stamped = false ∧
    (mr 0 7 (ck true .nobody)).leafLeft = true ∧ (mr (2 ^ 40) 7 (ck true (.handle 1 0x100))).leafLeft = false := by
  refine ⟨⟨rfl, rfl, rfl⟩, rfl, by decide, by decide, by decide, by decide, by decide, rfl, rfl, rfl, by decide, by decide, by decide, by decide,
    ⟨rfl, rfl, by decide +kernel, by decide, by decide, by decide⟩, rfl, by decide, by decide, rfl, by decide, by decide⟩

/-- A host command block: code, context and further fields. -/
def cb (fn code c : Nat) (fs : List (Nat × Nat × Nat)) : CmdBlock :=
  let b := setBytes (setBytes (List.replicate 128 0) 0 (leBytes 2 code ++ [1])) 4 (leBytes 4 c)
  { (default : CmdBlock) with fn := fn, bytes := fs.foldl (fun b f => setBytes b f.1 (leBytes f.2.1 f.2.2)) b }
/-- Context 5 of function 1, on stacks 0 and 1; images 9 and 8 of it, 8 not valid; a tensor bound under 9. -/
def cx5 : Context := { ctx0 with num := 5, fn := 1, vdies := [0, 1], mapVer := 1, bivouac := 1, nextTask := 3 }
def lr5 : LaunchRec :=
  { (default : LaunchRec) with gen := 1, regs := 32, vdies := 1, dsize := 1, grid := [1, 1, 1], kernel := 2, meters := 1,
                               nstage := 1, stages := [(2, 0)] ++ List.replicate 7 (0, 0) }
def im5 : Image :=
  { img with ctx := 5, handle := 9, secver := 2, meters := [7], signer := [1], launches := [lr5, { lr5 with kernel := 3, vdies := 3 }],
             pool := [{ rT with base := 4 }] }
def tn5 : Tensor := { ten 65536 true with ctx := 5, image := 9, binding := 4 }
def hs (k : CmdBlock) (fuses : Nat) : State :=
  { State.reset with running := true, cmds := [k], contexts := [cx5], uid := 6, images := [im5, { im5 with handle := 8, valid := false }],
                     tensors := [tn5],
                     rainfly := { Rainfly.reset with fuses := fuses, grants := [{ ctx := 5, region := 7, number := 3, readers := [[1]] }] } }
/-- A context that ended by a fatal error. -/
def fatal5 : Context := { cx5 with fatal := some default }
theorem command_hs (k : CmdBlock) (n code : Nat) (h : k.running = false) (hc : k.num 0 2 = code) : Command (hs k n) k.fn code k := by
  refine ⟨rfl, ?_, h, hc⟩
  simp [State.cmd?, hs]

theorem witness_CommandsAnswered : (cb 1 1 5 []).bytes.length = 128 ∧ 16 + (leBytes 112 0).length ≤ 128 ∧
    Command (hs (cb 1 16 64 []) 0) 1 16 (cb 1 16 64 []) ∧ (hs (cb 1 16 64 []) 0).ctx? ((cb 1 16 64 []).num 4 4) = none ∧
    Command (hs (cb 0 1 5 []) 0) 0 1 (cb 0 1 5 []) ∧ (hs (cb 0 1 5 []) 0).ctx? ((cb 0 1 5 []).num 4 4) = some cx5 ∧ cx5.fn ≠ 0 ∧
    (let s := { hs (cb 1 17 5 []) 0 with contexts := [fatal5] }
     Command s 1 17 (cb 1 17 5 []) ∧ s.ctx? ((cb 1 17 5 []).num 4 4) = some fatal5 ∧ fatal5.fn = 1 ∧ s.fatalKept 5 = false ∧
     ({ s with contexts := [{ fatal5 with ckptDone := true }] } : State).fatalKept 5 = true) ∧
    Command (hs (cb 15 19 0 []) 0) 15 19 (cb 15 19 0 []) ∧ Command (hs (cb 0 0 0 []) 0) 0 0 (cb 0 0 0 []) ∧
    Command (hs (cb 0 20 0 []) 0) 0 20 (cb 0 20 0 []) ∧
    (Command (hs (cb 0 14 0 [(16, 1, 6)]) 0) 0 14 (cb 0 14 0 [(16, 1, 6)]) ∧ 5 < (cb 0 14 0 [(16, 1, 6)]).num 16 1) :=
  ⟨by decide +kernel, by decide +kernel, command_hs _ 0 16 rfl (by decide), by decide, command_hs _ 0 1 rfl (by decide), by decide, by decide,
    ⟨⟨rfl, by decide, rfl, by decide⟩, by decide, rfl, by decide, by decide⟩, command_hs _ 0 19 rfl (by decide), command_hs _ 0 0 rfl (by decide),
    command_hs _ 0 20 rfl (by decide), command_hs _ 0 14 rfl (by decide), by decide⟩

/-- `CTX_OPEN` of n virtual dies with a ring of 2^16. -/
def co (n : Nat) : CmdBlock := cb 1 2 0 [(16, 1, n), (20, 4, 1), (24, 8, 4096), (32, 4, 2 ^ 16)]
def full64 : List Context := (List.range 64).map fun n => { ctx0 with num := n }
theorem witness_ContextsOpenAndClose :
    (let k := co 4
     let s := hs k 0
     Command s 1 2 k ∧ k.clean [(16, 17), (20, 40)] = true ∧ k.num 16 1 = 4 ∧ 10 < 11 ∧ k.num 32 4 = 2 ^ (6 + 10) ∧
     s.freeCtx = some 0 ∧ 4 ≤ s.usable.length ∧
     ({ s with contexts := full64 } : State).freeCtx = none ∧
     ({ s with stks := List.replicate 4 { Stack.reset with fused := true } } : State).usable.length < 4) ∧
    (let x : Context := { cx5 with num := 0, vdies := [0, 1, 2, 3] }
     ({ hs (co 4) 0 with contexts := [cx5, x] } : State).hbmFits = true ∧
     ({ hs (co 4) 0 with contexts := [cx5, { x with bivouac := 2 ^ 32 - 1 }] } : State).hbmFits = false) ∧
    (let k := cb 1 15 5 []
     let s := hs k 0
     let t := { s with blocks := [{ bb bw with ctx := 5 }] }
     Command s.reap 1 15 k ∧ k.clean [] = true ∧ s.reap.ctx? (k.num 4 4) = some cx5 ∧ cx5.fn = 1 ∧ cx5.fatal = none ∧
     s.reap.blocks = [] ∧ s.reap.ctxBusy 5 = false ∧ (s.reap.rainfly.grants.filter fun g => g.ctx == 5) ≠ [] ∧ s.reap.leafLeft = true ∧
     (let u := { s with rainfly := Rainfly.reset }
      Command u.reap 1 15 k ∧ (u.reap.rainfly.grants.filter fun g => g.ctx == 5) = []) ∧ Command t.reap 1 15 k ∧ t.reap.ctx? (k.num 4 4) = some cx5 ∧
     (∃ b ∈ t.reap.blocks, b.ctx = cx5.num ∧ b.status = .placed) ∧
     (let v := { s with blocks := [{ bb bw with ctx := 5, status := .saved }], reqs := [rq .store acc0] }
      Command v.reap 1 15 k ∧ v.reap.ctx? (k.num 4 4) = some cx5 ∧ (∀ b ∈ v.reap.blocks, b.ctx = 5 → b.status ≠ .placed) ∧
      v.reap.ctxBusy 5 = true)) ∧
    (let k := cb 1 15 5 []
     let x := { fatal5 with ckptDone := true }
     let s := { hs k 0 with contexts := [x] }
     Command s.reap 1 15 k ∧ s.reap.ctx? (k.num 4 4) = some x ∧ x.fatal ≠ none ∧ s.reap.ctxBusy 5 = false ∧ s.reap.fatalKept 5 = true ∧
     (s.contexts.filter fun x => x.fn == 1 && x.fatal.isSome) = [x] ∧ s.ctxBusy 5 = false ∧ s.fatalKept 5 = true ∧
     (let y := { x with num := 6 }
      let s := { s with contexts := [x, cx5, y], reqs := [rq .store acc0], blocks := [{ bb bw with ctx := 6 }] }
      (s.contexts.filter fun x => x.fn == 1 && x.fatal.isSome) = [x, y] ∧ s.ctxBusy 5 = false ∧ s.fatalKept 5 = true ∧
      s.ctxBusy 6 = true) ∧
     (let s := { s with contexts := [fatal5] }
      (s.contexts.filter fun x => x.fn == 1 && x.fatal.isSome) = [fatal5] ∧ s.ctxBusy 5 = false ∧ s.fatalKept 5 = false)) ∧
    (let k := { cb 1 15 5 [] with running := true, wants := [4] }
     let r : CkptReq := { body := { cause := 2, region := 7, grant := 3, value := 5, stamp := 6, seq := 4 }, stamped := true, for_ := .nobody }
     let s := hs k 0
     let t := { s with rainfly := { Rainfly.reset with reqs := [r] } }
     s.reap.running = true ∧ s.reap.cmd? 1 = some k ∧ k.num 0 2 = 15 ∧ k.running = true ∧ s.reap.rainfly.reqs = [] ∧
     t.reap.running = true ∧ t.reap.cmd? 1 = some k ∧ r ∈ t.reap.rainfly.reqs ∧ r.body.seq ∈ k.wants) := by
  refine ⟨⟨command_hs _ 0 2 rfl (by decide), by decide, by decide, by decide, by decide, by decide, by decide, by decide, by decide⟩,
    ⟨by decide +kernel, by decide +kernel⟩,
    ⟨⟨by decide, by decide, rfl, by decide⟩, by decide, by decide, rfl, rfl, by decide, by decide, by decide, by decide,
      ⟨⟨by decide, by decide, rfl, by decide⟩, by decide⟩, ⟨by decide, by decide, rfl, by decide⟩, by decide,
      ⟨{ bb bw with ctx := 5 }, by decide, by decide⟩, ⟨⟨by decide, by decide, rfl, by decide⟩, by decide, by decide, by decide⟩⟩,
    ⟨⟨by decide, by decide, rfl, by decide⟩, by decide, by decide, by decide, by decide, by decide, by decide, by decide, by decide,
      by decide⟩, by decide⟩

/-- The bytes of a small image before its SIGN section, and an image that ends with the oid and the free signature. -/
def body0 : List Byte :=
  [([0x5A, 0x4C, 0x54, 0x4D] : List Byte), leBytes 2 1, leBytes 2 4, leBytes 8 516, leBytes 4 2, leBytes 12 0,
   leBytes 4 1, leBytes 4 128, leBytes 8 130, leBytes 4 2, leBytes 4 320, leBytes 8 1,
   leBytes 4 4, leBytes 4 384, leBytes 8 64, leBytes 4 8, leBytes 4 448, leBytes 8 68,
   leBytes 32 0, leBytes 64 1, leBytes 66 0, leBytes 62 0, [0], leBytes 63 0,
   leBytes 4 0x10001, leBytes 6 0, leBytes 4 1, leBytes 4 1, leBytes 2 1, leBytes 2 0, leBytes 2 1, leBytes 4 0, [0x10],
   leBytes 35 0].flatten
theorem test_body_length : body0.length = 448 := by decide +kernel
def image0 : List Byte := body0 ++ leBytes 4 Config.xmssOid ++ (List.range 64).map Config.freeByte
/-- Little-endian bytes read back. -/
theorem leNat_leBytes (n x : Nat) : leNat (leBytes n x) = x % 256 ^ n := by
  induction n generalizing x with
  | zero => simp [leBytes, leNat, Nat.mod_one]
  | succ n ih =>
    have h : x % 256 ^ (n + 1) = x % 256 + 256 * (x / 256 % 256 ^ n) := by rw [Nat.pow_succ', Nat.mod_mul]
    simp [leBytes, leNat, ih, h]
theorem oid_image0 : num image0 448 4 = Config.xmssOid := by
  have : cut image0 448 4 = leBytes 4 Config.xmssOid := rfl
  rw [num, this, leNat_leBytes]
  exact Nat.mod_eq_of_lt (Nat.mod_lt _ (by decide))
theorem parse_image0 : (match parseImage image0 with
    | .ok p => p.2 == ⟨8, 0, 448, 68⟩
    | .error _ => false) = true := by decide +kernel
/-- Bytes laid out in memory from an address on. -/
def cells : Nat → List Byte → Memory
  | _, [] => []
  | a, b :: bs => (a, b) :: cells (a + 1) bs
theorem readBytes_cells (a : Nat) (bs : List Byte) : (cells a bs).readBytes a bs.length = bs := by
  have skip : ∀ (n x : Nat) (c : Host.Cell) (r : Memory), c.1 < x → Memory.readBytes (c :: r) x n = Memory.readBytes r x n := by
    intro n
    induction n with
    | zero => intros; rfl
    | succ n ih =>
      intro x c r h
      simp only [Memory.readBytes, Memory.read, if_neg (by omega : ¬ x = c.1), ih (x + 1) c r (by omega)]
  induction bs generalizing a with
  | nil => rfl
  | cons b bs ih =>
    simp [cells, Memory.readBytes, Memory.read, skip bs.length (a + 1) (a, b) (cells (a + 1) bs) (by simp), ih]
/-- A command that names a blob at 0, and the state that holds the blob. -/
def il (n : Nat) : CmdBlock := cb 1 1 5 [(24, 8, n)]
def il0 : State :=
  { hs (il 516) 2 with
    mem := cells 0 image0
    rainfly := { Rainfly.reset with fuses := 2, verified := [{ ctx := 5, measure := Config.shake256 (image0.take 448), secver := 2,
                                                               signer := (Config.shake256 (cut image0 452 64)).take 16 }] } }
theorem load_il0 : ∃ im, loadImage (il0.mem.readBytes ((il 516).num 16 8) ((il 516).num 24 8)) 5 il0.uid il0.rainfly.fuses
    (fun m g => il0.rainfly.verified.any fun v => v.measure == m && v.signer == g) = .ok im := by
  have h0 : (il 516).num 16 8 = 0 := by decide +kernel
  have h1 : (il 516).num 24 8 = image0.length := by decide +kernel
  rw [h0, h1, show il0.mem = cells 0 image0 from rfl, readBytes_cells]
  have h := parse_image0
  unfold loadImage
  split at h
  · rename_i p hp
    rw [hp]
    obtain ⟨p, x⟩ := p
    have hx : x = ⟨8, 0, 448, 68⟩ := by simpa using h
    subst hx
    have h2 : num image0 16 4 = 2 := by decide +kernel
    simp [oid_image0, h2, il0]
  · cases h
theorem incontext_hs (k : CmdBlock) (n code : Nat) (used : List (Nat × Nat)) (h : k.running = false) (hc : k.num 0 2 = code)
    (hx : k.num 4 4 = 5) (hf : k.fn = 1) (hu : k.clean used = true) : InContext (hs k n) 1 code k cx5 used := by
  refine ⟨hf ▸ command_hs k n code h hc, ?_, rfl, rfl, hu⟩
  rw [hx]; rfl
/-- `TENSOR_MAP` of n bytes in tier G of virtual die 1; `IMG_UNLOAD`; `TENSOR_UNMAP`. -/
def tm (h n : Nat) : CmdBlock := cb 1 3 5 [(16, 4, h), (20, 2, 4), (24, 8, n), (33, 1, 1), (34, 1, 0x11)]
def iu (h : Nat) : CmdBlock := cb 1 16 5 [(16, 4, h)]
def tu (b : Nat) : CmdBlock := cb 1 17 5 [(16, 4, 9), (20, 2, b)]
/-- A task of image 9. -/
def tk9 (num : Nat) : Task := { (default : Task) with ctx := 5, num := num, image := 9, recs := [lr5] }
theorem witness_ImagesAndTensors :
    (InContext il0 1 1 (il 516) cx5 [(16, 36)] ∧
     (∃ im, loadImage (il0.mem.readBytes ((il 516).num 16 8) ((il 516).num 24 8)) 5 il0.uid il0.rainfly.fuses
       (fun m g => il0.rainfly.verified.any fun v => v.measure == m && v.signer == g) = .ok im) ∧
     ∃ e, loadImage ((hs (il 0) 0).mem.readBytes ((il 0).num 16 8) ((il 0).num 24 8)) 5 6 0 (fun _ _ => false) = .error e) ∧
    (InContext (hs (iu 9) 0) 1 16 (iu 9) cx5 [(16, 20)] ∧ (iu 9).num 16 4 = 9 ∧ (hs (iu 9) 0).goodImage 5 8 = none ∧
     (hs (iu 9) 0).goodImage 5 9 = some im5 ∧ (hs (iu 9) 0).imageUsed 5 9 = false ∧
     ({ hs (iu 9) 0 with tasks := [tk9 2] } : State).imageUsed 5 9 = true) ∧
    (let k := tm 9 65537
     let s := hs k 0
     InContext s 1 3 k cx5 [(16, 22), (24, 35), (40, 56)] ∧ k.num 16 4 = 9 ∧ k.num 32 1 ≤ 2 ∧ k.num 34 1 < 32 ∧
     ¬((k.num 34 1).bitAt 1 = true ∧ (k.num 34 1).bitAt 4 = true) ∧ k.num 33 1 < cx5.vdies.length ∧ s.goodImage 5 8 = none ∧
     s.goodImage 5 9 = some im5 ∧ (k.num 24 8 + 65535) / 65536 = 2 ∧ s.freeFrames 0 1 2 = some [0, 1] ∧
     ({ s with rainfly := { Rainfly.reset with carve := [0, 0, 0, 0] } } : State).freeFrames 0 1 2 = none) ∧
    (InContext (hs (tu 4) 0) 1 17 (tu 4) cx5 [(16, 22)] ∧ (hs (tu 4) 0).goodImage 5 8 = none ∧
     (hs (tu 4) 0).goodImage 5 9 = some im5 ∧ (hs (tu 4) 0).binding? 5 9 ((tu 4).num 20 2) = some tn5 ∧
     (hs (tu 65535) 0).binding? 5 9 ((tu 65535).num 20 2) = none) := by
  refine ⟨⟨⟨⟨rfl, by decide, rfl, by decide⟩, by decide, rfl, rfl, by decide⟩, load_il0, ⟨_, rfl⟩⟩,
    ⟨incontext_hs _ _ _ _ rfl (by decide) (by decide) rfl (by decide), by decide, by decide, by decide, by decide, by decide⟩,
    ⟨incontext_hs _ _ _ _ rfl (by decide) (by decide) rfl (by decide), by decide, by decide, by decide, by decide, by decide,
      by decide, by decide, by decide, by decide, by decide⟩,
    ⟨incontext_hs _ _ _ _ rfl (by decide) (by decide) rfl (by decide), by decide, by decide, by decide, by decide⟩⟩

/-- `LAUNCH` of a kernel with n entries for its stage queue; `TASK_LINK`; `PREEMPT` and `RESUME` of every task. -/
def la (kernel n : Nat) : CmdBlock := cb 1 5 5 [(16, 4, 9), (20, 1, kernel), (21, 1, 15), (22, 1, 1), (32, 4, n)]
def tl (early late : Nat) : CmdBlock := cb 1 6 5 [(16, 8, early), (24, 8, late), (32, 1, 1)]
def pr (code : Nat) : CmdBlock := cb 1 code 5 [(16, 8, 2 ^ 64 - 1)]
def bk5 : Block := { bb bw with ctx := 5, task := 2, stage := 0 }
theorem witness_LaunchAndPreempt :
    (let k := la 2 1
     let s := hs k 2
     InContext s 1 5 k cx5 [(16, 23), (24, 36), (40, 48)] ∧ k.num 16 4 = 9 ∧ k.num 21 1 < 16 ∧ k.num 22 1 < 2 ∧
     s.goodImage 5 8 = none ∧ s.goodImage 5 9 = some im5 ∧ s.rainfly.fuses ≤ im5.secver ∧
     (s.tasks.filter fun t => t.ctx == 5 && t.queue == 15 && !t.completed).length < 1024 ∧
     variants im5 cx5.vdies.length (k.num 20 1) = .ok [lr5] ∧ variants im5 2 9 = .error 5 ∧ variants im5 2 3 = .error 6 ∧
     (∀ r ∈ [lr5], s.launchSpace 5 9 r ≤ cx5.bivouac * 2 ^ 20) ∧ s.itemsOk 5 9 im5.data = true ∧
     (∀ r ∈ [lr5], s.granted 5 im5 r = true) ∧ (s.patch 5 9 im5.pool).isSome = true ∧
     (((lr5.stages.take lr5.nstage).map (·.2)).head?).map (2 ^ ·) = some (k.num 32 4) ∧
     (s.makeQueues (cx5.vdies.headD 0) ((lr5.stages.take lr5.nstage).map (·.2))).isSome = true) ∧
    1024 ≤ ((List.replicate 1024 { tk9 2 with queue := 15 }).filter fun t => t.ctx == 5 && t.queue == 15 && !t.completed).length ∧
    (let s := { hs (tl 1 2) 0 with tasks := [tk9 1, tk9 2] }
     InContext s 1 6 (tl 1 2) cx5 [(16, 33)] ∧ (tl 1 2).num 32 1 < 2 ∧ s.task? 5 ((tl 1 2).num 24 8) = some (tk9 2) ∧
     (tk9 2).completed = false ∧ (tk9 2).dispatched = false ∧ s.task? 5 ((tl 1 2).num 16 8) = some (tk9 1) ∧
     (tl 0 2).num 16 8 = 0) ∧
    (let s := { hs (pr 7) 0 with tasks := [tk9 2], blocks := [bk5] }
     InContext s.reap 1 7 (pr 7) cx5 [(16, 24)] ∧ s.reap.named 5 ((pr 7).num 16 8) = some [tk9 2] ∧ tk9 2 ∈ s.reap.tasks ∧
     bk5 ∈ s.reap.blocks ∧ bk5.status = .placed ∧ (∃ z ∈ [tk9 2], z.num = bk5.task)) ∧
    (let s := { hs (pr 7) 0 with tasks := [tk9 2] }
     InContext s.reap 1 7 (pr 7) cx5 [(16, 24)] ∧ s.reap.named 5 ((pr 7).num 16 8) = some [tk9 2] ∧ s.reap.blocks = []) ∧
    (let s := { hs (pr 8) 0 with tasks := [tk9 2] }
     InContext s 1 8 (pr 8) cx5 [(16, 24)] ∧ s.named 5 ((pr 8).num 16 8) = some [tk9 2]) := by
  refine ⟨⟨incontext_hs _ _ _ _ rfl (by decide) (by decide) rfl (by decide), by decide, by decide, by decide, by decide, by decide,
      by decide, by decide, by rfl, by rfl, by rfl, by decide, by decide, by decide, by decide, by decide, by decide⟩,
    by decide +kernel,
    ⟨⟨⟨rfl, by decide, rfl, by decide⟩, by decide, rfl, rfl, by decide⟩, by decide, by decide, rfl, rfl, by decide, by decide⟩,
    ⟨⟨⟨by decide, by decide, rfl, by decide⟩, by decide, rfl, rfl, by decide⟩, by decide, by decide, by decide, rfl,
      ⟨tk9 2, by decide, rfl⟩⟩,
    ⟨⟨⟨by decide, by decide, rfl, by decide⟩, by decide, rfl, rfl, by decide⟩, by decide, by decide⟩,
    ⟨⟨⟨rfl, by decide, rfl, by decide⟩, by decide, rfl, rfl, by decide⟩, by decide⟩⟩
/-- A `PREEMPT` under way whose block is saved, or stands; that block with every warp at rest. -/
theorem witness_PreemptCompletes :
    (let k := { pr 7 with running := true, wants := [1] }
     let s := fun (b : Block) => { hs k 0 with blocks := [b] }
     1 < 16 ∧ (s bk5).cmd? 1 = some k ∧ k.num 0 2 = 7 ∧ (s bk5).ctx? (k.num 4 4) = some cx5 ∧ cx5.fatal = none ∧
     (∀ n, n ≠ 1 → (s bk5).cmd? n = none) ∧
     (∃ n ∈ k.wants, ∃ b, (s bk5).block? n = some b ∧ b.status = .placed) ∧
     (let b := { bk5 with status := .saved }
      (s b).cmd? 1 = some k ∧ (s b).ctx? (k.num 4 4) = some cx5 ∧ (s b).block? 1 = some b ∧ b.status ≠ .placed)) ∧
    (let b := { bk5 with pre := some { by_ := .command 1, since := 0 }, warps := [{ bw with held := true }] }
     let s := { hs (pr 7) 0 with blocks := [b] }
     s.reap.block? 1 = some b ∧ b.status = .placed ∧ b.draining = false ∧ s.reap.dead b.ctx = false ∧
     (∀ w ∈ b.warps, s.reap.still b w = true) ∧ (∀ w ∈ b.warps, w.atSync = false) ∧ s.reap.drained b = true) := by
  refine ⟨⟨by decide, by decide, by decide, by decide, rfl, ?_, ⟨1, by decide, bk5, by decide, by decide⟩, by decide⟩, by decide⟩
  intro n h
  have h' : ¬ 1 = n := fun e => h e.symm
  simp [State.cmd?, hs, pr, cb, h']
/-- Commands that bind: `VDIE_BIND`, `TIME_REF`, `PEER_MAP`, `GROUND_SET`; and `GRANT` with a blob of 2,736 bytes at 0. -/
def vb (v dest : Nat) : CmdBlock := cb 1 9 5 [(16, 1, v), (17, 1, dest)]
def trf : CmdBlock := cb 0 10 0 [(16, 1, 1), (20, 4, 50), (24, 4, 16)]
def pm (flags : Nat) : CmdBlock := cb 0 18 0 [(16, 2, 65535), (18, 2, 3), (20, 1, flags), (24, 16, 9)]
def gs : CmdBlock := cb 0 19 0 [(16, 2, 0xFFFF), (18, 2, 256), (20, 2, 0), (22, 2, 16)]
def gr : CmdBlock := cb 1 4 5 [(24, 4, 245)]
/-- The body of a grant under a key, before the signature of one free byte. -/
def blob (h : List Byte) (key : List Byte) : List Byte := h ++ leBytes 4 Config.xmssOid ++ key ++ [Config.freeByte 0]
/-- A counter advance to 64, and a meter grant of region 9 to one reader. -/
def blob2 : List Byte := blob ([2, 0, 0, 0] ++ leBytes 4 64 ++ leBytes 168 0) Config.vendorKey
def blob1 : List Byte :=
  blob ([1, 0, 0, 0] ++ leBytes 4 9 ++ leBytes 8 3 ++ leBytes 16 deviceId ++ [1] ++ leBytes 15 0 ++ leBytes 16 5 ++ leBytes 112 0)
    (List.replicate 64 7)
def gs_ (b : List Byte) : State := { hs gr 0 with mem := cells 0 b }
theorem blob_read (b : List Byte) (h : b.length = 245) : (gs_ b).grantBlob gr = b := by
  have h0 : gr.num 16 8 = 0 := by decide +kernel
  have h1 : gr.num 24 4 = b.length := by rw [h]; decide +kernel
  simp only [State.grantBlob, h0, h1]
  exact readBytes_cells 0 b
theorem device_small : deviceId < 256 ^ 16 := by
  have : ∀ l : List Byte, leNat l < 256 ^ l.length := by
    intro l
    induction l with
    | nil => decide
    | cons b l ih => have := b.isLt; simp only [leNat, List.length_cons, Nat.pow_succ]; omega
  have h : ((Config.shake256 Config.identityKey).take 16).length = 16 := rfl
  exact h ▸ this ((Config.shake256 Config.identityKey).take 16)
theorem oid_blob1 : num blob1 176 4 = Config.xmssOid := by
  have : cut blob1 176 4 = leBytes 4 Config.xmssOid := rfl
  rw [num, this, leNat_leBytes]
  exact Nat.mod_eq_of_lt (Nat.mod_lt _ (by decide))
theorem oid_blob2 : num blob2 176 4 = Config.xmssOid := by
  have : cut blob2 176 4 = leBytes 4 Config.xmssOid := rfl
  rw [num, this, leNat_leBytes]
  exact Nat.mod_eq_of_lt (Nat.mod_lt _ (by decide))
theorem device_blob1 : num blob1 16 16 = deviceId := by
  have : cut blob1 16 16 = leBytes 16 deviceId := rfl
  rw [num, this, leNat_leBytes]
  exact Nat.mod_eq_of_lt device_small
/-- A tensor of one frame of tier G on stack 1. -/
def full3 : Tensor := { tn5 with entries := [{ (default : TileEntry) with resident := true, tier := 0, die := 1 }] }
/-- The last clause stands on what the manual does not define: that a signature verifies. -/
theorem witness_BindingCommands :
    (let s := hs (vb 1 3) 0
     InContext s.reap 1 9 (vb 1 3) cx5 [(16, 18), (20, 24)] ∧ (vb 1 3).num 16 1 = 1 ∧ (vb 1 3).num 17 1 = 3 ∧
     s.reap.allSuspended 5 = true ∧ 1 < cx5.vdies.length ∧ 3 ∈ s.reap.usable ∧
     (let u := s.reap.modCtx 5 fun y => y.rebind (swapDies cx5.vdies 1 1) [1]
      (u.placeCopies 5 [1]).hbmFits = true ∧
      (({ u with contexts := [{ cx5 with bivouac := 2 ^ 32 - 1 }] } : State).placeCopies 5 [1]).hbmFits = false) ∧
     cx5.vdies.getD 1 0 ≠ 3 ∧ cx5.vdies.getD 1 0 = 1 ∧
     cx5.vdies.length ≤ 2 ∧ 4 ∉ s.reap.usable ∧ cx5.vdies.Nodup) ∧
    (let s := { hs (vb 1 3) 0 with tasks := [{ tk9 2 with dispatched := true }] }
     InContext s.reap 1 9 (vb 1 3) cx5 [(16, 18), (20, 24)] ∧ s.reap.allSuspended 5 = false) ∧
    (let s := { hs (vb 1 0) 0 with tensors := [] }
     let up := ((s.reap.modCtx 5 fun y => y.rebind (swapDies cx5.vdies 1 0) [0, 1]).placeCopies 5 [0, 1]).liftFrames 5 (cx5.vdies.getD 1 0) 0 (cx5.vdies.contains 0)
     InContext s.reap 1 9 (vb 1 0) cx5 [(16, 18), (20, 24)] ∧
     let home := (swapDies cx5.vdies 1 0).headD 0
     let qs := if cx5.vdies.headD 0 = home then ([], up.2) else up.2.liftQueues 5 (cx5.vdies.headD 0)
     ∃ u, (setFrames up.1 qs.2).bind (setQueues 5 home qs.1) = some u ∧ u.hbmFits = true) ∧
    (let s := { hs (vb 1 3) 0 with tensors := [full3], rainfly := { Rainfly.reset with carve := [0, 0, 0, 0] } }
     let up := ((s.reap.modCtx 5 fun y => y.rebind (swapDies cx5.vdies 1 3) [3]).placeCopies 5 [3]).liftFrames 5 (cx5.vdies.getD 1 0) 3 (cx5.vdies.contains 3)
     InContext s.reap 1 9 (vb 1 3) cx5 [(16, 18), (20, 24)] ∧ s.reap.allSuspended 5 = true ∧ 3 ∈ s.reap.usable ∧
     (let home := (swapDies cx5.vdies 1 3).headD 0
      let qs := if cx5.vdies.headD 0 = home then ([], up.2) else up.2.liftQueues 5 (cx5.vdies.headD 0)
      (setFrames up.1 qs.2).bind (setQueues 5 home qs.1) = none)) ∧
    (Command (hs trf 0) 0 10 trf ∧ trf.clean [(16, 17), (20, 28)] = true ∧ trf.num 16 1 < 2 ∧ 16 ≤ trf.num 24 4 ∧
     trf.num 24 4 ≤ 1000000) ∧
    (Command (hs (pm 3) 0) 0 18 (pm 3) ∧ (pm 3).clean [(16, 21), (24, 40)] = true ∧ (pm 3).num 20 1 < 4 ∧
     ((pm 3).num 20 1).bitAt 1 = true ∧ ((pm 1).num 20 1).bitAt 1 = false) ∧
    (Command (hs gs 0) 0 19 gs ∧ gs.clean [(16, 24)] = true ∧
     (∀ i, i < 4 → gs.num (16 + 2 * i) 2 = 0xFFFF ∨ (gs.num (16 + 2 * i) 2 % 16 = 0 ∧ gs.num (16 + 2 * i) 2 ≤ 256)) ∧
     (hs gs 0).contexts ≠ [] ∧ ({ hs gs 0 with contexts := [] } : State).contexts = []) ∧
    (InContext (gs_ blob2) 1 4 gr cx5 [(16, 28)] ∧ (gs_ blob2).grantBlob gr = blob2 ∧ 244 ≤ blob2.length ∧ num blob2 0 1 = 2 ∧
     (∀ j, 1 ≤ j → j < 4 → blob2.getD j 0 = 0) ∧ (∀ j, 8 ≤ j → j < 176 → blob2.getD j 0 = 0) ∧
     cut blob2 180 64 = Config.vendorKey ∧ num blob2 4 4 = 64 ∧
     (Config.xmssVerify (cut blob2 180 64) (blob2.take 244) (blob2.drop 244) = true → blobSigned blob2 = true)) := by
  refine ⟨⟨⟨⟨by decide, by decide, rfl, by decide⟩, by decide, rfl, rfl, by decide⟩, by decide, by decide, by decide, by decide,
      by decide, by decide, by decide, by decide, by decide, by decide⟩,
    ⟨⟨⟨by decide, by decide, rfl, by decide⟩, by decide, rfl, rfl, by decide⟩, by decide⟩,
    ⟨⟨⟨by decide, by decide, rfl, by decide⟩, by decide, rfl, rfl, by decide⟩, ⟨_, rfl, by decide⟩⟩,
    ⟨⟨⟨by decide, by decide, rfl, by decide⟩, by decide, rfl, rfl, by decide⟩, by decide, by decide, by decide⟩,
    ⟨command_hs _ 0 10 rfl (by decide), by decide, by decide, by decide, by decide⟩,
    ⟨command_hs _ 0 18 rfl (by decide), by decide, by decide, by decide, by decide⟩,
    ⟨command_hs _ 0 19 rfl (by decide), by decide, by decide, by decide, rfl⟩,
    ⟨⟨⟨rfl, by decide, rfl, by decide⟩, by decide, rfl, rfl, by decide⟩, blob_read _ (by decide +kernel), by decide +kernel, by decide +kernel,
      ?_, ?_, rfl, by decide +kernel, fun h => by simp [blobSigned, oid_blob2, h]⟩⟩
  · intro j h1 h2; interval_cases j <;> rfl
  · intro j h1 h2; interval_cases j <;> rfl

/-- Rainfly's commands. -/
def mrd (region n : Nat) : CmdBlock := cb 1 11 5 [(16, 4, region), (24, 8, 1), (32, 8, 4096), (40, 4, n)]
def mck (region : Nat) : CmdBlock := cb 1 12 5 [(16, 4, region)]
def att (who n : Nat) : CmdBlock := cb 1 13 5 [(48, 8, 4096), (56, 1, who), (64, 8, n)]
theorem witness_RainflyCommands :
    (InContext (gs_ blob1) 1 4 gr cx5 [(16, 28)] ∧ (gs_ blob1).grantBlob gr = blob1 ∧ 244 ≤ blob1.length ∧ num blob1 0 1 ≠ 2 ∧
     num blob1 4 4 = 9 ∧ meterBlobOk (blob1.take 16) = false ∧
     (Config.xmssVerify (cut blob1 180 64) (blob1.take 244) (blob1.drop 244) = true → meterBlobOk blob1 = true) ∧
     (gs_ blob1).rainfly.meters.find? (fun m => m.region == 9) = none ∧ (gs_ blob1).rainfly.meters.length < 4096 ∧
     (let m : Meter := { (default : Meter) with region := 9, key := List.replicate 64 7 }
      [m].find? (fun m => m.region == 9) = some m ∧ m.key = cut blob1 180 64 ∧ ({ m with key := [] } : Meter).key ≠ cut blob1 180 64) ∧
     4096 ≤ (List.replicate 4096 (default : Meter)).length) ∧
    (let r : Ckpt := { cause := 0, region := 7, grant := 3, value := 5, stamp := 6, seq := 1 }
     let s := { hs (mrd 7 1) 0 with rainfly := { Rainfly.reset with ring := [r, { r with seq := 2 }] } }
     InContext s 1 11 (mrd 7 1) cx5 [(16, 20), (24, 48)] ∧ s.mem.wf = true ∧
     ((s.rainfly.wanted ((mrd 7 1).num 16 4) ((mrd 7 1).num 24 8)).take ((mrd 7 1).num 40 4))[0]? = some r ∧ r.cause ≠ 5 ∧
     (let r := { r with cause := 5 }
      let s := { s with rainfly := { Rainfly.reset with ring := [r] }, stks := List.replicate 4 { Stack.reset with earliest := 6 } }
      r ∈ (s.rainfly.wanted ((mrd 7 1).num 16 4) ((mrd 7 1).num 24 8)).take ((mrd 7 1).num 40 4) ∧ r.cause = 5 ∧ r.stamp ≠ 0 ∧
      s.diesAbove r.stamp = false ∧
      ({ s with stks := List.replicate 4 { Stack.reset with earliest := 7 } } : State).diesAbove r.stamp = true)) ∧
    (InContext (hs (mck 7) 0) 1 12 (mck 7) cx5 [(16, 20), (24, 32)] ∧ (∃ g ∈ (hs (mck 7) 0).rainfly.grants, g.ctx = 5 ∧ g.region = 7) ∧
     (∀ g ∈ (hs (mck 8) 0).rainfly.grants, g.ctx = 5 → g.region ≠ (mck 8).num 16 4) ∧ (hs (mck 7) 0).leafLeft = true ∧
     ({ hs (mck 7) 0 with rainfly := { Rainfly.reset with leaf := 2 ^ 40 } } : State).leafLeft = false) ∧
    (Command (hs (att 255 10045) 0) 1 13 (att 255 10045) ∧ (att 255 10045).clean [(16, 57), (60, 72)] = true ∧
     (att 255 10045).num 56 1 = 0xFF ∧ (hs (att 255 10045) 0).statementLen none ≤ (att 255 10045).num 64 8 ∧
     (att 255 10044).num 64 8 < (hs (att 255 10044) 0).statementLen none ∧ (att 5 0).num 56 1 < 64 ∧
     (hs (att 5 0) 0).ctx? ((att 5 0).num 56 1) = some cx5 ∧ cx5.fn = 1 ∧ cx5.fatal = none) := by
  refine ⟨⟨⟨⟨rfl, by decide, rfl, by decide⟩, by decide, rfl, rfl, by decide⟩, blob_read _ (by decide +kernel), by decide +kernel, by decide +kernel,
      by decide +kernel, ?_, ?_, by decide, by decide, ⟨by decide, rfl, ?_⟩, ?_⟩,
    ⟨⟨⟨rfl, by decide, rfl, by decide⟩, by decide, rfl, rfl, by decide⟩, by decide, by decide, by decide, by decide⟩,
    ⟨incontext_hs _ _ _ _ rfl (by decide) (by decide) rfl (by decide), by decide, by decide, by decide, by decide⟩,
    ⟨command_hs _ 0 13 rfl (by decide), by decide, by decide, by decide +kernel, by decide +kernel, by decide, by decide, rfl, rfl⟩⟩
  · have h : zeros (blob1.take 16) 33 15 = false := by decide +kernel
    unfold meterBlobOk
    rw [h]
    simp only [Bool.and_false, Bool.false_and]
  · intro h
    have h0 : num blob1 0 1 = 1 := by decide +kernel
    have h1 : zeros blob1 1 3 = true := by decide +kernel
    have h2 : num blob1 32 1 = 1 := by decide +kernel
    have h3 : zeros blob1 33 15 = true := by decide +kernel
    have h4 : zeros blob1 64 112 = true := by decide +kernel
    simp [meterBlobOk, h0, h1, h2, h3, h4, device_blob1, blobSigned, oid_blob1, h]
  · intro h
    have : cut blob1 180 64 = List.replicate 64 7 := rfl
    rw [this] at h; cases h
  · exact Nat.le_of_eq List.length_replicate.symm

/-- A query of a kind. -/
def qk (n : Nat) : CmdBlock := cb 1 14 5 [(16, 1, n), (24, 8, 4096)]
theorem witness_Queries : Command (hs (qk 5) 0) 1 14 (qk 5) ∧ (qk 5).num 16 1 = 5 ∧ (qk 5).clean [(16, 17), (24, 32)] = true ∧
    (hs (qk 5) 0).mem.wf = true ∧ (qk 0).num 16 1 = 0 ∧ (qk 4).num 16 1 = 4 ∧ (hs (qk 4) 0).ctx? ((qk 4).num 4 4) = some cx5 ∧ cx5.fn = 1 ∧
    cx5.fatal = none :=
  ⟨command_hs _ 0 14 rfl (by decide), by decide, by decide, by decide, by decide, by decide, by decide, rfl, rfl⟩

/-- A page of function 1 that observes context 5; a warp whose stop is in force. -/
def pg : Lantern := { Lantern.reset with en := true, ctx := 5, period := 64, buf := 8192, size := 4096, widx := 4090, stopped := [(1, 0)] }
def ls : State :=
  { hs (cb 1 1 5 []) 0 with lantern := [Lantern.reset, pg], blocks := [{ bb { bw with slot := 3 } with ctx := 5 }] }
theorem witness_LanternPage : ls.lantern[1]? = some pg ∧ ls.owns 1 pg.ctx = true ∧ (1 : Nat) % 2 = 1 ∧
    ls.warp? 1 0 = some { bw with slot := 3 } ∧ (3 : Nat) < 4 ∧ (15 : Nat) < 16 ∧ 2 ^ 32 % 2 ^ 32 = 0 ∧ (2 ^ 32 - 1) % 2 ^ 32 ≠ 0 ∧
    ls.lantern[0]? = some Lantern.reset ∧ ls.owns 0 Lantern.reset.ctx = false ∧ ls.owns 1 (5 % 64) = true ∧ ls.owns 1 (69 % 64) = true ∧
    ls.owns 1 (63 % 64) = false ∧ (0x20 : Nat) ∉ [0, 8, 0x10, 0x18, 0x28, 0x30] ∧ ¬(0x40 ≤ 0x20 ∧ 0x20 < 0x80 ∧ 0x20 % 16 = 0) ∧
    ¬(0x100 ≤ 0x20 ∧ 0x20 < 0x200 ∧ 0x20 % 4 = 0) :=
  ⟨rfl, by decide, by decide, rfl, by decide, by decide, by decide, by decide, rfl, by decide, by decide, by decide, by decide,
    by decide, by decide, by decide⟩
theorem witness_LanternSamples :
    let mine := (ls.residents 0 0 0).filter fun p => p.1.ctx == pg.ctx && !p.2.gone
    ls.lantern[1]? = some pg ∧ pg.en = true ∧ 64 ≤ pg.period ∧ pg.period ≤ 1048576 ∧ pg.ringOk = true ∧ ls.mem.wf = true ∧
    (rotation none mine).map (·.2.slot) = some 3 ∧ (rotation (some 3) mine).map (·.2.slot) = some 3 ∧
    (∃ q ∈ mine, 2 < q.2.slot) ∧ ({ pg with period := 63 } : Lantern).period < 64 ∧ (ls.residents 0 0 1) = [] ∧
    (State.reset.lantern[1]?).map (·.en) = some false := by
  refine ⟨rfl, rfl, by decide, by decide, by decide, by decide, by decide, by decide, by decide, by decide, by decide, by decide⟩
/-- A page whose stop is armed for slot 3 of pitch 0 of core 0 at every boundary, or at offset 9 alone, or for the issuer of a request. -/
def pst (stop : Nat) (who : Option (Nat × Nat)) : Lantern := { pg with stop := 2 ^ 63 + stop, issuer := who, stopped := [] }
def stS (l : Lantern) (w : Warp) : State := { ls with lantern := [Lantern.reset, l], blocks := [{ bb w with ctx := 5 }] }
theorem witness_PreciseStops :
    let w := { bw with slot := 3 }
    let any := pst (2 ^ 62 + 3 * 2 ^ 35) none
    let at9 := pst (3 * 2 ^ 35 + 9) none
    let mine := pst (2 ^ 62) (some (1, 0))
    (stS any w).block? 1 = some { bb w with ctx := 5 } ∧ ({ bb w with ctx := 5 } : Block).warp? 0 = some w ∧ w.handler = false ∧
    any.stop.testBit 63 = true ∧ any.ctx = 5 ∧ any.issuer = none ∧ any.stop / 2 ^ 48 % 4 = 0 ∧ any.stop / 2 ^ 43 % 32 = w.core ∧
    any.stop / 2 ^ 41 % 4 = w.pitch ∧ any.stop / 2 ^ 35 % 64 = w.slot ∧ any.stop.testBit 62 = true ∧ at9.stop.testBit 62 = false ∧
    at9.stop % 2 ^ 32 = 9 ∧ (stS any w).lantern = [Lantern.reset] ++ any :: [] ∧ Lantern.reset.stop.testBit 63 = false ∧
    mine.issuer = some (1, 0) ∧ mine.stop.testBit 62 = true ∧ ({ w with bank := some default } : Warp).handler = true := by
  decide +kernel
def onS : State := { ls with rainfly := { Rainfly.reset with meters := [{ (default : Meter) with region := 7 }, { (default : Meter) with region := 9 }] } }
/-- A stack that the boot finds sound. -/
def boot4 : BootStack :=
  { fused := false, authOk := true, selfTest := true, usync := 6, transit := 3, emax := [20000, 20000, 20000, 20000] }
theorem witness_PowerOnAndOff : ls.running = true ∧ State.reset.running = false ∧
    partOk 0 (List.replicate 4 boot4) = true ∧ partOk 1 (List.replicate 4 boot4) = false ∧
    partOk 1 ({ boot4 with fused := true } :: List.replicate 3 boot4) = true ∧
    (onS.rainfly.meters.map (·.region)).Nodup ∧ onS.leafLeft = true ∧ onS.running = true ∧ 0 ∈ onS.usable ∧ 4 ∉ onS.usable ∧
    115 ≤ 115 ∧ 114 < 115 ∧ 7 / 2 ∈ onS.usable ∧ 8 / 2 ∉ onS.usable ∧ 105 ≤ 105 ∧ 104 < 105 ∧
    ({ onS with rainfly := { Rainfly.reset with leaf := 2 ^ 40 } } : State).leafLeft = false := by decide
/-- At 84 °C a stack that was hotter is hot no more, while its refresh rate stays doubled (R186, R195). -/
theorem test_hbm_hot : (match exec (.hbmTemperature 0 84) { onS with hbms := List.replicate 8 ⟨true, true, false⟩ } with
    | .next t => t.hbms.head?
    | _ => none) = some ⟨false, true, false⟩ := by decide
def tb0 : TimeBase :=
  { TimeBase.reset with source := some 0, uHost := 50, accepted := true, earliest := 1000, latest := 1200, dialogAge := some (125 * 10 ^ 9) }
def tS (t : TimeBase) : State := { ls with tb := t }
/-- A good message of second 2: its check bytes are those of the CRC. -/
def msg : List Nat := [0x5A, 0x54, 1, 1, 2, 0, 0, 0, 0, 0, 0, 0, 0, 0]
theorem witness_ReferenceSamples : (tS tb0).running = true ∧ (∀ a, tb0.dialogAge = some a → 125 * 10 ^ 9 ≤ a) ∧ tb0.source = some 0 ∧
    tb0.awaited = none ∧ tb0.earliest ≤ 942 + (tb0.uHost + 8) ∧ 942 ≤ tb0.latest + (tb0.uHost + 8) ∧
    941 + (tb0.uHost + 8) < tb0.earliest ∧ tb0.latest + (tb0.uHost + 8) < 1259 ∧
    (let a : TimeRefReq := ⟨0, 60, 16⟩
     let t := { tb0 with source := none, awaited := some a }
     t.awaited = some a ∧ a.source = 0 ∧ t.earliest ≤ 932 + (a.uHost + 8) ∧ 932 ≤ t.latest + (a.uHost + 8)) ∧
    (∃ a, ({ tb0 with dialogAge := some (125 * 10 ^ 9 - 1) } : TimeBase).dialogAge = some a ∧ a < 125 * 10 ^ 9) ∧
    ({ tb0 with source := some 1 } : TimeBase).seeks 0 = false ∧
    (let t := { tb0 with source := some 1, message := some (2, 7), edgeAge := some (9 * 10 ^ 11), earliest := 2000000054, latest := 2000000100 }
     t.source = some 1 ∧ t.awaited = none ∧ t.message = some (2, 7) ∧ t.freshEdge = false ∧ t.edgeAge = some (9 * 10 ^ 11) ∧
     9 * 10 ^ 11 ≤ 9 * 10 ^ 11 ∧ t.earliest ≤ 2 * 10 ^ 9 + (t.uHost + 4) ∧ 2 * 10 ^ 9 ≤ t.latest + (t.uHost + 4) ∧ t.seeks 1 = true) ∧
    9 * 10 ^ 11 - 1 < 9 * 10 ^ 11 ∧ 11 * 10 ^ 11 < 11 * 10 ^ 11 + 1 ∧
    goodMessage (msg ++ [crc16 msg % 256, crc16 msg / 256]) = true ∧ goodMessage (msg ++ [0, 0]) = false := by
  refine ⟨rfl, (by intro a h; cases h; decide), rfl, rfl, by decide, by decide, by decide, by decide, ⟨rfl, rfl, by decide, by decide⟩,
    ⟨_, rfl, by decide⟩, by decide, ⟨rfl, rfl, rfl, rfl, rfl, by decide, by decide, by decide, by decide⟩, by decide, by decide,
    by decide +kernel, by decide +kernel⟩
def kb (known : Bool) : Stack := { Stack.reset with known := known, beats := [[5000, 0, 50, 8, 1, 0, 0, 0, 0, 1, 0, 0, 0], []] }
theorem witness_SyncBeats : ls.running = true ∧ 3 < ls.stks.length ∧ 3 ∈ ls.usable ∧
    (let s := { ls with stks := [kb true, kb false, { kb true with beats := [[5000, 0, 50, 8, 0, 0, 0, 0, 0, 1, 0, 0, 0]] }] }
     (s.stack? 0).beats = (5000 :: 0 :: 50 :: 8 :: 1 :: ([0, 0, 0, 0] ++ [1, 0, 0, 0])) :: [[]] ∧ (s.stack? 0).known = true ∧
     (s.stack? 1).known = false ∧ (s.stack? 2).beats = (5000 :: 0 :: 50 :: 8 :: 0 :: ([0, 0, 0, 0] ++ [1, 0, 0, 0])) :: [] ∧
     2 < s.stks.length) := by decide
def ck0 (m v : Nat) (hop : Option (Nat × Nat)) : State :=
  { ls with stks := List.replicate 4 { Stack.reset with powered := true, mclk := m, vlevel := v, hop := hop } }
def drp : List Cluster := List.replicate 16 { Cluster.reset with droop := true }
theorem witness_ClockAndVoltage : (ls.stack? 0).powered = false ∧ ((ck0 800 0 none).stack? 0).powered = true ∧
    0 < (ck0 800 0 none).stks.length ∧ 4 * 0 + 3 < (ck0 800 0 none).clusters.length ∧
    (let s := { ck0 800 0 none with blocks := [{ bb bw with rcd := { (default : LaunchRec) with power := 15 } }] }
     let m := masterFor (s.floorMhz 0) ((List.range 4).map (s.needs 0)).flatten
     (s.stack? 0).mclk < m ∧ (s.stack? 0).vlevel < levelFor m) ∧
    (ck0 2100 15 none).drooping 0 = false ∧ ({ ck0 2100 15 none with clusters := drp } : State).drooping 0 = true ∧
    masterFor ((ck0 2100 15 none).floorMhz 0) ((List.range 4).map ((ck0 2100 15 none).needs 0)).flatten ≤ ((ck0 2100 15 none).stack? 0).mclk ∧
    ((ck0 800 0 (some (2100, 15))).stack? 0).hop = some (2100, 15) ∧ (3 : Nat) < 4 ∧
    (∀ j, j < 4 → j ≠ 3 → ((ck0 800 0 (some (2100, 15))).cluster 0 j).droop = false) ∧
    ((ck0 800 0 (some (2100, 15))).stack? 0).raising = false ∧ ((ck0 800 0 none).stack? 0).lower = none := by
  refine ⟨by decide, by decide, by decide, by decide, by decide +kernel, by decide, by decide, by decide +kernel, rfl,
    by decide, by decide, rfl, rfl⟩
theorem witness_CurrentAndHeat : (ls.stack? 0).powered = false ∧ ((ck0 800 0 none).stack? 0).powered = true ∧
    (ck0 800 0 none).grantsOn 0 0 = [] ∧ (ck0 800 0 none).rainfly.base.getD 0 0 = 50 ∧ 50 < 51 ∧ 44 ≤ 50 ∧ 10 * 44 < 9 * 50 ∧
    45 ≤ 50 ∧ 9 * 50 ≤ 10 * 45 ∧
    (let s := { ck0 800 0 none with blocks := [bb { bw with grant := some 15 }] }
     s.grantsOn 0 0 ≠ [] ∧ 16 ≤ s.limitWith 0 0 [] ∧ s.limitWith 0 0 [] < 17) ∧
    4 * 3 + 3 < (ck0 800 0 none).clusters.length ∧ 0 < (ck0 800 0 none).rainfly.emax.getD 15 0 := by decide

/-- A placed block of context 5 on stack 0 with `img5`'s stream, whose warp has no line and no group yet. -/
def bF5 (w : Warp) : Block :=
  { bb w with ctx := 5, task := 2, image := 9, rcd := { lr5 with dsize := 1, tmem := 16, meters := 0 }, allocs := [⟨0, 0, []⟩] }
def fS (b : Block) : State := { hs (cb 1 1 5 []) 0 with blocks := [b], tasks := [{ tk9 2 with dispatched := true }] }
theorem witness_Fetches : (fS (bF5 bw)).coreWarps 0 0 = [] ++ (bF5 bw, bw) :: [] ∧
    (fS (bF5 bw)).needLine (bF5 bw) bw = some (0, 0, []) ∧ (fS (bF5 bw)).lineOut (bF5 bw) 0 0 = false ∧
    (let s := { fS (bF5 bw) with lines := [(0, fetchKey (bF5 bw) 0 0)],
                                 images := [{ im5 with units := [{ unit := 0, dict := [default], code := [0], maxV := 0, tiles := 0 }] }],
                                 misses := [{ core := 0, key := fetchKey (bF5 bw) 0 0, since := 7, block := 1, warp := 0 }] }
     s.coreWarps 0 0 = [] ++ (bF5 bw, bw) :: [] ∧ s.wantedLine (bF5 bw, bw) = none ∧ s.hints = [] ∧
     s.misses = [] ++ { core := 0, key := fetchKey (bF5 bw) 0 0, since := 7, block := 1, warp := 0 } :: [] ∧
     s.block? 1 = some (bF5 bw) ∧ (bF5 bw).warp? 0 = some bw ∧ coreId (bF5 bw) bw = 0 ∧ (s.code (bF5 bw) bw).unit = 0) ∧
    (let key := fetchKey (bF5 bw) 0 0
     let s := { fS (bF5 bw) with hints := [(0, key)], out := [(5, 9, 0, 0, 0)] }
     (∀ p ∈ s.coreWarps 0 0, s.wantedLine p = none) ∧ s.hints = [] ++ (0, key) :: [] ∧ s.keyOut 0 key = true ∧
     ({ s with out := [], blocks := [] } : State).keyOut 0 key = false ∧ ({ s with out := [], blocks := [] } : State).coreWarps 0 0 = []) ∧
    (fS (bF5 bw)).misses = [] := by decide
theorem witness_TasksDispatched :
    let s := { hs (cb 1 1 5 []) 0 with tasks := [tk9 2, tk9 1], contexts := [cx5, { cx5 with num := 6 }] }
    tk9 1 ∈ s.tasks ∧ s.eligible (tk9 1) = true ∧ s.eligible (tk9 2) = false ∧
    (∀ z ∈ s.tasks, z.ctx = 5 → s.eligible z = true → (tk9 1).cls < z.cls ∨ ((tk9 1).cls = z.cls ∧ (tk9 1).num ≤ z.num)) ∧
    s.suspended 5 = false ∧ (∀ z ∈ s.tasks, s.eligible z = true → (tk9 1).cls ≤ z.cls) ∧ (∀ z ∈ s.tasks, z.ctx = 6 → s.eligible z = false) ∧
    (let y := { tk9 1 with recs := [{ lr5 with cls := 2 }] }
     let z := { tk9 1 with ctx := 6 }
     let s := { s with tasks := [y, z] }
     s.eligible y = true ∧ s.eligible z = true ∧ z.cls < y.cls) := by decide
/-- A task of two blocks to place on the powered stacks of context 5. -/
def bpS : State :=
  { hs (cb 1 1 5 []) 0 with tasks := [{ tk9 2 with dispatched := true, next := [0], recs := [{ lr5 with tmem := 16, meters := 0 }] }],
                            stks := List.replicate 4 { Stack.reset with powered := true } }
theorem witness_BlocksPlaced :
    (let b := bpS.newBlock ((bpS.tasks.headD default)) 0 0
     bpS.reap.queueUp = [] ++ (b, false) :: [] ∧ (bpS.reap.spotOf b false).isSome = true ∧ bpS.reap.swapPending = false ∧
     (∀ im, bpS.reap.image? 5 9 = some im → ∀ d ∈ im.data, d.kind ≠ 1)) ∧
    (let k := { bF5 bw with bid := 3, status := .swapped, missed := true }
     let s := { bpS with blocks := [k], out := [(5, 9, 0, 0, 0)] }
     let b := s.newBlock (s.tasks.headD default) 0 0
     s.reap.swapPending = true ∧ s.reap.queueUp = [] ++ (b, false) :: [] ∧ (s.reap.spotOf b false).isSome = true) ∧
    (let b := { bF5 bw with status := .saved, allocs := [], saved := [{ (default : SavedCore) with empty := [0] }],
                            hint := some { vdie := 0, cores := [0], mapVersion := 1 } }
     let s := { bpS with blocks := [b], tasks := [{ tk9 2 with dispatched := true, next := [1] }] }
     s.reap.queueUp = [] ++ (b, true) :: [] ∧ (s.reap.spotOf b true).map (·.cores) = some [0]) ∧
    (let s := { bpS with contexts := [{ cx5 with bivouac := 0 }] }
     ∀ p ∈ s.reap.queueUp, s.reap.spotOf p.1 p.2 = none) := by
  refine ⟨⟨by decide +kernel, by decide +kernel, by decide, ?_⟩,
    by decide +kernel, ⟨by decide +kernel, by decide +kernel⟩, by decide +kernel⟩
  intro im h
  have : bpS.reap.image? 5 9 = some im5 := by decide
  rw [this] at h; cases h
  intro d hd; cases hd
/-- A block asked to leave, its warp held. -/
def bPre (w : Warp) (by_ : PreemptBy) : Block := { bF5 w with pre := some { by_ := by_, since := 0 } }
def hw5 : Warp := { bw with held := true, grant := some 3 }
theorem witness_BlocksSaved :
    (let b := bPre hw5 (.command 1)
     let s := fS b
     s.reap.block? 1 = some b ∧ b.pre = some { by_ := .command 1, since := 0 } ∧ s.reap.ctx? b.ctx = some cx5 ∧ b.status = .placed ∧
     b.draining = false ∧ s.reap.dead 5 = false ∧ (∀ w ∈ b.warps, s.reap.still b w = true ∧ w.atSync = false) ∧ s.reap.drained b = true) ∧
    (let b := bPre bw (.command 1)
     (fS b).reap.block? 1 = some b ∧ ∃ w ∈ b.warps, (fS b).reap.still b w = false) ∧
    (let w := { bw with asking := some 15 }
     w.asking = some 15 ∧ hw5.grant = some 3 ∧ hw5.asking = none ∧ bw.asking = none ∧ bw.grant = none) ∧
    (let a : Alloc := ⟨15, 2 ^ 21 - 16, [255, 0]⟩
     (fS (bF5 bw)).mem.wf = true ∧ a.tiles.length = (⟨0, 0, [1, 2]⟩ : Alloc).tiles.length ∧ a.tiles.Nodup ∧ (∀ k ∈ a.tiles, k < 256) ∧
     32 * 3 + a.core < 128 ∧ a.base + (bF5 bw).rcd.tmem ≤ 2 ^ 21) := by
  refine ⟨⟨by decide, rfl, by decide, rfl, rfl, by decide, by decide, by decide⟩, ⟨by decide, by decide⟩, ⟨rfl, rfl, rfl, rfl, rfl⟩,
    by decide⟩
theorem witness_SwapsAndTimeouts :
    (let s := { fS (bF5 bw) with out := [(5, 9, 0, 0, 0)] }
     let u := { s with pitches := [{ Pitch.idle 0 0 with holder := some (1, 0) }] }
     (u.fetchOut (bF5 bw) bw).isSome = true ∧ (u.pitch (coreId (bF5 bw) bw) 0).holder = some (1, 0) ∧
     (s.pitch (coreId (bF5 bw) bw) 0).holder ≠ some (1, 0) ∧ u.block? 1 = some (bF5 bw) ∧ u.dead 5 = false ∧
     s.block? 1 = some (bF5 bw) ∧ (bF5 bw).warp? 0 = some bw ∧ (bF5 bw).status = .placed ∧ s.dead 5 = false ∧ (bF5 bw).draining = false ∧
     s.fetchOut (bF5 bw) bw = some (0, []) ∧ (fS (bF5 bw)).fetchOut (bF5 bw) bw = none) ∧
    (let b := { bPre bw (.command 1) with draining := true }
     (fS b).block? 1 = some b ∧ b.draining = true ∧ (fS b).drained b = true ∧ (∀ v ∈ b.warps, v.trap = none) ∧
     (∃ p fn, b.pre = some p ∧ p.by_ = .command fn) ∧ ∀ p fn, ({ b with pre := none } : Block).pre = some p → p.by_ ≠ .command fn) ∧
    (let b := { bF5 bw with status := .swapped, allocs := [], saved := [default], hint := some { vdie := 0, cores := [0], mapVersion := 1 } }
     (fS b).reap.block? 1 = some b ∧ b.status = .swapped ∧ (fS b).reap.dead 5 = false ∧ ((fS b).reap.oldPlace b 0).isSome = true ∧
     (let k := { bF5 bw with bid := 3, rcd := { lr5 with tmem := Config.tmemBytes } }
      ({ fS b with blocks := [b, k] } : State).reap.oldPlace b 0 = none ∧ ({ fS b with blocks := [b, k] } : State).reap.copyRoom b 0 = true) ∧
     ({ fS b with contexts := [{ cx5 with bivouac := 2 ^ 32 - 1 }], tensors := [{ tn5 with entries := [{ (default : TileEntry) with resident := true, tier := 1 }] }] } : State).reap.copyRoom b 0 =
       false ∧
     ((fS b).stageSpot b 0 [0]).isSome = true) ∧
    (let s := { fS (bF5 bw) with pitches := [{ Pitch.idle 0 0 with holder := some (1, 0) }] }
     (s.pitch 0 0).holder = some (1, 0) ∧ s.warp? 1 0 = some bw ∧ bw.loops = [] ∧ bw.pointFree = true ∧ bw.exited = false ∧
     ({ bw with idle := 1 } : Warp).pointFree = false) ∧
    (let b := bPre bw (.command 1)
     (fS b).block? 1 = some b ∧ b.pre = some { by_ := .command 1, since := 0 } ∧ b.status = .placed ∧
     ((fS b).stack? 0).that < 0 + 50 * 10 ^ 9 ∧
     (let s := { fS b with stks := List.replicate 4 { Stack.reset with that := 50 * 10 ^ 9 } }
      0 + 50 * 10 ^ 9 ≤ (s.stack? 0).that ∧ s.ctx? 5 = some cx5 ∧ cx5.fatal = none) ∧
     ∀ fn, PreemptBy.balancer 1 ≠ .command fn) := by
  refine ⟨by decide, ⟨by decide, rfl, by decide, by decide, ⟨_, 1, rfl, rfl⟩, (by intro p fn h; cases h)⟩,
    ⟨by decide, rfl, by decide, by decide, by decide, by decide, by decide⟩, by decide, ⟨by decide, rfl, rfl, by decide, by decide, (by intro fn h; cases h)⟩⟩
/-- A pipeline of two stages: the first's queue is half full and it has blocks to place, the second's has been empty. -/
def y2 : Task :=
  { tk9 2 with dispatched := true, recs := [{ lr5 with grid := [2, 1, 1] }, lr5], next := [1, 1],
               queues := [{ (default : StageQ) with logCap := 1, tail := 0, head := 2 ^ 32 - 1 },
                          { (default : StageQ) with logCap := 1, emptyFor := 1 }] }
theorem witness_StagesBalanced :
    let b := { bF5 bw with stage := 1 }
    let s := { fS b with tasks := [y2] }
    s.task? 5 2 = some y2 ∧ y2.dispatched = true ∧ y2.completed = false ∧ y2.suspended = false ∧ s.dead 5 = false ∧
    (∃ q, y2.queues[0]? = some q ∧ (y2.next.getD 0 0 < (y2.recs.getD 0 default).blocks ∨
      ∃ k ∈ s.blocks, k.ctx = 5 ∧ k.task = 2 ∧ k.stage = 0 ∧ k.status ≠ .placed) ∧ 2 ^ q.logCap ≤ 2 * ((q.tail + 2 ^ 32 - q.head) % 2 ^ 32)) ∧
    (∃ q, y2.queues[1]? = some q ∧ q.head = q.tail ∧ 1 ≤ q.emptyFor) ∧ ¬(∃ q, y2.queues[0]? = some q ∧ q.head = q.tail ∧ 1 ≤ q.emptyFor) ∧
    b ∈ s.blocks ∧ b.ctx = 5 ∧ b.task = 2 ∧ b.stage = 1 ∧ b.status = .placed ∧ b.draining = false ∧ b.pre = none ∧
    s.block? b.bid = some b ∧ y2.queues[2]? = none := by
  refine ⟨by decide, rfl, rfl, rfl, by decide, ⟨_, rfl, .inl (by decide), by decide⟩, ⟨_, rfl, by decide, by decide⟩, ?_, by decide, rfl, rfl, rfl,
    rfl, rfl, rfl, by decide, rfl⟩
  rintro ⟨q, h, h1, h2⟩
  cases h
  exact absurd h1 (by decide)
def y5 (d c : Bool) : Task := { tk9 2 with dispatched := d, completed := c, next := [1], recs := [lr5] }
def tcS (y : Task) (x : Context) : State := { hs (cb 1 1 5 []) 0 with tasks := [y], contexts := [x] }
def kq : Completion := { task := 2, tag := 7, status := 0, stamp := 9 }
def rg (posted : Nat) : Context := { cx5 with queued := [kq], ringAddr := 4096, ringSize := 64, posted := posted }
theorem witness_TasksComplete :
    (let s := tcS (y5 true false) cx5
     s.reap.task? 5 2 = some (y5 true false) ∧ s.reap.ctx? 5 = some cx5 ∧ cx5.fatal = none ∧ s.reap.allDone (y5 true false) = true ∧
     s.reap.drainedTo 5 ((y5 true false).drain.getD s.reap.uid) = true ∧
     ({ s with commits := [{ cm none with ctx := 5 }] } : State).reap.drainedTo 5 6 = false ∧
     s.reap.allDone { y5 true false with next := [0] } = false) ∧
    (tcS (y5 true true) cx5).reap.task? 5 2 = some (y5 true true) ∧ (y5 false false).dispatched = false ∧
    (let x := { fatal5 with ckptDone := true }
     let s := tcS (y5 true false) x
     s.reap.ctx? 5 = some x ∧ x.fatal.isSome = true ∧ s.reap.fatalKept 5 = true ∧
     (tcS (y5 true false) fatal5).reap.fatalKept 5 = false) ∧
    (let s := tcS (y5 true false) (rg 63)
     s.ctx? 5 = some (rg 63) ∧ (rg 63).queued = kq :: [] ∧ s.mem.wf = true ∧
     (rg 63).posted - max (rg 63).readCnt (min (leNat (s.mem.readBytes ((rg 63).ringAddr - 8) 8)) (rg 63).posted) < (rg 63).ringSize ∧
     (rg 64).ringSize ≤ (rg 64).posted - max (rg 64).readCnt (min (leNat (s.mem.readBytes ((rg 64).ringAddr - 8) 8)) (rg 64).posted)) := by
  refine ⟨by decide, by decide, rfl, ⟨by decide, rfl, by decide, by decide⟩, by decide⟩
/-- A frame in tier H of stack 0, moving or not, with its access counts. -/
def te (mv : Option (Nat × Nat)) : TileEntry :=
  { (default : TileEntry) with resident := true, writable := true, tier := 1, die := 0, frame := 1, moving := mv }
def mvS (mv : Option (Nat × Nat)) : State :=
  { hs (cb 1 1 5 []) 0 with tensors := [{ tn5 with entries := [te mv] }],
                            access := [⟨65536, 0, 3, 1024⟩, ⟨65536, 0, 0, 256⟩], out := [(5, 9, 1, 0, 0)] }
theorem witness_FramesMove : (mvS none).entryOf 65536 (0 * 65536) = some (te none) ∧ (te none).resident = true ∧ (te none).pins = 0 ∧
    (te none).tier ≠ 2 ∧ 3 ∈ (mvS none).usable ∧ 3 ≠ (te none).die ∧ 1024 ≤ (mvS none).accessCount 65536 0 3 ∧
    4 * (mvS none).accessCount 65536 0 0 ≤ (mvS none).accessCount 65536 0 3 ∧ (mvS none).freeFrames 1 3 1 = some [0] ∧
    (mvS (some (3, 0))).entryOf 65536 (0 * 65536) = some (te (some (3, 0))) ∧ (mvS (some (3, 0))).goalStands 1 3 = true ∧
    (mvS (some (3, 0))).goalStands 1 4 = false ∧ (mvS (some (3, 0))).mem.wf = true ∧
    (mvS none).evictable 65536 0 = true ∧ (mvS (some (3, 0))).evictable 65536 0 = false ∧ (mvS none).paged = [] ∧
    ((mvS none).image? 5 9).isSome = true ∧ (5, 9, 0, 0, 0) ∉ (mvS none).out ∧ (5, 9, 1, 0, 0) ∈ (mvS none).out := by decide

/-- Port 15 trains or is up; a sealed flit of a kind, with fields. -/
def pt (state hin : Nat) : Port := { Port.reset with state := state, hellosIn := hin, hellosOut := 3, lastIn := 0 }
def lk (x : Port) : State := { hs (cb 1 1 5 []) 0 with ports := List.replicate 16 x }
def hello9 : Nat := sealFlit (2 ^ 252 + 2 ^ 248 + 3 * 2 ^ 244 + 9 * 2 ^ 112) []
def fl (kind rest : Nat) : Nat := sealFlit (kind * 2 ^ 252 + rest) []
theorem witness_LinksTrain : AtPort (lk (pt 1 2)) 15 1 ∧ hello9 / 2 ^ 252 % 16 = 1 ∧ helloOk hello9 = true ∧ helloOk (hello9 + 2 ^ 40) = false ∧
    ((lk (pt 1 1)).port 15).hellosIn < 2 ∧ 2 ≤ ((lk (pt 1 2)).port 15).hellosIn ∧ 3 ≤ ((lk (pt 1 2)).port 15).hellosOut ∧
    (lk (pt 1 2)).peerReqs = [] ∧ ((lk (pt 1 2)).port 15).waiting = [] ∧
    (let x := { pt 1 2 with replay := [[fl 2 0], [fl 2 (2 ^ 232)]], acked := 0 }
     (x.after x.acked).length = 1) ∧
    AtPort (lk (pt 1 2)) 15 1 ∧ fl 2 (8 * 2 ^ 248) / 2 ^ 252 % 16 = 2 ∧ fl 2 (8 * 2 ^ 248) / 2 ^ 248 % 16 = 8 ∧
    AtPort (lk (pt 2 0)) 15 2 ∧ fl 0 0 / 2 ^ 252 % 16 = 0 ∧ fl 3 0 / 2 ^ 252 % 16 = 3 ∧ 5 ≤ fl 15 0 / 2 ^ 252 % 16 ∧
    fl 4 0 / 2 ^ 252 % 16 = 4 ∧ crcOk (fl 4 0) [] = true ∧ crcOk (fl 4 0 + 1) [] = false ∧ 15 < (lk (pt 2 0)).ports.length ∧
    ((lk (pt 2 0)).port 15).state = 2 ∧ (lk (pt 2 0)).tb.that < ((lk (pt 2 0)).port 15).lastIn + 10 ^ 8 ∧
    (let s := { lk (pt 2 0) with tb := { TimeBase.reset with that := 10 ^ 8 } }
     (s.port 15).lastIn + 10 ^ 8 ≤ s.tb.that) ∧
    16 ≤ ((lk { pt 2 0 with nakTimes := List.replicate 16 0 }).port 15).nakTimes.length := by
  unfold AtPort; decide +kernel
/-- A read request of one byte in lseq 0, a header that announces four flits, and one of an op that is not assigned. -/
def rd1 : Nat := fl 2 (2 ^ 248)
def wr4 : Nat := fl 2 (3 * 2 ^ 248 + 4 * 2 ^ 245)
def body4 : List Nat := [1, 2, 3, 4]
def sealed1 : Nat := sealFlit (2 * 2 ^ 252 + 3 * 2 ^ 248 + 2 ^ 245) [4]
theorem witness_PacketsArrive : AtPort (lk (pt 2 0)) 15 2 ∧ rd1 / 2 ^ 252 % 16 = 2 ∧ rd1 / 2 ^ 248 % 16 = 1 ∧ rd1 / 2 ^ 245 % 8 = 0 ∧
    good (lk (pt 2 0)) 15 rd1 [] ∧ ¬good (lk (pt 2 0)) 15 (rd1 + 1) [] ∧ wr4 / 2 ^ 245 % 8 = 4 ∧ wr4 / 2 ^ 248 % 16 = 3 ∧
    4 < fl 2 (2 ^ 248 + 7 * 2 ^ 245) / 2 ^ 245 % 8 ∧ fl 2 (15 * 2 ^ 248) / 2 ^ 248 % 16 = 15 ∧ good (lk (pt 2 0)) 15 (fl 2 (15 * 2 ^ 248)) [] ∧
    (let s := lk { pt 2 0 with header := some sealed1 }
     (s.port 15).header = some sealed1 ∧ ((s.port 15).payload ++ [4 % 2 ^ 256]).length = sealed1 / 2 ^ 245 % 8 ∧
     good s 15 sealed1 ((s.port 15).payload ++ [4 % 2 ^ 256]) ∧ ¬good s 15 sealed1 ((s.port 15).payload ++ [5 % 2 ^ 256])) ∧
    (let s := lk { pt 2 0 with header := some wr4, payload := [1, 2] }
     ((s.port 15).payload ++ [4]).length < wr4 / 2 ^ 245 % 8) := by
  unfold AtPort good
  refine ⟨by decide, ?_⟩
  repeat' apply And.intro
  all_goals decide +kernel
/-- An exported table of two frames, the second absent; a request for the last byte of the first. -/
def tnE : Tensor :=
  { tn5 with export_ := true, bytes := 131072,
             entries := [te none, { te none with resident := false, writable := false, frame := 0 }] }
def pS : State := { lk (pt 2 0) with tensors := [tnE, { tnE with base := 131072, export_ := false }] }
def hd (op tile off : Nat) : Head := { (default : Head) with op := op, table := 65536, tile := tile, offset := off, scope := 4 }
theorem witness_PeersServed : pS.tensor? 65536 = some tnE ∧ pS.tensor? 7 = none ∧ tnE.export_ = true ∧ tnE.bound = true ∧
    (∃ t, pS.tensor? 131072 = some t ∧ t.export_ = false) ∧ tnE.entries.length ≤ 2 ∧ tnE.entries[0]? = some (te none) ∧
    65536 < 65535 + 2 ∧ 65535 + 1 ≤ 65536 ∧ 128 < 127 + 2 ∧ 127 + 1 ≤ 128 ∧ pS.served (hd 1 0 0) 129 false = .error 2 ∧ (∃ e, tnE.entries[1]? = some e ∧ e.writable = false ∧ e.resident = false) ∧
    pS.served (hd 1 0 65535) 1 false = .ok 65535 ∧ pS.served (hd 1 1 0) 1 false = .error 3 ∧ pS.hotBytes none 0 = [] ∧
    pS.isStamped (pS.tensorAddr 65536 65535) 1 = false ∧
    ({ pS with stamped := [⟨pS.tensorAddr 65536 65535 / 64, []⟩] } : State).isStamped (pS.tensorAddr 65536 65535) 1 = true ∧
    pS.served (hd 3 0 65535) 1 true = .ok 65535 ∧ pS.served (hd 3 1 0) 1 true = .error 1 ∧ 1 ≤ 32 * body4.length ∧ pS.mem.wf = true ∧
    8 < ({ hd 5 0 0 with aop := 9 } : Head).aop ∧ atomOfCode 8 = some .fadd ∧
    pS.served (hd 5 0 0) ((ityOfCode 2).width / 8) true = .ok 0 ∧ pS.served (hd 5 2 0) ((ityOfCode 2).width / 8) true = .error 2 ∧
    (match pS.atomAt none 0 [] 65536 0 .add (ityOfCode 2) 1 0 (peerScope (hd 5 0 0)) State.writeHome with
     | .ok _ => true
     | .error _ => false) = true ∧
    (let s := { pS with tags := [⟨pS.tensorAddr 65536 0 / 64, 0, 9, 9, 9, 9⟩] }
     match s.atomAt none 0 [] 65536 0 .add (ityOfCode 2) 1 0 (peerScope { hd 5 0 0 with scope := 1 }) State.writeHome with
     | .ok _ => false
     | .error _ => true) = true := by
  refine ⟨by decide, by decide, rfl, rfl, ⟨{ tnE with base := 131072, export_ := false }, by decide, rfl⟩, by decide, rfl, by decide, by decide, by decide, by decide, by decide, ⟨_, rfl, rfl, rfl⟩, by decide +kernel⟩
/-- A lane of the small warp waits for a peer, and a fence of it for a drain. -/
def aP : LaneAcc := { acc0 with loc := .peer 9 65536 0 }
def pq (who : PeerWho) (op : Nat) : PeerReq := { (default : PeerReq) with tag := 7, who := who, head := (hd op 0 0).flit 0 0, path := { mask := 3, device := 0, port := 0 } }
def paS (who : PeerWho) (op : Nat) : State :=
  { lk (pt 2 0) with peerReqs := [pq who op], reqs := [rq ld5 aP], blocks := [{ bm (wm 1) with ctx := 5 }] }
def ans (op st : Nat) : Head := { (default : Head) with op := op, tag := 7, status := st }
theorem witness_PeersAnswer : 5 < (ans 2 6).status ∧ (paS (.lane 5 31) 1).asked { ans 2 0 with tag := 8 } = none ∧ (ans 8 0).op = 8 ∧
    (paS (.drain 1 0 9) 7).asked (ans 8 0) = some (pq (.drain 1 0 9) 7) ∧ (ans 8 0).status ≤ 5 ∧
    (let s := paS (.lane 5 31) 1
     s.asked (ans 2 5) = some (pq (.lane 5 31) 1) ∧ s.reqs.find? (fun r => r.id == 5) = some (rq ld5 aP) ∧
     (rq ld5 aP).lanes.find? (fun a => a.lane == 31) = some aP ∧ s.warp? 1 0 = some (wm 1) ∧ (rq ld5 aP).handler = false ∧
     (wm 1).trap = none ∧ (wm 1).parked.getLsbD 31 = false ∧ (ans 2 5).status = 5 ∧ (ans 2 3).status = 3 ∧
     s.ctx? ((s.block? 1).getD default).ctx = some cx5 ∧ cx5.fatal = none) ∧
    (let s := { paS (.drain 1 0 9) 7 with ports := List.replicate 16 (pt 1 0), stks := List.replicate 4 { Stack.reset with that := 10 ^ 9 } }
     s.peerReqs.find? (fun k => k.tag == 7) = some (pq (.drain 1 0 9) 7) ∧ s.portFor 3 0 = none ∧ (∀ k ∈ s.peerReqs, k.tag < tagCount) ∧ 0 + 10 ^ 9 ≤ (s.stack? 0).that ∧
     s.block? 1 = some { bm (wm 1) with ctx := 5 } ∧ s.ctx? 5 = some cx5) ∧
    (let s := { paS (.engine 5 1 0 4) 1 with ops := [{ op5 .cpy .started with block := 1 }] }
     s.asked (ans 2 0) = some (pq (.engine 5 1 0 4) 1) ∧ (s.op? 5).isSome = true ∧ s.portFor 0 0 = none) ∧
    ((paS (.drain 1 0 9) 7).stack? 0).that < (pq (.drain 1 0 9) 7).since + 10 ^ 9 := by
  refine ⟨by decide, by decide +kernel, rfl, by decide +kernel, by decide,
    ⟨by decide +kernel, rfl, by decide, rfl, rfl, rfl, by decide, rfl, rfl, by decide, rfl⟩, ⟨by decide +kernel, by decide, by decide, by decide, rfl, by decide⟩,
    ⟨by decide +kernel, by decide, by decide⟩, by decide +kernel⟩
end Sys2Proof.Tests
end

section
/-! Transfers of control and the loop stack (R70, R72, R73, R239 to R242): what each of the five S operations does, the warp after
a word with a transfer under way, and the levels of loops that a token's end and a taken transfer leave. -/

namespace Sys2Proof.Machine

open Sys2Proof.Claims

-- The arms of `exec`.

theorem exec_btgt (s : State) (g : Guard) (bd : Nat) (t : Tgt) : exec (.btgt g bd t) s = execBtgt g bd t s := rfl
theorem exec_bxfer (s : State) (g : Guard) (b d : Nat) : exec (.bxfer g b d) s = execBxfer g b d s := rfl
theorem exec_bcall (s : State) (g : Guard) (b d r : Nat) : exec (.bcall g b d r) s = execBcall g b d r s := rfl
theorem exec_lidx (s : State) (g : Guard) (d n : Nat) : exec (.lidx g d n) s = execLidx g d n s := rfl
theorem exec_lbrk (s : State) (g : Guard) : exec (.lbrk g) s = execLbrk g s := rfl

-- Targets and their hints.

/-- The offset a `btgt` puts into its register (R239). -/
def targetOffset (c : Issue) (w : Warp) : Tgt → Word32
  | .imm o => BitVec.ofNat 32 o
  | .sreg r => low32 (w.sread r)
  | .hole h => low32 (holeVal c h)

/-- A hint for one line asks for that line at most, and changes the hints alone. -/
theorem State.hintLines_one (u : State) (b : Block) (w : Warp) (off : Int) :
    ∃ h, u.hintLines b w off 1 = { u with hints := u.hints ++ h } ∧ h.length ≤ 1 :=
  ⟨_, rfl, List.length_filterMap_le _ _⟩

-- The word's own transfer operations.

section
variable {s : State} {c : Issue} {bl : Block} {w : Warp} {g : Guard}

theorem exec_btgt_aims (hi : Issuing s c bl w) (hg : qGuard w g = true) (bd : Nat) (t : Tgt) :
    exec (.btgt g bd t) s = .next ((s.fly c 1 [.breg bd (targetOffset c w t)]).hintLines bl w (targetOffset c w t).toNat 1) := by
  obtain ⟨hc, hb, hw⟩ := hi
  rw [exec_btgt, execBtgt, uniOp_act _ _ hc hb hw hg rfl]
  cases t <;> rfl

/-- A transfer is the warp's, to the offset its register holds, when none is under way. -/
theorem exec_bxfer_requests (hi : Issuing s c bl w) (hg : qGuard w g = true) (hx : w.xfer = none) (b d : Nat) :
    WarpBecomes s (.bxfer g b d) c (fun v => { v with xfer := some ⟨(w.bread b).toNat, d, none⟩ }) := by
  obtain ⟨hc, hb, hw⟩ := hi
  rw [WarpBecomes, exec_bxfer, execBxfer, uniOp_act _ _ hc hb hw hg (by simp [State.trapOf, hx])]
  rfl

theorem exec_bcall_requests (hi : Issuing s c bl w) (hg : qGuard w g = true) (hx : w.xfer = none) (b d r : Nat) :
    WarpBecomes s (.bcall g b d r) c (fun v => { v with xfer := some ⟨(w.bread b).toNat, d, some r⟩ }) := by
  obtain ⟨hc, hb, hw⟩ := hi
  rw [WarpBecomes, exec_bcall, execBcall, uniOp_act _ _ hc hb hw hg (by simp [State.trapOf, hx])]
  rfl

/-- A second transfer traps: it is decided from the state before the word (R58). -/
theorem exec_bxfer_traps (hi : Issuing s c bl w) (hg : qGuard w g = true) (hx : w.xfer.isSome = true) (hf : c.clear = false)
    (b d : Nat) : Traps s (.bxfer g b d) c 0x04 0 := by
  obtain ⟨hc, hb, hw⟩ := hi
  have ht : s.trapOf c bl w (.bxfer g b d) = some (0x04, 0) := by simp [State.trapOf, hg, hx]
  rw [Traps, exec_bxfer, execBxfer, uniOp_trap _ _ hc hb hw hf ht]

theorem exec_bcall_traps (hi : Issuing s c bl w) (hg : qGuard w g = true) (hx : w.xfer.isSome = true) (hf : c.clear = false)
    (b d r : Nat) : Traps s (.bcall g b d r) c 0x04 0 := by
  obtain ⟨hc, hb, hw⟩ := hi
  have ht : s.trapOf c bl w (.bcall g b d r) = some (0x04, 0) := by simp [State.trapOf, hg, hx]
  rw [Traps, exec_bcall, execBcall, uniOp_trap _ _ hc hb hw hf ht]

/-- `lidx` reads the index of a level that stands, else 0. -/
theorem exec_lidx_writes (hi : Issuing s c bl w) (hg : qGuard w g = true) (d n : Nat) :
    SWrites s (.lidx g d n) c d (BitVec.ofNat 64 ((w.loops[n]?).elim 0 LoopLevel.index)) := by
  obtain ⟨hc, hb, hw⟩ := hi
  rw [SWrites, Flies, exec_lidx, execLidx, uniRes_act _ _ hc hb hw hg rfl]
  cases w.loops[n]? <;> rfl

theorem exec_lbrk_breaks (hi : Issuing s c bl w) (hg : qGuard w g = true) :
    WarpBecomes s (.lbrk g) c (fun v => { v with loops := breakLoop v.loops }) := by
  obtain ⟨hc, hb, hw⟩ := hi
  rw [WarpBecomes, exec_lbrk, execLbrk, uniOp_act _ _ hc hb hw hg rfl]

end

theorem breakLoop_append (l : List LoopLevel) (v : LoopLevel) :
    breakLoop (l ++ [v]) = l ++ [{ v with count := v.index + 1 }] := by
  simp [breakLoop]

-- The warp after its word.

section
variable {w : Warp}

/-- Inside an idle token the PC and the levels stay (R69). -/
theorem Warp.advance_idle (c : Issue) (h : 1 < w.idle) : w.advance c = ({ w with idle := w.idle - 1 }, false) := if_pos h

/-- Past its last word a token ends (R70). -/
theorem Warp.advance_token (c : Issue) (h : w.idle ≤ 1) :
    w.advance c = ({ w with pc := (endToken w.loops c.next).2.1, loops := (endToken w.loops c.next).1, idle := 0 },
      (endToken w.loops c.next).2.2) := if_neg (Nat.not_lt.2 h)

/-- Passing a word touches neither the transfer under way nor the `b` registers. -/
theorem Warp.advance_xfer (w : Warp) (c : Issue) : (w.advance c).1.xfer = w.xfer := by
  unfold Warp.advance; split <;> rfl
theorem Warp.advance_b (w : Warp) (c : Issue) : (w.advance c).1.b = w.b := by
  unfold Warp.advance; split <;> rfl

variable {x : Xfer}

/-- A transfer with no word left to delay it is taken from where the word leaves the levels; its link is where the next token would
have been decoded, also out of an idle token. -/
theorem Warp.afterWord_taken (c : Issue) (hx : w.xfer = some x) (h : x.remaining = 0) :
    (w.afterWord c).1 = { (w.advance c).1 with
      pc := x.target, loops := dropLevels (w.advance c).1.loops x.target, idle := 0, xfer := none
      b := x.link.elim w.b fun r => w.b.set r (BitVec.ofNat 32 (endToken w.loops c.next).2.1) } := by
  have hpc : (if w.idle > 1 then (endToken w.loops c.next).2.1 else (w.advance c).1.pc) = (endToken w.loops c.next).2.1 := by
    split
    · rfl
    · next hi => rw [w.advance_token c (Nat.not_lt.1 hi)]
  have hx' := (w.advance_xfer c).trans hx
  simp only [Warp.afterWord, hx', h, if_true, hpc, Warp.transfer, w.advance_b c]
  cases x.link <;> rfl

/-- A delayed transfer has a word less to wait for. -/
theorem Warp.afterWord_delayed (c : Issue) (hx : w.xfer = some x) (h : 0 < x.remaining) :
    (w.afterWord c).1 = { (w.advance c).1 with xfer := some { x with remaining := x.remaining - 1 } } := by
  have hx' := (w.advance_xfer c).trans hx
  simp only [Warp.afterWord, hx', Nat.ne_of_gt h, if_false, Warp.transfer]

end

-- The end of a token (R70).

theorem endToken_nil (pc : Nat) : endToken [] pc = ([], pc, false) := rfl

section
variable (l : List LoopLevel) {v : LoopLevel} {pc : Nat}

theorem endToken_elsewhere (h : pc ≠ v.start + v.len) : endToken (l ++ [v]) pc = (l ++ [v], pc, false) := by
  simp [endToken, endTokenGo, h]

theorem endToken_iterates (h : pc = v.start + v.len) (hc : v.index + 1 < v.count) :
    endToken (l ++ [v]) pc = (l ++ [{ v with index := v.index + 1 }], v.start, true) := by
  simp [endToken, endTokenGo, h, hc]

theorem endToken_ends_level (h : pc = v.start + v.len) (hc : v.count ≤ v.index + 1) :
    endToken (l ++ [v]) pc = ((endToken l pc).1, (endToken l pc).2.1, true) := by
  simp [endToken, endTokenGo, h, Nat.not_lt.2 hc]

end

-- The levels a transfer leaves (R72).

/-- The test of `dropLevels`: the level does not hold the target. -/
def missesTarget (t : Nat) (v : LoopLevel) : Bool := !(decide (v.start ≤ t) && decide (t < v.start + v.len))

theorem missesTarget_iff {t : Nat} {v : LoopLevel} : missesTarget t v = true ↔ ¬(v.start ≤ t ∧ t < v.start + v.len) := by
  simp [missesTarget, imp_iff_not_or]

theorem dropLevels_eq_rdropWhile (l : List LoopLevel) (t : Nat) : dropLevels l t = l.rdropWhile (missesTarget t) := rfl

/-- The levels left are the outer ones, as they were, and none of those removed holds the target. -/
theorem dropLevels_append (l : List LoopLevel) (t : Nat) :
    ∃ r, l = dropLevels l t ++ r ∧ ∀ v ∈ r, ¬(v.start ≤ t ∧ t < v.start + v.len) := by
  refine ⟨l.rtakeWhile (missesTarget t), ?_, fun v hv => missesTarget_iff.1 (List.mem_rtakeWhile_imp hv)⟩
  rw [dropLevels_eq_rdropWhile, List.rdropWhile_append_rtakeWhile]

/-- The removal stops at the first level that holds the target. -/
theorem dropLevels_getLast (l : List LoopLevel) (t : Nat) (v : LoopLevel) (h : (dropLevels l t).getLast? = some v) :
    v.start ≤ t ∧ t < v.start + v.len := by
  rw [dropLevels_eq_rdropWhile] at h
  obtain ⟨hne, rfl⟩ := List.mem_getLast?_eq_getLast h
  have := List.rdropWhile_last_not (missesTarget t) l hne
  rwa [missesTarget_iff, not_not] at this

/-- The return from a handler to its saved PC. -/
theorem Warp.leaveHandler_back {w : Warp} {k : Bank} (h : w.bank = some k) :
    (w.leaveHandler false).pc = w.hpc ∧ (w.leaveHandler false).loops = dropLevels k.loops w.hpc := by
  simp [Warp.leaveHandler, h]

-- The statement's four parts.

theorem transfers_hold : Transfers := by
  intro s c bl w g bd b d r n k o hi hg
  refine ⟨exec_btgt_aims hi hg bd (.imm o), exec_btgt_aims hi hg bd (.sreg r), exec_btgt_aims hi hg bd (.hole k),
    fun u n => u.hintLines_one bl w n, fun hx => ⟨exec_bxfer_requests hi hg hx b d, exec_bcall_requests hi hg hx b d r⟩,
    fun hx hf => ⟨exec_bxfer_traps hi hg hx hf b d, exec_bcall_traps hi hg hx hf b d r⟩, fun v hv => ?_, fun hn => ?_,
    exec_lbrk_breaks hi hg, breakLoop_append⟩
  · simpa [hv] using exec_lidx_writes hi hg bd n
  · simpa [List.getElem?_eq_none hn] using exec_lidx_writes hi hg bd n

theorem transferTaken_holds : TransferTaken := by
  intro w c x hx
  refine ⟨fun h => ?_, fun h => ?_⟩
  · rw [Warp.afterWord_taken c hx h]
    refine ⟨rfl, rfl, rfl, fun hi => ?_, fun hi => ?_, fun r hr hb => ?_, fun hl => ?_⟩
    · rw [w.advance_token c hi]
    · rw [w.advance_idle c hi]
    · simp [hr, hb]
    · simp [hl]
  · rw [Warp.afterWord_delayed c hx h]
    refine ⟨rfl, w.advance_b c, fun hi => ?_, fun hi => ?_⟩
    · rw [w.advance_token c hi]; exact ⟨rfl, rfl⟩
    · rw [w.advance_idle c hi]; exact ⟨rfl, rfl, rfl⟩

theorem loopIterations_hold : LoopIterations := fun l _ pc =>
  ⟨endToken_nil pc, endToken_elsewhere l, endToken_iterates l, endToken_ends_level l⟩

theorem transferDropsLoops_holds : TransferDropsLoops := fun l t =>
  ⟨dropLevels_append l t, dropLevels_getLast l t, fun _ _ h => Warp.leaveHandler_back h⟩

/-- Settles O12, part by part: the operations that request transfers, the transfer taken after a word, the end of a token, and the
levels a transfer leaves. -/
theorem transfersAndLoops : Obligations.TransfersAndLoops :=
  ⟨transfers_hold, transferTaken_holds, loopIterations_hold, transferDropsLoops_holds⟩

end Sys2Proof.Machine
end

section
/-! The predicate operations of the P slot (R55, R256, R257): the bits of the masks they read, what a lane-wise operation and a vote
of a word in issue do, and the votes as statements about the lanes. -/

namespace Sys2Proof.Machine

open Sys2Proof.Claims

-- The arms of `exec`.

section
variable (s : State) (g : Guard) (d a b : Nat) (na nb : Bool)

theorem exec_pand : exec (.pand g d a na b nb) s = execPand g d a na b nb s := rfl
theorem exec_por : exec (.por g d a na b nb) s = execPor g d a na b nb s := rfl
theorem exec_pxor : exec (.pxor g d a na b nb) s = execPxor g d a na b nb s := rfl
theorem exec_pmov : exec (.pmov g d a na) s = execPmov g d a na s := rfl
theorem exec_pset : exec (.pset g d a na) s = execPset g d a na s := rfl
theorem exec_vany : exec (.vany g d a na) s = execVany g d a na s := rfl
theorem exec_vall : exec (.vall g d a na) s = execVall g d a na s := rfl
theorem exec_vcount : exec (.vcount g d a na) s = execVcount g d a na s := rfl
theorem exec_qand : exec (.qand g d a na b nb) s = execQand g d a na b nb s := rfl
theorem exec_qor : exec (.qor g d a na b nb) s = execQor g d a na b nb s := rfl
theorem exec_qxor : exec (.qxor g d a na b nb) s = execQxor g d a na b nb s := rfl

end

-- Masks, lane by lane.

/-- Some lane of the warp is in a mask that is not empty. -/
theorem mask_ne_zero_iff {m : Mask} : m ≠ 0 ↔ ∃ l, l < 32 ∧ m.getLsbD l = true := by
  constructor
  · intro h
    by_contra hn
    push Not at hn
    exact h (BitVec.eq_of_getLsbD_eq fun l hl => by simpa using hn l hl)
  · rintro ⟨l, -, hl⟩ rfl
    simp at hl

theorem lanesOf_eq_filter (m : Mask) : lanesOf m = (List.range 32).filter fun l => m.getLsbD l := rfl

section
variable {l : Nat}

/-- A lane of a predicate, negated or not. -/
theorem Warp.getLsbD_pneg (w : Warp) (a : Nat) (na : Bool) (hl : l < 32) :
    (w.pneg a na).getLsbD l = ((w.pread a).getLsbD l != na) := by
  cases na <;> simp [Warp.pneg, hl]

/-- A guard reads its predicate as a source does (R45). -/
theorem pGuard_eq_pneg (w : Warp) (g : Guard) : pGuard w g = w.pneg g.idx g.neg := rfl

/-- A lane takes part when it is among the word's lanes and its guard holds (R45). -/
theorem getLsbD_takers (c : Issue) (w : Warp) (g : Guard) (hl : l < 32) :
    (takers c w g).getLsbD l = (c.lanes.getLsbD l && ((w.pread g.idx).getLsbD l != g.neg)) := by
  rw [takers, BitVec.getLsbD_and, pGuard_eq_pneg, w.getLsbD_pneg _ _ hl]

theorem getLsbD_allOrNone (q : Bool) (hl : l < 32) : (if q then allLanes else (0 : Mask)).getLsbD l = q := by
  cases q
  · exact BitVec.getLsbD_zero
  · exact BitVec.getLsbD_allOnes.trans (decide_eq_true hl)

/-- `q0` is true, also as a source that is not negated (R6). -/
@[simp] theorem Warp.qneg_zero (w : Warp) : w.qneg 0 false = true := rfl

end

-- The votes, over the lanes `m`.

section
variable (m : Mask) (w : Warp) (a : Nat) (na : Bool)

theorem any_vote_iff :
    (m &&& w.pneg a na != 0) = true ↔ ∃ l, l < 32 ∧ m.getLsbD l = true ∧ ((w.pread a).getLsbD l != na) = true := by
  rw [bne_iff_ne, mask_ne_zero_iff]
  refine exists_congr fun l => and_congr_right fun hl => ?_
  rw [BitVec.getLsbD_and, w.getLsbD_pneg a na hl, Bool.and_eq_true]

/-- All lanes vote for it when none is left that votes against it. -/
theorem all_vote_iff :
    (m &&& ~~~(w.pneg a na) == 0) = true ↔
      ∀ l, l < 32 → m.getLsbD l = true → ((w.pread a).getLsbD l != na) = true := by
  rw [beq_iff_eq, ← not_iff_not, ← ne_eq, mask_ne_zero_iff]
  push Not
  refine exists_congr fun l => and_congr_right fun hl => ?_
  rw [BitVec.getLsbD_and, BitVec.getLsbD_not, w.getLsbD_pneg a na hl]
  simp [hl]

theorem count_vote_eq :
    lanesOf (m &&& w.pneg a na) = (List.range 32).filter fun l => m.getLsbD l && ((w.pread a).getLsbD l != na) := by
  rw [lanesOf_eq_filter]
  refine List.filter_congr fun l hl => ?_
  rw [BitVec.getLsbD_and, w.getLsbD_pneg a na (List.mem_range.1 hl)]

end

-- What a slot of the word in issue does when it has no trap.

section
variable {s : State} {c : Issue} {bl : Block} {w : Warp} {g : Guard} {i : Instr}

/-- With no lane a lane-wise operation sends nothing into flight (R55). -/
theorem laneP_flies (hi : Issuing s c bl w) (ht : s.trapOf c bl w i = none) (f : Issue → Warp → Mask → List Effect) :
    laneP s i g f = .next (if takers c w g = 0 then s else s.fly c 1 (f c w (takers c w g))) := by
  obtain ⟨hc, hb, hw⟩ := hi
  rw [laneP, slotOp_act _ _ hc hb hw ht, State.flyIn]

/-- A vote sends its result into flight whatever lanes take part (R256). -/
theorem voteP_flies (hi : Issuing s c bl w) (ht : s.trapOf c bl w i = none) (f : Issue → Warp → Mask → List Effect) :
    voteP s i g f = .next (s.fly c 1 (f c w (takers c w g))) := by
  obtain ⟨hc, hb, hw⟩ := hi
  rw [voteP, slotOp_act _ _ hc hb hw ht]

theorem uniRes_flies (hi : Issuing s c bl w) (hg : qGuard w g = true) (ht : s.trapOf c bl w i = none)
    (f : Issue → Warp → List Effect) : uniRes s i g f = .next (s.fly c 1 (f c w)) := by
  obtain ⟨hc, hb, hw⟩ := hi
  exact uniRes_act _ _ hc hb hw hg ht

variable (hi : Issuing s c bl w) (d a b : Nat) (na nb : Bool)
include hi

theorem exec_pand_flies : LanesFly s (.pand g d a na b nb) c (takers c w g) 1
    [.preg d (takers c w g) (w.pneg a na &&& w.pneg b nb)] := by
  rw [LanesFly, exec_pand, execPand, laneP_flies hi rfl]

theorem exec_por_flies : LanesFly s (.por g d a na b nb) c (takers c w g) 1
    [.preg d (takers c w g) (w.pneg a na ||| w.pneg b nb)] := by
  rw [LanesFly, exec_por, execPor, laneP_flies hi rfl]

theorem exec_pxor_flies : LanesFly s (.pxor g d a na b nb) c (takers c w g) 1
    [.preg d (takers c w g) (w.pneg a na ^^^ w.pneg b nb)] := by
  rw [LanesFly, exec_pxor, execPxor, laneP_flies hi rfl]

theorem exec_pmov_flies : LanesFly s (.pmov g d a na) c (takers c w g) 1 [.preg d (takers c w g) (w.pneg a na)] := by
  rw [LanesFly, exec_pmov, execPmov, laneP_flies hi rfl]

theorem exec_pset_flies : LanesFly s (.pset g d a na) c (takers c w g) 1
    [.preg d (takers c w g) (if w.qneg a na then allLanes else 0)] := by
  rw [LanesFly, exec_pset, execPset, laneP_flies hi rfl]

theorem exec_vany_flies : Flies s (.vany g d a na) c 1 [.qreg d (takers c w g &&& w.pneg a na != 0)] := by
  rw [Flies, exec_vany, execVany, voteP_flies hi rfl]

theorem exec_vall_flies : Flies s (.vall g d a na) c 1 [.qreg d (takers c w g &&& ~~~(w.pneg a na) == 0)] := by
  rw [Flies, exec_vall, execVall, voteP_flies hi rfl]

theorem exec_vcount_flies : Flies s (.vcount g d a na) c 1
    [.sreg d (BitVec.ofNat 64 (lanesOf (takers c w g &&& w.pneg a na)).length),
     .latch 7 allLanes (splat (BitVec.ofNat 32 (lanesOf (takers c w g &&& w.pneg a na)).length))] := by
  rw [Flies, exec_vcount, execVcount, voteP_flies hi rfl]

variable (hg : qGuard w g = true)
include hg

theorem exec_qand_flies : Flies s (.qand g d a na b nb) c 1 [.qreg d (w.qneg a na && w.qneg b nb)] := by
  rw [Flies, exec_qand, execQand, uniRes_flies hi hg rfl]

theorem exec_qor_flies : Flies s (.qor g d a na b nb) c 1 [.qreg d (w.qneg a na || w.qneg b nb)] := by
  rw [Flies, exec_qor, execQor, uniRes_flies hi hg rfl]

theorem exec_qxor_flies : Flies s (.qxor g d a na b nb) c 1 [.qreg d (w.qneg a na != w.qneg b nb)] := by
  rw [Flies, exec_qxor, execQxor, uniRes_flies hi hg rfl]

end

-- The statement's two parts.

theorem lanePredicates_hold : LanePredicates := by
  intro s c bl w g d a b na nb hi m x y
  have hx : ∀ l, l < 32 → (w.pneg a na).getLsbD l = x l := fun l hl => w.getLsbD_pneg a na hl
  have hy : ∀ l, l < 32 → (w.pneg b nb).getLsbD l = y l := fun l hl => w.getLsbD_pneg b nb hl
  refine ⟨fun l hl => getLsbD_takers c w g hl,
    ⟨_, exec_pand_flies hi d a b na nb, fun l hl => ?pand⟩, ⟨_, exec_por_flies hi d a b na nb, fun l hl => ?por⟩,
    ⟨_, exec_pxor_flies hi d a b na nb, fun l hl => ?pxor⟩, ⟨_, exec_pmov_flies hi d a na, hx⟩,
    ⟨_, exec_pset_flies hi d a na, fun l hl => getLsbD_allOrNone _ hl⟩,
    ⟨_, exec_vany_flies hi d a na, any_vote_iff m w a na⟩, ⟨_, exec_vall_flies hi d a na, all_vote_iff m w a na⟩,
    ⟨_, exec_vcount_flies hi d a na, congrArg List.length (count_vote_eq m w a na)⟩⟩
  case pand => rw [BitVec.getLsbD_and, hx l hl, hy l hl]
  case por => rw [BitVec.getLsbD_or, hx l hl, hy l hl]
  case pxor => rw [BitVec.getLsbD_xor, hx l hl, hy l hl]

theorem warpPredicates_hold : WarpPredicates := by
  intro s c bl w g d a b na nb hi hg
  refine ⟨exec_qand_flies hi d a b na nb hg, exec_qor_flies hi d a b na nb hg, exec_qxor_flies hi d a b na nb hg, ?_⟩
  have copy := exec_qand_flies hi d a 0 na false hg
  rwa [Warp.qneg_zero, Bool.and_true] at copy

/-- Settles O16, slot by slot: the lane-wise operations and the votes, then the operations of warp predicates. -/
theorem predicates : Obligations.Predicates := ⟨lanePredicates_hold, warpPredicates_hold⟩

end Sys2Proof.Machine
end

section
/-! The integer operations of the V slot, its compares and its selects (R55, R264 to R270, R273), and the lanes every V and X operation
writes: a slot's results in flight, each integer operation once for both widths, then the lanes of a result one by one. -/

namespace Sys2Proof.Machine

open Sys2Proof.Claims

/-- The pitch a warp runs on. -/
abbrev State.pitchOf (s : State) (bl : Block) (w : Warp) : Pitch := s.pitch (coreId bl w) w.pitch

-- A lane slot of the word in issue.

section
variable {s : State} {c : Issue} {bl : Block} {w : Warp} {g : Guard} {i : Instr} {lat : Nat}

/-- With no lane a lane slot sends nothing into flight (R55, R56). -/
theorem laneRes_flies (hi : Issuing s c bl w) (ht : s.trapOf c bl w i = none) (f : Issue → Pitch → Warp → Mask → List Effect) :
    laneRes s i g lat f =
      .next (if takers c w g = 0 then s else s.fly c lat (f c (s.pitchOf bl w) w (takers c w g))) := by
  obtain ⟨hc, hb, hw⟩ := hi
  rw [laneRes_act _ _ _ hc hb hw ht, State.flyIn]

theorem lanesFly_of_laneRes (hi : Issuing s c bl w) (ht : s.trapOf c bl w i = none)
    {f : Issue → Pitch → Warp → Mask → List Effect} (he : exec i s = laneRes s i g lat f) :
    LanesFly s i c (takers c w g) lat (f c (s.pitchOf bl w) w (takers c w g)) := by
  rw [LanesFly, he, laneRes_flies hi ht]

end

-- The V and X operations, by the shape of their meanings.

theorem laneEffect_vecEffs (c : Issue) (d : VDst) (m : Mask) (r : Lanes) : ∀ e ∈ vecEffs c d m r, laneEffect m e := by
  cases d <;> simp [vecEffs, laneEffect]

theorem laneEffect_tyEffs (c : Issue) (d : VDst) (m : Mask) (ty : ITy) (r : List Word64) :
    ∀ e ∈ tyEffs c d m ty r, laneEffect m e := by
  unfold tyEffs
  split
  · cases d <;> simp [vecEffs64, laneEffect]
  · exact laneEffect_vecEffs c d m _

theorem laneEffect_predLatch (c : Issue) (pd : Nat) (m p : Mask) (r : Lanes) :
    ∀ e ∈ [Effect.preg pd m p, .latch c.cur.latch m r], laneEffect m e := by
  simp [laneEffect]

/-- `o` sends results into flight at a latency of the V and X slots, with effects in the lanes that take part alone. -/
def AnswersLanes (s : State) (i : Instr) (g : Guard) (o : Host.Outcome State Fault Refusal) : Prop :=
  ∃ lat f, o = laneRes s i g lat f ∧ (lat = 2 ∨ lat = 3 ∨ lat = 4 ∨ lat = 8) ∧ ∀ c p w m, ∀ e ∈ f c p w m, laneEffect m e

section
variable (s : State) (i : Instr) (g : Guard) {lat : Nat} (d : VDst) (a b e : VSrc) (hl : lat = 2 ∨ lat = 3 ∨ lat = 4 ∨ lat = 8)

theorem vInt1_answersLanes (ty : ITy) (sat : Bool) (f : ITy → Word64 → Int) : AnswersLanes s i g (vInt1 s i g d a ty sat f) :=
  ⟨2, _, rfl, by decide, fun _ _ _ _ => laneEffect_tyEffs _ _ _ _ _⟩

theorem v3_answersLanes (f : Word32 → Word32 → Word32 → Word32) : AnswersLanes s i g (v3 s i g d a b e f) :=
  ⟨4, _, rfl, by decide, fun _ _ _ _ => laneEffect_vecEffs _ _ _ _⟩

theorem xMove_answersLanes (src : Issue → Pitch → Warp → Nat → Nat) : AnswersLanes s i g (xMove s i g d a src) :=
  ⟨2, _, rfl, by decide, fun _ _ _ _ => laneEffect_vecEffs _ _ _ _⟩

include hl

theorem vInt2_answersLanes (ty : ITy) (sat : Bool) (f : ITy → Word64 → Word64 → Int) :
    AnswersLanes s i g (vInt2 s i g lat d a b ty sat f) :=
  ⟨lat, _, rfl, hl, fun _ _ _ _ => laneEffect_tyEffs _ _ _ _ _⟩

theorem v1_answersLanes (f : Word32 → Word32) : AnswersLanes s i g (v1 s i g lat d a f) :=
  ⟨lat, _, rfl, hl, fun _ _ _ _ => laneEffect_vecEffs _ _ _ _⟩

theorem v2_answersLanes (f : Word32 → Word32 → Word32) : AnswersLanes s i g (v2 s i g lat d a b f) :=
  ⟨lat, _, rfl, hl, fun _ _ _ _ => laneEffect_vecEffs _ _ _ _⟩

theorem vCmp_answersLanes (pd : Nat) (f : Issue → Pitch → Warp → List Bool) : AnswersLanes s i g (vCmp s i g lat pd f) :=
  ⟨lat, _, rfl, hl, fun _ _ _ _ => laneEffect_predLatch _ _ _ _ _⟩

end

theorem laneSlot_answersLanes (s : State) {i : Instr} {g : Guard} (hg : laneGuard i = some g) : AnswersLanes s i g (exec i s) := by
  cases i with
  | vadd | vsub | vmul | vmulhi | vand | vor | vxor | vshl | vshr | vsar | vmin | vmax =>
    obtain rfl := Option.some.inj hg
    dsimp only [exec]
    exact vInt2_answersLanes _ _ _ _ _ _ (by decide) _ _ _
  | vabs | vneg | vmov | vclz | vpopc =>
    obtain rfl := Option.some.inj hg
    dsimp only [exec]
    exact vInt1_answersLanes _ _ _ _ _ _ _ _
  | fabs | fneg | fclass | frcp | frsq | fexp2 | flog2 | fsin | fcos | ftanh =>
    obtain rfl := Option.some.inj hg
    dsimp only [exec]
    exact v1_answersLanes _ _ _ _ _ (by decide) _
  | fadd | fsub | fmul | fmin | fmax | hadd2 | hmul2 | cvt =>
    obtain rfl := Option.some.inj hg
    dsimp only [exec]
    exact v2_answersLanes _ _ _ _ _ _ (by decide) _
  | fma | hfma2 =>
    obtain rfl := Option.some.inj hg
    dsimp only [exec]
    exact v3_answersLanes _ _ _ _ _ _ _ _
  | vcmp | fcmp =>
    obtain rfl := Option.some.inj hg
    dsimp only [exec]
    exact vCmp_answersLanes _ _ _ (by decide) _ _
  | xchg | xrot | xbcast | xidx =>
    obtain rfl := Option.some.inj hg
    dsimp only [exec]
    exact xMove_answersLanes _ _ _ _ _ _
  | vmad =>
    obtain rfl := Option.some.inj hg
    dsimp only [exec]
    exact ⟨3, _, rfl, by decide, fun _ _ _ _ => laneEffect_tyEffs _ _ _ _ _⟩
  | vsel | vli | xscan | xred =>
    obtain rfl := Option.some.inj hg
    dsimp only [exec]
    exact ⟨2, _, rfl, by decide, fun _ _ _ _ => laneEffect_vecEffs _ _ _ _⟩
  | _ => cases hg

theorem laneSlot_trapOf (s : State) (c : Issue) (bl : Block) (w : Warp) {i : Instr} {g : Guard} (hg : laneGuard i = some g) :
    s.trapOf c bl w i = none := by
  cases i with
  | srd | swr | bxfer | bcall | trap | hret | hretSkip | bar | exit | pwacq | mtrd | mtck | mpush | melse | mpop | regroup | ungroup
  | mspill | mfill | probe | stc | ldas | mmac | mstore | mload | cpy | cpym | coll => cases hg
  | _ => rfl

theorem vectorsOnlyWriteLanes_holds : VectorsOnlyWriteLanes := by
  intro s c bl w i g hi hg
  obtain ⟨lat, f, he, hlat, hf⟩ := laneSlot_answersLanes s hg
  exact ⟨lat, _, lanesFly_of_laneRes hi (laneSlot_trapOf s c bl w hg) he, hlat, hf _ _ _ _⟩

-- Lists and masks indexed by lanes.

theorem getElem?_laneMap {α : Type} (f : Nat → α) {l : Nat} (hl : l < 32) : (laneList.map f)[l]? = some (f l) := by
  rw [show laneList = List.range 32 from rfl, List.getElem?_map, List.getElem?_range hl, Option.map_some]

/-- A result of two operands in a lane that both have. -/
theorem getElem?_zipWith_eq_bind {α β γ : Type} (f : α → β → γ) (xs : List α) (ys : List β) (l : Nat) :
    (List.zipWith f xs ys)[l]? = (xs[l]?).bind fun x => (ys[l]?).map fun y => f x y := by
  rw [List.getElem?_zipWith', Option.bind_map]
  rfl

theorem getD_of_getElem?_some {α : Type} {xs : List α} {l : Nat} {x a : α} (hx : xs[l]? = some x) : xs.getD l a = x := by
  rw [List.getD_eq_getElem?_getD, hx, Option.getD_some]

/-- The number whose bit `l`, for `l < n`, is `f l`. -/
def bitSum (f : Nat → Bool) (n : Nat) : Nat := ((List.range n).map fun l => if f l then 2 ^ l else 0).sum

theorem bitSum_succ (f : Nat → Bool) (n : Nat) : bitSum f (n + 1) = (if f n then 2 ^ n else 0) + bitSum f n := by
  simp [bitSum, List.range_succ, Nat.add_comm]

theorem bitSum_lt (f : Nat → Bool) (n : Nat) : bitSum f n < 2 ^ n := by
  induction n with
  | zero => exact Nat.one_pos
  | succ n ih => rw [bitSum_succ, pow_succ]; split <;> omega

theorem testBit_bitSum (f : Nat → Bool) {l n : Nat} (hl : l < n) : (bitSum f n).testBit l = f l := by
  induction n with
  | zero => omega
  | succ n ih =>
    rw [bitSum_succ]
    obtain hn | rfl := Nat.lt_succ_iff_lt_or_eq.1 hl
    · split
      · rw [Nat.testBit_two_pow_add_gt hn, ih hn]
      · rw [Nat.zero_add, ih hn]
    · have top : (bitSum f l).testBit l = false := Nat.testBit_lt_two_pow (bitSum_lt f l)
      split <;> rename_i h
      · rw [Nat.testBit_two_pow_add_eq, top, h, Bool.not_false]
      · rw [Nat.zero_add, top, Bool.eq_false_of_not_eq_true h]

theorem getLsbD_maskOf (f : Nat → Bool) {l : Nat} (hl : l < 32) : (maskOf f).getLsbD l = f l := by
  rw [show maskOf f = BitVec.ofNat 32 (bitSum f 32) from rfl, BitVec.getLsbD_ofNat, testBit_bitSum f hl]
  simp [hl]

-- A value of W bits in the 64 bits the integer operations work on.

/-- The exact integer a type reads a value of any width as (R267). -/
def exactVal {n : Nat} (ty : ITy) (x : BitVec n) : Int := if ty.isSigned then x.toInt else x.toNat

section
variable {n : Nat} {ty : ITy}

theorem width_narrow (h : ty.is64 = false) : ty.width = 32 := by simp [ITy.width, h]
theorem width_wide (h : ty.is64 = true) : ty.width = 64 := by simp [ITy.width, h]

theorem isSigned_narrow (h : ty.is64 = false) : ty.isSigned = decide (ty = .i32) := by
  cases ty with
  | i32 | n32 => rfl
  | i64 | n64 => cases h

theorem isSigned_wide (h : ty.is64 = true) : ty.isSigned = decide (ty = .i64) := by
  cases ty with
  | i64 | n64 => rfl
  | i32 | n32 => cases h

theorem ofInt_toNat (x : BitVec n) : BitVec.ofInt n x.toNat = x := by
  rw [BitVec.ofInt_natCast, BitVec.ofNat_toNat, BitVec.setWidth_eq]

theorem ofInt_exactVal (x : BitVec n) : BitVec.ofInt n (exactVal ty x) = x := by
  unfold exactVal
  split
  · exact BitVec.ofInt_toInt
  · exact ofInt_toNat x

theorem exactVal_lt_iff {x y : BitVec n} :
    exactVal ty x < exactVal ty y ↔ (if ty.isSigned then x.slt y else x.ult y) = true := by
  unfold exactVal
  split
  · exact BitVec.slt_iff_toInt_lt.symm
  · rw [Int.ofNat_lt, BitVec.ult_iff_lt, BitVec.lt_def]

theorem setWidth_ofInt_64 (hn : n ≤ 64) (k : Int) : (BitVec.ofInt 64 k).setWidth n = BitVec.ofInt n k := by
  apply BitVec.eq_of_toNat_eq
  have hd : ((2 ^ n : Nat) : Int) ∣ (2 ^ 64 : Nat) := Int.natCast_dvd_natCast.2 (Nat.pow_dvd_pow 2 hn)
  rw [BitVec.toNat_setWidth, BitVec.toNat_ofInt, BitVec.toNat_ofInt, ← Int.emod_emod_of_dvd k hd,
    Int.toNat_emod (Int.emod_nonneg k (by decide)) (Int.natCast_nonneg _), Int.toNat_natCast]

theorem tyInt_eq_exactVal (ty : ITy) (x : Word64) :
    tyInt ty x = if ty.is64 then exactVal ty x else exactVal ty (x.setWidth 32) := by
  cases ty <;> rfl

variable (hw : ty.width = n)
include hw

theorem width_cases : ty.is64 = true ∧ n = 64 ∨ ty.is64 = false ∧ n = 32 := by
  subst hw
  cases h : ty.is64 with
  | true => exact .inl ⟨rfl, width_wide h⟩
  | false => exact .inr ⟨rfl, width_narrow h⟩

theorem width_le_64 : n ≤ 64 := by
  rcases width_cases hw with ⟨-, rfl⟩ | ⟨-, rfl⟩ <;> decide

theorem setWidth_setWidth_64 (x : BitVec n) : (x.setWidth 64).setWidth n = x := by
  rw [BitVec.setWidth_setWidth_of_le _ (width_le_64 hw), BitVec.setWidth_eq]

theorem tyInt_setWidth (x : BitVec n) : tyInt ty (x.setWidth 64) = exactVal ty x := by
  rw [tyInt_eq_exactVal]
  obtain ⟨h, rfl⟩ | ⟨h, rfl⟩ := width_cases hw
  · rw [if_pos h, BitVec.setWidth_eq]
  · rw [if_neg (by simp [h]), setWidth_setWidth_64 hw]

theorem tyTwos_setWidth (x : BitVec n) : tyTwos ty (x.setWidth 64) = x.toInt := by
  rw [tyTwos]
  obtain ⟨h, rfl⟩ | ⟨h, rfl⟩ := width_cases hw
  · rw [if_pos h, BitVec.setWidth_eq]
  · rw [if_neg (by simp [h]), setWidth_setWidth_64 hw]

theorem tyNat_setWidth (x : BitVec n) : tyNat ty (x.setWidth 64) = x.toNat := by
  rw [tyNat, hw, BitVec.toNat_setWidth_of_le (width_le_64 hw), Nat.mod_eq_of_lt x.isLt]

theorem shAmount_setWidth (x : BitVec n) : shAmount ty (x.setWidth 64) = x.toNat % n := by
  rw [shAmount, hw, BitVec.toNat_setWidth_of_le (width_le_64 hw)]

theorem vResult_wraps (k : Int) : (vResult ty false k).setWidth n = BitVec.ofInt n k :=
  setWidth_ofInt_64 (width_le_64 hw) k

end

/-- The lowest and the highest value of a type. -/
def TyRange (ty : ITy) (lo hi : Int) : Prop := tyMin ty = lo ∧ tyMax ty = hi

theorem tyRange_i32 : TyRange .i32 (-2147483648) 2147483647 := ⟨by decide, by decide⟩
theorem tyRange_n32 : TyRange .n32 0 4294967295 := ⟨by decide, by decide⟩
theorem tyRange_i64 : TyRange .i64 (-2 ^ 63) (2 ^ 63 - 1) := ⟨rfl, rfl⟩
theorem tyRange_n64 : TyRange .n64 0 (2 ^ 64 - 1) := ⟨rfl, rfl⟩

theorem tyMin_le_tyMax (ty : ITy) : tyMin ty ≤ tyMax ty := by cases ty <;> decide

theorem tyClamp_eq_ite {ty : ITy} {lo hi : Int} (hr : TyRange ty lo hi) (k : Int) :
    tyClamp ty k = if k < lo then lo else if hi < k then hi else k := by
  obtain ⟨rfl, rfl⟩ := hr
  have := tyMin_le_tyMax ty
  rw [tyClamp]
  split_ifs <;> omega

theorem vResult_clamps {n : Nat} {ty : ITy} {lo hi : Int} (hw : ty.width = n) (hr : TyRange ty lo hi) (k : Int) :
    (vResult ty true k).setWidth n = BitVec.ofInt n (if k < lo then lo else if hi < k then hi else k) := by
  rw [← tyClamp_eq_ite hr]
  exact setWidth_ofInt_64 (width_le_64 hw) _

-- What each integer operation delivers at its width.

/-- At width `n` an operation of one, two or three sources delivers `h` of its operands. -/
def Computes1 {n : Nat} (ty : ITy) (sat : Bool) (f : ITy → Word64 → Int) (h : BitVec n → BitVec n) : Prop :=
  ∀ x : BitVec n, (vResult ty sat (f ty (x.setWidth 64))).setWidth n = h x
def Computes2 {n : Nat} (ty : ITy) (sat : Bool) (f : ITy → Word64 → Word64 → Int) (h : BitVec n → BitVec n → BitVec n) : Prop :=
  ∀ x y : BitVec n, (vResult ty sat (f ty (x.setWidth 64) (y.setWidth 64))).setWidth n = h x y
def Computes3 {n : Nat} (ty : ITy) (sat : Bool) (f : ITy → Word64 → Word64 → Word64 → Int)
    (h : BitVec n → BitVec n → BitVec n → BitVec n) : Prop :=
  ∀ x y z : BitVec n, (vResult ty sat (f ty (x.setWidth 64) (y.setWidth 64) (z.setWidth 64))).setWidth n = h x y z

/-- The exact results of `vabs`, `vneg` and `vmad`. -/
def vAbsExact (ty : ITy) (x : Word64) : Int := ((tyInt ty x).natAbs : Int)
def vNegExact (ty : ITy) (x : Word64) : Int := -tyInt ty x
def vMadExact (ty : ITy) (x y z : Word64) : Int := tyInt ty x * tyInt ty y + tyInt ty z

section
variable {n : Nat} {ty : ITy} (hw : ty.width = n) (x y z : BitVec n)
include hw

theorem sAdd_setWidth : sAdd ty (x.setWidth 64) (y.setWidth 64) = exactVal ty x + exactVal ty y := by
  rw [sAdd, tyInt_setWidth hw, tyInt_setWidth hw]

theorem sSub_setWidth : sSub ty (x.setWidth 64) (y.setWidth 64) = exactVal ty x - exactVal ty y := by
  rw [sSub, tyInt_setWidth hw, tyInt_setWidth hw]

theorem sMul_setWidth : sMul ty (x.setWidth 64) (y.setWidth 64) = exactVal ty x * exactVal ty y := by
  rw [sMul, tyInt_setWidth hw, tyInt_setWidth hw]

theorem sMulhi_setWidth : sMulhi ty (x.setWidth 64) (y.setWidth 64) = exactVal ty x * exactVal ty y / 2 ^ n := by
  rw [sMulhi, tyInt_setWidth hw, tyInt_setWidth hw, hw]

theorem vMadExact_setWidth :
    vMadExact ty (x.setWidth 64) (y.setWidth 64) (z.setWidth 64) = exactVal ty x * exactVal ty y + exactVal ty z := by
  rw [vMadExact, tyInt_setWidth hw, tyInt_setWidth hw, tyInt_setWidth hw]

theorem vAbsExact_setWidth : vAbsExact ty (x.setWidth 64) = (exactVal ty x).natAbs := by
  rw [vAbsExact, tyInt_setWidth hw]

theorem vNegExact_setWidth : vNegExact ty (x.setWidth 64) = -exactVal ty x := by
  rw [vNegExact, tyInt_setWidth hw]

end

section
variable {n : Nat} {ty : ITy} (hw : ty.width = n)
include hw

-- Wrapping.

theorem sAdd_wraps : Computes2 (n := n) ty false sAdd fun x y => x + y := fun x y => by
  rw [vResult_wraps hw, sAdd_setWidth hw, BitVec.ofInt_add, ofInt_exactVal, ofInt_exactVal]

theorem sSub_wraps : Computes2 (n := n) ty false sSub fun x y => x - y := fun x y => by
  rw [vResult_wraps hw, sSub_setWidth hw, Int.sub_eq_add_neg, BitVec.ofInt_add, BitVec.ofInt_neg, ofInt_exactVal, ofInt_exactVal]
  exact (BitVec.sub_eq_add_neg x y).symm

theorem sMul_wraps : Computes2 (n := n) ty false sMul fun x y => x * y := fun x y => by
  rw [vResult_wraps hw, sMul_setWidth hw, BitVec.ofInt_mul, ofInt_exactVal, ofInt_exactVal]

theorem vMadExact_wraps : Computes3 (n := n) ty false vMadExact fun x y z => x * y + z := fun x y z => by
  rw [vResult_wraps hw, vMadExact_setWidth hw, BitVec.ofInt_add, BitVec.ofInt_mul, ofInt_exactVal, ofInt_exactVal, ofInt_exactVal]

theorem vNegExact_wraps : Computes1 (n := n) ty false vNegExact fun x => -x := fun x => by
  rw [vResult_wraps hw, vNegExact_setWidth hw, BitVec.ofInt_neg, ofInt_exactVal]

theorem tyInt_wraps : Computes1 (n := n) ty false tyInt fun x => x := fun x => by
  rw [vResult_wraps hw, tyInt_setWidth hw, ofInt_exactVal]

/-- `vabs` is stated for signed types: no operand of an unsigned type is negative. -/
theorem vAbsExact_wraps (hs : ty.isSigned = true) :
    Computes1 (n := n) ty false vAbsExact fun x => if x.slt 0 then -x else x := fun x => by
  have hneg : x.slt 0 = true ↔ exactVal ty x < 0 := by
    rw [BitVec.slt_iff_toInt_lt, exactVal, if_pos hs]
    exact iff_of_eq (congrArg _ BitVec.toInt_zero)
  rw [vResult_wraps hw, vAbsExact_setWidth hw]
  show _ = if x.slt 0 then -x else x
  split <;> rename_i h
  · rw [Int.ofNat_natAbs_of_nonpos (hneg.1 h).le, BitVec.ofInt_neg, ofInt_exactVal]
  · rw [Int.natAbs_of_nonneg (not_lt.1 (mt hneg.2 h)), ofInt_exactVal]

theorem sAnd_wraps : Computes2 (n := n) ty false sAnd fun x y => x &&& y := fun x y => by
  rw [vResult_wraps hw, sAnd, ← BitVec.setWidth_and, tyNat_setWidth hw, ofInt_toNat]

theorem sOr_wraps : Computes2 (n := n) ty false sOr fun x y => x ||| y := fun x y => by
  rw [vResult_wraps hw, sOr, ← BitVec.setWidth_or, tyNat_setWidth hw, ofInt_toNat]

theorem sXor_wraps : Computes2 (n := n) ty false sXor fun x y => x ^^^ y := fun x y => by
  rw [vResult_wraps hw, sXor, ← BitVec.setWidth_xor, tyNat_setWidth hw, ofInt_toNat]

theorem sShl_wraps : Computes2 (n := n) ty false sShl fun x y => x <<< (y.toNat % n) := fun x y => by
  rw [vResult_wraps hw, sShl, tyNat_setWidth hw, shAmount_setWidth hw]
  apply BitVec.eq_of_toNat_eq
  rw [BitVec.toNat_shiftLeft, Nat.shiftLeft_eq, ← BitVec.toNat_ofNat, ← BitVec.ofInt_natCast]
  push_cast
  rfl

theorem sShr_wraps : Computes2 (n := n) ty false sShr fun x y => x >>> (y.toNat % n) := fun x y => by
  rw [vResult_wraps hw, sShr, tyNat_setWidth hw, shAmount_setWidth hw]
  have hr : ((x.toNat : Int) / 2 ^ (y.toNat % n)) = (x >>> (y.toNat % n)).toNat := by
    rw [BitVec.toNat_ushiftRight, Nat.shiftRight_eq_div_pow]
    push_cast
    rfl
  rw [hr, ofInt_toNat]

theorem sSar_wraps : Computes2 (n := n) ty false sSar fun x y => x.sshiftRight (y.toNat % n) := fun x y => by
  rw [vResult_wraps hw, sSar, tyTwos_setWidth hw, shAmount_setWidth hw]
  show _ = x.sshiftRight (y.toNat % n)
  rw [BitVec.sshiftRight_eq, Int.shiftRight_eq_div_pow]
  push_cast
  rfl

theorem sMin_wraps {signed : Bool} (hs : ty.isSigned = signed) : Computes2 (n := n) ty false sMin
    fun x y => if (if signed then y.slt x else y.ult x) then y else x := fun x y => by
  subst hs
  rw [vResult_wraps hw, sMin, tyInt_setWidth hw, tyInt_setWidth hw, min_comm, min_def_lt, apply_ite (BitVec.ofInt n),
    ofInt_exactVal, ofInt_exactVal]
  exact if_congr exactVal_lt_iff rfl rfl

theorem sMax_wraps {signed : Bool} (hs : ty.isSigned = signed) : Computes2 (n := n) ty false sMax
    fun x y => if (if signed then x.slt y else x.ult y) then y else x := fun x y => by
  subst hs
  rw [vResult_wraps hw, sMax, tyInt_setWidth hw, tyInt_setWidth hw, max_def_lt, apply_ite (BitVec.ofInt n),
    ofInt_exactVal, ofInt_exactVal]
  exact if_congr exactVal_lt_iff rfl rfl

theorem sMulhi_wraps : Computes2 (n := n) ty false sMulhi
    fun x y => BitVec.ofInt n (exactVal ty x * exactVal ty y / 2 ^ n) := fun x y => by
  rw [vResult_wraps hw, sMulhi_setWidth hw]

-- Clamping.

variable {lo hi : Int} (hr : TyRange ty lo hi)
include hr

theorem computes1_clamped {f : ITy → Word64 → Int} {e : BitVec n → Int} (hf : ∀ x, f ty (x.setWidth 64) = e x) :
    Computes1 ty true f fun x => BitVec.ofInt n (if e x < lo then lo else if hi < e x then hi else e x) := fun x => by
  rw [vResult_clamps hw hr, hf]

theorem computes2_clamped {f : ITy → Word64 → Word64 → Int} {e : BitVec n → BitVec n → Int}
    (hf : ∀ x y, f ty (x.setWidth 64) (y.setWidth 64) = e x y) :
    Computes2 ty true f fun x y => BitVec.ofInt n (if e x y < lo then lo else if hi < e x y then hi else e x y) := fun x y => by
  rw [vResult_clamps hw hr, hf]

theorem computes3_clamped {f : ITy → Word64 → Word64 → Word64 → Int} {e : BitVec n → BitVec n → BitVec n → Int}
    (hf : ∀ x y z, f ty (x.setWidth 64) (y.setWidth 64) (z.setWidth 64) = e x y z) :
    Computes3 ty true f fun x y z => BitVec.ofInt n (if e x y z < lo then lo else if hi < e x y z then hi else e x y z) :=
  fun x y z => by rw [vResult_clamps hw hr, hf]

end

-- `vclz` and `vpopc`.

theorem clz32_bounds (v : Word32) :
    clz32 v ≤ 32 ∧ v.toNat < 2 ^ (32 - clz32 v) ∧ (clz32 v < 32 → 2 ^ (31 - clz32 v) ≤ v.toNat) := by
  rw [clz32]
  split
  next h => subst h; decide
  next h =>
    have hv : v.toNat ≠ 0 := fun h0 => h (BitVec.eq_of_toNat_eq h0)
    have top : v.toNat.log2 < 32 := (Nat.log2_lt hv).2 v.isLt
    have e32 : 32 - (31 - v.toNat.log2) = v.toNat.log2 + 1 := by omega
    have e31 : 31 - (31 - v.toNat.log2) = v.toNat.log2 := by omega
    rw [e32, e31]
    exact ⟨by omega, Nat.lt_log2_self, fun _ => Nat.log2_self_le hv⟩

/-- The counts read the low half, which at 32 bits is the operand. -/
theorem count_wraps {ty : ITy} (hw : ty.width = 32) (k : Word32 → Nat) :
    Computes1 ty false (fun _ x => (k (low32 x) : Int)) fun x : Word32 => BitVec.ofNat 32 (k x) := fun x => by
  rw [vResult_wraps hw, BitVec.ofInt_natCast, low32, setWidth_setWidth_64 hw]

-- The lanes of a result.

section
variable {s : State} {c : Issue} {bl : Block} {w : Warp} {g : Guard} {i : Instr} {lat : Nat} {d : VDst} {a b e : VSrc} {ty : ITy}
  {sat : Bool} {f : Issue → Pitch → Warp → Mask → List Effect}

theorem vWrites_of_laneRes (hi : Issuing s c bl w) (ht : s.trapOf c bl w i = none) (he : exec i s = laneRes s i g lat f) {r : Lanes}
    (hf : f c (s.pitchOf bl w) w (takers c w g) = vecEffs c d (takers c w g) r) :
    VWrites s i c d (takers c w g) lat r := by
  have h := lanesFly_of_laneRes hi ht he
  rw [hf] at h
  cases d <;> exact h

theorem vWrites64_of_laneRes (hi : Issuing s c bl w) (ht : s.trapOf c bl w i = none) (he : exec i s = laneRes s i g lat f)
    {r : List Word64} (hf : f c (s.pitchOf bl w) w (takers c w g) = vecEffs64 c d (takers c w g) r) :
    VWrites64 s i c d (takers c w g) lat r := by
  have h := lanesFly_of_laneRes hi ht he
  rw [hf] at h
  cases d <;> exact h

end

section
variable {ty : ITy}

theorem tyEffs_narrow (h : ty.is64 = false) (c : Issue) (d : VDst) (m : Mask) (r : List Word64) :
    tyEffs c d m ty r = vecEffs c d m (r.map low32) := by simp [tyEffs, h]
theorem tyEffs_wide (h : ty.is64 = true) (c : Issue) (d : VDst) (m : Mask) (r : List Word64) :
    tyEffs c d m ty r = vecEffs64 c d m r := by simp [tyEffs, h]
theorem vOperand_narrow (h : ty.is64 = false) (p : Pitch) (c : Issue) (w : Warp) (a : VSrc) :
    vOperand p c w ty a = (a.lanes p c w).map fun x => x.setWidth 64 := by simp [vOperand, h]
theorem vOperand_wide (h : ty.is64 = true) (p : Pitch) (c : Issue) (w : Warp) (a : VSrc) :
    vOperand p c w ty a = a.lanes64 p c w := by simp [vOperand, h]

end

section
variable {s : State} {c : Issue} {bl : Block} {w : Warp} {g : Guard} {i : Instr} {lat : Nat} {d : VDst} {a b e : VSrc} {ty : ITy}
  {sat : Bool} (hi : Issuing s c bl w)
include hi

theorem gives1_of_vInt1 (h : ty.is64 = false) {f : ITy → Word64 → Int} {k : Word32 → Word32} (hk : Computes1 ty sat f k)
    (ht : s.trapOf c bl w i = none) (he : exec i s = vInt1 s i g d a ty sat f) :
    Gives1 s i c d (takers c w g) 2 (a.lanes (s.pitchOf bl w) c w) k := by
  refine ⟨_, vWrites_of_laneRes hi ht he (tyEffs_narrow h c d _ _), fun l x hx => ?_⟩
  simp only [vOperand_narrow h, List.getElem?_map, hx, Option.map_some]
  exact congrArg some (hk x)

theorem gives2_of_vInt2 (h : ty.is64 = false) {f : ITy → Word64 → Word64 → Int} {k : Word32 → Word32 → Word32}
    (hk : Computes2 ty sat f k) (ht : s.trapOf c bl w i = none) (he : exec i s = vInt2 s i g lat d a b ty sat f) :
    Gives2 s i c d (takers c w g) lat (a.lanes (s.pitchOf bl w) c w) (b.lanes (s.pitchOf bl w) c w) k := by
  refine ⟨_, vWrites_of_laneRes hi ht he (tyEffs_narrow h c d _ _), fun l x y hx hy => ?_⟩
  simp only [vOperand_narrow h, List.getElem?_map, getElem?_zipWith_eq_bind, hx, hy, Option.map_some, Option.bind_some]
  exact congrArg some (hk x y)

theorem gives3_of_vmad (h : ty.is64 = false) {k : Word32 → Word32 → Word32 → Word32} (hk : Computes3 ty sat vMadExact k) :
    Gives3 s (.vmad g d a b e ty sat) c d (takers c w g) 3 (a.lanes (s.pitchOf bl w) c w)
      (b.lanes (s.pitchOf bl w) c w) (e.lanes (s.pitchOf bl w) c w) k := by
  have he : exec (.vmad g d a b e ty sat) s = execVmad g d a b e ty sat s := rfl
  refine ⟨_, vWrites_of_laneRes hi rfl he (tyEffs_narrow h c d _ _), fun l x y z hx hy hz => ?_⟩
  simp only [vOperand_narrow h, List.getElem?_map, List.zip_eq_zipWith, getElem?_zipWith_eq_bind, hx, hy, hz, Option.map_some,
    Option.bind_some]
  exact congrArg some (hk x y z)

theorem gives64One_of_vInt1 (h : ty.is64 = true) {f : ITy → Word64 → Int} {k : Word64 → Word64} (hk : Computes1 ty sat f k)
    (ht : s.trapOf c bl w i = none) (he : exec i s = vInt1 s i g d a ty sat f) :
    Gives64One s i c d (takers c w g) (a.lanes64 (s.pitchOf bl w) c w) k := by
  refine ⟨_, vWrites64_of_laneRes hi ht he (tyEffs_wide h c d _ _), fun l x hx => ?_⟩
  simp only [vOperand_wide h, List.getElem?_map, hx, Option.map_some, ← hk x, BitVec.setWidth_eq]

theorem gives64_of_vInt2 (h : ty.is64 = true) {f : ITy → Word64 → Word64 → Int} {k : Word64 → Word64 → Word64}
    (hk : Computes2 ty sat f k) (ht : s.trapOf c bl w i = none) (he : exec i s = vInt2 s i g lat d a b ty sat f) :
    Gives64 s i c d (takers c w g) lat (a.lanes64 (s.pitchOf bl w) c w)
      (b.lanes64 (s.pitchOf bl w) c w) k := by
  refine ⟨_, vWrites64_of_laneRes hi ht he (tyEffs_wide h c d _ _), fun l x y hx hy => ?_⟩
  simp only [vOperand_wide h, getElem?_zipWith_eq_bind, hx, hy, Option.map_some, Option.bind_some, ← hk x y, BitVec.setWidth_eq]

/-- A compare whose result in lane `l` is `q l`, where both operands have that lane. -/
theorem givesPred_of_vCmp {pd : Nat} {f : Issue → Pitch → Warp → List Bool} {q : Nat → Option Bool}
    (ht : s.trapOf c bl w i = none) (he : exec i s = vCmp s i g lat pd f)
    (hq : ∀ l, (f c (s.pitchOf bl w) w)[l]? = q l) : GivesPred s i c pd (takers c w g) lat q := by
  refine ⟨_, _, lanesFly_of_laneRes hi ht he, fun l r hl hr => ?_⟩
  have hlane := (hq l).trans hr
  exact ⟨by rw [getLsbD_maskOf _ hl, getD_of_getElem?_some hlane], by rw [List.getElem?_map, hlane, Option.map_some]⟩

end

-- The statement's parts.

theorem vectorInteger32_holds : VectorInteger32 := by
  intro s c bl w g d a b e ty hi h m p x y z signed
  have hw := width_narrow h
  have hs : ty.isSigned = signed := isSigned_narrow h
  exact ⟨gives2_of_vInt2 hi h (sAdd_wraps hw) rfl rfl, gives2_of_vInt2 hi h (sSub_wraps hw) rfl rfl,
    gives2_of_vInt2 hi h (sMul_wraps hw) rfl rfl, gives2_of_vInt2 hi rfl (sMulhi_wraps rfl) rfl rfl,
    gives2_of_vInt2 hi rfl (sMulhi_wraps rfl) rfl rfl,
    gives3_of_vmad hi h (vMadExact_wraps hw), gives2_of_vInt2 hi h (sAnd_wraps hw) rfl rfl,
    gives2_of_vInt2 hi h (sOr_wraps hw) rfl rfl, gives2_of_vInt2 hi h (sXor_wraps hw) rfl rfl,
    gives2_of_vInt2 hi h (sShl_wraps hw) rfl rfl, gives2_of_vInt2 hi h (sShr_wraps hw) rfl rfl,
    gives2_of_vInt2 hi h (sSar_wraps hw) rfl rfl, gives2_of_vInt2 hi h (sMin_wraps hw hs) rfl rfl,
    gives2_of_vInt2 hi h (sMax_wraps hw hs) rfl rfl, gives1_of_vInt1 hi rfl (vAbsExact_wraps rfl rfl) rfl rfl,
    gives1_of_vInt1 hi h (vNegExact_wraps hw) rfl rfl, gives1_of_vInt1 hi h (tyInt_wraps hw) rfl rfl,
    gives1_of_vInt1 hi h (count_wraps hw popc32) rfl rfl, clz32, gives1_of_vInt1 hi h (count_wraps hw clz32) rfl rfl, clz32_bounds⟩

theorem vectorSaturates_holds : VectorSaturates := by
  intro s c bl w g d a b e hi m p x y z clamp clampN x6 y6 clamp6 clampN6
  exact ⟨gives2_of_vInt2 hi rfl (computes2_clamped rfl tyRange_i32 (sAdd_setWidth rfl)) rfl rfl,
    gives2_of_vInt2 hi rfl (computes2_clamped rfl tyRange_n32 (sAdd_setWidth rfl)) rfl rfl,
    gives2_of_vInt2 hi rfl (computes2_clamped rfl tyRange_i32 (sSub_setWidth rfl)) rfl rfl,
    gives2_of_vInt2 hi rfl (computes2_clamped rfl tyRange_n32 (sSub_setWidth rfl)) rfl rfl,
    gives2_of_vInt2 hi rfl (computes2_clamped rfl tyRange_i32 (sMul_setWidth rfl)) rfl rfl,
    gives2_of_vInt2 hi rfl (computes2_clamped rfl tyRange_n32 (sMul_setWidth rfl)) rfl rfl,
    gives3_of_vmad hi rfl (computes3_clamped rfl tyRange_i32 (vMadExact_setWidth rfl)),
    gives1_of_vInt1 hi rfl (computes1_clamped rfl tyRange_i32 (vAbsExact_setWidth rfl)) rfl rfl,
    gives1_of_vInt1 hi rfl (computes1_clamped rfl tyRange_i32 (vNegExact_setWidth rfl)) rfl rfl,
    gives3_of_vmad hi rfl (computes3_clamped rfl tyRange_n32 (vMadExact_setWidth rfl)),
    gives64_of_vInt2 hi rfl (computes2_clamped rfl tyRange_i64 (sAdd_setWidth rfl)) rfl rfl,
    gives64_of_vInt2 hi rfl (computes2_clamped rfl tyRange_n64 (sAdd_setWidth rfl)) rfl rfl,
    gives64_of_vInt2 hi rfl (computes2_clamped rfl tyRange_i64 (sSub_setWidth rfl)) rfl rfl,
    gives64_of_vInt2 hi rfl (computes2_clamped rfl tyRange_n64 (sSub_setWidth rfl)) rfl rfl,
    gives64_of_vInt2 hi rfl (computes2_clamped rfl tyRange_i64 (sMul_setWidth rfl)) rfl rfl,
    gives64_of_vInt2 hi rfl (computes2_clamped rfl tyRange_n64 (sMul_setWidth rfl)) rfl rfl,
    gives64One_of_vInt1 hi rfl (computes1_clamped rfl tyRange_i64 (vAbsExact_setWidth rfl)) rfl rfl,
    gives64One_of_vInt1 hi rfl (computes1_clamped rfl tyRange_i64 (vNegExact_setWidth rfl)) rfl rfl⟩

theorem vectorInteger64_holds : VectorInteger64 := by
  intro s c bl w g d a b ty hi h m p x y signed
  have hw := width_wide h
  have hs : ty.isSigned = signed := isSigned_wide h
  exact ⟨gives64_of_vInt2 hi h (sAdd_wraps hw) rfl rfl, gives64_of_vInt2 hi h (sSub_wraps hw) rfl rfl,
    gives64_of_vInt2 hi h (sMul_wraps hw) rfl rfl, gives64_of_vInt2 hi h (sAnd_wraps hw) rfl rfl,
    gives64_of_vInt2 hi h (sOr_wraps hw) rfl rfl, gives64_of_vInt2 hi h (sXor_wraps hw) rfl rfl,
    gives64_of_vInt2 hi h (sShl_wraps hw) rfl rfl, gives64_of_vInt2 hi h (sShr_wraps hw) rfl rfl,
    gives64_of_vInt2 hi h (sSar_wraps hw) rfl rfl, gives64_of_vInt2 hi h (sMin_wraps hw hs) rfl rfl,
    gives64_of_vInt2 hi h (sMax_wraps hw hs) rfl rfl, gives64One_of_vInt1 hi h (tyInt_wraps hw) rfl rfl,
    gives64One_of_vInt1 hi rfl (vAbsExact_wraps rfl rfl) rfl rfl, gives64One_of_vInt1 hi rfl (vNegExact_wraps rfl) rfl rfl,
    fun n l hl => getElem?_laneMap (fun l => join64 ((w.vread n).getD l 0) ((w.vread (n + 1)).getD l 0)) hl⟩

section
variable {s : State} {c : Issue} {bl : Block} {w : Warp} {g : Guard} (hi : Issuing s c bl w) (pd : Nat) (a b : VSrc) (cc : Cc)
include hi

theorem vcmp_narrow_gives {ty : ITy} (h : ty.is64 = false) :
    GivesPred s (.vcmp g pd a b ty cc) c pd (takers c w g) 2 fun l =>
      ((a.lanes (s.pitchOf bl w) c w)[l]?).bind fun u =>
        ((b.lanes (s.pitchOf bl w) c w)[l]?).map fun v => ccInt cc (exactVal ty u) (exactVal ty v) := by
  have he : exec (.vcmp g pd a b ty cc) s = execVcmp g pd a b ty cc s := rfl
  refine givesPred_of_vCmp hi rfl he fun l => ?_
  simp only [vOperand_narrow h, List.zipWith_map, tyInt_setWidth (width_narrow h)]
  exact getElem?_zipWith_eq_bind _ _ _ l

theorem vcmp_wide_gives {ty : ITy} (h : ty.is64 = true) :
    GivesPred s (.vcmp g pd a b ty cc) c pd (takers c w g) 2 fun l =>
      ((a.lanes64 (s.pitchOf bl w) c w)[l]?).bind fun u =>
        ((b.lanes64 (s.pitchOf bl w) c w)[l]?).map fun v => ccInt cc (exactVal ty u) (exactVal ty v) := by
  have he : exec (.vcmp g pd a b ty cc) s = execVcmp g pd a b ty cc s := rfl
  refine givesPred_of_vCmp hi rfl he fun l => ?_
  simp only [vOperand_wide h, tyInt_eq_exactVal, if_pos h]
  exact getElem?_zipWith_eq_bind _ _ _ l

end

/-- A NaN is unordered: of the conditions `ne` and `un` alone hold (R273). -/
theorem ccFp_nan {u v : Word32} (h : (fp32Value u).isNan = true ∨ (fp32Value v).isNan = true) (cc : Cc) :
    ccFp cc u v = (cc == .ne || cc == .un) := by
  have hn : ((fp32Value u).isNan || (fp32Value v).isNan) = true := by simpa using h
  cases cc <;> simp [ccFp, hn]

theorem vectorSelects_hold : VectorSelects := by
  intro s c bl w g d a b pd ps pn cc hi m p x y both
  have hf : exec (.fcmp g pd a b cc) s = execFcmp g pd a b cc s := rfl
  refine ⟨vcmp_narrow_gives hi pd a b cc (ty := .i32) rfl, vcmp_narrow_gives hi pd a b cc (ty := .n32) rfl,
    vcmp_wide_gives hi pd a b cc (ty := .i64) rfl, vcmp_wide_gives hi pd a b cc (ty := .n64) rfl,
    givesPred_of_vCmp hi rfl hf (getElem?_zipWith_eq_bind (ccFp cc) x y), fun u v h => ?nan, ?vsel, ?vli⟩
  case nan => exact ⟨ccFp_nan h .eq, ccFp_nan h .lt, ccFp_nan h .le, ccFp_nan h .gt, ccFp_nan h .ge, ccFp_nan h .ne, ccFp_nan h .un⟩
  case vsel =>
    have he : exec (.vsel g d a b ps pn) s = execVsel g d a b ps pn s := rfl
    refine ⟨_, vWrites_of_laneRes hi rfl he rfl, fun l u v hl hu hv => ?_⟩
    rw [getElem?_laneMap _ hl, w.getLsbD_pneg ps pn hl, getD_of_getElem?_some hu, getD_of_getElem?_some hv]
  case vli =>
    have he : exec (.vli g d a b) s = execVli g d a b s := rfl
    refine ⟨_, vWrites_of_laneRes hi rfl he rfl, fun l u v hl hu hv => ?_⟩
    rw [getElem?_laneMap _ hl, getD_of_getElem?_some hu, getD_of_getElem?_some hv]

/-- Settles O19, part by part: each integer operation is settled once for both widths, as the exact integer of its operands wrapped or
clamped, and the lanes of a result are those of its lists. -/
theorem vectorIntegers : Obligations.VectorIntegers :=
  ⟨vectorsOnlyWriteLanes_holds, vectorInteger32_holds, vectorSaturates_holds, vectorInteger64_holds, vectorSelects_hold⟩

end Sys2Proof.Machine
end

section
/-! Slots (R43, R44, R233 to R332): fields of a number laid out bit by bit, and decoding an encoded slot of each unit. -/

namespace Sys2Proof

-- A number whose fields are laid out from its high bits down: the field at `k`, and what lies below it.

section
variable {v l x lo n k : Nat}

theorem field_here (hl : l < 2 ^ lo) (hv : v < 2 ^ n) : (v * 2 ^ lo + l).field lo n = v := by
  rw [Nat.field, Nat.mul_comm, Nat.mul_add_div (Nat.two_pow_pos lo), Nat.div_eq_of_lt hl, Nat.add_zero, Nat.mod_eq_of_lt hv]

theorem field_skip (h : lo + n ≤ k) : (v * 2 ^ k + l).field lo n = l.field lo n := by
  obtain ⟨j, rfl⟩ := Nat.exists_eq_add_of_le h
  rw [Nat.field, Nat.field, show v * 2 ^ (lo + n + j) = 2 ^ lo * (2 ^ n * (v * 2 ^ j)) by ring,
    Nat.mul_add_div (Nat.two_pow_pos lo), Nat.mul_add_mod]

theorem field_above (h : x < 2 ^ lo) : x.field lo n = 0 := by
  rw [Nat.field, Nat.div_eq_of_lt h, Nat.zero_mod]

theorem field_low (h : x < 2 ^ n) : x.field 0 n = x := by
  rw [Nat.field, Nat.pow_zero, Nat.div_one, Nat.mod_eq_of_lt h]

/-- The lowest field of a number that ends with it. -/
theorem field_last (hv : v < 2 ^ n) : (v * 2 ^ lo).field lo n = v := by
  simpa using field_here (l := 0) (Nat.two_pow_pos lo) hv

theorem field_below_last (h : lo + n ≤ k) : (v * 2 ^ k).field lo n = 0 := by
  have := field_skip (v := v) (l := 0) h
  rwa [Nat.add_zero, field_above (Nat.two_pow_pos lo)] at this

theorem field_zero : Nat.field 0 lo n = 0 := by simp [Nat.field]

theorem bit_lt (b : Bool) : b.bit < 2 := by cases b <;> decide
theorem bit_beq_one (b : Bool) : (b.bit == 1) = b := by cases b <;> rfl

theorem bitAt_eq_field : x.bitAt k = (x.field k 1 == 1) := rfl

end

/-- The fields of a slot `x`: opcode and guard `g` above bit `lo`, the bits of `rest` below it. -/
structure SlotFields (x lo iw ow op : Nat) (g : Guard) (rest : Nat) : Prop where
  opcode : x.field (lo + iw + 1) ow = op
  guardNeg : x.bitAt (lo + iw) = g.neg
  guardIdx : x.field lo iw = g.idx
  operands : ∀ {a n}, a + n ≤ lo → x.field a n = rest.field a n

theorem mul_two_pow_add_lt {v l k n : Nat} (hv : v < 2 ^ n) (hl : l < 2 ^ k) : v * 2 ^ k + l < 2 ^ (k + n) := by
  calc v * 2 ^ k + l < (v + 1) * 2 ^ k := by rw [Nat.succ_mul]; omega
    _ ≤ 2 ^ n * 2 ^ k := Nat.mul_le_mul_right _ hv
    _ = 2 ^ (k + n) := by rw [Nat.mul_comm, Nat.pow_add]

/-- Opcode, negate bit and guard index stand above the operands of a slot (R44): what holds of every number with those fields holds of
their sum. -/
theorem slot_of_fields {lo iw ow op rest : Nat} {g : Guard} {p : Nat → Prop} (hg : g.idx < 2 ^ iw) (ho : op < 2 ^ ow)
    (hr : rest < 2 ^ lo) (h : ∀ x, SlotFields x lo iw ow op g rest → p x) :
    let x := op * 2 ^ (lo + iw + 1) + g.neg.bit * 2 ^ (lo + iw) + g.idx * 2 ^ lo + rest
    x < 2 ^ (lo + iw + 1 + ow) ∧ p x := by
  intro x
  have hi := mul_two_pow_add_lt hg hr
  have hn := mul_two_pow_add_lt (n := 1) (bit_lt g.neg) hi
  have e : x = op * 2 ^ (lo + iw + 1) + (g.neg.bit * 2 ^ (lo + iw) + (g.idx * 2 ^ lo + rest)) := by
    simp only [x, Nat.add_assoc]
  rw [e]
  refine ⟨mul_two_pow_add_lt ho hn, h _ ⟨field_here hn ho, ?_, ?_, fun ha => ?_⟩⟩
  · rw [bitAt_eq_field, field_skip (Nat.le_refl _), field_here hi (bit_lt _), bit_beq_one]
  · rw [field_skip (Nat.le_succ _), field_skip (Nat.le_refl _), field_here hr hg]
  · rw [field_skip (by omega), field_skip (by omega), field_skip ha]

theorem finish_ok {zero : Bool} {i : Instr} (hz : zero = true) (h : i.wf = true) : finish zero (some i) = .ok i := by
  simp [finish, hz, h]

-- The codes of enumerated fields fit their fields and read back.

theorem ITy.code_lt (t : ITy) : t.code < 4 := by cases t <;> decide
theorem Cc.code_lt (t : Cc) : t.code < 8 := by cases t <;> decide
theorem Rm.code_lt (t : Rm) : t.code < 8 := by cases t <;> decide
theorem Rm.code_lt_of_two {t : Rm} (h : t.two = true) : t.code < 4 := by
  cases t with
  | ro => cases h
  | rn | rz | ru | rd => decide
theorem Width.code_lt (t : Width) : t.code < 8 := by cases t <;> decide
theorem Scope.code_lt (t : Scope) : t.code < 8 := by cases t <;> decide
theorem MemOrder.code_lt (t : MemOrder) : t.code < 4 := by cases t <;> decide
theorem AtomOp.code_lt (t : AtomOp) : t.code < 16 := by cases t <;> decide
theorem ScanOp.code_lt (t : ScanOp) : t.code < 16 := by cases t <;> decide
theorem MPair.code_lt (t : MPair) : t.code < 8 := by cases t <;> decide
theorem Fmt.code_lt (t : Fmt) : t.code < 16 := by cases t <;> decide
theorem CollOp.code_lt (t : CollOp) : t.code < 8 := by cases t <;> decide
theorem FSel.code_lt (t : FSel) : t.code < 4 := by cases t <;> decide

theorem ITy.ofCode_code (t : ITy) : ITy.ofCode t.code = t := by cases t <;> rfl
theorem Cc.ofCode_code (t : Cc) : Cc.ofCode t.code = some t := by cases t <;> rfl
theorem Rm.ofCode_code (t : Rm) : Rm.ofCode t.code = some t := by cases t <;> rfl
theorem Width.ofCode_code (t : Width) : Width.ofCode t.code = some t := by cases t <;> rfl
theorem Scope.ofCode_code (t : Scope) : Scope.ofCode t.code = some t := by cases t <;> rfl
theorem MemOrder.ofCode_code (t : MemOrder) : MemOrder.ofCode t.code = t := by cases t <;> rfl
theorem AtomOp.ofCode_code (t : AtomOp) : AtomOp.ofCode t.code = some t := by cases t <;> rfl
theorem ScanOp.ofCode_code (t : ScanOp) : ScanOp.ofCode t.code = some t := by cases t <;> rfl
theorem MPair.ofCode_code (t : MPair) : MPair.ofCode t.code = some t := by cases t <;> rfl
theorem Fmt.ofCode_code (t : Fmt) : Fmt.ofCode t.code = some t := by cases t <;> rfl
theorem CollOp.ofCode_code (t : CollOp) : CollOp.ofCode t.code = some t := by cases t <;> rfl
theorem FSel.ofCode_code (t : FSel) : FSel.ofCode t.code = some t := by cases t <;> rfl

theorem VSrc.code_lt {a : VSrc} (h : a.wf = true) : a.code < 2 ^ 9 := by
  cases a <;> simp only [VSrc.wf, VSrc.code, decide_eq_true_eq] at * <;> omega

theorem VSrc.ofCode_code {a : VSrc} (h : a.wf = true) : VSrc.ofCode a.code = some a := by
  cases a with
  | v n => exact if_pos (of_decide_eq_true h)
  | s n =>
    have hn : n < 64 := of_decide_eq_true h
    rw [VSrc.ofCode, VSrc.code, if_neg (by omega), if_pos (by omega), Nat.add_sub_cancel_left]
  | latch n =>
    have hn : n < 8 := of_decide_eq_true h
    rw [VSrc.ofCode, VSrc.code, if_neg (by omega), if_neg (by omega), if_pos (by omega), Nat.add_sub_cancel_left]
  | hole n =>
    have hn : n < 4 := of_decide_eq_true h
    rw [VSrc.ofCode, VSrc.code, if_neg (by omega), if_neg (by omega), if_neg (by omega), if_neg (by omega), if_pos (by omega),
      Nat.add_sub_cancel_left]

theorem VDst.code_lt {d : VDst} (h : d.wf = true) : d.code < 2 ^ 9 := by
  cases d <;> simp only [VDst.wf, VDst.code, decide_eq_true_eq] at * <;> omega

theorem VDst.ofCode_code {d : VDst} (h : d.wf = true) : VDst.ofCode d.code = d := by
  cases d with
  | nw => rfl
  | reg n => exact if_pos (of_decide_eq_true h)

theorem VDst.zeroOk_code {d : VDst} (h : d.wf = true) : VDst.zeroOk d.code = true := by
  cases d with
  | nw => rfl
  | reg n => exact decide_eq_true (Nat.le_of_lt (of_decide_eq_true h))

theorem VDst.wf_of_wfW {d : VDst} {w : Width} (h : d.wfW w = true) : d.wf = true := by
  cases d with
  | nw => rfl
  | reg n => exact (Bool.and_eq_true_iff.1 h).1

theorem AField.code_lt {f : AField} (h : f.wf = true) : f.code < 16 := by
  cases f <;> simp only [AField.wf, AField.code, decide_eq_true_eq] at * <;> omega

theorem AField.ofCode_code {f : AField} (h : f.wf = true) : AField.ofCode f.code = some f := by
  cases f with
  | c k => exact if_pos (of_decide_eq_true h)
  | i k =>
    have hk : k < 4 := of_decide_eq_true h
    rw [AField.ofCode, AField.code, if_neg (by omega), if_pos (by omega), Nat.add_sub_cancel_left]
  | lane | recIdx => rfl

theorem srListed_lt {n : Nat} (h : srListed n = true) : n < 2 ^ 12 := by
  simp only [srListed, Bool.or_eq_true, decide_eq_true_eq] at h; omega
theorem srWritable_lt {n : Nat} (h : srWritable n = true) : n < 2 ^ 12 := by
  simp only [srWritable, Bool.or_eq_true, beq_iff_eq] at h; omega

-- The S slot.

/-- The seven bits of a second source: the kind and the number (R234). -/
def SSrc.code : SSrc → Nat
  | .reg r => r
  | .hole h => 64 + h

theorem encSrcS_eq (b : SSrc) : encSrcS b = b.code * 2 ^ 34 := by
  cases b <;> simp only [encSrcS, SSrc.code]; omega

theorem SSrc.code_lt {b : SSrc} (h : b.wf = true) : b.code < 2 ^ 7 := by
  cases b <;> simp [SSrc.wf, SSrc.code] at * <;> omega

theorem srcS_of_code {x : Nat} {b : SSrc} (h : b.wf = true) (hx : x.field 34 7 = b.code) : srcS x = b ∧ srcSZero x = true := by
  cases b with
  | reg r =>
    simp only [SSrc.wf, SSrc.code, decide_eq_true_eq, Nat.field] at h hx
    have hk : x.bitAt 40 = false := by simp only [Nat.bitAt, beq_eq_false_iff_ne]; omega
    have hr : x.field 34 6 = r := by rw [Nat.field]; omega
    simp [srcS, srcSZero, hk, hr]
  | hole k =>
    simp only [SSrc.wf, SSrc.code, decide_eq_true_eq, Nat.field] at h hx
    have hk : x.bitAt 40 = true := by simp only [Nat.bitAt, beq_iff_eq]; omega
    have hr : x.field 34 2 = k := by rw [Nat.field]; omega
    have hz : x.field 36 4 = 0 := by rw [Nat.field]; omega
    simp [srcS, srcSZero, hk, hr, hz]

theorem roundTripS {op rest : Nat} {g : Guard} {i : Instr} (hg : g.idx < 16) (ho : op < 64) (hr : rest < 2 ^ 53)
    (hd : ∀ x, x.field 58 6 = op → guardS x = g → (∀ {a n}, a + n ≤ 53 → x.field a n = rest.field a n) → decodeS x = .ok i) :
    encS op g + rest < 2 ^ 64 ∧ decodeS (encS op g + rest) = .ok i :=
  slot_of_fields (lo := 53) (iw := 4) (ow := 6) hg ho hr fun x hx =>
    hd x hx.opcode (congrArg₂ Guard.mk hx.guardNeg hx.guardIdx) hx.operands


theorem decodeS_encodeS {i : Instr} {x : Nat} (hw : i.wf = true) (hx : encodeS i = some x) : x < 2 ^ 64 ∧ decodeS x = .ok i := by
  have h := hw
  cases i with
  | sadd g d a b ty | ssub g d a b ty | smul g d a b ty | smulhi g d a b ty | sand g d a b ty | sor g d a b ty | sxor g d a b ty
  | sshl g d a b ty | sshr g d a b ty | ssar g d a b ty | smin g d a b ty | smax g d a b ty =>
    obtain rfl := Option.some.inj hx
    simp only [Instr.wf, sIntWf, Guard.wfQ, Bool.and_eq_true, decide_eq_true_eq] at h
    have hb := SSrc.code_lt h.2
    have ht := ty.code_lt
    simp only [encSInt, encSrcS_eq, Nat.add_assoc]
    refine roundTripS (by omega) (by omega) (by omega) fun x hop hgx hf => ?_
    have hs := srcS_of_code (x := x) h.2 (by simp (disch := omega) only [hf, field_skip, field_here])
    rw [decodeS, hop]
    simp (disch := omega) only [decodeSInt, hgx, hs, hf, field_skip, field_here, field_last, field_below_last, ITy.ofCode_code]
    exact finish_ok rfl hw
  | smov g d b ty =>
    obtain rfl := Option.some.inj hx
    simp only [Instr.wf, Guard.wfQ, Bool.and_eq_true, decide_eq_true_eq] at h
    have hb := SSrc.code_lt h.2
    have ht := ty.code_lt
    simp only [encSInt, encSrcS_eq, Nat.add_assoc, Nat.zero_mul, Nat.zero_add]
    refine roundTripS (by omega) (by omega) (by omega) fun x hop hgx hf => ?_
    have hs := srcS_of_code (x := x) h.2 (by simp (disch := omega) only [hf, field_skip, field_here])
    rw [decodeS, hop]
    simp (disch := omega) only [hgx, hs, hf, field_skip, field_here, field_last, field_below_last, field_above, ITy.ofCode_code]
    exact finish_ok rfl hw
  | scmp g q a b ty cc =>
    obtain rfl := Option.some.inj hx
    simp only [Instr.wf, Guard.wfQ, Bool.and_eq_true, decide_eq_true_eq] at h
    have hb := SSrc.code_lt h.1.2
    have ht := ty.code_lt
    have hc := cc.code_lt
    simp only [encSInt, encSrcS_eq, Nat.add_assoc]
    refine roundTripS (by omega) (by omega) (by omega) fun x hop hgx hf => ?_
    have hs := srcS_of_code (x := x) h.1.2 (by simp (disch := omega) only [hf, field_skip, field_here])
    rw [decodeS, hop]
    simp (disch := omega) only [hgx, hs, hf, field_skip, field_here, field_last, field_below_last, field_above, ITy.ofCode_code,
      Cc.ofCode_code, Option.map_some]
    exact finish_ok rfl hw
  | ssel g d a b q qn =>
    obtain rfl := Option.some.inj hx
    simp only [Instr.wf, sIntWf, Guard.wfQ, Bool.and_eq_true, decide_eq_true_eq] at h
    have hb := SSrc.code_lt h.1.2
    have hn := bit_lt qn
    simp only [encSrcS_eq, Nat.add_assoc]
    refine roundTripS (by omega) (by omega) (by omega) fun x hop hgx hf => ?_
    have hs := srcS_of_code (x := x) h.1.2 (by simp (disch := omega) only [hf, field_skip, field_here])
    rw [decodeS, hop]
    simp (disch := omega) only [hgx, hs, bitAt_eq_field, hf, field_skip, field_here, field_last, field_below_last, field_above,
      bit_beq_one]
    exact finish_ok rfl hw
  | vdhop g d a b =>
    obtain rfl := Option.some.inj hx
    simp only [Instr.wf, sIntWf, Guard.wfQ, Bool.and_eq_true, decide_eq_true_eq] at h
    have hb := SSrc.code_lt h.2
    simp only [encSrcS_eq, Nat.add_assoc]
    refine roundTripS (by omega) (by omega) (by omega) fun x hop hgx hf => ?_
    have hs := srcS_of_code (x := x) h.2 (by simp (disch := omega) only [hf, field_skip, field_last])
    rw [decodeS, hop]
    simp (disch := omega) only [hgx, hs, hf, field_skip, field_here, field_below_last]
    exact finish_ok rfl hw
  | dline g a b =>
    obtain rfl := Option.some.inj hx
    simp only [Instr.wf, Guard.wfQ, Bool.and_eq_true, decide_eq_true_eq] at h
    have hb := SSrc.code_lt h.2
    simp only [encSrcS_eq, Nat.add_assoc]
    refine roundTripS (by omega) (by omega) (by omega) fun x hop hgx hf => ?_
    have hs := srcS_of_code (x := x) h.2 (by simp (disch := omega) only [hf, field_skip, field_last])
    rw [decodeS, hop]
    simp (disch := omega) only [hgx, hs, hf, field_skip, field_here, field_below_last, field_above]
    exact finish_ok rfl hw
  | dtick g b =>
    obtain rfl := Option.some.inj hx
    simp only [Instr.wf, Guard.wfQ, Bool.and_eq_true, decide_eq_true_eq] at h
    have hb := SSrc.code_lt h.2
    rw [encSrcS_eq]
    refine roundTripS (by omega) (by omega) (by omega) fun x hop hgx hf => ?_
    have hs := srcS_of_code (x := x) h.2 (by simp (disch := omega) only [hf, field_last])
    rw [decodeS, hop]
    simp (disch := omega) only [hgx, hs, hf, field_below_last, field_above]
    exact finish_ok rfl hw
  | sli g d v =>
    simp only [Instr.wf, Guard.wfQ, Bool.and_eq_true, decide_eq_true_eq] at h
    cases v with
    | imm v =>
      obtain rfl := Option.some.inj hx
      have hv : v < 2 ^ 46 := of_decide_eq_true h.2
      simp only [Nat.add_assoc]
      refine roundTripS (by omega) (by omega) (by omega) fun x hop hgx hf => ?_
      rw [decodeS, hop]
      simp (disch := omega) only [hgx, bitAt_eq_field, hf, field_skip, field_here, field_low, field_above]
      exact finish_ok rfl hw
    | hole k =>
      obtain rfl := Option.some.inj hx
      have hk : k < 4 := of_decide_eq_true h.2
      rw [← Nat.one_mul (2 ^ 46)]
      simp only [Nat.add_assoc]
      refine roundTripS (by omega) (by omega) (by omega) fun x hop hgx hf => ?_
      rw [decodeS, hop]
      simp (disch := omega) only [hgx, bitAt_eq_field, hf, field_skip, field_here, field_low, field_above]
      exact finish_ok rfl hw
  | btgt g bd t =>
    simp only [Instr.wf, Guard.wfQ, Bool.and_eq_true, decide_eq_true_eq] at h
    cases t with
    | imm o =>
      obtain rfl := Option.some.inj hx
      have ho : o < 2 ^ 32 := of_decide_eq_true h.2
      simp only [Nat.add_assoc]
      refine roundTripS (by omega) (by omega) (by omega) fun x hop hgx hf => ?_
      have hform : x.field 48 2 = 0 := by simp (disch := omega) only [hf, field_skip, field_above]
      rw [decodeS, hop]
      simp (disch := omega) only [hform, hgx, hf, field_skip, field_here, field_last, field_below_last]
      exact finish_ok rfl hw
    | sreg r =>
      obtain rfl := Option.some.inj hx
      have hr : r < 64 := of_decide_eq_true h.2
      rw [← Nat.one_mul (2 ^ 48)]
      simp only [Nat.add_assoc]
      refine roundTripS (by omega) (by omega) (by omega) fun x hop hgx hf => ?_
      have hform : x.field 48 2 = 1 := by simp (disch := omega) only [hf, field_skip, field_here]
      rw [decodeS, hop]
      simp (disch := omega) only [hform, hgx, hf, field_skip, field_here, field_last, field_below_last, field_above]
      exact finish_ok rfl hw
    | hole k =>
      obtain rfl := Option.some.inj hx
      have hk : k < 4 := of_decide_eq_true h.2
      simp only [Nat.add_assoc]
      refine roundTripS (by omega) (by omega) (by omega) fun x hop hgx hf => ?_
      have hform : x.field 48 2 = 2 := by simp (disch := omega) only [hf, field_skip, field_here]
      rw [decodeS, hop]
      simp (disch := omega) only [hform, hgx, hf, field_skip, field_here, field_low, field_above]
      exact finish_ok rfl hw
  | srd g d sr =>
    simp only [Instr.wf, Guard.wfQ, Bool.and_eq_true, decide_eq_true_eq] at h
    have hl := srListed_lt h.2
    cases d with
    | s d =>
      obtain rfl := Option.some.inj hx
      have hd : d < 64 := of_decide_eq_true h.1.2
      simp only [Nat.add_assoc]
      refine roundTripS (by omega) (by omega) (by omega) fun x hop hgx hf => ?_
      rw [decodeS, hop]
      simp (disch := omega) only [hgx, bitAt_eq_field, hf, field_skip, field_here, field_last, field_below_last, field_above]
      exact finish_ok rfl hw
    | v d =>
      obtain rfl := Option.some.inj hx
      have hd : d < 256 := of_decide_eq_true h.1.2
      rw [← Nat.one_mul (2 ^ 52)]
      simp only [Nat.add_assoc]
      refine roundTripS (by omega) (by omega) (by omega) fun x hop hgx hf => ?_
      rw [decodeS, hop]
      simp (disch := omega) only [hgx, bitAt_eq_field, hf, field_skip, field_here, field_last, field_below_last, field_above]
      exact finish_ok rfl hw
  | swr g a sr =>
    obtain rfl := Option.some.inj hx
    simp only [Instr.wf, Guard.wfQ, Bool.and_eq_true, decide_eq_true_eq] at h
    have hl := srWritable_lt h.2
    simp only [Nat.add_assoc]
    refine roundTripS (by omega) (by omega) (by omega) fun x hop hgx hf => ?_
    rw [decodeS, hop]
    simp (disch := omega) only [hgx, hf, field_skip, field_here, field_last, field_below_last, field_above]
    exact finish_ok rfl hw
  | bxfer | bcall | lidx | info | mtrd | mtck | clk =>
    obtain rfl := Option.some.inj hx
    simp only [Instr.wf, Guard.wfQ, Bool.and_eq_true, decide_eq_true_eq] at h
    simp only [Nat.add_assoc]
    refine roundTripS (by omega) (by omega) (by omega) fun x hop hgx hf => ?_
    rw [decodeS, hop]
    simp (disch := omega) only [hgx, hf, field_skip, field_here, field_last, field_below_last, field_above]
    exact finish_ok rfl hw
  | bar | trap | dclose | pwacq =>
    obtain rfl := Option.some.inj hx
    simp only [Instr.wf, Guard.wfQ, Bool.and_eq_true, decide_eq_true_eq] at h
    refine roundTripS (by omega) (by omega) (by omega) fun x hop hgx hf => ?_
    rw [decodeS, hop]
    simp (disch := omega) only [hgx, hf, field_last, field_below_last, field_above]
    exact finish_ok rfl hw
  | lbrk g | exit g | pwrel g | hret g =>
    obtain rfl := Option.some.inj hx
    simp only [Instr.wf, Guard.wfQ, decide_eq_true_eq] at h
    rw [← Nat.add_zero (encS _ g)]
    refine roundTripS (by omega) (by omega) (by omega) fun x hop hgx hf => ?_
    rw [decodeS, hop]
    simp (disch := omega) only [hgx, bitAt_eq_field, hf, field_zero]
    exact finish_ok rfl hw
  | hretSkip g =>
    obtain rfl := Option.some.inj hx
    simp only [Instr.wf, Guard.wfQ, decide_eq_true_eq] at h
    rw [← Nat.one_mul (2 ^ 52)]
    refine roundTripS (by omega) (by omega) (by omega) fun x hop hgx hf => ?_
    rw [decodeS, hop]
    simp (disch := omega) only [hgx, bitAt_eq_field, hf, field_last, field_below_last]
    exact finish_ok rfl hw
  | _ => cases hx

-- The P slot.

theorem roundTripP {op rest : Nat} {g : Guard} {i : Instr} (hg : g.idx < 64) (ho : op < 32) (hr : rest < 2 ^ 20)
    (hd : ∀ x, x.field 27 5 = op → guardP x = g → (∀ {a n}, a + n ≤ 20 → x.field a n = rest.field a n) → decodeP x = .ok i) :
    encP op g + rest < 2 ^ 32 ∧ decodeP (encP op g + rest) = .ok i :=
  slot_of_fields (lo := 20) (iw := 6) (ow := 5) hg ho hr fun x hx =>
    hd x hx.opcode (congrArg₂ Guard.mk hx.guardNeg hx.guardIdx) hx.operands

theorem decodeP_encodeP {i : Instr} {x : Nat} (hw : i.wf = true) (hx : encodeP i = some x) : x < 2 ^ 32 ∧ decodeP x = .ok i := by
  have h := hw
  cases i with
  | pand g d a na b nb | por g d a na b nb | pxor g d a na b nb | qand g d a na b nb | qor g d a na b nb | qxor g d a na b nb =>
    obtain rfl := Option.some.inj hx
    simp only [Instr.wf, pLaneWf, pQWf, Guard.wfP, Guard.wfQ, Bool.and_eq_true, decide_eq_true_eq] at h
    have ha := bit_lt na
    have hb := bit_lt nb
    rw [encP3, show b * 2 = b * 2 ^ 1 from rfl]
    simp only [Nat.add_assoc]
    refine roundTripP (by omega) (by omega) (by omega) fun x hop hgx hf => ?_
    rw [decodeP, hop]
    simp (disch := omega) only [decodePLane, decodePQ, hgx, bitAt_eq_field, hf, field_skip, field_here, field_low, field_above, bit_beq_one]
    exact finish_ok rfl hw
  | pmov g d a na | pset g d a na | vany g d a na | vall g d a na | vcount g d a na =>
    obtain rfl := Option.some.inj hx
    simp only [Instr.wf, Guard.wfP, Bool.and_eq_true, decide_eq_true_eq] at h
    have ha := bit_lt na
    simp only [encP2, Nat.add_assoc]
    refine roundTripP (by omega) (by omega) (by omega) fun x hop hgx hf => ?_
    rw [decodeP, hop]
    simp (disch := omega) only [decodePVote, hgx, bitAt_eq_field, hf, field_skip, field_here, field_last, field_below_last, field_above,
      bit_beq_one]
    exact finish_ok rfl hw
  | mpush g a na | regroup g a na =>
    obtain rfl := Option.some.inj hx
    simp only [Instr.wf, Guard.wfQ, Bool.and_eq_true, decide_eq_true_eq] at h
    have ha := bit_lt na
    simp only [encP2, Nat.add_assoc, Nat.zero_mul, Nat.zero_add]
    refine roundTripP (by omega) (by omega) (by omega) fun x hop hgx hf => ?_
    rw [decodeP, hop]
    simp (disch := omega) only [hgx, bitAt_eq_field, hf, field_skip, field_here, field_last, field_below_last, field_above, bit_beq_one]
    exact finish_ok rfl hw
  | melse g | mpop g | ungroup g =>
    obtain rfl := Option.some.inj hx
    simp only [Instr.wf, Guard.wfQ, decide_eq_true_eq] at h
    rw [← Nat.add_zero (encP _ g)]
    refine roundTripP (by omega) (by omega) (by omega) fun x hop hgx hf => ?_
    rw [decodeP, hop]
    simp (disch := omega) only [hgx, hf, field_zero]
    exact finish_ok rfl hw
  | mspill g n | mfill g n =>
    obtain rfl := Option.some.inj hx
    simp only [Instr.wf, Guard.wfQ, Bool.and_eq_true, decide_eq_true_eq] at h
    refine roundTripP (by omega) (by omega) (by omega) fun x hop hgx hf => ?_
    rw [decodeP, hop]
    simp (disch := omega) only [hgx, hf, field_last, field_below_last]
    exact finish_ok rfl hw
  | _ => cases hx

-- The A slots.

theorem roundTripA {op rest : Nat} {g : Guard} {i : Instr} (hg : g.idx < 16) (ho : op < 16) (hr : rest < 2 ^ 39)
    (hd : ∀ x, x.field 44 4 = op → guardA x = g → (∀ {a n}, a + n ≤ 39 → x.field a n = rest.field a n) → decodeA x = .ok i) :
    encA op g + rest < 2 ^ 48 ∧ decodeA (encA op g + rest) = .ok i :=
  slot_of_fields (lo := 39) (iw := 4) (ow := 4) hg ho hr fun x hx =>
    hd x hx.opcode (congrArg₂ Guard.mk hx.guardNeg hx.guardIdx) hx.operands

/-- The value of an A operation with its two bits of form (R286), read back from a slot. -/
theorem decodeAVal_of_fields {x a dim : Nat} {g : Guard} {v : ASrc} {zero : Bool} {f : Guard → Nat → Nat → ASrc → Instr}
    (hv : v.wf = true) (hw : (f g a dim v).wf = true) (hz : zero = true) (hgx : guardA x = g) (ha : x.field 36 3 = a)
    (hdim : x.field 34 2 = dim) (hx : ∀ {k n}, k + n ≤ 34 → x.field k n = (encASrc v).field k n) :
    decodeAVal x zero f = .ok (f g a dim v) := by
  subst hz
  cases v with
  | imm v =>
    have hl : v < 2 ^ 32 := of_decide_eq_true hv
    have hform : x.field 32 2 = 0 := by simp (disch := omega) only [hx, encASrc, field_above]
    rw [decodeAVal, hform]
    simp (disch := omega) only [hgx, ha, hdim, hx, encASrc, field_low]
    exact finish_ok rfl hw
  | sreg r =>
    have hl : r < 64 := of_decide_eq_true hv
    rw [encASrc, ← Nat.one_mul (2 ^ 32)] at hx
    have hform : x.field 32 2 = 1 := by simp (disch := omega) only [hx, field_here]
    rw [decodeAVal, hform]
    simp (disch := omega) only [hgx, ha, hdim, hx, field_skip, field_last, field_below_last]
    exact finish_ok rfl hw
  | hole k =>
    have hl : k < 4 := of_decide_eq_true hv
    have hform : x.field 32 2 = 2 := by simp (disch := omega) only [hx, encASrc, field_here]
    rw [decodeAVal, hform]
    simp (disch := omega) only [hgx, ha, hdim, hx, encASrc, field_skip, field_low, field_above]
    exact finish_ok rfl hw

theorem encASrc_lt {v : ASrc} (h : v.wf = true) : encASrc v < 2 ^ 34 := by
  cases v <;> simp only [ASrc.wf, encASrc, decide_eq_true_eq] at * <;> omega

theorem decodeA_encodeA {i : Instr} {x : Nat} (hw : i.wf = true) (hx : encodeA i = some x) : x < 2 ^ 48 ∧ decodeA x = .ok i := by
  have h := hw
  cases i with
  | agset g a dim v | agadd g a dim v | agstep g a dim v | aglane g a dim v =>
    obtain rfl := Option.some.inj hx
    simp only [Instr.wf, agWf, Guard.wfQ, Bool.and_eq_true, decide_eq_true_eq] at h
    have hv : v.wf = true := by tauto
    have hl := encASrc_lt hv
    simp only [encAVal, Nat.add_assoc]
    refine roundTripA (by omega) (by omega) (by omega) fun x hop hgx hf => ?_
    rw [decodeA, hop]
    refine decodeAVal_of_fields hv hw rfl hgx ?_ ?_ fun hk => ?_
    · simp (disch := omega) only [hf, field_here]
    · simp (disch := omega) only [hf, field_skip, field_here]
    · simp (disch := omega) only [hf, field_skip]
  | agbind g a v =>
    obtain rfl := Option.some.inj hx
    simp only [Instr.wf, agWf, Guard.wfQ, Bool.and_eq_true, decide_eq_true_eq] at h
    have hv : v.wf = true := by tauto
    have hl := encASrc_lt hv
    simp only [encAVal, Nat.add_assoc, Nat.zero_mul, Nat.zero_add]
    refine roundTripA (by omega) (by omega) (by omega) fun x hop hgx hf => ?_
    have hdim : x.field 34 2 = 0 := by simp (disch := omega) only [hf, field_skip, field_above]
    rw [decodeA, hop]
    refine decodeAVal_of_fields (f := fun g s _ v => .agbind g s v) hv hw (by rw [hdim]; rfl) hgx ?_ hdim fun hk => ?_
    · simp (disch := omega) only [hf, field_here]
    · simp (disch := omega) only [hf, field_skip]
  | agget g a f d =>
    obtain rfl := Option.some.inj hx
    simp only [Instr.wf, Guard.wfQ, Bool.and_eq_true, decide_eq_true_eq] at h
    have hl := AField.code_lt h.1.2
    simp only [Nat.add_assoc]
    refine roundTripA (by omega) (by omega) (by omega) fun x hop hgx hf => ?_
    rw [decodeA, hop]
    simp (disch := omega) only [hgx, hf, field_skip, field_here, field_last, field_below_last, AField.ofCode_code h.1.2, Option.map_some]
    exact finish_ok rfl hw
  | _ => cases hx

-- The V slots.

theorem roundTripV {op rest : Nat} {g : Guard} {i : Instr} (hg : g.idx < 64) (ho : op < 64) (hr : rest < 2 ^ 43)
    (hd : ∀ x, x.field 50 6 = op → guardV x = g → (∀ {a n}, a + n ≤ 43 → x.field a n = rest.field a n) → decodeV x = .ok i) :
    op * 2 ^ 50 + g.neg.bit * 2 ^ 49 + g.idx * 2 ^ 43 + rest < 2 ^ 56 ∧
    decodeV (op * 2 ^ 50 + g.neg.bit * 2 ^ 49 + g.idx * 2 ^ 43 + rest) = .ok i :=
  slot_of_fields (lo := 43) (iw := 6) (ow := 6) hg ho hr fun x hx =>
    hd x hx.opcode (congrArg₂ Guard.mk hx.guardNeg hx.guardIdx) hx.operands

/-- The operands of a V slot below its guard (R46). -/
def restV (d a b c md : Nat) : Nat := d * 2 ^ 34 + (a * 2 ^ 25 + (b * 2 ^ 16 + (c * 2 ^ 7 + md)))

theorem encV_eq (op : Nat) (g : Guard) (d a b c md : Nat) :
    encV op g d a b c md = op * 2 ^ 50 + g.neg.bit * 2 ^ 49 + g.idx * 2 ^ 43 + restV d a b c md := by
  simp only [encV, restV, Nat.add_assoc]

section
variable {d a b c md : Nat}

theorem restV_lt (hd : d < 2 ^ 9) (ha : a < 2 ^ 9) (hb : b < 2 ^ 9) (hc : c < 2 ^ 9) (hm : md < 2 ^ 7) :
    restV d a b c md < 2 ^ 43 := by rw [restV]; omega

/-- An operation of the V unit decodes to `i` when every slot with its opcode, guard, destination, sources and mode bits does. -/
theorem roundTripV_fields {op : Nat} {g : Guard} {i : Instr} (hg : g.idx < 48) (ho : op < 64) (hd : d < 2 ^ 9) (ha : a < 2 ^ 9)
    (hb : b < 2 ^ 9) (hc : c < 2 ^ 9) (hm : md < 2 ^ 7)
    (h : ∀ x, x.field 50 6 = op → guardV x = g → x.field 34 9 = d → x.field 25 9 = a → x.field 16 9 = b → x.field 7 9 = c →
      (∀ {k n}, k + n ≤ 7 → x.field k n = md.field k n) → decodeV x = .ok i) :
    encV op g d a b c md < 2 ^ 56 ∧ decodeV (encV op g d a b c md) = .ok i := by
  rw [encV_eq]
  refine roundTripV (by omega) ho (restV_lt hd ha hb hc hm) fun x hop hgx hf => h x hop hgx ?_ ?_ ?_ ?_ fun hk => ?_
  all_goals simp (disch := omega) only [hf, restV, field_skip, field_here]

end

/-- Adjoining fields that are zero are one field that is zero. -/
theorem field_zero_append {x lo m n : Nat} (h0 : x.field lo m = 0) (h1 : x.field (lo + m) n = 0) : x.field lo (m + n) = 0 := by
  rw [Nat.field] at *
  rw [Nat.pow_add, Nat.mod_mul, h0, Nat.div_div_eq_div_mul, ← Nat.pow_add, h1, Nat.mul_zero]

theorem decodeV_encodeV {i : Instr} {x : Nat} (hw : i.wf = true) (hx : encodeV i = some x) : x < 2 ^ 56 ∧ decodeV x = .ok i := by
  have h := hw
  cases i with
  | vadd g d a b ty sat | vsub g d a b ty sat | vmul g d a b ty sat =>
    obtain rfl := Option.some.inj hx
    simp only [Instr.wf, vIntWf, Guard.wfP, VDst.wfTy, VSrc.wfTy, Bool.and_eq_true, decide_eq_true_eq] at h
    obtain ⟨⟨⟨hg, hd, -⟩, ha, -⟩, hb, -⟩ := h
    have ht := ty.code_lt
    have hs := bit_lt sat
    refine roundTripV_fields hg (by omega) (VDst.code_lt hd) (VSrc.code_lt ha) (VSrc.code_lt hb) (by omega) (by omega)
      fun x hop hgx hdx hax hbx hcx hm => ?_
    rw [decodeV, hop]
    simp (disch := omega) only [decodeVInt, dstVZero, dstV, aV, bV, tyV, bitAt_eq_field, hgx, hdx, hax, hbx, hcx, hm,
      VDst.zeroOk_code hd, VDst.ofCode_code hd, VSrc.ofCode_code ha, VSrc.ofCode_code hb, ITy.ofCode_code, field_skip, field_here,
      field_last, field_below_last, bit_beq_one, Option.bind_some]
    exact finish_ok rfl hw
  | vmulhi g d a b ty | vand g d a b ty | vor g d a b ty | vxor g d a b ty | vshl g d a b ty | vshr g d a b ty | vsar g d a b ty
  | vmin g d a b ty | vmax g d a b ty =>
    obtain rfl := Option.some.inj hx
    simp only [Instr.wf, vIntWf, Guard.wfP, VDst.wfTy, VSrc.wfTy, Bool.and_eq_true, decide_eq_true_eq] at h
    obtain ⟨hg, hd, ha, hb⟩ : g.idx < 48 ∧ d.wf = true ∧ a.wf = true ∧ b.wf = true := by tauto
    have ht := ty.code_lt
    have hs := bit_lt false
    refine roundTripV_fields hg (by omega) (VDst.code_lt hd) (VSrc.code_lt ha) (VSrc.code_lt hb) (by omega) (by omega)
      fun x hop hgx hdx hax hbx hcx hm => ?_
    rw [decodeV, hop]
    simp (disch := omega) only [decodeVInt, dstVZero, dstV, aV, bV, tyV, bitAt_eq_field, hgx, hdx, hax, hbx, hcx, hm,
      VDst.zeroOk_code hd, VDst.ofCode_code hd, VSrc.ofCode_code ha, VSrc.ofCode_code hb, ITy.ofCode_code, field_skip, field_here,
      field_last, field_below_last, bit_beq_one, Option.bind_some]
    exact finish_ok rfl hw
  | vabs g d a ty sat | vneg g d a ty sat =>
    obtain rfl := Option.some.inj hx
    simp only [Instr.wf, Guard.wfP, VDst.wfTy, VSrc.wfTy, Bool.and_eq_true, decide_eq_true_eq] at h
    obtain ⟨⟨⟨hg, hd, -⟩, ha, -⟩, -⟩ := h
    have ht := ty.code_lt
    have hs := bit_lt sat
    refine roundTripV_fields hg (by omega) (VDst.code_lt hd) (VSrc.code_lt ha) (by omega) (by omega) (by omega)
      fun x hop hgx hdx hax hbx hcx hm => ?_
    rw [decodeV, hop]
    simp (disch := omega) only [decodeVInt1, dstVZero, dstV, aV, tyV, bitAt_eq_field, hgx, hdx, hax, hm, field_zero_append hcx hbx,
      VDst.zeroOk_code hd, VDst.ofCode_code hd, VSrc.ofCode_code ha, ITy.ofCode_code, field_skip, field_here, field_last,
      field_below_last, bit_beq_one, Option.bind_some]
    exact finish_ok rfl hw
  | vmov g d a ty | vclz g d a ty | vpopc g d a ty =>
    obtain rfl := Option.some.inj hx
    simp only [Instr.wf, vWf, Guard.wfP, VDst.wfTy, VSrc.wfTy, List.all_cons, List.all_nil, Bool.and_eq_true,
      decide_eq_true_eq] at h
    obtain ⟨hg, hd, ha⟩ : g.idx < 48 ∧ d.wf = true ∧ a.wf = true := by tauto
    have ht := ty.code_lt
    have hs := bit_lt false
    refine roundTripV_fields hg (by omega) (VDst.code_lt hd) (VSrc.code_lt ha) (by omega) (by omega) (by omega)
      fun x hop hgx hdx hax hbx hcx hm => ?_
    rw [decodeV, hop]
    simp (disch := omega) only [decodeVInt1, dstVZero, dstV, aV, tyV, bitAt_eq_field, hgx, hdx, hax, hm, field_zero_append hcx hbx,
      VDst.zeroOk_code hd, VDst.ofCode_code hd, VSrc.ofCode_code ha, ITy.ofCode_code, field_skip, field_here, field_last,
      field_below_last, bit_beq_one, Option.bind_some]
    exact finish_ok rfl hw
  | vmad g d a b c ty sat =>
    obtain rfl := Option.some.inj hx
    simp only [Instr.wf, vIntWf, Guard.wfP, VDst.wfTy, VSrc.wfTy, Bool.and_eq_true, decide_eq_true_eq] at h
    obtain ⟨⟨⟨⟨⟨hg, hd, -⟩, ha, -⟩, hb, -⟩, hc⟩, -⟩ := h
    have ht := ty.code_lt
    have hs := bit_lt sat
    refine roundTripV_fields hg (by omega) (VDst.code_lt hd) (VSrc.code_lt ha) (VSrc.code_lt hb) (VSrc.code_lt hc) (by omega)
      fun x hop hgx hdx hax hbx hcx hm => ?_
    rw [decodeV, hop]
    simp (disch := omega) only [dstVZero, dstV, aV, bV, cV, tyV, bitAt_eq_field, hgx, hdx, hax, hbx, hcx, hm,
      VDst.zeroOk_code hd, VDst.ofCode_code hd, VSrc.ofCode_code ha, VSrc.ofCode_code hb, VSrc.ofCode_code hc, ITy.ofCode_code,
      field_skip, field_here, field_last, field_below_last, bit_beq_one, Option.bind_some, Option.map_some]
    exact finish_ok rfl hw
  | vcmp g pd a b ty cc =>
    obtain rfl := Option.some.inj hx
    simp only [Instr.wf, Guard.wfP, VSrc.wfTy, Bool.and_eq_true, decide_eq_true_eq] at h
    obtain ⟨⟨⟨⟨hg, hpd⟩, ha, -⟩, hb, -⟩, -⟩ := h
    have ht := ty.code_lt
    have hc := cc.code_lt
    have hal := VSrc.code_lt ha
    have hbl := VSrc.code_lt hb
    rw [encV_eq, show cc.code * 2 = cc.code * 2 ^ 1 from rfl]
    refine roundTripV (by omega) (by omega) (restV_lt (by omega) hal hbl (by omega) (by omega)) fun x hop hgx hf => ?_
    rw [decodeV, hop]
    simp (disch := omega) only [aV, bV, tyV, bitAt_eq_field, hgx, hf, restV, VSrc.ofCode_code ha, VSrc.ofCode_code hb,
      ITy.ofCode_code, Cc.ofCode_code, field_above, field_skip, field_here, field_last, field_below_last, Option.bind_some]
    exact finish_ok rfl hw
  | fcmp g pd a b cc =>
    obtain rfl := Option.some.inj hx
    simp only [Instr.wf, Guard.wfP, Bool.and_eq_true, decide_eq_true_eq] at h
    obtain ⟨⟨⟨hg, hpd⟩, ha⟩, hb⟩ := h
    have hc := cc.code_lt
    have hal := VSrc.code_lt ha
    have hbl := VSrc.code_lt hb
    rw [encV_eq, show cc.code * 2 = cc.code * 2 ^ 1 from rfl]
    refine roundTripV (by omega) (by omega) (restV_lt (by omega) hal hbl (by omega) (by omega)) fun x hop hgx hf => ?_
    rw [decodeV, hop]
    simp (disch := omega) only [aV, bV, hgx, hf, restV, VSrc.ofCode_code ha, VSrc.ofCode_code hb, Cc.ofCode_code, field_above,
      field_skip, field_here, field_last, field_below_last, Option.bind_some, Option.map_some]
    exact finish_ok rfl hw
  | vsel g d a b ps pn =>
    obtain rfl := Option.some.inj hx
    simp only [Instr.wf, vWf, Guard.wfP, List.all_cons, List.all_nil, Bool.and_eq_true, decide_eq_true_eq] at h
    obtain ⟨⟨⟨hg, hd⟩, ha, hb, -⟩, hp⟩ := h
    have hn := bit_lt pn
    rw [show ps * 2 = ps * 2 ^ 1 from rfl]
    refine roundTripV_fields hg (by omega) (VDst.code_lt hd) (VSrc.code_lt ha) (VSrc.code_lt hb) (by omega) (by omega)
      fun x hop hgx hdx hax hbx hcx hm => ?_
    rw [decodeV, hop]
    simp (disch := omega) only [dstVZero, dstV, aV, bV, bitAt_eq_field, hgx, hdx, hax, hbx, hcx, hm, VDst.zeroOk_code hd,
      VDst.ofCode_code hd, VSrc.ofCode_code ha, VSrc.ofCode_code hb, field_skip, field_here, field_low, bit_beq_one,
      Option.bind_some, Option.map_some]
    exact finish_ok rfl hw
  | vli g d a b | fmin g d a b | fmax g d a b =>
    obtain rfl := Option.some.inj hx
    simp only [Instr.wf, vWf, Guard.wfP, List.all_cons, List.all_nil, Bool.and_eq_true, decide_eq_true_eq] at h
    obtain ⟨⟨hg, hd⟩, ha, hb, -⟩ := h
    refine roundTripV_fields hg (by omega) (VDst.code_lt hd) (VSrc.code_lt ha) (VSrc.code_lt hb) (by omega) (by omega)
      fun x hop hgx hdx hax hbx hcx hm => ?_
    have hz : x.field 0 16 = 0 := field_zero_append (m := 7) (n := 9) (by rw [hm (by omega), field_zero]) hcx
    rw [decodeV, hop]
    simp only [decodeV2, dstVZero, dstV, aV, bV, hgx, hdx, hax, hbx, hz, VDst.zeroOk_code hd, VDst.ofCode_code hd,
      VSrc.ofCode_code ha, VSrc.ofCode_code hb, Option.bind_some, Option.map_some]
    exact finish_ok rfl hw
  | fabs g d a | fneg g d a | fclass g d a =>
    obtain rfl := Option.some.inj hx
    simp only [Instr.wf, vWf, Guard.wfP, List.all_cons, List.all_nil, Bool.and_eq_true, decide_eq_true_eq] at h
    obtain ⟨⟨hg, hd⟩, ha, -⟩ := h
    refine roundTripV_fields hg (by omega) (VDst.code_lt hd) (VSrc.code_lt ha) (by omega) (by omega) (by omega)
      fun x hop hgx hdx hax hbx hcx hm => ?_
    have hz : x.field 0 25 = 0 := field_zero_append (m := 16) (n := 9)
      (field_zero_append (m := 7) (n := 9) (by rw [hm (by omega), field_zero]) hcx) hbx
    rw [decodeV, hop]
    simp only [decodeV1, dstVZero, dstV, aV, hgx, hdx, hax, hz, VDst.zeroOk_code hd, VDst.ofCode_code hd, VSrc.ofCode_code ha,
      Option.map_some]
    exact finish_ok rfl hw
  | fadd g d a b rm | fsub g d a b rm | fmul g d a b rm | hadd2 g d a b rm | hmul2 g d a b rm =>
    obtain rfl := Option.some.inj hx
    simp only [Instr.wf, vWf, Guard.wfP, List.all_cons, List.all_nil, Bool.and_eq_true, decide_eq_true_eq] at h
    obtain ⟨⟨⟨hg, hd⟩, ha, hb, -⟩, hr⟩ := h
    have hm := Rm.code_lt_of_two hr
    refine roundTripV_fields hg (by omega) (VDst.code_lt hd) (VSrc.code_lt ha) (VSrc.code_lt hb) (by omega) (by omega)
      fun x hop hgx hdx hax hbx hcx hm => ?_
    rw [decodeV, hop]
    simp (disch := omega) only [decodeV2r, dstVZero, dstV, aV, bV, hgx, hdx, hax, hbx, hcx, hm, VDst.zeroOk_code hd,
      VDst.ofCode_code hd, VSrc.ofCode_code ha, VSrc.ofCode_code hb, Rm.ofCode_code, field_last, field_below_last,
      Option.bind_some, Option.map_some]
    exact finish_ok rfl hw
  | fma g d a b c rm | hfma2 g d a b c rm =>
    obtain rfl := Option.some.inj hx
    simp only [Instr.wf, vWf, Guard.wfP, List.all_cons, List.all_nil, Bool.and_eq_true, decide_eq_true_eq] at h
    obtain ⟨⟨⟨hg, hd⟩, ha, hb, hc, -⟩, hr⟩ := h
    have hm := Rm.code_lt_of_two hr
    refine roundTripV_fields hg (by omega) (VDst.code_lt hd) (VSrc.code_lt ha) (VSrc.code_lt hb) (VSrc.code_lt hc) (by omega)
      fun x hop hgx hdx hax hbx hcx hm => ?_
    rw [decodeV, hop]
    simp (disch := omega) only [decodeV3r, dstVZero, dstV, aV, bV, cV, hgx, hdx, hax, hbx, hcx, hm, VDst.zeroOk_code hd,
      VDst.ofCode_code hd, VSrc.ofCode_code ha, VSrc.ofCode_code hb, VSrc.ofCode_code hc, Rm.ofCode_code, field_last,
      field_below_last, Option.bind_some, Option.map_some]
    exact finish_ok rfl hw
  | cvt g d a b code rm =>
    obtain rfl := Option.some.inj hx
    simp only [Instr.wf, vWf, Guard.wfP, cvtRmOk, List.all_cons, List.all_nil, Bool.and_eq_true, decide_eq_true_eq] at h
    obtain ⟨⟨⟨⟨hg, hd⟩, ha, hb, -⟩, hc, -⟩, hu⟩ := h
    have hm := rm.code_lt
    have hused : (code == 14 || b.code == 0) = true := by
      rcases Bool.or_eq_true_iff.1 hu with hc | hb
      · rw [hc]; rfl
      · rw [eq_of_beq hb]; simp [VSrc.code]
    refine roundTripV_fields hg (by omega) (VDst.code_lt hd) (VSrc.code_lt ha) (VSrc.code_lt hb) (by omega) (by omega)
      fun x hop hgx hdx hax hbx hcx hm => ?_
    rw [decodeV, hop]
    simp (disch := omega) only [dstVZero, dstV, aV, bV, hgx, hdx, hax, hbx, hcx, hm, VDst.zeroOk_code hd, VDst.ofCode_code hd,
      VSrc.ofCode_code ha, VSrc.ofCode_code hb, Rm.ofCode_code, field_skip, field_here, field_low, Option.bind_some, Option.map_some,
      hused]
    exact finish_ok rfl hw
  | _ => cases hx

-- The X slot.

theorem roundTripX {op rest : Nat} {g : Guard} {i : Instr} (hg : g.idx < 64) (ho : op < 32) (hr : rest < 2 ^ 36)
    (hd : ∀ x, x.field 43 5 = op → guardX x = g → (∀ {a n}, a + n ≤ 36 → x.field a n = rest.field a n) → decodeX x = .ok i) :
    op * 2 ^ 43 + g.neg.bit * 2 ^ 42 + g.idx * 2 ^ 36 + rest < 2 ^ 48 ∧
    decodeX (op * 2 ^ 43 + g.neg.bit * 2 ^ 42 + g.idx * 2 ^ 36 + rest) = .ok i :=
  slot_of_fields (lo := 36) (iw := 6) (ow := 5) hg ho hr fun x hx =>
    hd x hx.opcode (congrArg₂ Guard.mk hx.guardNeg hx.guardIdx) hx.operands

/-- An operation of the X unit decodes to `i` when every slot with its opcode, guard, destination, sources and mode bits does. -/
theorem roundTripX_fields {op b md : Nat} {d : VDst} {a : VSrc} {g : Guard} {i : Instr} (hg : g.idx < 48) (ho : op < 32)
    (hd : d.wf = true) (ha : a.wf = true) (hb : b < 2 ^ 9) (hm : md < 2 ^ 9)
    (h : ∀ x, x.field 43 5 = op → guardX x = g → x.field 27 9 = d.code → x.field 18 9 = a.code → x.field 9 9 = b →
      (∀ {k n}, k + n ≤ 9 → x.field k n = md.field k n) → decodeX x = .ok i) :
    encX op g d a b md < 2 ^ 48 ∧ decodeX (encX op g d a b md) = .ok i := by
  have hdl := VDst.code_lt hd
  have hal := VSrc.code_lt ha
  rw [encX, Nat.add_assoc _ (b * _), Nat.add_assoc _ (a.code * _), Nat.add_assoc _ (d.code * _)]
  refine roundTripX (by omega) ho (by omega) fun x hop hgx hf => h x hop hgx ?_ ?_ ?_ fun hk => ?_
  all_goals simp (disch := omega) only [hf, field_skip, field_here]

theorem decodeX_encodeX {i : Instr} {x : Nat} (hw : i.wf = true) (hx : encodeX i = some x) : x < 2 ^ 48 ∧ decodeX x = .ok i := by
  have h := hw
  cases i with
  | xchg g d a n | xrot g d a n | xbcast g d a n =>
    obtain rfl := Option.some.inj hx
    simp only [Instr.wf, vWf, Guard.wfP, List.all_cons, List.all_nil, Bool.and_eq_true, decide_eq_true_eq] at h
    obtain ⟨⟨⟨hg, hd⟩, ha, -⟩, hn⟩ := h
    refine roundTripX_fields hg (by omega) hd ha (by omega) (by omega) fun x hop hgx hdx hax hbx hm => ?_
    rw [decodeX, hop]
    simp (disch := omega) only [decodeX1, hgx, hdx, hax, hbx, hm, VDst.zeroOk_code hd, VDst.ofCode_code hd, VSrc.ofCode_code ha,
      field_last, field_below_last, field_low, field_above, Option.bind_some]
    exact finish_ok rfl hw
  | xidx g d a b =>
    obtain rfl := Option.some.inj hx
    simp only [Instr.wf, vWf, Guard.wfP, List.all_cons, List.all_nil, Bool.and_eq_true, decide_eq_true_eq] at h
    obtain ⟨⟨hg, hd⟩, ha, hb, -⟩ := h
    refine roundTripX_fields hg (by omega) hd ha (VSrc.code_lt hb) (by omega) fun x hop hgx hdx hax hbx hm => ?_
    rw [decodeX, hop]
    simp (disch := omega) only [hgx, hdx, hax, hbx, hm, field_zero, VDst.zeroOk_code hd, VDst.ofCode_code hd, VSrc.ofCode_code ha,
      VSrc.ofCode_code hb, Option.bind_some, Option.map_some]
    exact finish_ok rfl hw
  | xscan g d a op excl =>
    obtain rfl := Option.some.inj hx
    simp only [Instr.wf, vWf, Guard.wfP, List.all_cons, List.all_nil, Bool.and_eq_true, decide_eq_true_eq] at h
    obtain ⟨⟨hg, hd⟩, ha, -⟩ := h
    have ho := op.code_lt
    have he := bit_lt excl
    refine roundTripX_fields hg (by omega) hd ha (by omega) (by omega) fun x hop hgx hdx hax hbx hm => ?_
    rw [decodeX, hop]
    simp (disch := omega) only [decodeX1, hgx, hdx, hax, hbx, bitAt_eq_field, hm, VDst.zeroOk_code hd, VDst.ofCode_code hd,
      VSrc.ofCode_code ha, ScanOp.ofCode_code, field_skip, field_here, field_last, field_below_last, bit_beq_one, Option.bind_some,
      Option.map_some]
    exact finish_ok rfl hw
  | xred g d a op =>
    obtain rfl := Option.some.inj hx
    simp only [Instr.wf, vWf, Guard.wfP, List.all_cons, List.all_nil, Bool.and_eq_true, decide_eq_true_eq] at h
    obtain ⟨⟨hg, hd⟩, ha, -⟩ := h
    have ho := op.code_lt
    refine roundTripX_fields hg (by omega) hd ha (by omega) (by omega) fun x hop hgx hdx hax hbx hm => ?_
    rw [decodeX, hop]
    simp (disch := omega) only [decodeX1, hgx, hdx, hax, hbx, hm, VDst.zeroOk_code hd, VDst.ofCode_code hd, VSrc.ofCode_code ha,
      ScanOp.ofCode_code, field_last, field_below_last, Option.bind_some, Option.map_some]
    exact finish_ok rfl hw
  | frcp g d a | frsq g d a | fexp2 g d a | flog2 g d a | fsin g d a | fcos g d a | ftanh g d a =>
    obtain rfl := Option.some.inj hx
    simp only [Instr.wf, vWf, Guard.wfP, List.all_cons, List.all_nil, Bool.and_eq_true, decide_eq_true_eq] at h
    obtain ⟨⟨hg, hd⟩, ha, -⟩ := h
    refine roundTripX_fields hg (by omega) hd ha (by omega) (by omega) fun x hop hgx hdx hax hbx hm => ?_
    rw [decodeX, hop]
    simp (disch := omega) only [decodeX1, hgx, hdx, hax, hbx, hm, field_zero, VDst.zeroOk_code hd, VDst.ofCode_code hd,
      VSrc.ofCode_code ha, Option.bind_some]
    exact finish_ok rfl hw
  | _ => cases hx
-- The M slot.

theorem roundTripM {op rest : Nat} {g : Guard} {i : Instr} (hg : g.idx < 48) (ho : op < 32) (hr : rest < 2 ^ 44)
    (hd : ∀ x, x.field 51 5 = op → guardM x = g → (∀ {a n}, a + n ≤ 44 → x.field a n = rest.field a n) → decodeM x = .ok i) :
    encM op g + rest < 2 ^ 56 ∧ decodeM (encM op g + rest) = .ok i :=
  slot_of_fields (lo := 44) (iw := 6) (ow := 5) (Nat.lt_trans hg (by decide)) ho hr fun x hx =>
    hd x hx.opcode (congrArg₂ Guard.mk hx.guardNeg hx.guardIdx) hx.operands

theorem decodeM_encodeM {i : Instr} {x : Nat} (hw : i.wf = true) (hx : encodeM i = some x) : x < 2 ^ 56 ∧ decodeM x = .ok i := by
  have h := hw
  cases i with
  | ld g d a w fe clr inc sx =>
    obtain rfl := Option.some.inj hx
    simp only [Instr.wf, Guard.wfP, Bool.and_eq_true, decide_eq_true_eq] at h
    have hd := VDst.wf_of_wfW h.1.1.2
    have hdl := VDst.code_lt hd
    have hwl := w.code_lt
    have := bit_lt fe
    have := bit_lt clr
    have := bit_lt inc
    have := bit_lt sx
    simp only [Nat.add_assoc]
    refine roundTripM (by omega) (by omega) (by omega) fun x hop hgx hf => ?_
    rw [decodeM, hop]
    simp (disch := omega) only [hgx, dstM, dstMZero, bitAt_eq_field, hf, VDst.zeroOk_code hd, VDst.ofCode_code hd, Width.ofCode_code,
      field_skip, field_here, field_last, field_below_last, bit_beq_one, Option.map_some]
    exact finish_ok rfl hw
  | st g v a w inc =>
    obtain rfl := Option.some.inj hx
    simp only [Instr.wf, Guard.wfP, VSrc.wfW, Bool.and_eq_true, decide_eq_true_eq] at h
    have hv := h.1.2.1
    have hvl := VSrc.code_lt hv
    have hwl := w.code_lt
    have := bit_lt inc
    simp only [Nat.add_assoc]
    refine roundTripM (by omega) (by omega) (by omega) fun x hop hgx hf => ?_
    rw [decodeM, hop]
    simp (disch := omega) only [hgx, bitAt_eq_field, hf, VSrc.ofCode_code hv, Width.ofCode_code, field_skip, field_here, field_last,
      field_below_last, field_above, bit_beq_one, Option.bind_some, Option.map_some]
    exact finish_ok rfl hw
  | ldg g d a w gd inc sx v =>
    obtain rfl := Option.some.inj hx
    simp only [Instr.wf, Guard.wfP, Bool.and_eq_true, decide_eq_true_eq] at h
    obtain ⟨⟨⟨⟨⟨hg, hd⟩, ha⟩, hgd⟩, -⟩, hv⟩ := h
    have hd := VDst.wf_of_wfW hd
    have hdl := VDst.code_lt hd
    have hvl := VSrc.code_lt hv
    have hwl := w.code_lt
    have := bit_lt inc
    have := bit_lt sx
    simp only [Nat.add_assoc]
    refine roundTripM (by omega) (by omega) (by omega) fun x hop hgx hf => ?_
    rw [decodeM, hop]
    simp (disch := omega) only [hgx, dstM, dstMZero, bitAt_eq_field, hf, VDst.zeroOk_code hd, VDst.ofCode_code hd,
      VSrc.ofCode_code hv, Width.ofCode_code, field_skip, field_here, field_last, field_below_last, bit_beq_one, Option.bind_some,
      Option.map_some]
    exact finish_ok rfl hw
  | stg g v a w gd inc u =>
    obtain rfl := Option.some.inj hx
    simp only [Instr.wf, Guard.wfP, VSrc.wfW, Bool.and_eq_true, decide_eq_true_eq] at h
    obtain ⟨⟨⟨⟨hg, hv, -⟩, ha⟩, hgd⟩, hu⟩ := h
    have hvl := VSrc.code_lt hv
    have hul := VSrc.code_lt hu
    have hwl := w.code_lt
    have := bit_lt inc
    simp only [Nat.add_assoc]
    refine roundTripM (by omega) (by omega) (by omega) fun x hop hgx hf => ?_
    rw [decodeM, hop]
    simp (disch := omega) only [hgx, bitAt_eq_field, hf, VSrc.ofCode_code hv, VSrc.ofCode_code hu, Width.ofCode_code, field_skip,
      field_here, field_last, field_below_last, field_above, bit_beq_one, Option.bind_some, Option.map_some]
    exact finish_ok rfl hw
  | lblk g hh a n tag inc =>
    obtain rfl := Option.some.inj hx
    simp only [Instr.wf, Guard.wfP, Bool.and_eq_true, decide_eq_true_eq] at h
    have := bit_lt inc
    simp only [Nat.add_assoc]
    refine roundTripM (by omega) (by omega) (by omega) fun x hop hgx hf => ?_
    rw [decodeM, hop]
    simp (disch := omega) only [hgx, bitAt_eq_field, hf, field_skip, field_here, field_last, field_below_last, bit_beq_one]
    exact finish_ok rfl hw
  | atom g d a op ty ord sc inc u v =>
    obtain rfl := Option.some.inj hx
    simp only [Instr.wf, Guard.wfP, VDst.wfTy, VSrc.wfTy, Bool.and_eq_true, decide_eq_true_eq] at h
    obtain ⟨⟨⟨⟨⟨⟨hg, hd, -⟩, ha⟩, hu, -⟩, hv, -⟩, hcas⟩, -⟩ := h
    have hdl := VDst.code_lt hd
    have hul := VSrc.code_lt hu
    have hvl := VSrc.code_lt hv
    have := op.code_lt
    have := ty.code_lt
    have := ord.code_lt
    have := sc.code_lt
    have := bit_lt inc
    have hused : (op.code == 7 || v.code == 0) = true := by
      rcases Bool.or_eq_true_iff.1 hcas with h | h
      · rw [eq_of_beq h]; rfl
      · rw [eq_of_beq h]; simp [VSrc.code]
    simp only [Nat.add_assoc]
    refine roundTripM (by omega) (by omega) (by omega) fun x hop hgx hf => ?_
    rw [decodeM, hop]
    simp (disch := omega) only [hgx, dstM, dstMZero, bitAt_eq_field, hf, VDst.zeroOk_code hd, VDst.ofCode_code hd,
      VSrc.ofCode_code hu, VSrc.ofCode_code hv, AtomOp.ofCode_code, ITy.ofCode_code, MemOrder.ofCode_code, Scope.ofCode_code,
      field_skip, field_here, field_last, field_below_last, bit_beq_one, hused, Option.bind_some, Option.map_some]
    exact finish_ok rfl hw
  | fence g sc | drain g sc =>
    obtain rfl := Option.some.inj hx
    simp only [Instr.wf, Guard.wfP, decide_eq_true_eq] at h
    have := sc.code_lt
    refine roundTripM (by omega) (by omega) (by omega) fun x hop hgx hf => ?_
    rw [decodeM, hop]
    simp (disch := omega) only [hgx, hf, Scope.ofCode_code, field_last, field_below_last, Option.map_some]
    exact finish_ok rfl hw
  | probe g d a b =>
    obtain rfl := Option.some.inj hx
    simp only [Instr.wf, Guard.wfP, Bool.and_eq_true, decide_eq_true_eq] at h
    simp only [Nat.add_assoc]
    refine roundTripM (by omega) (by omega) (by omega) fun x hop hgx hf => ?_
    rw [decodeM, hop]
    simp (disch := omega) only [hgx, hf, field_skip, field_here, field_last, field_below_last]
    exact finish_ok rfl hw
  | stc g hh a pair inc v =>
    obtain rfl := Option.some.inj hx
    simp only [Instr.wf, Guard.wfP, Bool.and_eq_true, decide_eq_true_eq] at h
    have hvl := VSrc.code_lt h.2
    have := bit_lt pair
    have := bit_lt inc
    simp only [Nat.add_assoc]
    refine roundTripM (by omega) (by omega) (by omega) fun x hop hgx hf => ?_
    rw [decodeM, hop]
    simp (disch := omega) only [hgx, bitAt_eq_field, hf, VSrc.ofCode_code h.2, field_skip, field_here, field_last, field_below_last,
      bit_beq_one, Option.map_some]
    exact finish_ok rfl hw
  | ldas g d a w t inc sx pd =>
    obtain rfl := Option.some.inj hx
    simp only [Instr.wf, Guard.wfP, Bool.and_eq_true, decide_eq_true_eq] at h
    have hd := VDst.wf_of_wfW h.1.1.1.1.2
    have hdl := VDst.code_lt hd
    have hwl := w.code_lt
    have := bit_lt inc
    have := bit_lt sx
    simp only [Nat.add_assoc]
    refine roundTripM (by omega) (by omega) (by omega) fun x hop hgx hf => ?_
    rw [decodeM, hop]
    simp (disch := omega) only [hgx, dstM, dstMZero, bitAt_eq_field, hf, VDst.zeroOk_code hd, VDst.ofCode_code hd, Width.ofCode_code,
      field_skip, field_here, field_last, field_below_last, bit_beq_one, Option.map_some]
    exact finish_ok rfl hw
  | qput g q sg v =>
    obtain rfl := Option.some.inj hx
    simp only [Instr.wf, Guard.wfP, Bool.and_eq_true, decide_eq_true_eq] at h
    have hvl := VSrc.code_lt h.2
    simp only [Nat.add_assoc]
    refine roundTripM (by omega) (by omega) (by omega) fun x hop hgx hf => ?_
    rw [decodeM, hop]
    simp (disch := omega) only [hgx, hf, VSrc.ofCode_code h.2, field_skip, field_here, field_last, field_below_last, Option.map_some]
    exact finish_ok rfl hw
  | qget g d q sg =>
    obtain rfl := Option.some.inj hx
    simp only [Instr.wf, Guard.wfP, Bool.and_eq_true, decide_eq_true_eq] at h
    have hd := h.1.1.2
    have hdl := VDst.code_lt hd
    simp only [Nat.add_assoc]
    refine roundTripM (by omega) (by omega) (by omega) fun x hop hgx hf => ?_
    rw [decodeM, hop]
    simp (disch := omega) only [hgx, dstM, dstMZero, hf, VDst.zeroOk_code hd, VDst.ofCode_code hd, field_skip, field_here,
      field_last, field_below_last]
    exact finish_ok rfl hw
  | feset g a w inc | feclr g a w inc =>
    obtain rfl := Option.some.inj hx
    simp only [Instr.wf, Guard.wfP, Bool.and_eq_true, decide_eq_true_eq] at h
    have hwl := w.code_lt
    have := bit_lt inc
    simp only [Nat.add_assoc]
    refine roundTripM (by omega) (by omega) (by omega) fun x hop hgx hf => ?_
    rw [decodeM, hop]
    simp (disch := omega) only [hgx, bitAt_eq_field, hf, Width.ofCode_code, field_skip, field_here, field_last, field_below_last,
      field_above, bit_beq_one, Option.map_some]
    exact finish_ok rfl hw
  | _ => cases hx

-- The T slot.

theorem roundTripT {op rest : Nat} {g : Guard} {i : Instr} (hg : g.idx < 16) (ho : op < 8) (hr : rest < 2 ^ 40)
    (hd : ∀ x, x.field 45 3 = op → guardT x = g → (∀ {a n}, a + n ≤ 40 → x.field a n = rest.field a n) → decodeT x = .ok i) :
    encT op g + rest < 2 ^ 48 ∧ decodeT (encT op g + rest) = .ok i :=
  slot_of_fields (lo := 40) (iw := 4) (ow := 3) hg ho hr fun x hx =>
    hd x hx.opcode (congrArg₂ Guard.mk hx.guardNeg hx.guardIdx) hx.operands

theorem decodeT_encodeT {i : Instr} {x : Nat} (hw : i.wf = true) (hx : encodeT i = some x) : x < 2 ^ 48 ∧ decodeT x = .ok i := by
  have h := hw
  cases i with
  | mmac g hh acc nf mf p pro xa inca xb incb =>
    obtain rfl := Option.some.inj hx
    simp only [Instr.wf, tilesOk, Guard.wfQ, Bool.and_eq_true, decide_eq_true_eq] at h
    have := p.code_lt
    have := bit_lt pro
    have := bit_lt inca
    have := bit_lt incb
    simp only [Nat.add_assoc]
    refine roundTripT (by omega) (by omega) (by omega) fun x hop hgx hf => ?_
    rw [decodeT, hop]
    simp (disch := omega) only [hgx, bitAt_eq_field, hf, MPair.ofCode_code, field_skip, field_here, field_last, field_below_last,
      bit_beq_one, Option.map_some]
    exact finish_ok rfl hw
  | mzero g acc nt =>
    obtain rfl := Option.some.inj hx
    simp only [Instr.wf, tilesOk, Guard.wfQ, Bool.and_eq_true, decide_eq_true_eq] at h
    simp only [Nat.add_assoc]
    refine roundTripT (by omega) (by omega) (by omega) fun x hop hgx hf => ?_
    rw [decodeT, hop]
    simp (disch := omega) only [hgx, hf, field_skip, field_here, field_last, field_below_last, field_above]
    exact finish_ok rfl hw
  | mready g =>
    obtain rfl := Option.some.inj hx
    simp only [Instr.wf, Guard.wfQ, decide_eq_true_eq] at h
    rw [← Nat.add_zero (encT _ g)]
    refine roundTripT (by omega) (by omega) (by omega) fun x hop hgx hf => ?_
    rw [decodeT, hop]
    simp (disch := omega) only [hgx, hf, field_zero]
    exact finish_ok rfl hw
  | mstore g hh acc nt mf fmt rm src xd inc =>
    obtain rfl := Option.some.inj hx
    simp only [Instr.wf, tilesOk, Guard.wfQ, Bool.and_eq_true, decide_eq_true_eq] at h
    have := fmt.code_lt
    have := rm.code_lt
    have := bit_lt src
    have := bit_lt inc
    simp only [Nat.add_assoc]
    refine roundTripT (by omega) (by omega) (by omega) fun x hop hgx hf => ?_
    rw [decodeT, hop]
    simp (disch := omega) only [hgx, bitAt_eq_field, hf, Fmt.ofCode_code, Rm.ofCode_code, field_skip, field_here, field_last,
      field_below_last, bit_beq_one, Option.bind_some, Option.map_some]
    exact finish_ok rfl hw
  | mload g hh acc nt mf xs inc =>
    obtain rfl := Option.some.inj hx
    simp only [Instr.wf, tilesOk, Guard.wfQ, Bool.and_eq_true, decide_eq_true_eq] at h
    have := bit_lt inc
    simp only [Nat.add_assoc]
    refine roundTripT (by omega) (by omega) (by omega) fun x hop hgx hf => ?_
    rw [decodeT, hop]
    simp (disch := omega) only [hgx, bitAt_eq_field, hf, field_skip, field_here, field_last, field_below_last, field_above, bit_beq_one]
    exact finish_ok rfl hw
  | _ => cases hx

-- The C slot.

theorem roundTripC {op rest : Nat} {g : Guard} {i : Instr} (hg : g.idx < 16) (ho : op < 16) (hr : rest < 2 ^ 39)
    (hd : ∀ x, x.field 44 4 = op → guardA x = g → (∀ {a n}, a + n ≤ 39 → x.field a n = rest.field a n) → decodeC x = .ok i) :
    encA op g + rest < 2 ^ 48 ∧ decodeC (encA op g + rest) = .ok i :=
  slot_of_fields (lo := 39) (iw := 4) (ow := 4) hg ho hr fun x hx =>
    hd x hx.opcode (congrArg₂ Guard.mk hx.guardNeg hx.guardIdx) hx.operands

theorem decodeC_encodeC {i : Instr} {x : Nat} (hw : i.wf = true) (hx : encodeC i = some x) : x < 2 ^ 48 ∧ decodeC x = .ok i := by
  have h := hw
  cases i with
  | cpy g hh xd incd xs incs a | cpym g hh xd incd xs incs a m =>
    obtain rfl := Option.some.inj hx
    simp only [Instr.wf, Guard.wfQ, Bool.and_eq_true, decide_eq_true_eq] at h
    have := bit_lt incd
    have := bit_lt incs
    simp only [encCpy, Nat.add_assoc]
    refine roundTripC (by omega) (by omega) (by omega) fun x hop hgx hf => ?_
    rw [decodeC, hop]
    simp (disch := omega) only [hgx, bitAt_eq_field, hf, field_skip, field_here, field_last, field_below_last, bit_beq_one]
    exact finish_ok rfl hw
  | coll g hh xd incd xs incs a xr incr op =>
    obtain rfl := Option.some.inj hx
    simp only [Instr.wf, Guard.wfQ, Bool.and_eq_true, decide_eq_true_eq] at h
    have := bit_lt incd
    have := bit_lt incs
    have := bit_lt incr
    have := op.code_lt
    simp only [encCpy, Nat.add_assoc]
    refine roundTripC (by omega) (by omega) (by omega) fun x hop hgx hf => ?_
    rw [decodeC, hop]
    simp (disch := omega) only [hgx, bitAt_eq_field, hf, CollOp.ofCode_code, field_skip, field_here, field_last, field_below_last,
      bit_beq_one, Option.map_some]
    exact finish_ok rfl hw
  | fwait g hh | fcancel g hh =>
    obtain rfl := Option.some.inj hx
    simp only [Instr.wf, Guard.wfQ, Bool.and_eq_true, decide_eq_true_eq] at h
    refine roundTripC (by omega) (by omega) (by omega) fun x hop hgx hf => ?_
    rw [decodeC, hop]
    simp (disch := omega) only [hgx, hf, field_last, field_below_last]
    exact finish_ok rfl hw
  | ftry g q hh t =>
    simp only [Instr.wf, Guard.wfQ, Bool.and_eq_true, decide_eq_true_eq] at h
    cases t with
    | imm t =>
      obtain rfl := Option.some.inj hx
      have ht : t ≤ 4096 := of_decide_eq_true h.2
      simp only [Nat.add_assoc]
      refine roundTripC (by omega) (by omega) (by omega) fun x hop hgx hf => ?_
      have hk : x.bitAt 30 = false := by
        rw [bitAt_eq_field]; simp (disch := omega) only [hf, field_skip, field_above]; rfl
      rw [decodeC, hop]
      simp (disch := omega) only [hk, hgx, hf, field_skip, field_here, field_last, field_below_last]
      exact finish_ok rfl hw
    | sreg r =>
      obtain rfl := Option.some.inj hx
      have hr : r < 64 := of_decide_eq_true h.2
      rw [← Nat.one_mul (2 ^ 30)]
      simp only [Nat.add_assoc]
      refine roundTripC (by omega) (by omega) (by omega) fun x hop hgx hf => ?_
      have hk : x.bitAt 30 = true := by
        rw [bitAt_eq_field]; simp (disch := omega) only [hf, field_skip, field_here]; rfl
      rw [decodeC, hop]
      simp (disch := omega) only [hk, hgx, hf, field_skip, field_here, field_last, field_below_last]
      exact finish_ok rfl hw
  | fstat g hh d sel =>
    obtain rfl := Option.some.inj hx
    simp only [Instr.wf, Guard.wfQ, Bool.and_eq_true, decide_eq_true_eq] at h
    have := sel.code_lt
    simp only [Nat.add_assoc]
    refine roundTripC (by omega) (by omega) (by omega) fun x hop hgx hf => ?_
    rw [decodeC, hop]
    simp (disch := omega) only [hgx, hf, FSel.ofCode_code, field_skip, field_here, field_last, field_below_last, Option.map_some]
    exact finish_ok rfl hw
  | fmov g hh a =>
    obtain rfl := Option.some.inj hx
    simp only [Instr.wf, Guard.wfQ, Bool.and_eq_true, decide_eq_true_eq] at h
    simp only [Nat.add_assoc]
    refine roundTripC (by omega) (by omega) (by omega) fun x hop hgx hf => ?_
    rw [decodeC, hop]
    simp (disch := omega) only [hgx, hf, field_skip, field_here, field_last, field_below_last]
    exact finish_ok rfl hw
  | _ => cases hx

/-- Settles O1, unit by unit: every field of an encoded slot stands where the decoder reads it. -/
theorem roundTripSlots : Obligations.RoundTripSlots :=
  ⟨fun _ _ h => ⟨decodeS_encodeS h, decodeP_encodeP h⟩,
    fun _ _ h => ⟨decodeA_encodeA h, decodeV_encodeV h, decodeX_encodeX h⟩,
    fun _ _ h => ⟨decodeM_encodeM h, decodeT_encodeT h, decodeC_encodeC h⟩⟩

end Sys2Proof
end

section
/-! Tokens (R67, R68): little-endian bytes, hole values, and decoding the bytes of a token. -/

namespace Sys2Proof

theorem length_leBytes (n x : Nat) : (leBytes n x).length = n := by
  induction n generalizing x with
  | zero => rfl
  | succ n ih => rw [leBytes, List.length_cons, ih]

theorem leNat_leBytes {n x : Nat} (h : x < 256 ^ n) : leNat (leBytes n x) = x := by
  induction n generalizing x with
  | zero => rw [Nat.pow_zero] at h; rw [leBytes, leNat]; omega
  | succ n ih =>
    have hq : x / 256 < 256 ^ n := Nat.div_lt_of_lt_mul (by rwa [Nat.pow_succ, Nat.mul_comm] at h)
    rw [leBytes, leNat, ih hq, BitVec.toNat_ofNat]
    omega

/-- A byte written stands first. -/
theorem leBytes_one (x : Nat) : leBytes 1 x = [BitVec.ofNat 8 x] := rfl

theorem toNat_byte {x : Nat} (h : x < 256) : (BitVec.ofNat 8 x).toNat = x := by
  rw [BitVec.toNat_ofNat]; exact Nat.mod_eq_of_lt h

/-- The bytes of hole values in their widths. -/
def holeBytes (ws hs : List Nat) : List Byte := ((ws.zip hs).map fun p => leBytes p.1 p.2).flatten

theorem holeBytes_cons (w h : Nat) (ws hs : List Nat) : holeBytes (w :: ws) (h :: hs) = leBytes w h ++ holeBytes ws hs := rfl

/-- Hole values that fit their widths are read back, and their bytes are as many as the widths say (R68). -/
theorem takeHoles_holeBytes {ws hs : List Nat} (rest : List Byte) (hl : hs.length = ws.length)
    (h : ∀ p ∈ ws.zip hs, p.2 < 256 ^ p.1) :
    takeHoles ws (holeBytes ws hs ++ rest) = some hs ∧ (holeBytes ws hs).length = ws.sum := by
  induction ws generalizing hs with
  | nil =>
    obtain rfl := List.length_eq_zero_iff.1 hl
    exact ⟨rfl, rfl⟩
  | cons w ws ih =>
    obtain ⟨v, hs, rfl⟩ : ∃ v t, hs = v :: t := List.exists_cons_of_length_eq_add_one hl
    rw [List.zip_cons_cons, List.forall_mem_cons] at h
    obtain ⟨htake, hlen⟩ := ih (Nat.succ.inj hl) h.2
    have hw := length_leBytes w v
    rw [holeBytes_cons, List.append_assoc, takeHoles, List.take_left' hw, List.drop_left' hw, htake, leNat_leBytes h.1,
      if_neg (by simp [hw])]
    exact ⟨rfl, by rw [List.length_append, hw, hlen, List.sum_cons]⟩

section
variable {ws : List Nat} {rest : List Byte}

theorem decodeToken_shortIndex {e : Nat} {hs : List Nat} (he : e < 128) (hl : hs.length = ws.length)
    (h : ∀ p ∈ ws.zip hs, p.2 < 256 ^ p.1) :
    decodeToken (fun _ => ws) (leBytes 1 e ++ holeBytes ws hs ++ rest) =
      some (.shortIndex e hs, (leBytes 1 e ++ holeBytes ws hs).length) := by
  obtain ⟨htake, hlen⟩ := takeHoles_holeBytes rest hl h
  have hb := toNat_byte (show e < 256 by omega)
  rw [List.append_assoc, leBytes_one, List.singleton_append]
  simp only [decodeToken, hb, if_pos he, htake, Option.map_some, List.singleton_append, List.length_cons, hlen]
  rw [Nat.add_comm]

theorem decodeToken_longIndex {e : Nat} {hs : List Nat} (he : e < 16384) (hl : hs.length = ws.length)
    (h : ∀ p ∈ ws.zip hs, p.2 < 256 ^ p.1) :
    decodeToken (fun _ => ws) (leBytes 1 (0x80 + e / 256) ++ leBytes 1 e ++ holeBytes ws hs ++ rest) =
      some (.longIndex e hs, (leBytes 1 (0x80 + e / 256) ++ leBytes 1 e ++ holeBytes ws hs).length) := by
  obtain ⟨htake, hlen⟩ := takeHoles_holeBytes rest hl h
  have hb := toNat_byte (show 0x80 + e / 256 < 256 by omega)
  have hlow : (0x80 + e / 256 - 0x80) * 256 + (BitVec.ofNat 8 e).toNat = e := by rw [BitVec.toNat_ofNat]; omega
  rw [List.append_assoc, List.append_assoc, leBytes_one, leBytes_one]
  simp only [List.cons_append, List.nil_append, decodeToken, hb]
  rw [if_neg (by omega), if_pos (by omega)]
  simp only [hlow, htake, Option.map_some, List.length_cons, hlen]
  rw [show 2 + ws.sum = ws.sum + 1 + 1 by omega]

theorem decodeToken_loop {c imm len : Nat} (hc : c < 256) (hi : imm < 65536) (hl : len < 65536) (hu : c = 255 ∨ imm = 0) :
    decodeToken (fun _ => ws) (leBytes 1 0xC1 ++ leBytes 1 c ++ (if c = 255 then leBytes 2 imm else []) ++ leBytes 2 len ++ rest) =
      some (.loop c imm len, (leBytes 1 0xC1 ++ leBytes 1 c ++ (if c = 255 then leBytes 2 imm else []) ++ leBytes 2 len).length) := by
  have two : ∀ x, x < 65536 → x % 256 + 256 * (x / 256 % 256) = x := fun x hx => by omega
  have hb := toNat_byte hc
  by_cases h : c = 255
  · subst h
    simp only [if_true, leBytes, List.cons_append, List.nil_append, decodeToken, List.length_cons, List.length_nil]
    simp [two imm hi, two len hl]
  · obtain rfl := hu.resolve_left h
    simp only [if_neg h, leBytes, List.cons_append, List.nil_append, decodeToken, List.length_cons, List.length_nil, hb]
    simp [two len hl]

theorem decodeToken_ipf {off n : Nat} (ho : off < 2 ^ 32) (hn : n < 256) :
    decodeToken (fun _ => ws) (leBytes 1 0xC2 ++ leBytes 4 off ++ leBytes 1 n ++ rest) =
      some (.ipf off n, (leBytes 1 0xC2 ++ leBytes 4 off ++ leBytes 1 n).length) := by
  have hoff := leNat_leBytes (n := 4) (x := off) ho
  have hcnt := leNat_leBytes (n := 1) (x := n) hn
  have hlen := length_leBytes 4 off
  rw [List.append_assoc, List.append_assoc, leBytes_one 0xC2, List.singleton_append]
  simp only [decodeToken, List.take_left' hlen, List.drop_left' hlen, List.take_left' (length_leBytes 1 n), hoff, hcnt]
  simp only [length_leBytes, List.length_append, List.length_cons]
  simp
  omega

end

/-- Settles O2, token by token: every kind of token is read back from its bytes. -/
theorem roundTripToken : Obligations.RoundTripToken := by
  intro i ws bs rest hw hb hh
  cases i with
  | shortIndex e hs =>
    obtain rfl := Option.some.inj hb
    simp only [Instr.wf, Bool.and_eq_true, decide_eq_true_eq] at hw
    obtain ⟨hl, hv⟩ := hh e hs (.inl rfl)
    exact decodeToken_shortIndex hw.1.1 hl hv
  | longIndex e hs =>
    obtain rfl := Option.some.inj hb
    simp only [Instr.wf, Bool.and_eq_true, decide_eq_true_eq] at hw
    obtain ⟨hl, hv⟩ := hh e hs (.inr rfl)
    exact decodeToken_longIndex hw.1.1 hl hv
  | idle n =>
    obtain rfl := Option.some.inj hb
    have hn := toNat_byte (of_decide_eq_true hw)
    simp [leBytes_one, decodeToken, hn]
  | loop c imm len =>
    obtain rfl := Option.some.inj hb
    simp only [Instr.wf, Bool.and_eq_true, Bool.or_eq_true, beq_iff_eq, decide_eq_true_eq] at hw
    obtain ⟨⟨⟨hc, hi⟩, hl⟩, hu⟩ := hw
    exact decodeToken_loop hc hi hl hu
  | ipf off n =>
    obtain rfl := Option.some.inj hb
    simp only [Instr.wf, Bool.and_eq_true, decide_eq_true_eq] at hw
    exact decodeToken_ipf hw.1 hw.2
  | unassignedToken b =>
    obtain rfl := Option.some.inj hb
    have hr : 0xC3 ≤ b ∧ b < 256 := of_decide_eq_true hw
    have hn := toNat_byte hr.2
    simp only [leBytes_one, List.singleton_append, decodeToken, hn]
    rw [if_neg (by omega), if_neg (by omega), if_neg (by omega), if_neg (by omega), if_neg (by omega)]
    rfl
  | _ => cases hb

end Sys2Proof
end

section
/-! The slots of a word (R43, R44) and the opcodes their maps leave unassigned (R45, R64, R361 to R364). -/

namespace Sys2Proof

open Sys2Proof.Claims

/-- A slot decodes from its own bits (R44). -/
theorem decodeSlot_congr {w w' : Nat} {sl : Slot} (h : slotBits w sl = slotBits w' sl) : decodeSlot w sl = decodeSlot w' sl := by
  rw [decodeSlot, decodeSlot, slotNop, slotNop, h]

/-- No bit lies in two slots. -/
theorem slot_eq_of_bit {n : Nat} {sl sl' : Slot} (h : sl.lo ≤ n ∧ n < sl.lo + sl.width) (h' : sl'.lo ≤ n ∧ n < sl'.lo + sl'.width) :
    sl' = sl := by
  by_contra hne
  cases sl <;> cases sl' <;> simp only [Slot.lo, Slot.width, not_true_eq_false, reduceCtorEq, not_false_eq_true] at hne h h' <;> omega

/-- Every bit below 504 lies in a slot. -/
theorem exists_slot_of_bit {n : Nat} (h : n < 504) : ∃ sl ∈ slotOrder, sl.lo ≤ n ∧ n < sl.lo + sl.width := by
  by_contra hn
  simp only [slotOrder, List.mem_cons, List.not_mem_nil, or_false, exists_eq_or_imp, exists_eq_left, Slot.lo, Slot.width] at hn
  omega

theorem slotsAreDisjoint_holds : SlotsAreDisjoint := by
  refine ⟨fun w w' sl => decodeSlot_congr, fun n hn => ?_⟩
  obtain ⟨sl, hm, hs⟩ := exists_slot_of_bit hn
  exact ⟨sl, hm, hs.1, hs.2, fun sl' _ h1 h2 => slot_eq_of_bit hs ⟨h1, h2⟩⟩

/-- The field above everything else reads what stands there. -/
theorem field_top {x lo n o : Nat} (h : x / 2 ^ lo = o) (ho : o < 2 ^ n) : x.field lo n = o := by
  rw [Nat.field, h, Nat.mod_eq_of_lt ho]

section
variable {x o : Nat}

theorem decodeS_unassigned (hx : x / 2 ^ 58 = o) (h : 17 ≤ o ∧ o ≤ 23 ∨ 33 ≤ o ∧ o ≤ 39 ∨ 52 ≤ o ∧ o ≤ 63) :
    decodeS x = .error 4 := by
  rw [decodeS, field_top hx (by omega)]
  rcases h with ⟨h1, h2⟩ | ⟨h1, h2⟩ | ⟨h1, h2⟩ <;> interval_cases o <;> rfl

theorem decodeP_unassigned (hx : x / 2 ^ 27 = o) (h : o ∈ [6, 7, 11, 15, 19, 22, 23, 26, 27, 28, 29, 30, 31]) :
    decodeP x = .error 4 := by
  have ho : o < 2 ^ 5 := (by decide : ∀ k ∈ [6, 7, 11, 15, 19, 22, 23, 26, 27, 28, 29, 30, 31], k < 2 ^ 5) o h
  rw [decodeP, field_top hx ho]
  fin_cases h <;> rfl

/-- In a lane slot a guard index that is unassigned is refused before the opcode. -/
theorem noOp_eq (n : Nat) : noOp n = .error (if n < 48 then 4 else 3) := by
  rw [noOp]; rcases Nat.lt_or_ge n 48 with h | h <;> simp [h]

theorem decodeV_unassigned (hx : x / 2 ^ 50 = o)
    (h : 22 ≤ o ∧ o ≤ 31 ∨ 42 ≤ o ∧ o ≤ 47 ∨ 51 ≤ o ∧ o ≤ 55 ∨ 57 ≤ o ∧ o ≤ 63) :
    decodeV x = .error (if x / 2 ^ 43 % 64 < 48 then 4 else 3) := by
  rw [← noOp_eq, decodeV, field_top hx (by omega)]
  rcases h with ⟨h1, h2⟩ | ⟨h1, h2⟩ | ⟨h1, h2⟩ | ⟨h1, h2⟩ <;> interval_cases o <;> rfl

theorem decodeX_unassigned (hx : x / 2 ^ 43 = o) (h : o = 7 ∨ 15 ≤ o ∧ o ≤ 31) :
    decodeX x = .error (if x / 2 ^ 36 % 64 < 48 then 4 else 3) := by
  rw [← noOp_eq, decodeX, field_top hx (by omega)]
  rcases h with rfl | ⟨h1, h2⟩
  · rfl
  · interval_cases o <;> rfl

theorem decodeA_unassigned (hx : x / 2 ^ 44 = o) (h1 : 7 ≤ o) (h2 : o ≤ 15) : decodeA x = .error 4 := by
  rw [decodeA, field_top hx (by omega)]
  interval_cases o <;> rfl

theorem decodeM_unassigned (hx : x / 2 ^ 51 = o) (h1 : 16 ≤ o) (h2 : o ≤ 31) :
    decodeM x = .error (if x / 2 ^ 44 % 64 < 48 then 4 else 3) := by
  rw [← noOp_eq, decodeM, field_top hx (by omega)]
  interval_cases o <;> rfl

theorem decodeT_unassigned (hx : x / 2 ^ 45 = o) (h1 : 6 ≤ o) (h2 : o ≤ 7) : decodeT x = .error 4 := by
  rw [decodeT, field_top hx (by omega)]
  interval_cases o <;> rfl

theorem decodeC_unassigned (hx : x / 2 ^ 44 = o) (h1 : 9 ≤ o) (h2 : o ≤ 15) : decodeC x = .error 4 := by
  rw [decodeC, field_top hx (by omega)]
  interval_cases o <;> rfl

end

theorem unassignedOpcodesRefused_holds : UnassignedOpcodesRefused := fun _ =>
  ⟨decodeS_unassigned rfl, decodeP_unassigned rfl, decodeV_unassigned rfl, decodeX_unassigned rfl, decodeA_unassigned rfl,
    decodeM_unassigned rfl, decodeT_unassigned rfl, decodeC_unassigned rfl⟩

/-- Settles O3: the slots lie side by side, and the opcodes no row of a slot's map names fall through to its refusal. -/
theorem slotsDecode : Obligations.SlotsDecode := ⟨slotsAreDisjoint_holds, unassignedOpcodesRefused_holds⟩

/-- Settles O4 by evaluation: each word decodes to the operation the manual writes it for. -/
theorem writtenWordsDecode : Obligations.WrittenWordsDecode :=
  ⟨rfl, rfl, rfl, rfl, rfl, rfl, rfl, rfl, rfl, rfl, rfl, rfl, rfl, rfl, rfl, rfl, rfl⟩

end Sys2Proof
end

section
/-! The step (R56, R67, R69): what runs next, and what reset leaves. -/

namespace Sys2Proof.Machine

open Sys2Proof.Claims

-- What a step runs, from what `fetch` answers.

theorem step_of_fetch {s t : State} {i : Instr} (h : s.fetch = .ok (i, t)) :
    step s = match exec i t with
      | .next u => .next u.retire
      | .fault f => .fault f
      | .refused r => .refused r := by
  rw [step, h] <;> rfl

theorem fetch_slot {s : State} {c : Issue} {sl : Slot} {rest : List Slot} {i : Instr} (hc : s.issue = some c)
    (hs : c.slots = sl :: rest) (hd : decodeSlot c.word sl = some i) :
    s.fetch = .ok (i, { s with issue := some { c with slots := rest, cur := sl } }) := by
  simp only [State.fetch, hc, hs, hd]

section
variable {s : State} {x : Sel} {b : Block} {w : Warp} (hc : s.issue = none) (hx : s.sel = some x)
  (hb : s.block? x.block = some b) (hw : b.warp? x.warp = some w)
include hc hx hb hw

theorem fetch_emptyWord (hi : w.idle ≠ 0) : s.fetch = .ok (.emptyWord, s) := by
  simp only [State.fetch, hc, hx, hb, hw, if_pos hi]

theorem fetch_token {i : Instr} {n : Nat} (hi : w.idle = 0) (hp : w.pc < (s.code b w).bytes.length)
    (hd : decodeToken (s.code b w).widths ((s.code b w).bytes.drop w.pc) = some (i, n)) : s.fetch = .ok (i, s) := by
  simp only [State.fetch, hc, hx, hb, hw, hi, hd, ne_eq, not_true_eq_false, if_false, if_neg (Nat.not_le.2 hp)]

end

theorem fetch_agenda {s : State} {e : Event} {r : List Event} (hc : s.issue = none) (hx : s.sel = none) (ha : s.agenda = e :: r) :
    s.fetch = .ok (e.step, ({ s with agenda := r }.advance e.advance).settleCommits) := by
  simp only [State.fetch, hc, hx, ha]

theorem stepRunsDecodedSlot_holds : StepRunsDecodedSlot := fun _ _ _ _ _ hc hs hd => step_of_fetch (fetch_slot hc hs hd)

theorem stepRunsDecodedToken_holds : StepRunsDecodedToken := fun _ _ _ _ hc hx hb hw =>
  ⟨fun hi => step_of_fetch (fetch_emptyWord hc hx hb hw hi), fun _ _ hi hp hd => step_of_fetch (fetch_token hc hx hb hw hi hp hd)⟩

theorem stepRunsAgenda_holds : StepRunsAgenda := fun _ _ _ hc hx ha => step_of_fetch (fetch_agenda hc hx ha)

/-- Settles O5, by what `fetch` answers for a word in issue, a warp chosen and an agenda. -/
theorem stepRunsWhatIsNext : Obligations.StepRunsWhatIsNext :=
  ⟨stepRunsDecodedSlot_holds, stepRunsDecodedToken_holds, stepRunsAgenda_holds⟩

theorem resetMemoryCanonical_holds : ResetMemoryCanonical := ⟨rfl, ⟨rfl, rfl, rfl, rfl, rfl⟩, fun _ => rfl⟩

/-- Every stack, also one of a number beyond the four, is as at reset. -/
theorem reset_stack (k : Nat) : State.reset.stack? k = Stack.reset := by
  rw [State.stack?, List.getD_eq_getElem?_getD, State.reset, List.getElem?_replicate]
  split <;> rfl

theorem resetValues_holds : ResetValues := by
  refine ⟨fun k _ => ?_, rfl, rfl, rfl, fun p hp => ?_, rfl, rfl, rfl, rfl, rfl, rfl⟩
  · rw [reset_stack]; exact ⟨rfl, rfl, rfl, rfl⟩
  · obtain rfl : p = Port.reset := List.eq_of_mem_replicate hp
    exact ⟨rfl, rfl, rfl, rfl⟩

/-- Settles O8 by evaluation of the state after reset. -/
theorem resetState : Obligations.ResetState := ⟨resetMemoryCanonical_holds, resetValues_holds⟩

end Sys2Proof.Machine
end
section
/-! Results in flight and their landing (R6, R25, R50 to R56). -/

namespace Sys2Proof.Machine

open Sys2Proof.Claims

-- Reading a list after one entry of it is written.

theorem getD_set_eq_ite {α : Type} {l : List α} {d r : Nat} {v e : α} (hd : d < l.length) :
    (l.set d v).getD r e = if r = d then v else l.getD r e := by
  rw [List.getD_eq_getElem?_getD, List.getElem?_set, List.getD_eq_getElem?_getD]
  by_cases h : r = d
  · subst h; simp [hd]
  · simp [h, Ne.symm h]

theorem getD_blend {m : Mask} {new old : Lanes} {l : Nat} (hl : l < 32) :
    (blend m new old).getD l 0 = if m.getLsbD l then new.getD l 0 else old.getD l 0 :=
  getD_of_getElem?_some (getElem?_laneMap _ hl)

theorem getLsbD_merge (m v u : Mask) {l : Nat} (hl : l < 32) :
    ((v &&& m) ||| (u &&& ~~~m)).getLsbD l = if m.getLsbD l then v.getLsbD l else u.getLsbD l := by
  rw [BitVec.getLsbD_or, BitVec.getLsbD_and, BitVec.getLsbD_and, BitVec.getLsbD_not]
  cases m.getLsbD l <;> simp [hl]

-- One result.

section
variable (w : Warp) {d r : Nat}

theorem sread_land {v : Word64} (hd : d < w.s.length) : (w.land (.sreg d v)).sread r = if r = d ∧ d ≠ 0 then v else w.sread r := by
  by_cases h0 : d = 0
  · simp [Warp.land, h0]
  · simp only [Warp.land, if_neg h0, Warp.sread, getD_set_eq_ite hd]
    by_cases hr : r = d
    · simp [hr, h0]
    · simp [hr]

theorem qread_land {v : Bool} (hd : d < w.q.length) : (w.land (.qreg d v)).qread r = if r = d ∧ d ≠ 0 then v else w.qread r := by
  by_cases h0 : d = 0
  · simp [Warp.land, h0]
  · simp only [Warp.land, if_neg h0, Warp.qread, getD_set_eq_ite hd]
    by_cases hr : r = d
    · simp [hr, h0]
    · simp [hr]

theorem pread_land {m v : Mask} (hd : d < w.p.length) {l : Nat} (hl : l < 32) :
    ((w.land (.preg d m v)).pread r).getLsbD l =
      if r = d ∧ d ≠ 0 ∧ m.getLsbD l = true then v.getLsbD l else (w.pread r).getLsbD l := by
  by_cases h0 : d = 0
  · simp [Warp.land, h0]
  · simp only [Warp.land, if_neg h0, Warp.pread, getD_set_eq_ite hd]
    by_cases hr : r = d
    · subst hr; rw [if_neg h0, if_pos rfl, getLsbD_merge _ _ _ hl]; simp [h0]
    · simp [hr]

theorem vread_land {m : Mask} {v : Lanes} (hd : d < w.v.length) {l : Nat} (hl : l < 32) :
    ((w.land (.vreg d m v)).vread r).getD l 0 = if r = d ∧ m.getLsbD l = true then v.getD l 0 else (w.vread r).getD l 0 := by
  rw [Warp.land, Warp.vread, getD_set_eq_ite hd]
  by_cases hr : r = d
  · subst hr; rw [if_pos rfl, getD_blend hl]; simp
  · simp [hr, Warp.vread]

/-- What one result writes beside its own register is nothing. -/
theorem land_s (v : Word64) : w.land (.sreg d v) = { w with s := (w.land (.sreg d v)).s } := by
  simp only [Warp.land]; split <;> rfl
theorem land_q (v : Bool) : w.land (.qreg d v) = { w with q := (w.land (.qreg d v)).q } := by
  simp only [Warp.land]; split <;> rfl
theorem land_p (m v : Mask) : w.land (.preg d m v) = { w with p := (w.land (.preg d m v)).p } := by
  simp only [Warp.land]; split <;> rfl

end

/-- A latch written keeps the lanes outside the mask, and no other latch changes (R50). -/
theorem getD_latchWrites {ls : List Lanes} {k r : Nat} {m : Mask} {v : Lanes} (hk : k < ls.length) {l : Nat} (hl : l < 32) :
    ((latchWrites ls [.latch k m v]).getD r (splat 0)).getD l 0 =
      if r = k ∧ m.getLsbD l = true then v.getD l 0 else (ls.getD r (splat 0)).getD l 0 := by
  rw [show latchWrites ls [.latch k m v] = ls.set k (blend m v (ls.getD k (splat 0))) from rfl, getD_set_eq_ite hk]
  by_cases hr : r = k
  · subst hr; rw [if_pos rfl, getD_blend hl]; simp
  · simp [hr]

theorem latchWrites_other {ls : List Lanes} {e : Effect} (h : ∀ k m v, e ≠ .latch k m v) : latchWrites ls [e] = ls := by
  cases e with
  | latch k m v => exact absurd rfl (h k m v)
  | sreg | vreg | preg | qreg | breg | xreg | spillRec | spillOff => rfl

theorem landingWrites_holds : LandingWrites := by
  refine ⟨fun w _ v _ hd => ⟨sread_land w hd, land_s w v⟩, fun w _ v _ hd => ⟨qread_land w hd, land_q w v⟩,
    fun w _ m v _ hd _ hl => ⟨pread_land w hd hl, land_p w m v⟩, fun w _ _ _ _ hd _ hl => ⟨vread_land w hd hl, rfl⟩,
    fun w _ _ _ hd => ⟨getD_set_eq_ite hd, rfl⟩, fun w _ _ _ hd => ⟨getD_set_eq_ite hd, rfl⟩,
    fun _ _ _ _ _ _ => ⟨rfl, rfl, rfl, rfl⟩, fun _ _ _ => ⟨rfl, rfl⟩,
    fun _ _ _ _ _ _ hk => ⟨rfl, fun _ hl => getD_latchWrites hk hl⟩, fun _ _ h => latchWrites_other h⟩

/-- The warp that `modWarp` names reads as its changed self. -/
theorem State.warp?_modWarp_self {s : State} {n k : Nat} {w : Warp} {f : Warp → Warp} (hw : s.warp? n k = some w)
    (hf : ∀ v, (f v).num = v.num) : (s.modWarp n k f).warp? n k = some (f w) := by
  rw [State.warp?_modWarp _ _ _ _ _ _ hf, hw]
  simp

-- Results in flight.

theorem resultInFlightFrame_holds : ResultInFlightFrame := by
  intro s c b w lat effs hb hw
  have hf := State.fly_eq lat effs hb hw
  refine ⟨hf, by rw [hf]; rfl, fun a => by rw [State.fly_mem], fun n k v hv => ?_⟩
  have hm := State.warp?_modWarp s c.block c.warp n k
    (fun v => { v with flights := v.flights ++
      [{ landing := c.cycle + lat, issued := c.cycle, turn := (s.pitch (coreId b w) w.pitch).turn, effs }] }) (fun _ => rfl)
  rw [hf, hm, hv]
  refine ⟨_, rfl, ?_, fun hne => ?_⟩
  · dsimp only; split <;> rfl
  · exact if_neg fun ⟨hn, hk⟩ => hne (by rw [hn, hk])

-- The results of a warp that are due.

theorem Warp.land_stopRec (w : Warp) (e : Effect) : (w.land e).stopRec = w.stopRec := by
  cases e <;> simp only [Warp.land]
  case sreg | preg | qreg => split <;> rfl

theorem Warp.foldLand_stopRec (fs : List Flight) (w : Warp) : (fs.foldl (fun v f => v.landAll f.effs) w).stopRec = w.stopRec := by
  have all (l : List Effect) (w : Warp) : (w.landAll l).stopRec = w.stopRec := by
    induction l generalizing w with
    | nil => rfl
    | cons e r ih => exact (ih _).trans (w.land_stopRec e)
  induction fs generalizing w with
  | nil => rfl
  | cons f r ih => exact (ih _).trans (all _ _)

/-- A pitch bears its own numbers, listed or not. -/
theorem State.pitch_core (s : State) (core p : Nat) : (s.pitch core p).core = core ∧ (s.pitch core p).pitch = p := by
  unfold State.pitch
  cases h : s.pitches.find? fun x => x.core == core && x.pitch == p with
  | none => exact ⟨rfl, rfl⟩
  | some x => simpa using List.find?_some h

/-- A pitch set is read back. -/
theorem State.pitch_setPitch_of {s : State} {x : Pitch} {core p : Nat} (hc : x.core = core) (hp : x.pitch = p) :
    (s.setPitch x).pitch core p = x := by
  subst hc hp; exact s.pitch_setPitch x

/-- A warp after the results `due` have landed at cycle `t` (R56 step 1). -/
def Warp.landDue (due : List Flight) (t : Nat) (w : Warp) : Warp :=
  { due.foldl (fun v f => v.landAll f.effs) w with
    flights := w.flights.filter fun f => !decide (f.landing ≤ t)
    pend := w.pend.filter fun p => match p.returned with
      | some c => !decide (c < t)
      | none => true
    gathers := w.gathers.filter fun g => decide (t < g.1) }

theorem Warp.landDue_num (due : List Flight) (t : Nat) (w : Warp) : (w.landDue due t).num = w.num := Warp.foldLand_num _ _
theorem Warp.landDue_stopRec (due : List Flight) (t : Nat) (w : Warp) : (w.landDue due t).stopRec = w.stopRec :=
  Warp.foldLand_stopRec _ _

/-- The results of a warp that are due at cycle `t`. -/
def Warp.due (w : Warp) (t : Nat) : List Flight := w.flights.filter fun f => decide (f.landing ≤ t)

/-- The latches of a warp's pitch after what is due has landed. -/
def dueLatches (p : Pitch) (mine : Bool) (due : List Flight) : List Lanes :=
  due.foldl (fun ls f => if mine && f.turn == p.turn then latchWrites ls f.effs else ls) p.latches

theorem dueLatches_mine (p : Pitch) (due : List Flight) :
    dueLatches p true due = (due.filter fun f => f.turn == p.turn).foldl (fun ls f => latchWrites ls f.effs) p.latches := by
  rw [List.foldl_filter]; rfl

theorem dueLatches_other (p : Pitch) (due : List Flight) : dueLatches p false due = p.latches := by
  unfold dueLatches
  induction due with
  | nil => rfl
  | cons f r ih => exact ih

-- A stop record.

/-- What a record written into a Lantern ring leaves alone. -/
theorem State.ringWrite_frame (s : State) (fn : Nat) (bs : List Byte) :
    s.ringWrite fn bs = { s with mem := (s.ringWrite fn bs).mem, lantern := (s.ringWrite fn bs).lantern } := by
  simp only [State.ringWrite]; split <;> rfl

theorem State.ringWrite_blocks (s : State) (fn : Nat) (bs : List Byte) : (s.ringWrite fn bs).blocks = s.blocks := by
  rw [State.ringWrite_frame]
theorem State.ringWrite_pitches (s : State) (fn : Nat) (bs : List Byte) : (s.ringWrite fn bs).pitches = s.pitches := by
  rw [State.ringWrite_frame]

section
variable {s : State} {bid n : Nat} {w : Warp} (hw : s.warp? bid n = some w)

/-- No record is written of a warp that owes none or has not drained. -/
theorem State.stopRecord_keeps (hw : s.warp? bid n = some w) (h : w.stopRec = none ∨ ¬(w.flights = [] ∧ w.pend = [])) :
    s.stopRecord bid n = s := by
  simp only [State.stopRecord, hw]
  cases hr : w.stopRec with
  | none => rfl
  | some fn =>
    have hd := h.resolve_left (by simp [hr])
    rw [not_and_or] at hd
    exact if_pos (by simpa using hd)

theorem State.stopRecord_warp (hw : s.warp? bid n = some w) :
    (s.stopRecord bid n).warp? bid n = some { w with stopRec := if w.flights = [] ∧ w.pend = [] then none else w.stopRec } := by
  by_cases h : w.stopRec = none ∨ ¬(w.flights = [] ∧ w.pend = [])
  · rw [State.stopRecord_keeps hw h, hw]
    rcases h with h | h
    · simp [← h]
    · rw [if_neg h]
  · push Not at h
    obtain ⟨fn, hr⟩ := Option.ne_none_iff_exists'.1 h.1
    have hring (u : State) (bs : List Byte) : (u.ringWrite fn bs).warp? bid n = u.warp? bid n := by
      simp only [State.warp?, State.block?, State.ringWrite_blocks]
    simp only [State.stopRecord, hw, hr, h.2.1, h.2.2]
    rw [if_neg (by simp)]
    have hw' : ((s.freeBytes 256).2.ringWrite fn (s.freeBytes 256).1).warp? bid n = some w := (hring _ _).trans hw
    refine (State.warp?_modWarp_self hw' ?_).trans ?_
    · exact fun _ => rfl
    · simp [h.2.1, h.2.2]

theorem State.stopRecord_pitch (s : State) (bid n core p : Nat) : (s.stopRecord bid n).pitch core p = s.pitch core p := by
  unfold State.stopRecord
  split
  · rfl
  · split
    · rfl
    · split
      · rfl
      · simp only [State.pitch, State.modWarp_pitches, State.ringWrite_pitches, State.freeBytes]

end

/-- The pitch of a warp after what is due has landed. -/
def State.landedPitch (s : State) (b : Block) (w : Warp) (t : Nat) : Pitch :=
  { s.pitchOf b w with
    latches := dueLatches (s.pitchOf b w) ((s.pitchOf b w).holder == some (b.bid, w.num)) (w.due t) }

theorem State.landWarp_eq (s : State) (b : Block) (w : Warp) (t : Nat) :
    s.landWarp b w t =
      ((s.modWarp b.bid w.num (Warp.landDue (w.due t) t)).setPitch (s.landedPitch b w t)).stopRecord b.bid w.num := rfl

theorem landingAtItsCycle_holds : LandingAtItsCycle := by
  intro s b w t hw due flights pend drained p q
  have landed : ((s.modWarp b.bid w.num (Warp.landDue (w.due t) t)).setPitch (s.landedPitch b w t)).warp? b.bid w.num =
      some (Warp.landDue (w.due t) t w) :=
    State.warp?_modWarp_self hw (Warp.landDue_num _ _)
  have hq : q = s.landedPitch b w t := by
    have hp := s.pitch_core (coreId b w) w.pitch
    show (s.landWarp b w t).pitch _ _ = _
    rw [State.landWarp_eq, State.stopRecord_pitch]
    exact State.pitch_setPitch_of hp.1 hp.2
  refine ⟨?_, by rw [hq]; rfl, fun hh => ?_, fun hh => ?_, fun hd a => ?_⟩
  · rw [State.landWarp_eq, State.stopRecord_warp landed, Warp.landDue_stopRec]
    rfl
  · have hmine : ((s.pitchOf b w).holder == some (b.bid, w.num)) = true := by simpa using hh
    rw [hq, State.landedPitch, hmine, dueLatches_mine]
    rfl
  · have hmine : ((s.pitchOf b w).holder == some (b.bid, w.num)) = false := by simpa using hh
    rw [hq, State.landedPitch, hmine, dueLatches_other]
  · rw [State.landWarp_eq, State.stopRecord_keeps landed (by rw [Warp.landDue_stopRec]; exact hd)]
    rfl

/-- Settles O9: a result waits in its own warp, lands in its own register, and does so in step 1 of its cycle. -/
theorem resultsLand : Obligations.ResultsLand := ⟨resultInFlightFrame_holds, landingWrites_holds, landingAtItsCycle_holds⟩

end Sys2Proof.Machine
end

section
/-! Memory stays in its canonical form: what each operation on the state leaves of it, a lemma for each, equal where the
operation writes none and canonical where it writes some; then the shapes of the instructions, the instructions, the step. -/

namespace Sys2Proof.Machine

-- The state's operations, the pitch cycle, the scalar and predicate slots.

/-- What one turn of a fold keeps, the fold keeps. -/
theorem foldl_keeps {σ α β : Type} (g : σ → β) {f : σ → α → σ} (hf : ∀ s a, g (f s a) = g s) (l : List α) (s : σ) :
    g (l.foldl f s) = g s := by
  induction l generalizing s with
  | nil => rfl
  | cons a r ih => exact (ih _).trans (hf s a)

/-- What one turn of a fold preserves, the fold preserves. -/
theorem foldl_preserves {σ α : Type} {P : σ → Prop} {f : σ → α → σ} (hf : ∀ s a, P s → P (f s a)) (l : List α) (s : σ)
    (h : P s) : P (l.foldl f s) := by
  induction l generalizing s with
  | nil => exact h
  | cons a r ih => exact ih _ (hf s a h)

/-- A fold over memories whose turns keep them canonical keeps them canonical. -/
theorem Memory.foldl_wf {α : Type} {f : Memory → α → Memory} (hf : ∀ (m : Memory) a, m.wf = true → (f m a).wf = true)
    (l : List α) {m : Memory} (h : m.wf = true) : (l.foldl f m).wf = true :=
  foldl_preserves (P := fun m : Memory => m.wf = true) hf l m h

/-- A fold whose turns keep memory canonical keeps it canonical. -/
theorem foldl_memWf {α : Type} {f : State → α → State} (hf : ∀ (u : State) a, u.mem.wf = true → (f u a).mem.wf = true)
    (l : List α) {s : State} (h : s.mem.wf = true) : (l.foldl f s).mem.wf = true :=
  foldl_preserves (P := fun u : State => u.mem.wf = true) hf l s h

@[simp] theorem State.fresh_mem (s : State) : (State.fresh s).2.mem = s.mem := rfl

@[simp] theorem State.freeWord_mem (s : State) : (State.freeWord s).2.mem = s.mem := rfl

@[simp] theorem State.freeBytes_mem (s : State) (n : Nat) : (State.freeBytes s n).2.mem = s.mem := rfl

@[simp] theorem State.flyIn_mem (s : State) (c : Issue) (m : Mask) (latency : Nat) (effs : List Effect) :
    (State.flyIn s c m latency effs).mem = s.mem := by
  unfold State.flyIn
  split <;> simp

@[simp] theorem State.parkAll_mem (s : State) (bid wn : Nat) (rs : List LaneRec) (fatal : Nat) :
    (State.parkAll s bid wn rs fatal).mem = s.mem := foldl_keeps State.mem (by intros; rfl) _ _

@[simp] theorem State.handlerReturn_mem (s : State) (bid wn : Nat) (skip : Bool) :
    (State.handlerReturn s bid wn skip).mem = s.mem := rfl

@[simp] theorem State.acquire_mem (s : State) (b : Block) (w : Warp) (sc : Scope) : (State.acquire s b w sc).mem = s.mem := by
  unfold State.acquire
  (repeat' split) <;> rfl

@[simp] theorem State.requestCkpt_mem (s : State) (region cause grant : Nat) (for_ : CkptFor) :
    (State.requestCkpt s region cause grant for_).mem = s.mem := rfl

@[simp] theorem State.countMeter_mem (s : State) (region : Option Nat) (n : Nat) : (State.countMeter s region n).mem = s.mem := by
  unfold State.countMeter
  dsimp only
  (repeat' split) <;> rfl

@[simp] theorem State.setEmpty_mem (s : State) (gs : List Nat) : (State.setEmpty s gs).mem = s.mem := rfl

@[simp] theorem State.setFull_mem (s : State) (gs : List Nat) : (State.setFull s gs).mem = s.mem := rfl

@[simp] theorem State.clearTags_mem (s : State) (addr n : Nat) : (State.clearTags s addr n).mem = s.mem := rfl

@[simp] theorem State.taintKept_mem (s : State) (addrs : List Nat) : (State.taintKept s addrs).mem = s.mem := rfl

@[simp] theorem State.taint_mem (s : State) (who : Nat) (addrs : List Nat) : (State.taint s who addrs).mem = s.mem := rfl

@[simp] theorem State.writeHome_wf {s : State} (addr : Nat) (bs : List Byte) (h : s.mem.wf = true) :
    (State.writeHome s addr bs).mem.wf = true := by
  simp [State.writeHome, h]

@[simp] theorem State.updateL1_mem (s : State) (core base off : Nat) (bs : List Byte) :
    (State.updateL1 s core base off bs).mem = s.mem := rfl

@[simp] theorem State.countAccess_mem (s : State) (base off stack : Nat) : (State.countAccess s base off stack).mem = s.mem := by
  unfold State.countAccess
  dsimp only
  split <;> rfl

@[simp] theorem State.pin_mem (s : State) (up : Bool) (fs : List (Nat × Nat)) :
    (State.pin s up fs).mem = s.mem := foldl_keeps State.mem (by intros; rfl) _ _

@[simp] theorem State.fog_mem (s : State) (who : Option (Nat × Nat)) (id addr : Nat) (bs : List Byte) :
    (State.fog s who id addr bs).2.mem = s.mem := by
  unfold State.fog
  dsimp only
  split <;> rfl

@[simp] theorem State.lookup_mem (s : State) (who : Option (Nat × Nat)) (id : Nat) (stores : List (Nat × Byte)) (addr n : Nat) :
    (State.lookup s who id stores addr n).2.mem = s.mem := by
  simp [State.lookup]

@[simp] theorem State.hintLines_mem (s : State) (b : Block) (w : Warp) (off : Int) (n : Nat) :
    (State.hintLines s b w off n).mem = s.mem := rfl

@[simp] theorem State.ringWrite_wf {s : State} (fn : Nat) (bs : List Byte) (h : s.mem.wf = true) :
    (State.ringWrite s fn bs).mem.wf = true := by
  unfold State.ringWrite
  dsimp only
  split <;> simp [h]

@[simp] theorem State.observeCtx_mem (s : State) (e x ctx : Nat) (who : Option (Block × Warp)) :
    (State.observeCtx s e x ctx who).mem = s.mem := rfl

@[simp] theorem State.observe_mem (s : State) (e x bid wn : Nat) : (State.observe s e x bid wn).mem = s.mem := by
  unfold State.observe
  split <;> rfl

@[simp] theorem State.reachPoint_mem (s : State) (bid wn : Nat) : (State.reachPoint s bid wn).mem = s.mem := by
  unfold State.reachPoint
  dsimp only
  (repeat' split) <;> rfl

@[simp] theorem State.leave_mem (s : State) (b : Block) (l : List Warp) :
    (State.leave s b l).mem = s.mem := foldl_keeps State.mem (fun s w => State.acquire_mem s b w .block) _ _

@[simp] theorem State.barrierDone_mem (s : State) (bid id : Nat) : (State.barrierDone s bid id).mem = s.mem := by
  unfold State.barrierDone
  dsimp only
  (repeat' split) <;> simp

@[simp] theorem State.regroupDone_mem (s : State) (bid core pitch : Nat) : (State.regroupDone s bid core pitch).mem = s.mem := by
  unfold State.regroupDone
  dsimp only
  (repeat' split) <;> simp

@[simp] theorem State.ungroupDone_mem (s : State) (bid core pitch : Nat) : (State.ungroupDone s bid core pitch).mem = s.mem := by
  unfold State.ungroupDone
  dsimp only
  (repeat' split) <;> simp

@[simp] theorem State.syncs_mem (s : State) (bid : Nat) : (State.syncs s bid).mem = s.mem := by
  have bars := foldl_keeps State.mem (fun s id => State.barrierDone_mem s bid id) (List.range 16) s
  unfold State.syncs
  dsimp only
  split
  · exact bars
  · exact (foldl_keeps State.mem (fun _ _ => by simp) _ _).trans bars

@[simp] theorem State.holdAcquire_mem (s : State) (b : Block) (w : Warp) (h : Hold) : (State.holdAcquire s b w h).mem = s.mem := by
  unfold State.holdAcquire
  split <;> simp

@[simp] theorem State.settleHold_mem (s : State) (bid wn t : Nat) : (State.settleHold s bid wn t).mem = s.mem := by
  unfold State.settleHold
  dsimp only
  (repeat' split) <;> simp [foldl_keeps State.mem (fun s h => State.holdAcquire_mem s _ _ h)]

@[simp] theorem State.stopRecord_wf {s : State} (bid wn : Nat) (h : s.mem.wf = true) :
    (State.stopRecord s bid wn).mem.wf = true := by
  unfold State.stopRecord
  (repeat' split) <;> simp [h]

@[simp] theorem State.landWarp_wf {s : State} (b : Block) (w : Warp) (t : Nat) (h : s.mem.wf = true) :
    (State.landWarp s b w t).mem.wf = true := by
  simp [State.landWarp, h]

@[simp] theorem State.turnEnds_mem (s : State) (core p : Nat) : (State.turnEnds s core p).mem = s.mem := by
  unfold State.turnEnds
  dsimp only
  (repeat' split) <;> simp

@[simp] theorem State.stopCheck_wf {s : State} (b : Block) (w : Warp) (tok : Nat) (h : s.mem.wf = true) :
    (State.stopCheck s b w tok).mem.wf = true := by
  unfold State.stopCheck
  dsimp only
  (repeat' split) <;> simp [h]

@[simp] theorem State.streamTrap_wf {s : State} (bid wn code pc : Nat) (h : s.mem.wf = true) :
    (State.streamTrap s bid wn code pc).mem.wf = true := by
  unfold State.streamTrap
  dsimp only
  (repeat' split) <;> simp [h]

@[simp] theorem State.noteMiss_mem (s : State) (t : Nat) (bw : Block × Warp) : (State.noteMiss s t bw).mem = s.mem := by
  unfold State.noteMiss
  dsimp only
  (repeat' split) <;> rfl

@[simp] theorem State.pitchLand_wf {s : State} (stack core pitch t : Nat) (h : s.mem.wf = true) :
    (State.pitchLand s stack core pitch t).mem.wf = true := by
  have land (u : State) (bw : Block × Warp) (hu : u.mem.wf = true) :
      (match u.warp? bw.1.bid bw.2.num with
        | some w => (u.landWarp bw.1 w t).settleHold bw.1.bid bw.2.num t
        | none => u).mem.wf = true := by
    split <;> simp [hu]
  unfold State.pitchLand
  dsimp only
  rw [foldl_keeps State.mem (fun u bw => State.noteMiss_mem u t bw), foldl_keeps State.mem State.syncs_mem]
  exact foldl_memWf land _ h

@[simp] theorem State.pitchSelect_mem (s : State) (stack core pitch t : Nat) :
    (State.pitchSelect s stack core pitch t).mem = s.mem := by
  unfold State.pitchSelect
  dsimp only
  (repeat' split) <;> simp

@[simp] theorem State.pitchStep_wf {s : State} (stack core pitch t : Nat) (h : s.mem.wf = true) :
    (State.pitchStep s stack core pitch t).mem.wf = true := by
  simp [State.pitchStep, h]

@[simp] theorem State.pulseDone_mem (s : State) (stack cluster : Nat) : (State.pulseDone s stack cluster).mem = s.mem := rfl

@[simp] theorem State.beginWord_mem (s : State) (c : Issue) : (State.beginWord s c).mem = s.mem := by
  unfold State.beginWord
  dsimp only
  (repeat' split) <;> simp

@[simp] theorem State.stopAt_wf {s : State} (c : Issue) (tok : Nat) (h : s.mem.wf = true) :
    (State.stopAt s c tok).mem.wf = true := by
  unfold State.stopAt
  (repeat' split) <;> simp [h]

@[simp] theorem State.finishWord_wf {s : State} (h : s.mem.wf = true) : (State.finishWord s).mem.wf = true := by
  unfold State.finishWord
  dsimp only
  (repeat' split) <;> simp [h]

@[simp] theorem State.advance_mem (s : State) (ds : List Nat) : (State.advance s ds).mem = s.mem := rfl

@[simp] theorem State.request_mem (s : State) (c : Issue) (w : Warp) (b d : Nat) (link : Option Nat) :
    (State.request s c w b d link).mem = s.mem := rfl

@[simp] theorem State.holdOn_mem (s : State) (c : Issue) (k : HoldKind) (upto : Nat) : (State.holdOn s c k upto).mem = s.mem := rfl

@[simp] theorem State.newMask_mem (s : State) (m : Mask) (l : List MaskEntry) : (State.newMask s m l).mem = s.mem := rfl

@[simp] theorem State.noteStore_mem (s : State) (addr n : Nat) : (State.noteStore s addr n).mem = s.mem := by
  unfold State.noteStore
  split <;> rfl

@[simp] theorem State.localStore_wf {s : State} (core off : Nat) (bs : List Byte) (h : s.mem.wf = true) :
    (State.localStore s core off bs).mem.wf = true := by
  simp [State.localStore, h]

@[simp] theorem State.fatalWord_mem (s : State) (c : Issue) (code trap rcd lane : Nat) (c0 c1 : Word32) :
    (State.fatalWord s c code trap rcd lane c0 c1).mem = s.mem := rfl

@[simp] theorem State.spillFatal_mem (s : State) (c : Issue) (code trap rcd : Nat) :
    (State.spillFatal s c code trap rcd).mem = s.mem := rfl

@[simp] theorem State.spill_wf {s : State} (c : Issue) (b : Block) (w : Warp) (write : Bool) (offs : List Nat)
    {f : List Loc → State → State} (hf : ∀ (l : List Loc) (u : State), u.mem.wf = true → (f l u).mem.wf = true) (h : s.mem.wf = true) :
    (s.spill c b w write offs f).mem.wf = true := by
  unfold State.spill
  (repeat' split) <;> simp [h, hf]

@[simp] theorem State.spillCount_mem (s : State) (b : Block) (w : Warp) (l : Loc) : (State.spillCount s b w l).mem = s.mem := by
  unfold State.spillCount
  split <;> simp

@[simp] theorem State.spillStore_wf {s : State} (b : Block) (w : Warp) (l : Loc) (bs : List Byte) (h : s.mem.wf = true) :
    (State.spillStore s b w l bs).mem.wf = true := by
  unfold State.spillStore
  split <;> simp [h]

@[simp] theorem State.setBankMasks_mem (s : State) (c : Issue) (l : List MaskEntry) (off : Word64) :
    (State.setBankMasks s c l off).mem = s.mem := rfl

-- Links, frames and memory operations.

@[simp] theorem State.modPort_mem (s : State) (p : Nat) (f : Port → Port) : (State.modPort s p f).mem = s.mem := rfl

@[simp] theorem State.usePort_mem (s : State) (core port peer : Nat) (r : Path) :
    (State.usePort s core port peer r).mem = s.mem := rfl

@[simp] theorem State.sentBy_mem (s : State) (q : PeerReq) (p : Nat) : (State.sentBy s q p).mem = s.mem := by
  unfold State.sentBy
  split <;> rfl

@[simp] theorem State.peerRequest_mem (s : State) (core peer : Nat) (r : Path) (port : Option Nat) (who : PeerWho) (h : Head) (body : List Nat) :
    (State.peerRequest s core peer r port who h body).mem = s.mem := by
  unfold State.peerRequest
  dsimp only
  split <;> simp

@[simp] theorem State.submitPeer_mem (s : State) (core peer : Nat) (route : Option Path) (who : PeerWho) (h : Head) (bs : List Byte) :
    (State.submitPeer s core peer route who h bs).mem = s.mem := by
  simp [State.submitPeer]

@[simp] theorem State.resendOne_mem (s : State) (q : PeerReq) : (State.resendOne s q).mem = s.mem := by
  unfold State.resendOne
  dsimp only
  (repeat' split) <;> simp

@[simp] theorem State.resend_mem (s : State) : (State.resend s).mem = s.mem := foldl_keeps State.mem State.resendOne_mem _ _

@[simp] theorem State.dropReq_mem (s : State) (tag : Nat) : (State.dropReq s tag).mem = s.mem := by
  unfold State.dropReq
  dsimp only
  split <;> simp

@[simp] theorem State.sendDrains_mem (s : State) (core block warp offset : Nat) :
    (State.sendDrains s core block warp offset).mem = s.mem := foldl_keeps State.mem (by intros; simp) _ _

@[simp] theorem State.takeFrame_wf {s : State} (at_ base tile : Nat) (h : s.mem.wf = true) :
    (State.takeFrame s at_ base tile).2.mem.wf = true := Memory.clear_wf _ _ h

@[simp] theorem State.putFrame_wf {s : State} (at_ : Nat) (p : Paged) (h : s.mem.wf = true) :
    (State.putFrame s at_ p).mem.wf = true := Memory.place_wf _ _ (State.takeFrame_wf at_ 0 0 h)

@[simp] theorem State.bringIn_wf {s : State} (base tile : Nat) (h : s.mem.wf = true) :
    (State.bringIn s base tile).mem.wf = true := by
  unfold State.bringIn
  (repeat' split) <;> simp [h]

@[simp] theorem State.bump_mem (s : State) (c : Issue) (w : Warp) (inc : Bool) (x : Nat) :
    (State.bump s c w inc x).mem = s.mem := by
  unfold State.bump
  split <;> simp

@[simp] theorem State.memLanes_wf {s : State} (c : Issue) (b : Block) (w : Warp) (i : Instr) (m : Mask) (x : Nat) (inc : Bool)
    {f : List Try → State → State} (hf : ∀ (l : List Try) (u : State), u.mem.wf = true → (f l u).mem.wf = true)
    (h : s.mem.wf = true) : (s.memLanes c b w i m x inc f).mem.wf = true := by
  unfold State.memLanes
  dsimp only
  split <;> simp [h, hf]

@[simp] theorem State.lookupAll_mem (s : State) (c : Issue) (n : Nat) (l : List (Nat × Loc)) :
    (s.lookupAll c n l).2.mem = s.mem := by
  induction l generalizing s with
  | nil => rfl
  | cons a r ih => simp [State.lookupAll, ih]

@[simp] theorem State.request__mem (s : State) (c : Issue) (b : Block) (w : Warp) (rcd : Nat) (k : ReqKind) (ls : List LaneAcc) (regs : List PReg) :
    (State.request_ s c b w rcd k ls regs).2.mem = s.mem := by
  unfold State.request_
  split <;> rfl

@[simp] theorem State.usePeer_mem (s : State) (core : Nat) (r : Record) : (State.usePeer s core r).mem = s.mem := by
  unfold State.usePeer
  split <;> rfl

@[simp] theorem State.sendLane_mem (s : State) (r : Req) (a : LaneAcc) (peer table off : Nat) (h : Head) (bs : List Byte) :
    (State.sendLane s r a peer table off h bs).mem = s.mem := by
  unfold State.sendLane
  split <;> simp

@[simp] theorem State.give_mem (s : State) (r : Req) (d : VDst) (lane : Nat) (ws : List Word32) :
    (State.give s r d lane ws).mem = s.mem := rfl

@[simp] theorem State.endLanes_mem (s : State) (r : Req) (done : List Nat) : (State.endLanes s r done).mem = s.mem := by
  unfold State.endLanes
  dsimp only
  (repeat' split) <;> rfl

@[simp] theorem State.released_mem (s : State) (bid wn word : Nat) : (State.released s bid wn word).mem = s.mem := rfl

@[simp] theorem State.writeReq_wf {s : State} (r : Req) (addr : Nat) (bs : List Byte) (h : s.mem.wf = true) :
    (State.writeReq s r addr bs).mem.wf = true := by
  simp [State.writeReq, h]

@[simp] theorem State.performTmem_wf {s : State} (r : Req) (a : LaneAcc) (h : s.mem.wf = true) :
    (State.performTmem s r a).mem.wf = true := by
  unfold State.performTmem
  split <;> simp [h]

@[simp] theorem State.settleOwn_wf {s : State} (b : Block) (w : Warp) (h : s.mem.wf = true) :
    (State.settleOwn s b w).mem.wf = true := by
  refine foldl_memWf (fun u p hu => ?_) _ h
  (repeat' split) <;> simp [hu]

@[simp] theorem State.longLoad_mem (s : State) (c : Issue) (b : Block) (w : Warp) (x : Nat) (d : VDst) (wd : Width) (sx : Bool) (ts : List Try) :
    (State.longLoad s c b w x d wd sx ts).mem = s.mem := by
  unfold State.longLoad
  dsimp only
  (repeat' split) <;> simp

@[simp] theorem State.localLoad_wf {s : State} (c : Issue) (b : Block) (w : Warp) (d : VDst) (wd : Width) (sx clr gather : Bool) (ts : List Try) (h : s.mem.wf = true) :
    (State.localLoad s c b w d wd sx clr gather ts).mem.wf = true := by
  unfold State.localLoad
  dsimp only
  (repeat' split) <;> simp [h]

@[simp] theorem State.fillL1_mem (s : State) (ln : L1Line) : (State.fillL1 s ln).mem = s.mem := rfl

@[simp] theorem State.takeLine_mem (s : State) (r : Req) (d : VDst) (wd : Width) (sx : Bool) (line : Nat) (data : List Byte) (ls : List LaneAcc) :
    (State.takeLine s r d wd sx line data ls).mem = s.mem := by
  unfold State.takeLine
  rw [State.endLanes_mem]
  refine foldl_keeps State.mem (fun u a => ?_) _ _
  split <;> simp

@[simp] theorem State.storeLanes_wf {s : State} (c : Issue) (b : Block) (w : Warp) (x : Nat) (wd : Width) (a : VSrc) (ts : List Try) (h : s.mem.wf = true) :
    (State.storeLanes s c b w x wd a ts).mem.wf = true := by
  unfold State.storeLanes
  dsimp only
  split
  · exact h
  · split
    · refine foldl_memWf (fun u t hu => ?_) _ (State.settleOwn_wf b w h)
      split <;> simp [hu]
    · split <;> simp [h]

/-- An atomic at its home writes through the write it is given. -/
theorem State.atomAt_wf {s : State} {who : Option (Nat × Nat)} {id : Nat} {stores : List (Nat × Byte)} {base off : Nat} {op : AtomOp}
    {ty : ITy} {a b : Word64} {inst : ScopeTag} {write : State → Nat → List Byte → State} {p : List Byte × List Byte × State}
    (hw : ∀ (u : State) x bs, u.mem.wf = true → (write u x bs).mem.wf = true) (h : s.mem.wf = true)
    (hp : s.atomAt who id stores base off op ty a b inst write = .ok p) : p.2.2.mem.wf = true := by
  have hl : (s.lookup who id stores (s.tensorAddr base off) (ty.width / 8)).2.mem.wf = true := by simp [h]
  obtain ⟨_, hp⟩ | ⟨_, hp⟩ := ite_eq_iff.1 hp
  · cases hp
  obtain ⟨_, hp⟩ | ⟨_, hp⟩ := ite_eq_iff.1 hp
  · cases hp
  · cases hp
    dsimp only
    (repeat' split) <;> exact hw _ _ _ hl

@[simp] theorem State.lateFault_mem (s : State) (r : Req) (a : LaneAcc) (cause : Nat) :
    (State.lateFault s r a cause).mem = s.mem := rfl

@[simp] theorem State.performStore_wf {s : State} (r : Req) (a : LaneAcc) (base off : Nat) (h : s.mem.wf = true) :
    (State.performStore s r a base off).mem.wf = true := by
  unfold State.performStore
  split <;> simp [h]

@[simp] theorem State.performAtom_wf {s : State} (r : Req) (a : LaneAcc) (inst : ScopeTag) (d : VDst) (op : AtomOp) (ty : ITy) (order : MemOrder) (base off : Nat) (h : s.mem.wf = true) :
    (State.performAtom s r a inst d op ty order base off).mem.wf = true := by
  have released : (if order == .release || order == .acqRel then s.released r.block r.warp r.word else s).mem.wf = true := by
    split <;> simp [h]
  unfold State.performAtom
  dsimp only
  generalize (if order == .release || order == .acqRel then s.released r.block r.warp r.word else s) = u at released
  split
  · simp [released]
  · next hp =>
    have := State.atomAt_wf (fun u x bs hu => State.writeReq_wf r x _ hu) released hp
    simp [this]

@[simp] theorem State.sendAtom_mem (s : State) (r : Req) (a : LaneAcc) (op : AtomOp) (ty : ITy) (order : MemOrder) (scope : Scope) (peer table off : Nat) :
    (State.sendAtom s r a op ty order scope peer table off).mem = s.mem := by
  unfold State.sendAtom
  split <;> simp

@[simp] theorem State.parkTakers_mem (s : State) (c : Issue) (b : Block) (w : Warp) (m : Mask) (rcd cause : Nat) (c0 c1 : Word32) :
    (State.parkTakers s c b w m rcd cause c0 c1).mem = s.mem := by
  simp [State.parkTakers]

@[simp] theorem State.parkHandle_mem (s : State) (c : Issue) (b : Block) (w : Warp) (m : Mask) (h kindNo rcd cause : Nat) (c0 c1 : Word32) :
    (State.parkHandle s c b w m h kindNo rcd cause c0 c1).mem = s.mem := by
  simp [State.parkHandle]

@[simp] theorem State.evictTag_mem (s : State) (b : Block) (w : Warp) (tag : Nat) : (State.evictTag s b w tag).mem = s.mem := rfl

@[simp] theorem State.acceptLblk_mem (s : State) (c : Issue) (b : Block) (w : Warp) (h x n tag first base : Nat) (inc : Bool) (c0 c1 : Word32) :
    (State.acceptLblk s c b w h x n tag first base inc c0 c1).mem = s.mem := by
  unfold State.acceptLblk
  dsimp only
  split <;> simp

@[simp] theorem State.setVersions_mem (s : State) (line : Nat) (vs : List Version) :
    (State.setVersions s line vs).mem = s.mem := rfl

@[simp] theorem State.showCommit_wf {s : State} (k : Commit) (h : s.mem.wf = true) : (State.showCommit s k).mem.wf = true := by
  unfold State.showCommit
  dsimp only
  split
  · exact h
  · split
    · exact h
    · refine foldl_memWf (fun u p hu => ?_) _ h
      exact Memory.writeBytes_wf _ _ hu

@[simp] theorem State.settleCommits_wf {s : State} (h : s.mem.wf = true) :
    (State.settleCommits s).mem.wf = true := foldl_memWf (fun _ k hu => State.showCommit_wf k hu) _ h

@[simp] theorem State.queueOp_mem (s : State) (c : Issue) (b : Block) (w : Warp) (q stage : Nat) (k : ReqKind) (regs : List PReg) (m : Mask) :
    (State.queueOp s c b w q stage k regs m).mem = s.mem := by
  unfold State.queueOp
  split <;> simp

@[simp] theorem State.modQueue_mem (s : State) (b : Block) (stage : Nat) (f : StageQ → StageQ) :
    (State.modQueue s b stage f).mem = s.mem := rfl

@[simp] theorem State.queueReply_mem (s : State) (r : Req) (q : Nat) (ok : Bool) : (State.queueReply s r q ok).mem = s.mem := by
  simp [State.queueReply]

@[simp] theorem State.acquired_mem (s : State) (bid wn : Nat) : (State.acquired s bid wn).mem = s.mem := rfl

@[simp] theorem State.submit_wf {s : State} (c : Issue) (b : Block) (w : Warp) (i : Instr) (h kindNo : Nat) (kind : EngKind)
    (st : EngSt) (bumps : List (Bool × Nat)) {f : EngOp → List Box → State → State}
    (hf : ∀ (o : EngOp) (l : List Box) (u : State), u.mem.wf = true → (f o l u).mem.wf = true) (hs : s.mem.wf = true) :
    (s.submit c b w i h kindNo kind st bumps f).mem.wf = true := by
  have bumped (u : State) : (bumps.foldl (fun s p => s.bump c w p.1 p.2) u).mem = u.mem :=
    foldl_keeps State.mem (by intros; simp) _ _
  unfold State.submit
  dsimp only
  (repeat' split) <;> simp [bumped, hf, hs]

-- Engines, the matrix unit, copies, fatal errors.

@[simp] theorem State.modOp_mem (s : State) (id : Nat) (f : EngOp → EngOp) : (State.modOp s id f).mem = s.mem := rfl

@[simp] theorem State.boxBytes_mem (s : State) (o : EngOp) (x : Box) : (State.boxBytes s o x).2.mem = s.mem := by
  unfold State.boxBytes
  dsimp only
  split <;> rfl

@[simp] theorem State.countPart_mem (s : State) (o : EngOp) (part : Nat → Nat → Nat) (x : Box) :
    (State.countPart s o part x).mem = s.mem := by
  unfold State.countPart
  split
  · rfl
  · exact foldl_keeps State.mem (by intros; simp) _ _

@[simp] theorem State.countBox_mem (s : State) (o : EngOp) (x : Box) : (State.countBox s o x).mem = s.mem := by
  simp [State.countBox]

@[simp] theorem State.countSome_mem (s : State) (o : EngOp) (x : Box) : (State.countSome s o x).mem = s.mem := by
  simp [State.countSome]

@[simp] theorem State.countWrites_mem (s : State) (o : EngOp) (x : Box) :
    (State.countWrites s o x).mem = s.mem := foldl_keeps State.mem (by intros; simp) _ _

@[simp] theorem State.markStores_mem (s : State) (o : EngOp) (as : List Nat) : (State.markStores s o as).mem = s.mem := rfl

@[simp] theorem State.land_wf {s : State} (o : EngOp) (cells : List (Nat × Byte)) (h : s.mem.wf = true) :
    (State.land s o cells).mem.wf = true := by
  unfold State.land
  dsimp only
  rw [State.setFull_mem, State.markStores_mem, State.taint_mem, foldl_keeps State.mem (fun s a => State.clearTags_mem s a 1)]
  exact Memory.writeAll_wf _ h

@[simp] theorem State.freshenL1_mem (s : State) (o : EngOp) (x : Box) : (State.freshenL1 s o x).mem = s.mem := by
  unfold State.freshenL1
  split
  · exact foldl_keeps State.mem (by intros; rfl) _ _
  · rfl

@[simp] theorem State.finish_mem (s : State) (o : EngOp) (outcome val : Nat) (mal : Bool) :
    (State.finish s o outcome val mal).mem = s.mem := by
  unfold State.finish
  split <;> simp

@[simp] theorem State.setLast_mem (s : State) (core n : Nat) : (State.setLast s core n).mem = s.mem := rfl

@[simp] theorem State.setBusy_mem (s : State) (b : Block) (w : Warp) (acc n op : Nat) (mmac write : Bool) (until_ : Nat) :
    (State.setBusy s b w acc n op mmac write until_).mem = s.mem := rfl

@[simp] theorem State.enqueue_mem (s : State) (o : EngOp) (l : List Box) : (State.enqueue s o l).mem = s.mem := by
  unfold State.enqueue
  dsimp only
  (repeat' split) <;> simp

@[simp] theorem State.readPeer_mem (s : State) (o : EngOp) (k : Nat) (x : Box) (offs : List Nat) :
    (State.readPeer s o k x offs).mem = s.mem := by
  unfold State.readPeer
  split
  · exact foldl_keeps State.mem (by intros; simp) _ _
  · rfl

@[simp] theorem State.sourceData_mem (s : State) (o : EngOp) (k : Nat) (x : Box) : (State.sourceData s o k x).2.mem = s.mem := by
  unfold State.sourceData
  split <;> simp

@[simp] theorem State.copySources_mem (s : State) (o : EngOp) (x : Box) : (State.copySources s o x).2.mem = s.mem := by
  unfold State.copySources
  split <;> simp

@[simp] theorem State.freeSelf_mem (s : State) (o : EngOp) (d : Box) (cells : List (Nat × Byte)) :
    (State.freeSelf s o d cells).2.mem = s.mem := by
  unfold State.freeSelf
  dsimp only
  split <;> rfl

@[simp] theorem State.copyCellsAll_mem (s : State) (o : EngOp) (x : Box) (src : List (Nat × Byte) × List (Nat × Byte))
    (l : List Box) : (s.copyCellsAll o x src l).2.mem = s.mem := by
  induction l generalizing s with
  | nil => rfl
  | cons d r ih => simp [State.copyCellsAll, ih]

@[simp] theorem State.countSources_mem (s : State) (o : EngOp) :
    (State.countSources s o).mem = s.mem := foldl_keeps State.mem (fun s x => State.countBox_mem s o x) _ _

@[simp] theorem State.refillDest_mem (s : State) (o : EngOp) : (State.refillDest s o).mem = s.mem := rfl

@[simp] theorem State.scramble_wf {s : State} (as : List Nat) (h : s.mem.wf = true) :
    (State.scramble s as).mem.wf = true := Memory.writeAll_wf _ h

@[simp] theorem State.dropOp_mem (s : State) (o : EngOp) : (State.dropOp s o).mem = s.mem := by
  simp [State.dropOp]

@[simp] theorem State.countStopped_mem (s : State) (o : EngOp) : (State.countStopped s o).mem = s.mem := by
  unfold State.countStopped
  split
  · refine foldl_keeps State.mem (fun u i => ?_) _ _
    dsimp only
    split <;> simp
  · split
    · exact foldl_keeps State.mem (fun u x => State.countSome_mem u o x) _ _
    · rfl

@[simp] theorem State.stopOp_wf {s : State} (o : EngOp) (h : s.mem.wf = true) : (State.stopOp s o).mem.wf = true := by
  unfold State.stopOp
  (repeat' split) <;> simp [h]

@[simp] theorem State.moveUpAfter_mem (s : State) (o : EngOp) : (State.moveUpAfter s o).mem = s.mem := rfl

@[simp] theorem State.dropMmac_mem (s : State) (o : EngOp) : (State.dropMmac s o).mem = s.mem := by
  simp [State.dropMmac]

@[simp] theorem State.dropQueued_mem (s : State) (ctx : Nat) : (State.dropQueued s ctx).mem = s.mem := by
  refine (foldl_keeps State.mem (by intros; rfl) _ _).trans (foldl_keeps State.mem (fun u o => ?_) _ _)
  (repeat' split) <;> simp

@[simp] theorem State.fatalCoords_mem (s : State) (f : Fatal) : (State.fatalCoords s f).2.mem = s.mem := by
  unfold State.fatalCoords
  split <;> rfl

@[simp] theorem State.fatalCtx_mem (s : State) (ctx : Nat) (f : Fatal) : (State.fatalCtx s ctx f).mem = s.mem := by
  unfold State.fatalCtx
  split <;> simp

@[simp] theorem State.fatalCkpts_mem (s : State) (ctx : Nat) : (State.fatalCkpts s ctx).mem = s.mem := by
  refine foldl_keeps State.mem (fun u g => ?_) _ _
  split <;> rfl

@[simp] theorem State.fatalStep_mem (s : State) (ctx : Nat) : (State.fatalStep s ctx).mem = s.mem := by
  unfold State.fatalStep
  (repeat' split) <;> simp

@[simp] theorem State.leaveTurn_mem (s : State) (b : Block) (w : Warp) : (State.leaveTurn s b w).mem = s.mem := by
  unfold State.leaveTurn
  split <;> rfl

@[simp] theorem State.fillLine_mem (s : State) (id key : Nat) : (State.fillLine s id key).mem = s.mem := rfl

@[simp] theorem State.touchGroup_mem (s : State) (id key : Nat) : (State.touchGroup s id key).mem = s.mem := by
  unfold State.touchGroup
  split <;> rfl

-- Tokens and firmware's work on blocks and tasks.

@[simp] theorem State.unlessTrap_wf {s : State} (x : Sel) (b : Block) (w : Warp) (i : Instr) (n : Nat) {f : State → State}
    (hf : ∀ u : State, u.mem.wf = true → (f u).mem.wf = true) (h : s.mem.wf = true) :
    (s.unlessTrap x b w i n f).mem.wf = true := by
  unfold State.unlessTrap
  split <;> simp [h, hf]

@[simp] theorem State.passToken_mem (s : State) (x : Sel) (b : Block) (w : Warp) (loops : List LoopLevel) (pc : Nat) :
    (State.passToken s x b w loops pc).mem = s.mem := by
  unfold State.passToken
  dsimp only
  (repeat' split) <;> simp

@[simp] theorem State.complete_mem (s : State) (fn status : Nat) (res : List (Nat × List Byte)) :
    (State.complete s fn status res).mem = s.mem := by
  unfold State.complete
  split <;> rfl

@[simp] theorem State.completeFatal_mem (s : State) (fn : Nat) (f : Fatal) : (State.completeFatal s fn f).mem = s.mem := by
  simp [State.completeFatal]

@[simp] theorem State.settleCmds_mem (s : State) : (State.settleCmds s).mem = s.mem := by
  refine foldl_keeps State.mem (fun u fn => ?_) _ _
  (repeat' split) <;> simp

@[simp] theorem State.reap_mem (s : State) : (State.reap s).mem = s.mem := State.settleCmds_mem _

@[simp] theorem State.copiesOn_mem (s : State) (b : Block) (stack : Nat) : (State.copiesOn s b stack).mem = s.mem := rfl

@[simp] theorem State.wipe_wf {s : State} (b : Block) (items : List DataItem) (h : s.mem.wf = true) :
    (State.wipe s b items).mem.wf = true := by
  refine foldl_memWf (fun u a hu => ?_) _ h
  refine Memory.foldl_wf (fun m t hm => Memory.clear_wf _ _ hm) _ (Memory.foldl_wf (fun m d hm => ?_) _ (Memory.clear_wf _ _ hu))
  split <;> simp [hm]

@[simp] theorem State.freshL1_mem (s : State) (stack : Nat) (cores : List Nat) : (State.freshL1 s stack cores).mem = s.mem := rfl

@[simp] theorem State.placeNew_wf {s : State} (b : Block) (x : Spot) (h : s.mem.wf = true) :
    (State.placeNew s b x).mem.wf = true := by
  simp [State.placeNew, h]

@[simp] theorem State.endKept_mem (s : State) (o : EngOp) (outcome : Nat) : (State.endKept s o outcome).mem = s.mem := rfl

@[simp] theorem State.resubmit_mem (s : State) (bid : Nat) (o : EngOp) : (State.resubmit s bid o).mem = s.mem := by
  unfold State.resubmit
  dsimp only
  (repeat' split) <;> simp

@[simp] theorem State.unsave_wf {s : State} (b : Block) (a : Alloc) (k : SavedCore) (h : s.mem.wf = true) :
    (State.unsave s b a k).mem.wf = true := by
  have cells := Memory.place_wf (tmemAddr (32 * b.stack + a.core) a.base) k.mem
    (Memory.clear_wf (tmemAddr (32 * b.stack + a.core) a.base) b.rcd.tmem h)
  exact Memory.foldl_wf (fun m t hm => Memory.place_wf _ _ (Memory.clear_wf _ _ hm)) _ cells

@[simp] theorem State.rehome_mem (s : State) (b : Block) : (State.rehome s b).mem = s.mem := rfl

@[simp] theorem State.placeSaved_wf {s : State} (b : Block) (x : Spot) (h : s.mem.wf = true) :
    (State.placeSaved s b x).mem.wf = true := by
  unfold State.placeSaved
  dsimp only
  rw [foldl_keeps State.mem (fun u o => State.resubmit_mem u b.bid o)]
  refine (congrArg Memory.wf (foldl_keeps State.mem (fun u w => ?_) _ _)).trans ?_
  · split <;> rfl
  · exact foldl_memWf (fun u p hu => State.unsave_wf _ _ _ hu) _ h

@[simp] theorem State.detach_mem (s : State) (o : EngOp) : (State.detach s o).mem = s.mem := by
  unfold State.detach
  split <;> simp

@[simp] theorem State.saveBlock_mem (s : State) (b : Block) (status : BStatus) :
    (State.saveBlock s b status).mem = s.mem := foldl_keeps State.mem State.detach_mem _ _

@[simp] theorem State.endStop_mem (s : State) (bid : Nat) : (State.endStop s bid).mem = s.mem := rfl

@[simp] theorem State.requestSave_mem (s : State) (bid : Nat) (by_ : PreemptBy) : (State.requestSave s bid by_).mem = s.mem := by
  unfold State.requestSave
  split <;> rfl

@[simp] theorem State.placeStage_wf {s : State} (ctx task stage stack : Nat) (clusters : List Nat) (h : s.mem.wf = true) :
    (State.placeStage s ctx task stage stack clusters).mem.wf = true := by
  unfold State.placeStage
  dsimp only
  (repeat' split) <;> simp [h]

@[simp] theorem State.freeFrame_wf {s : State} (e : TileEntry) (h : s.mem.wf = true) : (State.freeFrame s e).mem.wf = true := by
  unfold State.freeFrame
  split <;> simp [h]

@[simp] theorem State.freeTensors_wf {s : State} (h : s.mem.wf = true) :
    (State.freeTensors s).mem.wf = true := foldl_memWf (fun u x hu => foldl_memWf (fun v e hv => State.freeFrame_wf e hv) _ hu) _ h

@[simp] theorem State.finishTask_wf {s : State} (t : Task) (status : Nat) (h : s.mem.wf = true) :
    (State.finishTask s t status).mem.wf = true := by
  simp [State.finishTask, h]

-- Host commands, Rainfly, power.

@[simp] theorem State.reportFatal_mem (s : State) (fn ctx : Nat) (f : Fatal) : (State.reportFatal s fn ctx f).mem = s.mem := by
  unfold State.reportFatal
  split <;> simp

@[simp] theorem State.withCtx_wf {s : State} (fn : Nat) (k : CmdBlock) {f : Context → State}
    (hf : ∀ x, (f x).mem.wf = true) (h : s.mem.wf = true) : (s.withCtx fn k f).mem.wf = true := by
  unfold State.withCtx
  (repeat' split) <;> simp [h, hf]

@[simp] theorem State.placeCopies_mem (s : State) (ctx : Nat) (placed : List Nat) :
    (State.placeCopies s ctx placed).mem = s.mem := rfl

@[simp] theorem State.unbind_wf {s : State} (f : Tensor → Bool) (h : s.mem.wf = true) :
    (State.unbind s f).mem.wf = true := State.freeTensors_wf h

@[simp] theorem State.endCtx_wf {s : State} (c : Nat) (h : s.mem.wf = true) :
    (State.endCtx s c).mem.wf = true := foldl_memWf (fun u x hu => foldl_memWf (fun v e hv => State.freeFrame_wf e hv) _ hu) _ h

@[simp] theorem State.closeCkpts_mem (s : State) (c : Nat) : (State.closeCkpts s c).2.mem = s.mem := by
  refine foldl_keeps (fun p : List Nat × State => p.2.mem) (fun p g => ?_) _ _
  split <;> rfl

@[simp] theorem State.discardTasks_mem (s : State) (c : Nat) : (State.discardTasks s c).mem = s.mem := rfl

@[simp] theorem State.closeGoesOn_wf {s : State} (fn : Nat) (h : s.mem.wf = true) : (State.closeGoesOn s fn).mem.wf = true := by
  unfold State.closeGoesOn
  (repeat' split) <;> simp [h]

@[simp] theorem State.writeTensor_wf {s : State} (base off : Nat) (bs : List Byte) (h : s.mem.wf = true) :
    (State.writeTensor s base off bs).mem.wf = true := by
  refine foldl_memWf (fun u p hu => ?_) _ h
  dsimp only
  (repeat' split) <;> simp [hu]

@[simp] theorem State.suspend_mem (s : State) (ctx task : Nat) : (State.suspend s ctx task).mem = s.mem := rfl

@[simp] theorem State.liftFrames_wf {s : State} (ctx from_ dest : Nat) (swap : Bool) (h : s.mem.wf = true) :
    (State.liftFrames s ctx from_ dest swap).2.mem.wf = true := by
  refine foldl_preserves (P := fun p : List (Paged × Nat × Nat × Bool) × State => p.2.mem.wf = true) (fun p f hp => ?_) _ _ h
  dsimp only
  (repeat' split) <;> simp [hp]

theorem setFrames_wf {l : List (Paged × Nat × Nat × Bool)} {s t : State} (h : s.mem.wf = true) (ht : setFrames l s = some t) :
    t.mem.wf = true := by
  induction l generalizing s with
  | nil =>
    cases ht
    exact h
  | cons a r ih =>
    rw [setFrames] at ht
    split at ht
    · exact ih h ht
    · split at ht
      · refine ih ?_ ht
        exact State.putFrame_wf _ _ h
      · cases ht

@[simp] theorem State.liftQueues_wf {s : State} (ctx from_ : Nat) (h : s.mem.wf = true) :
    (State.liftQueues s ctx from_).2.mem.wf = true := by
  refine foldl_preserves (P := fun p : List (Nat × Nat × List Paged) × State => p.2.mem.wf = true) (fun p q hp => ?_) _ _ h
  exact foldl_preserves (P := fun p : List Paged × State => p.2.mem.wf = true)
    (fun p f hp => State.takeFrame_wf (frameAddr 0 from_ f 0) 0 0 hp) _ _ hp

theorem setQueues_wf {ctx dest : Nat} {l : List (Nat × Nat × List Paged)} {s t : State} (h : s.mem.wf = true)
    (ht : setQueues ctx dest l s = some t) : t.mem.wf = true := by
  induction l generalizing s with
  | nil =>
    cases ht
    exact h
  | cons a r ih =>
    rw [setQueues] at ht
    split at ht
    · cases ht
    · refine ih ?_ ht
      exact foldl_memWf (fun u p hu => State.putFrame_wf _ _ hu) _ h

@[simp] theorem State.reply_wf {s : State} (fn : Nat) (k : CmdBlock) (n : Nat) (fields : List (Nat × List Byte)) (h : s.mem.wf = true) :
    (State.reply s fn k n fields).mem.wf = true := by
  simp [State.reply, h]

@[simp] theorem State.answerAsk_mem (s : State) (q : MeterAsk) : (State.answerAsk s q).mem = s.mem := by
  unfold State.answerAsk
  dsimp only
  (repeat' split) <;> rfl

@[simp] theorem State.off_wf {s : State} (h : s.mem.wf = true) : (State.off s).mem.wf = true := Memory.wf_filter _ h

@[simp] theorem State.stopWith_wf {s : State} (cause bodies : Nat) (h : s.mem.wf = true) :
    (State.stopWith s cause bodies).mem.wf = true := by
  unfold State.stopWith
  split <;> simp [h]

@[simp] theorem State.emergency_wf {s : State} (cause : Nat) (h : s.mem.wf = true) : (State.emergency s cause).mem.wf = true := by
  simp [State.emergency, h]

@[simp] theorem State.modHbm_mem (s : State) (i : Nat) (f : Hbm → Hbm) : (State.modHbm s i f).mem = s.mem := rfl

-- Time, power, Lantern, the fabric.

@[simp] theorem State.sample_mem (s : State) (source v uTs : Nat) : (State.sample s source v uTs).mem = s.mem := by
  unfold State.sample
  dsimp only
  (repeat' split) <;> rfl

@[simp] theorem State.switch_mem (s : State) (stack : Nat) : (State.switch s stack).mem = s.mem := rfl

@[simp] theorem State.fall_mem (s : State) (stack : Nat) : (State.fall s stack).mem = s.mem := rfl

@[simp] theorem State.setting_mem (s : State) (stack mhz : Nat) : (State.setting s stack mhz).mem = s.mem := rfl

@[simp] theorem State.notices_mem (s : State) (stack : Nat) : (State.notices s stack).mem = s.mem := rfl

@[simp] theorem State.rotateHeat_mem (s : State) (stack cluster : Nat) : (State.rotateHeat s stack cluster).mem = s.mem := by
  unfold State.rotateHeat
  (repeat' split) <;> rfl

@[simp] theorem State.pageWrite_mem (s : State) (fn ctx : Nat) (f : Lantern → Lantern) :
    (State.pageWrite s fn ctx f).mem = s.mem := by
  unfold State.pageWrite
  split <;> rfl

@[simp] theorem State.writeStop_mem (s : State) (fn value : Nat) : (State.writeStop s fn value).mem = s.mem := by
  simp [State.writeStop]

@[simp] theorem State.writeRelease_mem (s : State) (fn value : Nat) : (State.writeRelease s fn value).mem = s.mem := by
  unfold State.writeRelease
  split
  · exact (foldl_keeps State.mem (by intros; rfl) _ _).trans (State.pageWrite_mem _ _ _ _)
  · rfl

@[simp] theorem State.clearBin_mem (s : State) (fn e i : Nat) : (State.clearBin s fn e i).mem = s.mem := by
  simp [State.clearBin]

@[simp] theorem State.answer_mem (s : State) (p : Nat) (h : Head) (op status : Nat) (bs : List Byte) :
    (State.answer s p h op status bs).mem = s.mem := rfl

@[simp] theorem State.serveRead_mem (s : State) (p : Nat) (h : Head) : (State.serveRead s p h).mem = s.mem := by
  unfold State.serveRead
  dsimp only
  split <;> simp

@[simp] theorem State.serveWrite_wf {s : State} (p : Nat) (h : Head) (body : List Nat) (h' : s.mem.wf = true) :
    (State.serveWrite s p h body).mem.wf = true := by
  unfold State.serveWrite
  dsimp only
  (repeat' split) <;> simp [h']

@[simp] theorem State.serveAtomic_wf {s : State} (p : Nat) (h : Head) (body : List Nat) (h' : s.mem.wf = true) :
    (State.serveAtomic s p h body).mem.wf = true := by
  unfold State.serveAtomic
  dsimp only
  split
  · exact h'
  · split
    · simp [h']
    · split
      · simp [h']
      · next hp => simp [State.atomAt_wf (fun u x bs hu => State.writeHome_wf x bs hu) h' hp]

@[simp] theorem State.fatalLane_mem (s : State) (r : Req) (a : LaneAcc) (code : Nat) :
    (State.fatalLane s r a code).mem = s.mem := by
  unfold State.fatalLane
  (repeat' split) <;> simp

@[simp] theorem State.fatalWarp_mem (s : State) (bid wn offset code : Nat) :
    (State.fatalWarp s bid wn offset code).mem = s.mem := by
  unfold State.fatalWarp
  (repeat' split) <;> simp

@[simp] theorem State.fatalOp_mem (s : State) (o : EngOp) (box code : Nat) : (State.fatalOp s o box code).mem = s.mem := by
  unfold State.fatalOp
  (repeat' split) <;> simp

@[simp] theorem State.answerLane_mem (s : State) (r : Req) (a : LaneAcc) (status : Nat) (bs : List Byte) :
    (State.answerLane s r a status bs).mem = s.mem := by
  unfold State.answerLane
  (repeat' split) <;> simp

@[simp] theorem State.answerEngine_mem (s : State) (o : EngOp) (box off n status : Nat) (bs : List Byte) :
    (State.answerEngine s o box off n status bs).mem = s.mem := by
  unfold State.answerEngine
  (repeat' split) <;> simp

@[simp] theorem State.answered_mem (s : State) (h : Head) (bs : List Byte) : (State.answered s h bs).mem = s.mem := by
  unfold State.answered
  dsimp only
  (repeat' split) <;> simp

@[simp] theorem State.perform_wf {s : State} (p : Nat) (h : Head) (body : List Nat) (h' : s.mem.wf = true) :
    (State.perform s p h body).mem.wf = true := by
  unfold State.perform
  (repeat' split) <;> simp [h']

@[simp] theorem State.packet_wf {s : State} (p head : Nat) (body : List Nat) (h : s.mem.wf = true) :
    (State.packet s p head body).mem.wf = true := by
  unfold State.packet
  dsimp only
  (repeat' split) <;> simp [h]

@[simp] theorem State.headerIn_wf {s : State} (p flit : Nat) (h : s.mem.wf = true) : (State.headerIn s p flit).mem.wf = true := by
  unfold State.headerIn
  dsimp only
  (repeat' split) <;> simp [h]

@[simp] theorem State.dataIn_wf {s : State} (p flit : Nat) (h : s.mem.wf = true) : (State.dataIn s p flit).mem.wf = true := by
  unfold State.dataIn
  dsimp only
  (repeat' split) <;> simp [h]

@[simp] theorem State.retire_wf {s : State} (h : s.mem.wf = true) : (State.retire s).mem.wf = true := by
  unfold State.retire
  (repeat' split) <;> simp [h]

@[simp] theorem State.placeSlot_mem (s : State) (word : Nat) (sl : Slot) : (State.placeSlot s word sl).mem = s.mem := rfl

@[simp] theorem State.withFetchWord_mem (s : State) (nbits w : Nat) : (State.withFetchWord s nbits w).mem = s.mem := by
  unfold State.withFetchWord
  split <;> rfl

-- Instructions.

/-- What an instruction answers has its memory in canonical form. -/
def Canonical (o : Host.Outcome State Fault Refusal) : Prop := ∀ t, o = .next t → t.mem.wf = true

theorem canonical_next {u : State} (h : u.mem.wf = true) : Canonical (.next u) := by
  rintro t ⟨⟩
  exact h

theorem canonical_fault (e : Fault) : Canonical (.fault e) := by
  rintro t ⟨⟩

theorem ite_wf {c : Prop} [Decidable c] {u v : State} (hu : c → u.mem.wf = true) (hv : ¬c → v.mem.wf = true) :
    (if c then u else v).mem.wf = true := by
  split
  · exact hu ‹_›
  · exact hv ‹_›

-- The shapes of the instructions' meanings.

section
variable {s : State} {i : Instr} {g : Guard}

theorem slotOp_canonical {f : Issue → Block → Warp → State → State} (hf : ∀ c b w, (f c b w s).mem.wf = true)
    (h : s.mem.wf = true) : Canonical (slotOp s i f) := by
  unfold slotOp
  split
  · exact canonical_fault _
  split
  · exact canonical_fault _
  split
  · exact canonical_fault _
  split
  · exact canonical_next (by simp [h])
  · exact canonical_next (hf _ _ _)

theorem uniOp_canonical {f : Issue → Block → Warp → State → State} (hf : ∀ c b w, (f c b w s).mem.wf = true)
    (h : s.mem.wf = true) : Canonical (uniOp s i g f) := by
  refine slotOp_canonical (fun c b w => ?_) h
  split
  · exact hf c b w
  · exact h

theorem memOp_canonical {f : Issue → Block → Warp → Mask → State → State} (hf : ∀ c b w m, (f c b w m s).mem.wf = true)
    (h : s.mem.wf = true) : Canonical (memOp s i g f) := by
  refine slotOp_canonical (fun c b w => ?_) h
  split
  · exact h
  · exact hf c b w _

theorem uniRes_canonical {f : Issue → Warp → List Effect} (h : s.mem.wf = true) : Canonical (uniRes s i g f) :=
  uniOp_canonical (fun c b w => by simp [h]) h

theorem laneP_canonical {f : Issue → Warp → Mask → List Effect} (h : s.mem.wf = true) : Canonical (laneP s i g f) :=
  slotOp_canonical (fun c b w => by simp [h]) h

theorem voteP_canonical {f : Issue → Warp → Mask → List Effect} (h : s.mem.wf = true) : Canonical (voteP s i g f) :=
  slotOp_canonical (fun c b w => by simp [h]) h

theorem laneRes_canonical {lat : Nat} {f : Issue → Pitch → Warp → Mask → List Effect} (h : s.mem.wf = true) :
    Canonical (laneRes s i g lat f) :=
  slotOp_canonical (fun c b w => by simp [h]) h

theorem sInt_canonical {d a : Nat} {b : SSrc} {ty : ITy} {f : ITy → Word64 → Word64 → Int} (h : s.mem.wf = true) :
    Canonical (sInt s i g d a b ty f) := uniRes_canonical h

theorem vInt2_canonical {lat : Nat} {d : VDst} {a b : VSrc} {ty : ITy} {sat : Bool} {f : ITy → Word64 → Word64 → Int}
    (h : s.mem.wf = true) : Canonical (vInt2 s i g lat d a b ty sat f) := laneRes_canonical h

theorem vInt1_canonical {d : VDst} {a : VSrc} {ty : ITy} {sat : Bool} {f : ITy → Word64 → Int} (h : s.mem.wf = true) :
    Canonical (vInt1 s i g d a ty sat f) := laneRes_canonical h

theorem v1_canonical {lat : Nat} {d : VDst} {a : VSrc} {f : Word32 → Word32} (h : s.mem.wf = true) :
    Canonical (v1 s i g lat d a f) := laneRes_canonical h

theorem v2_canonical {lat : Nat} {d : VDst} {a b : VSrc} {f : Word32 → Word32 → Word32} (h : s.mem.wf = true) :
    Canonical (v2 s i g lat d a b f) := laneRes_canonical h

theorem v3_canonical {d : VDst} {a b e : VSrc} {f : Word32 → Word32 → Word32 → Word32} (h : s.mem.wf = true) :
    Canonical (v3 s i g d a b e f) := laneRes_canonical h

theorem vCmp_canonical {lat pd : Nat} {f : Issue → Pitch → Warp → List Bool} (h : s.mem.wf = true) :
    Canonical (vCmp s i g lat pd f) := laneRes_canonical h

theorem xMove_canonical {d : VDst} {a : VSrc} {src : Issue → Pitch → Warp → Nat → Nat} (h : s.mem.wf = true) :
    Canonical (xMove s i g d a src) := laneRes_canonical h

theorem tokenOp_canonical {f : Sel → Block → Warp → State → State} (hf : ∀ x b w, (f x b w s).mem.wf = true) :
    Canonical (tokenOp s f) := by
  unfold tokenOp
  split
  · exact canonical_fault _
  split
  · exact canonical_fault _
  split
  · exact canonical_fault _
  · exact canonical_next (hf _ _ _)

theorem indexToken_canonical {n entry : Nat} {holes : List Nat} (h : s.mem.wf = true) :
    Canonical (s.indexToken i n entry holes) := by
  refine tokenOp_canonical fun x b w => State.unlessTrap_wf _ _ _ _ _ (fun u hu => ?_) h
  simp [hu]

theorem onCommand_canonical {fn : Nat} {code : Nat → Bool} {f : CmdBlock → State} (hf : ∀ k, (f k).mem.wf = true)
    (h : s.mem.wf = true) : Canonical (s.onCommand fn code f) := by
  refine canonical_next ?_
  split
  · exact h
  · split
    · exact hf _
    · exact h

theorem ctxCommand_canonical {fn code : Nat} {used : List (Nat × Nat)} {ok : CmdBlock → Bool} {f : CmdBlock → Context → State}
    (hf : ∀ k x, (f k x).mem.wf = true) (h : s.mem.wf = true) : Canonical (s.ctxCommand fn code used ok f) := by
  refine onCommand_canonical (fun k => State.withCtx_wf _ _ (fun x => ?_) h) h
  split
  · exact hf k x
  · simp [h]

theorem pfCommand_canonical {fn code : Nat} {used : List (Nat × Nat)} {ok : CmdBlock → Bool} {f : CmdBlock → State}
    (hf : ∀ k, (f k).mem.wf = true) (h : s.mem.wf = true) : Canonical (s.pfCommand fn code used ok f) := by
  refine onCommand_canonical (fun k => ?_) h
  (repeat' split) <;> simp [h, hf]

theorem onQuery_canonical {fn kind : Nat} {f : CmdBlock → State} (hf : ∀ k, (f k).mem.wf = true) (h : s.mem.wf = true) :
    Canonical (s.onQuery fn kind f) := by
  refine canonical_next ?_
  split
  · exact h
  · split
    · split
      · refine State.withCtx_wf _ _ (fun x => ?_) h
        split <;> simp [h, hf]
      · split <;> simp [h, hf]
    · exact h

theorem grantCommand_canonical {fn : Nat} {counter : Bool} {f : List Byte → Context → State}
    (hf : ∀ bs x, (f bs x).mem.wf = true) (h : s.mem.wf = true) : Canonical (s.grantCommand fn counter f) := by
  refine canonical_next ?_
  split
  · exact h
  · dsimp only
    split
    · refine State.withCtx_wf _ _ (fun x => ?_) h
      split <;> simp [h, hf]
    · exact h

theorem arrives_canonical {p flit : Nat} {mine : Bool} {data f : State → State}
    (hd : ∀ u : State, u.mem.wf = true → (data u).mem.wf = true) (hf : ∀ u : State, u.mem.wf = true → (f u).mem.wf = true)
    (h : s.mem.wf = true) : Canonical (s.arrives p flit mine data f) := by
  refine canonical_next ?_
  dsimp only
  (repeat' split) <;> simp [h, hd, hf]

end

theorem execImgLoad_canonical (fn : Nat) {s : State} (h : s.mem.wf = true) :
    Canonical (execImgLoad fn s) := by
  refine ctxCommand_canonical (fun k x => ?_) h
  dsimp only
  (repeat' split) <;> simp [h]

theorem execCtxOpen_canonical (fn : Nat) {s : State} (h : s.mem.wf = true) :
    Canonical (execCtxOpen fn s) := by
  refine onCommand_canonical (fun k => ?_) h
  dsimp only
  (repeat' split) <;> simp [h]

theorem execTensorMap_canonical (fn : Nat) {s : State} (h : s.mem.wf = true) :
    Canonical (execTensorMap fn s) := by
  refine ctxCommand_canonical (fun k x => ?_) h
  dsimp only
  split
  · simp [h]
  split
  · simp [h]
  split
  · simp [h]
  · simp only [State.complete_mem]
    exact State.unbind_wf _ (foldl_memWf (fun u f hu => State.putFrame_wf _ _ hu) _ h)

theorem execMeterGrant_canonical (fn : Nat) {s : State} (h : s.mem.wf = true) :
    Canonical (execMeterGrant fn s) := by
  refine grantCommand_canonical (fun bs x => ?_) h
  dsimp only
  (repeat' split) <;> simp [h]

theorem execCounterAdvance_canonical (fn : Nat) {s : State} (h : s.mem.wf = true) :
    Canonical (execCounterAdvance fn s) := by
  refine grantCommand_canonical (fun bs x => ?_) h
  dsimp only
  (repeat' split) <;> simp [h]

theorem execLaunch_canonical (fn : Nat) {s : State} (h : s.mem.wf = true) :
    Canonical (execLaunch fn s) := by
  refine ctxCommand_canonical (fun k x => ?_) h
  dsimp only
  split
  · simp [h]
  split
  · simp [h]
  split
  · simp [h]
  split
  · simp [h]
  split
  · simp [h]
  split
  · simp [h]
  split
  · simp [h]
  next pool _ =>
  refine ite_wf (fun _ => ?_) (fun _ => ?_)
  · simp [h]
  split
  · simp [h]
  · simp only [State.complete_mem, State.modCtx_mem]
    have queues (l : List (Nat × Nat)) : (l.foldl (fun s f => s.putFrame (frameAddr 0 f.1 f.2 0)
        { base := 0, tile := 0, mem := [], tags := [], stamped := [] }) s).mem.wf = true :=
      foldl_memWf (fun u f hu => State.putFrame_wf _ _ hu) _ h
    refine foldl_memWf (fun u d hu => ?_) _ (foldl_memWf (fun u p hu => Memory.write_wf _ _ hu) _ (queues _))
    (repeat' split) <;> simp [hu]

theorem execTaskLink_canonical (fn : Nat) {s : State} (h : s.mem.wf = true) :
    Canonical (execTaskLink fn s) := by
  refine ctxCommand_canonical (fun k x => ?_) h
  dsimp only
  (repeat' split) <;> simp [h]

theorem execPreempt_canonical (fn : Nat) {s : State} (h : s.mem.wf = true) :
    Canonical (execPreempt fn s) := by
  refine ctxCommand_canonical (fun k x => ?_) (by simp [h])
  split
  · simp [h]
  · dsimp only
    rw [State.settleCmds_mem, foldl_keeps State.mem (fun u b => State.requestSave_mem u b _)]
    have suspended (l : List Task) : (l.foldl (fun (u : State) t => u.suspend x.num t.num) s.reap).mem = s.mem :=
      (foldl_keeps State.mem (fun u t => State.suspend_mem u _ _) _ _).trans (State.reap_mem s)
    split <;> simp [suspended, h]

theorem execResume_canonical (fn : Nat) {s : State} (h : s.mem.wf = true) :
    Canonical (execResume fn s) := by
  refine ctxCommand_canonical (fun k x => ?_) h
  split <;> simp [h]

theorem execVdieBind_canonical (fn : Nat) {s : State} (h : s.mem.wf = true) :
    Canonical (execVdieBind fn s) := by
  refine ctxCommand_canonical (fun k x => ?_) (by simp [h])
  dsimp only
  split
  · simp [h]
  split
  · simp [h]
  split
  · split <;> simp [h]
  split
  · next u hu =>
    have hu' : u.mem.wf = true := by
      obtain ⟨v, hv, hq⟩ := Option.bind_eq_some_iff.1 hu
      refine setQueues_wf (setFrames_wf ?_ hv) hq
      split <;> simp [h]
    split <;> simp [h, hu']
  · simp [h]

theorem execTimeRef_canonical (fn : Nat) {s : State} (h : s.mem.wf = true) :
    Canonical (execTimeRef fn s) := by
  refine pfCommand_canonical (fun k => ?_) h
  simp [h]

theorem execMeterRead_canonical (fn : Nat) {s : State} (h : s.mem.wf = true) :
    Canonical (execMeterRead fn s) := by
  refine ctxCommand_canonical (fun k x => ?_) h
  dsimp only
  split
  · exact h
  · rw [State.complete_mem]
    exact foldl_preserves (P := fun p : Memory × Rainfly => p.1.wf = true) (fun p q hp => Memory.writeBytes_wf _ _ hp) _ _ h

theorem execMeterCkpt_canonical (fn : Nat) {s : State} (h : s.mem.wf = true) :
    Canonical (execMeterCkpt fn s) := by
  refine ctxCommand_canonical (fun k x => ?_) h
  dsimp only
  (repeat' split) <;> simp [h]

theorem execAttest_canonical (fn : Nat) {s : State} (h : s.mem.wf = true) :
    Canonical (execAttest fn s) := by
  refine onCommand_canonical (fun k => ?_) h
  dsimp only
  (repeat' split) <;> simp [h]

theorem execQueryPart_canonical (fn : Nat) {s : State} (h : s.mem.wf = true) :
    Canonical (execQueryPart fn s) := by
  refine onQuery_canonical (fun k => ?_) h
  simp [h]

theorem execQueryGround_canonical (fn : Nat) {s : State} (h : s.mem.wf = true) :
    Canonical (execQueryGround fn s) := by
  refine onQuery_canonical (fun k => ?_) h
  simp [h]

theorem execQueryTime_canonical (fn : Nat) {s : State} (h : s.mem.wf = true) :
    Canonical (execQueryTime fn s) := by
  refine onQuery_canonical (fun k => ?_) h
  simp [h]

theorem execQueryPower_canonical (fn : Nat) {s : State} (h : s.mem.wf = true) :
    Canonical (execQueryPower fn s) := by
  refine onQuery_canonical (fun k => ?_) h
  simp [h]

theorem execQueryVdie_canonical (fn : Nat) {s : State} (h : s.mem.wf = true) :
    Canonical (execQueryVdie fn s) := by
  refine onQuery_canonical (fun k => ?_) h
  split <;> simp [h]

theorem execQueryPorts_canonical (fn : Nat) {s : State} (h : s.mem.wf = true) :
    Canonical (execQueryPorts fn s) := by
  refine onQuery_canonical (fun k => ?_) h
  simp [h]

theorem execCtxClose_canonical (fn : Nat) {s : State} (h : s.mem.wf = true) :
    Canonical (execCtxClose fn s) := by
  refine canonical_next ?_
  dsimp only
  (repeat' split) <;> simp [h]

theorem execImgUnload_canonical (fn : Nat) {s : State} (h : s.mem.wf = true) :
    Canonical (execImgUnload fn s) := by
  refine ctxCommand_canonical (fun k x => ?_) h
  dsimp only
  (repeat' split) <;> simp [h]

theorem execTensorUnmap_canonical (fn : Nat) {s : State} (h : s.mem.wf = true) :
    Canonical (execTensorUnmap fn s) := by
  refine ctxCommand_canonical (fun k x => ?_) h
  (repeat' split) <;> simp [h]

theorem execPeerMap_canonical (fn : Nat) {s : State} (h : s.mem.wf = true) :
    Canonical (execPeerMap fn s) := by
  refine pfCommand_canonical (fun k => ?_) h
  split <;> simp [h]

theorem execGroundSet_canonical (fn : Nat) {s : State} (h : s.mem.wf = true) :
    Canonical (execGroundSet fn s) := by
  refine pfCommand_canonical (fun k => ?_) h
  split <;> simp [h]

theorem execUnassignedCommand_canonical (fn : Nat) {s : State} (h : s.mem.wf = true) :
    Canonical (execUnassignedCommand fn s) := by
  refine canonical_next ?_
  dsimp only
  (repeat' split) <;> simp [h]

theorem execLanternStop_canonical (fn value : Nat) {s : State} (h : s.mem.wf = true) :
    Canonical (execLanternStop fn value s) := by
  refine canonical_next ?_
  simp [h]

theorem execLanternRelease_canonical (fn value : Nat) {s : State} (h : s.mem.wf = true) :
    Canonical (execLanternRelease fn value s) := by
  refine canonical_next ?_
  simp [h]

theorem execLanternBinsClear_canonical (fn engine bin : Nat) {s : State} (h : s.mem.wf = true) :
    Canonical (execLanternBinsClear fn engine bin s) := by
  refine canonical_next ?_
  simp [h]

theorem execLanternPageWrite_canonical (fn offset value : Nat) {s : State} (h : s.mem.wf = true) :
    Canonical (execLanternPageWrite fn offset value s) := by
  refine canonical_next ?_
  (repeat' split) <;> simp [h]

theorem execFunctionLevelReset_canonical (fn : Nat) {s : State} (h : s.mem.wf = true) :
    Canonical (execFunctionLevelReset fn s) := by
  refine canonical_next (foldl_memWf (fun u x hu => ?_) _ h)
  (repeat' split) <;> simp [hu]

theorem execPowerUp_canonical (part : Nat) (found : List BootStack) {s : State} (h : s.mem.wf = true) :
    Canonical (execPowerUp part found s) := by
  refine canonical_next ?_
  split <;> simp [h]

theorem execSupplyLoss_canonical (bodies : Nat) {s : State} (h : s.mem.wf = true) :
    Canonical (execSupplyLoss bodies s) := by
  refine canonical_next ?_
  simp [h]

theorem execJunctionTemperature_canonical (place : TempAt) (celsius : Nat) {s : State} (h : s.mem.wf = true) :
    Canonical (execJunctionTemperature place celsius s) := by
  refine canonical_next ?_
  (repeat' split) <;> simp [h]

theorem execHbmTemperature_canonical (hbm celsius : Nat) {s : State} (h : s.mem.wf = true) :
    Canonical (execHbmTemperature hbm celsius s) := by
  refine canonical_next ?_
  split <;> simp [h]

theorem execStackSilence_canonical (stack : Nat) {s : State} (h : s.mem.wf = true) :
    Canonical (execStackSilence stack s) := by
  refine canonical_next ?_
  split <;> simp [h]

theorem execPpsEdge_canonical {s : State} (h : s.mem.wf = true) :
    Canonical (execPpsEdge s) := by
  refine canonical_next ?_
  dsimp only
  (repeat' split) <;> simp [h]

theorem execTimeOfDayMessage_canonical (bytes : List Nat) {s : State} (h : s.mem.wf = true) :
    Canonical (execTimeOfDayMessage bytes s) := by
  refine canonical_next ?_
  split <;> simp [h]

theorem execPtmDialogue_canonical (master : Option Nat) {s : State} (h : s.mem.wf = true) :
    Canonical (execPtmDialogue master s) := by
  refine canonical_next ?_
  dsimp only
  (repeat' split) <;> simp [h]

theorem execSyncBeat_canonical {s : State} (h : s.mem.wf = true) :
    Canonical (execSyncBeat s) := by
  refine canonical_next ?_
  split <;> simp [h]

theorem execBeatArrival_canonical (stack : Nat) {s : State} (h : s.mem.wf = true) :
    Canonical (execBeatArrival stack s) := by
  refine canonical_next ?_
  simp [h]

theorem execBellowsPeriod_canonical (stack : Nat) {s : State} (h : s.mem.wf = true) :
    Canonical (execBellowsPeriod stack s) := by
  refine canonical_next ?_
  split
  · exact h
  · dsimp only
    rw [foldl_keeps State.mem (fun u c => State.rotateHeat_mem u stack c), foldl_keeps State.mem (by intros; rfl)]
    simp [h]

theorem execVoltageSettled_canonical (stack : Nat) {s : State} (h : s.mem.wf = true) :
    Canonical (execVoltageSettled stack s) := by
  refine canonical_next ?_
  simp [h]

theorem execCurrentSense_canonical (stack cluster draw : Nat) {s : State} (h : s.mem.wf = true) :
    Canonical (execCurrentSense stack cluster draw s) := by
  refine canonical_next ?_
  (repeat' split) <;> simp [h]

theorem execHeatIntegration_canonical (stack cluster energy : Nat) {s : State} (h : s.mem.wf = true) :
    Canonical (execHeatIntegration stack cluster energy s) := by
  refine canonical_next ?_
  simp [h]

theorem execDroopDetect_canonical (stack cluster : Nat) {s : State} (h : s.mem.wf = true) :
    Canonical (execDroopDetect stack cluster s) := by
  refine canonical_next ?_
  simp [h]

theorem execDroopClear_canonical (stack cluster : Nat) {s : State} (h : s.mem.wf = true) :
    Canonical (execDroopClear stack cluster s) := by
  refine canonical_next ?_
  simp [h]

theorem execPitchCycle_canonical (stack cluster : Nat) {s : State} (h : s.mem.wf = true) :
    Canonical (execPitchCycle stack cluster s) := by
  refine canonical_next ?_
  (repeat' split) <;> simp [h]

theorem execWarpSample_canonical (stack core pitch fn : Nat) {s : State} (h : s.mem.wf = true) :
    Canonical (execWarpSample stack core pitch fn s) := by
  refine canonical_next ?_
  dsimp only
  (repeat' split) <;> simp [h]

theorem execTrapEntry_canonical (block warp : Nat) {s : State} (h : s.mem.wf = true) :
    Canonical (execTrapEntry block warp s) := by
  refine canonical_next ?_
  dsimp only
  (repeat' split) <;> simp [h]

theorem execShortIndex_canonical (entry : Nat) (holes : List Nat) {s : State} (h : s.mem.wf = true) :
    Canonical (execShortIndex entry holes s) := by
  exact indexToken_canonical h

theorem execLongIndex_canonical (entry : Nat) (holes : List Nat) {s : State} (h : s.mem.wf = true) :
    Canonical (execLongIndex entry holes s) := by
  exact indexToken_canonical h

theorem execIdle_canonical (n : Nat) {s : State} (h : s.mem.wf = true) :
    Canonical (execIdle n s) := by
  refine tokenOp_canonical (fun x b w => ?_)
  simp [h]

theorem execLoop_canonical (c imm len : Nat) {s : State} (h : s.mem.wf = true) :
    Canonical (execLoop c imm len s) := by
  refine tokenOp_canonical (fun x b w => ?_)
  simp [h]

theorem execIpf_canonical (off n : Nat) {s : State} (h : s.mem.wf = true) :
    Canonical (execIpf off n s) := by
  refine tokenOp_canonical (fun x b w => ?_)
  simp [h]

theorem execUnassignedToken_canonical (v : Nat) {s : State} (h : s.mem.wf = true) :
    Canonical (execUnassignedToken v s) := by
  refine tokenOp_canonical (fun x b w => ?_)
  simp [h]

theorem execEmptyWord_canonical {s : State} (h : s.mem.wf = true) :
    Canonical (execEmptyWord s) := by
  refine tokenOp_canonical (fun x b w => ?_)
  simp [h]

theorem execBtgt_canonical (g : Guard) (bd : Nat) (t : Tgt) {s : State} (h : s.mem.wf = true) :
    Canonical (execBtgt g bd t s) := by
  refine uniOp_canonical (fun c b w => ?_) h
  simp [h]

theorem execBxfer_canonical (g : Guard) (b d : Nat) {s : State} (h : s.mem.wf = true) :
    Canonical (execBxfer g b d s) := by
  refine uniOp_canonical (fun c b w => ?_) h
  simp [h]

theorem execBcall_canonical (g : Guard) (b d r : Nat) {s : State} (h : s.mem.wf = true) :
    Canonical (execBcall g b d r s) := by
  refine uniOp_canonical (fun c b w => ?_) h
  simp [h]

theorem execLbrk_canonical (g : Guard) {s : State} (h : s.mem.wf = true) :
    Canonical (execLbrk g s) := by
  refine uniOp_canonical (fun c b w => ?_) h
  simp [h]

theorem execBar_canonical (g : Guard) (id : Nat) {s : State} (h : s.mem.wf = true) :
    Canonical (execBar g id s) := by
  refine uniOp_canonical (fun c b w => ?_) h
  simp [h]

theorem execExit_canonical (g : Guard) {s : State} (h : s.mem.wf = true) :
    Canonical (execExit g s) := by
  refine uniOp_canonical (fun c b w => ?_) h
  simp [h]

theorem execTrap_canonical (g : Guard) (n : Nat) {s : State} (h : s.mem.wf = true) :
    Canonical (execTrap g n s) := by
  refine uniOp_canonical (fun c b w => ?_) h
  simp [h]

theorem execHret_canonical (g : Guard) {s : State} (h : s.mem.wf = true) :
    Canonical (execHret g s) := by
  refine uniOp_canonical (fun c b w => ?_) h
  simp [h]

theorem execHretSkip_canonical (g : Guard) {s : State} (h : s.mem.wf = true) :
    Canonical (execHretSkip g s) := by
  refine uniOp_canonical (fun c b w => ?_) h
  simp [h]

theorem execSrd_canonical (g : Guard) (d : SrdDst) (sr : Nat) {s : State} (h : s.mem.wf = true) :
    Canonical (execSrd g d sr s) := by
  refine uniOp_canonical (fun c b w => ?_) h
  split <;> simp [h]

theorem execClk_canonical (g : Guard) (d e : Nat) {s : State} (h : s.mem.wf = true) :
    Canonical (execClk g d e s) := by
  refine uniOp_canonical (fun c b w => ?_) h
  simp [h]

theorem execDline_canonical (g : Guard) (a : Nat) (b : SSrc) {s : State} (h : s.mem.wf = true) :
    Canonical (execDline g a b s) := by
  refine uniOp_canonical (fun c b w => ?_) h
  simp [h]

theorem execDtick_canonical (g : Guard) (b : SSrc) {s : State} (h : s.mem.wf = true) :
    Canonical (execDtick g b s) := by
  refine uniOp_canonical (fun c b w => ?_) h
  simp [h]

theorem execDclose_canonical (g : Guard) (q : Nat) {s : State} (h : s.mem.wf = true) :
    Canonical (execDclose g q s) := by
  refine uniOp_canonical (fun c b w => ?_) h
  simp [h]

theorem execPwacq_canonical (g : Guard) (a : Nat) {s : State} (h : s.mem.wf = true) :
    Canonical (execPwacq g a s) := by
  refine uniOp_canonical (fun c b w => ?_) h
  simp [h]

theorem execPwrel_canonical (g : Guard) {s : State} (h : s.mem.wf = true) :
    Canonical (execPwrel g s) := by
  refine uniOp_canonical (fun c b w => ?_) h
  simp [h]

theorem execGrantGiven_canonical (stack : Nat) {s : State} (h : s.mem.wf = true) :
    Canonical (execGrantGiven stack s) := by
  refine canonical_next ?_
  dsimp only
  (repeat' split) <;> simp [h]

theorem execInfo_canonical (g : Guard) (d a kind : Nat) {s : State} (h : s.mem.wf = true) :
    Canonical (execInfo g d a kind s) := by
  refine uniOp_canonical (fun c b w => ?_) h
  simp [h]

theorem execVdhop_canonical (g : Guard) (d a : Nat) (b : SSrc) {s : State} (h : s.mem.wf = true) :
    Canonical (execVdhop g d a b s) := by
  refine uniOp_canonical (fun c b w => ?_) h
  simp [h]

theorem execMtrd_canonical (g : Guard) (v e l j : Nat) {s : State} (h : s.mem.wf = true) :
    Canonical (execMtrd g v e l j s) := by
  refine uniOp_canonical (fun c b w => ?_) h
  simp [h]

theorem execMtck_canonical (g : Guard) (h j : Nat) {s : State} (h' : s.mem.wf = true) :
    Canonical (execMtck g h j s) := by
  refine uniOp_canonical (fun c b w => ?_) h'
  simp [h']

theorem execRainflyReply_canonical (id : Nat) {s : State} (h : s.mem.wf = true) :
    Canonical (execRainflyReply id s) := by
  refine canonical_next ?_
  dsimp only
  (repeat' split) <;> simp [h]

theorem execCheckpointRecord_canonical {s : State} (h : s.mem.wf = true) :
    Canonical (execCheckpointRecord s) := by
  refine canonical_next ?_
  dsimp only
  (repeat' split) <;> simp [h]

theorem execMpush_canonical (g : Guard) (a : Nat) (na : Bool) {s : State} (h : s.mem.wf = true) :
    Canonical (execMpush g a na s) := by
  refine uniOp_canonical (fun c b w => ?_) h
  simp [h]

theorem execMelse_canonical (g : Guard) {s : State} (h : s.mem.wf = true) :
    Canonical (execMelse g s) := by
  refine uniOp_canonical (fun c b w => ?_) h
  simp [h]

theorem execMpop_canonical (g : Guard) {s : State} (h : s.mem.wf = true) :
    Canonical (execMpop g s) := by
  refine uniOp_canonical (fun c b w => ?_) h
  simp [h]

theorem execRegroup_canonical (g : Guard) (a : Nat) (na : Bool) {s : State} (h : s.mem.wf = true) :
    Canonical (execRegroup g a na s) := by
  refine slotOp_canonical (fun c b w => ?_) h
  split <;> simp [h]

theorem execUngroup_canonical (g : Guard) {s : State} (h : s.mem.wf = true) :
    Canonical (execUngroup g s) := by
  refine uniOp_canonical (fun c b w => ?_) h
  simp [h]

theorem execMspill_canonical (g : Guard) (n : Nat) {s : State} (h : s.mem.wf = true) :
    Canonical (execMspill g n s) := by
  refine uniOp_canonical (fun c b w => ?_) h
  split
  · exact h
  · refine State.spill_wf _ _ _ _ _ (fun l u hu => ?_) h
    rw [State.setBankMasks_mem]
    exact foldl_memWf (fun v p hv => State.spillStore_wf _ _ _ _ hv) _ hu

theorem execMfill_canonical (g : Guard) (n : Nat) {s : State} (h : s.mem.wf = true) :
    Canonical (execMfill g n s) := by
  refine uniOp_canonical (fun c b w => ?_) h
  split
  · exact h
  · refine State.spill_wf _ _ _ _ _ (fun l u hu => ?_) h
    dsimp only
    rw [State.setBankMasks_mem]
    refine foldl_preserves (P := fun q : List MaskEntry × State => q.2.mem.wf = true) (fun q l hq => ?_) _ _ hu
    simp [hq]

theorem execLd_canonical (g : Guard) (d : VDst) (x : Nat) (wd : Width) (fe clr inc sx : Bool) {s : State} (h : s.mem.wf = true) :
    Canonical (execLd g d x wd fe clr inc sx s) := by
  refine memOp_canonical (fun c b w m => State.memLanes_wf _ _ _ _ _ _ _ (fun l u hu => ?_) h) h
  split <;> simp [hu]

theorem execSt_canonical (g : Guard) (a : VSrc) (x : Nat) (wd : Width) (inc : Bool) {s : State} (h : s.mem.wf = true) :
    Canonical (execSt g a x wd inc s) := by
  refine memOp_canonical (fun c b w m => State.memLanes_wf _ _ _ _ _ _ _ (fun l u hu => ?_) h) h
  simp [hu]

theorem execLdg_canonical (g : Guard) (d : VDst) (x : Nat) (wd : Width) (gdim : Nat) (inc sx : Bool) (v : VSrc) {s : State} (h : s.mem.wf = true) :
    Canonical (execLdg g d x wd gdim inc sx v s) := by
  refine memOp_canonical (fun c b w m => State.memLanes_wf _ _ _ _ _ _ _ (fun l u hu => ?_) h) h
  split <;> simp [hu]

theorem execStg_canonical (g : Guard) (a : VSrc) (x : Nat) (wd : Width) (gdim : Nat) (inc : Bool) (v : VSrc) {s : State} (h : s.mem.wf = true) :
    Canonical (execStg g a x wd gdim inc v s) := by
  refine memOp_canonical (fun c b w m => State.memLanes_wf _ _ _ _ _ _ _ (fun l u hu => ?_) h) h
  simp [hu]

theorem execLblk_canonical (g : Guard) (h x n tag : Nat) (inc : Bool) {s : State} (h' : s.mem.wf = true) :
    Canonical (execLblk g h x n tag inc s) := by
  refine memOp_canonical (fun c b w m => ?_) h'
  dsimp only
  (repeat' split) <;> simp [h']

theorem execAtom_canonical (g : Guard) (d : VDst) (x : Nat) (op : AtomOp) (ty : ITy) (order : MemOrder) (scope : Scope) (inc : Bool) (a b : VSrc) {s : State} (h : s.mem.wf = true) :
    Canonical (execAtom g d x op ty order scope inc a b s) := by
  refine memOp_canonical (fun c b w m => State.memLanes_wf _ _ _ _ _ _ _ (fun l u hu => ?_) h) h
  dsimp only
  (repeat' split) <;> simp [hu]

theorem execFence_canonical (g : Guard) (scope : Scope) {s : State} (h : s.mem.wf = true) :
    Canonical (execFence g scope s) := by
  refine memOp_canonical (fun c b w m => ?_) h
  split <;> simp [h]

theorem execDrain_canonical (g : Guard) (scope : Scope) {s : State} (h : s.mem.wf = true) :
    Canonical (execDrain g scope s) := by
  refine memOp_canonical (fun c b w m => ?_) h
  split <;> simp [h]

theorem execProbe_canonical (g : Guard) (d x a : Nat) {s : State} (h : s.mem.wf = true) :
    Canonical (execProbe g d x a s) := by
  refine memOp_canonical (fun c b w m => ?_) h
  split <;> simp [h]

theorem execProbeCompletion_canonical (block warp : Nat) (ok : Bool) {s : State} (h : s.mem.wf = true) :
    Canonical (execProbeCompletion block warp ok s) := by
  have brought (l : List (Nat × Nat)) : (l.foldl (fun s f => s.bringIn f.1 f.2) s).mem.wf = true :=
    foldl_memWf (fun u f hu => State.bringIn_wf _ _ hu) _ h
  refine canonical_next ?_
  dsimp only
  (repeat' split) <;> simp [h, brought]

theorem execStc_canonical (g : Guard) (h x : Nat) (pair inc : Bool) (a : VSrc) {s : State} (h' : s.mem.wf = true) :
    Canonical (execStc g h x pair inc a s) := by
  refine memOp_canonical (fun c b w m => ?_) h'
  (repeat' split) <;> simp [h']

theorem execCommitAcceptance_canonical (id : Nat) {s : State} (h : s.mem.wf = true) :
    Canonical (execCommitAcceptance id s) := by
  refine canonical_next ?_
  split
  · exact h
  dsimp only
  split
  · exact h
  split
  · exact h
  · rw [State.countAccess_mem]
    refine foldl_memWf (fun u p hu => ?_) _ h
    exact hu

theorem execCommitVisibility_canonical (id : Nat) {s : State} (h : s.mem.wf = true) :
    Canonical (execCommitVisibility id s) := by
  refine canonical_next ?_
  split <;> simp [h]

theorem execLdas_canonical (g : Guard) (d : VDst) (x : Nat) (wd : Width) (t : Nat) (inc sx : Bool) (pd : Nat) {s : State} (h : s.mem.wf = true) :
    Canonical (execLdas g d x wd t inc sx pd s) := by
  refine memOp_canonical (fun c b w m => State.memLanes_wf _ _ _ _ _ _ _ (fun l u hu => ?_) h) h
  dsimp only
  (repeat' split) <;> simp [hu]

theorem execLdasService_canonical (id lane : Nat) {s : State} (h : s.mem.wf = true) :
    Canonical (execLdasService id lane s) := by
  refine canonical_next ?_
  dsimp only
  (repeat' split) <;> simp [h]

theorem execQput_canonical (g : Guard) (q stage : Nat) (a : VSrc) {s : State} (h : s.mem.wf = true) :
    Canonical (execQput g q stage a s) := by
  refine memOp_canonical (fun c b w m => ?_) h
  simp [h]

theorem execQget_canonical (g : Guard) (d : VDst) (q stage : Nat) {s : State} (h : s.mem.wf = true) :
    Canonical (execQget g d q stage s) := by
  refine memOp_canonical (fun c b w m => ?_) h
  simp [h]

theorem execQueueStep_canonical (id : Nat) {s : State} (h : s.mem.wf = true) :
    Canonical (execQueueStep id s) := by
  refine canonical_next ?_
  split
  · exact h
  split
  · split
    · dsimp only
      (repeat' split) <;> simp [h]
    · split
      · exact h
      split
      · simp [h]
      dsimp only
      split
      · rw [State.acquired_mem, State.acquire_mem, State.queueReply_mem, foldl_keeps State.mem (by intros; simp)]
        exact h
      · simp [h]
    all_goals exact h
  · exact h

theorem execFeset_canonical (g : Guard) (x : Nat) (wd : Width) (inc : Bool) {s : State} (h : s.mem.wf = true) :
    Canonical (execFeset g x wd inc s) := by
  refine memOp_canonical (fun c b w m => State.memLanes_wf _ _ _ _ _ _ _ (fun l u hu => ?_) h) h
  simp [hu]

theorem execFeclr_canonical (g : Guard) (x : Nat) (wd : Width) (inc : Bool) {s : State} (h : s.mem.wf = true) :
    Canonical (execFeclr g x wd inc s) := by
  refine memOp_canonical (fun c b w m => State.memLanes_wf _ _ _ _ _ _ _ (fun l u hu => ?_) h) h
  simp [hu]

theorem execLongLoadReturn_canonical (id lane : Nat) (hit : Bool) {s : State} (h : s.mem.wf = true) :
    Canonical (execLongLoadReturn id lane hit s) := by
  refine canonical_next ?_
  dsimp only
  (repeat' split) <;> simp [h]

theorem execStorePerformed_canonical (id lane : Nat) {s : State} (h : s.mem.wf = true) :
    Canonical (execStorePerformed id lane s) := by
  refine canonical_next ?_
  (repeat' split) <;> simp [h]

theorem execLblkFill_canonical (id : Nat) {s : State} (h : s.mem.wf = true) :
    Canonical (execLblkFill id s) := by
  refine canonical_next ?_
  split
  · exact h
  split
  · dsimp only
    split
    · exact h
    · simp only [State.resolve_mem, State.pin_mem]
      refine foldl_memWf (fun u i hu => ?_) _ h
      split <;> simp [hu]
  · exact h

theorem execMmac_canonical (g : Guard) (h acc nf mf : Nat) (pair : MPair) (pro : Bool) (xa : Nat) (inca : Bool) (xb : Nat) (incb : Bool) {s : State} (h' : s.mem.wf = true) :
    Canonical (execMmac g h acc nf mf pair pro xa inca xb incb s) := by
  refine uniOp_canonical (fun c b w => ?_) h'
  simp [h']

theorem execMmacStart_canonical (id : Nat) {s : State} (h : s.mem.wf = true) :
    Canonical (execMmacStart id s) := by
  refine canonical_next ?_
  (repeat' split) <;> simp [h]

theorem execMmacCompletion_canonical (id : Nat) {s : State} (h : s.mem.wf = true) :
    Canonical (execMmacCompletion id s) := by
  refine canonical_next ?_
  (repeat' split) <;> simp [h]

theorem execMzero_canonical (g : Guard) (acc nt : Nat) {s : State} (h : s.mem.wf = true) :
    Canonical (execMzero g acc nt s) := by
  have cleared (core : Nat) (l : List Nat) : (l.foldl (fun m t => m.clear (accAddr core t 0 0) 16384) s.mem).wf = true :=
    Memory.foldl_wf (fun m t hm => Memory.clear_wf _ _ hm) l h
  refine uniOp_canonical (fun c b w => ?_) h
  exact cleared _ _

theorem execMzeroDone_canonical (id : Nat) {s : State} (h : s.mem.wf = true) :
    Canonical (execMzeroDone id s) := by
  refine canonical_next ?_
  simp [h]

theorem execMready_canonical (g : Guard) {s : State} (h : s.mem.wf = true) :
    Canonical (execMready g s) := by
  refine uniOp_canonical (fun c b w => ?_) h
  simp [h]

theorem execMstore_canonical (g : Guard) (h acc nt mf : Nat) (fmt : Fmt) (rm : Rm) (src : Bool) (xd : Nat) (inc : Bool) {s : State} (h' : s.mem.wf = true) :
    Canonical (execMstore g h acc nt mf fmt rm src xd inc s) := by
  refine uniOp_canonical (fun c b w => State.submit_wf _ _ _ _ _ _ _ _ _ (fun o l u hu => ?_) h') h'
  split <;> simp [hu]

theorem execMstoreLanding_canonical (id : Nat) {s : State} (h : s.mem.wf = true) :
    Canonical (execMstoreLanding id s) := by
  refine canonical_next ?_
  (repeat' split) <;> simp [h]

theorem execMload_canonical (g : Guard) (h acc nt mf xs : Nat) (inc : Bool) {s : State} (h' : s.mem.wf = true) :
    Canonical (execMload g h acc nt mf xs inc s) := by
  refine uniOp_canonical (fun c b w => ?_) h'
  simp [h']

theorem execMloadCompletion_canonical (id : Nat) {s : State} (h : s.mem.wf = true) :
    Canonical (execMloadCompletion id s) := by
  refine canonical_next ?_
  (repeat' split) <;> simp [h]

theorem execCpy_canonical (g : Guard) (h xd : Nat) (incd : Bool) (xs : Nat) (incs : Bool) (a : Nat) {s : State} (h' : s.mem.wf = true) :
    Canonical (execCpy g h xd incd xs incs a s) := by
  refine uniOp_canonical (fun c b w => ?_) h'
  simp [h']

theorem execCpym_canonical (g : Guard) (h xd : Nat) (incd : Bool) (xs : Nat) (incs : Bool) (a cmask : Nat) {s : State} (h' : s.mem.wf = true) :
    Canonical (execCpym g h xd incd xs incs a cmask s) := by
  refine uniOp_canonical (fun c b w => ?_) h'
  simp [h']

theorem execColl_canonical (g : Guard) (h xd : Nat) (incd : Bool) (xs : Nat) (incs : Bool) (a xr : Nat) (incr : Bool) (op : CollOp) {s : State} (h' : s.mem.wf = true) :
    Canonical (execColl g h xd incd xs incs a xr incr op s) := by
  refine uniOp_canonical (fun c b w => ?_) h'
  simp [h']

theorem execCopyStart_canonical (id : Nat) {s : State} (h : s.mem.wf = true) :
    Canonical (execCopyStart id s) := by
  have read (o : EngOp) (k : Nat) (offs : Box → List Nat) (l : List Box) (u : State) :
      (l.foldl (fun s x => s.readPeer o k x (offs x)) u).mem = u.mem :=
    foldl_keeps State.mem (fun v x => State.readPeer_mem v o k x _) _ _
  refine canonical_next ?_
  split
  · exact h
  · dsimp only
    split
    · exact h
    · rw [read _ 3, read _ 2, read _ 1]
      exact h

theorem execCopyCompletion_canonical (id : Nat) {s : State} (h : s.mem.wf = true) :
    Canonical (execCopyCompletion id s) := by
  refine canonical_next ?_
  split
  · exact h
  split
  · split
    · exact h
    split
    · simp [h]
    dsimp only
    split
    · rw [foldl_keeps State.mem (by intros; simp)]
      simp [h]
    · simp [h]
  · exact h

theorem execFwait_canonical (g : Guard) (h : Nat) {s : State} (h' : s.mem.wf = true) :
    Canonical (execFwait g h s) := by
  refine uniOp_canonical (fun c b w => ?_) h'
  simp [h']

theorem execFtry_canonical (g : Guard) (q h : Nat) (t : FTime) {s : State} (h' : s.mem.wf = true) :
    Canonical (execFtry g q h t s) := by
  refine uniOp_canonical (fun c b w => ?_) h'
  dsimp only
  (repeat' split) <;> simp [h']

theorem execFtryTimeout_canonical (block warp : Nat) {s : State} (h : s.mem.wf = true) :
    Canonical (execFtryTimeout block warp s) := by
  refine canonical_next ?_
  dsimp only
  (repeat' split) <;> simp [h]

theorem execFcancel_canonical (g : Guard) (h : Nat) {s : State} (h' : s.mem.wf = true) :
    Canonical (execFcancel g h s) := by
  refine uniOp_canonical (fun c b w => ?_) h'
  dsimp only
  (repeat' split) <;> simp [h']

theorem execFmov_canonical (g : Guard) (h a : Nat) {s : State} (h' : s.mem.wf = true) :
    Canonical (execFmov g h a s) := by
  refine uniOp_canonical (fun c b w => ?_) h'
  simp [h']

theorem execDecodeRefill_canonical (stack core : Nat) {s : State} (h : s.mem.wf = true) :
    Canonical (execDecodeRefill stack core s) := by
  refine canonical_next ?_
  dsimp only
  (repeat' split) <;> simp [h]

theorem execStreamFetch_canonical (stack core : Nat) {s : State} (h : s.mem.wf = true) :
    Canonical (execStreamFetch stack core s) := by
  refine canonical_next ?_
  dsimp only
  (repeat' split) <;> simp [h]

theorem execSwapOut_canonical (block warp : Nat) {s : State} (h : s.mem.wf = true) :
    Canonical (execSwapOut block warp s) := by
  refine canonical_next ?_
  (repeat' split) <;> simp [h]

theorem execSwapIn_canonical (block : Nat) {s : State} (h : s.mem.wf = true) :
    Canonical (execSwapIn block s) := by
  refine canonical_next ?_
  dsimp only
  (repeat' split) <;> simp [h]

theorem execTaskDispatch_canonical (ctx : Nat) {s : State} (h : s.mem.wf = true) :
    Canonical (execTaskDispatch ctx s) := by
  refine canonical_next ?_
  (repeat' split) <;> simp [h]

theorem execBlockPlacement_canonical (ctx task stage num : Nat) {s : State} (h : s.mem.wf = true) :
    Canonical (execBlockPlacement ctx task stage num s) := by
  refine canonical_next ?_
  dsimp only
  (repeat' split) <;> simp [h]

theorem execBlockSave_canonical (block : Nat) {s : State} (h : s.mem.wf = true) :
    Canonical (execBlockSave block s) := by
  refine canonical_next ?_
  dsimp only
  (repeat' split) <;> simp [h]

theorem execPreemptionTimeout_canonical (block : Nat) {s : State} (h : s.mem.wf = true) :
    Canonical (execPreemptionTimeout block s) := by
  refine canonical_next ?_
  (repeat' split) <;> simp [h]

theorem execStageBalancer_canonical (ctx task : Nat) {s : State} (h : s.mem.wf = true) :
    Canonical (execStageBalancer ctx task s) := by
  refine canonical_next ?_
  dsimp only
  split
  · simp [h]
  split
  · simp [h]
  split
  · split
    · split <;> simp [h]
    · simp [h]
  · simp [h]

theorem execTaskCompletion_canonical (ctx task : Nat) {s : State} (h : s.mem.wf = true) :
    Canonical (execTaskCompletion ctx task s) := by
  refine canonical_next ?_
  dsimp only
  (repeat' split) <;> simp [h]

theorem execCompletionRingWrite_canonical (ctx : Nat) {s : State} (h : s.mem.wf = true) :
    Canonical (execCompletionRingWrite ctx s) := by
  refine canonical_next ?_
  dsimp only
  (repeat' split) <;> simp [h]

theorem execMigrationPeriod_canonical {s : State} (h : s.mem.wf = true) :
    Canonical (execMigrationPeriod s) := by
  refine canonical_next (foldl_memWf (fun u f hu => ?_) _ h)
  (repeat' split) <;> simp [hu]

theorem execMigrationSwitch_canonical (base tile : Nat) {s : State} (h : s.mem.wf = true) :
    Canonical (execMigrationSwitch base tile s) := by
  refine canonical_next ?_
  split
  · exact h
  split
  · exact h
  dsimp only
  split
  · simp [h]
  · rw [State.modTensor_mem]
    exact State.putFrame_wf _ _ (State.takeFrame_wf _ _ _ h)

theorem execHello_canonical (port flit : Nat) {s : State} (h : s.mem.wf = true) :
    Canonical (execHello port flit s) := by
  refine arrives_canonical (fun u hu => State.dataIn_wf _ _ hu) (fun u hu => ?_) h
  dsimp only
  (repeat' split) <;> simp [hu]

theorem execIdleFlit_canonical (port flit : Nat) {s : State} (h : s.mem.wf = true) :
    Canonical (execIdleFlit port flit s) := by
  refine arrives_canonical (fun u hu => State.dataIn_wf _ _ hu) (fun u hu => ?_) h
  simp [hu]

theorem execDataFlit_canonical (port flit : Nat) {s : State} (h : s.mem.wf = true) :
    Canonical (execDataFlit port flit s) := by
  refine arrives_canonical (fun u hu => State.dataIn_wf _ _ hu) (fun u hu => ?_) h
  simp [hu]

theorem execAck_canonical (port flit : Nat) {s : State} (h : s.mem.wf = true) :
    Canonical (execAck port flit s) := by
  refine arrives_canonical (fun u hu => State.dataIn_wf _ _ hu) (fun u hu => ?_) h
  (repeat' split) <;> simp [hu]

theorem execUnassignedFlit_canonical (port flit : Nat) {s : State} (h : s.mem.wf = true) :
    Canonical (execUnassignedFlit port flit s) := by
  unfold execUnassignedFlit
  dsimp only
  refine arrives_canonical (fun u hu => State.dataIn_wf _ _ hu) (fun u hu => ?_) h
  split <;> simp [hu]

theorem execPeerRead_canonical (port flit : Nat) {s : State} (h : s.mem.wf = true) :
    Canonical (execPeerRead port flit s) := by
  refine arrives_canonical (fun u hu => State.dataIn_wf _ _ hu) (fun u hu => ?_) h
  simp [hu]

theorem execPeerReadData_canonical (port flit : Nat) {s : State} (h : s.mem.wf = true) :
    Canonical (execPeerReadData port flit s) := by
  refine arrives_canonical (fun u hu => State.dataIn_wf _ _ hu) (fun u hu => ?_) h
  simp [hu]

theorem execPeerWrite_canonical (port flit : Nat) {s : State} (h : s.mem.wf = true) :
    Canonical (execPeerWrite port flit s) := by
  refine arrives_canonical (fun u hu => State.dataIn_wf _ _ hu) (fun u hu => ?_) h
  simp [hu]

theorem execPeerWriteDone_canonical (port flit : Nat) {s : State} (h : s.mem.wf = true) :
    Canonical (execPeerWriteDone port flit s) := by
  refine arrives_canonical (fun u hu => State.dataIn_wf _ _ hu) (fun u hu => ?_) h
  simp [hu]

theorem execPeerAtomic_canonical (port flit : Nat) {s : State} (h : s.mem.wf = true) :
    Canonical (execPeerAtomic port flit s) := by
  refine arrives_canonical (fun u hu => State.dataIn_wf _ _ hu) (fun u hu => ?_) h
  simp [hu]

theorem execPeerAtomicResult_canonical (port flit : Nat) {s : State} (h : s.mem.wf = true) :
    Canonical (execPeerAtomicResult port flit s) := by
  refine arrives_canonical (fun u hu => State.dataIn_wf _ _ hu) (fun u hu => ?_) h
  simp [hu]

theorem execPeerDrain_canonical (port flit : Nat) {s : State} (h : s.mem.wf = true) :
    Canonical (execPeerDrain port flit s) := by
  refine arrives_canonical (fun u hu => State.dataIn_wf _ _ hu) (fun u hu => ?_) h
  simp [hu]

theorem execPeerDrainDone_canonical (port flit : Nat) {s : State} (h : s.mem.wf = true) :
    Canonical (execPeerDrainDone port flit s) := by
  refine arrives_canonical (fun u hu => State.dataIn_wf _ _ hu) (fun u hu => ?_) h
  simp [hu]

theorem execPortRetrain_canonical (port : Nat) {s : State} (h : s.mem.wf = true) :
    Canonical (execPortRetrain port s) := by
  refine canonical_next ?_
  split <;> simp [h]

theorem execPeerRouteLoss_canonical (id : Nat) {s : State} (h : s.mem.wf = true) :
    Canonical (execPeerRouteLoss id s) := by
  refine canonical_next ?_
  dsimp only
  (repeat' split) <;> simp [h]

theorem execFrameOutOfResidence_canonical (f : OutFrame) {s : State} (h : s.mem.wf = true) :
    Canonical (execFrameOutOfResidence f s) := by
  refine canonical_next ?_
  (repeat' split) <;> simp [h]

theorem execMstoreReadDone_canonical (id : Nat) {s : State} (h : s.mem.wf = true) :
    Canonical (execMstoreReadDone id s) := by
  refine canonical_next ?_
  (repeat' split) <;> simp [h]

-- The step.

/-- Every instruction keeps memory canonical. -/
theorem exec_canonical (i : Instr) {s : State} (h : s.mem.wf = true) : Canonical (exec i s) := by
  cases i <;> dsimp only [exec]
  case sadd | ssub | smul | smulhi | sand | sor | sxor | sshl | sshr | ssar | smin | smax => exact sInt_canonical h
  case smov | sli | ssel | scmp | lidx | swr | qand | qor | qxor | agbind | agset | agadd | agstep | aglane | agget
    | fstat => exact uniRes_canonical h
  case pand | por | pxor | pmov | pset => exact laneP_canonical h
  case vany | vall | vcount => exact voteP_canonical h
  case vadd | vsub | vmul | vmulhi | vand | vor | vxor | vshl | vshr | vsar | vmin | vmax => exact vInt2_canonical h
  case vabs | vneg | vmov | vclz | vpopc => exact vInt1_canonical h
  case fabs | fneg | fclass | frcp | frsq | fexp2 | flog2 | fsin | fcos | ftanh => exact v1_canonical h
  case fadd | fsub | fmul | fmin | fmax | hadd2 | hmul2 | cvt => exact v2_canonical h
  case fma | hfma2 => exact v3_canonical h
  case vcmp | fcmp => exact vCmp_canonical h
  case xchg | xrot | xbcast | xidx => exact xMove_canonical h
  case vmad | vsel | vli | xscan | xred => exact laneRes_canonical h
  case imgLoad => exact execImgLoad_canonical _ h
  case ctxOpen => exact execCtxOpen_canonical _ h
  case tensorMap => exact execTensorMap_canonical _ h
  case meterGrant => exact execMeterGrant_canonical _ h
  case counterAdvance => exact execCounterAdvance_canonical _ h
  case launch => exact execLaunch_canonical _ h
  case taskLink => exact execTaskLink_canonical _ h
  case preempt => exact execPreempt_canonical _ h
  case resume => exact execResume_canonical _ h
  case vdieBind => exact execVdieBind_canonical _ h
  case timeRef => exact execTimeRef_canonical _ h
  case meterRead => exact execMeterRead_canonical _ h
  case meterCkpt => exact execMeterCkpt_canonical _ h
  case attest => exact execAttest_canonical _ h
  case queryPart => exact execQueryPart_canonical _ h
  case queryGround => exact execQueryGround_canonical _ h
  case queryTime => exact execQueryTime_canonical _ h
  case queryPower => exact execQueryPower_canonical _ h
  case queryVdie => exact execQueryVdie_canonical _ h
  case queryPorts => exact execQueryPorts_canonical _ h
  case ctxClose => exact execCtxClose_canonical _ h
  case imgUnload => exact execImgUnload_canonical _ h
  case tensorUnmap => exact execTensorUnmap_canonical _ h
  case peerMap => exact execPeerMap_canonical _ h
  case groundSet => exact execGroundSet_canonical _ h
  case unassignedCommand => exact execUnassignedCommand_canonical _ h
  case lanternStop => exact execLanternStop_canonical _ _ h
  case lanternRelease => exact execLanternRelease_canonical _ _ h
  case lanternBinsClear => exact execLanternBinsClear_canonical _ _ _ h
  case lanternPageWrite => exact execLanternPageWrite_canonical _ _ _ h
  case functionLevelReset => exact execFunctionLevelReset_canonical _ h
  case powerUp => exact execPowerUp_canonical _ _ h
  case supplyLoss => exact execSupplyLoss_canonical _ h
  case junctionTemperature => exact execJunctionTemperature_canonical _ _ h
  case hbmTemperature => exact execHbmTemperature_canonical _ _ h
  case stackSilence => exact execStackSilence_canonical _ h
  case ppsEdge => exact execPpsEdge_canonical h
  case timeOfDayMessage => exact execTimeOfDayMessage_canonical _ h
  case ptmDialogue => exact execPtmDialogue_canonical _ h
  case syncBeat => exact execSyncBeat_canonical h
  case beatArrival => exact execBeatArrival_canonical _ h
  case bellowsPeriod => exact execBellowsPeriod_canonical _ h
  case voltageSettled => exact execVoltageSettled_canonical _ h
  case currentSense => exact execCurrentSense_canonical _ _ _ h
  case heatIntegration => exact execHeatIntegration_canonical _ _ _ h
  case droopDetect => exact execDroopDetect_canonical _ _ h
  case droopClear => exact execDroopClear_canonical _ _ h
  case pitchCycle => exact execPitchCycle_canonical _ _ h
  case warpSample => exact execWarpSample_canonical _ _ _ _ h
  case trapEntry => exact execTrapEntry_canonical _ _ h
  case shortIndex => exact execShortIndex_canonical _ _ h
  case longIndex => exact execLongIndex_canonical _ _ h
  case idle => exact execIdle_canonical _ h
  case loop => exact execLoop_canonical _ _ _ h
  case ipf => exact execIpf_canonical _ _ h
  case unassignedToken => exact execUnassignedToken_canonical _ h
  case emptyWord => exact execEmptyWord_canonical h
  case btgt => exact execBtgt_canonical _ _ _ h
  case bxfer => exact execBxfer_canonical _ _ _ h
  case bcall => exact execBcall_canonical _ _ _ _ h
  case lbrk => exact execLbrk_canonical _ h
  case bar => exact execBar_canonical _ _ h
  case exit => exact execExit_canonical _ h
  case trap => exact execTrap_canonical _ _ h
  case hret => exact execHret_canonical _ h
  case hretSkip => exact execHretSkip_canonical _ h
  case srd => exact execSrd_canonical _ _ _ h
  case clk => exact execClk_canonical _ _ _ h
  case dline => exact execDline_canonical _ _ _ h
  case dtick => exact execDtick_canonical _ _ h
  case dclose => exact execDclose_canonical _ _ h
  case pwacq => exact execPwacq_canonical _ _ h
  case pwrel => exact execPwrel_canonical _ h
  case grantGiven => exact execGrantGiven_canonical _ h
  case info => exact execInfo_canonical _ _ _ _ h
  case vdhop => exact execVdhop_canonical _ _ _ _ h
  case mtrd => exact execMtrd_canonical _ _ _ _ _ h
  case mtck => exact execMtck_canonical _ _ _ h
  case rainflyReply => exact execRainflyReply_canonical _ h
  case checkpointRecord => exact execCheckpointRecord_canonical h
  case mpush => exact execMpush_canonical _ _ _ h
  case melse => exact execMelse_canonical _ h
  case mpop => exact execMpop_canonical _ h
  case regroup => exact execRegroup_canonical _ _ _ h
  case ungroup => exact execUngroup_canonical _ h
  case mspill => exact execMspill_canonical _ _ h
  case mfill => exact execMfill_canonical _ _ h
  case ld => exact execLd_canonical _ _ _ _ _ _ _ _ h
  case st => exact execSt_canonical _ _ _ _ _ h
  case ldg => exact execLdg_canonical _ _ _ _ _ _ _ _ h
  case stg => exact execStg_canonical _ _ _ _ _ _ _ h
  case lblk => exact execLblk_canonical _ _ _ _ _ _ h
  case atom => exact execAtom_canonical _ _ _ _ _ _ _ _ _ _ h
  case fence => exact execFence_canonical _ _ h
  case drain => exact execDrain_canonical _ _ h
  case probe => exact execProbe_canonical _ _ _ _ h
  case probeCompletion => exact execProbeCompletion_canonical _ _ _ h
  case stc => exact execStc_canonical _ _ _ _ _ _ h
  case commitAcceptance => exact execCommitAcceptance_canonical _ h
  case commitVisibility => exact execCommitVisibility_canonical _ h
  case ldas => exact execLdas_canonical _ _ _ _ _ _ _ _ h
  case ldasService => exact execLdasService_canonical _ _ h
  case qput => exact execQput_canonical _ _ _ _ h
  case qget => exact execQget_canonical _ _ _ _ h
  case queueStep => exact execQueueStep_canonical _ h
  case feset => exact execFeset_canonical _ _ _ _ h
  case feclr => exact execFeclr_canonical _ _ _ _ h
  case longLoadReturn => exact execLongLoadReturn_canonical _ _ _ h
  case storePerformed => exact execStorePerformed_canonical _ _ h
  case lblkFill => exact execLblkFill_canonical _ h
  case mmac => exact execMmac_canonical _ _ _ _ _ _ _ _ _ _ _ h
  case mmacStart => exact execMmacStart_canonical _ h
  case mmacCompletion => exact execMmacCompletion_canonical _ h
  case mzero => exact execMzero_canonical _ _ _ h
  case mzeroDone => exact execMzeroDone_canonical _ h
  case mready => exact execMready_canonical _ h
  case mstore => exact execMstore_canonical _ _ _ _ _ _ _ _ _ _ h
  case mstoreLanding => exact execMstoreLanding_canonical _ h
  case mload => exact execMload_canonical _ _ _ _ _ _ _ h
  case mloadCompletion => exact execMloadCompletion_canonical _ h
  case cpy => exact execCpy_canonical _ _ _ _ _ _ _ h
  case cpym => exact execCpym_canonical _ _ _ _ _ _ _ _ h
  case coll => exact execColl_canonical _ _ _ _ _ _ _ _ _ _ h
  case copyStart => exact execCopyStart_canonical _ h
  case copyCompletion => exact execCopyCompletion_canonical _ h
  case fwait => exact execFwait_canonical _ _ h
  case ftry => exact execFtry_canonical _ _ _ _ h
  case ftryTimeout => exact execFtryTimeout_canonical _ _ h
  case fcancel => exact execFcancel_canonical _ _ h
  case fmov => exact execFmov_canonical _ _ _ h
  case decodeRefill => exact execDecodeRefill_canonical _ _ h
  case streamFetch => exact execStreamFetch_canonical _ _ h
  case swapOut => exact execSwapOut_canonical _ _ h
  case swapIn => exact execSwapIn_canonical _ h
  case taskDispatch => exact execTaskDispatch_canonical _ h
  case blockPlacement => exact execBlockPlacement_canonical _ _ _ _ h
  case blockSave => exact execBlockSave_canonical _ h
  case preemptionTimeout => exact execPreemptionTimeout_canonical _ h
  case stageBalancer => exact execStageBalancer_canonical _ _ h
  case taskCompletion => exact execTaskCompletion_canonical _ _ h
  case completionRingWrite => exact execCompletionRingWrite_canonical _ h
  case migrationPeriod => exact execMigrationPeriod_canonical h
  case migrationSwitch => exact execMigrationSwitch_canonical _ _ h
  case hello => exact execHello_canonical _ _ h
  case idleFlit => exact execIdleFlit_canonical _ _ h
  case dataFlit => exact execDataFlit_canonical _ _ h
  case ack => exact execAck_canonical _ _ h
  case unassignedFlit => exact execUnassignedFlit_canonical _ _ h
  case peerRead => exact execPeerRead_canonical _ _ h
  case peerReadData => exact execPeerReadData_canonical _ _ h
  case peerWrite => exact execPeerWrite_canonical _ _ h
  case peerWriteDone => exact execPeerWriteDone_canonical _ _ h
  case peerAtomic => exact execPeerAtomic_canonical _ _ h
  case peerAtomicResult => exact execPeerAtomicResult_canonical _ _ h
  case peerDrain => exact execPeerDrain_canonical _ _ h
  case peerDrainDone => exact execPeerDrainDone_canonical _ _ h
  case portRetrain => exact execPortRetrain_canonical _ h
  case peerRouteLoss => exact execPeerRouteLoss_canonical _ h
  case frameOutOfResidence => exact execFrameOutOfResidence_canonical _ h
  case mstoreReadDone => exact execMstoreReadDone_canonical _ h

theorem fetch_ok_wf {s t : State} {i : Instr} (h : s.mem.wf = true) (hf : s.fetch = .ok (i, t)) : t.mem.wf = true := by
  unfold State.fetch at hf
  split at hf
  · split at hf
    · cases hf
    · dsimp only at hf
      split at hf <;> cases hf
      exact h
  · split at hf
    · split at hf
      · cases hf
      · split at hf
        · cases hf
        · dsimp only at hf
          split at hf
          · cases hf
            exact h
          · split at hf
            · cases hf
            · split at hf <;> cases hf
              exact h
    · split at hf
      · cases hf
      · cases hf
        exact State.settleCommits_wf (by simp [h])

theorem fetch_error_wf {s t : State} (h : s.mem.wf = true) (hf : s.fetch = .error t) : t.mem.wf = true := by
  unfold State.fetch at hf
  split at hf
  · split at hf
    · cases hf
      exact State.finishWord_wf h
    · dsimp only at hf
      split at hf <;> cases hf
      exact h
  · split at hf
    · split at hf
      · cases hf
        exact h
      · split at hf
        · cases hf
          exact h
        · dsimp only at hf
          split at hf
          · cases hf
          · split at hf
            · cases hf
              exact State.streamTrap_wf _ _ _ _ h
            · split at hf <;> cases hf
              exact State.streamTrap_wf _ _ _ _ h
    · split at hf <;> cases hf
      exact h

/-- Settles O7, by the form every instruction and every event leaves memory in. -/
theorem stepKeepsMemoryCanonical : Obligations.StepKeepsMemoryCanonical := by
  intro s t h ht
  unfold step at ht
  cases hf : s.fetch with
  | error u =>
    rw [hf] at ht
    cases ht
    exact fetch_error_wf h hf
  | ok p =>
    rw [hf] at ht
    dsimp only at ht
    have canonical := exec_canonical p.1 (fetch_ok_wf h hf)
    split at ht
    · next he =>
      cases ht
      exact State.retire_wf (canonical _ he)
    · cases ht
    · cases ht

end Sys2Proof.Machine
end

section
/-! SUPPORT. The machine never stops on what it fetches: ranges of the decoders, and what each step answers (O6). -/

namespace Sys2Proof
/-- What `finish` lets through: the operation read, of a slot with its reserved bits zero. -/
theorem finish_ok_iff {z : Bool} {o : Option Instr} {i : Instr} :
    finish z o = .ok i ↔ z = true ∧ o = some i ∧ i.wf = true := by
  rcases o with _ | j
  · cases z <;> simp [finish]
  · cases z <;> cases hw : j.wf <;> simp [finish, hw]
    · rintro rfl; exact hw
    · rintro rfl; exact hw

@[simp] theorem noSat_eq_some {sat : Bool} {i j : Instr} : noSat sat i = some j ↔ sat = false ∧ i = j := by
  cases sat <;> simp [noSat]

@[simp] theorem noOp_ne_ok {n : Nat} {i : Instr} : noOp n ≠ .ok i := by
  unfold noOp; split <;> simp

/-- Whatever a slot of a unit decodes to, that unit's encoder writes. -/
theorem decodeS_encodes {x : Nat} {i : Instr} (h : decodeS x = .ok i) : (encodeS i).isSome := by
  unfold decodeS decodeSInt at h
  dsimp only at h
  repeat' split at h
  all_goals
    revert h
    simp only [finish_ok_iff, reduceCtorEq, noOp_ne_ok, noSat_eq_some, Option.bind_eq_some_iff, Option.map_eq_some_iff,
      Option.some.injEq, forall_exists_index, and_imp, false_imp_iff, and_false, false_and]
  all_goals
    intros
    subst_vars
    rfl

theorem decodeP_encodes {x : Nat} {i : Instr} (h : decodeP x = .ok i) : (encodeP i).isSome := by
  unfold decodeP decodePLane decodePQ decodePVote at h
  dsimp only at h
  repeat' split at h
  all_goals
    revert h
    simp only [finish_ok_iff, reduceCtorEq, noOp_ne_ok, noSat_eq_some, Option.bind_eq_some_iff, Option.map_eq_some_iff,
      Option.some.injEq, forall_exists_index, and_imp, false_imp_iff, and_false, false_and]
  all_goals
    intros
    subst_vars
    rfl

theorem decodeA_encodes {x : Nat} {i : Instr} (h : decodeA x = .ok i) : (encodeA i).isSome := by
  unfold decodeA decodeAVal at h
  dsimp only at h
  repeat' split at h
  all_goals
    revert h
    simp only [finish_ok_iff, reduceCtorEq, noOp_ne_ok, noSat_eq_some, Option.bind_eq_some_iff, Option.map_eq_some_iff,
      Option.some.injEq, forall_exists_index, and_imp, false_imp_iff, and_false, false_and]
  all_goals
    intros
    subst_vars
    rfl

theorem decodeV_encodes {x : Nat} {i : Instr} (h : decodeV x = .ok i) : (encodeV i).isSome := by
  unfold decodeV decodeVInt decodeVInt1 decodeV1 decodeV2 decodeV2r decodeV3r at h
  dsimp only at h
  repeat' split at h
  all_goals
    revert h
    simp only [finish_ok_iff, reduceCtorEq, noOp_ne_ok, noSat_eq_some, Option.bind_eq_some_iff, Option.map_eq_some_iff,
      Option.some.injEq, forall_exists_index, and_imp, false_imp_iff, and_false, false_and]
  all_goals
    intros
    subst_vars
    rfl

theorem decodeX_encodes {x : Nat} {i : Instr} (h : decodeX x = .ok i) : (encodeX i).isSome := by
  unfold decodeX decodeX1 at h
  dsimp only at h
  repeat' split at h
  all_goals
    revert h
    simp only [finish_ok_iff, reduceCtorEq, noOp_ne_ok, noSat_eq_some, Option.bind_eq_some_iff, Option.map_eq_some_iff,
      Option.some.injEq, forall_exists_index, and_imp, false_imp_iff, and_false, false_and]
  all_goals
    intros
    subst_vars
    rfl

theorem decodeM_encodes {x : Nat} {i : Instr} (h : decodeM x = .ok i) : (encodeM i).isSome := by
  unfold decodeM  at h
  dsimp only at h
  repeat' split at h
  all_goals
    revert h
    simp only [finish_ok_iff, reduceCtorEq, noOp_ne_ok, noSat_eq_some, Option.bind_eq_some_iff, Option.map_eq_some_iff,
      Option.some.injEq, forall_exists_index, and_imp, false_imp_iff, and_false, false_and]
  all_goals
    intros
    subst_vars
    rfl

theorem decodeT_encodes {x : Nat} {i : Instr} (h : decodeT x = .ok i) : (encodeT i).isSome := by
  unfold decodeT  at h
  dsimp only at h
  repeat' split at h
  all_goals
    revert h
    simp only [finish_ok_iff, reduceCtorEq, noOp_ne_ok, noSat_eq_some, Option.bind_eq_some_iff, Option.map_eq_some_iff,
      Option.some.injEq, forall_exists_index, and_imp, false_imp_iff, and_false, false_and]
  all_goals
    intros
    subst_vars
    rfl

theorem decodeC_encodes {x : Nat} {i : Instr} (h : decodeC x = .ok i) : (encodeC i).isSome := by
  unfold decodeC  at h
  dsimp only at h
  repeat' split at h
  all_goals
    revert h
    simp only [finish_ok_iff, reduceCtorEq, noOp_ne_ok, noSat_eq_some, Option.bind_eq_some_iff, Option.map_eq_some_iff,
      Option.some.injEq, forall_exists_index, and_imp, false_imp_iff, and_false, false_and]
  all_goals
    intros
    subst_vars
    rfl

end Sys2Proof

namespace Sys2Proof.Machine
open Sys2Proof.Claims

/-- The operation of a slot is one the encoder writes. -/
theorem decodeSlot_encodes {word : Nat} {sl : Slot} {i : Instr} (h : decodeSlot word sl = some i) : (encode i).isSome := by
  unfold decodeSlot at h
  split at h
  · cases h
  · have hk : decodeKind sl.kind (slotBits word sl) = .ok i := by
      revert h; cases decodeKind sl.kind (slotBits word sl) <;> simp [Except.toOption]
    unfold encode
    cases hs : sl.kind <;> rw [hs] at hk
    case S => have := decodeS_encodes hk; split <;> simp_all
    case P => have := decodeP_encodes hk; split <;> simp_all
    case A => have := decodeA_encodes hk; split <;> simp_all
    case V => have := decodeV_encodes hk; split <;> simp_all
    case X => have := decodeX_encodes hk; split <;> simp_all
    case M => have := decodeM_encodes hk; split <;> simp_all
    case T => have := decodeT_encodes hk; split <;> simp_all
    case C => have := decodeC_encodes hk; split <;> simp_all

/-- What a token reads as is one the encoder writes. -/
theorem decodeToken_encodes {ws : Nat → List Nat} {bs : List Byte} {p : Instr × Nat} (h : decodeToken ws bs = some p) :
    (encodeToken [] p.1).isSome := by
  unfold decodeToken at h
  dsimp only at h
  repeat' split at h
  all_goals
    revert h
    simp only [reduceCtorEq, Option.map_eq_some_iff, Option.some.injEq, forall_exists_index, and_imp, false_imp_iff]
  all_goals
    intros
    subst_vars
    rfl

/-- Some word is in issue, and the warp that issues it exists. -/
def State.Issues (s : State) : Prop := ∃ c b w, Issuing s c b w

/-- Some warp is chosen, and it exists. -/
def State.Chooses (s : State) : Prop := ∃ x b w, s.sel = some x ∧ s.block? x.block = some b ∧ b.warp? x.warp = some w

theorem slotOp_next {s : State} {i : Instr} {f : Issue → Block → Warp → State → State} (h : s.Issues) :
    ∃ t, slotOp s i f = .next t := by
  obtain ⟨c, b, w, hc, hb, hw⟩ := h
  unfold slotOp
  simp only [hc, hb, hw]
  split <;> exact ⟨_, rfl⟩

section
variable {s : State} {i : Instr}

theorem uniOp_next {g : Guard} {f : Issue → Block → Warp → State → State} (h : s.Issues) :
    ∃ t, uniOp s i g f = .next t := slotOp_next h

theorem uniRes_next {g : Guard} {f : Issue → Warp → List Effect} (h : s.Issues) :
    ∃ t, uniRes s i g f = .next t := uniOp_next h

theorem sInt_next {g : Guard} {d a : Nat} {b : SSrc} {ty : ITy} {f : ITy → Word64 → Word64 → Int} (h : s.Issues) :
    ∃ t, sInt s i g d a b ty f = .next t := uniRes_next h

theorem memOp_next {g : Guard} {f : Issue → Block → Warp → Mask → State → State} (h : s.Issues) :
    ∃ t, memOp s i g f = .next t := slotOp_next h

theorem laneP_next {g : Guard} {f : Issue → Warp → Mask → List Effect} (h : s.Issues) :
    ∃ t, laneP s i g f = .next t := slotOp_next h

theorem voteP_next {g : Guard} {f : Issue → Warp → Mask → List Effect} (h : s.Issues) :
    ∃ t, voteP s i g f = .next t := slotOp_next h

theorem laneRes_next {g : Guard} {lat : Nat} {f : Issue → Pitch → Warp → Mask → List Effect} (h : s.Issues) :
    ∃ t, laneRes s i g lat f = .next t := slotOp_next h

theorem vInt2_next {g : Guard} {lat : Nat} {d : VDst} {a b : VSrc} {ty : ITy} {sat : Bool} {f : ITy → Word64 → Word64 → Int} (h : s.Issues) :
    ∃ t, vInt2 s i g lat d a b ty sat f = .next t := laneRes_next h

theorem vInt1_next {g : Guard} {d : VDst} {a : VSrc} {ty : ITy} {sat : Bool} {f : ITy → Word64 → Int} (h : s.Issues) :
    ∃ t, vInt1 s i g d a ty sat f = .next t := laneRes_next h

theorem v1_next {g : Guard} {lat : Nat} {d : VDst} {a : VSrc} {f : Word32 → Word32} (h : s.Issues) :
    ∃ t, v1 s i g lat d a f = .next t := laneRes_next h

theorem v2_next {g : Guard} {lat : Nat} {d : VDst} {a b : VSrc} {f : Word32 → Word32 → Word32} (h : s.Issues) :
    ∃ t, v2 s i g lat d a b f = .next t := laneRes_next h

theorem v3_next {g : Guard} {d : VDst} {a b e : VSrc} {f : Word32 → Word32 → Word32 → Word32} (h : s.Issues) :
    ∃ t, v3 s i g d a b e f = .next t := laneRes_next h

theorem vCmp_next {g : Guard} {lat pd : Nat} {f : Issue → Pitch → Warp → List Bool} (h : s.Issues) :
    ∃ t, vCmp s i g lat pd f = .next t := laneRes_next h

theorem xMove_next {g : Guard} {d : VDst} {a : VSrc} {src : Issue → Pitch → Warp → Nat → Nat} (h : s.Issues) :
    ∃ t, xMove s i g d a src = .next t := laneRes_next h

end

theorem tokenOp_next {s : State} {f : Sel → Block → Warp → State → State} (h : s.Chooses) : ∃ t, tokenOp s f = .next t := by
  obtain ⟨x, b, w, hx, hb, hw⟩ := h
  exact ⟨f x b w s, by simp [tokenOp, hx, hb, hw]⟩

theorem indexToken_next {s : State} {i : Instr} {n e : Nat} {hs : List Nat} (h : s.Chooses) :
    ∃ t, s.indexToken i n e hs = .next t := tokenOp_next h

/-- A slot operation answers a next state when a warp issues it; any step that is neither a slot operation nor a token's always does, and
a token when a warp is chosen. -/
theorem exec_next (i : Instr) {s : State} (h : (encode i).isSome → s.Issues)
    (ht : (encodeToken [] i).isSome ∨ i = .emptyWord → s.Chooses) : ∃ t, exec i s = .next t := by
  cases i <;> dsimp only [exec]
  case sadd | ssub | smul | smulhi | sand | sor | sxor | sshl | sshr | ssar | smin | smax =>
    exact sInt_next (h rfl)
  case smov | ssel | scmp | lidx | swr | qand | qor | qxor | agbind | agset | agadd | agstep | aglane | agget | fstat =>
    exact uniRes_next (h rfl)
  case bxfer | bcall | lbrk | bar | exit | trap | hret | hretSkip | clk | dline | dtick | dclose | pwacq | pwrel |
    info | vdhop | mtrd | mtck | mpush | melse | mpop | ungroup | mspill | mfill | mzero | mready | fwait | fcancel |
    fmov | mmac | mstore | mload | cpy | cpym | coll =>
    exact uniOp_next (h rfl)
  case pand | por | pxor | pmov | pset =>
    exact laneP_next (h rfl)
  case vany | vall | vcount =>
    exact voteP_next (h rfl)
  case regroup =>
    exact slotOp_next (h rfl)
  case vadd | vsub | vmul | vmulhi | vand | vor | vxor | vshl | vshr | vsar | vmin | vmax =>
    exact vInt2_next (h rfl)
  case vmad | vsel | vli | xscan | xred =>
    exact laneRes_next (h rfl)
  case vabs | vneg | vmov | vclz | vpopc =>
    exact vInt1_next (h rfl)
  case vcmp | fcmp =>
    exact vCmp_next (h rfl)
  case fadd | fsub | fmul | fmin | fmax | hadd2 | hmul2 | cvt =>
    exact v2_next (h rfl)
  case fma | hfma2 =>
    exact v3_next (h rfl)
  case fabs | fneg | fclass | frcp | frsq | fexp2 | flog2 | fsin | fcos | ftanh =>
    exact v1_next (h rfl)
  case xchg | xrot | xbcast | xidx =>
    exact xMove_next (h rfl)
  case ld | st | ldg | stg | lblk | atom | fence | drain | probe | stc | ldas | qput | qget | feset | feclr =>
    exact memOp_next (h rfl)
  case sli v => exact uniRes_next (h (by cases v <;> rfl))
  case btgt v => exact uniOp_next (h (by cases v <;> rfl))
  case srd d _ => exact uniOp_next (h (by cases d <;> rfl))
  case ftry v => exact uniOp_next (h (by cases v <;> rfl))
  case shortIndex | longIndex => exact indexToken_next (ht (.inl rfl))
  case idle | loop | ipf | unassignedToken => exact tokenOp_next (ht (.inl rfl))
  case emptyWord => exact tokenOp_next (ht (.inr rfl))
  all_goals exact ⟨_, rfl⟩

theorem encodeToken_of_encode {i : Instr} (h : (encode i).isSome) : encodeToken [] i = none ∧ i ≠ .emptyWord := by
  cases i <;> simp_all [encode, encodeToken, encodeS, encodeP, encodeA, encodeV, encodeX, encodeM, encodeT, encodeC]

/-- What `step` runs is an operation of a slot that a warp issues, what a token of a chosen warp reads as, or an event. -/
theorem State.fetch_runs {s t : State} {i : Instr}
    (hi : ∀ c, s.issue = some c → ∃ b w, s.block? c.block = some b ∧ b.warp? c.warp = some w)
    (he : s.issue = none → s.sel = none → ∀ e r, s.agenda = e :: r →
      encode e.step = none ∧ encodeToken [] e.step = none ∧ e.step ≠ .emptyWord)
    (h : s.fetch = .ok (i, t)) :
    ((encode i).isSome → t.Issues) ∧ ((encodeToken [] i).isSome ∨ i = .emptyWord → t.Chooses) := by
  rcases hc : s.issue with _ | c
  · rcases hx : s.sel with _ | x
    · rcases ha : s.agenda with _ | ⟨e, r⟩
      · simp [State.fetch, hc, hx, ha] at h
      · obtain ⟨h1, h2, h3⟩ := he hc hx e r ha
        have hi : e.step = i := by simp [State.fetch, hc, hx, ha] at h; exact h.1
        subst hi
        simp [h1, h2, h3]
    · unfold State.fetch at h
      simp only [hc, hx] at h
      have hno : ∀ j : Instr, (encodeToken [] j).isSome ∨ j = .emptyWord → ¬ (encode j).isSome := fun j hj hs => by
        have := encodeToken_of_encode hs
        simp_all
      split at h
      · cases h
      next b hb =>
        split at h
        · cases h
        next w hw =>
          have hch : s.Chooses := ⟨x, b, w, hx, hb, hw⟩
          split at h
          · cases h
            exact ⟨fun hs => absurd hs (hno _ (.inr rfl)), fun _ => hch⟩
          · split at h
            · cases h
            · split at h
              next p hp =>
                cases h
                exact ⟨fun hs => absurd hs (hno _ (.inl (decodeToken_encodes hp))), fun _ => hch⟩
              · cases h
  · obtain ⟨b, w, hb, hw⟩ := hi c hc
    unfold State.fetch at h
    simp only [hc] at h
    split at h
    · cases h
    next sl rest hsl =>
      split at h
      next j hj =>
        cases h
        have hs := decodeSlot_encodes hj
        refine ⟨fun _ => ⟨_, b, w, rfl, hb, hw⟩, fun ht => ?_⟩
        have := encodeToken_of_encode hs
        simp_all
      · cases h

/-- Settles O6, by what each kind of step needs to answer a next state and the decoders' ranges. -/
theorem stepNeverStops : Obligations.StepNeverStops := by
  unfold Obligations.StepNeverStops
  intro s hi he
  unfold step
  rcases hf : s.fetch with u | ⟨i, t⟩
  · exact ⟨u, rfl⟩
  · obtain ⟨hslot, htok⟩ := State.fetch_runs hi he hf
    obtain ⟨u, hu⟩ := exec_next i hslot htok
    exact ⟨u.retire, by simp only [hu]⟩

end Sys2Proof.Machine

end

section
/-! SUPPORT. Scalar results, address streams, guards, system registers and time (O10, O11, O15, O18). -/

namespace Sys2Proof.Machine

open Sys2Proof.Claims

-- The scalar integer operations, through what each computes at its width.

/-- An S result keeps the type's bits of the exact result and extends them by the type (R235). -/
theorem sResult_eq_widened (ty : ITy) (k : Int) : sResult ty k = widened ty (BitVec.ofInt 64 k) (BitVec.ofInt 32 k) := by
  cases ty <;> rfl

/-- A source read at the width of a type. -/
def lowBits (ty : ITy) (x : Word64) : Word64 := (x.setWidth ty.width).setWidth 64

/-- `f` looks at the type's bits of its operands alone. -/
def ReadsLow (ty : ITy) (f : ITy → Word64 → Word64 → Int) : Prop := ∀ x y, f ty (lowBits ty x) (lowBits ty y) = f ty x y

section
variable (ty : ITy) (x y : Word64)

@[simp] theorem tyInt_low : tyInt ty (lowBits ty x) = tyInt ty x := by
  cases ty <;> simp [tyInt, lowBits, ITy.width, ITy.is64]

@[simp] theorem tyNat_low : tyNat ty (lowBits ty x) = tyNat ty x := by
  cases ty <;> simp [tyNat, lowBits, ITy.width, ITy.is64] <;> omega

@[simp] theorem tyTwos_low : tyTwos ty (lowBits ty x) = tyTwos ty x := by
  cases ty <;> simp [tyTwos, lowBits, ITy.width, ITy.is64]

@[simp] theorem shAmount_low : shAmount ty (lowBits ty x) = shAmount ty x := by
  cases ty <;> simp [shAmount, lowBits, ITy.width, ITy.is64] <;> omega

theorem lowBits_and : lowBits ty x &&& lowBits ty y = lowBits ty (x &&& y) := by simp [lowBits, BitVec.setWidth_and]
theorem lowBits_or : lowBits ty x ||| lowBits ty y = lowBits ty (x ||| y) := by simp [lowBits, BitVec.setWidth_or]
theorem lowBits_xor : lowBits ty x ^^^ lowBits ty y = lowBits ty (x ^^^ y) := by simp [lowBits, BitVec.setWidth_xor]

end

section
variable {ty : ITy}

theorem sAdd_readsLow : ReadsLow ty sAdd := fun x y => by simp [sAdd]
theorem sSub_readsLow : ReadsLow ty sSub := fun x y => by simp [sSub]
theorem sMul_readsLow : ReadsLow ty sMul := fun x y => by simp [sMul]
theorem sMulhi_readsLow : ReadsLow ty sMulhi := fun x y => by simp [sMulhi]
theorem sAnd_readsLow : ReadsLow ty sAnd := fun x y => by simp [sAnd, lowBits_and]
theorem sOr_readsLow : ReadsLow ty sOr := fun x y => by simp [sOr, lowBits_or]
theorem sXor_readsLow : ReadsLow ty sXor := fun x y => by simp [sXor, lowBits_xor]
theorem sShl_readsLow : ReadsLow ty sShl := fun x y => by simp [sShl]
theorem sShr_readsLow : ReadsLow ty sShr := fun x y => by simp [sShr]
theorem sSar_readsLow : ReadsLow ty sSar := fun x y => by simp [sSar]
theorem sMin_readsLow : ReadsLow ty sMin := fun x y => by simp [sMin]
theorem sMax_readsLow : ReadsLow ty sMax := fun x y => by simp [sMax]

/-- What an operation computes at the width of its type, of the low bits of any two sources. -/
theorem ofInt_of_computes {n : Nat} {f : ITy → Word64 → Word64 → Int} {k : BitVec n → BitVec n → BitVec n} (hw : ty.width = n)
    (hf : ReadsLow ty f) (hk : Computes2 ty false f k) (x y : Word64) :
    BitVec.ofInt n (f ty x y) = k (x.setWidth n) (y.setWidth n) := by
  rw [← hk, vResult_wraps hw, ← hf x y, lowBits, lowBits, hw]

end

section
variable {s : State} {c : Issue} {bl : Block} {w : Warp} {g : Guard} {i : Instr} {d a : Nat} {b : SSrc} {ty : ITy}
  {f : ITy → Word64 → Word64 → Int}

/-- A typed S operation writes what it computes at the width of its type. -/
theorem sWrites_of_sInt {k64 : Word64 → Word64 → Word64} {k32 : Word32 → Word32 → Word32} (hi : Issuing s c bl w)
    (hg : qGuard w g = true) (hf : ReadsLow ty f) (h64 : ty.width = 64 → Computes2 ty false f k64)
    (h32 : ty.width = 32 → Computes2 ty false f k32) (ht : s.trapOf c bl w i = none) (he : exec i s = sInt s i g d a b ty f) :
    SWrites s i c d (widened ty (k64 (w.sread a) (b.val c w)) (k32 ((w.sread a).setWidth 32) ((b.val c w).setWidth 32))) := by
  have hr : sResult ty (f ty (w.sread a) (b.val c w)) =
      widened ty (k64 (w.sread a) (b.val c w)) (k32 ((w.sread a).setWidth 32) ((b.val c w).setWidth 32)) := by
    rw [sResult_eq_widened]
    cases ty
    case i64 | n64 => exact (ofInt_of_computes (n := 64) rfl hf (h64 rfl) _ _).trans (by rw [BitVec.setWidth_eq, BitVec.setWidth_eq]; rfl)
    case i32 => exact congrArg _ (ofInt_of_computes rfl hf (h32 rfl) _ _)
    case n32 => exact congrArg _ (ofInt_of_computes rfl hf (h32 rfl) _ _)
  rw [SWrites, Flies, he, sInt, uniRes_flies hi hg ht, hr]
  rfl

variable (hi : Issuing s c bl w) (hg : qGuard w g = true)
include hi hg

theorem exec_smov_writes : SWrites s (.smov g d b ty) c d (widened ty (b.val c w) ((b.val c w).setWidth 32)) := by
  have hr : sResult ty (tyInt ty (b.val c w)) = widened ty (b.val c w) ((b.val c w).setWidth 32) := by
    cases ty <;> simp only [sResult, tyInt, widened, BitVec.ofInt_toInt, BitVec.ofInt_natCast, BitVec.ofNat_toNat, BitVec.setWidth_eq]
  rw [← hr]
  exact uniRes_flies hi hg rfl _

theorem exec_sli_writes (v : SImm) : SWrites s (.sli g d v) c d (v.val c) := uniRes_flies hi hg rfl _

theorem exec_ssel_writes (q : Nat) (qn : Bool) :
    SWrites s (.ssel g d a b q qn) c d (if w.qread q = qn then b.val c w else w.sread a) := by
  have hr : (if w.qread q = qn then b.val c w else w.sread a) = if w.qread q != qn then w.sread a else b.val c w := by
    cases w.qread q <;> cases qn <;> rfl
  rw [hr]
  exact uniRes_flies hi hg rfl _

theorem exec_scmp_flies (q : Nat) (cc : Cc) :
    Flies s (.scmp g q a b ty cc) c 1 [.qreg q (ccInt cc (tyInt ty (w.sread a)) (tyInt ty (b.val c w)))] :=
  uniRes_flies hi hg rfl _

end

theorem scalarArithmetic_holds : ScalarArithmetic := fun _ _ _ _ _ _ _ _ _ hi hg =>
  ⟨sWrites_of_sInt hi hg sAdd_readsLow sAdd_wraps sAdd_wraps rfl rfl, sWrites_of_sInt hi hg sSub_readsLow sSub_wraps sSub_wraps rfl rfl,
    sWrites_of_sInt hi hg sMul_readsLow sMul_wraps sMul_wraps rfl rfl, exec_smov_writes hi hg⟩

/-- A shift amount modulo 32 is the same of the low half. -/
theorem toNat_low_mod_32 (y : Word64) : (y.setWidth 32).toNat % 32 = y.toNat % 32 := by
  rw [BitVec.toNat_setWidth]; omega

theorem scalarLogicShift_holds : ScalarLogicShift := fun s c bl w g d a b ty hi hg => by
  have shl := sWrites_of_sInt (d := d) (a := a) (b := b) (ty := ty) hi hg sShl_readsLow sShl_wraps sShl_wraps rfl (i := .sshl g d a b ty) rfl
  have shr := sWrites_of_sInt (d := d) (a := a) (b := b) (ty := ty) hi hg sShr_readsLow sShr_wraps sShr_wraps rfl (i := .sshr g d a b ty) rfl
  have sar := sWrites_of_sInt (d := d) (a := a) (b := b) (ty := ty) hi hg sSar_readsLow sSar_wraps sSar_wraps rfl (i := .ssar g d a b ty) rfl
  rw [toNat_low_mod_32] at shl shr sar
  exact ⟨sWrites_of_sInt hi hg sAnd_readsLow sAnd_wraps sAnd_wraps rfl rfl,
    sWrites_of_sInt hi hg sOr_readsLow sOr_wraps sOr_wraps rfl rfl,
    sWrites_of_sInt hi hg sXor_readsLow sXor_wraps sXor_wraps rfl rfl, shl, shr, sar⟩

/-- The high half of the exact product of two unsigned words, as a word twice as wide (R235). -/
theorem smulhi_n32_eq (x y : Word32) :
    (BitVec.ofInt 32 ((x.toNat : Int) * y.toNat / 2 ^ 32)).setWidth 64 = BitVec.ofNat 64 (x.toNat * y.toNat / 2 ^ 32) := by
  have hlt : x.toNat * y.toNat / 2 ^ 32 < 2 ^ 32 :=
    Nat.div_lt_of_lt_mul (Nat.mul_lt_mul'' x.isLt y.isLt)
  have hc : ((x.toNat : Int) * y.toNat / 2 ^ 32) = ((x.toNat * y.toNat / 2 ^ 32 : Nat) : Int) := by push_cast; rfl
  rw [hc, BitVec.ofInt_natCast]
  exact BitVec.eq_of_toNat_eq (by rw [BitVec.toNat_setWidth, BitVec.toNat_ofNat, BitVec.toNat_ofNat, Nat.mod_eq_of_lt hlt])

theorem scalarSelect_holds : ScalarSelect := fun s c bl w g d a q b v qn hi hg => by
  have smin {ty : ITy} (signed : Bool) (hs : ty.isSigned = signed) :=
    sWrites_of_sInt (d := d) (a := a) (b := b) hi hg sMin_readsLow (fun h => sMin_wraps h hs) (fun h => sMin_wraps h hs) rfl
      (i := .smin g d a b ty) rfl
  have smax {ty : ITy} (signed : Bool) (hs : ty.isSigned = signed) :=
    sWrites_of_sInt (d := d) (a := a) (b := b) hi hg sMax_readsLow (fun h => sMax_wraps h hs) (fun h => sMax_wraps h hs) rfl
      (i := .smax g d a b ty) rfl
  have smulhi (ty : ITy) := sWrites_of_sInt (d := d) (a := a) (b := b) hi hg sMulhi_readsLow sMulhi_wraps sMulhi_wraps rfl
    (i := .smulhi g d a b ty) rfl
  have hn64 : SWrites s (.smulhi g d a b .n64) c d (BitVec.ofNat 64 ((w.sread a).toNat * (b.val c w).toNat / 2 ^ 64)) := by
    have h := smulhi .n64
    simp only [widened, exactVal, ITy.isSigned] at h
    rw [← BitVec.ofInt_natCast]
    push_cast
    exact h
  have hn32 := smulhi .n32
  simp only [widened, exactVal, ITy.isSigned, Bool.false_eq_true, if_false, smulhi_n32_eq] at hn32
  have sli : SWrites s (.sli g d v) c d (match v with
      | .imm n => (BitVec.ofNat 46 n).signExtend 64
      | .hole h => holeVal c h) := by
    cases v
    case imm | hole => exact exec_sli_writes hi hg _
  exact ⟨smin true rfl, smin false rfl, smin true rfl, smin false rfl, smax true rfl, smax false rfl, smax true rfl, smax false rfl,
    hn64, smulhi .i64, hn32, smulhi .i32, sli, exec_ssel_writes hi hg q qn, exec_scmp_flies hi hg q,
    exec_scmp_flies hi hg q, exec_scmp_flies hi hg q, exec_scmp_flies hi hg q⟩

theorem compareConditions_hold : CompareConditions := fun a b => by simp [ccInt]

/-- Settles O11, operation by operation: each computes its value at the width of its type (earlier: `Computes2`). -/
theorem scalarResults : Obligations.ScalarResults :=
  ⟨scalarArithmetic_holds, scalarLogicShift_holds, scalarSelect_holds, compareConditions_hold⟩

end Sys2Proof.Machine

namespace Sys2Proof.Machine

open Sys2Proof.Claims

-- The address-stream operations (R287).

/-- A lane's step of a stream, added modulo 2^32. -/
theorem laneStep_eq (l : Nat) (st : BitVec 16) :
    BitVec.ofInt 32 ((l : Int) * st.toInt) = BitVec.ofNat 32 l * st.signExtend 32 := by
  rw [BitVec.ofInt_mul, BitVec.ofInt_natCast]
  rfl

/-- The latch of an A unit takes each lane's coordinate. -/
theorem agLatch_eq (c : Issue) (x : AStream) (dim : Nat) (v : Word32) :
    agLatch c x dim v = .latch c.cur.latch allLanes (laneList.map fun l =>
      if dim = x.sdim then v + BitVec.ofNat 32 l * x.step.signExtend 32 else v) := by
  simp only [agLatch, laneStep_eq]

theorem AStream.field_setC {st : AStream} {k : Nat} (h : k < st.c.length) (v : Word32) :
    (st.set (.setC k v)).field (.c k) = v.setWidth 64 := by
  simp [AStream.set, AStream.field, h]

theorem AStream.field_setI {st : AStream} {k : Nat} (h : k < st.i.length) (v : Word32) :
    (st.set (.setI k v)).field (.i k) = v.signExtend 64 := by
  simp [AStream.set, AStream.field, h]

/-- Settles O18, operation by operation, and the fields a stream holds after its update. -/
theorem addressStreams : Obligations.AddressStreams := by
  unfold Obligations.AddressStreams
  refine ⟨fun s c bl w g x dim d v f hi hg => ?_, fun st k n v hc hi => ?_⟩
  · dsimp only
    rw [← agLatch_eq, ← agLatch_eq]
    exact ⟨uniRes_flies hi hg rfl _, uniRes_flies hi hg rfl _, uniRes_flies hi hg rfl _, uniRes_flies hi hg rfl _,
      uniRes_flies hi hg rfl _, uniRes_flies hi hg rfl _⟩
  · refine ⟨rfl, AStream.field_setC hc v, AStream.field_setI hi v, rfl, fun j hj => ?_, rfl, rfl⟩
    exact ⟨List.getElem?_set_ne hj.symm, List.getElem?_set_ne hj.symm⟩

end Sys2Proof.Machine

namespace Sys2Proof.Machine

open Sys2Proof.Claims

-- Guarded-off operations (R55, R290).

section
variable {s : State} {c : Issue} {b : Block} {w : Warp} {i : Instr} {g : Guard}

theorem uniRes_eq_uniOp {f : Issue → Warp → List Effect} : ∃ h, uniRes s i g f = uniOp s i g h := ⟨_, rfl⟩

theorem sInt_eq_uniOp {d a : Nat} {x : SSrc} {ty : ITy} {f : ITy → Word64 → Word64 → Int} :
    ∃ h, sInt s i g d a x ty f = uniOp s i g h := uniRes_eq_uniOp

/-- A uniform operation, by its guard. -/
theorem exec_eq_uniOp (h : uniformGuard i = some g) : ∃ f, exec i s = uniOp s i g f := by
  cases i <;> cases h <;> dsimp only [exec]
  case sadd | ssub | smul | smulhi | sand | sor | sxor | sshl | sshr | ssar | smin | smax => exact sInt_eq_uniOp
  case smov | ssel | scmp | lidx | swr | qand | qor | qxor | agbind | agset | agadd | agstep | aglane | agget | fstat
    | sli => exact uniRes_eq_uniOp
  all_goals exact ⟨_, rfl⟩

theorem trapOf_of_false (h : uniformGuard i = some g) (hg : qGuard w g = false) : s.trapOf c b w i = none := by
  cases i <;> cases h <;> simp [State.trapOf, hg]

/-- A memory operation, by its guard. -/
theorem exec_eq_memOp (h : memGuard i = some g) : ∃ f, exec i s = memOp s i g f := by
  cases i <;> cases h <;> dsimp only [exec] <;> exact ⟨_, rfl⟩

theorem trapOf_of_noLane (h : memGuard i = some g) (hm : takers c w g = 0) : s.trapOf c b w i = none := by
  cases i <;> cases h <;> simp [State.trapOf, hm]

/-- An operation on lane predicates in which no lane takes part changes nothing. -/
theorem exec_pred_noLane (hi : Issuing s c b w) (h : predGuard i = some g) (hm : takers c w g = 0) : exec i s = .next s := by
  obtain ⟨hc, hb, hw⟩ := hi
  have hlane : ∀ f, laneP s i g f = .next s := fun f => by
    rw [laneP_flies ⟨hc, hb, hw⟩ (by cases i <;> cases h <;> rfl), if_pos hm]
  have hres : ∀ lat f, laneRes s i g lat f = .next s := fun lat f => by
    rw [laneRes_flies ⟨hc, hb, hw⟩ (by cases i <;> cases h <;> rfl), if_pos hm]
  have hcmp : ∀ lat pd f, vCmp s i g lat pd f = .next s := fun lat pd f => hres lat _
  cases i <;> cases h <;> dsimp only [exec]
  case pand | por | pxor | pmov | pset => exact hlane _
  case vcmp | fcmp => exact hcmp _ _ _

end

theorem falseGuardNoEffect_holds : FalseGuardNoEffect := by
  rintro s c b w i g ⟨hc, hb, hw⟩ hu hg
  obtain ⟨f, hf⟩ := exec_eq_uniOp (s := s) hu
  rw [hf, uniOp_skip _ _ hc hb hw hg (trapOf_of_false hu hg)]

theorem memoryNoLaneNoEffect_holds : MemoryNoLaneNoEffect := by
  rintro s c b w i g ⟨hc, hb, hw⟩ hu hm
  obtain ⟨f, hf⟩ := exec_eq_memOp (s := s) hu
  rw [hf, memOp_skip _ _ hc hb hw hm (trapOf_of_noLane hu hm)]

/-- Blending in no lane keeps every lane. -/
theorem blend_zero (v : Lanes) {o : Lanes} (h : o.length = 32) : blend 0 v o = o := by
  refine List.ext_getElem? fun l => ?_
  by_cases hl : l < 32
  · rw [blend, getElem?_laneMap _ hl]
    simp [List.getElem?_eq_getElem (h ▸ hl)]
  · simp [blend, laneList, hl, h]

theorem Warp.land_vreg_zero {w : Warp} {n : Nat} (v : Lanes) (hn : n < w.v.length) (hv : ∀ x ∈ w.v, x.length = 32) :
    w.land (.vreg n 0 v) = w := by
  have hr : w.vread n = w.v[n] := by simp [Warp.vread, hn]
  change { w with v := w.v.set n (blend 0 v (w.vread n)) } = w
  rw [hr, blend_zero v (hv _ (List.getElem_mem hn)), List.set_getElem_self]

theorem Warp.land_preg_zero (w : Warp) (d : Nat) (v : Mask) : w.land (.preg d 0 v) = w := by
  change (if d = 0 then w else { w with p := w.p.set d ((v &&& 0) ||| (w.pread d &&& ~~~0)) }) = w
  split
  · rfl
  next hd =>
    by_cases hl : d < w.p.length
    · have hr : (v &&& 0) ||| (w.pread d &&& ~~~0) = w.p[d] := by
        rw [show (~~~0 : Mask) = BitVec.allOnes 32 from rfl, BitVec.and_allOnes]
        simp [Warp.pread, hd, hl]
      rw [hr, List.set_getElem_self]
    · rw [List.set_eq_of_length_le (Nat.not_lt.1 hl)]

theorem noLaneNoWrite_holds : NoLaneNoWrite := by
  refine ⟨fun w c d r hd hv => ?_, Warp.land_preg_zero, fun s c b w i g hi h hm => exec_pred_noLane hi h hm⟩
  cases d with
  | reg n => exact (Warp.land_vreg_zero r (hd n rfl) hv :)
  | nw => rfl

/-- Settles O10: guards of uniform operations, lanes of lane-wise ones, and memory operations of no lane. -/
theorem guardedOff : Obligations.GuardedOff := ⟨falseGuardNoEffect_holds, noLaneNoWrite_holds, memoryNoLaneNoEffect_holds⟩

end Sys2Proof.Machine

namespace Sys2Proof.Machine

open Sys2Proof.Claims

-- System registers, clocks, queries and deadline steps.

section
variable {s : State} {c : Issue} {bl : Block} {w : Warp} {g : Guard}

/-- A uniform operation with its guard true and no trap acts. -/
theorem uniOp_runs {i : Instr} (hi : Issuing s c bl w) (hg : qGuard w g = true) (ht : s.trapOf c bl w i = none)
    (f : Issue → Block → Warp → State → State) : uniOp s i g f = .next (f c bl w s) := by
  obtain ⟨hc, hb, hw⟩ := hi
  exact uniOp_act i f hc hb hw hg ht

variable (hi : Issuing s c bl w) (hg : qGuard w g = true)
include hi hg

/-- `srd` of a register a warp may read where it stands (R249). -/
theorem exec_srd_reads {sr : Nat} (h : w.bank.isSome = true ∨ srHandler sr = false) (n : Nat) :
    SWrites s (.srd g (.s n) sr) c n (BitVec.ofNat 64 (s.sysReg c bl w sr 0)) ∧
    Flies s (.srd g (.v n) sr) c 1 [.vreg n c.lanes (laneList.map fun l => BitVec.ofNat 32 (s.sysReg c bl w sr l))] := by
  have ht : ∀ d, s.trapOf c bl w (.srd g d sr) = none := fun d => by
    rcases h with h | h <;> simp [State.trapOf, Warp.handler, h]
  constructor <;> dsimp only [SWrites, Flies, exec, execSrd] <;> rw [uniOp_runs hi hg (ht _)]
  rfl

/-- A handler writes the two spill registers (R249). -/
theorem exec_swr_writes (h : w.bank.isSome = true) (a : Nat) :
    Flies s (.swr g a 0x087) c 1 [.spillRec ((w.sread a).toNat % 2 ^ 12)] ∧
    Flies s (.swr g a 0x088) c 1 [.spillOff (w.sread a)] := by
  have ht : ∀ sr, s.trapOf c bl w (.swr g a sr) = none := fun sr => by simp [State.trapOf, Warp.handler, h]
  exact ⟨uniRes_flies hi hg (ht _) _, uniRes_flies hi hg (ht _) _⟩

end

section
variable (s : State) (c : Issue) (bl : Block) (w : Warp) (l : Nat)

theorem State.sysReg_bread {r : Nat} (hr : r < 8) : s.sysReg c bl w (0x040 + r) l = (w.bread r).toNat := by
  interval_cases r <;> rfl

theorem State.sysReg_home (h : w.region = none) : s.sysReg c bl w 0x001 l = w.num := by
  simp [State.sysReg, homeWarp, h]

theorem State.sysReg_grant : s.sysReg c bl w 0x018 l = w.grant.elim 0 (16 + ·) := by
  cases h : w.grant <;> simp [State.sysReg, h]

end

theorem systemRegisters_hold : SystemRegisters := by
  intro s c bl w g n a sr l hi hg
  refine ⟨fun h => exec_srd_reads hi hg h n, fun h => exec_swr_writes hi hg h a, rfl, fun h => s.sysReg_home c bl w l h,
    rfl, rfl, rfl, rfl, rfl, rfl, rfl, rfl, rfl, rfl, rfl, rfl, fun h => ?_, fun x h => ?_,
    fun r hr => s.sysReg_bread c bl w l hr, rfl, rfl, rfl, rfl, rfl, rfl, rfl⟩
  · rw [State.sysReg_grant, h]; rfl
  · rw [State.sysReg_grant, h]; rfl


theorem low32_toNat (x : Word64) : (low32 x).toNat = x.toNat % 2 ^ 32 := BitVec.toNat_setWidth _ _

section
variable {s : State} {c : Issue} {bl : Block} {w : Warp} {g : Guard} (hi : Issuing s c bl w) (hg : qGuard w g = true)
include hi hg

theorem exec_clk_reads (d e : Nat) :
    Flies s (.clk g d e) c 1 [.sreg d (BitVec.ofNat 64 (s.stack? bl.stack).earliest),
      .latch 6 allLanes (splat (BitVec.ofNat 32 (s.stack? bl.stack).earliest)),
      .sreg e (BitVec.ofNat 64 (s.stack? bl.stack).latest)] := by
  have hl : low32 (BitVec.ofNat 64 (s.stack? bl.stack).earliest) = BitVec.ofNat 32 (s.stack? bl.stack).earliest :=
    BitVec.setWidth_ofNat_of_le (by decide) _
  rw [← hl]
  dsimp only [Flies, exec, execClk]
  rw [uniOp_runs hi hg rfl]
  rfl

/-- What `info` of a kind answers (R251). -/
theorem exec_info_writes (d a kind : Nat) :
    SWrites s (.info g d a kind) c d (BitVec.ofNat 64 (
      if kind = 0 then numericRecord (w.sread a).toNat
      else if kind = 1 then
        1 + s.part * 2 ^ 16 + ((s.ctx? bl.ctx).elim 0 fun x => x.vdies.length) * 2 ^ 24 + 32 * 2 ^ 32
      else if kind = 2 then bl.rcd.tmem + bl.rcd.regs * 2 ^ 32 + bl.rcd.dsize * 2 ^ 40
      else ((bl.allocOn w.core).getD default).base)) := by
  dsimp only [SWrites, Flies, exec, execInfo]
  rw [uniOp_runs hi hg rfl]
  cases s.ctx? bl.ctx <;> rfl

theorem exec_vdhop_writes {x : Context} (hx : s.ctx? bl.ctx = some x) (d a : Nat) (b : SSrc) :
    (∀ p q, x.vdies[(w.sread a).toNat]? = some p → x.vdies[(b.val c w).toNat]? = some q →
      SWrites s (.vdhop g d a b) c d (BitVec.ofNat 64 (hops p q))) ∧
    (x.vdies[(w.sread a).toNat]? = none ∨ x.vdies[(b.val c w).toNat]? = none →
      SWrites s (.vdhop g d a b) c d (BitVec.allOnes 64)) := by
  dsimp only [SWrites, Flies, exec, execVdhop]
  rw [uniOp_runs hi hg rfl]
  refine ⟨fun p q hp hq => ?_, fun h => ?_⟩
  · simp only [hx, hp, hq]
    rfl
  · rcases h with h | h
    · simp only [hx, h]
      rfl
    · cases hp : x.vdies[(w.sread a).toNat]? <;> simp only [hx, hp, h] <;> rfl

end

theorem numericRecord_beyond {n : Nat} (h : 5 < n) : numericRecord n = 0 := by
  unfold numericRecord
  split
  case h_7 => rfl
  all_goals omega

theorem hops_facts (p q : Nat) (hp : p < 4) (hq : q < 4) :
    hops p q = hops q p ∧ hops p q ≤ 2 ∧ (hops p q = 0 ↔ p = q) ∧ (hops p q = 1 ↔ q = (p + 1) % 4 ∨ q = (p + 3) % 4) := by
  interval_cases p <;> interval_cases q <;> decide

theorem clockAndQueries_hold : ClockAndQueries := by
  refine ⟨fun s c bl w x g d e a b hi hg hx => ?_, hops_facts⟩
  have hinfo := exec_info_writes (a := a) hi hg d
  obtain ⟨hp, hn⟩ := exec_vdhop_writes hi hg hx d a b
  refine ⟨exec_clk_reads hi hg d e, hinfo 0, fun n => numericRecord_beyond, ?_, hinfo 2, fun k hk => ?_, hp, hn⟩
  · have h1 := hinfo 1
    rw [hx] at h1
    exact h1
  · have h3 := hinfo 3
    rw [hk] at h3
    exact h3

theorem deadlineSteps_hold : DeadlineSteps := by
  intro s c bl w g a q b hi hg
  dsimp only [WarpBecomes, exec, execDline, execDtick, execDclose]
  rw [uniOp_runs hi hg rfl, uniOp_runs hi hg rfl, uniOp_runs hi hg rfl, ← low32_toNat]
  refine ⟨rfl, rfl, fun d hd ho => ?_, ?_⟩
  · simp only [hd, ho, Bool.true_and]
  · rintro (h | ⟨d, h, ho⟩)
    · simp only [h]
    · simp only [h, ho, Bool.false_and]

/-- Settles O15: system registers, then `clk`, `info` and `vdhop`, then the deadline steps. -/
theorem systemAndTime : Obligations.SystemAndTime := ⟨systemRegisters_hold, clockAndQueries_hold, deadlineSteps_hold⟩

end Sys2Proof.Machine

end

section
/-! SUPPORT. Clock, voltage, current and heat, grants, dispatch and the stage balancer (O34, O47, O48, O50, O54). -/

namespace Sys2Proof.Machine

open Sys2Proof.Claims

-- Clock and voltage (R183 to R188, R384).

-- The choice of the clock and its level.

/-- The steps Bellows chooses from (R188). -/
def clockSteps : List Nat := (List.range 53).map fun i => 800 + 25 * i

theorem mem_clockSteps {n : Nat} : n ∈ clockSteps ↔ ∃ i, i < 53 ∧ 800 + 25 * i = n := by
  simp [clockSteps]

/-- A step meets the floor and the needs. -/
def meetsNeeds (floor : Nat) (needs : List (Nat × Nat)) (n : Nat) : Bool :=
  decide (floor ≤ n) && needs.all fun x => decide (1000 * x.1 ≤ n * x.2)

theorem meetsNeeds_iff {floor n : Nat} {needs : List (Nat × Nat)} :
    meetsNeeds floor needs n = true ↔ floor ≤ n ∧ ∀ x ∈ needs, 1000 * x.1 ≤ n * x.2 := by
  simp [meetsNeeds]

theorem masterFor_eq (floor : Nat) (needs : List (Nat × Nat)) :
    masterFor floor needs = (clockSteps.find? (meetsNeeds floor needs)).getD 2100 := rfl

/-- The clock is a step; it meets what some step meets, and no lower step does. -/
theorem masterFor_facts (floor : Nat) (needs : List (Nat × Nat)) :
    masterFor floor needs ∈ clockSteps ∧
    ((∃ n ∈ clockSteps, meetsNeeds floor needs n = true) → meetsNeeds floor needs (masterFor floor needs) = true) ∧
    ∀ n ∈ clockSteps, n < masterFor floor needs → meetsNeeds floor needs n = false := by
  rw [masterFor_eq]
  cases h : clockSteps.find? (meetsNeeds floor needs) with
  | none =>
    rw [List.find?_eq_none] at h
    refine ⟨by decide, fun ⟨n, hn, hm⟩ => absurd hm (h n hn), fun n hn _ => by simpa using h n hn⟩
  | some m =>
    rw [List.find?_eq_some_iff_append] at h
    obtain ⟨hm, pre, post, hl, hpre⟩ := h
    have hp : clockSteps.Pairwise (· < ·) := by decide
    rw [hl, List.pairwise_append] at hp
    refine ⟨by rw [hl]; simp, fun _ => hm, fun n hn hlt => ?_⟩
    rw [Option.getD_some] at hlt
    rw [hl, List.mem_append, List.mem_cons] at hn
    rcases hn with hn | rfl | hn
    · simpa using hpre n hn
    · exact absurd hlt (lt_irrefl _)
    · exact absurd hlt (Nat.lt_asymm (List.rel_of_pairwise_cons hp.2.1 hn))

theorem levelFor_facts {m : Nat} (hm : m ≤ 2100) :
    m ≤ fMax (levelFor m) ∧ levelFor m ≤ 15 ∧ ∀ v, v < levelFor m → fMax v < m := by
  unfold levelFor
  cases h : (List.range 16).find? (fun v => decide (m ≤ fMax v)) with
  | none =>
    rw [List.find?_eq_none] at h
    exact absurd (decide_eq_true hm) (h 15 (by decide))
  | some x =>
    rw [List.find?_range_eq_some] at h
    obtain ⟨hx, hr, hpre⟩ := h
    refine ⟨by simpa using hx, Nat.le_of_lt_succ (List.mem_range.1 hr), fun v hv => ?_⟩
    simpa using hpre v hv

theorem bellowsCount_bounds (needs : List (Nat × Nat)) (m : Nat) :
    1 ≤ bellowsCount needs m ∧ bellowsCount needs m ≤ 16 := by
  unfold bellowsCount
  split
  · omega
  · dsimp only
    omega

-- The clock of a die after a choice, and what a droop holds.

/-- A die's clock after a setting (R183, R384), `held` by a droop or not. -/
def Stack.switched (held : Bool) (k : Stack) : Stack :=
  match k.hop with
  | none => k
  | some h =>
    if held || k.raising then k
    else { k with mclk := h.1, hop := none, lower := if h.2 < k.vlevel then some h.2 else none }

/-- A die's voltage after a fall that a droop holds or not. -/
def Stack.fallen (held : Bool) (k : Stack) : Stack :=
  match k.lower with
  | none => k
  | some v => if held then k else { k with vlevel := v, lower := none }

/-- A die with a clock chosen. -/
def Stack.chosen (mhz : Nat) (k : Stack) : Stack :=
  let k := { k with hop := some (mhz, levelFor mhz), lower := none }
  if k.mclk < mhz then if k.vlevel < levelFor mhz then { k with vlevel := levelFor mhz, raising := true } else k
  else { k with raising := false }

section
variable (s : State) (k : Nat)

theorem State.switch_eq : s.switch k = s.modStack k (Stack.switched (s.drooping k)) := rfl
theorem State.fall_eq : s.fall k = s.modStack k (Stack.fallen (s.drooping k)) := rfl

theorem State.setting_eq (mhz : Nat) :
    s.setting k mhz = (s.modStack k (Stack.chosen mhz)).modStack k (Stack.switched (s.drooping k)) := rfl

@[simp] theorem State.modStack_stks_length (j : Nat) (f : Stack → Stack) : (s.modStack j f).stks.length = s.stks.length :=
  List.length_modify _ _ _

/-- Clusters that are the same droop alike. -/
theorem State.drooping_congr {t : State} (h : t.clusters = s.clusters) : t.drooping k = s.drooping k := by
  simp only [State.drooping, State.cluster, h]

variable {s k} (hk : k < s.stks.length)
include hk

theorem State.stack?_modStack_self (f : Stack → Stack) : (s.modStack k f).stack? k = f (s.stack? k) := by
  rw [State.stack?_modStack s k k f hk, if_pos rfl]

theorem State.stack?_setting (mhz : Nat) :
    (s.setting k mhz).stack? k = ((s.stack? k).chosen mhz).switched (s.drooping k) := by
  rw [State.setting_eq, State.stack?_modStack_self (by simpa using hk), State.stack?_modStack_self hk]

end

/-- A choice above the clock that needs a higher level waits for the voltage; one at or below it comes into force at once unless a
droop holds it. -/
theorem Stack.switched_chosen (x : Stack) (m : Nat) (held : Bool) :
    (x.mclk < m → x.vlevel < levelFor m → ((x.chosen m).switched held).mclk = x.mclk ∧
      ((x.chosen m).switched held).vlevel = levelFor m ∧ ((x.chosen m).switched held).raising = true ∧
      ((x.chosen m).switched held).hop = some (m, levelFor m)) ∧
    (m ≤ x.mclk → held = false → ((x.chosen m).switched held).mclk = m ∧ ((x.chosen m).switched held).vlevel = x.vlevel ∧
      ((x.chosen m).switched held).hop = none ∧
      ((x.chosen m).switched held).lower = if levelFor m < x.vlevel then some (levelFor m) else none) ∧
    (m ≤ x.mclk → held = true → ((x.chosen m).switched held).mclk = x.mclk ∧
      ((x.chosen m).switched held).hop = some (m, levelFor m)) := by
  refine ⟨fun h1 h2 => ?_, fun h1 hh => ?_, fun h1 hh => ?_⟩
  · simp [Stack.chosen, Stack.switched, h1, h2]
  · simp [Stack.chosen, Stack.switched, Nat.not_lt.2 h1, hh]
  · simp [Stack.chosen, Stack.switched, Nat.not_lt.2 h1, hh]

@[simp] theorem Stack.switched_raising (held : Bool) (x : Stack) : (x.switched held).raising = x.raising := by
  unfold Stack.switched
  (repeat' split) <;> rfl

/-- What was held back goes on when neither a droop nor a rise of the voltage holds it. -/
theorem Stack.switched_fallen (x : Stack) : Switched x (({ (x.fallen false) with raising := false } : Stack).switched false) := by
  cases h1 : x.hop <;> cases h2 : x.lower <;> simp [Switched, Stack.fallen, Stack.switched, h1, h2]

theorem Stack.held_fallen (x : Stack) :
    (({ (x.fallen true) with raising := false } : Stack).switched true) = { x with raising := false } := by
  cases h1 : x.hop <;> cases h2 : x.lower <;> simp [Stack.fallen, Stack.switched, h1, h2]


-- Bellows' period, step by step.

section
variable (s : State) (k : Nat)

@[simp] theorem State.notices_stks : (s.notices k).stks = s.stks := rfl
@[simp] theorem State.notices_clusters : (s.notices k).clusters = s.clusters := rfl

@[simp] theorem State.requestSave_stks (b : Nat) (p : PreemptBy) : (s.requestSave b p).stks = s.stks := by
  cases p <;> rfl
@[simp] theorem State.requestSave_clusters (b : Nat) (p : PreemptBy) : (s.requestSave b p).clusters = s.clusters := by
  cases p <;> rfl

theorem State.rotateHeat_stks (c : Nat) : (s.rotateHeat k c).stks = s.stks := by
  unfold State.rotateHeat
  (repeat' split) <;> simp
theorem State.rotateHeat_clusters (c : Nat) : (s.rotateHeat k c).clusters = s.clusters := by
  unfold State.rotateHeat
  (repeat' split) <;> simp

@[simp] theorem State.setting_clusters (m : Nat) : (s.setting k m).clusters = s.clusters := rfl

theorem State.cluster_modCluster_ne {j d c : Nat} (f : Cluster → Cluster) (h : 4 * k + d ≠ 4 * j + c) :
    (s.modCluster k d f).cluster j c = s.cluster j c := by
  unfold State.cluster State.modCluster
  simp [List.getD, List.getElem?_modify, h]

/-- The counts of the clusters of a die, one after the other (R188). -/
def State.setCounts (u : State) (k : Nat) (n : Nat → Nat) (l : List Nat) : State :=
  l.foldl (fun u c => u.modCluster k c fun (x : Cluster) => { x with nBell := n c }) u

theorem State.setCounts_stks (n : Nat → Nat) (l : List Nat) : (s.setCounts k n l).stks = s.stks :=
  foldl_keeps State.stks (by intros; rfl) l s

theorem State.setCounts_mem (n : Nat → Nat) (l : List Nat) : (s.setCounts k n l).mem = s.mem :=
  foldl_keeps State.mem (by intros; rfl) l s

theorem State.nBell_setCounts (n : Nat → Nat) {c : Nat} (hk : 4 * k + c < s.clusters.length) (l : List Nat)
    (h : c ∈ l ∨ (s.cluster k c).nBell = n c) : ((s.setCounts k n l).cluster k c).nBell = n c := by
  induction l generalizing s with
  | nil => exact h.resolve_left List.not_mem_nil
  | cons d r ih =>
    refine ih _ (by simpa [State.modCluster] using hk) ?_
    by_cases hd : c = d
    · subst hd
      right
      rw [State.cluster_modCluster s k c k c _ hk, if_pos rfl]
    · refine h.imp (fun hm => (List.mem_cons.1 hm).resolve_left hd) fun hn => ?_
      have hne : 4 * k + d ≠ 4 * k + c := by omega
      rw [State.cluster_modCluster_ne _ _ _ hne, hn]

end

section
variable {s : State} {k : Nat}

theorem exec_bellowsPeriod_off (hp : (s.stack? k).powered = false) : exec (.bellowsPeriod k) s = .next s := by
  dsimp only [exec, execBellowsPeriod]
  rw [hp]
  rfl

/-- The clock a period chooses (R188). -/
def State.masterOf (s : State) (k : Nat) : Nat := masterFor (s.floorMhz k) ((List.range 4).map (s.needs k)).flatten

/-- A powered die's period: the notices, the setting, the counts and the heat rotation. -/
theorem exec_bellowsPeriod_on (hp : (s.stack? k).powered = true) :
    exec (.bellowsPeriod k) s = .next ((List.range 4).foldl (fun s c => s.rotateHeat k c)
      (((s.notices k).setting k (s.masterOf k)).setCounts k
        (fun c => bellowsCount (((List.range 4).map (s.needs k)).getD c []) (s.masterOf k)) (List.range 4))) := by
  dsimp only [exec, execBellowsPeriod]
  rw [hp]
  rfl

theorem bellowsPeriod_effect (hp : (s.stack? k).powered = true) (hk : k < s.stks.length) :
    ∃ t, exec (.bellowsPeriod k) s = .next t ∧ t.mem = s.mem ∧
      (∀ c, c < 4 → 4 * k + c < s.clusters.length → (t.cluster k c).nBell = bellowsCount (s.needs k c) (s.masterOf k)) ∧
      t.stack? k = ((s.stack? k).chosen (s.masterOf k)).switched (s.drooping k) := by
  refine ⟨_, exec_bellowsPeriod_on hp, ?_, fun c hc hl => ?_, ?_⟩
  · rw [foldl_keeps State.mem (fun u c => u.rotateHeat_mem k c), State.setCounts_mem, State.setting_mem, State.notices_mem]
  · rw [State.cluster, foldl_keeps State.clusters (fun u c => u.rotateHeat_clusters k c), ← State.cluster,
      State.nBell_setCounts _ _ _ (by simpa using hl) _ (.inl (List.mem_range.2 hc))]
    simp [List.getD, hc]
  · rw [State.stack?, foldl_keeps State.stks (fun u c => u.rotateHeat_stks k c), State.setCounts_stks, ← State.stack?,
      State.stack?_setting (by simpa using hk)]
    rfl

theorem exec_voltageSettled_stack (hk : k < s.stks.length) :
    ∃ t, exec (.voltageSettled k) s = .next t ∧ t.mem = s.mem ∧ t.stack? k =
      (({ ((s.stack? k).fallen (s.drooping k)) with raising := false } : Stack).switched (s.drooping k)) := by
  refine ⟨_, rfl, rfl, ?_⟩
  rw [State.switch_eq, State.stack?_modStack_self (by simpa [State.fall_eq] using hk),
    State.stack?_modStack_self (by simpa [State.fall_eq] using hk), State.fall_eq, State.stack?_modStack_self hk]
  rfl

/-- A change that leaves a die as it is leaves all. -/
theorem State.modStack_stks_of_fixed {f : Stack → Stack} (h : f (s.stack? k) = s.stack? k) : (s.modStack k f).stks = s.stks := by
  refine List.ext_getElem? fun j => ?_
  rw [State.modStack, List.getElem?_modify]
  by_cases hj : k = j
  · subst hj
    by_cases hk : k < s.stks.length
    · have hs : s.stack? k = s.stks[k] := by simp [State.stack?, List.getD, hk]
      rw [hs] at h
      simp [hk, h]
    · simp [List.getElem?_eq_none (Nat.not_lt.1 hk)]
  · simp [hj]

/-- What is held back goes on, of die `k` (R384). -/
theorem State.stack?_resume (u : State) (hk : k < u.stks.length) :
    ((u.fall k).switch k).stack? k = ((u.stack? k).fallen (u.drooping k)).switched (u.drooping k) := by
  rw [State.switch_eq, State.stack?_modStack_self (by simpa [State.fall_eq] using hk), State.fall_eq,
    State.stack?_modStack_self hk]
  rfl

theorem State.stks_resume (u : State) (h1 : (u.stack? k).hop = none) (h2 : (u.stack? k).lower = none) :
    ((u.fall k).switch k).stks = u.stks := by
  have hf : (u.fall k).stks = u.stks :=
    State.modStack_stks_of_fixed (f := Stack.fallen (u.drooping k)) (by simp [Stack.fallen, h2])
  have hx : (u.fall k).stack? k = u.stack? k := by rw [State.stack?, hf, State.stack?]
  rw [State.switch_eq, State.modStack_stks_of_fixed (by simp [Stack.switched, hx, h1]), hf]

theorem drooping_iff : s.drooping k = true ↔ ∃ c, c < 4 ∧ (s.cluster k c).droop = true := by
  simp [State.drooping]

/-- With no rise under way and no droop, a clock chosen comes into force and a voltage that was to fall falls. -/
theorem Stack.switched_of_still {x : Stack} (hr : x.raising = false) : Switched x ((x.fallen false).switched false) := by
  have heta : ∀ y : Stack, y.raising = false → { y with raising := false } = y := by
    rintro ⟨⟩ rfl
    rfl
  have hf : (x.fallen false).raising = false := by
    cases hl : x.lower <;> simp [Stack.fallen, hl, hr]
  have h := x.switched_fallen
  rwa [heta _ hf] at h

end

theorem droop_effects (s : State) (k c : Nat) (hc : c < 4) (hl : 4 * k + c < s.clusters.length) :
    (∃ t, exec (.droopDetect k c) s = .next t ∧ t = { s with clusters := t.clusters } ∧ (t.cluster k c).droop = true ∧
      t.drooping k = true ∧ ∀ j, j ≠ c → t.cluster k j = s.cluster k j) ∧
    ∃ t, exec (.droopClear k c) s = .next t ∧ (t.cluster k c).droop = false ∧ (∀ j, j ≠ c → t.cluster k j = s.cluster k j) ∧
      ((s.stack? k).hop = none → (s.stack? k).lower = none → t.stks = s.stks) ∧
      (k < s.stks.length → (s.stack? k).raising = false → (∀ j, j < 4 → j ≠ c → (s.cluster k j).droop = false) →
        Switched (s.stack? k) (t.stack? k)) := by
  constructor
  · have hd : ((s.modCluster k c fun (x : Cluster) => { x with droop := true }).cluster k c).droop = true := by
      rw [State.cluster_modCluster s k c k c _ hl, if_pos rfl]
    exact ⟨_, rfl, rfl, hd, drooping_iff.2 ⟨c, hc, hd⟩, fun j hj => s.cluster_modCluster_ne _ _ (by omega)⟩
  · set u := s.modCluster k c fun (x : Cluster) => { x with droop := false } with hu
    have ht : ∀ j, ((u.fall k).switch k).cluster k j = u.cluster k j := fun j => rfl
    have hself : (u.cluster k c).droop = false := by
      rw [hu, State.cluster_modCluster s k c k c _ hl, if_pos rfl]
    have hother : ∀ j, j ≠ c → u.cluster k j = s.cluster k j := fun j hj => s.cluster_modCluster_ne _ _ (by omega)
    refine ⟨_, rfl, by rw [ht]; exact hself, fun j hj => (ht j).trans (hother j hj), fun h1 h2 => ?_, fun hk hr hd => ?_⟩
    · exact State.stks_resume u h1 h2
    · have hno : u.drooping k = false := by
        rw [← Bool.not_eq_true, drooping_iff]
        rintro ⟨j, hj, hjd⟩
        by_cases h : j = c
        · rw [h, hself] at hjd; cases hjd
        · rw [hother j h, hd j hj h] at hjd; cases hjd
      rw [State.stack?_resume u hk, hno]
      exact Stack.switched_of_still hr

/-- Settles O47: a period of Bellows, the choice of clock and level, the counts, and what a settled voltage and a droop do. -/
theorem clockAndVoltage : Obligations.ClockAndVoltage := by
  unfold Obligations.ClockAndVoltage
  refine ⟨fun s k => ⟨exec_bellowsPeriod_off, fun hp hk => ?_⟩, fun floor needs => ?_, fun m hm => levelFor_facts hm,
    fun needs m => ⟨(bellowsCount_bounds needs m).1, (bellowsCount_bounds needs m).2, rfl⟩, fun s k hk => ?_, droop_effects⟩
  · obtain ⟨t, ht, hmem, hcount, hstack⟩ := bellowsPeriod_effect hp hk
    obtain ⟨h1, h2, h3⟩ := Stack.switched_chosen (s.stack? k) (s.masterOf k) (s.drooping k)
    rw [← hstack] at h1 h2 h3
    exact ⟨t, ht, hmem, hcount, h1, h2, h3⟩
  · obtain ⟨hmem, hmeets, hleast⟩ := masterFor_facts floor needs
    have hstep : ∀ i, i < 53 → 800 + 25 * i ∈ clockSteps := fun i hi => mem_clockSteps.2 ⟨i, hi, rfl⟩
    obtain ⟨j, hj, hm⟩ := mem_clockSteps.1 hmem
    refine ⟨by omega, by omega, by omega, fun ⟨i, hi, h⟩ => ?_, fun i hi hlt h => ?_⟩
    · exact meetsNeeds_iff.1 (hmeets ⟨_, hstep i hi, meetsNeeds_iff.2 h⟩)
    · have := hleast _ (hstep i hi) hlt
      rw [meetsNeeds_iff.2 h] at this
      cases this
  · obtain ⟨t, ht, hmem, hstack⟩ := exec_voltageSettled_stack hk
    refine ⟨t, ht, ?_, hmem, fun hd => ?_, fun hd => ?_⟩
    · rw [hstack]
      exact Stack.switched_raising _ _
    · rw [hstack, hd, Stack.held_fallen]
      exact ⟨rfl, rfl, rfl, rfl⟩
    · rw [hstack, hd]
      exact (s.stack? k).switched_fallen

end Sys2Proof.Machine

namespace Sys2Proof.Machine

open Sys2Proof.Claims

-- Lookups after a change of every block, and of every warp of a block.

/-- A lookup by key after every entry has changed, its key kept. -/
theorem find?_map_all {α : Type} (key : α → Nat) (f : α → α) (hf : ∀ x, key (f x) = key x) (l : List α) (m : Nat) :
    (l.map f).find? (fun x => key x == m) = (l.find? fun x => key x == m).map f := by
  rw [List.find?_map]
  congr 2
  funext x
  simp [hf]

theorem State.block?_mapBlocks (s : State) (f : Block → Block) (hf : ∀ b, (f b).bid = b.bid) (n : Nat) :
    ({ s with blocks := s.blocks.map f } : State).block? n = (s.block? n).map f :=
  find?_map_all Block.bid f hf s.blocks n

theorem Block.warp?_mapWarps (b : Block) (f : Warp → Warp) (hf : ∀ w, (f w).num = w.num) (n : Nat) :
    ({ b with warps := b.warps.map f } : Block).warp? n = (b.warp? n).map f :=
  find?_map_all Warp.num f hf b.warps n

-- Current and heat (R190, R192, R193, R385).

/-- A warp of a cluster that holds a grant is marked as over-drawing (R385). -/
def Warp.marked (cluster : Nat) (w : Warp) : Warp :=
  if w.core / 8 = cluster ∧ w.grant.isSome then { w with overdraw := true } else w

/-- The placed blocks of a die with the marked warps of a cluster. -/
def Block.marked (k cluster : Nat) (b : Block) : Block :=
  if b.stack == k && b.status == .placed then { b with warps := b.warps.map (Warp.marked cluster) } else b

theorem Block.marked_bid (k c : Nat) (b : Block) : (b.marked k c).bid = b.bid := by
  unfold Block.marked; split <;> rfl

theorem Block.warp?_marked (k c : Nat) (b : Block) (m : Nat) :
    (b.marked k c).warp? m = (b.warp? m).map fun w => if b.stack = k ∧ b.status = .placed then w.marked c else w := by
  unfold Block.marked
  by_cases h : b.stack = k ∧ b.status = .placed
  · rw [if_pos (by simpa using h), b.warp?_mapWarps _ (fun w => by unfold Warp.marked; split <;> rfl)]
    simp only [h, and_self, if_true]
  · rw [if_neg (by simpa using h)]
    simp only [h, if_false, Option.map_id']

section
variable {s : State} {k c draw : Nat}

theorem exec_currentSense_off (hp : (s.stack? k).powered = false) : exec (.currentSense k c draw) s = .next s := by
  dsimp only [exec, execCurrentSense]
  rw [hp]
  rfl

/-- Without a grant on it a cluster's cap follows its draw (R192). -/
theorem exec_currentSense_cap (hp : (s.stack? k).powered = true) (hg : s.grantsOn k c = []) :
    exec (.currentSense k c draw) s = .next (s.modCluster k c fun x =>
      if s.rainfly.base.getD (4 * k + c) 0 < draw then { x with capCur := max 1 (x.capCur - 1) }
      else if 10 * draw < 9 * s.rainfly.base.getD (4 * k + c) 0 then { x with capCur := min 16 (x.capCur + 1) } else x) := by
  dsimp only [exec, execCurrentSense]
  rw [hp, if_neg (by simp), if_pos hg]

theorem exec_currentSense_grants (hp : (s.stack? k).powered = true) (hg : s.grantsOn k c ≠ []) :
    exec (.currentSense k c draw) s = .next (if s.limitWith k c [] < draw
      then { s with blocks := s.blocks.map (Block.marked k c) } else s) := by
  dsimp only [exec, execCurrentSense]
  rw [hp, if_neg (by simp), if_neg hg]
  rfl

theorem warp?_marked {n m : Nat} {b : Block} {w : Warp} (hb : s.block? n = some b) (hw : b.warp? m = some w) :
    ({ s with blocks := s.blocks.map (Block.marked k c) } : State).warp? n m = some
      (if b.stack = k ∧ b.status = .placed ∧ w.core / 8 = c ∧ w.grant.isSome = true then { w with overdraw := true } else w) := by
  rw [State.warp?, s.block?_mapBlocks _ (Block.marked_bid k c), hb, Option.map_some, Option.bind_some, Block.warp?_marked, hw,
    Option.map_some]
  by_cases h : b.stack = k ∧ b.status = .placed
  · simp [h, Warp.marked]
  · rw [if_neg h, if_neg (fun hn => h ⟨hn.1, hn.2.1⟩)]

end

/-- The heat cap: the least sixteenth of the allowance, on ten, that holds what is left of it, between 1 and 16 (R193). -/
theorem heatCap_bounds {emax e cap : Nat} (hc : cap = min 16 (max 1 ((160 * (emax - e) + emax - 1) / emax))) :
    1 ≤ cap ∧ cap ≤ 16 ∧ (0 < emax → cap < 16 → 160 * (emax - e) ≤ emax * cap) ∧
    (0 < emax → 1 < cap → emax * (cap - 1) < 160 * (emax - e)) := by
  generalize hx : 160 * (emax - e) = x at hc ⊢
  generalize hq : (x + emax - 1) / emax = q at hc
  refine ⟨by omega, by omega, fun h0 hlt => ?_, fun h0 hlt => ?_⟩
  · have hle : q ≤ cap := by omega
    have h1 : x + emax - 1 < emax * (q + 1) := by rw [← hq]; exact Nat.lt_mul_div_succ _ h0
    have h2 : emax * (q + 1) ≤ emax * cap + emax := by rw [Nat.mul_add, Nat.mul_one]; exact Nat.add_le_add_right (Nat.mul_le_mul_left _ hle) _
    omega
  · have hle : cap ≤ q := by omega
    have h1 : emax * q ≤ x + emax - 1 := by rw [← hq]; exact Nat.mul_div_le _ _
    have h2 : emax * (cap - 1) + emax ≤ emax * q := by
      rw [← Nat.mul_add_one, Nat.sub_add_cancel hlt.le]; exact Nat.mul_le_mul_left _ hle
    omega

/-- Settles O48: the current cap with and without grants, then the heat cap. -/
theorem currentAndHeat : Obligations.CurrentAndHeat := by
  unfold Obligations.CurrentAndHeat
  refine ⟨fun s k c draw => ⟨exec_currentSense_off, fun hp hg => ?_, fun hp hg => ?_⟩, fun s k c e hk => ?_⟩
  · rw [exec_currentSense_cap hp hg]
    refine ⟨fun h => ?_, fun h h1 => ?_, fun h h1 => ?_⟩
    · simp only [h, if_true]
    · simp only [Nat.not_lt.2 h, h1, if_true, if_false]
    · simp only [Nat.not_lt.2 h, Nat.not_lt.2 h1, if_false]
  · rw [exec_currentSense_grants hp hg]
    refine ⟨fun h => by rw [if_neg (Nat.not_lt.2 h)], fun h => ?_⟩
    rw [if_pos h]
    exact ⟨_, rfl, rfl, fun n m b w hb hw => warp?_marked hb hw⟩
  · have hcap := heatCap_bounds (emax := s.rainfly.emax.getD (4 * k + c) 0) (e := e) rfl
    refine ⟨_, rfl, rfl, ?_⟩
    rw [State.cluster_modCluster s k c k c _ hk, if_pos rfl]
    obtain ⟨h1, h2, h3, h4⟩ := hcap
    refine ⟨rfl, h1, h2, h3, h4, fun j hj => ?_⟩
    rw [State.cluster_modCluster s k c k j _ hk, if_neg (by omega)]

end Sys2Proof.Machine

namespace Sys2Proof.Machine

open Sys2Proof.Claims

-- Current grants (R190 to R192, R250).

section
variable {s : State} {c : Issue} {bl : Block} {w : Warp} {g : Guard} {a : Nat} (hi : Issuing s c bl w) (hg : qGuard w g = true)
include hi hg

theorem exec_pwacq_traps (h : s.pwNever bl w ((w.sread a).toNat % 16) = true) (hf : c.clear = false) :
    Traps s (.pwacq g a) c 0x60 0 := by
  obtain ⟨hc, hb, hw⟩ := hi
  have ht : s.trapOf c bl w (.pwacq g a) = some (0x60, 0) := by simp [State.trapOf, hg, h]
  dsimp only [Traps, exec, execPwacq]
  rw [uniOp_trap _ _ hc hb hw hf ht]

theorem exec_pwacq_asks (h : s.pwNever bl w ((w.sread a).toNat % 16) = false) :
    exec (.pwacq g a) s =
      .next ((s.modWarp c.block c.warp fun x => { x with grant := none, asking := some ((w.sread a).toNat % 16) }).modStack
        bl.stack fun k => { k with queue := k.queue ++ [(bl.bid, w.num)] }) := by
  have ht : s.trapOf c bl w (.pwacq g a) = none := by simp [State.trapOf, h]
  dsimp only [exec, execPwacq]
  rw [uniOp_runs hi hg ht]

theorem exec_pwrel_releases : WarpBecomes s (.pwrel g) c (fun x => { x with grant := none, overdraw := false }) := by
  dsimp only [WarpBecomes, exec, execPwrel]
  rw [uniOp_runs hi hg rfl]

end

/-- The requests of a die's queue that stand, in arrival order: the block, the warp, its cluster and the level asked for. -/
def State.requests (s : State) (k : Nat) : List (Nat × Nat × Nat × Nat) :=
  (s.stack? k).queue.filterMap fun q =>
    match s.block? q.1 with
    | none => none
    | some b => match b.warp? q.2 with
      | none => none
      | some w => (b.asks w).map fun l => (b.bid, w.num, w.core / 8, l)

/-- A grant given: the warp holds it, has left the queue, and its cluster's cap is 16 (R191, R192). -/
def State.given (s : State) (k bid wn cluster l : Nat) : State :=
  ((s.modWarp bid wn fun w => { w with grant := some l, regrant := none, asking := none }).modStack k fun (x : Stack) =>
    { x with queue := x.queue.erase (bid, wn) }).modCluster k cluster fun (x : Cluster) => { x with capCur := 16 }

section
variable {s : State} {k bid wn l : Nat} {rest : List (Nat × Nat)} {b : Block} {w : Warp}

theorem exec_grantGiven_head {cl : Nat} {r : List (Nat × Nat × Nat × Nat)} (h : s.requests k = (bid, wn, cl, l) :: r) :
    exec (.grantGiven k) s =
      .next (if s.rainfly.budget.getD k 0 < s.limitSum k cl [l] then s else s.given k bid wn cl l) := by
  dsimp only [exec, execGrantGiven]
  change Host.Outcome.next (match s.requests k with
    | [] => s
    | (bid, wn, cl, l) :: _ =>
      if s.rainfly.budget.getD k 0 < s.limitSum k cl [l] then s else s.given k bid wn cl l) = _
  rw [h]

/-- A warp in `pwacq` at the head of the queue is the first to be answered. -/
theorem requests_head (hq : (s.stack? k).queue = (bid, wn) :: rest) (hb : s.block? bid = some b) (hw : b.warp? wn = some w)
    (ha : w.asking = some l) (hp : b.pre = none) (hh : w.held = false) (hs : b.status = .placed) :
    ∃ r, s.requests k = (bid, wn, w.core / 8, l) :: r := by
  have hasks : b.asks w = some l := by simp [Block.asks, Block.holds, ha, hp, hh, hs]
  rw [State.requests, hq]
  simp only [List.filterMap_cons, hb, hw, hasks, Option.map_some, State.block?_bid hb, Block.warp?_num hw]
  exact ⟨_, rfl⟩

theorem given_effects (hq : (s.stack? k).queue = (bid, wn) :: rest) (hw : s.warp? bid wn = some w) (cl : Nat) :
    (s.given k bid wn cl l).warp? bid wn = some { w with grant := some l, regrant := none, asking := none } ∧
    ((s.given k bid wn cl l).stack? k).queue = rest ∧
    (4 * k + cl < s.clusters.length → ((s.given k bid wn cl l).cluster k cl).capCur = 16) ∧
    ∀ n m, (n, m) ≠ (bid, wn) → (s.given k bid wn cl l).warp? n m = s.warp? n m := by
  have hk : k < s.stks.length := by
    by_contra h
    rw [State.stack?, List.getD_eq_default _ _ (Nat.not_lt.1 h)] at hq
    cases hq
  have hwarp : ∀ n m, (s.given k bid wn cl l).warp? n m = (s.warp? n m).map fun w =>
      if n = bid ∧ m = wn then { w with grant := some l, regrant := none, asking := none } else w :=
    fun n m => s.warp?_modWarp bid wn n m _ fun _ => rfl
  refine ⟨by rw [hwarp, hw]; simp, ?_, fun hc => ?_, fun n m hne => ?_⟩
  · change (((s.modWarp bid wn _).modStack k _).stack? k).queue = rest
    rw [State.stack?_modStack _ k k _ (by exact hk), if_pos rfl]
    change (s.stack? k).queue.erase (bid, wn) = rest
    rw [hq, List.erase_cons_head]
  · rw [State.given, State.cluster_modCluster _ k cl k cl _ (by exact hc), if_pos rfl]
  · have hne' : ¬(n = bid ∧ m = wn) := fun h => hne (Prod.ext h.1 h.2)
    rw [hwarp]
    simp only [hne', if_false, Option.map_id']

end

theorem limitWith_of_ne_nil {s : State} {k c : Nat} {more : List Nat} (h : s.grantsOn k c ++ more ≠ []) :
    s.limitWith k c more = ((s.grantsOn k c ++ more).map (· + 1)).sum := by
  unfold State.limitWith
  split
  · next h0 => exact absurd h0 h
  · rfl

/-- Settles O34: `pwacq` and `pwrel`, the first request of a die that fits or goes on waiting, and the limit of a cluster with
grants. -/
theorem powerGrants : Obligations.PowerGrants := by
  unfold Obligations.PowerGrants
  refine ⟨fun s c bl w g a hi hg => ⟨exec_pwacq_traps hi hg, exec_pwacq_asks hi hg, exec_pwrel_releases hi hg⟩,
    fun s k bid wn l rest b w hq hb hw ha hp hh hs => ?_, fun s k c more => limitWith_of_ne_nil⟩
  obtain ⟨r, hr⟩ := requests_head hq hb hw ha hp hh hs
  obtain ⟨h1, h2, h3, h4⟩ := given_effects (l := l) hq (State.warp?_of hb hw) (w.core / 8)
  refine ⟨fun hle => ⟨_, (exec_grantGiven_head hr).trans (congrArg Host.Outcome.next (if_neg (Nat.not_lt.2 hle))), h1, h2, h3, rfl, h4⟩,
    fun hlt => (exec_grantGiven_head hr).trans (congrArg Host.Outcome.next (if_pos hlt))⟩

end Sys2Proof.Machine

namespace Sys2Proof.Machine

open Sys2Proof.Claims

-- Dispatch (R209).

theorem State.eligible_iff (s : State) (y : Task) : s.eligible y = true ↔
    y.dispatched = false ∧ y.completed = false ∧ y.held = false ∧ y.suspended = false ∧ s.dead y.ctx = false ∧
    s.suspended y.ctx = false ∧ (∀ n ∈ y.links, ∀ z, s.task? y.ctx n = some z → z.completed = true) ∧
    ∀ z ∈ s.tasks, z.ctx = y.ctx → z.queue = y.queue → z.num < y.num → z.dispatched = true ∨ z.completed = true := by
  have hlinks : (y.links.all fun n => match s.task? y.ctx n with
      | some q => q.completed
      | none => true) = true ↔ ∀ n ∈ y.links, ∀ z, s.task? y.ctx n = some z → z.completed = true := by
    rw [List.all_eq_true]
    refine forall₂_congr fun n _ => ?_
    cases s.task? y.ctx n <;> simp
  have hearlier : (s.tasks.all fun q => q.ctx != y.ctx || q.queue != y.queue || decide (y.num ≤ q.num) || q.dispatched ||
      q.completed) = true ↔
      ∀ z ∈ s.tasks, z.ctx = y.ctx → z.queue = y.queue → z.num < y.num → z.dispatched = true ∨ z.completed = true := by
    rw [List.all_eq_true]
    refine forall₂_congr fun z _ => ?_
    simp only [Bool.or_eq_true, bne_iff_ne, decide_eq_true_eq]
    constructor
    · rintro h h1 h2 h3
      have h4 : ¬y.num ≤ z.num := Nat.not_le.2 h3
      tauto
    · intro h
      by_contra hn
      simp only [not_or, not_not] at hn
      obtain ⟨⟨⟨⟨h1, h2⟩, h3⟩, h4⟩, h5⟩ := hn
      exact (h h1 h2 (Nat.not_le.1 h3)).elim h4 h5
  unfold State.eligible
  simp only [Bool.and_eq_true, Bool.not_eq_true', and_assoc]
  exact and_congr_right fun _ => and_congr_right fun _ => and_congr_right fun _ => and_congr_right fun _ =>
    and_congr_right fun _ => and_congr_right fun _ => and_congr hlinks hearlier

/-- `t` does not come after `z`: a higher class, or the same and a number no larger (R209). -/
def Task.before (t z : Task) : Prop := t.cls < z.cls ∨ (t.cls = z.cls ∧ t.num ≤ z.num)

theorem firstTask_eq_none {l : List Task} : firstTask l = none ↔ l = [] := by
  cases l with
  | nil => simp [firstTask]
  | cons a r =>
    simp only [firstTask, reduceCtorEq, iff_false]
    split
    · simp
    · split <;> simp

theorem firstTask_some {l : List Task} {t : Task} (h : firstTask l = some t) : t ∈ l ∧ ∀ z ∈ l, t.before z := by
  induction l generalizing t with
  | nil => cases h
  | cons a r ih =>
    unfold firstTask at h
    split at h
    next hn =>
      rw [firstTask_eq_none] at hn
      cases h
      simp [hn, Task.before]
    next q hq =>
      obtain ⟨hm, hb⟩ := ih hq
      simp only [Bool.or_eq_true, Bool.and_eq_true, decide_eq_true_eq, beq_iff_eq] at h
      split at h
      next hlt =>
        cases h
        refine ⟨List.mem_cons_self, fun z hz => ?_⟩
        rcases List.mem_cons.1 hz with rfl | hz
        · exact .inr ⟨rfl, le_rfl⟩
        · have := hb z hz
          unfold Task.before at this ⊢
          omega
      next hge =>
        cases h
        refine ⟨List.mem_cons_of_mem _ hm, fun z hz => ?_⟩
        rcases List.mem_cons.1 hz with rfl | hz
        · unfold Task.before
          omega
        · exact hb z hz

/-- Two tasks neither of which comes after the other agree in class and number. -/
theorem Task.before_antisymm {y z : Task} (h1 : y.before z) (h2 : z.before y) : z.cls = y.cls ∧ z.num = y.num := by
  unfold Task.before at h1 h2
  omega

/-- The eligible tasks of a context. -/
def State.dispatchable (s : State) (c : Nat) : List Task := s.tasks.filter fun t => t.ctx == c && s.eligible t

theorem State.mem_dispatchable {s : State} {c : Nat} {z : Task} : z ∈ s.dispatchable c ↔ z ∈ s.tasks ∧ z.ctx = c ∧ s.eligible z = true := by
  simp [State.dispatchable]

theorem exec_taskDispatch_none {s : State} {c : Nat} (h : ∀ z ∈ s.tasks, z.ctx = c → s.eligible z = false) :
    exec (.taskDispatch c) s = .next s := by
  have hf : firstTask (s.dispatchable c) = none := by
    rw [firstTask_eq_none, List.eq_nil_iff_forall_not_mem]
    intro z hz
    obtain ⟨h1, h2, h3⟩ := State.mem_dispatchable.1 hz
    rw [h z h1 h2] at h3
    cases h3
  dsimp only [exec, execTaskDispatch]
  rw [State.dispatchable] at hf
  rw [hf]

/-- The first eligible task of a context is dispatched unless a task of a higher class is eligible. -/
theorem exec_taskDispatch_first {s : State} {y : Task} (hy : y ∈ s.tasks) (he : s.eligible y = true)
    (hf : ∀ z ∈ s.tasks, z.ctx = y.ctx → s.eligible z = true → y.before z) :
    exec (.taskDispatch y.ctx) s = .next (if s.tasks.any (fun q => s.eligible q && decide (q.cls < y.cls)) then s
      else s.modTask y.ctx y.num fun x => { x with dispatched := true }) := by
  dsimp only [exec, execTaskDispatch]
  change Host.Outcome.next (match firstTask (s.dispatchable y.ctx) with
    | none => s
    | some t =>
      if s.tasks.any fun q => s.eligible q && decide (q.cls < t.cls) then s
      else s.modTask t.ctx t.num fun t => { t with dispatched := true }) = _
  have hm : y ∈ s.dispatchable y.ctx := State.mem_dispatchable.2 ⟨hy, rfl, he⟩
  cases hft : firstTask (s.dispatchable y.ctx) with
  | none => rw [firstTask_eq_none.1 hft] at hm; cases hm
  | some t =>
    obtain ⟨ht, hall⟩ := firstTask_some hft
    obtain ⟨h1, h2, h3⟩ := State.mem_dispatchable.1 ht
    obtain ⟨hcls, hnum⟩ := Task.before_antisymm (hf t h1 h2 h3) (hall y hm)
    simp only [h2, hcls, hnum]

/-- Settles O50: eligibility, the first eligible task of a context, and a context without one. -/
theorem tasksDispatched : Obligations.TasksDispatched := by
  unfold Obligations.TasksDispatched
  refine ⟨State.eligible_iff, fun s y hy he hf => ?_, fun s c h => exec_taskDispatch_none h⟩
  rw [exec_taskDispatch_first hy he hf]
  refine ⟨fun h => ?_, fun ⟨z, hz, hze, hlt⟩ => ?_⟩
  · rw [if_neg]
    simp only [List.any_eq_true, Bool.and_eq_true, decide_eq_true_eq, not_exists, not_and, not_lt]
    exact fun z hz hze => h z hz hze
  · rw [if_pos]
    simp only [List.any_eq_true, Bool.and_eq_true, decide_eq_true_eq]
    exact ⟨z, hz, hze, hlt⟩

end Sys2Proof.Machine

namespace Sys2Proof.Machine

open Sys2Proof.Claims

-- The balancer of a stage pipeline (R215).

theorem State.task?_modTask (s : State) (c n : Nat) (f : Task → Task) (hf : ∀ x, (f x).ctx = x.ctx ∧ (f x).num = x.num) (d m : Nat) :
    (s.modTask c n f).task? d m = (s.task? d m).map fun x => if d = c ∧ m = n then f x else x := by
  unfold State.task? State.modTask
  rw [List.find?_map]
  have hp : ((fun x : Task => x.ctx == d && x.num == m) ∘ fun x => if x.ctx == c && x.num == n then f x else x) =
      fun x : Task => x.ctx == d && x.num == m := by
    funext x
    simp only [Function.comp_apply]
    split
    · rw [(hf x).1, (hf x).2]
    · rfl
  rw [hp]
  cases hx : s.tasks.find? (fun x => x.ctx == d && x.num == m) with
  | none => rfl
  | some x =>
    have := List.find?_some hx
    simp only [Bool.and_eq_true, beq_iff_eq] at this
    simp [this.1, this.2]

/-- The examination notes which queues are empty, and for how many examinations in a row (R215). -/
def StageQ.noted (q : StageQ) : StageQ := { q with emptyFor := if q.head = q.tail then q.emptyFor + 1 else 0 }

/-- The state after an examination's note. -/
def State.examined (s : State) (c n : Nat) : State := s.modTask c n fun t => { t with queues := t.queues.map StageQ.noted }

/-- A queue that is none. -/
def noQueue : StageQ := { logCap := 0, head := 0, tail := 0, stack := 0, frames := [], emptyFor := 0 }

/-- A stage with blocks that are not placed has its queue half full or more. -/
def State.runsShort (s : State) (c n : Nat) (t : Task) (a : Nat) : Bool :=
  (decide (t.next.getD a 0 < (t.recs.getD a default).blocks) ||
    s.blocks.any fun k => k.ctx == c && k.task == n && k.stage == a && k.status != .placed) &&
  decide (2 ^ (t.queues.getD a noQueue).logCap ≤
    2 * (((t.queues.getD a noQueue).tail + 2 ^ 32 - (t.queues.getD a noQueue).head) % 2 ^ 32))

/-- The blocks of a stage that stand placed and issue. -/
def State.stageBlocks (s : State) (c n i : Nat) : List Block :=
  s.blocks.filter fun k => k.ctx == c && k.task == n && k.stage == i && k.status == .placed && !k.draining

/-- A stage with placed blocks whose queue has been empty at this examination and the one before. -/
def State.runsDry (s : State) (c n : Nat) (t : Task) (i : Nat) : Bool :=
  decide (2 ≤ (t.queues.getD i noQueue).emptyFor) && s.stageBlocks c n i != []

/-- The highest-numbered of some blocks, the first of equals. -/
def topBlock (l : List Block) : Option Block :=
  l.foldl (fun best k => match best with
    | none => some k
    | some (c : Block) => if c.num < k.num then some k else some c) none

section
variable {s : State} {c n : Nat} {y : Task}

/-- An examination of a task that runs. -/
theorem exec_stageBalancer_eq {t : Task} (ht : (s.examined c n).task? c n = some t)
    (hr : (!t.dispatched || t.completed || t.suspended || (s.examined c n).dead c) = false) :
    exec (.stageBalancer c n) s = .next (
      match (List.range t.queues.length).find? ((s.examined c n).runsShort c n t),
        (List.range t.queues.length).find? ((s.examined c n).runsDry c n t) with
      | some a, some i =>
        match topBlock ((s.examined c n).stageBlocks c n i) with
        | some k => if a = i || k.pre.isSome then s.examined c n else (s.examined c n).requestSave k.bid (.balancer a)
        | none => s.examined c n
      | _, _ => s.examined c n) := by
  dsimp only [exec, execStageBalancer]
  change Host.Outcome.next (match (s.examined c n).task? c n with
    | none => s.examined c n
    | some t => _) = _
  rw [ht]
  exact congrArg Host.Outcome.next (if_neg (by rw [Bool.not_eq_true]; exact hr))

end

/-- The queues an examination has noted. -/
def Task.noted (y : Task) : Task := { y with queues := y.queues.map StageQ.noted }

theorem task?_examined {s : State} {c n : Nat} {y : Task} (h : s.task? c n = some y) : (s.examined c n).task? c n = some y.noted := by
  refine (State.task?_modTask s c n _ ?_ c n).trans ?_
  · exact fun _ => ⟨rfl, rfl⟩
  · simp [h, Task.noted]

section
variable {s : State} {c n : Nat} {y : Task} {a : Nat}

/-- A stage runs short, by the queues the examination finds. -/
theorem runsShort_iff {q : StageQ} (hq : y.queues[a]? = some q) : (s.examined c n).runsShort c n y.noted a = true ↔
    (y.next.getD a 0 < (y.recs.getD a default).blocks ∨
      ∃ k ∈ s.blocks, k.ctx = c ∧ k.task = n ∧ k.stage = a ∧ k.status ≠ .placed) ∧
    2 ^ q.logCap ≤ 2 * ((q.tail + 2 ^ 32 - q.head) % 2 ^ 32) := by
  have hg : y.noted.queues.getD a noQueue = q.noted := by simp [Task.noted, List.getD, hq]
  unfold State.runsShort
  rw [hg]
  simp only [Bool.and_eq_true, Bool.or_eq_true, decide_eq_true_eq, List.any_eq_true, beq_iff_eq, bne_iff_ne, and_assoc]
  rfl

theorem mem_stageBlocks {i : Nat} {b : Block} : b ∈ s.stageBlocks c n i ↔
    b ∈ s.blocks ∧ b.ctx = c ∧ b.task = n ∧ b.stage = i ∧ b.status = .placed ∧ b.draining = false := by
  simp [State.stageBlocks, and_assoc]

theorem runsDry_iff {i : Nat} {q : StageQ} (hq : y.queues[i]? = some q) : (s.examined c n).runsDry c n y.noted i = true ↔
    (q.head = q.tail ∧ 1 ≤ q.emptyFor) ∧ ∃ b, b ∈ s.stageBlocks c n i := by
  have hg : y.noted.queues.getD i noQueue = q.noted := by simp [Task.noted, List.getD, hq]
  have he : 2 ≤ q.noted.emptyFor ↔ q.head = q.tail ∧ 1 ≤ q.emptyFor := by
    unfold StageQ.noted
    split <;> simp_all
  unfold State.runsDry
  rw [hg, Bool.and_eq_true, decide_eq_true_eq, he, bne_iff_ne, ne_eq, List.eq_nil_iff_forall_not_mem, not_forall]
  simp only [not_not]
  rfl

end

/-- The first stage of a property that only stages have, found by the search. -/
theorem find?_stage {m : Nat} {p : Nat → Bool} {P : Nat → Prop} (hp : ∀ a, a < m → (p a = true ↔ P a)) (hP : ∀ a, P a → a < m) :
    ((∀ a, ¬P a) → (List.range m).find? p = none) ∧
    ∀ a, P a → (∀ j, j < a → ¬P j) → (List.range m).find? p = some a := by
  refine ⟨fun h => ?_, fun a ha hf => ?_⟩
  · rw [List.find?_eq_none]
    exact fun x hx hpx => h x ((hp x (List.mem_range.1 hx)).1 hpx)
  · rw [List.find?_range_eq_some]
    have hm := hP a ha
    refine ⟨(hp a hm).2 ha, List.mem_range.2 hm, fun j hj => ?_⟩
    have := mt (hp j (hj.trans hm)).1 (hf j hj)
    simpa using this

/-- The block with the highest number is the top one. -/
theorem topBlock_eq {l : List Block} {b : Block} (hb : b ∈ l) (h : ∀ k ∈ l, k.num < b.num ∨ k = b) : topBlock l = some b := by
  have key : ∀ (l : List Block) (o : Option Block), (∀ k ∈ l, k.num < b.num ∨ k = b) →
      (o = some b ∨ (b ∈ l ∧ ∀ x, o = some x → x.num < b.num)) →
      l.foldl (fun best k => match best with
        | none => some k
        | some (c : Block) => if c.num < k.num then some k else some c) o = some b := by
    intro l
    induction l with
    | nil =>
      rintro o - (h | ⟨h, -⟩)
      · exact h
      · cases h
    | cons a r ih =>
      intro o hl ho
      have hr : ∀ k ∈ r, k.num < b.num ∨ k = b := fun k hk => hl k (List.mem_cons_of_mem _ hk)
      refine ih _ hr ?_
      rcases ho with rfl | ⟨hm, hx⟩
      · left
        rcases hl a List.mem_cons_self with ha | rfl
        · simp [Nat.not_lt.2 ha.le]
        · simp
      · by_cases hab : a = b
        · subst hab
          left
          cases o with
          | none => rfl
          | some x => simp [hx x rfl]
        · have hm' : b ∈ r := (List.mem_cons.1 hm).resolve_left (Ne.symm hab)
          have ha : a.num < b.num := (hl a List.mem_cons_self).resolve_right hab
          right
          refine ⟨hm', ?_⟩
          cases o with
          | none => rintro x ⟨⟩; exact ha
          | some z =>
            dsimp only
            split
            · rintro x ⟨⟩; exact ha
            · rintro x ⟨⟩; exact hx _ rfl
  exact key l none h (.inr ⟨hb, by simp⟩)

/-- Settles O54: the stages the examination finds, the block it asks for, and what else changes. -/
theorem stagesBalanced : Obligations.StagesBalanced := by
  unfold Obligations.StagesBalanced
  intro s c n y hy hd hc hs hdead u short mine idle
  have hrun : (!y.noted.dispatched || y.noted.completed || y.noted.suspended || (s.examined c n).dead c) = false := by
    have hx : (s.examined c n).dead c = s.dead c := rfl
    rw [hx, hdead]
    simp [Task.noted, hd, hc, hs]
  have hex := exec_stageBalancer_eq (task?_examined hy) hrun
  have hlen : y.noted.queues.length = y.queues.length := List.length_map _
  have hin : ∀ {a : Nat} {q : StageQ}, y.queues[a]? = some q → a < y.noted.queues.length := fun h =>
    hlen ▸ (List.getElem?_eq_some_iff.1 h).1
  obtain ⟨hs0, hs1⟩ := find?_stage (m := y.noted.queues.length) (p := (s.examined c n).runsShort c n y.noted) (P := short)
    (fun a ha => by
      obtain ⟨q, hq⟩ : ∃ q, y.queues[a]? = some q := ⟨_, List.getElem?_eq_getElem (hlen ▸ ha)⟩
      rw [runsShort_iff hq]
      exact ⟨fun h => ⟨q, hq, h⟩, fun ⟨q', hq', h⟩ => by rw [hq] at hq'; cases hq'; exact h⟩)
    (fun a ⟨q, hq, _⟩ => hin hq)
  obtain ⟨hi0, hi1⟩ := find?_stage (m := y.noted.queues.length) (p := (s.examined c n).runsDry c n y.noted) (P := idle)
    (fun a ha => by
      obtain ⟨q, hq⟩ : ∃ q, y.queues[a]? = some q := ⟨_, List.getElem?_eq_getElem (hlen ▸ ha)⟩
      rw [runsDry_iff hq]
      constructor
      · rintro ⟨h, b, hb⟩
        exact ⟨⟨q, hq, h⟩, b, mem_stageBlocks.1 hb⟩
      · rintro ⟨⟨q', hq', h⟩, b, hb⟩
        rw [hq] at hq'
        cases hq'
        exact ⟨h, b, mem_stageBlocks.2 hb⟩)
    (fun a ⟨⟨q, hq, _⟩, _⟩ => hin hq)
  refine ⟨fun h => ?_, fun a i b ha hfa hi hfi hb htop hne hpre hblk => ?_⟩
  · rw [hex]
    rcases h with h | h
    · rw [hs0 h]; rfl
    · rw [hi0 h]
      cases (List.range y.noted.queues.length).find? ((s.examined c n).runsShort c n y.noted) <;> rfl
  · have ht : topBlock ((s.examined c n).stageBlocks c n i) = some b :=
      topBlock_eq (mem_stageBlocks.2 hb) fun k hk => htop k (mem_stageBlocks.1 hk)
    have hask : exec (.stageBalancer c n) s = .next ((s.examined c n).requestSave b.bid (.balancer a)) := by
      rw [hex, hs1 a ha hfa, hi1 i hi hfi]
      simp only [ht, hpre, hne, decide_false, Option.isSome_none, Bool.or_self, Bool.false_eq_true, if_false]
    have hbl : ∀ k, ((s.examined c n).requestSave b.bid (.balancer a)).block? k = (s.block? k).map fun x =>
        if k = b.bid then { x with pre := some { by_ := .balancer a, since := (s.stack? x.stack).that },
                                   warps := x.warps.map fun w => { w with held := w.held || w.atPoint } } else x :=
      fun k => (s.examined c n).block?_modBlock b.bid k _ fun _ => rfl
    refine ⟨_, _, hask, by rw [hbl, hblk, Option.map_some, if_pos rfl], rfl, rfl, ?_, fun k hk => ?_⟩
    · exact State.requestSave_mem _ _ _
    · rw [hbl]
      simp [hk]

end Sys2Proof.Machine

end

section
/-! SUPPORT. Power, reference samples and beats. -/

namespace Sys2Proof.Machine

open Sys2Proof.Claims

-- Sorting.

theorem insertBy_perm {α : Type} (le : α → α → Bool) (x : α) (l : List α) : (insertBy le x l).Perm (x :: l) := by
  induction l with
  | nil => exact .refl _
  | cons y l ih =>
    unfold insertBy
    split
    · exact .refl _
    · exact (ih.cons y).trans (.swap x y l)

theorem sortBy_perm {α : Type} (le : α → α → Bool) (l : List α) : (sortBy le l).Perm l := by
  induction l with
  | nil => exact .refl _
  | cons x l ih => exact (insertBy_perm le x _).trans (ih.cons x)

-- Records of Rainfly: what they leave of the meters.

/-- What a meter counts: its region, its key and its value. -/
def Meter.count_ (m : Meter) : Nat × List Byte × Nat := (m.region, m.key, m.value)

/-- The counts of the meters. -/
def Rainfly.counts (r : Rainfly) : List (Nat × List Byte × Nat) := r.meters.map Meter.count_

section
variable (r : Rainfly) (k : Ckpt)

@[simp] theorem Rainfly.counts_keep : (r.keep k).counts = r.counts := by
  simp only [Rainfly.counts, Rainfly.keep, List.map_map]
  refine List.map_congr_left fun m _ => ?_
  simp only [Function.comp_apply]
  split <;> rfl

@[simp] theorem Rainfly.counts_writeNow (tb : TimeBase) (a b c v : Nat) : (r.writeNow tb a b c v).counts = r.counts :=
  Rainfly.counts_keep _ _

@[simp] theorem Rainfly.counts_sign : (r.sign k).counts = r.counts := by simp only [Rainfly.counts, Rainfly.sign]

@[simp] theorem Rainfly.writeNow_seq (tb : TimeBase) (a b c v : Nat) : (r.writeNow tb a b c v).seq = r.seq + 1 := rfl
@[simp] theorem Rainfly.writeNow_leaf (tb : TimeBase) (a b c v : Nat) : (r.writeNow tb a b c v).leaf = r.leaf := rfl
@[simp] theorem Rainfly.writeNow_fuses (tb : TimeBase) (a b c v : Nat) : (r.writeNow tb a b c v).fuses = r.fuses := rfl
@[simp] theorem Rainfly.writeNow_bootSeq (tb : TimeBase) (a b c v : Nat) : (r.writeNow tb a b c v).bootSeq = r.bootSeq := rfl
@[simp] theorem Rainfly.sign_leaf : (r.sign k).leaf = r.leaf + 1 := by simp only [Rainfly.sign]
@[simp] theorem Rainfly.sign_fuses : (r.sign k).fuses = r.fuses := by simp only [Rainfly.sign]
@[simp] theorem Rainfly.sign_bootSeq : (r.sign k).bootSeq = r.bootSeq := by simp only [Rainfly.sign]

/-- A cause-4 record changes no count, no fuse and no end of a run, and spends a leaf at most. -/
theorem Rainfly.record4_frame (m : Meter) (v : Nat) : (r.record4 m v).counts = r.counts ∧ (r.record4 m v).fuses = r.fuses ∧
    (r.record4 m v).bootSeq = r.bootSeq ∧ r.leaf ≤ (r.record4 m v).leaf := by
  unfold Rainfly.record4
  dsimp only
  (repeat' split) <;> simp

/-- The value a meter resumes with (R229, R394). -/
def Rainfly.resumed (bootSeq : Nat) (m : Meter) : Nat :=
  match m.newest with
  | some k => if k.cause = 5 ∧ bootSeq < k.seq then k.value else min Config.ones64 (k.value + 2 ^ 30)
  | none => min Config.ones64 (0 + 2 ^ 30)

/-- A region's count set to a value. -/
def setCount (region v : Nat) (t : Nat × List Byte × Nat) : Nat × List Byte × Nat := if t.1 = region then (t.1, t.2.1, v) else t

/-- The meters with a region's value set. -/
def Rainfly.setValue (r : Rainfly) (region v : Nat) : Rainfly :=
  { r with meters := r.meters.map fun (k : Meter) => if k.region = region then { k with value := v } else k }

theorem Rainfly.counts_setValue (region v : Nat) : (r.setValue region v).counts = r.counts.map (setCount region v) := by
  simp only [Rainfly.counts, Rainfly.setValue, List.map_map]
  refine List.map_congr_left fun m _ => ?_
  by_cases h : m.region = region
  · simp [setCount, Meter.count_, h]
  · simp [setCount, Meter.count_, h]

/-- What a resumed meter leaves. -/
theorem Rainfly.resume_frame (m : Meter) :
    (r.resume m).counts = r.counts.map (setCount m.region (Rainfly.resumed r.bootSeq m)) ∧ (r.resume m).fuses = r.fuses ∧
    (r.resume m).bootSeq = r.bootSeq ∧ r.leaf ≤ (r.resume m).leaf := by
  have hrec : ∀ v, ((r.setValue m.region v).record4 m v).counts = r.counts.map (setCount m.region v) ∧
      ((r.setValue m.region v).record4 m v).fuses = r.fuses ∧
      ((r.setValue m.region v).record4 m v).bootSeq = r.bootSeq ∧ r.leaf ≤ ((r.setValue m.region v).record4 m v).leaf := fun v => by
    obtain ⟨h1, h2, h3, h4⟩ := (r.setValue m.region v).record4_frame m v
    exact ⟨h1.trans (r.counts_setValue _ _), h2, h3, h4⟩
  unfold Rainfly.resume Rainfly.resumed
  cases m.newest with
  | none => exact hrec _
  | some k =>
    dsimp only
    split
    · exact ⟨r.counts_setValue _ _, rfl, rfl, le_rfl⟩
    · exact hrec _

theorem Rainfly.foldResume_frame (l : List Meter) :
    (l.foldl Rainfly.resume r).fuses = r.fuses ∧ (l.foldl Rainfly.resume r).bootSeq = r.bootSeq ∧
    r.leaf ≤ (l.foldl Rainfly.resume r).leaf := by
  induction l generalizing r with
  | nil => exact ⟨rfl, rfl, le_rfl⟩
  | cons m l ih =>
    obtain ⟨h1, h2, h3⟩ := ih (r.resume m)
    obtain ⟨-, e1, e2, e3⟩ := r.resume_frame m
    exact ⟨h1.trans e1, h2.trans e2, e3.trans h3⟩

/-- A count of a region that no resumed meter is of stands. -/
theorem Rainfly.mem_counts_foldResume_other {t : Nat × List Byte × Nat} (l : List Meter) (ht : t ∈ r.counts)
    (hl : ∀ m ∈ l, m.region ≠ t.1) : t ∈ (l.foldl Rainfly.resume r).counts := by
  induction l generalizing r with
  | nil => exact ht
  | cons m l ih =>
    refine ih (r.resume m) ?_ fun x hx => hl x (List.mem_cons_of_mem _ hx)
    rw [(r.resume_frame m).1]
    have hne := hl m List.mem_cons_self
    exact List.mem_map.2 ⟨t, ht, if_neg (Ne.symm hne)⟩

/-- Each of the meters, one a region, resumes once. -/
theorem Rainfly.mem_counts_foldResume {l : List Meter} (hd : (l.map (·.region)).Nodup) {m : Meter} (hm : m ∈ l) {v : Nat}
    (ht : (m.region, m.key, v) ∈ r.counts) :
    (m.region, m.key, Rainfly.resumed r.bootSeq m) ∈ (l.foldl Rainfly.resume r).counts := by
  induction l generalizing r v with
  | nil => cases hm
  | cons x l ih =>
    rw [List.map_cons, List.nodup_cons] at hd
    obtain ⟨hx, hd⟩ := hd
    obtain ⟨e1, -, e3, -⟩ := r.resume_frame x
    rcases List.mem_cons.1 hm with rfl | hm
    · refine Rainfly.mem_counts_foldResume_other _ l ?_ fun y hy he => hx (List.mem_map.2 ⟨y, hy, he⟩)
      rw [e1]
      exact List.mem_map.2 ⟨_, ht, if_pos rfl⟩
    · have hne : m.region ≠ x.region := fun he => hx (List.mem_map.2 ⟨m, hm, he⟩)
      have := ih (r.resume x) hd hm (v := v) (by rw [e1]; exact List.mem_map.2 ⟨_, ht, if_neg hne⟩)
      rwa [e3] at this

end

theorem Rainfly.boot_frame (r : Rainfly) : r.boot.fuses = r.fuses ∧ r.leaf ≤ r.boot.leaf ∧ r.boot.bootSeq = r.boot.seq := by
  obtain ⟨h1, -, h3⟩ := r.foldResume_frame r.byRegion
  exact ⟨h1, h3, rfl⟩

theorem Rainfly.boot_resumes {r : Rainfly} (hd : (r.meters.map (·.region)).Nodup) {m : Meter} (hm : m ∈ r.meters) :
    ∃ m' ∈ r.boot.meters, m'.region = m.region ∧ m'.key = m.key ∧ m'.value = Rainfly.resumed r.bootSeq m := by
  have hp : r.byRegion.Perm r.meters := sortBy_perm _ _
  have h := r.mem_counts_foldResume ((hp.map _).nodup_iff.2 hd) (hp.mem_iff.2 hm) (v := m.value) (List.mem_map.2 ⟨m, hm, rfl⟩)
  obtain ⟨m', hm', he⟩ := List.mem_map.1 h
  simp only [Meter.count_, Prod.mk.injEq] at he
  exact ⟨m', hm', he⟩

-- The boot.

/-- Entry `4 * i + c` of lists of four, one after the other. -/
theorem getD_flatMap_four {α : Type} (f : α → Nat → Nat) {l : List α} {i c : Nat} {x : α} (hx : l[i]? = some x) (hc : c < 4) :
    (l.flatMap fun y => (List.range 4).map (f y)).getD (4 * i + c) 0 = f x c := by
  induction l generalizing i with
  | nil => cases hx
  | cons y l ih =>
    cases i with
    | zero =>
      simp only [List.getElem?_cons_zero, Option.some.injEq] at hx
      subst hx
      rw [List.flatMap_cons, List.getD_append _ _ _ _ (by simpa using hc)]
      simp [List.getD, hc]
    | succ i =>
      have hlen : ((List.range 4).map (f y)).length = 4 := by simp
      have hsub : 4 * (i + 1) + c - 4 = 4 * i + c := by omega
      rw [List.flatMap_cons, List.getD_append_right _ _ _ _ (by omega), hlen, hsub]
      exact ih hx

section
variable {s : State} {part : Nat} {found : List BootStack}

theorem exec_powerUp_off (h : s.running = true ∨ partOk part found = false) : exec (.powerUp part found) s = .next s := by
  dsimp only [exec, execPowerUp]
  rw [if_pos (by rcases h with h | h <;> simp [h])]

/-- The module a boot leaves (R188, R193, R220, R229, R389). -/
def State.booted (s : State) (part : Nat) (found : List BootStack) : State :=
  { s with
    part := part
    tb := TimeBase.reset
    stks := found.map Stack.boot
    rainfly := { s.rainfly.boot with emax := found.flatMap fun f => (List.range 4).map fun c => f.emax.getD c 0 }
    ports := (List.range 16).map fun p => Port.reset.train p
    running := true }

theorem exec_powerUp_boots (h : s.running = false) (hp : partOk part found = true) :
    exec (.powerUp part found) s = .next (s.booted part found) := by
  dsimp only [exec, execPowerUp]
  rw [if_neg (by simp [h, hp])]
  rfl

theorem State.stack?_booted {i : Nat} {f : BootStack} (hf : found[i]? = some f) : (s.booted part found).stack? i = Stack.boot f := by
  simp [State.stack?, State.booted, List.getD, hf]

theorem State.mem_usable {s : State} {k : Nat} : k ∈ s.usable ↔ k < 4 ∧ (s.stack? k).fused = false ∧ (s.stack? k).excluded = false := by
  simp [State.usable, and_assoc]

/-- The boot takes up a stack that is not fused off and passes its tests (R18). -/
theorem mem_usable_booted {i : Nat} {f : BootStack} (hi : i < 4) (hf : found[i]? = some f) :
    (i ∈ (s.booted part found).usable ↔ f.fused = false ∧ f.authOk = true ∧ f.selfTest = true ∧ f.usync ≤ 6) ∧
    ((s.booted part found).stack? i).powered = (s.booted part found).usable.contains i := by
  have h1 : i ∈ (s.booted part found).usable ↔ f.fused = false ∧ f.authOk = true ∧ f.selfTest = true ∧ f.usync ≤ 6 := by
    rw [State.mem_usable, State.stack?_booted hf]
    cases hx : f.fused <;> simp [Stack.boot, hi, hx, and_assoc]
  refine ⟨h1, ?_⟩
  rw [State.stack?_booted hf, Bool.eq_iff_iff, List.contains_iff_mem, h1]
  simp [Stack.boot, and_assoc]

theorem port_booted {p : Nat} (hp : p < 16) : (s.booted part found).port p = Port.reset.train p := by
  simp [State.port, State.booted, List.getD, hp]

end

-- Stops.

/-- What a stop keeps: the bytes below the host's limit. -/
theorem Memory.read_filter_below (m : Memory) {n a : Nat} (h : a < n) :
    Memory.read (m.filter fun c => decide (c.1 < n)) a = m.read a := by
  induction m with
  | nil => rfl
  | cons c m ih =>
    rw [List.filter_cons]
    split
    · simp only [Memory.read, ih]
    · next hc =>
      have hne : a ≠ c.1 := by rintro rfl; simp [h] at hc
      rw [ih]
      simp only [Memory.read, if_neg hne]

theorem Rainfly.foldRecords_frame (tb : TimeBase) (l : List Meter) (r : Rainfly) :
    let t := l.foldl (fun r m => r.writeNow tb m.region 5 m.grant m.value) r
    t.counts = r.counts ∧ t.fuses = r.fuses ∧ t.leaf = r.leaf ∧ t.seq = r.seq + l.length := by
  induction l generalizing r with
  | nil => exact ⟨rfl, rfl, rfl, rfl⟩
  | cons m l ih =>
    obtain ⟨h1, h2, h3, h4⟩ := ih (r.writeNow tb m.region 5 m.grant m.value)
    refine ⟨h1.trans (r.counts_writeNow _ _ _ _ _), h2, h3, h4.trans ?_⟩
    rw [Rainfly.writeNow_seq, List.length_cons]
    omega

/-- The last records change no count, fuse or leaf. -/
theorem State.lastRecords_frame (s : State) (n : Nat) : (s.lastRecords n).counts = s.rainfly.counts ∧
    (s.lastRecords n).fuses = s.rainfly.fuses ∧ (s.lastRecords n).leaf = s.rainfly.leaf ∧
    (s.leafLeft = true → (s.lastRecords n).seq = s.rainfly.seq + min n s.rainfly.meters.length) ∧
    (s.leafLeft = false → (s.lastRecords n).seq = s.rainfly.seq) := by
  unfold State.lastRecords
  split
  next h =>
    obtain ⟨h1, h2, h3, h4⟩ := Rainfly.foldRecords_frame s.tb (s.rainfly.byRegion.take n) s.rainfly
    refine ⟨h1, h2, h3, fun _ => ?_, fun hf => absurd (h.symm.trans hf) (by decide)⟩
    rw [h4, List.length_take]
    exact congrArg (fun k => s.rainfly.seq + min n k) (sortBy_perm _ s.rainfly.meters).length_eq
  next h => exact ⟨rfl, rfl, rfl, fun ht => absurd ht h, fun _ => rfl⟩

theorem Rainfly.regions_of_counts {r t : Rainfly} (h : t.counts = r.counts) :
    t.meters.map (fun m => (m.region, m.value)) = r.meters.map (fun m => (m.region, m.value)) := by
  have := congrArg (List.map fun x : Nat × List Byte × Nat => (x.1, x.2.2)) h
  simpa [Rainfly.counts, Meter.count_, Function.comp_def] using this

/-- A stop leaves a module without power (R388). -/
theorem State.stopWith_stops {s : State} (h : s.running = true) (cause n : Nat) : Stopped s (s.stopWith cause n) cause ∧
    (s.leafLeft = true → (s.stopWith cause n).rainfly.seq = s.rainfly.seq + min n s.rainfly.meters.length) ∧
    (s.leafLeft = false → (s.stopWith cause n).rainfly.seq = s.rainfly.seq) := by
  obtain ⟨h1, h2, h3, h4, h5⟩ := s.lastRecords_frame n
  rw [State.stopWith, if_pos h]
  refine ⟨⟨rfl, rfl, rfl, rfl, rfl, rfl, rfl, rfl, rfl, rfl, rfl, h2, h3, Rainfly.regions_of_counts h1, rfl, fun a ha => ?_⟩, h4, h5⟩
  exact Memory.read_filter_below s.mem ha

theorem State.emergency_stops {s : State} (h : s.running = true) (cause : Nat) : Stopped s (s.emergency cause) cause ∧
    (s.leafLeft = true → (s.emergency cause).rainfly.seq = s.rainfly.seq + s.rainfly.meters.length) := by
  obtain ⟨h1, h2, -⟩ := State.stopWith_stops h cause s.rainfly.meters.length
  rw [min_self] at h2
  exact ⟨h1, h2⟩

theorem contains_of_mem {l : List Nat} {k : Nat} (h : k ∈ l) : l.contains k = true := List.contains_iff_mem.2 h
theorem contains_of_not_mem {l : List Nat} {k : Nat} (h : k ∉ l) : l.contains k = false := by simpa using h

/-- The temperature of a die, of an HBM stack, and the refresh bits (R195, R387). -/
theorem temperature_effects (s : State) (k c : Nat) :
    (k ∉ s.usable → exec (.junctionTemperature (.die k) c) s = .next s) ∧
    (k ∈ s.usable → s.running = true → 115 ≤ c → ∃ t, exec (.junctionTemperature (.die k) c) s = .next t ∧ Stopped s t 1) ∧
    (k ∈ s.usable → c < 115 → exec (.junctionTemperature (.die k) c) s = .next (s.modStack k fun x =>
      { x with hotDie := if 105 ≤ c then true else if c < 100 then false else x.hotDie })) ∧
    (k / 2 ∉ s.usable → exec (.junctionTemperature (.hbm k) c) s = .next s ∧ exec (.hbmTemperature k c) s = .next s) ∧
    (k / 2 ∈ s.usable → s.running = true → 105 ≤ c → ∃ t, exec (.junctionTemperature (.hbm k) c) s = .next t ∧ Stopped s t 2) ∧
    (k / 2 ∈ s.usable → c < 105 → exec (.junctionTemperature (.hbm k) c) s = .next { s with hbms := s.hbms.modify k fun x =>
      { x with cap := if 100 ≤ c then true else if c < 95 then false else x.cap } }) ∧
    (k / 2 ∈ s.usable → exec (.hbmTemperature k c) s = .next { s with hbms := s.hbms.modify k fun x =>
      { x with hot := decide (85 ≤ c), fast := if 85 ≤ c then true else if c < 83 then false else x.fast } }) := by
  dsimp only [exec, execJunctionTemperature, execHbmTemperature]
  refine ⟨fun h => ?_, fun h hr hc => ?_, fun h hc => ?_, fun h => ?_, fun h hr hc => ?_, fun h hc => ?_, fun h => ?_⟩
  · rw [contains_of_not_mem h]; rfl
  · rw [contains_of_mem h, if_neg (by simp), if_pos hc]
    exact ⟨_, rfl, (State.emergency_stops hr 1).1⟩
  · rw [contains_of_mem h, if_neg (by simp), if_neg (Nat.not_le.2 hc)]
    rfl
  · rw [contains_of_not_mem h]; exact ⟨rfl, rfl⟩
  · rw [contains_of_mem h, if_neg (by simp), if_pos hc]
    exact ⟨_, rfl, (State.emergency_stops hr 2).1⟩
  · rw [contains_of_mem h, if_neg (by simp), if_neg (Nat.not_le.2 hc)]
    rfl
  · rw [contains_of_mem h, if_neg (by simp)]
    rfl

/-- Settles O44: the boot, the loss of the supply, a silent stack, and the temperatures. -/
theorem powerOnAndOff : Obligations.PowerOnAndOff := by
  unfold Obligations.PowerOnAndOff
  refine ⟨fun s part found => exec_powerUp_off, fun s part found hr hp => ?_, fun s n => ⟨fun h => ?_, fun h => ?_⟩,
    fun s k => ⟨fun h => ?_, fun h hr => ?_⟩, temperature_effects⟩
  · obtain ⟨h1, h2, h3⟩ := s.rainfly.boot_frame
    refine ⟨_, exec_powerUp_boots hr hp, rfl, rfl, rfl, fun i f hi hf => ?_, fun p hlt => ?_, h1, h2, h3, rfl, fun hd m hm => ?_⟩
    · obtain ⟨hu, hpow⟩ := mem_usable_booted (s := s) (part := part) hi hf
      refine ⟨hu, hpow, by rw [State.stack?_booted hf]; rfl, by rw [State.stack?_booted hf]; rfl,
        by rw [State.stack?_booted hf]; rfl, fun c hc => ?_⟩
      exact getD_flatMap_four (fun (f : BootStack) (c : Nat) => f.emax.getD c 0) hf hc
    · rw [port_booted hlt]
      exact ⟨rfl, rfl, rfl⟩
    · exact Rainfly.boot_resumes hd hm
  · dsimp only [exec, execSupplyLoss]
    rw [State.stopWith, if_neg (by simp [h])]
  · obtain ⟨h1, h2, h3⟩ := State.stopWith_stops h (if n % 2 = 1 then 0 else 4) (n / 2)
    exact ⟨_, rfl, h1, h2, h3⟩
  · dsimp only [exec, execStackSilence]
    rw [contains_of_not_mem h]
    rfl
  · obtain ⟨h1, h2⟩ := State.emergency_stops hr 3
    refine ⟨s.emergency 3, ?_, h1, h2⟩
    dsimp only [exec, execStackSilence]
    rw [contains_of_mem h]
    rfl

end Sys2Proof.Machine

namespace Sys2Proof.Machine

open Sys2Proof.Claims

-- Reference samples (R175 to R178, R382).

theorem lowBound_sample (v u : Nat) : lowBound (1000 * v) (10 ^ 10 * u + 0) = v - u := by
  unfold lowBound
  rw [show 10 ^ 7 * (1000 * v) - (10 ^ 10 * u + 0) = 10 ^ 10 * (v - u) by omega, Nat.mul_div_cancel_left _ (by decide)]

theorem highBound_sample (v u : Nat) : highBound (1000 * v) (10 ^ 10 * u + 0) = v + u := by
  unfold highBound
  omega

/-- The time base after a sample it accepts (R177, R178). -/
theorem TimeBase.take_facts (t : TimeBase) (v u : Nat) :
    t.take_ v u = { t with
      that := 1000 * v, refAge := 0, uTs := u, lastRej := false, accepted := true
      earliest := if t.accepted then max t.earliest (v - (t.uHost + u)) else v - (t.uHost + u)
      latest := if t.accepted then max t.latest (v + (t.uHost + u)) else v + (t.uHost + u) } := by
  unfold TimeBase.take_ TimeBase.refresh TimeBase.eps
  cases h : t.accepted <;> simp only [Bool.not_false, Bool.not_true, if_true, Bool.false_eq_true, if_false, lowBound_sample,
    highBound_sample]

/-- The state in which an awaited source has come into force (R176, R180). -/
def State.inForce (s : State) (source : Nat) (a : TimeRefReq) : State :=
  { s with tb := { s.tb with source := some source, uHost := a.uHost, limit := a.limit, awaited := none }
           stks := s.stks.map fun (k : Stack) => { k with limit := a.limit } }

section
variable {s : State} {v u source : Nat}

theorem State.sample_accepts (hs : s.tb.source = some source) (ha : s.tb.awaited = none)
    (h : s.tb.rejects v (s.tb.uHost + u) = false) : s.sample source v u = { s with tb := s.tb.take_ v u } := by
  simp [State.sample, ha, hs, h]

theorem State.sample_rejects (hs : s.tb.source = some source) (ha : s.tb.awaited = none)
    (h : s.tb.rejects v (s.tb.uHost + u) = true) :
    s.sample source v u = { s with tb := { s.tb with rejected := s.tb.rejected + 1, lastRej := true } } := by
  simp [State.sample, ha, hs, h]

theorem State.sample_awaited {a : TimeRefReq} (ha : s.tb.awaited = some a) (hs : a.source = source) :
    s.sample source v u = (s.inForce source a).sample source v u := by
  unfold State.sample
  rw [ha]
  dsimp only
  rw [if_pos hs]
  rfl

theorem TimeBase.rejects_eq_false {t : TimeBase} (h1 : t.earliest ≤ v + u) (h2 : v ≤ t.latest + u) : t.rejects v u = false := by
  simp [TimeBase.rejects, h1, h2]

theorem TimeBase.rejects_eq_true {t : TimeBase} (h : v + u < t.earliest ∨ t.latest + u < v) : t.rejects v u = true := by
  simpa [TimeBase.rejects] using h

theorem sampled_take {t : State} (hm : t.mem = s.mem) (ht : t.tb = (s.tb.take_ v u)) (hs : s.tb.source = some source) :
    Sampled s t v u source := by
  unfold Sampled
  rw [ht, TimeBase.take_facts]
  exact ⟨rfl, rfl, rfl, rfl, rfl, rfl, hs, rfl, rfl, hm⟩

end

/-- A PTM dialogue has been held (R176). -/
def State.dialogued (s : State) : State := { s with tb := { s.tb with dialogAge := some 0 } }

/-- No dialogue was held in the last 125 ms (R176). -/
def TimeBase.mayDialogue (t : TimeBase) : Bool :=
  match t.dialogAge with
  | some a => decide (125 * 10 ^ 9 ≤ a)
  | none => true

theorem TimeBase.mayDialogue_iff {t : TimeBase} : t.mayDialogue = true ↔ ∀ a, t.dialogAge = some a → 125 * 10 ^ 9 ≤ a := by
  unfold TimeBase.mayDialogue
  cases t.dialogAge <;> simp

theorem TimeBase.seeks_of_source {t : TimeBase} {k : Nat} (h : t.source = some k) : t.seeks k = true := by
  simp [TimeBase.seeks, h]

theorem TimeBase.seeks_of_awaited {t : TimeBase} {k : Nat} {a : TimeRefReq} (h : t.awaited = some a) (hk : a.source = k) :
    t.seeks k = true := by
  simp [TimeBase.seeks, h, hk]

section
variable {s : State}

theorem exec_ptmDialogue_sample (hr : s.running = true) (hd : s.tb.mayDialogue = true) (hk : s.tb.seeks 0 = true) (m : Option Nat) :
    exec (.ptmDialogue m) s = .next (m.elim s.dialogued fun v => s.dialogued.sample 0 v 8) := by
  dsimp only [exec, execPtmDialogue]
  refine congrArg Host.Outcome.next ((if_neg ?_).trans ?_)
  · have : (!s.running || !s.tb.seeks 0 || !s.tb.mayDialogue) = false := by simp [hr, hk, hd]
    rw [Bool.not_eq_true]
    exact this
  · cases m <;> rfl

theorem exec_ptmDialogue_none (h : s.tb.mayDialogue = false ∨ s.tb.seeks 0 = false) (m : Option Nat) :
    exec (.ptmDialogue m) s = .next s := by
  dsimp only [exec, execPtmDialogue]
  refine congrArg Host.Outcome.next (if_pos ?_)
  have : (!s.running || !s.tb.seeks 0 || !s.tb.mayDialogue) = true := by rcases h with h | h <;> simp [h]
  exact this

end

theorem ptm_of_source (s : State) (v : Nat) (hr : s.running = true) (hd : ∀ a, s.tb.dialogAge = some a → 125 * 10 ^ 9 ≤ a)
    (hs : s.tb.source = some 0) (ha : s.tb.awaited = none) :
    exec (.ptmDialogue none) s = .next { s with tb := { s.tb with dialogAge := some 0 } } ∧
    (s.tb.earliest ≤ v + (s.tb.uHost + 8) → v ≤ s.tb.latest + (s.tb.uHost + 8) →
      ∃ t, exec (.ptmDialogue (some v)) s = .next t ∧ Sampled s t v 8 0 ∧ t.tb.uHost = s.tb.uHost ∧
        t.tb.dialogAge = some 0 ∧ t.stks = s.stks) ∧
    (v + (s.tb.uHost + 8) < s.tb.earliest ∨ s.tb.latest + (s.tb.uHost + 8) < v →
      exec (.ptmDialogue (some v)) s =
        .next { s with tb := { s.tb with dialogAge := some 0, rejected := s.tb.rejected + 1, lastRej := true } }) := by
  have hex := exec_ptmDialogue_sample hr (TimeBase.mayDialogue_iff.2 hd) (TimeBase.seeks_of_source hs)
  refine ⟨hex none, fun h1 h2 => ?_, fun h => ?_⟩
  · have hacc := State.sample_accepts (s := s.dialogued) (u := 8) hs ha (TimeBase.rejects_eq_false h1 h2)
    refine ⟨_, (hex (some v)).trans (congrArg _ hacc), ?_, ?_, ?_, rfl⟩
    · exact sampled_take (s := s.dialogued) rfl rfl hs
    · rw [TimeBase.take_facts]; rfl
    · rw [TimeBase.take_facts]; rfl
  · exact (hex (some v)).trans (congrArg _ (State.sample_rejects (s := s.dialogued) hs ha (TimeBase.rejects_eq_true h)))

theorem ptm_of_awaited (s : State) (v : Nat) (hr : s.running = true) (hd : ∀ a, s.tb.dialogAge = some a → 125 * 10 ^ 9 ≤ a)
    (a : TimeRefReq) (ha : s.tb.awaited = some a) (h0 : a.source = 0) (h1 : s.tb.earliest ≤ v + (a.uHost + 8))
    (h2 : v ≤ s.tb.latest + (a.uHost + 8)) :
    ∃ t, exec (.ptmDialogue (some v)) s = .next t ∧ Sampled s t v 8 0 ∧ t.tb.uHost = a.uHost ∧ t.tb.limit = a.limit ∧
      t.tb.awaited = none ∧ ∀ k, k < s.stks.length → (t.stack? k).limit = a.limit := by
  have hex := exec_ptmDialogue_sample hr (TimeBase.mayDialogue_iff.2 hd) (TimeBase.seeks_of_awaited ha h0) (some v)
  have haw := State.sample_awaited (s := s.dialogued) (v := v) (u := 8) ha h0
  have hacc := State.sample_accepts (s := s.dialogued.inForce 0 a) (u := 8) rfl rfl (TimeBase.rejects_eq_false h1 h2)
  refine ⟨_, hex.trans (congrArg _ (haw.trans hacc)), sampled_take (s := s.dialogued.inForce 0 a) rfl rfl rfl, ?_, ?_, ?_,
    fun k hk => ?_⟩
  · rw [TimeBase.take_facts]; rfl
  · rw [TimeBase.take_facts]; rfl
  · rw [TimeBase.take_facts]; rfl
  · simp [State.stack?, List.getD, State.inForce, State.dialogued, hk]

-- The PPS input.

/-- A PPS edge has been seen (R176). -/
def State.edged (s : State) : State := { s with tb := { s.tb with edgeAge := some 0, freshEdge := false, message := none } }

/-- An edge after a good message, the previous edge a second before within a tenth, is a sample. -/
theorem exec_ppsEdge_eq {s : State} {m age a : Nat} (hr : s.running = true) (hs : s.tb.source = some 1)
    (hm : s.tb.message = some (m, age)) (hf : s.tb.freshEdge = false) (he : s.tb.edgeAge = some a) :
    exec .ppsEdge s = .next (if 9 * 10 ^ 11 ≤ a ∧ a ≤ 11 * 10 ^ 11 then s.edged.sample 1 (m * 10 ^ 9) 4 else s.edged) := by
  have hk := TimeBase.seeks_of_source hs
  dsimp only [exec, execPpsEdge]
  rw [if_neg (by simp [hr, hk]), hm, hf, he]
  by_cases h : 9 * 10 ^ 11 ≤ a ∧ a ≤ 11 * 10 ^ 11
  · have hw : (decide (9 * 10 ^ 11 ≤ a) && decide (a ≤ 11 * 10 ^ 11)) = true := by simpa using h
    rw [if_pos h]
    simp only [hw, Bool.false_or, Bool.not_false, Bool.true_or, Bool.and_self, if_true]
    rfl
  · have hw : (decide (9 * 10 ^ 11 ≤ a) && decide (a ≤ 11 * 10 ^ 11)) = false := by simpa using h
    rw [if_neg h]
    simp only [hw, Bool.false_or, Bool.false_and, Bool.false_eq_true, if_false]
    rfl

theorem pps_edge (s : State) (m age a : Nat) (hr : s.running = true) (hs : s.tb.source = some 1) (haw : s.tb.awaited = none)
    (hm : s.tb.message = some (m, age)) (hf : s.tb.freshEdge = false) (he : s.tb.edgeAge = some a) :
    (9 * 10 ^ 11 ≤ a → a ≤ 11 * 10 ^ 11 → s.tb.earliest ≤ m * 10 ^ 9 + (s.tb.uHost + 4) →
      m * 10 ^ 9 ≤ s.tb.latest + (s.tb.uHost + 4) →
      ∃ t, exec .ppsEdge s = .next t ∧ Sampled s t (m * 10 ^ 9) 4 1 ∧ t.tb.edgeAge = some 0 ∧ t.tb.message = none) ∧
    (a < 9 * 10 ^ 11 ∨ 11 * 10 ^ 11 < a →
      exec .ppsEdge s = .next { s with tb := { s.tb with edgeAge := some 0, freshEdge := false, message := none } }) := by
  rw [exec_ppsEdge_eq hr hs hm hf he]
  refine ⟨fun h1 h2 h3 h4 => ?_, fun h => ?_⟩
  · rw [if_pos ⟨h1, h2⟩, State.sample_accepts (s := s.edged) (u := 4) hs haw (TimeBase.rejects_eq_false h3 h4)]
    refine ⟨_, rfl, sampled_take (s := s.edged) rfl rfl hs, ?_, ?_⟩
    · rw [TimeBase.take_facts]; rfl
    · rw [TimeBase.take_facts]; rfl
  · rw [if_neg (by omega)]
    rfl

theorem referenceSamples_hold : ReferenceSamples := by
  refine ⟨fun s v hr hd => ⟨ptm_of_source s v hr hd, ptm_of_awaited s v hr hd⟩, fun s d h => ?_, pps_edge, fun s bs hr hk => ?_⟩
  · refine exec_ptmDialogue_none (h.imp_left ?_) d
    rintro ⟨a, ha, hlt⟩
    simpa [TimeBase.mayDialogue, ha] using hlt
  · dsimp only [exec, execTimeOfDayMessage]
    refine ⟨fun h => ?_, fun h => ?_⟩
    · rw [hr, hk, h]; rfl
    · rw [hr, hk, h]; rfl

-- Beats (R177, R178, R181, R390).

theorem State.beat_eq (s : State) : s.beat = [s.tb.that, s.tb.refAge, s.tb.uHost, s.tb.uTs,
    if s.tb.accepted then 1 else 0, (s.stack? 0).earliest, (s.stack? 1).earliest, (s.stack? 2).earliest,
    (s.stack? 3).earliest] ++ (List.range 4).map fun i => if (s.stack? i).beats = [] then 0 else 1 := by
  have hmute : ∀ l : List (List Nat), (l != []).bit = if l = [] then 0 else 1 := fun l => by cases l <;> rfl
  have hacc : s.tb.accepted.bit = if s.tb.accepted then 1 else 0 := by cases s.tb.accepted <;> rfl
  simp only [State.beat, hmute, hacc]
  rfl

/-- A beat sets out to every usable die. -/
def State.sent (s : State) (i : Nat) (k : Stack) : Stack :=
  if s.usable.contains i then { k with beats := k.beats ++ [s.beat] } else k

theorem exec_syncBeat_eq {s : State} (hr : s.running = true) :
    exec .syncBeat s = .next { s with stks := s.stks.mapIdx s.sent } := by
  dsimp only [exec, execSyncBeat]
  rw [if_pos hr]
  rfl

theorem stack?_mapIdx {s : State} {k : Nat} (f : Nat → Stack → Stack) (hk : k < s.stks.length) :
    ({ s with stks := s.stks.mapIdx f } : State).stack? k = f k (s.stack? k) := by
  simp [State.stack?, List.getD, hk]

/-- The bounds of a die never fall. -/
theorem Stack.refresh_facts (x : Stack) : x.refresh = { x with
    earliest := if x.known then max x.earliest (lowBound x.that x.eps) else x.earliest
    latest := if x.known then max x.latest (highBound x.that x.eps) else x.latest } := by
  unfold Stack.refresh
  by_cases h : x.known = true
  · rw [if_pos h, if_pos h, if_pos h]
  · rw [if_neg h, if_neg h, if_neg h]

theorem TimeBase.refresh_mono (t : TimeBase) : t.earliest ≤ t.refresh.earliest ∧ t.latest ≤ t.refresh.latest := by
  unfold TimeBase.refresh
  split
  · exact ⟨le_max_left _ _, le_max_left _ _⟩
  · exact ⟨le_rfl, le_rfl⟩

theorem Stack.refresh_mono (x : Stack) : x.earliest ≤ x.refresh.earliest ∧ x.latest ≤ x.refresh.latest := by
  unfold Stack.refresh
  split
  · exact ⟨le_max_left _ _, le_max_left _ _⟩
  · exact ⟨le_rfl, le_rfl⟩

theorem clocks_never_fall (s : State) (ds : List Nat) (k : Nat) : (s.stack? k).earliest ≤ ((s.advance ds).stack? k).earliest ∧
    (s.stack? k).latest ≤ ((s.advance ds).stack? k).latest ∧ s.tb.earliest ≤ (s.advance ds).tb.earliest ∧
    s.tb.latest ≤ (s.advance ds).tb.latest ∧ SameMemory s (s.advance ds) := by
  have hstack : (s.stack? k).earliest ≤ ((s.advance ds).stack? k).earliest ∧
      (s.stack? k).latest ≤ ((s.advance ds).stack? k).latest := by
    by_cases hk : k < s.stks.length
    · have : (s.advance ds).stack? k = (s.stack? k).run (ds.getD k 0) (s.stks.map Stack.silent) :=
        (stack?_mapIdx (s := { s with tb := s.tb.run (ds.getD 4 0) }) _ hk)
      rw [this, Stack.run]
      exact Stack.refresh_mono { s.stack? k with
        that := (s.stack? k).that + ds.getD k 0, beatAge := (s.stack? k).beatAge + ds.getD k 0
        refAge := (s.stack? k).refAge + ds.getD k 0
        floors := (s.stack? k).floors.mapIdx fun i f =>
          if (s.stks.map Stack.silent).getD i false then f else (f.1, f.2 + ds.getD k 0) }
    · simp [State.stack?, List.getD, State.advance, hk]
  obtain ⟨h1, h2⟩ := hstack
  obtain ⟨h3, h4⟩ := TimeBase.refresh_mono { s.tb with
    that := s.tb.that + ds.getD 4 0, refAge := s.tb.refAge + ds.getD 4 0, edgeAge := s.tb.edgeAge.map (· + ds.getD 4 0)
    message := s.tb.message.map fun m => (m.1, m.2 + ds.getD 4 0), dialogAge := s.tb.dialogAge.map (· + ds.getD 4 0) }
  exact ⟨h1, h2, h3, h4, fun _ => rfl⟩

theorem Stack.run_facts (k : Stack) (d : Nat) (silent : List Bool) :
    (∀ i f, k.floors[i]? = some f → (k.run d silent).floors[i]? = some (if silent.getD i false then f else (f.1, f.2 + d))) ∧
    (k.known = true → (k.run d silent).that = k.that + d ∧ k.eps ≤ (k.run d silent).eps ∧
      lowBound (k.run d silent).that (k.run d silent).eps ≤ (k.run d silent).earliest ∧
      highBound (k.run d silent).that (k.run d silent).eps ≤ (k.run d silent).latest) := by
  unfold Stack.run
  rw [Stack.refresh_facts]
  refine ⟨fun i f h => by simp [h], fun hk => ⟨rfl, ?_, ?_, ?_⟩⟩
  · unfold Stack.eps
    dsimp only
    omega
  · simp only [hk, if_true]
    exact le_max_right _ _
  · simp only [hk, if_true]
    exact le_max_right _ _

theorem beat_sets_out (s : State) (hr : s.running = true) : ∃ t, exec .syncBeat s = .next t ∧ t = { s with stks := t.stks } ∧
    ∀ k, k < s.stks.length → t.stack? k =
      if k ∈ s.usable then { s.stack? k with beats := (s.stack? k).beats ++ [[s.tb.that, s.tb.refAge, s.tb.uHost, s.tb.uTs,
        if s.tb.accepted then 1 else 0, (s.stack? 0).earliest, (s.stack? 1).earliest, (s.stack? 2).earliest,
        (s.stack? 3).earliest] ++ (List.range 4).map fun i => if (s.stack? i).beats = [] then 0 else 1] } else s.stack? k := by
  refine ⟨_, exec_syncBeat_eq hr, rfl, fun k hk => ?_⟩
  rw [stack?_mapIdx _ hk, State.sent, State.beat_eq]
  by_cases h : k ∈ s.usable
  · rw [if_pos h, if_pos (List.contains_iff_mem.2 h)]
  · rw [if_neg h, if_neg (mt List.contains_iff_mem.1 h)]

/-- The die after the fields of a beat, its bounds as they were. -/
def Stack.heard (x : Stack) (that ref uh ut ok : Nat) (fl : List (Nat × Nat)) : Stack :=
  { x with that := that + 1000 * x.transit, refAge := ref + 1000 * x.transit, beatAge := 0, uHost := uh, uTs := ut,
           known := ok == 1, floors := fl }

/-- What a die takes from a beat (R178): its bounds move up to those of the new t-hat, or stand there when it knew no time. -/
theorem Stack.takeBeat_eq (x : Stack) (that ref uh ut ok : Nat) (b : List Nat) (t : Stack)
    (ht : t = x.heard that ref uh ut ok (x.newFloors (that :: ref :: uh :: ut :: ok :: b))) :
    x.takeBeat (that :: ref :: uh :: ut :: ok :: b) = { t with
      earliest := if ok = 1 then (if x.known then max x.earliest (lowBound t.that t.eps) else lowBound t.that t.eps) else x.earliest
      latest := if ok = 1 then (if x.known then max x.latest (highBound t.that t.eps) else highBound t.that t.eps)
        else x.latest } := by
  have hun : x.takeBeat (that :: ref :: uh :: ut :: ok :: b) =
      if (ok == 1) && !x.known then { t with earliest := lowBound t.that t.eps, latest := highBound t.that t.eps }
      else t.refresh := by subst ht; rfl
  have hk : t.known = (ok == 1) := by subst ht; rfl
  have he : t.earliest = x.earliest := by subst ht; rfl
  have hl : t.latest = x.latest := by subst ht; rfl
  rw [hun, Stack.refresh_facts, hk, he, hl]
  by_cases hok : ok = 1
  · cases hx : x.known
    · simp [hok]
    · simp [hok]
  · simp [hok]

theorem Stack.newFloors_eq (x : Stack) (that ref uh ut ok : Nat) (es mute : List Nat) (hes : es.length = 4) :
    x.newFloors (that :: ref :: uh :: ut :: ok :: (es ++ mute)) =
      es.mapIdx fun i e => if mute.getD i 0 = 0 then (e, 0) else x.floors.getD i (0, 0) := by
  match es, hes with
  | [a, b, c, d], _ => simp [Stack.newFloors, List.getD] <;> rfl

theorem beat_arrives (s : State) (k that ref uh ut ok : Nat) (es mute : List Nat) (r : List (List Nat)) (hk : k < s.stks.length)
    (hes : es.length = 4) (hb : (s.stack? k).beats = (that :: ref :: uh :: ut :: ok :: (es ++ mute)) :: r) :
    ∃ t, exec (.beatArrival k) s = .next t ∧ t = { s with stks := t.stks } ∧ (∀ j, j ≠ k → t.stack? j = s.stack? j) ∧
      (t.stack? k).beats = r ∧ (t.stack? k).that = that + 1000 * (s.stack? k).transit ∧ (t.stack? k).beatAge = 0 ∧
      (t.stack? k).refAge = ref + 1000 * (s.stack? k).transit ∧ (t.stack? k).uHost = uh ∧ (t.stack? k).uTs = ut ∧
      (t.stack? k).known = (ok == 1) ∧ (t.stack? k).floors.length = 4 ∧
      (∀ i e, es[i]? = some e → (t.stack? k).floors[i]? =
        some (if mute.getD i 0 = 0 then (e, 0) else (s.stack? k).floors.getD i (0, 0))) ∧
      (ok = 1 → (s.stack? k).known = true →
        (t.stack? k).earliest = max (s.stack? k).earliest (lowBound (t.stack? k).that (t.stack? k).eps) ∧
        (t.stack? k).latest = max (s.stack? k).latest (highBound (t.stack? k).that (t.stack? k).eps)) ∧
      (ok ≠ 1 → (t.stack? k).earliest = (s.stack? k).earliest ∧ (t.stack? k).latest = (s.stack? k).latest) := by
  refine ⟨_, rfl, rfl, fun j hj => (State.stack?_modStack s k j _ hk).trans (if_neg hj), ?_⟩
  rw [State.stack?_modStack_self hk, hb]
  dsimp only
  rw [Stack.takeBeat_eq _ _ _ _ _ _ _ _ rfl, Stack.newFloors_eq _ _ _ _ _ _ _ _ hes]
  refine ⟨rfl, rfl, rfl, rfl, rfl, rfl, rfl, ?_, fun i e he => ?_, fun h1 h2 => ?_, fun h1 => ?_⟩
  · simpa [Stack.heard] using hes
  · simp [Stack.heard, he]
  · dsimp only
    rw [if_pos h1, if_pos h2, if_pos h1, if_pos h2]
    exact ⟨rfl, rfl⟩
  · dsimp only
    rw [if_neg h1, if_neg h1]
    exact ⟨rfl, rfl⟩

theorem syncBeats_hold : SyncBeats :=
  ⟨beat_sets_out, beat_arrives, clocks_never_fall, Stack.run_facts⟩

/-- Settles O45: a sample is taken or rejected by its interval, and the bounds of a die only rise. -/
theorem referenceAndBeats : Obligations.ReferenceAndBeats := ⟨referenceSamples_hold, syncBeats_hold⟩

end Sys2Proof.Machine

end

section
/-! SUPPORT. Fetches and the training of links. -/

namespace Sys2Proof.Machine

-- Stream fetches and decode refills (R62, R63, R73, R75).

section
variable {β : Type} (l : List (Nat × β)) (id : Nat) (n : Nat)

/-- The entries of one core, the first `n` of them kept, and those of the others. -/
def keepOf : List (Nat × β) := (l.filter fun x => x.1 == id).take n ++ l.filter fun x => x.1 != id

theorem filter_keepOf : (keepOf l id n).filter (fun x => x.1 == id) = (l.filter fun x => x.1 == id).take n := by
  have hmine : ∀ x ∈ (l.filter fun x => x.1 == id).take n, (x.1 == id) = true := fun x hx =>
    (List.mem_filter.1 (List.mem_of_mem_take hx)).2
  have hothers : ∀ x ∈ l.filter (fun x => x.1 != id), ¬(x.1 == id) = true := fun x hx => by
    simpa using (List.mem_filter.1 hx).2
  rw [keepOf, List.filter_append, List.filter_eq_self.2 hmine, List.filter_eq_nil_iff.2 hothers, List.append_nil]

theorem mem_keepOf_of_ne {x : Nat × β} (hx : x.1 ≠ id) : x ∈ keepOf l id n ↔ x ∈ l := by
  have hnot : x ∉ (l.filter fun x => x.1 == id).take n := fun h =>
    hx (by simpa using (List.mem_filter.1 (List.mem_of_mem_take h)).2)
  simp [keepOf, hnot, hx]

end

theorem State.fillLine_eq (s : State) (id key : Nat) :
    s.fillLine id key = { s with lines := (id, key) :: keepOf s.lines id 511, hints := s.hints.filter (· != (id, key)) } := rfl

/-- What a line that arrives changes: the cache of its core, which stays within its 512 lines, and the hints of that line. -/
theorem State.fillLine_fills (s : State) (id key : Nat) {r : Host.Outcome State Fault Refusal} (h : r = .next (s.fillLine id key)) :
    ∃ t, r = .next t ∧ t = { s with lines := t.lines, hints := t.hints } ∧
      (id, key) ∈ t.lines ∧ (t.lines.filter fun x => x.1 == id).length ≤ 512 ∧
      (∀ x : Nat × Nat, x.1 ≠ id → (x ∈ t.lines ↔ x ∈ s.lines)) ∧ ∀ h, h ∈ t.hints ↔ h ∈ s.hints ∧ h ≠ (id, key) := by
  rw [State.fillLine_eq] at h
  refine ⟨_, h, rfl, List.mem_cons_self, ?_, fun x hx => ?_, fun h => ?_⟩
  · dsimp only
    rw [List.filter_cons_of_pos (by simp), filter_keepOf, List.length_cons, List.length_take]
    omega
  · have hne : x ≠ (id, key) := fun he => hx (congrArg Prod.fst he)
    simp only [List.mem_cons, hne, false_or, mem_keepOf_of_ne _ _ _ hx]
  · simp

theorem findSome?_prefix {α β : Type} {f : α → Option β} {pre post : List α} {a : α} (h : ∀ p ∈ pre, f p = none) :
    (pre ++ a :: post).findSome? f = (f a).or (post.findSome? f) := by
  rw [List.findSome?_append, List.findSome?_eq_none_iff.2 h, Option.none_or, List.findSome?_cons]
  cases f a <;> rfl

theorem find?_prefix {α : Type} {q : α → Bool} {pre post : List α} {a : α} (h : ∀ p ∈ pre, q p = false) (ha : q a = true) :
    (pre ++ a :: post).find? q = some a := by
  rw [List.find?_append, List.find?_eq_none.2 fun x hx => by simp [h x hx], Option.none_or, List.find?_cons_of_pos ha]

section
variable {s : State} {k core : Nat}

theorem exec_streamFetch_wanted {key : Nat} (h : (s.coreWarps k core).findSome? s.wantedLine = some key) :
    exec (.streamFetch k core) s = .next (s.fillLine (32 * k + core) key) := by
  dsimp only [exec, execStreamFetch]
  rw [h]

theorem exec_streamFetch_hint (h : (s.coreWarps k core).findSome? s.wantedLine = none) :
    exec (.streamFetch k core) s = .next (match s.hints.find? fun h => h.1 == 32 * k + core with
      | none => s
      | some h => if s.keyOut k h.2 then { s with hints := s.hints.filter (· != h) } else s.fillLine (32 * k + core) h.2) := by
  dsimp only [exec, execStreamFetch]
  rw [h] <;> rfl

theorem hint_arrives (h : ∀ p ∈ s.coreWarps k core, s.wantedLine p = none) :
    ((∀ h ∈ s.hints, h.1 ≠ 32 * k + core) → exec (.streamFetch k core) s = .next s) ∧
    (∀ pre post key, s.hints = pre ++ (32 * k + core, key) :: post → (∀ h ∈ pre, h.1 ≠ 32 * k + core) →
      exec (.streamFetch k core) s = .next (if s.keyOut k key then { s with hints := s.hints.filter (· != (32 * k + core, key)) }
        else s.fillLine (32 * k + core) key)) := by
  have hex := exec_streamFetch_hint (List.findSome?_eq_none_iff.2 h)
  refine ⟨fun hh => ?_, fun pre post key hs hpre => ?_⟩
  · rw [hex, List.find?_eq_none.2 fun x hx => by simpa using hh x hx]
  · have : (s.hints.find? fun h => h.1 == 32 * k + core) = some (32 * k + core, key) := by
      rw [hs]
      exact find?_prefix (fun p hp => by simpa using hpre p hp) (by simp)
    rw [hex, this]

theorem exec_decodeRefill_none (h : ∀ m ∈ s.misses, m.core ≠ 32 * k + core) : exec (.decodeRefill k core) s = .next s := by
  dsimp only [exec, execDecodeRefill, State.firstMiss]
  rw [List.find?_eq_none.2 fun x hx => by simpa using h x hx]

theorem exec_decodeRefill_first {m : Miss} (h : s.firstMiss (32 * k + core) = some m) :
    exec (.decodeRefill k core) s = .next
      { s with decoded := (32 * k + core, m.key) :: keepOf s.decoded (32 * k + core) 127
               misses := s.misses.filter fun j => !(j.core == 32 * k + core && j.key == m.key)
               lantern := (s.observeCtx 3 (s.nowCycle k (core / 8) - m.since) (keyCtx m.key) (s.missedBy m)).lantern } := by
  dsimp only [exec, execDecodeRefill]
  rw [h]
  rfl

theorem State.missedBy_eq {m : Miss} {b : Block} {w : Warp} (hb : s.block? m.block = some b) (hw : b.warp? m.warp = some w) :
    s.missedBy m = some (b, w) := by
  simp [State.missedBy, hb, hw]

end

/-- Settles O49: a fetch serves the first warp that waits, then the first hint; a refill serves the oldest miss of its core. -/
theorem fetches : Obligations.Fetches := by
  unfold Obligations.Fetches
  intro s k core
  refine ⟨fun pre post b w line pc loops hcw hpre hline hin => ?_, fun hno => ⟨(hint_arrives hno).1, ?_⟩, exec_decodeRefill_none, ?_⟩
  · refine State.fillLine_fills _ _ _ (exec_streamFetch_wanted ?_)
    have hwanted : s.wantedLine (b, w) = some (fetchKey b (s.code b w).unit line) := by
      simp [State.wantedLine, hline, hin]
    rw [hcw, findSome?_prefix hpre, hwanted, Option.some_or]
  · intro pre post key hs hpre
    have hex := (hint_arrives hno).2 pre post key hs hpre
    refine ⟨fun hk => State.fillLine_fills _ _ _ (hex.trans ?_), fun hk =>
      ⟨{ s with hints := s.hints.filter (· != (32 * k + core, key)) }, hex.trans ?_, rfl, fun h => ?_⟩⟩
    · rw [hk]; rfl
    · rw [hk]; rfl
    · simp
  · intro pre post m hs hm hpre
    have hfirst : s.firstMiss (32 * k + core) = some m := by
      rw [State.firstMiss, hs]
      exact find?_prefix (fun p hp => by simpa using hpre p hp) (by simp [hm])
    refine ⟨_, exec_decodeRefill_first hfirst, rfl, rfl, fun b w => State.missedBy_eq, fun b w g hb hg => ?_, fun j => ?_, ?_,
      fun x hx => ?_⟩
    · simp [State.hasGroup, hb, hg]
    · simp [imp_iff_not_or]
    · dsimp only
      rw [List.filter_cons_of_pos (by simp), filter_keepOf, List.map_cons, List.map_take]
    · have hne : x ≠ (32 * k + core, m.key) := fun he => hx (congrArg Prod.fst he)
      simp only [List.mem_cons, hne, false_or, mem_keepOf_of_ne _ _ _ hx]

end Sys2Proof.Machine

namespace Sys2Proof.Machine

open Sys2Proof.Claims

-- The ports of a module (R16).

theorem State.port_modPort (s : State) (p q : Nat) (f : Port → Port) (hp : p < s.ports.length) :
    (s.modPort p f).port q = if q = p then f (s.port p) else s.port q := by
  unfold State.port State.modPort
  by_cases h : q = p
  · subst h; simp [List.getD, hp]
  · simp [List.getD, h, Ne.symm h, List.getElem?_modify]

section
variable {s : State} {p : Nat} (f g : Port → Port)

theorem State.port_modPort_self (hp : p < s.ports.length) : (s.modPort p f).port p = f (s.port p) := by
  rw [State.port_modPort s p p f hp, if_pos rfl]

theorem State.port_modPort_of_ne {q : Nat} (h : q ≠ p) : (s.modPort p f).port q = s.port q := by
  simp [State.port, State.modPort, List.getD, Ne.symm h, List.getElem?_modify]

@[simp] theorem State.modPort_ports_length : (s.modPort p f).ports.length = s.ports.length := List.length_modify _ _ _

theorem State.modPort_modPort : (s.modPort p f).modPort p g = s.modPort p fun x => g (f x) := by
  unfold State.modPort
  congr 1
  exact List.modify_modify_eq _ _ _ _

end

section
variable {s : State} {p : Nat}

/-- A port that has heard something. -/
def Port.heardAt (x : Port) (now : Nat) : Port := { x with lastIn := now }

theorem port_heard (hp : p < s.ports.length) : (heard s p).port p = (s.port p).heardAt s.tb.that :=
  State.port_modPort_self _ hp

theorem heard_ports_length (hp : p < s.ports.length) : p < (heard s p).ports.length := by
  simpa [heard] using hp

section
variable {state : Nat} {mine : Bool} {f : Nat} {data g : State → State}

theorem arrives_run (hr : s.running = true) (h16 : p < 16) (h0 : (s.port p).state ≠ 0) :
    s.arrives p f mine data g = .next (if (s.port p).header.isSome then data (heard s p)
      else if !mine then s
      else if (s.port p).state == 2 then g (heard s p)
      else if f.field 252 4 == 1 then g (heard s p)
      else (heard s p).modPort p fun (x : Port) =>
        { x with hellosIn := 0, errors := if 5 ≤ f.field 252 4 then x.errors + 1 else x.errors }) := by
  unfold State.arrives
  refine congrArg Host.Outcome.next (if_neg ?_)
  simp [hr, h16, h0]

theorem arrives_mine (h : AtPort s p state) (h0 : state ≠ 0) (hm : mine = true) (hk : state = 2 ∨ f / 2 ^ 252 % 16 = 1) :
    s.arrives p f mine data g = .next (g (heard s p)) := by
  obtain ⟨hr, h16, -, hst, hh⟩ := h
  rw [arrives_run hr h16 (hst ▸ h0), hh, hm]
  rcases hk with hk | hk
  · simp [hst, hk]
  · have : f.field 252 4 = 1 := hk
    simp [this]

theorem arrives_training (h : AtPort s p 1) (hm : mine = true) (hk : f / 2 ^ 252 % 16 ≠ 1) :
    s.arrives p f mine data g = .next ((heard s p).modPort p fun (x : Port) =>
      { x with hellosIn := 0, errors := if 5 ≤ f / 2 ^ 252 % 16 then x.errors + 1 else x.errors }) := by
  obtain ⟨hr, h16, -, hst, hh⟩ := h
  have hk' : f.field 252 4 ≠ 1 := hk
  rw [arrives_run hr h16 (by simp [hst]), hh, hm, hst]
  simp only [Option.isSome_none, Bool.false_eq_true, if_false, Bool.not_true, Nat.reduceBEq, beq_eq_false_iff_ne.2 hk']
  rfl

/-- The flit after a header is data whatever its kind (R16; log entry 41). -/
theorem arrives_data (hr : s.running = true) (h16 : p < 16) (h0 : (s.port p).state ≠ 0) {h : Nat}
    (hh : (s.port p).header = some h) : s.arrives p f mine data g = .next (data (heard s p)) := by
  rw [arrives_run hr h16 h0, hh]
  rfl

end

/-- The operations of R202 with their ops. -/
def peerInstrs (p f : Nat) : List (Nat × Instr) :=
  [(1, .peerRead p f), (2, .peerReadData p f), (3, .peerWrite p f), (4, .peerWriteDone p f), (5, .peerAtomic p f),
   (6, .peerAtomicResult p f), (7, .peerDrain p f), (8, .peerDrainDone p f)]

theorem exec_peerInstr {f op : Nat} {i : Instr} (hi : (op, i) ∈ peerInstrs p f) :
    exec i s = s.arrives p f (isHead f op) (fun s => s.dataIn p f) fun s => s.headerIn p f := by
  simp only [peerInstrs, List.mem_cons, Prod.mk.injEq, List.not_mem_nil, or_false] at hi
  rcases hi with ⟨rfl, rfl⟩ | ⟨rfl, rfl⟩ | ⟨rfl, rfl⟩ | ⟨rfl, rfl⟩ | ⟨rfl, rfl⟩ | ⟨rfl, rfl⟩ | ⟨rfl, rfl⟩ | ⟨rfl, rfl⟩
  all_goals rfl

section
variable (s : State) (p f : Nat)

theorem exec_idleFlit_eq : exec (.idleFlit p f) s =
    s.arrives p f (f.field 252 4 == 0) (fun s => s.dataIn p f) fun s => s := rfl

theorem exec_dataFlit_eq : exec (.dataFlit p f) s =
    s.arrives p f (f.field 252 4 == 3) (fun s => s.dataIn p f) fun s => s.modPort p Port.error := rfl

/-- The header of an op that is not assigned. -/
def noOpHead (f : Nat) : Bool := f.field 252 4 == 2 && (f.field 248 4 == 0 || decide (9 ≤ f.field 248 4))

theorem exec_unassignedFlit_eq : exec (.unassignedFlit p f) s =
    s.arrives p f (decide (5 ≤ f.field 252 4) || noOpHead f) (fun s => s.dataIn p f) fun s =>
      if noOpHead f then s.headerIn p f else s.modPort p Port.error := rfl

/-- What an ack does to its port. -/
def Port.ack (x : Port) (f : Nat) : Port :=
  Port.flush { x with acked := f.field 232 12, credits := x.credits + f.field 208 12,
                      out := if f.bitAt 231 then x.out ++ (x.after (f.field 232 12)).flatten else x.out }

theorem exec_ack_eq : exec (.ack p f) s = s.arrives p f (f.field 252 4 == 4) (fun s => s.dataIn p f) fun s =>
    if !crcOk f [] then s.modPort p Port.error else s.modPort p fun x => x.ack f := rfl

/-- A port that has received a valid hello. -/
def Port.greeted (x : Port) (f : Nat) : Port :=
  { x with hellosIn := x.hellosIn + 1, partner := f.field 244 4, partnerDev := f.field 112 128 }

theorem exec_hello_arrives : exec (.hello p f) s = s.arrives p f (f.field 252 4 == 1) (fun s => s.dataIn p f) fun s =>
    if (s.port p).state != 1 then s
    else if !helloOk f then s.modPort p fun (x : Port) => { x with hellosIn := 0 }
    else if 3 ≤ (s.port p).hellosIn + 1 ∧ 3 ≤ (s.port p).hellosOut then
      ((s.modPort p fun x => x.greeted f).modPort p Port.up).resend
    else s.modPort p fun x => x.greeted f := rfl

end

theorem isHead_of {f op : Nat} (hk : f / 2 ^ 252 % 16 = 2) (ho : f / 2 ^ 248 % 16 = op) : isHead f op = true := by
  have h1 : f.field 252 4 = 2 := hk
  have h2 : f.field 248 4 = op := ho
  simp [isHead, h1, h2]

theorem Port.flushGo_nil (x : Port) (c : Nat) : x.flushGo [] c = { x with waiting := [], credits := c } := rfl

theorem Port.flushGo_cons (x : Port) (pk : List Nat) (l : List (List Nat)) (c : Nat) : x.flushGo (pk :: l) (c + 1) =
    Port.flushGo { x with out := x.out ++ pk, replay := (x.replay ++ [pk]).drop (x.replay.length - 511) } l c := by
  conv_lhs => unfold Port.flushGo

/-- Packets that find a credit each leave in their order. -/
theorem Port.flushGo_all (l : List (List Nat)) : ∀ (x : Port) (c : Nat), l.length ≤ c →
    ∃ r, x.flushGo l c = { x with waiting := [], credits := c - l.length, out := x.out ++ l.flatten, replay := r } := by
  induction l with
  | nil => exact fun x c _ => ⟨x.replay, by rw [Port.flushGo_nil, List.flatten_nil, List.append_nil]; rfl⟩
  | cons pk l ih =>
    intro x c hc
    obtain ⟨c, rfl⟩ : ∃ k, c = k + 1 := ⟨c - 1, by rw [List.length_cons] at hc; omega⟩
    obtain ⟨r, hr⟩ := ih { x with out := x.out ++ pk, replay := (x.replay ++ [pk]).drop (x.replay.length - 511) } c
      (by rw [List.length_cons] at hc; omega)
    refine ⟨r, (Port.flushGo_cons x pk l c).trans (hr.trans ?_)⟩
    rw [List.flatten_cons, List.append_assoc, List.length_cons, Nat.add_sub_add_right]

theorem Port.flush_none {x : Port} (hs : x.state = 2) (hw : x.waiting = []) : x.flush = x := by
  unfold Port.flush
  rw [if_pos hs, hw, Port.flushGo_nil, ← hw]

/-- A link comes up with what the partner has not acknowledged sent again. -/
theorem Port.up_facts {x : Port} (hw : x.waiting = []) (h : (x.after x.acked).length ≤ 256) :
    ∃ r, x.up = { x with state := 2, credits := 256 - (x.after x.acked).length, gap := false, waiting := []
                         out := x.out ++ (x.after x.acked).flatten, replay := r } := by
  unfold Port.up Port.flush
  dsimp only
  rw [if_pos rfl, hw, List.append_nil]
  obtain ⟨r, hr⟩ := Port.flushGo_all (x.after x.acked) { x with
    state := 2, credits := 256, gap := false, waiting := x.after x.acked
    replay := x.replay.filter fun pk => !(x.after x.acked).contains pk } 256 h
  exact ⟨r, hr⟩

theorem State.resend_none (h : s.peerReqs = []) : s.resend = s := by
  rw [State.resend, h]
  rfl

-- Training.

section
variable {f : Nat}

theorem exec_hello_eq (h : AtPort s p 1) (hk : f / 2 ^ 252 % 16 = 1) : exec (.hello p f) s = .next (
    if helloOk f = false then (heard s p).modPort p fun (x : Port) => { x with hellosIn := 0 }
    else if 3 ≤ (s.port p).hellosIn + 1 ∧ 3 ≤ (s.port p).hellosOut then
      (((heard s p).modPort p fun x => x.greeted f).modPort p Port.up).resend
    else (heard s p).modPort p fun x => x.greeted f) := by
  have hmine : (f.field 252 4 == 1) = true := by
    have : f.field 252 4 = 1 := hk
    simp [this]
  rw [exec_hello_arrives]
  refine (arrives_mine h (by decide) hmine (.inr hk)).trans (congrArg Host.Outcome.next ?_)
  obtain ⟨-, -, hp, hst, -⟩ := h
  have hst' : ((s.port p).heardAt s.tb.that).state = 1 := hst
  rw [port_heard hp, hst']
  cases hh : helloOk f <;> rfl

theorem hello_trains (h : AtPort s p 1) (hk : f / 2 ^ 252 % 16 = 1) :
    (helloOk f = false → ∃ t, exec (.hello p f) s = .next t ∧ (t.port p).hellosIn = 0 ∧ (t.port p).state = 1) ∧
    (helloOk f = true → (s.port p).hellosIn < 2 → ∃ t, exec (.hello p f) s = .next t ∧
      (t.port p).hellosIn = (s.port p).hellosIn + 1 ∧ (t.port p).state = 1 ∧ (t.port p).partnerDev = f / 2 ^ 112 % 2 ^ 128) := by
  have hex := exec_hello_eq h hk
  obtain ⟨-, -, hp, hst, -⟩ := h
  have hp' := heard_ports_length hp
  refine ⟨fun ho => ?_, fun ho hi => ?_⟩
  · rw [if_pos ho] at hex
    refine ⟨_, hex, ?_⟩
    rw [State.port_modPort_self _ hp', port_heard hp]
    exact ⟨rfl, hst⟩
  · rw [if_neg (by simp [ho]), if_neg (by omega)] at hex
    refine ⟨_, hex, ?_⟩
    rw [State.port_modPort_self _ hp', port_heard hp]
    exact ⟨rfl, hst, rfl⟩

theorem third_hello (h : AtPort s p 1) (hk : f / 2 ^ 252 % 16 = 1) (ho : helloOk f = true) (hi : 2 ≤ (s.port p).hellosIn)
    (hout : 3 ≤ (s.port p).hellosOut) (hreq : s.peerReqs = []) (hw : (s.port p).waiting = []) (again : List (List Nat))
    (hag : again = (s.port p).after (s.port p).acked) (hlen : again.length ≤ 256) :
    ∃ t, exec (.hello p f) s = .next t ∧ (t.port p).state = 2 ∧
      (t.port p).credits = 256 - again.length ∧ (t.port p).out = (s.port p).out ++ again.flatten ∧ (t.port p).gap = false ∧
      (t.port p).txSeq = (s.port p).txSeq ∧ (t.port p).rxSeq = (s.port p).rxSeq ∧ (t.port p).partner = f / 2 ^ 244 % 16 ∧
      (t.port p).partnerDev = f / 2 ^ 112 % 2 ^ 128 ∧ t.mem = s.mem := by
  have hex := exec_hello_eq h hk
  obtain ⟨-, -, hp, hst, -⟩ := h
  rw [if_neg (by simp [ho]), if_pos ⟨by omega, hout⟩, State.resend_none (by exact hreq)] at hex
  refine ⟨_, hex, ?_⟩
  subst hag
  have hp' := heard_ports_length hp
  obtain ⟨r, hr⟩ := Port.up_facts (x := ((s.port p).heardAt s.tb.that).greeted f) hw hlen
  rw [State.port_modPort_self _ (by simpa using hp'), State.port_modPort_self _ hp', port_heard hp, hr]
  exact ⟨rfl, rfl, rfl, rfl, rfl, rfl, rfl, rfl, rfl⟩

theorem training_port (h : AtPort s p 1) :
    (f / 2 ^ 252 % 16 = 0 → exec (.idleFlit p f) s = .next ((heard s p).modPort p fun x => { x with hellosIn := 0 })) ∧
    (5 ≤ f / 2 ^ 252 % 16 → exec (.unassignedFlit p f) s =
      .next ((heard s p).modPort p fun x => { x with hellosIn := 0, errors := x.errors + 1 })) ∧
    (∀ i, (f / 2 ^ 252 % 16 = 3 ∧ i = .dataFlit p f) ∨ (f / 2 ^ 252 % 16 = 4 ∧ i = .ack p f) ∨
        (f / 2 ^ 252 % 16 = 2 ∧ (f / 2 ^ 248 % 16, i) ∈ (0, .unassignedFlit p f) :: peerInstrs p f) →
      exec i s = .next ((heard s p).modPort p fun x => { x with hellosIn := 0 })) := by
  have small : ∀ {i : Instr} {mine data g}, (f / 2 ^ 252 % 16 < 5 ∧ f / 2 ^ 252 % 16 ≠ 1) → mine = true →
      exec i s = s.arrives p f mine data g → exec i s = .next ((heard s p).modPort p fun x => { x with hellosIn := 0 }) := by
    intro i mine data g hk hm he
    have hlt : ¬5 ≤ f / 2 ^ 252 % 16 := by omega
    refine he.trans ((arrives_training h hm hk.2).trans ?_)
    simp only [hlt, if_false]
  have kind : ∀ n, f / 2 ^ 252 % 16 = n → (f.field 252 4 == n) = true := fun n hn => beq_iff_eq.2 hn
  refine ⟨fun hk => small ⟨by omega, by omega⟩ (kind 0 hk) (exec_idleFlit_eq s p f), fun hk => ?_, ?_⟩
  · have hmine : (decide (5 ≤ f.field 252 4) || noOpHead f) = true := by
      have : 5 ≤ f.field 252 4 := hk
      simp only [this, decide_true, Bool.true_or]
    rw [exec_unassignedFlit_eq]
    refine (arrives_training h hmine (by omega)).trans ?_
    simp only [hk, if_true]
  · rintro i (⟨hk, rfl⟩ | ⟨hk, rfl⟩ | ⟨hk, hi⟩)
    · exact small ⟨by omega, by omega⟩ (kind 3 hk) (exec_dataFlit_eq s p f)
    · exact small ⟨by omega, by omega⟩ (kind 4 hk) (exec_ack_eq s p f)
    · rcases List.mem_cons.1 hi with hi | hi
      · obtain ⟨h0, rfl⟩ := Prod.mk.inj hi
        have hmine : (decide (5 ≤ f.field 252 4) || noOpHead f) = true := by
          have h1 : f.field 252 4 = 2 := hk
          have h2 : f.field 248 4 = 0 := h0
          simp [noOpHead, h1, h2]
        exact small ⟨by omega, by omega⟩ hmine (exec_unassignedFlit_eq s p f)
      · exact small ⟨by omega, by omega⟩ (isHead_of hk rfl) (exec_peerInstr hi)

-- A port that is up.

theorem ack_arrives (h : AtPort s p 2) (hk : f / 2 ^ 252 % 16 = 4) :
    (crcOk f [] = false → exec (.ack p f) s = .next ((heard s p).modPort p fun x => { x with errors := x.errors + 1 })) ∧
    (crcOk f [] = true → (s.port p).waiting = [] → ∃ t, exec (.ack p f) s = .next t ∧
      (t.port p).credits = (s.port p).credits + f / 2 ^ 208 % 4096 ∧ (t.port p).acked = f / 2 ^ 232 % 4096 ∧
      (t.port p).out = (s.port p).out ++
        (if f / 2 ^ 231 % 2 = 1 then ((s.port p).after (f / 2 ^ 232 % 4096)).flatten else []) ∧
      (∀ q, q ≠ p → t.port q = s.port q) ∧ t.mem = s.mem) := by
  have hmine : (f.field 252 4 == 4) = true := beq_iff_eq.2 hk
  have hex := (exec_ack_eq s p f).trans (arrives_mine h (by decide) hmine (.inl rfl))
  obtain ⟨-, -, hp, hst, -⟩ := h
  refine ⟨fun hc => hex.trans ?_, fun hc hw => ?_⟩
  · simp only [hc, Bool.not_false, if_true]
    rfl
  · simp only [hc, Bool.not_true, Bool.false_eq_true, if_false] at hex
    refine ⟨_, hex, ?_⟩
    rw [State.port_modPort_self _ (heard_ports_length hp), port_heard hp, Port.ack, Port.flush_none (by exact hst) (by exact hw)]
    refine ⟨rfl, rfl, ?_, fun q hq => ?_, rfl⟩
    · by_cases hn : f / 2 ^ 231 % 2 = 1
      · have hb : f.bitAt 231 = true := beq_iff_eq.2 hn
        simp only [hb, hn, if_true]
        rfl
      · have hb : f.bitAt 231 = false := beq_eq_false_iff_ne.2 hn
        simp only [hb, hn, if_false, List.append_nil, Bool.false_eq_true]
        rfl
    · exact (State.port_modPort_of_ne _ hq).trans (State.port_modPort_of_ne _ hq)

theorem port_up (h : AtPort s p 2) :
    (f / 2 ^ 252 % 16 = 0 → exec (.idleFlit p f) s = .next (heard s p)) ∧
    (f / 2 ^ 252 % 16 = 3 → exec (.dataFlit p f) s = .next ((heard s p).modPort p fun x => { x with errors := x.errors + 1 })) ∧
    (5 ≤ f / 2 ^ 252 % 16 →
      exec (.unassignedFlit p f) s = .next ((heard s p).modPort p fun x => { x with errors := x.errors + 1 })) := by
  have kind : ∀ n, f / 2 ^ 252 % 16 = n → (f.field 252 4 == n) = true := fun n hn => beq_iff_eq.2 hn
  refine ⟨fun hk => (exec_idleFlit_eq s p f).trans (arrives_mine h (by decide) (kind 0 hk) (.inl rfl)),
    fun hk => (exec_dataFlit_eq s p f).trans (arrives_mine h (by decide) (kind 3 hk) (.inl rfl)),
    fun hk => ?_⟩
  have h5 : 5 ≤ f.field 252 4 := hk
  have hno : noOpHead f = false := by
    have h2 : f.field 252 4 ≠ 2 := by omega
    simp [noOpHead, h2]
  have hmine : (decide (5 ≤ f.field 252 4) || noOpHead f) = true := by
    simp only [h5, decide_true, Bool.true_or]
  rw [exec_unassignedFlit_eq]
  refine (arrives_mine h (by decide) hmine (.inl rfl)).trans ?_
  simp only [hno, Bool.false_eq_true, if_false]
  rfl

end

-- Retraining.

theorem port_retrains (h16 : p < 16) (hp : p < s.ports.length) (hst : (s.port p).state = 2) (naks : Nat)
    (hn : naks = ((s.port p).nakTimes.filter fun t => decide (s.tb.that ≤ t + 10 ^ 9)).length) :
    (naks < 16 → s.tb.that < (s.port p).lastIn + 10 ^ 8 → exec (.portRetrain p) s = .next s) ∧
    (16 ≤ naks ∨ (s.port p).lastIn + 10 ^ 8 ≤ s.tb.that → ∃ t, exec (.portRetrain p) s = .next t ∧ (t.port p).state = 1 ∧
      (t.port p).retrains = (s.port p).retrains + 1 ∧ (∀ q, q ≠ p → t.port q = s.port q) ∧ t.mem = s.mem ∧
      t.peerReqs.map (·.tag) = s.peerReqs.map (·.tag)) := by
  have hsick : (s.port p).sick s.tb.that = true ↔ 16 ≤ naks ∨ (s.port p).lastIn + 10 ^ 8 ≤ s.tb.that := by
    rw [hn]
    simp only [Port.sick, Bool.or_eq_true, decide_eq_true_eq]
  dsimp only [exec, execPortRetrain]
  refine ⟨fun h1 h2 => congrArg Host.Outcome.next (if_pos ?_), fun h => ⟨_, congrArg Host.Outcome.next (if_neg ?_), ?_⟩⟩
  · have : (s.port p).sick s.tb.that = false := by
      rw [Bool.eq_false_iff, Ne, hsick]
      omega
    simp [this]
  · simp [hst, h16, hsick.2 h]
  · refine ⟨?_, ?_, fun q hq => ?_, rfl, ?_⟩
    · exact (congrArg Port.state (State.port_modPort_self _ hp)).trans rfl
    · exact (congrArg Port.retrains (State.port_modPort_self _ hp)).trans rfl
    · exact State.port_modPort_of_ne _ hq
    · dsimp only
      rw [List.map_map]
      refine List.map_congr_left fun q _ => ?_
      dsimp only [Function.comp]
      split <;> rfl

end

/-- Settles O57: what each kind of flit does to a port that trains and to one that is up. -/
theorem linksTrain : Obligations.LinksTrain := by
  unfold Obligations.LinksTrain
  refine ⟨fun s p f h hk => ⟨(hello_trains h hk).1, (hello_trains h hk).2, fun ho hi hout hreq hw => ?_⟩,
    fun s p f => training_port, fun s p f h => ?_, fun s p h16 hp hst => port_retrains h16 hp hst _ rfl⟩
  · exact third_hello h hk ho hi hout hreq hw _ rfl
  · obtain ⟨hidle, hdata, hbad⟩ := port_up (f := f) h
    exact ⟨hidle, hdata, hbad, ack_arrives h⟩

end Sys2Proof.Machine

end

section
/-! SUPPORT. Packets of a link and the service of a peer. -/

namespace Sys2Proof.Machine

open Sys2Proof.Claims

-- Packets (R16).

section
variable {s : State} {p : Nat}

theorem State.packet_good {h : Nat} {body : List Nat} (hg : crcOk h body = true)
    (hq : h / 2 ^ 232 % 4096 = ((s.port p).rxSeq + 1) % 4096) :
    s.packet p h body = (s.modPort p fun (x : Port) => { x with
      rxSeq := h / 2 ^ 232 % 4096, gap := false, out := x.out ++ [ackFlit (h / 2 ^ 232 % 4096) false 1] }).perform p
        (Head.ofFlit h) body := by
  have hf : h.field 232 12 = ((s.port p).rxSeq + 1) % 4096 := hq
  unfold State.packet
  refine if_pos ?_
  rw [hg, hf]
  simp

theorem State.packet_bad {h : Nat} {body : List Nat}
    (hg : ¬(crcOk h body = true ∧ h / 2 ^ 232 % 4096 = ((s.port p).rxSeq + 1) % 4096)) :
    s.packet p h body = if (s.port p).gap = true ∧ crcOk h body = true then s else s.modPort p fun x => x.nak s.tb.that := by
  have hf : ¬(crcOk h body && h.field 232 12 == ((s.port p).rxSeq + 1) % 4096) = true := by
    rw [Bool.and_eq_true, beq_iff_eq]
    exact hg
  unfold State.packet
  dsimp only
  rw [if_neg hf]
  simp only [Bool.and_eq_true]

/-- A header that announces one to four data flits waits for them (R16; log entry 41). -/
theorem State.headerIn_waits {f : Nat} (h1 : 1 ≤ f / 2 ^ 245 % 8) (h4 : f / 2 ^ 245 % 8 ≤ 4) :
    s.headerIn p f = s.modPort p fun (x : Port) => { x with header := some f, payload := [] } := by
  have h1' : f.field 245 3 ≠ 0 := Nat.ne_of_gt h1
  have h4' : ¬4 < f.field 245 3 := Nat.not_lt.2 h4
  unfold State.headerIn
  rw [if_neg h1', if_neg h4']

theorem State.headerIn_long {f : Nat} (h4 : 4 < f / 2 ^ 245 % 8) :
    s.headerIn p f = s.modPort p fun x => x.nak s.tb.that := by
  have h4' : 4 < f.field 245 3 := h4
  unfold State.headerIn
  rw [if_neg (show f.field 245 3 ≠ 0 by omega), if_pos h4']

theorem State.headerIn_alone {f : Nat} (h0 : f / 2 ^ 245 % 8 = 0) : s.headerIn p f = s.packet p f [] :=
  if_pos h0

theorem State.dataIn_waits {f h : Nat} {body : List Nat} (hh : (s.port p).header = some h)
    (hb : (s.port p).payload ++ [f % 2 ^ 256] = body) (hlt : body.length < h / 2 ^ 245 % 8) :
    s.dataIn p f = s.modPort p fun (x : Port) => { x with payload := body } := by
  subst hb
  unfold State.dataIn
  dsimp only
  rw [hh]
  exact if_pos hlt

theorem State.dataIn_last {f h : Nat} {body : List Nat} (hh : (s.port p).header = some h)
    (hb : (s.port p).payload ++ [f % 2 ^ 256] = body) (heq : body.length = h / 2 ^ 245 % 8) :
    s.dataIn p f = (s.modPort p fun (x : Port) => { x with header := none, payload := [] }).packet p h body := by
  subst hb
  unfold State.dataIn
  dsimp only
  rw [hh]
  exact if_neg (Nat.not_lt.2 (Nat.le_of_eq heq.symm))

theorem port_heard_rxSeq (hp : p < s.ports.length) : ((heard s p).port p).rxSeq = (s.port p).rxSeq :=
  (congrArg Port.rxSeq (port_heard hp)).trans rfl

theorem port_heard_gap (hp : p < s.ports.length) : ((heard s p).port p).gap = (s.port p).gap :=
  (congrArg Port.gap (port_heard hp)).trans rfl

/-- A header that announces no data is its whole packet. -/
theorem header_alone (hp : p < s.ports.length) {f : Nat} (h0 : f / 2 ^ 245 % 8 = 0) :
    (good s p f [] → (heard s p).headerIn p f = ((heard s p).modPort p fun (x : Port) => { x with
      rxSeq := f / 2 ^ 232 % 4096, gap := false, out := x.out ++ [ackFlit (f / 2 ^ 232 % 4096) false 1] }).perform p
        (Head.ofFlit f) []) ∧
    (¬good s p f [] → (heard s p).headerIn p f =
      if (s.port p).gap = true ∧ crcOk f [] = true then heard s p
      else (heard s p).modPort p fun x => x.nak s.tb.that) := by
  rw [State.headerIn_alone h0]
  refine ⟨fun hg => State.packet_good hg.1 ?_, fun hg => (State.packet_bad ?_).trans ?_⟩
  · rw [port_heard_rxSeq hp]
    exact hg.2
  · rw [port_heard_rxSeq hp]
    exact hg
  · rw [port_heard_gap hp]
    rfl

/-- A port with no packet under way. -/
def Port.ended (x : Port) : Port := { x with header := none, payload := [] }

/-- The state once the packet under way has ended. -/
def State.packetEnded (s : State) (p : Nat) : State := (heard s p).modPort p Port.ended

theorem port_packetEnded (hp : p < s.ports.length) :
    (s.packetEnded p).port p = ((s.port p).heardAt s.tb.that).ended := by
  rw [State.packetEnded, State.port_modPort_self _ (heard_ports_length hp), port_heard hp]

/-- A data flit of the packet under way: one more, or the last. -/
theorem data_arrives (hp : p < s.ports.length) {f h : Nat} {body : List Nat} (hh : (s.port p).header = some h)
    (hb : (s.port p).payload ++ [f % 2 ^ 256] = body) :
    (body.length < h / 2 ^ 245 % 8 →
      (heard s p).dataIn p f = (heard s p).modPort p fun (x : Port) => { x with payload := body }) ∧
    (body.length = h / 2 ^ 245 % 8 → good s p h body → (heard s p).dataIn p f =
      ((s.packetEnded p).modPort p fun (x : Port) => { x with
        rxSeq := h / 2 ^ 232 % 4096, gap := false, out := x.out ++ [ackFlit (h / 2 ^ 232 % 4096) false 1] }).perform p
        (Head.ofFlit h) body) ∧
    (body.length = h / 2 ^ 245 % 8 → ¬good s p h body → (heard s p).dataIn p f =
      if (s.port p).gap = true ∧ crcOk h body = true then s.packetEnded p
      else (s.packetEnded p).modPort p fun x => x.nak s.tb.that) := by
  have hh' : ((heard s p).port p).header = some h := (congrArg Port.header (port_heard hp)).trans hh
  have hb' : ((heard s p).port p).payload ++ [f % 2 ^ 256] = body := by
    rw [port_heard hp]
    exact hb
  have hrx : ((s.packetEnded p).port p).rxSeq = (s.port p).rxSeq := (congrArg Port.rxSeq (port_packetEnded hp)).trans rfl
  have hgap : ((s.packetEnded p).port p).gap = (s.port p).gap := (congrArg Port.gap (port_packetEnded hp)).trans rfl
  refine ⟨State.dataIn_waits hh' hb', fun hl hg => ?_, fun hl hg => ?_⟩
  · refine (State.dataIn_last hh' hb' hl).trans (State.packet_good (s := s.packetEnded p) hg.1 ?_)
    rw [hrx]
    exact hg.2
  · refine (State.dataIn_last hh' hb' hl).trans ((State.packet_bad (s := s.packetEnded p) ?_).trans ?_)
    · rw [hrx]
      exact hg
    · rw [hgap]
      rfl

theorem header_arrives {f op : Nat} {i : Instr} (h : AtPort s p 2) (hk : f / 2 ^ 252 % 16 = 2) (hi : (op, i) ∈ peerInstrs p f)
    (ho : f / 2 ^ 248 % 16 = op) : exec i s = .next ((heard s p).headerIn p f) := by
  rw [exec_peerInstr hi]
  exact arrives_mine h (by decide) (isHead_of hk ho) (.inl rfl)

theorem noOpHead_arrives {f : Nat} (h : AtPort s p 2) (hk : f / 2 ^ 252 % 16 = 2)
    (ho : f / 2 ^ 248 % 16 = 0 ∨ 9 ≤ f / 2 ^ 248 % 16) : exec (.unassignedFlit p f) s = .next ((heard s p).headerIn p f) := by
  have hno : noOpHead f = true := by
    have h2 : f.field 252 4 = 2 := hk
    have ho' : f.field 248 4 = 0 ∨ 9 ≤ f.field 248 4 := ho
    simpa [noOpHead, h2] using ho'
  rw [exec_unassignedFlit_eq, hno, Bool.or_true]
  exact arrives_mine h (by decide) rfl (.inl rfl)

end

theorem Head.op_ofFlit (f : Nat) : (Head.ofFlit f).op = f / 2 ^ 248 % 16 := rfl

/-- A packet of an op that is not assigned is counted as an error (R16). -/
theorem State.perform_unassigned (s : State) (p : Nat) (h : Head) (body : List Nat) (ho : h.op = 0 ∨ 9 ≤ h.op) :
    s.perform p h body = s.modPort p Port.error := by
  unfold State.perform
  rw [if_neg (by omega), if_neg (by omega), if_neg (by omega), if_neg (by omega), if_neg (by omega)]

/-- Settles O58: a header alone, a header with its data, and the flits after a header. -/
theorem packetsArrive : Obligations.PacketsArrive := by
  unfold Obligations.PacketsArrive
  intro s p f
  refine ⟨fun h hk op i hi ho => ?_, fun h hk ho hn hg => ?_, fun hr h16 hp hst hd hh => ?_⟩
  · have hex := header_arrives h hk hi ho
    obtain ⟨-, -, hp, -, -⟩ := h
    refine ⟨fun h1 h4 => ?_, fun h0 hg => ?_, fun h4 => ?_, fun h0 hg => ?_⟩
    · rw [hex, State.headerIn_waits h1 h4]
    · rw [hex, (header_alone hp h0).1 hg]
    · rw [hex, State.headerIn_long h4]
      rfl
    · rw [hex, (header_alone hp h0).2 hg]
      rfl
  · have hp : p < s.ports.length := h.2.2.1
    rw [noOpHead_arrives h hk ho, (header_alone hp hn).1 hg, State.perform_unassigned _ _ _ _ (by rw [Head.op_ofFlit]; exact ho)]
    rfl
  · have hex : exec (.dataFlit p f) s = .next ((heard s p).dataIn p f) :=
      (exec_dataFlit_eq s p f).trans (arrives_data hr h16 (by rw [hst]; decide) hh)
    obtain ⟨hmore, hgood, hbad⟩ := data_arrives hp hh (f := f) rfl
    refine ⟨fun hl => ?_, fun hl hg => ?_, fun hl hg => ?_⟩
    · rw [hex, hmore hl]
    · rw [hex, hgood hl hg]
      rfl
    · rw [hex, hbad hl hg]
      rfl

end Sys2Proof.Machine

namespace Sys2Proof.Machine

open Sys2Proof.Claims

-- Bytes of memory in a row.

theorem Memory.readBytes_eq (m : Memory) : ∀ (n a : Nat), m.readBytes a n = (List.range n).map fun i => m.read (a + i)
  | 0, _ => rfl
  | n + 1, a => by
    rw [Memory.readBytes, Memory.readBytes_eq m n (a + 1), List.range_succ_eq_map, List.map_cons, List.map_map]
    simp [Function.comp_def, Nat.add_assoc, Nat.add_comm 1]

@[simp] theorem Memory.length_readBytes (m : Memory) (a n : Nat) : (m.readBytes a n).length = n := by
  simp [Memory.readBytes_eq]

theorem Memory.readBytes_writeBytes {m : Memory} (h : m.wf = true) (a : Nat) (bs : List Byte) :
    (m.writeBytes a bs).readBytes a bs.length = bs := by
  rw [Memory.readBytes_eq]
  refine List.ext_getElem (by simp) fun i h1 h2 => ?_
  simp [Memory.read_writeBytes_at a i bs h h2, List.getD, h2]

/-- Bytes that no engine operation is to write are read as they stand (R153). -/
theorem State.fog_of_cool {s : State} {who : Option (Nat × Nat)} {id addr : Nat} {bs : List Byte}
    (h : ∀ i, i < bs.length → addr + i ∉ s.hotBytes who id) : s.fog who id addr bs = (bs, s) := by
  have hno : ∀ i, i < bs.length → (s.hotBytes who id).contains (addr + i) = false := fun i hi => contains_of_not_mem (h i hi)
  have hany : ((List.range bs.length).any fun i => (s.hotBytes who id).contains (addr + i)) = false := by
    rw [List.any_eq_false]
    exact fun i hi => by rw [hno i (List.mem_range.1 hi)]; exact Bool.false_ne_true
  unfold State.fog
  dsimp only
  rw [hany]
  refine Prod.ext (List.ext_getElem (by simp) fun i h1 h2 => ?_) rfl
  simp only [List.getElem_mapIdx, hno i h2, Bool.false_eq_true, if_false]

theorem State.lookup_of_cool {s : State} {who : Option (Nat × Nat)} {id addr n : Nat} (stores : List (Nat × Byte))
    (h : ∀ i, i < n → addr + i ∉ s.hotBytes who id) :
    s.lookup who id stores addr n = ((List.range n).map fun i => oldByte stores s.mem (addr + i), s) :=
  State.fog_of_cool (by simpa using h)

theorem oldByte_nil (m : Memory) (a : Nat) : oldByte [] m a = m.read a := rfl

-- The service of a peer's requests (R202).

theorem length_payloadBytes (body : List Nat) : (payloadBytes body).length = 32 * body.length := by
  unfold payloadBytes
  induction body with
  | nil => rfl
  | cons x l ih => rw [List.flatMap_cons, List.length_append, length_leBytes, ih, List.length_cons]; omega

section
variable {s : State} {h : Head} {n : Nat} {wr : Bool}

theorem State.served_bound {t : Tensor} (ht : s.tensor? h.table = some t) (hx : t.export_ = true) (hb : t.bound = true) :
    s.served h n wr = match t.entries[h.tile]? with
      | none => .error 2
      | some e =>
        if 65536 < h.offset + n || 128 < n then .error 2
        else if wr && !e.writable then .error 1
        else if !e.resident then .error 3
        else .ok (65536 * h.tile + h.offset) := by
  unfold State.served
  rw [ht]
  dsimp only
  rw [hx, hb]
  rfl

theorem request_checks (s : State) (h : Head) (n : Nat) (wr : Bool) :
    (s.tensor? h.table = none → s.served h n wr = .error 5) ∧
    (∀ t, s.tensor? h.table = some t →
      (t.export_ = false ∨ t.bound = false → s.served h n wr = .error 5) ∧
      (t.export_ = true → t.bound = true →
        (t.entries.length ≤ h.tile → s.served h n wr = .error 2) ∧
        (∀ e, t.entries[h.tile]? = some e →
          (65536 < h.offset + n ∨ 128 < n → s.served h n wr = .error 2) ∧
          (h.offset + n ≤ 65536 → n ≤ 128 → wr = true → e.writable = false → s.served h n wr = .error 1) ∧
          (h.offset + n ≤ 65536 → n ≤ 128 → wr = false ∨ e.writable = true →
            (e.resident = false → s.served h n wr = .error 3) ∧
            (e.resident = true → s.served h n wr = .ok (65536 * h.tile + h.offset)))))) := by
  refine ⟨fun ht => ?_, fun t ht => ⟨fun hn => ?_, fun hx hb => ?_⟩⟩
  · rw [State.served, ht]
  · rw [State.served, ht]
    exact if_pos (by rcases hn with hn | hn <;> simp [hn])
  · have hsv := State.served_bound (n := n) (wr := wr) ht hx hb
    refine ⟨fun hl => ?_, fun e he => ?_⟩
    · rw [hsv, List.getElem?_eq_none hl]
    · rw [he] at hsv
      dsimp only at hsv
      refine ⟨fun hout => ?_, fun h1 h2 hw he => ?_, fun h1 h2 hw => ?_⟩
      · rw [hsv, if_pos (by simpa using hout)]
      · rw [hsv, if_neg (by simp only [Bool.or_eq_true, decide_eq_true_eq]; omega), hw, he]
        rfl
      · have hok : (wr && !e.writable) = false := by rcases hw with hw | hw <;> simp [hw]
        rw [if_neg (by simp only [Bool.or_eq_true, decide_eq_true_eq]; omega), hok] at hsv
        exact ⟨fun hr => by rw [hsv, hr]; rfl, fun hr => by rw [hsv, hr]; rfl⟩

end

section
variable {s : State} {p : Nat} {h : Head} {body : List Nat}

theorem State.perform_read (ho : h.op = 1) : s.perform p h body = s.serveRead p h := if_pos ho
theorem State.perform_write (ho : h.op = 3) : s.perform p h body = s.serveWrite p h body := by
  rw [State.perform, ho]; rfl
theorem State.perform_atomic (ho : h.op = 5) : s.perform p h body = s.serveAtomic p h body := by
  rw [State.perform, ho]; rfl
theorem State.perform_drain (ho : h.op = 7) : s.perform p h body = s.answer p h 8 0 [] := by
  rw [State.perform, ho]; rfl

theorem read_served : (∀ e, s.served h (h.count + 1) false = .error e → s.serveRead p h = s.answer p h 2 e []) ∧
    (∀ off, s.served h (h.count + 1) false = .ok off →
      (∀ k, k < h.count + 1 → s.tensorAddr h.table off + k ∉ s.hotBytes none 0) →
      s.serveRead p h = s.answer p h 2 0 (s.mem.readBytes (s.tensorAddr h.table off) (h.count + 1))) := by
  refine ⟨fun e he => ?_, fun off ho hc => ?_⟩
  · simp only [State.serveRead, he]
  · simp only [State.serveRead, ho, State.lookup_of_cool [] hc, oldByte_nil, Memory.readBytes_eq]

theorem write_served :
    (∀ e, s.served h (h.count + 1) true = .error e → s.serveWrite p h body = s.answer p h 4 e []) ∧
    (∀ off, s.served h (h.count + 1) true = .ok off → s.isStamped (s.tensorAddr h.table off) (h.count + 1) = true →
      s.serveWrite p h body = s.answer p h 4 1 []) ∧
    (∀ off, s.served h (h.count + 1) true = .ok off → s.isStamped (s.tensorAddr h.table off) (h.count + 1) = false →
      s.serveWrite p h body =
        (s.writeHome (s.tensorAddr h.table off) ((payloadBytes body).take (h.count + 1))).answer p h 4 0 []) := by
  refine ⟨fun e he => ?_, fun off ho hst => ?_, fun off ho hst => ?_⟩
  · simp only [State.serveWrite, he]
  · simp only [State.serveWrite, ho, hst, if_true]
  · simp only [State.serveWrite, ho, hst, Bool.false_eq_true, if_false]

/-- What a write at its home leaves in memory. -/
theorem State.writeHome_stores (hwf : s.mem.wf = true) (a : Nat) (bs : List Byte) {n : Nat} (hn : bs.length = n) :
    (s.writeHome a bs).mem.readBytes a n = bs ∧
      ∀ b, b < a ∨ a + n ≤ b → (s.writeHome a bs).mem.read b = s.mem.read b := by
  subst hn
  exact ⟨Memory.readBytes_writeBytes hwf a bs, fun b hb => Memory.read_writeBytes_other a b bs hwf hb⟩

theorem atomOfCode_unassigned {c : Nat} (hc : 8 < c) : atomOfCode c = none := by
  obtain ⟨k, rfl⟩ : ∃ k, c = k + 9 := ⟨c - 9, by omega⟩
  rfl

theorem serveAtomic_unassigned (ha : 8 < h.aop) : s.serveAtomic p h body = s.modPort p Port.error := by
  rw [State.serveAtomic, atomOfCode_unassigned ha]

/-- The atomic a packet asks for, where it is allowed. -/
def State.peerAtomAt (s : State) (h : Head) (body : List Nat) (o : AtomOp) (off : Nat) :
    Except Nat (List Byte × List Byte × State) :=
  let ty := ityOfCode h.atype
  let m := ty.width / 8
  s.atomAt none 0 [] h.table off o ty (BitVec.ofNat 64 (leNat ((payloadBytes body).take m)))
    (BitVec.ofNat 64 (leNat (((payloadBytes body).drop m).take m))) (peerScope h) State.writeHome

theorem eq_of_ite_error {ε α : Type} {c : Prop} [Decidable c] {a e : ε} {x : α}
    (h : (if c then Except.error a else Except.ok x) = Except.error e) : e = a := by
  by_cases hc : c
  · rw [if_pos hc] at h
    exact (Except.error.inj h).symm
  · rw [if_neg hc] at h
    cases h

section
variable {s : State} {who : Option (Nat × Nat)} {id base off : Nat} {stores : List (Nat × Byte)} {op : AtomOp} {ty : ITy} {a b : Word64}
  {inst : ScopeTag} {write : State → Nat → List Byte → State}

theorem State.atomAt_stamped (hst : s.isStamped (s.tensorAddr base off) (ty.width / 8) = true) :
    s.atomAt who id stores base off op ty a b inst write = .error 0x24 := if_pos hst

theorem State.atomAt_error {e : Nat} (hst : s.isStamped (s.tensorAddr base off) (ty.width / 8) = false)
    (he : s.atomAt who id stores base off op ty a b inst write = .error e) : e = 0x30 := by
  unfold State.atomAt at he
  dsimp only at he
  rw [hst, if_neg Bool.false_ne_true] at he
  exact eq_of_ite_error he

end

theorem atomic_served {o : AtomOp} (hop : atomOfCode h.aop = some o) (m : Nat) (hm : m = (ityOfCode h.atype).width / 8) :
    (∀ e, s.served h m true = .error e → s.serveAtomic p h body = s.answer p h 6 e []) ∧
    (∀ off, s.served h m true = .ok off → s.isStamped (s.tensorAddr h.table off) m = true →
      s.serveAtomic p h body = s.answer p h 6 1 []) ∧
    (∀ off e, s.served h m true = .ok off → s.isStamped (s.tensorAddr h.table off) m = false →
      s.peerAtomAt h body o off = .error e → s.serveAtomic p h body = s.answer p h 6 4 []) ∧
    (∀ off old new u, s.served h m true = .ok off → s.peerAtomAt h body o off = .ok (old, new, u) →
      s.serveAtomic p h body = u.answer p h 6 0 old) := by
  subst hm
  have herr : ∀ off e, s.served h ((ityOfCode h.atype).width / 8) true = .ok off → s.peerAtomAt h body o off = .error e →
      s.serveAtomic p h body = s.answer p h 6 (if e = 0x24 then 1 else 4) [] := by
    intro off e ho he
    unfold State.peerAtomAt at he
    simp only [State.serveAtomic, hop, ho, he]
  refine ⟨fun e he => ?_, fun off ho hst => ?_, fun off e ho hst he => ?_, fun off old new u ho hd => ?_⟩
  · simp only [State.serveAtomic, hop, he]
  · rw [herr off 0x24 ho (State.atomAt_stamped hst), if_pos rfl]
  · rw [herr off e ho he, State.atomAt_error hst he]
    rfl
  · unfold State.peerAtomAt at hd
    simp only [State.serveAtomic, hop, ho, hd]

end

/-- Settles O59: the checks of a request, and what each kind of request does. -/
theorem peersServed : Obligations.PeersServed := by
  unfold Obligations.PeersServed
  refine ⟨request_checks, fun s p op h body hop => ?_⟩
  subst hop
  refine ⟨fun ho => ?_, fun ho => ?_, fun ho ha => ?_, fun ho o hatom => ?_, fun ho => State.perform_drain ho,
    fun ho => State.perform_unassigned s p h body ho⟩
  · rw [State.perform_read ho]
    exact read_served
  · obtain ⟨herr, hst, hok⟩ := write_served (s := s) (p := p) (h := h) (body := body)
    rw [State.perform_write ho]
    refine ⟨herr, hst, fun off hoff hns hlen hwf => ⟨_, hok off hoff hns, rfl, ?_⟩⟩
    have hl : ((payloadBytes body).take (h.count + 1)).length = h.count + 1 := by
      rw [List.length_take, length_payloadBytes]
      omega
    exact State.writeHome_stores hwf _ _ hl
  · rw [State.perform_atomic ho]
    exact serveAtomic_unassigned ha
  · rw [State.perform_atomic ho]
    exact atomic_served hatom _ rfl

end Sys2Proof.Machine

end

section
/-! SUPPORT. Host commands answered, queries and the commands to Rainfly. -/

namespace Sys2Proof.Machine

open Sys2Proof.Claims

-- Taking up and answering a command (R197).

section
variable {s r : State} {fn code : Nat} {k : CmdBlock} {st : Nat} {res : List (Nat × List Byte)}

theorem answered_complete (h : r.cmd? fn = some k) : Answered r (r.complete fn st res) fn k st res := by
  rw [State.complete_eq h]
  exact ⟨rfl, rfl, rfl⟩

/-- A command completes from a state in which its queue stands as it was. -/
theorem answered_completes (hk : s.cmd? fn = some k) (h1 : r.cmds = s.cmds) (h2 : r.returned = s.returned) (h3 : r.msix = s.msix) :
    Answered s (r.complete fn st res) fn k st res := by
  obtain ⟨hc, hm, hr⟩ := answered_complete (r := r) (st := st) (res := res) ((congrArg (List.find? _) h1).trans hk)
  exact ⟨h1 ▸ hc, h3 ▸ hm, h2 ▸ hr⟩

theorem refusesFrom_complete {i : Instr} (h : r.cmd? fn = some k) (hex : exec i s = .next (r.complete fn st res)) :
    RefusesFrom s r i fn k st :=
  ⟨_, hex, ⟨res, answered_complete h⟩, State.complete_frame r fn st res⟩

theorem onCommand_of {f : CmdBlock → State} (h : Command s fn code k) : s.onCommand fn (· == code) f = .next (f k) := by
  obtain ⟨hr, hk, hn, hc⟩ := h
  exact State.onCommand_run f hr hk hn (by simp [hc])

theorem ctxCommand_of {x : Context} {used : List (Nat × Nat)} {ok : CmdBlock → Bool} {f : CmdBlock → Context → State}
    (h : InContext s fn code k x used) (hok : ok k = true) : s.ctxCommand fn code used ok f = .next (f k x) := by
  obtain ⟨⟨hr, hk, hn, hc⟩, hx, hfn, hfat, hcl⟩ := h
  exact State.ctxCommand_run f hr hk hn hc hx hfn hfat hcl hok

theorem cmd?_of_command (h : Command s fn code k) : s.cmd? fn = some k := h.2.1

end

-- The bytes of an answer.

theorem length_setBytes {bs v : List Byte} {off : Nat} (h : off + v.length ≤ bs.length) :
    (setBytes bs off v).length = bs.length := by
  simp only [setBytes, List.length_append, List.length_take, List.length_drop]
  omega

theorem getD_setBytes {bs v : List Byte} {off : Nat} (h : off + v.length ≤ bs.length) (j : Nat) :
    (setBytes bs off v).getD j 0 = if off ≤ j ∧ j < off + v.length then v.getD (j - off) 0 else bs.getD j 0 := by
  have hl : (bs.take off).length = off := by rw [List.length_take]; omega
  rw [setBytes, List.append_assoc]
  by_cases h1 : j < off
  · rw [List.getD_append _ _ _ _ (by omega), if_neg (by omega)]
    simp [List.getD, h1]
  · rw [List.getD_append_right _ _ _ _ (by omega), hl]
    by_cases h2 : j < off + v.length
    · rw [List.getD_append _ _ _ _ (by omega), if_pos ⟨by omega, h2⟩]
    · rw [List.getD_append_right _ _ _ _ (by omega), if_neg (by omega)]
      simp only [List.getD, List.getElem?_drop]
      congr 2
      omega

theorem cut_setBytes_same {bs v : List Byte} {off : Nat} (h : off + v.length ≤ bs.length) :
    ((setBytes bs off v).drop off).take v.length = v := by
  have hl : (bs.take off).length = off := by rw [List.length_take]; omega
  rw [setBytes, List.append_assoc, List.drop_left' hl, List.take_left' rfl]

/-- The block of a command that has completed: what stands where (R197). -/
theorem answer_bytes (k : CmdBlock) (status off : Nat) (v : List Byte) (hk : k.bytes.length = 128) (hoff : 16 ≤ off)
    (hv : off + v.length ≤ 128) :
    (answer k status [(off, v)]).length = 128 ∧
    ((answer k status [(off, v)]).drop 12).take 4 = leBytes 4 status ∧ ((answer k status [(off, v)]).drop off).take v.length = v ∧
    (answer k status [(off, v)]).getD 2 0 = k.bytes.getD 2 0 &&& 0xFE ∧
    ∀ j, j ≠ 2 → j < 12 ∨ (16 ≤ j ∧ (j < off ∨ off + v.length ≤ j)) →
      (answer k status [(off, v)]).getD j 0 = k.bytes.getD j 0 := by
  have h4 : (leBytes 4 status).length = 4 := length_leBytes 4 status
  have hl1 : (setBytes k.bytes off v).length = 128 := (length_setBytes (by omega)).trans hk
  have hl2 : (setBytes (setBytes k.bytes off v) 12 (leBytes 4 status)).length = 128 := (length_setBytes (by omega)).trans hl1
  have hget : ∀ j, (setBytes (setBytes k.bytes off v) 12 (leBytes 4 status)).getD j 0 =
      if 12 ≤ j ∧ j < 16 then (leBytes 4 status).getD (j - 12) 0
      else if off ≤ j ∧ j < off + v.length then v.getD (j - off) 0 else k.bytes.getD j 0 := fun j => by
    rw [getD_setBytes (by omega), h4, getD_setBytes (by omega)]
  have hset : ∀ (l : List Byte) (x : Byte) (m : Nat), 2 < m → (l.set 2 x).drop m = l.drop m := fun l x m hm =>
    List.drop_set_of_lt hm
  have hans : answer k status [(off, v)] = (setBytes (setBytes k.bytes off v) 12 (leBytes 4 status)).set 2
      ((setBytes (setBytes k.bytes off v) 12 (leBytes 4 status)).getD 2 0 &&& 0xFE) := rfl
  rw [hans]
  refine ⟨by rw [List.length_set, hl2], ?_, ?_, ?_, fun j hj hout => ?_⟩
  · rw [hset _ _ _ (by decide)]
    have := cut_setBytes_same (bs := setBytes k.bytes off v) (v := leBytes 4 status) (off := 12) (by omega)
    rwa [h4] at this
  · rw [hset _ _ _ (by omega)]
    refine List.ext_getElem ?_ fun i h1 h2 => ?_
    · rw [List.length_take, List.length_drop, hl2]; omega
    · have hi := hget (off + i)
      rw [if_neg (by omega), if_pos (by omega), Nat.add_sub_cancel_left] at hi
      simpa [List.getD, h2, hl2, show off + i < 128 by omega] using hi
  · rw [getD_set_eq_ite (by omega), if_pos rfl, hget 2, if_neg (by omega), if_neg (by omega)]
  · rw [getD_set_eq_ite (by omega), if_neg hj, hget j, if_neg (by omega), if_neg (by omega)]

theorem getLsbD_and_FE (x : Byte) (j : Nat) : (x &&& 0xFE).getLsbD j = (x.getLsbD j && decide (0 < j)) := by
  by_cases hj : j < 8
  · interval_cases j <;> simp [BitVec.getLsbD_and]
  · rw [BitVec.getLsbD_of_ge _ _ (by omega), BitVec.getLsbD_of_ge _ _ (by omega), Bool.false_and]

-- The checks of a command in their order (log entry 46).

section
variable {s : State} {fn code : Nat} {k : CmdBlock} {i : Instr}

theorem ctxCommand_refuses {used : List (Nat × Nat)} {ok : CmdBlock → Bool} {f : CmdBlock → Context → State} (h : Command s fn code k)
    (hex : exec i s = s.ctxCommand fn code used ok f) :
    (s.ctx? (k.num 4 4) = none → Refuses s i fn k (if k.num 4 4 < 64 then 2 else 1)) ∧
    (∀ x, s.ctx? (k.num 4 4) = some x → x.fn ≠ fn → Refuses s i fn k 2) ∧
    (∀ x f, s.ctx? (k.num 4 4) = some x → x.fn = fn → x.fatal = some f →
      (s.fatalKept x.num = true → ∃ t, exec i s = .next t ∧ Answered s t fn k 11 [(64, f.bytes)] ∧ t.mem = s.mem) ∧
      (s.fatalKept x.num = false → exec i s = .next (s.fatalStep x.num))) := by
  have hcmd := cmd?_of_command h
  have hex' := hex.trans (onCommand_of h)
  refine ⟨fun hx => refusesFrom_complete (res := []) hcmd (hex'.trans ?_),
    fun x hx hfn => refusesFrom_complete (res := []) hcmd (hex'.trans ?_), fun x f hx hfn hf => ?_⟩
  · simp only [State.withCtx, hx]
  · simp [State.withCtx, hx, hfn]
  · have hrep : exec i s = .next (s.reportFatal fn x.num f) := by
      rw [hex']
      simp [State.withCtx, hx, hfn, hf]
    refine ⟨fun hk => ⟨s.complete fn 11 [(64, f.bytes)], hrep.trans ?_, answered_complete hcmd, ?_⟩, fun hk => hrep.trans ?_⟩
    · rw [State.reportFatal, if_pos hk]; rfl
    · rw [State.complete_frame]
    · rw [State.reportFatal, if_neg (by simp [hk])]

theorem pfCommand_refuses {used : List (Nat × Nat)} {ok : CmdBlock → Bool} {f : CmdBlock → State} (h : Command s fn code k)
    (hfn : fn ≠ 0) (hex : exec i s = s.pfCommand fn code used ok f) : Refuses s i fn k 2 := by
  refine refusesFrom_complete (res := []) (cmd?_of_command h) (hex.trans ((onCommand_of h).trans ?_))
  simp [hfn]

theorem unassignedCommand_refused (h : Command s fn code k) (hc : code = 0 ∨ 20 ≤ code ∨ (code = 14 ∧ 5 < k.num 16 1)) :
    Refuses s (.unassignedCommand fn) fn k 1 := by
  obtain ⟨hr, hk, hn, hcode⟩ := h
  refine refusesFrom_complete (res := []) hk ?_
  dsimp only [exec, execUnassignedCommand]
  rw [hk]
  refine congrArg Host.Outcome.next (if_pos ?_)
  simpa [hr, hn, hcode, or_assoc] using hc

end

/-- Settles O36: the bytes of an answer, and the checks of a command in their order. -/
theorem commandsAnswered : Obligations.CommandsAnswered := by
  unfold Obligations.CommandsAnswered
  refine ⟨fun k status off v hk hs hoff hv => ?_, fun s fn code k i h hi => ?_, fun s fn code k i h hfn hi => ?_,
    fun s fn code k => unassignedCommand_refused⟩
  · obtain ⟨hlen, hst, hres, h2, hrest⟩ := answer_bytes k status off v hk hoff hv
    refine ⟨hlen, ?_, hres, ?_, fun j hj => ?_, hrest⟩
    · rw [hst, leNat_leBytes (by omega)]
    · rw [h2, getLsbD_and_FE]; simp
    · rw [h2, getLsbD_and_FE]; simp [hj]
  · simp only [List.mem_cons, Prod.mk.injEq, List.not_mem_nil, or_false] at hi
    rcases hi with ⟨rfl, rfl⟩ | ⟨rfl, rfl⟩ | ⟨rfl, rfl⟩ | ⟨rfl, rfl⟩ | ⟨rfl, rfl⟩ | ⟨rfl, rfl⟩ | ⟨rfl, rfl⟩ | ⟨rfl, rfl⟩ | ⟨rfl, rfl⟩
    all_goals exact ctxCommand_refuses h rfl
  · simp only [List.mem_cons, Prod.mk.injEq, List.not_mem_nil, or_false] at hi
    rcases hi with ⟨rfl, rfl⟩ | ⟨rfl, rfl⟩ | ⟨rfl, rfl⟩
    all_goals exact pfCommand_refuses h hfn rfl

end Sys2Proof.Machine

namespace Sys2Proof.Machine

open Sys2Proof.Claims

-- The replies to the host's queries (R201).

/-- A field written behind what has been written, over zeros. -/
theorem setBytes_zeros {pre v : List Byte} {m off : Nat} (h1 : pre.length ≤ off) (h2 : off + v.length ≤ pre.length + m) :
    setBytes (pre ++ List.replicate m 0) off v =
      pre ++ List.replicate (off - pre.length) 0 ++ v ++ List.replicate (m - (off - pre.length) - v.length) 0 := by
  rw [setBytes, List.take_append, List.take_of_length_le h1, List.drop_append, List.drop_of_length_le (by omega), List.nil_append,
    List.take_replicate, List.drop_replicate, Nat.min_eq_left (by omega),
    show m - (off - pre.length) - v.length = m - (off + v.length - pre.length) by omega]

theorem setBytes_first {v : List Byte} {m : Nat} (h : v.length ≤ m) :
    setBytes (List.replicate m 0) 0 v = v ++ List.replicate (m - v.length) 0 := by
  have := setBytes_zeros (pre := []) (v := v) (m := m) (off := 0) (by simp) (by simpa using h)
  simpa using this

section
variable {s : State} {fn kind : Nat} {k : CmdBlock}

theorem onQuery_of {f : CmdBlock → State} (h : Command s fn 14 k) (hk : k.num 16 1 = kind)
    (hcl : k.clean [(16, 17), (24, 32)] = true) (h4 : kind ≠ 4) : s.onQuery fn kind f = .next (f k) := by
  obtain ⟨hr, hc, hn, hcode⟩ := h
  simp only [State.onQuery, hc, hr, hn, hcode, hk, hcl]
  simp [h4]

theorem onQuery_of_ctx {x : Context} {f : CmdBlock → State} (h : Command s fn 14 k) (hk : k.num 16 1 = 4)
    (hcl : k.clean [(16, 17), (24, 32)] = true) (hx : s.ctx? (k.num 4 4) = some x) (hfn : x.fn = fn) (hfat : x.fatal = none) :
    s.onQuery fn 4 f = .next (f k) := by
  obtain ⟨hr, hc, hn, hcode⟩ := h
  simp only [State.onQuery, hc, hr, hn, hcode, hk, hcl, State.withCtx_run _ hx hfn hfat]
  simp

theorem replies_of {i : Instr} {n : Nat} {fields : List (Nat × List Byte)} {bs : List Byte} (h : s.cmd? fn = some k)
    (hwf : s.mem.wf = true) (hex : exec i s = .next (s.reply fn k n fields))
    (hbs : fields.foldl (fun b f => setBytes b f.1 f.2) (List.replicate n 0) = bs) : Replies s i fn k bs := by
  have hmem : (s.reply fn k n fields).mem = s.mem.writeBytes (k.num 24 8) bs := by
    rw [State.reply, hbs, State.complete_frame]
  refine ⟨_, hex, answered_complete (by exact h), fun j hj => ?_, fun a ha => ?_⟩
  · rw [hmem, Memory.read_writeBytes_at _ j bs hwf hj]
    simp [List.getD, hj]
  · rw [hmem, Memory.read_writeBytes_other _ a bs hwf ha]

/-- The entries of the sixteen ports, one after the other. -/
theorem rows_layout (f : Nat → List Byte) (hf : ∀ i, (f i).length = 24) (n : Nat) (hn : n ≤ 16) :
    ((List.range n).map fun i => (32 * i, f i)).foldl (fun b x => setBytes b x.1 x.2) (List.replicate 512 0) =
      ((List.range n).flatMap fun i => f i ++ List.replicate 8 0) ++ List.replicate (512 - 32 * n) 0 := by
  induction n with
  | zero => rfl
  | succ n ih =>
    have hl : ((List.range n).flatMap fun i => f i ++ List.replicate 8 0).length = 32 * n := by
      simp [List.length_flatMap, hf, Nat.mul_comm]
    rw [List.range_succ, List.map_append, List.foldl_append, ih (by omega), List.flatMap_append]
    simp only [List.map_cons, List.map_nil, List.foldl_cons, List.foldl_nil, List.flatMap_cons, List.flatMap_nil, List.append_nil]
    rw [setBytes_zeros (by omega) (by rw [hf, hl]; omega), hl, hf, Nat.sub_self, List.replicate_zero, List.append_nil]
    simp only [List.append_assoc, List.append_cancel_left_eq, List.replicate_append_replicate]
    congr 1
    omega

end

theorem length_flatMap_const {α β : Type} (l : List α) (f : α → List β) (c : Nat) (hf : ∀ a, (f a).length = c) :
    (l.flatMap f).length = c * l.length := by
  simp [List.length_flatMap, hf, Nat.mul_comm]

theorem leBytes_two_one : leBytes 2 1 = [1, 0] := rfl

section
variable {s : State} {fn : Nat} {k : CmdBlock}

theorem part_replies (h : Command s fn 14 k) (hk : k.num 16 1 = 0) (hcl : k.clean [(16, 17), (24, 32)] = true)
    (hwf : s.mem.wf = true) : Replies s (.queryPart fn) fn k
      ([BitVec.ofNat 8 s.part, BitVec.ofNat 8 s.rainfly.lastStop, 1, 0, BitVec.ofNat 8 s.usable.length,
        BitVec.ofNat 8 (stackMask fun i => s.usable.contains i), BitVec.ofNat 8 (stackMask fun i => (s.stack? i).fused),
        BitVec.ofNat 8 (stackMask fun i => (s.stack? i).excluded), BitVec.ofNat 8 s.rainfly.fuses] ++ List.replicate 7 0 ++
       leBytes 16 deviceId ++ leBytes 8 (2 ^ 40 - s.rainfly.leaf) ++ List.replicate 216 0) := by
  refine replies_of h.2.1 hwf (onQuery_of h hk hcl (by decide)) ?_
  simp only [List.foldl_cons, List.foldl_nil]
  rw [setBytes_first (by simp [length_leBytes]), setBytes_zeros (by simp [length_leBytes]) (by simp [length_leBytes]),
    setBytes_zeros (by simp [length_leBytes]) (by simp [length_leBytes])]
  simp [length_leBytes, leBytes_two_one, -List.contains_eq_mem]

theorem ground_replies (h : Command s fn 14 k) (hk : k.num 16 1 = 1) (hcl : k.clean [(16, 17), (24, 32)] = true)
    (hwf : s.mem.wf = true) : Replies s (.queryGround fn) fn k
      ((List.range 4).flatMap (fun i => leBytes 2 (if (s.stack? i).fused then 0xFFFF else s.rainfly.carve.getD i 0)) ++
        List.replicate 248 0) := by
  refine replies_of h.2.1 hwf (onQuery_of h hk hcl (by decide)) ?_
  have hl := length_flatMap_const (List.range 4)
    (fun i => leBytes 2 (if (s.stack? i).fused then 0xFFFF else s.rainfly.carve.getD i 0)) 2 fun _ => length_leBytes _ _
  rw [List.length_range] at hl
  simp only [List.foldl_cons, List.foldl_nil]
  rw [setBytes_first (by omega), hl]

theorem time_replies (h : Command s fn 14 k) (hk : k.num 16 1 = 2) (hcl : k.clean [(16, 17), (24, 32)] = true)
    (hwf : s.mem.wf = true) : Replies s (.queryTime fn) fn k
      ([BitVec.ofNat 8 (if s.tb.accepted then s.tb.source.getD 0xFF else 0xFF),
        BitVec.ofNat 8 (s.tb.lastRej.bit + 2 * (decide (10 ^ 12 ≤ s.tb.refAge)).bit), 0, 0] ++ leBytes 4 s.tb.limit ++
       leBytes 8 (s.tb.refAge / 1000) ++ leBytes 4 (min s.tb.rejected 0xFFFFFFFF) ++ List.replicate 4 0 ++
       (List.range 4).flatMap (fun i => leBytes 4 (if s.usable.contains i then (s.stack? i).usync else 0xFFFFFFFF)) ++
       (List.range 4).flatMap (fun i => leBytes 4 (if s.usable.contains i then (s.stack? i).transit else 0xFFFFFFFF)) ++
       List.replicate 200 0) := by
  refine replies_of h.2.1 hwf (onQuery_of h hk hcl (by decide)) ?_
  have hl : ∀ f : Stack → Nat, ((List.range 4).flatMap fun i =>
      leBytes 4 (if s.usable.contains i then f (s.stack? i) else 0xFFFFFFFF)).length = 16 := fun f =>
    length_flatMap_const _ _ 4 fun _ => length_leBytes _ _
  have hl1 := hl (·.usync)
  have hl2 := hl (·.transit)
  simp only [List.foldl_cons, List.foldl_nil]
  generalize ((List.range 4).flatMap fun i => leBytes 4 (if s.usable.contains i then (s.stack? i).usync else 0xFFFFFFFF)) = a at *
  generalize ((List.range 4).flatMap fun i => leBytes 4 (if s.usable.contains i then (s.stack? i).transit else 0xFFFFFFFF)) = b at *
  rw [setBytes_first (by simp), setBytes_zeros (by simp) (by simp [length_leBytes]),
    setBytes_zeros (by simp [length_leBytes]) (by simp [length_leBytes]),
    setBytes_zeros (by simp [length_leBytes]) (by simp [length_leBytes]),
    setBytes_zeros (by simp [length_leBytes]) (by simp [length_leBytes, hl1]),
    setBytes_zeros (by simp [length_leBytes, hl1]) (by simp [length_leBytes, hl1, hl2])]
  simp [length_leBytes, hl1, hl2]

theorem power_replies (h : Command s fn 14 k) (hk : k.num 16 1 = 3) (hcl : k.clean [(16, 17), (24, 32)] = true)
    (hwf : s.mem.wf = true) : Replies s (.queryPower fn) fn k
      ((List.range 4).flatMap (fun i => leBytes 2 (if s.usable.contains i then s.rainfly.budget.getD i 0 else 0xFFFF)) ++
       (List.range 16).flatMap (fun i => leBytes 2 (if s.usable.contains (i / 4) then s.rainfly.base.getD i 0 else 0xFFFF)) ++
       (List.range 16).flatMap (fun i => leBytes 4 (if s.usable.contains (i / 4) then s.rainfly.emax.getD i 0 else 0xFFFFFFFF)) ++
       List.replicate 152 0) := by
  refine replies_of h.2.1 hwf (onQuery_of h hk hcl (by decide)) ?_
  have hl1 : ((List.range 4).flatMap fun i =>
      leBytes 2 (if s.usable.contains i then s.rainfly.budget.getD i 0 else 0xFFFF)).length = 8 :=
    length_flatMap_const _ _ 2 fun _ => length_leBytes _ _
  have hl2 : ((List.range 16).flatMap fun i =>
      leBytes 2 (if s.usable.contains (i / 4) then s.rainfly.base.getD i 0 else 0xFFFF)).length = 32 :=
    length_flatMap_const _ _ 2 fun _ => length_leBytes _ _
  have hl3 : ((List.range 16).flatMap fun i =>
      leBytes 4 (if s.usable.contains (i / 4) then s.rainfly.emax.getD i 0 else 0xFFFFFFFF)).length = 64 :=
    length_flatMap_const _ _ 4 fun _ => length_leBytes _ _
  simp only [List.foldl_cons, List.foldl_nil]
  generalize ((List.range 4).flatMap fun i =>
    leBytes 2 (if s.usable.contains i then s.rainfly.budget.getD i 0 else 0xFFFF)) = a at *
  generalize ((List.range 16).flatMap fun i =>
    leBytes 2 (if s.usable.contains (i / 4) then s.rainfly.base.getD i 0 else 0xFFFF)) = b at *
  generalize ((List.range 16).flatMap fun i =>
    leBytes 4 (if s.usable.contains (i / 4) then s.rainfly.emax.getD i 0 else 0xFFFFFFFF)) = c at *
  rw [setBytes_first (by omega), setBytes_zeros (by omega) (by omega),
    setBytes_zeros (by simp [hl1, hl2]) (by simp [hl1, hl2, hl3])]
  simp [hl1, hl2, hl3]

theorem vdie_replies {x : Context} (h : Command s fn 14 k) (hk : k.num 16 1 = 4) (hcl : k.clean [(16, 17), (24, 32)] = true)
    (hwf : s.mem.wf = true) (hx : s.ctx? (k.num 4 4) = some x) (hfn : x.fn = fn) (hfat : x.fatal = none) :
    Replies s (.queryVdie fn) fn k
      (leBytes 4 x.mapVer ++ [BitVec.ofNat 8 x.vdies.length, 0, 0, 0] ++
       (List.range 4).flatMap (fun v => [BitVec.ofNat 8 (x.vdies.getD v 0xFF)]) ++ List.replicate 244 0) := by
  have hex := onQuery_of_ctx (f := fun k => match s.ctx? (k.num 4 4) with
    | none => s.complete fn 2 []
    | some x =>
      s.reply fn k 256
        [(0, leBytes 4 x.mapVer), (4, [BitVec.ofNat 8 x.vdies.length]),
         (8, (List.range 4).map fun v => BitVec.ofNat 8 (x.vdies.getD v 0xFF))]) h hk hcl hx hfn hfat
  rw [hx] at hex
  refine replies_of h.2.1 hwf hex ?_
  have hflat : (List.range 4).flatMap (fun v => [BitVec.ofNat 8 (x.vdies.getD v 0xFF)]) =
      (List.range 4).map fun v => BitVec.ofNat 8 (x.vdies.getD v 0xFF) := List.flatMap_pure_eq_map _ _
  rw [hflat]
  simp only [List.foldl_cons, List.foldl_nil]
  rw [setBytes_first (by simp [length_leBytes]), setBytes_zeros (by simp [length_leBytes]) (by simp [length_leBytes]),
    setBytes_zeros (by simp [length_leBytes]) (by simp [length_leBytes])]
  simp [length_leBytes]

theorem ports_replies (h : Command s fn 14 k) (hk : k.num 16 1 = 5) (hcl : k.clean [(16, 17), (24, 32)] = true)
    (hwf : s.mem.wf = true) : Replies s (.queryPorts fn) fn k
      ((List.range 16).flatMap fun i => [BitVec.ofNat 8 (s.port i).state, BitVec.ofNat 8 (s.port i).partner] ++
        leBytes 2 (min (s.port i).retrains 0xFFFF) ++ leBytes 4 (min (s.port i).naks 0xFFFFFFFF) ++
        leBytes 16 (if (s.port i).state = 2 then (s.port i).partnerDev else 0) ++ List.replicate 8 0) := by
  refine replies_of h.2.1 hwf (onQuery_of h hk hcl (by decide)) ?_
  have := rows_layout (fun i => [BitVec.ofNat 8 (s.port i).state, BitVec.ofNat 8 (s.port i).partner] ++
        leBytes 2 (min (s.port i).retrains 0xFFFF) ++ leBytes 4 (min (s.port i).naks 0xFFFFFFFF) ++
        leBytes 16 (if (s.port i).state = 2 then (s.port i).partnerDev else 0)) (fun i => by simp [length_leBytes]) 16 le_rfl
  rw [Nat.sub_self, List.replicate_zero, List.append_nil] at this
  exact this

end

/-- Settles O42: each reply is its fields, one behind the other over zeros. -/
theorem queries : Obligations.Queries := by
  unfold Obligations.Queries
  intro s fn kind k h hk hcl hwf
  subst hk
  exact ⟨fun hk => part_replies h hk hcl hwf, fun hk => ground_replies h hk hcl hwf, fun hk => time_replies h hk hcl hwf,
    fun hk => power_replies h hk hcl hwf, fun x hk hx hfn hfat => vdie_replies h hk hcl hwf hx hfn hfat,
    fun hk => ports_replies h hk hcl hwf⟩

end Sys2Proof.Machine

namespace Sys2Proof.Machine

open Sys2Proof.Claims

-- Rainfly's records (R227, R228).

@[simp] theorem Ckpt.length_bytes (k : Ckpt) : k.bytes.length = 128 := by
  simp [Ckpt.bytes, length_leBytes]

theorem Rainfly.keep_ring (r : Rainfly) (k : Ckpt) : (r.keep k).ring = (r.ring ++ [k]).drop (r.ring.length - 2047) := by
  simp only [Rainfly.keep]

theorem Rainfly.mem_ring_keep (r : Rainfly) (k : Ckpt) : k ∈ (r.keep k).ring := by
  rw [Rainfly.keep_ring, List.drop_append_of_le_length (Nat.sub_le _ _)]
  simp

theorem Rainfly.length_ring_keep (r : Rainfly) (k : Ckpt) : (r.keep k).ring.length ≤ 2048 := by
  rw [Rainfly.keep_ring, List.length_drop, List.length_append, List.length_singleton]
  omega

theorem Rainfly.mem_latest_keep (r : Rainfly) (k : Ckpt) : k ∈ (r.keep k).latest := by
  have hr : (r.keep k).ring = r.ring.drop (r.ring.length - 2047) ++ [k] := by
    rw [Rainfly.keep_ring, List.drop_append_of_le_length (Nat.sub_le _ _)]
  rw [Rainfly.latest, hr, List.drop_append_of_le_length (by rw [List.length_append, List.length_singleton]; omega)]
  simp

@[simp] theorem Rainfly.sign_ring (r : Rainfly) (k : Ckpt) : (r.sign k).ring = r.ring := by simp only [Rainfly.sign]
@[simp] theorem Rainfly.sign_reqs (r : Rainfly) (k : Ckpt) : (r.sign k).reqs = r.reqs := by simp only [Rainfly.sign]

theorem Rainfly.mem_signed_sign {r : Rainfly} {k : Ckpt} (h : k ∈ r.latest) :
    (k.seq, Config.xmssSign r.leaf k.bytes) ∈ (r.sign k).signed := by
  have : (r.sign k).signed = if r.latest.contains k then r.signed ++ [(k.seq, Config.xmssSign r.leaf k.bytes)] else r.signed := by
    simp only [Rainfly.sign]
  rw [this, if_pos (List.contains_iff_mem.2 h)]
  exact List.mem_append_right _ (List.mem_singleton.2 rfl)

-- A requested record (R227, R393).

/-- The oldest requested record has entered the NV store, signed. -/
def State.recorded (s : State) (q : CkptReq) (rest : List CkptReq) : State :=
  { s with rainfly := (({ s.rainfly with reqs := rest } : Rainfly).keep q.body).sign q.body }

/-- No record is made of the oldest request. -/
def State.unrecorded (s : State) (rest : List CkptReq) : State := { s with rainfly := { s.rainfly with reqs := rest } }

/-- Whoever asked for a record hears of its end. -/
def State.tellCkpt (s : State) (f : CkptFor) (outcome status value : Nat) (res : List (Nat × List Byte)) : State :=
  match f with
  | .nobody => s
  | .handle block h => s.resolve block h outcome value false
  | .command fn => s.complete fn status res

section
variable {s : State} {q : CkptReq} {rest : List CkptReq}

theorem exec_checkpointRecord_eq (h : s.rainfly.reqs = q :: rest) :
    exec .checkpointRecord s = .next (if q.stamped && !s.diesAbove q.body.stamp then s
      else if s.leafLeft then (s.recorded q rest).tellCkpt q.for_ 1 0 q.body.seq [(24, leBytes 8 q.body.seq)]
      else (s.unrecorded rest).tellCkpt q.for_ 4 8 0 []) := by
  dsimp only [exec, execCheckpointRecord]
  rw [h]
  rfl

theorem exec_checkpointRecord_waits (h : s.rainfly.reqs = q :: rest) (h1 : q.stamped = true)
    (h2 : s.diesAbove q.body.stamp = false) : exec .checkpointRecord s = .next s := by
  rw [exec_checkpointRecord_eq h, if_pos (by simp [h1, h2])]

theorem exec_checkpointRecord_signs (h : s.rainfly.reqs = q :: rest)
    (h1 : q.stamped = false ∨ s.diesAbove q.body.stamp = true) (hl : s.leafLeft = true) :
    exec .checkpointRecord s =
      .next ((s.recorded q rest).tellCkpt q.for_ 1 0 q.body.seq [(24, leBytes 8 q.body.seq)]) := by
  rw [exec_checkpointRecord_eq h, if_neg (by rcases h1 with h1 | h1 <;> simp [h1]), if_pos hl]

theorem exec_checkpointRecord_noLeaf (h : s.rainfly.reqs = q :: rest)
    (h1 : q.stamped = false ∨ s.diesAbove q.body.stamp = true) (hl : s.leafLeft = false) :
    exec .checkpointRecord s = .next ((s.unrecorded rest).tellCkpt q.for_ 4 8 0 []) := by
  rw [exec_checkpointRecord_eq h, if_neg (by rcases h1 with h1 | h1 <;> simp [h1]), if_neg (by simp [hl])]

@[simp] theorem State.tellCkpt_rainfly (f : CkptFor) (o st v : Nat) (res : List (Nat × List Byte)) :
    (s.tellCkpt f o st v res).rainfly = s.rainfly := by
  cases f with
  | nobody => rfl
  | handle b h => rfl
  | command fn => rw [State.tellCkpt, State.complete_frame]

@[simp] theorem State.tellCkpt_mem (f : CkptFor) (o st v : Nat) (res : List (Nat × List Byte)) :
    (s.tellCkpt f o st v res).mem = s.mem := by
  cases f with
  | nobody => rfl
  | handle b h => rfl
  | command fn => rw [State.tellCkpt, State.complete_frame]

theorem State.mem_ring_recorded : q.body ∈ (s.recorded q rest).rainfly.ring := by
  rw [State.recorded, Rainfly.sign_ring]
  exact Rainfly.mem_ring_keep _ _

end

-- Grants (R223, R224).

section
variable {s : State} {fn : Nat} {k : CmdBlock} {x : Context} {bs : List Byte}

theorem grantCommand_of {counter : Bool} {f : List Byte → Context → State} (h : InContext s fn 4 k x [(16, 28)])
    (hlen : 244 ≤ (s.grantBlob k).length) (hkind : (num (s.grantBlob k) 0 1 == 2) = counter) :
    s.grantCommand fn counter f = .next (f (s.grantBlob k) x) := by
  obtain ⟨⟨hr, hk, hn, hc⟩, hx, hfn, hfat, hcl⟩ := h
  unfold State.grantCommand
  rw [hk]
  refine congrArg Host.Outcome.next ((if_pos ?_).trans ?_)
  · simp [hr, hn, hc, hkind]
  · rw [State.withCtx_run _ hx hfn hfat, if_pos (by simp [hcl, hlen])]

/-- A meter grant in place of an earlier one of its region (log entry 112). -/
def State.meterGranted (s : State) (x : Context) (bs : List Byte) (ms : List Meter) : State :=
  { s with rainfly := { s.rainfly with
      meters := ms
      grants := s.rainfly.grants.filter (fun q => !(q.ctx == x.num && q.region == num bs 4 4)) ++
        [{ ctx := x.num, region := num bs 4 4, number := num bs 8 8, readers := blobReaders bs }] } }

/-- The meter of a region that is new. -/
def newMeter (bs : List Byte) : Meter :=
  { region := num bs 4 4, value := 0, key := cut bs 180 64, newest := none, grant := num bs 8 8 }

theorem exec_meterGrant_eq (h : InContext s fn 4 k x [(16, 28)]) (hlen : 244 ≤ (s.grantBlob k).length)
    (hkind : num (s.grantBlob k) 0 1 ≠ 2) (hbs : bs = s.grantBlob k) :
    exec (.meterGrant fn) s = .next (if !meterBlobOk bs then s.complete fn 1 []
      else match s.rainfly.meters.find? fun m => m.region == num bs 4 4 with
        | some m =>
          if m.key != cut bs 180 64 then s.complete fn 1 []
          else (s.meterGranted x bs (s.rainfly.meters.map fun m =>
            if m.region = num bs 4 4 then { m with grant := num bs 8 8 } else m)).complete fn 0 []
        | none =>
          if 4096 ≤ s.rainfly.meters.length then s.complete fn 8 []
          else (s.meterGranted x bs (s.rainfly.meters ++ [newMeter bs])).complete fn 0 []) := by
  subst hbs
  dsimp only [exec, execMeterGrant]
  rw [grantCommand_of h hlen (beq_eq_false_iff_ne.2 hkind)]
  rfl

theorem find?_regrant (ms : List Meter) (r n : Nat) {m : Meter} (h : ms.find? (fun m => m.region == r) = some m) :
    (ms.map fun m => if m.region = r then { m with grant := n } else m).find? (fun m => m.region == r) =
      some { m with grant := n } := by
  have hr : m.region = r := by simpa using List.find?_some h
  have hsame : (fun m : Meter => m.region == r) ∘ (fun m => if m.region = r then { m with grant := n } else m) =
      fun m => m.region == r := by
    funext a
    by_cases ha : a.region = r <;> simp [ha]
  rw [List.find?_map, hsame, h, Option.map_some, if_pos hr]

theorem meter_granted (h : InContext s fn 4 k x [(16, 28)]) (hlen : 244 ≤ (s.grantBlob k).length)
    (hkind : num (s.grantBlob k) 0 1 ≠ 2) (hbs : bs = s.grantBlob k) (region : Nat) (hreg : region = num bs 4 4) (g : Grant)
    (hg : g = { ctx := x.num, region := region, number := num bs 8 8, readers := blobReaders bs }) (kept : List Grant)
    (hkept : kept = s.rainfly.grants.filter fun q => !(q.ctx == x.num && q.region == region)) :
    (meterBlobOk bs = false → Refuses s (.meterGrant fn) fn k 1) ∧
    (meterBlobOk bs = true →
      (∀ m, s.rainfly.meters.find? (fun m => m.region == region) = some m →
        (m.key ≠ cut bs 180 64 → Refuses s (.meterGrant fn) fn k 1) ∧
        (m.key = cut bs 180 64 → ∃ t, exec (.meterGrant fn) s = .next t ∧ Answered s t fn k 0 [] ∧
          t.rainfly.grants = kept ++ [g] ∧
          t.rainfly.meters.find? (fun m => m.region == region) = some { m with grant := num bs 8 8 })) ∧
      (s.rainfly.meters.find? (fun m => m.region == region) = none →
        (4096 ≤ s.rainfly.meters.length → Refuses s (.meterGrant fn) fn k 8) ∧
        (s.rainfly.meters.length < 4096 → ∃ t, exec (.meterGrant fn) s = .next t ∧ Answered s t fn k 0 [] ∧
          t.rainfly.grants = kept ++ [g] ∧
          t.rainfly.meters = s.rainfly.meters ++
            [{ region := region, value := 0, key := cut bs 180 64, newest := none, grant := num bs 8 8 }]))) := by
  subst hreg hg hkept
  have hex := exec_meterGrant_eq h hlen hkind hbs
  have hk : s.cmd? fn = some k := h.1.2.1
  refine ⟨fun hok => refusesFrom_complete (res := []) hk (hex.trans ?_), fun hok => ?_⟩
  · rw [if_pos (by simp [hok])]
  · rw [if_neg (by simp [hok])] at hex
    refine ⟨fun m hm => ?_, fun hm => ?_⟩
    · rw [hm] at hex
      dsimp only at hex
      refine ⟨fun hkey => refusesFrom_complete (res := []) hk (hex.trans ?_), fun hkey => ?_⟩
      · rw [if_pos (by simpa using hkey)]
      · rw [if_neg (by simpa using hkey)] at hex
        refine ⟨_, hex, answered_completes hk rfl rfl rfl, ?_, ?_⟩
        · rw [State.complete_frame]; rfl
        · rw [State.complete_frame]
          exact find?_regrant _ _ _ hm
    · rw [hm] at hex
      dsimp only at hex
      refine ⟨fun hl => refusesFrom_complete (res := []) hk (hex.trans ?_), fun hl => ?_⟩
      · rw [if_pos hl]
      · rw [if_neg (by omega)] at hex
        refine ⟨_, hex, answered_completes hk rfl rfl rfl, ?_, ?_⟩
        · rw [State.complete_frame]; rfl
        · rw [State.complete_frame]; rfl

end

-- Reading the records (R228).

@[simp] theorem Rainfly.length_exportRec (r : Rainfly) (k : Ckpt) : (r.exportRec k).1.length = 10240 := by
  unfold Rainfly.exportRec
  rw [List.length_take, List.length_append, List.length_append, List.length_replicate]
  omega

theorem Rainfly.getD_exportRec (r : Rainfly) (k : Ckpt) {j : Nat} (hj : j < 128) : (r.exportRec k).1.getD j 0 = k.bytes.getD j 0 := by
  have hl := Ckpt.length_bytes k
  unfold Rainfly.exportRec
  dsimp only
  rw [List.append_assoc, List.getD_eq_getElem?_getD, List.getElem?_take_of_lt (by omega),
    List.getElem?_append_left (by omega), List.getD_eq_getElem?_getD]

theorem Rainfly.leaf_exportRec (r : Rainfly) (k : Ckpt) : r.leaf ≤ (r.exportRec k).2.leaf := by
  unfold Rainfly.exportRec
  dsimp only
  split
  · exact le_rfl
  · split
    · rw [Rainfly.sign_leaf]
      exact Nat.le_succ _
    · exact le_rfl

/-- One record exported to its place. -/
def exportTo (base : Nat) (p : Memory × Rainfly) (q : Ckpt × Nat) : Memory × Rainfly :=
  (p.1.writeBytes (base + 10240 * q.2) (p.2.exportRec q.1).1, (p.2.exportRec q.1).2)

theorem exportTo_mem (base : Nat) (p : Memory × Rainfly) (k : Ckpt) (n : Nat) :
    (exportTo base p (k, n)).1 = p.1.writeBytes (base + 10240 * n) (p.2.exportRec k).1 := by
  simp only [exportTo]

theorem exportTo_rainfly (base : Nat) (p : Memory × Rainfly) (k : Ckpt) (n : Nat) :
    (exportTo base p (k, n)).2 = (p.2.exportRec k).2 := by
  simp only [exportTo]

/-- Records exported one behind the other: where each stands, and what stays. -/
theorem exportAll_facts (base : Nat) (l : List Ckpt) : ∀ (n : Nat) (p t : Memory × Rainfly), p.1.wf = true →
    t = (l.zipIdx n).foldl (exportTo base) p →
    (∀ (i : Nat) (r : Ckpt), l[i]? = some r → ∀ j, j < 128 → t.1.read (base + 10240 * (n + i) + j) = r.bytes.getD j 0) ∧
    (∀ a, a < base + 10240 * n ∨ base + 10240 * (n + l.length) ≤ a → t.1.read a = p.1.read a) ∧ p.2.leaf ≤ t.2.leaf := by
  induction l with
  | nil =>
    intro n p t _ ht
    rw [ht]
    exact ⟨fun i r h => by simp at h, fun a _ => rfl, le_rfl⟩
  | cons k l ih =>
    intro n p t hwf ht
    have hlen := Rainfly.length_exportRec p.2 k
    have hget : ∀ j, j < 128 → (p.2.exportRec k).1.getD j 0 = k.bytes.getD j 0 := fun j hj => Rainfly.getD_exportRec p.2 k hj
    have hleaf0 := Rainfly.leaf_exportRec p.2 k
    have hmem := exportTo_mem base p k n
    have hrf := exportTo_rainfly base p k n
    generalize p.2.exportRec k = e at *
    rw [List.zipIdx_cons, List.foldl_cons] at ht
    generalize exportTo base p (k, n) = u at *
    obtain ⟨hin, hout, hleaf⟩ := ih (n + 1) u t (by rw [hmem]; exact Memory.writeBytes_wf _ _ hwf) ht
    refine ⟨fun i r hr j hj => ?_, fun a ha => ?_, by rw [hrf] at hleaf; omega⟩
    · cases i with
      | zero =>
        obtain rfl : k = r := by simpa using hr
        rw [hout _ (by omega), hmem, Nat.add_zero, Memory.read_writeBytes_at _ j _ hwf (by omega), ← hget j hj]
        simp [List.getD, show j < e.1.length by omega]
      | succ i =>
        rw [show n + (i + 1) = n + 1 + i by omega]
        exact hin i r (by simpa using hr) j hj
    · rw [List.length_cons] at ha
      rw [hout a (by omega), hmem, Memory.read_writeBytes_other _ a _ hwf (by omega)]

section
variable {s : State} {fn : Nat} {k : CmdBlock} {x : Context}

theorem mayExport_iff {l : List Ckpt} :
    l.all s.mayExport = true ↔ ¬∃ r ∈ l, r.cause = 5 ∧ r.stamp ≠ 0 ∧ s.diesAbove r.stamp = false := by
  simp only [List.all_eq_true, State.mayExport, Bool.or_eq_true, bne_iff_ne, beq_iff_eq, not_exists, not_and, Bool.not_eq_false]
  refine forall_congr' fun r => forall_congr' fun _ => ?_
  tauto

theorem exec_meterRead_eq (h : InContext s fn 11 k x [(16, 20), (24, 48)]) (l : List Ckpt)
    (hl : l = (s.rainfly.wanted (k.num 16 4) (k.num 24 8)).take (k.num 40 4)) :
    exec (.meterRead fn) s = .next (if !l.all s.mayExport then s
      else ({ s with mem := (l.zipIdx.foldl (exportTo (k.num 32 8)) (s.mem, s.rainfly)).1
                     rainfly := (l.zipIdx.foldl (exportTo (k.num 32 8)) (s.mem, s.rainfly)).2 } : State).complete fn 0
        [(44, leBytes 4 l.length)]) := by
  subst hl
  dsimp only [exec, execMeterRead]
  rw [ctxCommand_of h rfl]
  rfl

theorem meter_read (h : InContext s fn 11 k x [(16, 20), (24, 48)]) (hwf : s.mem.wf = true) (l : List Ckpt)
    (hl : l = (s.rainfly.wanted (k.num 16 4) (k.num 24 8)).take (k.num 40 4)) :
    ((∃ r ∈ l, r.cause = 5 ∧ r.stamp ≠ 0 ∧ s.diesAbove r.stamp = false) → exec (.meterRead fn) s = .next s) ∧
    (¬(∃ r ∈ l, r.cause = 5 ∧ r.stamp ≠ 0 ∧ s.diesAbove r.stamp = false) →
      ∃ t, exec (.meterRead fn) s = .next t ∧ Answered s t fn k 0 [(44, leBytes 4 l.length)] ∧
      (∀ (i : Nat) (r : Ckpt), l[i]? = some r → ∀ j, j < 128 →
        t.mem.read (k.num 32 8 + 10240 * i + j) = r.bytes.getD j 0) ∧
      (∀ a, a < k.num 32 8 ∨ k.num 32 8 + 10240 * l.length ≤ a → t.mem.read a = s.mem.read a) ∧
      s.rainfly.leaf ≤ t.rainfly.leaf) := by
  have hex := exec_meterRead_eq h l hl
  refine ⟨fun hw => hex.trans (congrArg _ (if_pos ?_)), fun hw => ?_⟩
  · rw [Bool.not_eq_true', ← Bool.not_eq_true, mayExport_iff]
    exact not_not_intro hw
  · rw [if_neg (by rw [mayExport_iff.2 hw]; decide)] at hex
    obtain ⟨hin, hout, hleaf⟩ := exportAll_facts (k.num 32 8) l 0 (s.mem, s.rainfly) _ hwf rfl
    refine ⟨_, hex, answered_completes h.1.2.1 rfl rfl rfl, ?_⟩
    rw [State.complete_frame]
    refine ⟨fun i r hr j hj => ?_, fun a ha => hout a (by omega), hleaf⟩
    have := hin i r hr j hj
    rwa [Nat.zero_add] at this

-- Checkpoints on demand (R228, R393).

theorem find?_cmd_running {l : List CmdBlock} (h : l.find? (fun c => c.fn == fn) = some k) :
    (l.map fun (c : CmdBlock) => if c.fn == fn && c.slot == k.slot then { c with running := true } else c).find?
      (fun c => c.fn == fn) = some { k with running := true } := by
  have hfn : k.fn = fn := by simpa using List.find?_some h
  have hsame : (fun c : CmdBlock => c.fn == fn) ∘
      (fun c => if c.fn == fn && c.slot == k.slot then { c with running := true } else c) = fun c => c.fn == fn := by
    funext c
    by_cases hc : (c.fn == fn && c.slot == k.slot) = true <;> simp [Function.comp, hc]
  rw [List.find?_map, hsame, h, Option.map_some, if_pos (by simp [hfn])]

theorem meter_ckpt (h : InContext s fn 12 k x [(16, 20), (24, 32)]) (region : Nat) (hreg : region = k.num 16 4) :
    ((∀ g ∈ s.rainfly.grants, g.ctx = x.num → g.region ≠ region) → Refuses s (.meterCkpt fn) fn k 2) ∧
    ((∃ g ∈ s.rainfly.grants, g.ctx = x.num ∧ g.region = region) →
      (s.leafLeft = false → Refuses s (.meterCkpt fn) fn k 8) ∧
      (s.leafLeft = true → ∃ t q, exec (.meterCkpt fn) s = .next t ∧ t.rainfly.reqs = s.rainfly.reqs ++ [q] ∧
        q.body.cause = 2 ∧ q.body.region = region ∧ q.body.value = s.meterVal region ∧ q.body.seq = s.rainfly.seq + 1 ∧
        q.for_ = .command fn ∧ t.mem = s.mem ∧ t.returned = s.returned ∧
        t.cmd? fn = some { k with running := true })) := by
  have hk : s.cmd? fn = some k := h.1.2.1
  have hany : (s.rainfly.grants.any fun g => g.ctx == x.num && g.region == region) = true ↔
      ∃ g ∈ s.rainfly.grants, g.ctx = x.num ∧ g.region = region := by
    simp
  have hex : exec (.meterCkpt fn) s = .next (
      if !(s.rainfly.grants.any fun g => g.ctx == x.num && g.region == region) then s.complete fn 2 []
      else if !s.leafLeft then s.complete fn 8 []
      else ({ s with cmds := s.cmds.map fun (c : CmdBlock) =>
          if c.fn == fn && c.slot == k.slot then { c with running := true } else c } : State).requestCkpt region 2
        (s.grantNo x.num region) (.command fn)) := by
    subst hreg
    dsimp only [exec, execMeterCkpt]
    rw [ctxCommand_of h rfl]
  refine ⟨fun hno => refusesFrom_complete (res := []) hk (hex.trans (congrArg _ (if_pos ?_))), fun hyes => ?_⟩
  · rw [Bool.not_eq_true', ← Bool.not_eq_true, hany]
    rintro ⟨g, hg, h1, h2⟩
    exact hno g hg h1 h2
  · rw [if_neg (by rw [hany.2 hyes]; decide)] at hex
    refine ⟨fun hl => refusesFrom_complete (res := []) hk (hex.trans (congrArg _ (if_pos (by simp [hl])))), fun hl => ?_⟩
    rw [if_neg (by simp [hl])] at hex
    exact ⟨_, _, hex, rfl, rfl, rfl, rfl, rfl, rfl, rfl, rfl, find?_cmd_running hk⟩

end

-- Attestation (R231, R232).

section
variable {s : State} {fn : Nat} {k : CmdBlock} {who : Option Nat}

theorem exec_attest_eq (h : Command s fn 13 k) (hcl : k.clean [(16, 57), (60, 72)] = true)
    (hwho : k.num 56 1 = 0xFF ∧ who = none ∨ k.num 56 1 < 64 ∧ who = some (k.num 56 1) ∧
      ∃ x, s.ctx? (k.num 56 1) = some x ∧ x.fn = fn ∧ x.fatal = none) :
    exec (.attest fn) s = .next (
      if k.num 64 8 < s.statementLen who then s.complete fn 1 [(60, leBytes 4 (s.statementLen who))]
      else if !s.leafLeft then s.complete fn 8 []
      else ({ s with
        mem := s.mem.writeBytes (k.num 48 8) (s.statement who (cut k.bytes 16 32) ++
          Config.xmssSign s.rainfly.leaf (s.statement who (cut k.bytes 16 32)))
        rainfly := { s.rainfly with leaf := s.rainfly.leaf + 1 } } : State).complete fn 0
          [(60, leBytes 4 (s.statementLen who))]) := by
  dsimp only [exec, execAttest]
  rw [onCommand_of h]
  rcases hwho with ⟨hc, rfl⟩ | ⟨hc, rfl, x, hx, hfn, hfat⟩
  · rw [hcl, hc]
    rfl
  · have h1 : (k.num 56 1 == 0xFF) = false := beq_eq_false_iff_ne.2 (by omega)
    have h2 : (x.fn != fn) = false := by simp [hfn]
    rw [hcl, if_neg (by simp; omega), if_neg (by omega)]
    dsimp only
    rw [hx]
    dsimp only
    rw [h2, hfat]
    rfl

theorem attests (h : Command s fn 13 k) (hcl : k.clean [(16, 57), (60, 72)] = true)
    (hwho : k.num 56 1 = 0xFF ∧ who = none ∨ k.num 56 1 < 64 ∧ who = some (k.num 56 1) ∧
      ∃ x, s.ctx? (k.num 56 1) = some x ∧ x.fn = fn ∧ x.fatal = none) (n : Nat) (hn : n = s.statementLen who) (body : List Byte)
    (hb : body = s.statement who (cut k.bytes 16 32)) :
    (k.num 64 8 < n → Refuses s (.attest fn) fn k 1) ∧
    (n ≤ k.num 64 8 →
      (s.leafLeft = false → Refuses s (.attest fn) fn k 8) ∧
      (s.leafLeft = true → ∃ t, exec (.attest fn) s = .next t ∧ Answered s t fn k 0 [(60, leBytes 4 n)] ∧
        t.mem = s.mem.writeBytes (k.num 48 8) (body ++ Config.xmssSign s.rainfly.leaf body) ∧
        t.rainfly = { s.rainfly with leaf := s.rainfly.leaf + 1 })) := by
  subst hn hb
  have hex := exec_attest_eq h hcl hwho
  have hk : s.cmd? fn = some k := h.2.1
  refine ⟨fun hlt => refusesFrom_complete hk (hex.trans (congrArg _ (if_pos hlt))), fun hle => ?_⟩
  rw [if_neg (by omega)] at hex
  refine ⟨fun hl => refusesFrom_complete hk (hex.trans (congrArg _ (if_pos (by simp [hl])))), fun hl => ?_⟩
  rw [if_neg (by simp [hl])] at hex
  refine ⟨_, hex, answered_completes hk rfl rfl rfl, ?_, ?_⟩
  · rw [State.complete_frame]
  · rw [State.complete_frame]

end

theorem command_recorded {s : State} {q : CkptReq} {rest : List CkptReq} {fn : Nat} {k : CmdBlock} (h : s.rainfly.reqs = q :: rest)
    (hf : q.for_ = .command fn) (hk : s.cmd? fn = some k) (hl : s.leafLeft = true)
    (h1 : q.stamped = false ∨ s.diesAbove q.body.stamp = true) :
    ∃ t, exec .checkpointRecord s = .next t ∧ Answered s t fn k 0 [(24, leBytes 8 q.body.seq)] ∧ q.body ∈ t.rainfly.ring := by
  refine ⟨_, exec_checkpointRecord_signs h h1 hl, ?_, ?_⟩
  · rw [hf]
    exact answered_complete (r := s.recorded q rest) hk
  · rw [State.tellCkpt_rainfly]
    exact State.mem_ring_recorded

/-- Settles O41: grants, records read and asked for, and attestation, each with its refusals. -/
theorem rainflyCommands : Obligations.RainflyCommands := by
  unfold Obligations.RainflyCommands
  refine ⟨fun s fn k x h hlen hkind => ?_, fun s fn k x h hwf => meter_read h hwf _ rfl, fun s fn k x h => meter_ckpt h _ rfl,
    fun s q rest fn k => command_recorded, fun s fn k who h hcl hwho => attests h hcl hwho _ rfl _ rfl⟩
  exact meter_granted h hlen hkind rfl _ rfl _ rfl _ rfl

end Sys2Proof.Machine

end

section
/-! SUPPORT. Meters and the Lantern unit. -/

namespace Sys2Proof.Machine

open Sys2Proof.Claims

-- A record asked for by the first of two commands of a function (R197, R228).

/-- A command block of function 0. -/
def queuedCmd (slot : Nat) : CmdBlock := { (default : CmdBlock) with fn := 0, slot := slot, bytes := List.replicate 128 0 }

/-- The record that `METER_CKPT` of function 0 asked for before any time was known. -/
def askedCkpt : CkptReq :=
  { body := { cause := 2, region := 0, grant := 0, value := 0, stamp := 0, seq := 1 }, stamped := false, for_ := .command 0 }

/-- A module with that record to make, and with two commands of function 0 in its queue: the one that asked for it, and the next. -/
def twoQueued : State :=
  { State.reset with
    rainfly := { State.reset.rainfly with reqs := [askedCkpt] }
    cmds := [queuedCmd 0, queuedCmd 1] }

theorem twoQueued_next : ∃ t, exec .checkpointRecord twoQueued = .next t ∧ t.cmd? 0 = some (queuedCmd 1) := by
  have hex := exec_checkpointRecord_signs (s := twoQueued) (q := askedCkpt) (rest := []) rfl (.inl rfl) (by decide)
  refine ⟨_, hex, ?_⟩
  have hk : (twoQueued.recorded askedCkpt []).cmd? 0 = some (queuedCmd 0) := rfl
  have hc : ((twoQueued.recorded askedCkpt []).complete 0 0 [(24, leBytes 8 askedCkpt.body.seq)]).cmds = [queuedCmd 1] := by
    rw [State.complete_eq hk]
    rfl
  exact congrArg (List.find? fun k => k.fn == 0) hc

/-- Refutes O35: when a function has a second command in its queue, the completion of its `METER_CKPT` leaves that one at the head,
so that the queue is not empty as the statement says. -/
theorem not_meterOperations : ¬ Obligations.MeterOperations := by
  unfold Obligations.MeterOperations
  rintro ⟨-, -, -, h⟩
  obtain ⟨-, hsigns, -⟩ := h twoQueued askedCkpt [] rfl
  obtain ⟨t, hex, -, -, -, -, -, -, -, -, hcmd⟩ := hsigns (.inl rfl) (by decide)
  obtain ⟨-, hnone, -⟩ := hcmd 0 (queuedCmd 0) rfl rfl
  obtain ⟨u, hex', hsome⟩ := twoQueued_next
  obtain rfl : t = u := Host.Outcome.next.inj (hex.symm.trans hex')
  rw [hnone] at hsome
  cases hsome

end Sys2Proof.Machine

namespace Sys2Proof.Machine

open Sys2Proof.Claims

-- Changes of one warp, one after the other.

theorem map_ite_comp {α : Type} (key : α → Nat) (n : Nat) {f g : α → α} (hf : ∀ x, key (f x) = key x) (l : List α) :
    (l.map fun x => if key x == n then f x else x).map (fun x => if key x == n then g x else x) =
      l.map fun x => if key x == n then g (f x) else x := by
  rw [List.map_map]
  refine List.map_congr_left fun x _ => ?_
  simp only [Function.comp_apply]
  by_cases h : key x == n <;> simp [h, hf]

theorem Block.modWarp_modWarp (b : Block) (k : Nat) {f g : Warp → Warp} (hf : ∀ w, (f w).num = w.num) :
    (b.modWarp k f).modWarp k g = b.modWarp k fun w => g (f w) := by
  unfold Block.modWarp
  congr 1
  exact map_ite_comp Warp.num k hf b.warps

theorem State.modBlock_modBlock (s : State) (n : Nat) {f g : Block → Block} (hf : ∀ b, (f b).bid = b.bid) :
    (s.modBlock n f).modBlock n g = s.modBlock n fun b => g (f b) := by
  unfold State.modBlock
  congr 1
  exact map_ite_comp Block.bid n hf s.blocks

theorem State.modWarp_modWarp (s : State) (n k : Nat) {f g : Warp → Warp} (hf : ∀ w, (f w).num = w.num) :
    (s.modWarp n k f).modWarp n k g = s.modWarp n k fun w => g (f w) := by
  unfold State.modWarp
  rw [State.modBlock_modBlock]
  · simp only [Block.modWarp_modWarp _ _ hf]
  · intro b; rfl

theorem State.modWarp_self (s : State) (n k : Nat) : (s.modWarp n k fun w => w) = s := by
  simp [State.modWarp, State.modBlock, Block.modWarp]

theorem State.warp?_modWarp_of_ne {s : State} {n k m j : Nat} {f : Warp → Warp} (hf : ∀ w, (f w).num = w.num)
    (h : (m, j) ≠ (n, k)) : (s.modWarp n k f).warp? m j = s.warp? m j := by
  rw [State.warp?_modWarp _ _ _ _ _ _ hf]
  have : ¬(m = n ∧ j = k) := fun hc => h (Prod.ext hc.1 hc.2)
  simp [this]

-- The end of a turn (R24, R38).

/-- A warp that may have reached a pre-emption point: what can change of it. -/
def Warp.Reached (w v : Warp) : Prop :=
  v = { w with held := v.held, atPoint := v.atPoint, step := v.step, trap := v.trap }

theorem Warp.Reached.num {w v : Warp} (h : w.Reached v) : v.num = w.num := by rw [h]

section
variable (s : State) (bid wn : Nat)

/-- Reaching a pre-emption point changes the one warp, within those fields. -/
theorem State.reachPoint_modWarp : ∃ f : Warp → Warp, s.reachPoint bid wn = s.modWarp bid wn f ∧ (∀ w : Warp, w.Reached (f w)) ∧
    ((s.warp? bid wn).isSome → ∀ w, (f w).atPoint = true) := by
  have hnone : s.reachPoint bid wn = s → s.warp? bid wn = none → ∃ f : Warp → Warp, s.reachPoint bid wn = s.modWarp bid wn f ∧
      (∀ w : Warp, w.Reached (f w)) ∧ ((s.warp? bid wn).isSome → ∀ w, (f w).atPoint = true) := fun h hw =>
    ⟨fun w => w, h.trans (s.modWarp_self bid wn).symm, fun _ => rfl, fun h => by simp [hw] at h⟩
  cases hb : s.block? bid with
  | none => exact hnone (by simp only [State.reachPoint, hb]) (by simp [State.warp?, hb])
  | some b =>
    cases hw : b.warp? wn with
    | none => exact hnone (by simp only [State.reachPoint, hb, hw]) (by simp [State.warp?, hb, hw])
    | some w =>
      have hor : ∀ {c : Prop} [Decidable c] {x y t : State}, t = (if c then x else y) → t = x ∨ t = y := fun h =>
        (ite_eq_or_eq _ _ _).imp h.trans h.trans
      have hun : s.reachPoint bid wn = _ ∨ s.reachPoint bid wn = _ := hor (by simp only [State.reachPoint, hb, hw]; rfl)
      rcases hun with hun | hun
      · rw [hun]
        refine ⟨_, State.modWarp_modWarp s bid wn ?_, ?_, ?_⟩
        · intro v; rfl
        · intro v; rfl
        · intro _ v; rfl
      · rw [hun]
        refine ⟨_, rfl, ?_, ?_⟩
        · intro v; rfl
        · intro _ v; rfl

end

section
variable (s : State) (core p : Nat)

theorem State.pitch_endTurn : (s.endTurn core p).pitch core p = { s.pitch core p with holder := none } := by
  obtain ⟨hc, hp⟩ := s.pitch_core core p
  exact State.pitch_setPitch_of hc hp

theorem State.turnEnds_none (h : (s.pitch core p).holder = none) : s.turnEnds core p = s := by
  simp only [State.turnEnds, h]

/-- The end of a turn: the pitch is free, and its warp may have reached a pre-emption point. -/
theorem State.turnEnds_modWarp {n k : Nat} (h : (s.pitch core p).holder = some (n, k)) :
    ∃ f : Warp → Warp, s.turnEnds core p = (s.endTurn core p).modWarp n k f ∧ (∀ w : Warp, w.Reached (f w)) ∧
      ∀ w, s.warp? n k = some w →
        (w.loops = [] → w.pointFree = true → w.exited = false → (f w).atPoint = true) ∧
        (w.loops ≠ [] ∨ w.pointFree = false ∨ w.exited = true → s.turnEnds core p = s.endTurn core p) := by
  have hwarp : (s.endTurn core p).warp? n k = s.warp? n k := rfl
  have hun : s.turnEnds core p = match s.warp? n k with
      | none => s.endTurn core p
      | some w => if w.loops.isEmpty && w.pointFree && !w.exited then (s.endTurn core p).reachPoint n k else s.endTurn core p := by
    simp only [State.turnEnds, h, hwarp] <;> rfl
  cases hw : s.warp? n k with
  | none =>
    refine ⟨fun w => w, ?_, fun _ => rfl, fun w hw => by cases hw⟩
    rw [hun, hw, State.modWarp_self]
  | some w =>
    rw [hw] at hun
    dsimp only at hun
    by_cases hc : (w.loops.isEmpty && w.pointFree && !w.exited) = true
    · rw [if_pos hc] at hun
      obtain ⟨f, hf, hr, hp⟩ := (s.endTurn core p).reachPoint_modWarp n k
      refine ⟨f, hun.trans hf, hr, fun v hv => ⟨fun _ _ _ => hp (by rw [hwarp, hw]; rfl) v, fun hno => ?_⟩⟩
      obtain rfl := Option.some.inj hv
      simp only [Bool.and_eq_true, List.isEmpty_iff, Bool.not_eq_true'] at hc
      obtain ⟨⟨h1, h2⟩, h3⟩ := hc
      simp [h1, h2, h3] at hno
    · rw [if_neg hc] at hun
      refine ⟨fun w => w, by rw [hun, State.modWarp_self], fun _ => rfl, fun v hv => ⟨fun h1 h2 h3 => ?_, fun _ => hun⟩⟩
      obtain rfl := Option.some.inj hv
      simp [h1, h2, h3] at hc

theorem State.turnEnds_pitch : (s.turnEnds core p).pitch core p = { s.pitch core p with holder := none } := by
  cases h : (s.pitch core p).holder with
  | none =>
    rw [State.turnEnds_none s core p h]
    generalize hx : s.pitch core p = x at h
    rw [← h]
  | some x =>
    obtain ⟨f, hf, -⟩ := s.turnEnds_modWarp core p h
    rw [hf]
    exact s.pitch_endTurn core p

end

end Sys2Proof.Machine

namespace Sys2Proof.Machine

open Sys2Proof.Claims

-- The pages (R397).

theorem modify_eq_set_of {α : Type} {l : List α} {i : Nat} {a : α} (h : l[i]? = some a) (f : α → α) : l.modify i f = l.set i (f a) := by
  refine List.ext_getElem? fun j => ?_
  rw [List.getElem?_modify, List.getElem?_set]
  by_cases hj : i = j
  · subst hj
    have hi : i < l.length := (List.getElem?_eq_some_iff.1 h).1
    rw [h]
    simp [hi]
  · simp [hj]

/-- The state with a page in place of another. -/
def State.withPage (s : State) (fn : Nat) (x : Lantern) : State := { s with lantern := s.lantern.set fn x }

section
variable {s : State} {fn c : Nat} {l : Lantern} (h : s.lantern[fn]? = some l)
include h

theorem State.page_of : s.page fn = l := by simp [State.page, List.getD, h]

theorem State.pageWrite_owned {f : Lantern → Lantern} (ho : s.owns fn c = true) : s.pageWrite fn c f = s.withPage fn (f l) := by
  rw [State.pageWrite, if_pos ho, modify_eq_set_of h]
  rfl

end

theorem State.pageWrite_denied {s : State} {fn c : Nat} {f : Lantern → Lantern} (ho : s.owns fn c = false) :
    s.pageWrite fn c f = s := by
  rw [State.pageWrite, if_neg (by simp [ho])]

/-- The stops of some warps end. -/
theorem warp?_release (L : List (Nat × Nat)) : ∀ (s : State) (n m : Nat),
    (L.foldl (fun s k => s.modWarp k.1 k.2 fun w => { w with stopped := false }) s).warp? n m =
      (s.warp? n m).map fun w => if (n, m) ∈ L then { w with stopped := false } else w := by
  induction L with
  | nil => simp
  | cons k L ih =>
    intro s n m
    rw [List.foldl_cons, ih, State.warp?_modWarp _ _ _ _ _ _ (by intro w; rfl), Option.map_map]
    congr 1
    funext w
    obtain ⟨a, b⟩ := k
    by_cases h1 : n = a ∧ m = b <;> by_cases h2 : (n, m) ∈ L <;> simp [h1, h2]

section
variable {s : State} {fn v e i : Nat} {l : Lantern}

theorem State.writeRelease_denied (h : v % 2 = 0 ∨ s.owns fn (s.page fn).ctx = false) : s.writeRelease fn v = s := by
  refine if_neg ?_
  rcases h with h | h
  · have : v.bitAt 0 = false := by rw [beq_eq_false_iff_ne, pow_zero, Nat.div_one]; omega
    simp [this]
  · simp [h]

theorem State.writeRelease_owned (h : s.lantern[fn]? = some l) (ho : s.owns fn l.ctx = true) (hv : v % 2 = 1) :
    s.writeRelease fn v = l.stopped.foldl (fun s k => s.modWarp k.1 k.2 fun w => { w with stopped := false })
      (s.withPage fn { l with stopped := [] }) := by
  have hp := State.page_of h
  have hb : v.bitAt 0 = true := by rw [beq_iff_eq, pow_zero, Nat.div_one]; exact hv
  rw [State.writeRelease, hp, if_pos (by rw [hb, ho]; rfl), State.pageWrite_owned h ho]

theorem release_ends (h : s.lantern[fn]? = some l) (ho : s.owns fn l.ctx = true) (hv : v % 2 = 1) :
    ∃ t, exec (.lanternRelease fn v) s = .next t ∧ t.lantern = s.lantern.set fn { l with stopped := [] } ∧
      SameMemory s t ∧ ∀ n m w, s.warp? n m = some w →
        t.warp? n m = some (if (n, m) ∈ l.stopped then { w with stopped := false } else w) := by
  refine ⟨_, congrArg Host.Outcome.next (State.writeRelease_owned h ho hv), ?_, fun a => ?_, fun n m w hw => ?_⟩
  · exact foldl_keeps State.lantern (by intros; rfl) _ _
  · refine congrArg (fun m : Memory => m.read a) (foldl_keeps State.mem ?_ _ _)
    intros; rfl
  · rw [warp?_release]
    exact congrArg (Option.map _) (hw : (s.withPage fn { l with stopped := [] }).warp? n m = some w)

/-- The fields of a page (R397) by offset. -/
theorem exec_pageWrite_eq (o : Nat) : exec (.lanternPageWrite fn o v) s = .next (
    if o = 0x000 then s.pageWrite fn (v.field 0 6) fun l => { l with en := v.bitAt 8, ctx := v.field 0 6 }
    else if o = 0x008 then s.pageWrite fn (s.page fn).ctx fun l => { l with period := v.field 0 21 }
    else if o = 0x010 then s.pageWrite fn (s.page fn).ctx fun l => { l with buf := v }
    else if o = 0x018 then s.pageWrite fn (s.page fn).ctx fun l => { l with size := v.field 0 32 }
    else if o = 0x028 then s.writeStop fn v
    else if o = 0x030 then s.writeRelease fn v
    else if 0x040 ≤ o ∧ o < 0x080 ∧ o % 16 = 0 then
      s.pageWrite fn (s.page fn).ctx fun l => { l with
        pct := l.pct.set ((o - 0x040) / 16) (v.field 0 8)
        action := l.action.set ((o - 0x040) / 16) (v.field 8 2) }
    else if 0x100 ≤ o ∧ o < 0x200 ∧ o % 4 = 0 ∧ v.field 0 32 = 0 then
      s.clearBin fn ((o - 0x100) / 64) ((o - 0x100) % 64 / 4)
    else s) := rfl

theorem field_low (v n : Nat) : v.field 0 n = v % 2 ^ n := by rw [Nat.field, pow_zero, Nat.div_one]

/-- What a write does to a page of its own context. -/
theorem page_written (h : s.lantern[fn]? = some l) (ho : s.owns fn l.ctx = true) :
    exec (.lanternStop fn v) s = .next (s.withPage fn { l with stop := stopMask v, issuer := none }) ∧
    exec (.lanternBinsClear fn e i) s = .next (s.withPage fn { l with bins := l.bins.set e ((l.bins.getD e []).set i 0) }) ∧
    exec (.lanternPageWrite fn 0x008 v) s = .next (s.withPage fn { l with period := v % 2 ^ 21 }) ∧
    exec (.lanternPageWrite fn 0x010 v) s = .next (s.withPage fn { l with buf := v }) ∧
    exec (.lanternPageWrite fn 0x018 v) s = .next (s.withPage fn { l with size := v % 2 ^ 32 }) ∧
    exec (.lanternPageWrite fn 0x028 v) s = .next (s.withPage fn { l with stop := stopMask v, issuer := none }) ∧
    exec (.lanternPageWrite fn 0x030 v) s = exec (.lanternRelease fn v) s ∧
    (e < 4 → exec (.lanternPageWrite fn (0x040 + 16 * e) v) s =
      .next (s.withPage fn { l with pct := l.pct.set e (v % 256), action := l.action.set e (v / 256 % 4) })) ∧
    (e < 4 → i < 16 → v % 2 ^ 32 = 0 →
      exec (.lanternPageWrite fn (0x100 + 64 * e + 4 * i) v) s = exec (.lanternBinsClear fn e i) s) ∧
    (e < 4 → i < 16 → v % 2 ^ 32 ≠ 0 → exec (.lanternPageWrite fn (0x100 + 64 * e + 4 * i) v) s = .next s) := by
  have hp := State.page_of h
  have hset : ∀ f : Lantern → Lantern, s.pageWrite fn (s.page fn).ctx f = s.withPage fn (f l) := fun f => by
    rw [hp]; exact State.pageWrite_owned h ho
  refine ⟨congrArg _ (hset _), congrArg _ (hset _), ?_, congrArg _ (hset _), ?_, congrArg _ (hset _), rfl, fun he => ?_,
    fun he hi hv => ?_, fun he hi hv => ?_⟩
  · refine (congrArg _ (hset _)).trans ?_
    rw [field_low]
  · refine (congrArg _ (hset _)).trans ?_
    rw [field_low]
  · rw [exec_pageWrite_eq, if_neg (by omega), if_neg (by omega), if_neg (by omega), if_neg (by omega), if_neg (by omega),
      if_neg (by omega), if_pos (by omega), hset, Nat.add_sub_cancel_left, Nat.mul_div_cancel_left _ (by decide), field_low]
    rfl
  · rw [exec_pageWrite_eq, if_neg (by omega), if_neg (by omega), if_neg (by omega), if_neg (by omega), if_neg (by omega),
      if_neg (by omega), if_neg (by omega), if_pos ⟨by omega, by omega, by omega, by rw [field_low]; exact hv⟩,
      show (0x100 + 64 * e + 4 * i - 0x100) / 64 = e by omega, show (0x100 + 64 * e + 4 * i - 0x100) % 64 / 4 = i by omega]
    rfl
  · rw [exec_pageWrite_eq, if_neg (by omega), if_neg (by omega), if_neg (by omega), if_neg (by omega), if_neg (by omega),
      if_neg (by omega), if_neg (by omega), if_neg (by rintro ⟨-, -, -, h0⟩; rw [field_low] at h0; exact hv h0)]

/-- A write to a page of a context that is not the function's is discarded. -/
theorem page_denied (h : s.lantern[fn]? = some l) (ho : s.owns fn l.ctx = false) :
    exec (.lanternStop fn v) s = .next s ∧ exec (.lanternRelease fn v) s = .next s ∧
      exec (.lanternBinsClear fn e i) s = .next s ∧ ∀ o, o ≠ 0 → exec (.lanternPageWrite fn o v) s = .next s := by
  have hp := State.page_of h
  have hset : ∀ f : Lantern → Lantern, s.pageWrite fn (s.page fn).ctx f = s := fun f => by
    rw [hp]; exact State.pageWrite_denied ho
  have hrel : s.writeRelease fn v = s := State.writeRelease_denied (.inr (by rw [hp]; exact ho))
  refine ⟨congrArg _ (hset _), congrArg _ hrel, congrArg _ (hset _), fun o hne => ?_⟩
  rw [exec_pageWrite_eq, if_neg hne, hset, hset, hset, hset, hrel]
  have hst : s.writeStop fn v = s := hset _
  have hcl : ∀ a b, s.clearBin fn a b = s := fun a b => hset _
  rw [hst, hcl]
  simp only [ite_self]

theorem page_unlisted (o : Nat) (h1 : o ∉ [0, 8, 0x10, 0x18, 0x28, 0x30]) (h2 : ¬(0x40 ≤ o ∧ o < 0x80 ∧ o % 16 = 0))
    (h3 : ¬(0x100 ≤ o ∧ o < 0x200 ∧ o % 4 = 0)) : exec (.lanternPageWrite fn o v) s = .next s := by
  simp only [List.mem_cons, List.not_mem_nil, or_false, not_or] at h1
  obtain ⟨a, b, c, d, e, f⟩ := h1
  rw [exec_pageWrite_eq, if_neg a, if_neg b, if_neg c, if_neg d, if_neg e, if_neg f, if_neg h2, if_neg (by tauto)]

end

/-- The bits a stop field keeps (R400). -/
theorem stopMask_testBit (v b : Nat) : (stopMask v).testBit b = (v.testBit b && stopBit b) := by
  have hhi : v.field 35 15 * 2 ^ 35 + v.field 0 32 < 2 ^ 62 := by
    have h1 : v.field 35 15 < 2 ^ 15 := Nat.mod_lt _ (by decide)
    have h2 : v.field 0 32 < 2 ^ 32 := Nat.mod_lt _ (by decide)
    omega
  have hlo : v.field 0 32 < 2 ^ 35 := lt_trans (Nat.mod_lt _ (by decide)) (by decide)
  have hm : stopMask v = 2 ^ 62 * v.field 62 2 + (2 ^ 35 * v.field 35 15 + v.field 0 32) := by
    unfold stopMask; omega
  rw [hm, Nat.testBit_two_pow_mul_add _ (by omega), Nat.testBit_two_pow_mul_add _ hlo]
  simp only [Nat.field, Nat.testBit_mod_two_pow, Nat.testBit_div_two_pow, stopBit]
  by_cases h1 : b < 62
  · have h62 : (b == 62) = false := beq_eq_false_iff_ne.2 (by omega)
    have h63 : (b == 63) = false := beq_eq_false_iff_ne.2 (by omega)
    by_cases h2 : b < 35
    · simp [h1, h2, h62, h63, show ¬35 ≤ b by omega, Bool.and_comm]
    · simp [h1, h2, h62, h63, show 35 ≤ b by omega, show ¬b < 32 by omega, show 35 + (b - 35) = b by omega,
        show b - 35 < 15 ↔ b < 50 by omega, Bool.and_comm]
  · have h3 : (b - 62 < 2) ↔ (b = 62 ∨ b = 63) := by omega
    simp [h1, h3, show ¬b < 32 by omega, show ¬b < 50 by omega, show b - 62 + 62 = b by omega, Bool.and_comm]
    rfl

theorem lanternPage_holds : LanternPage := by
  refine ⟨fun s fn v e i l h => ⟨fun ho => ?_, page_denied h, fun hv => ?_, fun ho => ?_, fun ho => ?_, page_unlisted⟩, stopMask_testBit⟩
  · obtain ⟨h1, h2, h3⟩ := page_written (v := v) (e := e) (i := i) h ho
    exact ⟨h1, h2, release_ends h ho, h3⟩
  · exact congrArg _ (State.writeRelease_denied (.inl hv))
  · refine (congrArg _ (State.pageWrite_owned h ?_)).trans ?_
    · rw [field_low]; exact ho
    · rw [field_low, Nat.testBit_eq_decide_div_mod_eq]
      rfl
  · refine congrArg _ (State.pageWrite_denied ?_)
    rw [field_low]; exact ho

-- Precise stops (R399 to R401).

/-- A page's armed stop is for a warp at a token (R400). -/
def Lantern.Hits (l : Lantern) (b : Block) (w : Warp) (tok : Nat) : Prop :=
  l.stop.testBit 63 = true ∧ l.ctx = b.ctx ∧
    (l.issuer = some (b.bid, w.num) ∨ (l.issuer = none ∧ l.stop / 2 ^ 48 % 4 = b.vdie ∧ l.stop / 2 ^ 43 % 32 = w.core ∧
      l.stop / 2 ^ 41 % 4 = w.pitch ∧ l.stop / 2 ^ 35 % 64 = w.slot)) ∧
    (l.stop.testBit 62 = true ∨ l.stop % 2 ^ 32 = tok)

/-- The test of `State.stopCheck`. -/
def Lantern.hit (l : Lantern) (b : Block) (w : Warp) (tok : Nat) : Bool :=
  l.stop.bitAt 63 && l.ctx == b.ctx && l.names b w && (l.stop.bitAt 62 || l.stop.field 0 32 == tok)

theorem bitAt_eq_testBit (x k : Nat) : x.bitAt k = x.testBit k := by
  rw [Nat.testBit_eq_decide_div_mod_eq]
  rfl

theorem Lantern.hit_iff (l : Lantern) (b : Block) (w : Warp) (tok : Nat) : l.hit b w tok = true ↔ l.Hits b w tok := by
  have hn : l.names b w = true ↔ l.issuer = some (b.bid, w.num) ∨ (l.issuer = none ∧ l.stop / 2 ^ 48 % 4 = b.vdie ∧
      l.stop / 2 ^ 43 % 32 = w.core ∧ l.stop / 2 ^ 41 % 4 = w.pitch ∧ l.stop / 2 ^ 35 % 64 = w.slot) := by
    unfold Lantern.names
    cases l.issuer with
    | none => simp [stopNames, Nat.field, and_assoc]
    | some k => simp
  unfold Lantern.hit Lantern.Hits
  simp only [Bool.and_eq_true, Bool.or_eq_true, beq_iff_eq, hn, bitAt_eq_testBit, field_low, and_assoc]

section
variable {s : State} {b : Block} {w : Warp} {tok : Nat}

/-- The page a stop hits first. -/
def State.hitPage (s : State) (b : Block) (w : Warp) (tok : Nat) : Option Nat :=
  (List.range s.lantern.length).find? fun fn => (s.lantern.getD fn Lantern.reset).hit b w tok

/-- A stop has taken effect on a page: it is armed no more, and holds the warp. -/
def Lantern.taken (l : Lantern) (b : Block) (w : Warp) : Lantern :=
  { l with stop := l.stop % 2 ^ 63, issuer := none, stopped := l.stopped ++ [(b.bid, w.num)] }

/-- A precise stop has taken effect, the warp's record still to be written. -/
def State.stopTaken (s : State) (b : Block) (w : Warp) (fn : Nat) : State :=
  (s.withPage fn ((s.lantern.getD fn Lantern.reset).taken b w)).modWarp b.bid w.num fun w =>
    { w with stopped := true, stopRec := some fn }

theorem State.stopCheck_eq : s.stopCheck b w tok = match s.hitPage b w tok with
    | none => s
    | some fn =>
      if w.handler then s
      else
        let u := s.stopTaken b w fn
        (if (u.pitch (coreId b w) w.pitch).holder == some (b.bid, w.num) then u.turnEnds (coreId b w) w.pitch else u).stopRecord
          b.bid w.num := rfl

theorem State.hitPage_none (h : ∀ l ∈ s.lantern, ¬l.Hits b w tok) : s.hitPage b w tok = none := by
  refine List.find?_eq_none.2 fun i hi => ?_
  have hi' := List.mem_range.1 hi
  rw [List.getD_eq_getElem _ _ hi', Lantern.hit_iff]
  exact h _ (List.getElem_mem hi')

theorem State.hitPage_first {pre post : List Lantern} {l : Lantern} (h : s.lantern = pre ++ l :: post)
    (hpre : ∀ x ∈ pre, ¬x.Hits b w tok) (hl : l.Hits b w tok) : s.hitPage b w tok = some pre.length := by
  have hlen : pre.length < s.lantern.length := by rw [h]; simp
  refine List.find?_range_eq_some.2 ⟨?_, List.mem_range.2 hlen, fun j hj => ?_⟩
  · rw [Lantern.hit_iff, h, List.getD_append_right _ _ _ _ le_rfl, Nat.sub_self]
    exact hl
  · rw [Bool.not_eq_true', ← Bool.not_eq_true, Lantern.hit_iff, h, List.getD_append _ _ _ _ hj, List.getD_eq_getElem _ _ hj]
    exact hpre _ (List.getElem_mem hj)

/-- The record of a stop moves the write index of its page, and no more of any page. -/
theorem State.stopRecord_lantern (s : State) (bid n : Nat) {i : Nat} {l : Lantern} (h : s.lantern[i]? = some l) :
    ∃ l', (s.stopRecord bid n).lantern[i]? = some l' ∧ l' = { l with widx := l'.widx } := by
  have hring : ∀ (u : State) (fn : Nat) (bs : List Byte), u.lantern = s.lantern →
      ∃ l', (u.ringWrite fn bs).lantern[i]? = some l' ∧ l' = { l with widx := l'.widx } := by
    intro u fn bs hu
    rw [← hu] at h
    unfold State.ringWrite
    dsimp only
    split
    · exact ⟨l, h, rfl⟩
    · dsimp only
      by_cases hfn : fn = i
      · subst hfn
        obtain ⟨hlt, hl⟩ := List.getElem?_eq_some_iff.1 h
        rw [List.getElem?_set_self hlt, List.getD_eq_getElem _ _ hlt, hl]
        exact ⟨_, rfl, rfl⟩
      · rw [List.getElem?_set_ne hfn]
        exact ⟨l, h, rfl⟩
  unfold State.stopRecord
  split
  · exact ⟨l, h, rfl⟩
  · split
    · exact ⟨l, h, rfl⟩
    · split
      · exact ⟨l, h, rfl⟩
      · exact hring _ _ _ rfl

theorem State.stopRecord_other (s : State) (bid n m j : Nat) (h : (m, j) ≠ (bid, n)) :
    (s.stopRecord bid n).warp? m j = s.warp? m j := by
  unfold State.stopRecord
  split
  · rfl
  · split
    · rfl
    · split
      · rfl
      · rw [State.warp?_modWarp_of_ne (by intro w; rfl) h]
        simp only [State.warp?, State.block?, State.ringWrite_blocks]
        rfl

/-- A warp that a stop holds is ready in no cycle (R401). -/
theorem State.not_ready_of_stopped (s : State) (k : Block) {v : Warp} (h : v.stopped = true) (n : Nat) : s.ready k v n = false := by
  have : 4 ∈ s.reasons k v n := by
    unfold State.reasons
    simp [h]
  cases hr : s.reasons k v n with
  | nil => rw [hr] at this; cases this
  | cons a r => simp [State.ready, hr]

theorem stop_takes_effect (hw : s.warp? b.bid w.num = some w) {pre post : List Lantern} {l : Lantern} (hh : w.handler = false)
    (hl : s.lantern = pre ++ l :: post) (hpre : ∀ x ∈ pre, ¬x.Hits b w tok) (hhit : l.Hits b w tok) (t : State)
    (ht : t = s.stopCheck b w tok) :
    ∃ v l', t.warp? b.bid w.num = some v ∧ v = { w with stopped := true, stopRec := v.stopRec, held := v.held, atPoint := v.atPoint,
                                                        step := v.step, trap := v.trap } ∧
      t.lantern[pre.length]? = some l' ∧ l'.stop = l.stop % 2 ^ 63 ∧ l'.issuer = none ∧
      l'.stopped = l.stopped ++ [(b.bid, w.num)] ∧
      (t.pitch (coreId b w) w.pitch).holder ≠ some (b.bid, w.num) ∧
      (∀ k n, t.ready k v n = false) ∧
      ∀ n m, (n, m) ≠ (b.bid, w.num) → t.warp? n m = s.warp? n m := by
  have hpage : s.lantern[pre.length]? = some l := by rw [hl]; simp
  have hlt := (List.getElem?_eq_some_iff.1 hpage).1
  have hu : (s.stopTaken b w pre.length).lantern[pre.length]? = some (l.taken b w) := by
    have : s.lantern.getD pre.length Lantern.reset = l := by simp [List.getD, hpage]
    rw [State.stopTaken, this]
    exact List.getElem?_set_self hlt
  have huw : (s.stopTaken b w pre.length).warp? b.bid w.num = some { w with stopped := true, stopRec := some pre.length } :=
    State.warp?_modWarp_self (s := s.withPage _ _) hw (by intro v; rfl)
  have huo : ∀ n m, (n, m) ≠ (b.bid, w.num) → (s.stopTaken b w pre.length).warp? n m = s.warp? n m := fun n m h =>
    State.warp?_modWarp_of_ne (s := s.withPage _ _) (by intro v; rfl) h
  rw [State.stopCheck_eq, State.hitPage_first hl hpre hhit] at ht
  dsimp only at ht
  rw [if_neg (by simp [hh])] at ht
  generalize s.stopTaken b w pre.length = u at *
  -- the turn of the warp ends, if it has one
  obtain ⟨x, hx, hxl, ⟨v, hxv, hv⟩, hxo, hxp⟩ : ∃ x : State, t = x.stopRecord b.bid w.num ∧ x.lantern = u.lantern ∧
      (∃ v, x.warp? b.bid w.num = some v ∧ Warp.Reached { w with stopped := true, stopRec := some pre.length } v) ∧
      (∀ n m, (n, m) ≠ (b.bid, w.num) → x.warp? n m = u.warp? n m) ∧
      (x.pitch (coreId b w) w.pitch).holder ≠ some (b.bid, w.num) := by
    by_cases hc : (u.pitch (coreId b w) w.pitch).holder = some (b.bid, w.num)
    · rw [if_pos (by rw [hc]; exact beq_self_eq_true _)] at ht
      obtain ⟨f, hf, hr, -⟩ := u.turnEnds_modWarp _ _ hc
      have hnum : ∀ w, (f w).num = w.num := fun w => (hr w).num
      refine ⟨_, ht, ?_, ?_, fun n m h => ?_, ?_⟩
      · rw [hf]; rfl
      · rw [hf]
        exact ⟨_, State.warp?_modWarp_self (s := u.endTurn _ _) huw hnum, hr _⟩
      · rw [hf]
        exact State.warp?_modWarp_of_ne (s := u.endTurn _ _) hnum h
      · rw [State.turnEnds_pitch]
        simp
    · rw [if_neg (by simpa using hc)] at ht
      exact ⟨u, ht, rfl, ⟨_, huw, rfl⟩, fun _ _ _ => rfl, hc⟩
  subst hx
  obtain ⟨l', hl', hle⟩ := x.stopRecord_lantern b.bid w.num (hxl ▸ hu)
  have hfin := State.stopRecord_warp hxv
  refine ⟨_, l', hfin, ?_, hl', ?_, ?_, ?_, ?_, ?_, ?_⟩
  · rw [hv]
  · rw [hle]; rfl
  · rw [hle]; rfl
  · rw [hle]; rfl
  · rw [State.stopRecord_pitch]
    exact hxp
  · intro k n
    refine State.not_ready_of_stopped _ k ?_ n
    rw [hv]
  · intro n m h
    rw [State.stopRecord_other _ _ _ _ _ h, hxo n m h, huo n m h]

end

theorem preciseStops_hold : PreciseStops := by
  intro s b w tok hb hw
  have hsw : s.warp? b.bid w.num = some w := State.warp?_of hb hw
  refine ⟨fun h => ?_, fun pre post l hh hl hpre hhit => stop_takes_effect hsw hh hl hpre hhit _ rfl⟩
  rw [State.stopCheck_eq]
  rcases h with h | h
  · cases s.hitPage b w tok with
    | none => rfl
    | some fn => exact if_pos h
  · rw [State.hitPage_none h]

end Sys2Proof.Machine

namespace Sys2Proof.Machine

open Sys2Proof.Claims

-- Bytes written at addresses that need not follow one another.

theorem Memory.writeAll_cons (m : Memory) (x : Nat × Byte) (l : List (Nat × Byte)) :
    m.writeAll (x :: l) = (m.write x.1 x.2).writeAll l := rfl

theorem Memory.read_writeAll_other {a : Nat} (l : List (Nat × Byte)) : ∀ {m : Memory}, m.wf = true → (∀ x ∈ l, x.1 ≠ a) →
    (m.writeAll l).read a = m.read a := by
  induction l with
  | nil => intro m _ _; rfl
  | cons x l ih =>
    intro m hwf hne
    rw [Memory.writeAll_cons, ih (Memory.write_wf _ _ hwf) (fun y hy => hne y (List.mem_cons_of_mem _ hy)),
      Memory.read_write _ _ _ hwf, if_neg (Ne.symm (hne x List.mem_cons_self))]

theorem Memory.writeAll_append (l r : List (Nat × Byte)) : ∀ m : Memory, m.writeAll (l ++ r) = (m.writeAll l).writeAll r := by
  induction l with
  | nil => exact fun _ => rfl
  | cons x l ih => exact fun m => ih _

/-- The last of the bytes written at an address stands there. -/
theorem Memory.read_writeAll_at {a : Nat} {v : Byte} {pre post : List (Nat × Byte)} {m : Memory} (hwf : m.wf = true)
    (hpost : ∀ x ∈ post, x.1 ≠ a) : (m.writeAll (pre ++ (a, v) :: post)).read a = v := by
  have hwf' := Memory.writeAll_wf pre hwf
  rw [Memory.writeAll_append, Memory.writeAll_cons, Memory.read_writeAll_other _ (Memory.write_wf _ _ hwf') hpost,
    Memory.read_write _ _ _ hwf', if_pos rfl]

/-- Bytes written at addresses of their own stand there. -/
theorem Memory.read_writeAll_mapIdx {m : Memory} (hwf : m.wf = true) {addr : Nat → Nat} {bs : List Byte}
    (hinj : ∀ i j, i < bs.length → j < bs.length → addr i = addr j → i = j) {j : Nat} (hj : j < bs.length) :
    (m.writeAll (bs.mapIdx fun i v => (addr i, v))).read (addr j) = bs.getD j 0 := by
  have hl : (bs.mapIdx fun i v => (addr i, v)) =
      (bs.mapIdx fun i v => (addr i, v)).take j ++ (addr j, bs.getD j 0) :: (bs.mapIdx fun i v => (addr i, v)).drop (j + 1) := by
    conv_lhs => rw [← List.take_append_drop j (bs.mapIdx fun i v => (addr i, v)), List.drop_eq_getElem_cons (by simpa using hj)]
    simp [List.getD, hj]
  rw [hl]
  refine Memory.read_writeAll_at hwf fun x hx hxa => ?_
  obtain ⟨i, hi, rfl⟩ := List.mem_iff_getElem.1 hx
  simp only [List.length_drop, List.length_mapIdx] at hi
  rw [List.getElem_drop, List.getElem_mapIdx] at hxa
  have := hinj _ _ (by omega) hj hxa
  omega

-- The reasons for which a warp is not ready (R398).

theorem State.pendStall_lt {s : State} {w : Warp} {r : RName} {x : Nat} (h : x ∈ s.pendStall w r) : x < 32 := by
  unfold State.pendStall at h
  obtain ⟨p, -, rfl⟩ := List.mem_map.1 h
  split
  · decide
  · split <;> decide

/-- A list of at most one reason. -/
theorem lt_of_mem_ite {c : Prop} [Decidable c] {n x : Nat} (hn : n < 32) (h : x ∈ if c then [n] else []) : x < 32 := by
  split at h
  · rw [List.mem_singleton.1 h]; exact hn
  · cases h

theorem lt_of_mem_ite' {c : Prop} [Decidable c] {n x : Nat} (hn : n < 32) (h : x ∈ if c then [] else [n]) : x < 32 := by
  split at h
  · cases h
  · rw [List.mem_singleton.1 h]; exact hn

theorem State.opStalls_lt {s : State} {c : Issue} {b : Block} {w : Warp} {i : Instr} {x : Nat} (h : x ∈ s.opStalls c b w i) : x < 32 := by
  unfold State.opStalls at h
  dsimp only at h
  rw [List.mem_append, List.mem_append, List.mem_append, List.mem_append, List.mem_append, List.mem_append] at h
  rcases h with (((((h | h) | h) | h) | h) | h) | h
  · obtain ⟨r, -, hr⟩ := List.mem_flatMap.1 h
    exact State.pendStall_lt hr
  · exact lt_of_mem_ite (by decide) h
  · exact lt_of_mem_ite (by decide) h
  · split at h
    · exact lt_of_mem_ite (by decide) h
    · exact lt_of_mem_ite (by decide) h
    · split at h
      · rw [List.mem_singleton.1 h]; decide
      · exact lt_of_mem_ite (by decide) h
    · exact lt_of_mem_ite (by decide) h
    · exact lt_of_mem_ite (by decide) h
    · cases h
  · exact lt_of_mem_ite (by decide) h
  · exact lt_of_mem_ite (by decide) h
  · split at h
    · unfold State.copyFull State.matrixFull at h
      split at h
      · exact lt_of_mem_ite (by decide) h
      · exact lt_of_mem_ite (by decide) h
      · exact lt_of_mem_ite (by decide) h
      · exact lt_of_mem_ite (by decide) h
    · cases h

theorem State.wordStalls_lt {s : State} {c : Issue} {b : Block} {w : Warp} {x : Nat} (h : x ∈ s.wordStalls c b w) : x < 32 := by
  unfold State.wordStalls at h
  dsimp only at h
  rw [List.mem_append, List.mem_append, List.mem_append] at h
  rcases h with ((h | h) | h) | h
  · obtain ⟨i, -, hi⟩ := List.mem_flatMap.1 h
    exact State.opStalls_lt hi
  · exact lt_of_mem_ite' (by decide) h
  · exact lt_of_mem_ite (by decide) h
  · exact lt_of_mem_ite (by decide) h

theorem State.stalls_lt {s : State} {b : Block} {w : Warp} {t x : Nat} (h : x ∈ s.stalls b w t) : x < 32 := by
  unfold State.stalls at h
  split at h
  · rw [List.mem_singleton.1 h]; decide
  · rw [List.mem_singleton.1 h]; decide
  · obtain ⟨r, -, hr⟩ := List.mem_flatMap.1 h
    exact State.pendStall_lt hr
  · rw [List.mem_append] at h
    rcases h with h | h
    · obtain ⟨r, -, hr⟩ := List.mem_flatMap.1 h
      exact State.pendStall_lt hr
    · split at h
      · cases h
      · rw [List.mem_append] at h
        rcases h with h | h
        · exact lt_of_mem_ite' (by decide) h
        · exact State.wordStalls_lt h

theorem State.reasons_lt {s : State} {b : Block} {w : Warp} {t x : Nat} (h : x ∈ s.reasons b w t) : x < 32 := by
  unfold State.reasons at h
  dsimp only at h
  simp only [List.mem_append] at h
  rcases h with (((((((h | h) | h) | h) | h) | h) | h) | h) | h
  · exact lt_of_mem_ite (by decide) h
  · exact lt_of_mem_ite (by decide) h
  · exact lt_of_mem_ite (by decide) h
  · exact lt_of_mem_ite (by decide) h
  · split at h
    · cases h
    · rw [List.mem_singleton.1 h]; decide
    · rw [List.mem_singleton.1 h]; decide
    · rw [List.mem_singleton.1 h]; decide
  · exact lt_of_mem_ite (by decide) h
  · exact lt_of_mem_ite (by decide) h
  · exact lt_of_mem_ite' (by decide) h
  · split at h
    · cases h
    · exact State.stalls_lt h

-- The rotation of the samples (R398).

/-- The first warp of lowest slot, from an earlier candidate on. -/
def lowestFrom (o : Option (Block × Warp)) (l : List (Block × Warp)) : Option (Block × Warp) :=
  l.foldl (fun (o : Option (Block × Warp)) p => match o with
    | none => some p
    | some q => if p.2.slot < q.2.slot then some p else some q) o

theorem lowestFrom_some (l : List (Block × Warp)) : ∀ q, ∃ p, lowestFrom (some q) l = some p ∧ (p = q ∨ p ∈ l) ∧
    p.2.slot ≤ q.2.slot ∧ ∀ x ∈ l, p.2.slot ≤ x.2.slot := by
  induction l with
  | nil => exact fun q => ⟨q, rfl, .inl rfl, le_rfl, fun x hx => by cases hx⟩
  | cons y l ih =>
    intro q
    have hstep : lowestFrom (some q) (y :: l) = lowestFrom (if y.2.slot < q.2.slot then some y else some q) l := rfl
    rw [hstep]
    split
    · obtain ⟨p, hp, hm, hle, hall⟩ := ih y
      refine ⟨p, hp, .inr ?_, by omega, fun x hx => ?_⟩
      · rcases hm with rfl | hm
        · exact List.mem_cons_self
        · exact List.mem_cons_of_mem _ hm
      · rcases List.mem_cons.1 hx with rfl | hx
        · exact hle
        · exact hall x hx
    · obtain ⟨p, hp, hm, hle, hall⟩ := ih q
      refine ⟨p, hp, hm.imp_right (List.mem_cons_of_mem _), hle, fun x hx => ?_⟩
      rcases List.mem_cons.1 hx with rfl | hx
      · omega
      · exact hall x hx

theorem lowest_facts (l : List (Block × Warp)) :
    (l = [] → lowestFrom none l = none) ∧
    (l ≠ [] → ∃ p, lowestFrom none l = some p ∧ p ∈ l ∧ ∀ x ∈ l, p.2.slot ≤ x.2.slot) := by
  cases l with
  | nil => exact ⟨fun _ => rfl, fun h => absurd rfl h⟩
  | cons y l =>
    refine ⟨fun h => (by cases h), fun _ => ?_⟩
    obtain ⟨p, hp, hm, hle, hall⟩ := lowestFrom_some l y
    refine ⟨p, hp, ?_, fun x hx => ?_⟩
    · rcases hm with rfl | hm
      · exact List.mem_cons_self
      · exact List.mem_cons_of_mem _ hm
    · rcases List.mem_cons.1 hx with rfl | hx
      · exact hle
      · exact hall x hx

theorem rotation_eq (last : Option Nat) (ws : List (Block × Warp)) : rotation last ws = match last with
    | none => lowestFrom none ws
    | some k =>
      match lowestFrom none (ws.filter fun p => decide (k < p.2.slot)) with
      | some p => some p
      | none => lowestFrom none ws := rfl

theorem rotation_nil (last : Option Nat) : rotation last [] = none := by
  cases last <;> rfl

theorem rotation_facts {last : Option Nat} {ws : List (Block × Warp)} {p : Block × Warp} (h : rotation last ws = some p) :
    p ∈ ws ∧ ∀ n, last = some n → (∃ q ∈ ws, n < q.2.slot) → n < p.2.slot ∧ ∀ q ∈ ws, n < q.2.slot → p.2.slot ≤ q.2.slot := by
  have hne : ws ≠ [] := by rintro rfl; rw [rotation_nil] at h; cases h
  obtain ⟨q, hq, hqm, -⟩ := (lowest_facts ws).2 hne
  rw [rotation_eq] at h
  cases last with
  | none =>
    obtain rfl := Option.some.inj (hq.symm.trans h)
    exact ⟨hqm, fun n hn => by cases hn⟩
  | some k =>
    dsimp only at h
    by_cases hf : ws.filter (fun p => decide (k < p.2.slot)) = []
    · rw [(lowest_facts _).1 hf] at h
      obtain rfl := Option.some.inj (hq.symm.trans h)
      refine ⟨hqm, fun n hn => ?_⟩
      obtain rfl := Option.some.inj hn
      rintro ⟨x, hx, hlt⟩
      have : x ∈ ws.filter (fun p => decide (k < p.2.slot)) := List.mem_filter.2 ⟨hx, by simpa using hlt⟩
      rw [hf] at this
      cases this
    · obtain ⟨x, hx, hxm, hmin⟩ := (lowest_facts _).2 hf
      rw [hx] at h
      obtain rfl := Option.some.inj h
      obtain ⟨hxw, hlt⟩ := List.mem_filter.1 hxm
      refine ⟨hxw, fun n hn _ => ?_⟩
      obtain rfl := Option.some.inj hn
      exact ⟨by simpa using hlt, fun q hq hlt => hmin q (List.mem_filter.2 ⟨hq, by simpa using hlt⟩)⟩

-- Samples (R398).

/-- The byte of a sample that holds the reason and the flags. -/
def State.sampleFlags (s : State) (b : Block) (w : Warp) (t : Nat) (mark : Bool) : Nat :=
  let issued := w.lastIssue == (t : Int)
  (if issued then 0 else match s.reasons b w t with
    | [] => 1
    | a :: r => r.foldl min a) + 32 * issued.bit + 64 * w.handler.bit + 128 * mark.bit

theorem State.sampleBytes_eq (s : State) (b : Block) (w : Warp) (t : Nat) (mark : Bool) : s.sampleBytes b w t mark =
    leBytes 4 w.pc ++ ([BitVec.ofNat 8 (s.sampleFlags b w t mark), BitVec.ofNat 8 w.slot, BitVec.ofNat 8 w.core,
      BitVec.ofNat 8 (w.pitch + 4 * b.vdie)] ++ leBytes 8 t) := by
  simp only [State.sampleBytes, leBytes_one, List.append_assoc]
  rfl

theorem foldl_min_le (l : List Nat) : ∀ a, l.foldl min a ≤ a := by
  induction l with
  | nil => exact fun _ => le_rfl
  | cons x l ih => exact fun a => (ih _).trans (min_le_left _ _)

theorem State.sampleFlags_bits (s : State) (b : Block) (w : Warp) (t : Nat) (mark : Bool) :
    (BitVec.ofNat 8 (s.sampleFlags b w t mark)).getLsbD 6 = w.handler ∧
    (BitVec.ofNat 8 (s.sampleFlags b w t mark)).getLsbD 7 = mark := by
  obtain ⟨x, hx, hlt⟩ : ∃ x, s.sampleFlags b w t mark = x + 64 * w.handler.bit + 128 * mark.bit ∧ x < 64 := by
    refine ⟨_, rfl, ?_⟩
    have hr : (match s.reasons b w t with | [] => 1 | a :: r => r.foldl min a) < 32 := by
      cases hw : s.reasons b w t with
      | nil => decide
      | cons a r => exact (foldl_min_le r a).trans_lt (State.reasons_lt (hw ▸ List.mem_cons_self))
    cases w.lastIssue == (t : Int) with
    | false =>
      rw [if_neg Bool.false_ne_true]
      exact Nat.lt_of_lt_of_le (Nat.add_lt_add_right hr _) (by decide)
    | true =>
      rw [if_pos rfl]
      decide
  have hsum : ∀ h m : Bool, (decide ((x + 64 * h.bit + 128 * m.bit) / 2 ^ 6 % 2 = 1) = h) ∧
      (decide ((x + 64 * h.bit + 128 * m.bit) / 2 ^ 7 % 2 = 1) = m) := by
    have h0 : Bool.bit false = 0 := rfl
    have h1 : Bool.bit true = 1 := rfl
    intro h m
    cases h <;> cases m <;> simp only [h0, h1, decide_eq_true_eq, decide_eq_false_iff_not] <;> omega
  rw [hx, BitVec.getLsbD_ofNat, BitVec.getLsbD_ofNat, Nat.testBit_eq_decide_div_mod_eq, Nat.testBit_eq_decide_div_mod_eq]
  exact hsum w.handler mark

theorem leNat_leBytes_mod (n : Nat) : ∀ x, leNat (leBytes n x) = x % 256 ^ n := by
  induction n with
  | zero => intro x; rw [pow_zero, Nat.mod_one]; rfl
  | succ n ih =>
    intro x
    have h : x % 256 ^ (n + 1) = x % 256 + 256 * (x / 256 % 256 ^ n) := by rw [Nat.pow_succ', Nat.mod_mul]
    simp [leBytes, leNat, ih, h]

theorem State.sampleBytes_facts (s : State) (b : Block) (w : Warp) (t : Nat) (mark : Bool) (bs : List Byte)
    (hbs : bs = s.sampleBytes b w t mark) : bs.length = 16 ∧
      leNat (bs.take 4) = w.pc % 2 ^ 32 ∧ bs.getD 5 0 = BitVec.ofNat 8 w.slot ∧ bs.getD 6 0 = BitVec.ofNat 8 w.core ∧
      bs.getD 7 0 = BitVec.ofNat 8 (w.pitch + 4 * b.vdie) ∧ ((bs.getD 4 0).getLsbD 6 = w.handler) ∧
      ((bs.getD 4 0).getLsbD 7 = mark) := by
  have h4 : (leBytes 4 w.pc).length = 4 := length_leBytes _ _
  have hget : ∀ j, 4 ≤ j → bs.getD j 0 = (([BitVec.ofNat 8 (s.sampleFlags b w t mark), BitVec.ofNat 8 w.slot,
      BitVec.ofNat 8 w.core, BitVec.ofNat 8 (w.pitch + 4 * b.vdie)] ++ leBytes 8 t).getD (j - 4) 0) := fun j hj => by
    rw [hbs, State.sampleBytes_eq, List.getD_append_right _ _ _ _ (by omega), h4]
  refine ⟨?_, ?_, hget 5 (by decide), hget 6 (by decide), hget 7 (by decide), ?_, ?_⟩
  · rw [hbs, State.sampleBytes_eq]
    simp [length_leBytes]
  · rw [hbs, State.sampleBytes_eq, List.take_left' h4]
    exact leNat_leBytes_mod 4 w.pc
  · rw [hget 4 (by decide)]
    exact (s.sampleFlags_bits b w t mark).1
  · rw [hget 4 (by decide)]
    exact (s.sampleFlags_bits b w t mark).2

section
variable {s : State} {fn : Nat} {l : Lantern} (h : s.lantern[fn]? = some l)
include h

theorem State.ringWrite_of (hr : l.ringOk = true) (bs : List Byte) : s.ringWrite fn bs = { s with
    mem := s.mem.writeAll (bs.mapIdx fun i v => (l.buf + (l.widx + i) % l.size, v))
    lantern := s.lantern.set fn { l with widx := (l.widx + bs.length) % 2 ^ 32 } } := by
  have hl : s.lantern.getD fn Lantern.reset = l := by simp [List.getD, h]
  unfold State.ringWrite
  rw [hl]
  refine if_neg ?_
  simp [hr]

variable {k core pitch id : Nat} (hid : id = 4 * (32 * k + core) + pitch)
include hid

theorem exec_warpSample_none {mine : List (Block × Warp)}
    (hm : mine = (s.residents k core pitch).filter fun p => p.1.ctx == l.ctx && !p.2.gone)
    (hno : l.en = false ∨ l.period < 64 ∨ 1048576 < l.period ∨ mine = []) : exec (.warpSample k core pitch fn) s = .next s := by
  have hp := State.page_of h
  subst hid
  dsimp only [exec, execWarpSample]
  rw [hp, ← hm]
  by_cases hc : (!l.en || decide (l.period < 64) || decide (1048576 < l.period)) = true
  · exact congrArg _ (if_pos hc)
  · refine congrArg _ ((if_neg hc).trans ?_)
    simp only [Bool.or_eq_true, Bool.not_eq_true', decide_eq_true_eq, not_or, Bool.not_eq_false] at hc
    have hnil : mine = [] := by
      rcases hno with hno | hno | hno | hno
      · simp [hno] at hc
      · omega
      · omega
      · exact hno
    rw [hnil, rotation_nil]

/-- The page after a sample of a pitch. -/
def Lantern.sampled (l : Lantern) (id slot : Nat) : Lantern :=
  { l with widx := (l.widx + 16) % 2 ^ 32, marks := l.marks.erase id, rotate := (id, slot) :: l.rotate.filter fun q => q.1 != id }

theorem exec_warpSample_some {p : Block × Warp} (hen : l.en = true) (h1 : 64 ≤ l.period) (h2 : l.period ≤ 1048576)
    (hr : l.ringOk = true)
    (hp : rotation ((l.rotate.find? fun p => p.1 == id).map (·.2))
      ((s.residents k core pitch).filter fun p => p.1.ctx == l.ctx && !p.2.gone) = some p) :
    ∃ t bs, bs = s.sampleBytes p.1 p.2 t (l.marks.contains id) ∧ exec (.warpSample k core pitch fn) s = .next { s with
      mem := s.mem.writeAll (bs.mapIdx fun i v => (l.buf + (l.widx + i) % l.size, v))
      lantern := s.lantern.set fn (l.sampled id p.2.slot) } := by
  have hpg := State.page_of h
  subst hid
  refine ⟨if 4 * (core % 8) + pitch < (s.cluster k (core / 8)).ptr then (s.cluster k (core / 8)).cycle
    else (s.cluster k (core / 8)).cycle - 1, _, rfl, ?_⟩
  dsimp only [exec, execWarpSample]
  rw [hpg, if_neg (by simp [hen]; omega), hp]
  dsimp only
  rw [State.ringWrite_of h hr]
  dsimp only
  obtain ⟨hlt, -⟩ := List.getElem?_eq_some_iff.1 h
  rw [modify_eq_set_of (List.getElem?_set_self hlt), List.set_set, ((State.sampleBytes_facts s p.1 p.2 _ _ _ rfl).1)]
  rfl

end

theorem Lantern.size_of_ringOk {l : Lantern} (h : l.ringOk = true) : 16 ≤ l.size := by
  obtain ⟨k, -, hk⟩ := List.any_eq_true.1 h
  rw [beq_iff_eq] at hk
  rw [hk, pow_add]
  have : 0 < 2 ^ k := Nat.two_pow_pos k
  omega

theorem mod_inj_of_close {n w i j : Nat} (hn : 16 ≤ n) (hi : i < 16) (hj : j < 16) (h : (w + i) % n = (w + j) % n) : i = j := by
  have h1 : i % n = j % n := Nat.ModEq.add_left_cancel' w h
  rwa [Nat.mod_eq_of_lt (by omega), Nat.mod_eq_of_lt (by omega)] at h1

theorem sample_taken {s : State} {k core pitch fn id : Nat} {l : Lantern} (hl : s.lantern[fn]? = some l)
    (hid : id = 4 * (32 * k + core) + pitch) (hen : l.en = true) (h1 : 64 ≤ l.period) (h2 : l.period ≤ 1048576)
    (hr : l.ringOk = true) (hwf : s.mem.wf = true) {p : Block × Warp}
    (hp : rotation ((l.rotate.find? fun p => p.1 == id).map (·.2))
      ((s.residents k core pitch).filter fun p => p.1.ctx == l.ctx && !p.2.gone) = some p) :
    ∃ (t : State) (x : Lantern) (bs : List Byte), exec (.warpSample k core pitch fn) s = .next t ∧ t.lantern[fn]? = some x ∧
      x.widx = (l.widx + 16) % 2 ^ 32 ∧ x.stop = l.stop ∧ x.bins = l.bins ∧ bs.length = 16 ∧
      leNat (bs.take 4) = p.2.pc % 2 ^ 32 ∧ bs.getD 5 0 = BitVec.ofNat 8 p.2.slot ∧ bs.getD 6 0 = BitVec.ofNat 8 p.2.core ∧
      bs.getD 7 0 = BitVec.ofNat 8 (p.2.pitch + 4 * p.1.vdie) ∧ ((bs.getD 4 0).getLsbD 6 = p.2.handler) ∧
      ((bs.getD 4 0).getLsbD 7 = l.marks.contains id) ∧
      (∀ j, j < 16 → t.mem.read (l.buf + (l.widx + j) % l.size) = bs.getD j 0) ∧
      (∀ a, (∀ j, j < 16 → a ≠ l.buf + (l.widx + j) % l.size) → t.mem.read a = s.mem.read a) ∧ t.blocks = s.blocks := by
  obtain ⟨cyc, bs, hbs, hex⟩ := exec_warpSample_some hl hid hen h1 h2 hr hp
  obtain ⟨hlen, hpc, hslot, hcore, hpitch, h6, h7⟩ := State.sampleBytes_facts s p.1 p.2 cyc _ bs hbs
  have hlt := (List.getElem?_eq_some_iff.1 hl).1
  have hsz := Lantern.size_of_ringOk hr
  refine ⟨_, l.sampled id p.2.slot, bs, hex, List.getElem?_set_self hlt, rfl, rfl, rfl, hlen, hpc, hslot, hcore, hpitch, h6, h7,
    fun j hj => ?_, fun a ha => ?_, rfl⟩
  · refine Memory.read_writeAll_mapIdx (addr := fun i => l.buf + (l.widx + i) % l.size) hwf (fun i j hi hj h => ?_) (by omega)
    exact mod_inj_of_close hsz (by omega) (by omega) (Nat.add_left_cancel h)
  · refine Memory.read_writeAll_other _ hwf fun x hx => ?_
    obtain ⟨i, hi, rfl⟩ := List.mem_iff_getElem.1 hx
    rw [List.length_mapIdx, hlen] at hi
    rw [List.getElem_mapIdx]
    exact (ha i hi).symm

theorem lanternSamples_hold : LanternSamples := fun _ _ _ _ _ _ hl =>
  ⟨exec_warpSample_none hl rfl rfl, fun hen h1 h2 hr hwf _ hp => sample_taken hl rfl hen h1 h2 hr hwf hp,
    fun _ hp => rotation_facts hp⟩

/-- Settles O43: the fields of a page, precise stops, and samples. -/
theorem lanternUnit : Obligations.LanternUnit := ⟨lanternPage_holds, preciseStops_hold, lanternSamples_hold⟩

end Sys2Proof.Machine

end

section
/-! SUPPORT. Tasks: launching, linking, pre-empting, resuming and completing them; frames that begin to move. -/

namespace Sys2Proof.Machine

open Sys2Proof.Claims

-- What the host sees of a state: its commands, tasks and contexts.

/-- Two states that agree on command queue, answers, messages, tasks and contexts. -/
def HostSame (s t : State) : Prop :=
  t.cmds = s.cmds ∧ t.returned = s.returned ∧ t.msix = s.msix ∧ t.tasks = s.tasks ∧ t.contexts = s.contexts

theorem HostSame.refl (s : State) : HostSame s s := ⟨rfl, rfl, rfl, rfl, rfl⟩

theorem HostSame.trans {s t u : State} (h : HostSame s t) (k : HostSame t u) : HostSame s u :=
  ⟨k.1.trans h.1, k.2.1.trans h.2.1, k.2.2.1.trans h.2.2.1, k.2.2.2.1.trans h.2.2.2.1, k.2.2.2.2.trans h.2.2.2.2⟩

theorem HostSame.foldl {α : Type} {f : State → α → State} (hf : ∀ s a, HostSame s (f s a)) (l : List α) (s : State) :
    HostSame s (l.foldl f s) := by
  induction l generalizing s with
  | nil => exact .refl s
  | cons a l ih => exact (hf s a).trans (ih _)

theorem hostSame_putFrame (s : State) (a : Nat) (p : Paged) : HostSame s (s.putFrame a p) := ⟨rfl, rfl, rfl, rfl, rfl⟩

theorem hostSame_writeHome (s : State) (a : Nat) (bs : List Byte) : HostSame s (s.writeHome a bs) := ⟨rfl, rfl, rfl, rfl, rfl⟩

theorem hostSame_writeTensor (s : State) (base off : Nat) (bs : List Byte) : HostSame s (s.writeTensor base off bs) := by
  refine HostSame.foldl (fun s p => ?_) _ _
  dsimp only
  split
  · exact .refl s
  · split
    · exact hostSame_writeHome _ _ _
    · exact ⟨rfl, rfl, rfl, rfl, rfl⟩

-- Launching (R86, R208).

/-- The frames and the items of a launch: zeroed queues, the records of stage 0, and the data of the image. -/
def State.seeded (s : State) (k : CmdBlock) (x : Context) (im : Image) (qs : List StageQ) : State :=
  let h := k.num 16 4
  let count := k.num 32 4
  let q0 := (qs.headD { logCap := 0, head := 0, tail := 0, stack := 0, frames := [], emptyFor := 0 })
  let s := (qs.flatMap fun q => q.frames.map fun f => (q.stack, f)).foldl (fun s f =>
    s.putFrame (frameAddr 0 f.1 f.2 0) { base := 0, tile := 0, mem := [], tags := [], stamped := [] }) s
  let s := (s.mem.readBytes (k.num 24 8) (64 * count)).zipIdx.foldl (fun (s : State) p =>
    { s with mem := s.mem.write (frameAddr 0 q0.stack (q0.frames.getD (p.2 / 65536) 0) (p.2 % 65536)) p.1 }) s
  im.data.foldl (fun s d =>
    if d.kind = 2 then
      match s.binding? x.num h d.binding with
      | some t => s.writeTensor t.base d.offset d.bytes
      | none => s
    else s) s

theorem State.seeded_same (s : State) (k : CmdBlock) (x : Context) (im : Image) (qs : List StageQ) :
    HostSame s (s.seeded k x im qs) := by
  refine (HostSame.foldl (fun s f => hostSame_putFrame s _ _) _ s).trans ((HostSame.foldl (fun s p => ?_) _ _).trans
    (HostSame.foldl (fun s d => ?_) _ _))
  · exact ⟨rfl, rfl, rfl, rfl, rfl⟩
  · split
    · split
      · exact hostSame_writeTensor _ _ _ _
      · exact .refl s
    · exact .refl s

/-- The task a launch makes (R208). -/
def launchedTask (k : CmdBlock) (x : Context) (recs : List LaunchRec) (pool : List Record) (qs : List StageQ) : Task :=
  { ctx := x.num, num := x.nextTask, tag := k.num 8 4, image := k.num 16 4, queue := k.num 21 1, recs := recs, pool := pool
    held := k.num 22 1 == 1, links := [], dispatched := false, completed := false, suspended := false
    next := recs.map fun _ => 0, drain := none, queues := qs }

/-- The state a launch leaves, but for the answer. -/
def State.launched (s : State) (k : CmdBlock) (x : Context) (im : Image) (recs : List LaunchRec) (pool : List Record)
    (qs : List StageQ) : State :=
  let u := s.seeded k x im qs
  ({ u with tasks := u.tasks ++ [launchedTask k x recs pool qs] } : State).modCtx x.num fun x =>
    { x with nextTask := x.nextTask + 1 }

/-- Entries stage 0's queue holds. -/
def firstCap (caps : List Nat) : Nat := match caps.head? with
  | some j => 2 ^ j
  | none => 0

section
variable {s : State} {fn : Nat} {k : CmdBlock} {x : Context} {im : Image} {recs : List LaunchRec} {pool : List Record}
  {qs : List StageQ}

/-- Unfinished tasks of a launch's queue (R86). -/
def State.queuedTasks (s : State) (x : Context) (k : CmdBlock) : Nat :=
  (s.tasks.filter fun t => t.ctx == x.num && t.queue == k.num 21 1 && !t.completed).length

/-- The queue capacities of the stages of a launch. -/
def stageCaps (recs : List LaunchRec) : List Nat := ((recs.headD default).stages.take (recs.headD default).nstage).map (·.2)

theorem exec_launch_eq (h : InContext s fn 5 k x [(16, 23), (24, 36), (40, 48)]) (h1 : k.num 21 1 < 16) (h2 : k.num 22 1 < 2) :
    exec (.launch fn) s = .next (match s.goodImage x.num (k.num 16 4) with
      | none => s.complete fn 4 []
      | some im =>
        if im.secver < s.rainfly.fuses then
          ({ s with
            images := s.images.map (fun (i : Image) =>
              if i.ctx == x.num && i.handle == k.num 16 4 then { i with valid := false } else i)
            rainfly := { s.rainfly with verified := s.rainfly.verified.filter fun v =>
              !(v.ctx == x.num && v.measure == im.measure && v.signer == im.signer) } } : State).complete fn 4 []
        else if 1024 ≤ s.queuedTasks x k then s.complete fn 8 []
        else
          match variants im x.vdies.length (k.num 20 1) with
          | .error e => s.complete fn e []
          | .ok recs =>
            if recs.any fun r => decide (x.bivouac * 2 ^ 20 < s.launchSpace x.num (k.num 16 4) r) then s.complete fn 5 []
            else if !s.itemsOk x.num (k.num 16 4) im.data || !recs.all (s.granted x.num im) then s.complete fn 7 []
            else
              match s.patch x.num (k.num 16 4) im.pool with
              | none => s.complete fn 7 []
              | some pool =>
                if firstCap (stageCaps recs) < k.num 32 4 then s.complete fn 1 []
                else
                  match s.makeQueues (x.vdies.headD 0) (stageCaps recs) with
                  | none => s.complete fn 8 []
                  | some qs =>
                    (s.launched k x im recs pool (qs.modify 0 fun q => { q with tail := k.num 32 4 })).complete
                      fn 0 [(40, leBytes 8 x.nextTask)]) := by
  dsimp only [exec, execLaunch]
  rw [ctxCommand_of h (by simp [h1, h2])] <;> rfl

theorem launch_refusals (h : InContext s fn 5 k x [(16, 23), (24, 36), (40, 48)]) (h1 : k.num 21 1 < 16) (h2 : k.num 22 1 < 2) :
    (s.goodImage x.num (k.num 16 4) = none → Refuses s (.launch fn) fn k 4) ∧
    (s.goodImage x.num (k.num 16 4) = some im → s.rainfly.fuses ≤ im.secver →
      (1024 ≤ s.queuedTasks x k → Refuses s (.launch fn) fn k 8) ∧
      (s.queuedTasks x k < 1024 →
        ∀ e, variants im x.vdies.length (k.num 20 1) = .error e → Refuses s (.launch fn) fn k e)) := by
  have hex := exec_launch_eq h h1 h2
  have hk : s.cmd? fn = some k := h.1.2.1
  refine ⟨fun hg => refusesFrom_complete (res := []) hk (hex.trans ?_), fun hg hf => ?_⟩
  · rw [hg]
  · rw [hg] at hex
    dsimp only at hex
    rw [if_neg (by omega)] at hex
    refine ⟨fun hq => refusesFrom_complete (res := []) hk (hex.trans (congrArg _ (if_pos hq))),
      fun hq e he => refusesFrom_complete (res := []) hk (hex.trans ?_)⟩
    rw [if_neg (by omega), he]

theorem launch_makes (h : InContext s fn 5 k x [(16, 23), (24, 36), (40, 48)]) (h1 : k.num 21 1 < 16) (h2 : k.num 22 1 < 2)
    (hg : s.goodImage x.num (k.num 16 4) = some im) (hf : s.rainfly.fuses ≤ im.secver) (hq : s.queuedTasks x k < 1024)
    (hv : variants im x.vdies.length (k.num 20 1) = .ok recs)
    (hsp : ∀ r ∈ recs, s.launchSpace x.num (k.num 16 4) r ≤ x.bivouac * 2 ^ 20)
    (hit : s.itemsOk x.num (k.num 16 4) im.data = true) (hgr : ∀ r ∈ recs, s.granted x.num im r = true)
    (hp : s.patch x.num (k.num 16 4) im.pool = some pool) (hc : k.num 32 4 ≤ firstCap (stageCaps recs))
    (hm : s.makeQueues (x.vdies.headD 0) (stageCaps recs) = some qs) :
    ∃ t y, exec (.launch fn) s = .next t ∧ Answered s t fn k 0 [(40, leBytes 8 x.nextTask)] ∧
      t.tasks = s.tasks ++ [y] ∧ y.ctx = x.num ∧ y.num = x.nextTask ∧ y.tag = k.num 8 4 ∧ y.image = k.num 16 4 ∧
      y.queue = k.num 21 1 ∧ y.recs = recs ∧ y.pool = pool ∧ y.held = (k.num 22 1 == 1) ∧ y.links = [] ∧
      y.dispatched = false ∧ y.completed = false ∧ y.suspended = false ∧
      t.contexts = s.contexts.map fun z => if z.num == x.num then { z with nextTask := z.nextTask + 1 } else z := by
  have hsp' : (recs.any fun r => decide (x.bivouac * 2 ^ 20 < s.launchSpace x.num (k.num 16 4) r)) = false := by
    rw [List.any_eq_false]
    intro r hr
    rw [decide_eq_true_eq]
    exact Nat.not_lt.2 (hsp r hr)
  have hex := exec_launch_eq h h1 h2
  rw [hg] at hex
  dsimp only at hex
  rw [if_neg (by omega), if_neg (by omega), hv] at hex
  dsimp only at hex
  rw [hsp', hit, List.all_eq_true.2 hgr, hp, if_neg Bool.false_ne_true, if_neg (by decide)] at hex
  dsimp only at hex
  rw [if_neg (by omega), hm] at hex
  dsimp only at hex
  obtain ⟨hcmds, hret, hmsix, htasks, hctx⟩ := s.seeded_same k x im (qs.modify 0 fun q => { q with tail := k.num 32 4 })
  refine ⟨_, launchedTask k x recs pool (qs.modify 0 fun q => { q with tail := k.num 32 4 }), hex,
    answered_completes h.1.2.1 hcmds hret hmsix, ?_, rfl, rfl, rfl, rfl, rfl, rfl, rfl, rfl, rfl, rfl, rfl, rfl, ?_⟩
  · rw [State.complete_frame]
    exact congrArg (· ++ _) htasks
  · rw [State.complete_frame]
    exact congrArg (List.map _) hctx

-- Links, suspension and its end (R210, R216, R218, R219).

theorem task_linked {y : Task} (h : InContext s fn 6 k x [(16, 33)]) (h1 : k.num 32 1 < 2)
    (hy : s.task? x.num (k.num 24 8) = some y) (hnc : y.completed = false)
    (he : k.num 16 8 = 0 ∨ (y.dispatched = false ∧ ∃ z, s.task? x.num (k.num 16 8) = some z ∧ z.completed = false)) :
    ∃ t, exec (.taskLink fn) s = .next t ∧ Answered s t fn k 0 [] ∧
      t.task? x.num (k.num 24 8) =
        some { y with links := if k.num 16 8 = 0 then y.links else y.links ++ [k.num 16 8],
                      held := y.held && k.num 32 1 != 1 } := by
  have hex : exec (.taskLink fn) s = .next ((s.modTask x.num (k.num 24 8) fun t =>
      { t with links := if k.num 16 8 = 0 then t.links else t.links ++ [k.num 16 8],
               held := t.held && k.num 32 1 != 1 }).complete fn 0 []) := by
    dsimp only [exec, execTaskLink]
    rw [ctxCommand_of h (by simp [h1])]
    rw [hy]
    refine congrArg Host.Outcome.next (if_neg ?_)
    rcases he with he | ⟨hd, z, hz, hzc⟩
    · simp [hnc, he]
    · simp [hnc, hd, hz, hzc]
  refine ⟨_, hex, answered_completes h.1.2.1 rfl rfl rfl, ?_⟩
  rw [State.complete_frame]
  refine (State.task?_modTask s x.num (k.num 24 8) _ ?_ x.num (k.num 24 8)).trans ?_
  · exact fun _ => ⟨rfl, rfl⟩
  · simp [hy]

theorem tasks_resumed {ts : List Task} (h : InContext s fn 8 k x [(16, 24)]) (hn : s.named x.num (k.num 16 8) = some ts) :
    ∃ t, exec (.resume fn) s = .next t ∧ Answered s t fn k 0 [] ∧ t.blocks = s.blocks ∧
      t.ctx? x.num = some { x with suspended := false } ∧
      t.tasks = s.tasks.map fun y =>
        if y.ctx == x.num && (ts.any fun z => z.num == y.num) then { y with suspended := false } else y := by
  have hex : exec (.resume fn) s = .next (({ s with tasks := s.tasks.map fun (t : Task) =>
      if t.ctx == x.num && (ts.any fun q => q.num == t.num) then { t with suspended := false } else t }.modCtx x.num fun x =>
        { x with suspended := false }).complete fn 0 []) := by
    dsimp only [exec, execResume]
    rw [ctxCommand_of h rfl]
    rw [hn]
  have hx : s.ctx? x.num = some x := State.ctx?_num h.2.1 ▸ h.2.1
  refine ⟨_, hex, answered_completes h.1.2.1 rfl rfl rfl, ?_, ?_, ?_⟩
  · rw [State.complete_frame]; rfl
  · rw [State.complete_frame]
    refine (State.ctx?_modCtx _ x.num x.num _ ?_).trans ?_
    · intro z; rfl
    · exact (congrArg (Option.map _) hx).trans (by simp)
  · rw [State.complete_frame]; rfl

end

-- Commands under way that complete (R216).

/-- A `PREEMPT` of a function under way completes when it may. -/
def State.settleOne (s : State) (fn : Nat) : State :=
  match s.cmd? fn with
  | none => s
  | some k =>
    if k.running && k.num 0 2 == 7 then
      match (s.ctx? (k.num 4 4)).bind fun x => x.fatal with
      | some f => if s.fatalKept (k.num 4 4) then s.completeFatal fn f else s
      | none => if s.settled k then s.complete fn 0 [] else s
    else s

theorem State.settleCmds_eq (s : State) : s.settleCmds = (List.range 16).foldl State.settleOne s := rfl

section
variable (s : State) (fn : Nat)

/-- What one completion does: nothing, or an answer. -/
theorem State.settleOne_cases : s.settleOne fn = s ∨ ∃ st res, s.settleOne fn = s.complete fn st res := by
  unfold State.settleOne
  split
  · exact .inl rfl
  · split
    · split
      · split
        · exact .inr ⟨11, _, rfl⟩
        · exact .inl rfl
      · split
        · exact .inr ⟨0, _, rfl⟩
        · exact .inl rfl
    · exact .inl rfl

theorem State.settleOne_frame : s.settleOne fn = { s with
    cmds := (s.settleOne fn).cmds, returned := (s.settleOne fn).returned, msix := (s.settleOne fn).msix } := by
  obtain h | ⟨st, res, h⟩ := s.settleOne_cases fn
  · rw [h]
  · rw [h]
    exact State.complete_frame s fn st res

theorem State.foldSettle_frame (l : List Nat) (s : State) : l.foldl State.settleOne s = { s with
    cmds := (l.foldl State.settleOne s).cmds, returned := (l.foldl State.settleOne s).returned
    msix := (l.foldl State.settleOne s).msix } := by
  induction l generalizing s with
  | nil => rfl
  | cons n l ih => rw [List.foldl_cons, ih, s.settleOne_frame n]

theorem State.settleCmds_frame : s.settleCmds = { s with
    cmds := s.settleCmds.cmds, returned := s.settleCmds.returned, msix := s.settleCmds.msix } :=
  State.foldSettle_frame _ _

theorem State.settleCmds_ctx (c : Nat) : s.settleCmds.ctx? c = s.ctx? c := by
  have h : s.settleCmds.contexts = s.contexts := by rw [State.settleCmds_frame]
  rw [State.ctx?, h]; rfl

theorem find?_eraseCmd {n : Nat} (hn : n ≠ fn) (l : List CmdBlock) :
    (eraseCmd fn l).find? (fun k => k.fn == n) = l.find? fun k => k.fn == n := by
  induction l with
  | nil => rfl
  | cons k l ih =>
    unfold eraseCmd
    by_cases hk : k.fn = fn
    · rw [if_pos hk, List.find?_cons_of_neg (by simp [hk, Ne.symm hn])]
    · rw [if_neg hk, List.find?_cons, List.find?_cons, ih]

theorem State.complete_cmd?_of_ne {n : Nat} (hn : n ≠ fn) (st : Nat) (res : List (Nat × List Byte)) :
    (s.complete fn st res).cmd? n = s.cmd? n := by
  cases hk : s.cmd? fn with
  | none => simp only [State.complete, hk]
  | some k =>
    rw [State.complete_eq hk]
    exact find?_eraseCmd fn hn s.cmds

theorem State.complete_returned_mem {r : CmdBlock} (st : Nat) (res : List (Nat × List Byte)) (h : r ∈ s.returned) :
    r ∈ (s.complete fn st res).returned := by
  cases hk : s.cmd? fn with
  | none => simpa only [State.complete, hk] using h
  | some k =>
    rw [State.complete_eq hk]
    exact List.mem_append_left _ h

theorem State.settleOne_cmd?_of_ne {n : Nat} (hn : n ≠ fn) : (s.settleOne fn).cmd? n = s.cmd? n := by
  obtain h | ⟨st, res, h⟩ := s.settleOne_cases fn
  · rw [h]
  · rw [h]; exact s.complete_cmd?_of_ne fn hn st res

theorem State.settleOne_returned_mem {r : CmdBlock} (h : r ∈ s.returned) : r ∈ (s.settleOne fn).returned := by
  obtain he | ⟨st, res, he⟩ := s.settleOne_cases fn
  · rwa [he]
  · rw [he]; exact s.complete_returned_mem fn st res h

end

section
variable {s : State} {fn : Nat} {k : CmdBlock} {x : Context}

/-- No `PREEMPT` of a function is under way. -/
def State.noPreempt (s : State) (n : Nat) : Prop := ∀ m, s.cmd? n = some m → m.running = false ∨ m.num 0 2 ≠ 7

theorem State.settleOne_idle (h : s.noPreempt fn) : s.settleOne fn = s := by
  unfold State.settleOne
  cases hk : s.cmd? fn with
  | none => rfl
  | some m =>
    refine if_neg ?_
    rcases h m hk with h | h <;> simp [h]

theorem State.foldSettle_idle {l : List Nat} (h : ∀ n ∈ l, s.noPreempt n) : l.foldl State.settleOne s = s := by
  induction l with
  | nil => rfl
  | cons n l ih =>
    rw [List.foldl_cons, State.settleOne_idle (h n List.mem_cons_self)]
    exact ih fun m hm => h m (List.mem_cons_of_mem _ hm)

theorem State.settled_iff : s.settled k = true ↔ ∀ n ∈ k.wants, ∀ b, s.block? n = some b → b.status ≠ .placed := by
  unfold State.settled
  rw [List.all_eq_true]
  refine forall_congr' fun n => forall_congr' fun _ => ?_
  cases s.block? n <;> simp

theorem State.settleOne_running (hk : s.cmd? fn = some k) (hr : k.running = true) (hc : k.num 0 2 = 7)
    (hf : (s.ctx? (k.num 4 4)).bind (·.fatal) = none) :
    s.settleOne fn = if s.settled k then s.complete fn 0 [] else s := by
  unfold State.settleOne
  rw [hk]
  dsimp only
  rw [hr, hc, hf]
  rfl

/-- With one `PREEMPT` under way, it alone may complete. -/
theorem settleCmds_of_one (hfn : fn < 16) (hk : s.cmd? fn = some k) (hr : k.running = true) (hc : k.num 0 2 = 7)
    (hf : (s.ctx? (k.num 4 4)).bind (·.fatal) = none) (hno : ∀ n, n ≠ fn → s.noPreempt n) :
    s.settleCmds = if s.settled k then s.complete fn 0 [] else s := by
  have hone := State.settleOne_running hk hr hc hf
  obtain ⟨pre, post, hl, hpre⟩ := List.eq_append_cons_of_mem (List.mem_range.2 hfn)
  have hpost : fn ∉ post := by
    have hnd : (pre ++ fn :: post).Nodup := hl ▸ List.nodup_range
    exact (List.nodup_cons.1 (List.nodup_append.1 hnd).2.1).1
  rw [State.settleCmds_eq, hl, List.foldl_append, List.foldl_cons,
    State.foldSettle_idle fun n hn => hno n fun h => hpre (h ▸ hn), hone]
  by_cases hs : s.settled k = true
  · rw [if_pos hs]
    refine State.foldSettle_idle fun n hn m hm => ?_
    have hne : n ≠ fn := fun h => hpost (h ▸ hn)
    rw [State.complete_cmd?_of_ne _ _ hne] at hm
    exact hno n hne m hm
  · rw [if_neg hs]
    exact State.foldSettle_idle fun n hn => hno n fun h => hpost (h ▸ hn)

/-- A `PREEMPT` that waits for nothing completes, whatever else does. -/
theorem settleCmds_answers (hfn : fn < 16) (hk : s.cmd? fn = some k) (hr : k.running = true) (hc : k.num 0 2 = 7)
    (hf : (s.ctx? (k.num 4 4)).bind (·.fatal) = none) (hw : k.wants = []) :
    { k with bytes := answer k 0 [], running := false, wants := [] } ∈ s.settleCmds.returned := by
  obtain ⟨pre, post, hl, hpre⟩ := List.eq_append_cons_of_mem (List.mem_range.2 hfn)
  rw [State.settleCmds_eq, hl, List.foldl_append, List.foldl_cons]
  have hframe := State.foldSettle_frame pre s
  have hcmd : (pre.foldl State.settleOne s).cmd? fn = some k := by
    have : ∀ l : List Nat, fn ∉ l → ∀ u : State, (l.foldl State.settleOne u).cmd? fn = u.cmd? fn := by
      intro l
      induction l with
      | nil => exact fun _ _ => rfl
      | cons n l ih =>
        intro hn u
        rw [List.mem_cons, not_or] at hn
        rw [List.foldl_cons, ih hn.2, State.settleOne_cmd?_of_ne _ _ hn.1]
    rw [this pre hpre, hk]
  have hctx : (pre.foldl State.settleOne s).ctx? (k.num 4 4) = s.ctx? (k.num 4 4) := by rw [hframe]; rfl
  generalize pre.foldl State.settleOne s = u at *
  refine foldl_preserves (P := fun t => _ ∈ t.returned) (fun t n => State.settleOne_returned_mem t n) post _ ?_
  rw [State.settleOne_running hcmd hr hc (by rw [hctx]; exact hf), if_pos (State.settled_iff.2 (by simp [hw])), State.complete_eq hcmd]
  exact List.mem_append_right _ (List.mem_singleton.2 rfl)

end

-- `PREEMPT` (R216, R219).

section
variable (s : State) (c : Nat)

/-- The tasks of a context that a list names, suspended. -/
def suspendIn (ts : List Task) (y : Task) : Task :=
  if y.ctx == c && (ts.any fun z => z.num == y.num) then { y with suspended := true } else y

theorem State.suspend_tasks (n : Nat) : (s.suspend c n).tasks =
    s.tasks.map fun y => if y.ctx == c && y.num == n then { y with suspended := true } else y := rfl

theorem foldSuspend_tasks (ts : List Task) : ∀ s : State,
    (ts.foldl (fun (s : State) t => s.suspend c t.num) s).tasks = s.tasks.map (suspendIn c ts) := by
  induction ts with
  | nil =>
    intro s
    have : suspendIn c [] = id := by funext y; simp [suspendIn]
    rw [List.foldl_nil, this, List.map_id]
  | cons t ts ih =>
    intro s
    rw [List.foldl_cons, ih, State.suspend_tasks, List.map_map]
    refine List.map_congr_left fun y _ => ?_
    simp only [Function.comp_apply, suspendIn, List.any_cons]
    by_cases h1 : y.ctx = c
    · by_cases h2 : t.num = y.num
      · simp [h1, h2]
      · simp [h1, h2, Ne.symm h2]
    · simp [h1]

theorem foldSuspend_frame (ts : List Task) : ∀ s : State, (ts.foldl (fun (s : State) t => s.suspend c t.num) s) =
    { s with tasks := (ts.foldl (fun (s : State) t => s.suspend c t.num) s).tasks
             blocks := (ts.foldl (fun (s : State) t => s.suspend c t.num) s).blocks } := by
  induction ts with
  | nil => exact fun _ => rfl
  | cons t ts ih => exact fun s => (ih (s.suspend c t.num)).trans rfl

/-- A placed block is as it was when tasks are suspended. -/
theorem foldSuspend_placed {b : Block} (hb : b ∈ s.blocks) (hp : b.status = .placed) (ts : List Task) :
    b ∈ (ts.foldl (fun (s : State) t => s.suspend c t.num) s).blocks := by
  refine foldl_preserves (P := fun t : State => b ∈ t.blocks) (fun t y h => ?_) ts s hb
  refine List.mem_map.2 ⟨b, h, if_neg ?_⟩
  simp [hp]

end

/-- A block whose save is asked for. -/
def Block.asked (b : Block) (by_ : PreemptBy) (since : Nat) : Block :=
  { b with pre := some { by_ := by_, since := since }, warps := b.warps.map fun w =>
      { ({ w with stopped := false } : Warp) with held := w.held || w.atPoint } }

theorem State.requestSave_command (s : State) (n fn : Nat) : (s.requestSave n (.command fn)).blocks =
    s.blocks.map fun b => if b.bid == n then b.asked (.command fn) (s.stack? b.stack).that else b := by
  have h : ∀ u : State, (u.requestSave n (.command fn)).blocks = ((u.modBlock n fun b =>
      { b with warps := b.warps.map fun (w : Warp) => { w with stopped := false } }).modBlock n fun b =>
      { b with pre := some { by_ := .command fn, since := (u.stack? b.stack).that }
               warps := b.warps.map fun w => { w with held := w.held || w.atPoint } }).blocks := fun u => rfl
  rw [h, State.modBlock_modBlock]
  · refine List.map_congr_left fun b _ => ?_
    dsimp only
    rw [List.map_map]
    rfl
  · intro b; rfl

/-- The saves asked for: every block named is asked, in the time of its own die. -/
theorem foldRequest_asks {fn that : Nat} (bids : List Nat) : ∀ (s : State) (b : Block), b ∈ s.blocks → b.bid ∈ bids →
    (s.stack? b.stack).that = that →
    ∃ b' ∈ (bids.foldl (fun (s : State) n => s.requestSave n (.command fn)) s).blocks, b'.bid = b.bid ∧
      b'.pre = some { by_ := .command fn, since := that } := by
  have hstep : ∀ (s : State) (n : Nat) (b : Block), (∃ b' ∈ s.blocks, b'.bid = b.bid ∧ b'.stack = b.stack ∧
      b'.pre = some { by_ := .command fn, since := that }) → (s.stack? b.stack).that = that →
      ∃ b' ∈ (s.requestSave n (.command fn)).blocks, b'.bid = b.bid ∧ b'.stack = b.stack ∧
        b'.pre = some { by_ := .command fn, since := that } := by
    rintro s n b ⟨b', hb', hid, hst, hpre⟩ ht
    refine ⟨if b'.bid == n then b'.asked (.command fn) (s.stack? b'.stack).that else b', ?_, ?_⟩
    · rw [State.requestSave_command]
      exact List.mem_map_of_mem hb'
    · split
      · exact ⟨hid, hst, by rw [Block.asked, hst, ht]⟩
      · exact ⟨hid, hst, hpre⟩
  have hkeep : ∀ (l : List Nat) (s : State) (b : Block), (∃ b' ∈ s.blocks, b'.bid = b.bid ∧ b'.stack = b.stack ∧
      b'.pre = some { by_ := .command fn, since := that }) → (s.stack? b.stack).that = that →
      ∃ b' ∈ (l.foldl (fun (s : State) n => s.requestSave n (.command fn)) s).blocks, b'.bid = b.bid ∧
        b'.pre = some { by_ := .command fn, since := that } := by
    intro l
    induction l with
    | nil =>
      rintro s b ⟨b', hb', hid, -, hpre⟩ -
      exact ⟨b', hb', hid, hpre⟩
    | cons n l ih =>
      intro s b h ht
      refine ih _ b (hstep s n b h ht) ?_
      simpa only [State.stack?, State.requestSave_stks] using ht
  induction bids with
  | nil => intro s b _ hn; cases hn
  | cons n bids ih =>
    intro s b hb hn ht
    have ht' : ((s.requestSave n (.command fn)).stack? b.stack).that = that := by
      simpa only [State.stack?, State.requestSave_stks] using ht
    rw [List.foldl_cons]
    have hmem : (if b.bid == n then b.asked (.command fn) (s.stack? b.stack).that else b) ∈
        (s.requestSave n (.command fn)).blocks := by
      rw [State.requestSave_command]
      exact List.mem_map_of_mem hb
    by_cases hbn : b.bid = n
    · rw [if_pos (by simpa using hbn)] at hmem
      exact hkeep bids _ b ⟨_, hmem, rfl, rfl, by rw [Block.asked, ht]⟩ ht'
    · rw [if_neg (by simpa using hbn)] at hmem
      exact ih _ b hmem ((List.mem_cons.1 hn).resolve_left hbn) ht'

theorem foldRequest_frame (fn : Nat) (bids : List Nat) : ∀ s : State,
    bids.foldl (fun (s : State) n => s.requestSave n (.command fn)) s = { s with
      blocks := (bids.foldl (fun (s : State) n => s.requestSave n (.command fn)) s).blocks
      lantern := (bids.foldl (fun (s : State) n => s.requestSave n (.command fn)) s).lantern } := by
  induction bids with
  | nil => exact fun _ => rfl
  | cons n bids ih => exact fun s => (ih (s.requestSave n (.command fn))).trans rfl

section
variable {s : State} {fn : Nat} {k : CmdBlock} {x : Context} {ts : List Task}

/-- The blocks a `PREEMPT` asks the save of. -/
def State.preemptBids (s : State) (x : Context) (ts : List Task) : List Nat :=
  (s.blocks.filter fun b => b.ctx == x.num && (ts.any fun t => t.num == b.task) && b.status == .placed).map Block.bid

/-- A `PREEMPT` under way, before the saves are asked for. -/
def State.preempting (s : State) (fn : Nat) (k : CmdBlock) (x : Context) (ts : List Task) : State :=
  let bids := s.preemptBids x ts
  let s := ts.foldl (fun (s : State) t => s.suspend x.num t.num) s
  let s := if k.num 16 8 = Config.ones64 then s.modCtx x.num fun x => { x with suspended := true } else s
  { s with cmds := s.cmds.map fun (c : CmdBlock) =>
      if c.fn == fn && c.slot == k.slot then { c with running := true, wants := bids } else c }

theorem exec_preempt_eq (h : InContext s.reap fn 7 k x [(16, 24)]) (hn : s.reap.named x.num (k.num 16 8) = some ts) :
    exec (.preempt fn) s = .next (((s.reap.preemptBids x ts).foldl (fun (s : State) b => s.requestSave b (.command fn))
      (s.reap.preempting fn k x ts)).settleCmds) := by
  dsimp only [exec, execPreempt]
  rw [ctxCommand_of h rfl]
  rw [hn] <;> rfl

theorem State.preempting_blocks : (s.preempting fn k x ts).blocks =
    (ts.foldl (fun (s : State) t => s.suspend x.num t.num) s).blocks := by
  unfold State.preempting
  dsimp only
  split <;> rfl

theorem State.preempting_tasks : (s.preempting fn k x ts).tasks = s.tasks.map (suspendIn x.num ts) := by
  rw [← foldSuspend_tasks]
  unfold State.preempting
  dsimp only
  split <;> rfl

theorem State.preempting_stks : (s.preempting fn k x ts).stks = s.stks := by
  have := congrArg State.stks (foldSuspend_frame x.num ts s)
  unfold State.preempting
  dsimp only
  split
  · exact this
  · exact this

theorem State.preempting_ctx (hx : s.ctx? x.num = some x) :
    (s.preempting fn k x ts).ctx? x.num = some (if k.num 16 8 = Config.ones64 then { x with suspended := true } else x) := by
  have hc := congrArg State.contexts (foldSuspend_frame x.num ts s)
  have hx' : (ts.foldl (fun (s : State) t => s.suspend x.num t.num) s).ctx? x.num = some x :=
    (congrArg (List.find? _) hc).trans hx
  unfold State.preempting
  dsimp only
  split
  · refine (State.ctx?_modCtx _ x.num x.num _ ?_).trans ?_
    · intro z; rfl
    · exact (congrArg (Option.map _) hx').trans (by simp)
  · exact hx'

theorem State.preempting_cmd (hk : s.cmd? fn = some k) :
    (s.preempting fn k x ts).cmd? fn = some { k with running := true, wants := s.preemptBids x ts } := by
  have hc : (s.preempting fn k x ts).cmds = s.cmds.map fun (c : CmdBlock) =>
      if c.fn == fn && c.slot == k.slot then { c with running := true, wants := s.preemptBids x ts } else c := by
    have := congrArg State.cmds (foldSuspend_frame x.num ts s)
    unfold State.preempting
    dsimp only
    split
    · exact congrArg (List.map _) this
    · exact congrArg (List.map _) this
  have hfn : k.fn = fn := by simpa using List.find?_some hk
  have hsame : (fun c : CmdBlock => c.fn == fn) ∘ (fun c =>
      if c.fn == fn && c.slot == k.slot then { c with running := true, wants := s.preemptBids x ts } else c) =
      fun c => c.fn == fn := by
    funext c
    by_cases hc : (c.fn == fn && c.slot == k.slot) = true <;> simp [Function.comp, hc]
  rw [State.cmd?, hc, List.find?_map, hsame]
  exact (congrArg (Option.map _) hk).trans (by simp [hfn])

theorem tasks_preempted (h : InContext s.reap fn 7 k x [(16, 24)]) (hfn : fn < 16)
    (hn : s.reap.named x.num (k.num 16 8) = some ts) :
    ∃ t, exec (.preempt fn) s = .next t ∧
      (∀ y ∈ s.reap.tasks, y.ctx = x.num → (∃ z ∈ ts, z.num = y.num) → { y with suspended := true } ∈ t.tasks) ∧
      (k.num 16 8 = 2 ^ 64 - 1 → t.ctx? x.num = some { x with suspended := true }) ∧
      (∀ b ∈ s.reap.blocks, b.ctx = x.num → b.status = .placed → (∃ z ∈ ts, z.num = b.task) →
        ∃ b' ∈ t.blocks, b'.bid = b.bid ∧
          b'.pre = some { by_ := .command fn, since := (s.reap.stack? b.stack).that }) ∧
      ((∀ b ∈ s.reap.blocks, b.ctx = x.num → b.status = .placed → ∀ z ∈ ts, z.num ≠ b.task) →
        ∃ r ∈ t.returned, r = { k with bytes := answer k 0 [], running := false, wants := [] }) := by
  refine ⟨_, exec_preempt_eq h hn, ?_⟩
  generalize s.reap = u at *
  obtain ⟨⟨-, hk, -, hcode⟩, hxk, -, hfat, -⟩ := h
  have hx : u.ctx? x.num = some x := State.ctx?_num hxk ▸ hxk
  have hnum : k.num 4 4 = x.num := (State.ctx?_num hxk).symm
  have hask := fun (b : Block) => foldRequest_asks (fn := fn) (that := (u.stack? b.stack).that) (u.preemptBids x ts)
    (u.preempting fn k x ts) b
  have hfr := foldRequest_frame fn (u.preemptBids x ts) (u.preempting fn k x ts)
  generalize (u.preemptBids x ts).foldl (fun (s : State) b => s.requestSave b (.command fn)) (u.preempting fn k x ts) = v at *
  have hvt : v.tasks = u.tasks.map (suspendIn x.num ts) := (congrArg State.tasks hfr).trans (State.preempting_tasks (fn := fn))
  have hvx : v.ctx? x.num = some (if k.num 16 8 = Config.ones64 then { x with suspended := true } else x) :=
    (congrArg (fun t : State => t.ctx? x.num) hfr).trans (State.preempting_ctx (fn := fn) hx)
  have hvk : v.cmd? fn = some { k with running := true, wants := u.preemptBids x ts } :=
    (congrArg (fun t : State => t.cmd? fn) hfr).trans (State.preempting_cmd hk)
  refine ⟨fun y hy hyc hz => ?_, fun hall => ?_, fun b hb hbc hp hz => ?_, fun hno => ?_⟩
  · rw [State.settleCmds_frame]
    have hany : (ts.any fun z => z.num == y.num) = true := by simpa using hz
    refine hvt ▸ List.mem_map.2 ⟨y, hy, ?_⟩
    rw [suspendIn, hyc, hany]
    exact if_pos (by simp)
  · have hones : k.num 16 8 = Config.ones64 := hall.trans (by norm_num [Config.ones64])
    rw [if_pos hones] at hvx
    rw [State.settleCmds_ctx, hvx]
  · rw [State.settleCmds_frame]
    refine hask b ?_ ?_ ?_
    · rw [State.preempting_blocks]
      exact foldSuspend_placed u x.num hb hp ts
    · refine List.mem_map.2 ⟨b, List.mem_filter.2 ⟨hb, ?_⟩, rfl⟩
      simpa [hbc, hp] using hz
    · rw [State.stack?, State.preempting_stks]
      rfl
  · have hnil : u.preemptBids x ts = [] := by
      refine List.map_eq_nil_iff.2 (List.filter_eq_nil_iff.2 fun b hb hc => ?_)
      simp only [Bool.and_eq_true, beq_iff_eq, List.any_eq_true] at hc
      obtain ⟨⟨hbc, z, hz, hzt⟩, hp⟩ := hc
      exact hno b hb hbc hp z hz hzt
    rw [hnil] at hvk
    refine ⟨_, settleCmds_answers hfn hvk rfl hcode ?_ rfl, rfl⟩
    have hnum' : ({ k with running := true, wants := [] } : CmdBlock).num 4 4 = x.num := hnum
    rw [hnum', hvx]
    dsimp only [Option.bind_some]
    split
    · exact hfat
    · exact hfat

end

theorem launchAndPreempt_hold : LaunchAndPreempt := by
  refine ⟨fun s fn h k x im recs pool qs hin hh h1 h2 => ?_, fun s fn k x y h h1 => task_linked h h1,
    fun s fn k x ts h hfn hn => tasks_preempted h hfn hn, fun s fn k x ts h hn => tasks_resumed h hn⟩
  subst hh
  refine ⟨(launch_refusals (im := im) hin h1 h2).1, fun hg hf => ⟨((launch_refusals hin h1 h2).2 hg hf).1, fun hq =>
    ⟨((launch_refusals hin h1 h2).2 hg hf).2 hq, fun hv hsp hit hgr hp hc hm => ?_⟩⟩⟩
  exact launch_makes hin h1 h2 hg hf hq hv hsp hit hgr hp hc hm

-- Saves a command asked for (R216).

section
variable {s : State} {n fn : Nat} {b : Block} {p : PreReq}

theorem State.detach_blocks (s : State) (o : EngOp) : (s.detach o).blocks = s.blocks := by
  unfold State.detach
  rw [State.pin_frame]
  dsimp only
  split <;> rfl

theorem State.block?_setBlock {nb : Block} (hb : s.block? n = some b) (hn : nb.bid = n) : (s.setBlock nb).block? n = some nb := by
  subst hn
  have hsame : (fun y : Block => y.bid == nb.bid) ∘ (fun y : Block => if y.bid == nb.bid then nb else y) =
      fun y => y.bid == nb.bid := by
    funext y
    by_cases hy : y.bid = nb.bid <;> simp [hy]
  have hbid : b.bid = nb.bid := State.block?_bid hb
  refine (List.find?_map ..).trans ?_
  rw [hsame]
  exact (congrArg (Option.map _) hb).trans (by simp [hbid])

theorem State.foldDetach_blocks (l : List EngOp) : (l.foldl State.detach s).blocks = s.blocks :=
  foldl_keeps State.blocks State.detach_blocks l s

/-- The block as its save leaves it, found under its number. -/
theorem State.saveBlock_block (hb : s.block? n = some b) (st : BStatus) :
    ∃ b', (s.saveBlock b st).block? n = some b' ∧ b'.status = st := by
  have hfound : ∀ l : List EngOp, (l.foldl State.detach s).block? n = some b := fun l =>
    (congrArg (List.find? fun y : Block => y.bid == n) (State.foldDetach_blocks l)).trans hb
  have hn : b.bid = n := State.block?_bid hb
  unfold State.saveBlock
  dsimp only
  exact ⟨_, State.block?_setBlock (hfound _) hn, rfl⟩

theorem preemptCompletes_hold : PreemptCompletes := by
  refine ⟨fun s fn k x hfn hk hr hc hx hf hno => ?_, fun s n fn b p hb hp hby hst hdr hdead hstill hsync hdrained => ?_⟩
  · have hone := settleCmds_of_one hfn hk hr hc (by rw [hx]; exact hf) fun m hm y => hno m y hm
    refine ⟨fun hall => ?_, fun hex => ?_⟩
    · rw [hone, if_pos (State.settled_iff.2 hall)]
      exact ⟨answered_complete hk, by rw [State.complete_frame], by rw [State.complete_frame]⟩
    · rw [hone]
      refine if_neg fun h => ?_
      obtain ⟨n, hn, b, hb, hp⟩ := hex
      exact State.settled_iff.1 h n hn b hb hp
  · refine ⟨?_, State.saveBlock_block hb .saved⟩
    have hgo : (b.status != .placed || b.draining || s.reap.dead b.ctx || !b.warps.all (s.reap.still b) ||
        b.warps.any Warp.atSync || !s.reap.drained b) = false := by
      have hall : b.warps.all (s.reap.still b) = true := List.all_eq_true.2 hstill
      have hany : b.warps.any Warp.atSync = false := List.any_eq_false.2 fun w hw => by simp [hsync w hw]
      rw [hst, hdr, hdead, hall, hany, hdrained]
      rfl
    dsimp only [exec, execBlockSave]
    rw [hb]
    dsimp only
    rw [hp]
    dsimp only
    rw [hgo, hby]
    rfl

end

/-- Settles O39: `LAUNCH`, `TASK_LINK`, `PREEMPT` and `RESUME` through the equation each has once its command's checks have passed;
the completion of a `PREEMPT` through what one pass over the functions does when no other is under way. -/
theorem taskCommands : Obligations.TaskCommands := ⟨launchAndPreempt_hold, preemptCompletes_hold⟩

end Sys2Proof.Machine

namespace Sys2Proof.Machine
open Sys2Proof.Claims

section
variable {s : State} {c n : Nat} {y : Task} {x : Context}

theorem State.task?_key (h : s.task? c n = some y) : y.ctx = c ∧ y.num = n := by
  simpa using List.find?_some h

/-- A task that completes: its record waits in its context's queue, its stage queues are gone, no command is answered. -/
theorem State.finishTask_completes (hy : s.task? c n = some y) (hx : s.ctx? c = some x) (status : Nat) :
    ∃ z x', (s.finishTask y status).task? c n = some z ∧ z.completed = true ∧ z.queues = [] ∧
      (s.finishTask y status).ctx? c = some x' ∧ (s.finishTask y status).cmds = s.cmds ∧
      x'.queued = x.queued ++ [{ task := n, tag := y.tag, status := status, stamp := s.tb.latest }] := by
  obtain ⟨rfl, rfl⟩ := State.task?_key hy
  let u : State := s.modTask y.ctx y.num fun t => { t with completed := true, queues := [] }
  let v : State := u.modCtx y.ctx fun x =>
    { x with queued := x.queued ++ [{ task := y.num, tag := y.tag, status := status, stamp := u.tb.latest }] }
  have hfin : s.finishTask y status = v.freeTensors := rfl
  have hfr := v.freeTensors_frame
  have htask : v.freeTensors.tasks = u.tasks := by rw [hfr]; rfl
  have hctx : v.freeTensors.contexts = v.contexts := by rw [hfr]
  have hcmds : v.freeTensors.cmds = s.cmds := by rw [hfr]; rfl
  have hz : u.task? y.ctx y.num = some { y with completed := true, queues := [] } := by
    refine (State.task?_modTask s y.ctx y.num _ ?_ y.ctx y.num).trans ?_
    · exact fun _ => ⟨rfl, rfl⟩
    · rw [hy]; exact congrArg some (if_pos ⟨rfl, rfl⟩)
  have hx' : v.ctx? y.ctx = some { x with queued := x.queued ++
      [{ task := y.num, tag := y.tag, status := status, stamp := s.tb.latest }] } := by
    refine (State.ctx?_modCtx u y.ctx y.ctx _ ?_).trans ?_
    · intro z; rfl
    · exact (congrArg (Option.map _) hx).trans (congrArg some (if_pos rfl))
  refine ⟨{ y with completed := true, queues := [] },
    { x with queued := x.queued ++ [{ task := y.num, tag := y.tag, status := status, stamp := s.tb.latest }] },
    ?_, rfl, rfl, ?_, hfin ▸ hcmds, rfl⟩
  · rw [hfin, State.task?, htask]; exact hz
  · rw [hfin, State.ctx?, hctx]; exact hx'

theorem exec_taskCompletion_eq (hy : s.reap.task? c n = some y) (hx : s.reap.ctx? c = some x) :
    exec (.taskCompletion c n) s = .next (
      if y.completed then s.reap
      else if x.fatal.isSome then if s.reap.fatalKept c then s.reap.finishTask y 11 else s.reap.fatalStep c
      else if !y.dispatched || !s.reap.allDone y then s.reap
      else if s.reap.drainedTo c (y.drain.getD s.reap.uid) then s.reap.finishTask y 0
      else s.reap.modTask c n fun t => { t with drain := some (y.drain.getD s.reap.uid) }) := by
  dsimp only [exec, execTaskCompletion]
  rw [hy, hx]

end

section
variable {s : State} {c : Nat} {x : Context} {k : Completion} {rest : List Completion}

/-- A record of the completion ring (R211). -/
def Completion.record (k : Completion) (seq : Nat) : List Byte :=
  leBytes 8 k.task ++ leBytes 4 k.tag ++ leBytes 4 k.status ++ leBytes 8 k.stamp ++ leBytes 8 seq

theorem Completion.length_record (k : Completion) (seq : Nat) : (k.record seq).length = 32 := by
  simp [Completion.record, length_leBytes]

/-- The read count of a context's ring (R212): never below the highest seen, never above the records written. -/
def State.readOf (s : State) (x : Context) : Nat := max x.readCnt (min (leNat (s.mem.readBytes (x.ringAddr - 8) 8)) x.posted)

/-- The state with a context's record in its ring. -/
def State.recordIn (s : State) (x : Context) (k : Completion) : State :=
  { s with mem := s.mem.writeBytes (x.ringAddr + 32 * (x.posted % x.ringSize)) (k.record (x.posted + 1))
           msix := s.msix ++ [(x.fn, 1)] }

/-- The state with the oldest waiting record written. -/
def State.posting (s : State) (x : Context) (k : Completion) (rest : List Completion) : State :=
  (s.recordIn x k).modCtx x.num fun y =>
    { y with queued := rest, posted := y.posted + 1, readCnt := s.readOf x }

theorem exec_completionRingWrite_eq (hx : s.ctx? c = some x) (hq : x.queued = k :: rest) :
    exec (.completionRingWrite c) s = .next (if x.ringSize ≤ x.posted - s.readOf x
      then s.modCtx c fun y => { y with readCnt := s.readOf x } else s.posting x k rest) := by
  obtain rfl := State.ctx?_num hx
  dsimp only [exec, execCompletionRingWrite]
  rw [hx]
  dsimp only
  rw [hq]
  exact congrArg Host.Outcome.next rfl

theorem State.posting_mem : (s.posting x k rest).mem =
    s.mem.writeBytes (x.ringAddr + 32 * (x.posted % x.ringSize)) (k.record (x.posted + 1)) := by
  rw [State.posting, State.modCtx_mem, State.recordIn]

theorem State.posting_ctx (hx : s.ctx? x.num = some x) : (s.posting x k rest).ctx? x.num =
    some { x with queued := rest, posted := x.posted + 1, readCnt := s.readOf x } := by
  have hc : (s.recordIn x k).contexts = s.contexts := by rw [State.recordIn]
  have hx' : (s.recordIn x k).ctx? x.num = some x := by rw [State.ctx?, hc]; exact hx
  refine (State.ctx?_modCtx _ x.num x.num _ ?_).trans ?_
  · intro z; rfl
  · rw [hx', Option.map_some, if_pos rfl]

end

/-- Settles O55: completion by the cases of its event, with what the task's end leaves (`State.finishTask_completes`); the ring's
record through the rules of bytes written. -/
theorem tasksComplete : Obligations.TasksComplete := by
  refine ⟨?_, fun s c x k rest hx hq => ⟨fun hfull => ?_, fun hroom hwf => ?_⟩⟩
  · intro s c n y x r upto completes hy hx
    have heq := exec_taskCompletion_eq hy hx
    have hcomp : ∀ status, exec (.taskCompletion c n) s = .next (s.reap.finishTask y status) → completes status := by
      intro status h
      obtain ⟨z, x', hz, hzc, hzq, hx', hcmds, hrec⟩ := State.finishTask_completes hy hx status
      exact ⟨_, z, x', h, hz, hzc, hzq, hx', hcmds, hrec⟩
    refine ⟨fun hc => ?_, fun hc hf => ⟨fun hd => ?_, fun hd ha hdr => hcomp 0 ?_, fun hd ha hdr => ?_⟩,
      fun hc hf => ⟨fun hk => hcomp 11 ?_, fun hk => ?_⟩⟩
    · rw [heq, if_pos hc]
    · rw [heq, if_neg (by simp [hc]), if_neg (by simp [hf]), if_pos (by rcases hd with h | h <;> simp [h, r] at h ⊢ <;> simp [h])]
    · rw [heq, if_neg (by simp [hc]), if_neg (by simp [hf]), if_neg (by simp [hd, show s.reap.allDone y = true from ha]), if_pos hdr]
    · rw [heq, if_neg (by simp [hc]), if_neg (by simp [hf]), if_neg (by simp [hd, show s.reap.allDone y = true from ha]),
        if_neg (by simpa [r, upto] using hdr)]
    · rw [heq, if_neg (by simp [hc]), if_pos hf, if_pos hk]
    · rw [heq, if_neg (by simp [hc]), if_pos hf, if_neg (by simpa [r] using hk)]
  · rw [exec_completionRingWrite_eq hx hq]
    exact congrArg Host.Outcome.next (if_pos hfull)
  · rw [exec_completionRingWrite_eq hx hq]
    refine ⟨_, _, congrArg Host.Outcome.next (if_neg (Nat.not_le.2 hroom)), ?_, rfl, rfl, ?_, fun a ha => ?_⟩
    · obtain rfl := State.ctx?_num hx
      exact State.posting_ctx hx
    · have := Memory.readBytes_writeBytes hwf (x.ringAddr + 32 * (x.posted % x.ringSize)) (k.record (x.posted + 1))
      rw [Completion.length_record] at this
      rw [State.posting_mem]
      exact this
    · rw [State.posting_mem]
      exact Memory.read_writeBytes_other _ a _ hwf (by rw [Completion.length_record]; exact ha)

end Sys2Proof.Machine

namespace Sys2Proof.Machine
open Sys2Proof.Claims

/-- A resident frame of tier H on stack 0, moving or not. -/
def homeEntry (moving : Option (Nat × Nat)) : TileEntry :=
  { resident := true, writable := true, metered := false, pins := 0, tier := 1, die := 0, frame := 0, moving := moving }

/-- A tensor of one such frame. -/
def homeTensor (base : Nat) (moving : Option (Nat × Nat)) : Tensor :=
  { (default : Tensor) with base := base, entries := [homeEntry moving] }

/-- Stack 1 has one frame of tier H, which a move of the second tensor at base 0 has taken; stack 1 uses the frame of the tensor at
base 1 often, stack 2 that at base 0. -/
def twinTensors : State :=
  { State.reset with
    contexts := [{ (default : Context) with vdies := List.replicate 16 1, bivouac := Config.hbmFrames - 1 }]
    tensors := [homeTensor 1 none, homeTensor 0 none, homeTensor 0 (some (1, 0))]
    access := [{ base := 1, tile := 0, stack := 1, count := 1024 }, { base := 0, tile := 0, stack := 2, count := 1024 }] }

/-- The state after the period: the move of the frame at base 0 stands in both tensors of that base. -/
def twinTensorsMoved : State :=
  { twinTensors with
    tensors := [homeTensor 1 none, homeTensor 0 (some (2, 0)), homeTensor 0 (some (2, 0))]
    access := [] }

theorem twinTensors_moves : exec .migrationPeriod twinTensors = .next twinTensorsMoved := by rfl

/-- Refutes O56: two tensors may have one base.  The frame of the tensor at base 1 finds no room on stack 1 when its turn comes; then the
move of the frame at base 0 replaces that of the second tensor of that base, which frees the frame of stack 1, and none begins to move
there. -/
theorem not_framesMove : ¬ Obligations.FramesMove := by
  unfold Obligations.FramesMove
  rintro ⟨hperiod, -⟩
  obtain ⟨t, ht, -, -, hentry⟩ := hperiod twinTensors
  obtain rfl : twinTensorsMoved = t := by
    have := twinTensors_moves.symm.trans ht
    injection this
  obtain ⟨e', he', -, -, hmoves⟩ := hentry 1 0 (homeEntry none) rfl
  have hstay : e' = homeEntry none := (Option.some.inj he').symm
  subst hstay
  have hmoving := hmoves rfl rfl (by decide) ⟨1, by decide, by decide, by decide, by decide, by decide⟩
  exact absurd hmoving (by decide)

end Sys2Proof.Machine

end

section
/-! SUPPORT. Placement, saves and swaps of blocks: what moves with a block and what stands again. -/

namespace Sys2Proof.Machine
open Sys2Proof.Claims

-- What reads after frames and tiles are cleared, cut out and set down.

/-- A memory that keeps the cells of some addresses. -/
theorem Memory.read_filter (m : Memory) (p : Nat → Bool) (a : Nat) :
    Memory.read (m.filter fun c => p c.1) a = if p a then m.read a else 0 := by
  induction m with
  | nil => exact (ite_self _).symm
  | cons c m ih =>
    rw [List.filter_cons]
    by_cases ha : a = c.1
    · subst ha
      by_cases hp : p c.1 = true
      · simp [hp, Memory.read]
      · simp [hp, ih]
    · by_cases hp : p c.1 = true
      · simp [hp, Memory.read, ha, ih]
      · simp [hp, Memory.read, ha, ih]

theorem Memory.read_clear (m : Memory) (lo n a : Nat) :
    (m.clear lo n).read a = if lo ≤ a ∧ a < lo + n then 0 else m.read a := by
  refine (m.read_filter (fun a => !(decide (lo ≤ a) && decide (a < lo + n))) a).trans ?_
  by_cases h : lo ≤ a ∧ a < lo + n
  · simp [h.1, h.2]
  · rw [if_neg h]
    refine if_pos ?_
    rw [Bool.not_eq_true', Bool.eq_false_iff]
    simpa using h

/-- A byte that reads as 0 still does when cells are cleared. -/
theorem Memory.read_clear_zero {m : Memory} {a : Nat} (h : m.read a = 0) (lo n : Nat) : (m.clear lo n).read a = 0 := by
  rw [Memory.read_clear, h, ite_self]

theorem Memory.read_map_sub {m : Memory} {lo : Nat} (h : m.above lo) (i : Nat) :
    Memory.read (m.map fun c => (c.1 - lo, c.2)) i = m.read (lo + i) := by
  induction m with
  | nil => rfl
  | cons c m ih =>
    have hc := h c List.mem_cons_self
    have hm := ih fun d hd => h d (List.mem_cons_of_mem _ hd)
    simp only [List.map_cons, Memory.read, hm, show (i = c.1 - lo) = (lo + i = c.1) from propext (by omega)]

theorem Memory.read_slice (m : Memory) (lo n i : Nat) : (m.slice lo n).read i = if i < n then m.read (lo + i) else 0 := by
  have habove : Memory.above (m.filter fun c => lo ≤ c.1 && c.1 < lo + n) lo := by
    intro c hc
    have := (List.mem_filter.1 hc).2
    simp at this
    exact this.1
  refine (Memory.read_map_sub habove i).trans ((m.read_filter (fun a => decide (lo ≤ a) && decide (a < lo + n)) (lo + i)).trans ?_)
  simp

/-- Cells set down over a memory. -/
theorem Memory.read_place {m l : Memory} (hm : m.wf = true) (hl : l.wf = true) (lo a : Nat) :
    (m.place lo l).read a = if lo ≤ a ∧ l.read (a - lo) ≠ 0 then l.read (a - lo) else m.read a := by
  unfold Memory.place
  induction l generalizing m with
  | nil => simp [Memory.writeAll, Memory.read]
  | cons c l ih =>
    have hr : Memory.read l c.1 = 0 := Memory.read_above (Memory.wf_above hl)
    have h0 : c.2 ≠ 0 := Memory.wf_head hl
    rw [List.map_cons, Memory.writeAll_cons, ih (Memory.write_wf _ _ hm) (Memory.wf_tail hl), Memory.read_write _ _ _ hm]
    by_cases ha : a = lo + c.1
    · subst ha
      simp [Memory.read, hr, show c.2 ≠ 0#8 from h0]
    · by_cases hlo : lo ≤ a
      · have hne : a - lo ≠ c.1 := by omega
        simp [Memory.read, ha, hlo, hne]
      · simp [ha, hlo]

/-- Contents of `n` bytes set down where nothing is left. -/
theorem Memory.read_place_clear {m l : Memory} (hm : m.wf = true) (hl : l.wf = true) {n : Nat} (hn : ∀ i, n ≤ i → l.read i = 0)
    (lo a : Nat) : ((m.clear lo n).place lo l).read a = if lo ≤ a ∧ a < lo + n then l.read (a - lo) else m.read a := by
  rw [Memory.read_place (Memory.clear_wf lo n hm) hl, Memory.read_clear]
  by_cases h : lo ≤ a ∧ a < lo + n
  · rw [if_pos h, if_pos h]
    by_cases h0 : l.read (a - lo) = 0
    · simp [h0]
    · rw [if_pos ⟨h.1, h0⟩]
  · rw [if_neg h, if_neg h, if_neg]
    rintro ⟨h1, h2⟩
    exact h2 (hn _ (by omega))

end Sys2Proof.Machine

namespace Sys2Proof.Machine
open Sys2Proof.Claims

-- A block that has moved (R41, R218, R344): its warps are as they were, but for their places and lanes parked since.

theorem forall₂_trans {α : Type} {R : α → α → Prop} (hR : ∀ a b c, R a b → R b c → R a c) {l m n : List α}
    (h : List.Forall₂ R l m) (k : List.Forall₂ R m n) : List.Forall₂ R l n := by
  induction h generalizing n with
  | nil => exact k
  | cons hab _ ih =>
    cases k with
    | cons hbc k => exact .cons (hR _ _ _ hab hbc) (ih k)

/-- A warp as it was, but for lanes parked and a trap raised since. -/
def Warp.Kept (w v : Warp) : Prop := v = { w with parked := v.parked, records := v.records, trap := v.trap }

theorem Warp.Kept.refl (w : Warp) : w.Kept w := rfl

theorem Warp.Kept.trans {u v w : Warp} (h : u.Kept v) (k : v.Kept w) : u.Kept w := by
  unfold Warp.Kept at *
  rw [k, h]

/-- A block as it was, but for its handles and for lanes parked and traps raised since. -/
structure Block.Kept (b c : Block) : Prop where
  bid : c.bid = b.bid
  stack : c.stack = b.stack
  status : c.status = b.status
  saved : c.saved = b.saved
  bars : c.bars = b.bars
  savedOps : b.savedOps = [] → c.savedOps = []
  warps : List.Forall₂ Warp.Kept b.warps c.warps

theorem Block.Kept.of_warps {b c : Block} (h1 : c.bid = b.bid) (h2 : c.stack = b.stack) (h3 : c.status = b.status)
    (h4 : c.saved = b.saved) (h5 : c.bars = b.bars) (h6 : b.savedOps = [] → c.savedOps = []) (h7 : c.warps = b.warps) :
    b.Kept c :=
  ⟨h1, h2, h3, h4, h5, h6, h7 ▸ List.forall₂_same.2 fun w _ => Warp.Kept.refl w⟩

theorem Block.Kept.refl (b : Block) : b.Kept b := .of_warps rfl rfl rfl rfl rfl id rfl

theorem Block.Kept.trans {b c d : Block} (h : b.Kept c) (k : c.Kept d) : b.Kept d :=
  ⟨k.bid.trans h.bid, k.stack.trans h.stack, k.status.trans h.status, k.saved.trans h.saved, k.bars.trans h.bars,
    fun x => k.savedOps (h.savedOps x), forall₂_trans @Warp.Kept.trans h.warps k.warps⟩

/-- The blocks of a state are those of another, each kept. -/
def State.Keeps (s t : State) : Prop := List.Forall₂ Block.Kept s.blocks t.blocks

theorem State.Keeps.of_eq {s t : State} (h : t.blocks = s.blocks) : s.Keeps t := by
  unfold State.Keeps
  rw [h]
  exact List.forall₂_same.2 fun b _ => Block.Kept.refl b

theorem State.Keeps.trans {s t u : State} (h : s.Keeps t) (k : t.Keeps u) : s.Keeps u :=
  forall₂_trans @Block.Kept.trans h k

theorem State.Keeps.foldl {α : Type} {f : State → α → State} (hf : ∀ (s : State) a, s.Keeps (f s a)) (l : List α) (s : State) :
    s.Keeps (l.foldl f s) := by
  induction l generalizing s with
  | nil => exact .of_eq rfl
  | cons a l ih => exact (hf s a).trans (ih _)

theorem State.Keeps.mem {s t : State} (h : s.Keeps t) {b : Block} (hb : b ∈ s.blocks) : ∃ c ∈ t.blocks, b.Kept c := by
  obtain ⟨i, hi, rfl⟩ := List.getElem_of_mem hb
  have hlen : i < t.blocks.length := List.Forall₂.length_eq h ▸ hi
  exact ⟨_, List.getElem_mem hlen, List.Forall₂.get h hi hlen⟩

theorem Block.Kept.warp {b c : Block} (h : b.Kept c) {w : Warp} (hw : w ∈ b.warps) : ∃ v ∈ c.warps, w.Kept v := by
  obtain ⟨i, hi, rfl⟩ := List.getElem_of_mem hw
  have hlen : i < c.warps.length := List.Forall₂.length_eq h.warps ▸ hi
  exact ⟨_, List.getElem_mem hlen, List.Forall₂.get h.warps hi hlen⟩

theorem keeps_map {s t : State} {f : Block → Block} (h : t.blocks = s.blocks.map f) (hf : ∀ b : Block, b.Kept (f b)) : s.Keeps t := by
  unfold State.Keeps
  rw [h, List.forall₂_map_right_iff]
  exact List.forall₂_same.2 fun b _ => hf b

theorem keeps_modBlock (s : State) (n : Nat) {f : Block → Block} (hf : ∀ b : Block, b.Kept (f b)) : s.Keeps (s.modBlock n f) := by
  refine keeps_map rfl fun b => ?_
  split
  · exact hf b
  · exact Block.Kept.refl b

theorem Block.kept_resolve (b : Block) (h o v : Nat) (m : Bool) : b.Kept (b.resolve h o v m) :=
  .of_warps rfl rfl rfl rfl rfl id rfl

theorem keeps_resolve (s : State) (n h o v : Nat) (m : Bool) : s.Keeps (s.resolve n h o v m) :=
  keeps_modBlock s n fun b => b.kept_resolve h o v m

theorem Warp.kept_handlerFault (w : Warp) (r : LaneRec) (f : Nat) : w.Kept (w.handlerFault r f) := by
  unfold Warp.handlerFault
  dsimp only
  split
  · split
    · exact Warp.Kept.refl w
    · exact rfl
  · exact rfl

theorem Warp.kept_laneFault (w : Warp) (m : Bool) (r : LaneRec) (f : Nat) : w.Kept (w.laneFault m r f) := by
  unfold Warp.laneFault
  split
  · exact w.kept_handlerFault r f
  · unfold Warp.park
    split
    · exact Warp.Kept.refl w
    · exact rfl

theorem Block.kept_modWarp (b : Block) (m : Nat) {f : Warp → Warp} (hf : ∀ w : Warp, w.Kept (f w)) : b.Kept (b.modWarp m f) := by
  refine ⟨rfl, rfl, rfl, rfl, rfl, id, List.forall₂_map_right_iff.2 (List.forall₂_same.2 fun w _ => ?_)⟩
  split
  · exact hf w
  · exact Warp.Kept.refl w

theorem keeps_parkAll (s : State) (n m : Nat) (rs : List LaneRec) (f : Nat) : s.Keeps (s.parkAll n m rs f) :=
  State.Keeps.foldl (fun s r => keeps_modBlock s n fun b => b.kept_modWarp m fun w => w.kept_laneFault _ r f) rs s

theorem keeps_finish (s : State) (o : EngOp) (outcome val : Nat) (mal : Bool) : s.Keeps (s.finish o outcome val mal) := by
  have h : (s.finish o outcome val mal).blocks = (s.resolve o.block o.handle outcome val mal).blocks := by
    rw [State.finish_frame]
  exact (keeps_resolve s o.block o.handle outcome val mal).trans (.of_eq h)

theorem keeps_dropQueued (s : State) (c : Nat) : s.Keeps (s.dropQueued c) := by
  unfold State.dropQueued
  dsimp only
  refine ((State.Keeps.foldl (fun s o => ?_) _ s).trans (State.Keeps.foldl (fun s k => ?_) _ _)).trans (keeps_map rfl fun b => ?_)
  · split
    · split
      · split
        · exact (State.Keeps.of_eq rfl).trans (keeps_finish (s.moveUpAfter _) _ 3 0 false)
        · exact .of_eq rfl
      · exact (State.Keeps.of_eq rfl).trans (keeps_finish (s.refillDest _) _ 3 0 false)
    · exact .of_eq rfl
  · exact (State.Keeps.of_eq rfl).trans (keeps_resolve _ k.block k.handle 3 0 false)
  · split
    · have h : ∀ (l : List EngOp) (b : Block), b.Kept (l.foldl (fun (b : Block) o => b.resolve o.handle 3 0 false) b) := by
        intro l
        induction l with
        | nil => exact Block.Kept.refl
        | cons o l ih => exact fun b => (b.kept_resolve o.handle 3 0 false).trans (ih _)
      obtain ⟨h1, h2, h3, h4, h5, -, h7⟩ := h b.savedOps b
      exact ⟨h1, h2, h3, h4, h5, fun _ => rfl, h7⟩
    · exact Block.Kept.refl b

theorem keeps_fatalCtx (s : State) (c : Nat) (f : Fatal) : s.Keeps (s.fatalCtx c f) := by
  have hq : (s.fatalCoords f).2.blocks = s.blocks := by
    unfold State.fatalCoords
    split <;> rfl
  unfold State.fatalCtx
  split
  · exact .of_eq rfl
  · dsimp only
    refine State.Keeps.trans (.of_eq ?_) (keeps_dropQueued _ c)
    exact hq

theorem keeps_endKept (s : State) (o : EngOp) (outcome : Nat) : s.Keeps (s.endKept o outcome) :=
  (State.Keeps.of_eq rfl).trans (keeps_resolve (s.refillDest o) o.block o.handle outcome 0 false)

theorem State.pin_blocks (s : State) (up : Bool) (fs : List (Nat × Nat)) : (s.pin up fs).blocks = s.blocks := by
  rw [State.pin_frame]

theorem keeps_resubmit (s : State) (n : Nat) (o : EngOp) : s.Keeps (s.resubmit n o) := by
  unfold State.resubmit
  split
  · exact .of_eq rfl
  · split
    · exact .of_eq rfl
    · dsimp only
      split
      · exact keeps_endKept s _ 3
      · split
        · exact (keeps_endKept s _ 4).trans (keeps_parkAll _ n _ _ _)
        · exact (keeps_fatalCtx s _ _).trans (keeps_endKept _ _ 3)
        · split
          · exact .of_eq (State.pin_blocks _ true _)
          · exact .of_eq (State.pin_blocks _ true _)

end Sys2Proof.Machine

namespace Sys2Proof.Machine
open Sys2Proof.Claims

section
variable (s : State) (b : Block) (x : Spot)

/-- A saved block as it stands at a spot, before its kept operations are submitted again. -/
def State.placedAs : Block :=
  let ws := s.seat x b.warps
  let at_ := fun (n : Nat) => (ws.find? fun w => w.num == n).getD default
  { b with stack := x.stack, status := .placed, allocs := s.newAllocs b x, hint := none, saved := [], savedOps := [], missed := false,
           vdie := s.vdieOf b.ctx b.vdie x.stack,
           warps := ws.map fun w => if w.gone then { w with core := x.coreOf b w.num } else w,
           regions := b.regions.map fun r =>
             let w := at_ (r.members.headD 0)
             { r with core := w.core, pitch := w.pitch } }

/-- The state in which it stands there. -/
def State.placing : State :=
  let nb := s.placedAs b x
  let s := (((s.copiesOn b x.stack).freshL1 x.stack x.cores).setBlock nb).rehome nb
  let s := (nb.allocs.zip b.saved).foldl (fun s p => s.unsave nb p.1 p.2) s
  let s := nb.warps.foldl (fun s w =>
    if w.regrant.isSome then
      s.modStack x.stack fun k => { k with queue := k.queue ++ [(b.bid, w.num)] }
    else s) s
  { s with lantern := s.lantern.map fun (l : Lantern) => l.follow nb }

theorem State.placeSaved_eq : s.placeSaved b x = b.savedOps.foldl (fun s o => s.resubmit b.bid o) (s.placing b x) := rfl

theorem State.placing_blocks : (s.placing b x).blocks = (s.setBlock (s.placedAs b x)).blocks := by
  unfold State.placing
  dsimp only
  refine (foldl_keeps State.blocks (fun u w => ?_) _ _).trans ((foldl_keeps State.blocks (fun u p => ?_) _ _).trans rfl)
  · split <;> rfl
  · rfl

theorem State.mem_placing (hb : b ∈ s.blocks) : s.placedAs b x ∈ (s.placing b x).blocks := by
  rw [State.placing_blocks]
  exact List.mem_map.2 ⟨b, hb, if_pos (by simp [State.placedAs])⟩

/-- A warp seated at a spot is the warp it was, elsewhere. -/
theorem State.seated_of_mem {w : Warp} (hw : w ∈ b.warps) :
    ∃ v ∈ (s.placedAs b x).warps, v = { w with core := v.core, pitch := v.pitch, slot := v.slot, lastIssue := v.lastIssue } := by
  have hseat : ∃ v ∈ s.seat x b.warps, v = { w with core := v.core, pitch := v.pitch, slot := v.slot, lastIssue := v.lastIssue } := by
    unfold State.seat
    refine ⟨_, List.mem_map_of_mem hw, ?_⟩
    dsimp only
    split <;> rfl
  obtain ⟨v, hv, he⟩ := hseat
  refine ⟨_, List.mem_map_of_mem hv, ?_⟩
  split <;> rw [he]

/-- A saved block stands at its spot, its warps as they were. -/
theorem State.placeSaved_moves (hb : b ∈ s.blocks) : ∃ b' ∈ (s.placeSaved b x).blocks, b'.bid = b.bid ∧ b'.status = .placed ∧
    b'.stack = x.stack ∧ b'.saved = [] ∧ b'.savedOps = [] ∧ b'.bars = b.bars ∧ MovedWarps b b' := by
  have hnb := s.mem_placing b x hb
  by_cases hops : b.savedOps = []
  · rw [State.placeSaved_eq, hops]
    refine ⟨_, hnb, rfl, rfl, rfl, rfl, rfl, rfl, fun w hw => ?_⟩
    obtain ⟨v, hv, he⟩ := s.seated_of_mem b x hw
    refine ⟨v, hv, ?_, fun _ => ?_⟩
    · rw [he]
    · rw [he]; exact ⟨rfl, rfl, rfl⟩
  · have hk : (s.placing b x).Keeps (s.placeSaved b x) :=
      State.Keeps.foldl (fun s o => keeps_resubmit s b.bid o) b.savedOps _
    obtain ⟨c, hc, hkc⟩ := hk.mem hnb
    refine ⟨c, hc, hkc.bid, hkc.status, hkc.stack, hkc.saved, hkc.savedOps rfl, hkc.bars, fun w hw => ?_⟩
    obtain ⟨v, hv, he⟩ := s.seated_of_mem b x hw
    obtain ⟨w', hw', hkw⟩ := hkc.warp hv
    refine ⟨w', hw', ?_, fun h => absurd h hops⟩
    rw [hkw, he]

end

end Sys2Proof.Machine

namespace Sys2Proof.Machine
open Sys2Proof.Claims

-- Placement (R209).

section
variable {s : State} {b : Block} {old : Bool} {x : Spot} {pre post : List (Block × Bool)}

/-- What firmware may place: blocks saved, and the next block of a task. -/
theorem State.of_mem_queueUp (h : (b, old) ∈ s.queueUp) :
    (old = true ∧ b ∈ s.blocks ∧ b.status = .saved) ∨ (old = false ∧ ∃ t a n, b = s.newBlock t a n) := by
  unfold State.queueUp at h
  dsimp only at h
  rcases List.mem_append.1 h with h | h
  · simp only [List.mem_flatMap, List.mem_map, List.mem_filter] at h
    obtain ⟨cls, -, n, -, t, -, c, ⟨hc, hp⟩, he⟩ := h
    obtain ⟨rfl, rfl⟩ := Prod.mk.inj he
    simp only [Bool.and_eq_true, beq_iff_eq] at hp
    exact .inl ⟨rfl, hc, hp.1.2⟩
  · simp only [List.mem_flatMap] at h
    obtain ⟨cls, -, n, -, t, -, h⟩ := h
    split at h
    · next k hk =>
      split at h
      · obtain ⟨rfl, rfl⟩ := Prod.mk.inj (List.mem_singleton.1 h)
        exact .inr ⟨rfl, t, k.1, k.2, rfl⟩
      · cases h
    · cases h

theorem findSome?_spot (hq : s.queueUp = pre ++ (b, old) :: post) (hpre : ∀ p ∈ pre, s.spotOf p.1 p.2 = none)
    (hx : s.spotOf b old = some x) :
    (s.queueUp.findSome? fun p => (s.spotOf p.1 p.2).map fun x => (p.1, p.2, x)) = some (b, old, x) := by
  rw [hq, List.findSome?_append, List.findSome?_eq_none_iff.2 fun p hp => by rw [hpre p hp]; rfl, Option.none_or,
    List.findSome?_cons]
  rw [hx] <;> rfl

/-- The state in which a block takes its place: its context has had its turn. -/
def State.turnOf (s : State) (b : Block) : State := { s with lastCtx := s.lastCtx.set b.rcd.cls (b.ctx + 1) }

theorem State.turnOf_blocks : (s.turnOf b).blocks = s.blocks := by rw [State.turnOf]

theorem State.mem_turnOf (hb : b ∈ s.blocks) : b ∈ (s.turnOf b).blocks := by rw [State.turnOf_blocks]; exact hb

theorem exec_blockPlacement_of {c t g n : Nat} (hq : s.reap.queueUp = pre ++ (b, old) :: post)
    (hpre : ∀ p ∈ pre, s.reap.spotOf p.1 p.2 = none) (hx : s.reap.spotOf b old = some x) :
    exec (.blockPlacement c t g n) s = .next (
      if b.ctx != c || b.task != t || b.stage != g || b.num != n || (!old && s.reap.swapPending) then s.reap
      else if old then (s.reap.turnOf b).placeSaved b x else (s.reap.turnOf b).placeNew b x) := by
  dsimp only [exec, execBlockPlacement]
  rw [findSome?_spot hq hpre hx]
  dsimp only
  split
  · rfl
  · next h =>
    simp only [Bool.or_eq_true, bne_iff_ne, ne_eq, not_or, not_not] at h
    obtain ⟨⟨⟨⟨rfl, -⟩, -⟩, -⟩, -⟩ := h
    rfl

theorem exec_blockPlacement_none {c t g n : Nat} (h : ∀ p ∈ s.reap.queueUp, s.reap.spotOf p.1 p.2 = none) :
    exec (.blockPlacement c t g n) s = .next s.reap := by
  dsimp only [exec, execBlockPlacement]
  rw [List.findSome?_eq_none_iff.2 fun p hp => by rw [h p hp]; rfl]

theorem State.swapPending_iff : s.swapPending = true ↔ ∃ k ∈ s.blocks, k.status ≠ .placed ∧ k.missed = true ∧ s.dead k.ctx = false ∧
    ∃ f ∈ s.out, f.1 = k.ctx ∧ f.2.1 = k.image ∧ f.2.2.2.1 = k.stack := by
  simp only [State.swapPending, List.any_eq_true, Bool.and_eq_true, bne_iff_ne, ne_eq, Bool.not_eq_true', beq_iff_eq, and_assoc]

end

-- A new block's place (R87, R311).

section
variable {s : State} {b : Block} {x : Spot}

/-- A new block as it stands at a spot. -/
def State.newAt (s : State) (b : Block) (x : Spot) : Block :=
  { b with stack := x.stack, vdie := s.vdieOf b.ctx b.vdie x.stack, allocs := s.newAllocs b x, warps := s.seat x b.warps }

/-- The DATA items of a block's image. -/
def State.itemsOf (s : State) (b : Block) : List DataItem := match s.image? b.ctx b.image with
  | some im => im.data
  | none => []

/-- The state with a new block in it, its memory not yet cleared. -/
def State.joined (s : State) (b : Block) (x : Spot) : State :=
  { (s.copiesOn (s.newAt b x) x.stack).freshL1 x.stack x.cores with blocks := s.blocks ++ [s.newAt b x], uid := s.uid + 1 }

theorem State.placeNew_eq : s.placeNew b x = ((s.joined b x).wipe (s.newAt b x) (s.itemsOf b)).modTask b.ctx b.task fun t =>
    { t with next := t.next.set b.stage (b.num + 1) } := rfl

/-- The memory of one core cleared for a block. -/
def State.wipeCore (s : State) (b : Block) (items : List DataItem) (a : Alloc) : State :=
  let core := 32 * b.stack + a.core
  let lo := tmemAddr core a.base
  let m := items.foldl (fun m d => if d.kind = 1 then m.writeBytes (lo + d.offset) d.bytes else m)
    (s.mem.clear lo b.rcd.tmem)
  { s with mem := a.tiles.foldl (fun m t => m.clear (accAddr core t 0 0) 16384) m }.setFull
    (allocGranules b.stack a.core a.base b.rcd.tmem)

theorem State.wipe_eq (items : List DataItem) : s.wipe b items = b.allocs.foldl (fun s a => s.wipeCore b items a) s := rfl

theorem State.wipe_frame (items : List DataItem) : s.wipe b items =
    { s with mem := (s.wipe b items).mem, empty := (s.wipe b items).empty } := by
  rw [State.wipe_eq]
  generalize b.allocs = l
  induction l generalizing s with
  | nil => rfl
  | cons a l ih => rw [List.foldl_cons, ih]; rfl

theorem State.mem_wipe_empty {items : List DataItem} {n : Nat} (l : List Alloc) :
    ∀ {s : State}, n ∈ (l.foldl (fun s a => s.wipeCore b items a) s).empty →
      n ∈ s.empty ∧ ∀ a ∈ l, n ∉ allocGranules b.stack a.core a.base b.rcd.tmem := by
  induction l with
  | nil => intro s h; exact ⟨h, fun a ha => by cases ha⟩
  | cons a l ih =>
    intro s h
    obtain ⟨h1, h2⟩ := ih h
    obtain ⟨h3, h4⟩ := List.mem_filter.1 h1
    refine ⟨h3, fun c hc => ?_⟩
    rcases List.mem_cons.1 hc with rfl | hc
    · simpa using h4
    · exact h2 c hc

theorem Memory.read_foldClear_zero {core a : Nat} (tiles : List Nat) : ∀ {m : Memory}, m.read a = 0 →
    (tiles.foldl (fun m t => m.clear (accAddr core t 0 0) 16384) m).read a = 0 := by
  induction tiles with
  | nil => exact id
  | cons t tiles ih => exact fun h => ih (Memory.read_clear_zero h _ _)

/-- Without DATA items of tile memory, what a core's clearing leaves. -/
theorem foldItems_none {items : List DataItem} (h : ∀ d ∈ items, d.kind ≠ 1) (lo : Nat) (m : Memory) :
    items.foldl (fun m d => if d.kind = 1 then m.writeBytes (lo + d.offset) d.bytes else m) m = m := by
  induction items generalizing m with
  | nil => rfl
  | cons d items ih =>
    rw [List.foldl_cons, if_neg (h d List.mem_cons_self)]
    exact ih (fun e he => h e (List.mem_cons_of_mem _ he)) m

theorem State.wipeCore_mem (items : List DataItem) (h : ∀ d ∈ items, d.kind ≠ 1) (a : Alloc) : (s.wipeCore b items a).mem =
    a.tiles.foldl (fun m t => m.clear (accAddr (32 * b.stack + a.core) t 0 0) 16384)
      (s.mem.clear (tmemAddr (32 * b.stack + a.core) a.base) b.rcd.tmem) := by
  refine congrArg (fun m => a.tiles.foldl (fun (m : Memory) t => m.clear (accAddr (32 * b.stack + a.core) t 0 0) 16384) m) ?_
  exact foldItems_none h _ _

/-- The tile memory of a new block without DATA items of it reads as zeros. -/
theorem State.read_wipe {items : List DataItem} (h : ∀ d ∈ items, d.kind ≠ 1) {a : Alloc} {o : Nat} (ho : o < b.rcd.tmem)
    (l : List Alloc) : ∀ {s : State}, (a ∈ l ∨ s.mem.read (tmemAddr (32 * b.stack + a.core) a.base + o) = 0) →
    (l.foldl (fun s a => s.wipeCore b items a) s).mem.read (tmemAddr (32 * b.stack + a.core) a.base + o) = 0 := by
  induction l with
  | nil => exact fun h => h.resolve_left (by simp)
  | cons c l ih =>
    intro s hs
    refine ih ?_
    by_cases hl : a ∈ l
    · exact .inl hl
    · refine .inr ?_
      rw [State.wipeCore_mem items h]
      refine Memory.read_foldClear_zero _ ?_
      rcases hs with hs | hs
      · obtain rfl : a = c := (List.mem_cons.1 hs).resolve_right hl
        rw [Memory.read_clear, if_pos (by omega)]
      · exact Memory.read_clear_zero hs _ _

theorem State.newAt_warps {w : Warp} (hw : w ∈ (s.newAt b x).warps) : ∃ v ∈ b.warps,
    w = { v with core := w.core, pitch := w.pitch, slot := w.slot, lastIssue := w.lastIssue } := by
  obtain ⟨v, hv, rfl⟩ := List.mem_map.1 hw
  refine ⟨v, hv, ?_⟩
  dsimp only
  split <;> rfl

/-- A register of a warp before its first word. -/
theorem Warp.vread_fresh (r : LaunchRec) (k n : Nat) : (Warp.fresh r k).vread n = splat 0 := by
  unfold Warp.vread Warp.fresh
  rw [List.getD_eq_getElem?_getD, List.getElem?_replicate]
  split <;> rfl

end

/-- A new block as a step places it. -/
def NewPlaced (r : State) (b : Block) (x : Spot) (t : State) (b' : Block) : Prop :=
  b' ∈ t.blocks ∧ b'.bid = r.uid ∧ b'.ctx = b.ctx ∧
    b'.task = b.task ∧ b'.stage = b.stage ∧ b'.num = b.num ∧ b'.status = .placed ∧ b'.stack = x.stack ∧
    b'.allocs.map (·.core) = x.cores ∧ b'.warps.length = b.rcd.warps + 1 ∧
    (∀ w ∈ b'.warps, w.pc = b.rcd.entry ∧ w.s = List.replicate 64 0 ∧ (∀ n, w.vread n = splat 0) ∧ w.active = allLanes ∧
      w.loops = [] ∧ w.masks = [] ∧ w.bank = none ∧ w.exited = false) ∧
    (∀ a ∈ b'.allocs, ∀ n ∈ allocGranules x.stack a.core a.base b.rcd.tmem, n ∉ t.empty) ∧
    ((∀ im, r.image? b.ctx b.image = some im → ∀ d ∈ im.data, d.kind ≠ 1) → ∀ a ∈ b'.allocs, ∀ o, o < b.rcd.tmem →
      t.mem.read (tmemAddr (32 * x.stack + a.core) a.base + o) = 0) ∧
    t.tasks = r.tasks.map (fun y => if y.ctx == b.ctx && y.num == b.task then { y with next := y.next.set b.stage (b.num + 1) }
      else y) ∧
    t.lastCtx = r.lastCtx.set b.rcd.cls (b.ctx + 1)

theorem State.placeNew_places (r : State) (y : Task) (a n : Nat) (x : Spot) :
    NewPlaced r (r.newBlock y a n) x ((r.turnOf (r.newBlock y a n)).placeNew (r.newBlock y a n) x)
      ((r.turnOf (r.newBlock y a n)).newAt (r.newBlock y a n) x) := by
  have hb : ∀ w ∈ (r.newBlock y a n).warps, ∃ k, w = Warp.fresh (r.newBlock y a n).rcd k := fun w hw => by
    obtain ⟨k, -, rfl⟩ := List.mem_map.1 hw
    exact ⟨k, rfl⟩
  have hlen : (r.newBlock y a n).warps.length = (r.newBlock y a n).rcd.warps + 1 := by
    simp [State.newBlock]
  have hbid : (r.newBlock y a n).bid = r.uid := rfl
  have hst : (r.newBlock y a n).status = .placed := rfl
  generalize r.newBlock y a n = b at *
  generalize hu : r.turnOf b = u
  have hfr := State.wipe_frame (s := u.joined b x) (b := u.newAt b x) (u.itemsOf b)
  have hblocks : (u.placeNew b x).blocks = u.blocks ++ [u.newAt b x] := by
    rw [State.placeNew_eq, State.modTask_blocks, hfr]; rfl
  have htasks : (u.placeNew b x).tasks = r.tasks.map (fun y => if y.ctx == b.ctx && y.num == b.task
      then { y with next := y.next.set b.stage (b.num + 1) } else y) := by
    subst hu
    rw [State.placeNew_eq, State.modTask, hfr]; rfl
  have hlast : (u.placeNew b x).lastCtx = r.lastCtx.set b.rcd.cls (b.ctx + 1) := by
    subst hu
    rw [State.placeNew_eq, State.modTask_lastCtx, hfr]; rfl
  have hempty : ∀ k ∈ (u.placeNew b x).empty, ∀ c ∈ (u.newAt b x).allocs, k ∉ allocGranules x.stack c.core c.base b.rcd.tmem := by
    intro k hk
    rw [State.placeNew_eq, State.modTask_empty] at hk
    exact (State.mem_wipe_empty _ hk).2
  refine ⟨?_, hbid, rfl, rfl, rfl, rfl, hst, rfl, ?_, ?_, fun w hw => ?_, fun c hc k hk hke => hempty k hke c hc hk,
    fun him c hc o ho => ?_, htasks, hlast⟩
  · rw [hblocks]
    exact List.mem_append_right _ (List.mem_singleton.2 rfl)
  · exact (List.map_map ..).trans (List.map_id' x.cores)
  · exact (List.length_map _).trans hlen
  · obtain ⟨v, hv, he⟩ := State.newAt_warps hw
    obtain ⟨k, rfl⟩ := hb v hv
    rw [he]
    exact ⟨rfl, rfl, fun n => Warp.vread_fresh _ k n, rfl, rfl, rfl, rfl, rfl⟩
  · have hitems : ∀ d ∈ u.itemsOf b, d.kind ≠ 1 := by
      subst hu
      unfold State.itemsOf
      split
      · next im h => exact him im h
      · exact fun d hd => by cases hd
    rw [State.placeNew_eq, State.modTask_mem]
    exact State.read_wipe (b := u.newAt b x) hitems ho _ (.inl hc)

/-- Settles O51: the step takes the first block that fits; a new one stands as `State.placeNew_places` says, a saved one as
`State.placeSaved_moves` does. -/
theorem blocksPlaced : Obligations.BlocksPlaced := by
  intro s b old x pre post r place hq hpre
  refine ⟨fun hx => ⟨fun hold hsw => ?_, fun hold => ?_, fun hold hsw => ?_, fun c t g n hne => ?_⟩,
    fun c t g n h => exec_blockPlacement_none h, State.swapPending_iff⟩
  · have heq : place = _ := exec_blockPlacement_of hq hpre hx
    have hmem : (b, old) ∈ r.queueUp := by rw [hq]; simp
    obtain ⟨h, -⟩ | ⟨-, y, a, n, rfl⟩ := State.of_mem_queueUp hmem
    · rw [hold] at h; cases h
    · refine ⟨_, _, ?_, State.placeNew_places r y a n x⟩
      rw [heq, if_neg (by simp [show s.reap.swapPending = false from hsw]), if_neg (by simp [hold])]
  · have heq : place = _ := exec_blockPlacement_of hq hpre hx
    have hmem : (b, old) ∈ r.queueUp := by rw [hq]; simp
    obtain ⟨-, hb, -⟩ | ⟨h, -⟩ := State.of_mem_queueUp hmem
    · obtain ⟨b', hb', h1, h2, h3, h4, h5, h6, h7⟩ := State.placeSaved_moves _ b x (State.mem_turnOf hb)
      refine ⟨_, b', ?_, hb', h1, h2, h3, h4, h5, h6, h7⟩
      rw [heq, if_neg (by simp [hold]), if_pos hold]
    · rw [hold] at h; cases h
  · have heq : place = _ := exec_blockPlacement_of hq hpre hx
    rw [heq, if_pos (by simp [hold, show s.reap.swapPending = true from hsw])]
  · rw [exec_blockPlacement_of hq hpre hx, if_pos]
    by_contra h
    simp only [Bool.or_eq_true, bne_iff_ne, ne_eq, not_or, not_not] at h
    obtain ⟨⟨⟨⟨h1, h2⟩, h3⟩, h4⟩, -⟩ := h
    exact hne (by rw [h1, h2, h3, h4])

end Sys2Proof.Machine

namespace Sys2Proof.Machine
open Sys2Proof.Claims

-- A save (R39, R217).

section
variable {s : State} {b : Block}

/-- The operations of a block. -/
def State.opsOf (s : State) (b : Block) : List EngOp := s.ops.filter fun o => o.block == b.bid

/-- The operations of a block taken out of the queues. -/
def State.detached (s : State) (b : Block) : State := (s.opsOf b).foldl State.detach s

/-- What the taking out of an operation leaves alone. -/
theorem State.detach_frame (s : State) (o : EngOp) : s.detach o =
    { s with ops := (s.detach o).ops, busy := (s.detach o).busy, lastAcc := (s.detach o).lastAcc, tensors := (s.detach o).tensors } := by
  unfold State.detach
  rw [State.pin_frame]
  dsimp only
  split <;> rfl

theorem State.detached_frame (s : State) (l : List EngOp) : l.foldl State.detach s =
    { s with ops := (l.foldl State.detach s).ops, busy := (l.foldl State.detach s).busy
             lastAcc := (l.foldl State.detach s).lastAcc, tensors := (l.foldl State.detach s).tensors } := by
  induction l generalizing s with
  | nil => rfl
  | cons o l ih => rw [List.foldl_cons, ih, s.detach_frame o]

/-- The block as its save keeps it. -/
def State.savedAs (s : State) (b : Block) (st : BStatus) : Block :=
  { b with
    status := st, warps := b.warps.map Warp.park_, allocs := [], pre := none, draining := false, missed := b.draining
    probed := []
    saved := b.allocs.map ((s.detached b).saveCore b)
    savedOps := (s.opsOf b).map fun o => { o.keep (s.detached b) with waited := (s.detached b).opAge o }
    hint := some { vdie := b.vdie, cores := b.allocs.map (·.core), mapVersion := match (s.detached b).ctx? b.ctx with
      | some x => x.mapVer
      | none => 0 } }

theorem State.saveBlock_eq (st : BStatus) : s.saveBlock b st =
    { (s.detached b).setBlock (s.savedAs b st) with
      pitches := (s.detached b).pitches.map fun p => match p.holder with
        | some h => if h.1 == b.bid then { p with holder := none } else p
        | none => p
      stks := (s.detached b).stks.map fun k => { k with queue := k.queue.filter fun q => q.1 != b.bid }
      lantern := (s.detached b).lantern.map fun (l : Lantern) => l.wait b.bid
      l1 := (s.detached b).l1.filter fun x => match x.tag with
        | some t => t.1 != b.bid
        | none => true } := rfl

theorem State.saveCore_congr {t : State} (hm : t.mem = s.mem) (he : t.empty = s.empty) (b : Block) (a : Alloc) :
    t.saveCore b a = s.saveCore b a := by
  unfold State.saveCore
  rw [hm, he]

theorem State.detached_mem : (s.detached b).mem = s.mem := foldl_keeps State.mem State.detach_mem _ _

theorem State.detached_empty : (s.detached b).empty = s.empty := by
  rw [State.detached, State.detached_frame]

theorem State.detached_contexts : (s.detached b).contexts = s.contexts := by
  rw [State.detached, State.detached_frame]

end

-- The queues after a save: no operation of the block is left.

theorem mem_moveUp {now prev : Nat} {l : List EngOp} {k : EngOp} (h : k ∈ moveUp now prev l) :
    ∃ p ∈ l, p.id = k.id ∧ p.block = k.block := by
  induction l generalizing prev with
  | nil => cases h
  | cons o r ih =>
    unfold moveUp at h
    split at h
    · rcases List.mem_cons.1 h with rfl | h
      · exact ⟨k, List.mem_cons_self, rfl, rfl⟩
      · obtain ⟨p, hp, he⟩ := ih h
        exact ⟨p, List.mem_cons_of_mem _ hp, he⟩
    · rcases List.mem_cons.1 h with rfl | h
      · exact ⟨o, List.mem_cons_self, rfl, rfl⟩
      · obtain ⟨p, hp, he⟩ := ih h
        exact ⟨p, List.mem_cons_of_mem _ hp, he⟩

section
variable {s : State} {o q : EngOp}

theorem State.mem_moveUpAfter (h : q ∈ (s.moveUpAfter o).ops) : ∃ p ∈ s.ops, p.id = q.id ∧ p.block = q.block := by
  obtain ⟨p, hp, rfl⟩ := List.mem_map.1 h
  generalize hl : (moveUp _ _ _).find? _ = r
  cases r with
  | none => exact ⟨p, hp, rfl, rfl⟩
  | some k =>
    obtain ⟨p', hp', he⟩ := mem_moveUp (List.mem_of_find?_eq_some hl)
    exact ⟨p', (List.mem_filter.1 hp').1, he⟩

/-- What is left of the queues when an operation leaves them. -/
theorem State.mem_detach (h : q ∈ (s.detach o).ops) : q.id ≠ o.id ∧ ∃ p ∈ s.ops, p.id = q.id ∧ p.block = q.block := by
  unfold State.detach at h
  rw [State.pin_frame] at h
  obtain ⟨hq, hid⟩ := List.mem_filter.1 h
  refine ⟨by simpa using hid, ?_⟩
  split at hq
  · exact State.mem_moveUpAfter hq
  · exact ⟨q, hq, rfl, rfl⟩

theorem State.mem_foldDetach (l : List EngOp) : ∀ {s : State}, q ∈ (l.foldl State.detach s).ops →
    (∀ o ∈ l, q.id ≠ o.id) ∧ ∃ p ∈ s.ops, p.id = q.id ∧ p.block = q.block := by
  induction l with
  | nil => exact fun h => ⟨fun o ho => (by cases ho), q, h, rfl, rfl⟩
  | cons o l ih =>
    intro s h
    obtain ⟨hl, p, hp, hpid, hpb⟩ := ih h
    obtain ⟨hne, p', hp', hid', hb'⟩ := State.mem_detach hp
    refine ⟨fun k hk => ?_, p', hp', hid'.trans hpid, hb'.trans hpb⟩
    rcases List.mem_cons.1 hk with rfl | hk
    · exact hpid ▸ hne
    · exact hl k hk

theorem State.detached_ops {b : Block} (h : q ∈ (s.detached b).ops) : q.block ≠ b.bid := by
  obtain ⟨hl, p, hp, hid, hb⟩ := State.mem_foldDetach _ h
  intro hq
  exact hl p (List.mem_filter.2 ⟨hp, by simp [hb, hq]⟩) hid.symm

end

section
variable {s : State} {b c : Block} {n : Nat}

/-- What a save leaves of its block and takes from the machine. -/
theorem State.saveBlock_leaves (hb : s.block? n = some c) (hn : b.bid = n) (st : BStatus) :
    (s.saveBlock b st).block? n = some (s.savedAs b st) ∧ (s.saveBlock b st).mem = s.mem ∧
    (∀ q ∈ (s.saveBlock b st).pitches, ∀ h, q.holder = some h → h.1 ≠ n) ∧ ∀ o ∈ (s.saveBlock b st).ops, o.block ≠ n := by
  subst hn
  have hfound : (s.detached b).block? b.bid = some c :=
    (congrArg (List.find? fun y : Block => y.bid == b.bid) (State.foldDetach_blocks _)).trans hb
  refine ⟨?_, State.saveBlock_mem s b st, fun q hq h hh => ?_, fun o ho => ?_⟩
  · rw [State.saveBlock_eq]
    exact State.block?_setBlock hfound rfl
  · rw [State.saveBlock_eq] at hq
    obtain ⟨p, -, rfl⟩ := List.mem_map.1 hq
    cases hp : p.holder with
    | none => simp [hp] at hh
    | some g =>
      rw [hp] at hh
      dsimp only at hh
      split at hh
      · cases hh
      · next hg =>
        obtain rfl : g = h := Option.some.inj (hp.symm.trans hh)
        simpa using hg
  · rw [State.saveBlock_eq] at ho
    exact State.detached_ops ho

/-- The same once the commands that waited for the save have completed. -/
theorem State.saveBlock_settled (hb : s.block? n = some c) (hn : b.bid = n) (st : BStatus) :
    (s.saveBlock b st).settleCmds.block? n = some (s.savedAs b st) ∧ (s.saveBlock b st).settleCmds.mem = s.mem ∧
    (∀ q ∈ (s.saveBlock b st).settleCmds.pitches, ∀ h, q.holder = some h → h.1 ≠ n) ∧
    ∀ o ∈ (s.saveBlock b st).settleCmds.ops, o.block ≠ n := by
  obtain ⟨h1, h2, h3, h4⟩ := State.saveBlock_leaves hb hn st
  generalize s.saveBlock b st = t at *
  have hblocks : t.settleCmds.blocks = t.blocks := by rw [State.settleCmds_frame]
  have hpitches : t.settleCmds.pitches = t.pitches := by rw [State.settleCmds_frame]
  have hops : t.settleCmds.ops = t.ops := by rw [State.settleCmds_frame]
  refine ⟨?_, (State.settleCmds_mem t).trans h2, ?_, ?_⟩
  · rw [State.block?, hblocks]
    exact h1
  · rw [hpitches]
    exact h3
  · rw [hops]
    exact h4

theorem State.savedAs_saved (st : BStatus) : (s.savedAs b st).saved = b.allocs.map (s.saveCore b) :=
  List.map_congr_left fun a _ => State.saveCore_congr State.detached_mem State.detached_empty b a

theorem State.savedAs_hint {x : Context} (hx : s.ctx? b.ctx = some x) (st : BStatus) : (s.savedAs b st).hint =
    some { vdie := b.vdie, cores := b.allocs.map (·.core), mapVersion := x.mapVer } := by
  have hx' : (s.detached b).ctx? b.ctx = some x := by
    rw [State.ctx?, State.detached_contexts]; exact hx
  unfold State.savedAs
  dsimp only
  rw [hx']

theorem State.savedAs_ids (st : BStatus) : (s.savedAs b st).savedOps.map (·.id) = (s.opsOf b).map (·.id) := by
  unfold State.savedAs
  dsimp only
  rw [List.map_map]
  rfl

/-- What stands between a block and its save. -/
def State.saveWaits (s : State) (b : Block) : Bool :=
  b.status != .placed || b.draining || s.dead b.ctx || !b.warps.all (s.still b) || b.warps.any Warp.atSync || !s.drained b

theorem State.saveWaits_iff : s.saveWaits b = true ↔ b.status ≠ .placed ∨ b.draining = true ∨ s.dead b.ctx = true ∨
    (∃ w ∈ b.warps, s.still b w = false ∨ w.atSync = true) ∨ s.drained b = false := by
  simp only [State.saveWaits, Bool.or_eq_true, bne_iff_ne, ne_eq, Bool.not_eq_true', List.all_eq_false, List.any_eq_true,
    Bool.not_eq_true, or_assoc]
  constructor
  · rintro (h | h | h | ⟨w, hw, h⟩ | ⟨w, hw, h⟩ | h)
    · exact .inl h
    · exact .inr (.inl h)
    · exact .inr (.inr (.inl h))
    · exact .inr (.inr (.inr (.inl ⟨w, hw, .inl h⟩)))
    · exact .inr (.inr (.inr (.inl ⟨w, hw, .inr h⟩)))
    · exact .inr (.inr (.inr (.inr h)))
  · rintro (h | h | h | ⟨w, hw, h | h⟩ | h)
    · exact .inl h
    · exact .inr (.inl h)
    · exact .inr (.inr (.inl h))
    · exact .inr (.inr (.inr (.inl ⟨w, hw, h⟩)))
    · exact .inr (.inr (.inr (.inr (.inl ⟨w, hw, h⟩))))
    · exact .inr (.inr (.inr (.inr (.inr h))))

theorem exec_blockSave_waits {p : PreReq} (hb : s.reap.block? n = some b) (hp : b.pre = some p) (h : s.reap.saveWaits b = true) :
    exec (.blockSave n) s = .next s.reap := by
  dsimp only [exec, execBlockSave]
  rw [hb]
  dsimp only
  rw [hp]
  exact congrArg Host.Outcome.next (if_pos h)

theorem exec_blockSave_command {p : PreReq} {fn : Nat} (hb : s.reap.block? n = some b) (hp : b.pre = some p)
    (hby : p.by_ = .command fn) (h : s.reap.saveWaits b = false) :
    exec (.blockSave n) s = .next (s.reap.saveBlock b .saved).settleCmds := by
  dsimp only [exec, execBlockSave]
  rw [hb]
  dsimp only
  rw [hp]
  dsimp only
  rw [hby]
  exact congrArg Host.Outcome.next (if_neg (by rw [← State.saveWaits, h]; simp))

end

-- What a save kept of a core stands again (R344).

theorem Memory.wf_append {l r : Memory} (hl : l.wf = true) (hr : r.wf = true) (h : ∀ c ∈ l, ∀ d ∈ r, c.1 < d.1) :
    Memory.wf (l ++ r) = true := by
  induction l with
  | nil => exact hr
  | cons c l ih =>
    refine Memory.wf_cons (Memory.wf_head hl) (ih (Memory.wf_tail hl) fun d hd => h d (List.mem_cons_of_mem _ hd)) ?_
    intro d hd
    rcases List.mem_append.1 hd with hd | hd
    · exact Memory.wf_above hl d hd
    · exact h c List.mem_cons_self d hd

theorem Memory.read_append_right {l r : Memory} {a : Nat} (h : ∀ c ∈ l, c.1 ≠ a) : Memory.read (l ++ r) a = r.read a := by
  induction l with
  | nil => rfl
  | cons c l ih =>
    rw [List.cons_append, Memory.read, if_neg (Ne.symm (h c List.mem_cons_self))]
    exact ih fun d hd => h d (List.mem_cons_of_mem _ hd)

theorem Memory.read_append_left {l r : Memory} {a : Nat} (h : ∀ c ∈ r, c.1 ≠ a) : Memory.read (l ++ r) a = l.read a := by
  have hr : ∀ r : Memory, (∀ c ∈ r, c.1 ≠ a) → r.read a = 0 := by
    intro r hr
    induction r with
    | nil => rfl
    | cons c r ih =>
      rw [Memory.read, if_neg (Ne.symm (hr c List.mem_cons_self))]
      exact ih fun d hd => hr d (List.mem_cons_of_mem _ hd)
  induction l with
  | nil => exact hr r h
  | cons c l ih => simp only [List.cons_append, Memory.read, ih]

/-- Cells moved up. -/
theorem Memory.read_map_add (l : Memory) (k i : Nat) : Memory.read (l.map fun c => (k + c.1, c.2)) (k + i) = l.read i := by
  induction l with
  | nil => rfl
  | cons c l ih => simp only [List.map_cons, Memory.read, ih, Nat.add_left_cancel_iff]

theorem Memory.wf_map_add {l : Memory} (k : Nat) (h : l.wf = true) : Memory.wf (l.map fun c => (k + c.1, c.2)) = true := by
  induction l with
  | nil => rfl
  | cons c l ih =>
    refine Memory.wf_cons (c := (k + c.1, c.2)) (Memory.wf_head (c := c) (m := l) h) (ih (Memory.wf_tail h)) ?_
    intro d hd
    obtain ⟨e, he, rfl⟩ := List.mem_map.1 hd
    have := Memory.wf_above h e he
    show k + c.1 + 1 ≤ k + e.1
    omega

theorem Memory.mem_slice {m : Memory} {lo n : Nat} {c : Host.Cell} (h : c ∈ m.slice lo n) : c.1 < n := by
  obtain ⟨d, hd, rfl⟩ := List.mem_map.1 h
  have := (List.mem_filter.1 hd).2
  simp at this
  show d.1 - lo < n
  omega

/-- The cells of some tiles, one after another, from place `i` on. -/
def tileCells (m : Memory) (core i : Nat) (tiles : List Nat) : Memory :=
  (tiles.zipIdx i).flatMap fun t => (m.slice (accAddr core t.1 0 0) 16384).map fun c => (16384 * t.2 + c.1, c.2)

theorem tileCells_cons (m : Memory) (core i t : Nat) (tiles : List Nat) : tileCells m core i (t :: tiles) =
    ((m.slice (accAddr core t 0 0) 16384).map fun c => (16384 * i + c.1, c.2)) ++ tileCells m core (i + 1) tiles := by
  simp [tileCells, List.zipIdx_cons]

theorem tileCells_above (m : Memory) (core : Nat) (tiles : List Nat) : ∀ i, (tileCells m core i tiles).above (16384 * i) := by
  induction tiles with
  | nil => intro i c hc; cases hc
  | cons t tiles ih =>
    intro i c hc
    rw [tileCells_cons] at hc
    rcases List.mem_append.1 hc with hc | hc
    · obtain ⟨d, -, rfl⟩ := List.mem_map.1 hc
      exact Nat.le_add_right _ _
    · have := ih (i + 1) c hc
      omega

theorem first_below (m : Memory) (core i t : Nat) {c : Host.Cell}
    (hc : c ∈ (m.slice (accAddr core t 0 0) 16384).map fun c => (16384 * i + c.1, c.2)) : c.1 < 16384 * (i + 1) := by
  obtain ⟨d, hd, rfl⟩ := List.mem_map.1 hc
  have := Memory.mem_slice hd
  show 16384 * i + d.1 < _
  omega

theorem tileCells_wf {m : Memory} (h : m.wf = true) (core : Nat) (tiles : List Nat) : ∀ i, (tileCells m core i tiles).wf = true := by
  induction tiles with
  | nil => exact fun _ => rfl
  | cons t tiles ih =>
    intro i
    rw [tileCells_cons]
    refine Memory.wf_append (Memory.wf_map_add _ (Memory.slice_wf _ _ h)) (ih (i + 1)) fun c hc d hd => ?_
    have h1 := first_below m core i t hc
    have h2 := tileCells_above m core tiles (i + 1) d hd
    omega

theorem read_tileCells (m : Memory) (core : Nat) {tiles : List Nat} {k j : Nat} (hj : j < 16384) :
    ∀ {i p : Nat}, tiles[i]? = some k → (tileCells m core p tiles).read (16384 * (p + i) + j) = m.read (accAddr core k 0 0 + j) := by
  induction tiles with
  | nil => intro i p h; simp at h
  | cons t tiles ih =>
    intro i p h
    rw [tileCells_cons]
    cases i with
    | zero =>
      obtain rfl : t = k := by simpa using h
      rw [Memory.read_append_left, Nat.add_zero, Memory.read_map_add, Memory.read_slice, if_pos hj]
      intro c hc
      have := tileCells_above m core tiles (p + 1) c hc
      omega
    | succ i =>
      rw [Memory.read_append_right, show p + (i + 1) = p + 1 + i by omega]
      · exact ih (by simpa using h)
      · intro c hc
        have := first_below m core p t hc
        omega

/-- One tile set down. -/
def setTile (acc : Memory) (core : Nat) (m : Memory) (t : Nat × Nat) : Memory :=
  (m.clear (accAddr core t.1 0 0) 16384).place (accAddr core t.1 0 0) (acc.slice (16384 * t.2) 16384)

section
variable {acc : Memory} (hacc : acc.wf = true) (core : Nat)
include hacc

theorem setTile_wf {m : Memory} (t : Nat × Nat) (hm : m.wf = true) : (setTile acc core m t).wf = true :=
  Memory.place_wf _ _ (Memory.clear_wf _ _ hm)

theorem read_setTile {m : Memory} (t : Nat × Nat) (hm : m.wf = true) (a : Nat) : (setTile acc core m t).read a =
    if accAddr core t.1 0 0 ≤ a ∧ a < accAddr core t.1 0 0 + 16384 then acc.read (16384 * t.2 + (a - accAddr core t.1 0 0))
    else m.read a := by
  have hz : ∀ i, 16384 ≤ i → (acc.slice (16384 * t.2) 16384).read i = 0 := fun i hi => by
    rw [Memory.read_slice, if_neg (by omega)]
  unfold setTile
  rw [Memory.read_place_clear hm (Memory.slice_wf _ _ hacc) hz]
  split
  · next h => rw [Memory.read_slice, if_pos (by omega)]
  · rfl

/-- Tiles set down leave what is in none of them. -/
theorem read_foldTiles_other (a : Nat) (tiles : List Nat) : ∀ {m : Memory} (p : Nat), m.wf = true →
    (∀ k ∈ tiles, ¬(accAddr core k 0 0 ≤ a ∧ a < accAddr core k 0 0 + 16384)) →
    ((tiles.zipIdx p).foldl (setTile acc core) m).read a = m.read a := by
  induction tiles with
  | nil => exact fun _ _ _ => rfl
  | cons t tiles ih =>
    intro m p hm h
    rw [List.zipIdx_cons, List.foldl_cons, ih _ (setTile_wf hacc core _ hm) fun k hk => h k (List.mem_cons_of_mem _ hk),
      read_setTile hacc core _ hm, if_neg (h t List.mem_cons_self)]

theorem read_foldTiles_at {k j : Nat} (hj : j < 16384) (tiles : List Nat) : ∀ {m : Memory} {i : Nat} (p : Nat), m.wf = true →
    tiles.Nodup → tiles[i]? = some k →
    ((tiles.zipIdx p).foldl (setTile acc core) m).read (accAddr core k 0 0 + j) = acc.read (16384 * (p + i) + j) := by
  induction tiles with
  | nil => intro m i p _ _ h; simp at h
  | cons t tiles ih =>
    intro m i p hm hnd h
    rw [List.zipIdx_cons, List.foldl_cons]
    cases i with
    | zero =>
      obtain rfl : t = k := by simpa using h
      rw [read_foldTiles_other hacc core _ tiles _ (setTile_wf hacc core _ hm), read_setTile hacc core _ hm,
        if_pos ⟨Nat.le_add_right _ _, Nat.add_lt_add_left hj _⟩]
      · dsimp only
        rw [Nat.add_sub_cancel_left]
        rfl
      · intro q hq
        have hne : q ≠ t := fun he => (List.nodup_cons.1 hnd).1 (he ▸ hq)
        simp only [accAddr]
        omega
    | succ i =>
      rw [show p + (i + 1) = p + 1 + i by omega]
      exact ih (p + 1) (setTile_wf hacc core _ hm) (List.nodup_cons.1 hnd).2 (by simpa using h)

end

theorem State.unsave_mem (u : State) (b : Block) (a : Alloc) (k : SavedCore) : (u.unsave b a k).mem =
    (a.tiles.zipIdx).foldl (setTile k.acc (32 * b.stack + a.core))
      ((u.mem.clear (tmemAddr (32 * b.stack + a.core) a.base) b.rcd.tmem).place
        (tmemAddr (32 * b.stack + a.core) a.base) k.mem) := rfl

/-- Settles O52: `State.saveBlock_leaves` says what a save leaves, and the bytes of a core come back tile by tile. -/
theorem blocksSaved : Obligations.BlocksSaved := by
  refine ⟨?_, fun w => ⟨rfl, fun l h => ?_, fun h l hg => ?_, fun h hg => ?_⟩, ?_⟩
  · intro s n b p x r hb hp hx
    refine ⟨fun h => exec_blockSave_waits hb hp (State.saveWaits_iff.2 h), fun hst hdr hdead hw hdrained hby => ?_⟩
    obtain ⟨fn, hby⟩ := hby
    have hgo : s.reap.saveWaits b = false := by
      rw [Bool.eq_false_iff, ne_eq, State.saveWaits_iff]
      rintro (h | h | h | ⟨w, hw', h | h⟩ | h)
      · exact h hst
      · rw [hdr] at h; cases h
      · rw [show s.reap.dead b.ctx = false from hdead] at h; cases h
      · rw [show s.reap.still b w = true from (hw w hw').1] at h; cases h
      · rw [(hw w hw').2] at h; cases h
      · rw [show s.reap.drained b = true from hdrained] at h; cases h
    obtain ⟨h1, h2, h3, h4⟩ := State.saveBlock_settled (s := s.reap) hb (State.block?_bid hb) .saved
    have hids := State.savedAs_ids (s := s.reap) (b := b) .saved
    obtain rfl := State.block?_bid hb
    exact ⟨_, s.reap.savedAs b .saved, exec_blockSave_command hb hp hby hgo, h1, rfl, rfl, rfl, hdr, State.savedAs_hint hx .saved,
      State.savedAs_saved .saved, h2, h3, rfl, hids, h4⟩
  · simp [Warp.park_, h]
  · simp [Warp.park_, h, hg]
  · simp [Warp.park_, h, hg]
  · intro s u b b' a a' hs hu hrcd hlen hnd hk hcore hbase t
    have hacc := tileCells_wf hs (32 * b.stack + a.core) a.tiles 0
    have hmem : (s.mem.slice (tmemAddr (32 * b.stack + a.core) a.base) b.rcd.tmem).wf = true := Memory.slice_wf _ _ hs
    have hz : ∀ i, b'.rcd.tmem ≤ i → (s.mem.slice (tmemAddr (32 * b.stack + a.core) a.base) b.rcd.tmem).read i = 0 := fun i hi => by
      rw [Memory.read_slice, if_neg (by rw [← hrcd]; omega)]
    have hwf := Memory.place_wf (tmemAddr (32 * b'.stack + a'.core) a'.base)
      (s.mem.slice (tmemAddr (32 * b.stack + a.core) a.base) b.rcd.tmem)
      (Memory.clear_wf (tmemAddr (32 * b'.stack + a'.core) a'.base) b'.rcd.tmem hu)
    refine ⟨fun o ho => ?_, fun i k k' hi hi' j hj => ?_, rfl⟩
    · rw [State.unsave_mem]
      refine (read_foldTiles_other hacc _ _ a'.tiles 0 hwf fun k hk => ?_).trans ?_
      · simp only [accAddr, tmemAddr, regionSize]
        omega
      · refine (Memory.read_place_clear hu hmem hz _ _).trans ?_
        rw [if_pos (by rw [hrcd]; omega), Memory.read_slice, Nat.add_sub_cancel_left, if_pos ho]
    · rw [State.unsave_mem]
      refine (read_foldTiles_at hacc _ hj a'.tiles 0 hwf hnd hi').trans ?_
      exact read_tileCells s.mem _ hj hi

end Sys2Proof.Machine

namespace Sys2Proof.Machine
open Sys2Proof.Claims

-- Swaps (R42, R77, R358).

/-- A block as its swap out saves it: each warp at the token whose bytes were missing. -/
def State.atTokens (s : State) (b : Block) : Block := { b with warps := b.warps.map (s.atToken b) }

/-- What a block is once it has drained: saved when a command pre-empts it, else swapped out. -/
def Block.swapStatus (b : Block) : BStatus := match b.pre.map PreReq.by_ with
  | some (.command _) => .saved
  | _ => .swapped

section
variable {s : State} {n m : Nat} {b : Block} {w : Warp}

/-- Firmware takes a block that drains for want of its stream out when it has drained. -/
theorem exec_swapOut_eq (hb : s.block? n = some b) (hw : b.warp? m = some w) (hst : b.status = .placed) (hd : s.dead b.ctx = false) :
    exec (.swapOut n m) s = .next (
      if b.draining then
        if s.drained b && b.warps.all (fun w => w.trap.isNone) then
          (s.saveBlock (s.atTokens b) b.swapStatus).settleCmds
        else s
      else if (s.fetchOut b w).isSome then
        (if (s.pitch (coreId b w) w.pitch).holder == some (n, m) then s.turnEnds (coreId b w) w.pitch else s).modBlock n
          fun b => { b with draining := true }
      else s) := by
  dsimp only [exec, execSwapOut]
  rw [hb]
  dsimp only
  rw [hw]
  dsimp only
  exact congrArg Host.Outcome.next (if_neg (by simp [hst, hd]))

theorem swap_out (hb : s.block? n = some b) (hw : b.warp? m = some w) (hst : b.status = .placed) (hd : s.dead b.ctx = false) :
    (b.draining = false → (s.fetchOut b w).isSome = true →
      ((s.pitch (coreId b w) w.pitch).holder = some (n, m) → exec (.swapOut n m) s =
        .next ((s.turnEnds (coreId b w) w.pitch).modBlock n fun x => { x with draining := true })) ∧
      ((s.pitch (coreId b w) w.pitch).holder ≠ some (n, m) → exec (.swapOut n m) s =
        .next (s.modBlock n fun x => { x with draining := true }))) ∧
    (b.draining = false → s.fetchOut b w = none → exec (.swapOut n m) s = .next s) ∧
    (b.draining = true → s.drained b = true → (∀ v ∈ b.warps, v.trap = none) →
      ∃ t b', exec (.swapOut n m) s = .next t ∧ t.block? n = some b' ∧ b'.draining = false ∧ b'.missed = true ∧ b'.allocs = [] ∧
        b'.warps = b.warps.map (fun v => (s.atToken b v).park_) ∧ t.mem = s.mem ∧
        ((∃ p fn, b.pre = some p ∧ p.by_ = .command fn) → b'.status = .saved) ∧
        ((∀ p fn, b.pre = some p → p.by_ ≠ .command fn) → b'.status = .swapped)) := by
  have heq := exec_swapOut_eq hb hw hst hd
  refine ⟨fun hdr hf => ⟨fun hh => ?_, fun hh => ?_⟩, fun hdr hf => ?_, fun hdr hdrained htrap => ?_⟩
  · rw [heq, if_neg (by simp [hdr]), if_pos hf, if_pos (by simpa using hh)]
  · rw [heq, if_neg (by simp [hdr]), if_pos hf, if_neg (by simpa using hh)]
  · rw [heq, if_neg (by simp [hdr]), if_neg (by simp [hf])]
  · have hall : (s.drained b && b.warps.all fun w => w.trap.isNone) = true := by
      simpa [hdrained] using htrap
    rw [heq, if_pos hdr, if_pos hall]
    have hbid : b.bid = n := State.block?_bid hb
    obtain ⟨h1, h2, -, -⟩ := State.saveBlock_settled (b := s.atTokens b) hb hbid b.swapStatus
    refine ⟨_, _, rfl, h1, rfl, hdr, rfl, List.map_map .., h2, ?_, fun hno => ?_⟩
    · rintro ⟨p, fn, hp, hby⟩
      exact (by rw [Block.swapStatus, hp, Option.map_some, hby] : b.swapStatus = .saved)
    · refine (?_ : b.swapStatus = .swapped)
      unfold Block.swapStatus
      cases hp : b.pre with
      | none => rfl
      | some p =>
        rw [Option.map_some]
        cases hby : p.by_ with
        | command fn => exact absurd hby (hno p fn hp)
        | _ => rfl

/-- A warp is saved at the token its fetch missed. -/
theorem atToken_cases : (∀ pc loops, s.fetchOut b w = some (pc, loops) → s.atToken b w = { w with pc := pc, loops := loops } ∧
      ∃ line, s.needLine b w = some (line, pc, loops) ∧ s.lineOut b (s.code b w).unit line = true) ∧
    (s.fetchOut b w = none → s.atToken b w = w) := by
  refine ⟨fun pc loops h => ⟨by rw [State.atToken, h], ?_⟩, fun h => by rw [State.atToken, h]⟩
  unfold State.fetchOut at h
  split at h
  · cases h
  · split at h
    · next line p hl =>
      split at h
      · next ho =>
        obtain rfl := Option.some.inj h
        exact ⟨line, hl, ho⟩
      · cases h
    · cases h

end

section
variable {s : State} {b : Block} {k n : Nat}

theorem State.copiesOn_copiesOn : (s.copiesOn b k).copiesOn b k = s.copiesOn b k := by
  unfold State.copiesOn
  simp only [List.filter_filter, Bool.and_self]

/-- The copies brought in change nothing of the room for a block with them. -/
theorem State.copyRoom_copiesOn : (s.copiesOn b k).copyRoom b k = s.copyRoom b k := by
  unfold State.copyRoom
  rw [State.copiesOn_copiesOn]
  rfl

theorem State.oldPlace_copiesOn : (s.copiesOn b k).oldPlace b k = s.oldPlace b k := by
  unfold State.oldPlace State.takes
  dsimp only
  rw [State.copyRoom_copiesOn]
  rfl

/-- The place a block had is its own cores and pitches, with room for its copies. -/
theorem State.oldPlace_spot {x : Spot} (h : s.oldPlace b k = some x) : s.copyRoom b k = true ∧
    x = { stack := k, cores := b.oldCores, seats := (b.warps.filter fun w => !w.gone).map fun w => (w.num, w.core, w.pitch) } := by
  unfold State.oldPlace at h
  dsimp only at h
  split at h
  · next hc =>
    obtain rfl := Option.some.inj h
    simp only [Bool.and_eq_true, State.takes] at hc
    exact ⟨hc.2.2, rfl⟩
  · cases h

theorem State.mem_copiesOn (hb : s.block? n = some b) (k : Nat) : b ∈ (s.copiesOn b k).blocks := by
  rw [State.copiesOn]
  exact List.mem_of_find?_eq_some hb

theorem State.copiesOn_frame (s : State) (b : Block) (k : Nat) : s.copiesOn b k = { s with out := (s.copiesOn b k).out } := rfl

theorem State.mem_out_copiesOn (s : State) (b : Block) (k : Nat) (f : Nat × Nat × Nat × Nat × Nat) :
    f ∈ (s.copiesOn b k).out ↔ f ∈ s.out ∧ ¬(f.1 = b.ctx ∧ f.2.1 = b.image ∧ f.2.2.2.1 = k) := by
  refine List.mem_filter.trans (and_congr_right fun _ => ?_)
  rw [Bool.not_eq_true', Bool.eq_false_iff]
  simp only [ne_eq, Bool.and_eq_true, beq_iff_eq, and_assoc]

theorem exec_swapIn_eq (hb : s.reap.block? n = some b) (hst : b.status = .swapped) (hd : s.reap.dead b.ctx = false) :
    exec (.swapIn n) s = .next (if s.reap.copyRoom b b.stack then
      match s.reap.oldPlace b b.stack with
      | some x => (s.reap.copiesOn b b.stack).placeSaved b x
      | none => s.reap.copiesOn b b.stack
    else s.reap) := by
  dsimp only [exec, execSwapIn]
  rw [hb]
  dsimp only
  rw [hst, hd, State.oldPlace_copiesOn]
  cases s.reap.copyRoom b b.stack <;> rfl

end

-- The limit of a save (R357).

section
variable {s : State} {c : Nat} {f : Fatal} {x : Context}

theorem State.foldResolve_contexts (l : List Commit) (s : State) : (l.foldl (fun s k =>
    { s with commits := s.commits.filter fun (q : Commit) => q.id != k.id }.resolve k.block k.handle 3 0 false) s).contexts =
    s.contexts := by
  induction l generalizing s with
  | nil => rfl
  | cons k l ih => rw [List.foldl_cons, ih]; rfl

theorem State.finish_contexts (s : State) (o : EngOp) (outcome val : Nat) (mal : Bool) :
    (s.finish o outcome val mal).contexts = s.contexts := by
  rw [State.finish_frame]

theorem State.dropQueued_contexts (s : State) (c : Nat) : (s.dropQueued c).contexts = s.contexts := by
  refine (State.foldResolve_contexts _ _).trans (foldl_keeps State.contexts (fun u o => ?_) _ _)
  split
  · split
    · split
      · exact State.finish_contexts _ _ 3 0 false
      · rfl
    · exact State.finish_contexts _ _ 3 0 false
  · rfl

theorem State.fatalCoords_facts (s : State) (f : Fatal) : (s.fatalCoords f).2.contexts = s.contexts ∧
    (s.fatalCoords f).1.code = f.code ∧ (s.fatalCoords f).1.block = f.block := by
  unfold State.fatalCoords
  split
  · exact ⟨rfl, rfl, rfl⟩
  · exact ⟨rfl, rfl, rfl⟩

/-- A fatal error of a context that lives is its record. -/
theorem State.fatalCtx_records (hx : s.ctx? c = some x) (hf : x.fatal = none) :
    ∃ y r, (s.fatalCtx c f).ctx? c = some y ∧ y.fatal = some r ∧ r.code = f.code ∧ r.block = f.block := by
  have hd : s.dead c = false := by rw [State.dead, hx]; simp [hf]
  obtain ⟨h1, h2, h3⟩ := s.fatalCoords_facts f
  unfold State.fatalCtx
  rw [hd]
  dsimp only
  generalize s.fatalCoords f = q at *
  have hq : q.2.ctx? c = some x := by rw [State.ctx?, h1]; exact hx
  refine ⟨{ x with fatal := some { q.1 with stamp := s.tb.latest }, ckptDone := false }, { q.1 with stamp := s.tb.latest },
    ?_, rfl, h2, h3⟩
  rw [if_neg (by simp), State.ctx?, State.dropQueued_contexts]
  refine (State.ctx?_modCtx q.2 c c _ ?_).trans ?_
  · intro z; rfl
  · rw [hq, Option.map_some, if_pos rfl]

end

section
variable {s : State} {n : Nat} {b : Block} {p : PreReq} {x : Context}

theorem exec_preemptionTimeout_early (hb : s.block? n = some b) (hp : b.pre = some p)
    (h : (s.stack? b.stack).that < p.since + 50 * 10 ^ 9) : exec (.preemptionTimeout n) s = .next s := by
  dsimp only [exec, execPreemptionTimeout]
  rw [hb]
  dsimp only
  rw [hp]
  exact congrArg Host.Outcome.next (if_pos (by rw [decide_eq_true h]; rfl))

theorem exec_preemptionTimeout_late (hb : s.block? n = some b) (hp : b.pre = some p) (hst : b.status = .placed)
    (h : p.since + 50 * 10 ^ 9 ≤ (s.stack? b.stack).that) : exec (.preemptionTimeout n) s = .next (match p.by_ with
      | .command _ =>
        let w := ((b.warps.find? fun w => !s.still b w).getD (b.warps.headD default))
        let t : TrapInfo := { (default : TrapInfo) with slot := 0xFF, rcd := 0xFFFF, lane := 0xFF, hpc := w.pc }
        (s.fatalCtx b.ctx (fatalOf b w 0x83 0 t)).settleCmds
      | _ => s.modBlock n fun b => { b with pre := none, warps := b.warps.map fun w => { w with held := false } }) := by
  have hgo : ¬(decide ((s.stack? b.stack).that < p.since + 50 * 10 ^ 9) || b.status != .placed) = true := by
    rw [hst, decide_eq_false (Nat.not_lt.2 h)]
    simp
  dsimp only [exec, execPreemptionTimeout]
  rw [hb]
  dsimp only
  rw [hp]
  exact congrArg Host.Outcome.next (if_neg hgo)

end

/-- Settles O53: what each event does once its conditions are taken apart; a block that returns as `State.placeSaved_moves` says, and
the end of a turn as `State.turnEnds_modWarp` does. -/
theorem swapsAndTimeouts : Obligations.SwapsAndTimeouts := by
  refine ⟨fun s n m b w hb hw hst hd => swap_out hb hw hst hd, fun s b w => atToken_cases, fun s n b x hb hst hd => ?_,
    fun s b k clusters x hst hx => ?_, fun s core p n m w hh hw => ?_, fun s n b p x hb hp hst => ⟨fun h => ?_, fun h => ⟨?_, ?_⟩⟩⟩
  · have heq := exec_swapIn_eq hb hst hd
    obtain rfl := State.block?_bid hb
    have hmem := State.mem_copiesOn hb b.stack
    refine ⟨fun ho => ?_, fun hr ho => ?_, fun hr => ?_⟩
    · obtain ⟨hr, hspot⟩ := State.oldPlace_spot ho
      obtain ⟨b', hb', h1, h2, h3, -, -, -, h7⟩ := (s.reap.copiesOn b b.stack).placeSaved_moves b x hmem
      rw [hr, ho] at heq
      exact ⟨_, b', heq, hb', h1, h2, h3.trans (by rw [hspot]), h7⟩
    · rw [hr, ho] at heq
      exact ⟨_, heq, s.reap.copiesOn_frame b b.stack, fun k => s.reap.mem_out_copiesOn b b.stack k⟩
    · rw [hr] at heq
      exact heq
  · unfold State.stageSpot at hx
    rw [hst, if_pos (by rfl)] at hx
    split at hx
    · next hc =>
      obtain ⟨-, rfl⟩ := State.oldPlace_spot hx
      refine ⟨hc.1.symm, hc.1, rfl, fun c hmem => ?_, rfl⟩
      exact List.contains_iff_mem.1 (List.all_eq_true.1 hc.2 c hmem)
    · cases hx
  · obtain ⟨f, hf, hr, hcase⟩ := s.turnEnds_modWarp core p hh
    obtain ⟨h1, h2⟩ := hcase w hw
    refine ⟨by rw [State.turnEnds_pitch], State.turnEnds_mem s core p, fun hl hp he => ?_, h2⟩
    refine ⟨f w, ?_, h1 hl hp he⟩
    rw [hf, State.warp?_modWarp _ _ _ _ _ _ fun v => (hr v).num]
    have hw' : (s.endTurn core p).warp? n m = some w := hw
    rw [hw', Option.map_some, if_pos ⟨rfl, rfl⟩]
  · exact exec_preemptionTimeout_early hb hp h
  · rintro ⟨fn, hby⟩ hx hf
    have heq := exec_preemptionTimeout_late hb hp hst h
    rw [hby] at heq
    dsimp only at heq
    generalize (b.warps.find? fun w => !s.still b w).getD (b.warps.headD default) = w at heq
    obtain ⟨y, r, hy, hr, hcode, hblk⟩ := State.fatalCtx_records (c := b.ctx) (f := fatalOf b w 0x83 0
      { (default : TrapInfo) with slot := 0xFF, rcd := 0xFFFF, lane := 0xFF, hpc := w.pc }) hx hf
    refine ⟨_, y, r, heq, ?_, hr, hcode, hblk⟩
    rw [State.settleCmds_ctx]
    exact hy
  · intro hno
    rw [exec_preemptionTimeout_late hb hp hst h]
    cases hby : p.by_ with
    | command fn => exact absurd hby (hno fn)
    | _ => rfl

end Sys2Proof.Machine

end

section
/-! SUPPORT. Commands that open, close and bind contexts, and a mapping of tensors. -/

namespace Sys2Proof.Machine
open Sys2Proof.Claims

/-- A `TENSOR_MAP` of one byte at host address 0 as a frame of tier H of virtual die 0. -/
def mapCommand : CmdBlock :=
  { fn := 0, slot := 0, running := false, wants := []
    bytes := ((((List.replicate 128 0).set 0 3).set 24 1).set 32 1).set 34 8 }

/-- Virtual die 0 is stack 1, whose tier H is empty; an unbound tensor names a frame of stack 0 so high that its address is that of
frame 0 of stack 1. -/
def aliasedFrame : State :=
  { State.reset with
    running := true, cmds := [mapCommand], mem := [(0, 1)]
    contexts := [{ (default : Context) with vdies := [1] }]
    images := [{ (default : Image) with valid := true }]
    tensors := [{ (default : Tensor) with entries := [{ (default : TileEntry) with resident := true, tier := 1, frame := 2 ^ 32 }] }] }

/-- The byte at the new frame after the step. -/
def mappedByte : Byte := match exec (.tensorMap 0) aliasedFrame with
  | .next t => t.mem.read (frameAddr 1 1 0 0)
  | _ => 1

theorem mappedByte_eq : mappedByte = 0 := by rfl

/-- Refutes O38: a table may name a frame beyond 2^32, whose address is a frame of the next stack.  The mapping frees the tensor of that
table after it has written the new frame, which then holds zeros and not the host's byte. -/
theorem not_imagesAndTensors : ¬ Obligations.ImagesAndTensors := by
  unfold Obligations.ImagesAndTensors
  rintro ⟨-, -, -, hmap, -⟩
  have hin : InContext aliasedFrame 0 3 mapCommand { (default : Context) with vdies := [1] } [(16, 22), (24, 35), (40, 56)] :=
    ⟨⟨rfl, rfl, rfl, by decide +kernel⟩, rfl, rfl, rfl, by decide +kernel⟩
  obtain ⟨-, -, hnew⟩ := hmap aliasedFrame 0 0 mapCommand _ { (default : Image) with valid := true } [0] hin (by decide) (by decide)
    (by decide) (by decide) (by decide)
  obtain ⟨t, y, ht, -, -, -, -, -, -, -, -, -, -, -, -, -, -, hread, -⟩ := hnew rfl (by decide +kernel)
  have hbyte := hread (by decide) (by decide) (by decide) (by decide) 0 0 0 rfl (by decide)
  have hzero : t.mem.read (frameAddr 1 1 0 0) = 0 := by
    have h := mappedByte_eq
    unfold mappedByte at h
    rw [ht] at h
    exact h
  have hone : t.mem.read (frameAddr 1 1 0 0) = 1 := hbyte
  rw [hzero] at hone
  exact absurd hone (by decide)

end Sys2Proof.Machine

namespace Sys2Proof.Machine
open Sys2Proof.Claims

-- What a `VDIE_BIND` leaves alone (R206): frames and queues move, and nothing that the context's table, its copies or a command says.

/-- Contexts, copies out of residence and commands as they were. -/
structure BindSame (s t : State) : Prop where
  contexts : t.contexts = s.contexts
  out : t.out = s.out
  cmds : t.cmds = s.cmds
  returned : t.returned = s.returned
  msix : t.msix = s.msix

theorem BindSame.refl (s : State) : BindSame s s := ⟨rfl, rfl, rfl, rfl, rfl⟩

theorem BindSame.trans {s t u : State} (h : BindSame s t) (k : BindSame t u) : BindSame s u :=
  ⟨k.contexts.trans h.contexts, k.out.trans h.out, k.cmds.trans h.cmds, k.returned.trans h.returned, k.msix.trans h.msix⟩

theorem BindSame.foldl {α β : Type} (g : β → State) {f : β → α → β} (hf : ∀ b a, BindSame (g b) (g (f b a))) (l : List α) (b : β) :
    BindSame (g b) (g (l.foldl f b)) := by
  induction l generalizing b with
  | nil => exact .refl _
  | cons a l ih => exact (hf b a).trans (ih _)

theorem bindSame_takeFrame (s : State) (a base tile : Nat) : BindSame s (s.takeFrame a base tile).2 := ⟨rfl, rfl, rfl, rfl, rfl⟩

theorem bindSame_putFrame (s : State) (a : Nat) (p : Paged) : BindSame s (s.putFrame a p) := ⟨rfl, rfl, rfl, rfl, rfl⟩

theorem bindSame_modTensor (s : State) (base : Nat) (f : Tensor → Tensor) : BindSame s (s.modTensor base f) := ⟨rfl, rfl, rfl, rfl, rfl⟩

theorem bindSame_modTask (s : State) (c n : Nat) (f : Task → Task) : BindSame s (s.modTask c n f) := ⟨rfl, rfl, rfl, rfl, rfl⟩

theorem bindSame_liftFrames (s : State) (c from_ dest : Nat) (swap : Bool) : BindSame s (s.liftFrames c from_ dest swap).2 := by
  unfold State.liftFrames
  refine BindSame.foldl (β := List (Paged × Nat × Nat × Bool) × State) Prod.snd (fun acc f => ?_) _ ([], s)
  dsimp only
  split
  · split
    · exact .refl _
    · split
      · exact (bindSame_takeFrame _ _ _ _).trans (bindSame_modTensor _ _ _)
      · exact bindSame_modTensor _ _ _
  · exact .refl _

theorem bindSame_setFrames (l : List (Paged × Nat × Nat × Bool)) : ∀ {s t : State}, setFrames l s = some t → BindSame s t := by
  induction l with
  | nil => intro s t h; cases h; exact .refl _
  | cons p l ih =>
    intro s t h
    obtain ⟨p, tier, die, res⟩ := p
    unfold setFrames at h
    split at h
    · exact ih h
    · split at h
      · exact ((bindSame_putFrame _ _ _).trans (bindSame_modTensor _ _ _)).trans (ih h)
      · cases h

theorem bindSame_liftQueues (s : State) (c from_ : Nat) : BindSame s (s.liftQueues c from_).2 := by
  unfold State.liftQueues
  refine BindSame.foldl (β := List (Nat × Nat × List Paged) × State) Prod.snd (fun acc q => ?_) _ ([], s)
  exact (BindSame.foldl (β := List Paged × State) Prod.snd (fun p f => bindSame_takeFrame p.2 _ 0 0) q.2.2.frames
    ([], acc.2)).trans (bindSame_modTask _ _ _ _)

theorem bindSame_setQueues (c dest : Nat) (l : List (Nat × Nat × List Paged)) : ∀ {s t : State},
    setQueues c dest l s = some t → BindSame s t := by
  induction l with
  | nil => intro s t h; cases h; exact .refl _
  | cons p l ih =>
    intro s t h
    obtain ⟨task, q, ps⟩ := p
    unfold setQueues at h
    split at h
    · cases h
    · next fs _ =>
      have hput : BindSame s ((ps.zip fs).foldl (fun (s : State) p => s.putFrame (frameAddr 0 dest p.2 0) p.1) s) :=
        BindSame.foldl id (f := fun (s : State) (p : Paged × Nat) => s.putFrame (frameAddr 0 dest p.2 0) p.1)
          (fun s p => bindSame_putFrame s (frameAddr 0 dest p.2 0) p.1) (ps.zip fs) s
      exact (hput.trans (bindSame_modTask _ _ _ _)).trans (ih h)

section
variable {s : State} {fn v dest : Nat} {k : CmdBlock} {x : Context}

/-- The state with a context's virtual dies bound anew and its copies placed. -/
def State.rebound (s : State) (x : Context) (v dest : Nat) : State :=
  (s.modCtx x.num fun y => y.rebind (swapDies x.vdies v dest) (newStacks x.vdies v dest)).placeCopies x.num (newStacks x.vdies v dest)

/-- The state with the frames and queues of a context moved, if they find room. -/
def State.moved (s : State) (x : Context) (v dest : Nat) : Option State :=
  let home := (swapDies x.vdies v dest).headD 0
  let up := (s.rebound x v dest).liftFrames x.num (x.vdies.getD v 0) dest (x.vdies.contains dest)
  let qs := if x.vdies.headD 0 = home then ([], up.2) else up.2.liftQueues x.num (x.vdies.headD 0)
  (setFrames up.1 qs.2).bind (setQueues x.num home qs.1)

theorem State.moved_same {u : State} (h : s.moved x v dest = some u) : BindSame (s.rebound x v dest) u := by
  unfold State.moved at h
  obtain ⟨w, hw, hu⟩ := Option.bind_eq_some_iff.1 h
  have h1 := bindSame_liftFrames (s.rebound x v dest) x.num (x.vdies.getD v 0) dest (x.vdies.contains dest)
  refine (h1.trans ?_).trans ((bindSame_setFrames _ hw).trans (bindSame_setQueues _ _ _ hu))
  split
  · exact .refl _
  · exact bindSame_liftQueues _ _ _

theorem exec_vdieBind_eq (h : InContext s.reap fn 9 k x [(16, 18), (20, 24)]) (hv : k.num 16 1 = v) (hd : k.num 17 1 = dest) :
    exec (.vdieBind fn) s = .next (
      if !s.reap.allSuspended x.num then s.reap.complete fn 10 []
      else if decide (x.vdies.length ≤ v) || !s.reap.usable.contains dest then s.reap.complete fn 1 []
      else if dest = x.vdies.getD v 0 then
        if (s.reap.rebound x v dest).hbmFits then (s.reap.rebound x v dest).complete fn 0 [(20, leBytes 4 (x.mapVer + 1))]
        else s.reap.complete fn 8 []
      else match s.reap.moved x v dest with
        | some u => if u.hbmFits then u.complete fn 0 [(20, leBytes 4 (x.mapVer + 1))] else s.reap.complete fn 8 []
        | none => s.reap.complete fn 8 []) := by
  subst hv hd
  dsimp only [exec, execVdieBind]
  rw [ctxCommand_of h rfl]
  generalize s.reap = u, k.num 16 1 = v, k.num 17 1 = dest at *
  unfold State.moved State.rebound
  rfl

/-- What a binding that succeeds has done (R206). -/
def Rebinds (x : Context) (v dest : Nat) (t : State) : Prop :=
  (∃ y, t.ctx? x.num = some y ∧ y = { x with vdies := swapDies x.vdies v dest, mapVer := x.mapVer + 1, copies := y.copies } ∧
    ∀ d, d ∈ y.copies ↔ d ∈ swapDies x.vdies v dest ∧ (d ∈ x.copies ∨ d ∈ newStacks x.vdies v dest)) ∧
  (∀ d ∈ newStacks x.vdies v dest, t.copiesStand x.num d = true) ∧
  ∀ q ∈ t.out, q.1 = x.num → q.2.2.2.1 ∉ newStacks x.vdies v dest

theorem mem_swapDies_of_new (hv : v < x.vdies.length) {d : Nat} (h : d ∈ newStacks x.vdies v dest) : d ∈ swapDies x.vdies v dest := by
  have hlen : v < (x.vdies.map fun d => if d = dest then x.vdies.getD v 0 else d).length := by simpa using hv
  have hdest : dest ∈ swapDies x.vdies v dest := by
    unfold swapDies
    dsimp only
    exact List.mem_iff_getElem.2 ⟨v, by simpa using hlen, by simp⟩
  unfold newStacks at h
  split at h
  · next hc =>
    rcases List.mem_cons.1 h with rfl | h
    · exact hdest
    · obtain rfl := List.mem_singleton.1 h
      obtain ⟨i, hi, he⟩ := List.getElem_of_mem (List.contains_iff_mem.1 hc)
      by_cases hiv : i = v
      · subst hiv
        rwa [List.getD_eq_getElem _ _ hi, he]
      · unfold swapDies
        refine List.mem_iff_getElem.2 ⟨i, by simpa using hi, ?_⟩
        rw [List.getElem_set_ne (Ne.symm hiv), List.getElem_map, if_pos he]
  · obtain rfl := List.mem_singleton.1 h
    exact hdest

theorem State.rebound_ctx (hx : s.ctx? x.num = some x) : (s.rebound x v dest).ctx? x.num =
    some (x.rebind (swapDies x.vdies v dest) (newStacks x.vdies v dest)) := by
  refine (State.ctx?_modCtx s x.num x.num _ ?_).trans ?_
  · intro z; rfl
  · rw [hx, Option.map_some, if_pos rfl]

theorem rebinds_of_same (hx : s.ctx? x.num = some x) (hv : v < x.vdies.length) {t : State} (hc : t.contexts = (s.rebound x v dest).contexts)
    (ho : t.out = (s.rebound x v dest).out) : Rebinds x v dest t := by
  have hctx : t.ctx? x.num = some (x.rebind (swapDies x.vdies v dest) (newStacks x.vdies v dest)) := by
    rw [State.ctx?, hc]
    exact State.rebound_ctx hx
  refine ⟨⟨_, hctx, rfl, fun d => x.rebind_copies _ _ d⟩, fun d hd => ?_, fun q hq hn hp => ?_⟩
  · have hmem : x.rebind (swapDies x.vdies v dest) (newStacks x.vdies v dest) ∈ t.contexts := List.mem_of_find?_eq_some hctx
    have hcopy := (x.rebind_copies _ _ d).2 ⟨mem_swapDies_of_new hv hd, .inr hd⟩
    unfold State.copiesStand
    rw [Bool.or_eq_true, List.any_eq_true, List.any_eq_true]
    exact .inr ⟨_, hmem, by simpa using hcopy⟩
  · rw [ho] at hq
    exact (State.mem_placeCopies.1 hq).2 hn hp

end

-- The table of a context's virtual dies after the exchange.

section
variable {vdies : List Nat} {v dest : Nat}

theorem length_swapDies : (swapDies vdies v dest).length = vdies.length := by simp [swapDies]

theorem getD_swapDies (hv : v < vdies.length) : (swapDies vdies v dest).getD v 0 = dest := by
  rw [List.getD_eq_getElem _ _ (by rw [length_swapDies]; exact hv)]
  simp [swapDies]

theorem getD_swapDies_ne {i : Nat} (hiv : i ≠ v) (hi : i < vdies.length) : (swapDies vdies v dest).getD i 0 =
    if vdies.getD i 0 = dest then vdies.getD v 0 else vdies.getD i 0 := by
  rw [List.getD_eq_getElem _ _ (by rw [length_swapDies]; exact hi), List.getD_eq_getElem _ _ hi]
  simp only [swapDies, List.getElem_set_ne (Ne.symm hiv), List.getElem_map]

/-- No stack stands for two virtual dies after the exchange, when none did before. -/
theorem nodup_swapDies (hv : v < vdies.length) (hnd : vdies.Nodup) : (swapDies vdies v dest).Nodup := by
  have hinj : ∀ {i j : Nat}, i < vdies.length → j < vdies.length → vdies.getD i 0 = vdies.getD j 0 → i = j := by
    intro i j hi hj he
    rw [List.getD_eq_getElem _ _ hi, List.getD_eq_getElem _ _ hj] at he
    exact (List.Nodup.getElem_inj_iff hnd).1 he
  have hother : ∀ {j : Nat}, j ≠ v → j < vdies.length → (swapDies vdies v dest).getD j 0 ≠ dest := by
    intro j hj hjl he
    rw [getD_swapDies_ne hj hjl] at he
    split at he
    · next h => exact hj (hinj hjl hv (h.trans he.symm))
    · next h => exact h he
  refine List.nodup_iff_injective_get.2 fun i j hij => Fin.ext ?_
  have hi : i.1 < vdies.length := i.isLt.trans_eq length_swapDies
  have hj : j.1 < vdies.length := j.isLt.trans_eq length_swapDies
  have he : (swapDies vdies v dest).getD i 0 = (swapDies vdies v dest).getD j 0 := by
    rw [List.getD_eq_getElem _ _ i.2, List.getD_eq_getElem _ _ j.2]
    exact hij
  by_cases hiv : i.1 = v
  · by_cases hjv : j.1 = v
    · rw [hiv, hjv]
    · rw [hiv, getD_swapDies hv] at he
      exact absurd he.symm (hother hjv hj)
  · by_cases hjv : j.1 = v
    · rw [hjv, getD_swapDies hv] at he
      exact absurd he (hother hiv hi)
    · rw [getD_swapDies_ne hiv hi, getD_swapDies_ne hjv hj] at he
      split at he
      · next h1 =>
        split at he
        · next h2 => exact hinj hi hj (h1.trans h2.symm)
        · exact absurd (hinj hv hj he).symm hjv
      · split at he
        · exact absurd (hinj hi hv he) hiv
        · exact hinj hi hj he

end

-- The physical function's commands.

section
variable {s : State} {k : CmdBlock}

theorem pfCommand_of {code : Nat} {used : List (Nat × Nat)} {ok : CmdBlock → Bool} {f : CmdBlock → State} (h : Command s 0 code k)
    (hcl : k.clean used = true) (hok : ok k = true) : s.pfCommand 0 code used ok f = .next (f k) := by
  unfold State.pfCommand
  rw [onCommand_of h, if_neg (by simp), if_pos (by simp [hcl, hok])]

theorem time_ref (h : Command s 0 10 k) (hcl : k.clean [(16, 17), (20, 28)] = true) (h1 : k.num 16 1 < 2) (h2 : 16 ≤ k.num 24 4)
    (h3 : k.num 24 4 ≤ 1000000) :
    ∃ t, exec (.timeRef 0) s = .next t ∧ Answered s t 0 k 0 [] ∧
      t.tb = { s.tb with awaited := some { source := k.num 16 1, uHost := k.num 20 4, limit := k.num 24 4 },
                         freshEdge := s.tb.freshEdge || k.num 16 1 == 1 } ∧ t.stks = s.stks ∧ t.mem = s.mem := by
  have heq : exec (.timeRef 0) s = .next ({ s with tb := { s.tb with
      awaited := some { source := k.num 16 1, uHost := k.num 20 4, limit := k.num 24 4 }
      freshEdge := s.tb.freshEdge || k.num 16 1 == 1 } }.complete 0 0 []) := by
    dsimp only [exec, execTimeRef]
    exact pfCommand_of h hcl (by simp [h1, h2, h3])
  refine ⟨_, heq, answered_completes (cmd?_of_command h) rfl rfl rfl, ?_, ?_, State.complete_mem _ 0 0 []⟩
  · rw [State.complete_frame]
  · rw [State.complete_frame]

theorem find?_filter_other {l : List Route} {n p : Nat} (hp : p ≠ n) :
    (l.filter fun q => q.peer != n).find? (fun r => r.peer == p) = l.find? fun r => r.peer == p := by
  rw [List.find?_filter]
  congr 1
  funext q
  by_cases h : q.peer = p
  · simp [h, hp]
  · simp [h]

theorem peer_mapped (h : Command s 0 18 k) (hcl : k.clean [(16, 21), (24, 40)] = true) (h1 : k.num 20 1 < 4) :
    ∃ t, exec (.peerMap 0) s = .next t ∧ Answered s t 0 k 0 [] ∧
      ((k.num 20 1).bitAt 1 = true → t.ownPeer = k.num 16 2 ∧ t.routes = s.routes) ∧
      ((k.num 20 1).bitAt 1 = false → t.ownPeer = s.ownPeer ∧
        t.routes.find? (fun r => r.peer == k.num 16 2) =
          some { peer := k.num 16 2, valid := (k.num 20 1).bitAt 0, mask := k.num 18 2, device := k.num 24 16 } ∧
        ∀ p, p ≠ k.num 16 2 → t.routes.find? (fun r => r.peer == p) = s.routes.find? (fun r => r.peer == p)) := by
  have hk := cmd?_of_command h
  have heq : exec (.peerMap 0) s = .next (if (k.num 20 1).bitAt 1 then { s with ownPeer := k.num 16 2 }.complete 0 0 []
      else { s with routes := { peer := k.num 16 2, valid := (k.num 20 1).bitAt 0, mask := k.num 18 2, device := k.num 24 16 } ::
        s.routes.filter fun q => q.peer != k.num 16 2 }.complete 0 0 []) := by
    dsimp only [exec, execPeerMap]
    exact pfCommand_of h hcl (by simp [h1])
  by_cases hb : (k.num 20 1).bitAt 1 = true
  · rw [if_pos hb] at heq
    refine ⟨_, heq, answered_completes hk rfl rfl rfl, fun _ => ?_, fun hf => by rw [hb] at hf; cases hf⟩
    rw [State.complete_frame]
    exact ⟨rfl, rfl⟩
  · rw [if_neg hb] at heq
    refine ⟨_, heq, answered_completes hk rfl rfl rfl, fun hf => absurd hf hb, fun _ => ?_⟩
    rw [State.complete_frame]
    refine ⟨rfl, List.find?_cons_of_pos (by simp), fun p hp => ?_⟩
    refine (List.find?_cons_of_neg ?_).trans (find?_filter_other hp)
    simpa using Ne.symm hp

/-- The carve-outs a `GROUND_SET` leaves. -/
def Rainfly.carved (r : Rainfly) (k : CmdBlock) : List Nat :=
  (List.range 4).map fun i => if k.num (16 + 2 * i) 2 = 0xFFFF then r.carve.getD i 0 else k.num (16 + 2 * i) 2

theorem ground_set (h : Command s 0 19 k) (hcl : k.clean [(16, 24)] = true)
    (hv : ∀ i, i < 4 → k.num (16 + 2 * i) 2 = 0xFFFF ∨ (k.num (16 + 2 * i) 2 % 16 = 0 ∧ k.num (16 + 2 * i) 2 ≤ 256)) :
    (s.contexts ≠ [] → Refuses s (.groundSet 0) 0 k 10) ∧
    (s.contexts = [] → ∃ t, exec (.groundSet 0) s = .next t ∧ Answered s t 0 k 0 [] ∧
      ∀ i, i < 4 → t.rainfly.carve.getD i 0 = if k.num (16 + 2 * i) 2 = 0xFFFF then s.rainfly.carve.getD i 0
        else k.num (16 + 2 * i) 2) := by
  have hk := cmd?_of_command h
  have heq : exec (.groundSet 0) s = .next (if s.contexts != [] then s.complete 0 10 []
      else { s with rainfly := { s.rainfly with carve := s.rainfly.carved k } }.complete 0 0 []) := by
    dsimp only [exec, execGroundSet]
    refine pfCommand_of h hcl (List.all_eq_true.2 fun i hi => ?_)
    have := hv i (List.mem_range.1 hi)
    simpa using this
  refine ⟨fun hc => ?_, fun hc => ?_⟩
  · rw [if_pos (by simpa using hc)] at heq
    exact refusesFrom_complete (res := []) hk heq
  · rw [if_neg (by simp [hc])] at heq
    refine ⟨_, heq, answered_completes hk rfl rfl rfl, fun i hi => ?_⟩
    rw [State.complete_frame]
    simp [Rainfly.carved, List.getD, hi]

theorem zeros_of {bs : List Byte} {off n : Nat} (hlen : off + n ≤ bs.length) (h : ∀ j, off ≤ j → j < off + n → bs.getD j 0 = 0) :
    zeros bs off n = true := by
  unfold zeros cut
  rw [beq_iff_eq]
  refine List.ext_getElem (by simp; omega) fun i h1 h2 => ?_
  simp only [List.length_replicate] at h2
  have := h (off + i) (by omega) (by omega)
  rw [List.getD_eq_getElem _ _ (by omega)] at this
  simpa using this

theorem counter_advance {fn : Nat} {x : Context} (h : InContext s fn 4 k x [(16, 28)]) (hlen : 244 ≤ (s.grantBlob k).length)
    (hkind : num (s.grantBlob k) 0 1 = 2) (h1 : ∀ j, 1 ≤ j → j < 4 → (s.grantBlob k).getD j 0 = 0)
    (h2 : ∀ j, 8 ≤ j → j < 176 → (s.grantBlob k).getD j 0 = 0) (hkey : cut (s.grantBlob k) 180 64 = Config.vendorKey)
    (hsig : blobSigned (s.grantBlob k) = true) (hn1 : 1 ≤ num (s.grantBlob k) 4 4) (hn2 : num (s.grantBlob k) 4 4 ≤ 64) :
    ∃ t, exec (.counterAdvance fn) s = .next t ∧ Answered s t fn k 0 [] ∧
      t.rainfly = { s.rainfly with fuses := max s.rainfly.fuses (num (s.grantBlob k) 4 4) } ∧ t.mem = s.mem := by
  have hk := cmd?_of_command h.1
  have hz1 := zeros_of (bs := s.grantBlob k) (off := 1) (n := 3) (by omega) fun j hj hj' => h1 j hj (by omega)
  have hz2 := zeros_of (bs := s.grantBlob k) (off := 8) (n := 168) (by omega) fun j hj hj' => h2 j hj (by omega)
  have heq : exec (.counterAdvance fn) s = .next ({ s with rainfly := { s.rainfly with
      fuses := max s.rainfly.fuses (num (s.grantBlob k) 4 4) } }.complete fn 0 []) := by
    dsimp only [exec, execCounterAdvance]
    rw [grantCommand_of h hlen (by rw [hkind]; rfl)]
    exact congrArg Host.Outcome.next (if_pos (by rw [hz1, hz2, hkey, hsig, decide_eq_true hn1, decide_eq_true hn2, beq_self_eq_true]; rfl))
  refine ⟨_, heq, answered_completes hk rfl rfl rfl, ?_, State.complete_mem _ fn 0 []⟩
  rw [State.complete_frame]

end

section
variable {s : State} {fn v dest : Nat} {k : CmdBlock} {x : Context}

theorem vdie_bound (h : InContext s.reap fn 9 k x [(16, 18), (20, 24)]) (hv : k.num 16 1 = v) (hd : k.num 17 1 = dest)
    (hs : s.reap.allSuspended x.num = true) (hvl : v < x.vdies.length) (hu : dest ∈ s.reap.usable) :
    (x.vdies.getD v 0 = dest → ((s.reap.rebound x v dest).hbmFits = false → RefusesFrom s s.reap (.vdieBind fn) fn k 8) ∧
      ((s.reap.rebound x v dest).hbmFits = true → ∃ t, exec (.vdieBind fn) s = .next t ∧
        Answered s.reap t fn k 0 [(20, leBytes 4 (x.mapVer + 1))] ∧ Rebinds x v dest t ∧ t.mem = s.reap.mem)) ∧
    (x.vdies.getD v 0 ≠ dest →
      ((∀ u, s.reap.moved x v dest = some u → u.hbmFits = false) → RefusesFrom s s.reap (.vdieBind fn) fn k 8) ∧
      ∀ u, s.reap.moved x v dest = some u → u.hbmFits = true → ∃ t, exec (.vdieBind fn) s = .next t ∧
        Answered s.reap t fn k 0 [(20, leBytes 4 (x.mapVer + 1))] ∧ Rebinds x v dest t) := by
  have heq := exec_vdieBind_eq h hv hd
  have hk := cmd?_of_command h.1
  obtain ⟨-, hx, -⟩ := h
  have hx' : s.reap.ctx? x.num = some x := State.ctx?_num hx ▸ hx
  rw [if_neg (by simp [hs]), if_neg (by simp [hvl, hu])] at heq
  generalize s.reap = r at *
  refine ⟨fun hsame => ?_, fun hne => ?_⟩
  · rw [if_pos hsame.symm] at heq
    refine ⟨fun hf => ?_, fun hf => ?_⟩
    · rw [hf] at heq
      exact refusesFrom_complete (res := []) hk heq
    · rw [hf, if_pos rfl] at heq
      refine ⟨_, heq, answered_completes hk rfl rfl rfl, rebinds_of_same hx' hvl ?_ ?_, State.complete_mem _ fn 0 _⟩
      · rw [State.complete_frame]
      · rw [State.complete_frame]
  · rw [if_neg (Ne.symm hne)] at heq
    refine ⟨fun hf => ?_, fun u hmv hf => ?_⟩
    · cases hmv : r.moved x v dest with
      | none =>
        rw [hmv] at heq
        exact refusesFrom_complete (res := []) hk heq
      | some u =>
        rw [hmv] at heq
        dsimp only at heq
        rw [hf u hmv] at heq
        exact refusesFrom_complete (res := []) hk heq
    · rw [hmv] at heq
      dsimp only at heq
      rw [hf, if_pos rfl] at heq
      obtain ⟨h1, h2, h3, h4, h5⟩ := State.moved_same hmv
      refine ⟨_, heq, answered_completes hk h3 h4 h5, rebinds_of_same hx' hvl ?_ ?_⟩
      · rw [State.complete_frame]; exact h1
      · rw [State.complete_frame]; exact h2

end

/-- Settles O40: each command through its equation; what moves in a `VDIE_BIND` leaves contexts, copies and commands alone. -/
theorem bindingCommands : Obligations.BindingCommands := by
  refine ⟨fun s fn v dest k x h hv hd => ⟨fun hs => ?_, fun hs hbad => ?_, fun hs hvl hu => vdie_bound h hv hd hs hvl hu⟩,
    fun vdies v dest hv hnd => ⟨length_swapDies, getD_swapDies hv, nodup_swapDies hv hnd, fun i hi hl hne => ?_, fun i hi hl he => ?_⟩,
    fun s k h hcl h1 h2 h3 => time_ref h hcl h1 h2 h3, fun s k h hcl h1 => peer_mapped h hcl h1,
    fun s k h hcl hv => ground_set h hcl hv,
    fun s fn k x h hlen hkind h1 h2 hkey hsig => counter_advance h hlen hkind h1 h2 hkey hsig⟩
  · have heq := exec_vdieBind_eq h hv hd
    rw [if_pos (by simp [hs])] at heq
    exact refusesFrom_complete (res := []) (cmd?_of_command h.1) heq
  · have heq := exec_vdieBind_eq h hv hd
    rw [if_neg (by simp [hs]), if_pos] at heq
    · exact refusesFrom_complete (res := []) (cmd?_of_command h.1) heq
    · simpa using hbad
  · rw [getD_swapDies_ne hi hl, if_neg hne]
  · rw [getD_swapDies_ne hi hl, if_pos he]

end Sys2Proof.Machine

namespace Sys2Proof.Machine
open Sys2Proof.Claims

-- A context's end (R207).

section
variable {s : State} {c d : Nat}

/-- What a context's end leaves of the machine's lists. -/
theorem State.endCtx_keeps : (s.endCtx c).blocks = s.blocks.filter (fun b => b.ctx != c) ∧
    (s.endCtx c).commits = s.commits.filter (fun k => k.ctx != c) ∧ (s.endCtx c).reqs = s.reqs ∧ (s.endCtx c).ops = s.ops ∧
    (s.endCtx c).contexts = s.contexts.filter (fun x => x.num != c) ∧ (s.endCtx c).rainfly.reqs = s.rainfly.reqs ∧
    (s.endCtx c).tasks = s.tasks.filter (fun k => k.ctx != c) ∧ (s.endCtx c).images = s.images.filter (fun x => x.ctx != c) ∧
    (s.endCtx c).tensors = s.tensors.filter (fun x => x.ctx != c) ∧
    (s.endCtx c).rainfly.grants = s.rainfly.grants.filter (fun g => g.ctx != c) ∧
    (s.endCtx c).misses = s.misses.filter fun m => keyCtx m.key != c := by
  have h := State.foldTensors_frame (s.tensors.filter fun x => x.ctx == c) s
  dsimp only at h
  unfold State.endCtx
  dsimp only
  refine ⟨rfl, rfl, ?_, ?_, rfl, rfl, rfl, rfl, rfl, rfl, rfl⟩
  · rw [h]
  · rw [h]

theorem State.ctx?_endCtx (h : d ≠ c) : (s.endCtx c).ctx? d = s.ctx? d := by
  rw [State.ctx?, State.endCtx_keeps.2.2.2.2.1, List.find?_filter]
  refine congrArg (fun p => List.find? p s.contexts) (funext fun x => ?_)
  by_cases hx : x.num = d
  · simp [hx, h]
  · simp [hx]

theorem State.freed_endCtx (s : State) (c : Nat) : Freed (s.endCtx c) c := by
  obtain ⟨hb, -, -, -, hx, -, ht, hi, hn, hg, hm⟩ := State.endCtx_keeps (s := s) (c := c)
  refine ⟨?_, hb ▸ fun b h => ?_, ht ▸ fun y h => ?_, hi ▸ fun y h => ?_, hn ▸ fun y h => ?_, hg ▸ fun y h => ?_,
    hm ▸ fun m h => ?_⟩
  · rw [State.ctx?, hx, List.find?_eq_none]
    intro x h
    simpa using (List.mem_filter.1 h).2
  all_goals simpa using (List.mem_filter.1 h).2

/-- What is freed stays freed when another context ends. -/
theorem State.freed_of_endCtx (h : Freed s c) (d : Nat) : Freed (s.endCtx d) c := by
  obtain ⟨hb, -, -, -, hx, -, ht, hi, hn, hg, hm⟩ := State.endCtx_keeps (s := s) (c := d)
  obtain ⟨h1, h2, h3, h4, h5, h6, h7⟩ := h
  refine ⟨?_, hb ▸ fun b h => h2 b (List.mem_filter.1 h).1, ht ▸ fun y h => h3 y (List.mem_filter.1 h).1,
    hi ▸ fun y h => h4 y (List.mem_filter.1 h).1, hn ▸ fun y h => h5 y (List.mem_filter.1 h).1,
    hg ▸ fun y h => h6 y (List.mem_filter.1 h).1, hm ▸ fun m h => h7 m (List.mem_filter.1 h).1⟩
  rw [State.ctx?, hx, List.find?_eq_none]
  exact fun x h => List.find?_eq_none.1 h1 x (List.mem_filter.1 h).1

theorem State.ctxBusy_iff : s.ctxBusy c = true ↔ (∃ r ∈ s.reqs, s.blockOf c r.block = true) ∨
    (∃ o ∈ s.ops, s.blockOf c o.block = true) ∨ ∃ k ∈ s.commits, k.ctx = c ∧ k.stamp.isSome = true := by
  simp only [State.ctxBusy, Bool.or_eq_true, List.any_eq_true, Bool.and_eq_true, beq_iff_eq, or_assoc]

/-- The first block of a number is still the first when others go. -/
theorem find?_filter_ctx {n : Nat} {l : List Block} (h : ∀ b, l.find? (fun b => b.bid == n) = some b → b.ctx ≠ c) :
    (l.filter fun b => b.ctx != c).find? (fun b => b.bid == n) = l.find? fun b => b.bid == n := by
  induction l with
  | nil => rfl
  | cons b l ih =>
    rw [List.find?_cons] at h ⊢
    by_cases hb : b.bid = n
    · simp only [hb, beq_self_eq_true] at h ⊢
      have hc : b.ctx ≠ c := h b rfl
      rw [List.filter_cons, if_pos (by simpa using hc), List.find?_cons]
      simp [hb]
    · have hb' : (b.bid == n) = false := by simpa using hb
      simp only [hb'] at h ⊢
      rw [List.filter_cons]
      split
      · rw [List.find?_cons, hb']
        exact ih h
      · exact ih h

/-- A block of a context that runs nothing is not the one a request names. -/
theorem State.blockOf_endCtx {n : Nat} (h : s.blockOf c n = false) : (s.endCtx c).blockOf d n = s.blockOf d n := by
  have hfind : (s.endCtx c).block? n = s.block? n := by
    rw [State.block?, State.endCtx_keeps.1]
    refine find?_filter_ctx fun b hb => ?_
    unfold State.blockOf at h
    rw [show s.block? n = some b from hb] at h
    simpa using h
  unfold State.blockOf
  rw [hfind]

/-- The end of a context that runs nothing leaves what others run. -/
theorem State.ctxBusy_endCtx (h : s.ctxBusy c = false) : (s.endCtx c).ctxBusy d = s.ctxBusy d := by
  have hn : ¬((∃ r ∈ s.reqs, s.blockOf c r.block = true) ∨ (∃ o ∈ s.ops, s.blockOf c o.block = true) ∨
      ∃ k ∈ s.commits, k.ctx = c ∧ k.stamp.isSome = true) := fun hc => by rw [State.ctxBusy_iff.2 hc] at h; cases h
  rw [not_or, not_or] at hn
  obtain ⟨hr, ho, hk⟩ := hn
  obtain ⟨-, hcom, hreqs, hops, -⟩ := State.endCtx_keeps (s := s) (c := c)
  rw [Bool.eq_iff_iff, State.ctxBusy_iff, State.ctxBusy_iff, hreqs, hops, hcom]
  refine or_congr (exists_congr fun r => and_congr_right fun hm => ?_)
    (or_congr (exists_congr fun o => and_congr_right fun hm => ?_) (exists_congr fun k => ?_))
  · rw [State.blockOf_endCtx (by simpa using fun hb => hr ⟨r, hm, hb⟩)]
  · rw [State.blockOf_endCtx (by simpa using fun hb => ho ⟨o, hm, hb⟩)]
  · rw [List.mem_filter]
    constructor
    · rintro ⟨⟨h1, -⟩, h2⟩
      exact ⟨h1, h2⟩
    · rintro ⟨h1, h2⟩
      refine ⟨⟨h1, ?_⟩, h2⟩
      rw [bne_iff_ne]
      exact fun hc => hk ⟨k, h1, hc, h2.2⟩

theorem State.fatalKept_endCtx (h : d ≠ c) : (s.endCtx c).fatalKept d = s.fatalKept d := by
  unfold State.fatalKept
  rw [State.ctx?_endCtx h, State.endCtx_keeps.2.2.2.2.2.1]

-- A function-level reset (R373).

/-- What a reset does with one context. -/
def State.resetOne (s : State) (c : Nat) : State :=
  if s.ctxBusy c then s else if s.fatalKept c then s.endCtx c else s.fatalStep c

theorem State.fatalStep_of_none (h : s.ctx? c = none) : s.fatalStep c = s := by
  simp only [State.fatalStep, h]

theorem State.fatalKept_of_none (h : s.ctx? c = none) : s.fatalKept c = false := by
  simp only [State.fatalKept, h]

/-- The checkpoint of one grant of a context that ends by a fatal error. -/
def State.fatalCkpt (s : State) (c : Nat) (g : Grant) : State :=
  if s.leafLeft then
    let s := s.requestCkpt g.region 3 g.number .nobody
    s.modCtx c fun x => { x with fatal := x.fatal.map fun f => { f with seq := s.rainfly.seq } }
  else s

theorem mem_modCtx_of_ne (u : State) (f : Context → Context) {y : Context} (hy : y ∈ u.contexts) (hn : y.num ≠ c) :
    y ∈ (u.modCtx c f).contexts := List.mem_map.2 ⟨y, hy, if_neg (by simpa using hn)⟩

theorem State.foldFatalCkpt_others (l : List Grant) : ∀ u : State, (l.foldl (fun s g => s.fatalCkpt c g) u).cmds = u.cmds ∧
    ∀ y ∈ u.contexts, y.num ≠ c → y ∈ (l.foldl (fun s g => s.fatalCkpt c g) u).contexts := by
  induction l with
  | nil => exact fun u => ⟨rfl, fun y hy _ => hy⟩
  | cons g l ih =>
    intro u
    obtain ⟨h1, h2⟩ := ih (u.fatalCkpt c g)
    have hone : (u.fatalCkpt c g).cmds = u.cmds ∧ ∀ y ∈ u.contexts, y.num ≠ c → y ∈ (u.fatalCkpt c g).contexts := by
      unfold State.fatalCkpt
      split
      · exact ⟨rfl, fun y hy hn => mem_modCtx_of_ne (u.requestCkpt g.region 3 g.number .nobody) _ hy hn⟩
      · exact ⟨rfl, fun y hy _ => hy⟩
    exact ⟨h1.trans hone.1, fun y hy hn => h2 y (hone.2 y hy hn) hn⟩

theorem State.fatalStep_others (s : State) (c : Nat) : (s.fatalStep c).cmds = s.cmds ∧
    ∀ y ∈ s.contexts, y.num ≠ c → y ∈ (s.fatalStep c).contexts := by
  unfold State.fatalStep
  split
  · split
    · exact ⟨rfl, fun y hy _ => hy⟩
    · obtain ⟨h1, h2⟩ := State.foldFatalCkpt_others (c := c) (s.rainfly.grants.filter fun g => g.ctx == c) s
      exact ⟨h1, fun y hy hn => mem_modCtx_of_ne _ _ (h2 y hy hn) hn⟩
  · exact ⟨rfl, fun y hy _ => hy⟩

theorem State.resetOne_others (s : State) (c : Nat) : (s.resetOne c).cmds = s.cmds ∧
    ∀ y ∈ s.contexts, y.num ≠ c → y ∈ (s.resetOne c).contexts := by
  unfold State.resetOne
  split
  · exact ⟨rfl, fun y hy _ => hy⟩
  · split
    · refine ⟨(State.endCtx_cmds s c).1, fun y hy hn => ?_⟩
      rw [State.endCtx_keeps.2.2.2.2.1]
      exact List.mem_filter.2 ⟨hy, by simpa using hn⟩
    · exact s.fatalStep_others c

theorem State.foldReset_others (l : List Context) : ∀ s : State, (l.foldl (fun s x => s.resetOne x.num) s).cmds = s.cmds ∧
    ∀ y ∈ s.contexts, (∀ x ∈ l, x.num ≠ y.num) → y ∈ (l.foldl (fun s x => s.resetOne x.num) s).contexts := by
  induction l with
  | nil => exact fun s => ⟨rfl, fun y hy _ => hy⟩
  | cons x l ih =>
    intro s
    obtain ⟨h1, h2⟩ := s.resetOne_others x.num
    obtain ⟨h3, h4⟩ := ih (s.resetOne x.num)
    exact ⟨h3.trans h1, fun y hy hn => h4 y (h2 y hy (Ne.symm (hn x List.mem_cons_self)))
      fun z hz => hn z (List.mem_cons_of_mem _ hz)⟩

/-- A context of a reset that runs something, whose checkpoints are made, or that is gone already. -/
def State.resettable (s : State) (c : Nat) : Prop := s.ctxBusy c = true ∨ s.fatalKept c = true ∨ Freed s c

/-- One of them freed or left; whatever the others run stays. -/
theorem State.resetOne_resettable (h : s.resettable c) :
    (∀ d, (s.resetOne c).ctxBusy d = s.ctxBusy d) ∧ (∀ d, s.resettable d → (s.resetOne c).resettable d) ∧
    (∀ d, Freed s d → Freed (s.resetOne c) d) ∧ (s.ctxBusy c = false → Freed (s.resetOne c) c) ∧
    ∀ y ∈ s.contexts, s.ctxBusy y.num = true → y ∈ (s.resetOne c).contexts := by
  have hsame : s.resetOne c = s → (s.ctxBusy c = false → Freed s c) → (∀ d, (s.resetOne c).ctxBusy d = s.ctxBusy d) ∧
      (∀ d, s.resettable d → (s.resetOne c).resettable d) ∧ (∀ d, Freed s d → Freed (s.resetOne c) d) ∧
      (s.ctxBusy c = false → Freed (s.resetOne c) c) ∧ ∀ y ∈ s.contexts, s.ctxBusy y.num = true → y ∈ (s.resetOne c).contexts := by
    intro he hf
    rw [he]
    exact ⟨fun _ => rfl, fun _ => id, fun _ => id, hf, fun y hy _ => hy⟩
  by_cases hb : s.ctxBusy c = true
  · exact hsame (if_pos hb) fun hf => by rw [hb] at hf; cases hf
  · have hb' : s.ctxBusy c = false := by simpa using hb
    by_cases hk : s.fatalKept c = true
    · have he : s.resetOne c = s.endCtx c := (if_neg hb).trans (if_pos hk)
      rw [he]
      refine ⟨fun d => State.ctxBusy_endCtx hb', fun d hd => ?_, fun d hd => State.freed_of_endCtx hd c,
        fun _ => State.freed_endCtx s c, fun y hy hyb => ?_⟩
      · by_cases hdc : d = c
        · subst hdc
          exact .inr (.inr (State.freed_endCtx s d))
        · unfold State.resettable
          rw [State.ctxBusy_endCtx hb', State.fatalKept_endCtx hdc]
          exact hd.imp_right (Or.imp_right fun hf => State.freed_of_endCtx hf c)
      · rw [State.endCtx_keeps.2.2.2.2.1]
        refine List.mem_filter.2 ⟨hy, ?_⟩
        rw [bne_iff_ne]
        exact fun hc => hb (hc ▸ hyb)
    · have hf : Freed s c := (h.resolve_left hb).resolve_left hk
      refine hsame ((if_neg hb).trans ((if_neg hk).trans (State.fatalStep_of_none hf.1))) fun _ => hf

theorem State.foldReset_resettable (l : List Context) : ∀ s : State, (∀ x ∈ l, s.resettable x.num) →
    let t := l.foldl (fun s x => s.resetOne x.num) s
    (∀ d, Freed s d → Freed t d) ∧ (∀ x ∈ l, s.ctxBusy x.num = false → Freed t x.num) ∧
    ∀ y ∈ s.contexts, s.ctxBusy y.num = true → y ∈ t.contexts := by
  induction l with
  | nil => exact fun s _ => ⟨fun _ => id, fun x hx => (by cases hx), fun y hy _ => hy⟩
  | cons x l ih =>
    intro s h t
    obtain ⟨h1, h2, h3, h4, h5⟩ := State.resetOne_resettable (h x List.mem_cons_self)
    obtain ⟨i1, i2, i3⟩ := ih (s.resetOne x.num) fun z hz => h2 _ (h z (List.mem_cons_of_mem _ hz))
    refine ⟨fun d hd => i1 d (h3 d hd), fun z hz hb => ?_, fun y hy hb => i3 y (h5 y hy hb) ((h1 _).trans hb)⟩
    rcases List.mem_cons.1 hz with rfl | hz
    · exact i1 _ (h4 hb)
    · exact i2 z hz ((h1 _).trans hb)

theorem function_reset (s : State) (fn : Nat) :
    let ended := s.contexts.filter fun x => x.fn == fn && x.fatal.isSome
    ∃ t, exec (.functionLevelReset fn) s = .next t ∧ t.cmds = s.cmds ∧
      (∀ y ∈ s.contexts, (∀ x ∈ ended, x.num ≠ y.num) → y ∈ t.contexts) ∧
      ((∀ x ∈ ended, s.ctxBusy x.num = true ∨ s.fatalKept x.num = true) →
        ∀ x ∈ ended, (s.ctxBusy x.num = false → Freed t x.num) ∧ (s.ctxBusy x.num = true → x ∈ t.contexts)) ∧
      ∀ x, ended = [x] → s.ctxBusy x.num = false → s.fatalKept x.num = false → t = s.fatalStep x.num := by
  intro ended
  obtain ⟨h1, h2⟩ := State.foldReset_others ended s
  refine ⟨ended.foldl (fun s x => s.resetOne x.num) s, rfl, h1, h2, fun h x hx => ?_, fun x he hb hk => ?_⟩
  · obtain ⟨-, i2, i3⟩ := State.foldReset_resettable ended s fun z hz => (h z hz).imp_right Or.inl
    exact ⟨i2 x hx, fun hb => i3 x (List.mem_filter.1 hx).1 hb⟩
  · rw [he]
    exact (if_neg (by simp [hb])).trans (if_neg (by simp [hk]))

end

-- Opening a context (R204).

section
variable {s : State} {fn n c j : Nat} {k : CmdBlock}

/-- The context a `CTX_OPEN` makes. -/
def openedCtx (s : State) (fn c : Nat) (k : CmdBlock) : Context :=
  { num := c, fn := fn, vdies := s.usable.take (k.num 16 1), mapVer := 1, bivouac := k.num 20 4, ringAddr := k.num 24 8,
    copies := [], ringSize := k.num 32 4, readCnt := 0, posted := 0, queued := [], nextTask := 1, suspended := false,
    fatal := none, ckptDone := false }

/-- The state with it. -/
def State.withCtxNum (s : State) (fn c : Nat) (k : CmdBlock) : State := { s with contexts := s.contexts ++ [openedCtx s fn c k] }

theorem exec_ctxOpen_eq (h : Command s fn 2 k) (hcl : k.clean [(16, 17), (20, 40)] = true) (h1 : 1 ≤ k.num 16 1)
    (h4 : k.num 16 1 ≤ 4) (hj : j < 11) (hring : k.num 32 4 = 2 ^ (6 + j)) :
    exec (.ctxOpen fn) s = .next (match s.freeCtx with
      | none => s.complete fn 3 []
      | some c => if s.usable.length < k.num 16 1 then s.complete fn 3 []
        else if (s.withCtxNum fn c k).hbmFits then (s.withCtxNum fn c k).complete fn 0 [(36, leBytes 4 c)]
        else s.complete fn 8 []) := by
  have hany : ((List.range 11).any fun i => k.num 32 4 == 2 ^ (6 + i)) = true :=
    List.any_eq_true.2 ⟨j, List.mem_range.2 hj, by simp [hring]⟩
  dsimp only [exec, execCtxOpen]
  rw [onCommand_of h]
  refine congrArg Host.Outcome.next ((if_neg ?_).trans rfl)
  rw [hcl, hany, decide_eq_false (show ¬k.num 16 1 = 0 by omega), decide_eq_false (show ¬4 < k.num 16 1 by omega)]
  simp

/-- The lowest free number. -/
theorem State.freeCtx_some (h : s.freeCtx = some c) : c < 64 ∧ s.ctx? c = none ∧ ∀ d, d < c → (s.ctx? d).isSome = true := by
  unfold State.freeCtx at h
  obtain ⟨hc, hlt, hlow⟩ := List.find?_range_eq_some.1 h
  refine ⟨List.mem_range.1 hlt, Option.isNone_iff_eq_none.1 hc, fun d hd => ?_⟩
  simpa using hlow d hd

theorem ctx_open (h : Command s fn 2 k) (hcl : k.clean [(16, 17), (20, 40)] = true) (h1 : 1 ≤ k.num 16 1)
    (h4 : k.num 16 1 ≤ 4) (hj : j < 11) (hring : k.num 32 4 = 2 ^ (6 + j)) :
    (s.freeCtx = some c → k.num 16 1 ≤ s.usable.length → (s.withCtxNum fn c k).hbmFits = true →
      ∃ t, exec (.ctxOpen fn) s = .next t ∧ Answered s t fn k 0 [(36, leBytes 4 c)] ∧
        t = { s.withCtxNum fn c k with cmds := t.cmds, returned := t.returned, msix := t.msix } ∧ c < 64 ∧ s.ctx? c = none ∧
        ∀ d, d < c → (s.ctx? d).isSome = true) ∧
    (s.freeCtx = none ∨ s.usable.length < k.num 16 1 → Refuses s (.ctxOpen fn) fn k 3) ∧
    (s.freeCtx = some c → k.num 16 1 ≤ s.usable.length → (s.withCtxNum fn c k).hbmFits = false →
      Refuses s (.ctxOpen fn) fn k 8) := by
  have hk := cmd?_of_command h
  have heq := exec_ctxOpen_eq h hcl h1 h4 hj hring
  refine ⟨fun hf hu hfit => ?_, fun hno => ?_, fun hf hu hfit => ?_⟩
  · rw [hf] at heq
    dsimp only at heq
    rw [if_neg (Nat.not_lt.2 hu), if_pos hfit] at heq
    exact ⟨_, heq, answered_completes hk rfl rfl rfl, State.complete_frame _ fn 0 _, State.freeCtx_some hf⟩
  · cases hf : s.freeCtx with
    | none =>
      rw [hf] at heq
      exact refusesFrom_complete (res := []) hk heq
    | some d =>
      rw [hf] at heq
      dsimp only at heq
      rw [if_pos (hno.resolve_left (by simp [hf]))] at heq
      exact refusesFrom_complete (res := []) hk heq
  · rw [hf] at heq
    dsimp only at heq
    rw [if_neg (Nat.not_lt.2 hu), hfit] at heq
    exact refusesFrom_complete (res := []) hk heq

end

-- Closing a context (R207).

section
variable {s : State} {fn : Nat} {k : CmdBlock} {x : Context}

/-- The closing records requested of one grant after another, with their numbers. -/
def closeCkpt (p : List Nat × State) (g : Grant) : List Nat × State :=
  if p.2.leafLeft then
    let s := p.2.requestCkpt g.region 2 g.number .nobody
    (p.1 ++ [s.rainfly.seq], s)
  else p

/-- The grants a context holds. -/
def State.held (s : State) (c : Nat) : List Grant := s.rainfly.grants.filter fun g => g.ctx == c

theorem State.closeCkpts_eq (c : Nat) : s.closeCkpts c = (s.held c).foldl closeCkpt ([], s) := rfl

theorem closeCkpts_none {l : List Grant} (h : l = [] ∨ s.leafLeft = false) : l.foldl closeCkpt ([], s) = ([], s) := by
  rcases h with rfl | h
  · rfl
  · induction l with
    | nil => rfl
    | cons g l ih => rw [List.foldl_cons, closeCkpt, if_neg (by simp [h]), ih]

/-- With signatures left, one record for each grant, whose number is noted. -/
theorem closeCkpts_some (l : List Grant) : ∀ p : List Nat × State, p.2.leafLeft = true → ∃ new : List CkptReq,
    (l.foldl closeCkpt p).2.rainfly.reqs = p.2.rainfly.reqs ++ new ∧ new.map (·.body.region) = l.map (·.region) ∧
    (∀ r ∈ new, r.body.cause = 2 ∧ r.body.value = p.2.meterVal r.body.region) ∧
    (l.foldl closeCkpt p).1 = p.1 ++ new.map (·.body.seq) := by
  induction l with
  | nil => exact fun p _ => ⟨[], by simp, rfl, fun r hr => (by cases hr), by simp⟩
  | cons g l ih =>
    intro p hp
    rw [List.foldl_cons]
    have hone : closeCkpt p g = (p.1 ++ [p.2.rainfly.seq + 1], p.2.requestCkpt g.region 2 g.number .nobody) := if_pos hp
    obtain ⟨new, h1, h2, h3, h4⟩ := ih (closeCkpt p g) (by rw [hone]; exact hp)
    have hreqs : (closeCkpt p g).2.rainfly.reqs = p.2.rainfly.reqs ++ [{
        body := { cause := 2, region := g.region, grant := g.number, value := p.2.meterVal g.region
                  stamp := if p.2.tb.accepted then max p.2.tb.latest (p.2.rainfly.stamp + 1) else 0, seq := p.2.rainfly.seq + 1 }
        stamped := p.2.tb.accepted, for_ := .nobody }] := by rw [hone]; rfl
    rw [hreqs, List.append_assoc] at h1
    refine ⟨_, h1, ?_, fun r hr => ?_, ?_⟩
    · simp [h2]
    · rcases List.mem_append.1 hr with hr | hr
      · obtain rfl := List.mem_singleton.1 hr
        exact ⟨rfl, rfl⟩
      · obtain ⟨hc, hv⟩ := h3 r hr
        rw [hone] at hv
        exact ⟨hc, hv⟩
    · rw [h4, hone]
      simp

/-- The state in which a closing waits for its records. -/
def State.closing (s : State) (fn : Nat) (k : CmdBlock) (x : Context) : State :=
  let p := (s.discardTasks x.num).closeCkpts x.num
  { p.2 with cmds := p.2.cmds.map fun (c : CmdBlock) =>
      if c.fn == fn && c.slot == k.slot then { c with running := true, wants := p.1 } else c }

theorem exec_ctxClose_eq (h : Command s.reap fn 15 k) (hcl : k.clean [] = true) (hx : s.reap.ctx? (k.num 4 4) = some x)
    (hfn : x.fn = fn) : exec (.ctxClose fn) s = .next (
      if x.fatal.isNone && s.reap.blocks.any (fun b => b.ctx == x.num && b.status == .placed) then s.reap.complete fn 10 []
      else if s.reap.ctxBusy x.num then s.reap
      else if x.fatal.isSome && !s.reap.fatalKept x.num then s.reap.fatalStep x.num
      else (s.reap.closing fn k x).closeGoesOn fn) := by
  obtain ⟨hr, hk, hnr, hc⟩ := h
  dsimp only [exec, execCtxClose]
  rw [hk]
  dsimp only
  rw [hr, hc, hnr, hx]
  dsimp only
  rw [hfn, hcl]
  simp only [bne_self_eq_false, Bool.not_true, Bool.or_false, Bool.false_eq_true, if_false]
  rfl

/-- A closing under way whose records stand frees its context and completes. -/
theorem closeGoesOn_done (hk : s.cmd? fn = some k) (h : ∀ r ∈ s.rainfly.reqs, r.body.seq ∉ k.wants) :
    s.closeGoesOn fn = (s.endCtx (k.num 4 4)).complete fn 0 [] := by
  simp only [State.closeGoesOn, hk]
  refine if_neg fun hany => ?_
  obtain ⟨r, hr, hc⟩ := List.any_eq_true.1 hany
  exact h r hr (List.contains_iff_mem.1 hc)

theorem closeGoesOn_waits (hk : s.cmd? fn = some k) (h : ∃ r ∈ s.rainfly.reqs, r.body.seq ∈ k.wants) : s.closeGoesOn fn = s := by
  simp only [State.closeGoesOn, hk]
  obtain ⟨r, hr, hc⟩ := h
  exact if_pos (List.any_eq_true.2 ⟨r, hr, contains_of_mem hc⟩)

theorem find?_cmd_wants {l : List CmdBlock} {w : List Nat} (h : l.find? (fun c => c.fn == fn) = some k) :
    (l.map fun (c : CmdBlock) => if c.fn == fn && c.slot == k.slot then { c with running := true, wants := w } else c).find?
      (fun c => c.fn == fn) = some { k with running := true, wants := w } := by
  have hfn : k.fn = fn := by simpa using List.find?_some h
  have hsame : (fun c : CmdBlock => c.fn == fn) ∘
      (fun c => if c.fn == fn && c.slot == k.slot then { c with running := true, wants := w } else c) = fun c => c.fn == fn := by
    funext c
    by_cases hc : (c.fn == fn && c.slot == k.slot) = true <;> simp [Function.comp, hc]
  rw [List.find?_map, hsame, h, Option.map_some, if_pos (by simp [hfn])]

theorem State.freed_complete {t : State} {c : Nat} (h : Freed t c) (st : Nat) (res : List (Nat × List Byte)) :
    Freed (t.complete fn st res) c := by
  rw [State.complete_frame]
  exact h

/-- A closing that ends: the context is gone and its command is back. -/
theorem closing_ends (hk : s.cmd? fn = some k) (hc : k.num 4 4 = x.num) (h : s.held x.num = [] ∨ s.leafLeft = false) :
    ((s.closing fn k x).closeGoesOn fn).msix = s.msix ++ [(fn, 0)] ∧
    ((s.closing fn k x).closeGoesOn fn).returned = s.returned ++
      [{ k with bytes := answer k 0 [], running := false, wants := [] }] ∧
    Freed ((s.closing fn k x).closeGoesOn fn) x.num := by
  have hp : (s.discardTasks x.num).closeCkpts x.num = ([], s.discardTasks x.num) := by
    rw [State.closeCkpts_eq]
    exact closeCkpts_none h
  have hcl : s.closing fn k x = { s.discardTasks x.num with cmds := s.cmds.map fun (c : CmdBlock) =>
      if c.fn == fn && c.slot == k.slot then { c with running := true, wants := [] } else c } := by
    unfold State.closing
    rw [hp]
    rfl
  have hcmd : (s.closing fn k x).cmd? fn = some { k with running := true, wants := [] } := by
    rw [hcl]
    exact find?_cmd_wants hk
  have hret : (s.closing fn k x).returned = s.returned := by rw [hcl]; rfl
  have hmsix : (s.closing fn k x).msix = s.msix := by rw [hcl]; rfl
  generalize s.closing fn k x = u at *
  have hdone : u.closeGoesOn fn = (u.endCtx x.num).complete fn 0 [] := by
    rw [closeGoesOn_done hcmd fun r _ => by simp]
    exact congrArg (fun n => (u.endCtx n).complete fn 0 []) hc
  obtain ⟨h1, h2, h3⟩ := State.endCtx_cmds u x.num
  obtain ⟨-, hm, hr⟩ := answered_completes (st := 0) (res := []) hcmd h1 h2 h3
  rw [hdone]
  refine ⟨hmsix ▸ hm, ?_, State.freed_complete (State.freed_endCtx u x.num) 0 []⟩
  rw [hr, hret]
  rfl

/-- A closing that waits for its records. -/
theorem closing_waits (hk : s.cmd? fn = some k) (hheld : s.held x.num ≠ []) (hleaf : s.leafLeft = true) :
    ∃ new, ((s.closing fn k x).closeGoesOn fn).rainfly.reqs = s.rainfly.reqs ++ new ∧
      new.map (·.body.region) = (s.held x.num).map (·.region) ∧
      (∀ r ∈ new, r.body.cause = 2 ∧ r.body.value = s.meterVal r.body.region) ∧
      ((s.closing fn k x).closeGoesOn fn).cmd? fn = some { k with running := true, wants := new.map (·.body.seq) } ∧
      ((s.closing fn k x).closeGoesOn fn).returned = s.returned ∧
      (∀ y ∈ ((s.closing fn k x).closeGoesOn fn).tasks, y.ctx ≠ x.num) ∧
      ∀ b ∈ ((s.closing fn k x).closeGoesOn fn).blocks, b.ctx ≠ x.num := by
  obtain ⟨new, h1, h2, h3, h4⟩ := closeCkpts_some (s.held x.num) ([], s.discardTasks x.num) hleaf
  have hp : (s.discardTasks x.num).closeCkpts x.num = (s.held x.num).foldl closeCkpt ([], s.discardTasks x.num) := rfl
  have hfr := (s.discardTasks x.num).closeCkpts_frame x.num
  rw [← hp] at h1 h4
  rw [List.nil_append] at h4
  have hcmd : (s.closing fn k x).cmd? fn = some { k with running := true, wants := new.map (·.body.seq) } := by
    unfold State.closing
    dsimp only
    rw [h4, hfr]
    exact find?_cmd_wants hk
  have hreqs : (s.closing fn k x).rainfly.reqs = s.rainfly.reqs ++ new := h1
  have hret : (s.closing fn k x).returned = s.returned := by
    unfold State.closing
    dsimp only
    rw [hfr] <;> rfl
  have htasks : (s.closing fn k x).tasks = s.tasks.filter fun t => t.ctx != x.num := by
    unfold State.closing
    dsimp only
    rw [hfr] <;> rfl
  have hblocks : (s.closing fn k x).blocks = s.blocks.filter fun t => t.ctx != x.num := by
    unfold State.closing
    dsimp only
    rw [hfr] <;> rfl
  have hne : new ≠ [] := by
    rintro rfl
    rw [List.map_nil, eq_comm, List.map_eq_nil_iff] at h2
    exact hheld h2
  obtain ⟨r, hr⟩ := List.exists_mem_of_ne_nil new hne
  generalize s.closing fn k x = u at *
  have hwait : u.closeGoesOn fn = u :=
    closeGoesOn_waits hcmd ⟨r, hreqs ▸ List.mem_append_right _ hr, List.mem_map_of_mem hr⟩
  rw [hwait]
  refine ⟨new, hreqs, h2, h3, hcmd, hret, fun y hy => ?_, fun b hb => ?_⟩
  · rw [htasks] at hy
    simpa using (List.mem_filter.1 hy).2
  · rw [hblocks] at hb
    simpa using (List.mem_filter.1 hb).2

end

section
variable {s r : State} {fn : Nat} {k : CmdBlock} {x : Context}

/-- A block of the context stands placed, and the context has no fatal error. -/
def State.keepsOpen (r : State) (x : Context) : Bool :=
  x.fatal.isNone && r.blocks.any fun b => b.ctx == x.num && b.status == .placed

theorem State.keepsOpen_of (h : x.fatal ≠ none ∨ ∀ b ∈ r.blocks, b.ctx = x.num → b.status ≠ .placed) : r.keepsOpen x = false := by
  unfold State.keepsOpen
  rcases h with h | h
  · cases hf : x.fatal with
    | none => exact absurd hf h
    | some f => rfl
  · rw [List.any_eq_false.2 fun b hb => by simpa using h b hb, Bool.and_false]

/-- The closing of a context in the state it is taken up in. -/
def State.closes (r : State) (fn : Nat) (k : CmdBlock) (x : Context) : State :=
  if r.keepsOpen x then r.complete fn 10 []
  else if r.ctxBusy x.num then r
  else if x.fatal.isSome && !r.fatalKept x.num then r.fatalStep x.num
  else (r.closing fn k x).closeGoesOn fn

theorem ctx_close_waits (hk : r.cmd? fn = some k) (heq : exec (.ctxClose fn) s = .next (r.closes fn k x)) :
    (x.fatal = none → (∃ b ∈ r.blocks, b.ctx = x.num ∧ b.status = .placed) → RefusesFrom s r (.ctxClose fn) fn k 10) ∧
    (x.fatal ≠ none ∨ (∀ b ∈ r.blocks, b.ctx = x.num → b.status ≠ .placed) → r.ctxBusy x.num = true →
      exec (.ctxClose fn) s = .next r) := by
  unfold State.closes at heq
  refine ⟨fun hf hb => ?_, fun hgo hbusy => ?_⟩
  · obtain ⟨b, hb, hbc, hbp⟩ := hb
    have hany : r.blocks.any (fun b => b.ctx == x.num && b.status == .placed) = true :=
      List.any_eq_true.2 ⟨b, hb, by simp [hbc, hbp]⟩
    rw [if_pos (by rw [State.keepsOpen, hf, hany]; rfl)] at heq
    exact refusesFrom_complete (res := []) hk heq
  · rw [State.keepsOpen_of hgo, if_neg (by simp), if_pos hbusy] at heq
    exact heq

theorem State.closes_of (hgo : x.fatal ≠ none ∨ (∀ b ∈ r.blocks, b.ctx = x.num → b.status ≠ .placed)) (hbusy : r.ctxBusy x.num = false)
    (hkept : x.fatal ≠ none → r.fatalKept x.num = true) : r.closes fn k x = (r.closing fn k x).closeGoesOn fn := by
  have hkept' : (x.fatal.isSome && !r.fatalKept x.num) = false := by
    cases hf : x.fatal with
    | none => rfl
    | some f => rw [hkept (by rw [hf]; simp)]; rfl
  unfold State.closes
  rw [State.keepsOpen_of hgo, if_neg (by simp), hbusy, if_neg (by simp), hkept', if_neg (by simp)]

end

/-- Settles O37: what a context's end leaves (`State.endCtx_keeps`), one record for each grant of a closing, and a function-level
reset context by context. -/
theorem contextsOpenAndClose : Obligations.ContextsOpenAndClose := by
  refine ⟨?_, fun s fn k x h hcl hx hfn => ?_, fun s fn k hr hk hc hrun => ?_, function_reset⟩
  · intro s fn n c j k h hcl hn h1 h4 hj hring x u
    subst hn
    have hu : s.withCtxNum fn c k = u := by
      unfold State.withCtxNum openedCtx
      rw [hring]
    have := ctx_open (c := c) h hcl h1 h4 hj hring
    rw [hu] at this
    exact this
  · have heq : exec (.ctxClose fn) s = .next (s.reap.closes fn k x) := exec_ctxClose_eq h hcl hx hfn
    have hk := cmd?_of_command h
    have hnum : k.num 4 4 = x.num := (State.ctx?_num hx).symm
    obtain ⟨h1, h2⟩ := ctx_close_waits hk heq
    generalize s.reap = r at *
    refine ⟨h1, h2, State.ctxBusy_iff, fun hgo hbusy hkept => ?_⟩
    rw [State.closes_of hgo hbusy hkept] at heq
    refine ⟨fun hh => ?_, fun hh hl => ?_⟩
    · obtain ⟨e1, e2, e3⟩ := closing_ends (x := x) hk hnum hh
      exact ⟨(r.closing fn k x).closeGoesOn fn, heq, e1, e2, e3⟩
    · obtain ⟨new, hnew⟩ := closing_waits (x := x) hk hh hl
      exact ⟨_, new, heq, hnew⟩
  · have heq : exec (.ctxClose fn) s = .next (s.reap.closeGoesOn fn) := by
      dsimp only [exec, execCtxClose]
      rw [hk]
      exact congrArg Host.Outcome.next ((if_neg (by simp [hr, hc])).trans (if_pos hrun))
    refine ⟨fun h => ?_, fun h => ?_⟩
    · rw [heq, closeGoesOn_waits hk h]
    · rw [closeGoesOn_done hk h] at heq
      obtain ⟨h1, h2, h3⟩ := State.endCtx_cmds s.reap (k.num 4 4)
      exact ⟨_, heq, answered_completes hk h1 h2 h3, State.freed_complete (State.freed_endCtx s.reap (k.num 4 4)) 0 []⟩

end Sys2Proof.Machine

end

section
/-! SUPPORT. What counting changes, traps and returns, ends and barriers, and the mode that slot operations keep (O13, O14). -/

namespace Sys2Proof.Machine
open Sys2Proof.Claims

-- What counting and free values change (log entry 7).

/-- `t` is `s` but for what has been counted and for free values taken. -/
def State.Counted (s t : State) : Prop := t = { s with access := t.access, rainfly := t.rainfly, freeCtr := t.freeCtr }

section
variable {s t u : State}

theorem State.Counted.refl (s : State) : s.Counted s := rfl

theorem State.Counted.trans (h : s.Counted t) (h' : t.Counted u) : s.Counted u := by
  unfold State.Counted at *
  rw [h', h]

theorem State.Counted.foldl {α : Type} {f : State → α → State} (hf : ∀ (s : State) a, s.Counted (f s a)) (l : List α) (s : State) :
    s.Counted (l.foldl f s) := by
  induction l generalizing s with
  | nil => exact .refl s
  | cons a l ih => exact (hf s a).trans (ih _)

theorem State.Counted.mem (h : s.Counted t) : t.mem = s.mem := by rw [h]
theorem State.Counted.blocks (h : s.Counted t) : t.blocks = s.blocks := by rw [h]
theorem State.Counted.ops (h : s.Counted t) : t.ops = s.ops := by rw [h]
theorem State.Counted.reqs (h : s.Counted t) : t.reqs = s.reqs := by rw [h]
theorem State.Counted.tensors (h : s.Counted t) : t.tensors = s.tensors := by rw [h]
theorem State.Counted.empty (h : s.Counted t) : t.empty = s.empty := by rw [h]

end

section
variable (s : State)

theorem State.counted_countMeter (region : Option Nat) (n : Nat) : s.Counted (s.countMeter region n) := by
  unfold State.Counted
  conv_lhs => rw [State.countMeter_frame]
  rw [State.countMeter_frame]

theorem State.counted_countAccess (base off stack : Nat) : s.Counted (s.countAccess base off stack) := by
  unfold State.countAccess
  dsimp only
  split <;> rfl

theorem State.counted_freeWord : s.Counted s.freeWord.2 := rfl
theorem State.counted_freeBytes (n : Nat) : s.Counted (s.freeBytes n).2 := rfl

theorem State.counted_fog (who : Option (Nat × Nat)) (id addr : Nat) (bs : List Byte) : s.Counted (s.fog who id addr bs).2 := by
  unfold State.fog
  dsimp only
  split <;> rfl

theorem State.counted_lookup (who : Option (Nat × Nat)) (id : Nat) (st : List (Nat × Byte)) (addr n : Nat) :
    s.Counted (s.lookup who id st addr n).2 := State.counted_fog ..

theorem State.counted_countPart (o : EngOp) (part : Nat → Nat → Nat) (x : Box) : s.Counted (s.countPart o part x) := by
  unfold State.countPart
  split
  · exact .refl s
  · exact State.Counted.foldl (fun s f => (State.counted_countMeter s _ _).trans (State.counted_countAccess _ _ _ _)) _ s

theorem State.counted_countBox (o : EngOp) (x : Box) : s.Counted (s.countBox o x) := State.counted_countPart ..

theorem State.counted_countSome (o : EngOp) (x : Box) : s.Counted (s.countSome o x) :=
  (State.counted_countPart s o (fun i n => (Config.freeWord (s.freeCtr + i)).toNat % (n + 1)) x).trans rfl

theorem State.counted_countSources (o : EngOp) : s.Counted (s.countSources o) :=
  State.Counted.foldl (fun s x => s.counted_countBox o x) _ s

theorem State.counted_countWrites (o : EngOp) (x : Box) : s.Counted (s.countWrites o x) :=
  State.Counted.foldl (fun s _ => s.counted_countAccess _ _ _) _ s

theorem State.counted_countStopped (o : EngOp) : s.Counted (s.countStopped o) := by
  unfold State.countStopped
  split
  · refine State.Counted.foldl (fun s i => ?_) _ s
    dsimp only
    split
    · exact (s.counted_freeWord.trans (State.counted_countMeter _ _ _)).trans (State.counted_countAccess _ _ _ _)
    · exact s.counted_freeWord
  · split
    · exact State.Counted.foldl (fun s x => s.counted_countSome o x) _ s
    · exact .refl s

theorem State.counted_boxBytes (o : EngOp) (x : Box) : s.Counted (s.boxBytes o x).2 := by
  unfold State.boxBytes
  dsimp only
  split <;> rfl

end

end Sys2Proof.Machine

namespace Sys2Proof.Machine
open Sys2Proof.Claims

-- What tells whether a warp is in its handler (R246, R247).

/-- The part of a warp that a slot operation leaves alone: its number, its mode and where it stands and goes back to. -/
structure Warp.Mode where
  num : Nat
  handler : Bool
  pc : Nat
  hcause : Nat
  hpc : Nat
  hnext : Nat

def Warp.mode (w : Warp) : Warp.Mode := ⟨w.num, w.handler, w.pc, w.hcause, w.hpc, w.hnext⟩

def State.modeOf (s : State) (n k : Nat) : Option Warp.Mode := (s.warp? n k).map Warp.mode

section
variable {s t : State} {n k : Nat} {f : Warp → Warp}

theorem State.modeOf_of_blocks (h : t.blocks = s.blocks) (n k : Nat) : t.modeOf n k = s.modeOf n k := by
  rw [State.modeOf, State.warp?, State.block?, h]
  rfl

theorem State.modeOf_modWarp (hf : ∀ w : Warp, (f w).mode = w.mode) (i j : Nat) : (s.modWarp n k f).modeOf i j = s.modeOf i j := by
  rw [State.modeOf, State.warp?_modWarp s n k i j f fun w => congrArg Warp.Mode.num (hf w), Option.map_map, State.modeOf]
  congr 1
  funext w
  dsimp only [Function.comp]
  split
  · exact hf w
  · rfl

end

theorem Warp.Reached.mode {w v : Warp} (h : w.Reached v) : v.mode = w.mode := by rw [h]; rfl

theorem State.modeOf_reachPoint (s : State) (n k i j : Nat) : (s.reachPoint n k).modeOf i j = s.modeOf i j := by
  obtain ⟨f, hf, hr, -⟩ := s.reachPoint_modWarp n k
  rw [hf, State.modeOf_modWarp fun w => (hr w).mode]

theorem State.modeOf_turnEnds (s : State) (core p i j : Nat) : (s.turnEnds core p).modeOf i j = s.modeOf i j := by
  cases h : (s.pitch core p).holder with
  | none => rw [State.turnEnds_none s core p h]
  | some x =>
    obtain ⟨f, hf, hr, -⟩ := s.turnEnds_modWarp core p h
    rw [hf, State.modeOf_modWarp fun w => (hr w).mode]
    exact State.modeOf_of_blocks rfl i j

theorem State.modeOf_stopRecord (s : State) (n k i j : Nat) : (s.stopRecord n k).modeOf i j = s.modeOf i j := by
  unfold State.stopRecord
  split
  · rfl
  · split
    · rfl
    · split
      · rfl
      · dsimp only
        refine (State.modeOf_modWarp (fun w => ?_) i j).trans (State.modeOf_of_blocks ?_ i j)
        · rfl
        · exact State.ringWrite_blocks _ _ _

theorem State.modeOf_stopCheck (s : State) (b : Block) (w : Warp) (tok i j : Nat) :
    (s.stopCheck b w tok).modeOf i j = s.modeOf i j := by
  rw [State.stopCheck_eq]
  split
  · rfl
  · rename_i fn _
    split
    · rfl
    · have htaken : (s.stopTaken b w fn).modeOf i j = s.modeOf i j := by
        refine (State.modeOf_modWarp (fun w => ?_) i j).trans (State.modeOf_of_blocks rfl i j)
        rfl
      dsimp only
      rw [State.modeOf_stopRecord]
      split
      · rw [State.modeOf_turnEnds, htaken]
      · exact htaken

theorem State.modeOf_stopAt (s : State) (c : Issue) (tok i j : Nat) : (s.stopAt c tok).modeOf i j = s.modeOf i j := by
  unfold State.stopAt
  split
  · rfl
  · split
    · rfl
    · exact State.modeOf_stopCheck ..

-- A trap of the word in issue.

theorem trapRaised_holds : TrapRaised := by
  intro s c w code arg sl hw
  have h := State.raise_eq (s := s) (c := c) code arg sl hw
  exact ⟨h, fun a => by rw [h]; rfl⟩

-- The trap taken (R246).

section
variable {s : State} {b : Block} {w : Warp} {t : TrapInfo} {x : Context}

/-- What keeps a trap from being taken yet. -/
def State.trapHeld (s : State) (b : Block) (w : Warp) : Bool :=
  b.status != .placed || s.dead b.ctx || w.stopped || w.flights != [] || w.wait != .none || w.trying.isSome ||
    !w.pend.all (fun p => match p.returned with
      | some c => decide (c < s.nowCycle b.stack (w.core / 8))
      | none => false)

/-- The state in which a trap is taken: nothing of its warp is pending. -/
def State.trapState (s : State) (b : Block) (w : Warp) (t : TrapInfo) : State := s.modWarp b.bid w.num (atTrap t)

theorem exec_trapEntry (hb : s.block? b.bid = some b) (hw : b.warp? w.num = some w) (ht : w.trap = some t) :
    exec (.trapEntry b.bid w.num) s = .next (if s.trapHeld b w then s
      else match trapTarget ((s.image? b.ctx b.image).bind Image.handler) w t with
        | .ok entry => ((s.trapState b w t).leaveTurn b w).modWarp b.bid w.num fun w => w.enterHandler t entry
        | .error (code, trap) => (s.trapState b w t).fatalCtx b.ctx (fatalOf b w code trap t)) := by
  have hstate : (if t.code = 0x61 then (s.modWarp b.bid w.num fun w => { w with pend := [] }).modWarp b.bid w.num fun w =>
        { w with grant := none, overdraw := false }
      else s.modWarp b.bid w.num fun w => { w with pend := [] }) = s.trapState b w t := by
    unfold State.trapState
    split
    · next h61 =>
      refine (State.modWarp_modWarp s b.bid w.num ?_).trans (congrArg _ (funext fun v => (if_pos h61).symm))
      intro v; rfl
    · next h61 => exact congrArg _ (funext fun v => (if_neg h61).symm)
  refine congrArg Host.Outcome.next ?_
  rw [hb]
  dsimp only
  rw [hw]
  dsimp only
  rw [ht]
  dsimp only
  rw [hstate]
  refine if_congr Iff.rfl rfl ?_
  have himg : (match s.image? b.ctx b.image with | some im => im.handler | none => none) =
      (s.image? b.ctx b.image).bind Image.handler := by
    cases s.image? b.ctx b.image <;> rfl
  rw [← himg]
  rfl
end

section
variable {s : State} {b : Block} {w : Warp} {t : TrapInfo} {x : Context}

theorem State.trapHeld_iff : s.trapHeld b w = true ↔ b.status ≠ .placed ∨ s.dead b.ctx = true ∨ w.stopped = true ∨ w.flights ≠ [] ∨
    w.wait ≠ .none ∨ w.trying.isSome = true ∨
    ∃ p ∈ w.pend, ∀ k, p.returned = some k → s.nowCycle b.stack (w.core / 8) ≤ k := by
  have hpend : (!w.pend.all (fun p => match p.returned with
      | some c => decide (c < s.nowCycle b.stack (w.core / 8))
      | none => false)) = true ↔ ∃ p ∈ w.pend, ∀ k, p.returned = some k → s.nowCycle b.stack (w.core / 8) ≤ k := by
    rw [Bool.not_eq_true', List.all_eq_false]
    refine exists_congr fun p => and_congr_right fun _ => ?_
    cases p.returned with
    | none => simp
    | some c => simp
  simp only [State.trapHeld, Bool.or_eq_true, bne_iff_ne, hpend, or_assoc]

theorem TrapDue.free (h : TrapDue s b w t x) : s.trapHeld b w = false := by
  obtain ⟨-, -, -, hplaced, hx, hlive, hstop, hfl, hwait, htry, hpend⟩ := h
  rw [← Bool.not_eq_true, State.trapHeld_iff]
  rintro (h | h | h | h | h | h | ⟨p, hp, h⟩)
  · exact h hplaced
  · simp [State.dead, hx, hlive] at h
  · simp [hstop] at h
  · exact h hfl
  · exact h hwait
  · simp [htry] at h
  · obtain ⟨k, hk, hlt⟩ := hpend p hp
    exact absurd (h k hk) (by omega)

theorem TrapDue.exec (h : TrapDue s b w t x) :
    exec (.trapEntry b.bid w.num) s = .next (match trapTarget ((s.image? b.ctx b.image).bind Image.handler) w t with
      | .ok entry => ((s.trapState b w t).leaveTurn b w).modWarp b.bid w.num fun w => w.enterHandler t entry
      | .error (code, trap) => (s.trapState b w t).fatalCtx b.ctx (fatalOf b w code trap t)) := by
  have hfree := TrapDue.free h
  obtain ⟨hb, hw, ht, -⟩ := h
  rw [exec_trapEntry hb hw ht, hfree]
  rfl

theorem atTrap_num (t : TrapInfo) (v : Warp) : (atTrap t v).num = v.num := by
  unfold atTrap
  split <;> rfl

/-- The entry to the handler ends a turn of the warp's own and changes no more than the warp. -/
theorem State.trapEntered_eq (e : Nat) :
    let p := s.pitch (coreId b w) w.pitch
    let u := if p.holder = some (b.bid, w.num) then s.setPitch { p with holder := none } else s
    ((s.trapState b w t).leaveTurn b w).modWarp b.bid w.num (fun w => w.enterHandler t e) =
      u.modWarp b.bid w.num fun v => (atTrap t v).enterHandler t e := by
  intro p u
  have hleave : (s.trapState b w t).leaveTurn b w = u.modWarp b.bid w.num (atTrap t) := by
    unfold State.leaveTurn
    have hp : (s.trapState b w t).pitch (coreId b w) w.pitch = p := rfl
    rw [hp]
    by_cases hh : p.holder = some (b.bid, w.num)
    · rw [if_pos (by simpa using hh)]
      simp only [u, if_pos hh]
      rfl
    · rw [if_neg (by simpa using hh)]
      simp only [u, if_neg hh]
      rfl
  rw [hleave]
  exact State.modWarp_modWarp u b.bid w.num (atTrap_num t)

end

-- What the handler starts with (R246).

section
variable (v : Warp) (t : TrapInfo) (e : Nat)

theorem enterHandler_bread (r : Nat) : (v.enterHandler t e).bread r = 0 := by
  refine List.getD_eq_getElem?_getD.trans ?_
  change (List.replicate 8 (0 : Word32))[r]?.getD 0 = 0
  rw [List.getElem?_replicate]
  split <;> rfl

theorem getD_take_append {α : Type} (l m : List α) (d : α) {n r : Nat} (hr : r < n) (hn : n ≤ l.length) :
    (l.take n ++ m).getD r d = l.getD r d := by
  rw [List.getD_append _ _ _ _ (by rw [List.length_take]; omega), List.getD_eq_getElem?_getD, List.getElem?_take_of_lt hr,
    ← List.getD_eq_getElem?_getD]

theorem getD_take_append_right {α : Type} (l m : List α) (d : α) {n r : Nat} (hr : n ≤ r) (hn : n ≤ l.length) :
    (l.take n ++ m).getD r d = m.getD (r - n) d := by
  have hlen : (l.take n).length = n := by rw [List.length_take]; omega
  rw [List.getD_append_right _ _ _ _ (by omega), hlen]

theorem enterHandler_sread (hl : v.s.length = 64) :
    (∀ r, r < 48 → (v.enterHandler t e).sread r = v.sread r) ∧ (∀ r, 48 ≤ r → r < 62 → (v.enterHandler t e).sread r = 0) ∧
      (v.enterHandler t e).sread 62 = BitVec.ofNat 64 t.code ∧ (v.enterHandler t e).sread 63 = BitVec.ofNat 64 t.hpc := by
  have hs : ∀ r, (v.enterHandler t e).sread r = if r = 0 then 0 else
      (v.s.take 48 ++ (List.replicate 14 0 ++ [BitVec.ofNat 64 t.code, BitVec.ofNat 64 t.hpc])).getD r 0 := by
    intro r
    rw [← List.append_assoc]
    rfl
  refine ⟨fun r hr => ?_, fun r hr hr' => ?_, ?_, ?_⟩
  · rw [hs, getD_take_append _ _ _ hr (by omega)]
    rfl
  · rw [hs, if_neg (by omega), getD_take_append_right _ _ _ hr (by omega), List.getD_append _ _ _ _ (by simp; omega),
      List.getD_eq_getElem?_getD, List.getElem?_replicate]
    split <;> rfl
  · rw [hs, if_neg (by omega), getD_take_append_right _ _ _ (by omega) (by omega)]
    rfl
  · rw [hs, if_neg (by omega), getD_take_append_right _ _ _ (by omega) (by omega)]
    rfl

theorem enterHandler_qread (hl : v.q.length = 16) :
    (∀ r, r < 12 → (v.enterHandler t e).qread r = v.qread r) ∧ ∀ r, 12 ≤ r → r < 16 → (v.enterHandler t e).qread r = false := by
  have hq : ∀ r, (v.enterHandler t e).qread r = if r = 0 then true else
      (v.q.take 12 ++ List.replicate 4 false).getD r false := fun _ => rfl
  refine ⟨fun r hr => ?_, fun r hr hr' => ?_⟩
  · rw [hq, getD_take_append _ _ _ hr (by omega)]
    rfl
  · rw [hq, if_neg (by omega), getD_take_append_right _ _ _ hr (by omega), List.getD_eq_getElem?_getD, List.getElem?_replicate]
    split <;> rfl

theorem enterHandler_records (h : t.code < 0x20 ∨ 0x2B < t.code) : (v.enterHandler t e).records = v.records := by
  refine if_neg ?_
  simp [refusalCode]
  omega

end

/-- At the moment of its trap a warp has lost nothing but what was pending and, over-drawn, its grant. -/
theorem atTrap_eq (t : TrapInfo) (w : Warp) :
    atTrap t w = { w with pend := [], grant := (atTrap t w).grant, overdraw := (atTrap t w).overdraw } := by
  unfold atTrap
  split <;> rfl

theorem atTrap_grant (t : TrapInfo) (w : Warp) :
    (t.code = 0x61 → (atTrap t w).grant = none) ∧ (t.code ≠ 0x61 → (atTrap t w).grant = w.grant) := by
  unfold atTrap
  constructor
  · intro h; rw [if_pos h]
  · intro h; rw [if_neg h]

theorem trapEntered_holds : TrapEntered := by
  refine ⟨fun s b w hb hw h => ?_, fun s b w t x im h e hdue hbank hcode him hh he hne => ⟨?_, ?_⟩⟩
  · cases ht : w.trap with
    | none =>
      refine congrArg Host.Outcome.next ?_
      rw [hb]
      dsimp only
      rw [hw]
      dsimp only
      rw [ht]
    | some t =>
      rw [exec_trapEntry hb hw ht]
      exact congrArg Host.Outcome.next (if_pos (State.trapHeld_iff.2 (h.resolve_left (by simp [ht]))))
  · have htarget : trapTarget ((s.image? b.ctx b.image).bind Image.handler) w t = .ok e := by
      rw [him, Option.bind_some, hh, trapTarget, if_neg (by omega), if_neg (by simp [Warp.handler, hbank])]
      dsimp only
      rw [he, if_neg hne]
    rw [TrapDue.exec hdue, htarget]
    exact congrArg Host.Outcome.next (State.trapEntered_eq e)
  · have heq := atTrap_eq t w
    obtain ⟨hg, hg'⟩ := atTrap_grant t w
    generalize atTrap t w = v at *
    have hs : v.s = w.s := by rw [heq]
    have hq : v.q = w.q := by rw [heq]
    have hsr : ∀ r, v.sread r = w.sread r := fun r => by rw [Warp.sread, hs]; rfl
    have hqr : ∀ r, v.qread r = w.qread r := fun r => by rw [Warp.qread, hq]; rfl
    simp only [← hsr, ← hqr]
    refine ⟨rfl, rfl, rfl, rfl, rfl, rfl, rfl, rfl, rfl, rfl, rfl, ?_, enterHandler_bread v t e,
      fun hl => enterHandler_sread v t e (hs ▸ hl), fun hl => enterHandler_qread v t e (hq ▸ hl), ?_, ?_, ?_, ?_, ?_, hg, hg',
      fun hc => (enterHandler_records v t e hc).trans ?_, ?_⟩
    all_goals rw [heq] <;> rfl

-- A trap without a handler (R350, R372).

section
variable {s : State} {c : Nat} {f : Fatal} {x : Context}

theorem State.fatalCoords_eq (s : State) (f : Fatal) :
    (s.fatalCoords f).1 = { f with c0 := (s.fatalCoords f).1.c0, c1 := (s.fatalCoords f).1.c1 } := by
  unfold State.fatalCoords
  split <;> rfl

/-- The record of a fatal error of a context that lives: the error as it was met, at the moment it was, its coordinates perhaps
free. -/
theorem State.fatalCtx_record (hx : s.ctx? c = some x) (hf : x.fatal = none) :
    ∃ y r, (s.fatalCtx c f).ctx? c = some y ∧ y.fatal = some r ∧ r = { f with c0 := r.c0, c1 := r.c1, stamp := s.tb.latest } := by
  have hd : s.dead c = false := by rw [State.dead, hx]; simp [hf]
  obtain ⟨h1, -, -⟩ := s.fatalCoords_facts f
  have heq := s.fatalCoords_eq f
  unfold State.fatalCtx
  rw [hd]
  dsimp only
  generalize s.fatalCoords f = q at *
  have hq : q.2.ctx? c = some x := by rw [State.ctx?, h1]; exact hx
  refine ⟨{ x with fatal := some { q.1 with stamp := s.tb.latest }, ckptDone := false }, { q.1 with stamp := s.tb.latest },
    ?_, rfl, ?_⟩
  · rw [if_neg (by simp), State.ctx?, State.dropQueued_contexts]
    refine (State.ctx?_modCtx q.2 c c _ ?_).trans ?_
    · intro z; rfl
    · rw [hq, Option.map_some, if_pos rfl]
  · rw [heq]

end

/-- No warp of a dead context is ready. -/
theorem State.not_ready_of_dead {s : State} {k : Block} (v : Warp) (n : Nat) (h : s.dead k.ctx = true) : s.ready k v n = false := by
  simp [State.ready, State.reasons, h]

theorem trapWithoutHandlerIsFatal_holds : TrapWithoutHandlerIsFatal := by
  intro s b w t x hdue hcode _ hno
  have htarget : trapTarget ((s.image? b.ctx b.image).bind Image.handler) w t =
      .error (if w.bank.isSome = true then 0x81 else 0x80, t.code) := by
    unfold trapTarget Warp.handler
    rw [if_neg (by omega)]
    by_cases hbank : w.bank.isSome = true
    · rw [if_pos hbank, if_pos hbank]
    · rw [if_neg hbank, if_neg hbank]
      cases him : s.image? b.ctx b.image with
      | none => rfl
      | some im =>
        rw [Option.bind_some]
        cases hh : im.handler with
        | none => rfl
        | some h =>
          have hentry := hno.resolve_left hbank im h him hh
          dsimp only
          rw [if_pos hentry]
  have hexec := TrapDue.exec hdue
  rw [htarget] at hexec
  obtain ⟨-, -, -, -, hx, hlive, -⟩ := hdue
  obtain ⟨y, r, hy, hr, heq⟩ := State.fatalCtx_record (s := s.trapState b w t) (c := b.ctx)
    (f := fatalOf b w (if w.bank.isSome = true then 0x81 else 0x80) t.code t) hx hlive
  refine ⟨_, y, r, hexec, hy, hr, ?_, ?_, ?_, ?_, ?_, ?_, ?_, ?_, State.fatalCtx_mem .., fun k v n hk =>
    State.not_ready_of_dead v n ?_⟩
  · rw [heq]; rfl
  · rw [heq]; rfl
  · rw [heq]; rfl
  · rw [heq]; rfl
  · rw [heq]; rfl
  · rw [heq]; rfl
  · rw [heq]; rfl
  · rw [heq]; rfl
  · rw [State.dead, hk, hy]
    dsimp only
    rw [hr]
    rfl

-- The return from a handler (R247).

section
variable {w : Warp} {k : Bank} (skip : Bool)

/-- The warp a return from the handler leaves, its program's bank put back. -/
theorem leaveHandler_eq (h : w.bank = some k) : w.leaveHandler skip =
    { w with
      bank := none, pc := (if skip then w.hnext else w.hpc), idle := (if skip then k.left else k.idle)
      loops := dropLevels (if skip then k.after else k.loops) (if skip then w.hnext else w.hpc)
      masks := k.masks, active := k.active, xfer := k.xfer, b := k.b, s := w.s.take 48 ++ k.sHi, q := w.q.take 12 ++ k.qHi
      parked := 0, records := []
      flights := w.flights.map fun f => { f with effs := f.effs.filter fun e => !bankEffect e } } := by
  rw [Warp.leaveHandler, h]

theorem leaveHandler_sread (h : w.bank = some k) (hl : 48 ≤ w.s.length) :
    (∀ r, r < 48 → (w.leaveHandler skip).sread r = w.sread r) ∧
      ∀ r, 48 ≤ r → (w.leaveHandler skip).sread r = k.sHi.getD (r - 48) 0 := by
  rw [leaveHandler_eq skip h]
  refine ⟨fun r hr => ?_, fun r hr => ?_⟩
  · unfold Warp.sread
    rw [getD_take_append _ _ _ hr hl]
  · rw [Warp.sread, if_neg (by omega), getD_take_append_right _ _ _ hr hl]

theorem leaveHandler_qread (h : w.bank = some k) (hl : 12 ≤ w.q.length) :
    (∀ r, r < 12 → (w.leaveHandler skip).qread r = w.qread r) ∧
      ∀ r, 12 ≤ r → (w.leaveHandler skip).qread r = k.qHi.getD (r - 12) false := by
  rw [leaveHandler_eq skip h]
  refine ⟨fun r hr => ?_, fun r hr => ?_⟩
  · unfold Warp.qread
    rw [getD_take_append _ _ _ hr hl]
  · rw [Warp.qread, if_neg (by omega), getD_take_append_right _ _ _ hr hl]

end

theorem leaveHandler_num (w : Warp) (skip : Bool) : (w.leaveHandler skip).num = w.num := by
  unfold Warp.leaveHandler
  split <;> rfl

theorem take_append_drop_of_le {α : Type} (l m : List α) {n : Nat} (h : n ≤ l.length) :
    (l.take n ++ m).take n ++ l.drop n = l := by
  rw [List.take_append_of_le_length (by rw [List.length_take]; omega), List.take_take, Nat.min_self, List.take_append_drop]

/-- A handler entered and left at once: the registers of its own bank are the program's again. -/
theorem leaveHandler_enterHandler (w : Warp) (t : TrapInfo) (e : Nat) (hs : 48 ≤ w.s.length) (hq : 12 ≤ w.q.length) :
    ((w.enterHandler t e).leaveHandler false).s = w.s ∧ ((w.enterHandler t e).leaveHandler false).q = w.q := by
  constructor
  · refine Eq.trans ?_ (take_append_drop_of_le w.s (List.replicate 14 0 ++ [BitVec.ofNat 64 t.code, BitVec.ofNat 64 t.hpc]) hs)
    rw [← List.append_assoc]
    rfl
  · exact take_append_drop_of_le w.q [false, false, false, false] hq

section
variable (s : State) (n k : Nat) (skip : Bool)

/-- The warp after its return: nothing is due to a register of the handler's own bank. -/
def Warp.returned (skip : Bool) (w : Warp) : Warp :=
  { w.leaveHandler skip with pend := w.pend.filter fun p => !p.reg.banked
                             trying := w.trying.map fun k => { k with q := if 12 ≤ k.q then 0 else k.q } }

theorem Warp.returned_num (w : Warp) : (w.returned skip).num = w.num := leaveHandler_num w skip

theorem handlerReturn_warp (i j : Nat) : (s.handlerReturn n k skip).warp? i j =
    (s.warp? i j).map fun w => if i = n ∧ j = k then w.returned skip else w := by
  refine (State.warp?_modWarp _ n k i j (Warp.returned skip) (Warp.returned_num skip)).trans ?_
  rfl

theorem not_banked_iff (p : PReg) : (!p.banked) = true ↔ ∀ r, (p = .s r → r < 48) ∧ (p = .q r → r < 12) := by
  cases p <;> simp [PReg.banked]

theorem unbank_put {k : ReqKind} {q : Nat}
    (h : (∃ g d, k.unbank = .qput q g d) ∨ ∃ d g, k.unbank = .qget d q g) : q < 12 := by
  cases k <;> simp only [ReqKind.unbank, ReqKind.qput.injEq, ReqKind.qget.injEq, reduceCtorEq, exists_const, false_or, or_false] at h
  all_goals
    obtain ⟨_, _, h⟩ := h
    split at h <;> omega

end

theorem handlerReturn_holds (s : State) (n k : Nat) (skip : Bool) (w : Warp) (hw : s.warp? n k = some w) :
    let t := s.handlerReturn n k skip
    (∃ v, t.warp? n k = some v ∧ v = { w.leaveHandler skip with pend := v.pend, trying := v.trying } ∧
      v.trying = w.trying.map (fun j => { j with q := if j.q < 12 then j.q else 0 }) ∧
      ∀ p, p ∈ v.pend ↔ p ∈ w.pend ∧ ∀ r, (p.reg = .s r → r < 48) ∧ (p.reg = .q r → r < 12)) ∧
    SameMemory s t ∧ (∀ i j, (i, j) ≠ (n, k) → t.warp? i j = s.warp? i j) ∧ t.reqs.length = s.reqs.length ∧
    (∀ r ∈ t.reqs, r.block = n → r.warp = k → ∀ q, (∃ g d, r.kind = .qput q g d) ∨ (∃ d g, r.kind = .qget d q g) → q < 12) ∧
    (∀ m ∈ t.rainfly.readers, m.block = n → m.warp = k → m.dv < 48 ∧ m.de < 48 ∧ m.dl < 48) ∧
    ∀ r ∈ s.reqs, r.block ≠ n ∨ r.warp ≠ k → r ∈ t.reqs := by
  intro t
  refine ⟨⟨w.returned skip, ?_, rfl, ?_, fun p => ?_⟩, fun a => rfl, fun i j hij => ?_, ?_, ?_, ?_, ?_⟩
  · rw [handlerReturn_warp, hw]
    simp
  · cases ht : w.trying with
    | none => simp [Warp.returned, ht]
    | some j =>
      simp only [Warp.returned, ht, Option.map_some]
      congr 2
      by_cases hj : j.q < 12
      · rw [if_pos hj, if_neg (by omega)]
      · rw [if_neg hj, if_pos (by omega)]
  · exact List.mem_filter.trans (and_congr_right fun _ => not_banked_iff p.reg)
  · rw [handlerReturn_warp]
    have : ¬(i = n ∧ j = k) := fun h => hij (Prod.ext h.1 h.2)
    simp [this]
  · exact List.length_map _
  · intro r hr hn hk q hq
    obtain ⟨x, -, rfl⟩ := List.mem_map.1 hr
    split at hq
    · exact unbank_put hq
    · next h =>
      rw [if_neg h] at hn hk
      simp [hn, hk] at h
  · intro m hm hn hk
    obtain ⟨x, -, rfl⟩ := List.mem_map.1 hm
    split
    · dsimp only
      refine ⟨?_, ?_, ?_⟩ <;> split <;> omega
    · next h =>
      rw [if_neg h] at hn hk
      simp [hn, hk] at h
  · intro r hr hne
    refine List.mem_map.2 ⟨r, hr, if_neg ?_⟩
    simpa [imp_iff_not_or] using hne

theorem returned_mode {v w : Warp} {k : Bank} {skip : Bool} (h : v.mode = w.mode) (hkv : v.bank = some k)
    (hk : w.bank = some k) : (v.returned skip).mode = (w.leaveHandler skip).mode := by
  rw [Warp.returned, leaveHandler_eq skip hkv, leaveHandler_eq skip hk]
  simp only [Warp.mode, Warp.Mode.mk.injEq] at h ⊢
  obtain ⟨hnum, -, -, hcause, hhpc, hhnext⟩ := h
  simp [hnum, hcause, hhpc, hhnext, Warp.handler]

/-- The warp of a word that returns has its program's mode again after the word. -/
theorem finishWord_returns {s : State} {c : Issue} {b : Block} {w : Warp} {k : Bank} {skip : Bool} (h : Issuing s c b w)
    (hk : w.bank = some k) (htrap : c.trapped = false) (hret : c.hret = some skip) :
    s.finishWord.modeOf c.block c.warp = some (w.leaveHandler skip).mode := by
  obtain ⟨hi, hb, hw⟩ := h
  have hb' : ({ s with issue := none } : State).block? c.block = some b := hb
  unfold State.finishWord
  rw [hi]
  dsimp only
  rw [hb']
  dsimp only
  rw [hw]
  dsimp only
  rw [htrap, hret]
  dsimp only
  rw [if_neg (by simp), State.modeOf_stopAt, State.modeOf_turnEnds]
  have hwarp : ({ s with issue := none } : State).warp? c.block c.warp = some w := State.warp?_of hb' hw
  rw [State.modeOf, handlerReturn_warp]
  refine (congrArg _ (congrArg _ (State.warp?_modWarp_self (State.warp?_modWarp_self hwarp ?_) ?_))).trans ?_
  · intro v; rfl
  · intro v; rfl
  · rw [Option.map_some, Option.map_some, if_pos ⟨rfl, rfl⟩]
    exact congrArg some (returned_mode rfl hk hk)

theorem handlerReturns_holds : HandlerReturns := by
  refine ⟨fun w k skip h => ?_, fun w t e hs hq _ => ?_, handlerReturn_holds, fun s c b w skip hi hbank htrap hret => ?_⟩
  · have hread := leaveHandler_sread skip h
    have hqread := leaveHandler_qread skip h
    have heq := leaveHandler_eq skip h
    dsimp only
    refine ⟨?_, ?_, ?_, ?_, ?_, ?_, ?_, ?_, ?_, ?_, hread, hqread, ?_, ?_, ?_, ?_⟩
    all_goals rw [heq]
  · obtain ⟨h1, h2⟩ := leaveHandler_enterHandler w t e hs hq
    exact ⟨h1, h2, rfl, rfl, rfl, rfl, rfl, rfl⟩
  · obtain ⟨k, hk⟩ := Option.isSome_iff_exists.1 hbank
    have hmode := finishWord_returns hi hk htrap hret
    rw [leaveHandler_eq skip hk] at hmode
    obtain ⟨v, hv, hm⟩ := Option.map_eq_some_iff.1 hmode
    exact ⟨v, hv, Option.isSome_eq_false_iff.1 (congrArg Warp.Mode.handler hm) |> Option.isNone_iff_eq_none.1, congrArg Warp.Mode.pc hm⟩

/-- Settles O13: a trap is raised, entered or fatal as R246 says, and the return puts the program's bank back (R247). -/
theorem trapsAndReturn : Obligations.TrapsAndReturn :=
  ⟨trapRaised_holds, trapEntered_holds, trapWithoutHandlerIsFatal_holds, handlerReturns_holds⟩

end Sys2Proof.Machine

namespace Sys2Proof.Machine
open Sys2Proof.Claims

-- What leaves every warp's mode as it is (R247).

/-- Every warp of `t` stands where it stood in `s`, in the mode it had. -/
def SameModes (s t : State) : Prop := ∀ n k, t.modeOf n k = s.modeOf n k

section
variable {s t u : State}

theorem SameModes.trans (h : SameModes s t) (h' : SameModes t u) : SameModes s u := fun n k => (h' n k).trans (h n k)

theorem SameModes.of_blocks (h : t.blocks = s.blocks) : SameModes s t := State.modeOf_of_blocks h

theorem sameModes_foldl {α : Type} {f : State → α → State} (hf : ∀ (s : State) a, SameModes s (f s a)) (l : List α) (s : State) :
    SameModes s (l.foldl f s) := by
  induction l generalizing s with
  | nil => exact .of_blocks rfl
  | cons a l ih => exact (hf s a).trans (ih _)

theorem sameModes_modWarp (s : State) (n k : Nat) {f : Warp → Warp} (hf : ∀ w : Warp, (f w).mode = w.mode) :
    SameModes s (s.modWarp n k f) := State.modeOf_modWarp hf

theorem SameModes.modWarp {n k : Nat} {f : Warp → Warp} (h : SameModes s t) (hf : ∀ w : Warp, (f w).mode = w.mode) :
    SameModes s (t.modWarp n k f) := h.trans (sameModes_modWarp t n k hf)

theorem sameModes_modBlock (s : State) (n : Nat) {f : Block → Block} (hb : ∀ b : Block, (f b).bid = b.bid)
    (hw : ∀ b : Block, (f b).warps = b.warps) : SameModes s (s.modBlock n f) := by
  intro i k
  rw [State.modeOf, State.warp?, State.block?_modBlock s n i f hb, State.modeOf, State.warp?]
  cases s.block? i with
  | none => rfl
  | some b =>
    simp only [Option.map_some, Option.bind_some]
    split
    · rw [Block.warp?, hw]
      rfl
    · rfl

theorem SameModes.modBlock {n : Nat} {f : Block → Block} (h : SameModes s t) (hb : ∀ b : Block, (f b).bid = b.bid)
    (hw : ∀ b : Block, (f b).warps = b.warps) : SameModes s (t.modBlock n f) := h.trans (sameModes_modBlock t n hb hw)

theorem find?_map_of_forall₂ {α β : Type} {R : α → α → Prop} {p : α → Bool} {g : α → β} {l m : List α}
    (h : List.Forall₂ R l m) (hp : ∀ a b, R a b → p b = p a) (hg : ∀ a b, R a b → g b = g a) :
    (m.find? p).map g = (l.find? p).map g := by
  induction h with
  | nil => rfl
  | cons hab _ ih =>
    rw [List.find?_cons, List.find?_cons, hp _ _ hab]
    split
    · exact congrArg some (hg _ _ hab)
    · exact ih

theorem Warp.Kept.mode {w v : Warp} (h : w.Kept v) : v.mode = w.mode := by rw [h]; rfl

theorem State.modeOf_eq (s : State) (n k : Nat) :
    s.modeOf n k = ((s.blocks.find? fun b => b.bid == n).map fun b => (b.warp? k).map Warp.mode).join := by
  unfold State.modeOf State.warp? State.block?
  cases s.blocks.find? fun b => b.bid == n <;> rfl

/-- Blocks kept keep their warps' modes. -/
theorem State.Keeps.modes (h : s.Keeps t) : SameModes s t := by
  intro n k
  rw [State.modeOf_eq, State.modeOf_eq]
  congr 1
  refine find?_map_of_forall₂ h (fun b c hk => by rw [hk.bid]) fun b c hk => ?_
  exact find?_map_of_forall₂ hk.warps (fun w v hv => by rw [show v.num = w.num from congrArg Warp.Mode.num hv.mode]) fun w v hv => hv.mode


end

section
variable (s : State) (c : Issue)

theorem sameModes_resolve (n h o v : Nat) (m : Bool) : SameModes s (s.resolve n h o v m) :=
  sameModes_modBlock s n (fun _ => rfl) fun _ => rfl

theorem sameModes_fly (lat : Nat) (effs : List Effect) : SameModes s (s.fly c lat effs) := by
  unfold State.fly
  split
  · exact .of_blocks rfl
  · split
    · exact .of_blocks rfl
    · exact sameModes_modWarp s _ _ fun _ => rfl

theorem sameModes_flyIn (m : Mask) (lat : Nat) (effs : List Effect) : SameModes s (s.flyIn c m lat effs) := by
  unfold State.flyIn
  split
  · exact .of_blocks rfl
  · exact sameModes_fly s c lat effs

theorem sameModes_raise (code arg sl : Nat) : SameModes s (s.raise c code arg sl) := by
  unfold State.raise
  split
  · exact .of_blocks rfl
  · next w _ =>
    refine SameModes.trans (sameModes_modWarp s c.block c.warp ?_) (.of_blocks rfl)
    intro v; rfl

theorem sameModes_holdOn (k : HoldKind) (upto : Nat) : SameModes s (s.holdOn c k upto) :=
  sameModes_modWarp s _ _ fun _ => rfl

theorem sameModes_pend (req : Nat) (rs : List PReg) : SameModes s (s.pend c req rs) :=
  sameModes_modWarp s _ _ fun _ => rfl

theorem sameModes_setBusy (b : Block) (w : Warp) (acc n op : Nat) (m wr : Bool) (t : Nat) :
    SameModes s (s.setBusy b w acc n op m wr t) := .of_blocks rfl

theorem sameModes_bump (w : Warp) (inc : Bool) (x : Nat) : SameModes s (s.bump c w inc x) := by
  unfold State.bump
  split
  · exact sameModes_fly s c 1 _
  · exact .of_blocks rfl

theorem sameModes_fatalWord (code trap rcd lane : Nat) (c0 c1 : Word32) :
    SameModes s (s.fatalWord c code trap rcd lane c0 c1) := by
  refine sameModes_modWarp s _ _ fun w => ?_
  split <;> rfl

theorem sameModes_parkAll (n m : Nat) (rs : List LaneRec) (f : Nat) : SameModes s (s.parkAll n m rs f) :=
  (keeps_parkAll s n m rs f).modes

theorem sameModes_parkTakers (b : Block) (w : Warp) (m : Mask) (rcd cause : Nat) (c0 c1 : Word32) :
    SameModes s (s.parkTakers c b w m rcd cause c0 c1) := sameModes_parkAll s _ _ _ _

theorem sameModes_setHandle (r : Nat) (h : Word64) : SameModes s (s.setHandle r h) := .of_blocks rfl

theorem sameModes_parkHandle (b : Block) (w : Warp) (m : Mask) (h k rcd cause : Nat) (c0 c1 : Word32) :
    SameModes s (s.parkHandle c b w m h k rcd cause c0 c1) := by
  refine (sameModes_parkTakers s c b w m rcd cause c0 c1).trans (SameModes.trans (sameModes_modBlock _ b.bid ?_ ?_)
    (sameModes_setHandle _ h (b.alloc k).1))
  · intro b; rfl
  · intro b; rfl

theorem State.submitPeer_blocks (core peer : Nat) (route : Option Path) (who : PeerWho) (h : Head) (bs : List Byte) :
    (s.submitPeer core peer route who h bs).blocks = s.blocks := by
  unfold State.submitPeer State.peerRequest
  dsimp only
  split
  · rfl
  · unfold State.sentBy
    split <;> rfl

theorem State.peerRequest_blocks (core peer : Nat) (r : Path) (port : Option Nat) (who : PeerWho) (h : Head) (body : List Nat) :
    (s.peerRequest core peer r port who h body).blocks = s.blocks := by
  unfold State.peerRequest
  dsimp only
  split
  · rfl
  · unfold State.sentBy
    split <;> rfl

theorem sameModes_sendDrains (core block warp offset : Nat) : SameModes s (s.sendDrains core block warp offset) := by
  unfold State.sendDrains
  refine SameModes.trans (t := { s with usedPorts := s.usedPorts.filter fun u => u.core != core }) (.of_blocks rfl)
    (sameModes_foldl (fun u p => ?_) _ _)
  exact (SameModes.of_blocks (State.peerRequest_blocks ..)).trans (sameModes_modWarp _ _ _ fun _ => rfl)

theorem sameModes_taintKept (as : List Nat) : SameModes s (s.taintKept as) := by
  intro n k
  rw [State.modeOf_eq, State.modeOf_eq]
  congr 1
  unfold State.taintKept
  dsimp only
  rw [List.find?_map, Option.map_map]
  have hbid : (fun b : Block => b.bid == n) ∘ (fun b : Block => if b.savedOps.isEmpty then b
      else { b with savedOps := b.savedOps.map fun (o : EngOp) => { o with taint := o.taint ++ o.keptNames s as } }) =
      fun b => b.bid == n := by
    funext b
    dsimp only [Function.comp]
    split <;> rfl
  rw [hbid]
  congr 1
  funext b
  dsimp only [Function.comp]
  split <;> rfl

theorem sameModes_taint (who : Nat) (as : List Nat) : SameModes s (s.taint who as) :=
  SameModes.trans (t := { s with ops := s.ops.map fun (o : EngOp) => if o.id == who then o else { o with taint := o.taint ++ as } })
    (.of_blocks rfl) (sameModes_taintKept _ as)

theorem sameModes_writeHome (addr : Nat) (bs : List Byte) : SameModes s (s.writeHome addr bs) :=
  SameModes.trans (t := ({ s with mem := s.mem.writeBytes addr bs }).clearTags addr bs.length) (.of_blocks rfl)
    (sameModes_taint _ 0 _)

theorem sameModes_noteStore (addr n : Nat) : SameModes s (s.noteStore addr n) := by
  unfold State.noteStore
  split
  · exact .of_blocks rfl
  · next c _ =>
    exact SameModes.modWarp (.of_blocks rfl) fun _ => rfl

theorem sameModes_localStore (core off : Nat) (bs : List Byte) : SameModes s (s.localStore core off bs) :=
  ((sameModes_noteStore s _ _).trans (sameModes_writeHome _ _ _)).trans (.of_blocks rfl)

theorem State.fog_blocks (who : Option (Nat × Nat)) (id addr : Nat) (bs : List Byte) :
    (s.fog who id addr bs).2.blocks = s.blocks := by
  unfold State.fog
  dsimp only
  split <;> rfl

theorem sameModes_lookup (who : Option (Nat × Nat)) (id : Nat) (st : List (Nat × Byte)) (addr n : Nat) :
    SameModes s (s.lookup who id st addr n).2 := .of_blocks (State.fog_blocks ..)

theorem sameModes_lookupAll (n : Nat) (l : List (Nat × Loc)) : SameModes s (s.lookupAll c n l).2 := by
  induction l generalizing s with
  | nil => exact .of_blocks rfl
  | cons a l ih => exact (sameModes_lookup s _ _ _ _ _).trans (ih _)

end

-- Requests that perform.

section
variable (s : State) (r : Req)

theorem Warp.settleOn_mode (w : Warp) (p : PReg) (m : Mask) (t : Nat) : (w.settleOn p m t).mode = w.mode := rfl

theorem Warp.deliver_mode (w : Warp) (d : VDst) (lane : Nat) (ws : List Word32) : (w.deliver d lane ws).mode = w.mode := by
  unfold Warp.deliver
  split
  · rfl
  · refine foldl_keeps Warp.mode (fun w p => ?_) _ _
    rfl

theorem sameModes_give (d : VDst) (lane : Nat) (ws : List Word32) : SameModes s (s.give r d lane ws) := by
  refine sameModes_modWarp s _ _ fun w => (Warp.deliver_mode _ d lane ws).trans ?_
  split
  · rfl
  · refine foldl_keeps Warp.mode (fun w p => ?_) _ _
    rfl

theorem sameModes_endLanes (ls : List Nat) : SameModes s (s.endLanes r ls) := by
  unfold State.endLanes
  split
  · exact .of_blocks rfl
  · dsimp only
    split
    · exact SameModes.trans (t := { s with reqs := s.reqs.filter fun q => q.id != r.id }) (.of_blocks rfl)
        (sameModes_modWarp _ _ _ fun _ => rfl)
    · exact .of_blocks rfl

theorem sameModes_writeReq (addr : Nat) (bs : List Byte) : SameModes s (s.writeReq r addr bs) := by
  unfold State.writeReq
  dsimp only
  refine SameModes.modWarp ?_ fun _ => rfl
  refine SameModes.trans (sameModes_taintKept s ((List.range bs.length).map (addr + ·))) (.of_blocks ?_)
  simp only [State.taintKept, List.map_map]
  rfl

theorem sameModes_performTmem (a : LaneAcc) : SameModes s (s.performTmem r a) := by
  unfold State.performTmem
  split
  · exact ((sameModes_lookup s _ _ _ _ _).trans (sameModes_give _ r _ _ _)).trans (sameModes_endLanes _ r _)
  · exact ((sameModes_writeReq s r _ _).trans (.of_blocks rfl)).trans (sameModes_endLanes _ r _)
  · exact .of_blocks rfl

theorem sameModes_settleOwn (b : Block) (w : Warp) : SameModes s (s.settleOwn b w) := by
  refine sameModes_foldl (fun s p => ?_) _ s
  split
  · split
    · exact sameModes_performTmem s _ _
    · exact .of_blocks rfl
  · exact .of_blocks rfl
  · exact .of_blocks rfl

end

-- The M slot.

section
variable (s : State) (c : Issue) (b : Block) (w : Warp)

theorem sameModes_usePeer (core : Nat) (r : Record) : SameModes s (s.usePeer core r) := by
  refine .of_blocks ?_
  unfold State.usePeer
  split <;> rfl

theorem sameModes_request (rcd : Nat) (k : ReqKind) (ls : List LaneAcc) (regs : List PReg) :
    SameModes s (s.request_ c b w rcd k ls regs).2 := by
  unfold State.request_
  dsimp only
  split
  · exact .of_blocks rfl
  · exact SameModes.modWarp (.of_blocks rfl) fun _ => rfl

theorem sameModes_memLanes (i : Instr) (m : Mask) (x : Nat) (inc : Bool) {f : List Try → State → State}
    (hf : ∀ ts s, SameModes s (f ts s)) : SameModes s (s.memLanes c b w i m x inc f) := by
  unfold State.memLanes
  dsimp only
  split
  · exact sameModes_fatalWord s c _ _ _ _ _ _
  · exact ((hf _ s).trans (sameModes_parkAll _ _ _ _ _)).trans (sameModes_bump _ c w inc x)

theorem sameModes_localLoad (d : VDst) (wd : Width) (sx clr gather : Bool) (ts : List Try) :
    SameModes s (s.localLoad c b w d wd sx clr gather ts) := by
  unfold State.localLoad
  dsimp only
  split
  · exact .of_blocks rfl
  · have hread := (sameModes_settleOwn s b w).trans (sameModes_lookupAll _ c wd.size (goodTries ts))
    have hclr : SameModes s (if clr then ((s.settleOwn b w).lookupAll c wd.size (goodTries ts)).2.setEmpty
        (laneGranules wd.size (goodTries ts)) else ((s.settleOwn b w).lookupAll c wd.size (goodTries ts)).2) := by
      split
      · exact hread.trans (.of_blocks rfl)
      · exact hread
    split
    · exact SameModes.modWarp (hclr.trans (sameModes_fly _ c 4 _)) fun _ => rfl
    · exact hclr.trans (sameModes_fly _ c 4 _)

theorem sameModes_longLoad (x : Nat) (d : VDst) (wd : Width) (sx : Bool) (ts : List Try) :
    SameModes s (s.longLoad c b w x d wd sx ts) := by
  unfold State.longLoad
  dsimp only
  split
  · exact .of_blocks rfl
  · split
    · exact sameModes_request s c b w _ _ _ _
    · exact (sameModes_request s c b w _ _ _ _).trans (sameModes_usePeer _ _ _)

theorem sameModes_load (x : Nat) (d : VDst) (wd : Width) (sx clr gather : Bool) (ts : List Try) :
    SameModes s (if s.isLocal b w x then s.localLoad c b w d wd sx clr gather ts else s.longLoad c b w x d wd sx ts) := by
  split
  · exact sameModes_localLoad s c b w d wd sx clr gather ts
  · exact sameModes_longLoad s c b w x d wd sx ts

theorem sameModes_storeLanes (x : Nat) (wd : Width) (a : VSrc) (ts : List Try) :
    SameModes s (s.storeLanes c b w x wd a ts) := by
  unfold State.storeLanes
  dsimp only
  split
  · exact .of_blocks rfl
  · split
    · refine (sameModes_settleOwn s b w).trans (sameModes_foldl (fun u t => ?_) _ _)
      split
      · exact sameModes_localStore u _ _ _
      · exact .of_blocks rfl
      · exact .of_blocks rfl
    · split
      · exact sameModes_request s c b w _ _ _ _
      · exact (sameModes_request s c b w _ _ _ _).trans (sameModes_usePeer _ _ _)

theorem sameModes_fabricDrains (sc : Prop) [Decidable sc] : SameModes s
    (if sc then s.sendDrains (coreId b w) b.bid w.num c.tok else s) := by
  split
  · exact sameModes_sendDrains s _ _ _ _
  · exact .of_blocks rfl

theorem sameModes_acceptLblk (h x n tag first base : Nat) (inc : Bool) (c0 c1 : Word32) :
    SameModes s (s.acceptLblk c b w h x n tag first base inc c0 c1) := by
  unfold State.acceptLblk
  dsimp only
  split
  · exact sameModes_fatalWord s c _ _ _ _ _ _
  · refine SameModes.trans ?_ (sameModes_bump _ c w inc x)
    refine SameModes.trans ?_ (sameModes_setHandle _ _ _)
    refine SameModes.trans ?_ (.of_blocks (State.pin_blocks _ true _))
    exact SameModes.modBlock (.of_blocks rfl) (fun _ => rfl) fun _ => rfl

theorem sameModes_queueOp (q stage : Nat) (k : ReqKind) (regs : List PReg) (m : Mask) :
    SameModes s (s.queueOp c b w q stage k regs m) := by
  unfold State.queueOp
  split
  · exact sameModes_fly s c 1 _
  · exact sameModes_request s c b w _ _ _ _

-- Spills.

theorem sameModes_spillCount (l : Loc) : SameModes s (s.spillCount b w l) := by
  unfold State.spillCount
  split
  · refine .of_blocks ?_
    unfold State.countAccess
    dsimp only
    split
    · rw [State.countMeter_frame]
    · rw [State.countMeter_frame]
  · exact .of_blocks rfl

theorem sameModes_spillStore (l : Loc) (bs : List Byte) : SameModes s (s.spillStore b w l bs) := by
  unfold State.spillStore
  split
  · exact sameModes_localStore s _ _ _
  · exact ((sameModes_noteStore s _ _).trans (sameModes_writeHome _ _ _)).trans (sameModes_spillCount _ b w _)
  · exact .of_blocks rfl

theorem sameModes_spillFatal (code trap rcd : Nat) : SameModes s (s.spillFatal c code trap rcd) := by
  unfold State.spillFatal
  exact SameModes.trans (t := (s.freeWord.2.freeWord).2) (.of_blocks rfl) (sameModes_fatalWord _ c _ _ _ _ _ _)

theorem sameModes_spill (write : Bool) (offs : List Nat) {f : List Loc → State → State} (hf : ∀ ls s, SameModes s (f ls s)) :
    SameModes s (s.spill c b w write offs f) := by
  unfold State.spill
  split
  · exact sameModes_spillFatal s c _ _ _
  · split
    · exact sameModes_spillFatal s c _ _ _
    · exact hf _ s

theorem sameModes_setBankMasks (l : List MaskEntry) (off : Word64) : SameModes s (s.setBankMasks c l off) := by
  refine sameModes_modWarp s _ _ fun w => ?_
  unfold Warp.mode Warp.handler
  cases w.bank <;> rfl

theorem sameModes_fills (ls : List Loc) (es : List MaskEntry) : SameModes s (ls.foldl (fun (q : List MaskEntry × State) l =>
    let p := q.2.lookup (some (c.block, c.warp)) q.2.uid c.stores (q.2.addrOf l) 8
    (q.1 ++ [MaskEntry.ofBytes p.1], p.2.spillCount b w l)) (es, s)).2 := by
  induction ls generalizing s es with
  | nil => exact .of_blocks rfl
  | cons l ls ih => exact ((sameModes_lookup s _ _ _ _ _).trans (sameModes_spillCount _ b w l)).trans (ih _ _)

-- The T and C slots.

theorem sameModes_submit (i : Instr) (h kindNo : Nat) (kind : EngKind) (st : EngSt) (bumps : List (Bool × Nat))
    {f : EngOp → List Box → State → State} (hf : ∀ o l s, SameModes s (f o l s)) :
    SameModes s (s.submit c b w i h kindNo kind st bumps f) := by
  have hbumps : ∀ u : State, SameModes u (bumps.foldl (fun s p => s.bump c w p.1 p.2) u) :=
    sameModes_foldl (fun s p => sameModes_bump s c w p.1 p.2) bumps
  unfold State.submit
  dsimp only
  split
  · refine SameModes.trans (SameModes.trans ?_ (sameModes_parkTakers _ c b w _ _ _ _ _)) (hbumps _)
    refine SameModes.trans ?_ (sameModes_setHandle _ _ _)
    exact SameModes.modBlock (.of_blocks rfl) (fun _ => rfl) fun _ => rfl
  · split
    · exact sameModes_fatalWord s c _ _ _ _ _ _
    · refine SameModes.trans (SameModes.trans ?_ (hf _ _ _)) (hbumps _)
      refine SameModes.trans (SameModes.trans ?_ (.of_blocks (State.pin_blocks _ true _))) (sameModes_setHandle _ _ _)
      exact SameModes.modBlock (.of_blocks rfl) (fun _ => rfl) fun _ => rfl

theorem sameModes_enqueue (o : EngOp) (l : List Box) : SameModes s (s.enqueue o l) := by
  unfold State.enqueue
  dsimp only
  split
  · exact .of_blocks rfl
  · split
    · refine (sameModes_resolve s o.block o.handle 1 0 false).trans (.of_blocks ?_)
      rw [State.observe_frame]
    · exact .of_blocks rfl

theorem sameModes_finish (o : EngOp) (oc v : Nat) (m : Bool) : SameModes s (s.finish o oc v m) := (keeps_finish s o oc v m).modes

/-- A stopped operation's box is spoilt: undefined, and its granules full. -/
def State.spoilt (s : State) (o : EngOp) : State :=
  (((s.countStopped o).scramble (s.heldAddrs o ++ o.cellBytes s)).taint o.id (s.heldAddrs o ++ o.cellBytes s)).refillDest o

/-- The lines an evicted load-block has reserved go. -/
def State.dropLines (s : State) (o : EngOp) : State :=
  match o.kind with
  | .lblk tag _ _ =>
    if o.doneRd then s
    else { s with l1 := s.l1.filter fun y => !(y.core == 32 * o.stack + o.core && y.tag == some (o.block, tag)) }
  | _ => s

theorem State.dropLines_frame (o : EngOp) : s.dropLines o = { s with l1 := (s.dropLines o).l1 } := by
  unfold State.dropLines
  split
  · split <;> rfl
  · rfl

/-- A stopped operation ends, its box spoilt; lines of its own go, and requests of it that no port has taken. -/
theorem State.stopOp_finish (o : EngOp) : ∃ u v, s.stopOp o = State.finish u o 2 v false ∧
    u = { s.spoilt o with l1 := u.l1, peerReqs := u.peerReqs, freeCtr := u.freeCtr } := by
  have h := (s.spoilt o).dropLines_frame o
  have heq : ∃ ps v, s.stopOp o = State.finish ({ (s.spoilt o).dropLines o with peerReqs := ps } : State).freeWord.2 o 2 v false :=
    ⟨_, _, rfl⟩
  obtain ⟨ps, v, heq⟩ := heq
  refine ⟨_, v, heq, ?_⟩
  generalize (s.spoilt o).dropLines o = u at *
  dsimp only [State.freeWord]
  rw [h]

theorem sameModes_stopOp (o : EngOp) : SameModes s (s.stopOp o) := by
  obtain ⟨u, v, heq, hu⟩ := s.stopOp_finish o
  rw [heq]
  refine SameModes.trans (SameModes.trans (t := s.spoilt o) ?_ (.of_blocks (by rw [hu]))) (sameModes_finish u o 2 v false)
  exact SameModes.trans (SameModes.trans (t := (s.countStopped o).scramble (s.heldAddrs o ++ o.cellBytes s))
    (.of_blocks (s.counted_countStopped o).blocks) (sameModes_taint _ o.id _)) (.of_blocks rfl)

theorem sameModes_dropMmac (o : EngOp) : SameModes s (s.dropMmac o) :=
  SameModes.trans (t := s.moveUpAfter o) (.of_blocks rfl) (sameModes_finish _ o 3 0 false)

theorem sameModes_dropOp (o : EngOp) : SameModes s (s.dropOp o) :=
  SameModes.trans (t := s.refillDest o) (.of_blocks rfl) (sameModes_finish _ o 3 0 false)

end

-- Every slot operation.

section
variable {s t : State} {i : Instr} {g : Guard}

theorem slotOp_modes {f : Issue → Block → Warp → State → State} (h : slotOp s i f = .next t)
    (hf : ∀ c b w s, SameModes s (f c b w s)) : SameModes s t := by
  rcases slotOp_cases s i f with hc | ⟨c, b, w, -, -, -, ⟨t, -, -, hc⟩ | ⟨-, hc⟩⟩
  · rw [hc] at h; cases h
  · rw [hc] at h; cases h; exact sameModes_raise s c _ _ _
  · rw [hc] at h; cases h; exact hf c b w s

theorem SameModes.ite {p : Prop} [Decidable p] {s t u : State} (ht : SameModes s t) (hu : SameModes s u) :
    SameModes s (if p then t else u) := by
  split
  · exact ht
  · exact hu

theorem uniOp_modes {f : Issue → Block → Warp → State → State} (h : uniOp s i g f = .next t)
    (hf : ∀ c b w s, SameModes s (f c b w s)) : SameModes s t := by
  refine slotOp_modes h fun c b w s => ?_
  split
  · exact hf c b w s
  · exact .of_blocks rfl

theorem uniRes_modes {f : Issue → Warp → List Effect} (h : uniRes s i g f = .next t) : SameModes s t :=
  uniOp_modes h fun c _ _ s => sameModes_fly s c 1 _

theorem laneP_modes {f : Issue → Warp → Mask → List Effect} (h : laneP s i g f = .next t) : SameModes s t :=
  slotOp_modes h fun c _ _ s => sameModes_flyIn s c _ 1 _

theorem voteP_modes {f : Issue → Warp → Mask → List Effect} (h : voteP s i g f = .next t) : SameModes s t :=
  slotOp_modes h fun c _ _ s => sameModes_fly s c 1 _

theorem laneRes_modes {lat : Nat} {f : Issue → Pitch → Warp → Mask → List Effect} (h : laneRes s i g lat f = .next t) :
    SameModes s t := slotOp_modes h fun c _ _ s => sameModes_flyIn s c _ lat _

theorem sInt_modes {d a : Nat} {b : SSrc} {ty : ITy} {f : ITy → Word64 → Word64 → Int} (h : sInt s i g d a b ty f = .next t) :
    SameModes s t := uniRes_modes h

theorem vInt2_modes {lat : Nat} {d : VDst} {a b : VSrc} {ty : ITy} {sat : Bool} {f : ITy → Word64 → Word64 → Int}
    (h : vInt2 s i g lat d a b ty sat f = .next t) : SameModes s t := laneRes_modes h

theorem vInt1_modes {d : VDst} {a : VSrc} {ty : ITy} {sat : Bool} {f : ITy → Word64 → Int}
    (h : vInt1 s i g d a ty sat f = .next t) : SameModes s t := laneRes_modes h

theorem v1_modes {lat : Nat} {d : VDst} {a : VSrc} {f : Word32 → Word32} (h : v1 s i g lat d a f = .next t) : SameModes s t :=
  laneRes_modes h

theorem v2_modes {lat : Nat} {d : VDst} {a b : VSrc} {f : Word32 → Word32 → Word32} (h : v2 s i g lat d a b f = .next t) :
    SameModes s t := laneRes_modes h

theorem v3_modes {d : VDst} {a b e : VSrc} {f : Word32 → Word32 → Word32 → Word32} (h : v3 s i g d a b e f = .next t) :
    SameModes s t := laneRes_modes h

theorem vCmp_modes {lat pd : Nat} {f : Issue → Pitch → Warp → List Bool} (h : vCmp s i g lat pd f = .next t) : SameModes s t :=
  laneRes_modes h

theorem xMove_modes {d : VDst} {a : VSrc} {src : Issue → Pitch → Warp → Nat → Nat} (h : xMove s i g d a src = .next t) :
    SameModes s t := laneRes_modes h

theorem memOp_modes {f : Issue → Block → Warp → Mask → State → State} (h : memOp s i g f = .next t)
    (hf : ∀ c b w m s, SameModes s (f c b w m s)) : SameModes s t := by
  refine slotOp_modes h fun c b w s => ?_
  split
  · exact .of_blocks rfl
  · exact hf c b w _ s

end

section
variable {s t : State}

theorem hret_modes {g : Guard} (h : execHret g s = .next t) : SameModes s t := uniOp_modes h fun _ _ _ s => .of_blocks rfl

theorem hretSkip_modes {g : Guard} (h : execHretSkip g s = .next t) : SameModes s t := uniOp_modes h fun _ _ _ s => .of_blocks rfl

theorem mpush_modes {g : Guard} {a : Nat} {na : Bool} (h : execMpush g a na s = .next t) : SameModes s t :=
  uniOp_modes h fun _ _ _ s => .of_blocks rfl

theorem melse_modes {g : Guard} (h : execMelse g s = .next t) : SameModes s t := uniOp_modes h fun _ _ _ s => .of_blocks rfl

theorem mpop_modes {g : Guard} (h : execMpop g s = .next t) : SameModes s t := uniOp_modes h fun _ _ _ s => .of_blocks rfl

theorem fmov_modes {g : Guard} {x a : Nat} (h : execFmov g x a s = .next t) : SameModes s t :=
  uniOp_modes h fun _ _ _ s => .of_blocks rfl

theorem regroup_modes {g : Guard} {a : Nat} {na : Bool} (h : execRegroup g a na s = .next t) : SameModes s t := by
  refine slotOp_modes h fun c b w s => ?_
  split
  · exact .of_blocks rfl
  · refine SameModes.trans ?_ (sameModes_holdOn _ c _ _)
    exact SameModes.modWarp (.of_blocks rfl) fun _ => rfl

theorem bar_modes {g : Guard} {id : Nat} (h : execBar g id s = .next t) : SameModes s t := by
  refine uniOp_modes h fun c b w s => SameModes.modBlock (SameModes.trans ?_ (sameModes_holdOn _ c _ _)) (fun _ => rfl) fun _ => rfl
  exact SameModes.modWarp (.of_blocks rfl) fun _ => rfl

theorem srd_modes {g : Guard} {d : SrdDst} {sr : Nat} (h : execSrd g d sr s = .next t) : SameModes s t := by
  refine uniOp_modes h fun c b w s => ?_
  cases d <;> exact sameModes_fly s c 1 _

theorem mtrd_modes {g : Guard} {v e l j : Nat} (h : execMtrd g v e l j s = .next t) : SameModes s t := by
  exact uniOp_modes h fun c b w s => SameModes.modWarp (.of_blocks rfl) fun _ => rfl

theorem mtck_modes {g : Guard} {h j : Nat} (h : execMtck g h j s = .next t) : SameModes s t := by
  refine uniOp_modes h fun c b w s => SameModes.modWarp ?_ fun _ => rfl
  exact SameModes.modBlock (.of_blocks rfl) (fun _ => rfl) fun _ => rfl

theorem mspill_modes {g : Guard} {n : Nat} (h : execMspill g n s = .next t) : SameModes s t := by
  refine uniOp_modes h fun c b w s => ?_
  split
  · exact .of_blocks rfl
  · refine sameModes_spill s c b w _ _ fun ls s => SameModes.trans ?_ (sameModes_setBankMasks _ c _ _)
    exact sameModes_foldl (fun s p => sameModes_spillStore s b w _ _) _ s

theorem mfill_modes {g : Guard} {n : Nat} (h : execMfill g n s = .next t) : SameModes s t := by
  refine uniOp_modes h fun c b w s => ?_
  dsimp only
  split
  · exact .of_blocks rfl
  · refine sameModes_spill s c b w _ _ fun ls s => SameModes.trans ?_ (sameModes_setBankMasks _ c _ _)
    exact sameModes_fills s c b w ls []

theorem mzero_modes {g : Guard} {acc nt : Nat} (h : execMzero g acc nt s = .next t) : SameModes s t := by
  exact uniOp_modes h fun c b w s => .of_blocks rfl

theorem mmac_modes {g : Guard} {h acc nf mf : Nat} {pair : MPair} {pro : Bool} {xa : Nat} {inca : Bool} {xb : Nat} {incb : Bool}
    (h : execMmac g h acc nf mf pair pro xa inca xb incb s = .next t) : SameModes s t := by
  exact uniOp_modes h fun c b w s => sameModes_submit s c b w _ _ _ _ _ _ fun o l s => .of_blocks rfl

theorem mload_modes {g : Guard} {h acc nt mf xs : Nat} {inc : Bool}
    (h : execMload g h acc nt mf xs inc s = .next t) : SameModes s t := by
  exact uniOp_modes h fun c b w s => sameModes_submit s c b w _ _ _ _ _ _ fun o l s => .of_blocks rfl

theorem mstore_modes {g : Guard} {h acc nt mf : Nat} {fmt : Fmt} {rm : Rm} {src : Bool} {xd : Nat} {inc : Bool}
    (h : execMstore g h acc nt mf fmt rm src xd inc s = .next t) : SameModes s t := by
  refine uniOp_modes h fun c b w s => sameModes_submit s c b w _ _ _ _ _ _ fun o l s => ?_
  split <;> exact .of_blocks rfl

theorem cpy_modes {g : Guard} {h xd : Nat} {incd : Bool} {xs : Nat} {incs : Bool} {a : Nat}
    (h : execCpy g h xd incd xs incs a s = .next t) : SameModes s t := by
  exact uniOp_modes h fun c b w s => sameModes_submit s c b w _ _ _ _ _ _ fun o l s => sameModes_enqueue s o l

theorem cpym_modes {g : Guard} {h xd : Nat} {incd : Bool} {xs : Nat} {incs : Bool} {a cmask : Nat}
    (h : execCpym g h xd incd xs incs a cmask s = .next t) : SameModes s t := by
  exact uniOp_modes h fun c b w s => sameModes_submit s c b w _ _ _ _ _ _ fun o l s => sameModes_enqueue s o l

theorem coll_modes {g : Guard} {h xd : Nat} {incd : Bool} {xs : Nat} {incs : Bool} {a xr : Nat} {incr : Bool} {op : CollOp}
    (h : execColl g h xd incd xs incs a xr incr op s = .next t) : SameModes s t := by
  exact uniOp_modes h fun c b w s => sameModes_submit s c b w _ _ _ _ _ _ fun o l s => sameModes_enqueue s o l

theorem ftry_modes {g : Guard} {q h : Nat} {tm : FTime} (h : execFtry g q h tm s = .next t) : SameModes s t := by
  refine uniOp_modes h fun c b w s => ?_
  dsimp only
  split
  · exact sameModes_fly s c 1 _
  · split
    · exact sameModes_fly s c 1 _
    · exact sameModes_modWarp s _ _ fun _ => rfl

theorem fcancel_modes {g : Guard} {h : Nat} (h : execFcancel g h s = .next t) : SameModes s t := by
  refine uniOp_modes h fun c b w s => ?_
  dsimp only
  split
  · exact .of_blocks rfl
  · split
    · split
      · split
        · exact sameModes_dropMmac s _
        · exact .of_blocks rfl
      · split
        · exact sameModes_dropOp s _
        · exact sameModes_stopOp s _
    · split
      · split
        · exact SameModes.modBlock (.of_blocks rfl) (fun _ => rfl) fun _ => rfl
        · exact .of_blocks rfl
      · exact .of_blocks rfl

theorem ld_modes {g : Guard} {d : VDst} {x : Nat} {wd : Width} {fe clr inc sx : Bool}
    (h : execLd g d x wd fe clr inc sx s = .next t) : SameModes s t := by
  exact memOp_modes h fun c b w m s => sameModes_memLanes s c b w _ m _ _ fun ts s => sameModes_load s c b w _ _ _ _ _ _ ts

theorem ldg_modes {g : Guard} {d : VDst} {x : Nat} {wd : Width} {gdim : Nat} {inc sx : Bool} {v : VSrc}
    (h : execLdg g d x wd gdim inc sx v s = .next t) : SameModes s t := by
  exact memOp_modes h fun c b w m s => sameModes_memLanes s c b w _ m _ _ fun ts s => sameModes_load s c b w _ _ _ _ _ _ ts

theorem st_modes {g : Guard} {a : VSrc} {x : Nat} {wd : Width} {inc : Bool}
    (h : execSt g a x wd inc s = .next t) : SameModes s t := by
  exact memOp_modes h fun c b w m s => sameModes_memLanes s c b w _ m _ _ fun ts s => sameModes_storeLanes s c b w _ _ _ ts

theorem stg_modes {g : Guard} {a : VSrc} {x : Nat} {wd : Width} {gdim : Nat} {inc : Bool} {v : VSrc}
    (h : execStg g a x wd gdim inc v s = .next t) : SameModes s t := by
  exact memOp_modes h fun c b w m s => sameModes_memLanes s c b w _ m _ _ fun ts s => sameModes_storeLanes s c b w _ _ _ ts

theorem feset_modes {g : Guard} {x : Nat} {wd : Width} {inc : Bool} (h : execFeset g x wd inc s = .next t) : SameModes s t := by
  exact memOp_modes h fun c b w m s => sameModes_memLanes s c b w _ m _ _ fun ts s => .of_blocks rfl

theorem feclr_modes {g : Guard} {x : Nat} {wd : Width} {inc : Bool} (h : execFeclr g x wd inc s = .next t) : SameModes s t := by
  exact memOp_modes h fun c b w m s => sameModes_memLanes s c b w _ m _ _ fun ts s => .of_blocks rfl

theorem ldas_modes {g : Guard} {d : VDst} {x : Nat} {wd : Width} {tm : Nat} {inc sx : Bool} {pd : Nat}
    (h : execLdas g d x wd tm inc sx pd s = .next t) : SameModes s t := by
  refine memOp_modes h fun c b w m s => sameModes_memLanes s c b w _ m _ _ fun ts s => ?_
  dsimp only
  split
  · exact .of_blocks rfl
  · exact sameModes_request s c b w _ _ _ _

theorem atom_modes {g : Guard} {d : VDst} {x : Nat} {op : AtomOp} {ty : ITy} {order : MemOrder} {scope : Scope} {inc : Bool} {a b : VSrc}
    (h : execAtom g d x op ty order scope inc a b s = .next t) : SameModes s t := by
  refine memOp_modes h fun c b w m s => sameModes_memLanes s c b w _ m _ _ fun ts s => ?_
  dsimp only
  generalize (if ty.is64 then Width.b64 else Width.b32) = wd
  generalize (fun l => if op = .cas then VSrc.bytes _ c w _ wd l else []) = cmp
  split
  · exact .of_blocks rfl
  · split
    · exact .of_blocks rfl
    · refine SameModes.trans (SameModes.trans ?_ (sameModes_request _ c b w _ _ _ _)) (sameModes_holdOn _ c _ _)
      split
      · exact sameModes_sendDrains s _ _ _ _
      · exact .of_blocks rfl

theorem fence_modes {g : Guard} {scope : Scope} (h : execFence g scope s = .next t) : SameModes s t := by
  exact memOp_modes h fun c b w m s => (sameModes_fabricDrains s c b w _).trans (sameModes_holdOn _ c _ _)

theorem drain_modes {g : Guard} {scope : Scope} (h : execDrain g scope s = .next t) : SameModes s t := by
  exact memOp_modes h fun c b w m s => (sameModes_fabricDrains s c b w _).trans (sameModes_holdOn _ c _ _)

theorem probe_modes {g : Guard} {d x a : Nat} (h : execProbe g d x a s = .next t) : SameModes s t := by
  refine memOp_modes h fun c b w m s => ?_
  dsimp only
  split
  · exact sameModes_parkTakers s c b w _ _ _ _ _
  · exact SameModes.modBlock (sameModes_fly s c 1 _) (fun _ => rfl) fun _ => rfl

theorem qput_modes {g : Guard} {q stage : Nat} {a : VSrc} (h : execQput g q stage a s = .next t) : SameModes s t := by
  exact memOp_modes h fun c b w m s => sameModes_queueOp s c b w _ _ _ _ _

theorem qget_modes {g : Guard} {d : VDst} {q stage : Nat} (h : execQget g d q stage s = .next t) : SameModes s t := by
  exact memOp_modes h fun c b w m s => sameModes_queueOp s c b w _ _ _ _ _

theorem lblk_modes {g : Guard} {h x n tag : Nat} {inc : Bool} (h : execLblk g h x n tag inc s = .next t) : SameModes s t := by
  refine memOp_modes h fun c b w m s => ?_
  split
  · split
    · exact (sameModes_parkHandle s c b w _ _ _ _ _ _ _).trans (sameModes_bump _ c w _ _)
    · refine SameModes.ite ?_ ?_
      · exact (sameModes_parkHandle s c b w _ _ _ _ _ _ _).trans (sameModes_bump _ c w _ _)
      · exact sameModes_acceptLblk s c b w _ _ _ _ _ _ _ _ _
  · exact (sameModes_parkHandle s c b w _ _ _ _ _ _ _).trans (sameModes_bump _ c w _ _)

theorem stc_modes {g : Guard} {h x : Nat} {pair inc : Bool} {a : VSrc}
    (h : execStc g h x pair inc a s = .next t) : SameModes s t := by
  refine memOp_modes h fun c b w m s => ?_
  dsimp only
  split
  · exact .of_blocks rfl
  · split
    · exact (sameModes_parkHandle s c b w _ _ _ _ _ _ _).trans (sameModes_bump _ c w _ _)
    · split
      · exact sameModes_fatalWord s c _ _ _ _ _ _
      · split
        · exact .of_blocks rfl
        · exact .of_blocks rfl
        · refine SameModes.trans ?_ (sameModes_bump _ c w _ _)
          refine SameModes.trans ?_ (sameModes_setHandle _ _ _)
          exact SameModes.modBlock (.of_blocks rfl) (fun _ => rfl) fun _ => rfl

end

/-- No slot operation changes the mode of any warp, or where it stands. -/
theorem exec_sameModes {s t : State} {i : Instr} (he : (encode i).isSome = true) (h : exec i s = .next t) : SameModes s t := by
  cases i <;> dsimp only [exec] at h
  case sadd | ssub | smul | smulhi | sand | sor | sxor | sshl | sshr | ssar | smin | smax => exact sInt_modes h
  case smov | ssel | sli | scmp | lidx | swr | qand | qor | qxor | agbind | agset | agadd | agstep | aglane | agget | fstat =>
    exact uniRes_modes h
  case pand | por | pxor | pmov | pset => exact laneP_modes h
  case vany | vall | vcount => exact voteP_modes h
  case vadd | vsub | vmul | vmulhi | vand | vor | vxor | vshl | vshr | vsar | vmin | vmax => exact vInt2_modes h
  case vmad | vsel | vli | xscan | xred => exact laneRes_modes h
  case vabs | vneg | vmov | vclz | vpopc => exact vInt1_modes h
  case vcmp | fcmp => exact vCmp_modes h
  case fadd | fsub | fmul | fmin | fmax | hadd2 | hmul2 | cvt => exact v2_modes h
  case fma | hfma2 => exact v3_modes h
  case fabs | fneg | fclass | frcp | frsq | fexp2 | flog2 | fsin | fcos | ftanh => exact v1_modes h
  case xchg | xrot | xbcast | xidx => exact xMove_modes h
  case btgt => exact uniOp_modes h fun c b w s => (sameModes_fly s c 1 _).trans (.of_blocks rfl)
  case clk | info | vdhop => exact uniOp_modes h fun c b w s => sameModes_fly s c 1 _
  case bxfer | bcall | lbrk | exit | dline | dtick | pwrel =>
    exact uniOp_modes h fun c b w s => sameModes_modWarp s _ _ fun _ => rfl
  case trap | fwait => exact uniOp_modes h fun _ _ _ s => .of_blocks rfl
  case hret => exact hret_modes h
  case hretSkip => exact hretSkip_modes h
  case mpush => exact mpush_modes h
  case melse => exact melse_modes h
  case mpop => exact mpop_modes h
  case fmov => exact fmov_modes h
  case mready => exact uniOp_modes h fun c b w s => sameModes_holdOn s c _ _
  case dclose => exact uniOp_modes h fun c b w s => SameModes.modWarp (sameModes_fly s c 1 _) fun _ => rfl
  case pwacq =>
    refine uniOp_modes h fun c b w s => SameModes.trans ?_ (.of_blocks (State.modStack_blocks ..))
    exact SameModes.modWarp (.of_blocks rfl) fun _ => rfl
  case ungroup =>
    refine uniOp_modes h fun c b w s => SameModes.trans ?_ (sameModes_holdOn _ c _ _)
    exact SameModes.modWarp (.of_blocks rfl) fun _ => rfl
  case regroup => exact regroup_modes h
  case bar => exact bar_modes h
  case srd => exact srd_modes h
  case mtrd => exact mtrd_modes h
  case mtck => exact mtck_modes h
  case mspill => exact mspill_modes h
  case mfill => exact mfill_modes h
  case mzero => exact mzero_modes h
  case mmac => exact mmac_modes h
  case mload => exact mload_modes h
  case mstore => exact mstore_modes h
  case cpy => exact cpy_modes h
  case cpym => exact cpym_modes h
  case coll => exact coll_modes h
  case ftry => exact ftry_modes h
  case fcancel => exact fcancel_modes h
  case ld => exact ld_modes h
  case ldg => exact ldg_modes h
  case st => exact st_modes h
  case stg => exact stg_modes h
  case feset => exact feset_modes h
  case feclr => exact feclr_modes h
  case ldas => exact ldas_modes h
  case atom => exact atom_modes h
  case fence => exact fence_modes h
  case drain => exact drain_modes h
  case probe => exact probe_modes h
  case qput => exact qput_modes h
  case qget => exact qget_modes h
  case lblk => exact lblk_modes h
  case stc => exact stc_modes h
  all_goals cases he

theorem slotsKeepTheMode_holds : SlotsKeepTheMode := by
  intro s t i n k w v he hx hw hv
  have h := exec_sameModes he hx n k
  rw [State.modeOf, State.modeOf, hw, hv] at h
  have hm : v.mode = w.mode := Option.some.inj h
  simp only [Warp.mode, Warp.Mode.mk.injEq] at hm
  obtain ⟨_, hh, hpc, hcause, hhpc, hnext⟩ := hm
  exact ⟨hh, hpc, hcause, hhpc, hnext⟩

end Sys2Proof.Machine

namespace Sys2Proof.Machine
open Sys2Proof.Claims

section
variable {s : State} {c : Issue} {bl : Block} {w : Warp} {g : Guard}

/-- A uniform operation raises the trap that its word's state gives it. -/
theorem traps_of_trapOf {i : Instr} {code arg : Nat} (hi : Issuing s c bl w) (hu : uniformGuard i = some g) (hcl : c.clear = false)
    (ht : s.trapOf c bl w i = some (code, arg)) : Traps s i c code arg := by
  obtain ⟨hc, hb, hw⟩ := hi
  obtain ⟨f, hf⟩ := exec_eq_uniOp (s := s) hu
  exact hf.trans (uniOp_trap i f hc hb hw hcl ht)

theorem Warp.converges_of_none_parked (hp : w.bank.isSome = true ∨ w.parked = 0) : w.converges = none := by
  rcases hp with h | h <;> simp [Warp.converges, Warp.handler, h]

theorem trapOf_exit (hg : qGuard w g = true) (hw : w.bank.isSome = true ∨ (w.region = none ∧ w.parked = 0))
    (hr : wordRegroup c.word = false) : s.trapOf c bl w (.exit g) = none := by
  have hcv : w.converges = none := Warp.converges_of_none_parked (hw.imp_right And.right)
  rcases hw with h | ⟨h, -⟩ <;> simp [State.trapOf, hg, hr, hcv, h, Warp.handler]

theorem trapOf_bar {id : Nat} (hreg : w.region = none) (hb : w.bank = none) (hp : w.parked = 0)
    (hr : wordRegroup c.word = false) : s.trapOf c bl w (.bar g id) = none := by
  simp [State.trapOf, hr, Warp.converges_of_none_parked (.inr hp), hreg, hb, Warp.handler]

/-- A warp that arrives at barrier `id` and holds until its requests before word `u` have performed. -/
def Warp.arriving (id u : Nat) (w : Warp) : Warp :=
  { w with wait := .bar id, hold := w.hold ++ [{ kind := .sync, upto := u }] }

/-- Barrier `id` of a block counts one arrival more. -/
def Block.raiseBar (id : Nat) (b : Block) : Block := { b with bars := b.bars.set id (b.bars.getD id 0 + 1) }

theorem exec_bar (hi : Issuing s c bl w) (hg : qGuard w g = true) {id : Nat} (ht : s.trapOf c bl w (.bar g id) = none) :
    exec (.bar g id) s = .next ((s.modWarp c.block c.warp (Warp.arriving id c.uid)).modBlock c.block (Block.raiseBar id)) := by
  dsimp only [exec, execBar]
  rw [uniOp_runs hi hg ht, State.holdOn]
  refine congrArg (fun u => Host.Outcome.next (State.modBlock u c.block (Block.raiseBar id))) ?_
  exact State.modWarp_modWarp s c.block c.warp (f := fun w => { w with wait := .bar id }) fun _ => rfl

theorem warpEndsAndBarriers_holds : WarpEndsAndBarriers := by
  intro s c bl w g n id hi hg
  have ⟨hc, hb, hw⟩ := hi
  refine ⟨fun hcl => ?_, fun h hr => ?_, fun hreg hbank hp hr hid => ?_, fun hbank => ?_⟩
  · exact traps_of_trapOf hi rfl hcl (by simp [State.trapOf, hg])
  · dsimp only [WarpBecomes, exec, execExit]
    rw [uniOp_runs hi hg (trapOf_exit hg h hr)]
  · refine ⟨_, Block.raiseBar id (bl.modWarp c.warp (Warp.arriving id c.uid)), exec_bar hi hg (trapOf_bar hreg hbank hp hr),
      rfl, ?_, ?_, ?_, ?_, ?_⟩
    · rw [State.block?_modBlock _ _ _ (Block.raiseBar id) fun _ => rfl, State.block?_modWarp, hb]
      simp
    · simp [Block.raiseBar, Block.modWarp, hid]
    · intro j hj
      simp [Block.raiseBar, Block.modWarp, Ne.symm hj]
    · have := Block.warp?_modWarp bl c.warp c.warp (Warp.arriving id c.uid) fun _ => rfl
      rw [hw] at this
      exact this.trans (by simp [Warp.arriving])
    · intro m hm
      have := Block.warp?_modWarp bl c.warp m (Warp.arriving id c.uid) fun _ => rfl
      exact this.trans (by simp [hm])
  · have hret : s.trapOf c bl w (.hret g) = none := by simp [State.trapOf, Warp.handler, hbank]
    have hskip : s.trapOf c bl w (.hretSkip g) = none := by simp [State.trapOf, Warp.handler, hbank]
    constructor
    · dsimp only [exec, execHret]
      rw [uniOp_runs hi hg hret, hc]
      rfl
    · dsimp only [exec, execHretSkip]
      rw [uniOp_runs hi hg hskip, hc]
      rfl

theorem srHandler_of {sr : Nat}
    (h : (0x080 ≤ sr ∧ sr ≤ 0x088) ∨ (0x100 ≤ sr ∧ sr ≤ 0x13F) ∨ (0x200 ≤ sr ∧ sr ≤ 0x2BF)) : srHandler sr = true := by
  simp only [srHandler, Bool.or_eq_true, Bool.and_eq_true, decide_eq_true_eq]
  tauto

theorem handlerOnly_holds : HandlerOnly := by
  intro s c bl w g a id n sr na d hi hg hcl
  have ⟨hc, hb, hw⟩ := hi
  refine ⟨fun hbank => ?_, fun hbank => ?_⟩
  · have hh : w.handler = false := by simp [Warp.handler, hbank]
    refine ⟨?_, ?_, ?_, ?_, fun hsr => ⟨?_, ?_⟩⟩
    · exact traps_of_trapOf hi rfl hcl (by simp [State.trapOf, hg, hh])
    · exact traps_of_trapOf hi rfl hcl (by simp [State.trapOf, hg, hh])
    · exact traps_of_trapOf hi rfl hcl (by simp [State.trapOf, hg, hbank])
    · exact traps_of_trapOf hi rfl hcl (by simp [State.trapOf, hg, hbank])
    · exact traps_of_trapOf hi rfl hcl (by simp [State.trapOf, hg, hh, srHandler_of hsr])
    · exact traps_of_trapOf hi rfl hcl (by simp [State.trapOf, hg, hh, srHandler_of hsr])
  · have hh : w.handler = true := hbank
    refine ⟨?_, ?_, ?_⟩
    · exact traps_of_trapOf hi rfl hcl (by simp [State.trapOf, hg, hh])
    · dsimp only [Traps, exec, execRegroup]
      exact slotOp_trap (.regroup g a na) _ hc hb hw hcl (t := (0x82, 0)) (by simp [State.trapOf, hg, hh])
    · exact traps_of_trapOf hi rfl hcl (by simp [State.trapOf, hg, hh])

end

-- The completion of a barrier.

theorem State.acquire_frame (s : State) (b : Block) (w : Warp) (sc : Scope) :
    s.acquire b w sc = { s with l1 := (s.acquire b w sc).l1, ops := (s.acquire b w sc).ops } := by
  have h : s.acquire b w sc = s.invalidateL1 (coreId b w) ∨ s.acquire b w sc = s := by
    unfold State.acquire
    exact ite_eq_or_eq ..
  rcases h with h | h <;> rw [h] <;> rfl

theorem State.leave_frame (s : State) (b : Block) (l : List Warp) :
    s.leave b l = { s with l1 := (s.leave b l).l1, ops := (s.leave b l).ops } := by
  rw [State.leave]
  induction l generalizing s with
  | nil => rfl
  | cons w l ih =>
    rw [List.foldl_cons, ih]
    rw [State.acquire_frame s b w .block]

theorem State.leave_blocks (s : State) (b : Block) (l : List Warp) : (s.leave b l).blocks = s.blocks := by
  rw [State.leave_frame]

/-- A warp that stands at barrier `id` goes on. -/
def Warp.released (id : Nat) (w : Warp) : Warp := if w.wait == .bar id then { w with wait := .none } else w

/-- A block whose barrier `id` is complete. -/
def Block.openBar (id : Nat) (b : Block) : Block := { b with bars := b.bars.set id 0, warps := b.warps.map (Warp.released id) }

/-- Barrier `id` of a block is complete: warps stand at it, as many as have not exited, and their accesses have performed. -/
def Block.barComplete (id : Nat) (b : Block) : Bool :=
  (b.warps.filter fun w => w.wait == .bar id) != [] && b.bars.getD id 0 == (b.warps.filter Warp.live).length &&
    settledAll (b.warps.filter fun w => w.wait == .bar id)

theorem Block.barComplete_iff {b : Block} {id : Nat} (hid : id < b.bars.length) : b.barComplete id = true ↔
    (b.warps.filter fun w => w.wait == .bar id) ≠ [] ∧ b.bars[id]? = some (b.warps.filter fun w => !w.exited).length ∧
      ∀ w ∈ b.warps.filter (fun w => w.wait == .bar id), w.hold = [] := by
  have hbar : b.bars[id]? = some (b.bars.getD id 0) := by simp [hid]
  have hlive : b.warps.filter Warp.live = b.warps.filter fun w => !w.exited := rfl
  rw [hbar, Option.some_inj, Block.barComplete, hlive]
  generalize (b.warps.filter fun w => w.wait == .bar id) = arrived
  simp [settledAll, and_assoc]

theorem barrierDone_eq {s : State} {bid id : Nat} {b : Block} (hb : s.block? bid = some b) :
    s.barrierDone bid id = if b.barComplete id then
        (s.leave b (b.warps.filter fun w => w.wait == .bar id)).modBlock bid (Block.openBar id)
      else s := by
  rw [State.barrierDone, hb] <;> rfl

theorem barrierCompletes_holds : BarrierCompletes := by
  intro s bid id b hb hid
  dsimp only
  rw [barrierDone_eq hb, ← Block.barComplete_iff hid]
  refine ⟨fun hcomp => ?_, fun hcomp => if_neg hcomp⟩
  rw [if_pos hcomp]
  have hbl : ∀ n, (s.leave b (b.warps.filter fun w => w.wait == .bar id)).block? n = s.block? n := fun n => by
    rw [State.block?, State.leave_blocks]; rfl
  refine ⟨Block.openBar id b, ?_, ?_, ?_, ?_, ?_, ?_⟩
  · rw [State.block?_modBlock _ _ _ (Block.openBar id) fun _ => rfl, hbl, hb]
    simp
  · simp [Block.openBar, hid]
  · intro j hj
    simp [Block.openBar, Ne.symm hj]
  · intro n w hw
    have := Block.warp?_mapWarps b (Warp.released id) (fun w => by rw [Warp.released]; split <;> rfl) n
    rw [hw] at this
    refine this.trans ?_
    simp [Warp.released]
  · intro a
    exact congrArg (fun m => Memory.read m a) (State.leave_mem s b _)
  · intro n hn
    rw [State.block?_modBlock _ _ _ (Block.openBar id) fun _ => rfl, hbl]
    simp [hn]

/-- Settles O14: barriers and ends through what their operations do to the issuing warp, the completion of a barrier through its
condition, and the mode of a warp through the relation `SameModes` that every slot operation keeps. -/
theorem warpEndsAndHandlers : Obligations.WarpEndsAndHandlers :=
  ⟨warpEndsAndBarriers_holds, barrierCompletes_holds, handlerOnly_holds, slotsKeepTheMode_holds⟩

end Sys2Proof.Machine

end

section
/-! SUPPORT. Futures (O33), copies (O32) and the matrix unit (O31). -/

namespace Sys2Proof.Machine
open Sys2Proof.Claims

/-- A warp of number 0 that waits in `ftry` until 0 ps, with a result for `q1` in flight. -/
def tryingWarp (core : Nat) : Warp :=
  { (default : Warp) with
    core := core
    trying := some { q := 1, handle := 0, deadline := 0 }
    flights := [{ (default : Flight) with landing := 3, effs := [.qreg 1 true] }] }

/-- A block whose two warps, of two clusters, both have number 0. -/
def twinWarps : Block := { (default : Block) with warps := [tryingWarp 0, tryingWarp 8] }

/-- Cluster 1 of stack 0 has run five cycles, cluster 0 none. -/
def twinWarpsState : State :=
  { State.reset with
    blocks := [twinWarps]
    clusters := [Cluster.reset, { Cluster.reset with cycle := 5 }] }

/-- Refutes O33: two warps of a block may have one number.  The end of an `ftry` is then the end of both, each at its own cluster's cycle:
the result in flight of the second warp, due at cycle 3 of its cluster, is gone at cycle 5 of that cluster, and would stand were
the cycle that of the first warp's cluster. -/
theorem not_futuresAndCancelling : ¬ Obligations.FuturesAndCancelling := by
  unfold Obligations.FuturesAndCancelling
  rintro ⟨⟨-, htimeout, -⟩, -⟩
  obtain ⟨hends, -⟩ := htimeout twinWarpsState twinWarps (tryingWarp 0) 1 0 0 rfl rfl rfl
  have h := Host.Outcome.next.inj (hends (.inl rfl))
  have hflight := congrArg (fun s : State => s.blocks.map fun b => b.warps.map fun w => w.flights.map Flight.effs) h
  exact absurd hflight (by decide)

end Sys2Proof.Machine

namespace Sys2Proof.Machine
open Sys2Proof.Claims

-- What an engine operation leaves when it ends, lands and reads (R142, R151, R153).

/-- Every operation of `s` is one of `t`, by its number. -/
def State.SameOps (s t : State) : Prop := ∀ q ∈ s.ops, ∃ q' ∈ t.ops, q'.id = q.id

theorem State.SameOps.of_eq {s t : State} (h : t.ops = s.ops) : s.SameOps t := fun q hq => ⟨q, h ▸ hq, rfl⟩

theorem State.SameOps.of_map {s t : State} {f : EngOp → EngOp} (h : t.ops = s.ops.map f) (hf : ∀ q, (f q).id = q.id) : s.SameOps t :=
  fun q hq => ⟨f q, h ▸ List.mem_map_of_mem hq, hf q⟩

/-- The ring of a block is the same in `s` and `t`. -/
def State.SameRing (s t : State) (n : Nat) : Prop :=
  ∀ b, s.block? n = some b → ∃ c, t.block? n = some c ∧ c.ring = b.ring

theorem State.SameRing.of_blocks {s t : State} {n : Nat} (h : t.blocks = s.blocks) : s.SameRing t n := fun b hb =>
  ⟨b, by rw [State.block?, h]; exact hb, rfl⟩

theorem State.SameRing.trans {s t u : State} {n : Nat} (h : s.SameRing t n) (h' : t.SameRing u n) : s.SameRing u n := fun b hb => by
  obtain ⟨c, hc, hr⟩ := h b hb
  obtain ⟨d, hd, hr'⟩ := h' c hc
  exact ⟨d, hd, hr'.trans hr⟩

theorem State.SameRing.of_map {s t : State} {n : Nat} {f : Block → Block} (h : t.blocks = s.blocks.map f)
    (hbid : ∀ b, (f b).bid = b.bid) (hring : ∀ b, (f b).ring = b.ring) : s.SameRing t n := fun b hb =>
  ⟨f b, by
    rw [State.block?, h, find?_map_all Block.bid f hbid]
    exact congrArg (Option.map f) hb, hring b⟩

theorem State.sameRing_taintKept (s : State) (as : List Nat) (n : Nat) : s.SameRing (s.taintKept as) n :=
  .of_map (s := s) (f := fun b => if b.savedOps.isEmpty then b
      else { b with savedOps := b.savedOps.map fun (o : EngOp) => { o with taint := o.taint ++ o.keptNames s as } }) rfl
    (fun b => by split <;> rfl) (fun b => by split <;> rfl)

section
variable {s u : State} {o : EngOp}

@[simp] theorem State.finish_ops (oc v : Nat) (m : Bool) : (u.finish o oc v m).ops = u.ops.filter fun k => k.id != o.id := by
  rw [State.finish_frame]

@[simp] theorem State.finish_busy (oc v : Nat) (m : Bool) : (u.finish o oc v m).busy = u.busy.filter fun k => k.op != o.id := by
  rw [State.finish_frame]

@[simp] theorem State.finish_empty (oc v : Nat) (m : Bool) : (u.finish o oc v m).empty = u.empty := by
  rw [State.finish_frame]

theorem State.finish_block? {b : Block} (oc v : Nat) (m : Bool) (hb : u.block? o.block = some b) :
    (u.finish o oc v m).block? o.block = some (b.resolve o.handle oc v m) := by
  have h : (u.finish o oc v m).blocks = (u.resolve o.block o.handle oc v m).blocks := by rw [State.finish_frame]
  rw [State.block?, h]
  refine (State.block?_modBlock u o.block o.block (fun b => b.resolve o.handle oc v m) fun _ => rfl).trans ?_
  rw [hb]
  simp

/-- An operation that ends after what left the operations' numbers and its block's ring as they were. -/
theorem ended_finish {b : Block} {oc v : Nat} {m : Bool} (hb : s.block? o.block = some b) (hops : s.SameOps u)
    (hring : s.SameRing u o.block) : Ended s (u.finish o oc v m) o b oc v m := by
  refine ⟨fun q hq => ?_, fun k hk => ?_, fun q hne hq => ?_, ?_⟩
  · rw [State.finish_ops] at hq
    simpa using (List.mem_filter.1 hq).2
  · rw [State.finish_busy] at hk
    simpa using (List.mem_filter.1 hk).2
  · obtain ⟨q', hq', hid⟩ := hops q hq
    refine ⟨q', ?_, hid⟩
    rw [State.finish_ops]
    exact List.mem_filter.2 ⟨hq', by simpa [hid] using hne⟩
  · obtain ⟨c, hc, hr⟩ := hring b hb
    exact ⟨_, State.finish_block? oc v m hc, by rw [Block.resolve, Block.resolve, hr]⟩

end

-- What landing does where nothing has tainted the operation.

section
variable {s : State} {o : EngOp}

theorem foldl_clearTags_frame (as : List Nat) (s : State) :
    as.foldl (fun s a => s.clearTags a 1) s = { s with tags := (as.foldl (fun s a => s.clearTags a 1) s).tags } := by
  induction as generalizing s with
  | nil => rfl
  | cons a r ih => rw [List.foldl_cons, ih]; rfl

/-- Bytes written at a destination, the tags of their lines gone. -/
def State.written (s : State) (cells : List (Nat × Byte)) : State :=
  (cells.map Prod.fst).foldl (fun (s : State) a => s.clearTags a 1) { s with mem := s.mem.writeAll cells }

theorem State.written_frame (cells : List (Nat × Byte)) :
    s.written cells = { s with mem := s.mem.writeAll cells, tags := (s.written cells).tags } := by
  unfold State.written
  rw [foldl_clearTags_frame]

/-- What `land` leaves, when nothing has tainted the operation. -/
def State.landed (s : State) (o : EngOp) (cells : List (Nat × Byte)) : State :=
  (((s.written cells).taint o.id (cells.map Prod.fst)).markStores o (cells.map Prod.fst)).setFull
    (addrGranules (cells.map Prod.fst))

theorem State.land_eq_landed (cells : List (Nat × Byte)) (ht : o.taint = []) (ho : o.own = []) :
    s.land o cells = s.landed o cells := by
  have hg : addrGranules [] = [] := rfl
  have hid : cells.mapIdx (fun _ p => (p.1, p.2)) = cells := List.ext_getElem (by simp) fun i h1 h2 => by simp
  have hany : (cells.any fun _ => false) = false := by simp
  unfold State.land
  simp only [ht, ho, List.append_nil, hg, List.filter_nil, List.flatMap_nil, List.map_nil, List.contains_nil, Bool.and_false,
    Bool.or_false, Bool.false_eq_true, if_false, hany, hid]
  rfl

@[simp] theorem State.landed_mem (cells : List (Nat × Byte)) : (s.landed o cells).mem = s.mem.writeAll cells := by
  have h : (s.landed o cells).mem = (s.written cells).mem := rfl
  rw [h, State.written_frame]

theorem State.mem_landed_empty (cells : List (Nat × Byte)) (n : Nat) :
    n ∈ (s.landed o cells).empty ↔ n ∈ s.empty ∧ n ∉ addrGranules (cells.map Prod.fst) := by
  have h : (s.landed o cells).empty = (s.written cells).empty.filter fun g => !(addrGranules (cells.map Prod.fst)).contains g :=
    rfl
  rw [h, State.written_frame]
  simp

theorem State.landed_sameOps (cells : List (Nat × Byte)) : s.SameOps (s.landed o cells) := by
  have h : (s.landed o cells).ops = (s.written cells).ops.map fun q =>
      if q.id == o.id then q else { q with taint := q.taint ++ cells.map Prod.fst } := rfl
  rw [State.written_frame] at h
  exact .of_map h fun q => by split <;> rfl

theorem State.landed_sameRing (cells : List (Nat × Byte)) (n : Nat) : s.SameRing (s.landed o cells) n := by
  have hu : (s.written cells).blocks = s.blocks := by rw [State.written_frame]
  refine State.SameRing.trans (t := s.written cells) (.of_blocks hu) ?_
  exact State.sameRing_taintKept { s.written cells with ops := (s.written cells).ops.map fun q =>
    if q.id == o.id then q else { q with taint := q.taint ++ cells.map Prod.fst } } (cells.map Prod.fst) n

end

-- Boxes read where none of their bytes is undefined.

section
variable {s t : State} {o : EngOp} {x : Box}

theorem State.boxBytes_clean (hd : s.boxDirty o x = []) (ho : o.overr = []) : s.boxBytes o x = (boxData s x, s) := by
  unfold State.boxBytes
  rw [hd, ho]
  simp only [List.contains_nil, Bool.false_eq_true, if_false, List.isEmpty_nil, if_true, boxData, oldByte, List.find?_nil]
  congr 1
  exact List.ext_getElem (by simp) fun i h1 h2 => by simp

theorem State.Counted.boxDirty (h : s.Counted t) : t.boxDirty o x = s.boxDirty o x := by
  rw [h]
  rfl

theorem State.Counted.boxData (h : s.Counted t) : boxData t x = boxData s x := by
  rw [h]
  rfl

theorem State.Counted.addrOf (h : s.Counted t) (l : Loc) : t.addrOf l = s.addrOf l := by
  rw [h]
  rfl

end

end Sys2Proof.Machine

namespace Sys2Proof.Machine
open Sys2Proof.Claims

-- Requests to a peer change no operation and no byte.

/-- `t` is `s` but for what has been sent to peers. -/
def State.Sent (s t : State) : Prop := t = { s with ports := t.ports, peerReqs := t.peerReqs, usedPorts := t.usedPorts }

section
variable {s t u : State}

theorem State.Sent.refl (s : State) : s.Sent s := rfl

theorem State.Sent.trans (h : s.Sent t) (h' : t.Sent u) : s.Sent u := by
  unfold State.Sent at *
  rw [h', h]

theorem State.Sent.foldl {α : Type} {f : State → α → State} (hf : ∀ (s : State) a, s.Sent (f s a)) (l : List α) (s : State) :
    s.Sent (l.foldl f s) := by
  induction l generalizing s with
  | nil => exact .refl s
  | cons a l ih => exact (hf s a).trans (ih _)

theorem State.Sent.ops (h : s.Sent t) : t.ops = s.ops := by rw [h]
theorem State.Sent.mem (h : s.Sent t) : t.mem = s.mem := by rw [h]

theorem State.sent_peerRequest (core peer : Nat) (r : Path) (port : Option Nat) (who : PeerWho) (h : Head) (body : List Nat) :
    s.Sent (s.peerRequest core peer r port who h body) := by
  unfold State.peerRequest
  dsimp only
  split
  · rfl
  · unfold State.sentBy
    split <;> rfl

theorem State.sent_submitPeer (core peer : Nat) (route : Option Path) (who : PeerWho) (h : Head) (bs : List Byte) :
    s.Sent (s.submitPeer core peer route who h bs) := State.sent_peerRequest ..

theorem State.sent_readPeer (o : EngOp) (k : Nat) (x : Box) (offs : List Nat) : s.Sent (s.readPeer o k x offs) := by
  unfold State.readPeer
  split
  · exact State.Sent.foldl (fun s p => State.sent_submitPeer ..) _ s
  · exact .refl s

end

-- The start of a copy (R324).

section
variable {s : State} {id : Nat} {o : EngOp}

/-- An operation has started. -/
def EngOp.started (o : EngOp) : EngOp := { o with st := .started }

/-- A copy that starts asks for the bytes that its boxes hold on peers. -/
def State.startCopy (s : State) (id : Nat) (o : EngOp) : State :=
  o.dst.toList.foldl (fun s x => s.readPeer o 3 x x.halfBytes) <|
    o.srcB.toList.foldl (fun s x => s.readPeer o 2 x x.offsets) <|
      o.srcA.toList.foldl (fun s x => s.readPeer o 1 x x.offsets) (s.modOp id EngOp.started)

/-- The copy is the oldest queued of its core's engine. -/
def State.copyFront (s : State) (id : Nat) (o : EngOp) : Bool :=
  s.ops.all fun q => !(q.stack == o.stack && q.core == o.core && decide (q.id < id) && q.kind.isCopy && q.st == .queued)

theorem State.copyFront_iff : s.copyFront id o = true ↔
    ∀ q ∈ s.ops, q.stack = o.stack → q.core = o.core → q.id < id → q.kind.isCopy = true → q.st ≠ .queued := by
  rw [State.copyFront, List.all_eq_true]
  refine forall₂_congr fun q _ => ?_
  simp only [Bool.not_eq_true', Bool.and_eq_false_imp, beq_iff_eq, decide_eq_true_eq, beq_eq_false_iff_ne, Bool.and_eq_true, and_imp]

theorem exec_copyStart (ho : s.op? id = some o) : exec (.copyStart id) s = .next (
    if !o.kind.isCopy || o.st != .queued || !s.copyFront id o || s.opMoving o ||
      (o.dests s ++ o.srcA.toList ++ o.srcB.toList).any (s.boxWaits false o) then s else s.startCopy id o) := by
  dsimp only [exec, execCopyStart]
  rw [ho] <;> rfl

theorem State.sent_startCopy : (s.modOp id EngOp.started).Sent (s.startCopy id o) :=
  ((State.Sent.foldl (fun _ _ => State.sent_readPeer ..) _ _).trans (State.Sent.foldl (fun _ _ => State.sent_readPeer ..) _ _)).trans
    (State.Sent.foldl (fun _ _ => State.sent_readPeer ..) _ _)

theorem State.op?_modOp {f : EngOp → EngOp} (hf : ∀ q, (f q).id = q.id) (ho : s.op? id = some o) : (s.modOp id f).op? id = some (f o) := by
  have h := find?_map_key EngOp.id f hf s.ops id id
  refine h.trans ?_
  rw [show s.ops.find? (fun q => EngOp.id q == id) = some o from ho]
  simp

theorem copyStart_waits (ho : s.op? id = some o) {y : Box} (hy : y ∈ o.dests s ++ o.srcA.toList ++ o.srcB.toList)
    (hw : s.boxWaits false o y = true) : exec (.copyStart id) s = .next s := by
  rw [exec_copyStart ho]
  refine congrArg Host.Outcome.next (if_pos ?_)
  rw [List.any_eq_true.2 ⟨y, hy, hw⟩, Bool.or_true]

theorem copyStart_behind (ho : s.op? id = some o)
    (hq : ∃ q ∈ s.ops, q.stack = o.stack ∧ q.core = o.core ∧ q.id < id ∧ q.kind.isCopy = true ∧ q.st = .queued) :
    exec (.copyStart id) s = .next s := by
  rw [exec_copyStart ho]
  refine congrArg Host.Outcome.next (if_pos ?_)
  have hf : s.copyFront id o = false := by
    refine Bool.eq_false_iff.2 fun h => ?_
    obtain ⟨q, hq, hs, hc, hi, hk, hst⟩ := hq
    exact State.copyFront_iff.1 h q hq hs hc hi hk hst
  simp [hf]

theorem copyStart_starts (ho : s.op? id = some o) (hk : o.kind.isCopy = true) (hst : o.st = .queued) (hm : s.opMoving o = false)
    (hw : ∀ y, y ∈ o.dests s ++ o.srcA.toList ++ o.srcB.toList → s.boxWaits false o y = false)
    (hq : ∀ q ∈ s.ops, q.stack = o.stack → q.core = o.core → q.id < id → q.kind.isCopy = true → q.st ≠ .queued) :
    ∃ t, exec (.copyStart id) s = .next t ∧ SameMemory s t ∧ t.op? id = some { o with st := .started } := by
  refine ⟨s.startCopy id o, ?_, fun a => ?_, ?_⟩
  · rw [exec_copyStart ho]
    refine congrArg Host.Outcome.next (if_neg ?_)
    have hany : (o.dests s ++ o.srcA.toList ++ o.srcB.toList).any (s.boxWaits false o) = false :=
      List.any_eq_false.2 fun y hy => by simp [hw y hy]
    rw [hk, hst, hm, hany, State.copyFront_iff.2 hq]
    exact Bool.false_ne_true
  · rw [State.sent_startCopy.mem]
    rfl
  · rw [State.op?, State.sent_startCopy.ops]
    exact State.op?_modOp (f := EngOp.started) (fun _ => rfl) ho

end

-- Its completion (R325 to R327).

section
variable {s t : State} {id : Nat} {o : EngOp} {d x : Box}

/-- The bytes a copy writes in a destination, where none of its sources' bytes is undefined. -/
def State.copyData (s : State) (o : EngOp) (x y : Box) : List (Nat × Byte) :=
  match o.kind, o.srcB with
  | .coll op, some z => collCells op y x z (boxData s x) (boxData s z)
  | _, _ => copyCells y x (boxData s x) fun off => s.mem.read (s.addrOf (y.loc off))

/-- The bytes a copy writes, at their addresses. -/
def State.copyBytes (s : State) (o : EngOp) (x : Box) : List (Nat × Byte) :=
  (o.dests s).flatMap fun y => (s.copyData o x y).map fun p => (s.addrOf (y.loc p.1), p.2)

theorem dests_rcd (hd : o.dst = some d) {y : Box} (hy : y ∈ o.dests s) : y.rcd = d.rcd := by
  unfold EngOp.dests at hy
  rw [hd] at hy
  dsimp only at hy
  split at hy
  · obtain ⟨i, -, hi⟩ := List.mem_filterMap.1 hy
    obtain ⟨a, -, rfl⟩ := Option.map_eq_some_iff.1 hi
    rfl
  · rw [List.mem_singleton.1 hy]

/-- The sources of an operation whose bytes are all defined. -/
structure EngOp.Clean (o : EngOp) (s : State) (x : Box) : Prop where
  srcA : o.srcA = some x
  kindA : x.rcd.kind ≠ 3
  dirtyA : s.boxDirty o x = []
  srcB : ∀ y, o.srcB = some y → y.rcd.kind ≠ 3 ∧ s.boxDirty o y = []
  overr : o.overr = []

theorem EngOp.Clean.counted (h : o.Clean s x) (hc : s.Counted t) : o.Clean t x :=
  ⟨h.srcA, h.kindA, hc.boxDirty.trans h.dirtyA, fun y hy => ⟨(h.srcB y hy).1, hc.boxDirty.trans (h.srcB y hy).2⟩, h.overr⟩

theorem sourceData_clean {y : Box} (k : Nat) (hk : y.rcd.kind ≠ 3) (hd : s.boxDirty o y = []) (ho : o.overr = []) :
    s.sourceData o k y = (boxData s y, s) := by
  rw [State.sourceData, if_neg hk, State.boxBytes_clean hd ho]

theorem copySources_clean (h : o.Clean s x) :
    s.copySources o x = ((boxData s x, (o.srcB.map (boxData s)).getD []), s) := by
  unfold State.copySources
  rw [sourceData_clean 1 h.kindA h.dirtyA h.overr]
  rcases hb : o.srcB with _ | y
  · rfl
  · dsimp only
    rw [sourceData_clean 2 (h.srcB y hb).1 (h.srcB y hb).2 h.overr]
    rfl

theorem copyResult_eq {y : Box} (hy : y.rcd.kind ≠ 3) :
    s.copyResult o y x (boxData s x, (o.srcB.map (boxData s)).getD []) = s.copyData o x y := by
  unfold State.copyResult State.copyData
  simp only [if_neg hy]
  cases o.kind <;> cases o.srcB <;> rfl

theorem collDirty_clean {y : Box} (h : o.Clean s x) : s.collDirty o y = [] := by
  unfold State.collDirty
  split
  · dsimp only
    rw [if_pos]
    rcases hb : o.srcB with _ | z
    · simp [h.srcA, h.dirtyA]
    · simp [h.srcA, h.dirtyA, (h.srcB z hb).2]
  all_goals rfl

theorem freeSelf_clean {y : Box} {cells : List (Nat × Byte)} (h : o.Clean s x)
    (hr : ∀ z ∈ o.rivals y, ∀ p ∈ cells, ∀ k ∈ z.offsets, y.loc p.1 ≠ z.loc k) : s.freeSelf o y cells = (cells, s) := by
  have hfree : ∀ p ∈ cells, (((o.rivals y).flatMap fun z => z.offsets.map z.loc).contains (y.loc p.1) ||
      (s.collDirty o y).contains p.1) = false := by
    intro p hp
    rw [collDirty_clean h, List.contains_nil, Bool.or_false]
    rw [List.contains_eq_mem, decide_eq_false_iff_not]
    intro hm
    obtain ⟨z, hz, hm⟩ := List.mem_flatMap.1 hm
    obtain ⟨k, hk, he⟩ := List.mem_map.1 hm
    exact hr z hz p hp k hk he.symm
  unfold State.freeSelf
  dsimp only
  congr 1
  · refine List.ext_getElem (by simp) fun i h1 h2 => ?_
    rw [List.getElem_mapIdx]
    exact if_neg (by rw [hfree _ (List.getElem_mem h2)]; exact Bool.false_ne_true)
  · refine if_neg ?_
    rw [Bool.not_eq_true]
    exact List.any_eq_false.2 fun p hp => by rw [hfree p hp]; exact Bool.false_ne_true

theorem copyCellsAll_clean (h : o.Clean s x) (l : List Box) (hl : ∀ y ∈ l, y.rcd.kind ≠ 3)
    (hr : ∀ y ∈ l, ∀ z ∈ o.rivals y, ∀ p ∈ s.copyData o x y, ∀ k ∈ z.offsets, y.loc p.1 ≠ z.loc k) :
    s.copyCellsAll o x (boxData s x, (o.srcB.map (boxData s)).getD []) l = (l.map fun y => (y, s.copyData o x y), s) := by
  induction l with
  | nil => rfl
  | cons y l ih =>
    have hy := List.mem_cons_self (a := y) (l := l)
    rw [State.copyCellsAll, copyResult_eq (hl y hy), freeSelf_clean h (hr y hy),
      ih (fun z hz => hl z (List.mem_cons_of_mem _ hz)) fun z hz => hr z (List.mem_cons_of_mem _ hz)]
    rfl

theorem State.Counted.copyData (h : s.Counted t) (y : Box) : t.copyData o x y = s.copyData o x y := by
  rw [h]
  rfl

theorem State.freshenL1_frame (s : State) (o : EngOp) (d : Box) : s.freshenL1 o d = { s with l1 := (s.freshenL1 o d).l1 } := by
  have h : ∀ (l : List Nat) (s : State), l.foldl (fun s off => s.updateL1 (32 * o.stack + o.core) d.rcd.base off
      [s.mem.read (s.addrOf (d.loc off))]) s = { s with l1 := (l.foldl (fun (s : State) off =>
        s.updateL1 (32 * o.stack + o.core) d.rcd.base off [s.mem.read (s.addrOf (d.loc off))]) s).l1 } := by
    intro l
    induction l with
    | nil => exact fun s => rfl
    | cons off l ih => intro s; rw [List.foldl_cons, ih]; rfl
  unfold State.freshenL1
  split
  · exact h _ s
  · rfl

/-- A copy ends, its bytes landed. -/
def State.copied (s : State) (o : EngOp) (d : Box) (cells : List (Nat × Byte)) : State :=
  (((s.land o cells).freshenL1 o d).countWrites o d).finish o 1 cells.length false

theorem exec_copyCompletion (ho : s.op? id = some o) (hk : o.kind.isCopy = true) (hst : o.st = .started)
    (hp : s.peerPending id = false) (hw : ∀ y ∈ o.dests s, s.boxWaits true o y = false) (hd : o.dst = some d) (hd3 : d.rcd.kind ≠ 3)
    (hc : o.Clean s x)
    (hr : ∀ y ∈ o.dests s, ∀ z ∈ o.rivals y, ∀ p ∈ s.copyData o x y, ∀ k ∈ z.offsets, y.loc p.1 ≠ z.loc k) :
    exec (.copyCompletion id) s = .next ((s.countSources o).copied o d (s.copyBytes o x)) := by
  have hcs := s.counted_countSources o
  have hany : (o.dests s).any (s.boxWaits true o) = false := List.any_eq_false.2 fun y hy => by simp [hw y hy]
  dsimp only [exec, execCopyCompletion]
  rw [ho]
  dsimp only
  rw [hd, hc.srcA]
  dsimp only
  rw [hk, hst, hp, hany, copySources_clean (hc.counted hcs)]
  dsimp only
  rw [copyCellsAll_clean (hc.counted hcs) _ (fun y hy => by rw [dests_rcd hd hy]; exact hd3), if_neg hd3, if_neg (by decide),
    if_neg (by decide)]
  · have hcells : ((o.dests s).map fun y => (y, (s.countSources o).copyData o x y)).flatMap (fun y => y.2.map fun c =>
        (s.addrOf (y.1.loc c.1), c.2)) = s.copyBytes o x := by
      rw [List.flatMap_map]
      simp only [hcs.copyData]
      rfl
    rw [hcells]
    rfl
  · intro y hy z hz p hp
    rw [hcs.copyData] at hp
    exact hr y hy z hz p hp

theorem State.land_sameOps_of (hc : s.Counted t) (cells : List (Nat × Byte)) : s.SameOps (t.landed o cells) := fun q hq =>
  State.landed_sameOps (s := t) cells q (by rwa [hc.ops])

theorem copied_holds {b : Block} {cells : List (Nat × Byte)} (hc : s.Counted t) (hb : s.block? o.block = some b)
    (ht : o.taint = []) (ho : o.own = []) :
    (t.copied o d cells).mem = s.mem.writeAll cells ∧ Ended s (t.copied o d cells) o b 1 cells.length false ∧
      ∀ n, n ∈ (t.copied o d cells).empty ↔ n ∈ s.empty ∧ n ∉ addrGranules (cells.map Prod.fst) := by
  have hw := ((t.landed o cells).freshenL1 o d).counted_countWrites o d
  have hf := (t.landed o cells).freshenL1_frame o d
  rw [State.copied, State.land_eq_landed cells ht ho]
  generalize ((t.landed o cells).freshenL1 o d).countWrites o d = u at hw ⊢
  generalize (t.landed o cells).freshenL1 o d = v at hf hw
  refine ⟨?_, ended_finish hb (fun q hq => ?_) ?_, fun n => ?_⟩
  · rw [State.finish_mem, hw.mem, hf]
    exact (State.landed_mem (o := o) cells).trans (by rw [hc.mem])
  · rw [hw.ops, hf]
    exact State.land_sameOps_of hc cells q hq
  · refine State.SameRing.trans (t := t) (.of_blocks hc.blocks) (State.SameRing.trans (State.landed_sameRing (o := o) cells _) ?_)
    exact .of_blocks (by rw [hw.blocks, hf])
  · rw [State.finish_empty, hw.empty, hf]
    exact (State.mem_landed_empty (o := o) cells n).trans (by rw [hc.empty])

theorem copyCompletion_waits (ho : s.op? id = some o) (hd : o.dst = some d) (hx : o.srcA = some x)
    (h : o.st = .queued ∨ ∃ y ∈ o.dests s, s.boxWaits true o y = true) : exec (.copyCompletion id) s = .next s := by
  dsimp only [exec, execCopyCompletion]
  rw [ho]
  dsimp only
  rw [hd, hx]
  refine congrArg Host.Outcome.next (if_pos ?_)
  rcases h with h | ⟨y, hy, hw⟩
  · simp [h]
  · rw [List.any_eq_true.2 ⟨y, hy, hw⟩, Bool.or_true]

end

/-- Settles O32: a copy starts in the order of its queue; where no byte of its sources is undefined the cells it computes are those of
memory, and landing them writes them and nothing else. -/
theorem copiesComplete : Obligations.CopiesComplete := by
  refine ⟨fun s id o d x b ho hb hk hd hx => ⟨fun hst hm hw => ⟨fun hq => copyStart_starts ho hk hst hm hw hq, fun hq =>
    copyStart_behind ho hq⟩, copyCompletion_waits ho hd hx, fun y hy hw => copyStart_waits ho hy hw, ?_⟩, fun d x src old hd hf => ?_,
    fun a b => ⟨rfl, rfl, rfl, rfl⟩⟩
  · intro hst hp hw hd3 hx3 hsrcB hdirty ht hown hover data cells hr
    obtain ⟨hmem, hended, hempty⟩ := copied_holds (d := d) (cells := s.copyBytes o x) (s.counted_countSources o) hb ht hown
    exact ⟨_, exec_copyCompletion ho hk hst hp hw hd hd3 ⟨hx, hx3, hdirty, hsrcB, hover⟩ hr, hmem, hended, hempty⟩
  · unfold copyCells
    rw [hd, if_neg hf]
    rfl

end Sys2Proof.Machine

namespace Sys2Proof.Machine
open Sys2Proof.Claims

-- Bytes written at addresses each written with one value.

theorem Memory.read_writeAll_of_mem {a : Nat} {v : Byte} {l : List (Nat × Byte)} (hm : (a, v) ∈ l) (hu : ∀ p ∈ l, p.1 = a → p.2 = v) :
    ∀ {m : Memory}, m.wf = true → (m.writeAll l).read a = v := by
  induction l with
  | nil => cases hm
  | cons x l ih =>
    intro m hwf
    have hwf' := Memory.write_wf x.1 x.2 hwf
    rw [Memory.writeAll_cons]
    by_cases h : ∃ y ∈ l, y.1 = a
    · obtain ⟨y, hy, hya⟩ := h
      have hv := hu y (List.mem_cons_of_mem _ hy) hya
      exact ih (by rw [← hya, ← hv]; exact hy) (fun p hp => hu p (List.mem_cons_of_mem _ hp)) hwf'
    · have hx : x = (a, v) := by
        rcases List.mem_cons.1 hm with hx | hx
        · exact hx.symm
        · exact absurd ⟨_, hx, rfl⟩ h
      rw [Memory.read_writeAll_other l hwf' fun y hy hya => h ⟨y, hy, hya⟩, Memory.read_write _ _ _ hwf, hx, if_pos rfl]

/-- The bytes of an array of cells of `m` rows and `n` columns. -/
def cellBytesOf (m n : Nat) (at_ : Nat → Nat → Nat) (v : Nat → Nat → Word32) (g : Nat → Nat → Nat → Byte → Byte) : List (Nat × Byte) :=
  (List.range m).flatMap fun i => (List.range n).flatMap fun j =>
    (leBytes 4 (v i j).toNat).mapIdx fun q x => (at_ i j + q, g i j q x)

/-- Two cells share no byte. -/
def CellsApart (m n : Nat) (at_ : Nat → Nat → Nat) : Prop :=
  ∀ i j q i' j' q', i < m → j < n → q < 4 → i' < m → j' < n → q' < 4 → at_ i j + q = at_ i' j' + q' → i = i' ∧ j = j' ∧ q = q'

section
variable {m n : Nat} {at_ : Nat → Nat → Nat} {v : Nat → Nat → Word32} {g : Nat → Nat → Nat → Byte → Byte} {mem : Memory}

theorem mem_cellBytesOf {p : Nat × Byte} : p ∈ cellBytesOf m n at_ v g ↔
    ∃ i j q, i < m ∧ j < n ∧ q < 4 ∧ p = (at_ i j + q, g i j q ((leBytes 4 (v i j).toNat).getD q 0)) := by
  simp only [cellBytesOf, List.mem_flatMap, List.mem_range, List.mem_mapIdx, length_leBytes]
  constructor
  · rintro ⟨i, hi, j, hj, q, hq, rfl⟩
    exact ⟨i, j, q, hi, hj, hq, by simp [List.getD, List.getElem?_eq_getElem, length_leBytes, hq]⟩
  · rintro ⟨i, j, q, hi, hj, hq, rfl⟩
    exact ⟨i, hi, j, hj, q, hq, by simp [List.getD, List.getElem?_eq_getElem, length_leBytes, hq]⟩

theorem read_cellBytesOf (hwf : mem.wf = true) (hap : CellsApart m n at_) {i j q : Nat} (hi : i < m) (hj : j < n) (hq : q < 4) :
    (mem.writeAll (cellBytesOf m n at_ v g)).read (at_ i j + q) = g i j q ((leBytes 4 (v i j).toNat).getD q 0) := by
  refine Memory.read_writeAll_of_mem (mem_cellBytesOf.2 ⟨i, j, q, hi, hj, hq, rfl⟩) (fun p hp he => ?_) hwf
  obtain ⟨i', j', q', hi', hj', hq', rfl⟩ := mem_cellBytesOf.1 hp
  obtain ⟨rfl, rfl, rfl⟩ := hap i' j' q' i j q hi' hj' hq' hi hj hq he
  rfl

theorem read_cellBytesOf_other (hwf : mem.wf = true) {a : Nat} (ha : ∀ i j, i < m → j < n → a < at_ i j ∨ at_ i j + 4 ≤ a) :
    (mem.writeAll (cellBytesOf m n at_ v g)).read a = mem.read a := by
  refine Memory.read_writeAll_other _ hwf fun p hp => ?_
  obtain ⟨i, j, q, hi, hj, hq, rfl⟩ := mem_cellBytesOf.1 hp
  have := ha i j hi hj
  dsimp only
  omega

/-- A cell of an array reads as the word written there. -/
theorem cell_cellBytesOf (hwf : mem.wf = true) (hap : CellsApart m n at_) {i j : Nat} (hi : i < m) (hj : j < n) :
    BitVec.ofNat 32 (leNat ((mem.writeAll (cellBytesOf m n at_ v fun _ _ _ x => x)).readBytes (at_ i j) 4)) = v i j := by
  have hb : (mem.writeAll (cellBytesOf m n at_ v fun _ _ _ x => x)).readBytes (at_ i j) 4 = leBytes 4 (v i j).toNat := by
    refine List.ext_getElem (by simp [length_leBytes]) fun q h1 h2 => ?_
    rw [Memory.length_readBytes] at h1
    simp only [Memory.readBytes_eq, List.getElem_map, List.getElem_range, read_cellBytesOf hwf hap hi hj h1]
    simp [List.getD, List.getElem?_eq_getElem, h2]
  rw [hb, leNat_leBytes ((v i j).isLt.trans_le (by norm_num))]
  simp

end

-- The cells of a run of tiles.

theorem mRows_le (mf : Nat) : mRows mf ≤ 256 := by
  unfold mRows
  split
  · decide
  · split <;> decide

theorem cellAddr_apart {core nf m : Nat} {tiles : List Nat} (hm : m ≤ 256) (hnd : tiles.Nodup) (hlen : tiles.length = nf + 1) :
    CellsApart m (16 * (nf + 1)) (cellAddr core tiles) := by
  intro i j q i' j' q' hi hj hq hi' hj' hq' he
  have hk : j / 16 < tiles.length := by omega
  have hk' : j' / 16 < tiles.length := by omega
  have hcell : tiles[j / 16] = tiles[j' / 16] ∧ i = i' ∧ j % 16 = j' % 16 ∧ q = q' := by
    simp only [cellAddr, accAddr, List.getD, List.getElem?_eq_getElem hk, List.getElem?_eq_getElem hk', Option.getD_some] at he
    have h1 : j % 16 < 16 := Nat.mod_lt _ (by decide)
    have h2 : j' % 16 < 16 := Nat.mod_lt _ (by decide)
    omega
  obtain ⟨ht, rfl, hmod, rfl⟩ := hcell
  have hdiv := (List.Nodup.getElem_inj_iff hnd).1 ht
  exact ⟨rfl, by omega, rfl⟩

end Sys2Proof.Machine

namespace Sys2Proof.Machine
open Sys2Proof.Claims

-- Clearing tiles.

section
variable {s : State} {c : Issue} {b : Block} {w : Warp} {g : Guard}

/-- Memory with tiles of a core cleared. -/
def Memory.clearTiles (m : Memory) (core : Nat) (tiles : List Nat) : Memory :=
  tiles.foldl (fun m t => m.clear (accAddr core t 0 0) 16384) m

theorem Memory.read_clearTiles_of_mem {core a t : Nat} {tiles : List Nat} (ht : t ∈ tiles) (h1 : accAddr core t 0 0 ≤ a)
    (h2 : a < accAddr core t 0 0 + 16384) : ∀ {m : Memory}, (m.clearTiles core tiles).read a = 0 := by
  induction tiles with
  | nil => cases ht
  | cons k r ih =>
    intro m
    rcases List.mem_cons.1 ht with rfl | ht
    · exact Memory.read_foldClear_zero r ((Memory.read_clear ..).trans (if_pos ⟨h1, h2⟩))
    · exact ih ht

theorem Memory.read_clearTiles_other {core a : Nat} {tiles : List Nat}
    (h : ∀ t ∈ tiles, a < accAddr core t 0 0 ∨ accAddr core t 0 0 + 16384 ≤ a) :
    ∀ {m : Memory}, (m.clearTiles core tiles).read a = m.read a := by
  induction tiles with
  | nil => intro m; rfl
  | cons k r ih =>
    intro m
    refine (ih (fun t ht => h t (List.mem_cons_of_mem _ ht))).trans ((Memory.read_clear ..).trans (if_neg ?_))
    have := h k List.mem_cons_self
    omega

theorem exec_mzero (hi : Issuing s c b w) (hg : qGuard w g = true) (acc nt : Nat) : exec (.mzero g acc nt) s = .next
    { s with uid := s.uid + 1, mem := s.mem.clearTiles (coreId b w) (b.tiles w.core acc nt),
             busy := s.busy ++ (b.tiles w.core acc nt).map fun t =>
               { core := coreId b w, tile := t, op := s.uid, mmac := false, write := true, until_ := c.cycle + 4 * (nt + 1) } } := by
  dsimp only [exec, execMzero]
  rw [uniOp_runs hi hg rfl]
  rfl

theorem tilesCleared_holds : TilesCleared := by
  intro s c b w g acc nt id hi hg
  refine ⟨⟨_, exec_mzero hi hg acc nt, fun k hk j hj => ?_, fun a ha => ?_, fun k hk => ?_, rfl⟩, ?_, _, rfl, rfl, fun k => ?_⟩
  · exact Memory.read_clearTiles_of_mem hk (Nat.le_add_right _ _) (Nat.add_lt_add_left hj _)
  · exact Memory.read_clearTiles_other ha
  · exact List.mem_append_right _ (List.mem_map.2 ⟨k, hk, rfl⟩)
  · dsimp only [WarpBecomes, exec, execMready]
    rw [uniOp_runs hi hg rfl]
    rfl
  · simp only [List.mem_filter, State.zeroDone, Bool.not_eq_true', Bool.and_eq_false_iff, beq_eq_false_iff_ne,
      decide_eq_false_iff_not, bne_eq_false_iff_eq]
    cases k.mmac <;> cases k.write <;> simp <;> tauto

end

-- The bytes of a box.

theorem operandBytes_holds : OperandBytes := by
  intro s o x
  refine ⟨fun off => ?_, fun q a => ?_, ?_, fun off v hv hd => ?_, fun hd => ?_⟩
  · simp only [State.boxDirty, List.mem_filter, Bool.or_eq_true, List.contains_iff_mem, List.mem_flatMap, bne_iff_ne]
    refine and_congr_right fun _ => or_congr_right ?_
    exact ⟨fun ⟨q, ⟨hq, hne⟩, hm⟩ => ⟨q, hq, hne, hm⟩, fun ⟨q, hq, hne, hm⟩ => ⟨q, ⟨hq, hne⟩, hm⟩⟩
  · simp only [State.opHot, List.mem_append]
    refine or_congr_right ?_
    simp only [List.mem_flatMap, List.mem_filter, List.contains_iff_mem, List.mem_map, List.mem_range]
    constructor
    · rintro ⟨g, ⟨h1, h2⟩, k, hk, rfl⟩
      exact ⟨g, k, h2, h1, hk, rfl⟩
    · rintro ⟨g, k, h2, h1, hk, rfl⟩
      exact ⟨g, ⟨h1, h2⟩, k, hk, rfl⟩
  · exact List.ext_getElem (by simp [State.boxBytes]) fun i h1 h2 => by simp [State.boxBytes]
  · obtain ⟨i, hi, he⟩ := List.mem_mapIdx.1 hv
    obtain ⟨rfl, hval⟩ := Prod.mk.inj he
    have hn : (s.boxDirty o x).contains x.offsets[i] = false := by
      rw [List.contains_eq_mem, decide_eq_false_iff_not]
      exact hd
    rw [← hval, hn]
    unfold oldByte
    generalize o.overr.find? _ = r
    cases r <;> rfl
  · simp [State.boxBytes, hd]

-- `mmac`.

section
variable {s u : State} {id acc nf mf : Nat} {pair : MPair} {pro : Bool} {o : EngOp} {xa xb : Box} {b : Block}

theorem exec_mmacStart (ho : s.op? id = some o) (hk : o.kind = .mmac acc nf mf pair pro) : exec (.mmacStart id) s = .next (
    if o.st != .queued || decide (s.opCycle o + accCycles nf mf pair + 24 < o.last) || s.opMoving o ||
      s.mmacBefore o (fun q => q.st == .queued) || s.loadsBefore o.block o.warp o.id then s
    else (s.modOp id fun o => { o with st := .started }).observe 1 (s.opAge o) o.block o.warp) := by
  have hc : o.mmacCycles = some (accCycles nf mf pair) := by rw [EngOp.mmacCycles, hk] <;> rfl
  dsimp only [exec, execMmacStart]
  rw [ho]
  dsimp only
  rw [hc] <;> rfl

/-- The images of the rows of operand A and of the columns of operand B, and whether their blocks are malformed. -/
def mmacRow (pair : MPair) (xa : Box) (A : List (Nat × Byte)) (i : Nat) : List (XVal × Bool) :=
  (List.range (pairK pair)).map fun q => operandAt pair false xa A q i
def mmacCol (pair : MPair) (xb : Box) (B : List (Nat × Byte)) (j : Nat) : List (XVal × Bool) :=
  (List.range (pairK pair)).map fun q => operandAt pair true xb B j q

/-- A block of an operand is malformed. -/
def mmacMal (pair : MPair) (m n : Nat) (xa xb : Box) (A B : List (Nat × Byte)) : Bool :=
  ((List.range m).map (mmacRow pair xa A)).any (fun r => r.any (·.2)) || ((List.range n).map (mmacCol pair xb B)).any fun r => r.any (·.2)

theorem mmacMal_iff {m n : Nat} {A B : List (Nat × Byte)} : mmacMal pair m n xa xb A B = true ↔
    ∃ i q, q < pairK pair ∧ ((i < m ∧ ((mmacRow pair xa A i).map (·.2))[q]? = some true) ∨
      (i < n ∧ ((mmacCol pair xb B i).map (·.2))[q]? = some true)) := by
  have hany : ∀ {l : List (XVal × Bool)}, l.length = pairK pair →
      (l.any (·.2) = true ↔ ∃ q, q < pairK pair ∧ (l.map (·.2))[q]? = some true) := by
    intro l hl
    rw [List.any_eq_true]
    constructor
    · rintro ⟨p, hp, hv⟩
      obtain ⟨q, hq, rfl⟩ := List.mem_iff_getElem.1 hp
      exact ⟨q, hl ▸ hq, by simp [hq, hv]⟩
    · rintro ⟨q, hq, hv⟩
      have hq' : q < l.length := hl ▸ hq
      exact ⟨l[q], List.getElem_mem hq', by simpa [hq'] using hv⟩
  have hrow : ∀ i, (mmacRow pair xa A i).length = pairK pair := fun i => by simp [mmacRow]
  have hcol : ∀ i, (mmacCol pair xb B i).length = pairK pair := fun i => by simp [mmacCol]
  simp only [mmacMal, Bool.or_eq_true, List.any_eq_true (l := List.map _ _), List.mem_map, List.mem_range, exists_exists_and_eq_and,
    hany (hrow _), hany (hcol _)]
  constructor
  · rintro (⟨i, hi, q, hq, h⟩ | ⟨i, hi, q, hq, h⟩)
    · exact ⟨i, q, hq, .inl ⟨hi, h⟩⟩
    · exact ⟨i, q, hq, .inr ⟨hi, h⟩⟩
  · rintro ⟨i, q, hq, ⟨hi, h⟩ | ⟨hi, h⟩⟩
    · exact .inl ⟨i, hi, q, hq, h⟩
    · exact .inr ⟨i, hi, q, hq, h⟩

/-- The word of a cell. -/
def State.mmacCell (s : State) (pair : MPair) (pro : Bool) (at_ : Nat → Nat → Nat) (row col : Nat → List (XVal × Bool)) (i j : Nat) : Word32 :=
  cellSum pair ((row i).map (·.1)) ((col j).map (·.1)) (if pro then 0 else s.cell (at_ i j))

/-- The bytes an `mmac` writes. -/
def State.mmacBytes (s : State) (bad : Bool) (pair : MPair) (pro : Bool) (m n : Nat) (at_ : Nat → Nat → Nat)
    (row col : Nat → List (XVal × Bool)) : List (Nat × Byte) :=
  cellBytesOf m n at_ (s.mmacCell pair pro at_ row col) fun i j q x =>
    if bad then Config.freeByte (s.freeCtr + (4 * (n * i + j) + q)) else x

/-- The bytes the model writes are those, its rows and columns read from lists. -/
theorem mmacBytes_eq {bad : Bool} {m n : Nat} {at_ : Nat → Nat → Nat} {row col : Nat → List (XVal × Bool)} :
    ((List.range m).flatMap fun i => (List.range n).flatMap fun j =>
      (leBytes 4 (cellSum pair ((((List.range m).map row).getD i []).map (·.1)) ((((List.range n).map col).getD j []).map (·.1))
        (if pro then 0 else s.cell (at_ i j))).toNat).mapIdx fun q x =>
          (at_ i j + q, if bad then Config.freeByte (s.freeCtr + (4 * (n * i + j) + q)) else x)) =
      s.mmacBytes bad pair pro m n at_ row col := by
  refine List.flatMap_congr fun i hi => List.flatMap_congr fun j hj => ?_
  rw [List.mem_range] at hi hj
  simp [State.mmacCell, List.getD, hi, hj]

/-- An `mmac` has ended: its cells stand, its operands' bytes counted. -/
def State.mmacWritten (s : State) (bad : Bool) (m n : Nat) (cells : List (Nat × Byte)) : State :=
  { s with mem := s.mem.writeAll cells, freeCtr := if bad then s.freeCtr + 4 * (m * n) else s.freeCtr }
def State.mmacDone (s : State) (o : EngOp) (xa xb : Box) (bad mal : Bool) (m n : Nat) (cells : List (Nat × Byte)) : State :=
  (((s.mmacWritten bad m n cells).countBox o xa).countBox o xb).finish o 1 0 mal

theorem exec_mmacCompletion (ho : s.op? id = some o) (hk : o.kind = .mmac acc nf mf pair pro) (hb : s.block? o.block = some b)
    (hxa : o.srcA = some xa) (hxb : o.srcB = some xb) (hst : o.st = .started) (hl : o.last + 6 ≤ s.opCycle o)
    (hbefore : s.mmacBefore o (fun _ => true) = false) :
    let pa := s.boxBytes o xa
    let pb := pa.2.boxBytes o xb
    let bad := !(pb.2.boxDirty o xa).isEmpty || !(pb.2.boxDirty o xb).isEmpty
    let m := mRows mf
    let n := 16 * (nf + 1)
    exec (.mmacCompletion id) s = .next (pb.2.mmacDone o xa xb bad (mmacMal pair m n xa xb pa.1 pb.1) m n
      (pb.2.mmacBytes bad pair pro m n (cellAddr (32 * o.stack + o.core) (b.tiles o.core acc nf)) (mmacRow pair xa pa.1)
        (mmacCol pair xb pb.1))) := by
  intro pa pb bad m n
  have hcond : (o.st != .started || decide (s.opCycle o < o.last + 6) || s.mmacBefore o fun _ => true) = false := by
    simp [hst, hl, hbefore]
  dsimp only [exec, execMmacCompletion]
  rw [ho]
  dsimp only
  rw [hk, hxa, hxb, hb]
  dsimp only
  rw [hcond, ← mmacBytes_eq]
  rfl

theorem mmacCompletion_waits (ho : s.op? id = some o) (hk : o.kind = .mmac acc nf mf pair pro) (hb : s.block? o.block = some b)
    (hxa : o.srcA = some xa) (hxb : o.srcB = some xb) (hl : s.opCycle o < o.last + 6) : exec (.mmacCompletion id) s = .next s := by
  dsimp only [exec, execMmacCompletion]
  rw [ho]
  dsimp only
  rw [hk, hxa, hxb, hb]
  exact congrArg Host.Outcome.next (if_pos (by simp [hl]))

theorem State.counted_mmac (s : State) (o : EngOp) (xa xb : Box) : s.Counted (((s.boxBytes o xa).2.boxBytes o xb).2) :=
  (s.counted_boxBytes o xa).trans (State.counted_boxBytes ..)

/-- What the end of an `mmac` leaves. -/
theorem mmacDone_holds (hc : s.Counted u) (hb : s.block? o.block = some b) (bad mal : Bool) (m n : Nat) (cells : List (Nat × Byte)) :
    (u.mmacDone o xa xb bad mal m n cells).mem = s.mem.writeAll cells ∧ Ended s (u.mmacDone o xa xb bad mal m n cells) o b 1 0 mal := by
  have hcount : (u.mmacWritten bad m n cells).Counted (((u.mmacWritten bad m n cells).countBox o xa).countBox o xb) :=
    (State.counted_countBox ..).trans (State.counted_countBox ..)
  unfold State.mmacDone
  generalize ((u.mmacWritten bad m n cells).countBox o xa).countBox o xb = v at hcount ⊢
  refine ⟨?_, ended_finish hb (.of_eq ?_) (.of_blocks ?_)⟩
  · rw [State.finish_mem, hcount.mem, State.mmacWritten, hc.mem]
  · rw [hcount.ops]
    exact hc.ops
  · rw [hcount.blocks]
    exact hc.blocks

theorem State.Counted.mmacCell (h : s.Counted u) {at_ : Nat → Nat → Nat} {row col : Nat → List (XVal × Bool)} (i j : Nat) :
    u.mmacCell pair pro at_ row col i j = s.mmacCell pair pro at_ row col i j := by
  rw [h]
  rfl

theorem matrixMultiply_holds : MatrixMultiply := by
  intro s id acc nf mf pair pro o xa xb b ho hk hb hxa hxb
  refine ⟨fun hst hl => ?_, fun hst hl hm hbef hld => ?_, fun hld => ?_, fun hl => mmacCompletion_waits ho hk hb hxa hxb hl,
    ?_, ?_⟩
  · exact (exec_mmacStart ho hk).trans (congrArg Host.Outcome.next (if_pos (by simp [hl])))
  · refine ⟨_, (exec_mmacStart ho hk).trans (congrArg Host.Outcome.next (if_neg ?_)), fun a => ?_, ?_⟩
    · simp [hst, hl, hm, hbef, hld]
    · rw [State.observe_mem]
      rfl
    · rw [State.op?, State.observe_frame]
      refine (find?_map_key EngOp.id (fun o => { o with st := .started }) (fun _ => rfl) s.ops id id).trans ?_
      rw [show s.ops.find? (fun q => EngOp.id q == id) = some o from ho]
      simp
  · exact (exec_mmacStart ho hk).trans (congrArg Host.Outcome.next (if_pos (by simp [hld])))
  · intro tiles core row col hst hl hbef hda hdb hov hnd hlen hwf
    have hpa : s.boxBytes o xa = (boxData s xa, s) := State.boxBytes_clean hda hov
    have hpb : s.boxBytes o xb = (boxData s xb, s) := State.boxBytes_clean hdb hov
    have he := exec_mmacCompletion ho hk hb hxa hxb hst hl hbef
    simp only [hpa, hpb, hda, hdb, List.isEmpty_nil, Bool.not_true, Bool.or_false] at he
    have hap : CellsApart (mRows mf) (16 * (nf + 1)) (cellAddr core tiles) := cellAddr_apart (mRows_le mf) hnd hlen
    obtain ⟨hmem, hended⟩ := mmacDone_holds (xa := xa) (xb := xb) (State.Counted.refl s) hb false
      (mmacMal pair (mRows mf) (16 * (nf + 1)) xa xb (boxData s xa) (boxData s xb)) (mRows mf) (16 * (nf + 1))
      (s.mmacBytes false pair pro (mRows mf) (16 * (nf + 1)) (cellAddr core tiles) row col)
    refine ⟨_, _, he, hended, fun i j hi hj => ?_, fun a ha => ?_, mmacMal_iff⟩
    · refine (congrArg (fun m => BitVec.ofNat 32 (leNat (Memory.readBytes m (cellAddr core tiles i j) 4))) hmem).trans ?_
      exact cell_cellBytesOf hwf hap hi hj
    · refine (congrArg (fun m => Memory.read m a) hmem).trans ?_
      exact read_cellBytesOf_other hwf ha
  · intro tiles at_ hst hl hbef hdirty hnd hlen hwf
    have hc := s.counted_mmac o xa xb
    have he := exec_mmacCompletion ho hk hb hxa hxb hst hl hbef
    have hbad : (!(((s.boxBytes o xa).2.boxBytes o xb).2.boxDirty o xa).isEmpty ||
        !(((s.boxBytes o xa).2.boxBytes o xb).2.boxDirty o xb).isEmpty) = true := by
      rw [hc.boxDirty, hc.boxDirty]
      rcases hdirty with h | h <;> simp [h]
    dsimp only at he
    rw [hbad] at he
    generalize mmacRow pair xa (s.boxBytes o xa).1 = row at he
    generalize mmacCol pair xb ((s.boxBytes o xa).2.boxBytes o xb).1 = col at he
    generalize ((s.boxBytes o xa).2.boxBytes o xb).2 = u at he hc
    generalize mmacMal _ _ _ _ _ _ _ = mal at he
    have hap : CellsApart (mRows mf) (16 * (nf + 1)) at_ := cellAddr_apart (mRows_le mf) hnd hlen
    obtain ⟨hmem, hended⟩ := mmacDone_holds (xa := xa) (xb := xb) hc hb true mal (mRows mf) (16 * (nf + 1))
      (u.mmacBytes true pair pro (mRows mf) (16 * (nf + 1)) at_ row col)
    refine ⟨_, mal, he, hended, fun i j q hi hj hq => ⟨u.freeCtr + (4 * (16 * (nf + 1) * i + j) + q), ?_⟩, fun a ha => ?_⟩
    · refine (congrArg (fun m => Memory.read m (at_ i j + q)) hmem).trans ?_
      exact read_cellBytesOf hwf hap hi hj hq
    · refine (congrArg (fun m => Memory.read m a) hmem).trans ?_
      exact read_cellBytesOf_other hwf ha

end

end Sys2Proof.Machine

namespace Sys2Proof.Machine
open Sys2Proof.Claims

-- Stored elements.

theorem FF.signed_lt {f : FF} {neg : Bool} {c : Nat} (h : c < 2 ^ (f.exp + f.man)) : f.signed neg c < 2 ^ (f.exp + f.man + 1) := by
  rw [FF.signed, Nat.pow_succ]
  split <;> omega

theorem FF.infCode_add_lt {f : FF} {k : Nat} (hk : k < 2 ^ f.man) : f.infCode + k < 2 ^ (f.exp + f.man) := by
  have he : (2 ^ f.exp - 1) * 2 ^ f.man + 2 ^ f.man = 2 ^ f.exp * 2 ^ f.man := by
    rw [← Nat.succ_mul, Nat.succ_eq_add_one, Nat.sub_add_cancel (Nat.one_le_pow ..)]
    exact Nat.two_pos
  rw [FF.infCode, Nat.pow_add]
  omega

theorem FF.infCode_lt {f : FF} : f.infCode < 2 ^ (f.exp + f.man) := FF.infCode_add_lt (k := 0) (Nat.pow_pos Nat.two_pos)

/-- A rounded value is a code of the format. -/
theorem FF.round_lt {f : FF} (hm : f.man ≠ 0) (rm : Rm) (x : XVal) : f.round rm x < 2 ^ (f.exp + f.man + 1) := by
  cases x with
  | nan =>
    refine (FF.infCode_add_lt (Nat.pow_lt_pow_right (by decide) (by omega))).trans ?_
    exact Nat.pow_lt_pow_right (by decide) (Nat.lt_succ_self _)
  | inf neg => exact FF.signed_lt FF.infCode_lt
  | fin neg n d =>
    have hinf := f.infCode_lt
    have hlast : ∀ b : Bool, (if b then f.infCode else f.infCode - 1) < 2 ^ (f.exp + f.man) := fun b => by split <;> omega
    unfold FF.round
    dsimp only
    split
    · exact FF.signed_lt ((by assumption : _ < f.infCode).trans hinf)
    · exact FF.signed_lt (hlast _)

theorem roundFp32_toNat (rm : Rm) (x : XVal) : (roundFp32 rm x).toNat = ffp32.round rm x := by
  rw [roundFp32, BitVec.toNat_ofNat]
  exact Nat.mod_eq_of_lt (FF.round_lt (by decide) rm x)

theorem intBits_eq (w : Nat) (i : Int) : intBits w i = (BitVec.ofInt w i).toNat := (BitVec.toNat_ofInt ..).symm

/-- The integer of a rounded whole number is that number, kept in its range. -/
theorem roundInt_ofInt (rm : Rm) (lo hi i : Int) : roundInt rm lo hi (.ofInt i) = max lo (min hi i) := by
  have hp : placeOf (2 * (i.natAbs % 1)) 1 (i.natAbs % 1 == 0) = .exact := by simp [placeOf, Nat.mod_one]
  have hv : (if decide (i < 0) = true then -(i.natAbs : Int) else i.natAbs) = i := by
    simp only [decide_eq_true_eq]
    split <;> omega
  simp only [roundInt, XVal.ofInt, hp, pickCode, Nat.div_one, hv]

theorem storedElements_holds : StoredElements := by
  intro rm w
  refine ⟨rfl, rfl, rfl, rfl, rfl, ?_, ?_, rfl, ?_, ?_, rfl⟩
  · exact intBits_eq ..
  · exact intBits_eq ..
  · exact (congrArg (intBits 8) (roundInt_ofInt ..)).trans (intBits_eq ..)
  · exact (roundFp32_toNat rm (.ofInt w.toInt)).symm

-- Moving tiles.

section
variable {s : State} {id acc nt mf : Nat} {fmt : Fmt} {rm : Rm} {src : Bool} {o : EngOp} {x : Box} {b : Block}

theorem exec_mstoreReadDone (ho : s.op? id = some o) (hk : o.kind = .mstore acc nt mf fmt rm src) :
    exec (.mstoreReadDone id) s = .next (if s.opCycle o < o.issue + moveCycles nt mf + 4 then s
      else { s.modOp id (fun o => { o with doneRd := true }) with busy := s.busy.filter fun k => k.op != id }) := by
  dsimp only [exec, execMstoreReadDone]
  rw [ho]
  dsimp only
  rw [hk] <;> rfl

theorem exec_mstoreLanding (ho : s.op? id = some o) (hk : o.kind = .mstore acc nt mf fmt rm src) (hd : o.dst = some x) :
    exec (.mstoreLanding id) s = .next (if decide (s.opCycle o < o.issue + moveCycles nt mf + 12) || s.boxWaits true o x then s
      else (s.land o o.image).finish o 1 o.image.length false) := by
  dsimp only [exec, execMstoreLanding]
  rw [ho]
  dsimp only
  rw [hk, hd] <;> rfl

theorem mstoreLanding_waits (ho : s.op? id = some o) (hk : o.kind = .mstore acc nt mf fmt rm src)
    (hl : s.opCycle o < o.issue + moveCycles nt mf + 12) : exec (.mstoreLanding id) s = .next s := by
  cases hd : o.dst with
  | some x => exact (exec_mstoreLanding ho hk hd).trans (congrArg Host.Outcome.next (if_pos (by simp [hl])))
  | none =>
    dsimp only [exec, execMstoreLanding]
    rw [ho]
    dsimp only
    rw [hk, hd]

/-- The bytes an `mload` brings into its cells. -/
def loadedCells (bytes : List (Nat × Byte)) (core : Nat) (tiles : List Nat) (x : Box) : List (Nat × Byte) :=
  x.elems.flatMap fun e => (List.range 4).map fun q => (cellAddr core tiles e.2 e.1 + q, byteAt bytes (x.off e.1 e.2 + q))

theorem length_loadedCells (bytes : List (Nat × Byte)) (core : Nat) (tiles : List Nat) (x : Box) :
    (loadedCells bytes core tiles x).length = 4 * x.elems.length := by
  rw [loadedCells, length_flatMap_const _ _ 4 fun _ => by rw [List.length_map, List.length_range]]

theorem exec_mloadCompletion (ho : s.op? id = some o) (hk : o.kind = .mload acc nt mf) (hx : o.srcA = some x)
    (hb : s.block? o.block = some b) : exec (.mloadCompletion id) s = .next (
      if decide (s.opCycle o < o.issue + moveCycles nt mf + 8) || s.boxWaits false o x then s
      else
        let cells := loadedCells (s.boxBytes o x).1 (32 * o.stack + o.core) (b.tiles o.core acc nt) x
        ({ (s.boxBytes o x).2 with mem := (s.boxBytes o x).2.mem.writeAll cells }).finish o 1 cells.length false) := by
  dsimp only [exec, execMloadCompletion]
  rw [ho]
  dsimp only
  rw [hk, hx, hb] <;> rfl

theorem mstoreReadDone_frees (ho : s.op? id = some o) (hk : o.kind = .mstore acc nt mf fmt rm src)
    (hl : o.issue + moveCycles nt mf + 4 ≤ s.opCycle o) : ∃ t, exec (.mstoreReadDone id) s = .next t ∧ SameMemory s t ∧
      (∀ k ∈ t.busy, k.op ≠ id) ∧ t.op? id = some { o with doneRd := true } := by
  refine ⟨_, (exec_mstoreReadDone ho hk).trans (congrArg Host.Outcome.next (if_neg (Nat.not_lt.2 hl))), fun a => rfl,
    fun k hk => ?_, ?_⟩
  · simpa using (List.mem_filter.1 hk).2
  · exact State.op?_modOp (f := fun o => { o with doneRd := true }) (fun _ => rfl) ho

theorem mstoreLanding_lands (ho : s.op? id = some o) (hb : s.block? o.block = some b) (hk : o.kind = .mstore acc nt mf fmt rm src)
    (hl : o.issue + moveCycles nt mf + 12 ≤ s.opCycle o) (hd : o.dst = some x) (hw : s.boxWaits true o x = false)
    (ht : o.taint = []) (hown : o.own = []) : ∃ t, exec (.mstoreLanding id) s = .next t ∧ Ended s t o b 1 o.image.length false ∧
      t.mem = s.mem.writeAll o.image ∧ ∀ n, n ∈ t.empty ↔ n ∈ s.empty ∧ n ∉ addrGranules (o.image.map (·.1)) := by
  refine ⟨_, (exec_mstoreLanding ho hk hd).trans (congrArg Host.Outcome.next (if_neg (by simp [hl, hw]))), ?_⟩
  rw [State.land_eq_landed _ ht hown]
  refine ⟨ended_finish hb (fun q => State.landed_sameOps _ q) (fun q => State.landed_sameRing _ _ q), ?_, fun n => ?_⟩
  · rw [State.finish_mem, State.landed_mem]
  · rw [State.finish_empty]
    exact State.mem_landed_empty ..

theorem mloadCompletion_loads (ho : s.op? id = some o) (hb : s.block? o.block = some b) (hk : o.kind = .mload acc nt mf)
    (hx : o.srcA = some x) (hl : o.issue + moveCycles nt mf + 8 ≤ s.opCycle o) (hw : s.boxWaits false o x = false)
    (hd : s.boxDirty o x = []) (hov : o.overr = []) :
    ∃ t, exec (.mloadCompletion id) s = .next t ∧ Ended s t o b 1 (4 * x.elems.length) false ∧
      t.mem = s.mem.writeAll (loadedCells (boxData s x) (32 * o.stack + o.core) (b.tiles o.core acc nt) x) := by
  refine ⟨_, (exec_mloadCompletion ho hk hx hb).trans (congrArg Host.Outcome.next (if_neg (by simp [hl, hw]))), ?_⟩
  rw [State.boxBytes_clean hd hov]
  dsimp only
  rw [length_loadedCells]
  refine ⟨ended_finish hb (.of_eq rfl) (.of_blocks rfl), ?_⟩
  rw [State.finish_mem]

theorem matrixMoves_holds : MatrixMoves := by
  intro s id acc nt mf fmt rm src o x b ho hb
  refine ⟨fun hk => ⟨fun hl => ?_, mstoreReadDone_frees ho hk, mstoreLanding_waits ho hk, mstoreLanding_lands ho hb hk⟩,
    fun hk hx => ⟨fun hl => ?_, mloadCompletion_loads ho hb hk hx⟩⟩
  · exact (exec_mstoreReadDone ho hk).trans (congrArg Host.Outcome.next (if_pos hl))
  · exact (exec_mloadCompletion ho hk hx hb).trans (congrArg Host.Outcome.next (if_pos (by simp [hl])))

end

/-- Settles O31: each part is one of its events' equations; an `mmac`'s cells lie apart, so each takes its own sum. -/
theorem matrixUnit : Obligations.MatrixUnit :=
  ⟨tilesCleared_holds, operandBytes_holds, matrixMultiply_holds, storedElements_holds, matrixMoves_holds⟩

end Sys2Proof.Machine

end

section
/-! SUPPORT. Checks and parking (O23), tile memory (O24, O25) and submissions (O30). -/

namespace Sys2Proof.Machine
open Sys2Proof.Claims

-- Parking lanes (R37, R366).

theorem Warp.park_eq (w : Warp) (r : LaneRec) : w.park r = { w with parked := (w.park r).parked, records := (w.park r).records } := by
  unfold Warp.park
  split <;> rfl

theorem Warp.park_set (w : Warp) (r : LaneRec) (m : Mask) (l : List LaneRec) :
    { w.park r with parked := m, records := l } = { w with parked := m, records := l } := by
  unfold Warp.park
  split <;> rfl

theorem Warp.park_parked (w : Warp) (r : LaneRec) {l : Nat} (hl : l < 32) :
    (w.park r).parked.getLsbD l = (w.parked.getLsbD l || r.lane == l) := by
  unfold Warp.park
  split
  next h =>
    cases hrl : r.lane == l
    · exact (Bool.or_false _).symm
    · rw [beq_iff_eq] at hrl
      rw [← hrl, h]
      rfl
  next h =>
    simp only [BitVec.getLsbD_or, BitVec.getLsbD_ofNat, hl, decide_true, Bool.true_and, Nat.testBit_two_pow]
    rfl

theorem Warp.park_records_of_parked {w : Warp} {r : LaneRec} (h : w.parked.getLsbD r.lane = true) : (w.park r).records = w.records := by
  rw [Warp.park, if_pos h]

theorem Warp.park_records_of_not {w : Warp} {r : LaneRec} (h : w.parked.getLsbD r.lane = false) :
    (w.park r).records = w.records ++ [r] := by
  rw [Warp.park, if_neg (by rw [h]; exact Bool.false_ne_true)]

/-- Lanes of a list parked one after the other. -/
def Warp.parkEach (w : Warp) (rs : List LaneRec) : Warp := rs.foldl Warp.park w

theorem Warp.parkEach_eq (rs : List LaneRec) : ∀ w : Warp,
    w.parkEach rs = { w with parked := (w.parkEach rs).parked, records := (w.parkEach rs).records } := by
  induction rs with
  | nil => intro w; rfl
  | cons r rs ih =>
    intro w
    exact (ih (w.park r)).trans (w.park_set r _ _)

theorem Warp.parkEach_parked (rs : List LaneRec) {l : Nat} (hl : l < 32) : ∀ w : Warp,
    (w.parkEach rs).parked.getLsbD l = (w.parked.getLsbD l || rs.any fun r => r.lane == l) := by
  induction rs with
  | nil => intro w; exact (Bool.or_false _).symm
  | cons r rs ih =>
    intro w
    refine (ih (w.park r)).trans ?_
    rw [w.park_parked r hl, List.any_cons, Bool.or_assoc]

theorem Warp.mem_parkEach_records {q : LaneRec} (rs : List LaneRec) : ∀ {w : Warp}, q ∈ w.records → q ∈ (w.parkEach rs).records := by
  induction rs with
  | nil => intro w hq; exact hq
  | cons r rs ih =>
    intro w hq
    refine ih ?_
    cases h : w.parked.getLsbD r.lane
    · rw [Warp.park_records_of_not h]
      exact List.mem_append_left _ hq
    · rw [Warp.park_records_of_parked h]
      exact hq

/-- A lane with one record, not parked yet, is parked with that record. -/
theorem Warp.parkEach_takes {r : LaneRec} (hlane : r.lane < 32) (rs : List LaneRec) : ∀ {w : Warp}, w.parked.getLsbD r.lane = false →
    (rs.filter fun q => q.lane == r.lane) = [r] → r ∈ (w.parkEach rs).records := by
  induction rs with
  | nil => intro w _ h; cases h
  | cons q rs ih =>
    intro w hw h
    cases hq : q.lane == r.lane
    · rw [List.filter_cons_of_neg (by rw [hq]; exact Bool.false_ne_true)] at h
      exact ih (by rw [w.park_parked q hlane, hw, hq]; rfl) h
    · rw [List.filter_cons_of_pos (p := fun q : LaneRec => q.lane == r.lane) hq] at h
      obtain rfl := (List.cons.inj h).1
      refine Warp.mem_parkEach_records rs ?_
      rw [Warp.park_records_of_not hw]
      exact List.mem_append_right _ (List.mem_singleton.2 rfl)

/-- Records of lanes that differ are those of the lanes not parked before, in their order. -/
theorem Warp.parkEach_records (rs : List LaneRec) (hlt : ∀ r ∈ rs, r.lane < 32) (hnd : (rs.map LaneRec.lane).Nodup) : ∀ w : Warp,
    (w.parkEach rs).records = w.records ++ rs.filter fun r => !w.parked.getLsbD r.lane := by
  induction rs with
  | nil => intro w; exact (List.append_nil _).symm
  | cons r rs ih =>
    intro w
    obtain ⟨hnot, hnd⟩ := List.nodup_cons.1 hnd
    refine (ih (fun q hq => hlt q (List.mem_cons_of_mem _ hq)) hnd (w.park r)).trans ?_
    have hrest : (rs.filter fun q => !(w.park r).parked.getLsbD q.lane) = rs.filter fun q => !w.parked.getLsbD q.lane :=
      List.filter_congr fun q hq => by
        have hne : (r.lane == q.lane) = false := beq_eq_false_iff_ne.2 fun h => hnot (h ▸ List.mem_map_of_mem hq)
        rw [w.park_parked r (hlt q (List.mem_cons_of_mem _ hq)), hne, Bool.or_false]
    rw [hrest]
    cases h : w.parked.getLsbD r.lane
    · rw [Warp.park_records_of_not h, List.filter_cons_of_pos (by rw [h]; rfl), List.append_assoc]
      rfl
    · rw [Warp.park_records_of_parked h, List.filter_cons_of_neg (by rw [h]; exact Bool.false_ne_true)]

/-- Lane faults of a warp outside a handler park their lanes. -/
theorem State.warp?_parkAll {n k code : Nat} (rs : List LaneRec) : ∀ {s : State} {w : Warp}, s.warp? n k = some w → w.bank = none →
    (s.parkAll n k rs code).warp? n k = some (w.parkEach rs) := by
  induction rs with
  | nil => intro s w hw _; exact hw
  | cons r rs ih =>
    intro s w hw hb
    have hh : w.handler = false := by rw [Warp.handler, hb]; rfl
    have h1 := State.warp?_parkLane r code hw
    rw [hh, Warp.laneFault_program] at h1
    exact ih h1 (by rw [w.park_eq r]; exact hb)

@[simp] theorem State.parkAll_reqs (s : State) (n k : Nat) (rs : List LaneRec) (code : Nat) : (s.parkAll n k rs code).reqs = s.reqs :=
  foldl_keeps State.reqs (by intros; rfl) _ _
@[simp] theorem State.parkAll_ops (s : State) (n k : Nat) (rs : List LaneRec) (code : Nat) : (s.parkAll n k rs code).ops = s.ops :=
  foldl_keeps State.ops (by intros; rfl) _ _
@[simp] theorem State.parkAll_tensors (s : State) (n k : Nat) (rs : List LaneRec) (code : Nat) :
    (s.parkAll n k rs code).tensors = s.tensors := foldl_keeps State.tensors (by intros; rfl) _ _
@[simp] theorem State.parkAll_issue (s : State) (n k : Nat) (rs : List LaneRec) (code : Nat) : (s.parkAll n k rs code).issue = s.issue :=
  foldl_keeps State.issue (by intros; rfl) _ _
@[simp] theorem State.parkAll_commits (s : State) (n k : Nat) (rs : List LaneRec) (code : Nat) :
    (s.parkAll n k rs code).commits = s.commits := foldl_keeps State.commits (by intros; rfl) _ _

end Sys2Proof.Machine

namespace Sys2Proof.Machine
open Sys2Proof.Claims

-- The checks of an access (R119 to R125).

section
variable {s : State} {b : Block} {w : Warp} {need : Need} {i size align : Nat} {k : List Nat} {r : Record}

theorem State.ctxAlloc_iff {ctx stack core lo n : Nat} : s.ctxAlloc ctx stack core lo n = true ↔
    ∃ q ∈ s.blocks, q.ctx = ctx ∧ q.stack = stack ∧ q.status = .placed ∧
      ∃ a ∈ q.allocs, a.core = core ∧ a.base ≤ lo ∧ lo + n ≤ a.base + q.rcd.tmem := by
  simp only [State.ctxAlloc, List.any_eq_true, Bool.and_eq_true, beq_iff_eq, decide_eq_true_eq, and_assoc]

/-- The conditions of the checks, in their order, as the model tests them. -/
theorem State.check_eq (hr : (s.pool b)[i]? = some r) : s.check b w need i k size align =
    (let off := r.byteOf (r.index k)
    let blk := off % 64
    if !need.kinds.contains r.kind ||
        (need.tierG && (match s.tensor? r.base with
          | some t => t.tier != 0
          | none => true)) then .error 0x27
    else if !need.rights.all r.right then .error 0x22
    else if r.meter != 0xFF && !b.rcd.meters.bitAt r.meter then .error 0x25
    else if r.kind == 2 && !s.ctxAlloc b.ctx b.stack r.core (r.base + off) size then .error 0x29
    else if !r.inside k || decide (r.size < off + size) then .error 0x20
    else if off % align != 0 || (r.described && (blk < 2 || decide (64 < blk + size))) then .error 0x21
    else if need.writes && r.kind == 0 && (match s.entryOf r.base off with
        | some e => e.resident && !e.writable
        | none => false) then .error 0x23
    else if need.writes && !need.stampOk && r.kind == 0 && s.isStamped (s.tensorAddr r.base off) size then .error 0x24
    else if r.kind == 3 && !s.peerUp r.peer then .error 0x2B
    else .ok (r.locate b w off)) := by
  unfold State.check
  rw [hr] <;> rfl

end

/-- A test that fails exactly when `p` does, before the rest of a chain. -/
theorem ite_of_iff_not {α : Type} {b : Bool} {p : Prop} {x y v : α} (h : b = true ↔ ¬p) (hv : v = if b then x else y) :
    (¬p → v = x) ∧ (p → v = y) :=
  ⟨fun n => hv.trans (if_pos (h.2 n)), fun q => hv.trans (if_neg fun hb => h.1 hb q)⟩

theorem accessChecks_holds : AccessChecks := by
  intro s b w n i k size align
  refine ⟨fun h => ?_, fun r hr => ?_⟩
  · unfold State.check
    rw [h]
  intro off kind rights meter window bounds aligned writable plain peer
  have hv := State.check_eq (w := w) (need := n) (size := size) (align := align) (k := k) hr
  have hkind := ite_of_iff_not (p := kind) ?_ hv
  have hrights := fun q => ite_of_iff_not (p := rights) ?_ (hkind.2 q)
  have hmeter := fun q q' => ite_of_iff_not (p := meter) ?_ ((hrights q).2 q')
  have hwindow := fun q q' q'' => ite_of_iff_not (p := window) ?_ ((hmeter q q').2 q'')
  have hbounds := fun q1 q2 q3 q4 => ite_of_iff_not (p := bounds) ?_ ((hwindow q1 q2 q3).2 q4)
  have haligned := fun q1 q2 q3 q4 q5 => ite_of_iff_not (p := aligned) ?_ ((hbounds q1 q2 q3 q4).2 q5)
  have hwritable := fun q1 q2 q3 q4 q5 q6 => ite_of_iff_not (p := writable) ?_ ((haligned q1 q2 q3 q4 q5).2 q6)
  have hplain := fun q1 q2 q3 q4 q5 q6 q7 => ite_of_iff_not (p := plain) ?_ ((hwritable q1 q2 q3 q4 q5 q6).2 q7)
  have hpeer := fun q1 q2 q3 q4 q5 q6 q7 q8 => ite_of_iff_not (p := peer) ?_ ((hplain q1 q2 q3 q4 q5 q6 q7).2 q8)
  · exact ⟨hkind.1, fun q => (hrights q).1, fun q1 q2 => (hmeter q1 q2).1, fun q1 q2 q3 => (hwindow q1 q2 q3).1,
      fun q1 q2 q3 q4 => (hbounds q1 q2 q3 q4).1, fun q1 q2 q3 q4 q5 => (haligned q1 q2 q3 q4 q5).1,
      fun q1 q2 q3 q4 q5 q6 => (hwritable q1 q2 q3 q4 q5 q6).1, fun q1 q2 q3 q4 q5 q6 q7 => (hplain q1 q2 q3 q4 q5 q6 q7).1,
      fun q1 q2 q3 q4 q5 q6 q7 q8 => (hpeer q1 q2 q3 q4 q5 q6 q7 q8).1, fun q1 q2 q3 q4 q5 q6 q7 q8 => (hpeer q1 q2 q3 q4 q5 q6 q7 q8).2⟩
  · simp [peer]
  · cases hw : n.writes <;> cases hst : n.stampOk <;> simp [plain, off, hw, hst]
  · cases hw : n.writes <;> cases h : s.entryOf r.base (r.byteOf (r.index k)) <;> simp [writable, off, h, hw]
  · cases hd : r.described <;> simp [aligned, off, hd, not_and_or, Nat.not_le]
    by_cases h : r.byteOf (r.index k) % align = 0 <;> simp [h]
    omega
  · simp only [bounds, Record.inside, Bool.or_eq_true, Bool.not_eq_true', ← Bool.not_eq_true, List.all_eq_true, List.mem_range,
      decide_eq_true_eq, not_and_or, Nat.not_le]
    exact Iff.rfl
  · rw [Bool.and_eq_true, Bool.not_eq_true', ← Bool.not_eq_true, State.ctxAlloc_iff, beq_iff_eq, Classical.not_imp]
  · simp [meter, bitAt_eq_testBit]
  · simp [rights, Record.right, bitAt_eq_testBit]
  · cases ht : n.tierG <;> cases h : s.tensor? r.base <;> simp [kind, h, ht, imp_iff_not_or]

-- Parking and absent frames.

section
variable {s : State} {c : Issue} {b : Block} {w : Warp} {g : Guard} {i : Instr} {x : Nat}

/-- The lane-wise operations through a stream but the load-block and the commit go through their lanes. -/
theorem exec_eq_memLanes (hg : memGuard i = some g) (hx : mStream i = some x) (hl : ∀ h y n tag inc, i ≠ .lblk g h y n tag inc)
    (hs : ∀ h y pair inc a, i ≠ .stc g h y pair inc a) : ∃ (inc : Bool) (F : Issue → Block → Warp → List Try → State → State), exec i s = memOp s i g fun c b w m s => s.memLanes c b w i m x inc (F c b w) := by
  cases i <;> cases hg <;> cases hx
  case lblk => exact absurd rfl (hl _ _ _ _ _)
  case stc => exact absurd rfl (hs _ _ _ _ _)
  all_goals
    dsimp only [exec]
    exact ⟨_, _, rfl⟩

theorem trapOf_memLanes (hg : memGuard i = some g) (hx : mStream i = some x) (hs : ∀ h y pair inc a, i ≠ .stc g h y pair inc a)
    (hw : s.tooWide b.stack = false) : s.trapOf c b w i = none := by
  cases i <;> cases hg <;> cases hx
  case stc => exact absurd rfl (hs _ _ _ _ _)
  all_goals simp [State.trapOf, hw]

theorem memOp_runs (hi : Issuing s c b w) (ht : s.trapOf c b w i = none) (hm : takers c w g ≠ 0)
    (f : Issue → Block → Warp → Mask → State → State) : memOp s i g f = .next (f c b w (takers c w g) s) := by
  obtain ⟨hc, hb, hw⟩ := hi
  exact (slotOp_act i _ hc hb hw ht).trans (congrArg Host.Outcome.next (if_neg hm))

theorem mem_goodTries {ts : List Try} {p : Nat × Loc} : p ∈ goodTries ts ↔ ∃ t ∈ ts, t.lane = p.1 ∧ t.res = .ok p.2 := by
  obtain ⟨l, loc⟩ := p
  simp only [goodTries, List.mem_filterMap]
  refine exists_congr fun t => and_congr_right fun _ => ?_
  cases t.res <;> simp

/-- The trap of an absent frame met by a word (R127). -/
def Issue.absentTrap (c : Issue) (w : Warp) (rcd lane : Nat) (c0 c1 : Word32) : TrapInfo :=
  { code := 0x85, arg := 0, hpc := c.tok, hnext := c.tok, loops := w.loops, idle := w.idle, slot := slotNum c.cur, rcd := rcd, lane := lane, c0 := c0, c1 := c1 }

theorem State.warp?_fatalWord {rcd lane : Nat} {c0 c1 : Word32} (hw : s.warp? c.block c.warp = some w) (ht : w.trap = none) :
    (s.fatalWord c 0x85 0 rcd lane c0 c1).warp? c.block c.warp = some { w with trap := some (c.absentTrap w rcd lane c0 c1) } := by
  refine (State.warp?_modWarp_self hw fun v => ?_).trans ?_
  · split <;> rfl
  · rw [ht] <;> rfl

/-- An absent frame stops them. -/
theorem State.memLanes_absent {m : Mask} {inc : Bool} {f : List Try → State → State} {p : Nat × Loc}
    (hp : p ∈ goodTries (s.tries c b w i m)) (ha : s.absent p.2 = true) : ∃ lane c0 c1, s.memLanes c b w i m x inc f =
      s.fatalWord c 0x85 0 (w.xread x).rcd lane c0 c1 := by
  obtain ⟨u, hu, -, hres⟩ := mem_goodTries.1 hp
  unfold State.memLanes
  dsimp only
  split
  next t _ => exact ⟨_, _, _, rfl⟩
  next hn =>
    refine absurd ha fun ha => List.find?_eq_none.1 hn u hu ?_
    rw [hres]
    exact ha

theorem takers_of_goodTries {p : Nat × Loc} (hp : p ∈ goodTries (s.tries c b w i (takers c w g))) : takers c w g ≠ 0 := by
  intro h0
  obtain ⟨t, ht, -, -⟩ := mem_goodTries.1 hp
  rw [h0] at ht
  unfold State.tries at ht
  split at ht
  · cases ht
  · cases ht

theorem absent_isFatal {p : Nat × Loc} (hi : Issuing s c b w) (hg : memGuard i = some g) (hx : mStream i = some x)
    (hl : ∀ h y n tag inc, i ≠ .lblk g h y n tag inc) (hs : ∀ h y pair inc a, i ≠ .stc g h y pair inc a)
    (hwide : s.tooWide b.stack = false) (ht : w.trap = none) (hp : p ∈ goodTries (s.tries c b w i (takers c w g)))
    (ha : s.absent p.2 = true) : ∃ t v tr, exec i s = .next t ∧ t.warp? c.block c.warp = some v ∧ v.trap = some tr ∧ tr.code = 0x85 ∧
      tr.hpc = c.tok ∧ v = { w with trap := some tr } ∧ SameMemory s t ∧ t.reqs = s.reqs := by
  obtain ⟨inc, F, he⟩ := exec_eq_memLanes (s := s) hg hx hl hs
  have hw : s.warp? c.block c.warp = some w := by
    rw [State.warp?, hi.2.1]
    exact hi.2.2
  have hrun := he.trans (memOp_runs hi (trapOf_memLanes hg hx hs hwide) (takers_of_goodTries hp) _)
  obtain ⟨lane, c0, c1, hfatal⟩ := State.memLanes_absent (x := x) (inc := inc) (f := F c b w) hp ha
  exact ⟨_, _, _, hrun.trans (congrArg Host.Outcome.next hfatal), State.warp?_fatalWord hw ht, rfl, rfl, rfl, rfl, fun _ => rfl, rfl⟩

theorem lanesPark_holds : LanesPark := by
  refine ⟨fun s bid n code w v rs hw hb hlt hv => ?_, fun s bid n code w r hw hb ht => ?_, fun s c w x => ⟨rfl, rfl⟩,
    fun s c b w i g x p hi hg hx hl hs hwide ht hp ha => absent_isFatal hi hg hx hl hs hwide ht hp ha⟩
  · rw [State.warp?_parkAll rs hw hb] at hv
    obtain rfl := Option.some.inj hv
    exact ⟨fun l hl => w.parkEach_parked rs hl |>.trans rfl, fun r hr hnot hone => Warp.parkEach_takes (hlt r hr) rs hnot hone,
      fun r hr => Warp.mem_parkEach_records rs hr, w.parkEach_eq rs, fun a => by rw [State.parkAll_mem], State.parkAll_reqs ..⟩
  · have h := State.warp?_parkLane r code hw
    rw [show w.handler = true from hb, Warp.laneFault_handler] at h
    refine ⟨_, _, h, Warp.handlerFault_trap r code ht, rfl, rfl, rfl, rfl, ?_⟩
    rw [Warp.handlerFault_frame]

end

/-- Settles O23: the checks are a chain of tests; parking folds over the lanes; an absent frame stops the lanes before they act. -/
theorem checksAndParking : Obligations.ChecksAndParking := ⟨accessChecks_holds, lanesPark_holds⟩

end Sys2Proof.Machine

namespace Sys2Proof.Machine
open Sys2Proof.Claims

-- Accesses through a local window.

section
variable {s : State} {c : Issue} {b : Block} {w : Warp} {g : Guard} {i : Instr} {m : Mask} {x : Nat} {r : Record}

theorem check_ok_locate {need : Need} {rcd size align : Nat} {k : List Nat} {loc : Loc} (hr : (s.pool b)[rcd]? = some r)
    (h : s.check b w need rcd k size align = .ok loc) : ∃ off, loc = r.locate b w off := by
  rw [State.check_eq hr] at h
  dsimp only at h
  split_ifs at h
  exact ⟨_, (Except.ok.inj h).symm⟩

/-- A lane that passes its checks through a local window meets tile memory of the warp's own core. -/
theorem goodTries_local (hx : mStream i = some x) (hr : s.recordOf b w x = some r) (hk : r.kind = 1) :
    ∀ p ∈ goodTries (s.tries c b w i m), ∃ off, p.2 = .tmem b.stack w.core off := by
  intro p hp
  obtain ⟨t, ht, -, hres⟩ := mem_goodTries.1 hp
  unfold State.tries at ht
  rw [hx] at ht
  obtain ⟨l, -, rfl⟩ := List.mem_map.1 ht
  obtain ⟨off, hoff⟩ := check_ok_locate hr hres
  exact ⟨_, hoff.trans (by rw [Record.locate, hk]; rfl)⟩

/-- With nothing of the warp outstanding nothing has to perform first. -/
theorem State.settleOwn_noneOut (h : NoneOut s b w) : s.settleOwn b w = s := by
  have hnil : (s.reqs.flatMap fun r => if r.block == b.bid && r.warp == w.num then r.lanes.map fun a => (r, a) else []) = [] := by
    refine List.flatMap_eq_nil_iff.2 fun q hq => if_neg fun hc => ?_
    rw [Bool.and_eq_true, beq_iff_eq, beq_iff_eq] at hc
    exact h q hq hc.1 hc.2
  unfold State.settleOwn
  rw [hnil]
  rfl

end

-- Memory after stores of lanes one after the other.

section
variable {α : Type} {addr : α → Nat} {bs : α → List Byte} {n : Nat}

/-- Bytes of each item of a list written at its address, in order. -/
def Memory.writeEach (m : Memory) (addr : α → Nat) (bs : α → List Byte) (l : List α) : Memory :=
  l.foldl (fun m p => m.writeBytes (addr p) (bs p)) m

theorem Memory.read_writeEach_other (hn : ∀ p, (bs p).length = n) {a : Nat} (l : List α) : ∀ {m : Memory}, m.wf = true →
    (∀ p ∈ l, a < addr p ∨ addr p + n ≤ a) → (m.writeEach addr bs l).read a = m.read a := by
  induction l with
  | nil => intro m _ _; rfl
  | cons p l ih =>
    intro m hwf h
    refine (ih (Memory.writeBytes_wf _ _ hwf) fun q hq => h q (List.mem_cons_of_mem _ hq)).trans ?_
    exact Memory.read_writeBytes_other _ _ _ hwf (by rw [hn]; exact h p List.mem_cons_self)

/-- Where they do not overlap every item finds its bytes. -/
theorem Memory.readBytes_writeEach (hn : ∀ p, (bs p).length = n) (l : List α) : ∀ {m : Memory}, m.wf = true →
    (l.map addr).Pairwise (fun k j => k + n ≤ j ∨ j + n ≤ k) →
    ∀ p ∈ l, (m.writeEach addr bs l).readBytes (addr p) n = bs p := by
  induction l with
  | nil => intro m _ _ p hp; cases hp
  | cons q l ih =>
    intro m hwf hpw p hp
    obtain ⟨hq, hpw⟩ := List.pairwise_cons.1 hpw
    have hwf' := Memory.writeBytes_wf (addr q) (bs q) hwf
    rcases List.mem_cons.1 hp with rfl | hp
    · refine Eq.trans ?_ ((congrArg _ (hn p).symm).trans (Memory.readBytes_writeBytes hwf (addr p) (bs p)))
      rw [Memory.readBytes_eq, Memory.readBytes_eq]
      refine List.map_congr_left fun i hi => ?_
      rw [List.mem_range] at hi
      refine Memory.read_writeEach_other hn l hwf' fun j hj => ?_
      have := hq (addr j) (List.mem_map_of_mem hj)
      omega
    · exact ih hwf' hpw p hp

end

-- Stores (R295).

section
variable {s : State} {c : Issue} {b : Block} {w : Warp} {g : Guard} {i : Instr} {x : Nat} {r : Record} {n : Nat}

/-- What one lane's store changes. -/
theorem localStore_facts (s : State) (core off : Nat) (bs : List Byte) :
    (s.localStore core off bs).mem = s.mem.writeBytes (tmemAddr core off) bs ∧
    (∀ n, n ∈ (s.localStore core off bs).empty ↔ n ∈ s.empty ∧ n ∉ granules core off bs.length) ∧
    (s.localStore core off bs).reqs = s.reqs := by
  have hnote : ∀ a k, (s.noteStore a k).mem = s.mem ∧ (s.noteStore a k).empty = s.empty ∧ (s.noteStore a k).reqs = s.reqs := by
    intro a k
    unfold State.noteStore
    split <;> exact ⟨rfl, rfl, rfl⟩
  obtain ⟨hm, he, hr⟩ := hnote (tmemAddr core off) bs.length
  refine ⟨?_, fun n => ?_, hr⟩
  · rw [← hm]
    rfl
  · rw [← he]
    simp only [State.localStore, State.setFull, List.mem_filter, Bool.not_eq_true', List.contains_eq_mem, decide_eq_false_iff_not]
    rfl

/-- One lane's part of a store through a local window. -/
def State.storeLane (s : State) (bs : Nat → List Byte) (p : Nat × Loc) : State :=
  match p.2 with
  | .tmem k cr off => s.localStore (32 * k + cr) off (bs p.1)
  | .tensor _ _ => s
  | .peer _ _ _ => s

theorem foldl_storeLane {bs : Nat → List Byte} (hn : ∀ l, (bs l).length = n) (s0 : State) (l : List (Nat × Loc)) : ∀ {s : State},
    (∀ p ∈ l, ∃ k cr off, p.2 = .tmem k cr off) →
    (l.foldl (fun s p => s.storeLane bs p) s).mem = s.mem.writeEach (fun p => s0.addrOf p.2) (fun p => bs p.1) l ∧
    (∀ k, k ∈ (l.foldl (fun s p => s.storeLane bs p) s).empty ↔ k ∈ s.empty ∧ k ∉ laneGranules n l) ∧
    (l.foldl (fun s p => s.storeLane bs p) s).reqs = s.reqs := by
  induction l with
  | nil => intro s _; exact ⟨rfl, fun k => ⟨fun h => ⟨h, List.not_mem_nil⟩, fun h => h.1⟩, rfl⟩
  | cons p l ih =>
    intro s hl
    obtain ⟨lane, loc⟩ := p
    obtain ⟨k, cr, off, rfl⟩ := hl _ List.mem_cons_self
    obtain ⟨hm, he, hr⟩ := ih (s := s.storeLane bs (lane, .tmem k cr off)) fun p hp => hl p (List.mem_cons_of_mem _ hp)
    obtain ⟨hm', he', hr'⟩ := localStore_facts s (32 * k + cr) off (bs lane)
    refine ⟨?_, fun j => (he j).trans ?_, hr.trans hr'⟩
    · refine hm.trans ?_
      rw [Memory.writeEach, Memory.writeEach, List.foldl_cons]
      exact congrArg (fun m => l.foldl _ m) hm'
    · rw [State.storeLane, he', hn, laneGranules, laneGranules, List.flatMap_cons, List.mem_append]
      tauto

theorem length_bytes {a : VSrc} {wd : Width} (p : Pitch) (h : wd = .b128 → ∃ n, a = .v n) (l : Nat) :
    (a.bytes p c w wd l).length = wd.size := by
  cases wd with
  | b8 => exact length_leBytes ..
  | b16 => exact length_leBytes ..
  | b32 => exact length_leBytes ..
  | b64 => exact length_leBytes ..
  | b128 =>
    obtain ⟨n, rfl⟩ := h rfl
    rw [VSrc.bytes, length_flatMap_const _ _ 4 fun _ => length_leBytes ..]
    rfl

theorem storeLanes_local {a : VSrc} {wd : Width} {ts : List Try} (hr : s.recordOf b w x = some r) (hk : r.kind = 1)
    (ho : NoneOut s b w) : s.storeLanes c b w x wd a ts =
      (goodTries ts).foldl (fun u p => u.storeLane (a.bytes (s.pitch (coreId b w) w.pitch) c w wd) p) s := by
  unfold State.storeLanes
  dsimp only
  rw [show (s.pool b)[(w.xread x).rcd]? = some r from hr, State.settleOwn_noneOut ho]
  dsimp only
  rw [if_pos hk]
  refine List.foldl_ext _ _ _ fun u p _ => ?_
  obtain ⟨lane, loc⟩ := p
  cases loc <;> rfl

/-- What a lane-wise access does when no lane meets an absent frame. -/
theorem accesses_of {inc : Bool} (F : Issue → Block → Warp → List Try → State → State)
    (he : exec i s = memOp s i g fun c b w m s => s.memLanes c b w i m x inc (F c b w)) (hi : Issuing s c b w)
    (hp : Present s c b w i g) (ht : s.trapOf c b w i = none) :
    Accesses s c b w i g x inc (F c b w (s.tries c b w i (takers c w g)) s) := by
  obtain ⟨h1, h2, h3⟩ := hi
  exact he.trans ((memOp_act _ _ h1 h2 h3 hp.1 ht).trans (congrArg Host.Outcome.next (State.memLanes_present _ hp.2)))

theorem localStores_holds : LocalStores := by
  intro s c b w r g a v x gd wd inc i hi hr hk hwd hc hp hno hwf good
  have hx : mStream i = some x := by rcases hc with rfl | rfl <;> rfl
  have hloc : ∀ p ∈ good, ∃ k cr off, p.2 = .tmem k cr off := fun p hp => by
    obtain ⟨off, ho⟩ := goodTries_local hx hr hk p hp
    exact ⟨_, _, off, ho⟩
  have hlen : ∀ l, (a.bytes (s.pitch (coreId b w) w.pitch) c w wd l).length = wd.size := fun l => length_bytes _ hwd l
  have hex : Accesses s c b w i g x inc (s.storeLanes c b w x wd a (s.tries c b w i (takers c w g))) := by
    rcases hc with rfl | rfl <;> exact accesses_of (fun c b w ts s => s.storeLanes c b w x wd a ts) rfl hi hp rfl
  rw [storeLanes_local hr hk hno] at hex
  obtain ⟨hmem, hempty, hreqs⟩ := foldl_storeLane hlen s good (s := s) hloc
  refine ⟨_, hex, fun k hk => ?_, fun hpw p hp => ?_, hempty, hreqs⟩
  · rw [hmem]
    exact Memory.read_writeEach_other (fun p => hlen p.1) good hwf hk
  · rw [hmem]
    exact Memory.readBytes_writeEach (addr := fun p => s.addrOf p.2) (fun p => hlen p.1) good hwf hpw p hp

-- Full and empty granules (R129, R307).

theorem mem_insertNat (l : List Nat) (a k : Nat) : k ∈ insertNat l a ↔ k = a ∨ k ∈ l := by
  induction l with
  | nil => simp [insertNat]
  | cons y l ih =>
    rw [insertNat]
    split
    · exact List.mem_cons
    · split
      next h => simp [h]
      next => simp only [List.mem_cons, ih, or_left_comm]

theorem mem_setEmpty (gs : List Nat) (k : Nat) : k ∈ (s.setEmpty gs).empty ↔ k ∈ s.empty ∨ k ∈ gs := by
  unfold State.setEmpty
  dsimp only
  generalize s.empty = e
  induction gs generalizing e with
  | nil => simp
  | cons y gs ih =>
    rw [List.foldl_cons, ih, mem_insertNat, List.mem_cons]
    tauto

theorem mem_setFull (gs : List Nat) (k : Nat) : k ∈ (s.setFull gs).empty ↔ k ∈ s.empty ∧ k ∉ gs := by
  simp [State.setFull]

theorem mem_granules {core off k : Nat} (hn : 0 < n) : k ∈ granules core off n ↔ ∃ j, j < n ∧ k = core * 2 ^ 17 + (off + j) / 16 := by
  rw [granules, if_neg (Nat.ne_of_gt hn), List.mem_map]
  simp only [List.mem_range, granuleOf]
  constructor
  · rintro ⟨d, hd, rfl⟩
    rcases Nat.eq_zero_or_pos d with rfl | hpos
    · exact ⟨0, hn, by rw [Nat.add_zero, Nat.add_zero]⟩
    · exact ⟨16 * (off / 16 + d) - off, by omega, by omega⟩
  · rintro ⟨j, hj, rfl⟩
    exact ⟨(off + j) / 16 - off / 16, by omega, by omega⟩

theorem fullEmpty_holds : FullEmpty := by
  intro s c b w g x wd inc hi gs
  exact ⟨fun hp => ⟨_, accesses_of (fun _ _ _ ts s => s.setFull (laneGranules wd.size (goodTries ts))) rfl hi hp rfl, mem_setFull _,
      fun _ => rfl, rfl⟩,
    fun hp => ⟨_, accesses_of (fun _ _ _ ts s => s.setEmpty (laneGranules wd.size (goodTries ts))) rfl hi hp rfl, mem_setEmpty _,
      fun _ => rfl, rfl⟩,
    fun core off n k hn => mem_granules hn⟩

end

/-- Settles O25: lanes store one after the other, each in its own bytes of tile memory. -/
theorem storesToTile : Obligations.StoresToTile := ⟨localStores_holds, fullEmpty_holds⟩

end Sys2Proof.Machine

namespace Sys2Proof.Machine
open Sys2Proof.Claims

-- The words of a load (R292).

theorem leNat_lt (l : List Byte) : leNat l < 256 ^ l.length := by
  induction l with
  | nil => exact Nat.one_pos
  | cons x l ih =>
    have := x.isLt
    rw [leNat, List.length_cons, Nat.pow_succ]
    omega

/-- A byte below a number of `n` bits is the low byte of the two together. -/
theorem leNat_cons_append {n : Nat} (x : Byte) {l : List Byte} {y : BitVec n} (h : leNat l = y.toNat) : leNat (x :: l) = (y ++ x).toNat := by
  rw [leNat, h, BitVec.toNat_append, ← Nat.shiftLeft_add_eq_or_of_lt x.isLt, Nat.shiftLeft_eq]
  omega

theorem leNat_one (x : Byte) : leNat [x] = x.toNat := by
  rw [leNat, leNat]
  omega

theorem ofNat_setWidth {n m : Nat} (y : BitVec n) : BitVec.ofNat m y.toNat = y.setWidth m := BitVec.eq_of_toNat_eq (by simp)

theorem loadWords_b64 (l k : List Byte) (sx : Bool) (hl : l.length = 4) :
    loadWords .b64 sx (l ++ k) = loadWords .b32 sx l ++ loadWords .b32 sx k := by
  rw [loadWords, loadWords, loadWords, List.take_left' hl, List.drop_left' hl]
  rfl

theorem loadedWords_holds : LoadedWords := by
  refine ⟨fun x sx => ?_, fun x y sx => ?_, fun x y z t sx => ?_, fun l k sx hl _ => loadWords_b64 l k sx hl, fun l k sx hl hk => ?_,
    fun x => ?_⟩
  · simp only [loadWords, List.take, leNat_one, ofNat_setWidth, BitVec.setWidth_eq]
  · have h : leNat [x, y] = (y ++ x).toNat := leNat_cons_append x (leNat_one y)
    simp only [loadWords, List.take, h, ofNat_setWidth, BitVec.setWidth_eq]
  · have h : leNat [x, y, z, t] = (t ++ z ++ y ++ x).toNat :=
      leNat_cons_append x (leNat_cons_append y (leNat_cons_append z (leNat_one t)))
    simp only [loadWords, h, ofNat_setWidth, BitVec.setWidth_eq]
  · have h : loadWords .b128 sx (l ++ k) = loadWords .b64 sx l ++ loadWords .b64 sx k := by
      have hd8 : (l ++ k).drop 8 = k := List.drop_left' hl
      have hd12 : (l ++ k).drop 12 = k.drop 4 := by
        rw [show (12 : Nat) = l.length + 4 by rw [hl], List.drop_length_add_append]
      have ht : (l ++ k).take 4 = l.take 4 := List.take_append_of_le_length (by omega)
      have hm : ((l ++ k).drop 4).take 4 = l.drop 4 := by
        rw [List.drop_append_of_le_length (by omega), List.take_left' (by rw [List.length_drop, hl])]
      have hk4 : (k.drop 4).take 4 = k.drop 4 := List.take_of_length_le (by rw [List.length_drop, hk])
      simp only [loadWords, List.range, List.range.loop, List.map, List.drop_zero, Nat.mul_zero, Nat.mul_one, Nat.reduceMul, ht, hm,
        hd8, hd12, hk4]
      rfl
    exact h
  · rw [loadWords, leNat_leBytes (show x.toNat < 256 ^ 4 from x.isLt), BitVec.ofNat_toNat, BitVec.setWidth_eq]

-- Loads through a local window (R294, R297).

section
variable {s : State} {c : Issue} {b : Block} {w : Warp} {g : Guard} {i : Instr} {x : Nat} {r : Record} {n : Nat}

/-- Where no engine operation is to write the lanes' bytes, they are those of memory before the word's stores. -/
theorem State.lookupAll_of_cool (good : List (Nat × Loc))
    (h : ∀ p ∈ good, ∀ k, k < n → s.addrOf p.2 + k ∉ s.hotBytes (some (c.block, c.warp)) s.uid) :
    s.lookupAll c n good = (good.map fun p => (p.1, (List.range n).map fun k => oldByte c.stores s.mem (s.addrOf p.2 + k)), s) := by
  induction good with
  | nil => rfl
  | cons p good ih =>
    rw [State.lookupAll, State.lookup_of_cool _ (h p List.mem_cons_self)]
    dsimp only
    rw [ih fun q hq => h q (List.mem_cons_of_mem _ hq)]
    rfl

theorem isLocal_of_kind (hr : s.recordOf b w x = some r) (hk : r.kind = 1) : s.isLocal b w x = true := by
  rw [State.isLocal, hr]
  exact beq_iff_eq.2 hk

theorem localLoads_holds : LocalLoads := by
  intro s c b w r g d x gd wd fe clr inc sx v hi hr hk i j good vals calm
  have hl := isLocal_of_kind hr hk
  have hload : ∀ {y : Instr} (cl gather : Bool), calm y → s.localLoad c b w d wd sx cl gather (s.tries c b w y (takers c w g)) =
      let u := if cl then s.setEmpty (laneGranules wd.size (good y)) else s
      if gather then
        (u.fly c 4 (loadEffs d wd sx (vals y))).modWarp c.block c.warp fun w =>
          { w with pend := w.pend ++ (vregsOf d wd.regs).map fun r => { reg := r, req := 0, returned := some (c.cycle + 4) }
                   gathers := w.gathers ++ [(c.cycle + 4, linesTouched ((good y).map fun a => (a.2, wd.size)))] }
      else u.fly c 4 (loadEffs d wd sx (vals y) ++ [loadLatch wd sx (vals y)]) := by
    rintro y cl gather ⟨-, hno, hne, hcool⟩
    have he : (goodTries (s.tries c b w y (takers c w g))).isEmpty = false := by
      rw [List.isEmpty_eq_false_iff]
      exact hne
    unfold State.localLoad
    dsimp only
    rw [he, State.settleOwn_noneOut hno, State.lookupAll_of_cool _ hcool]
    rfl
  constructor
  · intro hc
    have h := accesses_of (x := x) (inc := inc) (fun c b w ts s =>
      if s.isLocal b w x then s.localLoad c b w d wd sx clr false ts else s.longLoad c b w x d wd sx ts) rfl hi hc.1 rfl
    rw [if_pos hl, hload clr false hc] at h
    exact h
  · intro hc
    have h := accesses_of (x := x) (inc := inc) (fun c b w ts s =>
      if s.isLocal b w x then s.localLoad c b w d wd sx false true ts else s.longLoad c b w x d wd sx ts) rfl hi hc.1 rfl
    rw [if_pos hl, hload false true hc] at h
    exact h

end

/-- Settles O24: the lanes' bytes are read as memory holds them; the words are the bytes side by side, lowest first. -/
theorem loadsFromTile : Obligations.LoadsFromTile := ⟨localLoads_holds, loadedWords_holds⟩

end Sys2Proof.Machine

namespace Sys2Proof.Machine
open Sys2Proof.Claims

-- Post-increments.

section
variable {s : State} {c : Issue} {b : Block} {w : Warp} {g : Guard} {i : Instr}

/-- The streams of a word post-incremented. -/
def State.bumpAll (s : State) (c : Issue) (w : Warp) (bumps : List (Bool × Nat)) : State :=
  bumps.foldl (fun s p => s.bump c w p.1 p.2) s

/-- Blocks with the handles they had. -/
def State.SameHandles (s t : State) (n : Nat) : Prop :=
  ∀ b, s.block? n = some b → ∃ d, t.block? n = some d ∧ d.ring = b.ring ∧ d.ringNext = b.ringNext

theorem State.SameHandles.refl (s : State) (n : Nat) : s.SameHandles s n := fun b hb => ⟨b, hb, rfl, rfl⟩

theorem State.SameHandles.trans {s t u : State} {n : Nat} (h : s.SameHandles t n) (h' : t.SameHandles u n) : s.SameHandles u n :=
  fun b hb => by
    obtain ⟨d, hd, hr, hn⟩ := h b hb
    obtain ⟨e, he, hr', hn'⟩ := h' d hd
    exact ⟨e, he, hr'.trans hr, hn'.trans hn⟩

theorem State.sameHandles_modWarp (s : State) (k j n : Nat) (f : Warp → Warp) : s.SameHandles (s.modWarp k j f) n := fun b hb => by
  refine ⟨_, (State.block?_modWarp ..).trans (congrArg (Option.map _) hb), ?_, ?_⟩ <;> split <;> rfl

theorem State.sameHandles_bump (s : State) (c : Issue) (w : Warp) (inc : Bool) (x n : Nat) : s.SameHandles (s.bump c w inc x) n := by
  cases inc with
  | false => exact .refl s n
  | true =>
    unfold State.bump State.fly
    dsimp only
    rw [if_pos rfl]
    split
    · exact .refl s n
    · split
      · exact .refl s n
      · exact State.sameHandles_modWarp s _ _ n _

theorem State.sameHandles_bumpAll (c : Issue) (w : Warp) (n : Nat) (l : List (Bool × Nat)) : ∀ s : State,
    s.SameHandles (s.bumpAll c w l) n := by
  induction l with
  | nil => intro s; exact .refl s n
  | cons p l ih => intro s; exact (s.sameHandles_bump c w p.1 p.2 n).trans (ih _)

theorem State.bump_keeps {α : Type} (f : State → α) (hf : ∀ (s : State) l e, f (s.fly c l e) = f s) (inc : Bool) (x : Nat) (s : State) :
    f (s.bump c w inc x) = f s := by
  unfold State.bump
  split
  · exact hf ..
  · rfl

theorem State.bumpAll_keeps {α : Type} (f : State → α) (hf : ∀ (s : State) l e, f (s.fly c l e) = f s) (l : List (Bool × Nat)) :
    f (s.bumpAll c w l) = f s :=
  foldl_keeps (f := fun (s : State) (p : Bool × Nat) => s.bump c w p.1 p.2) f (fun s p => State.bump_keeps f hf p.1 p.2 s) l s

theorem State.warp?_modWarp_parked {n k m j : Nat} {v : Warp} {f : Warp → Warp} (hv : s.warp? n k = some v)
    (hf : ∀ w, (f w).num = w.num) (hp : (f v).parked = v.parked) (hr : (f v).records = v.records) :
    ∃ v', (s.modWarp m j f).warp? n k = some v' ∧ v'.parked = v.parked ∧ v'.records = v.records := by
  refine ⟨_, (State.warp?_modWarp _ _ _ _ _ _ hf).trans (congrArg (Option.map _) hv), ?_, ?_⟩ <;> dsimp only <;> split
  · exact hp
  · rfl
  · exact hr
  · rfl

/-- A warp whose streams are incremented keeps its parked lanes. -/
theorem State.warp?_bumpAll {n k : Nat} (c : Issue) (w : Warp) (l : List (Bool × Nat)) : ∀ {s : State} {v : Warp}, s.warp? n k = some v →
    ∃ v', (s.bumpAll c w l).warp? n k = some v' ∧ v'.parked = v.parked ∧ v'.records = v.records := by
  induction l with
  | nil => intro s v hv; exact ⟨v, hv, rfl, rfl⟩
  | cons p l ih =>
    intro s v hv
    have hone : ∃ v', (s.bump c w p.1 p.2).warp? n k = some v' ∧ v'.parked = v.parked ∧ v'.records = v.records := by
      unfold State.bump State.fly
      dsimp only
      split
      · split
        · exact ⟨v, hv, rfl, rfl⟩
        · split
          · exact ⟨v, hv, rfl, rfl⟩
          · exact State.warp?_modWarp_parked hv (fun _ => rfl) rfl rfl
      · exact ⟨v, hv, rfl, rfl⟩
    obtain ⟨v', hv', hp, hr⟩ := hone
    obtain ⟨v'', hv'', hp', hr'⟩ := ih hv'
    exact ⟨v'', hv'', hp'.trans hp, hr'.trans hr⟩

-- Pins leave addresses as they are.

/-- Entries but for their pins. -/
def TileEntry.place (e : TileEntry) : TileEntry := { e with pins := 0 }

theorem State.entryOf_modPins (s : State) (n k base off : Nat) (f : TileEntry → TileEntry) (hf : ∀ e, (f e).place = e.place) :
    ((s.modTensor n fun t => { t with entries := t.entries.modify k f }).entryOf base off).map TileEntry.place =
      (s.entryOf base off).map TileEntry.place := by
  unfold State.entryOf
  rw [State.tensor?_modTensor s n base (fun t => { t with entries := t.entries.modify k f }) fun _ => rfl]
  cases s.tensor? base with
  | none => rfl
  | some t =>
    dsimp only [Option.map_some, Option.bind_some]
    split
    · rw [List.getElem?_modify]
      cases t.entries[off / 65536]? with
      | none => rfl
      | some e =>
        dsimp only [Option.map_some]
        split
        · exact congrArg some (hf e)
        · rfl
    · rfl

theorem State.entryOf_pin (up : Bool) (base off : Nat) (fs : List (Nat × Nat)) : ∀ s : State,
    ((s.pin up fs).entryOf base off).map TileEntry.place = (s.entryOf base off).map TileEntry.place := by
  induction fs with
  | nil => intro s; rfl
  | cons f fs ih =>
    intro s
    exact (ih _).trans (s.entryOf_modPins f.1 f.2 base off _ fun e => rfl)

theorem State.tensorAddr_pin (s : State) (up : Bool) (fs : List (Nat × Nat)) (base off : Nat) :
    (s.pin up fs).tensorAddr base off = s.tensorAddr base off := by
  have h := s.entryOf_pin (up := up) base off fs
  unfold State.tensorAddr
  cases h1 : (s.pin up fs).entryOf base off <;> cases h2 : s.entryOf base off <;> rw [h1, h2] at h
  · cases h
  · cases h
  · have he := Option.some.inj h
    rw [TileEntry.place, TileEntry.place, TileEntry.mk.injEq] at he
    simp only [he]

theorem State.addrOf_pin (s : State) (up : Bool) (fs : List (Nat × Nat)) (l : Loc) : (s.pin up fs).addrOf l = s.addrOf l := by
  cases l with
  | tensor base off => exact s.tensorAddr_pin up fs base off
  | tmem k cr off => rfl
  | peer p base off => rfl

-- Submission (R138, R333).

/-- The operation a submission makes, before the kind of operation says more of it. -/
def EngOp.submitted (s : State) (c : Issue) (b : Block) (w : Warp) (kindNo : Nat) (kind : EngKind) (st : EngSt) (l : List Box) : EngOp :=
  { id := s.uid, block := b.bid, warp := w.num, handle := (b.alloc kindNo).1.toNat, kind := kind, st := st, stack := b.stack,
    core := w.core, word := c.uid, offset := c.tok, issue := c.cycle, waited := 0, last := 0, dst := none, srcA := none, srcB := none,
    pinned := planFrames l, overr := c.stores, own := c.stores.map (·.1), taint := [], image := [], doneRd := false }

/-- The state of a submission with its number and its handle taken and its frames pinned. -/
def State.submitted (s : State) (b : Block) (h kindNo : Nat) (l : List Box) : State :=
  ((({ s with uid := s.uid + 1 } : State).modBlock b.bid fun k => (k.alloc kindNo).2).pin true (planFrames l)).setHandle h
    (b.alloc kindNo).1

/-- The state of a refused submission, its lanes parked. -/
def State.refusedWith (s : State) (c : Issue) (b : Block) (w : Warp) (h kindNo cause rcd : Nat) (c0 c1 : Word32) : State :=
  ((s.modBlock b.bid fun k => ((k.alloc kindNo).2).resolve (b.alloc kindNo).1.toNat 4 0 false).setHandle h
    (b.alloc kindNo).1).parkTakers c b w c.lanes rcd cause c0 c1

variable {h kindNo : Nat} {kind : EngKind} {st : EngSt} {bumps : List (Bool × Nat)} {f : EngOp → List Box → State → State} {l : List Box}

theorem State.submit_boxes (hp : s.planOf b w i = .boxes l) (ha : s.absentFrame l = none) : s.submit c b w i h kindNo kind st bumps f =
    (f (.submitted s c b w kindNo kind st l) l (s.submitted b h kindNo l)).bumpAll c w bumps := by
  unfold State.submit
  dsimp only
  rw [hp]
  dsimp only
  rw [ha] <;> rfl

theorem State.submit_refused {cause rcd : Nat} {c0 c1 : Word32} (hp : s.planOf b w i = .refused cause rcd c0 c1) :
    s.submit c b w i h kindNo kind st bumps f = (s.refusedWith c b w h kindNo cause rcd c0 c1).bumpAll c w bumps := by
  unfold State.submit
  dsimp only
  rw [hp]
  rfl

/-- The engine operations are submissions. -/
theorem exec_eq_submit (hg : engineGuard i = some g) : ∃ (h kindNo : Nat) (kind : EngKind) (st : EngSt) (bumps : List (Bool × Nat))
    (F : Issue → Block → Warp → EngOp → List Box → State → State), exec i s = uniOp s i g fun c b w s =>
      s.submit c b w i h kindNo kind st bumps (F c b w) := by
  cases i <;> cases hg <;> exact ⟨_, _, _, _, _, _, rfl⟩

theorem trapOf_engine (hg : engineGuard i = some g) (hq : qGuard w g = true) : s.trapOf c b w i =
    if c.lanes == 0 then match s.planOf b w i with
      | .refused k _ _ _ => some (k, 0)
      | .boxes _ => none
    else none := by
  cases i <;> cases hg <;> unfold State.trapOf <;> dsimp only <;> rw [hq] <;> rfl

theorem trapOf_engine_boxes (hg : engineGuard i = some g) (hq : qGuard w g = true) (hp : s.planOf b w i = .boxes l) :
    s.trapOf c b w i = none := by
  rw [trapOf_engine hg hq, hp]
  split <;> rfl

@[simp] theorem State.submitted_mem : (s.submitted b h kindNo l).mem = s.mem := by
  unfold State.submitted
  rw [State.pin_frame]
  rfl
@[simp] theorem State.submitted_ops : (s.submitted b h kindNo l).ops = s.ops := by
  unfold State.submitted
  rw [State.pin_frame]
  rfl
theorem State.submitted_issue (hc : s.issue = some c) : (s.submitted b h kindNo l).issue =
    some { c with handles := c.handles ++ [(h, (b.alloc kindNo).1)] } := by
  unfold State.submitted
  rw [State.pin_frame, State.setHandle]
  dsimp only
  rw [show ((({ s with uid := s.uid + 1 } : State).modBlock b.bid fun k => (k.alloc kindNo).2).issue) = s.issue from rfl, hc]
  rfl
theorem State.submitted_block? (hb : s.block? c.block = some b) : (s.submitted b h kindNo l).block? c.block = some (b.alloc kindNo).2 := by
  have hbid : c.block = b.bid := (State.block?_bid hb).symm
  have hblocks : (s.submitted b h kindNo l).blocks = (s.modBlock b.bid fun k => (k.alloc kindNo).2).blocks := State.pin_blocks _ true _
  rw [State.block?, hblocks]
  refine (s.block?_modBlock b.bid c.block (fun k => (k.alloc kindNo).2) fun _ => rfl).trans ?_
  rw [hb, Option.map_some, if_pos hbid]
theorem State.submitted_addrOf (x : Loc) : (s.submitted b h kindNo l).addrOf x = s.addrOf x := by
  have hx := ((({ s with uid := s.uid + 1 } : State).modBlock b.bid fun k => (k.alloc kindNo).2)).addrOf_pin true (planFrames l) x
  cases x <;> exact hx

/-- An operation put last in a state that differs from the submission's in nothing a program sees is submitted. -/
theorem submitted_of {o : EngOp} {P : EngOp → Prop} {v : State} (hi : Issuing s c b w)
    (hex : exec i s = .next (v.bumpAll c w bumps)) (hops : v.ops = (s.submitted b h kindNo l).ops ++ [o])
    (hblocks : v.blocks = (s.submitted b h kindNo l).blocks) (hissue : v.issue = (s.submitted b h kindNo l).issue)
    (hmem : v.mem = (s.submitted b h kindNo l).mem) (ho : o.id = s.uid ∧ o.kind = kind ∧ o.block = b.bid ∧ o.warp = w.num ∧
      o.handle = (b.alloc kindNo).1.toNat ∧ o.issue = c.cycle ∧ o.stack = b.stack ∧ o.core = w.core) (hP : P o) :
    Submitted s i c b w h kindNo kind P := by
  obtain ⟨hc, hb, -⟩ := hi
  obtain ⟨h1, h2, h3, h4, h5, h6, h7, h8⟩ := ho
  have hvb : v.block? c.block = some (b.alloc kindNo).2 := by
    rw [State.block?, hblocks]
    exact State.submitted_block? hb
  obtain ⟨b', hb', hring, hnext⟩ := State.sameHandles_bumpAll c w c.block bumps v _ hvb
  refine ⟨_, o, b', hex, ?_, h1, h2, h3, h4, h5, h6, h7, h8, hP, hb', hring, hnext, ?_, fun a => ?_⟩
  · rw [State.bumpAll_keeps State.ops (fun _ _ _ => State.fly_ops ..), hops, List.getLast?_append]
    rfl
  · rw [State.bumpAll_keeps State.issue (fun _ _ _ => State.fly_issue ..), hissue]
    exact State.submitted_issue hc
  · rw [State.bumpAll_keeps State.mem (fun _ _ _ => State.fly_mem ..), hmem, State.submitted_mem]

/-- An engine operation accepted runs its own part of the submission. -/
theorem exec_submits {F : Issue → Block → Warp → EngOp → List Box → State → State} (hi : Issuing s c b w)
    (hg : engineGuard i = some g) (hq : qGuard w g = true) (hp : s.planOf b w i = .boxes l) (ha : s.absentFrame l = none)
    (he : exec i s = uniOp s i g fun c b w s => s.submit c b w i h kindNo kind st bumps (F c b w)) :
    exec i s = .next ((F c b w (.submitted s c b w kindNo kind st l) l (s.submitted b h kindNo l)).bumpAll c w bumps) :=
  he.trans ((uniOp_runs hi hq (trapOf_engine_boxes hg hq hp) _).trans (congrArg Host.Outcome.next (State.submit_boxes hp ha)))

theorem leBytes_eq_map (n : Nat) : ∀ v, leBytes n v = (List.range n).map fun q => BitVec.ofNat 8 (v / 256 ^ q) := by
  induction n with
  | zero => intro v; rfl
  | succ n ih =>
    intro v
    rw [leBytes, ih, List.range_succ_eq_map, List.map_cons, List.map_map, Nat.pow_zero, Nat.div_one]
    congr 1
    refine List.map_congr_left fun q _ => ?_
    rw [Function.comp, Nat.succ_eq_add_one, Nat.pow_succ', Nat.div_div_eq_div_mul]

/-- The boxes of a copy that has elements. -/
def EngOp.boxed (o : EngOp) (l : List Box) : EngOp := { o with dst := l[0]?, srcA := l[1]?, srcB := l[2]? }

theorem State.enqueue_full {o : EngOp} (hne : l ≠ []) (hfull : ∀ x, l.head? = some x → x.e0 ≠ 0 ∧ x.e1 ≠ 0) :
    ∃ gs, s.enqueue o l = { s.setEmpty gs with ops := s.ops ++ [o.boxed l] } := by
  obtain ⟨x, l, rfl⟩ := List.exists_cons_of_ne_nil hne
  obtain ⟨h0, h1⟩ := hfull x rfl
  refine ⟨addrGranules (((o.boxed (x :: l)).dests s).flatMap s.boxAddrs), ?_⟩
  unfold State.enqueue
  dsimp only [List.getElem?_cons_zero]
  rw [if_neg (by simp [h0, h1])]
  rfl

theorem State.enqueue_empty {o : EngOp} {x : Box} (hx : l.head? = some x) (he : x.e0 = 0 ∨ x.e1 = 0) :
    s.enqueue o l = (s.resolve o.block o.handle 1 0 false).observe 0 0 o.block o.warp := by
  cases l with
  | nil => cases hx
  | cons y l =>
    obtain rfl := Option.some.inj hx
    unfold State.enqueue
    dsimp only [List.getElem?_cons_zero]
    rw [if_pos (by simpa using he)]

/-- A copy of boxes with elements is submitted. -/
theorem enqueue_submits (hi : Issuing s c b w) (hg : engineGuard i = some g) (hq : qGuard w g = true)
    (hfit : s.planOf b w i = .boxes l ∧ s.absentFrame l = none) (hne : l ≠ [])
    (hfull : ∀ x, l.head? = some x → x.e0 ≠ 0 ∧ x.e1 ≠ 0) (he : exec i s = uniOp s i g fun c b w s =>
      s.submit c b w i h kindNo kind .queued bumps fun o l s => s.enqueue o l) :
    Submitted s i c b w h kindNo kind fun o => o.st = .queued ∧ o.dst = l[0]? ∧ o.srcA = l[1]? ∧ o.srcB = l[2]? := by
  have hex := exec_submits (F := fun _ _ _ o l s => s.enqueue o l) hi hg hq hfit.1 hfit.2 he
  obtain ⟨gs, hgs⟩ := State.enqueue_full (s := s.submitted b h kindNo l) (o := .submitted s c b w kindNo kind .queued l) hne hfull
  rw [hgs] at hex
  exact submitted_of (h := h) (l := l) hi hex rfl rfl rfl rfl ⟨rfl, rfl, rfl, rfl, rfl, rfl, rfl, rfl⟩ ⟨rfl, rfl, rfl, rfl⟩

theorem submitted_imp {P Q : EngOp → Prop} (hs : Submitted s i c b w h kindNo kind P) (hPQ : ∀ o, P o → Q o) :
    Submitted s i c b w h kindNo kind Q := by
  obtain ⟨t, o, b', h1, h2, h3, h4, h5, h6, h7, h8, h9, h10, hP, hrest⟩ := hs
  exact ⟨t, o, b', h1, h2, h3, h4, h5, h6, h7, h8, h9, h10, hPQ o hP, hrest⟩

-- Each kind of submission.

/-- An `mmac` as it is queued. -/
def EngOp.asMmac (o : EngOp) (s : State) (w : Warp) (last : Nat) (l : List Box) : EngOp :=
  let o := { o with last := last, srcA := l[0]?, srcB := l[1]? }
  { o with overr := s.pickOlder o w.unready ++ o.overr }

/-- What queueing it makes of the state. -/
def State.queueMmac (s : State) (c : Issue) (b : Block) (w : Warp) (acc nf mf : Nat) (pair : MPair) (o : EngOp) (l : List Box) : State :=
  let last := max (c.cycle + 24) (s.lastOf (coreId b w)) + accCycles nf mf pair
  { (s.setBusy b w acc nf o.id true true 0).setLast (coreId b w) last with
    ops := s.ops ++ [o.asMmac s w last l]
    freeCtr := s.freeCtr + (w.unready.map fun e => e.2.2.length).sum }

theorem mmac_submits {acc nf mf xa xb : Nat} {pair : MPair} {pro ia ib : Bool} (hi : Issuing s c b w) (hq : qGuard w g = true)
    (hp : s.planOf b w (.mmac g h acc nf mf pair pro xa ia xb ib) = .boxes l) (ha : s.absentFrame l = none) :
    Submitted s (.mmac g h acc nf mf pair pro xa ia xb ib) c b w h 3 (.mmac acc nf mf pair pro) fun o =>
      o.st = .queued ∧ o.srcA = l[0]? ∧ o.srcB = l[1]? ∧
        o.last = max (c.cycle + 24) (s.lastOf (coreId b w)) + accCycles nf mf pair := by
  have hlast : (s.submitted b h 3 l).lastOf (coreId b w) = s.lastOf (coreId b w) := by
    unfold State.submitted
    rw [State.pin_frame]
    rfl
  have hex := exec_submits (h := h) (kindNo := 3) (kind := .mmac acc nf mf pair pro) (st := .queued) (bumps := [(ia, xa), (ib, xb)])
    (F := fun c b w o l s => s.queueMmac c b w acc nf mf pair o l) hi rfl hq hp ha rfl
  refine submitted_of (h := h) (l := l) hi hex rfl rfl rfl rfl ⟨rfl, rfl, rfl, rfl, rfl, rfl, rfl, rfl⟩ ⟨rfl, rfl, rfl, ?_⟩
  rw [← hlast]
  rfl

/-- What starting an `mload` makes of the state. -/
def State.startMload (s : State) (b : Block) (w : Warp) (acc nt : Nat) (o : EngOp) (l : List Box) : State :=
  { s.setBusy b w acc nt o.id false true 0 with ops := s.ops ++ [{ o with srcA := l[0]? }] }

theorem mload_submits {acc nt mf xa : Nat} {ia : Bool} (hi : Issuing s c b w) (hq : qGuard w g = true)
    (hp : s.planOf b w (.mload g h acc nt mf xa ia) = .boxes l) (ha : s.absentFrame l = none) :
    Submitted s (.mload g h acc nt mf xa ia) c b w h 1 (.mload acc nt mf) fun o => o.st = .started ∧ o.srcA = l[0]? := by
  have hex := exec_submits (h := h) (kindNo := 1) (kind := .mload acc nt mf) (st := .started) (bumps := [(ia, xa)])
    (F := fun _ b w o l s => s.startMload b w acc nt o l) hi rfl hq hp ha rfl
  refine submitted_of (h := h) (l := l) hi hex rfl rfl rfl rfl ⟨rfl, rfl, rfl, rfl, rfl, rfl, rfl, rfl⟩ ⟨rfl, rfl⟩

/-- The bytes an `mstore` holds. -/
def State.storedImage (s : State) (src : Bool) (fmt : Fmt) (rm : Rm) (core : Nat) (tiles : List Nat) (x : Box) : List (Nat × Byte) :=
  x.elems.flatMap fun p => (List.range (elemBytes x.rcd.format)).map fun q =>
    (s.addrOf (x.loc (x.off p.1 p.2 + q)), BitVec.ofNat 8 (storeElem src fmt rm (s.cell (cellAddr core tiles p.2 p.1)) / 256 ^ q))

theorem storedImage_eq {src : Bool} {fmt : Fmt} {rm : Rm} {core : Nat} {tiles : List Nat} {x : Box} {u : State}
    (ha : ∀ y, u.addrOf y = s.addrOf y) (hm : u.mem = s.mem) :
    (x.elems.flatMap fun p =>
      let v := storeElem src fmt rm (u.cell (cellAddr core tiles p.2 p.1))
      (leBytes (elemBytes x.rcd.format) v).mapIdx fun q y => (u.addrOf (x.loc (x.off p.1 p.2 + q)), y)) =
    s.storedImage src fmt rm core tiles x := by
  refine List.flatMap_congr fun p _ => ?_
  dsimp only
  rw [leBytes_eq_map, State.cell, State.cell, hm]
  exact List.ext_getElem (by simp) fun q h1 h2 => by simp [ha]

/-- What starting an `mstore` of an image makes of the state. -/
def State.startMstore (s : State) (c : Issue) (b : Block) (w : Warp) (acc nt mf : Nat) (o : EngOp) (x : Box)
    (image : List (Nat × Byte)) : State :=
  { (s.setBusy b w acc nt o.id false false (c.cycle + moveCycles nt mf + 4)).setEmpty (addrGranules (image.map (·.1))) with
    ops := s.ops ++ [{ o with dst := some x, image := image }] }

theorem mstore_submits {acc nt mf xa : Nat} {fmt : Fmt} {rm : Rm} {src ia : Bool} (hi : Issuing s c b w) (hq : qGuard w g = true)
    (hp : s.planOf b w (.mstore g h acc nt mf fmt rm src xa ia) = .boxes l) (ha : s.absentFrame l = none) (hne : l ≠ []) :
    Submitted s (.mstore g h acc nt mf fmt rm src xa ia) c b w h 1 (.mstore acc nt mf fmt rm src) fun o =>
      o.st = .started ∧ o.dst = l[0]? ∧ ∀ x, l[0]? = some x →
        o.image = s.storedImage src fmt rm (coreId b w) (b.tiles w.core acc nt) x := by
  have hex := exec_submits (h := h) (kindNo := 1) (kind := .mstore acc nt mf fmt rm src) (st := .started) (bumps := [(ia, xa)])
    (F := fun c b w o l s =>
      match l[0]? with
      | none => s
      | some x => s.startMstore c b w acc nt mf o x (x.elems.flatMap fun p =>
          let v := storeElem src fmt rm (s.cell (cellAddr (coreId b w) (b.tiles w.core acc nt) p.2 p.1))
          (leBytes (elemBytes x.rcd.format) v).mapIdx fun q y => (s.addrOf (x.loc (x.off p.1 p.2 + q)), y))) hi rfl hq hp ha rfl
  obtain ⟨x, l, rfl⟩ := List.exists_cons_of_ne_nil hne
  dsimp only [List.getElem?_cons_zero] at hex
  rw [storedImage_eq (fun y => State.submitted_addrOf y) State.submitted_mem] at hex
  refine submitted_of (h := h) (l := x :: l) hi hex rfl rfl rfl rfl ⟨rfl, rfl, rfl, rfl, rfl, rfl, rfl, rfl⟩ ⟨rfl, rfl, fun y hy => ?_⟩
  obtain rfl := Option.some.inj hy
  rfl

/-- A copy with no element is done as it is submitted. -/
theorem cpy_empty {xa xb a : Nat} {ia ib : Bool} {x : Box} (hi : Issuing s c b w) (hq : qGuard w g = true)
    (hp : s.planOf b w (.cpy g h xa ia xb ib a) = .boxes l) (ha : s.absentFrame l = none) (hx : l.head? = some x)
    (he : x.e0 = 0 ∨ x.e1 = 0) :
    ∃ t b', exec (.cpy g h xa ia xb ib a) s = .next t ∧ t.ops = s.ops ∧ t.block? c.block = some b' ∧ SameMemory s t ∧
      b'.ring = ((b.alloc 1).2.resolve (b.alloc 1).1.toNat 1 0 false).ring := by
  have hex := exec_submits (h := h) (kindNo := 1) (kind := .cpy) (st := .queued) (bumps := [(ia, xa), (ib, xb)])
    (F := fun _ _ _ o l s => s.enqueue o l) hi rfl hq hp ha rfl
  rw [State.enqueue_empty hx he] at hex
  have hres := (s.submitted b h 1 l).block?_modBlock b.bid c.block (fun k => k.resolve (b.alloc 1).1.toNat 1 0 false) fun _ => rfl
  rw [State.submitted_block? hi.2.1, Option.map_some, if_pos (State.block?_bid hi.2.1).symm] at hres
  have hobs : ∀ u : State, (u.observe 0 0 b.bid w.num).block? c.block = u.block? c.block := fun u => by rw [State.observe_frame]; rfl
  obtain ⟨b', hb', hring, -⟩ := State.sameHandles_bumpAll c w c.block [(ia, xa), (ib, xb)]
    (((s.submitted b h 1 l).resolve b.bid (b.alloc 1).1.toNat 1 0 false).observe 0 0 b.bid w.num) _ ((hobs _).trans hres)
  refine ⟨_, b', hex, ?_, hb', fun a => ?_, hring⟩
  · rw [State.bumpAll_keeps State.ops (fun _ _ _ => State.fly_ops ..), State.observe_frame]
    exact State.submitted_ops (s := s) (b := b) (h := h) (kindNo := 1) (l := l)
  · rw [State.bumpAll_keeps State.mem (fun _ _ _ => State.fly_mem ..), State.observe_mem]
    exact congrArg (Memory.read · a) (State.submitted_mem (s := s) (b := b) (h := h) (kindNo := 1) (l := l))

theorem engineSubmits_holds : EngineSubmits := by
  intro s c b w g h acc nf nt mf xa xb xr a m pair pro ia ib ir src fmt rm op l hi hq fits full
  refine ⟨fun hf => mmac_submits hi hq hf.1 hf.2, fun hf => mload_submits hi hq hf.1 hf.2,
    fun hf hne => mstore_submits hi hq hf.1 hf.2 hne, fun hf hne hfull => ?_, fun hf hne hfull => ?_, fun hf hne hfull => ?_,
    fun hf hx => ?_⟩
  · exact submitted_imp (enqueue_submits (bumps := [(ia, xa), (ib, xb)]) hi rfl hq hf hne hfull rfl) fun o ho => ⟨ho.1, ho.2.1, ho.2.2.1⟩
  · exact submitted_imp (enqueue_submits (bumps := [(ia, xa), (ib, xb)]) hi rfl hq hf hne hfull rfl) fun o ho => ⟨ho.1, ho.2.1, ho.2.2.1⟩
  · exact enqueue_submits (bumps := [(ia, xa), (ib, xb), (ir, xr)]) hi rfl hq hf hne hfull rfl
  · obtain ⟨x, hx, he⟩ := hx
    exact cpy_empty hi hq hf.1 hf.2 hx he

-- Refusals (R333).

/-- Lanes parked all at once with records alike. -/
theorem Warp.parkEach_lanes (v : Warp) (m : Mask) (rec_ : Nat → LaneRec) (hrec : ∀ l, (rec_ l).lane = l) :
    (∀ l, l < 32 → (v.parkEach ((lanesOf m).map rec_)).parked.getLsbD l = (v.parked.getLsbD l || m.getLsbD l)) ∧
    (v.parkEach ((lanesOf m).map rec_)).records =
      v.records ++ ((List.range 32).filter fun l => m.getLsbD l && !v.parked.getLsbD l).map rec_ := by
  have hlanes : ((lanesOf m).map rec_).map LaneRec.lane = lanesOf m := by
    rw [List.map_map]
    exact (List.map_congr_left fun l _ => hrec l).trans (List.map_id _)
  refine ⟨fun l hl => ?_, ?_⟩
  · rw [Warp.parkEach_parked _ hl, List.any_map]
    congr 1
    rw [Bool.eq_iff_iff, List.any_eq_true]
    simp only [lanesOf_eq_filter, Function.comp, hrec, List.mem_filter, List.mem_range, beq_iff_eq]
    exact ⟨fun ⟨k, hk, he⟩ => he ▸ hk.2, fun hm => ⟨l, ⟨hl, hm⟩, rfl⟩⟩
  · rw [Warp.parkEach_records]
    · rw [List.filter_map, lanesOf_eq_filter, List.filter_filter]
      congr 2
      exact List.filter_congr fun l _ => by rw [Function.comp, hrec, Bool.and_comm]
    · intro r hr
      obtain ⟨l, hl, rfl⟩ := List.mem_map.1 hr
      rw [lanesOf_eq_filter, List.mem_filter, List.mem_range] at hl
      rw [hrec]
      exact hl.1
    · rw [hlanes, lanesOf_eq_filter]
      exact List.nodup_range.filter _

theorem State.sameHandles_parkAll (n k j code : Nat) (rs : List LaneRec) : ∀ s : State, s.SameHandles (s.parkAll n k rs code) j := by
  induction rs with
  | nil => intro s; exact .refl s j
  | cons r rs ih => intro s; exact (State.sameHandles_modWarp s n k j _).trans (ih (s.parkLane n k r code))

section
variable {cause rcd : Nat} {c0 c1 : Word32}

/-- A refused submission before its lanes are parked: the handle of the block resolved as refused. -/
def State.refusing (s : State) (b : Block) (h kindNo : Nat) : State :=
  (s.modBlock b.bid fun k => ((k.alloc kindNo).2).resolve (b.alloc kindNo).1.toNat 4 0 false).setHandle h (b.alloc kindNo).1

theorem State.refusing_block? (hb : s.block? b.bid = some b) :
    (s.refusing b h kindNo).block? b.bid = some ((b.alloc kindNo).2.resolve (b.alloc kindNo).1.toNat 4 0 false) := by
  refine (s.block?_modBlock b.bid b.bid (fun k => ((k.alloc kindNo).2).resolve (b.alloc kindNo).1.toNat 4 0 false)
    fun _ => rfl).trans ?_
  rw [hb, Option.map_some, if_pos rfl]

theorem State.refusing_warp? (hb : s.block? b.bid = some b) (hw : b.warp? w.num = some w) :
    (s.refusing b h kindNo).warp? b.bid w.num = some w := by
  rw [State.warp?, State.refusing_block? hb]
  exact hw

/-- The record of each lane parked by a refusal. -/
def Issue.refusal (c : Issue) (rcd cause : Nat) (c0 c1 : Word32) (l : Nat) : LaneRec :=
  { lane := l, cause := cause, slot := slotNum c.cur, rcd := rcd, offset := c.tok, c0 := c0, c1 := c1 }

theorem State.refusedWith_eq : s.refusedWith c b w h kindNo cause rcd c0 c1 =
    (s.refusing b h kindNo).parkAll b.bid w.num ((lanesOf c.lanes).map (c.refusal rcd cause c0 c1)) 0x81 := rfl

end

theorem engineRefusals_holds : EngineRefusals := by
  intro s c b w i g cause rcd c0 c1 hi hg hq hp
  obtain ⟨h, kindNo, kind, st, bumps, F, he⟩ := exec_eq_submit (s := s) hg
  have htrap := trapOf_engine (s := s) (c := c) (b := b) hg hq
  rw [hp] at htrap
  refine ⟨fun h0 hcl => ?_, fun hne hbank => ?_⟩
  · obtain ⟨h1, h2, h3⟩ := hi
    rw [h0, if_pos (by decide)] at htrap
    exact he.trans (uniOp_trap i _ h1 h2 h3 hcl htrap)
  · rw [if_neg (by simpa using hne)] at htrap
    have hex := he.trans ((uniOp_runs hi hq htrap _).trans (congrArg Host.Outcome.next (State.submit_refused hp)))
    obtain ⟨h1, h2, h3⟩ := hi
    have hbid : b.bid = c.block := State.block?_bid h2
    have hnum : w.num = c.warp := Block.warp?_num h3
    rw [← hbid] at h2 ⊢
    rw [← hnum] at h3 ⊢
    rw [State.refusedWith_eq] at hex
    obtain ⟨b1, hb1, hring1, -⟩ := State.sameHandles_parkAll b.bid w.num b.bid 0x81 ((lanesOf c.lanes).map (c.refusal rcd cause c0 c1))
      (s.refusing b h kindNo) _ (State.refusing_block? h2)
    have hw1 := State.warp?_parkAll (code := 0x81) ((lanesOf c.lanes).map (c.refusal rcd cause c0 c1))
      (State.refusing_warp? (h := h) (kindNo := kindNo) h2 h3) hbank
    obtain ⟨hparked, hrecords⟩ := w.parkEach_lanes c.lanes (c.refusal rcd cause c0 c1) fun _ => rfl
    obtain ⟨b2, hb2, hring2, -⟩ := State.sameHandles_bumpAll c w b.bid bumps _ _ hb1
    obtain ⟨v, hv, hvp, hvr⟩ := State.warp?_bumpAll c w bumps hw1
    refine ⟨_, v, (b.alloc kindNo).1.toNat, hex, ?_, ?_, fun a => ?_, hv, ⟨b2, kindNo, hb2, hring2.trans hring1, rfl⟩,
      fun l hl => ?_, ?_⟩
    · rw [State.bumpAll_keeps State.ops (fun _ _ _ => State.fly_ops ..), State.parkAll_ops]
      rfl
    · rw [State.bumpAll_keeps State.tensors (fun _ _ _ => State.fly_tensors ..), State.parkAll_tensors]
      rfl
    · rw [State.bumpAll_keeps State.mem (fun _ _ _ => State.fly_mem ..), State.parkAll_mem]
      rfl
    · rw [hvp]
      exact hparked l hl
    · rw [hvr, hrecords]
      rfl

end

/-- Settles O30: a submission is its number, its handle, its pins and its own part; a refusal parks the lanes one after the other. -/
theorem engineSubmissions : Obligations.EngineSubmissions := ⟨engineSubmits_holds, engineRefusals_holds⟩

end Sys2Proof.Machine

end

section
/-! SUPPORT. Queues, fills and probes (O29), commits and timed loads (O28). -/

namespace Sys2Proof.Machine
open Sys2Proof.Claims

-- Words delivered to a lane.

section
variable {w : Warp} {d : VDst} {lane l n m j : Nat} {ws : List Word32}

/-- One register's word of a delivery. -/
def Warp.deliverOne (n lane : Nat) (w : Warp) (p : Word32 × Nat) : Warp :=
  { w with v := w.v.set (n + p.2) ((w.vread (n + p.2)).set lane p.1) }

theorem Warp.deliver_reg (w : Warp) (n lane : Nat) (ws : List Word32) :
    w.deliver (.reg n) lane ws = ws.zipIdx.foldl (Warp.deliverOne n lane) w := rfl

theorem Warp.deliver_eq (w : Warp) (d : VDst) (lane : Nat) (ws : List Word32) :
    w.deliver d lane ws = { w with v := (w.deliver d lane ws).v } := by
  cases d with
  | nw => rfl
  | reg n =>
    rw [Warp.deliver_reg]
    generalize ws.zipIdx = ps
    induction ps generalizing w with
    | nil => rfl
    | cons p ps ih => exact (ih (w.deliverOne n lane p)).trans rfl

theorem Warp.vread_deliverOne (p : Word32 × Nat) : (w.deliverOne n lane p).vread m =
    if m = n + p.2 ∧ m < w.v.length then (w.vread m).set lane p.1 else w.vread m := by
  have h : (w.deliverOne n lane p).vread m = (w.v.set (n + p.2) ((w.vread (n + p.2)).set lane p.1)).getD m (splat 0) := rfl
  rw [h, List.getD, List.getElem?_set]
  by_cases hm : n + p.2 = m
  · subst hm
    by_cases hl : n + p.2 < w.v.length
    · rw [if_pos rfl, if_pos hl, if_pos ⟨rfl, hl⟩]
      rfl
    · rw [if_pos rfl, if_neg hl, if_neg (fun hc => hl hc.2), Warp.vread, List.getD, List.getElem?_eq_none (Nat.le_of_not_lt hl)]
  · rw [if_neg hm, if_neg (fun hc => hm hc.1.symm)]
    rfl

theorem Warp.length_deliverOne (p : Word32 × Nat) : (w.deliverOne n lane p).v.length = w.v.length := List.length_set

theorem Warp.length_vread_deliverOne (p : Word32 × Nat) : ((w.deliverOne n lane p).vread m).length = (w.vread m).length := by
  rw [Warp.vread_deliverOne]
  split
  · exact List.length_set
  · rfl

theorem Warp.deliverOne_other (hl : l ≠ lane) (p : Word32 × Nat) : ((w.deliverOne n lane p).vread m)[l]? = (w.vread m)[l]? := by
  rw [Warp.vread_deliverOne]
  split
  · exact List.getElem?_set_ne (Ne.symm hl)
  · rfl

theorem Warp.foldl_deliverOne (ps : List (Word32 × Nat)) : ∀ w : Warp,
    (ps.foldl (Warp.deliverOne n lane) w).v.length = w.v.length ∧
    (∀ m, ((ps.foldl (Warp.deliverOne n lane) w).vread m).length = (w.vread m).length) ∧
    (∀ m l, l ≠ lane → ((ps.foldl (Warp.deliverOne n lane) w).vread m)[l]? = (w.vread m)[l]?) ∧
    (∀ m, (∀ p ∈ ps, m ≠ n + p.2) → (ps.foldl (Warp.deliverOne n lane) w).vread m = w.vread m) := by
  induction ps with
  | nil => intro w; exact ⟨rfl, fun _ => rfl, fun _ _ _ => rfl, fun _ _ => rfl⟩
  | cons p ps ih =>
    intro w
    obtain ⟨h1, h2, h3, h4⟩ := ih (w.deliverOne n lane p)
    refine ⟨h1.trans (Warp.length_deliverOne p), fun m => (h2 m).trans (Warp.length_vread_deliverOne p),
      fun m l hl => (h3 m l hl).trans (Warp.deliverOne_other hl p), fun m hm => (h4 m fun q hq => hm q (List.mem_cons_of_mem _ hq)).trans ?_⟩
    rw [Warp.vread_deliverOne, if_neg fun hc => hm p List.mem_cons_self hc.1]

@[simp] theorem Warp.length_deliver : (w.deliver d lane ws).v.length = w.v.length := by
  cases d with
  | nw => rfl
  | reg n => exact (Warp.foldl_deliverOne _ w).1
@[simp] theorem Warp.length_vread_deliver : ((w.deliver d lane ws).vread m).length = (w.vread m).length := by
  cases d with
  | nw => rfl
  | reg n => exact (Warp.foldl_deliverOne _ w).2.1 m
theorem Warp.deliver_other (hl : l ≠ lane) : ((w.deliver d lane ws).vread m)[l]? = (w.vread m)[l]? := by
  cases d with
  | nw => rfl
  | reg n => exact (Warp.foldl_deliverOne _ w).2.2.1 m l hl

theorem Warp.foldl_deliverOne_at {x : Word32} : ∀ {ws : List Word32} {k : Nat} {w : Warp}, ws[j]? = some x → n + (k + j) < w.v.length →
    lane < (w.vread (n + (k + j))).length →
    (((ws.zipIdx k).foldl (Warp.deliverOne n lane) w).vread (n + (k + j)))[lane]? = some x := by
  induction j with
  | zero =>
    intro ws k w hx hn hl
    cases ws with
    | nil => cases hx
    | cons y ws =>
      obtain rfl := Option.some.inj hx
      rw [List.zipIdx_cons, List.foldl_cons, (Warp.foldl_deliverOne _ _).2.2.2 (n + (k + 0)), Warp.vread_deliverOne, if_pos ⟨rfl, hn⟩]
      · exact List.getElem?_set_self hl
      · intro p hp
        have := (List.mem_zipIdx hp).1
        omega
  | succ j ih =>
    intro ws k w hx hn hl
    cases ws with
    | nil => cases hx
    | cons y ws =>
      have hi : n + (k + (j + 1)) = n + (k + 1 + j) := by omega
      rw [hi] at hn hl ⊢
      rw [List.zipIdx_cons, List.foldl_cons]
      exact ih (List.getElem?_cons_succ.symm.trans hx) (by rw [Warp.length_deliverOne]; exact hn)
        (by rw [Warp.length_vread_deliverOne]; exact hl)

/-- The words stand in the lane of the registers they are for. -/
theorem delivered_deliver (w : Warp) (d : VDst) (lane : Nat) (ws : List Word32) : Delivered w (w.deliver d lane ws) d lane ws := by
  rintro n j x rfl hn hl hx
  have h := Warp.foldl_deliverOne_at (n := n) (lane := lane) (k := 0) (w := w) hx (by rwa [Nat.zero_add]) (by rwa [Nat.zero_add])
  rw [Nat.zero_add] at h
  exact h

/-- A delivery depends on the registers, and later changes of other fields do not matter. -/
theorem delivered_of_v {v v' : Warp} (h : Delivered w v d lane ws) (hv : v'.v = v.v) : Delivered w v' d lane ws := by
  intro n j x hd hn hl hx
  have := h n j x hd hn hl hx
  rwa [Warp.vread, hv]

end

-- Data given to a warp, and the end of its lanes.

section
variable {s : State} {r : Req} {d : VDst} {lane id : Nat} {ws : List Word32} {w : Warp}

theorem Warp.foldl_settleOn_eq {α : Type} (f : α → PReg) (m : Mask) (t : Nat) (l : List α) : ∀ w : Warp,
    ∃ fl, l.foldl (fun w i => w.settleOn (f i) m t) w = { w with flights := fl } := by
  induction l with
  | nil => intro w; exact ⟨_, rfl⟩
  | cons a l ih =>
    intro w
    obtain ⟨fl, h⟩ := ih (w.settleOn (f a) m t)
    exact ⟨fl, h⟩

theorem Warp.deliver_flights (w : Warp) (fl : List Flight) (d : VDst) (lane : Nat) (ws : List Word32) :
    ({ w with flights := fl } : Warp).deliver d lane ws = { w.deliver d lane ws with flights := fl } := by
  cases d with
  | nw => rfl
  | reg n =>
    rw [Warp.deliver_reg, Warp.deliver_reg]
    generalize ws.zipIdx = ps
    induction ps generalizing w with
    | nil => rfl
    | cons p ps ih => exact ih (w.deliverOne n lane p)

/-- A request's data reaches the registers of its warp. -/
theorem State.warp?_give (h : s.warp? r.block r.warp = some w) (d : VDst) (lane : Nat) (ws : List Word32) :
    ∃ fl, (s.give r d lane ws).warp? r.block r.warp = some { w.deliver d lane ws with flights := fl } := by
  unfold State.give
  dsimp only
  cases d with
  | nw => exact ⟨w.flights, State.warp?_modWarp_self h fun v => rfl⟩
  | reg n =>
    have hnum : ∀ v : Warp, (((List.range ws.length).foldl (fun w i => w.settleOn (.v (n + i)) (BitVec.ofNat 32 (2 ^ lane))
        ((s.cluster r.stack (r.core / 8)).cycle)) v).deliver (.reg n) lane ws).num = v.num := fun v => by
      obtain ⟨fl, hfl⟩ := Warp.foldl_settleOn_eq (fun i => .v (n + i)) (BitVec.ofNat 32 (2 ^ lane))
        ((s.cluster r.stack (r.core / 8)).cycle) (List.range ws.length) v
      rw [hfl, Warp.deliver_eq]
    obtain ⟨fl, hfl⟩ := Warp.foldl_settleOn_eq (fun i => .v (n + i)) (BitVec.ofNat 32 (2 ^ lane))
      ((s.cluster r.stack (r.core / 8)).cycle) (List.range ws.length) w
    refine ⟨fl, (State.warp?_modWarp_self h hnum).trans ?_⟩
    rw [hfl, Warp.deliver_flights]

/-- The end of lanes of a request changes its warp's pending registers alone. -/
theorem State.warp?_endLanes (h : s.warp? r.block r.warp = some w) (done : List Nat) :
    ∃ p, (s.endLanes r done).warp? r.block r.warp = some { w with pend := p } := by
  unfold State.endLanes
  dsimp only
  split
  · exact ⟨_, h⟩
  · split
    · exact ⟨_, State.warp?_modWarp_self (s := { s with reqs := s.reqs.filter fun q => q.id != r.id }) h fun _ => rfl⟩
    · exact ⟨_, h⟩

theorem State.endLanes_frame (s : State) (r : Req) (done : List Nat) :
    s.endLanes r done = { s with reqs := (s.endLanes r done).reqs, blocks := (s.endLanes r done).blocks } := by
  unfold State.endLanes
  dsimp only
  split
  · rfl
  · split <;> rfl

theorem State.give_frame (s : State) (r : Req) (d : VDst) (lane : Nat) (ws : List Word32) :
    s.give r d lane ws = { s with blocks := (s.give r d lane ws).blocks } := rfl

/-- A lane that ends is no lane of its request any more, and other requests stand. -/
theorem laneEnded_endLanes {u : State} {q : Req} (hq : s.reqs.find? (fun q => q.id == id) = some q) (hr : r.id = id)
    (hu : u.reqs = s.reqs) {done : List Nat} (hd : lane ∈ done) : LaneEnded s (u.endLanes r done) id lane := by
  have hfind : u.reqs.find? (fun q => q.id == r.id) = some q := by rw [hu, hr]; exact hq
  have hleft : ∀ k ∈ q.lanes.filter (fun a => !done.contains a.lane), k.lane ≠ lane := by
    intro k hk he
    obtain ⟨-, hk⟩ := List.mem_filter.1 hk
    rw [he, List.contains_iff_mem.2 hd] at hk
    exact absurd hk (by decide)
  unfold State.endLanes
  rw [hfind]
  dsimp only
  split
  · have hreqs : (({ u with reqs := u.reqs.filter fun q => q.id != r.id } : State).modWarp r.block r.warp fun w =>
        { w with pend := w.pend.map fun (p : Pend) => if p.req == r.id then
          { p with returned := some (u.cluster r.stack (r.core / 8)).cycle } else p }).reqs = s.reqs.filter fun q => q.id != id := by
      rw [← hu, ← hr]
      rfl
    refine ⟨fun p hp hid => ?_, fun p hid => ?_⟩
    · rw [hreqs] at hp
      exact absurd hid (by simpa using (List.mem_filter.1 hp).2)
    · rw [hreqs, List.mem_filter]
      exact ⟨fun hp => hp.1, fun hp => ⟨hp, by simpa using hid⟩⟩
  · rw [hr]
    refine ⟨fun p hp hid => ?_, fun p hid => ?_⟩
    · dsimp only at hp
      rw [hu] at hp
      obtain ⟨p', -, rfl⟩ := List.mem_map.1 hp
      by_cases he : (p'.id == id) = true
      · rw [if_pos he]
        exact hleft
      · rw [if_neg he] at hid
        exact absurd hid (by simpa using he)
    · dsimp only
      rw [hu, List.mem_map]
      constructor
      · rintro ⟨p', hp', rfl⟩
        by_cases he : (p'.id == id) = true
        · rw [if_pos he] at hid
          exact absurd (beq_iff_eq.1 he) hid
        · rw [if_neg he]
          exact hp'
      · exact fun hp => ⟨p, hp, if_neg (by simpa using hid)⟩

end

end Sys2Proof.Machine

namespace Sys2Proof.Machine
open Sys2Proof.Claims

-- Queue operations at the queue's home (R156, R214).

section
variable {s u : State} {r : Req} {b : Block} {w : Warp} {tk : Task} {k : StageQ} {d : VDst} {q stage id : Nat} {data : List Byte}

theorem State.warp?_queueReply (h : s.warp? r.block r.warp = some w) (hq : q ≠ 0) (ok : Bool) : ∃ fl p,
    (s.queueReply r q ok).warp? r.block r.warp = some { w with q := w.q.set q ok, flights := fl, pend := p } := by
  have hland : ∀ v : Warp, (v.settleOn (.q q) 0 ((s.cluster r.stack (r.core / 8)).cycle)).land (.qreg q ok) =
      { v.settleOn (.q q) 0 ((s.cluster r.stack (r.core / 8)).cycle) with q := v.q.set q ok } := fun v => by
    rw [Warp.land, if_neg hq]
    rfl
  have h1 := State.warp?_modWarp_self h (f := fun w => (w.settleOn (.q q) 0 ((s.cluster r.stack (r.core / 8)).cycle)).land (.qreg q ok))
    fun v => by rw [hland]; rfl
  rw [hland] at h1
  obtain ⟨p, hp⟩ := State.warp?_endLanes h1 laneList
  exact ⟨_, p, hp⟩

@[simp] theorem State.queueReply_tasks (s : State) (r : Req) (q : Nat) (ok : Bool) : (s.queueReply r q ok).tasks = s.tasks := by
  unfold State.queueReply
  rw [State.endLanes_frame]
  rfl

theorem State.task?_modQueue (h : s.task? b.ctx b.task = some tk) (stage : Nat) (f : StageQ → StageQ) :
    (s.modQueue b stage f).task? b.ctx b.task = some { tk with queues := tk.queues.modify stage f } :=
  (State.task?_modTask s b.ctx b.task (fun t => { t with queues := t.queues.modify stage f }) (fun _ => ⟨rfl, rfl⟩) b.ctx b.task).trans
    (by rw [h, Option.map_some, if_pos ⟨rfl, rfl⟩])

/-- A step of a queue from `s` to `t` leaves queue `j` in its place, every other one of the task as it was, and the answer `ok`. -/
def QueueAfter (s t : State) (r : Req) (b : Block) (tk : Task) (q stage : Nat) (j : StageQ) (ok : Bool) : Prop :=
  ∃ v tk', t.warp? r.block r.warp = some v ∧ v.qread q = ok ∧
    t.task? b.ctx b.task = some tk' ∧ tk'.queues[stage]? = some j ∧ ∀ n, n ≠ stage → tk'.queues[n]? = tk.queues[n]?

theorem Warp.qread_set {v : Warp} (hq : q ≠ 0) (hl : q < w.q.length) {ok : Bool} (hv : v.q = w.q.set q ok) : v.qread q = ok := by
  rw [Warp.qread, if_neg hq, hv, List.getD, List.getElem?_set_self hl]
  rfl

/-- The reply of a queue operation that changes its queue by `f`. -/
theorem queueAfter_reply {f : StageQ → StageQ} (hw : s.warp? r.block r.warp = some w) (ht : s.task? b.ctx b.task = some tk)
    (hk : tk.queues[stage]? = some k) (hq : q ≠ 0) (hl : q < w.q.length) (ok : Bool) :
    QueueAfter s ((s.modQueue b stage f).queueReply r q ok) r b tk q stage (f k) ok := by
  obtain ⟨fl, p, hv⟩ := State.warp?_queueReply (s := s.modQueue b stage f) hw hq ok
  refine ⟨_, { tk with queues := tk.queues.modify stage f }, hv, Warp.qread_set hq hl rfl, ?_, ?_, fun n hn => ?_⟩
  · rw [State.task?, State.queueReply_tasks]
    exact State.task?_modQueue ht stage f
  · rw [List.getElem?_modify, hk]
    exact congrArg some (if_pos rfl)
  · rw [List.getElem?_modify]
    simp only [if_neg (Ne.symm hn)]
    exact Option.map_id'

theorem queueAfter_refuse (hw : s.warp? r.block r.warp = some w) (ht : s.task? b.ctx b.task = some tk)
    (hk : tk.queues[stage]? = some k) (hq : q ≠ 0) (hl : q < w.q.length) :
    QueueAfter s (s.queueReply r q false) r b tk q stage k false := by
  obtain ⟨fl, p, hv⟩ := State.warp?_queueReply hw hq false
  refine ⟨_, tk, hv, Warp.qread_set hq hl rfl, ?_, hk, fun n hn => rfl⟩
  rw [State.task?, State.queueReply_tasks]
  exact ht

variable (hr : s.reqs.find? (fun r => r.id == id) = some r) (hb : s.block? r.block = some b) (hw : s.warp? r.block r.warp = some w)
  (hs : s.stageQ b stage = some k)
include hr hb hw hs

theorem exec_queueStep_put (hk : r.kind = .qput q stage data) : exec (.queueStep id) s = .next (
    if !s.earlierDone r then s
    else
      let s := s.released r.block r.warp r.word
      if k.count < 2 ^ k.logCap then
        ({ s with mem := s.mem.writeBytes (k.entry k.tail) data }.modQueue b stage fun k =>
          { k with tail := (k.tail + 1) % 2 ^ 32 }).queueReply r q true
      else s.queueReply r q false) := by
  dsimp only [exec, execQueueStep]
  rw [hr]
  dsimp only
  rw [hb, hw]
  dsimp only
  rw [hk]
  dsimp only
  rw [show (s.released r.block r.warp r.word).stageQ b stage = some k from hs]

/-- The words a `qget` brings to its lanes. -/
def State.giveEntry (s : State) (r : Req) (d : VDst) (bs : List Byte) (as : List LaneAcc) : State :=
  as.foldl (fun s a => s.give r d a.lane [BitVec.ofNat 32 (leNat ((bs.drop (4 * a.lane)).take 4))]) s

theorem exec_queueStep_get (hk : r.kind = .qget d q stage) : exec (.queueStep id) s = .next (
    if s.getBefore r.block r.warp r.id then s
    else if 0 < k.count then
      ((((s.modQueue b stage fun k => { k with head := (k.head + 1) % 2 ^ 32 }).giveEntry r d (s.mem.readBytes (k.entry k.head) 64)
        (r.lanes.filter fun a => decide (a.lane < 16))).queueReply r q true).acquire b w .package).acquired r.block r.warp
    else s.queueReply r q false) := by
  dsimp only [exec, execQueueStep]
  rw [hr]
  dsimp only
  rw [hb, hw]
  dsimp only
  rw [hk]
  dsimp only
  rw [hs]
  rfl

end

section
variable {s u : State} {r : Req} {b : Block} {w : Warp} {tk : Task} {k : StageQ} {d : VDst} {q stage id : Nat} {data : List Byte}

/-- Registers with the shape they had. -/
def Warp.SameShape (w v : Warp) : Prop := v.v.length = w.v.length ∧ ∀ m, (v.vread m).length = (w.vread m).length

theorem Warp.SameShape.trans {w v u : Warp} (h : w.SameShape v) (h' : v.SameShape u) : w.SameShape u :=
  ⟨h'.1.trans h.1, fun m => (h'.2 m).trans (h.2 m)⟩

theorem Warp.sameShape_deliver (w : Warp) (d : VDst) (lane : Nat) (ws : List Word32) : w.SameShape (w.deliver d lane ws) :=
  ⟨Warp.length_deliver, fun _ => Warp.length_vread_deliver⟩

theorem Warp.SameShape.of_v {w v u : Warp} (h : w.SameShape v) (hu : u.v = v.v) : w.SameShape u :=
  ⟨by rw [hu]; exact h.1, fun m => by rw [← h.2 m, Warp.vread, hu]; rfl⟩

theorem delivered_of_shape {w w' v : Warp} {lane : Nat} {ws : List Word32} (h : Delivered w' v d lane ws) (hs : w.SameShape w') :
    Delivered w v d lane ws :=
  fun n j x hd hn hl hx => h n j x hd (by rw [hs.1]; exact hn) (by rw [hs.2]; exact hl) hx

/-- A delivery stands while its lane is left alone. -/
theorem delivered_of_other {w v v' : Warp} {lane : Nat} {ws : List Word32} (h : Delivered w v d lane ws)
    (hv : ∀ m, (v'.vread m)[lane]? = (v.vread m)[lane]?) : Delivered w v' d lane ws :=
  fun n j x hd hn hl hx => (hv _).trans (h n j x hd hn hl hx)

/-- The word of an entry for a lane. -/
def entryWord (bs : List Byte) (lane : Nat) : List Word32 := [BitVec.ofNat 32 (leNat ((bs.drop (4 * lane)).take 4))]

theorem State.giveEntry_gives (d : VDst) (bs : List Byte) (as : List LaneAcc) : ∀ {s : State} {w : Warp},
    s.warp? r.block r.warp = some w → ∃ v, (s.giveEntry r d bs as).warp? r.block r.warp = some v ∧ v.q = w.q ∧ w.SameShape v ∧
      (∀ a ∈ as, Delivered w v d a.lane (entryWord bs a.lane)) ∧
      ∀ m l, (∀ a ∈ as, l ≠ a.lane) → (v.vread m)[l]? = (w.vread m)[l]? := by
  induction as with
  | nil => intro s w hw; exact ⟨w, hw, rfl, ⟨rfl, fun _ => rfl⟩, fun a ha => absurd ha List.not_mem_nil, fun _ _ _ => rfl⟩
  | cons a as ih =>
    intro s w hw
    obtain ⟨fl, h1⟩ := State.warp?_give hw d a.lane (entryWord bs a.lane)
    have hshape : w.SameShape { w.deliver d a.lane (entryWord bs a.lane) with flights := fl } :=
      (w.sameShape_deliver d a.lane (entryWord bs a.lane)).of_v rfl
    have hq : ({ w.deliver d a.lane (entryWord bs a.lane) with flights := fl } : Warp).q = w.q := by rw [Warp.deliver_eq]
    obtain ⟨v, hv, hvq, hvs, hin, hout⟩ := ih h1
    refine ⟨v, hv, hvq.trans hq, hshape.trans hvs, fun k hk => ?_, fun m l hl => ?_⟩
    · by_cases hmem : ∃ k' ∈ as, k'.lane = k.lane
      · obtain ⟨k', hk', he⟩ := hmem
        rw [← he]
        exact delivered_of_shape (hin k' hk') hshape
      · push Not at hmem
        rcases List.mem_cons.1 hk with rfl | hk
        · exact delivered_of_other (delivered_deliver w d k.lane (entryWord bs k.lane)) fun m => hout m k.lane fun k' hk' he => hmem k' hk' he.symm
        · exact absurd rfl (hmem k hk)
    · exact (hout m l fun k hk => hl k (List.mem_cons_of_mem _ hk)).trans (Warp.deliver_other (hl a List.mem_cons_self))

theorem State.giveEntry_frame (r : Req) (d : VDst) (bs : List Byte) (as : List LaneAcc) : ∀ s : State,
    s.giveEntry r d bs as = { s with blocks := (s.giveEntry r d bs as).blocks } := by
  induction as with
  | nil => intro s; rfl
  | cons a as ih => intro s; exact (ih (s.give r d a.lane (entryWord bs a.lane))).trans rfl

theorem State.acquire_warp? (s : State) (b : Block) (w : Warp) (sc : Scope) (n m : Nat) : (s.acquire b w sc).warp? n m = s.warp? n m := by
  rw [State.acquire_frame]
  rfl

theorem State.acquire_tasks (s : State) (b : Block) (w : Warp) (sc : Scope) : (s.acquire b w sc).tasks = s.tasks := by
  rw [State.acquire_frame]
theorem State.acquire_mem_eq (s : State) (b : Block) (w : Warp) (sc : Scope) : (s.acquire b w sc).mem = s.mem := by
  rw [State.acquire_frame]

/-- The bytes of an entry a lane gets. -/
theorem entryWord_readBytes (m : Memory) (a lane : Nat) (hl : lane < 16) : entryWord (m.readBytes a 64) lane =
    [BitVec.ofNat 32 (leNat (m.readBytes (a + 4 * lane) 4))] := by
  have h : ((m.readBytes a 64).drop (4 * lane)).take 4 = m.readBytes (a + 4 * lane) 4 := by
    rw [Memory.readBytes_eq, Memory.readBytes_eq]
    refine List.ext_getElem (by simp; omega) fun i h1 h2 => ?_
    simp [Nat.add_assoc]
  rw [entryWord, h]

/-- A `qget` that takes an entry. -/
def State.queueTaken (s : State) (r : Req) (b : Block) (w : Warp) (d : VDst) (q stage : Nat) (k : StageQ) : State :=
  ((((s.modQueue b stage fun k => { k with head := (k.head + 1) % 2 ^ 32 }).giveEntry r d (s.mem.readBytes (k.entry k.head) 64)
    (r.lanes.filter fun a => decide (a.lane < 16))).queueReply r q true).acquire b w .package).acquired r.block r.warp

theorem queueTaken_holds (hw : s.warp? r.block r.warp = some w) (ht : s.task? b.ctx b.task = some tk)
    (hk : tk.queues[stage]? = some k) (hq : q ≠ 0) (hl : q < w.q.length) : ∃ v,
    QueueAfter s (s.queueTaken r b w d q stage k) r b tk q stage { k with head := (k.head + 1) % 2 ^ 32 } true ∧
    (s.queueTaken r b w d q stage k).mem = s.mem ∧ (s.queueTaken r b w d q stage k).warp? r.block r.warp = some v ∧
    ∀ a ∈ r.lanes, a.lane < 16 →
      Delivered w v d a.lane [BitVec.ofNat 32 (leNat (s.mem.readBytes (k.entry k.head + 4 * a.lane) 4))] := by
  obtain ⟨v1, h1, hq1, hs1, hin, -⟩ := State.giveEntry_gives d (s.mem.readBytes (k.entry k.head) 64)
    (r.lanes.filter fun a => decide (a.lane < 16)) (s := s.modQueue b stage fun k => { k with head := (k.head + 1) % 2 ^ 32 }) hw
  obtain ⟨fl, p, h2⟩ := State.warp?_queueReply h1 hq true
  have h3 := (State.acquire_warp? _ b w .package r.block r.warp).trans h2
  have h4 := State.warp?_modWarp_self (f := fun w => { w with unready := w.unready.filter fun e => e.1 != 0 }) h3 fun _ => rfl
  have htask : (s.queueTaken r b w d q stage k).tasks =
      (s.modQueue b stage fun k => { k with head := (k.head + 1) % 2 ^ 32 }).tasks := by
    refine (State.acquire_tasks ..).trans ((State.queueReply_tasks ..).trans ?_)
    rw [State.giveEntry_frame]
  refine ⟨_, ⟨_, { tk with queues := tk.queues.modify stage fun k => { k with head := (k.head + 1) % 2 ^ 32 } }, h4,
    Warp.qread_set hq (by rw [hq1]; exact hl) rfl, ?_, ?_, fun n hn => ?_⟩, ?_, h4, fun a ha hlt => ?_⟩
  · rw [State.task?, htask]
    exact State.task?_modQueue ht stage _
  · rw [List.getElem?_modify, hk]
    exact congrArg some (if_pos rfl)
  · rw [List.getElem?_modify]
    simp only [if_neg (Ne.symm hn)]
    exact Option.map_id'
  · refine (State.acquire_mem_eq ..).trans ((State.queueReply_mem ..).trans ?_)
    rw [State.giveEntry_frame]
    rfl
  · have h := hin a (List.mem_filter.2 ⟨ha, decide_eq_true hlt⟩)
    rw [entryWord_readBytes _ _ _ hlt] at h
    exact delivered_of_v h rfl

theorem queueSteps_holds : QueueSteps := by
  intro s id r b w tk k d q stage data hr hb hw ht hk hq hl hlen hwf after
  have hw' : s.warp? r.block r.warp = some w := by
    rw [State.warp?, hb]
    exact hw
  have hs : s.stageQ b stage = some k := by
    rw [State.stageQ, ht]
    exact hk
  have hq' : q ≠ 0 := Nat.ne_of_gt hq
  have hrel := State.warp?_modWarp_self
    (f := fun w => { w with unready := w.unready.map fun e => if e.1 < r.word then (0, e.2) else e }) hw' fun _ => rfl
  refine ⟨fun hkind he => ?_, fun hkind he hc => ?_, fun hkind he hc => ?_, fun hkind hg => ?_, fun hkind hg hc => ?_,
    fun hkind hg hc => ?_⟩
  · exact (exec_queueStep_put hr hb hw' hs hkind).trans (congrArg Host.Outcome.next (if_pos (by rw [he]; rfl)))
  · have hex := (exec_queueStep_put hr hb hw' hs hkind).trans (congrArg Host.Outcome.next (if_neg (by rw [he]; decide)))
    dsimp only at hex
    rw [if_pos hc] at hex
    have hmem : ((({ s.released r.block r.warp r.word with
        mem := s.mem.writeBytes (k.entry k.tail) data } : State).modQueue b stage fun k =>
          { k with tail := (k.tail + 1) % 2 ^ 32 }).queueReply r q true).mem = s.mem.writeBytes (k.entry k.tail) data :=
      State.queueReply_mem ..
    refine ⟨_, hex, queueAfter_reply (s := { s.released r.block r.warp r.word with mem := s.mem.writeBytes (k.entry k.tail) data })
      hrel ht hk hq' hl true, ?_, fun a ha => ?_⟩
    · refine (congrArg (fun m => Memory.readBytes m (k.entry k.tail) 64) hmem).trans ?_
      rw [← hlen]
      exact Memory.readBytes_writeBytes hwf ..
    · refine (congrArg (fun m => Memory.read m a) hmem).trans ?_
      exact Memory.read_writeBytes_other _ _ _ hwf (by rw [hlen]; exact ha)
  · have hex := (exec_queueStep_put hr hb hw' hs hkind).trans (congrArg Host.Outcome.next (if_neg (by rw [he]; decide)))
    dsimp only at hex
    rw [if_neg (Nat.not_lt.2 hc)] at hex
    refine ⟨_, hex, queueAfter_refuse (s := s.released r.block r.warp r.word) hrel ht hk hq' hl, fun a => ?_⟩
    rw [State.queueReply_mem]
    rfl
  · exact (exec_queueStep_get hr hb hw' hs hkind).trans (congrArg Host.Outcome.next (if_pos hg))
  · have hex := (exec_queueStep_get hr hb hw' hs hkind).trans (congrArg Host.Outcome.next (if_neg (by rw [hg]; decide)))
    rw [if_pos hc] at hex
    obtain ⟨v, hafter, hmem, hv, hdel⟩ := queueTaken_holds (d := d) hw' ht hk hq' hl
    exact ⟨_, v, hex, hafter, fun a => congrArg (fun m => Memory.read m a) hmem, hv, hdel⟩
  · have hex := (exec_queueStep_get hr hb hw' hs hkind).trans (congrArg Host.Outcome.next (if_neg (by rw [hg]; decide)))
    rw [if_neg (by omega)] at hex
    exact ⟨_, hex, queueAfter_refuse hw' ht hk hq' hl, fun a => by rw [State.queueReply_mem]⟩

end

end Sys2Proof.Machine

namespace Sys2Proof.Machine
open Sys2Proof.Claims

-- Lines filled (R132, R133).

section
variable {s t u : State} {o : EngOp} {x : Box} {b : Block} {tag first n id : Nat}

theorem State.mem_fillL1 (s : State) (ln : L1Line) : ln ∈ (s.fillL1 ln).l1 := List.mem_append_right _ (List.mem_singleton.2 rfl)

theorem mem_eraseIdx_of_ne {α : Type} {l : List α} {i : Nat} {y z : α} (hy : y ∈ l) (hz : l[i]? = some z) (hne : y ≠ z) :
    y ∈ l.eraseIdx i := by
  rw [List.mem_eraseIdx_iff_getElem?]
  obtain ⟨j, hj⟩ := List.mem_iff_getElem?.1 hy
  exact ⟨j, fun he => hne (Option.some.inj (hj.symm.trans (he ▸ hz))), hj⟩

/-- A line of a load-block stays when another line is filled. -/
theorem State.fillL1_keeps {ln y : L1Line} (hy : y ∈ s.l1) (htag : y.tag.isSome = true)
    (hne : ¬(y.core = ln.core ∧ y.base = ln.base ∧ y.line = ln.line)) : y ∈ (s.fillL1 ln).l1 := by
  have hrest : y ∈ s.l1.filter fun x => !(x.core == ln.core && x.base == ln.base && x.line == ln.line &&
      (x.tag.isNone || x.tag == ln.tag)) := by
    refine List.mem_filter.2 ⟨hy, ?_⟩
    rw [Bool.not_eq_true', Bool.and_eq_false_iff]
    left
    by_contra h
    rw [Bool.not_eq_false, Bool.and_eq_true, Bool.and_eq_true, beq_iff_eq, beq_iff_eq, beq_iff_eq] at h
    exact hne ⟨h.1.1, h.1.2, h.2⟩
  refine List.mem_append_left _ ?_
  split
  · exact hrest
  · split
    next i hi =>
      obtain ⟨hlt, hnone, -⟩ := List.findIdx?_eq_some_iff_getElem.1 hi
      refine mem_eraseIdx_of_ne hrest (List.getElem?_eq_getElem hlt) fun he => ?_
      rw [← he, Bool.and_eq_true, Option.isNone_iff_eq_none] at hnone
      rw [hnone.2] at htag
      cases htag
    next => exact hrest

/-- Accesses are counted and lines filled between two states, and nothing else changes. -/
def State.Fills (s t : State) : Prop :=
  t = { s with l1 := t.l1, access := t.access, rainfly := t.rainfly, freeCtr := t.freeCtr }

theorem State.fills_refl (s : State) : s.Fills s := rfl

theorem State.Fills.trans (h : s.Fills t) (h' : t.Fills u) : s.Fills u := by
  unfold State.Fills at *
  rw [h', h]

theorem State.Counted.fills (h : s.Counted t) : s.Fills t := by
  unfold State.Counted at h
  unfold State.Fills
  rw [h]

theorem State.fills_fillL1 (s : State) (ln : L1Line) : s.Fills (s.fillL1 ln) := rfl

theorem State.Fills.mem (h : s.Fills t) : t.mem = s.mem := by rw [h]
theorem State.Fills.ops (h : s.Fills t) : t.ops = s.ops := by rw [h]
theorem State.Fills.blocks (h : s.Fills t) : t.blocks = s.blocks := by rw [h]
theorem State.Fills.tensorAddr (h : s.Fills t) (base off : Nat) : t.tensorAddr base off = s.tensorAddr base off := by
  rw [h]
  rfl
theorem State.Fills.hotBytes (h : s.Fills t) (who : Option (Nat × Nat)) (id : Nat) : t.hotBytes who id = s.hotBytes who id := by
  rw [h]
  rfl

/-- One line of a load-block brought in. -/
def State.fillBlockLine (s : State) (o : EngOp) (b : Block) (x : Box) (tag first id : Nat) (i : Nat) : State :=
  let line := first + i
  let p := s.lookup (some (o.block, o.warp)) id o.overr (s.tensorAddr x.rcd.base (128 * line)) 128
  let s := (p.2.countMeter (s.meterOf b x.rcd (128 * line)) 128).countAccess x.rcd.base (128 * line) o.stack
  if o.doneRd then s
  else s.fillL1 { core := 32 * o.stack + o.core, base := x.rcd.base, line := line, data := p.1, tag := some (o.block, tag) }

/-- The line as it is filled, with the bytes memory holds but for those the operation does not see. -/
def blockLine (s : State) (o : EngOp) (x : Box) (tag first i : Nat) : L1Line :=
  { core := 32 * o.stack + o.core, base := x.rcd.base, line := first + i,
    data := (List.range 128).map fun k => oldByte o.overr s.mem (s.tensorAddr x.rcd.base (128 * (first + i)) + k),
    tag := some (o.block, tag) }

theorem fillBlockLine_eq (hd : o.doneRd = false) {i : Nat}
    (hcool : ∀ k, k < 128 → s.tensorAddr x.rcd.base (128 * (first + i)) + k ∉ s.hotBytes (some (o.block, o.warp)) id) :
    ∃ v, s.Counted v ∧ s.fillBlockLine o b x tag first id i = v.fillL1 (blockLine s o x tag first i) := by
  refine ⟨(s.countMeter (s.meterOf b x.rcd (128 * (first + i))) 128).countAccess x.rcd.base (128 * (first + i)) o.stack,
    (s.counted_countMeter _ _).trans (State.counted_countAccess ..), ?_⟩
  unfold State.fillBlockLine
  dsimp only
  rw [State.lookup_of_cool _ hcool, hd]
  rfl

theorem blockLine_of_fills (h : s.Fills t) (i : Nat) : blockLine t o x tag first i = blockLine s o x tag first i := by
  unfold blockLine
  rw [h.mem, h.tensorAddr]

/-- All lines of a load-block filled, each beside those before. -/
theorem foldl_fillBlockLine (hd : o.doneRd = false) (l : List Nat) (hnd : l.Nodup) : ∀ {s : State},
    (∀ i ∈ l, ∀ k, k < 128 → s.tensorAddr x.rcd.base (128 * (first + i)) + k ∉ s.hotBytes (some (o.block, o.warp)) id) →
    let u := l.foldl (fun s i => s.fillBlockLine o b x tag first id i) s
    s.Fills u ∧ (∀ i ∈ l, blockLine s o x tag first i ∈ u.l1) ∧
      ∀ y ∈ s.l1, y.tag.isSome = true → (∀ i ∈ l, y.line ≠ first + i) → y ∈ u.l1 := by
  induction l with
  | nil => intro s _; exact ⟨rfl, fun i hi => absurd hi List.not_mem_nil, fun y hy _ _ => hy⟩
  | cons i l ih =>
    intro s hcool
    obtain ⟨hi, hnd⟩ := List.nodup_cons.1 hnd
    obtain ⟨v, hv, he⟩ := fillBlockLine_eq (b := b) (tag := tag) hd (hcool i List.mem_cons_self)
    have hf : s.Fills (s.fillBlockLine o b x tag first id i) := by
      rw [he]
      exact hv.fills.trans (State.fills_fillL1 ..)
    obtain ⟨h1, h2, h3⟩ := ih hnd (s := s.fillBlockLine o b x tag first id i) fun j hj k hk => by
      rw [hf.tensorAddr, hf.hotBytes]
      exact hcool j (List.mem_cons_of_mem _ hj) k hk
    refine ⟨hf.trans h1, fun j hj => ?_, fun y hy htag hne => ?_⟩
    · rcases List.mem_cons.1 hj with rfl | hj
      · refine h3 _ ?_ rfl fun k hk => ?_
        · rw [he]
          exact State.mem_fillL1 ..
        · exact fun hline => hi ((Nat.add_left_cancel hline : j = k) ▸ hk)
      · rw [← blockLine_of_fills hf]
        exact h2 j hj
    · refine h3 y ?_ htag fun j hj => hne j (List.mem_cons_of_mem _ hj)
      rw [he]
      refine State.fillL1_keeps (by rw [hv]; exact hy) htag fun hc => ?_
      exact hne i List.mem_cons_self hc.2.2

theorem exec_lblkFill (ho : s.ops.find? (fun o => o.id == id) = some o) (hk : o.kind = .lblk tag first n) (hx : o.srcA = some x)
    (hb : s.block? o.block = some b) (hw : s.warpTouches o.block o.warp o.id x.rcd.base (128 * first) (128 * n) = false) :
    let u := (List.range n).foldl (fun s i => s.fillBlockLine o b x tag first id i) s
    exec (.lblkFill id) s = .next (({ u with ops := u.ops.filter fun k => k.id != id }.pin false o.pinned).resolve o.block o.handle 1
      (128 * n) false) := by
  dsimp only [exec, execLblkFill]
  rw [ho]
  dsimp only
  rw [hk, hx, hb]
  exact congrArg Host.Outcome.next (if_neg (by rw [hw]; exact Bool.false_ne_true))

theorem lblk_fills (ho : s.ops.find? (fun o => o.id == id) = some o) (hk : o.kind = .lblk tag first n) (hx : o.srcA = some x)
    (hb : s.block? o.block = some b) (hd : o.doneRd = false)
    (hw : s.warpTouches o.block o.warp o.id x.rcd.base (128 * first) (128 * n) = false)
    (hcool : ∀ i k, i < n → k < 128 → s.tensorAddr x.rcd.base (128 * (first + i)) + k ∉ s.hotBytes (some (o.block, o.warp)) id) :
    ∃ t b', exec (.lblkFill id) s = .next t ∧ SameMemory s t ∧ (∀ q ∈ t.ops, q.id ≠ id) ∧ t.block? o.block = some b' ∧
      b'.ring = (b.resolve o.handle 1 (128 * n) false).ring ∧ ∀ i, i < n → blockLine s o x tag first i ∈ t.l1 := by
  obtain ⟨hf, hin, -⟩ := foldl_fillBlockLine (b := b) (tag := tag) hd (List.range n) List.nodup_range
    fun i hi k hk => hcool i k (List.mem_range.1 hi) hk
  have hex := exec_lblkFill ho hk hx hb hw
  dsimp only at hex hf hin
  generalize (List.range n).foldl (fun s i => s.fillBlockLine o b x tag first id i) s = u at hex hf hin
  have hframe := State.pin_frame false o.pinned { u with ops := u.ops.filter fun k => k.id != id }
  generalize ({ u with ops := u.ops.filter fun k => k.id != id } : State).pin false o.pinned = p at hex hframe
  have hpb : p.block? o.block = some b := by
    rw [hframe, State.block?]
    dsimp only
    rw [hf.blocks]
    exact hb
  refine ⟨_, b.resolve o.handle 1 (128 * n) false, hex, fun a => ?_, fun q hq => ?_, ?_, rfl, fun i hi => ?_⟩
  · rw [State.resolve_mem, hframe]
    exact congrArg (fun m => Memory.read m a) hf.mem
  · have hops : (p.resolve o.block o.handle 1 (128 * n) false).ops = u.ops.filter fun k => k.id != id := by rw [hframe]; rfl
    rw [hops] at hq
    simpa using (List.mem_filter.1 hq).2
  · refine (p.block?_modBlock o.block o.block (fun k => k.resolve o.handle 1 (128 * n) false) fun _ => rfl).trans ?_
    rw [hpb, Option.map_some, if_pos rfl]
  · have hl1 : (p.resolve o.block o.handle 1 (128 * n) false).l1 = u.l1 := by rw [hframe]; rfl
    rw [hl1]
    exact hin i (List.mem_range.2 hi)

end

-- Probes.

section
variable {s : State} {b : Block} {w : Warp} {r : Record} {x a : Nat}

/-- A probe's frames asked for, one after the other. -/
def State.bringAll (s : State) (fs : List (Nat × Nat)) : State := fs.foldl (fun s f => s.bringIn f.1 f.2) s

theorem State.bringIn_blocks (s : State) (base tile : Nat) : (s.bringIn base tile).blocks = s.blocks := by
  unfold State.bringIn
  split
  · rfl
  · split
    · rfl
    · split <;> rfl

theorem State.bringAll_blocks (fs : List (Nat × Nat)) (s : State) : (s.bringAll fs).blocks = s.blocks :=
  foldl_keeps (f := fun (s : State) (f : Nat × Nat) => s.bringIn f.1 f.2) State.blocks (fun s f => s.bringIn_blocks f.1 f.2) fs s

variable (hb : s.block? b.bid = some b) (hw : b.warp? w.num = some w) (hp : s.nextProbe b w = some (x, a)) (hst : b.status = .placed)
  (hfl : w.flights = []) (hpe : w.pend = []) (hwait : s.probeWaits b w x a = true) (hr : s.recordOf b w x = some r)
include hb hw hp hst hfl hpe hwait hr

theorem probe_asks : (b.status != .placed || w.flights != [] || w.pend != [] || !s.probeWaits b w x a) = false := by
  rw [hst, hfl, hpe, hwait]
  rfl

theorem exec_probe_peer (hk : r.kind = 3) (ok : Bool) : exec (.probeCompletion b.bid w.num ok) s = .next (
    if ok then
      { s with freeCtr := s.freeCtr + 1 }.modWarp b.bid w.num fun w =>
        { w with probeIn := some ((Config.freeWord s.freeCtr).toNat % ((s.probeTiles b w x a).length + 1)) }
    else s.modWarp b.bid w.num fun v => { v with probeBad := true }) := by
  have hasks := probe_asks hb hw hp hst hfl hpe hwait hr
  dsimp only [exec, execProbeCompletion]
  rw [hb]
  dsimp only
  rw [hw]
  dsimp only
  rw [hp]
  dsimp only
  rw [hasks, hr]
  dsimp only
  rw [if_pos hk]
  rfl

/-- Frames all brought in. -/
theorem exec_probe_frames (hk : r.kind ≠ 3)
    (hleft : (s.bringAll (s.probeMissing (s.probeFrames b w x a))).probeMissing (s.probeFrames b w x a) = []) :
    exec (.probeCompletion b.bid w.num true) s = .next
      (((s.bringAll (s.probeMissing (s.probeFrames b w x a))).modBlock b.bid fun k =>
        { k with probed := (k.probed ++ (s.probeFrames b w x a).filter fun _ => true).dedup }).modWarp b.bid w.num fun w' =>
          { w' with probeIn := some (s.probeMissing (s.probeFrames b w x a)).length }) := by
  have hasks := probe_asks hb hw hp hst hfl hpe hwait hr
  unfold State.bringAll at hleft
  dsimp only [exec, execProbeCompletion]
  rw [hb]
  dsimp only
  rw [hw]
  dsimp only
  rw [hp]
  dsimp only
  rw [hasks, hr]
  dsimp only
  rw [if_neg hk, hleft]
  rfl

end

theorem absent_of_probed {u : State} {fs : List (Nat × Nat)} (h : u.probeMissing fs = []) : ∀ f ∈ fs, u.absent (.tensor f.1 (f.2 * 65536)) = false :=
  fun f hf => by
    have := List.filter_eq_nil_iff.1 h f hf
    simpa using this

theorem fillsAndProbes_holds : FillsAndProbes := by
  refine ⟨fun s id tag first n o x b ho hk hx hb hd hw _ hcool => lblk_fills ho hk hx hb hd hw hcool,
    fun s b w r x a hb hw hp hst hfl hpe hwait hr hk => ⟨?_, ?_⟩, fun s b w r x a hb hw hp hst hfl hpe hwait hr hk hleft => ?_⟩
  · have hw' : s.warp? b.bid w.num = some w := by rw [State.warp?, hb]; exact hw
    have hex := exec_probe_peer hb hw hp hst hfl hpe hwait hr hk true
    rw [if_pos rfl] at hex
    refine ⟨_, _, _, hex, State.warp?_modWarp_self (s := { s with freeCtr := s.freeCtr + 1 }) hw' fun _ => rfl, rfl,
      Nat.le_of_lt_succ (Nat.mod_lt _ (Nat.succ_pos _)), fun _ => rfl⟩
  · have hex := exec_probe_peer hb hw hp hst hfl hpe hwait hr hk false
    rw [if_neg (by decide)] at hex
    exact hex
  · have hex := exec_probe_frames hb hw hp hst hfl hpe hwait hr hk hleft
    have hwarp : ((s.bringAll (s.probeMissing (s.probeFrames b w x a))).modBlock b.bid fun k =>
        { k with probed := (k.probed ++ (s.probeFrames b w x a).filter fun _ => true).dedup }).warp? b.bid w.num = some w := by
      rw [State.warp?, State.block?_modBlock _ b.bid b.bid (fun k =>
        { k with probed := (k.probed ++ (s.probeFrames b w x a).filter fun _ => true).dedup }) fun _ => rfl, State.block?,
        State.bringAll_blocks, show s.blocks.find? (fun k => k.bid == b.bid) = some b from hb, Option.map_some, if_pos rfl]
      exact hw
    refine ⟨_, _, hex, State.warp?_modWarp_self hwarp fun _ => rfl, rfl, fun f hf => ?_⟩
    exact absent_of_probed hleft f hf

/-- Settles O29: a queue step changes its queue alone and answers; lines are filled one beside the other; frames brought in are resident. -/
theorem queuesAndFills : Obligations.QueuesAndFills := ⟨queueSteps_holds, fillsAndProbes_holds⟩

end Sys2Proof.Machine

namespace Sys2Proof.Machine
open Sys2Proof.Claims

-- The newest version (R161).

/-- The newer of the best so far and a version that may be read at `t`. -/
def newerAt (t : Nat) (o : Option Version) (v : Version) : Option Version :=
  if v.visible ∧ v.stamp ≤ t then
    match o with
    | none => some v
    | some u => if u.stamp ≤ v.stamp then some v else some u
  else o

/-- `o` is the newest of the versions `vs` that may be read at `t`. -/
def NewestOf (t : Nat) (vs : List Version) (o : Option Version) : Prop :=
  (o = none ↔ ∀ u ∈ vs, u.visible = true → t < u.stamp) ∧
    ∀ v, o = some v → v ∈ vs ∧ v.visible = true ∧ v.stamp ≤ t ∧ ∀ u ∈ vs, u.visible = true → u.stamp ≤ t → u.stamp ≤ v.stamp

theorem newestOf_newerAt {t : Nat} {vs : List Version} {o : Option Version} (h : NewestOf t vs o) (v : Version) :
    NewestOf t (vs ++ [v]) (newerAt t o v) := by
  obtain ⟨hnone, hsome⟩ := h
  unfold newerAt
  by_cases hv : v.visible = true ∧ v.stamp ≤ t
  · rw [if_pos hv]
    have hex : ¬∀ u ∈ vs ++ [v], u.visible = true → t < u.stamp := fun hall =>
      absurd (hall v (by simp) hv.1) (Nat.not_lt.2 hv.2)
    cases o with
    | none =>
      refine ⟨⟨fun h => (Option.some_ne_none _ h).elim, fun h => absurd h hex⟩, fun y hy => ?_⟩
      obtain rfl := Option.some.inj hy
      refine ⟨by simp, hv.1, hv.2, fun u hu hvis hle => ?_⟩
      rcases List.mem_append.1 hu with hu | hu
      · exact absurd (hnone.1 rfl u hu hvis) (Nat.not_lt.2 hle)
      · rw [List.mem_singleton.1 hu]
    | some w =>
      obtain ⟨hw, hwv, hwt, hmax⟩ := hsome w rfl
      dsimp only
      split
      next hle =>
        refine ⟨⟨fun h => (Option.some_ne_none _ h).elim, fun h => absurd h hex⟩, fun y hy => ?_⟩
        obtain rfl := Option.some.inj hy
        refine ⟨by simp, hv.1, hv.2, fun u hu hvis hut => ?_⟩
        rcases List.mem_append.1 hu with hu | hu
        · exact (hmax u hu hvis hut).trans hle
        · rw [List.mem_singleton.1 hu]
      next hlt =>
        refine ⟨⟨fun h => (Option.some_ne_none _ h).elim, fun h => absurd h hex⟩, fun y hy => ?_⟩
        obtain rfl := Option.some.inj hy
        refine ⟨List.mem_append_left _ hw, hwv, hwt, fun u hu hvis hut => ?_⟩
        rcases List.mem_append.1 hu with hu | hu
        · exact hmax u hu hvis hut
        · rw [List.mem_singleton.1 hu]
          omega
  · rw [if_neg hv]
    have hlast : v.visible = true → t < v.stamp := fun h => Nat.lt_of_not_le fun hle => hv ⟨h, hle⟩
    refine ⟨hnone.trans ⟨fun h u hu => ?_, fun h u hu => h u (List.mem_append_left _ hu)⟩, fun y hy => ?_⟩
    · rcases List.mem_append.1 hu with hu | hu
      · exact h u hu
      · rw [List.mem_singleton.1 hu]
        exact hlast
    · obtain ⟨hw, hwv, hwt, hmax⟩ := hsome y hy
      refine ⟨List.mem_append_left _ hw, hwv, hwt, fun u hu hvis hut => ?_⟩
      rcases List.mem_append.1 hu with hu | hu
      · exact hmax u hu hvis hut
      · rw [List.mem_singleton.1 hu] at hvis hut
        exact absurd (hlast hvis) (Nat.not_lt.2 hut)

theorem newestOf_foldl (t : Nat) (l : List Version) : ∀ {vs : List Version} {o : Option Version}, NewestOf t vs o →
    NewestOf t (vs ++ l) (l.foldl (newerAt t) o) := by
  induction l with
  | nil => intro vs o h; rw [List.append_nil]; exact h
  | cons v l ih =>
    intro vs o h
    have := ih (newestOf_newerAt h v)
    rwa [List.append_assoc] at this

theorem newestOf_newestAt (t : Nat) (vs : List Version) : NewestOf t vs (newestAt t vs) :=
  newestOf_foldl t vs (vs := []) ⟨⟨fun _ u hu => absurd hu List.not_mem_nil, fun _ => rfl⟩, fun v hv => (Option.some_ne_none v hv.symm).elim⟩

-- Timed loads (R161, R304).

section
variable {s u : State} {r : Req} {a : LaneAcc} {d : VDst} {w : Warp} {id lane pd : Nat}

/-- A lane's predicate and its register as an `ldas` answers them. -/
def State.answerTimed (s : State) (cycle : Nat) (r : Req) (d : VDst) (lane pd : Nat) (ws : List Word32) (q : Bool) : State :=
  ((s.give r d lane ws).modWarp r.block r.warp fun w =>
    (w.settleOn (.p pd) (BitVec.ofNat 32 (2 ^ lane)) cycle).land
      (.preg pd (BitVec.ofNat 32 (2 ^ lane)) (if q then allLanes else 0))).endLanes r [lane]

theorem getLsbD_oneLane {l : Nat} (hl : l < 32) : (BitVec.ofNat 32 (2 ^ lane)).getLsbD l = (lane == l) := by
  rw [BitVec.getLsbD_ofNat, Nat.testBit_two_pow, decide_eq_true hl, Bool.true_and]
  exact Bool.eq_iff_iff.2 (by rw [decide_eq_true_iff, beq_iff_eq])

theorem warp?_answerTimed {cycle : Nat} (hw : s.warp? r.block r.warp = some w) (d : VDst) (hpd : 0 < pd) (hlt : pd < w.p.length) (ws : List Word32)
    (q : Bool) : ∃ v, (s.answerTimed cycle r d lane pd ws q).warp? r.block r.warp = some v ∧ v.v = (w.deliver d lane ws).v ∧
      ∀ l, l < 32 → (v.pread pd).getLsbD l = if lane == l then q else (w.pread pd).getLsbD l := by
  obtain ⟨fl, h1⟩ := State.warp?_give hw d lane ws
  have hland : ∀ v : Warp, ((v.settleOn (.p pd) (BitVec.ofNat 32 (2 ^ lane)) cycle).land
      (.preg pd (BitVec.ofNat 32 (2 ^ lane)) (if q then allLanes else 0))) =
      { v with flights := (v.settleOn (.p pd) (BitVec.ofNat 32 (2 ^ lane)) cycle).flights
               p := v.p.set pd (((if q then allLanes else 0) &&& BitVec.ofNat 32 (2 ^ lane)) |||
                 (v.pread pd &&& ~~~(BitVec.ofNat 32 (2 ^ lane)))) } := fun v => by
    rw [Warp.land, if_neg (Nat.ne_of_gt hpd)]
    rfl
  have h2 := State.warp?_modWarp_self h1 (f := fun w =>
    (w.settleOn (.p pd) (BitVec.ofNat 32 (2 ^ lane)) cycle).land
      (.preg pd (BitVec.ofNat 32 (2 ^ lane)) (if q then allLanes else 0))) fun v => by rw [hland]
  obtain ⟨p, h3⟩ := State.warp?_endLanes h2 [lane]
  have hp : (w.deliver d lane ws).p = w.p := by rw [Warp.deliver_eq]
  refine ⟨_, h3, by rw [hland], fun l hl => ?_⟩
  rw [hland]
  have hpread : ∀ x : Mask, (({ w.deliver d lane ws with flights := fl } : Warp).p.set pd x).getD pd 0 = x := fun x => by
    rw [List.getD, List.getElem?_set_self (by rw [show ({ w.deliver d lane ws with flights := fl } : Warp).p = w.p from hp]; exact hlt)]
    rfl
  rw [Warp.pread, if_neg (Nat.ne_of_gt hpd)]
  dsimp only
  rw [hpread, getLsbD_merge _ _ _ hl, getLsbD_oneLane hl]
  cases hlane : lane == l
  · rw [if_neg (by decide), if_neg (by decide)]
    have hread : ({ w.deliver d lane ws with flights := fl } : Warp).pread pd = w.pread pd := by
      rw [Warp.pread, Warp.pread]
      exact congrArg (fun p => if pd = 0 then allLanes else p.getD pd 0) hp
    exact congrArg (BitVec.getLsbD · l) hread
  · rw [if_pos rfl, if_pos rfl]
    exact getLsbD_allOrNone q hl

@[simp] theorem State.answerTimed_mem (s : State) (cycle : Nat) (r : Req) (d : VDst) (lane pd : Nat) (ws : List Word32) (q : Bool) :
    (s.answerTimed cycle r d lane pd ws q).mem = s.mem := State.endLanes_mem ..

variable {t latest base off : Nat} {wd : Width} {sx : Bool}

/-- The bytes a lane of an `ldas` takes from a version, and whether there was one. -/
def State.versionBytes (s : State) (r : Req) (a : LaneAcc) (addr : Nat) : Option Version → (List Byte × State) × Bool
  | some v => (s.fog (some (r.block, r.warp)) r.id addr (((v.data.drop (addr % 64)).take a.bytes).mapIdx fun i x =>
      if v.stamp = 0 then r.before (addr + i) x else x), true)
  | none => ((List.replicate a.bytes 0, s), false)

/-- The version a lane of an `ldas` is answered by. -/
def State.timedVersion (s : State) (t latest base off : Nat) : Option Version :=
  if ldasLate t latest then none else newestAt t (s.versions (s.tensorAddr base off / 64))

/-- What a lane of an `ldas` reads: its bytes and whether there were any. -/
def State.timedRead (s : State) (r : Req) (a : LaneAcc) (t latest base off : Nat) : (List Byte × State) × Bool :=
  s.versionBytes r a (s.tensorAddr base off) (s.timedVersion t latest base off)

section
variable (hr : s.reqs.find? (fun q => q.id == id) = some r) (hk : r.kind = .ldas d wd sx pd t latest)
  (ha : r.lanes.find? (fun k => k.lane == lane) = some a) (hl : a.loc = .tensor base off)
include hr hk ha hl

theorem exec_ldasService_waits (hw : (s.blocked r a || (!ldasLate t latest && (s.moving a.loc || !s.allAbove (s.homeStack base off) t))) = true) :
    exec (.ldasService id lane) s = .next s := by
  refine (show exec (.ldasService id lane) s = execLdasService id lane s from rfl).trans ?_
  unfold execLdasService
  rw [hr]
  dsimp only
  rw [hk, ha]
  dsimp only
  rw [hl] at hw ⊢
  dsimp only
  rw [if_pos hw]

theorem exec_ldasService_reads (hw : (s.blocked r a || (!ldasLate t latest && (s.moving a.loc || !s.allAbove (s.homeStack base off) t))) = false) :
    exec (.ldasService id lane) s = .next (
      (((s.timedRead r a t latest base off).1.2.countMeter a.meter a.bytes).countAccess base off r.stack).answerTimed
        ((s.timedRead r a t latest base off).1.2.cluster r.stack (r.core / 8)).cycle r d lane pd
        (loadWords wd sx (s.timedRead r a t latest base off).1.1) (s.timedRead r a t latest base off).2) := by
  refine (show exec (.ldasService id lane) s = execLdasService id lane s from rfl).trans ?_
  unfold execLdasService
  rw [hr]
  dsimp only
  rw [hk, ha]
  dsimp only
  rw [hl] at hw ⊢
  dsimp only
  rw [if_neg (by rw [hw]; exact Bool.false_ne_true)]
  have hv : (if ldasLate t latest = true then none else newestAt t (s.versions (s.tensorAddr base off / 64))) =
      s.timedVersion t latest base off := rfl
  rw [hv, State.timedRead]
  cases s.timedVersion t latest base off with
  | none => rfl
  | some v => rfl

end

/-- A lane that reads `bs` without touching the state is answered with their words. -/
theorem ldas_answers {bs : List Byte} {q : Bool} (hr : s.reqs.find? (fun q => q.id == id) = some r)
    (hk : r.kind = .ldas d wd sx pd t latest) (ha : r.lanes.find? (fun k => k.lane == lane) = some a) (hl : a.loc = .tensor base off)
    (hw : s.warp? r.block r.warp = some w) (hlane : lane < 32) (hpd : 0 < pd) (hlt : pd < w.p.length)
    (hgo : (s.blocked r a || (!ldasLate t latest && (s.moving a.loc || !s.allAbove (s.homeStack base off) t))) = false)
    (hread : s.timedRead r a t latest base off = ((bs, s), q)) :
    ∃ u v, exec (.ldasService id lane) s = .next u ∧ SameMemory s u ∧ LaneEnded s u id lane ∧ u.warp? r.block r.warp = some v ∧
      Delivered w v d lane (loadWords wd sx bs) ∧ (v.pread pd).getLsbD lane = q ∧
      ∀ l, l < 32 → l ≠ lane → (v.pread pd).getLsbD l = (w.pread pd).getLsbD l := by
  have hex := exec_ldasService_reads hr hk ha hl hgo
  rw [hread] at hex
  dsimp only at hex
  have hcount := (s.counted_countMeter a.meter a.bytes).trans (State.counted_countAccess _ base off r.stack)
  generalize (s.countMeter a.meter a.bytes).countAccess base off r.stack = c at hex hcount
  have hcw : c.warp? r.block r.warp = some w := by rw [hcount]; exact hw
  obtain ⟨v, hv, hvv, hpred⟩ := warp?_answerTimed (cycle := (s.cluster r.stack (r.core / 8)).cycle) (lane := lane) hcw d hpd hlt (loadWords wd sx bs) q
  have hid : r.id = id := by simpa using List.find?_some hr
  refine ⟨_, v, hex, fun x => ?_, ?_, hv, delivered_of_v (delivered_deliver w d lane _) hvv, ?_, fun l hl32 hne => ?_⟩
  · rw [State.answerTimed_mem, hcount.mem]
  · exact laneEnded_endLanes hr hid (u := (c.give r d lane (loadWords wd sx bs)).modWarp r.block r.warp _) hcount.reqs
      (List.mem_singleton.2 rfl)
  · rw [hpred lane hlane, if_pos (beq_self_eq_true lane)]
  · rw [hpred l hl32, if_neg (by simpa using Ne.symm hne)]

theorem before_eq (r : Req) (addr : Nat) (x : Byte) : r.before addr x = ((r.overr.find? fun y => y.1 == addr).map (·.2)).getD x := by
  unfold Req.before
  cases r.overr.find? fun y => y.1 == addr <;> rfl

theorem timedLoads_holds : TimedLoads := by
  refine ⟨fun t vs => newestOf_newestAt t vs, fun s id lane pd t latest base off r a d wd sx w hr hk ha hw hl hbl hmv hlane hpd hlt => ?_⟩
  intro answer
  refine ⟨fun hlate => ?_, fun hnl hall => ?_, fun hnl hall => ⟨fun hnone => ?_, fun v hv hcool => ?_⟩⟩
  · have hlate' : ldasLate t latest = true := decide_eq_true hlate
    refine ldas_answers hr hk ha hl hw hlane hpd hlt ?_ ?_
    · rw [hbl, hlate']
      rfl
    · have hver : s.timedVersion t latest base off = none := if_pos hlate'
      rw [State.timedRead, hver]
      rfl
  · have hlate : ldasLate t latest = false := decide_eq_false (Nat.not_lt.2 hnl)
    exact exec_ldasService_waits hr hk ha hl (by rw [hlate, hall, hmv]; simp)
  · have hlate : ldasLate t latest = false := decide_eq_false (Nat.not_lt.2 hnl)
    refine ldas_answers hr hk ha hl hw hlane hpd hlt ?_ ?_
    · rw [hbl, hlate, hmv, hall]
      rfl
    · have hver : s.timedVersion t latest base off = none := (if_neg (by rw [hlate]; decide)).trans hnone
      rw [State.timedRead, hver]
      rfl
  · have hlate : ldasLate t latest = false := decide_eq_false (Nat.not_lt.2 hnl)
    refine ldas_answers hr hk ha hl hw hlane hpd hlt ?_ ?_
    · rw [hbl, hlate, hmv, hall]
      rfl
    · have hver : s.timedVersion t latest base off = some v := (if_neg (by rw [hlate]; decide)).trans hv
      rw [State.timedRead, hver, State.versionBytes, State.fog_of_cool]
      · simp only [before_eq]
      · intro k hk'
        refine hcool k ?_
        rw [List.length_mapIdx, List.length_take] at hk'
        omega

end

end Sys2Proof.Machine

namespace Sys2Proof.Machine
open Sys2Proof.Claims

-- Versions of lines (R160, R161).

section
variable {s t : State} {k : Commit} {b : Block} {id l m : Nat} {vs : List Version}

theorem State.versions_setVersions_self (s : State) (l : Nat) (vs : List Version) : (s.setVersions l vs).versions l = vs := by
  rw [State.versions, State.setVersions, List.find?_cons_of_pos (by exact beq_self_eq_true l)]

theorem State.versions_setVersions_of_ne (h : m ≠ l) (vs : List Version) : (s.setVersions l vs).versions m = s.versions m := by
  have hne : (l == m) = false := beq_eq_false_iff_ne.2 (Ne.symm h)
  have hfind : (s.stamped.filter fun t => t.line != l).find? (fun t => t.line == m) = s.stamped.find? fun t => t.line == m := by
    rw [List.find?_filter]
    refine congrArg (fun p => s.stamped.find? p) (funext fun t => ?_)
    by_cases ht : t.line = m
    · simp [ht, h]
    · simp [ht]
  rw [State.versions, State.setVersions, List.find?_cons_of_neg (by rw [hne]; exact Bool.false_ne_true), hfind]
  rfl

theorem State.versions_of_same (hs : t.stamped = s.stamped) (hm : t.mem.readBytes (64 * l) 64 = s.mem.readBytes (64 * l) 64) :
    t.versions l = s.versions l := by
  rw [State.versions, State.versions, hs, hm]

theorem length_dropOldest (h : ∃ v ∈ vs, v.visible = true) : (dropOldest vs).length + 1 = vs.length := by
  induction vs with
  | nil =>
    obtain ⟨v, hv, -⟩ := h
    cases hv
  | cons v r ih =>
    rw [dropOldest]
    split
    · rfl
    next hv =>
      obtain ⟨u, hu, hvis⟩ := h
      rcases List.mem_cons.1 hu with rfl | hu
      · exact absurd hvis hv
      · rw [List.length_cons, ih ⟨u, hu, hvis⟩, List.length_cons]

/-- A version added to a line that has room for it. -/
def addVersion (vs : List Version) (v : Version) : List Version := (if vs.length < 4 then vs else dropOldest vs) ++ [v]

theorem length_addVersion (v : Version) (h : vs.length < 4 ∨ ∃ u ∈ vs, u.visible = true) :
    (addVersion vs v).length ≤ max 4 vs.length := by
  rw [addVersion, List.length_append, List.length_singleton]
  split
  next h4 => omega
  next h4 =>
    have := length_dropOldest (h.resolve_left h4)
    omega

theorem getLast?_addVersion (v : Version) : (addVersion vs v).getLast? = some v := by
  rw [addVersion, List.getLast?_append]
  rfl

/-- The newest stamp of the lines of a commit. -/
def State.topStamp (s : State) (lines : List Nat) : Nat := (lines.flatMap s.versions).foldl (fun m v => max m v.stamp) 0

theorem le_foldl_max (l : List Version) : ∀ n, n ≤ l.foldl (fun m v => max m v.stamp) n ∧
    ∀ v ∈ l, v.stamp ≤ l.foldl (fun m v => max m v.stamp) n := by
  induction l with
  | nil => intro n; exact ⟨Nat.le_refl n, fun v hv => absurd hv List.not_mem_nil⟩
  | cons u l ih =>
    intro n
    obtain ⟨h1, h2⟩ := ih (max n u.stamp)
    refine ⟨(Nat.le_max_left ..).trans h1, fun v hv => ?_⟩
    rcases List.mem_cons.1 hv with rfl | hv
    · exact (Nat.le_max_right ..).trans h1
    · exact h2 v hv

theorem State.stamp_le_top {lines : List Nat} (hl : l ∈ lines) {v : Version} (hv : v ∈ s.versions l) : v.stamp ≤ s.topStamp lines :=
  (le_foldl_max _ 0).2 v (List.mem_flatMap.2 ⟨l, hl, hv⟩)

/-- The commit's data for its line number `i`. -/
def Commit.slice (k : Commit) (i : Nat) : List Byte := (k.data.drop (64 * i)).take 64

/-- The commit's version of its line number `i`, not visible yet. -/
def Commit.version (k : Commit) (stamp i : Nat) : Version := { stamp := stamp, visible := false, data := k.slice i }

/-- A commit's versions added to its lines. -/
def State.addVersions (s : State) (k : Commit) (stamp : Nat) (ps : List (Nat × Nat)) : State :=
  ps.foldl (fun s p => s.setVersions p.1 (addVersion (s.versions p.1) (k.version stamp p.2))) s

theorem State.addVersions_frame (k : Commit) (stamp : Nat) (ps : List (Nat × Nat)) : ∀ s : State,
    s.addVersions k stamp ps = { s with stamped := (s.addVersions k stamp ps).stamped } := by
  induction ps with
  | nil => intro s; rfl
  | cons p ps ih => intro s; exact (ih _).trans rfl

theorem State.versions_addVersions_other (k : Commit) (stamp : Nat) (ps : List (Nat × Nat)) : ∀ {s : State}, l ∉ ps.map Prod.fst →
    (s.addVersions k stamp ps).versions l = s.versions l := by
  induction ps with
  | nil => intro s _; rfl
  | cons p ps ih =>
    intro s h
    rw [List.map_cons, List.mem_cons, not_or] at h
    exact (ih h.2).trans (State.versions_setVersions_of_ne h.1 _)

theorem State.versions_addVersions (k : Commit) (stamp : Nat) (ps : List (Nat × Nat)) (hnd : (ps.map Prod.fst).Nodup) : ∀ {s : State},
    ∀ p ∈ ps, (s.addVersions k stamp ps).versions p.1 = addVersion (s.versions p.1) (k.version stamp p.2) := by
  induction ps with
  | nil => intro s p hp; cases hp
  | cons q ps ih =>
    intro s p hp
    obtain ⟨hq, hnd⟩ := List.nodup_cons.1 hnd
    rcases List.mem_cons.1 hp with rfl | hp
    · exact (State.versions_addVersions_other k stamp ps hq).trans (State.versions_setVersions_self ..)
    · refine (ih hnd p hp).trans ?_
      rw [State.versions_setVersions_of_ne]
      exact fun he => hq (he ▸ List.mem_map_of_mem hp)

theorem mem_zipIdx_of_getElem? {α : Type} {ls : List α} {i : Nat} {a : α} (h : ls[i]? = some a) : (a, i) ∈ ls.zipIdx := by
  rw [List.mem_zipIdx_iff_getElem?]
  exact h

theorem map_fst_zipIdx {α : Type} (ls : List α) : ls.zipIdx.map Prod.fst = ls := by
  simpa using List.zipIdx_map_fst 0 ls

/-- The stamp a commit takes. -/
def State.stampFor (s : State) (k : Commit) : Nat :=
  max (s.stack? (s.homeStack k.base k.off)).latest (s.topStamp (s.commitLines k) + 1)

/-- A commit with its stamp. -/
def Commit.stampedAt (q : Commit) (stamp taken : Nat) : Commit := { q with stamp := some stamp, taken := taken }

/-- A commit accepted. -/
def State.accepted (s : State) (k : Commit) (b : Block) (id : Nat) : State :=
  let u := s.addVersions k (s.stampFor k) (s.commitLines k).zipIdx
  { u with commits := u.commits.map fun (q : Commit) =>
      if q.id == id then q.stampedAt (s.stampFor k) (s.stack? (s.homeStack k.base k.off)).that else q }.countAccess k.base k.off b.stack

/-- A commit that nothing holds back is accepted. -/
theorem exec_commitAcceptance (hk : s.commits.find? (fun q => q.id == id) = some k) (hb : s.block? k.block = some b)
    (hgo : (k.stamp.isSome || b.status != .placed || s.moving (.tensor k.base k.off) || !(s.commitLines k).all (fun l =>
      decide ((s.versions l).length < 4) || (s.versions l).any (·.visible)) || s.commitWaits k) = false) :
    exec (.commitAcceptance id) s = .next (s.accepted k b id) := by
  dsimp only [exec, execCommitAcceptance]
  rw [hk]
  dsimp only
  rw [hb]
  exact congrArg Host.Outcome.next (if_neg (by rw [hgo]; exact Bool.false_ne_true))

/-- Nothing of the warp that a commit has to wait for. -/
theorem commitWaits_false (hid : k.id = id)
    (hq : ∀ q ∈ s.commits, q.block = k.block → q.warp = k.warp → q.id < id → q.base = k.base → q.stamp = none →
      k.off + 64 * k.lines ≤ q.off ∨ q.off + 64 * q.lines ≤ k.off)
    (ht : s.warpTouches k.block k.warp id k.base k.off (64 * k.lines) = false) (hl : s.loadsBefore k.block k.warp id = false) :
    s.commitWaits k = false := by
  unfold State.commitWaits
  rw [hid, ht, hl, Bool.or_false, Bool.or_false, List.any_eq_false]
  intro q hmem h
  simp only [Bool.and_eq_true, beq_iff_eq, decide_eq_true_eq, Option.isNone_iff_eq_none] at h
  obtain ⟨⟨⟨⟨⟨⟨h1, h2⟩, h3⟩, h4⟩, h5⟩, h6⟩, h7⟩ := h
  have := hq q hmem h1 h2 h3 h5 h4
  omega

theorem commit_accepted (hk : s.commits.find? (fun q => q.id == id) = some k) (hb : s.block? k.block = some b)
    (hst : k.stamp = none) (hpl : b.status = .placed) (hmv : s.moving (.tensor k.base k.off) = false)
    (hslot : ∀ l ∈ s.commitLines k, (s.versions l).length < 4 ∨ ∃ v ∈ s.versions l, v.visible = true)
    (hw : s.commitWaits k = false) :
    ∃ t st, exec (.commitAcceptance id) s = .next t ∧ SameMemory s t ∧ (s.stack? (s.homeStack k.base k.off)).latest ≤ st ∧
      (∀ l ∈ s.commitLines k, ∀ v ∈ s.versions l, v.stamp < st) ∧
      t.commits.find? (fun q => q.id == id) =
        some { k with stamp := some st, taken := (s.stack? (s.homeStack k.base k.off)).that } ∧
      ((s.commitLines k).Nodup → ∀ i l, (s.commitLines k)[i]? = some l →
        (t.versions l).getLast? = some { stamp := st, visible := false, data := (k.data.drop (64 * i)).take 64 } ∧
        (t.versions l).length ≤ max 4 (s.versions l).length) := by
  have hall : (s.commitLines k).all (fun l => decide ((s.versions l).length < 4) || (s.versions l).any (·.visible)) = true := by
    rw [List.all_eq_true]
    intro l hl
    rw [Bool.or_eq_true, decide_eq_true_eq, List.any_eq_true]
    exact hslot l hl
  have hex := exec_commitAcceptance hk hb (by rw [hst, hpl, hmv, hall, hw]; rfl)
  have hframe := State.addVersions_frame k (s.stampFor k) (s.commitLines k).zipIdx s
  have hcount := State.counted_countAccess { s.addVersions k (s.stampFor k) (s.commitLines k).zipIdx with
    commits := (s.addVersions k (s.stampFor k) (s.commitLines k).zipIdx).commits.map fun (q : Commit) =>
      if q.id == id then q.stampedAt (s.stampFor k) (s.stack? (s.homeStack k.base k.off)).that else q } k.base k.off b.stack
  change State.Counted _ (s.accepted k b id) at hcount
  have hmem : (s.accepted k b id).mem = s.mem := hcount.mem.trans (by rw [hframe])
  refine ⟨_, s.stampFor k, hex, fun a => by rw [hmem], Nat.le_max_left .., fun l hl v hv => ?_, ?_, fun hnd i l hl => ?_⟩
  · exact Nat.lt_of_lt_of_le (Nat.lt_succ_of_le (State.stamp_le_top hl hv)) (Nat.le_max_right ..)
  · have hc : (s.accepted k b id).commits = s.commits.map fun (q : Commit) =>
        if q.id == id then q.stampedAt (s.stampFor k) (s.stack? (s.homeStack k.base k.off)).that else q := by
      rw [hcount, hframe]
    rw [hc]
    refine (find?_map_key Commit.id (fun q => q.stampedAt (s.stampFor k)
      (s.stack? (s.homeStack k.base k.off)).that) (fun _ => rfl) s.commits id id).trans ?_
    rw [show s.commits.find? (fun q => Commit.id q == id) = some k from hk, Option.map_some, if_pos rfl]
    rfl
  · have hv : (s.accepted k b id).versions l = addVersion (s.versions l) (k.version (s.stampFor k) i) := by
      refine (State.versions_of_same (s := s.addVersions k (s.stampFor k) (s.commitLines k).zipIdx) (by rw [hcount]) ?_).trans ?_
      · rw [hcount]
      · exact State.versions_addVersions k (s.stampFor k) (s.commitLines k).zipIdx (by rw [map_fst_zipIdx]; exact hnd) (l, i)
          (mem_zipIdx_of_getElem? hl)
    rw [hv]
    exact ⟨getLast?_addVersion _, length_addVersion _ (hslot l (List.mem_of_getElem? hl))⟩

-- Visibility (R159).

/-- A version of a stamp made visible. -/
def Version.show (stamp : Nat) (v : Version) : Version := if v.stamp == stamp then { v with visible := true } else v

/-- One line of a commit made visible: its version and its bytes. -/
def State.showLine (s : State) (k : Commit) (stamp core : Nat) (p : Nat × Nat) : State :=
  let u := s.setVersions p.1 ((s.versions p.1).map (Version.show stamp))
  ({ u with mem := u.mem.writeBytes (64 * p.1) (k.slice p.2) }.taint 0 ((List.range 64).map (64 * p.1 + ·))).updateL1 core
    k.base (k.off + 64 * p.2) (k.slice p.2)

theorem showLine_facts (s : State) (k : Commit) (stamp core : Nat) (p : Nat × Nat) (n : Nat) :
    (s.showLine k stamp core p).mem = s.mem.writeBytes (64 * p.1) (k.slice p.2) ∧
    (s.showLine k stamp core p).stamped = (s.setVersions p.1 ((s.versions p.1).map (Version.show stamp))).stamped ∧
    (s.showLine k stamp core p).commits = s.commits ∧ s.SameRing (s.showLine k stamp core p) n := by
  refine ⟨rfl, rfl, rfl, ?_⟩
  exact .of_map (s := s) (f := fun b => if b.savedOps.isEmpty then b else { b with savedOps := b.savedOps.map fun (o : EngOp) =>
    { o with taint := o.taint ++ o.keptNames { s.setVersions p.1 ((s.versions p.1).map (Version.show stamp)) with
      mem := s.mem.writeBytes (64 * p.1) (k.slice p.2) } ((List.range 64).map (64 * p.1 + ·)) } }) rfl
    (fun b => by split <;> rfl) (fun b => by split <;> rfl)

/-- All lines of a commit made visible. -/
def State.showLines (s : State) (k : Commit) (stamp core : Nat) (ps : List (Nat × Nat)) : State :=
  ps.foldl (fun s p => s.showLine k stamp core p) s

theorem showLines_facts (k : Commit) (stamp core n : Nat) (ps : List (Nat × Nat)) (hlen : ∀ p ∈ ps, (k.slice p.2).length = 64)
    (hnd : (ps.map Prod.fst).Nodup) : ∀ {s : State}, s.mem.wf = true →
    (∀ p ∈ ps, (s.showLines k stamp core ps).mem.readBytes (64 * p.1) 64 = k.slice p.2 ∧
      (s.showLines k stamp core ps).versions p.1 = (s.versions p.1).map (Version.show stamp)) ∧
    (∀ a, a / 64 ∉ ps.map Prod.fst → (s.showLines k stamp core ps).mem.read a = s.mem.read a) ∧
    (∀ l, l ∉ ps.map Prod.fst → (s.showLines k stamp core ps).versions l = s.versions l) ∧
    (s.showLines k stamp core ps).commits = s.commits ∧ s.SameRing (s.showLines k stamp core ps) n := by
  induction ps with
  | nil =>
    intro s _
    exact ⟨fun p hp => absurd hp List.not_mem_nil, fun _ _ => rfl, fun _ _ => rfl, rfl, .of_blocks rfl⟩
  | cons q ps ih =>
    intro s hwf
    obtain ⟨hq, hnd⟩ := List.nodup_cons.1 hnd
    obtain ⟨hm, hs, hc, hring⟩ := showLine_facts s k stamp core q n
    have hql := hlen q List.mem_cons_self
    have hread : ∀ a, a / 64 ≠ q.1 → (s.showLine k stamp core q).mem.read a = s.mem.read a := fun a ha => by
      rw [hm]
      exact Memory.read_writeBytes_other _ _ _ hwf (by rw [hql]; omega)
    have hself : (s.showLine k stamp core q).versions q.1 = (s.versions q.1).map (Version.show stamp) := by
      rw [State.versions, hs, State.setVersions, List.find?_cons_of_pos (by exact beq_self_eq_true q.1)]
    have hother : ∀ l, l ≠ q.1 → (s.showLine k stamp core q).versions l = s.versions l := fun l hl => by
      refine (State.versions_of_same hs ?_).trans (State.versions_setVersions_of_ne hl _)
      rw [Memory.readBytes_eq, Memory.readBytes_eq]
      exact List.map_congr_left fun i hi => hread _ (by rw [List.mem_range] at hi; omega)
    obtain ⟨h1, h2, h3, h4, h5⟩ := ih (fun p hp => hlen p (List.mem_cons_of_mem _ hp)) hnd (s := s.showLine k stamp core q)
      (by rw [hm]; exact Memory.writeBytes_wf _ _ hwf)
    refine ⟨fun p hp => ?_, fun a ha => ?_, fun l hl => ?_, h4.trans hc, hring.trans h5⟩
    · rcases List.mem_cons.1 hp with rfl | hp
      · refine ⟨?_, (h3 _ hq).trans hself⟩
        refine Eq.trans ?_ (Eq.trans (congrArg (Memory.readBytes _ _) hql.symm) (Memory.readBytes_writeBytes hwf (64 * p.1) (k.slice p.2)))
        rw [Memory.readBytes_eq, Memory.readBytes_eq]
        refine List.map_congr_left fun i hi => ?_
        rw [List.mem_range] at hi
        rw [← hm]
        exact h2 _ (by rw [show (64 * p.1 + i) / 64 = p.1 by omega]; exact hq)
      · have hne : p.1 ≠ q.1 := fun he => hq (he ▸ List.mem_map_of_mem hp)
        rw [← hother p.1 hne]
        exact h1 p hp
    · rw [List.map_cons, List.mem_cons, not_or] at ha
      exact (h2 a ha.2).trans (hread a ha.1)
    · rw [List.map_cons, List.mem_cons, not_or] at hl
      exact (h3 l hl.2).trans (hother l hl.1)

/-- The warp of a commit. -/
def State.commitWho (s : State) (k : Commit) : Option (Block × Warp) :=
  match s.block? k.block, s.warp? k.block k.warp with
  | some b, some w => some (b, w)
  | _, _ => none

/-- The core of a commit's warp. -/
def whoCore : Option (Block × Warp) → Nat
  | some (b, w) => coreId b w
  | none => 128

/-- A commit shown. -/
def State.shown (s : State) (k : Commit) (stamp : Nat) : State :=
  let u := s.showLines k stamp (whoCore (s.commitWho k)) (s.commitLines k).zipIdx
  ({ u with commits := u.commits.filter fun (q : Commit) => q.id != k.id }.resolve k.block k.handle 1 stamp false).observeCtx 2
    (((u.stack? (u.homeStack k.base k.off)).that - k.taken) / 1000) k.ctx (s.commitWho k)

theorem State.showCommit_eq {stamp : Nat} (hs : k.stamp = some stamp) : s.showCommit k =
    if !s.allAbove (s.homeStack k.base k.off) stamp ||
        (s.commitLines k).any fun l => (s.versions l).any fun v => !v.visible && decide (v.stamp < stamp) then s
    else s.shown k stamp := by
  unfold State.showCommit
  rw [hs]
  rfl

theorem exec_commitVisibility (hk : s.commits.find? (fun q => q.id == id) = some k) :
    exec (.commitVisibility id) s = .next (s.showCommit k) := by
  dsimp only [exec, execCommitVisibility]
  rw [hk]

theorem getElem?_commitLines {i : Nat} (h : (s.commitLines k)[i]? = some l) : i < k.lines := by
  have := (List.getElem?_eq_some_iff.1 h).1
  simpa [State.commitLines] using this

theorem commit_shown {st : Nat} (hk : s.commits.find? (fun q => q.id == id) = some k) (hb : s.block? k.block = some b)
    (hst : k.stamp = some st) (hall : s.allAbove (s.homeStack k.base k.off) st = true) (hnd : (s.commitLines k).Nodup)
    (hlen : k.data.length = 64 * k.lines) (hwf : s.mem.wf = true)
    (hold : ∀ l ∈ s.commitLines k, ∀ v ∈ s.versions l, v.visible = false → st ≤ v.stamp) :
    ∃ t b', exec (.commitVisibility id) s = .next t ∧ (∀ q ∈ t.commits, q.id ≠ id) ∧
      (∀ i l, (s.commitLines k)[i]? = some l → t.mem.readBytes (64 * l) 64 = (k.data.drop (64 * i)).take 64 ∧
        t.versions l = (s.versions l).map fun v => if v.stamp = st then { v with visible := true } else v) ∧
      (∀ a, a / 64 ∉ s.commitLines k → t.mem.read a = s.mem.read a) ∧ t.block? k.block = some b' ∧
      b'.ring = (b.resolve k.handle 1 st false).ring := by
  have hid : k.id = id := by simpa using List.find?_some hk
  have hno : ((s.commitLines k).any fun l => (s.versions l).any fun v => !v.visible && decide (v.stamp < st)) = false := by
    rw [List.any_eq_false]
    intro l hl h
    obtain ⟨v, hv, hc⟩ := List.any_eq_true.1 h
    rw [Bool.and_eq_true, Bool.not_eq_true', decide_eq_true_eq] at hc
    exact absurd (hold l hl v hv hc.1) (Nat.not_le.2 hc.2)
  have hex : exec (.commitVisibility id) s = .next (s.shown k st) := by
    rw [exec_commitVisibility hk, State.showCommit_eq hst, hall, hno]
    rfl
  have hslice : ∀ p ∈ (s.commitLines k).zipIdx, (k.slice p.2).length = 64 := fun p hp => by
    have hp' := getElem?_commitLines (List.mem_zipIdx_iff_getElem?.1 hp)
    rw [Commit.slice, List.length_take, List.length_drop, hlen]
    omega
  obtain ⟨hin, hout, -, hc, hring⟩ := showLines_facts k st (whoCore (s.commitWho k)) k.block (s.commitLines k).zipIdx hslice
    (by rw [map_fst_zipIdx]; exact hnd) hwf
  rw [map_fst_zipIdx] at hout
  unfold State.shown at hex
  dsimp only at hex
  generalize s.showLines k st (whoCore (s.commitWho k)) (s.commitLines k).zipIdx = u at hex hin hout hc hring
  obtain ⟨b1, hb1, hr1⟩ := hring b hb
  refine ⟨_, b1.resolve k.handle 1 st false, hex, fun q hq => ?_, fun i l hl =>
    ⟨(hin (l, i) (mem_zipIdx_of_getElem? hl)).1, (hin (l, i) (mem_zipIdx_of_getElem? hl)).2.trans ?_⟩, hout, ?_, ?_⟩
  · have : q ∈ u.commits.filter fun (q : Commit) => q.id != k.id := hq
    rw [hid] at this
    simpa using (List.mem_filter.1 this).2
  · refine List.map_congr_left fun v _ => ?_
    unfold Version.show
    simp only [beq_iff_eq]
  · refine (State.block?_modBlock { u with commits := u.commits.filter fun (q : Commit) => q.id != k.id } k.block k.block
      (fun b => b.resolve k.handle 1 st false) fun _ => rfl).trans ?_
    rw [show ({ u with commits := u.commits.filter fun (q : Commit) => q.id != k.id } : State).block? k.block = some b1 from hb1,
      Option.map_some, if_pos rfl]
  · rw [Block.resolve, Block.resolve, hr1]

theorem commitsOrder_holds : CommitsOrder := by
  intro s id k b hk hb home
  have hid : k.id = id := by simpa using List.find?_some hk
  refine ⟨fun hst hpl hmv hslot hq ht hl => commit_accepted hk hb hst hpl hmv hslot (commitWaits_false hid hq ht hl),
    fun st hst hall => ?_, fun st hst hall hnd hlen hwf hold => commit_shown hk hb hst hall hnd hlen hwf hold⟩
  rw [exec_commitVisibility hk, State.showCommit_eq hst, show s.allAbove (s.homeStack k.base k.off) st = false from hall]
  rfl

end

/-- Settles O28: a stamp above every version's; lines shown one beside the other; an `ldas` answers with the newest version that is visible
and not too new. -/
theorem commitsAndTimedLoads : Obligations.CommitsAndTimedLoads := ⟨commitsOrder_holds, timedLoads_holds⟩

end Sys2Proof.Machine

end

section
/-! SUPPORT. Long loads, stores and atomics perform (O27). -/

namespace Sys2Proof.Machine
open Sys2Proof.Claims

-- The bytes engine operations are to write, while warps get data (R129, R153).

section
variable {s t u : State} {o : EngOp} {r : Req} {d : VDst} {wd : Width} {sx : Bool} {w v : Warp} {k a : LaneAcc} {line id lane base off : Nat}
  {data : List Byte} {hit : Bool}

/-- Between two states warps and the counter of free values change, and nothing else; no block's allocations do. -/
def State.Gives (s t : State) : Prop :=
  t = { s with blocks := t.blocks, freeCtr := t.freeCtr } ∧ ∀ n, (t.block? n).map (·.allocs) = (s.block? n).map (·.allocs)

theorem State.gives_refl (s : State) : s.Gives s := ⟨rfl, fun _ => rfl⟩

theorem State.Gives.trans (h : s.Gives t) (h' : t.Gives u) : s.Gives u := by
  refine ⟨?_, fun n => (h'.2 n).trans (h.2 n)⟩
  rw [h'.1, h.1]

theorem State.gives_modWarp (s : State) (n m : Nat) (f : Warp → Warp) : s.Gives (s.modWarp n m f) := by
  refine ⟨rfl, fun j => ?_⟩
  rw [State.block?_modWarp, Option.map_map]
  congr 1
  funext b
  dsimp only [Function.comp]
  split <;> rfl

theorem State.gives_give (s : State) (r : Req) (d : VDst) (lane : Nat) (ws : List Word32) : s.Gives (s.give r d lane ws) :=
  State.gives_modWarp ..

theorem State.gives_fog (s : State) (who : Option (Nat × Nat)) (id addr : Nat) (bs : List Byte) : s.Gives (s.fog who id addr bs).2 := by
  unfold State.fog
  dsimp only
  split <;> exact ⟨rfl, fun _ => rfl⟩

theorem State.Gives.dests (h : s.Gives t) (o : EngOp) : o.dests t = o.dests s := by
  have hb := h.2 o.block
  unfold EngOp.dests
  cases o.dst with
  | none => rfl
  | some x =>
    dsimp only
    cases hs : s.block? o.block with
    | none =>
      rw [hs, Option.map_none, Option.map_eq_none_iff] at hb
      rw [hb]
    | some b =>
      rw [hs] at hb
      obtain ⟨c, hc, he⟩ := Option.map_eq_some_iff.1 hb
      have hon : c.allocOn = b.allocOn := by
        unfold Block.allocOn
        rw [he]
      rw [hc]
      cases o.kind with
      | cpym mask => simp only [hon]
      | _ => rfl

theorem State.Gives.tensorAddr (h : s.Gives t) (base off : Nat) : t.tensorAddr base off = s.tensorAddr base off := by
  rw [h.1]
  rfl

theorem State.Gives.hotBytes (h : s.Gives t) (who : Option (Nat × Nat)) (id : Nat) : t.hotBytes who id = s.hotBytes who id := by
  have hops : t.ops = s.ops := by rw [h.1]
  have hbox : t.boxAddrs = s.boxAddrs := by
    rw [h.1]
    rfl
  unfold State.hotBytes State.opHot
  simp only [hops, hbox, h.dests]

end

-- The lanes of a load take their bytes from a line (R132).

section
variable {s t : State} {r : Req} {d : VDst} {wd : Width} {sx : Bool} {w : Warp} {k a : LaneAcc} {line id lane base off : Nat}
  {data : List Byte} {hit : Bool}

/-- A lane of a load takes its bytes from a line. -/
def State.takeOne (s : State) (r : Req) (d : VDst) (wd : Width) (sx : Bool) (line : Nat) (data : List Byte) (a : LaneAcc) : State :=
  match a.loc with
  | .tensor _ off =>
    let bs := ((data.drop (off - 128 * line)).take a.bytes).mapIdx fun i v => r.before (s.addrOf a.loc + i) v
    let p := s.fog (some (r.block, r.warp)) r.id (s.addrOf a.loc) bs
    p.2.give r d a.lane (loadWords wd sx p.1)
  | .tmem _ _ _ => s
  | .peer _ _ _ => s

theorem State.takeLine_eq (s : State) (r : Req) (d : VDst) (wd : Width) (sx : Bool) (line : Nat) (data : List Byte) (ls : List LaneAcc) :
    s.takeLine r d wd sx line data ls =
      (ls.foldl (fun s a => s.takeOne r d wd sx line data a) s).endLanes r (ls.map (·.lane)) := rfl

/-- What a lane takes reaches its own lane of its warp's registers and no other. -/
theorem takeOne_facts (hw : s.warp? r.block r.warp = some w) (k : LaneAcc) :
    s.Gives (s.takeOne r d wd sx line data k) ∧ ∃ v, (s.takeOne r d wd sx line data k).warp? r.block r.warp = some v ∧ w.SameShape v ∧
      v.pend = w.pend ∧ ∀ m l, l ≠ k.lane → (v.vread m)[l]? = (w.vread m)[l]? := by
  have hself : s.Gives s ∧ ∃ v, s.warp? r.block r.warp = some v ∧ w.SameShape v ∧ v.pend = w.pend ∧
      ∀ m l, l ≠ k.lane → (v.vread m)[l]? = (w.vread m)[l]? :=
    ⟨s.gives_refl, w, hw, ⟨rfl, fun _ => rfl⟩, rfl, fun _ _ _ => rfl⟩
  unfold State.takeOne
  cases k.loc with
  | tmem c cr off => exact hself
  | peer p table off => exact hself
  | tensor base off =>
    dsimp only
    generalize (List.mapIdx _ _ : List Byte) = bs
    have hf := s.gives_fog (some (r.block, r.warp)) r.id (s.addrOf (.tensor base off)) bs
    have hw' : (s.fog (some (r.block, r.warp)) r.id (s.addrOf (.tensor base off)) bs).2.warp? r.block r.warp = some w := by
      rw [← hw]
      unfold State.fog
      dsimp only
      split <;> rfl
    generalize s.fog (some (r.block, r.warp)) r.id (s.addrOf (.tensor base off)) bs = p at hf hw'
    obtain ⟨fl, hv⟩ := State.warp?_give hw' d k.lane (loadWords wd sx p.1)
    refine ⟨hf.trans (State.gives_give ..), _, hv, (w.sameShape_deliver d k.lane _).of_v rfl, ?_, fun m l hl => Warp.deliver_other hl⟩
    rw [Warp.deliver_eq]

/-- The bytes of a line as a load of a location takes them: those its own word stored as they were before (R142). -/
def State.seen (s : State) (r : Req) (base off : Nat) (bs : List Byte) : List Byte :=
  bs.mapIdx fun i v => r.before (s.tensorAddr base off + i) v

theorem delivered_takeOne (hw : s.warp? r.block r.warp = some w) (hl : a.loc = .tensor base off)
    (hcool : ∀ i, i < a.bytes → s.tensorAddr base off + i ∉ s.hotBytes (some (r.block, r.warp)) r.id) :
    ∃ v, (s.takeOne r d wd sx line data a).warp? r.block r.warp = some v ∧ w.SameShape v ∧ v.pend = w.pend ∧
      Delivered w v d a.lane (loadWords wd sx (s.seen r base off ((data.drop (off - 128 * line)).take a.bytes))) := by
  have he : s.takeOne r d wd sx line data a =
      s.give r d a.lane (loadWords wd sx (s.seen r base off ((data.drop (off - 128 * line)).take a.bytes))) := by
    unfold State.takeOne
    rw [hl]
    dsimp only
    rw [State.fog_of_cool (s := s)]
    · rfl
    · intro i hi
      refine hcool i (Nat.lt_of_lt_of_le hi ?_)
      rw [List.length_mapIdx, List.length_take]
      exact Nat.min_le_left _ _
  obtain ⟨fl, hv⟩ := State.warp?_give hw d a.lane (loadWords wd sx (s.seen r base off ((data.drop (off - 128 * line)).take a.bytes)))
  rw [he]
  refine ⟨_, hv, (w.sameShape_deliver d a.lane _).of_v rfl, ?_, delivered_of_v (delivered_deliver w d a.lane _) rfl⟩
  rw [Warp.deliver_eq]

theorem foldl_takeOne (ls : List LaneAcc) : ∀ {s : State} {w : Warp}, s.warp? r.block r.warp = some w →
    let t := ls.foldl (fun s a => s.takeOne r d wd sx line data a) s
    s.Gives t ∧ ∃ v, t.warp? r.block r.warp = some v ∧ w.SameShape v ∧ v.pend = w.pend ∧
      ∀ m l, (∀ k ∈ ls, l ≠ k.lane) → (v.vread m)[l]? = (w.vread m)[l]? := by
  induction ls with
  | nil => intro s w hw; exact ⟨s.gives_refl, w, hw, ⟨rfl, fun _ => rfl⟩, rfl, fun _ _ _ => rfl⟩
  | cons k ls ih =>
    intro s w hw
    obtain ⟨hg, v, hv, hs, hp, ho⟩ := takeOne_facts (d := d) (wd := wd) (sx := sx) (line := line) (data := data) hw k
    obtain ⟨hg', v', hv', hs', hp', ho'⟩ := ih hv
    exact ⟨hg.trans hg', v', hv', hs.trans hs', hp'.trans hp, fun m l hl =>
      (ho' m l fun q hq => hl q (List.mem_cons_of_mem _ hq)).trans (ho m l (hl k List.mem_cons_self))⟩

/-- A lane gets its bytes whatever the lanes before and after it take. -/
theorem delivered_foldl_takeOne {pre post : List LaneAcc} (hw : s.warp? r.block r.warp = some w) (hl : a.loc = .tensor base off)
    (hcool : ∀ i, i < a.bytes → s.tensorAddr base off + i ∉ s.hotBytes (some (r.block, r.warp)) r.id) (hnd : ∀ k ∈ post, a.lane ≠ k.lane) :
    let t := (pre ++ a :: post).foldl (fun s a => s.takeOne r d wd sx line data a) s
    s.Gives t ∧ ∃ v, t.warp? r.block r.warp = some v ∧ v.pend = w.pend ∧
      Delivered w v d a.lane (loadWords wd sx (s.seen r base off ((data.drop (off - 128 * line)).take a.bytes))) := by
  rw [List.foldl_append, List.foldl_cons]
  obtain ⟨hg1, v1, hv1, hs1, hp1, -⟩ := foldl_takeOne (d := d) (wd := wd) (sx := sx) (line := line) (data := data) pre hw
  dsimp only at hg1 hv1 ⊢
  generalize pre.foldl (fun s a => s.takeOne r d wd sx line data a) s = s1 at hg1 hv1 ⊢
  have hcool1 : ∀ i, i < a.bytes → s1.tensorAddr base off + i ∉ s1.hotBytes (some (r.block, r.warp)) r.id := by
    rw [hg1.tensorAddr, hg1.hotBytes]
    exact hcool
  obtain ⟨v2, hv2, hs2, hp2, hd2⟩ := delivered_takeOne (d := d) (wd := wd) (sx := sx) (line := line) (data := data) hv1 hl hcool1
  have hg2 := (takeOne_facts (d := d) (wd := wd) (sx := sx) (line := line) (data := data) hv1 a).1
  generalize s1.takeOne r d wd sx line data a = s2 at hv2 hg2 ⊢
  obtain ⟨hg3, v3, hv3, -, hp3, ho3⟩ := foldl_takeOne (d := d) (wd := wd) (sx := sx) (line := line) (data := data) post hv2
  refine ⟨(hg1.trans hg2).trans hg3, v3, hv3, (hp3.trans hp2).trans hp1, ?_⟩
  have hseen : s1.seen r base off = s.seen r base off := by
    unfold State.seen
    rw [hg1.tensorAddr]
  rw [← hseen]
  exact delivered_of_other (delivered_of_shape hd2 hs1) fun m => ho3 m a.lane hnd

end

end Sys2Proof.Machine

namespace Sys2Proof.Machine
open Sys2Proof.Claims

-- The return of a long load (R132).

section
variable {s t u : State} {r : Req} {d : VDst} {wd : Width} {sx : Bool} {w : Warp} {k a : LaneAcc} {line id lane base off : Nat}
  {data : List Byte} {hit : Bool} {ln : L1Line}

/-- The lanes of a load that return together: those of one line that no earlier access holds back. -/
def State.together (s : State) (r : Req) (a : LaneAcc) : List LaneAcc :=
  r.lanes.filter fun k => lineOf k.loc == lineOf a.loc && !s.behind r k

theorem lineOf_tensor (h : lineOf k.loc = lineOf (.tensor base off)) : ∃ o, k.loc = .tensor base o ∧ o / 128 = off / 128 := by
  cases hk : k.loc with
  | tmem c cr o =>
    rw [hk] at h
    exact absurd (congrArg Prod.fst h) (by decide : (0 : Nat) ≠ 1)
  | tensor b o =>
    rw [hk] at h
    obtain rfl : b = base := congrArg (·.2.1) h
    exact ⟨o, rfl, congrArg (·.2.2) h⟩
  | peer p b o =>
    rw [hk] at h
    have h := congrArg Prod.fst h
    dsimp only [lineOf] at h
    omega

theorem mem_together (hl : a.loc = .tensor base off) (hk : k ∈ r.lanes) (hkl : ∃ o, k.loc = .tensor base o ∧ o / 128 = off / 128)
    (hb : s.behind r k = false) : k ∈ s.together r a := by
  obtain ⟨o, ho, he⟩ := hkl
  refine List.mem_filter.2 ⟨hk, ?_⟩
  rw [hl, ho, hb, lineOf, lineOf, he, beq_self_eq_true]
  rfl

theorem together_split (ha : a ∈ s.together r a) (hnd : (r.lanes.map (·.lane)).Nodup) :
    ∃ pre post, s.together r a = pre ++ a :: post ∧ ∀ k ∈ post, a.lane ≠ k.lane := by
  obtain ⟨pre, post, he⟩ := List.append_of_mem ha
  refine ⟨pre, post, he, fun k hk hc => ?_⟩
  have hsub : ((s.together r a).map (·.lane)).Nodup := hnd.sublist (List.filter_sublist.map _)
  rw [he, List.map_append, List.map_cons] at hsub
  exact (List.nodup_cons.1 (List.nodup_append.1 hsub).2.1).1 (hc ▸ List.mem_map_of_mem hk)

theorem State.Fills.reqs (h : s.Fills u) : u.reqs = s.reqs := by rw [h]
theorem State.Fills.warp? (h : s.Fills u) (n m : Nat) : u.warp? n m = s.warp? n m := by
  rw [h]
  rfl
theorem State.Fills.cluster (h : s.Fills u) (n m : Nat) : u.cluster n m = s.cluster n m := by
  rw [h]
  rfl

theorem State.Gives.reqs (h : s.Gives t) : t.reqs = s.reqs := by rw [h.1]
theorem State.Gives.mem (h : s.Gives t) : t.mem = s.mem := by rw [h.1]
theorem State.Gives.l1 (h : s.Gives t) : t.l1 = s.l1 := by rw [h.1]
theorem State.Gives.rainfly (h : s.Gives t) : t.rainfly = s.rainfly := by rw [h.1]
theorem State.Gives.cluster (h : s.Gives t) (n m : Nat) : t.cluster n m = s.cluster n m := by
  rw [h.1]
  rfl

/-- With the last lane of a request its registers' data has returned. -/
theorem endLanes_last (hr : s.reqs.find? (fun q => q.id == r.id) = some r) (hw : s.warp? r.block r.warp = some w) {done : List Nat}
    (hlast : ∀ k ∈ r.lanes, k.lane ∈ done) : (∀ q ∈ (s.endLanes r done).reqs, q.id ≠ r.id) ∧
    ∃ p, (s.endLanes r done).warp? r.block r.warp = some { w with pend := p } ∧
      ∀ x ∈ p, x.req = r.id → x.returned = some (s.cluster r.stack (r.core / 8)).cycle := by
  have hleft : (r.lanes.filter fun a => !done.contains a.lane).isEmpty = true := by
    rw [List.isEmpty_iff, List.filter_eq_nil_iff]
    intro k hk
    rw [List.contains_iff_mem.2 (hlast k hk)]
    decide
  unfold State.endLanes
  rw [hr]
  dsimp only
  rw [if_pos hleft]
  refine ⟨fun q hq => by simpa using (List.mem_filter.1 hq).2, _,
    State.warp?_modWarp_self (s := { s with reqs := s.reqs.filter fun q => q.id != r.id }) hw fun _ => rfl, fun x hx hid => ?_⟩
  obtain ⟨y, -, rfl⟩ := List.mem_map.1 hx
  by_cases hy : (y.req == r.id) = true
  · rw [if_pos hy]
  · rw [if_neg hy] at hid
    exact absurd (beq_iff_eq.2 hid) hy

/-- The lanes of a line take their bytes from it and end. -/
theorem takeLine_facts (hr : s.reqs.find? (fun q => q.id == id) = some r) (hw : s.warp? r.block r.warp = some w)
    (hl : a.loc = .tensor base off) (ha : a ∈ s.together r a) (hnd : (r.lanes.map (·.lane)).Nodup) (hf : s.Fills u)
    (hcool : ∀ i, i < a.bytes → s.tensorAddr base off + i ∉ s.hotBytes (some (r.block, r.warp)) r.id) :
    let t := u.takeLine r d wd sx line data (s.together r a)
    SameMemory s t ∧ t.l1 = u.l1 ∧ t.rainfly = u.rainfly ∧ (∀ k ∈ s.together r a, LaneEnded s t id k.lane) ∧
      ∃ v, t.warp? r.block r.warp = some v ∧
        Delivered w v d a.lane (loadWords wd sx (s.seen r base off ((data.drop (off - 128 * line)).take a.bytes))) ∧
        (r.lanes = [a] → (∀ q ∈ t.reqs, q.id ≠ id) ∧
          ∀ p ∈ v.pend, p.req = id → p.returned = some (s.cluster r.stack (r.core / 8)).cycle) := by
  obtain ⟨pre, post, hsplit, hpost⟩ := together_split ha hnd
  have hid : r.id = id := beq_iff_eq.1 (List.find?_some (p := fun q : Req => q.id == id) hr)
  have hcool' : ∀ i, i < a.bytes → u.tensorAddr base off + i ∉ u.hotBytes (some (r.block, r.warp)) r.id := by
    rw [hf.tensorAddr, hf.hotBytes]
    exact hcool
  have hw' : u.warp? r.block r.warp = some w := (hf.warp? _ _).trans hw
  obtain ⟨hg, v, hv, -, hd⟩ := delivered_foldl_takeOne (pre := pre) (d := d) (wd := wd) (sx := sx) (line := line) (data := data) hw' hl hcool' hpost
  have hseen : u.seen r base off = s.seen r base off := by
    unfold State.seen
    rw [hf.tensorAddr]
  rw [State.takeLine_eq]
  rw [hseen] at hd
  rw [← hsplit] at hg hv
  generalize (s.together r a).foldl (fun s a => s.takeOne r d wd sx line data a) u = m at hg hv ⊢
  have hreqs : m.reqs = s.reqs := hg.reqs.trans hf.reqs
  have hmem : (m.endLanes r ((s.together r a).map (·.lane))).mem = s.mem := by
    rw [State.endLanes_frame]
    exact hg.mem.trans hf.mem
  refine ⟨fun x => by rw [hmem], ?_, ?_, fun k hk => laneEnded_endLanes hr hid hreqs (List.mem_map_of_mem hk), ?_⟩
  · rw [State.endLanes_frame]
    exact hg.l1
  · rw [State.endLanes_frame]
    exact hg.rainfly
  · by_cases hone : r.lanes = [a]
    · have hlast : ∀ k ∈ r.lanes, k.lane ∈ (s.together r a).map (·.lane) := by
        rw [hone]
        intro k hk
        obtain rfl := List.mem_singleton.1 hk
        exact List.mem_map_of_mem ha
      have hfind : m.reqs.find? (fun q => q.id == r.id) = some r := by rw [hreqs, hid]; exact hr
      obtain ⟨hnone, p, hp, hret⟩ := endLanes_last hfind hv hlast
      refine ⟨_, hp, delivered_of_v hd rfl, fun _ => ⟨fun q hq => hid ▸ hnone q hq, fun x hx hxid => ?_⟩⟩
      rw [← hf.cluster, ← hg.cluster]
      exact hret x hx (hxid.trans hid.symm)
    · obtain ⟨p, hp⟩ := State.warp?_endLanes hv ((s.together r a).map (·.lane))
      exact ⟨_, hp, delivered_of_v hd rfl, fun h => absurd h hone⟩

/-- The bytes of a line lie in one frame. -/
theorem State.tensorAddr_line (h : s.absent (.tensor base off) = false) :
    s.tensorAddr base off = s.tensorAddr base (128 * (off / 128)) + off % 128 := by
  have hq : 128 * (off / 128) / 65536 = off / 65536 := by omega
  have he : s.entryOf base (128 * (off / 128)) = s.entryOf base off := by
    unfold State.entryOf
    rw [hq]
  unfold State.absent at h
  unfold State.tensorAddr
  rw [he]
  cases ho : s.entryOf base off with
  | none =>
    dsimp only at h
    rw [ho] at h
    cases h
  | some e =>
    dsimp only [frameAddr]
    omega

theorem readBytes_part (m : Memory) (x n k j : Nat) (h : k + j ≤ n) : ((m.readBytes x n).drop k).take j = m.readBytes (x + k) j := by
  refine List.ext_getElem? fun i => ?_
  rw [List.getElem?_take, Memory.readBytes_eq, Memory.readBytes_eq, List.getElem?_drop, List.getElem?_map, List.getElem?_map]
  by_cases hi : i < j
  · rw [if_pos hi, List.getElem?_range (by omega), List.getElem?_range hi]
    simp only [Option.map_some, Nat.add_assoc]
  · rw [if_neg hi, List.getElem?_eq_none (by simpa using hi)]
    rfl

theorem State.meterVal_of {g : Nat} {m : Meter} (h : s.rainfly.meters.find? (fun m => m.region == g) = some m) : s.meterVal g = m.value := by
  unfold State.meterVal
  rw [h]

/-- Bytes counted on a known meter. -/
theorem State.meterVal_countMeter {g n : Nat} {m : Meter} (h : s.rainfly.meters.find? (fun m => m.region == g) = some m) :
    (s.countMeter (some g) n).meterVal g = min Config.ones64 (m.value + n) := by
  have hg : (m.region == g) = true := List.find?_some (p := fun m : Meter => m.region == g) h
  have hf : (s.rainfly.meters.map fun k => if k.region == g then { k with value := min Config.ones64 (m.value + n) } else k).find?
      (fun m => m.region == g) = some { m with value := min Config.ones64 (m.value + n) } := by
    have hcomp : (fun m : Meter => m.region == g) ∘ (fun k : Meter => if k.region == g then
        { k with value := min Config.ones64 (m.value + n) } else k) = fun m => m.region == g := by
      funext k
      dsimp only [Function.comp]
      split <;> rfl
    rw [List.find?_map, hcomp, h, Option.map_some, if_pos hg]
  refine State.meterVal_of (m := { m with value := min Config.ones64 (m.value + n) }) ?_
  unfold State.countMeter
  dsimp only
  rw [h]
  dsimp only
  split
  · exact hf
  · exact hf

section
variable (hr : s.reqs.find? (fun q => q.id == id) = some r) (hk : r.kind = .load d wd sx)
  (ha : r.lanes.find? (fun k => k.lane == lane) = some a)
include hr hk ha

theorem exec_longLoadReturn_behind (hb : s.behind r a = true) : exec (.longLoadReturn id lane hit) s = .next s := by
  dsimp only [exec, execLongLoadReturn]
  rw [hr]
  dsimp only
  rw [hk, ha]
  exact congrArg Host.Outcome.next (if_pos hb)

theorem exec_longLoadReturn_tensor (hb : s.behind r a = false) (hl : a.loc = .tensor base off) :
    exec (.longLoadReturn id lane hit) s = .next (
      let line := off / 128
      let miss :=
        let p := s.lookup (some (r.block, r.warp)) r.id [] (s.tensorAddr base (128 * line)) 128
        (((p.2.fillL1 { core := 32 * r.stack + r.core, base := base, line := line, data := p.1, tag := none }).countMeter a.meter
          128).countAccess base off r.stack).takeLine r d wd sx line p.1 (s.together r a)
      match s.l1Line (32 * r.stack + r.core) r.block base line with
      | some ln => if hit || ln.tag.isSome then s.takeLine r d wd sx line ln.data (s.together r a) else miss
      | none => if hit then s else miss) := by
  dsimp only [exec, execLongLoadReturn, State.together]
  rw [hr]
  dsimp only
  rw [hk, ha]
  refine congrArg Host.Outcome.next ((if_neg (by rw [hb]; exact Bool.false_ne_true)).trans ?_)
  rw [hl] <;> rfl

end

/-- The line a load that misses brings from its home. -/
def missLine (s : State) (r : Req) (base off : Nat) : L1Line :=
  { core := 32 * r.stack + r.core, base := base, line := off / 128, tag := none,
    data := s.mem.readBytes (s.tensorAddr base (128 * (off / 128))) 128 }

/-- A load misses: the line comes in and is counted. -/
def State.missed (s : State) (r : Req) (a : LaneAcc) (base off : Nat) : State :=
  ((s.fillL1 (missLine s r base off)).countMeter a.meter 128).countAccess base off r.stack

theorem State.fills_missed (s : State) (r : Req) (a : LaneAcc) (base off : Nat) : s.Fills (s.missed r a base off) :=
  (State.fills_fillL1 ..).trans ((State.counted_countMeter _ _ _).trans (State.counted_countAccess ..)).fills

theorem mem_missed_l1 : missLine s r base off ∈ (s.missed r a base off).l1 := by
  have h := (State.counted_countMeter (s.fillL1 (missLine s r base off)) a.meter 128).trans (State.counted_countAccess _ base off r.stack)
  unfold State.Counted at h
  unfold State.missed
  rw [h]
  exact State.mem_fillL1 ..

theorem State.meterVal_countAccess (st g : Nat) : (s.countAccess base off st).meterVal g = s.meterVal g := by
  unfold State.countAccess
  dsimp only
  split <;> rfl

theorem State.meterVal_missed {g : Nat} {m : Meter} (hg : a.meter = some g)
    (h : s.rainfly.meters.find? (fun m => m.region == g) = some m) :
    (s.missed r a base off).meterVal g = min Config.ones64 (m.value + 128) := by
  unfold State.missed
  rw [State.meterVal_countAccess, hg]
  exact State.meterVal_countMeter (s := s.fillL1 (missLine s r base off)) h

theorem behind_iff : s.behind r a = true ↔ ∃ q ∈ s.reqs, q.block = r.block ∧ q.warp = r.warp ∧ q.id < r.id ∧
    ((∃ d n k, q.kind = .qget d n k) ∨ ∃ k ∈ q.lanes, k.loc.overlaps k.bytes a.loc a.bytes = true) := by
  have hget : ∀ k : ReqKind, k.isGet = true ↔ ∃ d n j, k = .qget d n j := fun k => by cases k <;> simp [ReqKind.isGet]
  unfold State.behind
  simp only [List.any_eq_true, Bool.and_eq_true, Bool.or_eq_true, beq_iff_eq, decide_eq_true_eq, hget, and_assoc]

theorem loadReturns_holds : LoadReturns := by
  intro s id lane hit r a d wd sx w base off hr hk ha hnd hw hl hfit habs core home seen taken
  have hlane : a.lane = lane := beq_iff_eq.1 (List.find?_some (p := fun k : LaneAcc => k.lane == lane) ha)
  have hmem : s.behind r a = false → a ∈ s.together r a := mem_together hl (List.mem_of_find?_eq_some ha) ⟨off, hl, rfl⟩
  have hseen : ∀ bs, seen bs = s.seen r base off bs := fun bs => by
    unfold State.seen
    simp only [before_eq]
    rfl
  have haddr : s.tensorAddr base off = home + off % 128 := State.tensorAddr_line (hl ▸ habs)
  have hoff : off - 128 * (off / 128) = off % 128 := by omega
  refine ⟨behind_iff, exec_longLoadReturn_behind hr hk ha, fun hb hmiss hcool => ?_, fun hb ln hln hhit hcool => ?_⟩
  · have hex : exec (.longLoadReturn id lane false) s = .next ((s.missed r a base off).takeLine r d wd sx (off / 128)
        (missLine s r base off).data (s.together r a)) := by
      refine (exec_longLoadReturn_tensor hr hk ha hb hl).trans (congrArg Host.Outcome.next ?_)
      dsimp only
      rw [State.lookup_of_cool [] hcool]
      cases hln : s.l1Line (32 * r.stack + r.core) r.block base (off / 128) with
      | none => rfl
      | some ln => exact if_neg (by rw [hmiss ln hln]; exact Bool.false_ne_true)
    obtain ⟨hm, hl1, hrf, hended, v, hv, hd, hone⟩ := takeLine_facts (u := s.missed r a base off) (d := d) (wd := wd) (sx := sx)
      (line := off / 128) (data := (missLine s r base off).data) hr hw hl (hmem hb) hnd (s.fills_missed r a base off) (by
        intro i hi
        rw [haddr, Nat.add_assoc]
        exact hcool _ (by omega))
    refine ⟨_, v, missLine s r base off, hex, hm, hlane ▸ hended a (hmem hb), fun k hkm hkl hkb => hended k (mem_together hl hkm hkl hkb),
      hv, ?_, hl1 ▸ mem_missed_l1, rfl, rfl, rfl, rfl, fun g m hg hgm => ?_, hone⟩
    · rw [hseen, haddr, ← hlane, ← readBytes_part _ home 128 _ _ hfit, ← hoff]
      exact hd
    · refine Eq.trans ?_ (State.meterVal_missed (r := r) (base := base) (off := off) hg hgm)
      unfold State.meterVal
      rw [hrf]
  · have hex : exec (.longLoadReturn id lane hit) s = .next (s.takeLine r d wd sx (off / 128) ln.data (s.together r a)) := by
      refine (exec_longLoadReturn_tensor hr hk ha hb hl).trans (congrArg Host.Outcome.next ?_)
      dsimp only
      rw [hln]
      exact if_pos (Bool.or_eq_true _ _ ▸ hhit)
    obtain ⟨hm, hl1, hrf, hended, v, hv, hd, -⟩ := takeLine_facts (u := s) (d := d) (wd := wd) (sx := sx)
      (line := off / 128) (data := ln.data) hr hw hl (hmem hb) hnd (State.fills_refl s) hcool
    refine ⟨_, v, hex, hm, hlane ▸ hended a (hmem hb), fun k hkm hkl hkb => hended k (mem_together hl hkm hkl hkb), hl1, hrf, hv, ?_⟩
    rw [hseen, ← hlane, ← hoff]
    exact hd

end

end Sys2Proof.Machine

namespace Sys2Proof.Machine
open Sys2Proof.Claims

-- A lane leaves for a peer (R16, R202).

section
variable {s t : State} {r : Req} {a : LaneAcc} {id lane p table off : Nat} {h : Head} {bs : List Byte} {i : Instr} {w : Warp} {b : Block}
  {d : VDst} {wd : Width} {sx hit : Bool}

/-- Some tag up to the number of outstanding requests is borne by none of them. -/
theorem State.freeTag_ne (s : State) : ∀ x ∈ s.peerReqs, x.tag ≠ s.freeTag := by
  have hex : ∃ t ∈ List.range (s.peerReqs.length + 1), (s.peerReqs.all fun r => r.tag != t) = true := by
    by_contra hno
    push Not at hno
    have hsub : List.range (s.peerReqs.length + 1) ⊆ s.peerReqs.map (·.tag) := fun t ht => by
      have := hno t ht
      rw [ne_eq, List.all_eq_true] at this
      push Not at this
      obtain ⟨x, hx, hxt⟩ := this
      exact List.mem_map.2 ⟨x, hx, by simpa using hxt⟩
    have hle := (List.nodup_range.subperm hsub).length_le
    rw [List.length_range, List.length_map] at hle
    omega
  obtain ⟨t, ht, hall⟩ := hex
  have hsome : ((List.range (s.peerReqs.length + 1)).find? fun t => s.peerReqs.all fun r => r.tag != t).isSome = true :=
    List.find?_isSome.2 ⟨t, ht, hall⟩
  obtain ⟨u, hu⟩ := Option.isSome_iff_exists.1 hsome
  have hfree : s.freeTag = u := by
    unfold State.freeTag
    rw [hu]
    rfl
  rw [hfree]
  intro x hx
  have := List.all_eq_true.1 (List.find?_some (p := fun t => s.peerReqs.all fun r => r.tag != t) hu) x hx
  simpa using this

/-- The request a lane leaves by. -/
def leavingReq (s : State) (core peer : Nat) (r : Path) (who : PeerWho) (h : Head) (bs : List Byte) : PeerReq :=
  { tag := s.freeTag, port := if s.freeTag < tagCount then s.pathPort r else none, since := s.coreThat core, core := core, peer := peer
    path := r, who := who, body := dataFlits bs
    head := ({ h with src := s.ownPeer, dst := peer, tag := if s.freeTag < tagCount then s.freeTag else 0 } : Head).flit 0 0 }

theorem submitPeer_facts (core peer : Nat) (route : Option Path) (id lane : Nat) (h : Head) (bs : List Byte) :
    let t := s.submitPeer core peer route (.lane id lane) h bs
    s.Sent t ∧ t.peerReqs = s.peerReqs ++ [leavingReq s core peer (route.getD default) (.lane id lane) h bs] := by
  refine ⟨State.sent_submitPeer .., ?_⟩
  unfold State.submitPeer State.peerRequest
  dsimp only
  split <;> rfl

theorem away_iff : (s.peerReqs.any fun q => q.who == .lane r.id a.lane) = true ↔ ∃ q ∈ s.peerReqs, q.who = .lane r.id a.lane := by
  simp only [List.any_eq_true, beq_iff_eq]

theorem modWarp_keep_blocks (n m : Nat) : (s.modWarp n m fun x => x).blocks = s.blocks := by
  have hid : ∀ b : Block, b.modWarp m (fun x => x) = b := fun b => by
    have : b.warps.map (fun w => if w.num == m then w else w) = b.warps := by simp
    unfold Block.modWarp
    rw [this]
  unfold State.modWarp State.modBlock
  dsimp only
  simp only [hid, ite_self, List.map_id']

/-- A lane of which a request is with its peer sends none again. -/
theorem lane_stays {B : List Block} (hex : exec i s = .next (({ s with blocks := B } : State).sendLane r a p table off h bs))
    (haway : ∃ q ∈ s.peerReqs, q.who = .lane r.id a.lane) :
    ∃ t, exec i s = .next t ∧ SameMemory s t ∧ t.peerReqs = s.peerReqs ∧ t.reqs = s.reqs :=
  ⟨{ s with blocks := B }, hex.trans (congrArg Host.Outcome.next (if_pos (away_iff.2 haway))), fun _ => rfl, rfl, rfl⟩

/-- A lane leaves by one request, which bears a tag of its own and names the lane's bytes. -/
theorem lane_leaves {B : List Block} {op : Nat} (hex : exec i s = .next (({ s with blocks := B } : State).sendLane r a p table off h bs))
    (hop : h.op = op) (haway : ¬∃ q ∈ s.peerReqs, q.who = .lane r.id a.lane) :
    ∃ t q h, exec i s = .next t ∧ SameMemory s t ∧ t.reqs = s.reqs ∧ t.peerReqs = s.peerReqs ++ [q] ∧
      (∀ x ∈ s.peerReqs, x.tag ≠ q.tag) ∧ q.peer = p ∧ q.who = .lane r.id a.lane ∧ q.path = r.route.getD default ∧
      q.core = 32 * r.stack + r.core ∧ q.since = (s.stack? (q.core / 32)).that ∧ q.body = dataFlits bs ∧ q.head = Head.flit h 0 0 ∧ h.op = op ∧ h.dst = p ∧
      h.table = table ∧ (off / 65536 < 2 ^ 32 → h.tile = off / 65536) ∧ h.tile < 2 ^ 32 ∧ h.offset = off % 65536 ∧ h.count = a.bytes - 1 ∧
      (q.tag < 65536 → q.port = s.pathPort q.path ∧ h.tag = q.tag) ∧ (65536 ≤ q.tag → q.port = none ∧ h.tag = 0) ∧ t.blocks = B := by
  have hsend : ({ s with blocks := B } : State).sendLane r a p table off h bs =
      ({ s with blocks := B } : State).submitPeer (32 * r.stack + r.core) p r.route (.lane r.id a.lane) (Head.place h table off a.bytes) bs :=
    if_neg fun hc => haway (away_iff.1 hc)
  obtain ⟨hs, hp⟩ := submitPeer_facts (s := { s with blocks := B }) (32 * r.stack + r.core) p r.route r.id a.lane
    (Head.place h table off a.bytes) bs
  rw [hsend] at hex
  dsimp only at hs hp
  generalize ({ s with blocks := B } : State).submitPeer (32 * r.stack + r.core) p r.route (.lane r.id a.lane)
    (Head.place h table off a.bytes) bs = t at hex hs hp
  have hmem : t.mem = s.mem := hs.mem
  have hblocks : t.blocks = B := by rw [hs]
  have hreqs : t.reqs = s.reqs := by rw [hs]
  refine ⟨t, _, { Head.place h table off a.bytes with src := s.ownPeer, dst := p, tag := if s.freeTag < tagCount then s.freeTag else 0 },
    hex, fun x => by rw [hmem], hreqs, hp, s.freeTag_ne, rfl, rfl, rfl, rfl, rfl, rfl, rfl, hop, rfl, rfl, tileField_of_lt,
    tileField_lt _, rfl, rfl, fun ht => ⟨if_pos ht, if_pos ht⟩, fun ht => ⟨if_neg (Nat.not_lt.2 ht), if_neg (Nat.not_lt.2 ht)⟩, hblocks⟩

section
variable (hr : s.reqs.find? (fun q => q.id == id) = some r) (ha : r.lanes.find? (fun k => k.lane == lane) = some a)
include hr ha

theorem exec_longLoadReturn_peer (hk : r.kind = .load d wd sx) (hl : a.loc = .peer p table off) :
    exec (.longLoadReturn id lane hit) s =
      .next (if s.blocked r a then s else s.sendLane r a p table off { (default : Head) with op := 1 } []) := by
  dsimp only [exec, execLongLoadReturn]
  rw [hr]
  dsimp only
  rw [hk, ha]
  refine congrArg Host.Outcome.next ?_
  cases hb : s.behind r a with
  | true => exact (if_pos hb).trans (if_pos (State.blocked_of_behind hb)).symm
  | false =>
    refine (if_neg (by rw [hb]; exact Bool.false_ne_true)).trans ?_
    rw [hl]

variable (hb : s.block? r.block = some b) (hw : b.warp? r.warp = some w)
include hb hw

theorem exec_storePerformed_blocked (hbl : s.blocked r a = true ∨ s.moving a.loc = true) : exec (.storePerformed id lane) s = .next s := by
  dsimp only [exec, execStorePerformed]
  rw [hr]
  dsimp only
  rw [ha, hb, show s.warp? r.block r.warp = some w by rw [State.warp?, hb]; exact hw]
  exact congrArg Host.Outcome.next (if_pos (Bool.or_eq_true _ _ ▸ hbl))

theorem exec_storePerformed_store (hk : r.kind = .store) (hbl : s.blocked r a = false) (hm : s.moving a.loc = false) :
    exec (.storePerformed id lane) s = .next (match a.loc with
      | .peer p table off => if s.ownReads r a then s else s.sendLane r a p table off { (default : Head) with op := 3 } a.data
      | .tmem _ _ _ => s.performTmem r a
      | .tensor base off => s.performStore r a base off) := by
  dsimp only [exec, execStorePerformed]
  rw [hr]
  dsimp only
  rw [ha, hb, show s.warp? r.block r.warp = some w by rw [State.warp?, hb]; exact hw]
  dsimp only
  rw [hk]
  exact congrArg Host.Outcome.next (if_neg (by rw [hbl, hm]; exact Bool.false_ne_true))

theorem exec_storePerformed_atom {op : AtomOp} {ty : ITy} {order : MemOrder} {scope : Scope} (hk : r.kind = .atom d op ty order scope)
    (hbl : s.blocked r a = false) (hm : s.moving a.loc = false) :
    exec (.storePerformed id lane) s = .next (if !s.atomReady r order scope then s
      else (match a.loc with
        | .tmem _ _ _ => s
        | .peer p table off => if s.ownReads r a then s else s.sendAtom r a op ty order scope p table off
        | .tensor base off => s.performAtom r a (scopeOf b w scope) d op ty order base off)) := by
  dsimp only [exec, execStorePerformed]
  rw [hr]
  dsimp only
  rw [ha, hb, show s.warp? r.block r.warp = some w by rw [State.warp?, hb]; exact hw]
  dsimp only
  rw [hk]
  exact congrArg Host.Outcome.next (if_neg (by rw [hbl, hm]; exact Bool.false_ne_true))

end

/-- What an atomic releases before it performs (R149). -/
def Warp.atomReleased (order : MemOrder) (word : Nat) (x : Warp) : Warp :=
  if order = .release ∨ order = .acqRel then { x with unready := x.unready.map fun e => if e.1 < word then (0, e.2) else e } else x

/-- The head of an atomic's packet (R299). -/
def atomHead (op : AtomOp) (ty : ITy) (order : MemOrder) (scope : Scope) : Head :=
  { (default : Head) with op := 5, scope := (scopeNum scope), order := codeMemOrder order, aop := codeAtomOp op, atype := codeITy ty }

theorem released_of_order (order : MemOrder) :
    (if order == .release || order == .acqRel then s.released r.block r.warp r.word else s) =
      { s with blocks := (s.modWarp r.block r.warp (Warp.atomReleased order r.word)).blocks } := by
  by_cases ho : order = .release ∨ order = .acqRel
  · have hf : Warp.atomReleased order r.word =
        fun x => { x with unready := x.unready.map fun e => if e.1 < r.word then (0, e.2) else e } := funext fun x => if_pos ho
    rw [if_pos (by simpa using ho), hf]
    rfl
  · have hf : Warp.atomReleased order r.word = fun x => x := funext fun x => if_neg ho
    rw [if_neg (by simpa using ho), hf, modWarp_keep_blocks]

theorem peerLanesLeave_holds : PeerLanesLeave := by
  intro s id lane p table off hit r a b w hr ha hb hw hl away leaves
  have hmv : s.moving a.loc = false := by rw [hl]; rfl
  have hstays : ∀ {i : Instr}, exec i s = .next s → ∃ t, exec i s = .next t ∧ SameMemory s t ∧ t.peerReqs = s.peerReqs ∧ t.reqs = s.reqs :=
    fun hex => ⟨s, hex, fun _ => rfl, rfl, rfl⟩
  refine ⟨fun d wd sx hk => ?_, fun hk => ?_, fun d op ty order scope hk => ?_⟩
  · have hex := exec_longLoadReturn_peer (hit := hit) hr ha hk hl
    have hfree : s.blocked r a = false → exec (.longLoadReturn id lane hit) s =
        .next (({ s with blocks := s.blocks } : State).sendLane r a p table off { (default : Head) with op := 1 } []) := fun hf =>
      hex.trans (congrArg Host.Outcome.next (if_neg (by rw [hf]; exact Bool.false_ne_true)))
    refine ⟨fun h => ?_, fun haway hf => ?_⟩
    · by_cases hf : s.blocked r a = false
      · exact lane_stays (hfree hf) (h.resolve_right fun hc => hc hf)
      · exact hstays (hex.trans (congrArg Host.Outcome.next (if_pos (Bool.not_eq_false _ ▸ hf))))
    · rw [modWarp_keep_blocks]
      exact lane_leaves (hfree hf) rfl haway
  · have hfree : s.blocked r a = false → s.ownReads r a = false → exec (.storePerformed id lane) s =
        .next (({ s with blocks := s.blocks } : State).sendLane r a p table off { (default : Head) with op := 3 } a.data) := fun hf ho => by
      rw [exec_storePerformed_store hr ha hb hw hk hf hmv, hl]
      exact congrArg Host.Outcome.next (if_neg (by rw [ho]; exact Bool.false_ne_true))
    refine ⟨fun h => ?_, fun haway hf => ?_⟩
    · cases hf : s.blocked r a with
      | true => exact hstays (exec_storePerformed_blocked hr ha hb hw (.inl hf))
      | false =>
        cases ho : s.ownReads r a with
        | true =>
          refine hstays ?_
          rw [exec_storePerformed_store hr ha hb hw hk hf hmv, hl]
          exact congrArg Host.Outcome.next (if_pos ho)
        | false => exact lane_stays (hfree hf ho) (h.resolve_right fun hc => hc ⟨hf, ho⟩)
    · rw [modWarp_keep_blocks]
      exact lane_leaves (hfree hf.1 hf.2) rfl haway
  · have hrel := released_of_order (s := s) (r := r) order
    have hfree : s.blocked r a = false → s.atomReady r order scope = true → s.ownReads r a = false →
        exec (.storePerformed id lane) s = .next (({ s with blocks := (s.modWarp r.block r.warp (Warp.atomReleased order r.word)).blocks
          } : State).sendLane r a p table off (atomHead op ty order scope) (a.data ++ a.cmp)) := fun hf hready ho => by
      rw [exec_storePerformed_atom hr ha hb hw hk hf hmv, hl, ← hrel]
      refine congrArg Host.Outcome.next ((if_neg (by rw [hready]; exact Bool.false_ne_true)).trans ?_)
      exact if_neg (by rw [ho]; exact Bool.false_ne_true)
    refine ⟨fun h => ?_, fun haway hf => ?_⟩
    · cases hf : s.blocked r a with
      | true => exact hstays (exec_storePerformed_blocked hr ha hb hw (.inl hf))
      | false =>
        cases hready : s.atomReady r order scope with
        | false =>
          refine hstays ((exec_storePerformed_atom hr ha hb hw hk hf hmv).trans (congrArg Host.Outcome.next (if_pos ?_)))
          rw [hready]
          rfl
        | true =>
          cases ho : s.ownReads r a with
          | true =>
            refine hstays ((exec_storePerformed_atom hr ha hb hw hk hf hmv).trans (congrArg Host.Outcome.next ?_))
            refine (if_neg (by rw [hready]; exact Bool.false_ne_true)).trans ?_
            rw [hl]
            exact if_pos ho
          | false => exact lane_stays (hfree hf hready ho) (h.resolve_right fun hc => hc ⟨hf, hready, ho⟩)
    · exact lane_leaves (hfree hf.1 hf.2.1 hf.2.2) rfl haway

end

end Sys2Proof.Machine

namespace Sys2Proof.Machine
open Sys2Proof.Claims

-- Stores and atomics at their home (R132, R160, R295).

section
variable {s t u : State} {r : Req} {a : LaneAcc} {id lane addr base off : Nat} {bs : List Byte} {w w' : Warp} {b : Block} {d : VDst}

/-- A request's bytes written at their home, none of them one that a copy of its own word has written. -/
theorem writeReq_facts (h : ∀ k ∈ r.undef, k < addr ∨ addr + bs.length ≤ k) (hw : s.warp? r.block r.warp = some w) :
    let t := s.writeReq r addr bs
    t.mem = s.mem.writeBytes addr bs ∧ t.reqs = s.reqs ∧ t.empty = s.empty ∧ t.tensors = s.tensors ∧
      t.tags = s.tags.filter (fun t => !(decide (t.line * 64 < addr + bs.length) && decide (addr < t.line * 64 + 64))) ∧
      ∃ v, t.warp? r.block r.warp = some v ∧ v.v = w.v := by
  have hbs : (bs.mapIdx fun i v => if r.undef.contains (addr + i) then Config.freeByte (s.freeCtr + bs.length + i) else v) = bs := by
    refine List.ext_getElem (by simp) fun i h1 h2 => ?_
    have hno : r.undef.contains (addr + i) = false := contains_of_not_mem fun hc => by
      have := h _ hc
      omega
    rw [List.getElem_mapIdx, hno]
    rfl
  have hmem : (s.writeReq r addr bs).mem = s.mem.writeBytes addr
      (bs.mapIdx fun i v => if r.undef.contains (addr + i) then Config.freeByte (s.freeCtr + bs.length + i) else v) := rfl
  have htags : (s.writeReq r addr bs).tags = s.tags.filter (fun t => !(decide (t.line * 64 < addr +
      (bs.mapIdx fun i v => if r.undef.contains (addr + i) then Config.freeByte (s.freeCtr + bs.length + i) else v).length) &&
        decide (addr < t.line * 64 + 64))) := rfl
  rw [hbs] at hmem htags
  refine ⟨hmem, rfl, rfl, rfl, htags, ?_⟩
  unfold State.writeReq
  dsimp only
  refine ⟨_, State.warp?_modWarp_self (w := w) ?_ fun _ => rfl, rfl⟩
  have hfind : ∀ (l : List Block) (g : Block → Block) (hg : ∀ b, (g b).bid = b.bid ∧ (g b).warps = b.warps),
      ((l.map g).find? fun b => b.bid == r.block).bind (fun b => b.warp? r.warp) = (l.find? fun b => b.bid == r.block).bind fun b => b.warp? r.warp := by
    intro l g hg
    have hcomp : (fun b : Block => b.bid == r.block) ∘ g = fun b => b.bid == r.block := by
      funext b
      exact congrArg (· == r.block) (hg b).1
    rw [List.find?_map, hcomp]
    cases l.find? fun b => b.bid == r.block with
    | none => rfl
    | some b => exact congrArg (fun ws : List Warp => ws.find? fun w => w.num == r.warp) (hg b).2
  refine (hfind s.blocks _ fun b => ?_).trans hw
  split
  · exact ⟨rfl, rfl⟩
  · exact ⟨rfl, rfl⟩

/-- A lane that faults at its home: a program's is parked, a handler's is the fatal error 0x81 (R246, R351). -/
theorem lateFault_ends (hr : s.reqs.find? (fun q => q.id == id) = some r) (ha : r.lanes.find? (fun k => k.lane == lane) = some a)
    (hreqs : u.reqs = s.reqs) (hmem : u.mem = s.mem) (hw : u.warp? r.block r.warp = some w')
    (hp : w'.parked = w.parked) (hrec : w'.records = w.records) (ht : w'.trap = w.trap) (cause : Nat) :
    let t := (u.lateFault r a cause).endLanes r [a.lane]
    ∃ v, SameMemory s t ∧ LaneEnded s t id lane ∧ t.warp? r.block r.warp = some v ∧
      (r.handler = false → w.parked.getLsbD a.lane = false → a.lane < 32 → v.trap = w.trap ∧ v.parked.getLsbD a.lane = true ∧
        { lane := a.lane, cause := cause, slot := 7, rcd := r.rec_, offset := r.offset, c0 := a.c0, c1 := a.c1 } ∈ v.records) ∧
      (r.handler = true → w.trap = none → HandlerFails w v r a cause) := by
  have hid : r.id = id := beq_iff_eq.1 (List.find?_some (p := fun q : Req => q.id == id) hr)
  have hlane : a.lane = lane := beq_iff_eq.1 (List.find?_some (p := fun k : LaneAcc => k.lane == lane) ha)
  obtain ⟨p, hv⟩ := State.warp?_endLanes (State.warp?_lateFault a cause hw) [a.lane]
  have hend : ((u.lateFault r a cause).endLanes r [a.lane]).mem = s.mem := by
    rw [State.endLanes_frame]
    exact hmem
  have hended : LaneEnded s ((u.lateFault r a cause).endLanes r [a.lane]) id lane :=
    laneEnded_endLanes (u := u.lateFault r a cause) hr hid hreqs (hlane ▸ List.mem_singleton.2 rfl)
  refine ⟨_, fun x => by rw [hend], hended, hv, fun hh hpk hl => ?_, fun hh htr => ?_⟩
  · have hpark : w'.laneFault r.handler (r.fault a cause) 0x81 = w'.park (r.fault a cause) := if_neg (by rw [hh]; exact Bool.false_ne_true)
    rw [hpark]
    refine ⟨?_, ?_, ?_⟩
    · dsimp only
      rw [Warp.park_eq]
      exact ht
    · refine (Warp.park_parked w' (r.fault a cause) hl).trans ?_
      rw [show (r.fault a cause).lane = a.lane from rfl, beq_self_eq_true, Bool.or_true]
    · dsimp only
      rw [Warp.park_records_of_not (by rw [hp]; exact hpk)]
      exact List.mem_append_right _ (List.mem_singleton.2 rfl)
  · have hfault : w'.laneFault r.handler (r.fault a cause) 0x81 = w'.handlerFault (r.fault a cause) 0x81 := if_pos hh
    rw [hfault]
    refine ⟨?_, ?_, _, Warp.handlerFault_trap _ _ (ht.trans htr), rfl, rfl, rfl, rfl, rfl, rfl, rfl⟩
    · dsimp only
      rw [Warp.handlerFault_frame]
      exact hp
    · dsimp only
      rw [Warp.handlerFault_frame]
      exact hrec

theorem State.countAccess_frame (s : State) (base off st : Nat) : s.countAccess base off st = { s with access := (s.countAccess base off st).access } := by
  unfold State.countAccess
  dsimp only
  split <;> rfl

theorem storesPerform_holds : StoresPerform := by
  intro s id lane r a b w hr hk ha hb hw hmv hwf
  have hid : r.id = id := beq_iff_eq.1 (List.find?_some (p := fun q : Req => q.id == id) hr)
  have hlane : a.lane = lane := beq_iff_eq.1 (List.find?_some (p := fun k : LaneAcc => k.lane == lane) ha)
  have hw' : s.warp? r.block r.warp = some w := by
    rw [State.warp?, hb]
    exact hw
  refine ⟨fun hbl => exec_storePerformed_blocked hr ha hb hw (.inl hbl), fun hbl hpeer hst hund => ?_, fun hbl base off hl hst => ?_⟩
  · have hex := exec_storePerformed_store hr ha hb hw hk hbl hmv
    obtain ⟨hm, hq, he, -, ht, -⟩ := writeReq_facts hund hw'
    have hdone : ∀ u : State, u.reqs = s.reqs → u.mem = s.mem.writeBytes (s.addrOf a.loc) a.data →
        u.tags = s.tags.filter (fun t => !(decide (t.line * 64 < s.addrOf a.loc + a.data.length) && decide (s.addrOf a.loc < t.line * 64 + 64))) →
        let t := u.endLanes r [a.lane]
        t.mem.readBytes (s.addrOf a.loc) a.data.length = a.data ∧
          (∀ k, k < s.addrOf a.loc ∨ s.addrOf a.loc + a.data.length ≤ k → t.mem.read k = s.mem.read k) ∧ LaneEnded s t id lane ∧
          (∀ x ∈ t.tags, x ∈ s.tags ∧ ¬(x.line * 64 < s.addrOf a.loc + a.data.length ∧ s.addrOf a.loc < x.line * 64 + 64)) := by
      intro u hur hum hut
      have hmem : (u.endLanes r [a.lane]).mem = s.mem.writeBytes (s.addrOf a.loc) a.data := by
        rw [State.endLanes_frame]
        exact hum
      have htags : (u.endLanes r [a.lane]).tags = u.tags := by rw [State.endLanes_frame]
      refine ⟨?_, fun k hk => ?_, laneEnded_endLanes hr hid hur (hlane ▸ List.mem_singleton.2 rfl), fun x hx => ?_⟩
      · rw [hmem, Memory.readBytes_writeBytes hwf]
      · rw [hmem, Memory.read_writeBytes_other _ _ _ hwf hk]
      · rw [htags, hut, List.mem_filter] at hx
        refine ⟨hx.1, fun hc => ?_⟩
        have h2 := hx.2
        rw [decide_eq_true hc.1, decide_eq_true hc.2] at h2
        exact absurd h2 (by decide)
    cases hl : a.loc with
    | peer p table o => exact absurd hl (hpeer p table o)
    | tmem c cr o =>
      rw [hl] at hex hm ht hdone
      have hperf : s.performTmem r a =
          ((s.writeReq r (s.addrOf (.tmem c cr o)) a.data).setFull (granules (32 * c + cr) o a.bytes)).endLanes r [a.lane] := by
        unfold State.performTmem
        rw [hk, hl]
      obtain ⟨h1, h2, h3, h4⟩ := hdone ((s.writeReq r (s.addrOf (.tmem c cr o)) a.data).setFull (granules (32 * c + cr) o a.bytes)) hq hm ht
      refine ⟨_, hex.trans (congrArg Host.Outcome.next hperf), h1, h2, h3, h4, fun c' cr' o' hc n => ?_⟩
      obtain ⟨rfl, rfl, rfl⟩ : c = c' ∧ cr = cr' ∧ o = o' := by cases hc; exact ⟨rfl, rfl, rfl⟩
      rw [State.endLanes_frame]
      exact mem_setFull (granules (32 * c + cr) o a.bytes) n
    | tensor base o =>
      rw [hl] at hex hm ht hdone
      have hperf : s.performStore r a base o = (((s.writeReq r (s.addrOf (.tensor base o)) a.data).updateL1 (32 * r.stack + r.core) base o
          ((s.writeReq r (s.addrOf (.tensor base o)) a.data).mem.readBytes (s.addrOf (.tensor base o)) a.bytes)).countAccess base o
          r.stack).endLanes r [a.lane] := by
        unfold State.performStore
        rw [hst base o hl, hl]
        rfl
      have hc := State.countAccess_frame ((s.writeReq r (s.addrOf (.tensor base o)) a.data).updateL1 (32 * r.stack + r.core) base o
          ((s.writeReq r (s.addrOf (.tensor base o)) a.data).mem.readBytes (s.addrOf (.tensor base o)) a.bytes)) base o r.stack
      obtain ⟨h1, h2, h3, h4⟩ := hdone (((s.writeReq r (s.addrOf (.tensor base o)) a.data).updateL1 (32 * r.stack + r.core) base o
          ((s.writeReq r (s.addrOf (.tensor base o)) a.data).mem.readBytes (s.addrOf (.tensor base o)) a.bytes)).countAccess base o r.stack)
          (by rw [hc]; exact hq) (by rw [hc]; exact hm) (by rw [hc]; exact ht)
      exact ⟨_, hex.trans (congrArg Host.Outcome.next hperf), h1, h2, h3, h4, fun c' cr' o' hc => Loc.noConfusion hc⟩
  · have hex := exec_storePerformed_store hr ha hb hw hk hbl hmv
    have hperf : s.performStore r a base off = (s.lateFault r a 0x24).endLanes r [a.lane] := if_pos hst
    rw [hl] at hex
    obtain ⟨v, h⟩ := lateFault_ends (w := w) hr ha (u := s) rfl rfl hw' rfl rfl rfl 0x24
    exact ⟨_, v, hex.trans (congrArg Host.Outcome.next hperf), h⟩

end

end Sys2Proof.Machine

namespace Sys2Proof.Machine
open Sys2Proof.Claims

-- Atomics at their home (R149, R158, R299).

section
variable {s t u : State} {r : Req} {a : LaneAcc} {id lane base off : Nat} {w w' : Warp} {b : Block} {d : VDst} {op : AtomOp} {ty : ITy}
  {order : MemOrder} {scope : Scope} {e : TileEntry} {inst : ScopeTag} {new : List Byte}

/-- The warp after what an atomic releases. -/
theorem warp?_atomReleased (order : MemOrder) (word : Nat) (hw : s.warp? r.block r.warp = some w) :
    (s.modWarp r.block r.warp (Warp.atomReleased order word)).warp? r.block r.warp = some (w.atomReleased order word) :=
  State.warp?_modWarp_self hw fun v => by
    unfold Warp.atomReleased
    split <;> rfl

theorem Warp.atomReleased_frame (w : Warp) (order : MemOrder) (word : Nat) :
    w.atomReleased order word = { w with unready := (w.atomReleased order word).unready } := by
  unfold Warp.atomReleased
  split <;> rfl

/-- Which instance a tag lies in does not depend on what warps have released. -/
theorem tagWithin_modWarp {f : Warp → Warp} (hf : ∀ v, (f v).num = v.num ∧ (f v).core = v.core) (n m : Nat) (x i : ScopeTag) :
    (s.modWarp n m f).tagWithin x i = s.tagWithin x i := by
  have hplace : (s.modWarp n m f).placeOf x = s.placeOf x := by
    unfold State.placeOf
    rw [State.block?_modWarp]
    cases s.block? x.block with
    | none => rfl
    | some b =>
      rw [Option.map_some]
      by_cases hn : x.block = n
      · rw [if_pos hn]
        have hws : (b.modWarp m f).warps = b.warps.map fun w => if w.num == m then f w else w := rfl
        dsimp only
        rw [hws]
        cases b.warps with
        | nil => rfl
        | cons v vs =>
          rw [List.map_cons]
          dsimp only
          rw [apply_ite Warp.core, (hf v).2, ite_self]
          rfl
      · rw [if_neg hn]
  unfold State.tagWithin
  rw [hplace]

/-- The bytes an atomic finds: those its own word stored as they were before (R142). -/
def State.found (s : State) (r : Req) (addr n : Nat) : List Byte := (List.range n).map fun i => oldByte r.overr s.mem (addr + i)

/-- The bytes it makes of them. -/
def atomResult (r : Req) (a : LaneAcc) (op : AtomOp) (ty : ITy) (bs : List Byte) : List Byte :=
  leBytes (ty.width / 8) (atomNew op ty (BitVec.ofNat 64 (leNat bs)) (BitVec.ofNat 64 (leNat a.data)) (BitVec.ofNat 64 (leNat a.cmp))).toNat

/-- The tags after an atomic has met a line: it tags one of tier G or H. -/
def State.tagged (s : State) (e : TileEntry) (inst : ScopeTag) (addr : Nat) : State :=
  if e.tier = 2 then s else { s with tags := s.tags ++ [{ inst with line := addr / 64 }] }

section
variable (he : s.entryOf base off = some e) (hst : s.isStamped (s.tensorAddr base off) (ty.width / 8) = false)
include he hst

theorem atomAt_refused (ht : e.tier ≠ 2) (hfit : ¬∀ x, s.tags.find? (fun t => t.line == s.tensorAddr base off / 64) = some x →
      s.tagWithin x inst = true) (who : Option (Nat × Nat)) (stores : List (Nat × Byte)) (x y : Word64) (write : State → Nat → List Byte → State) :
    s.atomAt who id stores base off op ty x y inst write = .error 0x30 := by
  push Not at hfit
  obtain ⟨z, hz, hno⟩ := hfit
  unfold State.atomAt
  dsimp only
  rw [he, hst, if_neg Bool.false_ne_true, hz]
  refine if_pos ?_
  rw [ne_eq, Bool.not_eq_true] at hno
  dsimp only
  rw [hno, bne_iff_ne.2 ht]
  rfl

theorem atomAt_performs (hfit : e.tier = 2 ∨ ∀ x, s.tags.find? (fun t => t.line == s.tensorAddr base off / 64) = some x →
      s.tagWithin x inst = true)
    (hcool : ∀ k, k < ty.width / 8 → s.tensorAddr base off + k ∉ s.hotBytes (some (r.block, r.warp)) r.id)
    (write : State → Nat → List Byte → State) :
    s.atomAt (some (r.block, r.warp)) r.id r.overr base off op ty (BitVec.ofNat 64 (leNat a.data)) (BitVec.ofNat 64 (leNat a.cmp)) inst write =
      .ok (s.found r (s.tensorAddr base off) (ty.width / 8),
        atomResult r a op ty (s.found r (s.tensorAddr base off) (ty.width / 8)),
        (write s (s.tensorAddr base off) (atomResult r a op ty (s.found r (s.tensorAddr base off) (ty.width / 8)))).tagged e inst
          (s.tensorAddr base off)) := by
  unfold State.atomAt
  dsimp only
  rw [he, hst, if_neg Bool.false_ne_true, State.lookup_of_cool r.overr hcool]
  refine (if_neg ?_).trans rfl
  dsimp only
  rcases hfit with h2 | hfit
  · rw [h2]
    exact Bool.false_ne_true
  · cases hx : s.tags.find? fun t => t.line == s.tensorAddr base off / 64 with
    | none => simp
    | some x => simp [hfit x hx]

end

/-- What an atomic leaves of bytes its own word stored (R142, R299). -/
theorem atomBytes_eq {n addr : Nat} (old : List Byte) (hn : n = ty.width / 8) (hm : u.mem = s.mem) :
    u.atomBytes r addr (atomResult r a op ty old) =
      (leBytes n (atomNew op ty (BitVec.ofNat 64 (leNat old)) (BitVec.ofNat 64 (leNat a.data)) (BitVec.ofNat 64 (leNat a.cmp))).toNat).mapIdx
        (fun k v => if (r.overr.find? fun x => x.1 == addr + k).isSome then s.mem.read (addr + k) else v) := by
  unfold State.atomBytes atomResult
  rw [hm, hn]
  congr 1
  funext i v
  rw [List.isSome_find?]

theorem length_atomBytes (addr : Nat) (bs : List Byte) : (s.atomBytes r addr bs).length = bs.length := List.length_mapIdx

/-- An atomic's data and its end, after its bytes stand. -/
theorem atom_delivers (hr : s.reqs.find? (fun q => q.id == id) = some r) (ha : r.lanes.find? (fun k => k.lane == lane) = some a)
    (hreqs : u.reqs = s.reqs) (hw : u.warp? r.block r.warp = some w') (hv : w'.v = w.v) (core : Nat) (bs ws : List Byte) (wd : Width) :
    let m := ((u.updateL1 core base off bs).countMeter a.meter (ty.width / 8)).countAccess base off r.stack
    let t := (m.give r d a.lane (loadWords wd false ws)).endLanes r [a.lane]
    t.mem = u.mem ∧ LaneEnded s t id lane ∧ ∃ v, t.warp? r.block r.warp = some v ∧ Delivered w v d lane (loadWords wd false ws) := by
  have hid : r.id = id := beq_iff_eq.1 (List.find?_some (p := fun q : Req => q.id == id) hr)
  have hlane : a.lane = lane := beq_iff_eq.1 (List.find?_some (p := fun k : LaneAcc => k.lane == lane) ha)
  have hc : (u.updateL1 core base off bs).Counted
      (((u.updateL1 core base off bs).countMeter a.meter (ty.width / 8)).countAccess base off r.stack) :=
    (State.counted_countMeter _ _ _).trans (State.counted_countAccess ..)
  dsimp only
  generalize ((u.updateL1 core base off bs).countMeter a.meter (ty.width / 8)).countAccess base off r.stack = m at hc ⊢
  have hmr : m.reqs = u.reqs := hc.reqs
  have hmm : m.mem = u.mem := hc.mem
  have hmw : m.warp? r.block r.warp = some w' := by
    rw [← hw, State.warp?, State.block?, hc.blocks]
    rfl
  obtain ⟨fl, h1⟩ := State.warp?_give hmw d a.lane (loadWords wd false ws)
  obtain ⟨p, h2⟩ := State.warp?_endLanes h1 [a.lane]
  refine ⟨?_, laneEnded_endLanes (u := m.give r d a.lane (loadWords wd false ws)) hr hid (hmr.trans hreqs) (hlane ▸ List.mem_singleton.2 rfl),
    _, h2, ?_⟩
  · rw [State.endLanes_frame]
    exact hmm
  · rw [← hlane]
    refine delivered_of_shape (delivered_of_v (delivered_deliver w' d a.lane _) rfl) ⟨by rw [hv], fun m => ?_⟩
    rw [Warp.vread, hv]
    rfl

theorem atomicsPerform_holds : AtomicsPerform := by
  intro s id lane r a b w d op ty order scope base off e hr hk ha hb hw hl he hmove hbl hready n addr fits stored old hst hwf
  have hmv : s.moving a.loc = false := by
    rw [hl]
    unfold State.moving
    dsimp only
    rw [he]
    dsimp only
    rw [hmove]
    rfl
  have hn : n = ty.width / 8 := by cases ty <;> rfl
  have hw' : s.warp? r.block r.warp = some w := by
    rw [State.warp?, hb]
    exact hw
  have hex : exec (.storePerformed id lane) s = .next (s.performAtom r a (scopeOf b w scope) d op ty order base off) := by
    refine (exec_storePerformed_atom hr ha hb hw hk hbl hmv).trans (congrArg Host.Outcome.next ?_)
    refine (if_neg (by rw [hready]; exact Bool.false_ne_true)).trans ?_
    rw [hl]
  let u := s.modWarp r.block r.warp (Warp.atomReleased order r.word)
  have hu : (if order == .release || order == .acqRel then s.released r.block r.warp r.word else s) = u := released_of_order order
  have hg : s.Gives u := State.gives_modWarp ..
  have hue : u.entryOf base off = some e := he
  have hust : u.isStamped (u.tensorAddr base off) (ty.width / 8) = false := hn ▸ hst
  have huw := warp?_atomReleased order r.word hw'
  have hwith : ∀ x, u.tagWithin x (scopeOf b w scope) = s.tagWithin x (scopeOf b w scope) := fun x => by
    refine tagWithin_modWarp (fun v => ?_) _ _ _ _
    rw [Warp.atomReleased_frame]
    exact ⟨rfl, rfl⟩
  refine ⟨fun hfit hcool => ?_, fun ht hfit => ?_⟩
  · have hold : u.found r addr n = old := by
      refine List.map_congr_left fun k _ => ?_
      unfold oldByte
      cases hx : stored k with
      | none => rw [show (r.overr.find? fun x => x.1 == addr + k) = none from hx]; rfl
      | some x => rw [show (r.overr.find? fun x => x.1 == addr + k) = some x from hx]; rfl
    have hat := atomAt_performs (r := r) (a := a) (op := op) (inst := scopeOf b w scope) hue hust
      (hfit.imp_right fun h x hx => (hwith x).trans (h x hx))
      (by rw [hg.hotBytes, ← hn]; exact fun k hk => (hcool k hk).1) (fun s addr bs => s.writeReq r addr (s.atomBytes r addr bs))
    rw [show u.tensorAddr base off = addr from rfl, ← hn, hold] at hat
    have hlen : (u.atomBytes r addr (atomResult r a op ty old)).length = n := by
      rw [length_atomBytes, atomResult, length_leBytes, hn]
    obtain ⟨hm, hq, -, -, -, v, hv, hvv⟩ := writeReq_facts (s := u) (addr := addr) (bs := u.atomBytes r addr (atomResult r a op ty old))
      (by
        rw [hlen]
        intro k hk
        by_contra hc
        push Not at hc
        exact (hcool (k - addr) (by omega)).2 (by rwa [show addr + (k - addr) = k by omega])) huw
    let z := (u.writeReq r addr (u.atomBytes r addr (atomResult r a op ty old))).tagged e (scopeOf b w scope) addr
    have hzr : z.reqs = s.reqs := by
      dsimp only [z, State.tagged]
      split <;> exact hq
    have hzm : z.mem = s.mem.writeBytes addr (u.atomBytes r addr (atomResult r a op ty old)) := by
      dsimp only [z, State.tagged]
      split <;> exact hm
    have hzw : z.warp? r.block r.warp = some v := by
      dsimp only [z, State.tagged]
      split <;> exact hv
    obtain ⟨htm, hended, v', hv', hd⟩ := atom_delivers (d := d) (base := base) (off := off) (ty := ty) hr ha hzr hzw
      (hvv.trans (by rw [Warp.atomReleased_frame] : (w.atomReleased order r.word).v = w.v)) (32 * r.stack + r.core)
      (u.atomBytes r (u.addrOf a.loc) (atomResult r a op ty old)) old (if ty.is64 then .b64 else .b32)
    have hperf : s.performAtom r a (scopeOf b w scope) d op ty order base off = (((((z.updateL1 (32 * r.stack + r.core) base off
        (u.atomBytes r (u.addrOf a.loc) (atomResult r a op ty old))).countMeter a.meter (ty.width / 8)).countAccess base off
          r.stack).give r d a.lane (loadWords (if ty.is64 then .b64 else .b32) false old)).endLanes r [a.lane]) := by
      unfold State.performAtom
      dsimp only
      rw [hu, hat]
    refine ⟨_, v', hex.trans (congrArg Host.Outcome.next hperf), hended, ?_, fun k hk => ?_, hv', hd⟩
    · rw [htm, hzm]
      have hrb := Memory.readBytes_writeBytes hwf addr (u.atomBytes r addr (atomResult r a op ty old))
      rw [hlen] at hrb
      rw [hrb]
      exact atomBytes_eq old hn (u := u) rfl
    · rw [htm, hzm, Memory.read_writeBytes_other _ _ _ hwf (by rwa [hlen])]
  · have hat := atomAt_refused (id := r.id) (op := op) (inst := scopeOf b w scope) hue hust ht (fun h => hfit fun x hx => (hwith x).symm.trans (h x hx))
      (some (r.block, r.warp)) r.overr (BitVec.ofNat 64 (leNat a.data)) (BitVec.ofNat 64 (leNat a.cmp))
      (fun s addr bs => s.writeReq r addr (s.atomBytes r addr bs))
    have hperf : s.performAtom r a (scopeOf b w scope) d op ty order base off = (u.lateFault r a 0x30).endLanes r [a.lane] := by
      unfold State.performAtom
      dsimp only
      rw [hu, hat]
    have hfr := Warp.atomReleased_frame w order r.word
    obtain ⟨v, h⟩ := lateFault_ends (w := w) (u := u) hr ha rfl rfl huw (by rw [hfr]) (by rw [hfr]) (by rw [hfr]) 0x30
    exact ⟨_, v, hex.trans (congrArg Host.Outcome.next hperf), h⟩

/-- Settles O27: the lanes of a line take its bytes one after another, each into its own registers; a write at a home is bytes of memory
and a frame; a lane of a peer's bytes sends one request under a tag no other bears. -/
theorem longAccessesPerform : Obligations.LongAccessesPerform :=
  ⟨loadReturns_holds, storesPerform_holds, atomicsPerform_holds, peerLanesLeave_holds⟩

end

end Sys2Proof.Machine

end

section
/-! SUPPORT. The pitch's cycle, its turns, and tokens (O22). -/

namespace Sys2Proof.Machine
open Sys2Proof.Claims

-- A pitch's cycle and its choice (R24 to R28).

section
variable {s t : State} {k c stack core pitch n : Nat} {a x y z : Block × Warp} {l : List (Block × Warp)}

theorem State.cluster_default (h : s.clusters.length ≤ 4 * k + c) : s.cluster k c = Cluster.reset := by
  rw [State.cluster, List.getD, List.getElem?_eq_none h]
  rfl

theorem State.cluster_pulseDone (h : 4 * k + c < s.clusters.length) :
    (s.pulseDone k c).cluster k c = { s.cluster k c with cycle := (s.cluster k c).cycle + 1, ptr := 0 } := by
  have he : (s.pulseDone k c).cluster k c =
      (s.clusters.modify (4 * k + c) fun x => { x with cycle := x.cycle + 1, ptr := 0 }).getD (4 * k + c) Cluster.reset := rfl
  rw [he, List.getD, List.getElem?_modify_eq, List.getElem?_eq_getElem h]
  rw [State.cluster, List.getD, List.getElem?_eq_getElem h]
  rfl

theorem exec_pitchCycle (hr : s.running = true) (hp : (s.stack? k).powered = true) :
    exec (.pitchCycle k c) s = .next (
      let u := if 32 ≤ (s.cluster k c).ptr then s.pulseDone k c else s
      (u.modCluster k c fun x => { x with ptr := x.ptr + 1 }).pitchStep k (8 * c + (u.cluster k c).ptr / 4) ((u.cluster k c).ptr % 4)
        (u.cluster k c).cycle) := by
  dsimp only [exec, execPitchCycle]
  exact congrArg Host.Outcome.next (if_neg (by rw [hr, hp]; exact Bool.false_ne_true))

theorem pitchCycleActs_holds : PitchCycleActs := by
  intro s k c hr hp
  refine ⟨fun h => ?_, fun h => ?_, fun h => ?_⟩
  · rw [exec_pitchCycle hr hp]
    dsimp only
    rw [if_neg (Nat.not_le.2 h)]
  · have hlt : 4 * k + c < s.clusters.length := by
      by_contra hc
      rw [State.cluster_default (Nat.le_of_not_lt hc)] at h
      exact absurd h (by decide)
    have hptr : ((s.pulseDone k c).cluster k c).ptr = 0 := by rw [State.cluster_pulseDone hlt]
    rw [exec_pitchCycle hr hp, exec_pitchCycle (s := s.pulseDone k c) hr hp]
    dsimp only
    rw [if_pos h, if_neg (by rw [hptr]; decide)]
  · rw [State.cluster_pulseDone h]
    exact ⟨rfl, rfl⟩

theorem prior_iff : prior x y = true ↔ goesBefore x y := by
  simp only [prior, goesBefore, Bool.or_eq_true, Bool.and_eq_true, decide_eq_true_eq, beq_iff_eq]

/-- Of three warps: one before which the second does not go, while the third does not go before the second, is none the third goes before. -/
theorem not_goesBefore_trans (h : ¬goesBefore y x) (h' : ¬goesBefore z y) : ¬goesBefore z x := by
  unfold goesBefore at *
  omega

theorem not_goesBefore_of (h : goesBefore x y) : ¬goesBefore y x := by
  unfold goesBefore at *
  omega

theorem not_goesBefore_self (x : Block × Warp) : ¬goesBefore x x := by
  unfold goesBefore
  omega

theorem pickWarp_eq_none (h : pickWarp l = none) : l = [] := by
  cases l with
  | nil => rfl
  | cons a r =>
    unfold pickWarp at h
    split at h
    · cases h
    · split at h <;> cases h

/-- The warp picked is one before which none goes. -/
theorem pickWarp_best (h : pickWarp l = some x) : x ∈ l ∧ ∀ y ∈ l, ¬goesBefore y x := by
  induction l generalizing x with
  | nil => cases h
  | cons a r ih =>
    unfold pickWarp at h
    cases hr : pickWarp r with
    | none =>
      rw [hr] at h
      obtain rfl := Option.some.inj h
      rw [pickWarp_eq_none hr]
      exact ⟨List.mem_singleton.2 rfl, fun y hy => List.mem_singleton.1 hy ▸ not_goesBefore_self _⟩
    | some b =>
      rw [hr] at h
      obtain ⟨hb, hbest⟩ := ih hr
      dsimp only at h
      by_cases hp : prior b a = true
      · rw [if_pos hp] at h
        obtain rfl := Option.some.inj h
        refine ⟨List.mem_cons_of_mem _ hb, fun y hy => ?_⟩
        rcases List.mem_cons.1 hy with rfl | hy
        · exact not_goesBefore_of (prior_iff.1 hp)
        · exact hbest y hy
      · rw [if_neg hp] at h
        obtain rfl := Option.some.inj h
        refine ⟨List.mem_cons_self, fun y hy => ?_⟩
        rcases List.mem_cons.1 hy with rfl | hy
        · exact not_goesBefore_self _
        · exact not_goesBefore_trans (fun hc => hp (prior_iff.2 hc)) (hbest y hy)

/-- The turn of a pitch goes on: it has a holder among the residents that is ready. -/
def State.goesOn (s : State) (stack core pitch t : Nat) : Prop :=
  ∃ x ∈ s.residents stack core pitch, (s.pitch (32 * stack + core) pitch).holder = some (x.1.bid, x.2.num) ∧ s.ready x.1 x.2 t = true

theorem pitchSelect_goesOn {t m : Nat} (hg : s.goesOn stack core pitch t) (hh : (s.pitch (32 * stack + core) pitch).holder = some (n, m)) :
    s.pitchSelect stack core pitch t = { s with sel := some { block := n, warp := m, cycle := t } } := by
  obtain ⟨x, hx, hhold, hready⟩ := hg
  rw [hh] at hhold
  obtain ⟨rfl, rfl⟩ := Prod.mk.inj (Option.some.inj hhold)
  unfold State.pitchSelect
  dsimp only
  rw [hh]
  refine if_pos (List.any_eq_true.2 ⟨x, hx, ?_⟩)
  rw [hready, beq_self_eq_true, beq_self_eq_true]
  rfl

/-- A turn begun by a warp. -/
def State.begins (s : State) (p : Pitch) (x : Block × Warp) (t : Nat) : State :=
  { s.setPitch { p with holder := some (x.1.bid, x.2.num), words := 0, turn := p.turn + 1, latches := List.replicate 8 (splat 0) } with
    sel := some { block := x.1.bid, warp := x.2.num, cycle := t } }

theorem pitchSelect_ends {t : Nat} (hg : ¬s.goesOn stack core pitch t) :
    s.pitchSelect stack core pitch t =
      let v := s.turnEnds (32 * stack + core) pitch
      match pickWarp ((v.residents stack core pitch).filter fun bw => v.ready bw.1 bw.2 t) with
      | none => v
      | some bw => v.begins (v.pitch (32 * stack + core) pitch) bw t := by
  unfold State.pitchSelect
  dsimp only
  refine (if_neg ?_).trans rfl
  cases hh : (s.pitch (32 * stack + core) pitch).holder with
  | none => exact Bool.false_ne_true
  | some q =>
    dsimp only
    intro hc
    obtain ⟨x, hx, hc⟩ := List.any_eq_true.1 hc
    simp only [Bool.and_eq_true, beq_iff_eq] at hc
    obtain ⟨⟨h1, h2⟩, h3⟩ := hc
    exact hg ⟨x, hx, by rw [hh, h1, h2], h3⟩

theorem pitchSelects_holds : PitchSelects := by
  intro s stack core pitch t id p goesOn u v
  have hv : v.pitch id pitch = { p with holder := none } := s.turnEnds_pitch id pitch
  refine ⟨rfl, fun hg n k hh => pitchSelect_goesOn hg hh, hv, fun hh => s.turnEnds_none id pitch hh, fun hg => ?_⟩
  have hu : u = match pickWarp ((v.residents stack core pitch).filter fun bw => v.ready bw.1 bw.2 t) with
      | none => v
      | some bw => v.begins (v.pitch id pitch) bw t := pitchSelect_ends hg
  rw [hv] at hu
  cases hp : pickWarp ((v.residents stack core pitch).filter fun bw => v.ready bw.1 bw.2 t) with
  | none =>
    rw [hp] at hu
    refine ⟨fun _ => hu, fun ⟨x, hx, hr⟩ => ?_⟩
    have := pickWarp_eq_none hp
    rw [List.filter_eq_nil_iff] at this
    exact absurd hr (this x hx)
  | some x =>
    rw [hp] at hu
    obtain ⟨hx, hbest⟩ := pickWarp_best hp
    obtain ⟨hx, hr⟩ := List.mem_filter.1 hx
    refine ⟨fun hno => absurd hr (by rw [hno x hx]; exact Bool.false_ne_true), fun _ => ⟨x, hx, hr, fun y hy hyr => ?_, hu⟩⟩
    exact hbest y (List.mem_filter.2 ⟨hy, hyr⟩)

end

end Sys2Proof.Machine

namespace Sys2Proof.Machine
open Sys2Proof.Claims

-- What a step may do to the turns of pitches.

section
variable {s t u : State} {b : Block} {w : Warp} {core p bid wn tok : Nat}

/-- Between two states turns may have ended on pitches, and no more has changed of any pitch. -/
def State.Frees (s t : State) : Prop :=
  ∀ core p, ∃ h, t.pitch core p = { s.pitch core p with holder := h } ∧ (h = (s.pitch core p).holder ∨ h = none)

theorem State.frees_of_pitches (h : t.pitches = s.pitches) : s.Frees t := fun core p => by
  refine ⟨(s.pitch core p).holder, ?_, .inl rfl⟩
  rw [State.pitch, h]
  rfl

theorem State.frees_refl (s : State) : s.Frees s := State.frees_of_pitches rfl

theorem State.Frees.trans (h : s.Frees t) (h' : t.Frees u) : s.Frees u := by
  intro core p
  obtain ⟨a, ha, hor⟩ := h core p
  obtain ⟨c, hc, hor'⟩ := h' core p
  refine ⟨c, by rw [hc, ha], ?_⟩
  rw [ha] at hor'
  rcases hor' with rfl | rfl
  · exact hor
  · exact .inr rfl

/-- A pitch that is free stays so. -/
theorem State.Frees.free (h : s.Frees t) (hn : (s.pitch core p).holder = none) : (t.pitch core p).holder = none := by
  obtain ⟨a, ha, hor⟩ := h core p
  rw [ha]
  rcases hor with rfl | rfl
  · exact hn
  · rfl

theorem State.pitch_setPitch_ne {x : Pitch} (h : ¬(x.core = core ∧ x.pitch = p)) : (s.setPitch x).pitch core p = s.pitch core p := by
  have hne : (x.core == core && x.pitch == p) = false := by
    rw [Bool.and_eq_false_iff, beq_eq_false_iff_ne, beq_eq_false_iff_ne, ← not_and_or]
    exact h
  have hfind : ((s.setPitch x).pitches.find? fun y => y.core == core && y.pitch == p) =
      s.pitches.find? fun y => y.core == core && y.pitch == p := by
    show ((x :: s.pitches.filter fun y => !(y.core == x.core && y.pitch == x.pitch)).find? fun y => y.core == core && y.pitch == p) = _
    rw [List.find?_cons_of_neg (by rw [hne]; exact Bool.false_ne_true), List.find?_filter]
    congr 1
    funext y
    cases hy : y.core == core && y.pitch == p with
    | false => simp
    | true =>
      rw [Bool.and_eq_true, beq_iff_eq, beq_iff_eq] at hy
      obtain ⟨rfl, rfl⟩ := hy
      have hx : (y.core == x.core && y.pitch == x.pitch) = false := by
        rw [Bool.beq_comm, Bool.beq_comm (a := y.pitch)]
        exact hne
      rw [hx]
      rfl
  rw [State.pitch, hfind]
  rfl

theorem State.frees_endTurn (s : State) (core p : Nat) : s.Frees (s.endTurn core p) := by
  intro c q
  by_cases h : c = core ∧ q = p
  · obtain ⟨rfl, rfl⟩ := h
    exact ⟨none, s.pitch_endTurn c q, .inr rfl⟩
  · obtain ⟨hc, hp⟩ := s.pitch_core core p
    refine ⟨(s.pitch c q).holder, State.pitch_setPitch_ne fun hx => h ⟨hx.1.symm.trans hc, hx.2.symm.trans hp⟩, .inl rfl⟩

theorem State.frees_turnEnds (s : State) (core p : Nat) : s.Frees (s.turnEnds core p) := by
  cases h : (s.pitch core p).holder with
  | none =>
    rw [State.turnEnds_none s core p h]
    exact s.frees_refl
  | some x =>
    obtain ⟨f, hf, -⟩ := s.turnEnds_modWarp core p h
    rw [hf]
    exact (s.frees_endTurn core p).trans (State.frees_of_pitches rfl)

theorem State.frees_stopCheck (s : State) (b : Block) (w : Warp) (tok : Nat) : s.Frees (s.stopCheck b w tok) := by
  rw [State.stopCheck_eq]
  cases s.hitPage b w tok with
  | none => exact s.frees_refl
  | some fn =>
    dsimp only
    split
    · exact s.frees_refl
    · have hrec : ∀ v : State, v.Frees (v.stopRecord b.bid w.num) := fun v c q =>
        ⟨_, State.stopRecord_pitch .., .inl rfl⟩
      refine State.Frees.trans ?_ (hrec _)
      have htaken : s.Frees (s.stopTaken b w fn) := State.frees_of_pitches rfl
      split
      · exact htaken.trans (State.frees_turnEnds _ _ _)
      · exact htaken

theorem State.frees_stopAt (s : State) (c : Issue) (tok : Nat) : s.Frees (s.stopAt c tok) := by
  unfold State.stopAt
  split
  · exact s.frees_refl
  · split
    · exact s.frees_refl
    · exact State.frees_stopCheck s _ _ tok

/-- Where no precise stop is armed none takes effect. -/
theorem State.stopCheck_unarmed (h : ∀ l ∈ s.lantern, l.stop.bitAt 63 = false) (b : Block) (w : Warp) (tok : Nat) : s.stopCheck b w tok = s := by
  have hnone : s.hitPage b w tok = none := by
    refine List.find?_eq_none.2 fun i hi hc => ?_
    rw [List.getD_eq_getElem _ _ (List.mem_range.1 hi)] at hc
    unfold Lantern.hit at hc
    simp only [Bool.and_eq_true] at hc
    rw [h _ (List.getElem_mem _)] at hc
    exact absurd hc.1.1.1 (by decide)
  rw [State.stopCheck_eq, hnone]

theorem State.stopAt_unarmed (h : ∀ l ∈ s.lantern, l.stop.bitAt 63 = false) (c : Issue) (tok : Nat) : s.stopAt c tok = s := by
  unfold State.stopAt
  split
  · rfl
  · split
    · rfl
    · exact State.stopCheck_unarmed h ..

theorem State.acquire_pitches (s : State) (b : Block) (w : Warp) (sc : Scope) : (s.acquire b w sc).pitches = s.pitches := by
  rw [State.acquire_frame]

theorem State.leave_pitches (s : State) (b : Block) (l : List Warp) : (s.leave b l).pitches = s.pitches :=
  foldl_keeps (f := fun (s : State) (w : Warp) => s.acquire b w .block) State.pitches (fun s w => State.acquire_pitches s b w .block) l s

theorem State.syncs_pitches (s : State) (bid : Nat) : (s.syncs bid).pitches = s.pitches := by
  have hbar : ∀ (s : State) id, (s.barrierDone bid id).pitches = s.pitches := fun s id => by
    unfold State.barrierDone
    split
    · rfl
    · dsimp only
      split
      · exact State.leave_pitches ..
      · rfl
  have hre : ∀ (s : State) c q, (s.regroupDone bid c q).pitches = s.pitches := fun s c q => by
    unfold State.regroupDone
    split
    · rfl
    · dsimp only
      split
      · exact State.leave_pitches ..
      · rfl
  have hun : ∀ (s : State) c q, (s.ungroupDone bid c q).pitches = s.pitches := fun s c q => by
    unfold State.ungroupDone
    split
    · rfl
    · split
      · rfl
      · dsimp only
        split
        · exact State.leave_pitches ..
        · rfl
  unfold State.syncs
  dsimp only
  have h1 := foldl_keeps State.pitches hbar (List.range 16) s
  split
  · exact h1
  · exact (foldl_keeps (f := fun (s : State) (k : Nat × Nat) => (s.regroupDone bid k.1 k.2).ungroupDone bid k.1 k.2) State.pitches
      (fun s k => (hun _ _ _).trans (hre _ _ _)) _ _).trans h1

end

end Sys2Proof.Machine

namespace Sys2Proof.Machine
open Sys2Proof.Claims

-- The last issue of a warp that waits for none of its block (R26).

section
variable {s t : State} {b c : Block} {w v : Warp} {n k j m core p bid : Nat} {cyc : Int}

/-- A block whose warps bear numbers of their own, one of which waits at no synchronisation and issued last in cycle `cyc`. -/
def Block.Dated (b : Block) (k : Nat) (cyc : Int) : Prop :=
  (b.warps.map (·.num)).Nodup ∧ ∃ v, b.warp? k = some v ∧ v.lastIssue = cyc ∧ v.wait = .none

def State.Dated (s : State) (n k : Nat) (cyc : Int) : Prop := ∃ b, s.block? n = some b ∧ b.Dated k cyc

theorem Block.Dated.map {g : Warp → Warp} (h : b.Dated k cyc) (hc : c.warps = b.warps.map g) (hg : ∀ w, (g w).num = w.num)
    (hv : ∀ v ∈ b.warps, v.num = k → v.lastIssue = cyc → v.wait = .none → (g v).lastIssue = cyc ∧ (g v).wait = .none) : c.Dated k cyc := by
  obtain ⟨hnd, v, hv', hl, hw⟩ := h
  refine ⟨?_, g v, ?_, hv v (List.mem_of_find?_eq_some hv') (beq_iff_eq.1 (List.find?_some (p := fun w : Warp => w.num == k) hv')) hl hw⟩
  · rw [hc, List.map_map]
    have : (fun w => w.num) ∘ g = fun w => w.num := funext hg
    rwa [this]
  · have hcomp : (fun w : Warp => w.num == k) ∘ g = fun w => w.num == k := by
      funext w
      exact congrArg (· == k) (hg w)
    rw [Block.warp?, hc, List.find?_map, hcomp]
    exact congrArg (Option.map g) hv'

theorem State.Dated.of_blocks (h : s.Dated n k cyc) (ht : t.blocks = s.blocks) : t.Dated n k cyc := by
  obtain ⟨b, hb, hd⟩ := h
  refine ⟨b, ?_, hd⟩
  rw [← hb, State.block?, ht]
  rfl

theorem State.Dated.modBlock {f : Block → Block} (h : s.Dated n k cyc) (hf : ∀ b, (f b).bid = b.bid)
    (hd : ∀ b, s.block? n = some b → n = m → b.Dated k cyc → (f b).Dated k cyc) : (s.modBlock m f).Dated n k cyc := by
  obtain ⟨b, hb, hbd⟩ := h
  refine ⟨if n = m then f b else b, ?_, ?_⟩
  · rw [State.block?_modBlock _ _ _ _ hf, hb]
    rfl
  · split
    next hn => exact hd b hb hn hbd
    next => exact hbd

theorem State.Dated.modWarp {f : Warp → Warp} (h : s.Dated n k cyc) (hf : ∀ w, (f w).num = w.num)
    (hv : ∀ v, v.lastIssue = cyc → v.wait = .none → (f v).lastIssue = cyc ∧ (f v).wait = .none) (m j : Nat) :
    (s.modWarp m j f).Dated n k cyc := by
  refine State.Dated.modBlock h (fun _ => rfl) fun b _ _ hb => ?_
  refine hb.map (g := fun w => if w.num == j then f w else w) rfl (fun w => ?_) fun v _ _ hl hw => ?_
  · split
    · exact hf w
    · rfl
  · split
    · exact hv v hl hw
    · exact ⟨hl, hw⟩

theorem State.Dated.reached {f : Warp → Warp} (h : s.Dated n k cyc) (hf : ∀ w : Warp, w.Reached (f w)) (m j : Nat) :
    (s.modWarp m j f).Dated n k cyc :=
  h.modWarp (fun w => (hf w).num) (fun v hl hw => by rw [hf v]; exact ⟨hl, hw⟩) m j

theorem State.Dated.turnEnds (h : s.Dated n k cyc) (core p : Nat) : (s.turnEnds core p).Dated n k cyc := by
  cases hh : (s.pitch core p).holder with
  | none =>
    rw [State.turnEnds_none s core p hh]
    exact h
  | some x =>
    obtain ⟨f, hf, hr, -⟩ := s.turnEnds_modWarp core p hh
    rw [hf]
    exact State.Dated.reached (h.of_blocks rfl) hr _ _

theorem State.Dated.reachPoint (h : s.Dated n k cyc) (m j : Nat) : (s.reachPoint m j).Dated n k cyc := by
  obtain ⟨f, hf, hr, -⟩ := s.reachPoint_modWarp m j
  rw [hf]
  exact h.reached hr m j

theorem State.Dated.stopRecord (h : s.Dated n k cyc) (m j : Nat) : (s.stopRecord m j).Dated n k cyc := by
  unfold State.stopRecord
  split
  · exact h
  · split
    · exact h
    · split
      · exact h
      · refine State.Dated.modWarp (f := fun w => { w with stopRec := none }) (h.of_blocks ?_) (fun _ => rfl) (fun v hl hw => ⟨hl, hw⟩) m j
        unfold State.ringWrite
        dsimp only
        split <;> rfl

theorem State.Dated.stopCheck (h : s.Dated n k cyc) (b : Block) (w : Warp) (tok : Nat) : (s.stopCheck b w tok).Dated n k cyc := by
  rw [State.stopCheck_eq]
  cases s.hitPage b w tok with
  | none => exact h
  | some fn =>
    dsimp only
    split
    · exact h
    · have ht : (s.stopTaken b w fn).Dated n k cyc :=
        State.Dated.modWarp (f := fun w => { w with stopped := true, stopRec := some fn }) (h.of_blocks rfl) (fun _ => rfl)
          (fun v hl hw => ⟨hl, hw⟩) _ _
      split
      · exact (ht.turnEnds _ _).stopRecord _ _
      · exact ht.stopRecord _ _

theorem State.Dated.stopAt (h : s.Dated n k cyc) (c : Issue) (tok : Nat) : (s.stopAt c tok).Dated n k cyc := by
  unfold State.stopAt
  split
  · exact h
  · split
    · exact h
    · exact h.stopCheck _ _ _

theorem State.Dated.leave (h : s.Dated n k cyc) (b : Block) (l : List Warp) : (s.leave b l).Dated n k cyc := h.of_blocks (State.leave_blocks ..)

theorem State.Dated.barrierDone (h : s.Dated n k cyc) (m id : Nat) : (s.barrierDone m id).Dated n k cyc := by
  unfold State.barrierDone
  split
  · exact h
  · dsimp only
    split
    · refine State.Dated.modBlock (h.leave _ _) (fun _ => rfl) fun b _ _ hb => ?_
      refine hb.map (g := fun w => if w.wait == .bar id then { w with wait := .none } else w) rfl (fun w => ?_) fun v _ _ hl hw => ?_
      · split <;> rfl
      · rw [hw]
        exact ⟨hl, hw⟩
    · exact h

/-- Warps that stand at a synchronisation are replaced, each under its number. -/
theorem Block.Dated.replace {new : List Warp} (h : b.Dated k cyc) (hc : c.warps = b.warps.map fun w => (new.find? fun x => x.num == w.num).getD w)
    (hnew : ∀ x ∈ new, ∃ w ∈ b.warps, w.num = x.num ∧ w.wait ≠ .none) : c.Dated k cyc := by
  refine h.map hc (fun w => ?_) fun v hv hk hl hw => ?_
  · cases hx : new.find? fun x => x.num == w.num with
    | none => rfl
    | some x => exact beq_iff_eq.1 (List.find?_some (p := fun x : Warp => x.num == w.num) hx)
  · have hno : (new.find? fun x => x.num == v.num) = none := by
      refine List.find?_eq_none.2 fun x hx hc => ?_
      obtain ⟨y, hy, hyn, hyw⟩ := hnew x hx
      have : y = v := List.inj_on_of_nodup_map h.1 hy hv (hyn.trans (beq_iff_eq.1 hc))
      exact hyw (this ▸ hw)
    rw [hno]
    exact ⟨hl, hw⟩

theorem gatherLanes_num (ws : List Warp) (w : Warp) (f : Nat → Nat) : (gatherLanes ws w f).num = w.num := rfl

theorem mem_of_participant (h : w ∈ b.participants core p) : w ∈ b.warps := by
  unfold Block.participants at h
  exact (List.mem_filter.1 ((sortBy_perm _ _).mem_iff.1 h)).1

theorem State.Dated.regroupDone (h : s.Dated n k cyc) (m core p : Nat) : (s.regroupDone m core p).Dated n k cyc := by
  unfold State.regroupDone
  split
  · exact h
  next b hb =>
    dsimp only
    split
    next hcond =>
      simp only [Bool.and_eq_true] at hcond
      obtain ⟨⟨-, hall⟩, -⟩ := hcond
      refine State.Dated.modBlock (h.leave _ _) (fun _ => rfl) fun b' hb' hn hd => ?_
      have hbb : b' = b := by
        rw [State.block?, State.leave_blocks] at hb'
        rw [hn] at hb'
        exact Option.some.inj (hb'.symm.trans hb)
      subst hbb
      refine hd.replace rfl fun x hx => ?_
      obtain ⟨i, hi, hx⟩ := List.mem_mapIdx.1 hx
      have hmem : (b'.participants core p)[i] ∈ b'.participants core p := List.getElem_mem hi
      generalize (b'.participants core p)[i] = y at hx hmem
      have hnum : x.num = y.num := by
        rw [← hx]
        dsimp only
        rw [gatherLanes_num]
      refine ⟨y, mem_of_participant hmem, hnum.symm, fun hw => ?_⟩
      have := List.all_eq_true.1 hall _ hmem
      rw [hw] at this
      exact Bool.false_ne_true this
    next => exact h

theorem State.Dated.ungroupDone (h : s.Dated n k cyc) (m core p : Nat) : (s.ungroupDone m core p).Dated n k cyc := by
  unfold State.ungroupDone
  split
  · exact h
  next b hb =>
    split
    · exact h
    · dsimp only
      split
      next hcond =>
        simp only [Bool.and_eq_true] at hcond
        obtain ⟨⟨-, hall⟩, -⟩ := hcond
        refine State.Dated.modBlock (h.leave _ _) (fun _ => rfl) fun b' hb' hn hd => ?_
        have hbb : b' = b := by
          rw [State.block?, State.leave_blocks] at hb'
          rw [hn] at hb'
          exact Option.some.inj (hb'.symm.trans hb)
        subst hbb
        refine hd.replace rfl fun x hx => ?_
        obtain ⟨y, hy, rfl⟩ := List.mem_map.1 hx
        refine ⟨y, (List.mem_filter.1 (List.mem_filter.1 hy).1).1, rfl, fun hw => ?_⟩
        have := List.all_eq_true.1 hall y hy
        rw [hw] at this
        exact Bool.false_ne_true this
      next => exact h

theorem State.Dated.foldl {α : Type} {f : State → α → State} (hf : ∀ (s : State) a, s.Dated n k cyc → (f s a).Dated n k cyc) (l : List α) :
    ∀ {s : State}, s.Dated n k cyc → (l.foldl f s).Dated n k cyc := by
  induction l with
  | nil => exact fun h => h
  | cons a l ih => exact fun h => ih (hf _ a h)

theorem State.Dated.syncs (h : s.Dated n k cyc) (m : Nat) : (s.syncs m).Dated n k cyc := by
  unfold State.syncs
  dsimp only
  have h1 := State.Dated.foldl (fun s id hs => hs.barrierDone m id) (List.range 16) h
  split
  · exact h1
  · exact State.Dated.foldl (f := fun (s : State) (q : Nat × Nat) => (s.regroupDone m q.1 q.2).ungroupDone m q.1 q.2)
      (fun s q hs => (hs.regroupDone m q.1 q.2).ungroupDone m q.1 q.2) _ h1

end

end Sys2Proof.Machine

namespace Sys2Proof.Machine
open Sys2Proof.Claims

-- The end of a word (R24, R58, R247).

section
variable {s t : State} {c : Issue} {b : Block} {w v : Warp} {n k : Nat}

/-- A word has performed in its turn. -/
def Warp.issuedAt (c : Issue) (w : Warp) : Warp := { w with lastIssue := c.cycle, probeIn := none, probeBad := false }

/-- What a word leaves in its warp when its last slot has performed. -/
def Warp.settles (c : Issue) (w : Warp) : Warp :=
  { w with h := c.handles.foldl (fun h k => h.set k.1 k.2) w.h
           active := (match c.newMask with
             | some m => m.1
             | none => w.active)
           masks := match c.newMask with
             | some m => m.2
             | none => w.masks }

/-- A word counted in its turn. -/
def State.counts (s : State) (c : Issue) (b : Block) (w : Warp) : State :=
  (({ s with issue := none } : State).modWarp c.block c.warp (Warp.issuedAt c)).setPitch
    { s.pitch (coreId b w) w.pitch with words := (s.pitch (coreId b w) w.pitch).words + 1 }

/-- The warp after a word that did not trap, as the sequencer then takes it on. -/
def Warp.next (c : Issue) (w : Warp) : Warp × Bool := ((w.issuedAt c).settles c).afterWord c

/-- A word counted, with what it leaves in its warp and the warp's next PC. -/
def State.sequenced (s : State) (c : Issue) (b : Block) (w : Warp) : State :=
  ((s.counts c b w).modWarp c.block c.warp (Warp.settles c)).modWarp c.block c.warp fun _ => (w.next c).1

/-- The state in which it is settled whether the turn ends. -/
def State.afterPoint (s : State) (c : Issue) (b : Block) (w : Warp) : State :=
  if (w.next c).2 && (w.next c).1.pointFree && !(w.next c).1.exited then (s.sequenced c b w).reachPoint c.block c.warp else s.sequenced c b w

theorem finishWord_trapped (hi : Issuing s c b w) (ht : c.trapped = true) :
    s.finishWord = ((s.counts c b w).endTurn (coreId b w) w.pitch).stopAt c c.tok := by
  obtain ⟨h1, h2, h3⟩ := hi
  unfold State.finishWord
  rw [h1]
  dsimp only
  rw [show ({ s with issue := none } : State).block? c.block = some b from h2]
  dsimp only
  rw [h3]
  exact if_pos ht

theorem finishWord_hret {skip : Bool} (hi : Issuing s c b w) (ht : c.trapped = false) (hh : c.hret = some skip) :
    s.finishWord = (((((s.counts c b w).modWarp c.block c.warp (Warp.settles c)).handlerReturn c.block c.warp skip).turnEnds
      (coreId b w) w.pitch).stopAt c (2 ^ 32)) := by
  obtain ⟨h1, h2, h3⟩ := hi
  unfold State.finishWord
  rw [h1]
  dsimp only
  rw [show ({ s with issue := none } : State).block? c.block = some b from h2]
  dsimp only
  rw [h3]
  refine (if_neg (by rw [ht]; exact Bool.false_ne_true)).trans ?_
  rw [hh]
  rfl

theorem counts_warp? (hi : Issuing s c b w) : (s.counts c b w).warp? c.block c.warp = some (w.issuedAt c) := by
  obtain ⟨h1, h2, h3⟩ := hi
  refine State.warp?_modWarp_self (s := { s with issue := none }) ?_ fun _ => rfl
  rw [State.warp?, show ({ s with issue := none } : State).block? c.block = some b from h2]
  exact h3

theorem settled_warp? (hi : Issuing s c b w) :
    ((s.counts c b w).modWarp c.block c.warp (Warp.settles c)).warp? c.block c.warp = some ((w.issuedAt c).settles c) :=
  State.warp?_modWarp_self (counts_warp? hi) fun _ => rfl

theorem finishWord_next (hi : Issuing s c b w) (ht : c.trapped = false) (hh : c.hret = none) :
    s.finishWord = (
      let u := s.afterPoint c b w
      let u := if (wordY c.word || decide (32 ≤ (s.pitch (coreId b w) w.pitch).words + 1)) || u.trapped c.block c.warp then
        u.turnEnds (coreId b w) w.pitch else u
      (u.stopAt c c.tok).syncs c.block) := by
  have hw := settled_warp? hi
  obtain ⟨h1, h2, h3⟩ := hi
  unfold State.finishWord
  rw [h1]
  dsimp only
  rw [show ({ s with issue := none } : State).block? c.block = some b from h2]
  dsimp only
  rw [h3]
  refine (if_neg (by rw [ht]; exact Bool.false_ne_true)).trans ?_
  rw [hh]
  dsimp only
  split
  next h => exact absurd (hw.symm.trans h) (Option.some_ne_none _)
  next v h =>
    obtain rfl : (w.issuedAt c).settles c = v := Option.some.inj (hw.symm.trans h)
    rfl

/-- What a transfer does, with what a word leaves in its warp or without. -/
theorem Warp.transfer_settles (w : Warp) (c : Issue) : ((w.issuedAt c).settles c).transfer = ((w.transfer).issuedAt c).settles c := by
  have hx : ((w.issuedAt c).settles c).xfer = w.xfer := rfl
  unfold Warp.transfer
  rw [hx]
  cases w.xfer with
  | none => rfl
  | some x =>
    dsimp only
    split <;> rfl

theorem Warp.advance_settles (w : Warp) (c : Issue) :
    ((w.issuedAt c).settles c).advance c = (((w.advance c).1.issuedAt c).settles c, (w.advance c).2) := by
  have hx : ((w.issuedAt c).settles c).idle = w.idle := rfl
  unfold Warp.advance
  rw [hx]
  split <;> rfl

def Warp.goTo (w : Warp) (pc : Nat) : Warp := { w with pc := pc }

/-- A transfer under way after the PC has moved, the link taken from `pc` where it is taken now. -/
def Warp.sequel (q : Warp × Bool) (pc : Nat) : Warp × Bool :=
  match q.1.xfer with
  | some x => if x.remaining = 0 then ((q.1.goTo pc).transfer, false) else (q.1.transfer, false)
  | none => q

theorem Warp.afterWord_eq (w : Warp) (c : Issue) : w.afterWord c =
    Warp.sequel (w.advance c) (if w.idle > 1 then (endToken w.loops c.next).2.1 else (w.advance c).1.pc) := rfl

theorem Warp.sequel_settles (v : Warp) (f : Bool) (c : Issue) (pc : Nat) : Warp.sequel ((v.issuedAt c).settles c, f) pc =
    (((Warp.sequel (v, f) pc).1.issuedAt c).settles c, (Warp.sequel (v, f) pc).2) := by
  have hx : ((v.issuedAt c).settles c).xfer = v.xfer := rfl
  unfold Warp.sequel
  dsimp only
  rw [hx]
  cases v.xfer with
  | none => rfl
  | some x =>
    dsimp only
    by_cases hr : x.remaining = 0
    · rw [if_pos hr, if_pos hr]
      exact Prod.ext (Warp.transfer_settles (v.goTo pc) c) rfl
    · rw [if_neg hr, if_neg hr]
      exact Prod.ext (Warp.transfer_settles v c) rfl

/-- Where the sequencer goes does not depend on what the word leaves in its warp. -/
theorem Warp.next_eq (w : Warp) (c : Issue) : w.next c = (((w.afterWord c).1.issuedAt c).settles c, (w.afterWord c).2) := by
  rw [Warp.next, Warp.afterWord_eq, Warp.afterWord_eq, Warp.advance_settles, Warp.sequel_settles]
  rfl

theorem Warp.afterWord_frame (w : Warp) (c : Issue) : (w.afterWord c).1 = { w with
    pc := (w.afterWord c).1.pc
    loops := (w.afterWord c).1.loops
    idle := (w.afterWord c).1.idle
    xfer := (w.afterWord c).1.xfer
    b := (w.afterWord c).1.b } := by
  have ht : ∀ v : Warp, v.transfer = { v with
      pc := v.transfer.pc
      loops := v.transfer.loops
      idle := v.transfer.idle
      xfer := v.transfer.xfer
      b := v.transfer.b } := fun v => by
    unfold Warp.transfer
    split
    · rfl
    · split <;> rfl
  have ha : (w.advance c).1 = { w with pc := (w.advance c).1.pc, loops := (w.advance c).1.loops, idle := (w.advance c).1.idle } := by
    unfold Warp.advance
    split <;> rfl
  unfold Warp.afterWord
  dsimp only
  split
  · split
    · rw [ht, ha]
    · rw [ht, ha]
  · rw [ha]

theorem Warp.next_num (w : Warp) (c : Issue) : (w.next c).1.num = w.num := by
  rw [Warp.next_eq, Warp.afterWord_frame]
  rfl
theorem Warp.next_trap (w : Warp) (c : Issue) : (w.next c).1.trap = w.trap := by
  rw [Warp.next_eq, Warp.afterWord_frame]
  rfl
theorem Warp.next_step (w : Warp) (c : Issue) : (w.next c).1.step = w.step := by
  rw [Warp.next_eq, Warp.afterWord_frame]
  rfl
theorem Warp.next_exited (w : Warp) (c : Issue) : (w.next c).1.exited = w.exited := by
  rw [Warp.next_eq, Warp.afterWord_frame]
  rfl
theorem Warp.next_wait (w : Warp) (c : Issue) : (w.next c).1.wait = w.wait := by
  rw [Warp.next_eq, Warp.afterWord_frame]
  rfl
theorem Warp.next_lastIssue (w : Warp) (c : Issue) : (w.next c).1.lastIssue = c.cycle := by
  rw [Warp.next_eq]
  rfl
theorem Warp.next_pointFree (w : Warp) (c : Issue) : (w.next c).1.pointFree = (w.afterWord c).1.pointFree := by
  rw [Warp.next_eq]
  rfl

end

end Sys2Proof.Machine

namespace Sys2Proof.Machine
open Sys2Proof.Claims

-- The turn after a word (R24, R189).

section
variable {s t u : State} {c : Issue} {b k : Block} {w v : Warp} {n m : Nat}

theorem State.modWarp_congr {f g : Warp → Warp} (h : ∀ v, v.num = m → f v = g v) (s : State) (n : Nat) : s.modWarp n m f = s.modWarp n m g := by
  have hb : ∀ b : Block, b.modWarp m f = b.modWarp m g := fun b => by
    unfold Block.modWarp
    congr 1
    refine List.map_congr_left fun v _ => ?_
    by_cases hv : (v.num == m) = true
    · rw [if_pos hv, if_pos hv, h v (beq_iff_eq.1 hv)]
    · rw [if_neg hv, if_neg hv]
  unfold State.modWarp
  simp only [hb]

/-- A warp replaced under its number. -/
theorem State.warp?_replace (hw : s.warp? n m = some w) (hv : v.num = m) : (s.modWarp n m fun _ => v).warp? n m = some v := by
  rw [State.modWarp_congr (g := fun x => if x.num = m then v else x) (fun x hx => (if_pos hx).symm)]
  have hm : w.num = m := by
    obtain ⟨b, -, hb⟩ := Option.bind_eq_some_iff.1 hw
    exact beq_iff_eq.1 (List.find?_some (p := fun x : Warp => x.num == m) hb)
  rw [State.warp?_modWarp_self hw fun x => ?_]
  · exact congrArg some (if_pos hm)
  · by_cases hx : x.num = m
    · rw [if_pos hx, hv, hx]
    · rw [if_neg hx]

/-- The notice a warp's step is due. -/
def Warp.noticeDue (w : Warp) : Bool :=
  match w.step with
  | some d => d.due
  | none => false

/-- A warp at a pre-emption point, before a notice is taken. -/
def Warp.pointed (held : Bool) (w : Warp) : Warp :=
  { w with atPoint := true, held := held, step := w.step.map fun d => { d with due := false } }

theorem State.reachPoint_eq (hb : s.block? n = some b) (hw : b.warp? m = some w) : s.reachPoint n m =
    if w.noticeDue && s.hasTimeHandler b then
      (s.modWarp n m (Warp.pointed (b.pre.isSome && !(w.noticeDue && s.hasTimeHandler b)))).raiseStream n m 0x50 w.pc
    else s.modWarp n m (Warp.pointed (b.pre.isSome && !(w.noticeDue && s.hasTimeHandler b))) := by
  unfold State.reachPoint
  rw [hb]
  dsimp only
  rw [hw]
  rfl

theorem State.reachPoint_trapped (hb : s.block? n = some b) (hw : b.warp? m = some w) (hd : w.noticeDue = true)
    (hh : s.hasTimeHandler b = true) : (s.reachPoint n m).trapped n m = true := by
  have hw' : s.warp? n m = some w := by
    rw [State.warp?, hb]
    exact hw
  rw [State.reachPoint_eq hb hw, if_pos (by rw [hd, hh]; rfl)]
  refine (State.trapped_of (State.warp?_modWarp_self (State.warp?_modWarp_self (f := Warp.pointed _) hw' fun _ => rfl) fun x => ?_)).trans ?_
  · exact rfl
  · rfl

/-- Without a notice due a pre-emption point raises no trap and touches no page. -/
theorem State.reachPoint_quiet (hb : s.block? n = some b) (hw : b.warp? m = some w) (hd : w.noticeDue = false) :
    (s.reachPoint n m).trapped n m = w.trap.isSome ∧ (s.reachPoint n m).lantern = s.lantern ∧ (s.reachPoint n m).pitches = s.pitches := by
  have hw' : s.warp? n m = some w := by
    rw [State.warp?, hb]
    exact hw
  rw [State.reachPoint_eq hb hw, if_neg (by rw [hd]; exact Bool.false_ne_true)]
  refine ⟨?_, rfl, rfl⟩
  exact (State.trapped_of (State.warp?_modWarp_self (f := Warp.pointed _) hw' fun _ => rfl)).trans rfl

theorem State.frees_reachPoint (s : State) (n m : Nat) : s.Frees (s.reachPoint n m) := by
  obtain ⟨f, hf, -⟩ := s.reachPoint_modWarp n m
  rw [hf]
  exact State.frees_of_pitches rfl

section
variable (hi : Issuing s c b w)
include hi

theorem sequenced_warp? : (s.sequenced c b w).warp? c.block c.warp = some (w.next c).1 := by
  have hnum : w.num = c.warp := beq_iff_eq.1 (List.find?_some (p := fun x : Warp => x.num == c.warp) hi.2.2)
  exact State.warp?_replace (settled_warp? hi) ((w.next_num c).trans hnum)

/-- The block of a word once it is counted, its warps apart. -/
theorem sequenced_block? : ∃ k, (s.sequenced c b w).block? c.block = some k ∧ k.warp? c.warp = some (w.next c).1 ∧
    (s.sequenced c b w).hasTimeHandler k = s.hasTimeHandler b := by
  have hw := sequenced_warp? hi
  obtain ⟨k, hk, hkw⟩ := Option.bind_eq_some_iff.1 hw
  refine ⟨k, hk, hkw, ?_⟩
  have hb : (s.sequenced c b w).block? c.block = some
      (((b.modWarp c.warp (Warp.issuedAt c)).modWarp c.warp (Warp.settles c)).modWarp c.warp fun _ => (w.next c).1) := by
    have h0 : ({ s with issue := none } : State).block? c.block = some b := hi.2.1
    unfold State.sequenced
    rw [State.block?_modWarp, State.block?_modWarp]
    have h1 : (s.counts c b w).block? c.block = some (b.modWarp c.warp (Warp.issuedAt c)) := by
      have := State.block?_modWarp { s with issue := none } c.block c.warp c.block (Warp.issuedAt c)
      rw [h0, Option.map_some, if_pos rfl] at this
      exact this
    rw [h1, Option.map_some, if_pos rfl, Option.map_some, if_pos rfl]
  rw [hk] at hb
  rw [Option.some.inj hb]
  rfl

theorem pitch_counts : (s.counts c b w).pitch (coreId b w) w.pitch =
    { s.pitch (coreId b w) w.pitch with words := (s.pitch (coreId b w) w.pitch).words + 1 } := by
  obtain ⟨hc, hp⟩ := s.pitch_core (coreId b w) w.pitch
  exact State.pitch_setPitch_of hc hp

/-- The end of a word frees its pitch or leaves it. -/
theorem finishWord_frees : (s.counts c b w).Frees s.finishWord := by
  cases ht : c.trapped with
  | true =>
    rw [finishWord_trapped hi ht]
    exact (State.frees_endTurn _ _ _).trans (State.frees_stopAt _ _ _)
  | false =>
    cases hh : c.hret with
    | some skip =>
      rw [finishWord_hret hi ht hh]
      have h1 : (s.counts c b w).Frees (((s.counts c b w).modWarp c.block c.warp (Warp.settles c)).handlerReturn c.block c.warp skip) :=
        State.frees_of_pitches rfl
      exact (h1.trans (State.frees_turnEnds _ _ _)).trans (State.frees_stopAt _ _ _)
    | none =>
      rw [finishWord_next hi ht hh]
      dsimp only
      have h1 : (s.counts c b w).Frees (s.sequenced c b w) := State.frees_of_pitches rfl
      have h2 : (s.counts c b w).Frees (s.afterPoint c b w) := by
        unfold State.afterPoint
        split
        · exact h1.trans (State.frees_reachPoint _ _ _)
        · exact h1
      refine State.Frees.trans ?_ (State.frees_of_pitches (State.syncs_pitches _ _))
      refine State.Frees.trans ?_ (State.frees_stopAt _ _ _)
      split
      · exact h2.trans (State.frees_turnEnds _ _ _)
      · exact h2

theorem holder_turnEnds_then (u : State) (tok : Nat) :
    (((u.turnEnds (coreId b w) w.pitch).stopAt c tok).pitch (coreId b w) w.pitch).holder = none :=
  (State.frees_stopAt _ _ _).free (by rw [State.turnEnds_pitch])

theorem finishWord_free_early (h : c.trapped = true ∨ c.hret.isSome = true) : (s.finishWord.pitch (coreId b w) w.pitch).holder = none := by
  cases ht : c.trapped with
  | true =>
    rw [finishWord_trapped hi ht]
    exact (State.frees_stopAt _ _ _).free (by rw [State.pitch_endTurn])
  | false =>
    obtain ⟨skip, hh⟩ := Option.isSome_iff_exists.1 (h.resolve_left fun hc => Bool.false_ne_true (ht.symm.trans hc))
    rw [finishWord_hret hi ht hh]
    exact holder_turnEnds_then hi _ _

theorem finishWord_free (h : (wordY c.word = true ∨ 31 ≤ (s.pitch (coreId b w) w.pitch).words) ∨ (s.afterPoint c b w).trapped c.block c.warp = true) :
    (s.finishWord.pitch (coreId b w) w.pitch).holder = none := by
  by_cases he : c.trapped = true ∨ c.hret.isSome = true
  · exact finishWord_free_early hi he
  · push Not at he
    obtain ⟨ht, hh⟩ := he
    rw [ne_eq, Bool.not_eq_true] at ht
    rw [ne_eq, Option.not_isSome_iff_eq_none] at hh
    rw [finishWord_next hi ht hh]
    dsimp only
    refine (State.frees_of_pitches (State.syncs_pitches _ _)).free ?_
    rw [if_pos]
    · exact holder_turnEnds_then hi _ _
    · rw [Bool.or_eq_true, Bool.or_eq_true, decide_eq_true_eq]
      exact h.imp_left fun hx => hx.imp_right fun hy => Nat.succ_le_succ hy

theorem afterPoint_trapped_of_trap (h : w.trap.isSome = true) : (s.afterPoint c b w).trapped c.block c.warp = true := by
  have hpf : (w.next c).1.pointFree = false := by
    have hn : (w.next c).1.trap.isNone = false := by
      rw [Warp.next_trap, ← Option.not_isSome, h]
      rfl
    unfold Warp.pointFree
    rw [hn, Bool.and_false]
  unfold State.afterPoint
  rw [hpf, Bool.and_false, Bool.false_and, if_neg Bool.false_ne_true, State.trapped_of (sequenced_warp? hi), Warp.next_trap, h]

theorem afterPoint_trapped_of_notice (h2 : (w.afterWord c).2 = true) (hpf : (w.afterWord c).1.pointFree = true) (hx : w.exited = false)
    (hh : s.hasTimeHandler b = true) (hd : w.noticeDue = true) : (s.afterPoint c b w).trapped c.block c.warp = true := by
  obtain ⟨k, hk, hkw, hkh⟩ := sequenced_block? hi
  have hcond : ((w.next c).2 && (w.next c).1.pointFree && !(w.next c).1.exited) = true := by
    rw [Warp.next_pointFree, Warp.next_exited, hpf, hx, Warp.next_eq, h2]
    rfl
  have hdue : (w.next c).1.noticeDue = true := by
    unfold Warp.noticeDue
    rw [Warp.next_step]
    exact hd
  unfold State.afterPoint
  rw [if_pos hcond]
  exact State.reachPoint_trapped hk hkw hdue (hkh.trans hh)

theorem finishWord_goesOn (he : ¬(wordY c.word = true ∨ 31 ≤ (s.pitch (coreId b w) w.pitch).words)) (ht : c.trapped = false) (hh : c.hret = none)
    (htr : w.trap = none) (hd : w.noticeDue = false) (hl : ∀ l ∈ s.lantern, l.stop.bitAt 63 = false) :
    (s.finishWord.pitch (coreId b w) w.pitch).holder = (s.pitch (coreId b w) w.pitch).holder := by
  obtain ⟨k, hk, hkw, -⟩ := sequenced_block? hi
  have hdue : (w.next c).1.noticeDue = false := by
    unfold Warp.noticeDue
    rw [Warp.next_step]
    exact hd
  obtain ⟨hq1, hq2, hq3⟩ := State.reachPoint_quiet hk hkw hdue
  have hafter : (s.afterPoint c b w).trapped c.block c.warp = false ∧ (s.afterPoint c b w).lantern = s.lantern ∧
      (s.afterPoint c b w).pitches = (s.counts c b w).pitches := by
    unfold State.afterPoint
    split
    · exact ⟨by rw [hq1, Warp.next_trap, htr]; rfl, hq2, hq3⟩
    · exact ⟨by rw [State.trapped_of (sequenced_warp? hi), Warp.next_trap, htr]; rfl, rfl, rfl⟩
  obtain ⟨ha1, ha2, ha3⟩ := hafter
  rw [finishWord_next hi ht hh]
  dsimp only
  have hcond : ((wordY c.word || decide (32 ≤ (s.pitch (coreId b w) w.pitch).words + 1)) || (s.afterPoint c b w).trapped c.block c.warp) = false := by
    rw [ha1, Bool.or_false, Bool.or_eq_false_iff, decide_eq_false_iff_not, ← Bool.not_eq_true]
    push Not at he
    exact ⟨he.1, by omega⟩
  have hgoal : (((s.afterPoint c b w).stopAt c c.tok).syncs c.block).pitch (coreId b w) w.pitch = (s.counts c b w).pitch (coreId b w) w.pitch := by
    have : (((s.afterPoint c b w).stopAt c c.tok).syncs c.block).pitches = (s.counts c b w).pitches := by
      rw [State.syncs_pitches, State.stopAt_unarmed (by rw [ha2]; exact hl), ha3]
    rw [State.pitch, this]
    rfl
  have hif : (if ((wordY c.word || decide (32 ≤ (s.pitch (coreId b w) w.pitch).words + 1)) || (s.afterPoint c b w).trapped c.block c.warp) = true then
      (s.afterPoint c b w).turnEnds (coreId b w) w.pitch else s.afterPoint c b w) = s.afterPoint c b w :=
    if_neg (by rw [hcond]; exact Bool.false_ne_true)
  refine (congrArg (fun u : State => (((u.stopAt c c.tok).syncs c.block).pitch (coreId b w) w.pitch).holder) hif).trans ?_
  rw [hgoal, pitch_counts hi]

theorem finishWord_dated (hwait : w.wait = .none) (hnd : (b.warps.map (·.num)).Nodup) : s.finishWord.Dated c.block c.warp c.cycle := by
  have hcount : (s.counts c b w).Dated c.block c.warp c.cycle := by
    refine ⟨b.modWarp c.warp (Warp.issuedAt c), ?_, ?_, w.issuedAt c, ?_, rfl, hwait⟩
    · have := State.block?_modWarp { s with issue := none } c.block c.warp c.block (Warp.issuedAt c)
      rw [show ({ s with issue := none } : State).block? c.block = some b from hi.2.1, Option.map_some, if_pos rfl] at this
      exact this
    · have : (b.modWarp c.warp (Warp.issuedAt c)).warps.map (·.num) = b.warps.map (·.num) := by
        show (b.warps.map fun v => if v.num == c.warp then Warp.issuedAt c v else v).map (·.num) = _
        rw [List.map_map]
        refine List.map_congr_left fun v _ => ?_
        dsimp only [Function.comp]
        split <;> rfl
      rwa [this]
    · rw [Block.warp?_modWarp _ _ _ (Warp.issuedAt c) fun _ => rfl, hi.2.2, Option.map_some, if_pos rfl]
  have hset : ((s.counts c b w).modWarp c.block c.warp (Warp.settles c)).Dated c.block c.warp c.cycle :=
    hcount.modWarp (f := Warp.settles c) (fun _ => rfl) (fun _ hl hw => ⟨hl, hw⟩) _ _
  cases ht : c.trapped with
  | true =>
    rw [finishWord_trapped hi ht]
    exact State.Dated.stopAt (s := (s.counts c b w).endTurn (coreId b w) w.pitch) (hcount.of_blocks rfl) _ _
  | false =>
    cases hh : c.hret with
    | some skip =>
      rw [finishWord_hret hi ht hh]
      refine State.Dated.stopAt (State.Dated.turnEnds ?_ _ _) _ _
      exact State.Dated.modWarp (hset.of_blocks rfl) (fun v => by
        dsimp only [Warp.leaveHandler]
        split <;> rfl) (fun v hl hw => by
        dsimp only [Warp.leaveHandler]
        split <;> exact ⟨hl, hw⟩) _ _
    | none =>
      rw [finishWord_next hi ht hh]
      dsimp only
      have hseq : (s.sequenced c b w).Dated c.block c.warp c.cycle := by
        unfold State.sequenced
        refine State.Dated.modBlock hset (fun _ => rfl) fun k _ _ hk => ?_
        have hnum : (w.next c).1.num = c.warp :=
          (w.next_num c).trans (beq_iff_eq.1 (List.find?_some (p := fun x : Warp => x.num == c.warp) hi.2.2))
        refine hk.map (g := fun v => if v.num == c.warp then (w.next c).1 else v) rfl (fun v => ?_) fun v _ hv hl hw => ?_
        · by_cases hx : (v.num == c.warp) = true
          · rw [if_pos hx, hnum, beq_iff_eq.1 hx]
          · rw [if_neg hx]
        · rw [if_pos (beq_iff_eq.2 hv)]
          exact ⟨w.next_lastIssue c, (w.next_wait c).trans hwait⟩
      refine State.Dated.syncs (State.Dated.stopAt ?_ _ _) _
      have hpoint : (s.afterPoint c b w).Dated c.block c.warp c.cycle := by
        unfold State.afterPoint
        split
        · exact hseq.reachPoint _ _
        · exact hseq
      split
      · exact hpoint.turnEnds _ _
      · exact hpoint

end

theorem turnsEnd_holds : TurnsEnd := by
  intro s c b w hi core p q ends
  obtain ⟨h, hq, -⟩ := finishWord_frees hi core w.pitch
  have hq' : q = { p with words := p.words + 1, holder := h } := by
    show s.finishWord.pitch core w.pitch = _
    rw [hq, pitch_counts hi]
  have hdue : ∀ d, w.step = some d → d.due = true → w.noticeDue = true := fun d hd hx => by
    unfold Warp.noticeDue
    rw [hd]
    exact hx
  refine ⟨by rw [hq'], by rw [hq'], by rw [hq'], fun hor => ?_, fun h2 hpf hx hh ⟨d, hd, hdd⟩ => ?_, fun he ht hr htr hd hl => ?_, fun hw hnd => ?_⟩
  · rcases hor with he | ht | hr | htr
    · exact finishWord_free hi (.inl he)
    · exact finishWord_free_early hi (.inl ht)
    · exact finishWord_free_early hi (.inr hr)
    · exact finishWord_free hi (.inr (afterPoint_trapped_of_trap hi htr))
  · exact finishWord_free hi (.inr (afterPoint_trapped_of_notice hi h2 hpf hx hh (hdue d hd hdd)))
  · refine finishWord_goesOn hi he ht hr htr ?_ hl
    unfold Warp.noticeDue
    cases hs : w.step with
    | none => rfl
    | some d => exact hd d hs
  · obtain ⟨k, hk, -, v, hv, hl, -⟩ := finishWord_dated hi hw hnd
    refine ⟨v, ?_, hl⟩
    rw [State.warp?, hk]
    exact hv

end

end Sys2Proof.Machine

namespace Sys2Proof.Machine
open Sys2Proof.Claims

-- Tokens that trap (R74).

section
variable {s t u : State} {x : Sel} {b k : Block} {w v : Warp} {i : Instr} {n e code : Nat} {hs : List Nat} {f : State → State}

/-- The trap of a token. -/
def tokenTrapInfo (w : Warp) (code : Nat) : TrapInfo :=
  { code := code, arg := 0, hpc := w.pc, hnext := w.pc, loops := w.loops, idle := w.idle, slot := 0xFF, rcd := 0xFFFF, lane := 0xFF
    c0 := 0, c1 := 0 }

/-- The trap of a stream stands in its warp, whose turn has ended. -/
def State.tokenTrapped (s : State) (x : Sel) (b : Block) (w : Warp) (code : Nat) : State :=
  (({ s with sel := none } : State).modWarp x.block x.warp fun v =>
    { v with trap := some { tokenTrapInfo w code with loops := v.loops, idle := v.idle } }).endTurn (coreId b w) w.pitch

/-- A stream trap stands at its token, and a stop due there takes effect (R74, R401). -/
theorem streamTrap_eq (hc : Chosen s x b w) : ∃ k, (s.tokenTrapped x b w code).block? x.block = some k ∧
    k.warp? x.warp = some { w with trap := some (tokenTrapInfo w code) } ∧
    s.streamTrap x.block x.warp code w.pc = (s.tokenTrapped x b w code).stopCheck k { w with trap := some (tokenTrapInfo w code) } w.pc := by
  obtain ⟨-, hb, hw⟩ := hc
  let g : Warp → Warp := fun v => { v with trap := some { tokenTrapInfo w code with loops := v.loops, idle := v.idle } }
  have hbl : (({ s with sel := none } : State).modWarp x.block x.warp g).block? x.block = some (b.modWarp x.warp g) := by
    rw [State.block?_modWarp, show ({ s with sel := none } : State).block? x.block = some b from hb, Option.map_some, if_pos rfl]
  have hwl : (b.modWarp x.warp g).warp? x.warp = some (g w) := by
    rw [Block.warp?_modWarp _ _ _ g fun _ => rfl, hw, Option.map_some, if_pos rfl]
  refine ⟨b.modWarp x.warp g, hbl, hwl, ?_⟩
  unfold State.streamTrap
  dsimp only
  rw [show (({ s with sel := none } : State).raiseStream x.block x.warp code w.pc).block? x.block = some (b.modWarp x.warp g) from hbl]
  dsimp only
  rw [hwl]
  rfl

/-- A token that traps: the trap stands at it, and where no stop is armed that is all. -/
theorem traps_of_streamTrap (hc : Chosen s x b w) (hex : exec i s = .next (s.streamTrap x.block x.warp code w.pc)) :
    (∃ k, (s.tokenTrapped x b w code).block? x.block = some k ∧ k.warp? x.warp = some { w with trap := some (tokenTrapInfo w code) } ∧
      exec i s = .next ((s.tokenTrapped x b w code).stopCheck k { w with trap := some (tokenTrapInfo w code) } w.pc)) ∧
    ((∀ l ∈ s.lantern, l.stop.bitAt 63 = false) → exec i s = .next (s.tokenTrapped x b w code)) := by
  obtain ⟨k, hk, hkw, he⟩ := streamTrap_eq (code := code) hc
  refine ⟨⟨k, hk, hkw, hex.trans (congrArg Host.Outcome.next he)⟩, fun hl => ?_⟩
  rw [hex, he, State.stopCheck_unarmed]
  exact hl

theorem unlessTrap_traps (h : tokenTrap (s.code b w) w w.loops w.pc n i = some code) :
    s.unlessTrap x b w i n f = s.streamTrap x.block x.warp code w.pc := by
  unfold State.unlessTrap
  rw [h]

theorem unlessTrap_acts (h : tokenTrap (s.code b w) w w.loops w.pc n i = none) : s.unlessTrap x b w i n f = f s := by
  unfold State.unlessTrap
  rw [h]

section
variable (hc : Chosen s x b w)
include hc

theorem exec_shortIndex : exec (.shortIndex e hs) s = .next (s.unlessTrap x b w (.shortIndex e hs)
    (1 + ((s.code b w).widths e).sum) fun s' => (s'.touchGroup (coreId b w) (fetchKey b (s.code b w).unit (e / 16))).beginWord
      ((s.code b w).issueOf s' b w e hs w.pc (w.pc + (1 + ((s.code b w).widths e).sum)) x.cycle)) := by
  dsimp only [exec, execShortIndex, State.indexToken]
  exact tokenOp_act _ hc.1 hc.2.1 hc.2.2

theorem exec_longIndex : exec (.longIndex e hs) s = .next (s.unlessTrap x b w (.longIndex e hs)
    (2 + ((s.code b w).widths e).sum) fun s' => (s'.touchGroup (coreId b w) (fetchKey b (s.code b w).unit (e / 16))).beginWord
      ((s.code b w).issueOf s' b w e hs w.pc (w.pc + (2 + ((s.code b w).widths e).sum)) x.cycle)) := by
  dsimp only [exec, execLongIndex, State.indexToken]
  exact tokenOp_act _ hc.1 hc.2.1 hc.2.2

theorem exec_idle : exec (.idle n) s = .next (s.unlessTrap x b w (.idle n) 2 fun s =>
    (s.modWarp x.block x.warp fun w => { w with idle := n + 1 }).beginWord
      (mkIssue (s.modWarp x.block x.warp fun w => { w with idle := n + 1 }) b w 0 [] w.pc (w.pc + 2) x.cycle)) := by
  dsimp only [exec, execIdle]
  exact tokenOp_act _ hc.1 hc.2.1 hc.2.2

theorem exec_loop (c imm len : Nat) : exec (.loop c imm len) s = .next (s.unlessTrap x b w (.loop c imm len) (if c = 0xFF then 6 else 4) fun s =>
    s.passToken x b w (loopPush w w.loops w.pc c imm len).1 (loopPush w w.loops w.pc c imm len).2) := by
  dsimp only [exec, execLoop]
  exact tokenOp_act _ hc.1 hc.2.1 hc.2.2

theorem exec_ipf (off n : Nat) : exec (.ipf off n) s = .next (s.unlessTrap x b w (.ipf off n) 6 fun s =>
    (s.hintLines b w (w.pc + (BitVec.ofNat 32 off).toInt) (n + 1)).passToken x b w w.loops (w.pc + 6)) := by
  dsimp only [exec, execIpf]
  exact tokenOp_act _ hc.1 hc.2.1 hc.2.2

theorem exec_unassignedToken (v : Nat) : exec (.unassignedToken v) s = .next (s.unlessTrap x b w (.unassignedToken v) 1 fun s => s) := by
  dsimp only [exec, execUnassignedToken]
  exact tokenOp_act _ hc.1 hc.2.1 hc.2.2

end

end

end Sys2Proof.Machine

namespace Sys2Proof.Machine
open Sys2Proof.Claims

section
variable {s t u : State} {x : Sel} {b k : Block} {w v : Warp} {i : Instr} {n e code c imm len : Nat} {hs : List Nat} {f : State → State}
  {cd : Code} {loops : List LoopLevel} {pc : Nat}

-- The trap of a loop token (R74).

/-- The body of a loop does not fit: it is empty, passes the end of the stream, or that of the enclosing body. -/
def bodyUnfit (cd : Code) (loops : List LoopLevel) (start len : Nat) : Prop :=
  len = 0 ∨ cd.bytes.length < start + len ∨ ∃ v, loops.getLast? = some v ∧ v.start + v.len < start + len

theorem bodyUnfit_iff (start : Nat) : (len = 0 || decide (cd.bytes.length < start + len) || (match loops.getLast? with
    | some v => decide (v.start + v.len < start + len)
    | none => false)) = true ↔ bodyUnfit cd loops start len := by
  unfold bodyUnfit
  rw [Bool.or_eq_true, Bool.or_eq_true, decide_eq_true_eq, decide_eq_true_eq, or_assoc]
  refine or_congr_right (or_congr_right ?_)
  cases loops.getLast? with
  | none => simp
  | some v => simp

theorem loopStart_eq (pc c : Nat) : loopStart pc c = pc + if c < 64 then 4 else 6 := rfl

theorem loopCount_eq (w : Warp) (c imm : Nat) : (if c < 64 then (low32 (w.sread c)).toNat else imm) =
    if c < 64 then (w.sread c).toNat % 2 ^ 32 else imm := by
  rw [low32_toNat]

theorem tokenTrap_loop_count (h1 : 64 ≤ c) (h2 : c ≠ 0xFF) : tokenTrap cd w loops pc n (.loop c imm len) = some 0x14 := by
  unfold tokenTrap
  dsimp only
  rw [if_pos]
  rw [decide_eq_true h1, bne_iff_ne.2 h2]
  rfl

section
variable (hc : c < 64 ∨ c = 0xFF)
include hc

theorem not_badCount : ¬((64 ≤ c && c != 0xFF) = true) := by
  rw [Bool.and_eq_true, decide_eq_true_eq, bne_iff_ne]
  omega

theorem tokenTrap_loop_crosses (h : crosses loops pc n = true) : tokenTrap cd w loops pc n (.loop c imm len) = some 0x16 := by
  unfold tokenTrap
  dsimp only
  rw [if_neg (not_badCount hc), if_pos h]

theorem tokenTrap_loop_body (h : crosses loops pc n = false) (hb : bodyUnfit cd loops (loopStart pc c) len) :
    tokenTrap cd w loops pc n (.loop c imm len) = some 0x15 := by
  unfold tokenTrap
  dsimp only
  rw [if_neg (not_badCount hc), if_neg (by rw [h]; exact Bool.false_ne_true)]
  exact if_pos ((bodyUnfit_iff _).2 hb)

theorem tokenTrap_loop_depth (h : crosses loops pc n = false) (hb : ¬bodyUnfit cd loops (loopStart pc c) len)
    (hn : 0 < if c < 64 then (w.sread c).toNat % 2 ^ 32 else imm) (hl : loops.length = 6) :
    tokenTrap cd w loops pc n (.loop c imm len) = some 0x17 := by
  unfold tokenTrap
  dsimp only
  rw [if_neg (not_badCount hc), if_neg (by rw [h]; exact Bool.false_ne_true)]
  refine (if_neg fun hx => hb ((bodyUnfit_iff _).1 hx)).trans ?_
  rw [loopCount_eq, if_pos]
  rw [Bool.and_eq_true, bne_iff_ne, decide_eq_true_eq]
  exact ⟨Nat.ne_of_gt hn, hl⟩

theorem tokenTrap_loop_none (h : crosses loops pc n = false) (hb : ¬bodyUnfit cd loops (loopStart pc c) len)
    (hn : (if c < 64 then (w.sread c).toNat % 2 ^ 32 else imm) = 0 ∨ loops.length ≠ 6) : tokenTrap cd w loops pc n (.loop c imm len) = none := by
  unfold tokenTrap
  dsimp only
  rw [if_neg (not_badCount hc), if_neg (by rw [h]; exact Bool.false_ne_true)]
  refine (if_neg fun hx => hb ((bodyUnfit_iff _).1 hx)).trans ?_
  rw [loopCount_eq, if_neg]
  rw [Bool.and_eq_true, bne_iff_ne, decide_eq_true_eq]
  exact fun hx => hn.elim hx.1 fun hl => hl hx.2

end

theorem loopLength_eq (hc : c < 64 ∨ c = 0xFF) : (if c = 0xFF then 6 else 4) = if c < 64 then 4 else 6 := by
  rcases hc with hc | rfl
  · rw [if_pos hc, if_neg (by omega)]
  · rfl

theorem streamTraps_holds : StreamTraps := by
  intro s x b w hc traps
  refine ⟨fun v => ?_, fun e hs he => ⟨?_, ?_⟩, fun e hs he => ⟨fun hx => ?_, fun hx => ?_⟩, fun n hx => ?_, fun off n hx => ?_, fun c imm len => ?_⟩
  · exact traps_of_streamTrap hc ((exec_unassignedToken hc v).trans (congrArg Host.Outcome.next (unlessTrap_traps rfl)))
  · exact traps_of_streamTrap hc ((exec_shortIndex hc).trans (congrArg Host.Outcome.next (unlessTrap_traps (if_pos he))))
  · exact traps_of_streamTrap hc ((exec_longIndex hc).trans (congrArg Host.Outcome.next (unlessTrap_traps (if_pos he))))
  · exact traps_of_streamTrap hc ((exec_shortIndex hc).trans (congrArg Host.Outcome.next (unlessTrap_traps
      ((if_neg (Nat.not_le.2 he)).trans (if_pos hx)))))
  · exact traps_of_streamTrap hc ((exec_longIndex hc).trans (congrArg Host.Outcome.next (unlessTrap_traps
      ((if_neg (Nat.not_le.2 he)).trans (if_pos hx)))))
  · exact traps_of_streamTrap hc ((exec_idle hc).trans (congrArg Host.Outcome.next (unlessTrap_traps (if_pos hx))))
  · exact traps_of_streamTrap hc ((exec_ipf hc off n).trans (congrArg Host.Outcome.next (unlessTrap_traps (if_pos hx))))
  · intro n count
    refine ⟨fun h1 h2 => ?_, fun hcc => ⟨fun hx => ?_, fun hx => ⟨fun hb => ?_, fun h1 h2 h3 h4 h5 => ?_⟩⟩⟩
    · exact traps_of_streamTrap hc ((exec_loop hc c imm len).trans (congrArg Host.Outcome.next (unlessTrap_traps (tokenTrap_loop_count h1 h2))))
    · refine traps_of_streamTrap hc ((exec_loop hc c imm len).trans (congrArg Host.Outcome.next (unlessTrap_traps (tokenTrap_loop_crosses hcc ?_))))
      rwa [loopLength_eq hcc]
    · refine traps_of_streamTrap hc ((exec_loop hc c imm len).trans (congrArg Host.Outcome.next (unlessTrap_traps (tokenTrap_loop_body hcc ?_ hb))))
      rwa [loopLength_eq hcc]
    · refine traps_of_streamTrap hc ((exec_loop hc c imm len).trans (congrArg Host.Outcome.next (unlessTrap_traps
        (tokenTrap_loop_depth hcc ?_ (fun hb => ?_) h4 h5))))
      · rwa [loopLength_eq hcc]
      · rcases hb with hb | hb | ⟨v, hv, hlt⟩
        · exact absurd h1 (by omega)
        · exact absurd h2 (Nat.not_le.2 hb)
        · exact absurd (h3 v hv) (Nat.not_le.2 hlt)

end

end Sys2Proof.Machine

namespace Sys2Proof.Machine
open Sys2Proof.Claims

section
variable {s t u : State} {x : Sel} {b k : Block} {w v : Warp} {i : Instr} {n e c imm len : Nat} {hs : List Nat} {is : Issue}
  {loops : List LoopLevel} {pc : Nat}

-- A word is taken up (R56 step 3).

/-- A warp whose word begins. -/
def Warp.begun (v : Warp) : Warp := { v with held := false, atPoint := false }

/-- A word begins in its warp. -/
def State.wordBegun (s : State) (is : Issue) : State :=
  (({ s with issue := some is, sel := none, uid := s.uid + 1 } : State).modWarp is.block is.warp Warp.begun)

theorem beginWord_eq (hb : s.block? is.block = some b) (hw : b.warp? is.warp = some w) : s.beginWord is =
    if w.overdraw then (s.wordBegun is).raise is 0x61 0 0xFF
    else match (s.wordBegun is).firstTrap is b w with
      | some sl => { s.wordBegun is with issue := some { is with slots := [sl] } }
      | none =>
        if w.convergeDue then (s.wordBegun is).raise is w.convergeCode 0 0xFF
        else { s.wordBegun is with issue := some { is with slots := (wordOps is.word).map (·.1), clear := true } } := by
  unfold State.beginWord
  rw [hb]
  dsimp only
  rw [hw] <;> rfl

theorem wordOps_zero : wordOps 0 = [] := by decide

theorem firstTrap_empty (h : is.word = 0) : s.firstTrap is b w = none := by
  unfold State.firstTrap
  rw [h, wordOps_zero]
  rfl

/-- An empty word is taken up with no slot to act. -/
theorem beginWord_empty (hb : s.block? is.block = some b) (hw : b.warp? is.warp = some w) (h0 : is.word = 0) (ho : w.overdraw = false)
    (hd : w.convergeDue = false) : s.beginWord is = { s.wordBegun is with issue := some { is with slots := [], clear := true } } := by
  rw [beginWord_eq hb hw, if_neg (by rw [ho]; exact Bool.false_ne_true), firstTrap_empty h0]
  refine (if_neg (by rw [hd]; exact Bool.false_ne_true)).trans ?_
  rw [h0, wordOps_zero]
  rfl

/-- A word that takes up an entry of the dictionary, step by step of the checks before it. -/
theorem beginWord_steps (hb : s.block? is.block = some b) (hw : b.warp? is.warp = some w) :
    (w.overdraw = true → s.beginWord is = (s.wordBegun is).raise is 0x61 0 0xFF) ∧
    (w.overdraw = false → ∀ sl, (s.wordBegun is).firstTrap is b w = some sl →
      s.beginWord is = { s.wordBegun is with issue := some { is with slots := [sl] } }) ∧
    (w.overdraw = false → (s.wordBegun is).firstTrap is b w = none →
      (w.convergeDue = true → s.beginWord is = (s.wordBegun is).raise is w.convergeCode 0 0xFF) ∧
      (w.convergeDue = false → s.beginWord is =
        { s.wordBegun is with issue := some { is with slots := (wordOps is.word).map (·.1), clear := true } })) := by
  rw [beginWord_eq hb hw]
  refine ⟨fun ho => if_pos ho, fun ho sl hf => ?_, fun ho hf => ⟨fun hd => ?_, fun hd => ?_⟩⟩
  · rw [if_neg (by rw [ho]; exact Bool.false_ne_true), hf]
  · rw [if_neg (by rw [ho]; exact Bool.false_ne_true), hf]
    exact if_pos hd
  · rw [if_neg (by rw [ho]; exact Bool.false_ne_true), hf]
    exact if_neg (by rw [hd]; exact Bool.false_ne_true)

-- A token that issues no word (R67, R70).

/-- The pitch selects another warp in the same cycle. -/
def State.gives (s : State) (x : Sel) (b : Block) (w : Warp) : State :=
  (({ s with sel := none } : State).turnEnds (coreId b w) w.pitch).pitchSelect b.stack w.core w.pitch x.cycle

/-- A token passed by the warps of a number. -/
def Warp.passes (loops : List LoopLevel) (pc : Nat) (v : Warp) : Warp := { v with loops := loops, pc := pc }

theorem passToken_eq (hu : u = if (endToken loops pc).2.2 = true ∧ w.pointFree = true then
      (s.modWarp x.block x.warp (Warp.passes (endToken loops pc).1 (endToken loops pc).2.1)).reachPoint x.block x.warp
      else s.modWarp x.block x.warp (Warp.passes (endToken loops pc).1 (endToken loops pc).2.1))
    (hk : u.block? x.block = some k) (hv : k.warp? x.warp = some v) :
    s.passToken x b w loops pc = if k.holds v || v.trap.isSome then u.gives x b w else u := by
  have hw : u.warp? x.block x.warp = some v := by
    rw [State.warp?, hk]
    exact hv
  have hu' : (if (endToken loops pc).2.2 && w.pointFree then
      (s.modWarp x.block x.warp fun w => { w with loops := (endToken loops pc).1, pc := (endToken loops pc).2.1 }).reachPoint x.block x.warp
      else s.modWarp x.block x.warp fun w => { w with loops := (endToken loops pc).1, pc := (endToken loops pc).2.1 }) = u := by
    rw [hu]
    exact if_congr (by rw [Bool.and_eq_true]) rfl rfl
  unfold State.passToken
  dsimp only
  rw [hu', hk, hw] <;> rfl

/-- Where a warp's PC and loops stand does not matter to whether it holds. -/
theorem holds_passes (b : Block) (m : Nat) (w : Warp) (loops : List LoopLevel) (pc : Nat) :
    (b.modWarp m (Warp.passes loops pc)).holds (w.passes loops pc) = b.holds w := by
  have haw : (b.modWarp m (Warp.passes loops pc)).awaited (w.passes loops pc) = b.awaited w := by
    show ((b.warps.map fun v => if v.num == m then Warp.passes loops pc v else v).any _) = _
    rw [List.any_map]
    unfold Block.awaited
    congr 1
    funext v
    dsimp only [Function.comp]
    split <;> rfl
  unfold Block.holds
  rw [haw]
  rfl

/-- A token passed with no iteration's end. -/
theorem passToken_quiet {l : List LoopLevel} {p : Nat} (hb : s.block? x.block = some b) (hw : b.warp? x.warp = some w) (ht : w.trap = none)
    (hq : endToken loops pc = (l, p, false)) :
    s.passToken x b w loops pc = if b.holds w = true then (s.modWarp x.block x.warp (Warp.passes l p)).gives x b w
      else s.modWarp x.block x.warp (Warp.passes l p) := by
  have hbl : (s.modWarp x.block x.warp (Warp.passes l p)).block? x.block = some (b.modWarp x.warp (Warp.passes l p)) := by
    rw [State.block?_modWarp, hb, Option.map_some, if_pos rfl]
  have hwl : (b.modWarp x.warp (Warp.passes l p)).warp? x.warp = some (w.passes l p) := by
    rw [Block.warp?_modWarp _ _ _ (Warp.passes l p) fun _ => rfl, hw, Option.map_some, if_pos rfl]
  have hu : s.modWarp x.block x.warp (Warp.passes l p) = if (endToken loops pc).2.2 = true ∧ w.pointFree = true then
      (s.modWarp x.block x.warp (Warp.passes (endToken loops pc).1 (endToken loops pc).2.1)).reachPoint x.block x.warp
      else s.modWarp x.block x.warp (Warp.passes (endToken loops pc).1 (endToken loops pc).2.1) := by
    rw [hq]
    exact (if_neg fun h => Bool.false_ne_true h.1).symm
  refine (passToken_eq hu hbl hwl).trans ?_
  have ht' : (w.passes l p).trap.isSome = false := by
    rw [show (w.passes l p).trap = w.trap from rfl, ht]
    rfl
  rw [holds_passes, ht', Bool.or_false]

theorem endToken_inside (h : ∀ v, loops.getLast? = some v → pc ≠ v.start + v.len) : endToken loops pc = (loops, pc, false) := by
  unfold endToken
  cases hr : loops.reverse with
  | nil =>
    rw [List.reverse_eq_nil_iff] at hr
    subst hr
    rfl
  | cons v r =>
    have hl : loops = (v :: r).reverse := by rw [← hr, List.reverse_reverse]
    have hlast : loops.getLast? = some v := by rw [hl, List.reverse_cons, List.getLast?_append, List.getLast?_singleton]; rfl
    have hgo : endTokenGo (v :: r) pc = (v :: r, pc, false) := if_neg (h v hlast)
    rw [hgo, hl]

theorem loopPush_eq (c imm len : Nat) : loopPush w loops pc c imm len =
    if (if c < 64 then (w.sread c).toNat % 2 ^ 32 else imm) = 0 then (loops, loopStart pc c + len)
    else (loops ++ [{ start := loopStart pc c, len := len, count := if c < 64 then (w.sread c).toNat % 2 ^ 32 else imm, index := 0 }],
      loopStart pc c) := by
  unfold loopPush
  rw [low32_toNat]

theorem State.touchGroup_frame (s : State) (core key : Nat) : s.touchGroup core key = { s with decoded := (s.touchGroup core key).decoded } := by
  unfold State.touchGroup
  split <;> rfl

/-- A word begun under the names of the warp chosen. -/
theorem wordBegun_chosen (hb : is.block = x.block) (hw : is.warp = x.warp) : s.wordBegun is =
    { s.modWarp x.block x.warp Warp.begun with issue := some is, sel := none, uid := s.uid + 1 } := by
  unfold State.wordBegun
  rw [hb, hw]
  rfl

theorem block?_bid_of (hc : Chosen s x b w) : b.bid = x.block ∧ w.num = x.warp :=
  ⟨beq_iff_eq.1 (List.find?_some (p := fun k : Block => k.bid == x.block) hc.2.1),
    beq_iff_eq.1 (List.find?_some (p := fun k : Warp => k.num == x.warp) hc.2.2)⟩

theorem advance_inside {c : Issue} (h1 : w.idle = 1) (hl : w.loops = []) : w.advance c = ({ w with idle := 0, pc := c.next }, false) := by
  have he : endToken w.loops c.next = ([], c.next, false) := by rw [hl]; rfl
  unfold Warp.advance
  rw [if_neg (by omega), he]
  rw [← hl]

/-- An index token that takes up its entry's word. -/
theorem exec_index_steps (hc : Chosen s x b w) {long : Bool} (he : e < (s.code b w).dsize)
    (hx : crosses w.loops w.pc ((if long then 2 else 1) + ((s.code b w).widths e).sum) = false) :
    exec (if long then .longIndex e hs else .shortIndex e hs) s =
      .next ((s.touchGroup (coreId b w) (fetchKey b (s.code b w).unit (e / 16))).beginWord
        { taken s x b w ((s.code b w).dict.getD e default).word (((s.code b w).widths e).zipWith extendHole hs)
          (w.pc + ((if long then 2 else 1) + ((s.code b w).widths e).sum)) with slots := [], clear := false }) := by
  cases long with
  | true => exact (exec_longIndex hc).trans (congrArg Host.Outcome.next (unlessTrap_acts
      ((if_neg (Nat.not_le.2 he)).trans (if_neg fun hy => Bool.false_ne_true (hx.symm.trans hy)))))
  | false => exact (exec_shortIndex hc).trans (congrArg Host.Outcome.next (unlessTrap_acts
      ((if_neg (Nat.not_le.2 he)).trans (if_neg fun hy => Bool.false_ne_true (hx.symm.trans hy)))))

/-- An idle token with its first word taken up. -/
theorem exec_idle_issues (hc : Chosen s x b w) (hx : crosses w.loops w.pc 2 = false) (ho : w.overdraw = false) (hd : w.convergeDue = false) :
    exec (.idle n) s = .next { s.modWarp x.block x.warp (fun v => { v with idle := n + 1, held := false, atPoint := false }) with
      issue := some (taken s x b w 0 [] (w.pc + 2)), sel := none, uid := s.uid + 1 } := by
  obtain ⟨hbid, hnum⟩ := block?_bid_of hc
  let g : Warp → Warp := fun v => { v with idle := n + 1 }
  have hbl : (s.modWarp x.block x.warp g).block? b.bid = some (b.modWarp x.warp g) := by
    rw [State.block?_modWarp, hbid, hc.2.1, Option.map_some, if_pos rfl]
  have hwl : (b.modWarp x.warp g).warp? w.num = some (g w) := by
    rw [Block.warp?_modWarp _ _ _ g fun _ => rfl, hnum, hc.2.2, Option.map_some, if_pos rfl]
  refine (exec_idle hc).trans (congrArg Host.Outcome.next ?_)
  have htrap : tokenTrap (s.code b w) w w.loops w.pc 2 (.idle n) = none := if_neg (by rw [hx]; exact Bool.false_ne_true)
  rw [unlessTrap_acts htrap]
  refine (beginWord_empty (s := s.modWarp x.block x.warp g) (w := g w) hbl hwl rfl ho hd).trans ?_
  rw [wordBegun_chosen (x := x) hbid hnum, State.modWarp_modWarp _ _ _ (f := g) fun _ => rfl]
  have ht : taken s x b w 0 [] (w.pc + 2) = { mkIssue (s.modWarp x.block x.warp g) b w 0 [] w.pc (w.pc + 2) x.cycle with slots := [], clear := true } := by
    unfold taken
    rw [wordOps_zero]
    rfl
  rw [ht]
  rfl

theorem exec_emptyWord_issues (hc : Chosen s x b w) (ho : w.overdraw = false) (hd : w.convergeDue = false) :
    exec .emptyWord s = .next { s.modWarp x.block x.warp (fun v => { v with held := false, atPoint := false }) with
      issue := some (taken s x b w 0 [] (w.pc + 2)), sel := none, uid := s.uid + 1 } := by
  obtain ⟨hbid, hnum⟩ := block?_bid_of hc
  have hex : exec .emptyWord s = .next (s.beginWord (mkIssue s b w 0 [] w.pc (w.pc + 2) x.cycle)) := by
    dsimp only [exec, execEmptyWord]
    exact tokenOp_act _ hc.1 hc.2.1 hc.2.2
  refine hex.trans (congrArg Host.Outcome.next ?_)
  refine (beginWord_empty (b := b) (w := w) ?_ ?_ rfl ho hd).trans ?_
  · exact (congrArg s.block? hbid).trans hc.2.1
  · exact (congrArg b.warp? hnum).trans hc.2.2
  rw [wordBegun_chosen (x := x) hbid hnum]
  have ht : taken s x b w 0 [] (w.pc + 2) = { mkIssue s b w 0 [] w.pc (w.pc + 2) x.cycle with slots := [], clear := true } := by
    unfold taken
    rw [wordOps_zero]
    rfl
  rw [ht]
  rfl

/-- A loop token that passes. -/
theorem exec_loop_passes (hc : Chosen s x b w) (hcc : c < 64 ∨ c = 0xFF) (hx : crosses w.loops w.pc (if c < 64 then 4 else 6) = false)
    (hlen : 0 < len) (hfit : loopStart w.pc c + len ≤ (s.code b w).bytes.length)
    (hin : ∀ v, w.loops.getLast? = some v → loopStart w.pc c + len ≤ v.start + v.len)
    (hn : (if c < 64 then (w.sread c).toNat % 2 ^ 32 else imm) = 0 ∨ w.loops.length ≠ 6) :
    exec (.loop c imm len) s = .next (s.passToken x b w (loopPush w w.loops w.pc c imm len).1 (loopPush w w.loops w.pc c imm len).2) := by
  refine (exec_loop hc c imm len).trans (congrArg Host.Outcome.next (unlessTrap_acts (tokenTrap_loop_none hcc ?_ (fun hb => ?_) hn)))
  · rwa [loopLength_eq hcc]
  · rcases hb with hb | hb | ⟨v, hv, hlt⟩
    · omega
    · exact absurd hfit (Nat.not_le.2 hb)
    · exact absurd (hin v hv) (Nat.not_le.2 hlt)

theorem hintLines_frame (s : State) (b : Block) (w : Warp) (off : Int) (n : Nat) :
    s.hintLines b w off n = { s with hints := (s.hintLines b w off n).hints } := rfl

theorem exec_ipf_passes (hc : Chosen s x b w) (off n : Nat) (hx : crosses w.loops w.pc 6 = false) : exec (.ipf off n) s =
    .next ((s.hintLines b w (w.pc + (BitVec.ofNat 32 off).toInt) (n + 1)).passToken x b w w.loops (w.pc + 6)) :=
  (exec_ipf hc off n).trans (congrArg Host.Outcome.next (unlessTrap_acts (if_neg (by rw [hx]; exact Bool.false_ne_true))))

theorem tokensIssue_holds : TokensIssue := by
  intro s x b w hc gives passed
  obtain ⟨hbid, hnum⟩ := block?_bid_of hc
  refine ⟨?_, fun n hx ho hd => exec_idle_issues hc hx ho hd, fun ho hd => exec_emptyWord_issues hc ho hd,
    fun c => ⟨fun h => if_pos h, advance_inside⟩, ?_, ?_, ?_⟩
  · intro e hs long k i n c t early u he hx
    have hex : exec i s = .next ((s.touchGroup (coreId b w) (fetchKey b k.unit (e / 16))).beginWord early) := exec_index_steps hc he hx
    have hframe := s.touchGroup_frame (coreId b w) (fetchKey b k.unit (e / 16))
    have hu : (s.touchGroup (coreId b w) (fetchKey b k.unit (e / 16))).wordBegun early = u := by
      have huid : (s.touchGroup (coreId b w) (fetchKey b k.unit (e / 16))).uid = s.uid := by rw [hframe]
      rw [wordBegun_chosen (x := x) hbid hnum, huid]
      rfl
    have hbl : (s.touchGroup (coreId b w) (fetchKey b k.unit (e / 16))).block? early.block = some b := by
      rw [hframe]
      exact (congrArg s.block? hbid).trans hc.2.1
    obtain ⟨h1, h2, h3⟩ := beginWord_steps (is := early) hbl ((congrArg b.warp? hnum).trans hc.2.2)
    rw [hu] at h1 h2 h3
    refine ⟨fun ho => hex.trans (congrArg Host.Outcome.next (h1 ho)), fun ho sl hf => hex.trans (congrArg Host.Outcome.next (h2 ho sl hf)),
      fun ho hf => ⟨fun hd => hex.trans (congrArg Host.Outcome.next ((h3 ho hf).1 hd)), fun hd =>
        hex.trans (congrArg Host.Outcome.next ((h3 ho hf).2 hd))⟩⟩
  · intro ht c imm len start count hx hcc hlen hfit hin
    refine ⟨fun hn hl => ?_, fun hn hne => ?_⟩
    · refine (exec_loop_passes hc hcc hx hlen hfit hin (.inr (by omega))).trans (congrArg Host.Outcome.next ?_)
      have hp : loopPush w w.loops w.pc c imm len = (w.loops ++ [{ start := start, len := len, count := count, index := 0 }], start) := by
        rw [loopPush_eq]
        exact if_neg (Nat.ne_of_gt hn)
      rw [hp]
      refine passToken_quiet hc.2.1 hc.2.2 ht (endToken_inside fun v hv => ?_)
      rw [List.getLast?_append, List.getLast?_singleton, Option.some_or] at hv
      obtain rfl := Option.some.inj hv
      dsimp only
      omega
    · refine (exec_loop_passes hc hcc hx hlen hfit hin (.inl hn)).trans (congrArg Host.Outcome.next ?_)
      have hp : loopPush w w.loops w.pc c imm len = (w.loops, start + len) := by
        rw [loopPush_eq]
        exact if_pos hn
      rw [hp]
      exact passToken_quiet hc.2.1 hc.2.2 ht (endToken_inside hne)
  · intro ht off n hx hne
    refine (exec_ipf_passes hc off n hx).trans (congrArg Host.Outcome.next ?_)
    exact passToken_quiet (s := s.hintLines b w (w.pc + (BitVec.ofNat 32 off).toInt) (n + 1)) hc.2.1 hc.2.2 ht (endToken_inside hne)
  · intro ht off n hx q u0 u k v hk hv
    have hex := (exec_ipf_passes hc off n hx).trans (congrArg Host.Outcome.next
      (passToken_eq (s := s.hintLines b w (w.pc + (BitVec.ofNat 32 off).toInt) (n + 1)) (b := b) (u := u) rfl hk hv))
    refine ⟨fun hor => hex.trans (congrArg Host.Outcome.next (if_pos (Bool.or_eq_true _ _ ▸ hor))), fun hh hn => ?_⟩
    refine hex.trans (congrArg Host.Outcome.next (if_neg ?_))
    rw [hh, hn]
    exact Bool.false_ne_true

/-- Settles O22: a turn's holder and the warp picked; the end of a word frees its pitch or leaves it; a token that passes its checks takes up
its word, and one that does not traps. -/
theorem pitchAndTokens : Obligations.PitchAndTokens :=
  ⟨pitchCycleActs_holds, pitchSelects_holds, turnsEnd_holds, tokensIssue_holds, streamTraps_holds⟩

end

end Sys2Proof.Machine

end

section
/-! SUPPORT. The mask stack, regroups and spills (O17). -/

namespace Sys2Proof.Machine
open Sys2Proof.Claims

-- The mask stack (R33, R258).

section
variable {s : State} {c : Issue} {bl : Block} {w : Warp} {g : Guard}

theorem Block.masksOut_iff : bl.masksOut w = true ↔
    w.masks = [] ∨ w.bank = none ∧ w.region.isSome = true ∧ w.masks.length = bl.baseDepth w := by
  simp [Block.masksOut, Warp.handler, and_assoc]

theorem State.newMask_of (hc : s.issue = some c) (m : Mask) (l : List MaskEntry) :
    s.newMask m l = { s with issue := some { c with newMask := some (m, l) } } := by
  rw [State.newMask, hc]
  rfl

theorem trapOf_mpop (hout : bl.masksOut w = false) (hp : w.bank.isSome = true ∨ w.parked = 0) :
    s.trapOf c bl w (.mpop g) = none := by
  simp [State.trapOf, hout, Warp.converges_of_none_parked hp]

theorem popMask_append {l : List MaskEntry} {e : MaskEntry} (h : w.masks = l ++ [e]) : popMask w = (e.saved, l) := by
  simp [popMask, h]

theorem elseMask_append {l : List MaskEntry} {e : MaskEntry} (h : w.masks = l ++ [e]) :
    elseMask w = (e.other, l ++ [{ e with other := 0 }]) := by
  simp [elseMask, h]

theorem exec_mpush (hi : Issuing s c bl w) (hg : qGuard w g = true) (a : Nat) (na : Bool) (hd : w.masks.length < 16) :
    exec (.mpush g a na) s = .next (s.newMask (pushMask w (w.pneg a na)).1 (pushMask w (w.pneg a na)).2) := by
  have ht : s.trapOf c bl w (.mpush g a na) = none := by simp [State.trapOf, hd]
  dsimp only [exec, execMpush]
  rw [uniOp_runs hi hg ht]

theorem exec_melse (hi : Issuing s c bl w) (hg : qGuard w g = true) (hout : bl.masksOut w = false) :
    exec (.melse g) s = .next (s.newMask (elseMask w).1 (elseMask w).2) := by
  have ht : s.trapOf c bl w (.melse g) = none := by simp [State.trapOf, hout]
  dsimp only [exec, execMelse]
  rw [uniOp_runs hi hg ht]

theorem exec_mpop (hi : Issuing s c bl w) (hg : qGuard w g = true) (hout : bl.masksOut w = false)
    (hp : w.bank.isSome = true ∨ w.parked = 0) : exec (.mpop g) s = .next (s.newMask (popMask w).1 (popMask w).2) := by
  dsimp only [exec, execMpop]
  rw [uniOp_runs hi hg (trapOf_mpop hout hp)]

/-- A convergence point traps while lanes of a program are parked. -/
theorem Warp.converges_of_parked (hb : w.bank = none) (hp : w.parked ≠ 0) : w.converges = some (w.convergeCode, 0) := by
  have hne : (w.parked != 0) = true := bne_iff_ne.2 hp
  rw [Warp.converges, Warp.handler, hb, hne]
  rfl

theorem maskStack_holds : MaskStack := by
  refine ⟨fun s c bl w g a na hi hg => ?_, fun w p => popMask_append (e := { saved := w.active, other := w.active &&& ~~~p }) rfl⟩
  have ⟨hc, hb, hw⟩ := hi
  refine ⟨fun hd => ?_, fun l e hl hout => ⟨?_, fun hp => ?_⟩, Block.masksOut_iff, fun hcl => ⟨fun hd => ?_, fun hout => ⟨?_, ?_⟩,
    fun hout hp hbank => ?_⟩⟩
  · refine (exec_mpush hi hg a na hd).trans ?_
    rw [State.newMask_of hc]
    cases na <;> rfl
  · exact (exec_melse hi hg hout).trans (by rw [State.newMask_of hc, elseMask_append hl])
  · exact (exec_mpop hi hg hout hp.symm).trans (by rw [State.newMask_of hc, popMask_append hl])
  · exact traps_of_trapOf hi rfl hcl (by simp [State.trapOf, hg, hd])
  · exact traps_of_trapOf hi rfl hcl (by simp [State.trapOf, hg, hout])
  · exact traps_of_trapOf hi rfl hcl (by simp [State.trapOf, hg, hout])
  · refine traps_of_trapOf hi rfl hcl ?_
    simp [State.trapOf, hg, hout, Warp.converges_of_parked hbank hp, Warp.convergeCode]

-- Arriving at a regroup and at an ungroup (R34, R35, R259).

/-- A warp that stands at synchronisation `k` and holds until its requests before word `u` have performed. -/
def Warp.standing (k : Wait) (u : Nat) (w : Warp) : Warp := { w with wait := k, hold := w.hold ++ [{ kind := .sync, upto := u }] }

theorem State.standing_eq (s : State) (c : Issue) (k : Wait) :
    (s.modWarp c.block c.warp fun x => { x with wait := k }).holdOn c .sync c.uid =
      s.modWarp c.block c.warp (Warp.standing k c.uid) :=
  State.modWarp_modWarp s c.block c.warp (f := fun x => { x with wait := k }) fun _ => rfl

/-- No trap keeps a warp outside a region from a `regroup` that its block's matches. -/
theorem trapOf_regroup (hb : w.bank = none) (hr : w.region = none) (hm : bl.mismatch w c.tok = false) {a : Nat} {na : Bool}
    (h : qGuard w g = false ∨ (wordBar c.word = false ∧ w.parked = 0)) : s.trapOf c bl w (.regroup g a na) = none := by
  rcases h with h | ⟨h, hp⟩
  · simp [State.trapOf, h]
  · simp [State.trapOf, h, hb, hr, hm, Warp.handler, Warp.converges_of_none_parked (.inr hp)]

theorem exec_regroup_arrives (hi : Issuing s c bl w) (hb : w.bank = none) (hr : w.region = none) (hm : bl.mismatch w c.tok = false)
    {a : Nat} {na : Bool} (h : qGuard w g = false ∨ (wordBar c.word = false ∧ w.parked = 0)) :
    exec (.regroup g a na) s = .next (s.modWarp c.block c.warp
      (Warp.standing (.regroup c.tok w.loops.length w.masks.length (w.pneg a na) (qGuard w g)) c.uid)) := by
  obtain ⟨hc, hbl, hw⟩ := hi
  dsimp only [exec, execRegroup]
  rw [slotOp_act _ _ hc hbl hw (trapOf_regroup hb hr hm h)]
  rw [if_neg (by simp [Warp.handler, hb, hr, hm]), State.standing_eq]

theorem exec_regroup_passes (hi : Issuing s c bl w) (hg : qGuard w g = false) {a : Nat} {na : Bool}
    (h : w.region.isSome = true ∨ bl.mismatch w c.tok = true) : exec (.regroup g a na) s = .next s := by
  obtain ⟨hc, hbl, hw⟩ := hi
  dsimp only [exec, execRegroup]
  rw [slotOp_act _ _ hc hbl hw (by simp [State.trapOf, hg])]
  rw [if_pos (by rcases h with h | h <;> simp [hg, h])]

theorem exec_ungroup (hi : Issuing s c bl w) (hg : qGuard w g = true) (hb : w.bank = none) (hr : w.region.isSome = true)
    (hbar : wordBar c.word = false) (hp : w.parked = 0) :
    exec (.ungroup g) s = .next (s.modWarp c.block c.warp (Warp.standing .ungroup c.uid)) := by
  have hn : w.region.isNone = false := by rw [← Option.not_isSome, hr]; rfl
  have ht : s.trapOf c bl w (.ungroup g) = none := by
    simp [State.trapOf, hb, hn, hbar, Warp.handler, Warp.converges_of_none_parked (.inr hp)]
  dsimp only [exec, execUngroup]
  rw [uniOp_runs hi hg ht]
  exact congrArg Host.Outcome.next (State.standing_eq s c .ungroup)

/-- A `regroup` raises the trap that its word's state gives it. -/
theorem regroup_traps {a : Nat} {na : Bool} {code : Nat} (hi : Issuing s c bl w) (hcl : c.clear = false)
    (ht : s.trapOf c bl w (.regroup g a na) = some (code, 0)) : Traps s (.regroup g a na) c code 0 := by
  obtain ⟨hc, hb, hw⟩ := hi
  dsimp only [Traps, exec, execRegroup]
  exact slotOp_trap (.regroup g a na) _ hc hb hw hcl ht

theorem regrouping_holds : Regrouping := by
  intro s c bl w g a id na hi hb
  have hh : w.handler = false := by simp [Warp.handler, hb]
  refine ⟨fun hr hm h => ?_, fun hg h => exec_regroup_passes hi hg h, fun hg hr hbar hp => ?_, fun hg hcl =>
    ⟨fun hr => ?_, fun hr hm => ?_, fun hr hm hbar => ?_, fun hr => ?_, fun hr hbar => ?_, fun hr => ⟨?_, ?_⟩⟩⟩
  · refine (exec_regroup_arrives hi hb hr hm h).trans ?_
    cases na <;> rfl
  · exact exec_ungroup hi hg hb hr hbar hp
  · exact regroup_traps hi hcl (by simp [State.trapOf, hg, hh, hr])
  · exact regroup_traps hi hcl (by simp [State.trapOf, hg, hh, hr, hm])
  · exact regroup_traps hi hcl (by simp [State.trapOf, hg, hh, hr, hm, hbar])
  · exact traps_of_trapOf hi rfl hcl (by simp [State.trapOf, hg, hh, hr])
  · have hn : w.region.isNone = false := by rw [← Option.not_isSome, hr]; rfl
    exact traps_of_trapOf hi rfl hcl (by simp [State.trapOf, hg, hh, hn, hbar])
  · exact traps_of_trapOf hi rfl hcl (by simp [State.trapOf, hg, hh, hr])
  · exact traps_of_trapOf hi rfl hcl (by simp [State.trapOf, hg, hh, hr])

end
end Sys2Proof.Machine

namespace Sys2Proof.Machine
open Sys2Proof.Claims

-- Sorted lists and positions in them.

theorem insertBy_pairwise {α : Type} {le : α → α → Bool} (total : ∀ a b, le a b = true ∨ le b a = true)
    (trans : ∀ a b c, le a b = true → le b c = true → le a c = true) (x : α) {l : List α}
    (h : l.Pairwise fun a b => le a b = true) : (insertBy le x l).Pairwise fun a b => le a b = true := by
  induction l with
  | nil => exact List.pairwise_singleton _ _
  | cons y l ih =>
    obtain ⟨hy, hl⟩ := List.pairwise_cons.1 h
    rw [insertBy]
    split
    next hxy => exact List.pairwise_cons.2 ⟨List.forall_mem_cons.2 ⟨hxy, fun z hz => trans x y z hxy (hy z hz)⟩, h⟩
    next hxy =>
      have hyx : le y x = true := (total x y).resolve_left hxy
      refine List.pairwise_cons.2 ⟨fun z hz => ?_, ih hl⟩
      rcases List.mem_cons.1 ((insertBy_perm le x l).mem_iff.1 hz) with rfl | hz
      · exact hyx
      · exact hy z hz

theorem sortBy_pairwise {α : Type} {le : α → α → Bool} (total : ∀ a b, le a b = true ∨ le b a = true)
    (trans : ∀ a b c, le a b = true → le b c = true → le a c = true) (l : List α) :
    (sortBy le l).Pairwise fun a b => le a b = true := by
  induction l with
  | nil => exact .nil
  | cons x l ih => exact insertBy_pairwise total trans x ih

/-- In a list ordered by an asymmetric relation the lesser element has the lower position. -/
theorem idxOf_lt_of_pairwise {α : Type} {R : α → α → Prop} {f : α → Nat} (asymm : ∀ x y, R x y → ¬ R y x) {l : List α}
    (hl : l.Pairwise R) (hn : (l.map f).Nodup) {x y : α} (hx : x ∈ l) (hy : y ∈ l) (hxy : R x y) :
    (l.map f).idxOf (f x) < (l.map f).idxOf (f y) := by
  induction l with
  | nil => cases hx
  | cons z l ih =>
    obtain ⟨hz, hl⟩ := List.pairwise_cons.1 hl
    rw [List.map_cons] at hn ⊢
    obtain ⟨hfz, hn⟩ := List.nodup_cons.1 hn
    have hne : ∀ u ∈ l, f z ≠ f u := fun u hu he => hfz (he ▸ List.mem_map_of_mem hu)
    rcases List.mem_cons.1 hx with rfl | hxl
    · rcases List.mem_cons.1 hy with rfl | hyl
      · exact absurd hxy (asymm _ _ hxy)
      · rw [List.idxOf_cons_self, List.idxOf_cons_ne _ (hne y hyl)]
        exact Nat.succ_pos _
    · rcases List.mem_cons.1 hy with rfl | hyl
      · exact absurd hxy (asymm _ _ (hz x hxl))
      · rw [List.idxOf_cons_ne _ (hne x hxl), List.idxOf_cons_ne _ (hne y hyl)]
        exact Nat.succ_lt_succ (ih hl hn hxl hyl)

/-- The elements of a list of three classes, class by class. -/
theorem filter_three_perm {α : Type} (key : α → Nat) (hk : ∀ a, key a ≤ 2) (l : List α) :
    ((l.filter fun a => key a == 0) ++ (l.filter fun a => key a == 1) ++ (l.filter fun a => key a == 2)).Perm l := by
  induction l with
  | nil => exact .refl _
  | cons a l ih =>
    have h3 : key a = 0 ∨ key a = 1 ∨ key a = 2 := by have := hk a; omega
    rcases h3 with h | h | h
    · simpa [List.filter_cons, h] using ih
    · have hp := (List.perm_middle (a := a) (l₁ := l.filter fun a => key a == 0)
        (l₂ := (l.filter fun a => key a == 1) ++ (l.filter fun a => key a == 2)))
      rw [← List.append_assoc] at hp
      simpa [List.filter_cons, h] using hp.trans (ih.cons a)
    · have hp := (List.perm_middle (a := a) (l₁ := (l.filter fun a => key a == 0) ++ (l.filter fun a => key a == 1))
        (l₂ := l.filter fun a => key a == 2))
      simpa [List.filter_cons, h] using hp.trans (ih.cons a)

-- The participants of a regroup and the order of R34.

section
variable {b : Block} {core pitch : Nat} {w : Warp}

theorem mem_participants : w ∈ b.participants core pitch ↔ w ∈ b.warps ∧ w.core = core ∧ w.pitch = pitch ∧ w.exited = false := by
  rw [Block.participants, (sortBy_perm _ _).mem_iff, List.mem_filter]
  simp [Warp.live, and_assoc]

theorem participants_ascend (hn : (b.warps.map (·.num)).Nodup) : ((b.participants core pitch).map (·.num)).Pairwise (· < ·) := by
  have hsub : ((b.participants core pitch).map (·.num)).Nodup := by
    unfold Block.participants
    refine ((sortBy_perm _ _).map _).nodup_iff.2 ?_
    exact hn.sublist (List.Sublist.map _ List.filter_sublist)
  have hle : (b.participants core pitch).Pairwise fun x y => decide (x.num ≤ y.num) = true := by
    unfold Block.participants
    refine sortBy_pairwise (fun x y => ?_) (fun x y z hxy hyz => ?_) _
    · simpa using Nat.le_total x.num y.num
    · simp only [decide_eq_true_eq] at hxy hyz ⊢
      exact hxy.trans hyz
  refine List.pairwise_map.2 ((hle.and (List.pairwise_map.1 hsub)).imp fun h => ?_)
  exact Nat.lt_of_le_of_ne (of_decide_eq_true h.1) h.2

/-- The class of a lane position of a warp at a regroup: active and true, active and false, inactive (R34). -/
def packKey (l : Nat) (w : Warp) : Nat :=
  match w.wait with
  | .regroup _ _ _ p part => if part && w.active.getLsbD l then (if p.getLsbD l then 0 else 1) else 2
  | _ => 2

theorem packKey_le (l : Nat) (w : Warp) : packKey l w ≤ 2 := by
  unfold packKey
  split
  · split
    · split <;> decide
    · exact le_rfl
  · exact le_rfl

/-- The warps of a regroup in the order of R34 at lane position `l`. -/
def packWarps (ps : List Warp) (l : Nat) : List Warp :=
  (ps.filter fun w => packKey l w == 0) ++ (ps.filter fun w => packKey l w == 1) ++ (ps.filter fun w => packKey l w == 2)

theorem packOrder_eq (ps : List Warp) (l : Nat) : packOrder ps l = (packWarps ps l).map (·.num) := rfl

theorem packWarps_perm (ps : List Warp) (l : Nat) : (packWarps ps l).Perm ps := filter_three_perm (packKey l) (packKey_le l) ps

theorem packsBefore_iff {l : Nat} {x y : Warp} :
    packsBefore l x y ↔ packKey l x < packKey l y ∨ (packKey l x = packKey l y ∧ x.num < y.num) := by
  have hkey : ∀ u : Warp, packKey l u = match u.wait with
      | .regroup _ _ _ p _ => if regroupActive u l then (if p.getLsbD l then 0 else 1) else 2
      | _ => 2 := fun u => by
    unfold packKey regroupActive
    cases u.wait <;> rfl
  rw [hkey x, hkey y]
  rfl

theorem packsBefore_asymm (l : Nat) (x y : Warp) (h : packsBefore l x y) : ¬ packsBefore l y x := by
  rw [packsBefore_iff] at h ⊢
  omega

theorem packWarps_pairwise {ps : List Warp} (hps : (ps.map (·.num)).Pairwise (· < ·)) (l : Nat) :
    (packWarps ps l).Pairwise (packsBefore l) := by
  have hclass : ∀ i, (ps.filter fun w => packKey l w == i).Pairwise (packsBefore l) := fun i => by
    refine ((List.pairwise_map.1 hps).filter _).imp_of_mem fun {x y} hx hy hlt => packsBefore_iff.2 (.inr ⟨?_, hlt⟩)
    rw [beq_iff_eq.1 (List.mem_filter.1 hx).2, beq_iff_eq.1 (List.mem_filter.1 hy).2]
  have hcross : ∀ i j, i < j → ∀ x ∈ ps.filter (fun w => packKey l w == i), ∀ y ∈ ps.filter (fun w => packKey l w == j),
      packsBefore l x y := fun i j hij x hx y hy => by
    refine packsBefore_iff.2 (.inl ?_)
    rw [beq_iff_eq.1 (List.mem_filter.1 hx).2, beq_iff_eq.1 (List.mem_filter.1 hy).2]
    exact hij
  refine List.pairwise_append.2 ⟨List.pairwise_append.2 ⟨hclass 0, hclass 1, hcross 0 1 (by decide)⟩, hclass 2, fun x hx => ?_⟩
  rcases List.mem_append.1 hx with hx | hx
  · exact hcross 0 2 (by decide) x hx
  · exact hcross 1 2 (by decide) x hx

theorem packOrder_facts {ps : List Warp} (hps : (ps.map (·.num)).Pairwise (· < ·)) (l : Nat) :
    (packOrder ps l).Perm (ps.map (·.num)) ∧
    ∀ x ∈ ps, ∀ y ∈ ps, packsBefore l x y → (packOrder ps l).idxOf x.num < (packOrder ps l).idxOf y.num := by
  have hperm := packWarps_perm ps l
  have hnd : ((packWarps ps l).map (·.num)).Nodup := (hperm.map _).nodup_iff.2 (hps.imp Nat.ne_of_lt)
  rw [packOrder_eq]
  exact ⟨hperm.map _, fun x hx y hy => idxOf_lt_of_pairwise (packsBefore_asymm l) (packWarps_pairwise hps l) hnd
    (hperm.mem_iff.2 hx) (hperm.mem_iff.2 hy)⟩

end
end Sys2Proof.Machine

namespace Sys2Proof.Machine
open Sys2Proof.Claims

-- Lanes gathered from several warps, and warps put back under their numbers.

theorem find?_num_of_mem {l : List Warp} (hn : (l.map (·.num)).Nodup) {w : Warp} (hw : w ∈ l) :
    l.find? (fun x => x.num == w.num) = some w := by
  cases hx : l.find? fun x => x.num == w.num with
  | none => exact absurd (List.find?_eq_none.1 hx w hw) (by simp)
  | some x =>
    have hnum : x.num = w.num := beq_iff_eq.1 (List.find?_some (p := fun x : Warp => x.num == w.num) hx)
    rw [List.inj_on_of_nodup_map hn (List.mem_of_find?_eq_some hx) hw hnum]

theorem getD_laneMap {α : Type} (f : Nat → α) (d : α) {l : Nat} (hl : l < 32) : (laneList.map f).getD l d = f l := by
  rw [List.getD_eq_getElem?_getD, getElem?_laneMap f hl]
  rfl

theorem getD_rangeMap {α : Type} (f : Nat → α) (d : α) {n r : Nat} (hr : r < n) : ((List.range n).map f).getD r d = f r := by
  rw [List.getD_eq_getElem?_getD, List.getElem?_map, List.getElem?_range hr]
  rfl

/-- A lane gathered from warp `x` is that lane of `x`. -/
theorem sameLane_gatherLanes {ws : List Warp} (hn : (ws.map (·.num)).Nodup) {w x : Warp} (hx : x ∈ ws) {owner : Nat → Nat} {l : Nat}
    (hl : l < 32) (ho : owner l = x.num) : sameLane (gatherLanes ws w owner) x l := by
  have hat : (ws.find? fun y => y.num == owner l).getD default = x := by rw [ho, find?_num_of_mem hn hx]; rfl
  refine ⟨fun r hr => ?_, fun r hr => ?_, ?_⟩
  · have hr' : r < w.v.length := by simpa [gatherLanes] using hr
    rw [Warp.vread, gatherLanes]
    dsimp only
    rw [getD_rangeMap _ _ hr', getD_laneMap _ _ hl, hat]
  · rw [gatherLanes]
    dsimp only
    rw [getD_rangeMap _ _ hr, getLsbD_maskOf _ hl, hat]
  · rw [gatherLanes]
    dsimp only
    rw [getLsbD_maskOf _ hl, hat]

theorem sameLane_of_eq {u v x : Warp} {l : Nat} (hv : v.v = u.v) (hp : v.p = u.p) (hk : v.parked = u.parked) (h : sameLane u x l) :
    sameLane v x l := by
  unfold sameLane Warp.vread at h ⊢
  rw [hv, hp, hk]
  exact h

theorem length_gatherLanes (ws : List Warp) (w : Warp) (owner : Nat → Nat) : (gatherLanes ws w owner).v.length = w.v.length := by
  simp [gatherLanes]

/-- A warp of a block, or the one of `new` that bears its number. -/
def replacedBy (new : List Warp) (w : Warp) : Warp := (new.find? fun x => x.num == w.num).getD w

theorem replacedBy_num (new : List Warp) (w : Warp) : (replacedBy new w).num = w.num := by
  unfold replacedBy
  cases hx : new.find? fun x => x.num == w.num with
  | none => rfl
  | some x => exact beq_iff_eq.1 (List.find?_some (p := fun x : Warp => x.num == w.num) hx)

theorem replacedBy_of_mem {new : List Warp} (hn : (new.map (·.num)).Nodup) {x w : Warp} (hx : x ∈ new) (hw : x.num = w.num) :
    replacedBy new w = x := by
  rw [replacedBy, ← hw, find?_num_of_mem hn hx]
  rfl

theorem replacedBy_of_not_mem {new : List Warp} {w : Warp} (h : w.num ∉ new.map (·.num)) : replacedBy new w = w := by
  have hno : (new.find? fun x => x.num == w.num) = none :=
    List.find?_eq_none.2 fun x hx he => h (List.mem_map.2 ⟨x, hx, beq_iff_eq.1 he⟩)
  rw [replacedBy, hno]
  rfl

section
variable {s : State} {bid core pitch : Nat} {b : Block} {w : Warp}

/-- Warps leave a synchronisation: a block's regions become `rs`, and its warps those of `new` that bear their numbers. -/
def Block.rejoin (rs : List Region → List Region) (new : List Warp) (b : Block) : Block :=
  { b with regions := rs b.regions, warps := b.warps.map (replacedBy new) }

theorem block?_rejoin (hb : s.block? bid = some b) (l : List Warp) (rs : List Region → List Region) (new : List Warp) :
    ((s.leave b l).modBlock bid (Block.rejoin rs new)).block? bid = some (b.rejoin rs new) := by
  have hl : (s.leave b l).block? bid = some b := by
    rw [← hb, State.block?, State.leave_blocks]
    rfl
  rw [State.block?_modBlock _ _ _ (Block.rejoin rs new) fun _ => rfl, hl]
  simp

theorem warp?_rejoin (hb : s.block? bid = some b) (hn : (b.warps.map (·.num)).Nodup) (l : List Warp) (rs : List Region → List Region)
    (new : List Warp) (hw : w ∈ b.warps) :
    ((s.leave b l).modBlock bid (Block.rejoin rs new)).warp? bid w.num = some (replacedBy new w) := by
  rw [State.warp?, block?_rejoin hb]
  have := find?_map_all Warp.num (replacedBy new) (replacedBy_num new) b.warps w.num
  rw [find?_num_of_mem hn hw] at this
  exact this

theorem sameMemory_rejoin (l : List Warp) (rs : List Region → List Region) (new : List Warp) :
    SameMemory s ((s.leave b l).modBlock bid (Block.rejoin rs new)) :=
  fun a => congrArg (fun m => Memory.read m a) (State.leave_mem s b l)

-- The completion of a regroup (R34).

/-- A warp has arrived at a regroup. -/
def Warp.atRegroup (w : Warp) : Bool :=
  match w.wait with
  | .regroup _ _ _ _ _ => true
  | _ => false

theorem Warp.atRegroup_iff : w.atRegroup = true ↔ ∃ o d m p g, w.wait = .regroup o d m p g := by
  unfold Warp.atRegroup
  cases w.wait <;> simp

/-- The warp whose lane `l` comes to regrouped warp `j`. -/
def packHome (ps : List Warp) (j l : Nat) : Nat := ((laneList.map (packOrder ps)).getD l []).getD j 0

theorem packHome_eq (ps : List Warp) (j : Nat) {l : Nat} (hl : l < 32) : packHome ps j l = ((packOrder ps l)[j]?).getD 0 := by
  rw [packHome, getD_laneMap _ _ hl, List.getD_eq_getElem?_getD]

/-- The region a regroup of `ps` opens. -/
def regroupRegion (core pitch : Nat) (ps : List Warp) : Region :=
  { core := core
    pitch := pitch
    members := ps.map (·.num)
    base := ((ps.head?).getD default).masks.length
    table := (List.range ps.length).map fun j => laneList.map fun l => packHome ps j l
    masks := ps.map (·.active)
    mstacks := ps.map (·.masks) }

/-- Regrouped warp `j`, in the place of the `j`-th participant. -/
def regrouped (ps : List Warp) (j : Nat) (w : Warp) : Warp :=
  { gatherLanes ps w (packHome ps j) with
    region := some j
    wait := .none
    lastIssue := ps.foldl (fun m w => max m w.lastIssue) 0 - ps.length + j
    active := maskOf fun l => match ps.find? fun x => x.num == packHome ps j l with
      | some x => regroupActive x l
      | none => false }

theorem regrouped_num (ps : List Warp) (j : Nat) (w : Warp) : (regrouped ps j w).num = w.num := by
  unfold regrouped
  dsimp only
  rw [gatherLanes_num]

theorem regroupDone_eq (hb : s.block? bid = some b) (core pitch : Nat) :
    s.regroupDone bid core pitch =
      if b.participants core pitch != [] && (b.participants core pitch).all Warp.atRegroup && s.calm b (b.participants core pitch) then
        (s.leave b (b.participants core pitch)).modBlock bid (Block.rejoin
          (fun l => regroupRegion core pitch (b.participants core pitch) :: l.filter fun r => !(r.core == core && r.pitch == pitch))
          ((b.participants core pitch).mapIdx (regrouped (b.participants core pitch))))
      else s := by
  rw [State.regroupDone, hb] <;> rfl

theorem map_num_regrouped (ps : List Warp) : (ps.mapIdx (regrouped ps)).map (·.num) = ps.map (·.num) := by
  refine List.ext_getElem? fun i => ?_
  simp only [List.getElem?_map, List.getElem?_mapIdx]
  cases ps[i]? with
  | none => rfl
  | some w => exact congrArg some (regrouped_num ps i w)

theorem regrouped_keeps (ps : List Warp) (j : Nat) (w : Warp) :
    sameScalars (regrouped ps j w) w ∧ (regrouped ps j w).masks = w.masks ∧ (regrouped ps j w).v.length = w.v.length := by
  unfold sameScalars regrouped gatherLanes
  simp only [and_self, List.length_map, List.length_range]

theorem regrouped_lanes (ps : List Warp) (j : Nat) (w : Warp) :
    (regrouped ps j w).v = (gatherLanes ps w (packHome ps j)).v ∧ (regrouped ps j w).p = (gatherLanes ps w (packHome ps j)).p ∧
    (regrouped ps j w).parked = (gatherLanes ps w (packHome ps j)).parked := by
  unfold regrouped
  simp only [and_self]

/-- What a regrouped warp is: its own scalar state, and at each position the lane that comes to it. -/
theorem regrouped_facts {ps : List Warp} (hn : (ps.map (·.num)).Nodup) (j : Nat) (w : Warp) :
    (regrouped ps j w).region = some j ∧ (regrouped ps j w).wait = .none ∧ sameScalars (regrouped ps j w) w ∧
    (regrouped ps j w).masks = w.masks ∧ (regrouped ps j w).v.length = w.v.length ∧
    ∀ l, l < 32 → ∀ x ∈ ps, x.num = ((packOrder ps l)[j]?).getD 0 →
      sameLane (regrouped ps j w) x l ∧ (regrouped ps j w).active.getLsbD l = regroupActive x l := by
  obtain ⟨hscal, hmasks, hlen⟩ := regrouped_keeps ps j w
  obtain ⟨hv, hp, hk⟩ := regrouped_lanes ps j w
  refine ⟨rfl, rfl, hscal, hmasks, hlen, fun l hl x hx hh => ?_⟩
  have ho : packHome ps j l = x.num := (packHome_eq ps j hl).trans hh.symm
  refine ⟨sameLane_of_eq hv hp hk (sameLane_gatherLanes hn hx hl ho), ?_⟩
  rw [regrouped]
  dsimp only
  rw [getLsbD_maskOf _ hl, ho, find?_num_of_mem hn hx]

theorem regroupRegion_table (core pitch : Nat) (ps : List Warp) {j l : Nat} (hj : j < ps.length) (hl : l < 32) :
    ((regroupRegion core pitch ps).table.getD j []).getD l 0 = ((packOrder ps l)[j]?).getD 0 := by
  rw [regroupRegion]
  dsimp only
  rw [getD_rangeMap _ _ hj, getD_laneMap _ _ hl, packHome_eq ps j hl]

theorem regroupCompletes_holds : RegroupCompletes := by
  intro s bid core pitch b hb hn
  dsimp only
  have hasc := participants_ascend (core := core) (pitch := pitch) hn
  have hmem : ∀ w, w ∈ b.participants core pitch → w ∈ b.warps := fun w => mem_of_participant
  have hnd : ((b.participants core pitch).map (·.num)).Nodup := hasc.imp Nat.ne_of_lt
  have heq := regroupDone_eq hb core pitch
  refine ⟨fun w => mem_participants, hasc, packOrder_facts hasc, ?_⟩
  generalize b.participants core pitch = ps at *
  have hcond : (ps != [] && ps.all Warp.atRegroup && s.calm b ps) = true ↔
      ps ≠ [] ∧ (∀ w ∈ ps, ∃ o d m p g, w.wait = .regroup o d m p g) ∧ s.calm b ps = true := by
    rw [Bool.and_eq_true, Bool.and_eq_true, bne_iff_ne, List.all_eq_true, and_assoc]
    simp only [Warp.atRegroup_iff]
  rw [← hcond]
  refine ⟨?_, fun hc => heq.trans (if_neg hc), fun hc => ?_⟩
  · rw [heq]
    split
    · exact sameMemory_rejoin _ _ _
    · exact fun _ => rfl
  rw [heq, if_pos hc]
  have hnew : ((ps.mapIdx (regrouped ps)).map (·.num)).Nodup := by rw [map_num_regrouped]; exact hnd
  refine ⟨fun j w hw => ⟨regrouped ps j w, ?_, regrouped_facts hnd j w⟩, fun w hw hps => ?_, _, regroupRegion core pitch ps,
    block?_rejoin hb _ _ _, ?_, rfl, rfl, rfl, ?_, fun j l hj hl => regroupRegion_table core pitch ps hj hl⟩
  · rw [warp?_rejoin hb hn _ _ _ (hmem w (List.mem_of_getElem? hw))]
    have hin : regrouped ps j w ∈ ps.mapIdx (regrouped ps) := by
      refine List.mem_of_getElem? (i := j) ?_
      rw [List.getElem?_mapIdx, hw]
      rfl
    rw [replacedBy_of_mem hnew hin (regrouped_num ps j w)]
  · rw [warp?_rejoin hb hn _ _ _ hw, replacedBy_of_not_mem]
    rw [map_num_regrouped]
    intro hin
    obtain ⟨x, hx, hxw⟩ := List.mem_map.1 hin
    exact hps (List.inj_on_of_nodup_map hn (hmem x hx) hw hxw ▸ hx)
  · refine List.find?_cons_of_pos ?_
    simp [regroupRegion]
  · simp [regroupRegion]

-- The completion of an ungroup (R35).

/-- The member of a region whose lane `l` returns to warp `n`. -/
def laneBack (r : Region) (n l : Nat) : Nat :=
  (r.members.zip r.table).foldl (fun acc m => if m.2.getD l 0 == n then m.1 else acc) n

theorem foldl_pick_none {α : Type} (p : α → Bool) (f : α → Nat) (l : List α) (h : ∀ a ∈ l, p a = false) (n : Nat) :
    l.foldl (fun acc a => if p a then f a else acc) n = n := by
  induction l generalizing n with
  | nil => rfl
  | cons a l ih =>
    obtain ⟨ha, hl⟩ := List.forall_mem_cons.1 h
    rw [List.foldl_cons, ha]
    exact ih hl n

/-- A fold that takes the last element that meets a test takes the one there is. -/
theorem foldl_pick_one {α : Type} (p : α → Bool) (f : α → Nat) {l : List α} {i : Nat} {a : α} (hi : l[i]? = some a) (ha : p a = true)
    (hu : ∀ k c, l[k]? = some c → p c = true → k = i) (n : Nat) : l.foldl (fun acc a => if p a then f a else acc) n = f a := by
  induction l generalizing i n with
  | nil => cases hi
  | cons x l ih =>
    rw [List.foldl_cons]
    cases i with
    | zero =>
      obtain rfl : x = a := Option.some.inj hi
      rw [if_pos ha]
      refine foldl_pick_none p f l (fun c hc => ?_) _
      obtain ⟨k, hk⟩ := List.mem_iff_getElem?.1 hc
      by_contra hpc
      exact absurd (hu (k + 1) c hk (by simpa using hpc)) (Nat.succ_ne_zero k)
    | succ i =>
      exact ih hi (fun k c hk hc => Nat.succ.inj (hu (k + 1) c hk hc)) _

theorem laneBack_eq {r : Region} (ht : r.table.length = r.members.length) {n l i m : Nat} (hm : r.members[i]? = some m)
    (hh : (r.table.getD i []).getD l 0 = n) (hu : ∀ k, k < r.members.length → (r.table.getD k []).getD l 0 = n → k = i) :
    laneBack r n l = m := by
  have hrow : ∀ k c, (r.members.zip r.table)[k]? = some c → k < r.members.length ∧ c.2 = r.table.getD k [] := fun k c hk => by
    obtain ⟨h1, h2⟩ := List.getElem?_zip_eq_some.1 hk
    exact ⟨(List.getElem?_eq_some_iff.1 h1).1, by rw [List.getD_eq_getElem?_getD, h2]; rfl⟩
  have hi : i < r.table.length := by rw [ht]; exact (List.getElem?_eq_some_iff.1 hm).1
  have hz : (r.members.zip r.table)[i]? = some (m, r.table[i]) :=
    List.getElem?_zip_eq_some.2 ⟨hm, List.getElem?_eq_getElem hi⟩
  refine foldl_pick_one (fun c : Nat × List Nat => c.2.getD l 0 == n) Prod.fst hz ?_ (fun k c hk hc => ?_) n
  · rw [(hrow i _ hz).2, hh]
    exact beq_self_eq_true n
  · obtain ⟨hk, hc2⟩ := hrow k c hk
    exact hu k hk (by rw [← hc2]; exact beq_iff_eq.1 hc)

/-- A warp that leaves its region, its lanes back from `all`. -/
def ungrouped (r : Region) (all : List Warp) (w : Warp) : Warp :=
  { gatherLanes all w (laneBack r w.num) with
    region := none
    wait := .none
    active := r.masks.getD (r.members.idxOf w.num) 0
    masks := r.mstacks.getD (r.members.idxOf w.num) [] }

theorem ungrouped_num (r : Region) (all : List Warp) (w : Warp) : (ungrouped r all w).num = w.num := by
  unfold ungrouped
  dsimp only
  rw [gatherLanes_num]

/-- The warps of a block that are members of a region. -/
def Block.membersOf (b : Block) (r : Region) : List Warp := b.warps.filter fun w => r.members.contains w.num

theorem ungroupDone_eq (hb : s.block? bid = some b) {r : Region}
    (hr : b.regions.find? (fun q => q.core == core && q.pitch == pitch) = some r) :
    s.ungroupDone bid core pitch =
      if (b.membersOf r).filter Warp.live != [] && ((b.membersOf r).filter Warp.live).all (fun w => w.wait == .ungroup) &&
          s.calm b ((b.membersOf r).filter Warp.live) then
        (s.leave b ((b.membersOf r).filter Warp.live)).modBlock bid (Block.rejoin
          (fun l => l.filter fun q => !(q.core == core && q.pitch == pitch))
          (((b.membersOf r).filter Warp.live).map (ungrouped r (b.membersOf r))))
      else s := by
  rw [State.ungroupDone, hb] <;> dsimp only <;> rw [hr] <;> rfl

theorem live_membersOf (b : Block) (r : Region) :
    (b.membersOf r).filter Warp.live = b.warps.filter fun w => r.members.contains w.num && !w.exited := by
  rw [Block.membersOf, List.filter_filter]
  refine congrArg (fun p => b.warps.filter p) (funext fun w => ?_)
  rw [Warp.live, Bool.and_comm]

theorem idxOf_of_getElem? {l : List Nat} (hn : l.Nodup) {j n : Nat} (h : l[j]? = some n) : l.idxOf n = j := by
  obtain ⟨hj, rfl⟩ := List.getElem?_eq_some_iff.1 h
  exact hn.idxOf_getElem j hj

/-- What a warp that leaves its region is: its own scalar state, the mask it had at the regroup, and its own lanes. -/
theorem ungrouped_facts (hn : (b.warps.map (·.num)).Nodup) {r : Region} (hm : r.members.Nodup)
    (ht : r.table.length = r.members.length) {j : Nat} (hj : r.members[j]? = some w.num) :
    (ungrouped r (b.membersOf r) w).region = none ∧ (ungrouped r (b.membersOf r) w).wait = .none ∧
    (ungrouped r (b.membersOf r) w).active = r.masks.getD j 0 ∧ (ungrouped r (b.membersOf r) w).masks = r.mstacks.getD j [] ∧
    sameScalars (ungrouped r (b.membersOf r) w) w ∧ (ungrouped r (b.membersOf r) w).v.length = w.v.length ∧
    ∀ (l i : Nat), ∀ x ∈ b.warps, l < 32 → r.members[i]? = some x.num → (r.table.getD i []).getD l 0 = w.num →
      (∀ k, k < r.members.length → (r.table.getD k []).getD l 0 = w.num → k = i) → sameLane (ungrouped r (b.membersOf r) w) x l := by
  have hidx := idxOf_of_getElem? hm hj
  refine ⟨rfl, rfl, ?_, ?_, ⟨rfl, rfl, rfl, rfl, rfl, rfl, rfl, rfl, rfl⟩,
    length_gatherLanes (b.membersOf r) w (laneBack r w.num), fun l i x hx hl hi hh hu => ?_⟩
  · rw [ungrouped, hidx]
  · rw [ungrouped, hidx]
  · have hall : x ∈ b.membersOf r :=
      List.mem_filter.2 ⟨hx, List.contains_iff_mem.2 (List.mem_of_getElem? hi)⟩
    have hnd : ((b.membersOf r).map (·.num)).Nodup := hn.sublist (List.filter_sublist.map _)
    exact sameLane_of_eq (u := gatherLanes (b.membersOf r) w (laneBack r w.num)) rfl rfl rfl
      (sameLane_gatherLanes hnd hall hl (laneBack_eq ht hi hh hu))

theorem ungroupCompletes_holds : UngroupCompletes := by
  intro s bid core pitch b r hb hn hr hm ht
  dsimp only
  have heq := ungroupDone_eq hb hr
  rw [live_membersOf] at heq
  have hmem : ∀ w ∈ b.warps.filter (fun w => r.members.contains w.num && !w.exited), w ∈ b.warps := fun w hw => (List.mem_filter.1 hw).1
  have hnd : ((b.warps.filter fun w => r.members.contains w.num && !w.exited).map (·.num)).Nodup :=
    hn.sublist (List.filter_sublist.map _)
  generalize (b.warps.filter fun w => r.members.contains w.num && !w.exited) = live at *
  have hcond : (live != [] && live.all (fun w => w.wait == .ungroup) && s.calm b live) = true ↔
      live ≠ [] ∧ (∀ w ∈ live, w.wait = .ungroup) ∧ s.calm b live = true := by
    rw [Bool.and_eq_true, Bool.and_eq_true, bne_iff_ne, List.all_eq_true, and_assoc]
    simp only [beq_iff_eq]
  rw [← hcond]
  refine ⟨?_, fun hc => heq.trans (if_neg hc), fun hc => ?_⟩
  · rw [heq]
    split
    · exact sameMemory_rejoin _ _ _
    · exact fun _ => rfl
  rw [heq, if_pos hc]
  have hnums : (live.map (ungrouped r (b.membersOf r))).map (·.num) = live.map (·.num) := by
    rw [List.map_map]
    exact List.map_congr_left fun w _ => ungrouped_num r _ w
  refine ⟨fun j w hw hj => ⟨ungrouped r (b.membersOf r) w, ?_, ungrouped_facts hn hm ht hj⟩, fun w hw hl => ?_, _,
    block?_rejoin hb _ _ _, ?_⟩
  · rw [warp?_rejoin hb hn _ _ _ (hmem w hw), replacedBy_of_mem (by rw [hnums]; exact hnd) (List.mem_map_of_mem hw)
      (ungrouped_num r _ w)]
  · rw [warp?_rejoin hb hn _ _ _ hw, replacedBy_of_not_mem]
    rw [hnums]
    intro hin
    obtain ⟨x, hx, hxw⟩ := List.mem_map.1 hin
    exact hl (List.inj_on_of_nodup_map hn (hmem x hx) hw hxw ▸ hx)
  · refine List.find?_eq_none.2 fun q hq hc => ?_
    have := (List.mem_filter.1 hq).2
    rw [hc] at this
    exact Bool.false_ne_true this

end
end Sys2Proof.Machine

namespace Sys2Proof.Machine
open Sys2Proof.Claims

-- Spills of the mask stack (R136, R260).

theorem length_entryBytes (e : MaskEntry) : e.bytes.length = 8 := by
  rw [MaskEntry.bytes, List.length_append, length_leBytes, length_leBytes]

theorem ofNat_leNat_leBytes (x : Mask) : BitVec.ofNat 32 (leNat (leBytes 4 x.toNat)) = x := by
  have hx : x.toNat % 256 ^ 4 = x.toNat := Nat.mod_eq_of_lt x.isLt
  rw [leNat_leBytes_mod, hx, BitVec.ofNat_toNat, BitVec.setWidth_eq]

theorem ofBytes_bytes (e : MaskEntry) : MaskEntry.ofBytes e.bytes = e := by
  have h4 : (leBytes 4 e.saved.toNat).length = 4 := length_leBytes 4 _
  rw [MaskEntry.ofBytes, MaskEntry.bytes, List.take_left' h4, List.drop_left' h4, ofNat_leNat_leBytes, ofNat_leNat_leBytes]

section
variable {s t u : State} {c : Issue} {bl : Block} {w : Warp} {k : Bank} {g : Guard} {n : Nat} {ls : List Loc}

/-- An access of a spill that passes its checks goes to tile memory or to a tensor of this module. -/
theorem addrOf_of_spillCheck {write : Bool} {off : Nat} {l : Loc} (h : s.spillCheck bl w write off = .ok l) :
    (∃ k c o, l = .tmem k c o) ∨ ∃ base o, l = .tensor base o := by
  unfold State.spillCheck at h
  split at h
  · cases h
  next r hr =>
    split at h
    · cases h
    next hkind =>
      have hl : l = r.locate bl w off := by
        repeat' split at h
        all_goals cases h
        all_goals rfl
      have h2 : r.kind = 0 ∨ r.kind = 1 := by omega
      rw [hl, Record.locate]
      rcases h2 with h0 | h1
      · exact .inr ⟨_, _, if_pos h0⟩
      · left
        rw [if_neg (by omega), if_pos h1]
        exact ⟨_, _, _, rfl⟩

theorem mem_of_spillLocs {l : List (Except Nat Loc)} : ∀ {ls : List Loc}, spillLocs l = .ok ls → l = ls.map .ok := by
  induction l with
  | nil => intro ls h; cases h; rfl
  | cons a l ih =>
    intro ls h
    cases a with
    | error e => cases h
    | ok x =>
      unfold spillLocs at h
      split at h
      · cases h
      next xs hxs =>
        cases h
        rw [List.map_cons, ← ih hxs]

theorem State.spill_runs {write : Bool} {offs : List Nat} {f : List Loc → State → State}
    (h : spillLocs (offs.map (s.spillCheck bl w write)) = .ok ls) (ha : ls.any s.absent = false) :
    s.spill c bl w write offs f = f ls s := by
  rw [State.spill, h]
  exact if_neg (by rw [ha]; exact Bool.false_ne_true)

/-- The accesses of a spill are as many as its offsets, each here. -/
theorem spillLocs_facts {write : Bool} {f : Nat → Nat} (h : spillLocs ((List.range n).map fun i => s.spillCheck bl w write (f i)) = .ok ls) :
    ls.length = n ∧ ∀ l ∈ ls, (∃ k c o, l = .tmem k c o) ∨ ∃ base o, l = .tensor base o := by
  have hm := mem_of_spillLocs h
  refine ⟨?_, fun l hl => ?_⟩
  · have := congrArg List.length hm
    simpa using this.symm
  · obtain ⟨i, -, hi⟩ := List.mem_map.1 (hm ▸ List.mem_map_of_mem (f := Except.ok) hl)
    exact addrOf_of_spillCheck hi

-- What a spill access leaves.

/-- `t` has the tables of `s` and its warps their program banks. -/
def State.Spilt (s t : State) : Prop :=
  t.tensors = s.tensors ∧ ∀ n m, (t.warp? n m).map Warp.bank = (s.warp? n m).map Warp.bank

theorem State.Spilt.refl (s : State) : s.Spilt s := ⟨rfl, fun _ _ => rfl⟩

theorem State.Spilt.trans (h : s.Spilt t) (h' : t.Spilt u) : s.Spilt u :=
  ⟨h'.1.trans h.1, fun n m => (h'.2 n m).trans (h.2 n m)⟩

theorem State.Spilt.addrOf (h : s.Spilt t) (l : Loc) : t.addrOf l = s.addrOf l := by
  cases l with
  | tmem k c o => rfl
  | tensor base off =>
    rw [State.addrOf, State.addrOf, State.tensorAddr, State.tensorAddr, State.entryOf, State.entryOf, State.tensor?, State.tensor?, h.1]
  | peer p base off => rfl

theorem warp?_of_blocks (h : t.blocks = s.blocks) (n m : Nat) : t.warp? n m = s.warp? n m := by
  unfold State.warp? State.block?
  rw [h]

theorem State.Counted.spilt (h : s.Counted t) : s.Spilt t := ⟨h.tensors, fun n m => by rw [warp?_of_blocks h.blocks]⟩

theorem State.spilt_modWarp {f : Warp → Warp} (hf : ∀ w, (f w).num = w.num) (hb : ∀ w, (f w).bank = w.bank) (n m : Nat) :
    s.Spilt (s.modWarp n m f) := by
  refine ⟨rfl, fun i j => ?_⟩
  rw [State.warp?_modWarp s n m i j f hf, Option.map_map]
  congr 1
  funext x
  dsimp only [Function.comp]
  split
  · exact hb x
  · rfl

theorem State.noteStore_frame (s : State) (a n : Nat) :
    s.noteStore a n = { s with issue := (s.noteStore a n).issue, blocks := (s.noteStore a n).blocks } := by
  unfold State.noteStore
  split <;> rfl

/-- Stores of word `u` that operations of the matrix unit need not see, the bytes before them `old`. -/
def Warp.noted (u a : Nat) (old : List Byte) (w : Warp) : Warp := { w with unready := w.unready ++ [(u, a, old)] }

theorem State.noteStore_of (hc : s.issue = some c) (a n : Nat) : ∃ x old, s.noteStore a n =
    ({ s with issue := x } : State).modWarp c.block c.warp (Warp.noted c.uid a old) := by
  rw [State.noteStore, hc]
  exact ⟨_, _, rfl⟩

theorem State.spilt_noteStore (s : State) (a n : Nat) : s.Spilt (s.noteStore a n) := by
  cases hc : s.issue with
  | none =>
    rw [State.noteStore, hc]
    exact .refl s
  | some c =>
    obtain ⟨x, old, h⟩ := State.noteStore_of hc a n
    rw [h]
    exact State.Spilt.trans (t := { s with issue := x }) ⟨rfl, fun _ _ => rfl⟩
      (State.spilt_modWarp (f := Warp.noted c.uid a old) (fun _ => rfl) (fun _ => rfl) c.block c.warp)

theorem State.writeHome_warp? (s : State) (a : Nat) (bs : List Byte) (n m : Nat) : (s.writeHome a bs).warp? n m = s.warp? n m := by
  have hb : (s.writeHome a bs).blocks.find? (fun b => b.bid == n) = _ := find?_map_all Block.bid _ (fun b => ?_) s.blocks n
  · unfold State.warp? State.block?
    rw [hb]
    cases s.blocks.find? fun b => b.bid == n with
    | none => rfl
    | some b =>
      dsimp only [Option.map_some, Option.bind_some]
      split <;> rfl
  · split <;> rfl

theorem State.spilt_writeHome (s : State) (a : Nat) (bs : List Byte) : s.Spilt (s.writeHome a bs) :=
  ⟨rfl, fun n m => by rw [State.writeHome_warp?]⟩

theorem State.counted_spillCount (s : State) (b : Block) (w : Warp) (l : Loc) : s.Counted (s.spillCount b w l) := by
  unfold State.spillCount
  split
  · exact (s.counted_countMeter _ _).trans (State.counted_countAccess _ _ _ _)
  · exact .refl s

/-- A spill access to a frame of a known meter counts 8 bytes. -/
theorem State.meterVal_spillCount {r : Record} {base off j : Nat} {m : Meter} (hr : (s.pool bl)[w.spillRec]? = some r)
    (hj : s.meterOf bl r off = some j) (hm : s.rainfly.meters.find? (fun m => m.region == j) = some m) :
    (s.spillCount bl w (.tensor base off)).meterVal j = min (2 ^ 64 - 1) (m.value + 8) := by
  unfold State.spillCount
  rw [hr]
  dsimp only
  rw [State.meterVal_countAccess, hj, State.meterVal_countMeter hm]
  rfl

/-- What one store of a spill leaves: its bytes at their address. -/
theorem spillStore_facts (s : State) (b : Block) (w : Warp) {l : Loc} (hl : (∃ k c o, l = .tmem k c o) ∨ ∃ base o, l = .tensor base o)
    (bs : List Byte) : (s.spillStore b w l bs).mem = s.mem.writeBytes (s.addrOf l) bs ∧ s.Spilt (s.spillStore b w l bs) := by
  have hstored : ∀ a, ((s.noteStore a bs.length).writeHome a bs).mem = s.mem.writeBytes a bs := fun a => by
    rw [← State.noteStore_mem s a bs.length]
    rfl
  have hspilt : ∀ a, s.Spilt ((s.noteStore a bs.length).writeHome a bs) := fun a =>
    (s.spilt_noteStore a bs.length).trans (State.spilt_writeHome _ a bs)
  rcases hl with ⟨k, c, o, rfl⟩ | ⟨base, o, rfl⟩
  · exact ⟨hstored _, (hspilt _).trans ⟨rfl, fun _ _ => rfl⟩⟩
  · have hc := State.counted_spillCount ((s.noteStore (s.tensorAddr base o) bs.length).writeHome (s.tensorAddr base o) bs) b w
      (.tensor base o)
    exact ⟨hc.mem.trans (hstored _), (hspilt _).trans hc.spilt⟩

/-- The stores of a spill, in order. -/
theorem foldl_spillStore (s0 : State) (l : List (Loc × MaskEntry)) : ∀ {s : State}, s0.Spilt s →
    (∀ p ∈ l, (∃ k c o, p.1 = .tmem k c o) ∨ ∃ base o, p.1 = .tensor base o) →
    (l.foldl (fun s p => s.spillStore bl w p.1 p.2.bytes) s).mem = s.mem.writeEach (fun p => s0.addrOf p.1) (fun p => p.2.bytes) l ∧
    s0.Spilt (l.foldl (fun s p => s.spillStore bl w p.1 p.2.bytes) s) := by
  induction l with
  | nil => intro s hs _; exact ⟨rfl, hs⟩
  | cons p l ih =>
    intro s hs hl
    obtain ⟨hp, hl⟩ := List.forall_mem_cons.1 hl
    obtain ⟨hm, hsp⟩ := spillStore_facts s bl w hp p.2.bytes
    obtain ⟨hmem, hspilt⟩ := ih (hs.trans hsp) hl
    refine ⟨hmem.trans ?_, hspilt⟩
    rw [hm, hs.addrOf]
    rfl

/-- A program's bank changed: its mask stack and the spill offset. -/
theorem State.warp?_setBankMasks (hw : s.warp? c.block c.warp = some w) (hk : w.bank = some k) (l : List MaskEntry) (off : Word64) :
    (s.setBankMasks c l off).warp? c.block c.warp = some { w with bank := some { k with masks := l }, spillOff := off } := by
  have h := State.warp?_modWarp_self hw
    (f := fun w => { w with bank := w.bank.map fun k => { k with masks := l }, spillOff := off }) fun _ => rfl
  rw [hk] at h
  exact h

theorem State.bank_of_spilt (h : s.Spilt t) {n m : Nat} (hw : s.warp? n m = some w) (hk : w.bank = some k) :
    ∃ v, t.warp? n m = some v ∧ v.bank = some k := by
  have hb := h.2 n m
  rw [hw, Option.map_some, hk] at hb
  exact Option.map_eq_some_iff.1 hb

/-- What counts a spill's stores: with one store to a frame of a known meter, 8 bytes on it. -/
theorem meterVal_spillStores {r : Record} {base off j : Nat} {m : Meter} (l : List MaskEntry) (hl : l ≠ [])
    (hr : (s.pool bl)[w.spillRec]? = some r) (hj : s.meterOf bl r off = some j)
    (hm : s.rainfly.meters.find? (fun m => m.region == j) = some m) :
    (([Loc.tensor base off].zip l).foldl (fun s p => s.spillStore bl w p.1 p.2.bytes) s).meterVal j =
      min (2 ^ 64 - 1) (m.value + 8) := by
  cases l with
  | nil => exact absurd rfl hl
  | cons e l =>
    rw [List.zip_cons_cons, List.zip_nil_left, List.foldl_cons, List.foldl_nil, State.spillStore]
    refine State.meterVal_spillCount (r := r) ?_ ?_ ?_
    · rw [State.noteStore_frame]
      exact hr
    · rw [State.noteStore_frame]
      exact hj
    · rw [State.noteStore_frame]
      exact hm

theorem warp?_issuing (hi : Issuing s c bl w) : s.warp? c.block c.warp = some w := by
  obtain ⟨-, hb, hw⟩ := hi
  rw [State.warp?, hb]
  exact hw

-- Fills.

theorem State.Counted.hotBytes (h : s.Counted t) (who : Option (Nat × Nat)) (id : Nat) : t.hotBytes who id = s.hotBytes who id := by
  rw [h]
  rfl

theorem State.Counted.uid (h : s.Counted t) : t.uid = s.uid := by rw [h]

/-- One access of `mfill`. -/
def State.fillStep (c : Issue) (b : Block) (w : Warp) (q : List MaskEntry × State) (l : Loc) : List MaskEntry × State :=
  let p := q.2.lookup (some (c.block, c.warp)) q.2.uid c.stores (q.2.addrOf l) 8
  (q.1 ++ [MaskEntry.ofBytes p.1], p.2.spillCount b w l)

theorem fillStep_cool (hc : s.Counted u) (hst : c.stores = []) {l : Loc}
    (hcool : ∀ j, j < 8 → s.addrOf l + j ∉ s.hotBytes (some (c.block, c.warp)) s.uid) (acc : List MaskEntry) :
    State.fillStep c bl w (acc, u) l = (acc ++ [MaskEntry.ofBytes (s.mem.readBytes (s.addrOf l) 8)], u.spillCount bl w l) := by
  have hcool' : ∀ j, j < 8 → s.addrOf l + j ∉ u.hotBytes (some (c.block, c.warp)) u.uid := by
    rw [hc.hotBytes, hc.uid]
    exact hcool
  have hread : (List.range 8).map (fun i => oldByte [] u.mem (s.addrOf l + i)) = s.mem.readBytes (s.addrOf l) 8 := by
    rw [Memory.readBytes_eq, hc.mem]
    rfl
  rw [State.fillStep]
  dsimp only
  rw [hc.spilt.addrOf, State.lookup_of_cool c.stores hcool', hst, hread]

theorem foldl_fillStep (hst : c.stores = []) (ls : List Loc) : ∀ {u : State} {acc : List MaskEntry}, s.Counted u →
    (∀ l ∈ ls, ∀ j, j < 8 → s.addrOf l + j ∉ s.hotBytes (some (c.block, c.warp)) s.uid) →
    ls.foldl (State.fillStep c bl w) (acc, u) =
      (acc ++ ls.map (fun l => MaskEntry.ofBytes (s.mem.readBytes (s.addrOf l) 8)), ls.foldl (fun u l => u.spillCount bl w l) u) := by
  induction ls with
  | nil => intro u acc _ _; rw [List.map_nil, List.append_nil]; rfl
  | cons l ls ih =>
    intro u acc hc hl
    obtain ⟨h, hl⟩ := List.forall_mem_cons.1 hl
    rw [List.foldl_cons, fillStep_cool hc hst h, ih (hc.trans (State.counted_spillCount ..)) hl, List.append_assoc]
    rfl

-- The two operations.

theorem exec_mspill (hi : Issuing s c bl w) (hg : qGuard w g = true) (hk : w.bank = some k) (hn : n ≤ k.masks.length)
    (hl : spillLocs ((List.range n).map fun i => s.spillCheck bl w true (w.spillOff + BitVec.ofNat 64 (8 * i)).toNat) = .ok ls)
    (ha : ls.any s.absent = false) :
    exec (.mspill g n) s = .next (((ls.zip k.masks).foldl (fun s p => s.spillStore bl w p.1 p.2.bytes) s).setBankMasks c
      (k.masks.drop n) (w.spillOff + BitVec.ofNat 64 (8 * n))) := by
  have ht : s.trapOf c bl w (.mspill g n) = none := by simp [State.trapOf, hk, hn]
  dsimp only [exec, execMspill]
  rw [uniOp_runs hi hg ht, hk]
  exact congrArg Host.Outcome.next (State.spill_runs (by rw [List.map_map]; exact hl) ha)

theorem exec_mfill (hi : Issuing s c bl w) (hg : qGuard w g = true) (hk : w.bank = some k) (hn : k.masks.length + n ≤ 16)
    (hl : spillLocs ((List.range n).map fun i =>
      s.spillCheck bl w false (w.spillOff - BitVec.ofNat 64 (8 * n) + BitVec.ofNat 64 (8 * i)).toNat) = .ok ls)
    (ha : ls.any s.absent = false) :
    exec (.mfill g n) s = .next ((ls.foldl (State.fillStep c bl w) ([], s)).2.setBankMasks c
      ((ls.foldl (State.fillStep c bl w) ([], s)).1 ++ k.masks) (w.spillOff - BitVec.ofNat 64 (8 * n))) := by
  have ht : s.trapOf c bl w (.mfill g n) = none := by simp [State.trapOf, hk, hn]
  dsimp only [exec, execMfill]
  rw [uniOp_runs hi hg ht, hk]
  exact congrArg Host.Outcome.next (State.spill_runs (by rw [List.map_map]; exact hl) ha)

/-- The entries a spill stores stand at their addresses, and no other byte changes. -/
theorem spillStores_bytes (hlen : ls.length = n) (hn : n ≤ k.masks.length) (hpw : (ls.map s.addrOf).Pairwise fun x y => x + 8 ≤ y ∨ y + 8 ≤ x)
    (hwf : s.mem.wf = true) {m : Memory}
    (hm : m = s.mem.writeEach (fun p : Loc × MaskEntry => s.addrOf p.1) (fun p => p.2.bytes) (ls.zip k.masks)) :
    (∀ (i : Nat) (l : Loc) (e : MaskEntry), ls[i]? = some l → k.masks[i]? = some e → m.readBytes (s.addrOf l) 8 = e.bytes) ∧
    ∀ a, (∀ l ∈ ls, a < s.addrOf l ∨ s.addrOf l + 8 ≤ a) → m.read a = s.mem.read a := by
  have hzip : (ls.zip k.masks).map Prod.fst = ls := List.map_fst_zip (by omega)
  have hpw' : ((ls.zip k.masks).map (s.addrOf ∘ Prod.fst)).Pairwise fun x y => x + 8 ≤ y ∨ y + 8 ≤ x := by
    rw [← List.map_map, hzip]
    exact hpw
  subst hm
  refine ⟨fun i l e hli hei => ?_, fun a hfar => ?_⟩
  · have hp : (l, e) ∈ ls.zip k.masks := List.mem_of_getElem? (List.getElem?_zip_eq_some.2 ⟨hli, hei⟩)
    exact Memory.readBytes_writeEach (addr := s.addrOf ∘ Prod.fst) (fun p : Loc × MaskEntry => length_entryBytes p.2) _ hwf hpw' _ hp
  · refine Memory.read_writeEach_other (addr := fun p : Loc × MaskEntry => s.addrOf p.1) (bs := fun p => p.2.bytes) (n := 8)
      (fun p => length_entryBytes p.2) (ls.zip k.masks) hwf fun p hp => ?_
    exact hfar p.1 (List.of_mem_zip (a := p.1) (b := p.2) hp).1

theorem State.setBankMasks_keeps (s : State) (c : Issue) (l : List MaskEntry) (off : Word64) :
    (s.setBankMasks c l off).mem = s.mem ∧ ∀ j, (s.setBankMasks c l off).meterVal j = s.meterVal j := ⟨rfl, fun _ => rfl⟩

/-- What is counted on the meter of the one frame a spill of one entry reaches. -/
def SpillCounts (s : State) (bl : Block) (w : Warp) (ls : List Loc) (t : State) : Prop :=
  ∀ r base off j m, ls = [.tensor base off] → (s.pool bl)[w.spillRec]? = some r → s.meterOf bl r off = some j →
    s.rainfly.meters.find? (fun m => m.region == j) = some m → t.meterVal j = min (2 ^ 64 - 1) (m.value + 8)

theorem mspill_facts (hi : Issuing s c bl w) (hg : qGuard w g = true) (hk : w.bank = some k) (hn : n ≤ k.masks.length)
    (hl : spillLocs ((List.range n).map fun i => s.spillCheck bl w true (w.spillOff + BitVec.ofNat 64 (8 * i)).toNat) = .ok ls)
    (ha : ls.any s.absent = false) (hpw : (ls.map s.addrOf).Pairwise fun x y => x + 8 ≤ y ∨ y + 8 ≤ x) (hwf : s.mem.wf = true) :
    ∃ t v, exec (.mspill g n) s = .next t ∧ t.warp? c.block c.warp = some v ∧
      v.bank = some { k with masks := k.masks.drop n } ∧ v.spillOff = w.spillOff + BitVec.ofNat 64 (8 * n) ∧ SpillCounts s bl w ls t ∧
      (∀ (i : Nat) (l : Loc) (e : MaskEntry), ls[i]? = some l → k.masks[i]? = some e → t.mem.readBytes (s.addrOf l) 8 = e.bytes) ∧
      ∀ a, (∀ l ∈ ls, a < s.addrOf l ∨ s.addrOf l + 8 ≤ a) → t.mem.read a = s.mem.read a := by
  obtain ⟨hlen, hhere⟩ := spillLocs_facts hl
  have hex := exec_mspill hi hg hk hn hl ha
  obtain ⟨hmem, hspilt⟩ := foldl_spillStore (bl := bl) (w := w) s (ls.zip k.masks) (State.Spilt.refl s)
    fun p hp => hhere p.1 (List.of_mem_zip (a := p.1) (b := p.2) hp).1
  have hcount : SpillCounts s bl w ls ((ls.zip k.masks).foldl (fun s p => s.spillStore bl w p.1 p.2.bytes) s) := by
    rintro r base off j m rfl hr hj hm
    refine meterVal_spillStores k.masks (fun h => ?_) hr hj hm
    rw [h] at hn
    simp only [List.length_singleton, List.length_nil] at hlen hn
    omega
  generalize (ls.zip k.masks).foldl (fun s p => s.spillStore bl w p.1 p.2.bytes) s = u at hex hmem hspilt hcount
  obtain ⟨v, hv, hvk⟩ := State.bank_of_spilt hspilt (warp?_issuing hi) hk
  exact ⟨_, _, hex, State.warp?_setBankMasks hv hvk _ _, rfl, rfl, hcount, spillStores_bytes hlen hn hpw hwf hmem⟩

theorem mfill_facts (hi : Issuing s c bl w) (hg : qGuard w g = true) (hk : w.bank = some k) (hn : k.masks.length + n ≤ 16)
    (hl : spillLocs ((List.range n).map fun i =>
      s.spillCheck bl w false (w.spillOff - BitVec.ofNat 64 (8 * n) + BitVec.ofNat 64 (8 * i)).toNat) = .ok ls)
    (ha : ls.any s.absent = false) (hst : c.stores = [])
    (hcool : ∀ l ∈ ls, ∀ j, j < 8 → s.addrOf l + j ∉ s.hotBytes (some (c.block, c.warp)) s.uid) :
    ∃ t v, exec (.mfill g n) s = .next t ∧ t.warp? c.block c.warp = some v ∧
      v.bank = some { k with masks := (ls.map fun l => MaskEntry.ofBytes (s.mem.readBytes (s.addrOf l) 8)) ++ k.masks } ∧
      v.spillOff = w.spillOff - BitVec.ofNat 64 (8 * n) ∧ SpillCounts s bl w ls t ∧ SameMemory s t := by
  have hfold := foldl_fillStep (bl := bl) (w := w) hst ls (acc := []) (State.Counted.refl s) hcool
  have hcount : s.Counted (ls.foldl (fun u l => u.spillCount bl w l) s) :=
    State.Counted.foldl (fun u l => State.counted_spillCount u bl w l) ls s
  have hex := exec_mfill hi hg hk hn hl ha
  rw [hfold, List.nil_append] at hex
  refine ⟨_, _, hex, State.warp?_setBankMasks ((warp?_of_blocks hcount.blocks _ _).trans (warp?_issuing hi)) hk _ _, rfl, rfl, ?_, fun a => ?_⟩
  · rintro r base off j m rfl hr hj hm
    rw [(State.setBankMasks_keeps _ _ _ _).2]
    exact State.meterVal_spillCount hr hj hm
  · rw [(State.setBankMasks_keeps _ _ _ _).1, hcount.mem]

theorem maskSpills_holds : MaskSpills := by
  intro s c bl w k g n ls hi hg hk
  refine ⟨fun hn hl ha hpw hwf => mspill_facts hi hg hk hn hl ha hpw hwf, fun hn hl ha hst hcool => mfill_facts hi hg hk hn hl ha hst hcool,
    fun hcl => ⟨fun hn => ?_, fun hn => ?_⟩, ofBytes_bytes⟩
  · exact traps_of_trapOf hi rfl hcl (by simp [State.trapOf, hg, hk, hn])
  · exact traps_of_trapOf hi rfl hcl (by simp [State.trapOf, hg, hk, hn])

end
end Sys2Proof.Machine

namespace Sys2Proof.Machine
open Sys2Proof.Claims

/-- Settles O17: operations on masks through what they do to the word in issue, regroups and ungroups through the lanes their warps gather,
spills through their stores and reads in order. -/
theorem masksAndRegroups : Obligations.MasksAndRegroups :=
  ⟨maskStack_holds, regrouping_holds, regroupCompletes_holds, ungroupCompletes_holds, maskSpills_holds⟩

end Sys2Proof.Machine

end

section
/-! SUPPORT. Values of codes, exact arithmetic and rounding (O46, O20). -/

namespace Sys2Proof.Machine
open Sys2Proof.Claims

-- Magnitudes of codes (R100, R102, R103).

/-- The value of the last place of the codes whose exponent field is at most `k + 1`. -/
def ulp (man bias k : Nat) : ℚ := (2 : ℚ) ^ ((k : ℤ) + 1 - bias - man)

theorem ulp_pos (man bias k : Nat) : 0 < ulp man bias k := zpow_pos (by norm_num) _

theorem ulp_succ (man bias k : Nat) : ulp man bias (k + 1) = 2 * ulp man bias k := by
  rw [ulp, ulp, Nat.cast_succ, show ((k : ℤ) + 1 + 1 - bias - man) = 1 + ((k : ℤ) + 1 - bias - man) by ring,
    zpow_add₀ (by norm_num), zpow_one]

/-- The magnitude of a code is its significand times the last place: `q` stands for a fraction or, with its leading 1, for a
normal significand. -/
theorem floatMag_sig (man bias : Nat) {k q : Nat} (hq : q < 2 ^ (man + 1)) (hk : k = 0 ∨ 2 ^ man ≤ q) :
    floatMag man bias (k * 2 ^ man + q) = q * ulp man bias k := by
  have hm : (2 : ℚ) ^ man ≠ 0 := pow_ne_zero _ (by norm_num)
  have hpos : 0 < 2 ^ man := Nat.two_pow_pos man
  have hunit : ∀ j : ℤ, (2 : ℚ) ^ (j - man) * 2 ^ man = 2 ^ j := fun j => by
    rw [← zpow_natCast, ← zpow_add₀ (by norm_num)]
    congr 1
    ring
  rw [Nat.pow_succ] at hq
  unfold floatMag
  split
  next hc =>
    have hk0 : k = 0 := by
      rcases hk with h | h
      · exact h
      · exact absurd hc (by omega)
    subst hk0
    rw [Nat.zero_mul, Nat.zero_add, ulp, Nat.cast_zero, zero_add, ← hunit]
    field_simp
  next hc =>
    have hq' : 2 ^ man ≤ q := by
      rcases hk with rfl | h
      · omega
      · exact h
    obtain ⟨f, rfl⟩ := Nat.exists_eq_add_of_le hq'
    have hc' : k * 2 ^ man + (2 ^ man + f) = 2 ^ man * (k + 1) + f := by ring
    have hf : f < 2 ^ man := by omega
    rw [hc', Nat.mul_add_mod, Nat.mod_eq_of_lt hf, Nat.mul_add_div hpos, Nat.div_eq_of_lt hf, Nat.add_zero, ulp]
    push_cast
    rw [← hunit]
    field_simp

/-- The last place below the top of a binade is that above it. -/
theorem floatMag_next (man bias : Nat) {k q : Nat} (hq : q < 2 ^ (man + 1)) (hk : k = 0 ∨ 2 ^ man ≤ q) :
    floatMag man bias (k * 2 ^ man + q + 1) = (q + 1) * ulp man bias k := by
  rcases Nat.lt_or_ge (q + 1) (2 ^ (man + 1)) with h | h
  · rw [Nat.add_assoc, floatMag_sig man bias h (hk.imp_right fun h => h.trans (Nat.le_succ q))]
    push_cast
    ring
  · have hq1 : q + 1 = 2 ^ man + 2 ^ man := by rw [Nat.pow_succ] at *; omega
    have hcode : k * 2 ^ man + q + 1 = (k + 1) * 2 ^ man + 2 ^ man := by rw [Nat.add_assoc, hq1]; ring
    have hcast : ((q : ℚ) + 1) = 2 ^ man + 2 ^ man := by exact_mod_cast hq1
    rw [hcode, floatMag_sig man bias (Nat.pow_lt_pow_right (by decide) (Nat.lt_succ_self man)) (.inr le_rfl), ulp_succ, hcast]
    push_cast
    ring

/-- Every code is a significand in its binade. -/
theorem code_eq_sig (man c : Nat) : ∃ k q, c = k * 2 ^ man + q ∧ q < 2 ^ (man + 1) ∧ (k = 0 ∨ 2 ^ man ≤ q) := by
  have hpos : 0 < 2 ^ man := Nat.two_pow_pos man
  have hd := Nat.div_add_mod c (2 ^ man)
  have hm := Nat.mod_lt c hpos
  rw [Nat.pow_succ]
  cases he : c / 2 ^ man with
  | zero => exact ⟨0, c, by omega, by rw [he] at hd; omega, .inl rfl⟩
  | succ k =>
    refine ⟨k, 2 ^ man + c % 2 ^ man, ?_, by omega, .inr (Nat.le_add_right ..)⟩
    rw [he, Nat.mul_succ, Nat.mul_comm] at hd
    omega

theorem floatMag_lt_succ (man bias c : Nat) : floatMag man bias c < floatMag man bias (c + 1) := by
  obtain ⟨k, q, rfl, hq, hk⟩ := code_eq_sig man c
  rw [floatMag_sig man bias hq hk, floatMag_next man bias hq hk, add_mul, one_mul]
  exact lt_add_of_pos_right _ (ulp_pos man bias k)

theorem floatMag_strictMono (man bias : Nat) : StrictMono (floatMag man bias) := strictMono_nat_of_lt_succ (floatMag_lt_succ man bias)

theorem floatMag_zero (man bias : Nat) : floatMag man bias 0 = 0 := by
  have h := floatMag_sig man bias (k := 0) (q := 0) (Nat.two_pow_pos _) (.inl rfl)
  rw [Nat.zero_mul] at h
  rw [h, Nat.cast_zero, zero_mul]

-- Places between two magnitudes, and the code a mode picks (R107).

/-- Where `x` stands from `lo` on to `hi`. -/
def Place.At (lo hi x : ℚ) : Place → Prop
  | .exact => lo = x
  | .below => lo < x ∧ x - lo < hi - x
  | .half => lo < x ∧ x - lo = hi - x
  | .above => lo < x ∧ hi - x < x - lo

theorem chooses_pickCode {mag : Nat → ℚ} {rm : Rm} {neg : Bool} {x : ℚ} {a : Nat} {p : Place} (hlo : mag a ≤ x) (hhi : x < mag (a + 1))
    (hp : p.At (mag a) (mag (a + 1)) x) : Chooses mag rm neg x (pickCode rm neg a p) := by
  refine ⟨a, hlo, hhi, ?_⟩
  have hodd : (if a % 2 = 1 then a else a + 1) = a + 1 - a % 2 := by split <;> omega
  have heven : (if a % 2 = 0 then a else a + 1) = a + a % 2 := by split <;> omega
  cases p with
  | exact => exact (if_pos hp).symm
  | below =>
    rw [if_neg hp.1.ne]
    cases rm with
    | rn => exact (if_pos hp.2).symm
    | ro => exact hodd
    | _ => rfl
  | half =>
    rw [if_neg hp.1.ne]
    cases rm with
    | rn => exact heven.trans ((if_neg hp.2.not_lt).trans (if_neg hp.2.not_gt)).symm
    | ro => exact hodd
    | _ => rfl
  | above =>
    rw [if_neg hp.1.ne]
    cases rm with
    | rn => exact ((if_neg hp.2.not_gt).trans (if_pos hp.2)).symm
    | ro => exact hodd
    | _ => rfl

/-- A magnitude between `lo` and `hi` has the place that twice its distance from `lo` gives it. -/
theorem placeOf_at {lo hi x : ℚ} {r d : Nat} {e : Bool} (hlo : lo ≤ x) (he : e = true ↔ lo = x) (hb : r < d ↔ x - lo < hi - x)
    (hh : r = d ↔ x - lo = hi - x) : (placeOf r d e).At lo hi x := by
  unfold placeOf
  split
  next h => exact he.1 h
  next h =>
    have hlt : lo < x := lt_of_le_of_ne hlo fun hc => h (he.2 hc)
    split
    next h2 => exact ⟨hlt, hb.1 h2⟩
    next h2 =>
      split
      next h3 => exact ⟨hlt, hh.1 h3⟩
      next h3 => exact ⟨hlt, lt_of_le_of_ne (not_lt.1 fun hc => h2 (hb.2 hc)) fun hc => h3 (hh.2 hc.symm)⟩

/-- A fraction `num / den` of a unit `u` stands at its whole part, the rest deciding the place. -/
theorem placeOf_fraction {u : ℚ} (hu : 0 < u) {num den : Nat} (hd : 0 < den) :
    ((num / den : Nat) : ℚ) * u ≤ num / den * u ∧ (num : ℚ) / den * u < ((num / den : Nat) + 1) * u ∧
    (placeOf (2 * (num % den)) den (num % den == 0)).At (((num / den : Nat) : ℚ) * u) (((num / den : Nat) + 1) * u) (num / den * u) := by
  have hdq : (0 : ℚ) < den := by exact_mod_cast hd
  have hsplit : (num : ℚ) / den = (num / den : Nat) + ((num % den : Nat) : ℚ) / den := by
    rw [add_div' _ _ _ hdq.ne', div_left_inj' hdq.ne']
    exact_mod_cast (Nat.div_add_mod' num den).symm
  have hr0 : (0 : ℚ) ≤ ((num % den : Nat) : ℚ) / den := by positivity
  have hr1 : ((num % den : Nat) : ℚ) / den < 1 := by
    rw [div_lt_one hdq]
    exact_mod_cast Nat.mod_lt num hd
  rw [hsplit]
  have hlo : ((num / den : Nat) : ℚ) * u ≤ ((num / den : Nat) + ((num % den : Nat) : ℚ) / den) * u :=
    mul_le_mul_of_nonneg_right (le_add_of_nonneg_right hr0) hu.le
  refine ⟨hlo, mul_lt_mul_of_pos_right (by linarith) hu, placeOf_at hlo ?_ ?_ ?_⟩
  · rw [beq_iff_eq, mul_eq_mul_right_iff, or_iff_left hu.ne', left_eq_add, div_eq_zero_iff, or_iff_left hdq.ne', Nat.cast_eq_zero]
  · rw [← sub_mul, ← sub_mul, mul_lt_mul_iff_left₀ hu, add_sub_cancel_left, add_sub_add_left_eq_sub, lt_sub_iff_add_lt, ← two_mul,
      mul_div_assoc', div_lt_one hdq]
    exact_mod_cast Iff.rfl
  · rw [← sub_mul, ← sub_mul, mul_left_inj' hu.ne', add_sub_cancel_left, add_sub_add_left_eq_sub, eq_sub_iff_add_eq, ← two_mul,
      mul_div_assoc', div_eq_one_iff_eq hdq.ne']
    exact_mod_cast Iff.rfl

-- The code of a magnitude (R107).

theorem floorLog_spec {n d : Nat} (hn : 0 < n) (hd : 0 < d) :
    (2 : ℚ) ^ floorLog n d ≤ n / d ∧ (n : ℚ) / d < 2 ^ (floorLog n d + 1) := by
  have hdq : (0 : ℚ) < d := by exact_mod_cast hd
  have hn1 : (2 : ℚ) ^ (Nat.log2 n : ℤ) ≤ n := by
    rw [zpow_natCast]
    exact_mod_cast Nat.log2_self_le hn.ne'
  have hn2 : (n : ℚ) < 2 ^ ((Nat.log2 n : ℤ) + 1) := by
    rw [← Nat.cast_succ, zpow_natCast]
    exact_mod_cast Nat.lt_log2_self
  have hd1 : (2 : ℚ) ^ (Nat.log2 d : ℤ) ≤ d := by
    rw [zpow_natCast]
    exact_mod_cast Nat.log2_self_le hd.ne'
  have hd2 : (d : ℚ) < 2 ^ ((Nat.log2 d : ℤ) + 1) := by
    rw [← Nat.cast_succ, zpow_natCast]
    exact_mod_cast Nat.lt_log2_self
  have h2 : (2 : ℚ) ≠ 0 := by norm_num
  have hpd : (0 : ℚ) < 2 ^ (Nat.log2 d : ℤ) := zpow_pos (by norm_num) _
  have hup : (n : ℚ) / d < 2 ^ ((Nat.log2 n : ℤ) - Nat.log2 d + 1) := by
    rw [show ((Nat.log2 n : ℤ) - Nat.log2 d + 1) = (Nat.log2 n : ℤ) + 1 - Nat.log2 d by ring, zpow_sub₀ h2]
    exact div_lt_div₀ hn2 hd1 (by positivity) hpd
  have hlow : (2 : ℚ) ^ ((Nat.log2 n : ℤ) - Nat.log2 d - 1) ≤ n / d := by
    rw [show ((Nat.log2 n : ℤ) - Nat.log2 d - 1) = (Nat.log2 n : ℤ) - (Nat.log2 d + 1) by ring, zpow_sub₀ h2]
    exact div_le_div₀ (Nat.cast_nonneg n) hn1 hdq hd2.le
  have htest : (if 0 ≤ (Nat.log2 n : ℤ) - Nat.log2 d then decide (d * 2 ^ ((Nat.log2 n : ℤ) - Nat.log2 d).toNat ≤ n)
      else decide (d ≤ n * 2 ^ (-((Nat.log2 n : ℤ) - Nat.log2 d)).toNat)) = true ↔
      (2 : ℚ) ^ ((Nat.log2 n : ℤ) - Nat.log2 d) ≤ n / d := by
    generalize (Nat.log2 n : ℤ) - Nat.log2 d = k
    rw [le_div_iff₀ hdq]
    split
    next h =>
      obtain ⟨j, rfl⟩ := Int.eq_ofNat_of_zero_le h
      rw [decide_eq_true_eq, Int.toNat_natCast, zpow_natCast, mul_comm]
      exact_mod_cast Iff.rfl
    next h =>
      obtain ⟨j, hj⟩ := Int.eq_ofNat_of_zero_le (show 0 ≤ -k by omega)
      rw [decide_eq_true_eq, hj, Int.toNat_natCast, show k = -(j : ℤ) by omega, zpow_neg, zpow_natCast, inv_mul_le_iff₀ (by positivity),
        mul_comm]
      exact_mod_cast Iff.rfl
  unfold floorLog
  dsimp only
  by_cases h : (2 : ℚ) ^ ((Nat.log2 n : ℤ) - Nat.log2 d) ≤ n / d
  · rw [if_pos (htest.2 h)]
    exact ⟨h, hup⟩
  · rw [if_neg fun hc => h (htest.1 hc), sub_add_cancel]
    exact ⟨hlow, lt_of_not_ge h⟩

/-- A fraction scaled by a power of two. -/
theorem scaled_fraction (n d : Nat) (sh : Int) :
    (((if 0 ≤ sh then n * 2 ^ sh.toNat else n : Nat) : ℚ)) / ((if 0 ≤ sh then d else d * 2 ^ (-sh).toNat : Nat) : ℚ) =
      n / d * (2 : ℚ) ^ sh := by
  split
  next h =>
    obtain ⟨j, rfl⟩ := Int.eq_ofNat_of_zero_le h
    rw [Int.toNat_natCast, zpow_natCast]
    push_cast
    ring
  next h =>
    obtain ⟨j, hj⟩ := Int.eq_ofNat_of_zero_le (show 0 ≤ -sh by omega)
    rw [hj, Int.toNat_natCast, show sh = -(j : ℤ) by omega, zpow_neg, zpow_natCast]
    push_cast
    rw [div_mul_eq_div_div]
    ring

/-- The code of a magnitude is the largest at or below it, and the place is between that code and the next. -/
theorem codeOf_spec (f : FF) {n d : Nat} (hd : 0 < d) :
    floatMag f.man f.bias (f.codeOf n d).1 ≤ n / d ∧ (n : ℚ) / d < floatMag f.man f.bias ((f.codeOf n d).1 + 1) ∧
    (f.codeOf n d).2.At (floatMag f.man f.bias (f.codeOf n d).1) (floatMag f.man f.bias ((f.codeOf n d).1 + 1)) (n / d) := by
  unfold FF.codeOf
  split
  next h =>
    subst h
    rw [Nat.cast_zero, zero_div, floatMag_zero]
    refine ⟨le_rfl, ?_, rfl⟩
    have := floatMag_lt_succ f.man f.bias 0
    rwa [floatMag_zero] at this
  next h =>
    have hn : 0 < n := Nat.pos_of_ne_zero h
    obtain ⟨hfl1, hfl2⟩ := floorLog_spec hn hd
    dsimp only
    set e := max (floorLog n d) (1 - (f.bias : Int)) with he
    obtain ⟨k, hk⟩ := Int.eq_ofNat_of_zero_le (show 0 ≤ e - (1 - (f.bias : Int)) by omega)
    have hfrac := scaled_fraction n d ((f.man : Int) - e)
    have hden : 0 < (if 0 ≤ (f.man : Int) - e then d else d * 2 ^ (-((f.man : Int) - e)).toNat) := by
      split
      · exact hd
      · exact Nat.mul_pos hd (Nat.two_pow_pos _)
    generalize (if 0 ≤ (f.man : Int) - e then n * 2 ^ ((f.man : Int) - e).toNat else n) = num at hfrac ⊢
    generalize (if 0 ≤ (f.man : Int) - e then d else d * 2 ^ (-((f.man : Int) - e)).toNat) = den at hfrac hden ⊢
    rw [hk, Int.toNat_natCast]
    have hu : ulp f.man f.bias k = (2 : ℚ) ^ (e - f.man) := by
      rw [ulp]
      congr 1
      omega
    have hx : (n : ℚ) / d = num / den * ulp f.man f.bias k := by
      rw [hfrac, hu, mul_assoc, ← zpow_add₀ (by norm_num), sub_add_sub_cancel, sub_self, zpow_zero, mul_one]
    have hq : num / den < 2 ^ (f.man + 1) := by
      rw [Nat.div_lt_iff_lt_mul hden]
      have h1 : (num : ℚ) / den < 2 ^ (f.man + 1) := by
        have : (2 : ℚ) ^ (floorLog n d + 1) ≤ 2 ^ (e + 1) := zpow_le_zpow_right₀ (by norm_num) (by omega)
        rw [hfrac]
        calc (n : ℚ) / d * 2 ^ ((f.man : ℤ) - e) < 2 ^ (e + 1) * 2 ^ ((f.man : ℤ) - e) :=
              mul_lt_mul_of_pos_right (hfl2.trans_le this) (zpow_pos (by norm_num) _)
          _ = 2 ^ (f.man + 1) := by
              rw [← zpow_add₀ (by norm_num), ← zpow_natCast]
              congr 1
              push_cast
              ring
      rw [div_lt_iff₀ (by exact_mod_cast hden)] at h1
      exact_mod_cast h1
    have hnorm : k = 0 ∨ 2 ^ f.man ≤ num / den := by
      rcases Nat.eq_zero_or_pos k with h0 | h0
      · exact .inl h0
      · right
        have hfe : floorLog n d = e := by omega
        rw [Nat.le_div_iff_mul_le hden]
        have h1 : (2 : ℚ) ^ f.man ≤ num / den := by
          rw [hfrac]
          calc (2 : ℚ) ^ f.man = 2 ^ e * 2 ^ ((f.man : ℤ) - e) := by
                rw [← zpow_add₀ (by norm_num), ← zpow_natCast]
                congr 1
                ring
            _ ≤ n / d * 2 ^ ((f.man : ℤ) - e) := mul_le_mul_of_nonneg_right (hfe ▸ hfl1) (zpow_pos (by norm_num) _).le
        rw [le_div_iff₀ (by exact_mod_cast hden)] at h1
        exact_mod_cast h1
    rw [floatMag_sig f.man f.bias hq hnorm, floatMag_next f.man f.bias hq hnorm, hx]
    exact placeOf_fraction (ulp_pos f.man f.bias k) hden

end Sys2Proof.Machine

namespace Sys2Proof.Machine
open Sys2Proof.Claims

-- The value of every code (R100, R102, R103, R105, R106).

theorem hasValue_fin {neg : Bool} {n d : Nat} {q : ℚ} (hd : 0 < d) (h : (n : ℚ) / d = q) : HasValue (.fin neg n d) neg q :=
  ⟨n, d, hd, rfl, h⟩

theorem hasValue_dyadic (neg : Bool) (m : Nat) (e : Int) : HasValue (.dyadic neg m e) neg (m * (2 : ℚ) ^ e) := by
  unfold XVal.dyadic
  split
  next h =>
    obtain ⟨j, rfl⟩ := Int.eq_ofNat_of_zero_le h
    refine hasValue_fin Nat.one_pos ?_
    rw [Int.toNat_natCast, zpow_natCast]
    push_cast
    ring
  next h =>
    obtain ⟨j, hj⟩ := Int.eq_ofNat_of_zero_le (show 0 ≤ -e by omega)
    rw [hj, Int.toNat_natCast]
    refine hasValue_fin (Nat.two_pow_pos j) ?_
    rw [show e = -(j : ℤ) by omega, zpow_neg, zpow_natCast]
    push_cast
    rfl

section
variable (f : FF) (x : Nat)

theorem field_exp : x.field f.man f.exp = x % 2 ^ (f.exp + f.man) / 2 ^ f.man := by
  rw [Nat.field, Nat.add_comm, Nat.pow_add, Nat.mod_mul_right_div_self]

theorem field_frac : x.field 0 f.man = x % 2 ^ (f.exp + f.man) % 2 ^ f.man := by
  rw [field_low, Nat.mod_mod_of_dvd _ (Nat.pow_dvd_pow 2 (Nat.le_add_left ..))]

theorem hasValue_finite : HasValue (f.finite x) (x.bitAt (f.exp + f.man)) (floatMag f.man f.bias (x % 2 ^ (f.exp + f.man))) := by
  unfold FF.finite
  dsimp only
  rw [field_exp, field_frac]
  generalize x % 2 ^ (f.exp + f.man) = c
  have hpos : 0 < 2 ^ f.man := Nat.two_pow_pos f.man
  have hm := Nat.mod_lt c hpos
  have hdm := Nat.div_add_mod c (2 ^ f.man)
  have htop : 2 ^ (f.man + 1) = 2 ^ f.man + 2 ^ f.man := by rw [Nat.pow_succ]; omega
  cases he : c / 2 ^ f.man with
  | zero =>
    have hc : c = 0 * 2 ^ f.man + c % 2 ^ f.man := by rw [he] at hdm; omega
    have hmag : floatMag f.man f.bias c = (c % 2 ^ f.man : Nat) * (2 : ℚ) ^ (1 - (f.bias : Int) - f.man) := by
      have h := floatMag_sig f.man f.bias (k := 0) (q := c % 2 ^ f.man) (by omega) (.inl rfl)
      rw [← hc] at h
      rw [h, ulp, Nat.cast_zero, zero_add]
    rw [if_pos rfl, hmag]
    exact hasValue_dyadic _ _ _
  | succ k =>
    have hc : c = k * 2 ^ f.man + (2 ^ f.man + c % 2 ^ f.man) := by
      rw [he, Nat.mul_succ, Nat.mul_comm] at hdm
      omega
    have hmag : floatMag f.man f.bias c = (2 ^ f.man + c % 2 ^ f.man : Nat) * (2 : ℚ) ^ (((k + 1 : Nat) : Int) - f.bias - f.man) := by
      have h := floatMag_sig f.man f.bias (k := k) (q := 2 ^ f.man + c % 2 ^ f.man) (by omega) (.inr (Nat.le_add_right ..))
      rw [← hc] at h
      rw [h, ulp, Nat.cast_succ]
    rw [if_neg (Nat.succ_ne_zero k), hmag]
    exact hasValue_dyadic _ _ _

/-- The value of a code of a format with infinities: numbers below the code of infinity, no number above it. -/
theorem value_spec :
    (x % 2 ^ (f.exp + f.man) < f.infCode →
      HasValue (f.value x) (x.bitAt (f.exp + f.man)) (floatMag f.man f.bias (x % 2 ^ (f.exp + f.man)))) ∧
    (x % 2 ^ (f.exp + f.man) = f.infCode → f.value x = .inf (x.bitAt (f.exp + f.man))) ∧
    (f.infCode < x % 2 ^ (f.exp + f.man) → f.value x = .nan) := by
  have hfin := hasValue_finite f x
  have hlt : x % 2 ^ (f.exp + f.man) < 2 ^ f.exp * 2 ^ f.man := by
    rw [← Nat.pow_add]
    exact Nat.mod_lt _ (Nat.two_pow_pos _)
  unfold FF.value FF.infCode
  rw [field_exp, field_frac]
  generalize x % 2 ^ (f.exp + f.man) = c at hfin hlt ⊢
  have hpos : 0 < 2 ^ f.man := Nat.two_pow_pos f.man
  have hexp : 0 < 2 ^ f.exp := Nat.two_pow_pos f.exp
  have he : c / 2 ^ f.man < 2 ^ f.exp := (Nat.div_lt_iff_lt_mul hpos).2 hlt
  have hdm := Nat.div_add_mod c (2 ^ f.man)
  refine ⟨fun h => ?_, fun h => ?_, fun h => ?_⟩
  · rw [if_neg (Nat.ne_of_lt ((Nat.div_lt_iff_lt_mul hpos).2 h))]
    exact hfin
  · rw [h, Nat.mul_div_cancel _ hpos, if_pos rfl, Nat.mul_mod_left, if_pos rfl]
  · have htop : c / 2 ^ f.man = 2 ^ f.exp - 1 :=
      Nat.le_antisymm (Nat.le_sub_one_of_lt he) ((Nat.le_div_iff_mul_le hpos).2 h.le)
    rw [htop, Nat.mul_comm] at hdm
    rw [if_pos htop, if_neg (by omega)]

end

/-- A code and its sign bit above it. -/
theorem signed_code {c j : Nat} (hc : c < 2 ^ j) (neg : Bool) :
    (c + if neg then 2 ^ j else 0) % 2 ^ j = c ∧ (c + if neg then 2 ^ j else 0).bitAt j = neg := by
  cases neg with
  | false =>
    rw [if_neg Bool.false_ne_true, Nat.add_zero, Nat.mod_eq_of_lt hc, Nat.bitAt, Nat.div_eq_of_lt hc]
    exact ⟨rfl, rfl⟩
  | true =>
    rw [if_pos rfl, Nat.add_mod_right, Nat.mod_eq_of_lt hc, Nat.bitAt, Nat.add_div_right _ (Nat.two_pow_pos j), Nat.div_eq_of_lt hc]
    exact ⟨rfl, rfl⟩

/-- What a code of a format with infinities is worth with and without its sign. -/
theorem value_signed (f : FF) {c : Nat} (neg : Bool) (hc : c < 2 ^ (f.exp + f.man)) :
    (c < f.infCode → HasValue (f.value (c + if neg then 2 ^ (f.exp + f.man) else 0)) neg (floatMag f.man f.bias c)) ∧
    (c = f.infCode → f.value (c + if neg then 2 ^ (f.exp + f.man) else 0) = .inf neg) ∧
    (f.infCode < c → f.value (c + if neg then 2 ^ (f.exp + f.man) else 0) = .nan) := by
  obtain ⟨hm, hb⟩ := signed_code hc neg
  have h := value_spec f (c + if neg then 2 ^ (f.exp + f.man) else 0)
  rwa [hm, hb] at h

theorem fp32_bit (u : Word32) : u.toNat.bitAt 31 = u.getLsbD 31 := bitAt_eq_testBit ..

theorem fp32Value_spec (u : Word32) :
    (u.toNat % 2 ^ 31 < 0x7F800000 → HasValue (fp32Value u) (u.getLsbD 31) (floatMag 23 127 (u.toNat % 2 ^ 31))) ∧
    (u.toNat % 2 ^ 31 = 0x7F800000 → fp32Value u = .inf (u.getLsbD 31)) ∧ (0x7F800000 < u.toNat % 2 ^ 31 → fp32Value u = .nan) := by
  rw [← fp32_bit]
  exact value_spec ffp32 u.toNat

theorem e4m3Value_spec {c : Nat} (neg : Bool) (hc : c < 2 ^ 7) :
    (c < 0x7F → HasValue (e4m3Value (c + if neg then 2 ^ 7 else 0)) neg (floatMag 3 7 c)) ∧
    (c = 0x7F → e4m3Value (c + if neg then 2 ^ 7 else 0) = .nan) := by
  obtain ⟨hm, hb⟩ := signed_code hc neg
  have hfin := hasValue_finite fe4m3 (c + if neg then 2 ^ 7 else 0)
  have hm' : (c + if neg then 2 ^ 7 else 0) % 128 = c := hm
  unfold e4m3Value
  rw [hm']
  refine ⟨fun h => ?_, fun h => if_pos h⟩
  rw [if_neg (Nat.ne_of_lt h)]
  rw [show fe4m3.exp + fe4m3.man = 7 from rfl, hm, hb] at hfin
  exact hfin

/-- A power of ten as a fraction. -/
theorem ten_zpow (k : Int) : (10 : ℚ) ^ k = ((10 ^ k.toNat : Nat) : ℚ) / (10 ^ (-k).toNat : Nat) := by
  rcases Int.le_total 0 k with h | h
  · obtain ⟨j, rfl⟩ := Int.eq_ofNat_of_zero_le h
    rw [show (-(j : Int)).toNat = 0 by omega, Int.toNat_natCast, zpow_natCast]
    push_cast
    ring
  · obtain ⟨j, hj⟩ := Int.eq_ofNat_of_zero_le (show 0 ≤ -k by omega)
    rw [hj, show k.toNat = 0 by omega, Int.toNat_natCast, show k = -(j : ℤ) by omega, zpow_neg, zpow_natCast]
    push_cast
    ring

/-- The rows of R106 agree with the run lengths of R105, code by code. -/
theorem d8Rows_mag : ∀ r ∈ d8Rows, ∀ f : Nat, f < 2 ^ r.2.2 → 0 < r.1 + f ∧ r.1 + f < 128 ∧ 0 < (d8Mag (r.1 + f)).2 ∧
    (d8Mag (r.1 + f)).1 * (10 ^ (-r.2.1).toNat * 2 ^ r.2.2) = 10 ^ r.2.1.toNat * (2 ^ r.2.2 + 9 * f) * (d8Mag (r.1 + f)).2 := by
  decide

theorem d8Value_of {c : Nat} (neg : Bool) (h0 : 0 < c) (hc : c < 2 ^ 7) :
    d8Value (c + if neg then 2 ^ 7 else 0) = .fin neg (d8Mag c).1 (d8Mag c).2 := by
  obtain ⟨hm, hb⟩ := signed_code hc neg
  have hm' : (c + if neg then 2 ^ 7 else 0) % 128 = c := hm
  unfold d8Value
  dsimp only
  rw [hm', if_neg h0.ne', hb]

theorem hasValue_d8 {r : Nat × Int × Nat} (hr : r ∈ d8Rows) {f : Nat} (hf : f < 2 ^ r.2.2) (neg : Bool) :
    HasValue (d8Value (r.1 + f + if neg then 2 ^ 7 else 0)) neg ((10 : ℚ) ^ r.2.1 * (1 + 9 * f / 2 ^ r.2.2)) := by
  obtain ⟨h0, hc, hd, heq⟩ := d8Rows_mag r hr f hf
  rw [d8Value_of neg h0 hc]
  refine hasValue_fin hd ?_
  have hq : ((d8Mag (r.1 + f)).1 : ℚ) * ((10 ^ (-r.2.1).toNat : Nat) * 2 ^ r.2.2) =
      (10 ^ r.2.1.toNat : Nat) * (2 ^ r.2.2 + 9 * f) * (d8Mag (r.1 + f)).2 := by exact_mod_cast heq
  have hten : ((10 ^ (-r.2.1).toNat : Nat) : ℚ) ≠ 0 := by exact_mod_cast (Nat.pow_pos (by decide)).ne'
  have hdq : ((d8Mag (r.1 + f)).2 : ℚ) ≠ 0 := by exact_mod_cast hd.ne'
  rw [ten_zpow]
  generalize ((10 ^ (-r.2.1).toNat : Nat) : ℚ) = den at hq hten ⊢
  generalize ((10 ^ r.2.1.toNat : Nat) : ℚ) = num at hq ⊢
  field_simp
  linarith

theorem valuesOfCodes_holds : ValuesOfCodes := by
  refine ⟨fp32Value_spec, fun c neg => ?_, hasValue_fin Nat.one_pos (by norm_num), rfl⟩
  refine ⟨fun h => ?_, fun h => ?_, fun h h' => ?_, fun h => ?_, fun h => ?_, fun h h' => ?_, fun h => ?_, fun h => ?_, ?_⟩
  · exact (value_signed fbf16 neg (h.trans (by decide))).1 h
  · exact (value_signed fbf16 neg (h ▸ by decide)).2.1 h
  · exact (value_signed fbf16 neg h').2.2 h
  · exact (value_signed fe5m2 neg (h.trans (by decide))).1 h
  · exact (value_signed fe5m2 neg (h ▸ by decide)).2.1 h
  · exact (value_signed fe5m2 neg h').2.2 h
  · exact (e4m3Value_spec neg (h.trans (by decide))).1 h
  · exact (e4m3Value_spec neg (h ▸ by decide)).2 h
  · rintro r hr f hf rfl
    exact hasValue_d8 hr hf neg

-- Exact arithmetic (R101).

/-- A magnitude with its sign. -/
def signedVal (neg : Bool) (q : ℚ) : ℚ := if neg then -q else q

theorem signedVal_div (neg : Bool) (n d : Nat) :
    signedVal neg ((n : ℚ) / d) = ((if neg then -(n : Int) else n : Int) : ℚ) / d := by
  unfold signedVal
  split
  · push_cast
    ring
  · push_cast
    rfl

theorem addFrac_spec (na nb : Bool) {n d m e : Nat} (hd : 0 < d) (he : 0 < e) :
    0 < (addFrac na n d nb m e).2 ∧
    ((addFrac na n d nb m e).1 : ℚ) / (addFrac na n d nb m e).2 = signedVal na ((n : ℚ) / d) + signedVal nb ((m : ℚ) / e) := by
  rw [signedVal_div, signedVal_div]
  unfold addFrac
  dsimp only
  generalize (if na then -(n : Int) else n) = a
  generalize (if nb then -(m : Int) else m) = b
  have hdq : (d : ℚ) ≠ 0 := by exact_mod_cast hd.ne'
  have heq : (e : ℚ) ≠ 0 := by exact_mod_cast he.ne'
  split
  next h =>
    refine ⟨hd, ?_⟩
    obtain ⟨t, rfl⟩ := Nat.dvd_of_mod_eq_zero h
    rw [Nat.mul_div_cancel_left _ he]
    push_cast at hdq ⊢
    have ht : (t : ℚ) ≠ 0 := right_ne_zero_of_mul hdq
    field_simp
  next =>
    split
    next h =>
      refine ⟨he, ?_⟩
      obtain ⟨t, rfl⟩ := Nat.dvd_of_mod_eq_zero h
      rw [Nat.mul_div_cancel_left _ hd]
      push_cast at heq ⊢
      have ht : (t : ℚ) ≠ 0 := right_ne_zero_of_mul heq
      field_simp
    next =>
      refine ⟨Nat.mul_pos hd he, ?_⟩
      push_cast
      field_simp

theorem hasValue_of_int {i : Int} {d : Nat} {v : ℚ} (hd : 0 < d) (h : (i : ℚ) / d = v) :
    HasValue (.fin (decide (i < 0)) i.natAbs d) (decide (v < 0)) |v| := by
  have hdq : (0 : ℚ) < d := by exact_mod_cast hd
  have hneg : decide (i < 0) = decide (v < 0) := by
    refine decide_eq_decide.2 ?_
    rw [← h, div_lt_iff₀ hdq, zero_mul]
    exact_mod_cast Iff.rfl
  rw [hneg]
  refine hasValue_fin hd ?_
  rw [← h, abs_div, abs_of_pos hdq, Nat.cast_natAbs, Int.cast_abs]

theorem add_hasValue {a b : XVal} {na nb : Bool} (down : Bool) {p q : ℚ} (ha : HasValue a na p) (hb : HasValue b nb q) :
    (signedVal na p + signedVal nb q ≠ 0 →
      HasValue (a.add down b) (decide (signedVal na p + signedVal nb q < 0)) |signedVal na p + signedVal nb q|) ∧
    (signedVal na p + signedVal nb q = 0 → HasValue (a.add down b) (if p = 0 ∧ na = nb then na else down) 0) := by
  obtain ⟨n, d, hd, rfl, rfl⟩ := ha
  obtain ⟨m, e, he, rfl, rfl⟩ := hb
  obtain ⟨hs, hv⟩ := addFrac_spec na nb (n := n) (m := m) hd he
  have hsq : ((addFrac na n d nb m e).2 : ℚ) ≠ 0 := by exact_mod_cast hs.ne'
  have hdq : (d : ℚ) ≠ 0 := by exact_mod_cast hd.ne'
  have heq : (e : ℚ) ≠ 0 := by exact_mod_cast he.ne'
  have hzero : (addFrac na n d nb m e).1 = 0 ↔ signedVal na ((n : ℚ) / d) + signedVal nb ((m : ℚ) / e) = 0 := by
    rw [← hv, div_eq_zero_iff, or_iff_left hsq, Int.cast_eq_zero]
  unfold XVal.add
  dsimp only
  refine ⟨fun h => ?_, fun h => ?_⟩
  · rw [if_neg fun hc => h (hzero.1 hc)]
    exact hasValue_of_int hs hv
  · rw [if_pos (hzero.2 h)]
    have hcond : (n = 0 ∧ m = 0 ∧ na = nb) ↔ (n : ℚ) / d = 0 ∧ na = nb := by
      rw [div_eq_zero_iff, or_iff_left hdq, Nat.cast_eq_zero]
      refine ⟨fun h => ⟨h.1, h.2.2⟩, fun ⟨hn, hab⟩ => ⟨hn, ?_, hab⟩⟩
      have hm : signedVal nb ((m : ℚ) / e) = 0 := by
        rw [hn] at h
        simpa [signedVal] using h
      have : (m : ℚ) / e = 0 := by
        unfold signedVal at hm
        split at hm
        · exact neg_eq_zero.1 hm
        · exact hm
      rw [div_eq_zero_iff, or_iff_left heq] at this
      exact_mod_cast this
    by_cases hz : (n : ℚ) / d = 0 ∧ na = nb
    · rw [if_pos (hcond.2 hz), if_pos hz]
      exact hasValue_fin Nat.one_pos (by norm_num)
    · rw [if_neg fun hc => hz (hcond.1 hc), if_neg hz]
      exact hasValue_fin Nat.one_pos (by norm_num)

theorem mul_hasValue {a b : XVal} {na nb : Bool} {p q : ℚ} (ha : HasValue a na p) (hb : HasValue b nb q) :
    HasValue (a.mul b) (na != nb) (p * q) := by
  obtain ⟨n, d, hd, rfl, rfl⟩ := ha
  obtain ⟨m, e, he, rfl, rfl⟩ := hb
  refine hasValue_fin (Nat.mul_pos hd he) ?_
  push_cast
  rw [mul_div_mul_comm]

theorem neg_hasValue {a : XVal} {na : Bool} {p : ℚ} (ha : HasValue a na p) : HasValue a.neg (!na) p := by
  obtain ⟨n, d, hd, rfl, rfl⟩ := ha
  exact hasValue_fin hd rfl

/-- A number and an infinity. -/
theorem inf_hasValue {a : XVal} {na : Bool} {p : ℚ} (down s : Bool) (ha : HasValue a na p) :
    (XVal.inf s).add down a = .inf s ∧ a.add down (.inf s) = .inf s ∧
    (p ≠ 0 → a.mul (.inf s) = .inf (na != s) ∧ (XVal.inf s).mul a = .inf (s != na)) ∧
    (p = 0 → a.mul (.inf s) = .nan ∧ (XVal.inf s).mul a = .nan) := by
  obtain ⟨n, d, hd, rfl, rfl⟩ := ha
  have hdq : (d : ℚ) ≠ 0 := by exact_mod_cast hd.ne'
  have hz : (n : ℚ) / d = 0 ↔ n = 0 := by rw [div_eq_zero_iff, or_iff_left hdq, Nat.cast_eq_zero]
  rw [ne_eq, hz]
  exact ⟨rfl, rfl, fun h => ⟨if_neg h, if_neg h⟩, fun h => ⟨if_pos h, if_pos h⟩⟩

theorem exactArithmetic_holds : ExactArithmetic := by
  refine ⟨fun a b na nb down p q ha hb => ?_, fun s t down => ⟨rfl, rfl, rfl⟩, fun x down => ⟨rfl, ?_, rfl, ?_, rfl⟩⟩
  · obtain ⟨hne, heq⟩ := add_hasValue down ha hb
    refine ⟨hne, heq, mul_hasValue ha hb, neg_hasValue ha, fun s => ?_⟩
    obtain ⟨-, hright, hmul, hnan⟩ := inf_hasValue down s ha
    exact ⟨(inf_hasValue down s hb).1, hright, hmul, hnan⟩
  · cases x <;> rfl
  · cases x <;> rfl

end Sys2Proof.Machine

namespace Sys2Proof.Machine
open Sys2Proof.Claims

-- One rounding into each format (R107, R108, R277).

section
variable (rm : Rm) (neg : Bool) {n d : Nat}

/-- The code a mode picks for a magnitude is the one it chooses. -/
theorem codeOf_chooses (f : FF) (hd : 0 < d) :
    Chooses (floatMag f.man f.bias) rm neg (n / d) (pickCode rm neg (f.codeOf n d).1 (f.codeOf n d).2) := by
  obtain ⟨hlo, hhi, hp⟩ := codeOf_spec f (n := n) hd
  exact chooses_pickCode hlo hhi hp

theorem signed_eq (f : FF) (c : Nat) : f.signed neg c = (if neg then 2 ^ (f.exp + f.man) else 0) + c := by
  rw [FF.signed]
  cases neg with
  | false => rw [if_neg Bool.false_ne_true, if_neg Bool.false_ne_true, Nat.zero_add]
  | true => rw [if_pos rfl, if_pos rfl]

/-- Rounding into a format with infinities: the code chosen, or what an overflow gives. -/
theorem round_spec (f : FF) (hd : 0 < d) : ∃ c, Chooses (floatMag f.man f.bias) rm neg (n / d) c ∧
    f.round rm (.fin neg n d) = (if neg then 2 ^ (f.exp + f.man) else 0) +
      (if c < f.infCode then c else if overflows rm neg then f.infCode else f.infCode - 1) := by
  refine ⟨_, codeOf_chooses rm neg f hd, ?_⟩
  unfold FF.round
  dsimp only
  split
  · exact signed_eq ..
  · refine (signed_eq ..).trans ?_
    cases rm <;> rfl

theorem roundE4m3_spec (hd : 0 < d) : ∃ c, Chooses (floatMag 3 7) rm neg (n / d) c ∧
    roundE4m3 rm (.fin neg n d) = (if neg then 2 ^ 7 else 0) + min c 0x7E :=
  ⟨_, codeOf_chooses rm neg fe4m3 hd, signed_eq neg fe4m3 _⟩

theorem roundInt_spec (lo hi : Int) (hd : 0 < d) : ∃ c, Chooses (fun k => (k : ℚ)) rm neg (n / d) c ∧
    roundInt rm lo hi (.fin neg n d) = max lo (min hi (if neg then -(c : Int) else c)) := by
  obtain ⟨hlo, hhi, hp⟩ := placeOf_fraction (u := 1) one_pos (num := n) hd
  simp only [mul_one] at hlo hhi hp
  refine ⟨_, chooses_pickCode hlo ?_ ?_, rfl⟩
  · rw [Nat.cast_succ]
    exact hhi
  · rw [Nat.cast_succ]
    exact hp

-- D8 (R105 to R108).

/-- The magnitude of a D8 code. -/
def d8MagQ (k : Nat) : ℚ := if k = 0 then 0 else ((d8Mag k).1 : ℚ) / (d8Mag k).2

theorem d8Mag_den_pos (k : Nat) : 0 < (d8Mag k).2 := by
  unfold d8Mag
  dsimp only
  split
  · exact Nat.two_pow_pos _
  · exact Nat.mul_pos (Nat.pow_pos (by decide)) (Nat.two_pow_pos _)

theorem magnitude_d8Value {k : Nat} (hk : k < 2 ^ 7) : magnitude (d8Value k) = d8MagQ k := by
  rcases Nat.eq_zero_or_pos k with rfl | h0
  · exact (div_one _).trans Nat.cast_zero
  · have h := d8Value_of false h0 hk
    rw [if_neg Bool.false_ne_true, Nat.add_zero] at h
    rw [h, d8MagQ, if_neg h0.ne']
    rfl

theorem d8Mag_succ : ∀ k, k < 126 → (d8Mag (k + 1)).1 * (d8Mag (k + 2)).2 < (d8Mag (k + 2)).1 * (d8Mag (k + 1)).2 := by
  decide

theorem d8Mag_one : 0 < (d8Mag 1).1 := by decide

/-- The magnitudes of D8 rise with their codes. -/
theorem d8MagQ_lt_succ {k : Nat} (hk : k < 127) : d8MagQ k < d8MagQ (k + 1) := by
  have hpos : ∀ j, (0 : ℚ) < (d8Mag j).2 := fun j => by exact_mod_cast d8Mag_den_pos j
  cases k with
  | zero =>
    rw [d8MagQ, d8MagQ, if_pos rfl, if_neg (Nat.succ_ne_zero 0)]
    exact div_pos (by exact_mod_cast d8Mag_one) (hpos 1)
  | succ k =>
    rw [d8MagQ, d8MagQ, if_neg (Nat.succ_ne_zero k), if_neg (Nat.succ_ne_zero _), div_lt_div_iff₀ (hpos _) (hpos _)]
    exact_mod_cast d8Mag_succ k (by omega)

theorem d8MagQ_lt {j k : Nat} (h : j < k) (hk : k ≤ 127) : d8MagQ j < d8MagQ k := by
  induction k with
  | zero => exact absurd h (Nat.not_lt_zero j)
  | succ k ih =>
    rcases Nat.lt_succ_iff_lt_or_eq.1 h with h | rfl
    · exact (ih h (by omega)).trans (d8MagQ_lt_succ (by omega))
    · exact d8MagQ_lt_succ (by omega)

theorem d8MagQ_top : d8MagQ 127 = 10 ^ 6 := by
  have h : (d8Mag 127).1 = 10 ^ 6 * (d8Mag 127).2 := by decide
  have hd : ((d8Mag 127).2 : ℚ) ≠ 0 := by exact_mod_cast (d8Mag_den_pos 127).ne'
  rw [d8MagQ, if_neg (by decide), h, div_eq_iff hd]
  push_cast
  rfl

theorem d8Floor_test (hd : 0 < d) (c : Nat) :
    (d8Mag (c + 1)).1 * d ≤ n * (d8Mag (c + 1)).2 ↔ d8MagQ (c + 1) ≤ n / d := by
  have hp : (0 : ℚ) < (d8Mag (c + 1)).2 := by exact_mod_cast d8Mag_den_pos (c + 1)
  have hdq : (0 : ℚ) < d := by exact_mod_cast hd
  rw [d8MagQ, if_neg (Nat.succ_ne_zero c), div_le_div_iff₀ hp hdq]
  exact_mod_cast Iff.rfl

/-- The floor code of a magnitude: no code above it, up to `c`, is at or below the magnitude. -/
theorem d8Floor_spec (hd : 0 < d) (c : Nat) :
    d8Floor n d c ≤ c ∧ d8MagQ (d8Floor n d c) ≤ n / d ∧ ∀ k, d8Floor n d c < k → k ≤ c → (n : ℚ) / d < d8MagQ k := by
  induction c with
  | zero =>
    refine ⟨le_rfl, ?_, fun k h h' => absurd h (Nat.not_lt_of_le h')⟩
    rw [d8Floor, d8MagQ, if_pos rfl]
    positivity
  | succ c ih =>
    rw [d8Floor]
    split
    next h => exact ⟨le_rfl, (d8Floor_test hd c).1 h, fun k hk hk' => absurd hk (Nat.not_lt_of_le hk')⟩
    next h =>
      obtain ⟨h1, h2, h3⟩ := ih
      refine ⟨h1.trans (Nat.le_succ c), h2, fun k hk hk' => ?_⟩
      rcases Nat.le_succ_iff.1 hk' with hk' | rfl
      · exact h3 k hk hk'
      · exact lt_of_not_ge fun hc => h ((d8Floor_test hd c).2 hc)

/-- The fraction of a code at or above 0. -/
def d8Frac (c : Nat) : Nat × Nat := if c = 0 then (0, 1) else d8Mag c

theorem d8Frac_pos (c : Nat) : 0 < (d8Frac c).2 := by
  unfold d8Frac
  split
  · exact Nat.one_pos
  · exact d8Mag_den_pos c

theorem d8Frac_mag (c : Nat) : d8MagQ c = ((d8Frac c).1 : ℚ) / (d8Frac c).2 := by
  unfold d8MagQ d8Frac
  split
  · exact ((div_one _).trans Nat.cast_zero).symm
  · rfl

/-- The place of a magnitude between two fractions, over their common denominator. -/
theorem placeOf_between {a b : Nat × Nat} (ha : 0 < a.2) (hb : 0 < b.2) (hd : 0 < d) (hlo : (a.1 : ℚ) / a.2 ≤ n / d) :
    (placeOf (2 * n * a.2 * b.2) ((a.1 * b.2 + b.1 * a.2) * d) (n * a.2 == a.1 * d)).At ((a.1 : ℚ) / a.2) (b.1 / b.2) (n / d) := by
  have haq : (0 : ℚ) < a.2 := by exact_mod_cast ha
  have hbq : (0 : ℚ) < b.2 := by exact_mod_cast hb
  have hdq : (0 : ℚ) < d := by exact_mod_cast hd
  have hprod : (0 : ℚ) < a.2 * b.2 * d := by positivity
  have hleft : (2 * n * a.2 * b.2 : ℚ) = (2 * ((n : ℚ) / d)) * (a.2 * b.2 * d) := by field_simp
  have hright : ((a.1 * b.2 + b.1 * a.2) * d : ℚ) = ((a.1 : ℚ) / a.2 + b.1 / b.2) * (a.2 * b.2 * d) := by field_simp
  refine placeOf_at hlo ?_ ?_ ?_
  · rw [beq_iff_eq, div_eq_div_iff haq.ne' hdq.ne', eq_comm]
    exact_mod_cast Iff.rfl
  · have h : 2 * n * a.2 * b.2 < (a.1 * b.2 + b.1 * a.2) * d ↔ (2 * n * a.2 * b.2 : ℚ) < (a.1 * b.2 + b.1 * a.2) * d := by
      exact_mod_cast Iff.rfl
    rw [h, hleft, hright, mul_lt_mul_iff_left₀ hprod]
    constructor <;> intro h <;> linarith
  · have h : 2 * n * a.2 * b.2 = (a.1 * b.2 + b.1 * a.2) * d ↔ (2 * n * a.2 * b.2 : ℚ) = (a.1 * b.2 + b.1 * a.2) * d := by
      exact_mod_cast Iff.rfl
    rw [h, hleft, hright, mul_left_inj' hprod.ne']
    constructor <;> intro h <;> linarith

/-- The code D8 rounds a magnitude to. -/
def d8Code (rm : Rm) (neg : Bool) (n d c : Nat) : Nat :=
  if c = 127 then 127 else pickCode rm neg c (placeOf (2 * n * (d8Frac c).2 * (d8Mag (c + 1)).2)
    (((d8Frac c).1 * (d8Mag (c + 1)).2 + (d8Mag (c + 1)).1 * (d8Frac c).2) * d) (n * (d8Frac c).2 == (d8Frac c).1 * d))

theorem roundD8_eq : roundD8 rm (.fin neg n d) =
    if d8Code rm neg n d (d8Floor n d 127) = 0 then 0
    else if neg then 128 + d8Code rm neg n d (d8Floor n d 127) else d8Code rm neg n d (d8Floor n d 127) := rfl

theorem roundD8_saturates (hd : 0 < d) (hq : 10 ^ 6 ≤ (n : ℚ) / d) : roundD8 rm (.fin neg n d) = if neg then 0xFF else 0x7F := by
  have hfloor : d8Floor n d 127 = 127 := if_pos ((d8Floor_test hd 126).2 (d8MagQ_top ▸ hq))
  rw [roundD8_eq, hfloor, d8Code, if_pos rfl]
  rfl

theorem pickCode_le (rm : Rm) (neg : Bool) (c : Nat) (p : Place) : pickCode rm neg c p ≤ c + 1 := by
  unfold pickCode
  split
  · exact Nat.le_succ c
  · split
    · exact Nat.le_succ c
    · split <;> omega
    · split <;> omega
    · split <;> omega
    · split
      · exact Nat.le_succ c
      · exact le_rfl
      · split <;> omega

theorem chooses_congr {f g : Nat → ℚ} {x : ℚ} {a : Nat} (h0 : f a = g a) (h1 : f (a + 1) = g (a + 1)) (hlo : g a ≤ x)
    (hhi : x < g (a + 1)) {p : Place} (hp : p.At (g a) (g (a + 1)) x) : Chooses f rm neg x (pickCode rm neg a p) := by
  rw [← h0] at hlo hp
  rw [← h1] at hhi hp
  exact chooses_pickCode hlo hhi hp

theorem roundD8_spec (hd : 0 < d) (hq : (n : ℚ) / d < 10 ^ 6) : ∃ c, c ≤ 0x7F ∧
    Chooses (fun k => magnitude (d8Value k)) rm neg (n / d) c ∧
    roundD8 rm (.fin neg n d) = if c = 0 then 0 else if neg then 2 ^ 7 + c else c := by
  obtain ⟨hle, hlo, hhi⟩ := d8Floor_spec hd (n := n) 127
  rw [roundD8_eq]
  generalize d8Floor n d 127 = a at hle hlo hhi ⊢
  have hne : a ≠ 127 := by
    rintro rfl
    rw [d8MagQ_top] at hlo
    exact absurd hq (not_lt.2 hlo)
  have ha : a < 127 := by omega
  refine ⟨d8Code rm neg n d a, ?_, ?_, rfl⟩
  · rw [d8Code, if_neg hne]
    exact (pickCode_le ..).trans ha
  · rw [d8Code, if_neg hne]
    refine chooses_congr rm neg (magnitude_d8Value (show a < 2 ^ 7 by omega)) (magnitude_d8Value (show a + 1 < 2 ^ 7 by omega)) hlo
      (hhi (a + 1) (Nat.lt_succ_self a) ha) ?_
    have hb : d8MagQ (a + 1) = ((d8Mag (a + 1)).1 : ℚ) / (d8Mag (a + 1)).2 := if_neg (Nat.succ_ne_zero a)
    rw [d8Frac_mag] at hlo ⊢
    rw [hb]
    exact placeOf_between (d8Frac_pos a) (d8Mag_den_pos (a + 1)) hd hlo

end

theorem roundsOnce_holds : RoundsOnce := by
  refine ⟨fun rm neg n d hd => ?_, fun rm neg lo hi => ?_, fun rm lo hi => ⟨rfl, rfl, rfl, rfl, rfl, rfl⟩⟩
  · refine ⟨?_, round_spec rm neg fbf16 hd, round_spec rm neg fe5m2 hd, roundE4m3_spec rm neg hd,
      roundD8_saturates rm neg hd, roundD8_spec rm neg hd, fun lo hi => roundInt_spec rm neg lo hi hd⟩
    rw [roundFp32_toNat]
    exact round_spec rm neg ffp32 hd
  · cases neg <;> exact ⟨rfl, rfl, rfl, rfl, rfl, rfl⟩

/-- Settles O46: magnitudes rise with their codes, a code is the floor of its magnitude, and the place between two codes decides the mode's
choice. -/
theorem exactValuesRoundedOnce : Obligations.ExactValuesRoundedOnce := ⟨valuesOfCodes_holds, exactArithmetic_holds, roundsOnce_holds⟩

end Sys2Proof.Machine

namespace Sys2Proof.Machine
open Sys2Proof.Claims

-- Rounding a value that a format holds (R100 to R107).

/-- A mode has no choice for a magnitude that a code stands for. -/
theorem code_of_chooses {mag : Nat → ℚ} (hm : StrictMono mag) {rm : Rm} {neg : Bool} {c k : Nat} (h : Chooses mag rm neg (mag k) c) :
    c = k := by
  obtain ⟨a, hlo, hhi, rfl⟩ := h
  have h1 : a ≤ k := hm.le_iff_le.1 hlo
  have h2 : k < a + 1 := hm.lt_iff_lt.1 hhi
  have ha : a = k := by omega
  rw [ha, if_pos rfl]

/-- A code is its sign bit and what is below it. -/
theorem code_eq_signed {x j : Nat} (hx : x < 2 ^ (j + 1)) : (if x.bitAt j then 2 ^ j else 0) + x % 2 ^ j = x := by
  have hdm := Nat.div_add_mod x (2 ^ j)
  have hq : x / 2 ^ j < 2 := by
    rw [Nat.div_lt_iff_lt_mul (Nat.two_pow_pos j), Nat.mul_comm, ← Nat.pow_succ]
    exact hx
  have h01 : x / 2 ^ j = 0 ∨ x / 2 ^ j = 1 := Nat.le_one_iff_eq_zero_or_eq_one.1 (Nat.le_of_lt_succ hq)
  rcases h01 with h | h <;> rw [Nat.bitAt, h] <;> rw [h] at hdm
  · rw [if_neg (by decide)]
    omega
  · rw [if_pos (by decide)]
    omega

theorem round_value (f : FF) (rm : Rm) {x : Nat} (hx : x < 2 ^ (f.exp + f.man + 1)) (hn : (f.value x).isNan = false) :
    f.round rm (f.value x) = x := by
  obtain ⟨hfin, hinf, hnan⟩ := value_spec f x
  have hcode := code_eq_signed hx
  rcases Nat.lt_trichotomy (x % 2 ^ (f.exp + f.man)) f.infCode with h | h | h
  · obtain ⟨n, d, hd, hv, hq⟩ := hfin h
    obtain ⟨c, hc, hr⟩ := round_spec rm (x.bitAt (f.exp + f.man)) f (n := n) hd
    rw [hq] at hc
    rw [hv, hr, code_of_chooses (floatMag_strictMono _ _) hc, if_pos h, hcode]
  · rw [hinf h]
    exact (signed_eq ..).trans (h ▸ hcode)
  · rw [hnan h] at hn
    cases hn

theorem roundFp32_value (rm : Rm) {u : Word32} (hn : (fp32Value u).isNan = false) : roundFp32 rm (fp32Value u) = u := by
  refine BitVec.eq_of_toNat_eq ?_
  rw [roundFp32_toNat]
  exact round_value ffp32 rm u.isLt hn

theorem roundE4m3_value (rm : Rm) {x : Nat} (hx : x < 256) (hn : (e4m3Value x).isNan = false) : roundE4m3 rm (e4m3Value x) = x := by
  have hcode : (if x.bitAt 7 then 2 ^ 7 else 0) + x % 2 ^ 7 = x := code_eq_signed (j := 7) hx
  have hc : x % 2 ^ 7 < 2 ^ 7 := Nat.mod_lt _ (by decide)
  obtain ⟨hfin, hnan⟩ := e4m3Value_spec (x.bitAt 7) hc
  rw [Nat.add_comm, hcode] at hfin hnan
  rcases Nat.lt_or_ge (x % 2 ^ 7) 0x7F with h | h
  · obtain ⟨n, d, hd, hv, hq⟩ := hfin h
    obtain ⟨c, hch, hr⟩ := roundE4m3_spec rm (x.bitAt 7) (n := n) hd
    rw [hq] at hch
    rw [hv, hr, code_of_chooses (floatMag_strictMono 3 7) hch, Nat.min_eq_left (Nat.le_of_lt_succ h), hcode]
  · rw [hnan (by omega)] at hn
    cases hn

/-- A D8 magnitude that a code stands for is rounded to it. -/
theorem d8Code_exact (rm : Rm) (neg : Bool) {n d c : Nat} (hd : 0 < d) (hc : c ≤ 127) (hq : (n : ℚ) / d = d8MagQ c) :
    d8Code rm neg n d (d8Floor n d 127) = c := by
  obtain ⟨hle, hlo, hhi⟩ := d8Floor_spec hd (n := n) 127
  have hfloor : d8Floor n d 127 = c := by
    rw [hq] at hlo hhi
    rcases Nat.lt_trichotomy (d8Floor n d 127) c with h | h | h
    · exact absurd (hhi c h hc) (lt_irrefl _)
    · exact h
    · exact absurd hlo (not_le.2 (d8MagQ_lt h hle))
  rw [hfloor]
  unfold d8Code
  split
  next h => exact h.symm
  next =>
    have hdq : (d : ℚ) ≠ 0 := by exact_mod_cast hd.ne'
    have hpq : ((d8Frac c).2 : ℚ) ≠ 0 := by exact_mod_cast (d8Frac_pos c).ne'
    have hexact : (n * (d8Frac c).2 == (d8Frac c).1 * d) = true := by
      rw [d8Frac_mag, div_eq_div_iff hdq hpq] at hq
      rw [beq_iff_eq]
      exact_mod_cast hq
    rw [hexact]
    rfl

theorem roundD8_value (rm : Rm) {x : Nat} (hx : x < 256) (hn : (d8Value x).isNan = false) : roundD8 rm (d8Value x) = x := by
  have hcode : (if x.bitAt 7 then 2 ^ 7 else 0) + x % 2 ^ 7 = x := code_eq_signed (j := 7) hx
  have hc : x % 2 ^ 7 < 2 ^ 7 := Nat.mod_lt _ (by decide)
  have hle : x % 2 ^ 7 ≤ 127 := Nat.le_of_lt_succ hc
  rcases Nat.eq_zero_or_pos (x % 2 ^ 7) with h0 | h0
  · have hbody : x % 128 = 0 := h0
    unfold d8Value at hn ⊢
    dsimp only at hn ⊢
    rw [if_pos hbody] at hn ⊢
    split at hn
    · cases hn
    next hb =>
      rw [if_neg hb, roundD8_eq, d8Code_exact rm false (c := 0) Nat.one_pos (by decide) ((div_one _).trans Nat.cast_zero), if_pos rfl]
      rw [if_neg hb, h0] at hcode
      exact hcode
  · have hv := d8Value_of (x.bitAt 7) h0 hc
    rw [Nat.add_comm, hcode] at hv
    rw [hv, roundD8_eq, d8Code_exact rm (x.bitAt 7) (d8Mag_den_pos _) hle (if_neg h0.ne').symm, if_neg h0.ne']
    split
    next hb => rwa [if_pos hb] at hcode
    next hb => rwa [if_neg hb, Nat.zero_add] at hcode

theorem roundingKeepsExactValues_holds : RoundingKeepsExactValues :=
  ⟨fun rm _ h => roundFp32_value rm h, fun rm _ hu h => round_value fbf16 rm hu h, fun rm _ hu h => roundE4m3_value rm hu h,
    fun rm _ hu h => round_value fe5m2 rm hu h, fun rm _ hu h => roundD8_value rm hu h⟩

-- The order of values (R272, R273).

theorem hasValue_nonneg {x : XVal} {neg : Bool} {q : ℚ} (h : HasValue x neg q) : 0 ≤ q := by
  obtain ⟨n, d, hd, -, rfl⟩ := h
  positivity

theorem signedVal_int (neg : Bool) (n d e : Nat) (he : 0 < e) :
    ((if neg then -((n * e : Nat) : Int) else (n * e : Nat) : Int) : ℚ) = signedVal neg ((n : ℚ) / d) * (d * e) ∨ d = 0 := by
  rcases Nat.eq_zero_or_pos d with h | h
  · exact .inr h
  · left
    have hdq : (d : ℚ) ≠ 0 := by exact_mod_cast h.ne'
    rw [signedVal_div]
    split
    · push_cast
      field_simp
    · push_cast
      field_simp

/-- The order of two numbers: by value, and −0 below +0. -/
theorem lt_of_hasValue {a b : XVal} {na nb : Bool} {p q : ℚ} (ha : HasValue a na p) (hb : HasValue b nb q) :
    a.lt b = decide (signedVal na p < signedVal nb q ∨ signedVal na p = signedVal nb q ∧ na = true ∧ nb = false) := by
  obtain ⟨n, d, hd, rfl, rfl⟩ := ha
  obtain ⟨m, e, he, rfl, rfl⟩ := hb
  have hde : (0 : ℚ) < d * e := by exact_mod_cast Nat.mul_pos hd he
  have hx := (signedVal_int na n d e he).resolve_right hd.ne'
  have hy := (signedVal_int nb m e d hd).resolve_right he.ne'
  rw [mul_comm (e : ℚ)] at hy
  unfold XVal.lt
  dsimp only
  generalize (if na then -((n * e : Nat) : Int) else (n * e : Nat)) = x at hx ⊢
  generalize (if nb then -((m * d : Nat) : Int) else (m * d : Nat)) = y at hy ⊢
  have hlt : x < y ↔ signedVal na ((n : ℚ) / d) < signedVal nb ((m : ℚ) / e) := by
    rw [← mul_lt_mul_iff_left₀ hde, ← hx, ← hy, Int.cast_lt]
  have heq : x = y ↔ signedVal na ((n : ℚ) / d) = signedVal nb ((m : ℚ) / e) := by
    rw [← mul_left_inj' hde.ne', ← hx, ← hy, Int.cast_inj]
  rw [Bool.eq_iff_iff, decide_eq_true_eq, ← hlt, ← heq]
  simp [and_assoc]

theorem ltNum_of_hasValue {a b : XVal} {na nb : Bool} {p q : ℚ} (ha : HasValue a na p) (hb : HasValue b nb q) :
    a.ltNum b = decide (signedVal na p < signedVal nb q) := by
  have hlt := lt_of_hasValue ha hb
  obtain ⟨n, d, hd, rfl, rfl⟩ := ha
  obtain ⟨m, e, he, rfl, rfl⟩ := hb
  have hdq : (0 : ℚ) < d := by exact_mod_cast hd
  have heq : (0 : ℚ) < e := by exact_mod_cast he
  unfold XVal.ltNum
  split
  next h1 h2 =>
    cases h1
    cases h2
    have hz : ∀ (neg : Bool) (k : Nat), signedVal neg (((0 : Nat) : ℚ) / k) = 0 := fun neg k => by cases neg <;> simp [signedVal]
    rw [hz, hz]
    exact (decide_eq_false (lt_irrefl 0)).symm
  next hnz =>
    rw [hlt, decide_eq_decide]
    refine ⟨fun h => h.resolve_right ?_, .inl⟩
    rintro ⟨hv, rfl, rfl⟩
    have hp : (0 : ℚ) ≤ (n : ℚ) / d := by positivity
    have hq : (0 : ℚ) ≤ (m : ℚ) / e := by positivity
    have hv' : -((n : ℚ) / d) = m / e := hv
    have hn : (n : ℚ) / d = 0 := by linarith
    have hm : (m : ℚ) / e = 0 := by linarith
    rw [div_eq_zero_iff, or_iff_left hdq.ne', Nat.cast_eq_zero] at hn
    rw [div_eq_zero_iff, or_iff_left heq.ne', Nat.cast_eq_zero] at hm
    subst hn hm
    exact hnz _ _ _ _ rfl rfl

-- Directed rounding (R107).

section
variable {rm : Rm} {neg : Bool} {n d : Nat}

theorem fp32Value_code {r : Word32} {c : Nat} (hr : r.toNat = (if neg then 2 ^ 31 else 0) + c) :
    (c < 0x7F800000 → HasValue (fp32Value r) neg (floatMag 23 127 c)) ∧ (c = 0x7F800000 → fp32Value r = .inf neg) := by
  have hval : fp32Value r = ffp32.value (c + if neg then 2 ^ 31 else 0) := by rw [fp32Value, hr, Nat.add_comm]
  rw [hval]
  exact ⟨fun h => (value_signed ffp32 neg (h.trans (by decide))).1 h, fun h => (value_signed ffp32 neg (h ▸ by decide)).2.1 h⟩

theorem roundFp32_spec (hd : 0 < d) : ∃ c, Chooses (floatMag 23 127) rm neg (n / d) c ∧
    (roundFp32 rm (.fin neg n d)).toNat = (if neg then 2 ^ 31 else 0) +
      (if c < 0x7F800000 then c else if overflows rm neg then 0x7F800000 else 0x7F800000 - 1) := by
  rw [roundFp32_toNat]
  exact round_spec rm neg ffp32 hd

/-- Rounded toward zero, a magnitude grows no larger. -/
theorem roundFp32_toward (hd : 0 < d) (ho : overflows rm neg = false)
    (hc : ∀ c, Chooses (floatMag 23 127) rm neg (n / d) c → floatMag 23 127 c ≤ n / d) :
    ∃ p, HasValue (fp32Value (roundFp32 rm (.fin neg n d))) neg p ∧ p ≤ n / d := by
  obtain ⟨c, hch, hr⟩ := roundFp32_spec (rm := rm) (neg := neg) (n := n) hd
  have hle := hc c hch
  rcases Nat.lt_or_ge c 0x7F800000 with h | h
  · rw [if_pos h] at hr
    exact ⟨_, (fp32Value_code hr).1 h, hle⟩
  · rw [if_neg (Nat.not_lt.2 h), ho, if_neg Bool.false_ne_true] at hr
    have hlt : floatMag 23 127 (0x7F800000 - 1) < floatMag 23 127 c := floatMag_strictMono 23 127 (Nat.lt_of_lt_of_le (by decide) h)
    exact ⟨_, (fp32Value_code hr).1 (by decide), hlt.le.trans hle⟩

/-- Rounded away from zero, a magnitude grows no smaller. -/
theorem roundFp32_away (hd : 0 < d) (ho : overflows rm neg = true)
    (hc : ∀ c, Chooses (floatMag 23 127) rm neg (n / d) c → (n : ℚ) / d ≤ floatMag 23 127 c) :
    (∃ p, HasValue (fp32Value (roundFp32 rm (.fin neg n d))) neg p ∧ (n : ℚ) / d ≤ p) ∨
    fp32Value (roundFp32 rm (.fin neg n d)) = .inf neg := by
  obtain ⟨c, hch, hr⟩ := roundFp32_spec (rm := rm) (neg := neg) (n := n) hd
  rcases Nat.lt_or_ge c 0x7F800000 with h | h
  · rw [if_pos h] at hr
    exact .inl ⟨_, (fp32Value_code hr).1 h, hc c hch⟩
  · rw [if_neg (Nat.not_lt.2 h), ho, if_pos rfl] at hr
    exact .inr ((fp32Value_code hr).2 rfl)

theorem chooses_floor {mag : Nat → ℚ} {x : ℚ} {c : Nat} (h : Chooses mag rm neg x c)
    (hrm : rm = .rz ∨ rm = .ru ∧ neg = true ∨ rm = .rd ∧ neg = false) : mag c ≤ x := by
  obtain ⟨a, hlo, hhi, rfl⟩ := h
  split
  next h => exact h.le
  next => rcases hrm with rfl | ⟨rfl, rfl⟩ | ⟨rfl, rfl⟩ <;> exact hlo

theorem chooses_ceil {mag : Nat → ℚ} {x : ℚ} {c : Nat} (h : Chooses mag rm neg x c)
    (hrm : rm = .ru ∧ neg = false ∨ rm = .rd ∧ neg = true) : x ≤ mag c := by
  obtain ⟨a, hlo, hhi, rfl⟩ := h
  split
  next h => exact h.ge
  next => rcases hrm with ⟨rfl, rfl⟩ | ⟨rfl, rfl⟩ <;> exact hhi.le

end

/-- No number is below −∞. -/
theorem ltNum_minf (n d : Nat) : (XVal.fin true n d).ltNum (.inf true) = false := by cases n <;> rfl

theorem directedRounding_holds : DirectedRounding := by
  intro neg n d hd x
  have hx : HasValue x neg ((n : ℚ) / d) := hasValue_fin hd rfl
  have toward := fun (rm : Rm) (ho : overflows rm neg = false) hrm =>
    roundFp32_toward (rm := rm) (n := n) hd ho fun c hc => chooses_floor hc hrm
  have away := fun (rm : Rm) (ho : overflows rm neg = true) hrm =>
    roundFp32_away (rm := rm) (n := n) hd ho fun c hc => chooses_ceil hc hrm
  cases neg with
  | false =>
    refine ⟨?_, ?_, ?_⟩
    · rcases away .ru rfl (.inl ⟨rfl, rfl⟩) with ⟨p, hp, hle⟩ | hinf
      · exact (ltNum_of_hasValue hp hx).trans (decide_eq_false (not_lt.2 hle))
      · rw [hinf]
        rfl
    · obtain ⟨p, hp, hle⟩ := toward .rd rfl (.inr (.inr ⟨rfl, rfl⟩))
      exact (ltNum_of_hasValue hx hp).trans (decide_eq_false (not_lt.2 hle))
    · obtain ⟨p, hp, hle⟩ := toward .rz rfl (.inl rfl)
      exact (ltNum_of_hasValue hx hp).trans (decide_eq_false (not_lt.2 hle))
  | true =>
    refine ⟨?_, ?_, ?_⟩
    · obtain ⟨p, hp, hle⟩ := toward .ru rfl (.inr (.inl ⟨rfl, rfl⟩))
      exact (ltNum_of_hasValue hp hx).trans (decide_eq_false (not_lt.2 (neg_le_neg hle)))
    · rcases away .rd rfl (.inr ⟨rfl, rfl⟩) with ⟨p, hp, hle⟩ | hinf
      · exact (ltNum_of_hasValue hx hp).trans (decide_eq_false (not_lt.2 (neg_le_neg hle)))
      · rw [hinf]
        exact ltNum_minf n d
    · obtain ⟨p, hp, hle⟩ := toward .rz rfl (.inl rfl)
      exact (ltNum_of_hasValue hp hx).trans (decide_eq_false (not_lt.2 (neg_le_neg hle)))

end Sys2Proof.Machine

namespace Sys2Proof.Machine
open Sys2Proof.Claims

-- NaNs, magnitude and sign, and classes (R100, R272, R274).

theorem value_of_isNan {x : XVal} (h : x.isNan = true) : x = .nan := by
  cases x with
  | nan => rfl
  | inf neg => cases h
  | fin neg n d => cases h

theorem isNan_iff (u : Word32) : (fp32Value u).isNan = true ↔ 0x7F800000 < u.toNat % 2 ^ 31 := by
  obtain ⟨hfin, hinf, hnan⟩ := fp32Value_spec u
  rcases Nat.lt_trichotomy (u.toNat % 2 ^ 31) 0x7F800000 with h | h | h
  · obtain ⟨n, d, -, hv, -⟩ := hfin h
    rw [hv]
    exact iff_of_false Bool.false_ne_true (Nat.lt_asymm h)
  · rw [hinf h, h]
    exact iff_of_false Bool.false_ne_true (lt_irrefl _)
  · rw [hnan h]
    exact ⟨fun _ => h, fun _ => rfl⟩

theorem roundFp32_nan (rm : Rm) : roundFp32 rm .nan = canonNan := rfl

theorem add_nan_right (down : Bool) (x : XVal) : x.add down .nan = .nan := by cases x <;> rfl

theorem mul_nan_right (x : XVal) : x.mul .nan = .nan := by cases x <;> rfl

theorem fp32Min_number {u v : Word32} (hu : (fp32Value u).isNan = true) (hv : (fp32Value v).isNan = false) :
    fp32Min u v = v ∧ fp32Min v u = v ∧ fp32Max u v = v ∧ fp32Max v u = v := by
  simp [fp32Min, fp32Max, hu, hv]

theorem fp32_nan (rm : Rm) {u v : Word32} (hu : (fp32Value u).isNan = true) :
    fp32Add rm u v = canonNan ∧ fp32Add rm v u = canonNan ∧ fp32Mul rm u v = canonNan ∧ fp32Mul rm v u = canonNan ∧
    fp32Sub rm u v = canonNan ∧ fp32Abs u = canonNan ∧ fp32Neg u = canonNan := by
  have hn := value_of_isNan hu
  refine ⟨?_, ?_, ?_, ?_, ?_, if_pos hu, if_pos hu⟩
  · rw [fp32Add, hn]
    rfl
  · rw [fp32Add, hn, add_nan_right, roundFp32_nan]
  · rw [fp32Mul, hn]
    rfl
  · rw [fp32Mul, hn, mul_nan_right, roundFp32_nan]
  · rw [fp32Sub, hn]
    rfl

section
variable {u : Word32} (hu : (fp32Value u).isNan = false)

theorem xor_sign_low (u : Word32) : (u ^^^ 0x80000000).toNat % 2 ^ 31 = u.toNat % 2 ^ 31 := by
  rw [BitVec.toNat_xor, Nat.xor_mod_two_pow]
  exact Nat.xor_zero _

include hu in
theorem fp32Neg_of : fp32Neg u = u ^^^ 0x80000000 := if_neg (by rw [hu]; exact Bool.false_ne_true)

include hu in
theorem fp32Abs_of : fp32Abs u = u &&& 0x7FFFFFFF := if_neg (by rw [hu]; exact Bool.false_ne_true)

include hu in
theorem isNan_neg : (fp32Value (u ^^^ 0x80000000)).isNan = false := by
  rw [← Bool.not_eq_true, isNan_iff] at hu ⊢
  rwa [xor_sign_low]

include hu in
theorem fp32_sign : (fp32Abs u).toNat = u.toNat % 2 ^ 31 ∧ fp32Neg (fp32Neg u) = u ∧ (fp32Neg u).toNat % 2 ^ 31 = u.toNat % 2 ^ 31 ∧
    fp32Neg u ≠ u := by
  rw [fp32Abs_of hu, fp32Neg_of hu, fp32Neg_of (isNan_neg hu), xor_sign_low]
  refine ⟨?_, ?_, rfl, fun h => ?_⟩
  · rw [BitVec.toNat_and]
    exact Nat.and_two_pow_sub_one_eq_mod u.toNat 31
  · rw [BitVec.xor_assoc, BitVec.xor_self, BitVec.xor_zero]
  · have hz : (0x80000000 : Word32) = 0 := by
      have := congrArg (u ^^^ ·) h
      simpa [← BitVec.xor_assoc] using this
    exact absurd hz (by decide)

end

/-- The number of the class bit of a word (R274). -/
def classBit (neg : Bool) (e f : Nat) : Nat :=
  if e = 255 ∧ f ≠ 0 then (if f < 2 ^ 22 then 8 else 9)
  else
    let k := if e = 255 then 0 else if e = 0 then (if f = 0 then 3 else 2) else 1
    if neg then k else 7 - k

theorem bitAt_22 {f : Nat} (hf : f < 2 ^ 23) : f.bitAt 22 = !decide (f < 2 ^ 22) := by
  rcases Nat.lt_or_ge f (2 ^ 22) with h | h
  · rw [Nat.bitAt, Nat.div_eq_of_lt h, decide_eq_true h]
    rfl
  · have h1 : f / 2 ^ 22 = 1 := by omega
    rw [Nat.bitAt, h1, decide_eq_false (Nat.not_lt.2 h)]
    rfl

theorem fp32Class_eq (u : Word32) :
    fp32Class u = BitVec.ofNat 32 (2 ^ classBit (u.getLsbD 31) (u.toNat / 2 ^ 23 % 2 ^ 8) (u.toNat % 2 ^ 23)) := by
  have hf : u.toNat % 2 ^ 23 < 2 ^ 23 := Nat.mod_lt _ (by decide)
  unfold fp32Class
  dsimp only
  rw [field_low, fp32_bit, bitAt_22 hf]
  refine congrArg (fun k => BitVec.ofNat 32 (2 ^ k)) ?_
  rw [Nat.field]
  generalize u.toNat / 2 ^ 23 % 2 ^ 8 = e
  generalize u.toNat % 2 ^ 23 = f at hf ⊢
  unfold classBit
  by_cases he : e = 255
  · by_cases hz : f = 0
    · simp [he, hz]
    · rcases Nat.lt_or_ge f 4194304 with hq | hq
      · simp [he, hz, hq, Nat.not_le.2 hq]
      · simp [he, hz, hq, Nat.not_lt.2 hq]
  · by_cases h0 : e = 0
    · by_cases hz : f = 0 <;> cases u.getLsbD 31 <;> simp [h0, hz]
    · cases u.getLsbD 31 <;> simp [he, h0]

theorem classBit_facts (neg : Bool) (e f : Nat) : classBit neg e f < 10 ∧ (8 ≤ classBit neg e f ↔ e = 255 ∧ f ≠ 0) := by
  unfold classBit
  split
  next h => split <;> simp [h]
  next h =>
    refine ⟨?_, fun hc => absurd hc ?_, fun hc => absurd hc h⟩ <;> dsimp only <;> split_ifs <;> decide

theorem fp32Class_bit (u : Word32) : ∃ k, k < 10 ∧ fp32Class u = BitVec.ofNat 32 (2 ^ k) ∧ ((fp32Value u).isNan = true ↔ 8 ≤ k) := by
  obtain ⟨hlt, hnan⟩ := classBit_facts (u.getLsbD 31) (u.toNat / 2 ^ 23 % 2 ^ 8) (u.toNat % 2 ^ 23)
  refine ⟨_, hlt, fp32Class_eq u, ?_⟩
  rw [hnan, isNan_iff]
  omega

-- The operations (R271, R272, R274 to R277).

section
variable {s : State} {c : Issue} {bl : Block} {w : Warp} {g : Guard} {i : Instr} {lat : Nat} {d : VDst} {a b e : VSrc}
  (hi : Issuing s c bl w)
include hi

theorem gives1_of_v1 {k : Word32 → Word32} (ht : s.trapOf c bl w i = none) (he : exec i s = v1 s i g lat d a k) :
    Gives1 s i c d (takers c w g) lat (a.lanes (s.pitchOf bl w) c w) k := by
  refine ⟨_, vWrites_of_laneRes hi ht he rfl, fun l x hx => ?_⟩
  rw [List.getElem?_map, hx, Option.map_some]

theorem gives2_of_v2 {k : Word32 → Word32 → Word32} (ht : s.trapOf c bl w i = none) (he : exec i s = v2 s i g lat d a b k) :
    Gives2 s i c d (takers c w g) lat (a.lanes (s.pitchOf bl w) c w) (b.lanes (s.pitchOf bl w) c w) k := by
  refine ⟨_, vWrites_of_laneRes hi ht he rfl, fun l x y hx hy => ?_⟩
  rw [getElem?_zipWith_eq_bind, hx, hy]
  rfl

theorem gives3_of_v3 {k : Word32 → Word32 → Word32 → Word32} (ht : s.trapOf c bl w i = none) (he : exec i s = v3 s i g d a b e k) :
    Gives3 s i c d (takers c w g) 4 (a.lanes (s.pitchOf bl w) c w) (b.lanes (s.pitchOf bl w) c w) (e.lanes (s.pitchOf bl w) c w) k := by
  refine ⟨_, vWrites_of_laneRes hi ht he rfl, fun l x y z hx hy hz => ?_⟩
  simp only [List.zip_eq_zipWith, getElem?_zipWith_eq_bind, hx, hy, hz, Option.map_some, Option.bind_some]

end

theorem vectorFloat_holds : VectorFloat := by
  refine ⟨fun s c bl w g d a b e rm code hi => ?_, fun rm u v hu => ?_, fun u hu => fp32_sign hu, fp32Class_bit⟩
  · exact ⟨gives2_of_v2 hi rfl rfl, gives2_of_v2 hi rfl rfl, gives2_of_v2 hi rfl rfl, gives3_of_v3 hi rfl rfl, gives2_of_v2 hi rfl rfl,
      gives2_of_v2 hi rfl rfl, gives1_of_v1 hi rfl rfl, gives1_of_v1 hi rfl rfl, gives1_of_v1 hi rfl rfl, gives2_of_v2 hi rfl rfl,
      gives2_of_v2 hi rfl rfl, gives3_of_v3 hi rfl rfl, gives2_of_v2 hi rfl rfl⟩
  · obtain ⟨h1, h2, h3, h4, h5, h6, h7⟩ := fp32_nan rm (v := v) hu
    exact ⟨h1, h2, h3, h4, h5, h6, h7, fp32Min_number hu⟩

-- What the operations deliver (R101, R271 to R277).

theorem roundBf16_lt (rm : Rm) (x : XVal) : roundBf16 rm x < 2 ^ 16 := FF.round_lt (f := fbf16) (by decide) rm x

theorem bf16Pair_toNat (rm : Rm) (lo hi : XVal) : (bf16Pair rm lo hi).toNat = roundBf16 rm lo + 65536 * roundBf16 rm hi := by
  have h1 := roundBf16_lt rm lo
  have h2 := roundBf16_lt rm hi
  rw [bf16Pair, BitVec.toNat_ofNat]
  exact Nat.mod_eq_of_lt (by omega)

/-- A half of a register: the upper when `h`. -/
def halfOf (h : Bool) (x : Word32) : Nat := if h then x.toNat / 2 ^ 16 else x.toNat % 2 ^ 16

theorem halfOf_bf16Pair (rm : Rm) (lo hi : XVal) (h : Bool) : halfOf h (bf16Pair rm lo hi) = roundBf16 rm (if h then hi else lo) := by
  have h1 := roundBf16_lt rm lo
  rw [halfOf, bf16Pair_toNat]
  cases h with
  | false =>
    rw [if_neg Bool.false_ne_true, if_neg Bool.false_ne_true]
    omega
  | true =>
    rw [if_pos rfl, if_pos rfl]
    omega

theorem value_halfOf (h : Bool) (x : Word32) : (if h then bf16Hi x else bf16Lo x) = fbf16.value (halfOf h x) := by
  cases h with
  | false => exact congrArg fbf16.value (field_low x.toNat 16)
  | true =>
    have hx : x.toNat / 2 ^ 16 < 2 ^ 16 := by
      have := x.isLt
      omega
    exact congrArg fbf16.value (Nat.mod_eq_of_lt hx)

theorem bf16_halves (rm : Rm) (u v z : Word32) (h : Bool) :
    halfOf h (bf16Add rm u v) = roundBf16 rm ((fbf16.value (halfOf h u)).add (rm == .rd) (fbf16.value (halfOf h v))) ∧
    halfOf h (bf16Mul rm u v) = roundBf16 rm ((fbf16.value (halfOf h u)).mul (fbf16.value (halfOf h v))) ∧
    halfOf h (bf16Fma rm u v z) = roundBf16 rm (((fbf16.value (halfOf h u)).mul (fbf16.value (halfOf h v))).add (rm == .rd)
      (fbf16.value (halfOf h z))) := by
  rw [bf16Add, bf16Mul, bf16Fma, halfOf_bf16Pair, halfOf_bf16Pair, halfOf_bf16Pair, ← value_halfOf, ← value_halfOf, ← value_halfOf]
  cases h <;> exact ⟨rfl, rfl, rfl⟩

theorem ofNat_intBits (w : Nat) (i : Int) : BitVec.ofNat 32 (intBits w i) = (BitVec.ofInt w i).setWidth 32 := by
  rw [intBits_eq, BitVec.ofNat_toNat]

theorem ofNat_intBits_32 (i : Int) : BitVec.ofNat 32 (intBits 32 i) = BitVec.ofInt 32 i := by
  rw [ofNat_intBits, BitVec.setWidth_eq]

theorem toNat_ofNat_of_lt {n j : Nat} (hj : j ≤ 32) (h : n < 2 ^ j) : (BitVec.ofNat 32 n).toNat = n := by
  rw [BitVec.toNat_ofNat]
  exact Nat.mod_eq_of_lt (h.trans_le (Nat.pow_le_pow_right (by decide) hj))

theorem roundD8_lt (rm : Rm) (x : XVal) : roundD8 rm x < 2 ^ 8 := by
  cases x with
  | nan => exact (by decide : 0x80 < 2 ^ 8)
  | inf neg =>
    cases neg with
    | false => exact (by decide : 0x7F < 2 ^ 8)
    | true => exact (by decide : 0xFF < 2 ^ 8)
  | fin neg n d =>
    have hpick : ∀ c p, c < 127 → pickCode rm neg c p ≤ 127 := fun c p h => (pickCode_le rm neg c p).trans h
    have hcode : d8Code rm neg n d (d8Floor n d 127) ≤ 127 := by
      have hle : ∀ c, d8Floor n d c ≤ c := fun c => by
        induction c with
        | zero => exact le_rfl
        | succ c ih =>
          rw [d8Floor]
          split
          · exact le_rfl
          · exact ih.trans (Nat.le_succ c)
      unfold d8Code
      split
      · exact le_rfl
      next h => exact hpick _ _ (Nat.lt_of_le_of_ne (hle 127) h)
    rw [roundD8_eq]
    split
    · decide
    · split <;> omega

theorem roundE4m3_lt (rm : Rm) (x : XVal) : roundE4m3 rm x < 2 ^ 8 := by
  cases x with
  | nan => exact (by decide : 0x7F < 2 ^ 8)
  | inf neg => exact FF.signed_lt (f := fe4m3) (neg := neg) (by decide : 0x7E < 2 ^ 7)
  | fin neg n d => exact FF.signed_lt (f := fe4m3) (neg := neg) (Nat.lt_of_le_of_lt (Nat.min_le_right _ 0x7E) (by decide : 0x7E < 2 ^ 7))

theorem conversions (rm : Rm) (u v : Word32) :
    let x := fp32Value u
    let byte := u.toNat % 2 ^ 8
    convert 0 rm u v = roundFp32 rm (.ofInt u.toInt) ∧ convert 1 rm u v = roundFp32 rm (.ofInt u.toNat) ∧
    convert 2 rm u v = BitVec.ofInt 32 (roundInt rm (-2 ^ 31) (2 ^ 31 - 1) x) ∧
    convert 3 rm u v = BitVec.ofInt 32 (roundInt rm 0 (2 ^ 32 - 1) x) ∧
    (convert 4 rm u v).toNat = roundBf16 rm x ∧ convert 5 rm u v = roundFp32 rm (fbf16.value (u.toNat % 2 ^ 16)) ∧
    (convert 6 rm u v).toNat = roundD8 rm x ∧ convert 7 rm u v = roundFp32 rm (d8Value byte) ∧
    (convert 8 rm u v).toNat = roundE4m3 rm x ∧ convert 9 rm u v = roundFp32 rm (e4m3Value byte) ∧
    (convert 10 rm u v).toNat = roundE5m2 rm x ∧ convert 11 rm u v = roundFp32 rm (fe5m2.value byte) ∧
    convert 12 rm u v = (BitVec.ofInt 8 (roundInt rm (-128) 127 x)).setWidth 32 ∧
    convert 13 rm u v = (BitVec.ofInt 4 (roundInt rm (-8) 7 x)).setWidth 32 ∧
    (convert 14 rm u v).toNat % 2 ^ 16 = roundBf16 rm x ∧ (convert 14 rm u v).toNat / 2 ^ 16 = roundBf16 rm (fp32Value v) ∧
    convert 15 rm u v = (BitVec.ofInt 8 (max (-128) (min 127 u.toInt))).setWidth 32 := by
  have h8 : u.toNat.field 0 8 = u.toNat % 2 ^ 8 := field_low ..
  have h16 : u.toNat.field 0 16 = u.toNat % 2 ^ 16 := field_low ..
  refine ⟨rfl, rfl, ofNat_intBits_32 _, ofNat_intBits_32 _, toNat_ofNat_of_lt (by decide) (roundBf16_lt rm _),
    congrArg (fun k => roundFp32 rm (fbf16.value k)) h16, toNat_ofNat_of_lt (by decide) (roundD8_lt rm _),
    congrArg (fun k => roundFp32 rm (d8Value k)) h8, toNat_ofNat_of_lt (by decide) (roundE4m3_lt rm _),
    congrArg (fun k => roundFp32 rm (e4m3Value k)) h8,
    toNat_ofNat_of_lt (by decide) (FF.round_lt (f := fe5m2) (by decide) rm (fp32Value u)),
    congrArg (fun k => roundFp32 rm (fe5m2.value k)) h8, ofNat_intBits 8 _, ofNat_intBits 4 _,
    halfOf_bf16Pair rm _ _ false, halfOf_bf16Pair rm _ _ true, ofNat_intBits 8 _⟩

-- The order of words (R272, R273).

/-- `x` is a number of sign `neg` and magnitude `q` below `top`, or an infinity, which counts as `top`. -/
def Stands (top : ℚ) (x : XVal) (neg : Bool) (q : ℚ) : Prop := (HasValue x neg q ∧ q < top) ∨ (x = .inf neg ∧ q = top)

theorem signedVal_lt_top {top q : ℚ} {neg : Bool} (h0 : 0 ≤ q) (h : q < top) : -top < signedVal neg q ∧ signedVal neg q < top := by
  unfold signedVal
  split <;> constructor <;> linarith

section
variable {top p q : ℚ} {a b : XVal} {na nb : Bool} (ht : 0 < top)
include ht

/-- The order of what two words stand for: by value, and −0 below +0. -/
theorem lt_of_stands (ha : Stands top a na p) (hb : Stands top b nb q) :
    a.lt b = decide (signedVal na p < signedVal nb q ∨ signedVal na p = signedVal nb q ∧ na = true ∧ nb = false) := by
  rcases ha with ⟨ha, hp⟩ | ⟨rfl, rfl⟩
  · rcases hb with ⟨hb, hq⟩ | ⟨rfl, rfl⟩
    · exact lt_of_hasValue ha hb
    · obtain ⟨h1, h2⟩ := signedVal_lt_top (neg := na) (hasValue_nonneg ha) hp
      obtain ⟨n, d, -, rfl, -⟩ := ha
      cases nb with
      | false => exact (decide_eq_true (.inl h2)).symm
      | true =>
        refine (decide_eq_false ?_).symm
        rintro (h | ⟨-, -, h⟩)
        · exact lt_asymm h h1
        · cases h
  · rcases hb with ⟨hb, hq⟩ | ⟨rfl, rfl⟩
    · obtain ⟨h1, h2⟩ := signedVal_lt_top (neg := nb) (hasValue_nonneg hb) hq
      obtain ⟨m, e, -, rfl, -⟩ := hb
      cases na with
      | true => exact (decide_eq_true (.inl h1)).symm
      | false =>
        refine (decide_eq_false ?_).symm
        rintro (h | ⟨-, h, -⟩)
        · exact lt_asymm h h2
        · cases h
    · have hneg : -q < q := by linarith
      cases na <;> cases nb <;> simp [XVal.lt, signedVal, hneg, ht.le]

theorem ltNum_of_stands (ha : Stands top a na p) (hb : Stands top b nb q) :
    a.ltNum b = decide (signedVal na p < signedVal nb q) := by
  have hlt := lt_of_stands ht ha hb
  have hne : signedVal na p ≠ signedVal nb q ∨ na = nb → a.ltNum b = a.lt b → a.ltNum b = decide (signedVal na p < signedVal nb q) := by
    rintro h h'
    rw [h', hlt, decide_eq_decide]
    refine ⟨fun hc => hc.resolve_right ?_, .inl⟩
    rintro ⟨hv, rfl, rfl⟩
    rcases h with h | h
    · exact h hv
    · cases h
  rcases ha with ⟨ha, hp⟩ | ⟨rfl, rfl⟩
  · rcases hb with ⟨hb, hq⟩ | ⟨rfl, rfl⟩
    · exact ltNum_of_hasValue ha hb
    · obtain ⟨h1, h2⟩ := signedVal_lt_top (neg := na) (hasValue_nonneg ha) hp
      refine hne (.inl ?_) ?_
      · cases nb with
        | false => exact h2.ne
        | true => exact h1.ne'
      · obtain ⟨n, d, -, rfl, -⟩ := ha
        cases n <;> rfl
  · refine hne ?_ rfl
    rcases hb with ⟨hb, hq⟩ | ⟨rfl, rfl⟩
    · left
      obtain ⟨h1, h2⟩ := signedVal_lt_top (neg := nb) (hasValue_nonneg hb) hq
      cases na with
      | false => exact h2.ne'
      | true => exact h1.ne
    · have hneg : -q < q := by linarith
      cases na <;> cases nb <;> simp [signedVal, hneg.ne, hneg.ne']

end

/-- What a word that is no NaN stands for. -/
theorem stands_fp32 {u : Word32} (hu : (fp32Value u).isNan = false) :
    Stands (floatMag 23 127 0x7F800000) (fp32Value u) (u.getLsbD 31) (floatMag 23 127 (u.toNat % 2 ^ 31)) := by
  obtain ⟨hfin, hinf, -⟩ := fp32Value_spec u
  have hle : u.toNat % 2 ^ 31 ≤ 0x7F800000 := by
    rw [← Bool.not_eq_true, isNan_iff] at hu
    exact Nat.not_lt.1 hu
  rcases Nat.lt_or_eq_of_le hle with h | h
  · exact .inl ⟨hfin h, floatMag_strictMono 23 127 h⟩
  · exact .inr ⟨hinf h, by rw [h]⟩

theorem floatMag_top : 0 < floatMag 23 127 0x7F800000 := by
  have h := floatMag_strictMono 23 127 (show 0 < 0x7F800000 by decide)
  rwa [floatMag_zero] at h

theorem word_low {u : Word32} (h : u.getLsbD 31 = false) : u.toNat % 2 ^ 31 = u.toNat := by
  have hcode := code_eq_signed (x := u.toNat) (j := 31) u.isLt
  rw [fp32_bit, h, if_neg Bool.false_ne_true, Nat.zero_add] at hcode
  exact hcode

/-- The key of a sign and a magnitude code: −0 equal to +0. -/
def signedKey (neg : Bool) (c : Nat) : Int := if neg then -(c : Int) else c

theorem valueKey_eq (u : Word32) : valueKey u = signedKey (u.getLsbD 31) (u.toNat % 2 ^ 31) := by
  unfold valueKey signedKey
  split
  · rfl
  next h => rw [word_low (by simpa using h)]

theorem numberKey_eq (u : Word32) : numberKey u = signedKey (u.getLsbD 31) (u.toNat % 2 ^ 31) - if u.getLsbD 31 then 1 else 0 := by
  unfold numberKey signedKey
  split
  · rfl
  next h => rw [word_low (by simpa using h), sub_zero]

/-- Signed magnitudes are ordered as their signed codes. -/
theorem signedVal_lt_iff {mag : Nat → ℚ} (hm : StrictMono mag) (h0 : mag 0 = 0) (na nb : Bool) (c k : Nat) :
    signedVal na (mag c) < signedVal nb (mag k) ↔ signedKey na c < signedKey nb k := by
  have hpos : ∀ j, 0 ≤ mag j := fun j => h0 ▸ hm.monotone (Nat.zero_le j)
  have hzero : ∀ j, 0 < mag j ↔ 0 < j := fun j => by rw [← h0, hm.lt_iff_lt]
  have hc := hpos c
  have hk := hpos k
  unfold signedVal signedKey
  cases na <;> cases nb
  · simp only [Bool.false_eq_true, if_false, hm.lt_iff_lt, Nat.cast_lt]
  · simp only [Bool.false_eq_true, if_false, if_true]
    refine iff_of_false (not_lt.2 ?_) (not_lt.2 ?_)
    · linarith
    · omega
  · simp only [Bool.false_eq_true, if_false, if_true]
    have h : -mag c < mag k ↔ 0 < mag c ∨ 0 < mag k := by
      constructor
      · intro h
        by_contra hcon
        push Not at hcon
        linarith [hcon.1, hcon.2]
      · rintro (h | h) <;> linarith
    rw [h, hzero, hzero]
    omega
  · simp only [if_true, neg_lt_neg_iff, hm.lt_iff_lt, Nat.cast_lt]

theorem signedVal_eq_iff {mag : Nat → ℚ} (hm : StrictMono mag) (h0 : mag 0 = 0) (na nb : Bool) (c k : Nat) :
    signedVal na (mag c) = signedVal nb (mag k) ↔ signedKey na c = signedKey nb k := by
  have h1 := signedVal_lt_iff hm h0 na nb c k
  have h2 := signedVal_lt_iff hm h0 nb na k c
  constructor
  · intro h
    exact le_antisymm (not_lt.1 fun hc => (h2.2 hc).ne' h) (not_lt.1 fun hc => (h1.2 hc).ne h)
  · intro h
    exact le_antisymm (not_lt.1 fun hc => (h2.1 hc).ne' h) (not_lt.1 fun hc => (h1.1 hc).ne h)

section
variable {u v : Word32} (hu : (fp32Value u).isNan = false) (hv : (fp32Value v).isNan = false)
include hu hv

theorem ltNum_fp32 : (fp32Value u).ltNum (fp32Value v) = decide (valueKey u < valueKey v) := by
  rw [ltNum_of_stands floatMag_top (stands_fp32 hu) (stands_fp32 hv), decide_eq_decide, valueKey_eq, valueKey_eq]
  exact signedVal_lt_iff (floatMag_strictMono 23 127) (floatMag_zero 23 127) ..

theorem lt_fp32 : (fp32Value u).lt (fp32Value v) = decide (numberKey u < numberKey v) := by
  rw [lt_of_stands floatMag_top (stands_fp32 hu) (stands_fp32 hv), decide_eq_decide,
    signedVal_lt_iff (floatMag_strictMono 23 127) (floatMag_zero 23 127),
    signedVal_eq_iff (floatMag_strictMono 23 127) (floatMag_zero 23 127), numberKey_eq, numberKey_eq]
  generalize u.toNat % 2 ^ 31 = c
  generalize v.toNat % 2 ^ 31 = k
  cases u.getLsbD 31 <;> cases v.getLsbD 31 <;> 
    simp only [signedKey, Bool.false_eq_true, Bool.true_eq_false, if_false, if_true, and_true, and_false, false_and, or_false] <;> omega

theorem fp32_order :
    fp32Min u v = (if numberKey v < numberKey u then v else u) ∧ fp32Max u v = (if numberKey u < numberKey v then v else u) ∧
    ccFp .un u v = false ∧ ccFp .eq u v = decide (valueKey u = valueKey v) ∧ ccFp .ne u v = decide (valueKey u ≠ valueKey v) ∧
    ccFp .lt u v = decide (valueKey u < valueKey v) ∧ ccFp .le u v = decide (valueKey u ≤ valueKey v) ∧
    ccFp .gt u v = decide (valueKey v < valueKey u) ∧ ccFp .ge u v = decide (valueKey v ≤ valueKey u) := by
  have h1 := ltNum_fp32 hu hv
  have h2 := ltNum_fp32 hv hu
  refine ⟨?_, ?_, ?_, ?_, ?_, ?_, ?_, ?_, ?_⟩
  · simp [fp32Min, hu, hv, lt_fp32 hv hu]
  · simp [fp32Max, hu, hv, lt_fp32 hu hv]
  · simp [ccFp, hu, hv]
  · rw [Bool.eq_iff_iff]
    simp only [ccFp, hu, hv, h1, h2, Bool.or_self, Bool.not_false, Bool.true_and, Bool.and_eq_true, Bool.not_eq_true',
      decide_eq_false_iff_not, decide_eq_true_eq]
    omega
  · rw [Bool.eq_iff_iff]
    simp only [ccFp, hu, hv, h1, h2, Bool.or_self, Bool.false_or, Bool.or_eq_true, decide_eq_true_eq]
    omega
  · simp [ccFp, hu, hv, h1]
  · rw [Bool.eq_iff_iff]
    simp [ccFp, hu, hv, h2]
  · simp [ccFp, hu, hv, h2]
  · rw [Bool.eq_iff_iff]
    simp [ccFp, hu, hv, h1]

end

theorem floatValues_holds : FloatValues :=
  ⟨fun rm u v z => ⟨rfl, rfl, rfl, rfl, bf16_halves rm u v z⟩, conversions, fun _ _ hu hv => fp32_order hu hv,
    fun _ _ hu hv => by simp [fp32Min, fp32Max, hu, hv], fp32Class_eq⟩

/-- Settles O20: a rounded value is that of the code its mode chooses, which for a value a format holds is that code and for the directed
modes lies on their side of it; words are ordered as their signs and codes are. -/
theorem vectorFloats : Obligations.VectorFloats :=
  ⟨vectorFloat_holds, floatValues_holds, roundingKeepsExactValues_holds, directedRounding_holds⟩

end Sys2Proof.Machine

end
